-- ==== Sys2Proof/Word.lean ====
section
/-! DEFINITION. The word types of the Zilrak (R5) and the two plain containers the state is made of. -/

namespace Sys2Proof

/-- One byte of memory (R5). -/
abbrev Byte := BitVec 8

/-- One 16-bit element: bf16, h16 or a packed 16-bit integer (R175, R178). -/
abbrev Half := BitVec 16

/-- One lane register (R153). -/
abbrev Word := BitVec 32

/-- One scalar register, one operation word, one address (R9, R195). -/
abbrev DWord := BitVec 64

/-- Sparse data by key: keys strictly rising, no entry equal to what an absent key reads as.
The operations stand in Machine/Sparse.lean. -/
abbrev Sparse (α : Type) := List (Nat × α)

/-- Byte `k` of a word of any width, little-endian (R5). -/
def byteOf {w : Nat} (x : BitVec w) (k : Nat) : Byte := x.extractLsb' (8 * k) 8

/-- The number that the bytes of a list stand for, lowest address first (R5). -/
def leNat : List Byte → Nat
  | [] => 0
  | b :: bs => b.toNat + 256 * leNat bs

/-- The lowest `n` bytes of a number, lowest address first (R5). -/
def leBytes : Nat → Nat → List Byte
  | 0, _ => []
  | n + 1, x => BitVec.ofNat 8 x :: leBytes n (x / 256)

end Sys2Proof
end

