-- ==== Sys2Proof/Syntax.lean ====
section
/-! DEFINITION. The syntax of the Zilrak: operand specifiers, types, the operation formats of R203 to R208,
and Instr, one constructor per row of spec/opcode_table.json. A row is one whole step of the device: an
operation of a bundle, or an event. -/

namespace Sys2Proof

/-- An 8-bit register specifier (R211). `reserved n` is the code 0x80 + n, which no operation accepts. -/
inductive Spec where
  | v (n : BitVec 6)
  | s (n : BitVec 5)
  | q (n : BitVec 3)
  | x (n : BitVec 3)
  | zero
  | lane
  | const (c : BitVec 4)
  | reserved (n : BitVec 7)
  deriving DecidableEq, Repr

/-- The assigned type codes of the TY field (R213). -/
inductive Ty where
  | b32 | i32 | n32 | f32 | bf16x2 | h16x2 | i16x2 | n16x2
  | i8x4 | n8x4 | e4m3x4 | e5m2x4 | i4x8 | n4x8 | k4x8 | k6x4
  | i64 | n64 | b64
  deriving DecidableEq, Repr

/-- The seven types of the TA field of an atomic (R207). -/
inductive AtomTy where
  | i32 | n32 | f32 | b32 | i64 | n64 | b64
  deriving DecidableEq, Repr

/-- The scopes of R114. -/
inductive Scope where
  | slice | grp | core | clu | die | pkg | dom | sys
  deriving DecidableEq, Repr

/-- The order of an atomic (R124, R207). -/
inductive Ord where
  | none | acq | rel | ar
  deriving DecidableEq, Repr

/-- The base of a memory address (R206). `reserved n` is a code no access accepts. -/
inductive Base where
  | s (n : BitVec 5)
  | x (n : BitVec 3)
  | none
  | sp
  | pair
  | reserved (n : BitVec 6)
  deriving DecidableEq, Repr

/-- Where an operation stands: a slot of a SIMT bundle (R199), a unit slot (0 control, 1 scalar A, 2 scalar B,
3 memory) or a lane slot of a VLIW bundle (R200), a slot of a glen bundle (R76). -/
inductive Slot where
  | simt (k : BitVec 3)
  | unit (k : BitVec 2)
  | lane (c : BitVec 5)
  | glen (k : BitVec 3)
  deriving DecidableEq, Repr

/-- The slot and the VLIW stage field STG (R209) of an operation. -/
structure Site where
  slot : Slot
  stg : BitVec 2
  deriving DecidableEq, Repr

/-- Format R (R203). -/
structure ROp where
  at' : Site
  ty : Ty
  d : Spec
  a : Spec
  b : Spec
  c : Spec
  fa : Bool
  fb : Bool
  fc : Bool
  mod : BitVec 14
  deriving DecidableEq, Repr

/-- Format I (R204). -/
structure IOp where
  at' : Site
  ty : Ty
  d : Spec
  a : Spec
  imm : BitVec 20
  fa : Bool
  mod : BitVec 12
  deriving DecidableEq, Repr

/-- Format B (R205). -/
structure BOp where
  at' : Site
  form : BitVec 2
  c : Spec
  fc : Bool
  mod : BitVec 8
  off : BitVec 32
  deriving DecidableEq, Repr

/-- Format M (R206). D and IDX are the 7-bit specifiers 0x00 to 0x7F. -/
structure MOp where
  at' : Site
  sz : BitVec 3
  scp : Scope
  d : Spec
  base : Base
  idx : Spec
  pol : BitVec 4
  tag : BitVec 8
  off : BitVec 16
  deriving DecidableEq, Repr

/-- Format A (R207). -/
structure AOp where
  at' : Site
  aop : BitVec 4
  ord : Ord
  scp : Scope
  d : Spec
  a : Spec
  b : Spec
  ta : AtomTy
  base : Base
  idx : Spec
  tag : BitVec 8
  deriving DecidableEq, Repr

/-- Format E (R208): word 0 as in format R, and the opcode's own second word. -/
structure EOp where
  at' : Site
  ty : Ty
  d : Spec
  a : Spec
  b : Spec
  c : Spec
  fa : Bool
  fb : Bool
  fc : Bool
  mod : BitVec 14
  ext : BitVec 64
  deriving DecidableEq, Repr

/-- A group slot: core 0 to 639 of the package, bank 0 (A) or 1 (B), slot 0 to 15 (R144). -/
structure GroupAt where
  core : Nat
  bank : Nat
  slot : Nat
  deriving DecidableEq, Repr

/-- A gang, named by its group slot and its lowest slice (R146). -/
structure GangAt where
  core : Nat
  bank : Nat
  slot : Nat
  slice : Nat
  deriving DecidableEq, Repr

/-- Who issues bundles: a gang of a core (the Ibien agent is the gang of bank 0, slot 15), or a glen core. -/
inductive Who where
  | gang (g : GangAt)
  | glen (n : Nat)
  deriving DecidableEq, Repr

/-- The kinds of access of R36. -/
inductive AccessKind where
  | read | write | atomic | fetch | engineRead | engineWrite
  deriving DecidableEq, Repr

/-- What a host's ATS completion grants (R22): the host address and size in bytes of the range, or an
untranslated-only mark. -/
structure AtsGrant where
  rd : Bool
  wr : Bool
  addr : Nat
  size : Nat
  untranslated : Bool
  deriving DecidableEq, Repr

/-- The host's page request response (R22). -/
inductive PageResponse where
  | success | invalidRequest | responseFailure
  deriving DecidableEq, Repr

/-- A structure that acknowledges a shootdown (R30): a core, a cluster, a die with its L3 banks, walkers, copy and per-die
engines, a glen core. -/
inductive AckUnit where
  | core (n : Nat) | cluster (n : Nat) | die (n : Nat) | glen (n : Nat)
  deriving DecidableEq, Repr

/-- The scope of a shootdown (R29). -/
inductive ShootScope where
  | range (cid : Nat) (va : DWord) (pages : Nat)
  | context (cid : Nat)
  | all
  deriving DecidableEq, Repr

/-- The arguments of request 0x01 (R329). `reserved` stands for the bytes that must be zero. -/
structure QueueReq where
  ring : DWord
  ridx : DWord
  cid : Nat
  log2n : Nat
  prio : Nat
  die : Nat
  evq : Nat
  reserved : Nat
  deriving DecidableEq, Repr

/-- The arguments of request 0x04 (R376). -/
structure EventQueueReq where
  base : Nat
  log2n : Nat
  index : Nat
  vector : Nat
  deriving DecidableEq, Repr

/-- The arguments of request 0x07 (R348). A limit of 0 stands for the default. -/
structure DrainReq where
  cid : Nat
  area : DWord
  size : Nat
  limit : Nat
  deriving DecidableEq, Repr

/-- The descriptor of request 0x09 (R326). -/
structure BfqReq where
  stab : DWord
  nslot : Nat
  rl : Nat
  cid : Nat
  cap : Nat
  drops : DWord
  reserved : Nat
  deriving DecidableEq, Repr

/-- One entry of the partition table of request 0x0E (R378). -/
structure PartEntry where
  clusters : BitVec 128
  stackMask : BitVec 16
  ranges : List (BitVec 32)
  reserved : Nat
  deriving DecidableEq, Repr

/-- The record that request 0x0F answers (R375). -/
structure RecordName where
  die : Nat
  unit : Nat
  seq : Nat
  deriving DecidableEq, Repr

/-- Where a soft error is found (R72). -/
inductive EccPlace where
  | laneReg (g : GroupAt) (reg lane : Nat)
  | scalarReg (g : GroupAt) (n : Nat)
  | scratch (core word : Nat)
  | tile (core element : Nat)
  | l1 (core line : Nat)
  | icache (core line : Nat)
  | l2 (granule : Nat)
  | hbm (granule : Nat)
  deriving DecidableEq, Repr

/-- The steps of the device: one constructor per row of spec/opcode_table.json, in the table's order. The
operations of a bundle carry their format's fields; the events carry the place they happen at. -/
inductive Instr where
  /-- NOP (R199). -/
  | nop (o : Site)
  /-- EMPTY_BUNDLE (R198). -/
  | emptyBundle (w : Who)
  /-- BRA (R230). -/
  | bra (o : BOp)
  /-- BRX (R231). -/
  | brx (o : ROp)
  /-- CALL (R232). -/
  | call (o : BOp)
  /-- CALLX (R232). -/
  | callx (o : ROp)
  /-- RET (R232). -/
  | ret (o : ROp)
  /-- IF (R151). -/
  | ifC (o : ROp)
  /-- ELSE (R151). -/
  | elseC (o : ROp)
  /-- ENDIF (R151). -/
  | endif (o : ROp)
  /-- LOOP (R151). -/
  | loop (o : BOp)
  /-- ENDLOOP (R151). -/
  | endloop (o : ROp)
  /-- BRK (R151). -/
  | brk (o : ROp)
  /-- CONT (R151). -/
  | cont (o : ROp)
  /-- REGANG (R235). -/
  | regang (o : ROp)
  /-- REGANG_RENDEZVOUS (R147). -/
  | regangRendezvous (g : GroupAt)
  /-- EXIT (R235). -/
  | exit (o : ROp)
  /-- MODE (R236). -/
  | mode (o : BOp)
  /-- MODE_SWITCH (R159). -/
  | modeSwitch (g : GroupAt)
  /-- PRFI (R237). -/
  | prfi (o : BOp)
  /-- SPAWN (R238). -/
  | spawn (o : ROp)
  /-- ELECT (R239). -/
  | elect (o : ROp)
  /-- TRAP (R252). -/
  | trap (o : IOp)
  /-- BRKP (R252). -/
  | brkp (o : IOp)
  /-- SYSC (R252). -/
  | sysc (o : IOp)
  /-- RDSR (R249). -/
  | rdsr (o : IOp)
  /-- WRSR (R249). -/
  | wrsr (o : IOp)
  /-- RDTIME (R251). -/
  | rdtime (o : ROp)
  /-- ERET (R253). -/
  | eret (o : ROp)
  /-- HALT (R253). -/
  | halt (o : ROp)
  /-- EVENT_TAKE (R253). -/
  | eventTake (core : Nat)
  /-- TLBI_RNG (R254). -/
  | tlbiRng (o : ROp)
  /-- TLBI_CTX (R254). -/
  | tlbiCtx (o : ROp)
  /-- TLBI_ALL (R254). -/
  | tlbiAll (o : ROp)
  /-- TLBI_SYNC (R254). -/
  | tlbiSync (o : ROp)
  /-- CTXSAVE (R255). -/
  | ctxsave (o : ROp)
  /-- CTXLOAD (R256). -/
  | ctxload (o : ROp)
  /-- ADD (R241). -/
  | add (o : ROp)
  /-- SUB (R241). -/
  | sub (o : ROp)
  /-- ADDC (R242). -/
  | addc (o : ROp)
  /-- SUBC (R242). -/
  | subc (o : ROp)
  /-- MUL (R241). -/
  | mul (o : ROp)
  /-- MULH (R241). -/
  | mulh (o : ROp)
  /-- MAD (R241). -/
  | mad (o : ROp)
  /-- DIV (R243). -/
  | div (o : ROp)
  /-- REM (R243). -/
  | rem (o : ROp)
  /-- MIN (R241). -/
  | min (o : ROp)
  /-- MAX (R241). -/
  | max (o : ROp)
  /-- ABS (R241). -/
  | abs (o : ROp)
  /-- NEG (R241). -/
  | neg (o : ROp)
  /-- AND (R244). -/
  | and (o : ROp)
  /-- OR (R244). -/
  | or (o : ROp)
  /-- XOR (R244). -/
  | xor (o : ROp)
  /-- ANDN (R244). -/
  | andn (o : ROp)
  /-- NOT (R244). -/
  | not (o : ROp)
  /-- SHL (R244). -/
  | shl (o : ROp)
  /-- SHR (R244). -/
  | shr (o : ROp)
  /-- SAR (R244). -/
  | sar (o : ROp)
  /-- ROT (R244). -/
  | rot (o : ROp)
  /-- BFX (R245). -/
  | bfx (o : ROp)
  /-- BFI (R245). -/
  | bfi (o : ROp)
  /-- POPC (R245). -/
  | popc (o : ROp)
  /-- CLZ (R245). -/
  | clz (o : ROp)
  /-- BREV (R245). -/
  | brev (o : ROp)
  /-- SEL (R246). -/
  | sel (o : ROp)
  /-- CMP (R246). -/
  | cmp (o : ROp)
  /-- MOV (R247). -/
  | mov (o : ROp)
  /-- MOVI (R247). -/
  | movi (o : IOp)
  /-- MOVW (R247). -/
  | movw (o : IOp)
  /-- ADD_IMM (R248). -/
  | addImm (o : IOp)
  /-- MUL_IMM (R248). -/
  | mulImm (o : IOp)
  /-- AND_IMM (R248). -/
  | andImm (o : IOp)
  /-- OR_IMM (R248). -/
  | orImm (o : IOp)
  /-- XOR_IMM (R248). -/
  | xorImm (o : IOp)
  /-- SHL_IMM (R248). -/
  | shlImm (o : IOp)
  /-- SHR_IMM (R248). -/
  | shrImm (o : IOp)
  /-- SAR_IMM (R248). -/
  | sarImm (o : IOp)
  /-- CMP_IMM (R248). -/
  | cmpImm (o : IOp)
  /-- MIN_IMM (R248). -/
  | minImm (o : IOp)
  /-- MAX_IMM (R248). -/
  | maxImm (o : IOp)
  /-- FADD (R260). -/
  | fadd (o : ROp)
  /-- FSUB (R260). -/
  | fsub (o : ROp)
  /-- FMUL (R260). -/
  | fmul (o : ROp)
  /-- FMA (R260). -/
  | fma (o : ROp)
  /-- FDIV (R260). -/
  | fdiv (o : ROp)
  /-- FMIN (R186). -/
  | fmin (o : ROp)
  /-- FMAX (R186). -/
  | fmax (o : ROp)
  /-- FCMP (R261). -/
  | fcmp (o : ROp)
  /-- FCLASS (R261). -/
  | fclass (o : ROp)
  /-- FRND (R260). -/
  | frnd (o : ROp)
  /-- RCP (R262). -/
  | rcp (o : ROp)
  /-- RSQ (R262). -/
  | rsq (o : ROp)
  /-- SQRT (R262). -/
  | sqrt (o : ROp)
  /-- EXP2 (R262). -/
  | exp2 (o : ROp)
  /-- LOG2 (R262). -/
  | log2 (o : ROp)
  /-- SIN (R262). -/
  | sin (o : ROp)
  /-- COS (R262). -/
  | cos (o : ROp)
  /-- TANH (R262). -/
  | tanh (o : ROp)
  /-- CVT (R263). -/
  | cvt (o : ROp)
  /-- PACK (R264). -/
  | pack (o : ROp)
  /-- UNPACK (R264). -/
  | unpack (o : ROp)
  /-- FMT (R265). -/
  | fmt (o : IOp)
  /-- FMTRD (R266). -/
  | fmtrd (o : ROp)
  /-- DOT4 (R269). -/
  | dot4 (o : ROp)
  /-- DOT8 (R269). -/
  | dot8 (o : ROp)
  /-- DOTF (R270). -/
  | dotf (o : ROp)
  /-- CBSET (R267). -/
  | cbset (o : ROp)
  /-- CBENC (R268). -/
  | cbenc (o : ROp)
  /-- CBDEC (R268). -/
  | cbdec (o : ROp)
  /-- SHFL (R271). -/
  | shfl (o : ROp)
  /-- BCAST (R271). -/
  | bcast (o : ROp)
  /-- VOTE (R272). -/
  | vote (o : ROp)
  /-- REDUX (R273). -/
  | redux (o : ROp)
  /-- PSEND (R274). -/
  | psend (o : ROp)
  /-- PTAKE (R274). -/
  | ptake (o : ROp)
  /-- RNG (R275). -/
  | rng (o : ROp)
  /-- RNGF (R275). -/
  | rngf (o : ROp)
  /-- RSPLIT (R276). -/
  | rsplit (o : ROp)
  /-- RNGRD (R277). -/
  | rngrd (o : ROp)
  /-- RNGWR (R277). -/
  | rngwr (o : ROp)
  /-- LD_G (R280). -/
  | ldG (o : MOp)
  /-- LD_G_ACQ (R280). -/
  | ldGAcq (o : MOp)
  /-- LD_S (R280). -/
  | ldS (o : MOp)
  /-- LD_S_ACQ (R280). -/
  | ldSAcq (o : MOp)
  /-- LD_L (R280). -/
  | ldL (o : MOp)
  /-- LD_L_ACQ (R280). -/
  | ldLAcq (o : MOp)
  /-- ST_G (R280). -/
  | stG (o : MOp)
  /-- ST_G_REL (R280). -/
  | stGRel (o : MOp)
  /-- ST_G_NT (R280). -/
  | stGNt (o : MOp)
  /-- ST_S (R280). -/
  | stS (o : MOp)
  /-- ST_S_REL (R280). -/
  | stSRel (o : MOp)
  /-- ST_L (R280). -/
  | stL (o : MOp)
  /-- ST_L_REL (R280). -/
  | stLRel (o : MOp)
  /-- ST_L_NT (R280). -/
  | stLNt (o : MOp)
  /-- LDX_G (R288). -/
  | ldxG (o : MOp)
  /-- LDX_S (R288). -/
  | ldxS (o : MOp)
  /-- LDX_L (R288). -/
  | ldxL (o : MOp)
  /-- ATOM_G (R290). -/
  | atomG (o : AOp)
  /-- ATOM_S (R290). -/
  | atomS (o : AOp)
  /-- CAS_G (R290). -/
  | casG (o : AOp)
  /-- CAS_S (R290). -/
  | casS (o : AOp)
  /-- FENCE (R292). -/
  | fence (o : ROp)
  /-- FENCE_COMPLETE (R294). -/
  | fenceComplete (g : GangAt)
  /-- DRAIN (R293). -/
  | drain (o : ROp)
  /-- PREF (R295). -/
  | pref (o : MOp)
  /-- TRX (R296). -/
  | trx (o : ROp)
  /-- XPAT (R286). -/
  | xpat (o : IOp)
  /-- STMAP (R297). -/
  | stmap (o : ROp)
  /-- STFLUSH (R298). -/
  | stflush (o : ROp)
  /-- STUNMAP (R298). -/
  | stunmap (o : ROp)
  /-- QBIND (R300). -/
  | qbind (o : ROp)
  /-- QFREE (R300). -/
  | qfree (o : ROp)
  /-- CPY (R310). -/
  | cpy (o : EOp)
  /-- CPYM (R311). -/
  | cpym (o : EOp)
  /-- RINGCFG (R312). -/
  | ringcfg (o : EOp)
  /-- RINGCFG_RSV (R312). -/
  | ringcfgRsv (o : EOp)
  /-- RINGCFG_CMT (R312). -/
  | ringcfgCmt (o : EOp)
  /-- RINGCFG_TAKE (R312). -/
  | ringcfgTake (o : EOp)
  /-- RINGCFG_POP (R312). -/
  | ringcfgPop (o : EOp)
  /-- RINGCFG_HND (R312). -/
  | ringcfgHnd (o : EOp)
  /-- RING_RECONFIGURE (R46). -/
  | ringReconfigure (core ring : Nat)
  /-- MMA (R313). -/
  | mma (o : EOp)
  /-- MMAS (R315). -/
  | mmas (o : EOp)
  /-- ACCFLG (R317). -/
  | accflg (o : ROp)
  /-- ACCCLR (R317). -/
  | accclr (o : ROp)
  /-- ATTN (R320). -/
  | attn (o : EOp)
  /-- MASSFOLD (R102). -/
  | massfold (o : ROp)
  /-- KVTRUNC (R103). -/
  | kvtrunc (o : ROp)
  /-- EVICT (R105). -/
  | evict (o : EOp)
  /-- COLL (R324). -/
  | coll (o : EOp)
  /-- WAITF (R304). -/
  | waitf (o : ROp)
  /-- WAITF_WAKE (R304). -/
  | waitfWake (w : Who)
  /-- SETF (R306). -/
  | setf (o : ROp)
  /-- ADDF (R306). -/
  | addf (o : ROp)
  /-- SETF_REM (R306). -/
  | setfRem (o : ROp)
  /-- ADDF_REM (R306). -/
  | addfRem (o : ROp)
  /-- SETF_HND (R306). -/
  | setfHnd (o : ROp)
  /-- BFQPOST (R327). -/
  | bfqpost (o : EOp)
  /-- BFQTAKE (R327). -/
  | bfqtake (o : EOp)
  /-- BFQTAKE_TIMEOUT (R327). -/
  | bfqtakeTimeout (core cmd : Nat)
  /-- BFQDONE (R327). -/
  | bfqdone (o : ROp)
  /-- GTH (R81). -/
  | gth (o : EOp)
  /-- DEDUP (R80). -/
  | dedup (o : ROp)
  /-- POOL (R82). -/
  | pool (o : EOp)
  /-- UNZ (R88). -/
  | unz (o : EOp)
  /-- HAND (R83). -/
  | hand (o : ROp)
  /-- SEGWAIT (R90). -/
  | segwait (o : IOp)
  /-- TLD (R319). -/
  | tld (o : EOp)
  /-- TST (R319). -/
  | tst (o : EOp)
  /-- TZERO (R318). -/
  | tzero (o : ROp)
  /-- TCPY (R318). -/
  | tcpy (o : EOp)
  /-- TADD (R318). -/
  | tadd (o : EOp)
  /-- TSUB (R318). -/
  | tsub (o : EOp)
  /-- TMUL (R318). -/
  | tmul (o : EOp)
  /-- TFMA (R318). -/
  | tfma (o : EOp)
  /-- TMAX (R318). -/
  | tmax (o : EOp)
  /-- TEXP (R318). -/
  | texp (o : EOp)
  /-- TCVT (R318). -/
  | tcvt (o : EOp)
  /-- TSCR (R318). -/
  | tscr (o : EOp)
  /-- TSCC (R318). -/
  | tscc (o : EOp)
  /-- TREDR (R318). -/
  | tredr (o : EOp)
  /-- TREDC (R318). -/
  | tredc (o : EOp)
  /-- TROTR (R318). -/
  | trotr (o : EOp)
  /-- TROTC (R318). -/
  | trotc (o : EOp)
  /-- TBCR (R318). -/
  | tbcr (o : EOp)
  /-- TBCC (R318). -/
  | tbcc (o : EOp)
  /-- INSTRUCTION_FETCH (R68). -/
  | instructionFetch (w : Who)
  /-- ICACHE_LINE_FILL (R68). -/
  | icacheLineFill (core line : Nat)
  /-- WRITE_BACK (R156). -/
  | writeBack (g : GroupAt) (k : Nat)
  /-- STORE_PERFORM (R116). -/
  | storePerform (core k : Nat)
  /-- PAGE_WALK (R25). -/
  | pageWalk (core cid : Nat) (va : DWord) (kind : AccessKind)
  /-- ATS_COMPLETION (R22). -/
  | atsCompletion (cid : Nat) (va : DWord) (grant : AtsGrant)
  /-- PAGE_REQUEST_RESPONSE (R22). -/
  | pageRequestResponse (cid : Nat) (va : DWord) (code : PageResponse)
  /-- ATS_INVALIDATION (R23). -/
  | atsInvalidation (pasid : Nat) (va : DWord) (pages : Nat)
  /-- SHOOTDOWN_ACK (R30). -/
  | shootdownAck (id : Nat) (u : AckUnit)
  /-- SHOOTDOWN_COMPLETE (R30). -/
  | shootdownComplete (id : Nat)
  /-- STASH_FILL (R56). -/
  | stashFill (core team win line : Nat) (own : Bool)
  /-- STASH_RECALL (R58). -/
  | stashRecall (core team win line : Nat) (write : Bool)
  /-- HOST_SNOOP (R64). -/
  | hostSnoop (core line : Nat) (invalidate : Bool)
  /-- ENGINE_COMMAND_START (R302). -/
  | engineCommandStart (core cmd : Nat)
  /-- OWNERSHIP_REGISTRATION (R132). -/
  | ownershipRegistration (core cmd : Nat)
  /-- LINE_RELEASE (R133). -/
  | lineRelease (core cmd line : Nat)
  /-- RING_RESERVE_GRANT (R49). -/
  | ringReserveGrant (core ring : Nat)
  /-- RING_COMMIT (R49). -/
  | ringCommit (core ring : Nat)
  /-- RING_CLAIM_GRANT (R50). -/
  | ringClaimGrant (core ring : Nat)
  /-- COPY_COMPLETE (R310). -/
  | copyComplete (core cmd : Nat)
  /-- MATRIX_OP_COMPLETE (R316). -/
  | matrixOpComplete (core cmd : Nat)
  /-- TILE_OP_COMPLETE (R318). -/
  | tileOpComplete (core cmd : Nat)
  /-- SEQUENCE_CLAIM_GRANT (R107). -/
  | sequenceClaimGrant (core cmd : Nat)
  /-- SEQUENCE_COMMAND_COMPLETE (R109). -/
  | sequenceCommandComplete (core cmd : Nat)
  /-- GLEN_COMMAND_COMPLETE (R84). -/
  | glenCommandComplete (glen cmd : Nat)
  /-- GLEN_PROGRAM_END (R77). -/
  | glenProgramEnd (glen : Nat)
  /-- SEGMENT_COPY_COMPLETE (R90). -/
  | segmentCopyComplete (glen : Nat)
  /-- COLLECTIVE_COMPLETE (R325). -/
  | collectiveComplete (comm seq : Nat)
  /-- COLLECTIVE_TIMEOUT (R325). -/
  | collectiveTimeout (core cmd : Nat)
  /-- GATHER_COUNTER_HALVING (R85). -/
  | gatherCounterHalving (slice : Nat)
  /-- MEADOW_CONTROL_WRITE (R86). -/
  | meadowControlWrite (slice : Nat) (value : DWord)
  /-- TASK_START (R171). -/
  | taskStart (core : Nat)
  /-- TEAM_CLAIM (R168). -/
  | teamClaim (core : Nat)
  /-- TEAM_PLACE (R168). -/
  | teamPlace (core : Nat)
  /-- TEAM_HANDOFF (R168). -/
  | teamHandoff (core target : Nat)
  /-- PLACEMENT_RESERVE_TIMEOUT (R168). -/
  | placementReserveTimeout (core : Nat)
  /-- TEAM_RETIRE (R168). -/
  | teamRetire (core team : Nat)
  /-- GRID_COMPLETE (R346). -/
  | gridComplete (die grid : Nat)
  /-- GANG_PRIORITY_AGING (R172). -/
  | gangPriorityAging (g : GangAt)
  /-- KICK (R331). -/
  | kick (queue : Nat) (value : DWord) (aligned8 : Bool)
  /-- NOP_PACKET (R333). -/
  | nopPacket (queue : Nat)
  /-- LAUNCH (R335). -/
  | launch (queue : Nat)
  /-- COPY (R337). -/
  | copy (queue : Nat)
  /-- SIGNAL (R338). -/
  | signal (queue : Nat)
  /-- WAIT_ALL (R339). -/
  | waitAll (queue : Nat)
  /-- WAIT_ANY (R339). -/
  | waitAny (queue : Nat)
  /-- OVERLAY (R341). -/
  | overlay (queue : Nat)
  /-- CONDITION_LATCH (R340). -/
  | conditionLatch (queue k : Nat)
  /-- WAIT_TIMEOUT (R340). -/
  | waitTimeout (queue : Nat)
  /-- PACKET_COMPLETE (R334). -/
  | packetComplete (queue index : Nat)
  /-- QUEUE_STARVATION_PROMOTION (R343). -/
  | queueStarvationPromotion (queue : Nat)
  /-- CREATE_QUEUE (R329). -/
  | createQueue (fn : Nat) (r : QueueReq)
  /-- DESTROY_QUEUE (R375). -/
  | destroyQueue (fn queue : Nat)
  /-- RESET_QUEUE (R342). -/
  | resetQueue (fn queue : Nat) (value : DWord)
  /-- RESUME_QUEUE (R342). -/
  | resumeQueue (fn queue : Nat)
  /-- CREATE_EVENT_QUEUE (R376). -/
  | createEventQueue (fn : Nat) (r : EventQueueReq)
  /-- WRITE_CONTEXT_DESCRIPTOR (R11). -/
  | writeContextDescriptor (fn cid : Nat) (w0 w1 : DWord)
  /-- SHOOTDOWN_REQUEST (R29). -/
  | shootdownRequest (fn : Nat) (scope : ShootScope)
  /-- DRAIN_REQUEST (R348). -/
  | drainRequest (fn : Nat) (r : DrainReq)
  /-- DRAIN_TIMEOUT (R349). -/
  | drainTimeout (cid : Nat)
  /-- DRAIN_COMPLETE (R348). -/
  | drainComplete (cid : Nat)
  /-- RESUME_AFTER_DRAIN (R352). -/
  | resumeAfterDrain (fn cid : Nat)
  /-- TEAM_RESTORE (R352). -/
  | teamRestore (core : Nat)
  /-- CONFIGURE_BFQ (R326). -/
  | configureBfq (fn die queue : Nat) (r : BfqReq)
  /-- LATENCY_TOLERANCE (R383). -/
  | latencyTolerance (fn part cycles : Nat)
  /-- ATTESTATION_QUOTE (R381). -/
  | attestationQuote (fn : Nat) (nonce : List Byte)
  /-- HEALTH_REPORT (R384). -/
  | healthReport (fn : Nat)
  /-- WRITE_DEBUG_REGISTERS (R364). -/
  | writeDebugRegisters (fn core num : Nat) (value : DWord)
  /-- CONFIGURE_PARTITIONS (R378). -/
  | configurePartitions (fn : Nat) (table : List PartEntry)
  /-- ANSWER_RETRY (R375). -/
  | answerRetry (fn : Nat) (r : RecordName)
  /-- ANSWER_END (R375). -/
  | answerEnd (fn : Nat) (r : RecordName)
  /-- ANSWER_LIM (R359). -/
  | answerLim (fn : Nat) (r : RecordName) (lim : Word)
  /-- ECC_ERROR (R72). -/
  | eccError (place : EccPlace) (correctable : Bool)
  /-- PATROL_SCRUB (R72). -/
  | patrolScrub (granule : Nat)
  /-- PACKAGE_RESET (R379). -/
  | packageReset
  /-- ISLAND_IDLE (R382). -/
  | islandIdle (island : Nat)
  /-- ISLAND_WAKE (R383). -/
  | islandWake (island : Nat)
  /-- AGEING_MONITOR (R384). -/
  | ageingMonitor (island needMv hours : Nat)
  /-- LINK_LOSS (R377). -/
  | linkLoss (link : Nat)
  /-- MODULE_TRAINING_FAILURE (R374). -/
  | moduleTrainingFailure (module : Nat)
  /-- FIXED_LATENCY_WRITE_BACK (R157). -/
  | fixedLatencyWriteBack (g : GroupAt) (k : Nat)
  /-- MAILBOX_INVALID_REQUEST (R375). -/
  | mailboxInvalidRequest (fn code : Nat)
  /-- POWER_FAILURE (R381). -/
  | powerFailure
  /-- CUSTOMER_KEY_SLOT_PROVISION (R379). -/
  | customerKeySlotProvision (slot : Nat) (hash : List Byte)
  /-- VENDOR_KEY_REVOCATION (R379). -/
  | vendorKeyRevocation
  /-- SAVE_AREA_SUPPLY (R349). -/
  | saveAreaSupply (cid bytes : Nat)
  deriving DecidableEq, Repr

end Sys2Proof
end

