-- ==== Sys2Proof/Config.lean ====
section
/-! DEFINITION. What an implementation fixes, and the values that the spec leaves open: opaque constants with no
body, so that nothing can be proved of the value they take. -/

namespace Sys2Proof.Config

/-- The lower 22 fraction bits of the f32 NaN that an e4m3 or e5m2 NaN is carried into; R185 states none (DESIGN CHOICE, log entry
9). -/
opaque narrowNanFraction : Byte → BitVec 22

/-- What SYSC service `code` leaves in s`n` of the group that called it, given s0 to s7 and a fresh number: the published
build of the agent defines the services, and the spec gives none (R252; DESIGN CHOICE, log entry 11). -/
opaque syscResult (free code : Nat) (s : List DWord) (n : Nat) : DWord

/-- Whether a copy whose source overlaps its own destination reads word `w` with the value it has already written there;
R135 leaves it open (DESIGN CHOICE, log entry 17). -/
opaque overlapReadsNew (free w : Nat) : Bool

/-- AUX of a record about a poisoned tile element: R355 gives the form for registers only (DESIGN CHOICE, log entry 18). -/
opaque tilePoisonAux (free : Nat) : DWord

/-- Whether the loss of these links leaves no path to a package (R377): the routes are set up by Ibien and not given
(DESIGN CHOICE, log entry 21). -/
opaque noPath (lost : List Nat) (pkg : Nat) : Bool

/-- How many packages beyond one, modulo 1,024, Ibien configures at a partition set-up (R377; DESIGN CHOICE, log entry 21). -/
opaque domainPackages (free : Nat) : Nat

/-- The bytes of REQ past its code, whose layout R375 gives for one request only (DESIGN CHOICE, log entry 60). -/
opaque requestByte (code off : Nat) : Byte

/-- The ROWS that GTH judges indices by for a batch area that no DEDUP of the program has built (R79, R81; DESIGN CHOICE, log entry
22). -/
opaque areaRows (free : Nat) : Nat

/-- A byte that POOL or GTH reads past the end of the row buffer, where an area or its rows lie across it (R82; DESIGN CHOICE, log entry
23). -/
opaque pastRowBuffer (free a : Nat) : BitVec 8

/-- Byte `k` of the SHAKE256 digest of some bytes (R379, R380; DESIGN CHOICE, log entry 31). -/
opaque shakeByte (data : List Byte) (k : Nat) : Byte

/-- The 32-byte SHAKE256 digest. -/
def shake256 (data : List Byte) : List Byte := (List.range 32).map (shakeByte data)

/-- The Ibien image on package flash, the version of the boot ROM, the key hash in ROM, the hash of the public key that
signed an image, and whether the image's XMSS signature verifies under it (R379; DESIGN CHOICE, log entry 31). -/
opaque bootImage : List Byte
opaque romVersion : List Byte
opaque vendorKeyHash : List Byte
opaque imageKeyHash (image : List Byte) : List Byte
opaque xmssVerifies (image : List Byte) : Bool

/-- The XMSS signature of the device key with a one-time index (R381; DESIGN CHOICE, log entry 31). -/
opaque xmssSign (index : Nat) (data : List Byte) : List Byte

/-- How AUX of a cause 0x20 or 0x21 record gives the structure and location: R355 gives no form (DESIGN CHOICE, log entry 33). -/
opaque eccLocation (place : EccPlace) : DWord

end Sys2Proof.Config
end

