-- ==== Sys2Proof/WellFormed.lean ====
section
/-! DEFINITION. Which terms of Instr are well formed: the checks of R199, R200, R209 to R213 and of each
instruction description that need nothing but the operation itself. `opOk` gathers the checks whose failure is an
illegal-operation trap, `regOk` those whose failure is an illegal-operand trap (R214). -/

namespace Sys2Proof

/-- The operation classes of the opcode map (R215), with the glen classes of R77, and `event` for a row that is no
operation of a bundle. -/
inductive OpClass where
  | any | control | system | privileged | scalarSystem | integer | format | float | dot | special | pass
  | memory | engine | engineGlen | glenEngine | tile | event
  deriving DecidableEq, Repr

/-- How an operation uses one of its register fields (R211 and the instruction descriptions). -/
inductive Use where
  | none       -- unused: the field must be 0x00
  | laneD      -- lane destination or zero
  | laneS      -- source of a lane operation
  | scaD       -- scalar destination or zero
  | scaS       -- scalar register, zero or short constant (R301)
  | scaRegZ    -- scalar register or zero
  | scaConst   -- scalar register, zero or short constant (R271)
  | argReg     -- s4k, the first of four argument registers (R238)
  | intD       -- destination of an integer operation, by its slot (R199)
  | intS       -- source of an integer operation, by its slot
  | cond       -- condition of IF (R233)
  | braCond    -- condition of BRA, by its form (R230)
  | count      -- trip count of LOOP (R233)
  | packC      -- third source of PACK, unused for two-element types (R264)
  | laneEvenD  -- even lane register (R317)
  | xReg       -- translation register (R296)
  | qReg       -- stream register (R300)
  | deltaC     -- delta buffer of ATTN (R320)
  deriving DecidableEq, Repr

/-- What an operation accepts: its class, the types of TY by path, its register fields, and the bits of MOD and of
IMM or word 1 that its description defines (R210). -/
structure OpInfo where
  cls : OpClass
  laneTys : List Ty := []
  scaTys : List Ty := []
  d : Use := .none
  a : Use := .none
  b : Use := .none
  c : Use := .none
  modMask : BitVec 14 := 0
  extMask : BitVec 64 := 0
  deriving DecidableEq, Repr

def tB32 : List Ty := [.b32]
def tB64 : List Ty := [.b64]
def tN32 : List Ty := [.n32]
def tF32 : List Ty := [.f32]
def tB3264 : List Ty := [.b32, .b64]
def tN3264 : List Ty := [.n32, .n64]
def tIN32 : List Ty := [.i32, .n32]
def tIN3264 : List Ty := [.i32, .n32, .i64, .n64]
def tPacked : List Ty := [.i16x2, .n16x2, .i8x4, .n8x4]
def tArith : List Ty := [.b32, .i32, .n32] ++ tPacked
def tArithS : List Ty := tArith ++ [.i64, .n64, .b64]
def tNum : List Ty := [.i32, .n32] ++ tPacked
def tNumS : List Ty := tNum ++ [.i64, .n64]
def tSigned : List Ty := [.i32, .i16x2, .i8x4]
def tSignedS : List Ty := tSigned ++ [.i64]
/-- The logical operations take "the packed integer types" (R240): those of R177 and R178, i4x8 and n4x8 with them. -/
def tLogic : List Ty := tArith ++ [.i4x8, .n4x8]
def tLogicS : List Ty := tLogic ++ [.b64, .i64, .n64]
def tWhole : List Ty := [.b32, .i32, .n32]
def tWholeS : List Ty := tWhole ++ [.b64, .i64, .n64]
def tAny : List Ty :=
  [.b32, .i32, .n32, .f32, .bf16x2, .h16x2] ++ tPacked ++ [.e4m3x4, .e5m2x4, .i4x8, .n4x8, .k4x8, .k6x4]
def tAnyS : List Ty := tAny ++ [.b64, .i64, .n64]
def tFloat : List Ty := [.f32, .bf16x2, .h16x2]
def tCvt : List Ty :=
  [.f32, .i32, .n32, .bf16x2, .h16x2] ++ tPacked ++ [.e4m3x4, .e5m2x4, .i4x8, .n4x8]
def tPack : List Ty := [.bf16x2, .h16x2] ++ tPacked ++ [.e4m3x4, .e5m2x4, .i4x8, .n4x8]
def tUnpack : List Ty := [.f32, .i32, .n32]
def tDot4 : List Ty := [.i8x4, .n8x4]
def tDot8 : List Ty := [.i4x8, .n4x8]
def tBf2 : List Ty := [.bf16x2]
def tCb : List Ty := [.f32, .bf16x2]
def tRedux : List Ty := [.i32, .n32, .b32, .f32]
def tMat : List Ty := [.bf16x2, .h16x2, .i8x4, .n8x4, .e4m3x4, .e5m2x4, .i4x8, .n4x8, .k4x8, .k6x4]
def tAttn : List Ty := [.bf16x2, .h16x2, .e4m3x4, .e5m2x4]
def tTld : List Ty := [.f32, .bf16x2, .h16x2, .e4m3x4, .e5m2x4]
def tNarrow : List Ty := [.bf16x2, .h16x2, .e4m3x4, .e5m2x4]

/-- The type of a TY code (R213); the reserved codes have none. -/
def Ty.ofCode (c : BitVec 5) : Option Ty :=
  [Ty.b32, .i32, .n32, .f32, .bf16x2, .h16x2, .i16x2, .n16x2, .i8x4, .n8x4, .e4m3x4, .e5m2x4, .i4x8, .n4x8, .k4x8,
    .k6x4, .i64, .n64, .b64][c.toNat]?

/-- The number of elements of a type (R178). -/
def Ty.count : Ty → Nat
  | .bf16x2 | .h16x2 | .i16x2 | .n16x2 => 2
  | .i8x4 | .n8x4 | .e4m3x4 | .e5m2x4 | .k6x4 => 4
  | .i4x8 | .n4x8 | .k4x8 => 8
  | _ => 1

/-- The b types have no numeric reading, and .sat refuses them (R240). -/
def Ty.isBits : Ty → Bool
  | .b32 | .b64 => true
  | _ => false

/-- The integer types of a matrix operand (R313). -/
def Ty.isInt : Ty → Bool
  | .i32 | .n32 | .i16x2 | .n16x2 | .i8x4 | .n8x4 | .i4x8 | .n4x8 | .i64 | .n64 => true
  | _ => false

/-- The table of the operations: class, types, fields and defined bits, from R229 to R328. -/
def opInfo : Instr → OpInfo
  | .nop _ => { cls := .any }
  | .emptyBundle _ => { cls := .event }
  | .bra _ => { cls := .control, c := .braCond, modMask := 0x1#14 }
  | .brx _ => { cls := .control, laneTys := tB32, scaTys := tB32, a := .scaS }
  | .call _ => { cls := .control, modMask := 0x7#14 }
  | .callx _ => { cls := .control, laneTys := tB32, scaTys := tB32, a := .scaS, modMask := 0x7#14 }
  | .ret _ => { cls := .control, laneTys := tB32, scaTys := tB32 }
  | .ifC _ => { cls := .control, laneTys := tB32, scaTys := tB32, a := .cond }
  | .elseC _ => { cls := .control, laneTys := tB32, scaTys := tB32 }
  | .endif _ => { cls := .control, laneTys := tB32, scaTys := tB32 }
  | .loop _ => { cls := .control, c := .count, modMask := 0x7#14 }
  | .endloop _ => { cls := .control, laneTys := tB32, scaTys := tB32 }
  | .brk _ => { cls := .control, laneTys := tB32, scaTys := tB32 }
  | .cont _ => { cls := .control, laneTys := tB32, scaTys := tB32 }
  | .regang _ => { cls := .control, laneTys := tB32, scaTys := tB32 }
  | .regangRendezvous _ => { cls := .event }
  | .exit _ => { cls := .control, laneTys := tB32, scaTys := tB32 }
  | .mode _ => { cls := .control, modMask := 0x1#14 }
  | .modeSwitch _ => { cls := .event }
  | .prfi _ => { cls := .system, modMask := 0x7#14 }
  | .spawn _ => { cls := .system, laneTys := tB32, scaTys := tB32, d := .scaD, a := .scaS, b := .argReg }
  | .elect _ => { cls := .system, laneTys := tB32, scaTys := tB32, d := .scaD, a := .scaS }
  | .trap _ => { cls := .system, laneTys := tB32, scaTys := tB32, extMask := 0xFFFF#64 }
  | .brkp _ => { cls := .system, laneTys := tB32, scaTys := tB32, extMask := 0xFFFF#64 }
  | .sysc _ => { cls := .system, laneTys := tB32, scaTys := tB32, extMask := 0xFFFF#64 }
  | .rdsr _ => { cls := .scalarSystem, laneTys := tB64, scaTys := tB64, d := .scaD, extMask := 0xFFF#64 }
  | .wrsr _ => { cls := .scalarSystem, laneTys := tB64, scaTys := tB64, a := .scaS, extMask := 0xFFF#64 }
  | .rdtime _ => { cls := .scalarSystem, laneTys := tB64, scaTys := tB64, d := .scaD }
  | .eret _ => { cls := .privileged, laneTys := tB32, scaTys := tB32 }
  | .halt _ => { cls := .privileged, laneTys := tB32, scaTys := tB32 }
  | .eventTake _ => { cls := .event }
  | .tlbiRng _ => { cls := .privileged, laneTys := tB32, scaTys := tB32, a := .scaS, b := .scaS, c := .scaS, modMask := 0x7#14 }
  | .tlbiCtx _ => { cls := .privileged, laneTys := tB32, scaTys := tB32, c := .scaS, modMask := 0x7#14 }
  | .tlbiAll _ => { cls := .privileged, laneTys := tB32, scaTys := tB32, modMask := 0x7#14 }
  | .tlbiSync _ => { cls := .privileged, laneTys := tB32, scaTys := tB32, modMask := 0x7#14 }
  | .ctxsave _ => { cls := .privileged, laneTys := tB32, scaTys := tB32, d := .scaD, a := .scaS, b := .scaS }
  | .ctxload _ => { cls := .privileged, laneTys := tB32, scaTys := tB32, d := .scaD, a := .scaS, b := .scaS }
  | .add _ => { cls := .integer, laneTys := tArith, scaTys := tArithS, d := .intD, a := .intS, b := .intS, modMask := 0x4#14 }
  | .sub _ => { cls := .integer, laneTys := tArith, scaTys := tArithS, d := .intD, a := .intS, b := .intS, modMask := 0x4#14 }
  | .addc _ => { cls := .integer, laneTys := tN32, scaTys := tN3264, d := .intD, a := .intS, b := .intS, c := .intS, modMask := 0x100#14 }
  | .subc _ => { cls := .integer, laneTys := tN32, scaTys := tN3264, d := .intD, a := .intS, b := .intS, c := .intS, modMask := 0x100#14 }
  | .mul _ => { cls := .integer, laneTys := tNum, scaTys := tNumS, d := .intD, a := .intS, b := .intS, modMask := 0x4#14 }
  | .mulh _ => { cls := .integer, laneTys := tIN32, scaTys := tIN3264, d := .intD, a := .intS, b := .intS }
  | .mad _ => { cls := .integer, laneTys := tNum, scaTys := tNumS, d := .intD, a := .intS, b := .intS, c := .intS, modMask := 0x4#14 }
  | .div _ => { cls := .integer, laneTys := tIN32, scaTys := tIN3264, d := .intD, a := .intS, b := .intS, modMask := 0x4#14 }
  | .rem _ => { cls := .integer, laneTys := tIN32, scaTys := tIN3264, d := .intD, a := .intS, b := .intS }
  | .min _ => { cls := .integer, laneTys := tNum, scaTys := tNumS, d := .intD, a := .intS, b := .intS }
  | .max _ => { cls := .integer, laneTys := tNum, scaTys := tNumS, d := .intD, a := .intS, b := .intS }
  | .abs _ => { cls := .integer, laneTys := tSigned, scaTys := tSignedS, d := .intD, a := .intS, modMask := 0x4#14 }
  | .neg _ => { cls := .integer, laneTys := tSigned, scaTys := tSignedS, d := .intD, a := .intS, modMask := 0x4#14 }
  | .and _ => { cls := .integer, laneTys := tLogic, scaTys := tLogicS, d := .intD, a := .intS, b := .intS }
  | .or _ => { cls := .integer, laneTys := tLogic, scaTys := tLogicS, d := .intD, a := .intS, b := .intS }
  | .xor _ => { cls := .integer, laneTys := tLogic, scaTys := tLogicS, d := .intD, a := .intS, b := .intS }
  | .andn _ => { cls := .integer, laneTys := tLogic, scaTys := tLogicS, d := .intD, a := .intS, b := .intS }
  | .not _ => { cls := .integer, laneTys := tLogic, scaTys := tLogicS, d := .intD, a := .intS }
  | .shl _ => { cls := .integer, laneTys := tArith, scaTys := tArithS, d := .intD, a := .intS, b := .intS }
  | .shr _ => { cls := .integer, laneTys := tArith, scaTys := tArithS, d := .intD, a := .intS, b := .intS }
  | .sar _ => { cls := .integer, laneTys := tArith, scaTys := tArithS, d := .intD, a := .intS, b := .intS }
  | .rot _ => { cls := .integer, laneTys := tArith, scaTys := tArithS, d := .intD, a := .intS, b := .intS }
  | .bfx _ => { cls := .integer, laneTys := tWhole, scaTys := tWholeS, d := .intD, a := .intS, b := .intS }
  | .bfi _ => { cls := .integer, laneTys := tWhole, scaTys := tWholeS, d := .intD, a := .intS, b := .intS, c := .intS }
  | .popc _ => { cls := .integer, laneTys := tWhole, scaTys := tWholeS, d := .intD, a := .intS }
  | .clz _ => { cls := .integer, laneTys := tWhole, scaTys := tWholeS, d := .intD, a := .intS }
  | .brev _ => { cls := .integer, laneTys := tWhole, scaTys := tWholeS, d := .intD, a := .intS }
  | .sel _ => { cls := .integer, laneTys := tAny, scaTys := tAnyS, d := .intD, a := .intS, b := .intS, c := .intS }
  | .cmp _ => { cls := .integer, laneTys := tArith, scaTys := tArithS, d := .intD, a := .intS, b := .intS, modMask := 0xF00#14 }
  | .mov _ => { cls := .integer, laneTys := tAny, scaTys := tAnyS, d := .intD, a := .intS }
  | .movi _ => { cls := .integer, laneTys := tWhole, scaTys := tWholeS, d := .intD, extMask := 0xFFFFF#64 }
  | .movw _ => { cls := .integer, laneTys := tB32, scaTys := tB3264, d := .intD, a := .intS, modMask := 0x3#14, extMask := 0xFFFF#64 }
  | .addImm _ => { cls := .integer, laneTys := tWhole, scaTys := tWholeS, d := .intD, a := .intS, modMask := 0x4#14, extMask := 0xFFFFF#64 }
  | .mulImm _ => { cls := .integer, laneTys := tWhole, scaTys := tWholeS, d := .intD, a := .intS, modMask := 0x4#14, extMask := 0xFFFFF#64 }
  | .andImm _ => { cls := .integer, laneTys := tWhole, scaTys := tWholeS, d := .intD, a := .intS, extMask := 0xFFFFF#64 }
  | .orImm _ => { cls := .integer, laneTys := tWhole, scaTys := tWholeS, d := .intD, a := .intS, extMask := 0xFFFFF#64 }
  | .xorImm _ => { cls := .integer, laneTys := tWhole, scaTys := tWholeS, d := .intD, a := .intS, extMask := 0xFFFFF#64 }
  | .shlImm _ => { cls := .integer, laneTys := tWhole, scaTys := tWholeS, d := .intD, a := .intS, extMask := 0xFFFFF#64 }
  | .shrImm _ => { cls := .integer, laneTys := tWhole, scaTys := tWholeS, d := .intD, a := .intS, extMask := 0xFFFFF#64 }
  | .sarImm _ => { cls := .integer, laneTys := tWhole, scaTys := tWholeS, d := .intD, a := .intS, extMask := 0xFFFFF#64 }
  | .cmpImm _ => { cls := .integer, laneTys := tWhole, scaTys := tWholeS, d := .intD, a := .intS, modMask := 0xF00#14, extMask := 0xFFFFF#64 }
  | .minImm _ => { cls := .integer, laneTys := tWhole, scaTys := tWholeS, d := .intD, a := .intS, extMask := 0xFFFFF#64 }
  | .maxImm _ => { cls := .integer, laneTys := tWhole, scaTys := tWholeS, d := .intD, a := .intS, extMask := 0xFFFFF#64 }
  | .fadd _ => { cls := .float, laneTys := tFloat, scaTys := tFloat, d := .laneD, a := .laneS, b := .laneS, modMask := 0x7#14 }
  | .fsub _ => { cls := .float, laneTys := tFloat, scaTys := tFloat, d := .laneD, a := .laneS, b := .laneS, modMask := 0x7#14 }
  | .fmul _ => { cls := .float, laneTys := tFloat, scaTys := tFloat, d := .laneD, a := .laneS, b := .laneS, modMask := 0x7#14 }
  | .fma _ => { cls := .float, laneTys := tFloat, scaTys := tFloat, d := .laneD, a := .laneS, b := .laneS, c := .laneS, modMask := 0x7#14 }
  | .fdiv _ => { cls := .special, laneTys := tFloat, scaTys := tFloat, d := .laneD, a := .laneS, b := .laneS, modMask := 0x7#14 }
  | .fmin _ => { cls := .float, laneTys := tFloat, scaTys := tFloat, d := .laneD, a := .laneS, b := .laneS }
  | .fmax _ => { cls := .float, laneTys := tFloat, scaTys := tFloat, d := .laneD, a := .laneS, b := .laneS }
  | .fcmp _ => { cls := .float, laneTys := tFloat, scaTys := tFloat, d := .laneD, a := .laneS, b := .laneS, modMask := 0xF00#14 }
  | .fclass _ => { cls := .float, laneTys := tFloat, scaTys := tFloat, d := .laneD, a := .laneS }
  | .frnd _ => { cls := .float, laneTys := tFloat, scaTys := tFloat, d := .laneD, a := .laneS, modMask := 0x3#14 }
  | .rcp _ => { cls := .special, laneTys := tFloat, scaTys := tFloat, d := .laneD, a := .laneS, modMask := 0x7#14 }
  | .rsq _ => { cls := .special, laneTys := tFloat, scaTys := tFloat, d := .laneD, a := .laneS, modMask := 0x7#14 }
  | .sqrt _ => { cls := .special, laneTys := tFloat, scaTys := tFloat, d := .laneD, a := .laneS, modMask := 0x7#14 }
  | .exp2 _ => { cls := .special, laneTys := tFloat, scaTys := tFloat, d := .laneD, a := .laneS, modMask := 0x7#14 }
  | .log2 _ => { cls := .special, laneTys := tFloat, scaTys := tFloat, d := .laneD, a := .laneS, modMask := 0x7#14 }
  | .sin _ => { cls := .special, laneTys := tFloat, scaTys := tFloat, d := .laneD, a := .laneS, modMask := 0x7#14 }
  | .cos _ => { cls := .special, laneTys := tFloat, scaTys := tFloat, d := .laneD, a := .laneS, modMask := 0x7#14 }
  | .tanh _ => { cls := .special, laneTys := tFloat, scaTys := tFloat, d := .laneD, a := .laneS, modMask := 0x7#14 }
  | .cvt _ => { cls := .special, laneTys := tCvt, scaTys := tCvt, d := .laneD, a := .laneS, modMask := 0x3E07#14 }
  | .pack _ => { cls := .special, laneTys := tPack, scaTys := tPack, d := .laneD, a := .laneS, b := .laneS, c := .packC, modMask := 0x707#14 }
  | .unpack _ => { cls := .special, laneTys := tUnpack, scaTys := tUnpack, d := .laneD, a := .laneS, modMask := 0x3FC7#14 }
  | .fmt _ => { cls := .format, laneTys := tB32, scaTys := tB32, a := .scaRegZ, extMask := 0x1FFFF#64 }
  | .fmtrd _ => { cls := .format, laneTys := tB32, scaTys := tB32, d := .scaD }
  | .dot4 _ => { cls := .dot, laneTys := tDot4, scaTys := tDot4, d := .laneD, a := .laneS, b := .laneS, c := .laneS, modMask := 0x104#14 }
  | .dot8 _ => { cls := .dot, laneTys := tDot8, scaTys := tDot8, d := .laneD, a := .laneS, b := .laneS, c := .laneS, modMask := 0x104#14 }
  | .dotf _ => { cls := .dot, laneTys := tBf2, scaTys := tBf2, d := .laneD, a := .laneS, b := .laneS, c := .laneS, modMask := 0x27F#14 }
  | .cbset _ => { cls := .special, laneTys := tBf2, scaTys := tBf2, a := .laneS, b := .laneS }
  | .cbenc _ => { cls := .special, laneTys := tCb, scaTys := tCb, d := .laneD, a := .laneS, c := .laneS, modMask := 0x3900#14 }
  | .cbdec _ => { cls := .special, laneTys := tCb, scaTys := tCb, d := .laneD, a := .laneS, modMask := 0x3900#14 }
  | .shfl _ => { cls := .special, laneTys := tB32, scaTys := tB32, d := .laneD, a := .laneS, b := .laneS, modMask := 0x1F00#14 }
  | .bcast _ => { cls := .special, laneTys := tB32, scaTys := tB32, d := .laneD, a := .laneS, b := .scaConst }
  | .vote _ => { cls := .special, laneTys := tB32, scaTys := tB32, d := .laneD, a := .laneS, modMask := 0x300#14 }
  | .redux _ => { cls := .special, laneTys := tRedux, scaTys := tRedux, d := .laneD, a := .laneS, modMask := 0xF07#14 }
  | .psend _ => { cls := .pass, laneTys := tB32, scaTys := tB32, a := .laneS, modMask := 0x300#14 }
  | .ptake _ => { cls := .pass, laneTys := tB32, scaTys := tB32, d := .laneD, modMask := 0x3F00#14 }
  | .rng _ => { cls := .special, laneTys := tN32, scaTys := tN32, d := .laneD }
  | .rngf _ => { cls := .special, laneTys := tF32, scaTys := tF32, d := .laneD }
  | .rsplit _ => { cls := .special, laneTys := tB32, scaTys := tB32, a := .laneS, b := .laneS, c := .laneS }
  | .rngrd _ => { cls := .special, laneTys := tB32, scaTys := tB32, d := .laneD, modMask := 0x300#14 }
  | .rngwr _ => { cls := .special, laneTys := tB32, scaTys := tB32, a := .laneS, modMask := 0x300#14 }
  | .ldG _ => { cls := .memory }
  | .ldGAcq _ => { cls := .memory }
  | .ldS _ => { cls := .memory }
  | .ldSAcq _ => { cls := .memory }
  | .ldL _ => { cls := .memory }
  | .ldLAcq _ => { cls := .memory }
  | .stG _ => { cls := .memory }
  | .stGRel _ => { cls := .memory }
  | .stGNt _ => { cls := .memory }
  | .stS _ => { cls := .memory }
  | .stSRel _ => { cls := .memory }
  | .stL _ => { cls := .memory }
  | .stLRel _ => { cls := .memory }
  | .stLNt _ => { cls := .memory }
  | .ldxG _ => { cls := .memory }
  | .ldxS _ => { cls := .memory }
  | .ldxL _ => { cls := .memory }
  | .atomG _ => { cls := .memory }
  | .atomS _ => { cls := .memory }
  | .casG _ => { cls := .memory }
  | .casS _ => { cls := .memory }
  | .fence _ => { cls := .memory, laneTys := tB32, scaTys := tB32, modMask := 0x1F#14 }
  | .fenceComplete _ => { cls := .event }
  | .drain _ => { cls := .memory, laneTys := tB32, scaTys := tB32, modMask := 0xF#14 }
  | .pref _ => { cls := .memory }
  | .trx _ => { cls := .memory, laneTys := tB64, scaTys := tB64, d := .xReg, a := .scaRegZ }
  | .xpat _ => { cls := .memory, laneTys := tB64, scaTys := tB64, a := .scaS, extMask := 0x7#64 }
  | .stmap _ => { cls := .memory, laneTys := tB64, scaTys := tB64, a := .scaS, b := .scaS, c := .scaS }
  | .stflush _ => { cls := .memory, laneTys := tB64, scaTys := tB64, a := .scaS }
  | .stunmap _ => { cls := .memory, laneTys := tB64, scaTys := tB64, a := .scaS }
  | .qbind _ => { cls := .memory, laneTys := tB32, scaTys := tB32, d := .qReg, a := .scaS, b := .scaS }
  | .qfree _ => { cls := .memory, laneTys := tB32, scaTys := tB32, d := .qReg }
  | .cpy _ => { cls := .engine, laneTys := tB32, scaTys := tB32, a := .scaS, extMask := 0x7F#64 }
  | .cpym _ => { cls := .engine, laneTys := tB32, scaTys := tB32, a := .scaS, b := .scaS, extMask := 0x3FF#64 }
  | .ringcfg _ => { cls := .engine, laneTys := tB32, scaTys := tB32, d := .scaD, a := .scaS, extMask := 0x7F#64 }
  | .ringcfgRsv _ => { cls := .engine, laneTys := tB32, scaTys := tB32, d := .scaD, a := .scaS, extMask := 0x7F#64 }
  | .ringcfgCmt _ => { cls := .engine, laneTys := tB32, scaTys := tB32, a := .scaS, extMask := 0x7F#64 }
  | .ringcfgTake _ => { cls := .engine, laneTys := tB32, scaTys := tB32, d := .scaD, a := .scaS, extMask := 0x7F#64 }
  | .ringcfgPop _ => { cls := .engine, laneTys := tB32, scaTys := tB32, a := .scaS, extMask := 0x7F#64 }
  | .ringcfgHnd _ => { cls := .engine, laneTys := tB32, scaTys := tB32, d := .scaD, extMask := 0x7F#64 }
  | .ringReconfigure _ _ => { cls := .event }
  | .mma _ => { cls := .engine, laneTys := tMat, scaTys := tMat, modMask := 0xF8#14, extMask := 0xFFF7FFFFF7F#64 }
  | .mmas _ => { cls := .engine, laneTys := tMat, scaTys := tMat, a := .scaS, modMask := 0xF8#14, extMask := 0xFFF07FFFF7F#64 }
  | .accflg _ => { cls := .engine, laneTys := tB32, scaTys := tB32, d := .laneEvenD, modMask := 0x3F80#14 }
  | .accclr _ => { cls := .engine, laneTys := tB32, scaTys := tB32, modMask := 0x3F00#14 }
  | .attn _ => { cls := .engine, laneTys := tAttn, scaTys := tAttn, a := .scaS, b := .scaS, c := .deltaC, modMask := 0x78#14, extMask := 0xFFFFFFFFFFFFFFFF#64 }
  | .massfold _ => { cls := .engine, laneTys := tB32, scaTys := tB32, a := .scaS, b := .scaS, c := .scaS, modMask := 0x7F#14 }
  | .kvtrunc _ => { cls := .engine, laneTys := tB32, scaTys := tB32, a := .scaS, b := .scaS, modMask := 0x7F#14 }
  | .evict _ => { cls := .engine, laneTys := tB32, scaTys := tB32, a := .scaS, b := .scaS, c := .scaS, extMask := 0xFF#64 }
  | .coll _ => { cls := .engine, laneTys := tB32, scaTys := tB32, a := .scaS, extMask := 0x7F#64 }
  | .waitf _ => { cls := .engineGlen, laneTys := tB32, scaTys := tB32, d := .scaD, a := .scaS, modMask := 0x7F#14 }
  | .waitfWake _ => { cls := .event }
  | .setf _ => { cls := .engineGlen, laneTys := tB32, scaTys := tB32, a := .scaS, modMask := 0x73F#14 }
  | .addf _ => { cls := .engineGlen, laneTys := tB32, scaTys := tB32, a := .scaS, modMask := 0x73F#14 }
  | .setfRem _ => { cls := .engineGlen, laneTys := tB32, scaTys := tB32, a := .scaS, b := .scaS, modMask := 0x40#14 }
  | .addfRem _ => { cls := .engineGlen, laneTys := tB32, scaTys := tB32, a := .scaS, b := .scaS, modMask := 0x40#14 }
  | .setfHnd _ => { cls := .engineGlen, laneTys := tB32, scaTys := tB32, d := .scaD, modMask := 0xBF#14 }
  | .bfqpost _ => { cls := .engine, laneTys := tB32, scaTys := tB32, a := .scaS, b := .scaS, extMask := 0x1FFF#64 }
  | .bfqtake _ => { cls := .engine, laneTys := tB32, scaTys := tB32, d := .scaD, a := .scaS, b := .scaS, extMask := 0x3F#64 }
  | .bfqtakeTimeout _ _ => { cls := .event }
  | .bfqdone _ => { cls := .engine, laneTys := tB32, scaTys := tB32, a := .scaS, b := .scaS, modMask := 0x3F#14 }
  | .gth _ => { cls := .glenEngine, laneTys := tB32, scaTys := tB32, a := .scaS, b := .scaS, c := .scaS, extMask := 0xFFFFFFFFFFFFFF3F#64 }
  | .dedup _ => { cls := .glenEngine, laneTys := tB32, scaTys := tB32, a := .scaS, b := .scaS, modMask := 0x3F#14 }
  | .pool _ => { cls := .glenEngine, laneTys := tB32, scaTys := tB32, a := .scaS, b := .scaS, c := .scaS, extMask := 0x1FFFFFFF3F#64 }
  | .unz _ => { cls := .glenEngine, laneTys := tB32, scaTys := tB32, a := .scaS, b := .scaS, c := .scaS, extMask := 0xFF3F#64 }
  | .hand _ => { cls := .glenEngine, laneTys := tB32, scaTys := tB32, a := .scaS, b := .scaS, c := .scaS, modMask := 0x3F#14 }
  | .segwait _ => { cls := .glenEngine, laneTys := tB32, scaTys := tB32, extMask := 0xFFF#64 }
  | .tld _ => { cls := .tile, laneTys := tTld, scaTys := tTld, a := .scaS, extMask := 0xFFFFFFFFE03F#64 }
  | .tst _ => { cls := .tile, laneTys := tTld, scaTys := tTld, a := .scaS, modMask := 0x87#14, extMask := 0xFFFFFFFFFFFF#64 }
  | .tzero _ => { cls := .tile, laneTys := tB32, scaTys := tB32, modMask := 0x3F00#14 }
  | .tcpy _ => { cls := .tile, laneTys := tF32, scaTys := tF32, modMask := 0x80#14, extMask := 0x3F3F#64 }
  | .tadd _ => { cls := .tile, laneTys := tF32, scaTys := tF32, modMask := 0x87#14, extMask := 0x3F3F3F#64 }
  | .tsub _ => { cls := .tile, laneTys := tF32, scaTys := tF32, modMask := 0x87#14, extMask := 0x3F3F3F#64 }
  | .tmul _ => { cls := .tile, laneTys := tF32, scaTys := tF32, modMask := 0x87#14, extMask := 0x3F3F3F#64 }
  | .tfma _ => { cls := .tile, laneTys := tF32, scaTys := tF32, modMask := 0x87#14, extMask := 0x3F3F3F3F#64 }
  | .tmax _ => { cls := .tile, laneTys := tF32, scaTys := tF32, modMask := 0x80#14, extMask := 0x3F3F3F#64 }
  | .texp _ => { cls := .tile, laneTys := tF32, scaTys := tF32, modMask := 0x87#14, extMask := 0x3F3F#64 }
  | .tcvt _ => { cls := .tile, laneTys := tNarrow, scaTys := tNarrow, modMask := 0x87#14, extMask := 0x3F3F#64 }
  | .tscr _ => { cls := .tile, laneTys := tF32, scaTys := tF32, modMask := 0x81#14, extMask := 0x3F003F3F3F#64 }
  | .tscc _ => { cls := .tile, laneTys := tF32, scaTys := tF32, modMask := 0x81#14, extMask := 0x3F003F3F3F#64 }
  | .tredr _ => { cls := .tile, laneTys := tF32, scaTys := tF32, modMask := 0x81#14, extMask := 0x70000003F3F#64 }
  | .tredc _ => { cls := .tile, laneTys := tF32, scaTys := tF32, modMask := 0x81#14, extMask := 0x70000003F3F#64 }
  | .trotr _ => { cls := .tile, laneTys := tF32, scaTys := tF32, modMask := 0x81#14, extMask := 0x3F00003F3F#64 }
  | .trotc _ => { cls := .tile, laneTys := tF32, scaTys := tF32, modMask := 0x81#14, extMask := 0x3F00003F3F#64 }
  | .tbcr _ => { cls := .tile, laneTys := tF32, scaTys := tF32, modMask := 0x81#14, extMask := 0x3F00003F3F#64 }
  | .tbcc _ => { cls := .tile, laneTys := tF32, scaTys := tF32, modMask := 0x81#14, extMask := 0x3F00003F3F#64 }
  | .instructionFetch _ => { cls := .event }
  | .icacheLineFill _ _ => { cls := .event }
  | .writeBack _ _ => { cls := .event }
  | .storePerform _ _ => { cls := .event }
  | .pageWalk _ _ _ _ => { cls := .event }
  | .atsCompletion _ _ _ => { cls := .event }
  | .pageRequestResponse _ _ _ => { cls := .event }
  | .atsInvalidation _ _ _ => { cls := .event }
  | .shootdownAck _ _ => { cls := .event }
  | .shootdownComplete _ => { cls := .event }
  | .stashFill _ _ _ _ _ => { cls := .event }
  | .stashRecall _ _ _ _ _ => { cls := .event }
  | .hostSnoop _ _ _ => { cls := .event }
  | .engineCommandStart _ _ => { cls := .event }
  | .ownershipRegistration _ _ => { cls := .event }
  | .lineRelease _ _ _ => { cls := .event }
  | .ringReserveGrant _ _ => { cls := .event }
  | .ringCommit _ _ => { cls := .event }
  | .ringClaimGrant _ _ => { cls := .event }
  | .copyComplete _ _ => { cls := .event }
  | .matrixOpComplete _ _ => { cls := .event }
  | .tileOpComplete _ _ => { cls := .event }
  | .sequenceClaimGrant _ _ => { cls := .event }
  | .sequenceCommandComplete _ _ => { cls := .event }
  | .glenCommandComplete _ _ => { cls := .event }
  | .glenProgramEnd _ => { cls := .event }
  | .segmentCopyComplete _ => { cls := .event }
  | .collectiveComplete _ _ => { cls := .event }
  | .collectiveTimeout _ _ => { cls := .event }
  | .gatherCounterHalving _ => { cls := .event }
  | .meadowControlWrite _ _ => { cls := .event }
  | .taskStart _ => { cls := .event }
  | .teamClaim _ => { cls := .event }
  | .teamPlace _ => { cls := .event }
  | .teamHandoff _ _ => { cls := .event }
  | .placementReserveTimeout _ => { cls := .event }
  | .teamRetire _ _ => { cls := .event }
  | .gridComplete _ _ => { cls := .event }
  | .gangPriorityAging _ => { cls := .event }
  | .kick _ _ _ => { cls := .event }
  | .nopPacket _ => { cls := .event }
  | .launch _ => { cls := .event }
  | .copy _ => { cls := .event }
  | .signal _ => { cls := .event }
  | .waitAll _ => { cls := .event }
  | .waitAny _ => { cls := .event }
  | .overlay _ => { cls := .event }
  | .conditionLatch _ _ => { cls := .event }
  | .waitTimeout _ => { cls := .event }
  | .packetComplete _ _ => { cls := .event }
  | .queueStarvationPromotion _ => { cls := .event }
  | .createQueue _ _ => { cls := .event }
  | .destroyQueue _ _ => { cls := .event }
  | .resetQueue _ _ _ => { cls := .event }
  | .resumeQueue _ _ => { cls := .event }
  | .createEventQueue _ _ => { cls := .event }
  | .writeContextDescriptor _ _ _ _ => { cls := .event }
  | .shootdownRequest _ _ => { cls := .event }
  | .drainRequest _ _ => { cls := .event }
  | .drainTimeout _ => { cls := .event }
  | .drainComplete _ => { cls := .event }
  | .resumeAfterDrain _ _ => { cls := .event }
  | .teamRestore _ => { cls := .event }
  | .configureBfq _ _ _ _ => { cls := .event }
  | .latencyTolerance _ _ _ => { cls := .event }
  | .attestationQuote _ _ => { cls := .event }
  | .healthReport _ => { cls := .event }
  | .writeDebugRegisters _ _ _ _ => { cls := .event }
  | .configurePartitions _ _ => { cls := .event }
  | .answerRetry _ _ => { cls := .event }
  | .answerEnd _ _ => { cls := .event }
  | .answerLim _ _ _ => { cls := .event }
  | .eccError _ _ => { cls := .event }
  | .patrolScrub _ => { cls := .event }
  | .packageReset => { cls := .event }
  | .islandIdle _ => { cls := .event }
  | .islandWake _ => { cls := .event }
  | .ageingMonitor _ _ _ => { cls := .event }
  | .linkLoss _ => { cls := .event }
  | .moduleTrainingFailure _ => { cls := .event }
  | .fixedLatencyWriteBack _ _ => { cls := .event }
  | .mailboxInvalidRequest _ _ => { cls := .event }
  | .powerFailure => { cls := .event }
  | .customerKeySlotProvision _ _ => { cls := .event }
  | .vendorKeyRevocation => { cls := .event }
  | .saveAreaSupply _ _ => { cls := .event }

/-- The slots that run an integer operation on the scalar path (R199, R200, R76). -/
def Slot.isScalar : Slot → Bool
  | .simt k => k == 1#3 || k == 2#3
  | .unit k => k == 1#2 || k == 2#2
  | .glen _ => true
  | .lane _ => false

/-- The VLIW slots (R197). -/
def Slot.isVliw : Slot → Bool
  | .unit _ | .lane _ => true
  | _ => false

/-- The glen slots (R76). -/
def Slot.isGlen : Slot → Bool
  | .glen _ => true
  | _ => false

/-- The control slots, S0 and the control unit slot (R166). -/
def Slot.isControl : Slot → Bool
  | .simt k | .glen k => k == 0#3
  | .unit k => k == 0#2
  | .lane _ => false

/-- The classes that a slot accepts (R199 for SIMT, R200 for VLIW, R77 for glen bundles). -/
def Slot.accepts (sl : Slot) (c : OpClass) : Bool :=
  match sl with
  | .simt k =>
    match k.toNat with
    | 0 => [OpClass.any, .control, .system, .privileged].contains c
    | 1 | 2 => [OpClass.any, .integer, .scalarSystem, .format].contains c
    | 3 | 4 => [OpClass.any, .integer, .float, .dot].contains c
    | 5 => [OpClass.any, .special].contains c
    | 6 => [OpClass.any, .memory].contains c
    | _ => [OpClass.any, .engine, .engineGlen, .tile].contains c
  | .unit k =>
    match k.toNat with
    | 0 => [OpClass.any, .control, .system, .privileged].contains c
    | 1 | 2 => [OpClass.any, .integer, .scalarSystem, .format].contains c
    | _ => [OpClass.any, .memory, .engine, .engineGlen, .tile].contains c
  | .lane _ => [OpClass.any, .integer, .float, .dot, .special, .pass, .memory].contains c
  | .glen k =>
    match k.toNat with
    | 0 => [OpClass.any, .control, .system].contains c
    | 1 | 2 => [OpClass.any, .integer, .scalarSystem].contains c
    | 7 => [OpClass.any, .engineGlen, .glenEngine].contains c
    | _ => false

/-- The operations that a VLIW thread never accepts (R165, R229, R258). -/
def notInVliw : Instr → Bool
  | .ifC _ | .elseC _ | .endif _ | .brk _ | .cont _ | .regang _ | .shfl _ | .bcast _ | .vote _ | .redux _ => true
  | _ => false

/-- The control and system operations that a glen core accepts (R77, R229). -/
def glenControl : Instr → Bool
  | .nop _ | .bra _ | .call _ | .ret _ | .exit _ | .trap _ | .brkp _ => true
  | _ => false

/-- A use of a register field that R211 and the instruction description allow. -/
def useOk (sl : Slot) (u : Use) (x : Spec) : Bool :=
  match u, x with
  | .none, _ => true
  | .laneD, .v _ | .laneD, .zero => true
  | .laneS, .v _ | .laneS, .s _ | .laneS, .q _ | .laneS, .lane | .laneS, .zero | .laneS, .const _ => true
  | .scaD, .s _ | .scaD, .zero => true
  | .scaS, .s _ | .scaS, .zero | .scaS, .const _ => true
  | .scaRegZ, .s _ | .scaRegZ, .zero => true
  | .scaConst, .s _ | .scaConst, .zero | .scaConst, .const _ => true
  | .argReg, .s n => n.toNat % 4 == 0
  | .intD, .v _ => !sl.isScalar
  | .intD, .s _ => sl.isScalar
  | .intD, .zero => true
  | .intS, .v _ | .intS, .q _ | .intS, .lane => !sl.isScalar
  | .intS, .s _ | .intS, .zero | .intS, .const _ => true
  | .cond, .v _ | .cond, .lane | .cond, .s _ | .cond, .zero | .cond, .const _ => true
  | .braCond, .v _ | .braCond, .lane | .braCond, .s _ | .braCond, .zero | .braCond, .const _ => true
  | .count, .s _ | .count, .zero | .count, .const _ => true
  | .packC, .v _ | .packC, .s _ | .packC, .q _ | .packC, .lane | .packC, .zero | .packC, .const _ => true
  | .laneEvenD, .v n => n.toNat % 2 == 0
  | .xReg, .x _ => true
  | .qReg, .q _ => true
  | .deltaC, .s _ | .deltaC, .zero | .deltaC, .const _ => true
  | _, _ => false

/-- An unused field holds 0x00 and its mode bit 0 (R203, R225). -/
def unusedOk (u : Use) (x : Spec) (f : Bool) : Bool :=
  match u with
  | .none => x == .v 0#6 && !f
  | _ => true

/-- The number of lane registers that a memory size names (R206, R281). -/
def sizeRegs : Nat → Nat
  | 5 => 2
  | 6 => 4
  | _ => 1

/-- IDX names a lane register or is lane (R279). -/
def idxIsLane : Spec → Bool
  | .v _ | .lane => true
  | _ => false

/-- A data field names a lane register, or a stream register, which is read lane by lane too (R53). -/
def dataIsLane : Spec → Bool
  | .v _ | .q _ => true
  | _ => false

/-- A destination names a lane register. -/
def destIsLane : Spec → Bool
  | .v _ => true
  | _ => false

/-- A load is a lane access when D or IDX says so (R279); a stream register is no destination (R281). -/
def MOp.loadsLanes (o : MOp) : Bool := destIsLane o.d || idxIsLane o.idx

/-- A load or store is a lane access when D or IDX says so (R279). PREF has no D: it asks for IDX alone. -/
def MOp.isLane (o : MOp) : Bool := dataIsLane o.d || idxIsLane o.idx

/-- As MOp.isLane, for an atomic (cas: CAS, which alone has an operand B). -/
def AOp.isLane (o : AOp) (cas : Bool) : Bool :=
  destIsLane o.d || dataIsLane o.a || (cas && dataIsLane o.b) || idxIsLane o.idx

/-- The spaces of a memory operation. -/
inductive Space where
  | global | scratch | local'
  deriving DecidableEq, Repr

/-- BASE belongs to the space's rows of R278. -/
def Base.ok (sp : Space) : Base → Bool
  | .s _ => true
  | .x _ | .pair => sp == .global
  | .none => sp != .global
  | .sp => sp == .local'
  | .reserved _ => false

/-- IDX names v0 to v63, s0 to s31, zero or lane; with a pair base vn with n even (R206). -/
def idxOk (b : Base) (x : Spec) : Bool :=
  match b, x with
  | .pair, .v n => n.toNat % 2 == 0
  | .pair, _ => false
  | _, .v _ | _, .s _ | _, .zero | _, .lane => true
  | _, _ => false

/-- A destination of a load (R206, R281). -/
def loadDOk (o : MOp) : Bool :=
  match o.d with
  | .zero => true
  | .v n => n.toNat % sizeRegs o.sz.toNat == 0
  | .s _ => o.sz.toNat ≤ 5 && !(match o.idx with | .v _ | .lane => true | _ => false)
  | _ => false

/-- The bytes of a store size (R206). -/
def storeBytes : Nat → Nat
  | 0 => 1
  | 2 => 2
  | 4 => 4
  | 5 => 8
  | _ => 16

/-- The data of a store (R206, R281). -/
def storeDOk (o : MOp) : Bool :=
  let n := storeBytes o.sz.toNat
  match o.d with
  | .zero => true
  | .v k => k.toNat % ((n + 3) / 4) == 0
  | .s _ => n ≤ 8
  | .const _ => n ≤ 4
  | .lane => n ≤ 4 && o.isLane
  | .q _ => n ≤ 4
  | _ => false

/-- The space, and whether it is a load, an acquire or release, for the memory opcodes 0xA0 to 0xB0 (R215). -/
def loadStore : Instr → Option (MOp × Space × Bool × Bool)
  | .ldG o => some (o, .global, true, false)
  | .ldGAcq o => some (o, .global, true, true)
  | .ldS o => some (o, .scratch, true, false)
  | .ldSAcq o => some (o, .scratch, true, true)
  | .ldL o => some (o, .local', true, false)
  | .ldLAcq o => some (o, .local', true, true)
  | .stG o => some (o, .global, false, false)
  | .stGRel o => some (o, .global, false, true)
  | .stGNt o => some (o, .global, false, false)
  | .stS o => some (o, .scratch, false, false)
  | .stSRel o => some (o, .scratch, false, true)
  | .stL o => some (o, .local', false, false)
  | .stLRel o => some (o, .local', false, true)
  | .stLNt o => some (o, .local', false, false)
  | _ => none

/-- A scalar-path access stands in S6 or the memory unit slot, a lane access in S6 or a lane slot (R278). -/
def pathOk (sl : Slot) (lane : Bool) : Bool :=
  match sl with
  | .unit _ => !lane
  | .lane _ => lane
  | _ => true

/-- Is the AOP and type pair listed in R290? -/
def atomTyOk (aop : Nat) (t : AtomTy) : Bool :=
  match aop with
  | 0 => [AtomTy.i32, .n32, .i64, .n64].contains t
  | 1 => t == .f32
  | 2 | 3 => [AtomTy.i32, .n32, .i64, .n64, .f32].contains t
  | 4 | 5 | 6 => [AtomTy.b32, .i32, .n32, .b64, .i64, .n64].contains t
  | 7 => true
  | 8 | 9 => [AtomTy.n32, .n64].contains t
  | _ => false

/-- Is it a 64-bit atomic type (R207)? -/
def AtomTy.is64 : AtomTy → Bool
  | .i64 | .n64 | .b64 => true
  | _ => false

/-- The registers of an atomic (R206, R289). -/
def atomRegOk (sp : Space) (o : AOp) (cas : Bool) : Bool :=
  let pairOk (x : Spec) : Bool :=
    match x with
    | .v n => !o.ta.is64 || n.toNat % 2 == 0
    | .s _ => !(o.ta.is64 && o.isLane cas)
    | .q _ => !o.ta.is64
    | .lane => o.isLane cas
    | .zero | .const _ => true
    | _ => false
  o.base.ok sp && idxOk o.base o.idx && pairOk o.a && pairOk o.b &&
    (match o.d with
     | .v n => !o.ta.is64 || n.toNat % 2 == 0
     | .s _ => !o.isLane cas
     | .zero => true
     | _ => false)

/-- The count group of a conversion (R263). -/
def cvtOk (d : Ty) (src : BitVec 5) : Bool :=
  match Ty.ofCode src with
  | some s => tCvt.contains s && s.count == d.count
  | none => false

/-- The special registers of R250 and R364 that have a number. -/
def srAssigned (n : Nat) : Bool :=
  [0, 1, 2, 3, 8, 9, 0xA, 0xB, 0xC, 0x10].contains n || (0x100 ≤ n && n ≤ 0x105) || (0x108 ≤ n && n ≤ 0x113) ||
    (0x118 ≤ n && n ≤ 0x11B)

/-- The matrix type pair of MMA and MMAS (R313). -/
def matPairOk (ta : Ty) (tb : BitVec 5) : Bool :=
  match Ty.ofCode tb with
  | some t => tMat.contains t && (ta.isInt == t.isInt)
  | none => false

/-- The checks of single instruction descriptions whose failure is an illegal-operation trap. -/
def extraOk : Instr → Bool
  | .nop o => o.stg == 0#2
  | .bra o => o.form != 3#2 && (o.form == 0#2 || !(o.at'.slot.isVliw || o.at'.slot.isGlen)) && o.off.extractLsb' 0 2 == 0#2
  | .call o => o.off.extractLsb' 0 2 == 0#2 && (!o.at'.slot.isGlen || o.mod == 0#8)
  | .loop o =>
    o.off.extractLsb' 0 2 == 0#2 &&
    (if o.mod.getLsbD 0 then o.c == .v 0#6 && !o.fc && !o.at'.slot.isVliw else true) &&
    (o.at'.slot.isVliw || o.mod.extractLsb' 1 2 == 0#2)
  | .mode o | .prfi o => o.off.extractLsb' 0 2 == 0#2
  | .rdsr o | .wrsr o => srAssigned o.imm.toNat
  | .tlbiRng o => o.mod.extractLsb' 0 2 == 0#2
  | .tlbiCtx o => o.mod.extractLsb' 0 2 == 1#2
  | .tlbiAll o => o.mod.extractLsb' 0 2 == 2#2
  | .tlbiSync o => o.mod.extractLsb' 0 2 == 3#2
  | .add o | .sub o | .mul o | .mad o | .div o => !(o.mod.getLsbD 2 && o.ty.isBits)
  | .cmp o => (o.mod.extractLsb' 8 3).toNat < 6
  | .addImm o | .mulImm o => !(o.mod.getLsbD 2 && o.ty.isBits)
  | .cmpImm o => (o.mod.extractLsb' 8 3).toNat < 6
  | .movw o => o.a == o.d && (if o.ty == .b32 then (o.mod.extractLsb' 0 2).toNat < 2 else true)
  | .cvt o => cvtOk o.ty (o.mod.extractLsb' 9 5)
  | .pack o =>
    2 * (o.mod.extractLsb' 8 2).toNat + 2 ≤ o.ty.count && (o.ty.count != 2 || (o.c == .v 0#6 && !o.fc))
  | .unpack o =>
    (match Ty.ofCode (o.mod.extractLsb' 9 5) with
     | some s => tPack.contains s && (o.mod.extractLsb' 6 3).toNat < s.count
     | none => false)
  | .cbenc o | .cbdec o =>
    (o.mod.extractLsb' 11 3).toNat + (if o.ty == .bf16x2 then 1 else 0) ≤ (if o.mod.getLsbD 8 then 3 else 7)
  | .shfl o => (o.mod.extractLsb' 10 3).toNat ≤ 4
  | .redux o =>
    let op := (o.mod.extractLsb' 8 3).toNat
    op ≤ 5 && (o.ty != .f32 || op ≤ 2) &&
      (o.mod.extractLsb' 0 2 == 0#2 || (o.ty == .f32 && op == 0)) &&
      (!o.mod.getLsbD 2 || ((o.ty == .i32 || o.ty == .n32) && op == 0))
  | .ptake o => o.mod.extractLsb' 10 4 != 0#4
  | .ldxG o => o.scp == .slice && pathOk o.at'.slot o.loadsLanes
  | .ldxS o => o.scp == .slice && pathOk o.at'.slot o.loadsLanes && !o.pol.getLsbD 3
  | .ldxL o => o.scp == .slice && pathOk o.at'.slot o.loadsLanes
  | .pref o => o.scp == .slice && o.sz.toNat < 2 && o.d == .v 0#6 && pathOk o.at'.slot (idxIsLane o.idx)
  | .atomG o | .atomS o => o.aop.toNat < 10 && atomTyOk o.aop.toNat o.ta && o.b == .v 0#6 && pathOk o.at'.slot (o.isLane false)
  | .casG o | .casS o => o.aop == 0#4 && pathOk o.at'.slot (o.isLane true)
  | .fence o => o.mod.extractLsb' 3 2 != 3#2
  | .drain o => o.mod.getLsbD 3
  | .ringcfg o => o.ext.extractLsb' 4 3 == 0#3
  | .ringcfgRsv o => o.ext.extractLsb' 4 3 == 1#3
  | .ringcfgCmt o => o.ext.extractLsb' 4 3 == 2#3
  | .ringcfgTake o => o.ext.extractLsb' 4 3 == 3#3
  | .ringcfgPop o => o.ext.extractLsb' 4 3 == 4#3
  | .ringcfgHnd o => o.ext.extractLsb' 4 3 == 5#3
  | .mma o | .mmas o => matPairOk o.ty (o.ext.extractLsb' 22 5)
  | .setf o | .addf o => o.mod.extractLsb' 6 2 == 0#2
  | .setfRem o | .addfRem o => o.mod.extractLsb' 6 2 == 1#2
  | .setfHnd o => o.mod.extractLsb' 6 2 == 2#2
  | .tscr o | .trotr o | .tbcr o => !o.mod.getLsbD 0
  | .tscc o | .tbcc o => o.mod.getLsbD 0 && (o.ext.extractLsb' 32 6).toNat < 16
  | .trotc o => o.mod.getLsbD 0 && (o.ext.extractLsb' 32 6).toNat < 16
  | .tredr o => !o.mod.getLsbD 0 && (o.ext.extractLsb' 40 3).toNat < 3
  | .tredc o => o.mod.getLsbD 0 && (o.ext.extractLsb' 40 3).toNat < 3
  | i =>
    match loadStore i with
    | some (o, sp, isLoad, ordered) =>
      (if isLoad then o.sz.toNat < 7 else [0, 2, 4, 5, 6].contains o.sz.toNat) && (ordered || o.scp == .slice) &&
        (sp != .scratch || !o.pol.getLsbD 3) && pathOk o.at'.slot (if isLoad then o.loadsLanes else o.isLane)
    | none => true

/-- Does a memory operation act on the group or its scalar path, so that no lane slot takes it (R200, R213, R279)? -/
def actsOnGroup : Instr → Bool
  | .fence _ | .drain _ | .trx _ | .xpat _ | .stmap _ | .stflush _ | .stunmap _ | .qbind _ | .qfree _ => true
  | _ => false

/-- Is the slot a VLIW lane slot? -/
def Slot.isLaneSlot : Slot → Bool
  | .lane _ => true
  | _ => false

/-- The checks common to every operation of a class in a slot (R199, R200, R209, R229, R258). -/
def siteOk (i : Instr) (s : Site) : Bool :=
  s.slot.accepts (opInfo i).cls && !(s.slot.isLaneSlot && actsOnGroup i) && (s.slot.isVliw || s.stg == 0#2) && !(s.slot.isControl && s.stg != 0#2) &&
    !(s.slot.isVliw && notInVliw i) && (!(s.slot.isGlen && s.slot.isControl) || glenControl i)

/-- TY is accepted on the path of the slot (R213, R240, R257); glen scalar slots take no packed type (R77). -/
def tyOk (i : Instr) (s : Site) (t : Ty) : Bool :=
  (if s.slot.isScalar then (opInfo i).scaTys else (opInfo i).laneTys).contains t &&
    (!(s.slot.isGlen && (opInfo i).cls == .integer) || tWholeS.contains t)

/-- The operation's format record, for the checks that every operation of a format shares. -/
inductive OpRec where
  | nop (s : Site) | r (o : ROp) | i (o : IOp) | b (o : BOp) | m (o : MOp) | a (o : AOp) | e (o : EOp) | none
  deriving DecidableEq, Repr

/-- The format record of an operation; an event has none. -/
def opRec : Instr → OpRec
  | .nop s => .nop s
  | .emptyBundle _ => .none
  | .bra o => .b o
  | .brx o => .r o
  | .call o => .b o
  | .callx o => .r o
  | .ret o => .r o
  | .ifC o => .r o
  | .elseC o => .r o
  | .endif o => .r o
  | .loop o => .b o
  | .endloop o => .r o
  | .brk o => .r o
  | .cont o => .r o
  | .regang o => .r o
  | .regangRendezvous _ => .none
  | .exit o => .r o
  | .mode o => .b o
  | .modeSwitch _ => .none
  | .prfi o => .b o
  | .spawn o => .r o
  | .elect o => .r o
  | .trap o => .i o
  | .brkp o => .i o
  | .sysc o => .i o
  | .rdsr o => .i o
  | .wrsr o => .i o
  | .rdtime o => .r o
  | .eret o => .r o
  | .halt o => .r o
  | .eventTake _ => .none
  | .tlbiRng o => .r o
  | .tlbiCtx o => .r o
  | .tlbiAll o => .r o
  | .tlbiSync o => .r o
  | .ctxsave o => .r o
  | .ctxload o => .r o
  | .add o => .r o
  | .sub o => .r o
  | .addc o => .r o
  | .subc o => .r o
  | .mul o => .r o
  | .mulh o => .r o
  | .mad o => .r o
  | .div o => .r o
  | .rem o => .r o
  | .min o => .r o
  | .max o => .r o
  | .abs o => .r o
  | .neg o => .r o
  | .and o => .r o
  | .or o => .r o
  | .xor o => .r o
  | .andn o => .r o
  | .not o => .r o
  | .shl o => .r o
  | .shr o => .r o
  | .sar o => .r o
  | .rot o => .r o
  | .bfx o => .r o
  | .bfi o => .r o
  | .popc o => .r o
  | .clz o => .r o
  | .brev o => .r o
  | .sel o => .r o
  | .cmp o => .r o
  | .mov o => .r o
  | .movi o => .i o
  | .movw o => .i o
  | .addImm o => .i o
  | .mulImm o => .i o
  | .andImm o => .i o
  | .orImm o => .i o
  | .xorImm o => .i o
  | .shlImm o => .i o
  | .shrImm o => .i o
  | .sarImm o => .i o
  | .cmpImm o => .i o
  | .minImm o => .i o
  | .maxImm o => .i o
  | .fadd o => .r o
  | .fsub o => .r o
  | .fmul o => .r o
  | .fma o => .r o
  | .fdiv o => .r o
  | .fmin o => .r o
  | .fmax o => .r o
  | .fcmp o => .r o
  | .fclass o => .r o
  | .frnd o => .r o
  | .rcp o => .r o
  | .rsq o => .r o
  | .sqrt o => .r o
  | .exp2 o => .r o
  | .log2 o => .r o
  | .sin o => .r o
  | .cos o => .r o
  | .tanh o => .r o
  | .cvt o => .r o
  | .pack o => .r o
  | .unpack o => .r o
  | .fmt o => .i o
  | .fmtrd o => .r o
  | .dot4 o => .r o
  | .dot8 o => .r o
  | .dotf o => .r o
  | .cbset o => .r o
  | .cbenc o => .r o
  | .cbdec o => .r o
  | .shfl o => .r o
  | .bcast o => .r o
  | .vote o => .r o
  | .redux o => .r o
  | .psend o => .r o
  | .ptake o => .r o
  | .rng o => .r o
  | .rngf o => .r o
  | .rsplit o => .r o
  | .rngrd o => .r o
  | .rngwr o => .r o
  | .ldG o => .m o
  | .ldGAcq o => .m o
  | .ldS o => .m o
  | .ldSAcq o => .m o
  | .ldL o => .m o
  | .ldLAcq o => .m o
  | .stG o => .m o
  | .stGRel o => .m o
  | .stGNt o => .m o
  | .stS o => .m o
  | .stSRel o => .m o
  | .stL o => .m o
  | .stLRel o => .m o
  | .stLNt o => .m o
  | .ldxG o => .m o
  | .ldxS o => .m o
  | .ldxL o => .m o
  | .atomG o => .a o
  | .atomS o => .a o
  | .casG o => .a o
  | .casS o => .a o
  | .fence o => .r o
  | .fenceComplete _ => .none
  | .drain o => .r o
  | .pref o => .m o
  | .trx o => .r o
  | .xpat o => .i o
  | .stmap o => .r o
  | .stflush o => .r o
  | .stunmap o => .r o
  | .qbind o => .r o
  | .qfree o => .r o
  | .cpy o => .e o
  | .cpym o => .e o
  | .ringcfg o => .e o
  | .ringcfgRsv o => .e o
  | .ringcfgCmt o => .e o
  | .ringcfgTake o => .e o
  | .ringcfgPop o => .e o
  | .ringcfgHnd o => .e o
  | .ringReconfigure _ _ => .none
  | .mma o => .e o
  | .mmas o => .e o
  | .accflg o => .r o
  | .accclr o => .r o
  | .attn o => .e o
  | .massfold o => .r o
  | .kvtrunc o => .r o
  | .evict o => .e o
  | .coll o => .e o
  | .waitf o => .r o
  | .waitfWake _ => .none
  | .setf o => .r o
  | .addf o => .r o
  | .setfRem o => .r o
  | .addfRem o => .r o
  | .setfHnd o => .r o
  | .bfqpost o => .e o
  | .bfqtake o => .e o
  | .bfqtakeTimeout _ _ => .none
  | .bfqdone o => .r o
  | .gth o => .e o
  | .dedup o => .r o
  | .pool o => .e o
  | .unz o => .e o
  | .hand o => .r o
  | .segwait o => .i o
  | .tld o => .e o
  | .tst o => .e o
  | .tzero o => .r o
  | .tcpy o => .e o
  | .tadd o => .e o
  | .tsub o => .e o
  | .tmul o => .e o
  | .tfma o => .e o
  | .tmax o => .e o
  | .texp o => .e o
  | .tcvt o => .e o
  | .tscr o => .e o
  | .tscc o => .e o
  | .tredr o => .e o
  | .tredc o => .e o
  | .trotr o => .e o
  | .trotc o => .e o
  | .tbcr o => .e o
  | .tbcc o => .e o
  | .instructionFetch _ => .none
  | .icacheLineFill _ _ => .none
  | .writeBack _ _ => .none
  | .storePerform _ _ => .none
  | .pageWalk _ _ _ _ => .none
  | .atsCompletion _ _ _ => .none
  | .pageRequestResponse _ _ _ => .none
  | .atsInvalidation _ _ _ => .none
  | .shootdownAck _ _ => .none
  | .shootdownComplete _ => .none
  | .stashFill _ _ _ _ _ => .none
  | .stashRecall _ _ _ _ _ => .none
  | .hostSnoop _ _ _ => .none
  | .engineCommandStart _ _ => .none
  | .ownershipRegistration _ _ => .none
  | .lineRelease _ _ _ => .none
  | .ringReserveGrant _ _ => .none
  | .ringCommit _ _ => .none
  | .ringClaimGrant _ _ => .none
  | .copyComplete _ _ => .none
  | .matrixOpComplete _ _ => .none
  | .tileOpComplete _ _ => .none
  | .sequenceClaimGrant _ _ => .none
  | .sequenceCommandComplete _ _ => .none
  | .glenCommandComplete _ _ => .none
  | .glenProgramEnd _ => .none
  | .segmentCopyComplete _ => .none
  | .collectiveComplete _ _ => .none
  | .collectiveTimeout _ _ => .none
  | .gatherCounterHalving _ => .none
  | .meadowControlWrite _ _ => .none
  | .taskStart _ => .none
  | .teamClaim _ => .none
  | .teamPlace _ => .none
  | .teamHandoff _ _ => .none
  | .placementReserveTimeout _ => .none
  | .teamRetire _ _ => .none
  | .gridComplete _ _ => .none
  | .gangPriorityAging _ => .none
  | .kick _ _ _ => .none
  | .nopPacket _ => .none
  | .launch _ => .none
  | .copy _ => .none
  | .signal _ => .none
  | .waitAll _ => .none
  | .waitAny _ => .none
  | .overlay _ => .none
  | .conditionLatch _ _ => .none
  | .waitTimeout _ => .none
  | .packetComplete _ _ => .none
  | .queueStarvationPromotion _ => .none
  | .createQueue _ _ => .none
  | .destroyQueue _ _ => .none
  | .resetQueue _ _ _ => .none
  | .resumeQueue _ _ => .none
  | .createEventQueue _ _ => .none
  | .writeContextDescriptor _ _ _ _ => .none
  | .shootdownRequest _ _ => .none
  | .drainRequest _ _ => .none
  | .drainTimeout _ => .none
  | .drainComplete _ => .none
  | .resumeAfterDrain _ _ => .none
  | .teamRestore _ => .none
  | .configureBfq _ _ _ _ => .none
  | .latencyTolerance _ _ _ => .none
  | .attestationQuote _ _ => .none
  | .healthReport _ => .none
  | .writeDebugRegisters _ _ _ _ => .none
  | .configurePartitions _ _ => .none
  | .answerRetry _ _ => .none
  | .answerEnd _ _ => .none
  | .answerLim _ _ _ => .none
  | .eccError _ _ => .none
  | .patrolScrub _ => .none
  | .packageReset => .none
  | .islandIdle _ => .none
  | .islandWake _ => .none
  | .ageingMonitor _ _ _ => .none
  | .linkLoss _ => .none
  | .moduleTrainingFailure _ => .none
  | .fixedLatencyWriteBack _ _ => .none
  | .mailboxInvalidRequest _ _ => .none
  | .powerFailure => .none
  | .customerKeySlotProvision _ _ => .none
  | .vendorKeyRevocation => .none
  | .saveAreaSupply _ _ => .none

/-- The checks of R214 on one operation that end in an illegal-operation trap and need no state. -/
def opOk (i : Instr) : Bool :=
  let n := opInfo i
  extraOk i &&
  match opRec i with
  | .none => true
  | .nop s => siteOk i s
  | .r o =>
    siteOk i o.at' && tyOk i o.at' o.ty && o.mod &&& ~~~n.modMask == 0#14 &&
      unusedOk n.d o.d false && unusedOk n.a o.a o.fa && unusedOk n.b o.b o.fb && unusedOk n.c o.c o.fc
  | .i o =>
    siteOk i o.at' && tyOk i o.at' o.ty && o.mod &&& ~~~(n.modMask.setWidth 12) == 0#12 &&
      o.imm &&& ~~~(n.extMask.setWidth 20) == 0#20 && unusedOk n.d o.d false && unusedOk n.a o.a o.fa
  | .b o =>
    siteOk i o.at' && o.mod &&& ~~~(n.modMask.setWidth 8) == 0#8 && unusedOk n.c o.c o.fc &&
      (match i with | .bra _ => true | _ => o.form == 0#2)
  | .m o => siteOk i o.at'
  | .a o => siteOk i o.at'
  | .e o =>
    siteOk i o.at' && tyOk i o.at' o.ty && o.mod &&& ~~~n.modMask == 0#14 && o.ext &&& ~~~n.extMask == 0#64 &&
      unusedOk n.d o.d false && unusedOk n.a o.a o.fa && unusedOk n.b o.b o.fb && unusedOk n.c o.c o.fc

/-! ## Short constants (R212) -/

/-- The integer that a short constant stands for; `none` for 0.5, −0.5, the infinities, NaN and "all ones". -/
def constInt (c : BitVec 4) : Option Int :=
  match c.toNat with
  | 2 => some 1 | 3 => some 2 | 4 => some 3 | 5 => some 4 | 6 => some 8 | 7 => some 16 | 8 => some 31 | 9 => some (-1)
  | _ => none

/-- The encodings of 1, 2, 3, 4, 8, 16, 31, −1, 0.5, −0.5, +∞, −∞ and canonical NaN in a floating-point element,
rounded to nearest even (R212, R176); 0 stands for none. -/
def constFloats (t : Ty) : List Nat :=
  match t with
  | .f32 => [0x3F800000, 0x40000000, 0x40400000, 0x40800000, 0x41000000, 0x41800000, 0x41F80000, 0xBF800000,
             0x3F000000, 0xBF000000, 0x7F800000, 0xFF800000, 0x7FC00000]
  | .bf16x2 => [0x3F80, 0x4000, 0x4040, 0x4080, 0x4100, 0x4180, 0x41F8, 0xBF80, 0x3F00, 0xBF00, 0x7F80, 0xFF80, 0x7FC0]
  | .h16x2 => [0x3C00, 0x4000, 0x4200, 0x4400, 0x4800, 0x4C00, 0x4FC0, 0xBC00, 0x3800, 0xB800, 0x7C00, 0xFC00, 0x7E00]
  | .e4m3x4 => [0x38, 0x40, 0x44, 0x48, 0x50, 0x58, 0x60, 0xB8, 0x30, 0xB0, 0, 0, 0x7F]
  | .e5m2x4 => [0x3C, 0x40, 0x42, 0x44, 0x48, 0x4C, 0x50, 0xBC, 0x38, 0xB8, 0x7C, 0xFC, 0x7E]
  | _ => []

/-- The width of an element of a type (R177, R178). -/
def Ty.elemBits : Ty → Nat
  | .i64 | .n64 | .b64 => 64
  | .bf16x2 | .h16x2 | .i16x2 | .n16x2 => 16
  | .i8x4 | .n8x4 | .e4m3x4 | .e5m2x4 => 8
  | .i4x8 | .n4x8 | .k4x8 => 4
  | .k6x4 => 6
  | _ => 32

/-- One element of a short constant in a type; `none` where the constant has no value in the type (R212). -/
def constElem (t : Ty) (c : BitVec 4) : Option Nat :=
  if c == 15#4 then some (2 ^ t.elemBits - 1)
  else if c.toNat < 2 then none
  else
    match constFloats t with
    | [] => (constInt c).map (fun i => (i % (2 ^ t.elemBits : Int)).toNat)
    | l =>
      match l[c.toNat - 2]? with
      | some x => if x == 0 then none else some x
      | none => none

/-- The source types of an operation's A, B and C fields, where a short constant may stand (R212): TY, but for the
operations whose description gives another. Scalar registers that hold addresses and numbers read n64; conditions and
counts read 32 bits. -/
def srcTys (i : Instr) : Ty × Ty × Ty :=
  match i with
  | .cvt o => ((Ty.ofCode (o.mod.extractLsb' 9 5)).getD .b32, .b32, .b32)
  | .unpack o => ((Ty.ofCode (o.mod.extractLsb' 9 5)).getD .b32, .b32, .b32)
  | .pack o => if o.mod.getLsbD 10 then (.i32, .i32, o.ty) else (.f32, .f32, o.ty)
  | .dot4 o => (o.ty, o.ty, .i32)
  | .dot8 o => (o.ty, o.ty, .i32)
  | .dotf _ => (.bf16x2, .bf16x2, .f32)
  | .cbset _ => (.bf16x2, .n32, .n32)
  | .cbenc o => (o.ty, .b32, if o.mod.getLsbD 8 then .k6x4 else .k4x8)
  | .cbdec o => (if o.mod.getLsbD 8 then .k6x4 else .k4x8, .b32, .b32)
  | _ =>
    match opRec i with
    | .r o =>
      (match (opInfo i).cls with
       | .integer | .float | .dot | .special | .pass => (o.ty, o.ty, o.ty)
       | .control => (.b32, .b32, .b32)
       | _ => (.n64, .n64, .n64))
    | .i o => (match (opInfo i).cls with | .integer => (o.ty, o.ty, o.ty) | _ => (.n64, .n64, .n64))
    | .e _ => (.n64, .n64, .n64)
    | _ => (.b32, .b32, .b32)

/-- A short constant has a value in the type it is read in (R212). -/
def constOk (t : Ty) (x : Spec) : Bool :=
  match x with
  | .const c => (constElem t c).isSome
  | _ => true

/-- Every short constant of the operation has a value (R212). -/
def constsOk (i : Instr) : Bool :=
  let (ta, tb, tc) := srcTys i
  match opRec i with
  | .r o => constOk ta o.a && constOk tb o.b && constOk tc o.c
  | .i o => constOk ta o.a
  | .b o => constOk .b32 o.c
  | .e o => constOk ta o.a && constOk tb o.b && constOk tc o.c
  | .m o => constOk .b32 o.d
  | .a o =>
    let t : Ty := match o.ta with
      | .i32 => .i32 | .n32 => .n32 | .f32 => .f32 | .b32 => .b32 | .i64 => .i64 | .n64 => .n64 | .b64 => .b64
    constOk t o.a && constOk t o.b
  | _ => true

/-- The register checks of R206, R207 and R211 that need no state. -/
def regOk (i : Instr) : Bool :=
  let n := opInfo i
  constsOk i &&
  match opRec i with
  | .none | .nop _ => true
  | .r o =>
    useOk o.at'.slot n.d o.d && useOk o.at'.slot n.a o.a && useOk o.at'.slot n.b o.b &&
      (match n.c with
       | .packC => o.ty.count == 2 || useOk o.at'.slot n.c o.c
       | u => useOk o.at'.slot u o.c)
  | .i o => useOk o.at'.slot n.d o.d && useOk o.at'.slot n.a o.a
  | .b o =>
    (match n.c with
     | .braCond => useOk o.at'.slot (if o.form == 0#2 then .scaS else .braCond) o.c
     | .count => o.mod.getLsbD 0 || useOk o.at'.slot .count o.c
     | u => useOk o.at'.slot u o.c)
  | .e o =>
    useOk o.at'.slot n.d o.d && useOk o.at'.slot n.a o.a && useOk o.at'.slot n.b o.b &&
      (match n.c with
       | .deltaC => if o.ext.getLsbD 8 then useOk o.at'.slot .deltaC o.c else o.c == .v 0#6 && !o.fc
       | u => useOk o.at'.slot u o.c) &&
      (match i with | .attn _ => !(o.ext.getLsbD 7 && o.ext.getLsbD 8) | _ => true)
  | .a o =>
    match i with
    | .atomS _ => atomRegOk .scratch o false
    | .casS _ => atomRegOk .scratch o true
    | .casG _ => atomRegOk .global o true
    | _ => atomRegOk .global o false
  | .m o =>
    match i with
    | .pref _ => o.base.ok .global && idxOk o.base o.idx
    | .ldxG _ => o.base.ok .global && idxOk o.base o.idx && (match o.d with | .v _ => true | _ => false)
    | .ldxS _ => o.base.ok .scratch && idxOk o.base o.idx && (match o.d with | .v _ => true | _ => false)
    | .ldxL _ => o.base.ok .local' && idxOk o.base o.idx && (match o.d with | .v _ => true | _ => false)
    | _ =>
      match loadStore i with
      | some (_, sp, isLoad, _) => o.base.ok sp && idxOk o.base o.idx && (if isLoad then loadDOk o else storeDOk o)
      | none => true

/-- A well-formed instruction: R214 finds nothing in it that needs no state to see. -/
def wf (i : Instr) : Bool := opOk i && regOk i

end Sys2Proof
end

