-- ==== Sys2Proof/Decode.lean ====
section
/-! DEFINITION. The decoder of R195 to R215: from the words of a bundle to its instructions, total on any bytes,
rejecting by the trap's name; and after it the encoder, written from the same layouts. -/

namespace Sys2Proof

/-- Why R214 rejects a bundle. -/
inductive BadCode where
  | illegalBundle | illegalOperation | illegalOperand
  deriving DecidableEq, Repr

/-- The format of an operation word (R203 to R208). -/
inductive Fmt where
  | r | i | b | m | a | e
  deriving DecidableEq, Repr

/-- An operation with its opcode number, before it has its name. -/
inductive Enc where
  | nop (s : Site)
  | r (op : BitVec 8) (o : ROp)
  | i (op : BitVec 8) (o : IOp)
  | b (op : BitVec 8) (o : BOp)
  | m (op : BitVec 8) (o : MOp)
  | a (op : BitVec 8) (o : AOp)
  | e (op : BitVec 8) (o : EOp)
  deriving DecidableEq, Repr

/-! ## Coded fields -/

/-- The register or value of an 8-bit specifier (R211). -/
def Spec.ofCode (c : BitVec 8) : Spec :=
  if c.getLsbD 7 then .reserved (c.extractLsb' 0 7)
  else if !c.getLsbD 6 then .v (c.extractLsb' 0 6)
  else if !c.getLsbD 5 then .s (c.extractLsb' 0 5)
  else if c.extractLsb' 3 2 == 0#2 then .q (c.extractLsb' 0 3)
  else if c.extractLsb' 3 2 == 1#2 then .x (c.extractLsb' 0 3)
  else if c.extractLsb' 0 5 == 16#5 then .zero
  else if c.extractLsb' 0 5 == 17#5 then .lane
  else .const (c.extractLsb' 0 4)

/-- The 8-bit code of a specifier (R211). A short constant holds the low four bits of its code, 2 to 15. -/
def Spec.code : Spec → BitVec 8
  | .v n => 0#2 ++ n
  | .s n => 2#3 ++ n
  | .q n => 0x0C#5 ++ n
  | .x n => 0x0D#5 ++ n
  | .zero => 0x70#8
  | .lane => 0x71#8
  | .const c => 7#4 ++ c
  | .reserved n => 1#1 ++ n

/-- The base of a 6-bit BASE code (R206). -/
def Base.ofCode (c : BitVec 6) : Base :=
  if !c.getLsbD 5 then .s (c.extractLsb' 0 5)
  else if c.extractLsb' 3 2 == 0#2 then .x (c.extractLsb' 0 3)
  else if c == 0x28#6 then .none
  else if c == 0x29#6 then .sp
  else if c == 0x2A#6 then .pair
  else .reserved c

/-- The BASE code of a base (R206). -/
def Base.code : Base → BitVec 6
  | .s n => 0#1 ++ n
  | .x n => 4#3 ++ n
  | .none => 0x28#6
  | .sp => 0x29#6
  | .pair => 0x2A#6
  | .reserved c => c

/-- The scope of a 3-bit scope code (R114). -/
def Scope.ofCode (c : BitVec 3) : Scope :=
  match c.toNat with
  | 0 => .slice | 1 => .grp | 2 => .core | 3 => .clu | 4 => .die | 5 => .pkg | 6 => .dom | _ => .sys

/-- The scope code (R114). -/
def Scope.code : Scope → BitVec 3
  | .slice => 0#3 | .grp => 1#3 | .core => 2#3 | .clu => 3#3 | .die => 4#3 | .pkg => 5#3 | .dom => 6#3 | .sys => 7#3

/-- The order of an atomic from ORD (R207). -/
def Ord.ofCode (c : BitVec 2) : Ord :=
  match c.toNat with
  | 0 => .none | 1 => .acq | 2 => .rel | _ => .ar

/-- The ORD code (R207). -/
def Ord.code : Ord → BitVec 2
  | .none => 0#2 | .acq => 1#2 | .rel => 2#2 | .ar => 3#2

/-- The TY code of a type (R213). -/
def Ty.code : Ty → BitVec 5
  | .b32 => 0#5 | .i32 => 1#5 | .n32 => 2#5 | .f32 => 3#5 | .bf16x2 => 4#5 | .h16x2 => 5#5 | .i16x2 => 6#5
  | .n16x2 => 7#5 | .i8x4 => 8#5 | .n8x4 => 9#5 | .e4m3x4 => 10#5 | .e5m2x4 => 11#5 | .i4x8 => 12#5
  | .n4x8 => 13#5 | .k4x8 => 14#5 | .k6x4 => 15#5 | .i64 => 16#5 | .n64 => 17#5 | .b64 => 18#5

/-- The type of a TA code (R207). -/
def AtomTy.ofCode (c : BitVec 3) : Option AtomTy :=
  match c.toNat with
  | 0 => some .i32 | 1 => some .n32 | 2 => some .f32 | 3 => some .b32 | 4 => some .i64 | 5 => some .n64
  | 6 => some .b64 | _ => none

/-- The TA code (R207). -/
def AtomTy.code : AtomTy → BitVec 3
  | .i32 => 0#3 | .n32 => 1#3 | .f32 => 2#3 | .b32 => 3#3 | .i64 => 4#3 | .n64 => 5#3 | .b64 => 6#3

/-! ## The opcode map -/

/-- The format of a major opcode (R215); `none` for NOP's opcode and for a reserved code. -/
def fmtOf (op : Nat) : Option Fmt :=
  match op with
  | 0x02 | 0x04 | 0x05 | 0x06 | 0x07 | 0x08 | 0x0A | 0x0B | 0x0C | 0x0D | 0x0E | 0x11 | 0x12 | 0x18 | 0x19 | 0x1D | 0x1A | 0x1B | 0x1C | 0x20 | 0x21 | 0x22 | 0x23 | 0x24 | 0x25 | 0x26 | 0x27 | 0x28 | 0x29 | 0x2A | 0x2B | 0x2C | 0x2D | 0x2E | 0x2F | 0x30 | 0x31 | 0x32 | 0x33 | 0x34 | 0x35 | 0x36 | 0x37 | 0x38 | 0x39 | 0x3A | 0x3B | 0x3C | 0x3D | 0x50 | 0x51 | 0x52 | 0x53 | 0x59 | 0x54 | 0x55 | 0x56 | 0x57 | 0x58 | 0x5A | 0x5B | 0x5C | 0x5D | 0x5E | 0x5F | 0x60 | 0x61 | 0x62 | 0x63 | 0x64 | 0x66 | 0x67 | 0x68 | 0x69 | 0x80 | 0x81 | 0x82 | 0x83 | 0x84 | 0x85 | 0x86 | 0x87 | 0x88 | 0x89 | 0x8A | 0x8B | 0x8C | 0x8D | 0xB5 | 0xB6 | 0xB8 | 0xBA | 0xBB | 0xBC | 0xBD | 0xBE | 0xC5 | 0xC6 | 0xC8 | 0xC9 | 0xCC | 0xCD | 0xCE | 0xD1 | 0xD3 | 0xD6 | 0xE2 => some .r
  | 0x13 | 0x14 | 0x15 | 0x16 | 0x17 | 0x3E | 0x3F | 0x40 | 0x41 | 0x42 | 0x43 | 0x44 | 0x45 | 0x46 | 0x47 | 0x48 | 0x49 | 0x4A | 0x65 | 0xB9 | 0xD7 => some .i
  | 0x01 | 0x03 | 0x09 | 0x0F | 0x10 => some .b
  | 0xA0 | 0xA1 | 0xA2 | 0xA3 | 0xA4 | 0xA5 | 0xA6 | 0xA7 | 0xA8 | 0xA9 | 0xAA | 0xAB | 0xAC | 0xAD | 0xAE | 0xAF | 0xB0 | 0xB7 => some .m
  | 0xB1 | 0xB2 | 0xB3 | 0xB4 => some .a
  | 0xC0 | 0xC1 | 0xC2 | 0xC3 | 0xC4 | 0xC7 | 0xCA | 0xCB | 0xCF | 0xD0 | 0xD2 | 0xD4 | 0xD5 | 0xE0 | 0xE1 | 0xE3 | 0xE4 | 0xE5 | 0xE6 | 0xE7 | 0xE8 | 0xE9 | 0xEA | 0xEB | 0xEC | 0xED | 0xEE => some .e
  | _ => none

/-- The opcodes of two words (R208, R215). -/
def isTwoWord (op : BitVec 8) : Bool := fmtOf op.toNat == some .e

/-- The instruction of a major opcode of format R (R215), by its form bits where one opcode serves several rows. -/
def instrOfR (op : Nat) (o : ROp) : Option Instr :=
  match op with
  | 0x02 => some (.brx o)
  | 0x04 => some (.callx o)
  | 0x05 => some (.ret o)
  | 0x06 => some (.ifC o)
  | 0x07 => some (.elseC o)
  | 0x08 => some (.endif o)
  | 0x0A => some (.endloop o)
  | 0x0B => some (.brk o)
  | 0x0C => some (.cont o)
  | 0x0D => some (.regang o)
  | 0x0E => some (.exit o)
  | 0x11 => some (.spawn o)
  | 0x12 => some (.elect o)
  | 0x18 => some (.rdtime o)
  | 0x19 => some (.eret o)
  | 0x1D => some (.halt o)
  | 0x1A => if o.mod.extractLsb' 0 2 == 0#2 then some (.tlbiRng o) else if o.mod.extractLsb' 0 2 == 1#2 then some (.tlbiCtx o) else if o.mod.extractLsb' 0 2 == 2#2 then some (.tlbiAll o) else if o.mod.extractLsb' 0 2 == 3#2 then some (.tlbiSync o) else none
  | 0x1B => some (.ctxsave o)
  | 0x1C => some (.ctxload o)
  | 0x20 => some (.add o)
  | 0x21 => some (.sub o)
  | 0x22 => some (.addc o)
  | 0x23 => some (.subc o)
  | 0x24 => some (.mul o)
  | 0x25 => some (.mulh o)
  | 0x26 => some (.mad o)
  | 0x27 => some (.div o)
  | 0x28 => some (.rem o)
  | 0x29 => some (.min o)
  | 0x2A => some (.max o)
  | 0x2B => some (.abs o)
  | 0x2C => some (.neg o)
  | 0x2D => some (.and o)
  | 0x2E => some (.or o)
  | 0x2F => some (.xor o)
  | 0x30 => some (.andn o)
  | 0x31 => some (.not o)
  | 0x32 => some (.shl o)
  | 0x33 => some (.shr o)
  | 0x34 => some (.sar o)
  | 0x35 => some (.rot o)
  | 0x36 => some (.bfx o)
  | 0x37 => some (.bfi o)
  | 0x38 => some (.popc o)
  | 0x39 => some (.clz o)
  | 0x3A => some (.brev o)
  | 0x3B => some (.sel o)
  | 0x3C => some (.cmp o)
  | 0x3D => some (.mov o)
  | 0x50 => some (.fadd o)
  | 0x51 => some (.fsub o)
  | 0x52 => some (.fmul o)
  | 0x53 => some (.fma o)
  | 0x59 => some (.fdiv o)
  | 0x54 => some (.fmin o)
  | 0x55 => some (.fmax o)
  | 0x56 => some (.fcmp o)
  | 0x57 => some (.fclass o)
  | 0x58 => some (.frnd o)
  | 0x5A => some (.rcp o)
  | 0x5B => some (.rsq o)
  | 0x5C => some (.sqrt o)
  | 0x5D => some (.exp2 o)
  | 0x5E => some (.log2 o)
  | 0x5F => some (.sin o)
  | 0x60 => some (.cos o)
  | 0x61 => some (.tanh o)
  | 0x62 => some (.cvt o)
  | 0x63 => some (.pack o)
  | 0x64 => some (.unpack o)
  | 0x66 => some (.fmtrd o)
  | 0x67 => some (.dot4 o)
  | 0x68 => some (.dot8 o)
  | 0x69 => some (.dotf o)
  | 0x80 => some (.cbset o)
  | 0x81 => some (.cbenc o)
  | 0x82 => some (.cbdec o)
  | 0x83 => some (.shfl o)
  | 0x84 => some (.bcast o)
  | 0x85 => some (.vote o)
  | 0x86 => some (.redux o)
  | 0x87 => some (.psend o)
  | 0x88 => some (.ptake o)
  | 0x89 => some (.rng o)
  | 0x8A => some (.rngf o)
  | 0x8B => some (.rsplit o)
  | 0x8C => some (.rngrd o)
  | 0x8D => some (.rngwr o)
  | 0xB5 => some (.fence o)
  | 0xB6 => some (.drain o)
  | 0xB8 => some (.trx o)
  | 0xBA => some (.stmap o)
  | 0xBB => some (.stflush o)
  | 0xBC => some (.stunmap o)
  | 0xBD => some (.qbind o)
  | 0xBE => some (.qfree o)
  | 0xC5 => some (.accflg o)
  | 0xC6 => some (.accclr o)
  | 0xC8 => some (.massfold o)
  | 0xC9 => some (.kvtrunc o)
  | 0xCC => some (.waitf o)
  | 0xCD => if o.mod.extractLsb' 6 2 == 0#2 then some (.setf o) else if o.mod.extractLsb' 6 2 == 1#2 then some (.setfRem o) else if o.mod.extractLsb' 6 2 == 2#2 then some (.setfHnd o) else none
  | 0xCE => if o.mod.extractLsb' 6 2 == 0#2 then some (.addf o) else if o.mod.extractLsb' 6 2 == 1#2 then some (.addfRem o) else none
  | 0xD1 => some (.bfqdone o)
  | 0xD3 => some (.dedup o)
  | 0xD6 => some (.hand o)
  | 0xE2 => some (.tzero o)
  | _ => none

/-- The instruction of a major opcode of format I (R215), by its form bits where one opcode serves several rows. -/
def instrOfI (op : Nat) (o : IOp) : Option Instr :=
  match op with
  | 0x13 => some (.trap o)
  | 0x14 => some (.brkp o)
  | 0x15 => some (.sysc o)
  | 0x16 => some (.rdsr o)
  | 0x17 => some (.wrsr o)
  | 0x3E => some (.movi o)
  | 0x3F => some (.movw o)
  | 0x40 => some (.addImm o)
  | 0x41 => some (.mulImm o)
  | 0x42 => some (.andImm o)
  | 0x43 => some (.orImm o)
  | 0x44 => some (.xorImm o)
  | 0x45 => some (.shlImm o)
  | 0x46 => some (.shrImm o)
  | 0x47 => some (.sarImm o)
  | 0x48 => some (.cmpImm o)
  | 0x49 => some (.minImm o)
  | 0x4A => some (.maxImm o)
  | 0x65 => some (.fmt o)
  | 0xB9 => some (.xpat o)
  | 0xD7 => some (.segwait o)
  | _ => none

/-- The instruction of a major opcode of format B (R215), by its form bits where one opcode serves several rows. -/
def instrOfB (op : Nat) (o : BOp) : Option Instr :=
  match op with
  | 0x01 => some (.bra o)
  | 0x03 => some (.call o)
  | 0x09 => some (.loop o)
  | 0x0F => some (.mode o)
  | 0x10 => some (.prfi o)
  | _ => none

/-- The instruction of a major opcode of format M (R215), by its form bits where one opcode serves several rows. -/
def instrOfM (op : Nat) (o : MOp) : Option Instr :=
  match op with
  | 0xA0 => some (.ldG o)
  | 0xA1 => some (.ldGAcq o)
  | 0xA2 => some (.ldS o)
  | 0xA3 => some (.ldSAcq o)
  | 0xA4 => some (.ldL o)
  | 0xA5 => some (.ldLAcq o)
  | 0xA6 => some (.stG o)
  | 0xA7 => some (.stGRel o)
  | 0xA8 => some (.stGNt o)
  | 0xA9 => some (.stS o)
  | 0xAA => some (.stSRel o)
  | 0xAB => some (.stL o)
  | 0xAC => some (.stLRel o)
  | 0xAD => some (.stLNt o)
  | 0xAE => some (.ldxG o)
  | 0xAF => some (.ldxS o)
  | 0xB0 => some (.ldxL o)
  | 0xB7 => some (.pref o)
  | _ => none

/-- The instruction of a major opcode of format A (R215), by its form bits where one opcode serves several rows. -/
def instrOfA (op : Nat) (o : AOp) : Option Instr :=
  match op with
  | 0xB1 => some (.atomG o)
  | 0xB2 => some (.atomS o)
  | 0xB3 => some (.casG o)
  | 0xB4 => some (.casS o)
  | _ => none

/-- The instruction of a major opcode of format E (R215), by its form bits where one opcode serves several rows. -/
def instrOfE (op : Nat) (o : EOp) : Option Instr :=
  match op with
  | 0xC0 => some (.cpy o)
  | 0xC1 => some (.cpym o)
  | 0xC2 => if o.ext.extractLsb' 4 3 == 0#3 then some (.ringcfg o) else if o.ext.extractLsb' 4 3 == 1#3 then some (.ringcfgRsv o) else if o.ext.extractLsb' 4 3 == 2#3 then some (.ringcfgCmt o) else if o.ext.extractLsb' 4 3 == 3#3 then some (.ringcfgTake o) else if o.ext.extractLsb' 4 3 == 4#3 then some (.ringcfgPop o) else if o.ext.extractLsb' 4 3 == 5#3 then some (.ringcfgHnd o) else none
  | 0xC3 => some (.mma o)
  | 0xC4 => some (.mmas o)
  | 0xC7 => some (.attn o)
  | 0xCA => some (.evict o)
  | 0xCB => some (.coll o)
  | 0xCF => some (.bfqpost o)
  | 0xD0 => some (.bfqtake o)
  | 0xD2 => some (.gth o)
  | 0xD4 => some (.pool o)
  | 0xD5 => some (.unz o)
  | 0xE0 => some (.tld o)
  | 0xE1 => some (.tst o)
  | 0xE3 => some (.tcpy o)
  | 0xE4 => some (.tadd o)
  | 0xE5 => some (.tsub o)
  | 0xE6 => some (.tmul o)
  | 0xE7 => some (.tfma o)
  | 0xE8 => some (.tmax o)
  | 0xE9 => some (.texp o)
  | 0xEA => some (.tcvt o)
  | 0xEB => if !(o.mod.getLsbD 0) then some (.tscr o) else if o.mod.getLsbD 0 then some (.tscc o) else none
  | 0xEC => if !(o.mod.getLsbD 0) then some (.tredr o) else if o.mod.getLsbD 0 then some (.tredc o) else none
  | 0xED => if !(o.mod.getLsbD 0) then some (.trotr o) else if o.mod.getLsbD 0 then some (.trotc o) else none
  | 0xEE => if !(o.mod.getLsbD 0) then some (.tbcr o) else if o.mod.getLsbD 0 then some (.tbcc o) else none
  | _ => none

/-! ## Operation words -/

/-- The fields of an operation word (R203 to R208), or `none` where a coded field is reserved. -/
def parseWord (sl : Slot) (w0 w1 : DWord) : Option Enc :=
  let st : Site := { slot := sl, stg := w0.extractLsb' 54 2 }
  let op := w0.extractLsb' 56 8
  if op == 0#8 then
    if w0.extractLsb' 0 54 == 0#54 then some (.nop st) else none
  else
    match fmtOf op.toNat with
    | none => none
    | some .r =>
      match Ty.ofCode (w0.extractLsb' 49 5) with
      | none => none
      | some ty =>
        some (.r op { at' := st, ty := ty, d := Spec.ofCode (w0.extractLsb' 41 8), a := Spec.ofCode (w0.extractLsb' 33 8),
                      b := Spec.ofCode (w0.extractLsb' 25 8), c := Spec.ofCode (w0.extractLsb' 17 8),
                      fa := w0.getLsbD 16, fb := w0.getLsbD 15, fc := w0.getLsbD 14, mod := w0.extractLsb' 0 14 })
    | some .i =>
      match Ty.ofCode (w0.extractLsb' 49 5) with
      | none => none
      | some ty =>
        some (.i op { at' := st, ty := ty, d := Spec.ofCode (w0.extractLsb' 41 8), a := Spec.ofCode (w0.extractLsb' 33 8),
                      imm := w0.extractLsb' 13 20, fa := w0.getLsbD 12, mod := w0.extractLsb' 0 12 })
    | some .b =>
      if w0.extractLsb' 49 3 == 0#3 then
        some (.b op { at' := st, form := w0.extractLsb' 52 2, c := Spec.ofCode (w0.extractLsb' 41 8),
                      fc := w0.getLsbD 40, mod := w0.extractLsb' 32 8, off := w0.extractLsb' 0 32 })
      else none
    | some .m =>
      some (.m op { at' := st, sz := w0.extractLsb' 51 3, scp := Scope.ofCode (w0.extractLsb' 48 3),
                    d := Spec.ofCode (0#1 ++ w0.extractLsb' 41 7), base := Base.ofCode (w0.extractLsb' 35 6),
                    idx := Spec.ofCode (0#1 ++ w0.extractLsb' 28 7), pol := w0.extractLsb' 24 4,
                    tag := w0.extractLsb' 16 8, off := w0.extractLsb' 0 16 })
    | some .a =>
      match AtomTy.ofCode (w0.extractLsb' 21 3) with
      | none => none
      | some ta =>
        some (.a op { at' := st, aop := w0.extractLsb' 50 4, ord := Ord.ofCode (w0.extractLsb' 48 2),
                      scp := Scope.ofCode (w0.extractLsb' 45 3), d := Spec.ofCode (0#1 ++ w0.extractLsb' 38 7),
                      a := Spec.ofCode (0#1 ++ w0.extractLsb' 31 7), b := Spec.ofCode (0#1 ++ w0.extractLsb' 24 7),
                      ta := ta, base := Base.ofCode (w0.extractLsb' 15 6),
                      idx := Spec.ofCode (0#1 ++ w0.extractLsb' 8 7), tag := w0.extractLsb' 0 8 })
    | some .e =>
      match Ty.ofCode (w0.extractLsb' 49 5) with
      | none => none
      | some ty =>
        some (.e op { at' := st, ty := ty, d := Spec.ofCode (w0.extractLsb' 41 8), a := Spec.ofCode (w0.extractLsb' 33 8),
                      b := Spec.ofCode (w0.extractLsb' 25 8), c := Spec.ofCode (w0.extractLsb' 17 8),
                      fa := w0.getLsbD 16, fb := w0.getLsbD 15, fc := w0.getLsbD 14, mod := w0.extractLsb' 0 14,
                      ext := w1 })

/-- The instruction of an operation with its opcode number (R215). -/
def instrOf : Enc → Option Instr
  | .nop s => some (.nop s)
  | .r op o => instrOfR op.toNat o
  | .i op o => instrOfI op.toNat o
  | .b op o => instrOfB op.toNat o
  | .m op o => instrOfM op.toNat o
  | .a op o => instrOfA op.toNat o
  | .e op o => instrOfE op.toNat o

/-- One operation in a slot: its instruction, or the trap that R214 raises for it. `w1` is 0 for a one-word
operation. -/
def decodeOp (sl : Slot) (w0 w1 : DWord) : Except BadCode Instr :=
  match (parseWord sl w0 w1).bind instrOf with
  | none => .error .illegalOperation
  | some i => if !opOk i then .error .illegalOperation else if !regOk i then .error .illegalOperand else .ok i

/-! ## Bundles -/

/-- Which decoder fetches: the SIMT decoder, the VLIW decoder of a width, or a glen core (R196, R197, R76). -/
inductive Decoder where
  | simt | vliw (wide : Bool) | glen
  deriving DecidableEq, Repr

/-- The raw words of a bundle: the header, the lane mask of a VLIW bundle, and each present slot with its words. -/
structure RawBundle where
  head : BitVec 32
  lmask : BitVec 32
  ops : List (Slot × DWord × DWord)
  len : Nat
  deriving DecidableEq, Repr

/-- The KIND field of a header (R196). -/
def headKind (h : BitVec 32) : BitVec 3 := h.extractLsb' 28 3

/-- The slots of a SIMT or glen mask in ascending order (R195). -/
def maskSlots (h : BitVec 32) : List Slot :=
  (List.range 8).filterMap (fun k =>
    if h.getLsbD k then some (if headKind h == 2#3 then Slot.glen (BitVec.ofNat 3 k) else Slot.simt (BitVec.ofNat 3 k))
    else none)

/-- The slots of a VLIW header: the unit slots, then the lane slots in cluster order (R197). -/
def vliwSlots (h lmask : BitVec 32) : List Slot :=
  (List.range 4).filterMap (fun k => if h.getLsbD k then some (Slot.unit (BitVec.ofNat 2 k)) else none) ++
  (List.range 32).filterMap (fun c => if lmask.getLsbD c then some (Slot.lane (BitVec.ofNat 5 c)) else none)

/-- The present slots of a header, in the order their operations stand (R195, R197). -/
def headSlots (h lmask : BitVec 32) : List Slot :=
  if headKind h == 1#3 then vliwSlots h lmask else maskSlots h

/-- Does the header break R196, R197 or R76, or belong to another decoder (R214)? -/
def headOk (d : Decoder) (h lmask : BitVec 32) : Bool :=
  match d with
  | .simt => headKind h == 0#3 && h.extractLsb' 8 20 == 0#20
  | .glen => headKind h == 2#3 && h.getLsbD 31 && h.extractLsb' 8 19 == 0#19 && h.extractLsb' 3 4 == 0#4
  | .vliw wide =>
    headKind h == 1#3 && h.getLsbD 31 && !h.getLsbD 27 && h.extractLsb' 4 22 == 0#22 && h.getLsbD 26 == wide &&
      (wide || lmask.extractLsb' 16 16 == 0#16)

/-- The little-endian word that bytes stand for (R195). -/
def wordOf (w : Nat) (bs : List Byte) : BitVec w := BitVec.ofNat w (leNat bs)

/-- The operations of the listed slots, read in order from a reader of `n` bytes at an offset (R195, R198). -/
def readOps {ε : Type} (rd : Nat → Nat → Except ε (List Byte)) :
    List Slot → Nat → Except ε (List (Slot × DWord × DWord) × Nat)
  | [], p => .ok ([], p)
  | sl :: rest, p =>
    match rd p 8 with
    | .error e => .error e
    | .ok b0 =>
      let w0 : DWord := wordOf 64 b0
      if isTwoWord (w0.extractLsb' 56 8) then
        match rd (p + 8) 8 with
        | .error e => .error e
        | .ok b1 =>
          match readOps rd rest (p + 16) with
          | .error e => .error e
          | .ok (l, q) => .ok ((sl, w0, wordOf 64 b1) :: l, q)
      else
        match readOps rd rest (p + 8) with
        | .error e => .error e
        | .ok (l, q) => .ok ((sl, w0, 0#64) :: l, q)

/-- The bundle that a reader holds at offset 0 (R195 to R198). -/
def readBundle {ε : Type} (rd : Nat → Nat → Except ε (List Byte)) : Except ε RawBundle :=
  match rd 0 4 with
  | .error e => .error e
  | .ok hb =>
    let h : BitVec 32 := wordOf 32 hb
    let lm : Except ε (BitVec 32) :=
      if headKind h == 1#3 then
        match rd 4 4 with
        | .error e => .error e
        | .ok lb => .ok (wordOf 32 lb)
      else .ok 0#32
    match lm with
    | .error e => .error e
    | .ok l =>
      match readOps rd (headSlots h l) (if headKind h == 1#3 then 8 else 4) with
      | .error e => .error e
      | .ok (ops, n) => .ok { head := h, lmask := l, ops := ops, len := n }

/-- The reader over a list of bytes that starts at the bundle's address. -/
def listReader (bs : List Byte) (p n : Nat) : Except BadCode (List Byte) :=
  let l := (bs.drop p).take n
  if l.length == n then .ok l else .error .illegalBundle

/-- The operations of a bundle in program order, or the first failing slot (`none` for the header) with its trap
(R214). -/
def decodeOps : List (Slot × DWord × DWord) → Except (Option Slot × BadCode) (List Instr)
  | [] => .ok []
  | (sl, w0, w1) :: rest =>
    match decodeOp sl w0 w1 with
    | .error e => .error (some sl, e)
    | .ok i =>
      match decodeOps rest with
      | .error e => .error e
      | .ok l => .ok (i :: l)

/-- The part of R214's check that needs only the bundle's words and the decoder. -/
def decodeBundle (d : Decoder) (r : RawBundle) : Except (Option Slot × BadCode) (List Instr) :=
  if headOk d r.head r.lmask then decodeOps r.ops else .error (none, .illegalBundle)

/-- The length of the bundle at the start of a list of bytes (R198), where the list holds it whole. -/
def bundleLen (bs : List Byte) : Option Nat :=
  match readBundle (listReader bs) with
  | .ok r => some r.len
  | .error _ => none

/-! ## The host's word of the opcode table -/

/-- The slots that an operation may stand in, SIMT first, then glen, then VLIW. -/
def tableSlots : List Slot :=
  (List.range 8).map (fun k => Slot.simt (BitVec.ofNat 3 k)) ++
  (List.range 8).map (fun k => Slot.glen (BitVec.ofNat 3 k)) ++
  (List.range 4).map (fun k => Slot.unit (BitVec.ofNat 2 k)) ++ [Slot.lane 0#5]

/-- The first slot in which the decoder accepts the words. -/
def firstSlot (w0 w1 : DWord) : List Slot → Option (Slot × Instr)
  | [] => none
  | sl :: rest =>
    match decodeOp sl w0 w1 with
    | .ok i => some (sl, i)
    | .error _ => firstSlot w0 w1 rest

/-- The slot and instruction of a table word of more than 32 bits: one operation of one or two 64-bit words. -/
def tableWordSlot (w : Nat) : Option (Slot × Instr) :=
  firstSlot (BitVec.ofNat 64 w) (BitVec.ofNat 64 (w / 2 ^ 64)) tableSlots

/-- The instruction that the decoder reads from a word of the opcode table. A word of at most 32 bits is a bundle
header of its own (R198): the empty bundle of the first gang. A longer word is one operation, in the first slot that
accepts it. -/
def decodeTableWord (nbits w : Nat) : Option Instr :=
  if nbits ≤ 32 then
    if headOk .simt (BitVec.ofNat 32 w) 0#32 && (maskSlots (BitVec.ofNat 32 w)).isEmpty then
      some (.emptyBundle (.gang { core := 0, bank := 0, slot := 0, slice := 0 }))
    else none
  else (tableWordSlot w).map Prod.snd

/-! ## The encoder -/

/-- The opcode and format record of an operation; an event has none. -/
def encOf : Instr → Option Enc
  | .nop o => some (.nop o)
  | .emptyBundle _ => none
  | .bra o => some (.b 0x1#8 o)
  | .brx o => some (.r 0x2#8 o)
  | .call o => some (.b 0x3#8 o)
  | .callx o => some (.r 0x4#8 o)
  | .ret o => some (.r 0x5#8 o)
  | .ifC o => some (.r 0x6#8 o)
  | .elseC o => some (.r 0x7#8 o)
  | .endif o => some (.r 0x8#8 o)
  | .loop o => some (.b 0x9#8 o)
  | .endloop o => some (.r 0xA#8 o)
  | .brk o => some (.r 0xB#8 o)
  | .cont o => some (.r 0xC#8 o)
  | .regang o => some (.r 0xD#8 o)
  | .regangRendezvous _ => none
  | .exit o => some (.r 0xE#8 o)
  | .mode o => some (.b 0xF#8 o)
  | .modeSwitch _ => none
  | .prfi o => some (.b 0x10#8 o)
  | .spawn o => some (.r 0x11#8 o)
  | .elect o => some (.r 0x12#8 o)
  | .trap o => some (.i 0x13#8 o)
  | .brkp o => some (.i 0x14#8 o)
  | .sysc o => some (.i 0x15#8 o)
  | .rdsr o => some (.i 0x16#8 o)
  | .wrsr o => some (.i 0x17#8 o)
  | .rdtime o => some (.r 0x18#8 o)
  | .eret o => some (.r 0x19#8 o)
  | .halt o => some (.r 0x1D#8 o)
  | .eventTake _ => none
  | .tlbiRng o => some (.r 0x1A#8 o)
  | .tlbiCtx o => some (.r 0x1A#8 o)
  | .tlbiAll o => some (.r 0x1A#8 o)
  | .tlbiSync o => some (.r 0x1A#8 o)
  | .ctxsave o => some (.r 0x1B#8 o)
  | .ctxload o => some (.r 0x1C#8 o)
  | .add o => some (.r 0x20#8 o)
  | .sub o => some (.r 0x21#8 o)
  | .addc o => some (.r 0x22#8 o)
  | .subc o => some (.r 0x23#8 o)
  | .mul o => some (.r 0x24#8 o)
  | .mulh o => some (.r 0x25#8 o)
  | .mad o => some (.r 0x26#8 o)
  | .div o => some (.r 0x27#8 o)
  | .rem o => some (.r 0x28#8 o)
  | .min o => some (.r 0x29#8 o)
  | .max o => some (.r 0x2A#8 o)
  | .abs o => some (.r 0x2B#8 o)
  | .neg o => some (.r 0x2C#8 o)
  | .and o => some (.r 0x2D#8 o)
  | .or o => some (.r 0x2E#8 o)
  | .xor o => some (.r 0x2F#8 o)
  | .andn o => some (.r 0x30#8 o)
  | .not o => some (.r 0x31#8 o)
  | .shl o => some (.r 0x32#8 o)
  | .shr o => some (.r 0x33#8 o)
  | .sar o => some (.r 0x34#8 o)
  | .rot o => some (.r 0x35#8 o)
  | .bfx o => some (.r 0x36#8 o)
  | .bfi o => some (.r 0x37#8 o)
  | .popc o => some (.r 0x38#8 o)
  | .clz o => some (.r 0x39#8 o)
  | .brev o => some (.r 0x3A#8 o)
  | .sel o => some (.r 0x3B#8 o)
  | .cmp o => some (.r 0x3C#8 o)
  | .mov o => some (.r 0x3D#8 o)
  | .movi o => some (.i 0x3E#8 o)
  | .movw o => some (.i 0x3F#8 o)
  | .addImm o => some (.i 0x40#8 o)
  | .mulImm o => some (.i 0x41#8 o)
  | .andImm o => some (.i 0x42#8 o)
  | .orImm o => some (.i 0x43#8 o)
  | .xorImm o => some (.i 0x44#8 o)
  | .shlImm o => some (.i 0x45#8 o)
  | .shrImm o => some (.i 0x46#8 o)
  | .sarImm o => some (.i 0x47#8 o)
  | .cmpImm o => some (.i 0x48#8 o)
  | .minImm o => some (.i 0x49#8 o)
  | .maxImm o => some (.i 0x4A#8 o)
  | .fadd o => some (.r 0x50#8 o)
  | .fsub o => some (.r 0x51#8 o)
  | .fmul o => some (.r 0x52#8 o)
  | .fma o => some (.r 0x53#8 o)
  | .fdiv o => some (.r 0x59#8 o)
  | .fmin o => some (.r 0x54#8 o)
  | .fmax o => some (.r 0x55#8 o)
  | .fcmp o => some (.r 0x56#8 o)
  | .fclass o => some (.r 0x57#8 o)
  | .frnd o => some (.r 0x58#8 o)
  | .rcp o => some (.r 0x5A#8 o)
  | .rsq o => some (.r 0x5B#8 o)
  | .sqrt o => some (.r 0x5C#8 o)
  | .exp2 o => some (.r 0x5D#8 o)
  | .log2 o => some (.r 0x5E#8 o)
  | .sin o => some (.r 0x5F#8 o)
  | .cos o => some (.r 0x60#8 o)
  | .tanh o => some (.r 0x61#8 o)
  | .cvt o => some (.r 0x62#8 o)
  | .pack o => some (.r 0x63#8 o)
  | .unpack o => some (.r 0x64#8 o)
  | .fmt o => some (.i 0x65#8 o)
  | .fmtrd o => some (.r 0x66#8 o)
  | .dot4 o => some (.r 0x67#8 o)
  | .dot8 o => some (.r 0x68#8 o)
  | .dotf o => some (.r 0x69#8 o)
  | .cbset o => some (.r 0x80#8 o)
  | .cbenc o => some (.r 0x81#8 o)
  | .cbdec o => some (.r 0x82#8 o)
  | .shfl o => some (.r 0x83#8 o)
  | .bcast o => some (.r 0x84#8 o)
  | .vote o => some (.r 0x85#8 o)
  | .redux o => some (.r 0x86#8 o)
  | .psend o => some (.r 0x87#8 o)
  | .ptake o => some (.r 0x88#8 o)
  | .rng o => some (.r 0x89#8 o)
  | .rngf o => some (.r 0x8A#8 o)
  | .rsplit o => some (.r 0x8B#8 o)
  | .rngrd o => some (.r 0x8C#8 o)
  | .rngwr o => some (.r 0x8D#8 o)
  | .ldG o => some (.m 0xA0#8 o)
  | .ldGAcq o => some (.m 0xA1#8 o)
  | .ldS o => some (.m 0xA2#8 o)
  | .ldSAcq o => some (.m 0xA3#8 o)
  | .ldL o => some (.m 0xA4#8 o)
  | .ldLAcq o => some (.m 0xA5#8 o)
  | .stG o => some (.m 0xA6#8 o)
  | .stGRel o => some (.m 0xA7#8 o)
  | .stGNt o => some (.m 0xA8#8 o)
  | .stS o => some (.m 0xA9#8 o)
  | .stSRel o => some (.m 0xAA#8 o)
  | .stL o => some (.m 0xAB#8 o)
  | .stLRel o => some (.m 0xAC#8 o)
  | .stLNt o => some (.m 0xAD#8 o)
  | .ldxG o => some (.m 0xAE#8 o)
  | .ldxS o => some (.m 0xAF#8 o)
  | .ldxL o => some (.m 0xB0#8 o)
  | .atomG o => some (.a 0xB1#8 o)
  | .atomS o => some (.a 0xB2#8 o)
  | .casG o => some (.a 0xB3#8 o)
  | .casS o => some (.a 0xB4#8 o)
  | .fence o => some (.r 0xB5#8 o)
  | .fenceComplete _ => none
  | .drain o => some (.r 0xB6#8 o)
  | .pref o => some (.m 0xB7#8 o)
  | .trx o => some (.r 0xB8#8 o)
  | .xpat o => some (.i 0xB9#8 o)
  | .stmap o => some (.r 0xBA#8 o)
  | .stflush o => some (.r 0xBB#8 o)
  | .stunmap o => some (.r 0xBC#8 o)
  | .qbind o => some (.r 0xBD#8 o)
  | .qfree o => some (.r 0xBE#8 o)
  | .cpy o => some (.e 0xC0#8 o)
  | .cpym o => some (.e 0xC1#8 o)
  | .ringcfg o => some (.e 0xC2#8 o)
  | .ringcfgRsv o => some (.e 0xC2#8 o)
  | .ringcfgCmt o => some (.e 0xC2#8 o)
  | .ringcfgTake o => some (.e 0xC2#8 o)
  | .ringcfgPop o => some (.e 0xC2#8 o)
  | .ringcfgHnd o => some (.e 0xC2#8 o)
  | .ringReconfigure _ _ => none
  | .mma o => some (.e 0xC3#8 o)
  | .mmas o => some (.e 0xC4#8 o)
  | .accflg o => some (.r 0xC5#8 o)
  | .accclr o => some (.r 0xC6#8 o)
  | .attn o => some (.e 0xC7#8 o)
  | .massfold o => some (.r 0xC8#8 o)
  | .kvtrunc o => some (.r 0xC9#8 o)
  | .evict o => some (.e 0xCA#8 o)
  | .coll o => some (.e 0xCB#8 o)
  | .waitf o => some (.r 0xCC#8 o)
  | .waitfWake _ => none
  | .setf o => some (.r 0xCD#8 o)
  | .addf o => some (.r 0xCE#8 o)
  | .setfRem o => some (.r 0xCD#8 o)
  | .addfRem o => some (.r 0xCE#8 o)
  | .setfHnd o => some (.r 0xCD#8 o)
  | .bfqpost o => some (.e 0xCF#8 o)
  | .bfqtake o => some (.e 0xD0#8 o)
  | .bfqtakeTimeout _ _ => none
  | .bfqdone o => some (.r 0xD1#8 o)
  | .gth o => some (.e 0xD2#8 o)
  | .dedup o => some (.r 0xD3#8 o)
  | .pool o => some (.e 0xD4#8 o)
  | .unz o => some (.e 0xD5#8 o)
  | .hand o => some (.r 0xD6#8 o)
  | .segwait o => some (.i 0xD7#8 o)
  | .tld o => some (.e 0xE0#8 o)
  | .tst o => some (.e 0xE1#8 o)
  | .tzero o => some (.r 0xE2#8 o)
  | .tcpy o => some (.e 0xE3#8 o)
  | .tadd o => some (.e 0xE4#8 o)
  | .tsub o => some (.e 0xE5#8 o)
  | .tmul o => some (.e 0xE6#8 o)
  | .tfma o => some (.e 0xE7#8 o)
  | .tmax o => some (.e 0xE8#8 o)
  | .texp o => some (.e 0xE9#8 o)
  | .tcvt o => some (.e 0xEA#8 o)
  | .tscr o => some (.e 0xEB#8 o)
  | .tscc o => some (.e 0xEB#8 o)
  | .tredr o => some (.e 0xEC#8 o)
  | .tredc o => some (.e 0xEC#8 o)
  | .trotr o => some (.e 0xED#8 o)
  | .trotc o => some (.e 0xED#8 o)
  | .tbcr o => some (.e 0xEE#8 o)
  | .tbcc o => some (.e 0xEE#8 o)
  | .instructionFetch _ => none
  | .icacheLineFill _ _ => none
  | .writeBack _ _ => none
  | .storePerform _ _ => none
  | .pageWalk _ _ _ _ => none
  | .atsCompletion _ _ _ => none
  | .pageRequestResponse _ _ _ => none
  | .atsInvalidation _ _ _ => none
  | .shootdownAck _ _ => none
  | .shootdownComplete _ => none
  | .stashFill _ _ _ _ _ => none
  | .stashRecall _ _ _ _ _ => none
  | .hostSnoop _ _ _ => none
  | .engineCommandStart _ _ => none
  | .ownershipRegistration _ _ => none
  | .lineRelease _ _ _ => none
  | .ringReserveGrant _ _ => none
  | .ringCommit _ _ => none
  | .ringClaimGrant _ _ => none
  | .copyComplete _ _ => none
  | .matrixOpComplete _ _ => none
  | .tileOpComplete _ _ => none
  | .sequenceClaimGrant _ _ => none
  | .sequenceCommandComplete _ _ => none
  | .glenCommandComplete _ _ => none
  | .glenProgramEnd _ => none
  | .segmentCopyComplete _ => none
  | .collectiveComplete _ _ => none
  | .collectiveTimeout _ _ => none
  | .gatherCounterHalving _ => none
  | .meadowControlWrite _ _ => none
  | .taskStart _ => none
  | .teamClaim _ => none
  | .teamPlace _ => none
  | .teamHandoff _ _ => none
  | .placementReserveTimeout _ => none
  | .teamRetire _ _ => none
  | .gridComplete _ _ => none
  | .gangPriorityAging _ => none
  | .kick _ _ _ => none
  | .nopPacket _ => none
  | .launch _ => none
  | .copy _ => none
  | .signal _ => none
  | .waitAll _ => none
  | .waitAny _ => none
  | .overlay _ => none
  | .conditionLatch _ _ => none
  | .waitTimeout _ => none
  | .packetComplete _ _ => none
  | .queueStarvationPromotion _ => none
  | .createQueue _ _ => none
  | .destroyQueue _ _ => none
  | .resetQueue _ _ _ => none
  | .resumeQueue _ _ => none
  | .createEventQueue _ _ => none
  | .writeContextDescriptor _ _ _ _ => none
  | .shootdownRequest _ _ => none
  | .drainRequest _ _ => none
  | .drainTimeout _ => none
  | .drainComplete _ => none
  | .resumeAfterDrain _ _ => none
  | .teamRestore _ => none
  | .configureBfq _ _ _ _ => none
  | .latencyTolerance _ _ _ => none
  | .attestationQuote _ _ => none
  | .healthReport _ => none
  | .writeDebugRegisters _ _ _ _ => none
  | .configurePartitions _ _ => none
  | .answerRetry _ _ => none
  | .answerEnd _ _ => none
  | .answerLim _ _ _ => none
  | .eccError _ _ => none
  | .patrolScrub _ => none
  | .packageReset => none
  | .islandIdle _ => none
  | .islandWake _ => none
  | .ageingMonitor _ _ _ => none
  | .linkLoss _ => none
  | .moduleTrainingFailure _ => none
  | .fixedLatencyWriteBack _ _ => none
  | .mailboxInvalidRequest _ _ => none
  | .powerFailure => none
  | .customerKeySlotProvision _ _ => none
  | .vendorKeyRevocation => none
  | .saveAreaSupply _ _ => none

/-- The words of an operation (R203 to R208). -/
def Enc.words : Enc → DWord × DWord
  | .nop s => (0#8 ++ s.stg ++ 0#54, 0#64)
  | .r op o =>
    (op ++ o.at'.stg ++ o.ty.code ++ o.d.code ++ o.a.code ++ o.b.code ++ o.c.code ++ BitVec.ofBool o.fa ++
      BitVec.ofBool o.fb ++ BitVec.ofBool o.fc ++ o.mod, 0#64)
  | .i op o =>
    (op ++ o.at'.stg ++ o.ty.code ++ o.d.code ++ o.a.code ++ o.imm ++ BitVec.ofBool o.fa ++ o.mod, 0#64)
  | .b op o =>
    (op ++ o.at'.stg ++ o.form ++ 0#3 ++ o.c.code ++ BitVec.ofBool o.fc ++ o.mod ++ o.off, 0#64)
  | .m op o =>
    (op ++ o.at'.stg ++ o.sz ++ o.scp.code ++ o.d.code.extractLsb' 0 7 ++ o.base.code ++
      o.idx.code.extractLsb' 0 7 ++ o.pol ++ o.tag ++ o.off, 0#64)
  | .a op o =>
    (op ++ o.at'.stg ++ o.aop ++ o.ord.code ++ o.scp.code ++ o.d.code.extractLsb' 0 7 ++
      o.a.code.extractLsb' 0 7 ++ o.b.code.extractLsb' 0 7 ++ o.ta.code ++ o.base.code ++
      o.idx.code.extractLsb' 0 7 ++ o.tag, 0#64)
  | .e op o =>
    (op ++ o.at'.stg ++ o.ty.code ++ o.d.code ++ o.a.code ++ o.b.code ++ o.c.code ++ BitVec.ofBool o.fa ++
      BitVec.ofBool o.fb ++ BitVec.ofBool o.fc ++ o.mod, o.ext)

/-- The site of an operation. -/
def Enc.site : Enc → Site
  | .nop s => s
  | .r _ o => o.at'
  | .i _ o => o.at'
  | .b _ o => o.at'
  | .m _ o => o.at'
  | .a _ o => o.at'
  | .e _ o => o.at'

/-- The words of a well-formed operation; an event has none. -/
def encode (i : Instr) : Option (DWord × DWord) := (encOf i).map Enc.words

end Sys2Proof
end

