-- ==== Sys2Proof/Machine/Sparse.lean ====
section
/-! DEFINITION. The operations of sparse data in its canonical form: keys strictly rising, and no entry equal to the
value that an absent key reads as. Memory, register files and the device's tables are all held so. -/

namespace Sys2Proof

/-- The value at a key; `d` is what an absent key reads as. -/
def Sparse.look {α : Type} (d : α) (k : Nat) : Sparse α → α
  | [] => d
  | (j, x) :: m => if j = k then x else Sparse.look d k m

/-- A value in its place among rising keys. -/
def Sparse.ins {α : Type} (k : Nat) (v : α) : Sparse α → Sparse α
  | [] => [(k, v)]
  | (j, x) :: m => if k < j then (k, v) :: (j, x) :: m else if j = k then (k, v) :: m else (j, x) :: Sparse.ins k v m

/-- The data with key `k` holding `v`; storing `d` removes the entry. -/
def Sparse.put {α : Type} [DecidableEq α] (d : α) (k : Nat) (v : α) (m : Sparse α) : Sparse α :=
  if v = d then m.filter (fun p => p.1 != k) else m.ins k v

/-- The entry at a key changed by `f`. -/
def Sparse.upd {α : Type} [DecidableEq α] (d : α) (k : Nat) (f : α → α) (m : Sparse α) : Sparse α :=
  Sparse.put d k (f (Sparse.look d k m)) m

/-- Every key from `lo` to `hi - 1` holding `d` again. -/
def Sparse.clear {α : Type} (lo hi : Nat) (m : Sparse α) : Sparse α :=
  m.filter (fun p => p.1 < lo || hi ≤ p.1)

/-- The canonical form: every key below the next, and no entry equal to `d`. -/
def Sparse.wfFrom {α : Type} [DecidableEq α] (d : α) (lo : Nat) : Sparse α → Bool
  | [] => true
  | (j, x) :: m => lo ≤ j && x != d && Sparse.wfFrom d (j + 1) m

/-- The canonical form of sparse data. -/
def Sparse.wf {α : Type} [DecidableEq α] (d : α) (m : Sparse α) : Bool := Sparse.wfFrom d 0 m

/-- Bytes of the memory: an unlisted address reads 0 (DESIGN CHOICE, log entry 3 for the scratchpad and tiles, DESIGN CHOICE, log entry 7 for the
memory outside the package; the local HBM reads zero by R71). -/
abbrev Memory := Sparse Byte

/-- One byte of memory. -/
def Memory.byte (m : Memory) (a : Nat) : Byte := Sparse.look 0#8 a m

/-- `n` bytes from address `a`, lowest first. -/
def Memory.read (m : Memory) (a : Nat) : Nat → List Byte
  | 0 => []
  | n + 1 => m.byte a :: Memory.read m (a + 1) n

/-- The bytes of a list stored from address `a`. -/
def Memory.write (m : Memory) (a : Nat) : List Byte → Memory
  | [] => m
  | b :: bs => Memory.write (Sparse.put 0#8 a b m) (a + 1) bs

/-- The canonical form of memory. -/
abbrev Memory.wf (m : Memory) : Prop := Sparse.wf 0#8 m = true

/-- `n` bytes as a little-endian number (R5). -/
def Memory.num (m : Memory) (a n : Nat) : Nat := leNat (m.read a n)

/-- The list with position `k` changed by `f`; a position past the end changes nothing. -/
def listUpd {α : Type} (l : List α) (k : Nat) (f : α → α) : List α := l.modify k f

end Sys2Proof
end

