-- ==== Sys2Proof/Machine/Integer.lean ====
section
/-! DEFINITION. The arithmetic of the integer operations (R241 to R248), on the numbers that elements stand for. -/

namespace Sys2Proof.Machine

/-- The element width of a type (R177, R178). -/
abbrev elemWidth (t : Ty) : Nat := t.elemBits

/-- Is the type read as signed (R241)? -/
def isSigned : Ty → Bool
  | .i32 | .i16x2 | .i8x4 | .i4x8 | .i64 => true
  | _ => false

/-- A pattern of `w` bits read as signed. -/
def toSigned (w x : Nat) : Int :=
  let y := x % 2 ^ w
  if 2 * y < 2 ^ w then (y : Int) else (y : Int) - 2 ^ w

/-- num(v) of R241 for the element at bits [w-1:0]. -/
def num (t : Ty) (x : Nat) : Int :=
  if isSigned t then toSigned (elemWidth t) x else ((x % 2 ^ elemWidth t : Nat) : Int)

/-- The pattern of `w` bits congruent to `r` modulo 2^w. -/
def wrapTo (w : Nat) (r : Int) : Nat := (r % (2 ^ w : Int)).toNat

/-- The lowest and highest value of a type (R177). -/
def minOf (t : Ty) : Int := if isSigned t then -(2 ^ (elemWidth t - 1) : Int) else 0
def maxOf (t : Ty) : Int := if isSigned t then 2 ^ (elemWidth t - 1) - 1 else 2 ^ elemWidth t - 1

/-- `r` clamped to the range of the type (R183). -/
def clampTo (t : Ty) (r : Int) : Int := if r < minOf t then minOf t else if maxOf t < r then maxOf t else r

/-- The element that R241 writes for an exact result. -/
def fitTo (t : Ty) (sat : Bool) (r : Int) : Nat := wrapTo (elemWidth t) (if sat then clampTo t r else r)

/-- Element `i` of a register value (R178). -/
def elemAt (t : Ty) (x i : Nat) : Nat := x / 2 ^ (elemWidth t * i) % 2 ^ elemWidth t

/-- The register value of the elements from `i` on, lowest first (R178). -/
def joinElems (w : Nat) : List Nat → Nat
  | [] => 0
  | e :: es => e % 2 ^ w + 2 ^ w * joinElems w es

/-- An operation element by element over three register values (R241). -/
def mapElems (t : Ty) (f : Nat → Nat → Nat → Nat) (a b c : Nat) : Nat :=
  joinElems (elemWidth t) ((List.range t.count).map (fun i => f (elemAt t a i) (elemAt t b i) (elemAt t c i)))

/-- The arithmetic operations of R241. -/
inductive Arith where
  | add | sub | mul | mad | mulh | min | max | abs | neg
  deriving DecidableEq, Repr

/-- The exact result r of R241. -/
def Arith.exact (k : Arith) (w : Nat) (x y z : Int) : Int :=
  match k with
  | .add => x + y
  | .sub => x - y
  | .mul => x * y
  | .mad => x * y + z
  | .mulh => Int.fdiv (x * y) (2 ^ w)
  | .min => if x ≤ y then x else y
  | .max => if x ≤ y then y else x
  | .abs => if x < 0 then -x else x
  | .neg => -x

/-- R241 on whole register values. -/
def arith (k : Arith) (t : Ty) (sat : Bool) (a b c : Nat) : Nat :=
  mapElems t (fun x y z => fitTo t sat (k.exact (elemWidth t) (num t x) (num t y) (num t z))) a b c

/-- ADDC of R242: the sum or, with .hi, the carry out. -/
def addCarry (t : Ty) (hi : Bool) (a b c : Nat) : Nat :=
  let w := elemWidth t
  let r := a % 2 ^ w + b % 2 ^ w + c % 2
  if hi then r / 2 ^ w else r % 2 ^ w

/-- SUBC of R242: the difference or, with .hi, the borrow. -/
def subBorrow (t : Ty) (hi : Bool) (a b c : Nat) : Nat :=
  let w := elemWidth t
  let r : Int := ((a % 2 ^ w : Nat) : Int) - ((b % 2 ^ w : Nat) : Int) - ((c % 2 : Nat) : Int)
  if hi then (if r < 0 then 1 else 0) else wrapTo w r

/-- DIV of R243: toward zero; all bits set for a divisor of 0; -2^(w-1) / -1 wraps, or clamps with .sat. -/
def divide (t : Ty) (sat : Bool) (a b : Nat) : Nat :=
  let x := num t a
  let y := num t b
  if y = 0 then 2 ^ elemWidth t - 1 else fitTo t sat (Int.tdiv x y)

/-- REM of R243. -/
def remainder (t : Ty) (a b : Nat) : Nat :=
  let x := num t a
  let y := num t b
  if y = 0 then a % 2 ^ elemWidth t else wrapTo (elemWidth t) (Int.tmod x y)

/-- The logical operations of R244. -/
inductive Logic where
  | and | or | xor | andn | not
  deriving DecidableEq, Repr

/-- R244 on patterns of `w` bits. -/
def logic (k : Logic) (w a b : Nat) : Nat :=
  let x := a % 2 ^ w
  let y := b % 2 ^ w
  match k with
  | .and => x &&& y
  | .or => x ||| y
  | .xor => x ^^^ y
  | .andn => x &&& (2 ^ w - 1 - y)
  | .not => 2 ^ w - 1 - x

/-- The shifts of R244. -/
inductive Shift where
  | shl | shr | sar | rot
  deriving DecidableEq, Repr

/-- One element shifted by `s` (R244). -/
def shiftElem (k : Shift) (w x s : Nat) : Nat :=
  match k with
  | .shl => if s < w then x * 2 ^ s % 2 ^ w else 0
  | .shr => if s < w then x / 2 ^ s else 0
  | .sar => wrapTo w (Int.fdiv (toSigned w x) (2 ^ Nat.min s w))
  | .rot => (x * 2 ^ (s % w) + x * 2 ^ (s % w) / 2 ^ w) % 2 ^ w

/-- R244 on whole register values: each element by the same element of b, read unsigned. -/
def shift (k : Shift) (t : Ty) (a b : Nat) : Nat :=
  mapElems t (fun x s _ => shiftElem k (elemWidth t) x s) a b 0

/-- The position and length of a bit-field control word (R245). -/
def fieldOf (w ctl : Nat) : Nat × Nat :=
  let p := Nat.min (ctl % 256) w
  (p, Nat.min (ctl / 256 % 256) (w - p))

/-- BFX of R245. -/
def bitExtract (t : Ty) (a ctl : Nat) : Nat :=
  let w := elemWidth t
  let (p, l) := fieldOf w ctl
  if l = 0 then 0
  else
    let x := a % 2 ^ w / 2 ^ p % 2 ^ l
    if isSigned t then wrapTo w (toSigned l x) else x

/-- BFI of R245. -/
def bitInsert (t : Ty) (a b ctl : Nat) : Nat :=
  let w := elemWidth t
  let (p, l) := fieldOf w ctl
  let y := b % 2 ^ w
  y % 2 ^ p + 2 ^ p * (a % 2 ^ l) + 2 ^ (p + l) * (y / 2 ^ (p + l))

/-- The number of 1 bits among the lowest `w` bits. -/
def popcount : Nat → Nat → Nat
  | 0, _ => 0
  | w + 1, x => x % 2 + popcount w (x / 2)

/-- CLZ of R245. -/
def leadingZeros (w x : Nat) : Nat :=
  let y := x % 2 ^ w
  if y = 0 then w else w - 1 - Nat.log2 y

/-- BREV of R245. -/
def bitReverse : Nat → Nat → Nat
  | 0, _ => 0
  | w + 1, x => x % 2 * 2 ^ w + bitReverse w (x / 2)

/-- The conditions of CMP (R246). -/
def compareInt (cc : Nat) (x y : Int) : Bool :=
  match cc with
  | 0 => x == y
  | 1 => x != y
  | 2 => x < y
  | 3 => x ≤ y
  | 4 => y < x
  | _ => y ≤ x

/-- The element that a comparison writes (R246, R261). -/
def truthElem (w : Nat) (m b : Bool) : Nat := if b then (if m then 2 ^ w - 1 else 1) else 0

/-- CMP of R246 on whole register values. -/
def compareElems (t : Ty) (cc : Nat) (m : Bool) (a b : Nat) : Nat :=
  mapElems t (fun x y _ => truthElem (elemWidth t) m (compareInt cc (num t x) (num t y))) a b 0

/-- MOVW of R247: the h-th half-word of `d` replaced. -/
def insertHalf (d h imm : Nat) : Nat :=
  d % 2 ^ (16 * h) + 2 ^ (16 * h) * (imm % 65536) + 2 ^ (16 * h + 16) * (d / 2 ^ (16 * h + 16))

/-- The width of an operation's whole value: 64 bits for the 64-bit types, 32 for every other (R178, R227). -/
def wholeWidth (t : Ty) : Nat := match t with | .i64 | .n64 | .b64 => 64 | _ => 32

/-- What a scalar-path operation writes for a result of its type: i32 sign-extended, every other 32-bit or packed
type zero-extended (R227). -/
def scalarOf (t : Ty) (r : Nat) : DWord :=
  match t with
  | .i64 | .n64 | .b64 => BitVec.ofNat 64 r
  | .i32 => BitVec.ofInt 64 (toSigned 32 r)
  | _ => BitVec.ofNat 64 (r % 2 ^ 32)

/-- What MOV writes on the scalar path: all 64 bits of a register, whatever the type (R247); another source as a result of the type. -/
def movedOf (t : Ty) (a : Spec) (x : Nat) : DWord := match a with | .s _ => BitVec.ofNat 64 x | _ => scalarOf t x

end Sys2Proof.Machine
end

