-- ==== Sys2Proof/Machine/Float.lean ====
section
/-! DEFINITION. The number formats and their arithmetic (R175 to R188): values, the one rounding of R182, NaN
handling, and the exact results of the lane floating-point operations. -/

namespace Sys2Proof.Machine

/-- A floating-point format (R175): exponent bits, fraction bits, bias; `fin` marks e4m3, which has no infinity. -/
structure FFmt where
  eb : Nat
  mb : Nat
  bias : Nat
  fin : Bool
  deriving DecidableEq, Repr

def f32 : FFmt := { eb := 8, mb := 23, bias := 127, fin := false }
def bf16 : FFmt := { eb := 8, mb := 7, bias := 127, fin := false }
def h16 : FFmt := { eb := 5, mb := 10, bias := 15, fin := false }
def e4m3 : FFmt := { eb := 4, mb := 3, bias := 7, fin := true }
def e5m2 : FFmt := { eb := 5, mb := 2, bias := 15, fin := false }
def f24 : FFmt := { eb := 8, mb := 15, bias := 127, fin := false }

/-- The format's width in bits. -/
def FFmt.width (f : FFmt) : Nat := 1 + f.eb + f.mb

/-- The element format of a floating-point type. -/
def fmtOfTy : Ty → Option FFmt
  | .f32 => some f32
  | .bf16x2 => some bf16
  | .h16x2 => some h16
  | .e4m3x4 => some e4m3
  | .e5m2x4 => some e5m2
  | _ => none

/-- A value: NaN, a signed infinity, or a signed number ± m × 2^e (m = 0 is a signed zero). -/
inductive Fp where
  | nan
  | inf (neg : Bool)
  | num (neg : Bool) (m : Nat) (e : Int)
  deriving DecidableEq, Repr

/-- The fields of an encoding (R175). -/
def FFmt.sign (f : FFmt) (x : Nat) : Bool := x / 2 ^ (f.eb + f.mb) % 2 == 1
def FFmt.exp (f : FFmt) (x : Nat) : Nat := x / 2 ^ f.mb % 2 ^ f.eb
def FFmt.frac (f : FFmt) (x : Nat) : Nat := x % 2 ^ f.mb

/-- Is the encoding a NaN (R175)? -/
def FFmt.isNan (f : FFmt) (x : Nat) : Bool :=
  f.exp x == 2 ^ f.eb - 1 && (if f.fin then f.frac x == 2 ^ f.mb - 1 else f.frac x != 0)

/-- Is it a signalling NaN? e4m3 has quiet NaNs only (R175). -/
def FFmt.isSnan (f : FFmt) (x : Nat) : Bool :=
  f.isNan x && !f.fin && f.frac x / 2 ^ (f.mb - 1) == 0

/-- value(x) of R182. -/
def FFmt.value (f : FFmt) (x : Nat) : Fp :=
  if f.isNan x then .nan
  else if f.exp x == 2 ^ f.eb - 1 && !f.fin then .inf (f.sign x)
  else if f.exp x == 0 then .num (f.sign x) (f.frac x) (1 - (f.bias : Int) - f.mb)
  else .num (f.sign x) (2 ^ f.mb + f.frac x) ((f.exp x : Int) - f.bias - f.mb)

/-- The bit pattern of sign, exponent field and fraction. -/
def FFmt.pack (f : FFmt) (neg : Bool) (e m : Nat) : Nat := (if neg then 2 ^ (f.eb + f.mb) else 0) + 2 ^ f.mb * e + m

def FFmt.zero (f : FFmt) (neg : Bool) : Nat := f.pack neg 0 0
/-- ±∞; for e4m3 the NaN that stands for an overflow (R182). -/
def FFmt.infinity (f : FFmt) (neg : Bool) : Nat :=
  if f.fin then f.pack neg (2 ^ f.eb - 1) (2 ^ f.mb - 1) else f.pack neg (2 ^ f.eb - 1) 0
/-- The largest finite value (R176). -/
def FFmt.maxFinite (f : FFmt) (neg : Bool) : Nat :=
  if f.fin then f.pack neg (2 ^ f.eb - 1) (2 ^ f.mb - 2) else f.pack neg (2 ^ f.eb - 2) (2 ^ f.mb - 1)
/-- The canonical NaN (R176). -/
def FFmt.canonNan (f : FFmt) : Nat :=
  if f.fin then f.pack false (2 ^ f.eb - 1) (2 ^ f.mb - 1) else f.pack false (2 ^ f.eb - 1) (2 ^ (f.mb - 1))

/-- The sticky flags an operation raises (R181), as FMT[4:0]: NV 16, DZ 8, OF 4, UF 2, NX 1. -/
abbrev FFlags := BitVec 5
def flagNV : FFlags := 16#5
def flagDZ : FFlags := 8#5
def flagOF : FFlags := 4#5
def flagUF : FFlags := 2#5
def flagNX : FFlags := 1#5

/-- The rounding modes of R182: 0 RNE, 1 RZ, 2 RD, 3 RU. A magnitude strictly between the integers `i` and `i + 1`
rounds up when this holds; `cmp` compares it with the half-way point. -/
def roundsUp (rm : Nat) (neg : Bool) (i : Nat) (cmp : Ordering) : Bool :=
  match rm with
  | 0 => match cmp with | .gt => true | .eq => i % 2 == 1 | .lt => false
  | 1 => false
  | 2 => neg
  | _ => !neg

/-- |v| / 2^u rounded to an integer, for |v| = m × 2^e, or strictly between m × 2^e and (m + 1) × 2^e where `st`
holds; with whether it was exact. Where `st` holds, e ≤ u - 2 is required of the caller. -/
def roundInt (rm : Nat) (neg : Bool) (m : Nat) (e u : Int) (st : Bool) : Nat × Bool :=
  if u ≤ e then (m * 2 ^ (e - u).toNat, !st)
  else
    let k := (u - e).toNat
    let i := m / 2 ^ k
    let r := m % 2 ^ k
    if r == 0 && !st then (i, true)
    else
      let half := 2 ^ (k - 1)
      let c : Ordering := if r < half then .lt else if r == half && !st then .eq else .gt
      (if roundsUp rm neg i c then i + 1 else i, false)

/-- round of R182 for a nonzero finite magnitude. -/
def roundMag (f : FFmt) (rm : Nat) (neg : Bool) (m : Nat) (e : Int) (st : Bool) : Nat × FFlags :=
  let top : Int := e + Nat.log2 m
  let emin : Int := 1 - (f.bias : Int)
  let ee := if top < emin then emin else top
  let u := ee - f.mb
  let (i, exact) := roundInt rm neg m e u st
  -- tininess after rounding at unbounded exponent
  let (j, _) := roundInt rm neg m e (top - f.mb) st
  let jtop : Int := top - f.mb + Nat.log2 (Nat.max j 1)
  let tiny := !exact && jtop < emin
  -- the rounded magnitude i × 2^u may have carried into the next binade
  let (i', u') := if 2 ^ (f.mb + 1) ≤ i then (i / 2, u + 1) else (i, u)
  let efield : Int := if i' < 2 ^ f.mb then 0 else u' + f.mb + f.bias
  let emax : Int := if f.fin then 2 ^ f.eb - 1 else 2 ^ f.eb - 2
  let ovf := emax < efield || (f.fin && efield == emax && i' == 2 ^ (f.mb + 1) - 1)
  if ovf then
    let big := rm == 0 || (rm == 3 && !neg) || (rm == 2 && neg)
    (if big then f.infinity neg else f.maxFinite neg, flagOF ||| flagNX)
  else
    (f.pack neg efield.toNat (i' % 2 ^ f.mb), (if exact then 0#5 else flagNX) ||| (if tiny then flagUF else 0#5))

/-- round of R182 for a value. A NaN never reaches it; the canonical NaN stands there. -/
def roundTo (f : FFmt) (rm : Nat) (v : Fp) (st : Bool := false) : Nat × FFlags :=
  match v with
  | .nan => (f.canonNan, 0#5)
  | .inf neg =>
    if f.fin then
      let big := rm == 0 || (rm == 3 && !neg) || (rm == 2 && neg)
      (if big then f.infinity neg else f.maxFinite neg, flagOF ||| flagNX)
    else (f.infinity neg, 0#5)
  | .num neg m e => if m == 0 then (f.zero neg, 0#5) else roundMag f rm neg m e st

/-- .sat of R183 on a float result that is no NaN of an operand: an infinite result becomes ±maxfinite; for e4m3 so
does the NaN of an overflow. -/
def saturate (f : FFmt) (sat : Bool) (x : Nat) : Nat :=
  if sat && (x == f.infinity false || x == f.infinity true) then f.maxFinite (f.sign x) else x

/-- A NaN `x` of format `src` quieted and carried into `dst` (R185). The fraction that an f32 result takes from an
8-bit NaN is not stated: its lower bits are a free value. -/
def carryNan (src dst : FFmt) (x : Nat) : Nat :=
  let s := src.sign x
  if dst.fin then dst.pack s (2 ^ dst.eb - 1) (2 ^ dst.mb - 1)
  else if dst == e5m2 then dst.pack s (2 ^ dst.eb - 1) 2
  else if dst == f32 && (src == e4m3 || src == e5m2) then
    dst.pack s 255 (2 ^ 22 + (Config.narrowNanFraction (BitVec.ofNat 8 x)).toNat)
  else
    let aligned := src.frac x * 2 ^ (23 - src.mb)
    let fr := aligned / 2 ^ (23 - dst.mb)
    dst.pack s (2 ^ dst.eb - 1) (fr % 2 ^ (dst.mb - 1) + 2 ^ (dst.mb - 1))

/-- The result of an operation one of whose operands is a NaN (R185): a signalling one is invalid; otherwise the
first NaN in operand order is carried on. `none` where no operand is a NaN. -/
def nanResult (src dst : FFmt) (xs : List Nat) : Option (Nat × FFlags) :=
  if xs.any src.isSnan then some (dst.canonNan, flagNV)
  else (xs.find? src.isNan).map (fun x => (carryNan src dst x, 0#5))

/-! ## Exact arithmetic -/

/-- The sign of an exact zero sum (R182). -/
def zeroSumSign (rm : Nat) (n1 n2 : Bool) : Bool := (n1 && n2) || (n1 != n2 && rm == 2)

/-- The signed magnitude at exponent `e`, for e no greater than the value's own. -/
def scaled (neg : Bool) (m : Nat) (x e : Int) : Int :=
  let k : Int := ((m * 2 ^ (x - e).toNat : Nat) : Int)
  if neg then -k else k

/-- Exact addition of two values that are no NaN; `none` for infinities of opposite sign. -/
def addFp (rm : Nat) (x y : Fp) : Option Fp :=
  match x, y with
  | .nan, _ | _, .nan => some .nan
  | .inf a, .inf b => if a == b then some (.inf a) else none
  | .inf a, _ => some (.inf a)
  | _, .inf b => some (.inf b)
  | .num n1 m1 e1, .num n2 m2 e2 =>
    let e := if e1 ≤ e2 then e1 else e2
    let s := scaled n1 m1 e1 e + scaled n2 m2 e2 e
    if s = 0 then
      (if m1 == 0 && m2 == 0 then some (.num (zeroSumSign rm n1 n2) 0 0) else some (.num (rm == 2) 0 0))
    else some (.num (s < 0) s.natAbs e)

/-- Exact multiplication of two values that are no NaN; `none` for 0 × ∞. -/
def mulFp (x y : Fp) : Option Fp :=
  match x, y with
  | .nan, _ | _, .nan => some .nan
  | .inf a, .inf b => some (.inf (a != b))
  | .inf a, .num n m _ => if m == 0 then none else some (.inf (a != n))
  | .num n m _, .inf b => if m == 0 then none else some (.inf (n != b))
  | .num n1 m1 e1, .num n2 m2 e2 => some (.num (n1 != n2) (m1 * m2) (e1 + e2))

/-- The sign of a value turned over. -/
def Fp.neg : Fp → Fp
  | .nan => .nan
  | .inf n => .inf (!n)
  | .num n m e => .num (!n) m e

/-- The order of two values that are no NaN; −0 equals +0 (R261). -/
def cmpFp (x y : Fp) : Ordering :=
  match x, y with
  | .inf a, .inf b => if a == b then .eq else if a then .lt else .gt
  | .inf a, _ => if a then .lt else .gt
  | _, .inf b => if b then .gt else .lt
  | .num n1 m1 e1, .num n2 m2 e2 =>
    let e := if e1 ≤ e2 then e1 else e2
    compare (scaled n1 m1 e1 e) (scaled n2 m2 e2 e)
  | _, _ => .eq

/-! ## Elements -/

/-- A rounded result with .sat and its flags; `none` is an invalid operation (R185). -/
def finish (f : FFmt) (rm : Nat) (sat : Bool) (v : Option Fp) : Nat × FFlags :=
  match v with
  | none => (f.canonNan, flagNV)
  | some v =>
    let (x, fl) := roundTo f rm v
    (saturate f sat x, fl)

def addElem (f : FFmt) (rm : Nat) (sat : Bool) (a b : Nat) : Nat × FFlags :=
  match nanResult f f [a, b] with
  | some r => r
  | none => finish f rm sat (addFp rm (f.value a) (f.value b))

/-- FSUB: a − b; the NaN order is a, then b (R260). -/
def subElem (f : FFmt) (rm : Nat) (sat : Bool) (a b : Nat) : Nat × FFlags :=
  match nanResult f f [a, b] with
  | some r => r
  | none => finish f rm sat (addFp rm (f.value a) (f.value b).neg)

def mulElem (f : FFmt) (rm : Nat) (sat : Bool) (a b : Nat) : Nat × FFlags :=
  match nanResult f f [a, b] with
  | some r => r
  | none => finish f rm sat (mulFp (f.value a) (f.value b))

/-- Are a and b a zero and an infinity (R260)? -/
def zeroTimesInf (f : FFmt) (a b : Nat) : Bool :=
  match f.value a, f.value b with
  | .inf _, .num _ m _ => m == 0
  | .num _ m _, .inf _ => m == 0
  | _, _ => false

/-- FMA: a × b + c rounded once; 0 × ∞ is invalid even beside a quiet NaN c (R260). -/
def fmaElem (f : FFmt) (rm : Nat) (sat : Bool) (a b c : Nat) : Nat × FFlags :=
  if zeroTimesInf f a b then (f.canonNan, flagNV)
  else
    match nanResult f f [a, b, c] with
    | some r => r
    | none => finish f rm sat ((mulFp (f.value a) (f.value b)).bind (fun p => addFp rm p (f.value c)))

/-- The quotient m1 × 2^e1 / (m2 × 2^e2) to `k` more bits, as a lower value with whether anything is left. -/
def quotient (m1 : Nat) (e1 : Int) (m2 : Nat) (e2 : Int) (k : Nat) : Nat × Int × Bool :=
  let n := m1 * 2 ^ k
  (n / m2, e1 - e2 - k, n % m2 != 0)

/-- FDIV (R260). -/
def divElem (f : FFmt) (rm : Nat) (sat : Bool) (a b : Nat) : Nat × FFlags :=
  match nanResult f f [a, b] with
  | some r => r
  | none =>
    match f.value a, f.value b with
    | .inf n1, .num n2 _ _ => (saturate f sat (f.infinity (n1 != n2)), 0#5)
    | .num n1 _ _, .inf n2 => (f.zero (n1 != n2), 0#5)
    | .num n1 m1 e1, .num n2 m2 e2 =>
      if m2 == 0 then
        (if m1 == 0 then (f.canonNan, flagNV) else (saturate f sat (f.infinity (n1 != n2)), flagDZ))
      else if m1 == 0 then (f.zero (n1 != n2), 0#5)
      else
        let (q, e, st) := quotient m1 e1 m2 e2 64
        let (x, fl) := roundTo f rm (.num (n1 != n2) q e) st
        (saturate f sat x, fl)
    | _, _ => (f.canonNan, flagNV)

/-- FMIN and FMAX: minimumNumber and maximumNumber (R186). -/
def minMaxElem (f : FFmt) (max : Bool) (a b : Nat) : Nat × FFlags :=
  let nv : FFlags := if f.isSnan a || f.isSnan b then flagNV else 0#5
  match f.isNan a, f.isNan b with
  | true, true => (carryNan f f a, nv)
  | true, false => (b, nv)
  | false, true => (a, nv)
  | false, false =>
    let less :=
      match cmpFp (f.value a) (f.value b) with
      | .lt => true
      | .gt => false
      | .eq => f.sign a || !f.sign b
    (if less != max then a else b, nv)

/-- FCMP's truth of a condition and its NV (R261). -/
def compareFloat (f : FFmt) (cc : Nat) (a b : Nat) : Bool × FFlags :=
  let un := f.isNan a || f.isNan b
  let sn := f.isSnan a || f.isSnan b
  let nv : FFlags := if sn || (un && 2 ≤ cc && cc ≤ 5) then flagNV else 0#5
  let c := cmpFp (f.value a) (f.value b)
  let t :=
    match cc with
    | 0 => !un && c == .eq
    | 1 => un || c != .eq
    | 2 => !un && c == .lt
    | 3 => !un && c != .gt
    | 4 => !un && c == .gt
    | 5 => !un && c != .lt
    | 6 => un
    | _ => !un
  (t, nv)

/-- FCLASS (R261). -/
def classElem (f : FFmt) (x : Nat) : Nat :=
  if f.isSnan x then 256 else if f.isNan x then 512
  else
    let n := f.sign x
    match f.value x with
    | .inf _ => if n then 1 else 128
    | _ =>
      if f.exp x == 0 then
        (if f.frac x == 0 then (if n then 8 else 16) else (if n then 4 else 32))
      else (if n then 2 else 64)

/-- FRND: to an integer value in the same format; NX never raised (R260). -/
def rndElem (f : FFmt) (rm : Nat) (x : Nat) : Nat × FFlags :=
  match nanResult f f [x] with
  | some r => r
  | none =>
    match f.value x with
    | .num n m e =>
      if m == 0 then (x, 0#5)
      else
        let (i, _) := roundInt rm n m e 0 false
        ((roundTo f 0 (.num n i 0)).1, 0#5)
    | _ => (x, 0#5)

/-! ## Conversions (R184, R263) -/

/-- A float element to an integer type (R184). -/
def floatToInt (f : FFmt) (t : Ty) (rm : Nat) (x : Nat) : Nat × FFlags :=
  match f.value x with
  | .nan => (0, flagNV)
  | .inf n => (wrapTo (elemWidth t) (if n then minOf t else maxOf t), flagNV)
  | .num n m e =>
    let (i, exact) := roundInt rm n m e 0 false
    let v : Int := if n then -(i : Int) else i
    if v < minOf t || maxOf t < v then (wrapTo (elemWidth t) (clampTo t v), flagNV)
    else (wrapTo (elemWidth t) v, if exact then 0#5 else flagNX)

/-- An integer value to a float format (R184). -/
def intToFloat (f : FFmt) (rm : Nat) (sat : Bool) (v : Int) : Nat × FFlags :=
  finish f rm sat (some (.num (v < 0) v.natAbs 0))

/-- A float element to a float format (R184, R185, R263). -/
def floatToFloat (src dst : FFmt) (rm : Nat) (sat : Bool) (x : Nat) : Nat × FFlags :=
  if src == dst && !src.isSnan x then
    (if src.isNan x then (x, 0#5) else (saturate dst sat x, 0#5))
  else
    match nanResult src dst [x] with
    | some r => r
    | none => finish dst rm sat (some (src.value x))

/-- CVT of one element (R263). -/
def convertElem (src dst : Ty) (rm : Nat) (sat : Bool) (x : Nat) : Nat × FFlags :=
  match fmtOfTy src, fmtOfTy dst with
  | some a, some b => floatToFloat a b rm sat x
  | some a, none => floatToInt a dst rm x
  | none, some b => intToFloat b rm sat (num src x)
  | none, none => (fitTo dst sat (num src x), 0#5)

/-! ## Subnormal diversion (R188) -/

/-- Is the encoding a subnormal? -/
def FFmt.isSub (f : FFmt) (x : Nat) : Bool := f.exp x == 0 && f.frac x != 0

/-- Does the rounded result show that the exact value is nonzero and below the smallest normal: a subnormal, or an underflow? -/
def FFmt.tinyShown (f : FFmt) (r : Nat × FFlags) : Bool := f.isSub r.1 || r.2 &&& flagUF != 0#5

/-- Is the exact value of a result nonzero and below the smallest normal (R188)? `h` is the result by rounding mode. One that was rounded up to
the smallest normal without an underflow shows what it was when it is rounded toward zero. -/
def FFmt.tinyResult (f : FFmt) (h : Nat → Nat × FFlags) (rm : Nat) : Bool :=
  let r := h rm
  f.tinyShown r || (f.exp r.1 == 1 && f.frac r.1 == 0 && r.2 &&& flagNX != 0#5 && f.tinyShown (h 1))

/-- The exact square root's lower value to at least 40 bits: m × 2^e with whether anything is left. -/
def sqrtMag (m : Nat) (e : Int) : Nat × Int × Bool :=
  let odd := e % 2 != 0
  let m1 := if odd then m * 2 else m
  let e1 := if odd then e - 1 else e
  let k : Nat := 64
  let n := m1 * 2 ^ (2 * k)
  let r := Nat.sqrt n
  (r, e1 / 2 - k, r * r != n)

end Sys2Proof.Machine
end

