-- ==== Sys2Proof/Machine/State.lean ====
section
/-! DEFINITION. The state of the device as plain data: everything that R174 and the other rules give it, by its
holder (lane, slice, group, team, core, die, package), and the state right after package reset. -/

namespace Sys2Proof.Machine

/-! ## Why a step can stop -/

/-- The machine's faults. Every trap and fault of the device is taken by the device itself and is a next state. -/
inductive Fault where
  /-- Raised by `step` while the package has no power (R381): nothing runs. Safe. -/
  | noPower
  deriving DecidableEq, Repr

/-- The refusals. -/
inductive Refusal where
  /-- Raised by an arm of `exec` whose instruction has no meaning in this model yet. Safe. -/
  | notModelled (mnemonic : String)
  deriving DecidableEq, Repr

/-! ## Stops and waits -/

/-- A stop as its record will hold it (R353, R355): cause code, slot number, AUX, the code or number of INFO, the
translation detail of R36, whether it is replayable, and the buffer tag of the access (R38). -/
structure Stop where
  code : Nat
  slot : Nat := 0
  aux : DWord := 0
  info : Word := 0
  xlat : BitVec 128 := 0
  rpl : Bool := false
  tag : Option Nat := none
  deriving DecidableEq, Repr

/-- What a gang waits for (R172): another try next cycle, a rendezvous, every register full for MODE, a flag to reach a
target, slots of a ring, a ring's operations to retire, the agent's shootdowns, a page of the host, a segment of a glen
program, a team that is being saved. -/
inductive Wait where
  | poll
  | regang
  | mode
  | flag (n : Nat) (target : Word) (clr : Bool)
  | ring (n : Nat) (take : Bool) (slots : Nat)
  | ringcfg (n : Nat)
  | tlbi (all : Bool)
  | page (cid : Nat) (va : DWord)
  | segment (n : Nat)
  | save (team : Nat)
  deriving DecidableEq, Repr

/-- Whether a slice runs, waits, was woken by what it waited for, or is stopped on a record (R172, R353). A waiting or
woken slice also holds the waits of the same bundle that have already ended. -/
inductive Run where
  | running
  | waiting (w : Wait) (had : List Wait)
  | woken (had : List Wait)
  | stopped (x : Stop) (after : Bool)
  deriving DecidableEq, Repr

/-! ## Slices and groups -/

/-- The kinds of control-stack entry (R150). -/
inductive EntryKind where
  | ifE | loopE | callE
  deriving DecidableEq, Repr

/-- A control-stack entry (R150). -/
structure Entry where
  kind : EntryKind
  els : Bool := false
  unb : Bool := false
  cws : BitVec 3 := 0
  spn : BitVec 3 := 0
  sc : BitVec 2 := 0
  brkm : BitVec 4 := 0
  cntm : BitVec 4 := 0
  fmt : Word := 0
  trip : Word := 0
  iter : Word := 0
  addr : DWord := 0
  deriving DecidableEq, Repr

/-- A slice (R149, R174); the top of the control stack is the list's first entry. `ready` is the cycle from which
its next bundle may issue (R228), `since` the cycle from which its gang has been issuable, `aged` R172's promotion,
`wake` what a wake step hands to the waiting operation, `began` the cycle in which the operation began to wait and `last` the
LAST of the flag at the wake (R305), `pend` what a slice that is stopped after its bundle waits for once it resumes (R147, R159), `cbDue`
the cycle in which its gang's last CBSET retires (R267). -/
structure Slice where
  pc : DWord := 0
  gang : Nat := 0
  exited : Bool := false
  run : Run := .running
  debugStopped : Bool := false
  stack' : List Entry := []
  fmt : Word := 0
  ready : Nat := 0
  since : Nat := 0
  aged : Bool := false
  wake : DWord := 0
  began : Nat := 0
  last : Word := 0
  pend : Option Wait := none
  cbDue : Nat := 0
  deriving DecidableEq, Repr

/-- A translation register (R26, R27), with the context in which its base was translated (R12). -/
structure XReg where
  valid : Bool := false
  vbase : DWord := 0
  pbase : DWord := 0
  home : BitVec 2 := 0
  mt : BitVec 2 := 0
  kv : Bool := false
  nr : Bool := false
  rd : Bool := false
  wr : Bool := false
  priv : Bool := false
  ps : BitVec 2 := 0
  pkg : BitVec 10 := 0
  limit : BitVec 39 := 0
  cid : Nat := 0
  deriving DecidableEq, Repr

/-- A stream register (R52 to R54); size 0 is unbound. `named` counts the copy commands that name it and have not completed,
and `done` is set while copies have named it and all have completed. -/
structure Stream where
  buf : Nat := 0
  size : Nat := 0
  arrived : Nat := 0
  pos : Nat := 0
  named : Nat := 0
  done : Bool := false
  deriving DecidableEq, Repr

/-- A value on an operand pass (R164): its pass, the cluster it is at, and its age in bundles. -/
structure PassValue where
  pass : Nat
  cluster : Nat
  age : Nat
  value : Word
  deriving DecidableEq, Repr

/-- A result on its way to registers (R156, R157, R228): lane values under key 32 × physical register + lane, each
with its poison (R72), or one scalar register. `empties` tells whether the destination is marked empty meanwhile,
`tag` the buffer tag of a load (R38), `load` a load or refill of lanes (R235); `held` stands while a batch-forming queue has not returned it (R327). -/
structure InFlight where
  lanes : List (Nat × Word × Bool) := []
  sca : Option (Nat × DWord × Bool) := none
  due : Nat := 0
  empties : Bool := false
  tag : Option Nat := none
  load : Bool := false
  held : Bool := false
  deriving DecidableEq, Repr

/-- Who the group is (R142, R167, R171): team index in its bank, role, issue priority, number in its team, width and
half, register budget and block base, task bit, entry address. -/
structure GroupId where
  live : Bool := false
  team : Nat := 0
  role : Nat := 0
  prio : Nat := 0
  num : Nat := 0
  half : Bool := false
  hnum : Nat := 0
  rsb : Nat := 64
  rbase : Nat := 0
  task : Bool := false
  deriving DecidableEq, Repr

/-- The lanes of a group: registers under key 32 × physical register + lane, the poisoned ones, nesting counters by
lane, and random-number words under key 4 × lane + word (R174). A register is empty exactly while a result that
empties it is in flight (R156). -/
structure Lanes where
  v : Sparse Word := []
  poison : Sparse Bool := []
  nc : Sparse Nat := []
  rng : Sparse Word := []
  deriving DecidableEq, Repr

/-- The scalar registers and translation registers (R174). -/
structure Scalars where
  s : Sparse DWord := []
  poison : Sparse Bool := []
  x : Sparse XReg := []
  deriving DecidableEq, Repr

/-- The register window and the local stack (R60, R61, R153). -/
structure Window where
  wb : Nat := 0
  ws : Nat := 64
  bot : Nat := 0
  sp : Word := 0
  lim : Word := 0
  lsize : Word := 0
  lbase : DWord := 0
  deriving DecidableEq, Repr

/-- A FENCE or DRAIN that holds its gang's slices' later memory and engine operations until its stores have performed
(R294). -/
structure FenceHold where
  slices : List Nat
  stores : List Nat
  ready : Nat
  deriving DecidableEq, Repr

/-- A group (R174). Slices are listed from slice 0 of the core's numbering that the group owns. `fenced` lists the threads
whose later loads return only writes that are visible beyond the core, since a full fence wider than the core (R123). -/
structure Group where
  gid : GroupId := {}
  lanes : Lanes := {}
  sca : Scalars := {}
  win : Window := {}
  slices : List Slice := []
  codebook : Sparse Half := []
  xpat : Sparse DWord := []
  q : Sparse Stream := []
  vliw : Bool := false
  exposed : Bool := false
  passes : List PassValue := []
  inflight : List InFlight := []
  holds : List FenceHold := []
  fenced : List Nat := []
  deriving DecidableEq, Repr

/-! ## The status of an issuing bundle (DESIGN CHOICE, log entry 1) -/

/-- How the operations of the bundle have fared so far: fine, a Before stop, or a wait. -/
inductive Status where
  | ok
  | stop (x : Stop)
  | wait (w : Wait)
  deriving DecidableEq, Repr

/-! ## Memory and translation -/

/-- An entry of a TLB (R18, R22, R24): context, start and size of the mapped range of virtual addresses, physical
start, the leaf's level and its attributes; `ats` marks a host grant, `untranslated` its mark. -/
structure TlbEntry where
  cid : Nat
  vbase : Nat
  size : Nat
  pbase : Nat
  lvl : Nat := 3
  home : BitVec 2 := 0
  mt : BitVec 2 := 0
  kv : Bool := false
  nr : Bool := false
  rd : Bool := false
  wr : Bool := false
  ex : Bool := false
  priv : Bool := false
  pkg : BitVec 10 := 0
  ats : Bool := false
  untranslated : Bool := false
  deriving DecidableEq, Repr

/-- A store on its way to stage 3 (R116): its thread (group key and lane; lane 32 is the scalar path, 33 an engine, 34 a VLIW
thread, R110), its bytes by place, whether it has updated the L1 (stage 2), whether it is non-temporal or write-combining, the
scope of a release, and whether its line is allocated in the home slice on a miss (R283). -/
structure PendingStore where
  id : Nat
  op : Nat := 0
  group : Nat
  lane : Nat
  bytes : List (Nat × Byte)
  poison : Bool := false
  stage2 : Bool := true
  nt : Bool := false
  wc : Bool := false
  release : Option Scope := none
  alloc : Bool := false
  deriving DecidableEq, Repr

/-- A write-combining entry (R66): its line, the bytes written in it by place, the threads (group key and lane) that wrote
them, and the cycle in which it was taken. -/
structure WcEntry where
  line : Nat
  bytes : List (Nat × Byte) := []
  threads : List (Nat × Nat) := []
  since : Nat := 0
  deriving DecidableEq, Repr

/-! ## Teams -/

/-- A line of a stash window that is not in state I (R56): its place in memory and whether it is in state M. -/
structure StashLine where
  place : Nat
  owned : Bool := false
  deriving DecidableEq, Repr

/-- A stash window (R55). -/
structure StashWin where
  valid : Bool := false
  g : DWord := 0
  w : Nat := 0
  n : Nat := 0
  lines : List (Nat × StashLine) := []
  deriving DecidableEq, Repr

/-- The resources of a team (R41, R167). -/
structure TeamRes where
  spbase : Nat := 0
  spsize : Nat := 0
  abase : Nat := 0
  nacc : Nat := 0
  fbase : Nat := 0
  nflags : Nat := 0
  rings : List Nat := []
  slots : List Nat := []
  taskBase : Option Nat := none
  taskBusy : Bool := false
  localSlot : Nat := 0
  deriving DecidableEq, Repr

/-- A resident team (R141, R174). `parked` stands while its image has not fitted in the save area (R349). -/
structure Team where
  live : Bool := false
  die : Nat := 0
  grid : Nat := 0
  tidx : Nat := 0
  x : Word := 0
  y : Word := 0
  z : Word := 0
  kidx : Nat := 0
  code : DWord := 0
  args : DWord := 0
  cid : Nat := 0
  queue : Nat := 0
  res : TeamRes := {}
  stash : Sparse StashWin := []
  barriers : List (Nat × Nat) := []
  counters : Sparse Nat := []
  saturated : Bool := false
  ending : Option Stop := none
  parked : Bool := false
  deriving DecidableEq, Repr

/-! ## Core structures -/

/-- A completion flag (R303, R307): value, ERR, LAST, placement generation, and the increments held during a debug
stop (R365) as the stopped group, ERR and agent. -/
structure Flag where
  value : Word := 0
  err : Bool := false
  last : Word := 0
  gen : BitVec 8 := 0
  held : List (Nat × Bool × Word) := []
  deriving DecidableEq, Repr

/-- An entry of a ring's ownership table (R51). -/
structure RingOwn where
  take : Bool
  done : Bool := false
  grp : Nat
  n : Nat
  first : Nat
  deriving DecidableEq, Repr

/-- A reservation or claim on a ring by an engine command or a waiting thread (R49, R50), in order: the command's or
gang's number, its group's key and number in its team, its slots, whether it has been granted (and where), and whether its bytes
are complete. -/
structure RingHold where
  cmd : Nat
  thread : Bool := false
  group : Nat := 0
  num : Nat := 0
  n : Nat := 1
  granted : Bool := false
  first : Nat := 0
  done : Bool := false
  deriving DecidableEq, Repr

/-- A ring descriptor with its generation and ownership table (R46 to R51). -/
structure Ring where
  valid : Bool := false
  base : Nat := 0
  slotsz : Nat := 0
  count : Nat := 0
  head : Nat := 0
  tail : Nat := 0
  rsv : Nat := 0
  clm : Nat := 0
  gen : BitVec 8 := 0
  own : List RingOwn := []
  producers : List RingHold := []
  consumers : List RingHold := []
  deriving DecidableEq, Repr

/-- A task in the queue (R170). -/
structure Task where
  entry : DWord
  args : List DWord
  role : Nat
  team : Nat
  deriving DecidableEq, Repr

/-- How far an engine command has come (R132, R302). -/
inductive CmdPhase where
  | queued | registered | started | finished
  deriving DecidableEq, Repr

/-- An engine command with the operands it sampled at issue (R302, R350): number, operation, issuer and its team,
context, its place in the order of registrations, the issuing bundle and slot with slices and mask, FMT, the A, B and C values, descriptor bytes, codebook,
the lines that it has released before its end (R133), and the fault it is paused on. -/
structure Cmd where
  id : Nat
  op : Instr
  who : Who
  team : Nat := 0
  cid : Nat := 0
  order : Nat := 0
  pc : DWord := 0
  slot : Nat := 0
  slices : List Nat := []
  amask : BitVec 32 := 0
  fmt : Word := 0
  a : DWord := 0
  b : DWord := 0
  c : DWord := 0
  desc : List Byte := []
  words : DWord × DWord := (0, 0)
  codebook : Sparse Half := []
  phase : CmdPhase := .queued
  owned : List Nat := []
  due : Nat := 0
  paused : Option Stop := none
  err : Bool := false
  aux : List Nat := []
  deriving DecidableEq, Repr

/-- The registers of the Ibien agent (R250, R364), its pending events by class, whether HALT has stopped it, and whether
its bundles are given: those of the boot image are not (R379, DESIGN CHOICE, log entry 6), so it issues none until a program of its own
is placed. -/
structure Agent where
  actx : Nat := 0
  evec : DWord := 0
  epc : DWord := 0
  cause : Nat := 0
  een : Bool := false
  events : List Nat := []
  halted : Bool := false
  program : Bool := false
  wlthr : Word := 0
  dctlCid : Nat := 0
  dctlAll : Bool := false
  dctlHold : Bool := true
  ibp : Sparse DWord := []
  wpa : Sparse DWord := []
  wpc : Sparse DWord := []
  tbase : DWord := 0
  tsize : DWord := 0
  tptr : DWord := 0
  trctl : DWord := 0
  deriving DecidableEq, Repr

/-- The scratchpad and the accumulator tiles (R41, R62, R72): bytes, poisoned words, tile elements under key
(16 × tile + row) × 64 + column, lost-significance flags and poison. -/
structure CoreStore where
  spad : Memory := []
  spadPoison : Sparse Bool := []
  tiles : Sparse Word := []
  lost : Sparse Bool := []
  tilePoison : Sparse Bool := []
  deriving DecidableEq, Repr

/-- The caches and translation buffer of a core (R24, R64, R66, R68): instruction lines with the bytes they were
filled with, fills under way with their due time, addresses whose prefetch awaits the host (R237), data lines present, data
lines owned for atomics, TLB entries, stores not yet at stage 3, and write-combining entries, oldest first. -/
structure CoreCaches where
  icache : Sparse (List Byte) := []
  fills : List (Nat × Nat) := []
  prefetch : List (Nat × DWord) := []
  l1 : Sparse Bool := []
  l1own : Sparse Bool := []
  tlb : List TlbEntry := []
  stores : List PendingStore := []
  wc : List WcEntry := []
  nextStore : Nat := 0
  deriving DecidableEq, Repr

/-- How far a claimed team that is not yet placed has come (R168). -/
inductive ClaimPhase where
  | claimed | waiting | reserving
  deriving DecidableEq, Repr

/-- What is in use of a core's resources (R167): register blocks under key 16 × bank + 8 × half + block, group slots, teams
under key 8 × bank + index, scratchpad pages of 4 KiB, pairs of tiles, quads of flags, ring descriptors. -/
structure Occ where
  regs : List Nat := []
  slots : List Nat := []
  teams : List Nat := []
  pages : List Nat := []
  tiles : List Nat := []
  flags : List Nat := []
  rings : List Nat := []
  deriving DecidableEq, Repr

/-- The unplaced team of a core's agent (R168): its grid, its index, how far it has come, the cycle its wait began, and,
since it began reserving, what was in use then: what is freed of it is held for this team. -/
structure Claim where
  die : Nat
  grid : Nat
  t : Nat
  phase : ClaimPhase := .claimed
  since : Nat := 0
  before : Option Occ := none
  deriving DecidableEq, Repr

/-- A flag of a saved team (R351): physical number, generation before the save, context, the image with the context that
its address is translated in, and the address of the flag's entry there. -/
structure SavedFlag where
  flag : Nat
  gen : BitVec 8
  cid : Nat
  space : Nat
  img : DWord
  va : DWord
  deriving DecidableEq, Repr

/-- The teams' side of a core: group slots under key 16 × bank + slot, teams under key 8 × bank + index, the context
of each occupied bank, frozen banks, queued tasks, the claimed team that is not yet placed, the flags of saved teams, and
the images whose restore failed here since resources were last freed (R144, R168, R170, R351, R352, R360). -/
structure CoreTeams where
  teams : Sparse Team := []
  bankCid : Sparse Nat := []
  frozen : Sparse Bool := []
  tasks : List Task := []
  claim : Option Claim := none
  savedFlags : List SavedFlag := []
  tried : List DWord := []
  deriving DecidableEq, Repr

/-- What a control operation does once its bundle has completed: nothing more, waits at a rendezvous (R147), waits to
change decoder (R159), exits (R148), stops the agent's issue or returns from its event (R253), or waits for the agent's
shootdowns (R254). -/
inductive Close where
  | plain | regang | mode (vliw : Bool) | exit | halt | eret | tlbi
  deriving DecidableEq, Repr

/-- The bundle that is issuing: the issuer, its address and the next bundle's, the gang's slices (positions in the
group's list), the execution mask, the group, the scratchpad with its poison, the agent's registers
and GSTAT as they stood at issue (R202), the issuer's next
program counter by slice and the slices that a transfer moves, whether a glen bundle carries the segment mark (R91), whether the gang parts by it, the After stops, and the cycles of a transfer's bubble, and what the control operation does at the end. -/
structure Issue where
  who : Who
  pc : DWord := 0
  next : DWord := 0
  slices : List Nat := []
  mask : BitVec 32 := 0
  snap : Group := {}
  spad : Memory := []
  spadPoison : Sparse Bool := []
  spbase : Nat := 0
  agent : Agent := {}
  gstat : DWord := 0
  tidx : Nat := 0
  npc : Sparse DWord := []
  moved : List Nat := []
  marked : Bool := false
  parts : Bool := false
  bubble : Nat := 0
  close : Close := .plain
  status : Status := .ok
  after : List Stop := []
  deriving DecidableEq, Repr

/-- A core. `issued` lists, for each bundle issued in the present cycle, its slices by the core's numbers, with 8 for the VLIW
port and 9 for an engine operation (R161); `pipes` the cycles from which its units are free again (R228, R259): 3 × lane + 0, 1
or 2 for lane A, lane B and the special unit, 96 + 2 × port + 0 or 1 for scalar A and B. -/
structure Core where
  groups : Sparse Group := []
  crew : CoreTeams := {}
  store : CoreStore := {}
  caches : CoreCaches := {}
  flags : Sparse Flag := []
  rings : Sparse Ring := []
  cmds : List Cmd := []
  nextCmd : Nat := 0
  agent : Agent := {}
  recSeq : Nat := 0
  issued : List (List Nat) := []
  pipes : Sparse Nat := []
  deriving DecidableEq, Repr

/-- A segment frame of a glen core (R90): its segment, whether its copy is under way (with its due time and whether it
is on demand), and the bytes it holds. -/
structure Frame where
  valid : Bool := false
  seg : Nat := 0
  filling : Bool := false
  demand : Bool := false
  since : Nat := 0
  due : Nat := 0
  bytes : List Byte := []
  deriving DecidableEq, Repr

/-- An entry of the segment table (R89): context address, segment to preload (0xFFFF for none), and length. -/
structure Segment where
  addr : DWord := 0
  next : Nat := 0xFFFF
  len : Nat := 128
  deriving DecidableEq, Repr

/-- The program that a glen core runs (R78, R341): whether one runs, its queue and packet, the core of the agent that
started it, whether EXIT or a stop has ended its issue, and a record sequence. -/
structure GlenProgram where
  running : Bool := false
  queue : Nat := 0
  packet : Nat := 0
  agent : Nat := 0
  ended : Bool := false
  failed : Bool := false
  deriving DecidableEq, Repr

/-- A glen core (R75): scalar registers, PC and return stack in `ctx`; flags, GSTAT, row buffer with its poisoned words, the
ROWS of the batch areas built in it (DESIGN CHOICE, log entry 22), frames, segment table, the code of the segments as it stood at
the start (R89), the segment that issue waits for with the cycle since which it does (R90), commands, the count of starts, and the running
program. -/
structure Glen where
  ctx : Group := {}
  cid : Nat := 0
  tlb : List TlbEntry := []
  flags : Sparse Flag := []
  gstat : DWord := 0
  row : Memory := []
  rowPoison : Sparse Bool := []
  areas : List (Nat × Nat) := []
  frames : Sparse Frame := []
  segs : List Segment := []
  code : List (Nat × List Byte) := []
  demand : Option (Nat × Nat) := none
  cmds : List Cmd := []
  nextCmd : Nat := 0
  starts : Nat := 0
  prog : GlenProgram := {}
  deriving DecidableEq, Repr

/-- A line held by an engine command that has not yet written it (R132): the line, the unit and number of the command,
and the command's place in the order of registrations. -/
structure Owner where
  line : Nat
  unit : Nat
  cmd : Nat
  seq : Nat
  deriving DecidableEq, Repr

/-- The memory outside the cores: bytes by place (local HBM below 2^40; the host's addresses from 2^60; package P's
from 2^61 + P × 2^52), poisoned 32-byte granules, lines held by engine commands in order of registration, the count of
registering commands, lines present in the memory-side cache, those that are the first candidates for replacement (R65),
read-only replicas as line, slice and grid (R67), and the packages whose lost stores no event has named yet (R21, R71, R72,
R132, R377). -/
structure Store where
  mem : Memory := []
  poison : Sparse Bool := []
  owners : List Owner := []
  nextOwner : Nat := 0
  l2 : Sparse Bool := []
  evict : Sparse Bool := []
  replicas : List (Nat × Nat × Nat) := []
  cut : List Nat := []
  deriving DecidableEq, Repr

/-- A memory-side cache slice: the meadow control register, the gather counters, the requests since the last halving,
and the pinned lines (R85, R86). -/
structure MemSlice where
  thresh : Nat := 0x100
  size : Nat := 0
  en : Bool := false
  counters : Sparse Nat := []
  requests : Nat := 0
  pinned : List Nat := []
  deriving DecidableEq, Repr

/-- A context descriptor (R11). -/
structure Context where
  w0 : DWord := 0
  w1 : DWord := 0
  deriving DecidableEq, Repr

/-- The host's side of translation (R22, R23): the page requests that a die may have outstanding, refused pages, and the
translation requests, the page requests outstanding, and those that wait for room (die, context, page). -/
structure Ats where
  limit : Nat := 256
  queued : List (Nat × Nat × Nat) := []
  refused : List (Nat × Nat) := []
  requests : List (Nat × Nat × Nat) := []
  pages : List (Nat × Nat × Nat) := []
  deriving DecidableEq, Repr

/-- A valid entry of the partition table (R378). -/
structure Partition where
  clusters : BitVec 128 := 0
  stackMask : BitVec 16 := 0
  ranges : List (Nat × Nat) := []
  deriving DecidableEq, Repr

/-! ## Launch (R219, R344) -/

/-- A role of a kernel (R142, R219). -/
structure Role where
  entry : Nat
  groups : Nat
  half : Bool
  rsb : Nat
  prio : Nat
  win : Nat
  deriving DecidableEq, Repr

/-- A kernel descriptor (R219). -/
structure Kernel where
  nrings : Nat := 0
  nacc : Nat := 0
  nflags : Nat := 0
  spsize : Nat := 4096
  fmt : Word := 0
  trsb : Nat := 0
  twin : Nat := 0
  roles : List Role := []
  barriers : List (Nat × Nat) := []
  deriving DecidableEq, Repr

/-- What a LAUNCH gives its grid (R335, R344): the queue and packet, context, code object with its code offset and
flags, arguments, dimensions, kernel, local space and report address. -/
structure GridLaunch where
  queue : Nat := 0
  packet : Nat := 0
  cid : Nat := 0
  code : DWord := 0
  entry : Nat := 0
  vliw : Bool := false
  exposed : Bool := false
  args : DWord := 0
  gx : Nat := 1
  gy : Nat := 1
  gz : Nat := 1
  kidx : Nat := 0
  kernel : Kernel := {}
  lsz : Nat := 0
  lstk : Nat := 0
  nloc : Nat := 1
  local' : DWord := 0
  report : DWord := 0
  deriving DecidableEq, Repr

/-- A team on a grid's save list (R348, R349): its image, or its index where it was never started. -/
inductive SavedTeam where
  | image (a : DWord)
  | unstarted (t : Nat)
  deriving DecidableEq, Repr

/-- STATE of a grid record (R344). -/
inductive GridPhase where
  | open' | draining | saved | closed
  deriving DecidableEq, Repr

/-- A grid record (R344), free while `live` is false: ticket, counts, state, order, local-slot bitmap, save list,
counter sums and the teams summed (R39), whether a team of it was ended by a stop (R358), the cores that have placed a team of it (R346),
and the core whose agent last retired one (R39). -/
structure Grid where
  live : Bool := false
  ticket : Nat := 0
  teams : Nat := 0
  done : Nat := 0
  phase : GridPhase := .open'
  prio : Nat := 0
  seq : Nat := 0
  launch : GridLaunch := {}
  slots : Sparse Bool := []
  saves : List SavedTeam := []
  sums : Sparse Nat := []
  summed : Nat := 0
  failed : Bool := false
  saturated : Bool := false
  visited : List Nat := []
  agent : Nat := 0
  deriving DecidableEq, Repr

/-- A request record of a batch-forming queue (R326). -/
structure BfqRec where
  row : DWord
  gen : Nat
  slot : Nat
  opid : Nat
  deriving DecidableEq, Repr

/-- A batch-forming queue (R326). -/
structure Bfq where
  on : Bool := false
  stab : DWord := 0
  nslot : Nat := 0
  rl : Nat := 0
  cid : Nat := 0
  cap : Nat := 0
  drops : DWord := 0
  recs : List BfqRec := []
  deriving DecidableEq, Repr

/-- How far a die's boot has come (R379). -/
inductive Boot where
  | waiting | running | failed
  deriving DecidableEq, Repr

/-- A die: grid records, the front end's sequences, round-robin position and last start, batch-forming queues, boot
state, attestation log and running digest (R343, R344, R326, R379, R380). -/
structure Die where
  grids : Sparse Grid := []
  startSeq : Nat := 0
  recSeq : Nat := 0
  turn : Nat := 0
  last : Option Nat := none
  bfqs : Sparse Bfq := []
  boot : Boot := .waiting
  log : List (List Byte) := []
  digest : List Byte := List.replicate 32 0
  deriving DecidableEq, Repr

/-! ## Queues (R329 to R343) and the host's side (R374 to R376) -/

/-- The type of a packet (R332). -/
inductive PacketKind where
  | nop | launch | copy | signal | waitAll | waitAny | overlay
  deriving DecidableEq, Repr

/-- A started packet that has not completed: index, type, signal, EVT, and what its type needs (a COPY's source,
destination, length, pause and place among the registered commands; a WAIT's conditions, latched ones, timeout, result address and TFAIL; an OVERLAY's glen
core). -/
structure Packet where
  index : Nat := 0
  kind : PacketKind := .nop
  sig : DWord := 0
  evt : Bool := false
  src : DWord := 0
  dst : DWord := 0
  len : Nat := 0
  paused : Bool := false
  table : List (DWord × DWord) := []
  latched : List Nat := []
  tmo : Nat := 0
  res : DWord := 0
  tfail : Bool := false
  begun : Nat := 0
  glen : Nat := 0
  order : Nat := 0
  finished : Bool := false
  deriving DecidableEq, Repr

/-- The states of a queue (R330, R342). -/
inductive QueuePhase where
  | active | blocked | error | held
  deriving DecidableEq, Repr

/-- A user queue (R329, R330, R342): descriptor, kick page, state, error cause, packets started and not completed, the
cycle since which it has held a startable packet, and R343's promotion. -/
structure Queue where
  live : Bool := false
  fn : Nat := 0
  page : Nat := 0
  ring : DWord := 0
  ridx : DWord := 0
  cid : Nat := 0
  log2n : Nat := 4
  prio : Nat := 0
  die : Nat := 0
  evq : Nat := 0
  widx : DWord := 0
  rdx : DWord := 0
  phase : QueuePhase := .active
  cause : Nat := 0
  before : QueuePhase := .active
  packets : List Packet := []
  since : Option Nat := none
  aged : Bool := false
  deriving DecidableEq, Repr

/-- A host event queue (R376): its ring and index block in host memory, vector, write index, the last view of the
host's read index, and the MSI-X messages sent. -/
structure EventQueue where
  live : Bool := false
  fn : Nat := 0
  base : Nat := 0
  log2n : Nat := 4
  index : Nat := 0
  vector : Nat := 0
  widx : Nat := 0
  seen : Nat := 0
  msgs : Nat := 0
  deriving DecidableEq, Repr

/-- What a busy mailbox waits for before it answers (R11, R375, R378): a shootdown; the shootdown before a descriptor
that clears V is written; the drains and then the shootdowns before a partition table takes effect; the write of RIDX of a queue
that is reset (R342). -/
inductive MailWait where
  | shoot (id : Nat)
  | clearV (id cid : Nat) (w0 w1 : DWord)
  | drains (cids : List Nat) (table : List PartEntry)
  | shoots (ids : List Nat) (table : List PartEntry)
  | ridx (queue : Nat) (value : DWord)
  deriving DecidableEq, Repr

/-- The mailbox page of a function (R375): the code of the last request, BUSY, the response, and what it still waits for. -/
structure Mailbox where
  code : Nat := 0
  busy : Bool := false
  status : Nat := 0
  data : List Byte := []
  wait : Option MailWait := none
  deriving DecidableEq, Repr

/-- Whom an outstanding record concerns (R375): a gang's slices with the program counter they resume at, a command of a
core, a glen program or a command of it, a COPY packet; or the gang of a group of a saved team, by its image. -/
inductive RecordOf where
  | gang (w : Who) (slices : List Nat)
  | saved (space : Nat) (img : DWord) (grp : Nat) (slices : List Nat) (x : Stop) (after : Bool)
  | cmd (core id : Nat)
  | glenCmd (glen id : Nat)
  | packet (queue index : Nat)
  deriving DecidableEq, Repr

/-- A record that awaits an answer; `answer` is the answer to a record about a saved team, which takes effect at the
restore: true resumes, false ends the team (DESIGN CHOICE, log entry 28). -/
structure Outstanding where
  name : RecordName
  about : RecordOf
  code : Nat
  rpl : Bool
  cid : Nat
  answer : Option Bool := none
  deriving DecidableEq, Repr

/-! ## Shootdowns, drains and saved teams -/

/-- Who started a shootdown (R29). -/
inductive ShootSource where
  | agent (core : Nat) | mailbox (fn : Nat) | host
  deriving DecidableEq, Repr

/-- A shootdown under way (R30) with the structures that have acknowledged. -/
structure Shoot where
  id : Nat
  scope : ShootScope
  source : ShootSource
  acks : List AckUnit := []
  deriving DecidableEq, Repr

/-- A drain (R348, R349): context, save area and the bytes of it used, limit, whether the limit has passed, the images
saved, the teams (16 × core + team) whose want of room an event has told, and, once it is complete, the glen programs then still running. -/
structure Drain where
  cid : Nat
  fn : Nat
  area : DWord
  size : Nat
  cursor : Nat := 0
  limit : Nat
  begun : Nat
  forced : Bool := false
  images : List DWord := []
  told : List Nat := []
  complete : Bool := false
  programs : List Nat := []
  deriving DecidableEq, Repr

/-- A granted reservation or take of a saved team whose thread had not been handed it: the team's ring, whether it is a take, the
group's place in the image, the gang's lowest slice, and the hold. -/
structure SavedHold where
  ring : Nat
  take : Bool
  grp : Nat
  slice : Nat
  hold : RingHold
  deriving DecidableEq, Repr

/-- What the firmware keeps of a saved team beside its image: contexts of the team and of the image's address, the image,
the local slots that the team keeps (R345), the commands of the image in order with what their entries do not hold, the slots
granted to threads that still wait, and what slices stopped after their bundles wait for, by group and slice (R350, R362, DESIGN
CHOICE, log entry 28). -/
structure Saved where
  cid : Nat
  space : Nat
  img : DWord
  slots : List Nat := []
  cmds : List Cmd := []
  holds : List SavedHold := []
  pends : List (Nat × Nat × Wait) := []
  deriving DecidableEq, Repr

/-! ## Platform (R374, R377 to R384) -/

/-- The states of an island (R382). -/
inductive IslandPhase where
  | gated | retain | clockstop | run
  deriving DecidableEq, Repr

/-- A voltage and frequency island (R382 to R384): state, supply in mV, predicted life in hours, withdrawn, the cycle
from which it has been idle and the cycle its exit ends. -/
structure Island where
  phase : IslandPhase := .gated
  supply : Nat := 600
  life : Nat := 0
  withdrawn : Bool := false
  since : Nat := 0
  wakes : Nat := 0
  deriving DecidableEq, Repr

/-- The platform: power, islands, error counts by structure and location (R74), latency tolerances (R383), customer key
slots, the vendor key's fuse, the quote index on flash (R379, R381), and lost links and modules (R374, R377). -/
structure Platform where
  power : Bool := true
  islands : Sparse Island := []
  errors : Sparse Nat := []
  tolerance : Sparse Nat := []
  keys : Sparse (List Byte) := []
  revoked : Bool := false
  quote : Nat := 0
  links : Sparse Bool := []
  modules : Sparse Bool := []
  deriving DecidableEq, Repr

/-- The driver's and the host's side of the device; `pages` counts the kick pages of each function (R374), and `bars` holds the
host address that the host gave BAR 0 of each function, 0 for none (DESIGN CHOICE, log entry 60); `kicks` are a device's kicks that
have reached their pages, in order: queue, value, and whether the write was an aligned 8-byte one (R331). -/
structure HostSide where
  queues : Sparse Queue := []
  nextQueue : Nat := 0
  pages : Sparse Nat := []
  bars : Sparse Nat := []
  kicks : List (Nat × DWord × Bool) := []
  evqs : Sparse EventQueue := []
  nextEvq : Nat := 0
  mail : Sparse Mailbox := []
  outs : List Outstanding := []
  shoots : List Shoot := []
  nextShoot : Nat := 0
  drains : List Drain := []
  saved : List Saved := []
  deriving DecidableEq, Repr

/-- The whole state: the cycle count since package reset (R251), the cores, glen cores, dies, memory, memory-side cache
slices, the cluster's and the dies' TLBs under key cluster or 128 + slice (R24), contexts, host translation, partitions, configured domain (0 is none), queues and mailboxes, platform; and the
model's own counter of free values (DESIGN CHOICE, log entry 2), issuing bundle and agenda (DESIGN CHOICE, log entry 1). -/
structure State where
  now : Nat := 0
  cores : Sparse Core := []
  glens : Sparse Glen := []
  dies : Sparse Die := []
  store : Store := {}
  slices : Sparse MemSlice := []
  tlbs : Sparse (List TlbEntry) := []
  contexts : Sparse Context := []
  ats : Ats := {}
  partitions : Sparse Partition := []
  domain : Nat := 0
  host : HostSide := {}
  plat : Platform := {}
  free : Nat := 0
  issue : Option Issue := none
  agenda : List Instr := []
  deriving DecidableEq, Repr

/-- The state right after package reset, before the boot ROMs run (R379): memory lists nothing, no group, team, queue or
program exists, every context descriptor and partition is invalid, the GEN of every ring is 0 (R48), dctl.HOLD is 1
(R364). The registers for which the spec gives no reset value hold 0 (DESIGN CHOICE, log entries 3 to 5). -/
def State.reset : State := {}

end Sys2Proof.Machine
end

