-- ==== Sys2Proof/Machine/Ops.lean ====
section
/-! DEFINITION. The named operations over the state: its places, the issuing gang's record, stops and waits, results
on their way to registers. -/

namespace Sys2Proof.Machine

/-! ## Places -/

/-- The key of a group slot in its core (R144). -/
def slotKey (bank slot : Nat) : Nat := 16 * bank + slot

/-- A core. -/
def State.core (s : State) (k : Nat) : Core := Sparse.look {} k s.cores
/-- A core changed. -/
def State.onCore (s : State) (k : Nat) (f : Core → Core) : State := { s with cores := Sparse.upd {} k f s.cores }
/-- A die. -/
def State.die (s : State) (k : Nat) : Die := Sparse.look {} k s.dies
/-- A die changed. -/
def State.onDie (s : State) (k : Nat) (f : Die → Die) : State := { s with dies := Sparse.upd {} k f s.dies }
/-- A glen core. -/
def State.glen (s : State) (k : Nat) : Glen := Sparse.look {} k s.glens
/-- A glen core changed. -/
def State.onGlen (s : State) (k : Nat) (f : Glen → Glen) : State := { s with glens := Sparse.upd {} k f s.glens }

/-- What an unlisted group slot holds: no group, or the Ibien agent in slot 15 of bank A (R145). -/
def groupZero (key : Nat) : Group := if key == 15 then { gid := { live := true }, slices := List.replicate 8 {} } else {}

/-- The group in a slot. -/
def State.groupAt (s : State) (core bank slot : Nat) : Group :=
  Sparse.look (groupZero (slotKey bank slot)) (slotKey bank slot) (s.core core).groups
/-- The group at a key of a core. -/
def Core.groupK (c : Core) (k : Nat) : Group := Sparse.look (groupZero k) k c.groups
/-- The group at a key of a core changed. -/
def Core.onGroupK (c : Core) (k : Nat) (f : Group → Group) : Core := { c with groups := Sparse.upd (groupZero k) k f c.groups }
/-- The group in a slot changed. -/
def State.onGroupAt (s : State) (core bank slot : Nat) (f : Group → Group) : State :=
  s.onCore core (fun c => { c with groups := Sparse.upd (groupZero (slotKey bank slot)) (slotKey bank slot) f c.groups })

/-- The registers and slices of whoever issues: a group's, the agent's, or a glen core's (R75). -/
def State.groupOf (s : State) (w : Who) : Group :=
  match w with
  | .gang g => s.groupAt g.core g.bank g.slot
  | .glen n => (s.glen n).ctx
/-- The same, changed. -/
def State.onGroup (s : State) (w : Who) (f : Group → Group) : State :=
  match w with
  | .gang g => s.onGroupAt g.core g.bank g.slot f
  | .glen n => s.onGlen n (fun x => { x with ctx := f x.ctx })

/-- Is the issuer the Ibien agent (R145)? -/
def isAgent : Who → Bool
  | .gang g => g.bank == 0 && g.slot == 15
  | .glen _ => false
/-- Is the issuer a glen core? -/
def isGlen : Who → Bool
  | .gang _ => false
  | .glen _ => true
/-- The issuer's core (0 for a glen core). -/
def coreOf : Who → Nat
  | .gang g => g.core
  | .glen _ => 0

/-! ## Groups -/

/-- The number of lanes of a group (R141). -/
def Group.width (g : Group) : Nat := if g.gid.half then 16 else 32
/-- The number of slices of a group (R141). -/
def Group.nslices (g : Group) : Nat := if g.gid.half then 4 else 8
/-- A slice of a group. -/
def Group.slice (g : Group) (k : Nat) : Slice := (g.slices[k]?).getD {}
/-- A slice changed. -/
def Group.onSlice (g : Group) (k : Nat) (f : Slice → Slice) : Group := { g with slices := listUpd g.slices k f }
/-- Several slices changed. -/
def Group.onSlices (g : Group) (ks : List Nat) (f : Slice → Slice) : Group :=
  ks.foldl (fun g k => g.onSlice k f) g
/-- The positions of the live slices (R148). -/
def Group.live (g : Group) : List Nat := (List.range g.nslices).filter (fun k => k < g.slices.length && !(g.slice k).exited)
/-- The live slices of the gang whose lowest slice is `k` (R146). -/
def Group.gangOf (g : Group) (k : Nat) : List Nat := g.live.filter (fun j => (g.slice j).gang == (g.slice k).gang)

/-- The physical lane register of window register vi (R153). -/
def Group.phys (g : Group) (i : Nat) : Nat := g.gid.rbase + (g.win.wb + i) % g.gid.rsb
/-- A window register of a lane. -/
def Group.reg (g : Group) (i lane : Nat) : Word := Sparse.look 0 (32 * g.phys i + lane) g.lanes.v
/-- A scalar register. -/
def Group.sreg (g : Group) (n : Nat) : DWord := Sparse.look 0 n g.sca.s
/-- A translation register. -/
def Group.xreg (g : Group) (n : Nat) : XReg := Sparse.look {} n g.sca.x
/-- A stream register. -/
def Group.stream (g : Group) (n : Nat) : Stream := Sparse.look {} n g.q
/-- The nesting counter of a lane (R149). -/
def Group.nc (g : Group) (lane : Nat) : Nat := Sparse.look 0 lane g.lanes.nc
/-- A codebook entry (R179). -/
def Group.cb (g : Group) (j : Nat) : Half := Sparse.look 0 j g.codebook
/-- A word of a lane's random-number state (R275). -/
def Group.rngWord (g : Group) (lane j : Nat) : Word := Sparse.look 0 (4 * lane + j) g.lanes.rng

/-- A scalar register written at once. -/
def Group.setSreg (g : Group) (n : Nat) (x : DWord) : Group := { g with sca := { g.sca with s := Sparse.put 0 n x g.sca.s } }
/-- A translation register written. -/
def Group.setXreg (g : Group) (n : Nat) (x : XReg) : Group := { g with sca := { g.sca with x := Sparse.put {} n x g.sca.x } }

/-- The innermost LOOP entry of a stack (R149). -/
def topLoop : List Entry → Option Entry
  | [] => none
  | e :: es => if e.kind == .loopE then some e else topLoop es

/-- Is lane `j` of slice `k` active (R149)? -/
def Group.active (g : Group) (k j : Nat) : Bool :=
  g.nc (4 * k + j) == 0 &&
    (match topLoop (g.slice k).stack' with
     | some e => !e.brkm.getLsbD j && !e.cntm.getLsbD j
     | none => true)

/-- The bit mask of the numbers below `n` that satisfy `f`. -/
def maskOf (n : Nat) (f : Nat → Bool) : BitVec 32 :=
  (List.range n).foldl (fun m l => if f l then m ||| (1#32 <<< l) else m) 0#32

/-- The active lanes of a gang (R149); every cluster of a VLIW thread. -/
def Group.activeMask (g : Group) (slices : List Nat) : BitVec 32 :=
  if g.vliw then maskOf g.width (fun _ => true)
  else maskOf g.width (fun l => slices.contains (l / 4) && g.active (l / 4) (l % 4))

/-! ## The issuing bundle -/

/-- The issue record changed. -/
def State.onIssue (s : State) (f : Issue → Issue) : State := { s with issue := s.issue.map f }

/-- The gang's lowest slice (R146). -/
def Issue.low (c : Issue) : Nat := c.slices.headD 0

/-- The stage condition of R166 on an operation of a VLIW thread; `none` where R166 raises an illegal-operation
trap. -/
def stageRuns (g : Group) (stg : Nat) : Option Bool :=
  match (g.slice 0).stack' with
  | e :: _ =>
    if e.kind == .loopE then
      (if stg ≤ e.sc.toNat then some (decide (stg ≤ e.iter.toNat) && decide (e.iter.toNat - stg < e.trip.toNat)) else none)
    else if stg = 0 then some true else none
  | [] => if stg = 0 then some true else none

/-- Does the stage let the operation take effect (R166)? -/
def Issue.runs (c : Issue) (s : Site) : Bool :=
  if c.snap.vliw && !s.slot.isControl then (stageRuns c.snap s.stg.toNat).getD false else true

/-- The execution mask of an operation (R149, R200, R226): the gang's, one cluster's in a lane slot, and empty when
the stage suppresses it. -/
def Issue.opMask (c : Issue) (s : Site) : BitVec 32 :=
  if !c.runs s then 0#32
  else
    match s.slot with
    | .lane k => c.mask &&& (1#32 <<< k.toNat)
    | _ => c.mask

/-- The active lanes of an operation, ascending. -/
def Issue.opLanes (c : Issue) (s : Site) : List Nat := (List.range 32).filter (fun l => (c.opMask s).getLsbD l)

/-- A scalar-path operation runs whatever the mask, unless its stage suppresses it (R226). -/
def Issue.scalarRuns (c : Issue) (s : Site) : Bool := c.runs s

/-- The number of a slot in a record (R355). -/
def slotNumber : Slot → Nat
  | .simt k => k.toNat
  | .glen k => k.toNat
  | .unit k => k.toNat
  | .lane c => 8 + c.toNat

/-- A Before stop of the bundle (R353); the first one stands. -/
def State.stopAt (s : State) (x : Stop) : State :=
  s.onIssue (fun c => if c.status == .ok then { c with status := .stop x } else c)

/-- A Before stop with a cause code at an operation's slot. -/
def State.trapAt (s : State) (site : Site) (code : Nat) : State := s.stopAt { code := code, slot := slotNumber site.slot }

/-- The cause codes of R353. -/
def causeTranslation : Nat := 0x01
def causeScratchRange : Nat := 0x02
def causeMisaligned : Nat := 0x03
def causeStackLimit : Nat := 0x04
def causeIllegalBundle : Nat := 0x05
def causeIllegalOperation : Nat := 0x06
def causeIllegalOperand : Nat := 0x07
def causeSchedule : Nat := 0x08
def causeControlOverflow : Nat := 0x09
def causePoisonSource : Nat := 0x0A
def causePoisonValue : Nat := 0x0B
def causeAtomic : Nat := 0x0C
def causeTensor : Nat := 0x0D
def causeEngine : Nat := 0x0E
def causeTrap : Nat := 0x10
def causeSysc : Nat := 0x11
def causeBrkp : Nat := 0x12
def causeBreakpoint : Nat := 0x13
def causeWatchpoint : Nat := 0x14

def State.illegalOperation (s : State) (site : Site) : State := s.trapAt site causeIllegalOperation
def State.illegalOperand (s : State) (site : Site) : State := s.trapAt site causeIllegalOperand
def State.controlOverflow (s : State) (site : Site) : State := s.trapAt site causeControlOverflow

/-- The bundle waits, and nothing of it takes effect (R172). -/
def State.waitFor (s : State) (w : Wait) : State :=
  s.onIssue (fun c => if c.status == .ok then { c with status := .wait w } else c)

/-- An After stop: the bundle completes first (R353). -/
def State.stopAfter (s : State) (x : Stop) : State := s.onIssue (fun c => { c with after := c.after ++ [x] })

/-- An operation runs inside an issuing bundle whose earlier operations neither stopped nor wait; elsewhere it does
not occur and nothing changes. -/
def State.during (s : State) (f : Issue → State) : State :=
  match s.issue with
  | none => s
  | some c => if c.status == .ok then f c else s

/-- The issuing group as it now stands. -/
def State.cur (s : State) (c : Issue) : Group := s.groupOf c.who

/-! ## Results -/

/-- The group with a result put in flight (R156, R157). -/
def Group.post (g : Group) (r : InFlight) : Group := { g with inflight := g.inflight ++ [r] }

/-- Lane results to window register `d`, each for one lane. Writing zero discards them (R211). -/
def State.postLanes (s : State) (c : Issue) (d : Spec) (vals : List (Nat × Word)) (lat : Nat) (empties : Bool) : State :=
  match d with
  | .v n =>
    s.onGroup c.who (fun g =>
      g.post { lanes := vals.map (fun p => (32 * c.snap.phys n.toNat + p.1, p.2, false)), due := s.now + lat,
               empties := empties })
  | _ => s

/-- A scalar result. A glen core's next bundle reads it (R77). -/
def State.postScalar (s : State) (c : Issue) (d : Spec) (x : DWord) (lat : Nat) (empties : Bool := false) : State :=
  match d with
  | .s n =>
    s.onGroup c.who (fun g =>
      g.post { sca := some (n.toNat, x, false), due := s.now + (if isGlen c.who then 0 else lat), empties := empties })
  | _ => s

/-- A result written to its registers (R156). A full write clears poison (R73). -/
def Group.take (g : Group) (r : InFlight) : Group :=
  { g with
    lanes := { g.lanes with
               v := r.lanes.foldl (fun m p => Sparse.put 0 p.1 p.2.1 m) g.lanes.v
               poison := r.lanes.foldl (fun m p => Sparse.put false p.1 p.2.2 m) g.lanes.poison }
    sca := match r.sca with
           | some (n, x, p) => { g.sca with s := Sparse.put 0 n x g.sca.s, poison := Sparse.put false n p g.sca.poison }
           | none => g.sca }

/-- The result in flight at position `k` written to its registers (R156). -/
def Group.land (g : Group) (k : Nat) : Group :=
  match g.inflight[k]? with
  | none => g
  | some r => { g.take r with inflight := g.inflight.eraseIdx k }

/-- Is it the result of a load, an atomic or a refill on its way, whose register is empty meanwhile (R156)? -/
def InFlight.returns (r : InFlight) : Bool := r.empties && !r.held && (!r.lanes.isEmpty || r.sca.isSome)

/-- The results of loads, atomics and refills written in the order of their issue (R360). -/
def Group.landLoads (g : Group) : Group :=
  (g.inflight.filter InFlight.returns).foldl Group.take { g with inflight := g.inflight.filter (fun r => !r.returns) }

/-- Every result in flight written. -/
def Group.landAll (g : Group) : Group := g.inflight.foldl (fun h _ => h.land 0) g

end Sys2Proof.Machine
end

