-- ==== Sys2Proof/Machine/Operands.lean ====
section
/-! DEFINITION. Every operand form: what a specifier reads on the lane and scalar paths (R211, R212, R227), stream
registers (R53, R54), and which registers an operation names (R157, R202).
Readings of the rules: DEDUCED, log entry 39. -/

namespace Sys2Proof.Machine

/-- The register value of a short constant: its element in every element of the type (R212). -/
def constWord (t : Ty) (c : BitVec 4) : Nat :=
  joinElems t.elemBits (List.replicate t.count ((constElem t c).getD 0))

/-- A 32-bit word of memory. -/
def Memory.word (m : Memory) (a : Nat) : Word := BitVec.ofNat 32 (m.num a 4)

/-- Element `k` of a stream register's circular buffer (R52); 0 past the last arrived element (R54). -/
def streamElem (c : Issue) (q : Stream) (k : Nat) : Word :=
  if k < q.arrived then Memory.word c.spad (c.spbase + q.buf + 4 * k % q.size) else 0

/-- What a specifier reads in a lane, 32 bits (R211, R227). `g` holds the stream positions before the operation. -/
def laneVal (c : Issue) (g : Group) (t : Ty) (x : Spec) (l : Nat) : Nat :=
  match x with
  | .v n => (c.snap.reg n.toNat l).toNat
  | .s n => (c.snap.sreg n.toNat).toNat % 2 ^ 32
  | .q n =>
    let q := g.stream n.toNat
    (streamElem c q (q.pos + (if c.snap.vliw then 0 else l))).toNat
  | .lane => l
  | .const k => constWord t k
  | _ => 0

/-- What a specifier reads on the scalar path, 64 bits (R211, R227). -/
def scalarVal (c : Issue) (t : Ty) (x : Spec) : Nat :=
  match x with
  | .s n => (c.snap.sreg n.toNat).toNat
  | .const k => constWord t k
  | _ => 0

/-- A scalar register operand that holds an address or number, as a 64-bit word. -/
def Issue.sval (c : Issue) (x : Spec) : DWord := BitVec.ofNat 64 (scalarVal c .n64 x)

/-! ## Stream registers -/

/-- The distinct stream registers among source fields, with their mode bits (R53). -/
def streamsOf : List (Spec × Bool) → List (Nat × Bool)
  | [] => []
  | (.q n, f) :: xs => (n.toNat, f) :: (streamsOf xs).filter (fun p => p.1 != n.toNat)
  | _ :: xs => streamsOf xs

/-- The elements one operation consumes (R53). -/
def streamRow (g : Group) : Nat := if g.vliw then 1 else g.width

/-- The lowest of some active lanes whose element of a stream lies in a poisoned scratchpad word (R72). -/
def streamPoison (c : Issue) (q : Stream) (lanes : List Nat) : Option Nat :=
  lanes.find? (fun l =>
    let k := q.pos + (if c.snap.vliw then 0 else l)
    k < q.arrived && Sparse.look false ((c.spbase + q.buf + 4 * k % q.size) / 4) c.spadPoison)

/-- Whether the streams have elements for some active lanes (R54): fine; an illegal-operand trap when unbound or past the end;
otherwise a wait, or a schedule trap in exposed mode where the field's mode bit is 1. A poisoned element faults like a poisoned
source register, since qN is one (R72). -/
def streamStatus (c : Issue) (g : Group) (lanes : List Nat) (slot : Nat) : List (Nat × Bool) → Status
  | [] => .ok
  | (n, f) :: xs =>
    let q := g.stream n
    let poisoned : Status := match streamPoison c q lanes with
      | some l => .stop { code := causePoisonSource, slot := slot, aux := BitVec.ofNat 64 (0x60 + n + 256 * l) }
      | none => streamStatus c g lanes slot xs
    if q.size == 0 then .stop { code := causeIllegalOperand, slot := slot }
    else if q.pos + streamRow g ≤ q.arrived then poisoned
    else if q.done then
      (if q.pos < q.arrived then poisoned else .stop { code := causeIllegalOperand, slot := slot })
    else if g.vliw && g.exposed && f then
      .stop { code := causeSchedule, slot := slot, aux := BitVec.ofNat 64 (0x60 + n) }
    else .wait .poll

/-- The streams' read positions moved past the elements consumed (R53); a read that crosses the final element consumes what
remains (R54). -/
def Group.consume (g : Group) (qs : List (Nat × Bool)) : Group :=
  qs.foldl (fun g p => { g with q := Sparse.upd {} p.1 (fun q => { q with pos := Nat.min (q.pos + streamRow g) q.arrived }) g.q }) g

/-- A status that is not fine recorded. -/
def State.note (s : State) (st : Status) : State :=
  match st with
  | .ok => s
  | .stop x => s.stopAt x
  | .wait w => s.waitFor w

/-! ## Lane and scalar operations -/

/-- An operation in each active lane: nothing with an empty mask (R149); its stream sources are read once and
consumed (R53). `f` is given the issue record, the group before consumption, the active lanes, and the state after
consumption. -/
def State.laneOp (s : State) (site : Site) (srcs : List (Spec × Bool))
    (f : Issue → Group → List Nat → State → State) : State :=
  s.during (fun c =>
    let lanes := c.opLanes site
    if lanes.isEmpty then s
    else
      let g := s.cur c
      let qs := streamsOf srcs
      match streamStatus c g lanes (slotNumber site.slot) qs with
      | .ok => f c g lanes (if qs.isEmpty then s else s.onGroup c.who (fun g => g.consume qs))
      | st => s.note st)

/-- A lane operation that writes one register per lane. -/
def State.laneMap (s : State) (site : Site) (srcs : List (Spec × Bool)) (d : Spec) (lat : Nat) (empties : Bool)
    (f : Issue → Group → Nat → Nat) : State :=
  s.laneOp site srcs (fun c g lanes s => s.postLanes c d (lanes.map (fun l => (l, BitVec.ofNat 32 (f c g l)))) lat empties)

/-- A scalar-path operation: it runs whatever the mask, unless its stage suppresses it (R226). -/
def State.scalarOp (s : State) (site : Site) (f : Issue → State) : State :=
  s.during (fun c => if c.scalarRuns site then f c else s)

/-- An integer operation of format R on either path (R226, R227): `f` on the register values of a, b and c. -/
def State.intOp (s : State) (o : ROp) (lat : Nat) (empties : Bool) (srcs : List (Spec × Bool))
    (f : Nat → Nat → Nat → Nat) : State :=
  if o.at'.slot.isScalar then
    s.scalarOp o.at' (fun c =>
      s.postScalar c o.d (scalarOf o.ty (f (scalarVal c o.ty o.a) (scalarVal c o.ty o.b) (scalarVal c o.ty o.c))) lat empties)
  else
    s.laneMap o.at' srcs o.d lat empties
      (fun c g l => f (laneVal c g o.ty o.a l) (laneVal c g o.ty o.b l) (laneVal c g o.ty o.c l))

/-- The three sources of a format R operation, with their mode bits. -/
def srcs3 (o : ROp) : List (Spec × Bool) := [(o.a, o.fa), (o.b, o.fb), (o.c, o.fc)]
def srcs2 (o : ROp) : List (Spec × Bool) := [(o.a, o.fa), (o.b, o.fb)]
def srcs1 (o : ROp) : List (Spec × Bool) := [(o.a, o.fa)]

/-- An integer operation of format I on either path (R248): `f` on a and the extended immediate. -/
def State.immOp (s : State) (o : IOp) (f : Nat → Nat → Nat) : State :=
  let imm := wrapTo (wholeWidth o.ty) o.imm.toInt
  if o.at'.slot.isScalar then
    s.scalarOp o.at' (fun c => s.postScalar c o.d (scalarOf o.ty (f (scalarVal c o.ty o.a) imm)) 2)
  else s.laneMap o.at' [(o.a, o.fa)] o.d 2 false (fun c g l => f (laneVal c g o.ty o.a l) imm)

/-! ## The registers an operation names -/

/-- The registers that an operation reads and writes: lane registers by window number and scalar registers, each
source with its full/empty mode bit (R157, R209), stream registers, and translation registers. -/
structure Usage where
  laneSrc : List (Nat × Bool) := []
  scaSrc : List (Nat × Bool) := []
  laneDst : List Nat := []
  scaDst : List Nat := []
  xDst : List Nat := []
  deriving DecidableEq, Repr

/-- A source field added; `n` lane registers from vn up. -/
def Usage.src (u : Usage) (x : Spec) (f : Bool) (n : Nat := 1) : Usage :=
  match x with
  | .v k => { u with laneSrc := u.laneSrc ++ (List.range n).map (fun i => (k.toNat + i, f)) }
  | .s k => { u with scaSrc := u.scaSrc ++ [(k.toNat, f)] }
  | _ => u

/-- A destination field added. -/
def Usage.dst (u : Usage) (x : Spec) (n : Nat := 1) : Usage :=
  match x with
  | .v k => { u with laneDst := u.laneDst ++ (List.range n).map (fun i => k.toNat + i) }
  | .s k => { u with scaDst := u.scaDst ++ [k.toNat] }
  | .x k => { u with xDst := u.xDst ++ [k.toNat] }
  | _ => u

/-- The base and index of an address (R206, R222). -/
def Usage.addr (u : Usage) (b : Base) (idx : Spec) : Usage :=
  let u := match b with
    | .s n => u.src (.s n) false
    | _ => u
  u.src idx false (if b == .pair then 2 else 1)

/-- Is the field of this use a register field that the operation reads? -/
def usedField (u : Use) : Bool := u != .none

/-- The number of registers that an LDX of a group writes by its pattern's NR (R287, R288). -/
def ldxRegs (g : Group) (o : MOp) : Nat := [1, 2, 4, 1].getD ((Sparse.look 0 o.sz.toNat g.xpat).toNat / 2 ^ 30 % 4) 1

/-- The registers of an operation of a group (R203 to R208, R281, R288, R289). -/
def usage (g : Group) (i : Instr) : Usage :=
  let n := opInfo i
  let three (d a b c : Spec) (fa fb fc : Bool) : Usage :=
    let u : Usage := {}
    let u := if usedField n.d then u.dst d (if n.d == .laneEvenD then 2 else 1) else u
    let u := if usedField n.a then u.src a fa else u
    let u := if usedField n.b then u.src b fb else u
    if usedField n.c then u.src c fc else u
  match opRec i with
  | .none | .nop _ => {}
  | .r o =>
    match i with
    | .spawn o =>
      (match o.b with
       | .s k => (List.range 4).foldl (fun u j => u.src (.s (k + BitVec.ofNat 5 j)) o.fb) (({} : Usage).dst o.d |>.src o.a o.fa)
       | _ => ({} : Usage).dst o.d |>.src o.a o.fa)
    | .pack o => if o.ty.count == 2 then (({} : Usage).dst o.d |>.src o.a o.fa |>.src o.b o.fb) else three o.d o.a o.b o.c o.fa o.fb o.fc
    | _ => three o.d o.a o.b o.c o.fa o.fb o.fc
  | .e o =>
    (match i with
     | .attn o => if o.ext.getLsbD 8 then three o.d o.a o.b o.c o.fa o.fb o.fc else (({} : Usage).src o.a o.fa |>.src o.b o.fb)
     | _ => three o.d o.a o.b o.c o.fa o.fb o.fc)
  | .i o =>
    let u := if usedField n.d then ({} : Usage).dst o.d else {}
    if usedField n.a then u.src o.a o.fa else u
  | .b o =>
    (match i with
     | .bra _ => ({} : Usage).src o.c o.fc
     | .loop _ => if o.mod.getLsbD 0 then {} else ({} : Usage).src o.c o.fc
     | _ => {})
  | .m o =>
    let u := ({} : Usage).addr o.base o.idx
    (match i with
     | .pref _ => u
     | .ldxG o | .ldxS o | .ldxL o => u.dst o.d (ldxRegs g o)
     | _ =>
       match loadStore i with
       | some (_, _, true, _) => u.dst o.d (sizeRegs o.sz.toNat)
       | some (_, _, false, _) => u.src o.d false ((storeBytes o.sz.toNat + 3) / 4)
       | none => u)
  | .a o =>
    let k := if o.ta.is64 then 2 else 1
    let u := (({} : Usage).addr o.base o.idx).dst o.d k |>.src o.a false k
    (match i with
     | .casG _ | .casS _ => u.src o.b false k
     | _ => u)

end Sys2Proof.Machine
end

