-- ==== Sys2Proof/Machine/Flags.lean ====
section
/-! DEFINITION. FMT and its flags (R149, R152, R181, R187): reading its fields, raising sticky flags, and the lane
floating-point operations that do. -/

namespace Sys2Proof.Machine

/-- The slice whose FMT copy a lane uses; a VLIW thread uses that of its lowest slice (R159). -/
def fmtSlice (g : Group) (l : Nat) : Nat := if g.vliw then 0 else l / 4

/-- The fields of FMT (R181). -/
def fmtCbn (f : Word) : Nat := (f.extractLsb' 17 6).toNat
def fmtCbk (f : Word) : Nat := (f.extractLsb' 15 2).toNat
def fmtFl (f : Word) : Bool := f.getLsbD 14
def fmtWin (f : Word) : Nat := (f.extractLsb' 11 3).toNat

/-- The window width of a 3-bit code (R189). -/
def windowOf (code : Nat) : Nat := [16, 20, 24, 28, 32, 40, 48, 64].getD code 64

/-- Sticky flags raised in the copy of the lane's slice (R152, R187). -/
def Group.raise (g : Group) (l : Nat) (fl : FFlags) : Group :=
  g.onSlice (fmtSlice g l) (fun x => { x with fmt := x.fmt ||| fl.setWidth 32 })

/-- The flags of several lanes raised. -/
def Group.raiseAll (g : Group) (fs : List (Nat × FFlags)) : Group := fs.foldl (fun g p => g.raise p.1 p.2) g

/-- The bits of FMT that are not reserved: the others read 0 (R181). -/
def fmtBits : Word := 0x007FF81F#32

/-- The value that a read of FMT by a gang returns: the control fields of its lowest slice and the OR of the sticky
flags of all its slices (R152). A VLIW thread reads its one copy, that of its lowest slice (R159, R266). -/
def Group.readFmt (g : Group) (slices : List Nat) : Word :=
  let low := (g.slice (slices.headD 0)).fmt &&& fmtBits
  if g.vliw then low
  else slices.foldl (fun x k => x ||| ((g.slice k).fmt &&& 0x1F#32)) (low &&& ~~~0x1F#32)

/-- An element's result, its flags, and whether it meets the condition of a diversion (R188). -/
structure FElem where
  bits : Nat
  flags : FFlags := 0
  divert : Bool := false
  deriving DecidableEq, Repr

/-- Element `i` of type `t` of each register value, through `f`, joined again (R178). -/
def mapFloat (w n : Nat) (f : Nat → FElem) : FElem :=
  let es := (List.range n).map f
  { bits := joinElems w (es.map FElem.bits)
    flags := es.foldl (fun x e => x ||| e.flags) 0#5
    divert := es.any FElem.divert }

/-- A floating-point lane operation: results, flags of the active lanes, and with FMT.FL = 0 the 18 further cycles of
a diverted one, which marks its destination empty (R187, R188, R259). A diverted operation that writes no register is on its way all the
same, since its replay holds the special unit. `lat` gives the latencies for FL = 0 and 1. -/
def State.floatOp (s : State) (site : Site) (srcs : List (Spec × Bool)) (d : Spec) (lat : Nat × Nat) (diverts special : Bool)
    (f : Issue → Group → Nat → FElem) : State :=
  s.laneOp site srcs (fun c g lanes s =>
    let es := lanes.map (fun l => (l, f c g l))
    let fl := fmtFl (c.snap.slice c.low).fmt
    let div := diverts && !fl && es.any (fun p => p.2.divert)
    let s := s.onGroup c.who (fun g => g.raiseAll (es.map (fun p => (p.1, p.2.flags))))
    let due := (if fl then lat.2 else lat.1) + (if div then 18 else 0)
    match d with
    | .v _ => s.postLanes c d (es.map (fun p => (p.1, BitVec.ofNat 32 p.2.bits))) due (special || div)
    | _ => if div then s.onGroup c.who (fun g => g.post { due := s.now + due, empties := true }) else s)

/-- Does a diversion's condition hold for an operation of format `f` on these operand elements, with its result by rounding mode? -/
def divertsOn (f : FFmt) (xs : List Nat) (h : Nat → Nat × FFlags) (rm : Nat) : Bool := xs.any f.isSub || f.tinyResult h rm

/-- An arithmetic form of R260 element by element on a type: `h` by rounding mode on the elements of a, b and c. -/
def floatElems (t : Ty) (nsrc rm : Nat) (h : FFmt → Nat → Nat → Nat → Nat → Nat × FFlags) (a b c : Nat) : FElem :=
  match fmtOfTy t with
  | none => { bits := 0 }
  | some f =>
    mapFloat f.width t.count (fun i =>
      let x := elemAt t a i
      let y := elemAt t b i
      let z := elemAt t c i
      let r := h f rm x y z
      { bits := r.1, flags := r.2, divert := divertsOn f ([x, y, z].take nsrc) (fun m => h f m x y z) rm })

/-- The rounding mode and .sat of MOD (R210). -/
def rmOf (o : ROp) : Nat := (o.mod.extractLsb' 0 2).toNat
def satOf (o : ROp) : Bool := o.mod.getLsbD 2

end Sys2Proof.Machine
end

