-- ==== Sys2Proof/Machine/Special.lean ====
section
/-! DEFINITION. The special functions of R262: each the exact function value rounded once. An irrational value is
computed in fixed point with `prec` fraction bits and an error far below the last bit kept, and rounded as a lower
value with something left over. -/

namespace Sys2Proof.Machine

/-- Fraction bits of the fixed-point work. -/
def prec : Nat := 320
/-- The fixed-point one. -/
def fxOne : Int := 2 ^ prec

/-- Σ over k of the terms of a series, term k+1 being `t * a / (b * d k)`; alternating where `alt` holds. -/
def series (alt : Bool) (a b : Int) (d : Nat → Int) : Nat → Nat → Int → Int → Int
  | 0, _, _, acc => acc
  | n + 1, k, t, acc =>
    let t' := Int.fdiv (Int.fdiv (t * a) b) (d k)
    series alt a b d n (k + 1) t' (if alt && k % 2 == 0 then acc - t' else acc + t')

/-- Σ u^(2k+1)/(2k+1) (atanh), or with alternating signs (atan), for u in fixed point `p`. -/
def oddSeries (alt : Bool) (p : Nat) (u : Int) : Nat → Nat → Int → Int → Int
  | 0, _, _, acc => acc
  | n + 1, k, t, acc =>
    let term := Int.fdiv t (2 * (k : Int) + 1)
    oddSeries alt p u n (k + 1) (Int.fdiv (Int.fdiv (t * u) (2 ^ p) * u) (2 ^ p))
      (if alt && k % 2 == 1 then acc - term else acc + term)

/-- ln 2 in fixed point: 2 atanh(1/3). -/
def ln2 : Int := 2 * oddSeries false prec (fxOne / 3) 110 0 (fxOne / 3) 0

/-- π with `p` fraction bits: 16 atan(1/5) − 4 atan(1/239). -/
def piFx (p : Nat) : Int :=
  16 * oddSeries true p (2 ^ p / 5) 120 0 (2 ^ p / 5) 0 - 4 * oddSeries true p (2 ^ p / 239) 40 0 (2 ^ p / 239) 0

/-- e^y for y in [0, 1) in fixed point. -/
def expFx (y : Int) : Int := series false y fxOne (fun k => (k : Int) + 1) 90 0 fxOne fxOne

/-- sin r and cos r for |r| ≤ 1 in fixed point. -/
def sinFx (r : Int) : Int :=
  series true (Int.fdiv (r * r) fxOne) fxOne (fun k => (2 * (k : Int) + 2) * (2 * (k : Int) + 3)) 60 0 r r
def cosFx (r : Int) : Int :=
  series true (Int.fdiv (r * r) fxOne) fxOne (fun k => (2 * (k : Int) + 1) * (2 * (k : Int) + 2)) 60 0 fxOne fxOne

/-- A number ± m × 2^e in fixed point `p`. -/
def toFx (p : Nat) (neg : Bool) (m : Nat) (e : Int) : Int :=
  let k := (p : Int) + e
  let x : Int := if 0 ≤ k then ((m * 2 ^ k.toNat : Nat) : Int) else ((m / 2 ^ (-k).toNat : Nat) : Int)
  if neg then -x else x

/-- A fixed-point value times 2^n, rounded as a value with something left over: the last 100 bits are guard bits. -/
def roundFx (f : FFmt) (rm : Nat) (v : Int) (n : Int) : Nat × FFlags :=
  roundTo f rm (.num (v < 0) (v.natAbs / 2 ^ 100) (n - prec + 100)) true

/-- Just above (`up`) or just below the magnitude m × 2^e. -/
def roundNear (f : FFmt) (rm : Nat) (up neg : Bool) (m : Nat) (e : Int) : Nat × FFlags :=
  roundTo f rm (.num neg (if up then m * 2 ^ 100 else m * 2 ^ 100 - 1) (e - 100)) true

/-- Is the nonzero magnitude m × 2^e below 2^-40? -/
def isTiny (m : Nat) (e : Int) : Bool := e + Nat.log2 m < -40

/-- 2^x (R262): an exact power of two for an integer x. -/
def exp2Mag (f : FFmt) (rm : Nat) (neg : Bool) (m : Nat) (e : Int) : Nat × FFlags :=
  if 10 < e + Nat.log2 m then
    roundNear f rm true false 1 (if neg then -2000 else 2000)
  else if isTiny m e then roundNear f rm (!neg) false 1 0
  else
    let x := toFx prec neg m e
    let n := Int.fdiv x fxOne
    let r := x - n * fxOne
    if r = 0 then roundTo f rm (.num false 1 n)
    else roundFx f rm (expFx (Int.fdiv (r * ln2) fxOne)) n

/-- log2 of a positive number: exact for a power of two. -/
def log2Mag (f : FFmt) (rm : Nat) (m : Nat) (e : Int) : Nat × FFlags :=
  let k := Nat.log2 m
  let n : Int := e + k
  if m == 2 ^ k then roundTo f rm (.num (n < 0) n.natAbs 0)
  else
    let z := toFx prec false m (-(k : Int))
    let u := Int.fdiv ((z - fxOne) * fxOne) (z + fxOne)
    let l := Int.fdiv (2 * oddSeries false prec u 110 0 u 0 * fxOne) ln2
    roundFx f rm (n * fxOne + l) 0

/-- The quadrant of x and its remainder in [-π/4, π/4], exact to far below the last bit (R262). -/
def reduceAngle (neg : Bool) (m : Nat) (e : Int) : Nat × Int :=
  let p := prec + 160
  let x := toFx p neg m e
  let h := piFx p / 2
  let k := Int.fdiv (2 * x + h) (2 * h)
  ((k % 4).toNat, Int.fdiv (x - k * h) (2 ^ 160))

/-- SIN for a nonzero finite argument. -/
def sinMag (f : FFmt) (rm : Nat) (neg : Bool) (m : Nat) (e : Int) : Nat × FFlags :=
  if isTiny m e then roundNear f rm false neg m e
  else
    let (q, r) := reduceAngle neg m e
    roundFx f rm (match q with | 0 => sinFx r | 1 => cosFx r | 2 => -(sinFx r) | _ => -(cosFx r)) 0

/-- COS for a nonzero finite argument. -/
def cosMag (f : FFmt) (rm : Nat) (neg : Bool) (m : Nat) (e : Int) : Nat × FFlags :=
  if isTiny m e then roundNear f rm false false 1 0
  else
    let (q, r) := reduceAngle neg m e
    roundFx f rm (match q with | 0 => cosFx r | 1 => -(sinFx r) | 2 => -(cosFx r) | _ => sinFx r) 0

/-- TANH for a nonzero finite argument: (1 - t) / (1 + t) with t = e^(-2|x|). -/
def tanhMag (f : FFmt) (rm : Nat) (neg : Bool) (m : Nat) (e : Int) : Nat × FFlags :=
  if isTiny m e then roundNear f rm false neg m e
  else if 6 ≤ e + Nat.log2 m then roundNear f rm false neg 1 0
  else
    let y := -(2 * toFx prec false m e)
    let n := Int.fdiv y ln2
    let t := Int.fdiv (expFx (y - n * ln2)) (2 ^ (-n).toNat)
    let v := Int.fdiv ((fxOne - t) * fxOne) (fxOne + t)
    roundFx f rm (if neg then -v else v) 0

/-- The special functions. -/
inductive Fn where
  | rcp | rsq | sqrt | exp2 | log2 | sin | cos | tanh
  deriving DecidableEq, Repr

/-- The value at an infinity (R262). -/
def Fn.atInf (k : Fn) (f : FFmt) (neg : Bool) : Nat × FFlags :=
  match k with
  | .rcp => (f.zero neg, 0#5)
  | .rsq => if neg then (f.canonNan, flagNV) else (f.zero false, 0#5)
  | .sqrt | .log2 => if neg then (f.canonNan, flagNV) else (f.infinity false, 0#5)
  | .exp2 => if neg then (f.zero false, 0#5) else (f.infinity false, 0#5)
  | .sin | .cos => (f.canonNan, flagNV)
  | .tanh => ((roundTo f 0 (.num neg 1 0)).1, 0#5)

/-- The value at a zero (R262). -/
def Fn.atZero (k : Fn) (f : FFmt) (neg : Bool) : Nat × FFlags :=
  match k with
  | .rcp | .rsq => (f.infinity neg, flagDZ)
  | .sqrt | .sin | .tanh => (f.zero neg, 0#5)
  | .exp2 | .cos => ((roundTo f 0 (.num false 1 0)).1, 0#5)
  | .log2 => (f.infinity true, flagDZ)

/-- The value at a nonzero number ± m × 2^e, rounded once. -/
def Fn.atNum (k : Fn) (f : FFmt) (rm : Nat) (neg : Bool) (m : Nat) (e : Int) : Nat × FFlags :=
  match k with
  | .rcp =>
    let (q, x, st) := quotient 1 0 m e 96
    roundTo f rm (.num neg q x) st
  | .rsq =>
    if neg then (f.canonNan, flagNV)
    else
      let odd := e % 2 != 0
      let m1 := if odd then m * 2 else m
      let e1 := if odd then e - 1 else e
      let r := Nat.sqrt (2 ^ 160 / m1)
      roundTo f rm (.num false r (-80 - e1 / 2)) (m1 * r * r != 2 ^ 160)
  | .sqrt =>
    if neg then (f.canonNan, flagNV)
    else
      let (r, x, st) := sqrtMag m e
      roundTo f rm (.num false r x) st
  | .exp2 => exp2Mag f rm neg m e
  | .log2 => if neg then (f.canonNan, flagNV) else log2Mag f rm m e
  | .sin => sinMag f rm neg m e
  | .cos => cosMag f rm neg m e
  | .tanh => tanhMag f rm neg m e

/-- A special function on one element (R262, R183, R185). -/
def fnElem (k : Fn) (f : FFmt) (rm : Nat) (sat : Bool) (x : Nat) : Nat × FFlags :=
  match nanResult f f [x] with
  | some r => r
  | none =>
    let (y, fl) :=
      match f.value x with
      | .inf n => k.atInf f n
      | .num n m e => if m == 0 then k.atZero f n else k.atNum f rm n m e
      | .nan => (f.canonNan, 0#5)
    (if y == f.canonNan && fl == flagNV then y else saturate f sat y, fl)

end Sys2Proof.Machine
end

