-- ==== Sys2Proof/Machine/FloatOps.lean ====
section
/-! DEFINITION. The meanings of the floating-point, conversion, format and special-function operations (R257 to
R266). -/

namespace Sys2Proof.Machine

/-- FADD (R260). -/
def execFadd (o : ROp) (s : State) : Host.Outcome State Fault Refusal :=
  .next (s.floatOp o.at' (srcs2 o) o.d (4, 8) true false (fun c g l =>
    floatElems o.ty 2 (rmOf o) (fun f rm x y _ => addElem f rm (satOf o) x y)
      (laneVal c g o.ty o.a l) (laneVal c g o.ty o.b l) (laneVal c g o.ty o.c l)))

/-- FSUB (R260). -/
def execFsub (o : ROp) (s : State) : Host.Outcome State Fault Refusal :=
  .next (s.floatOp o.at' (srcs2 o) o.d (4, 8) true false (fun c g l =>
    floatElems o.ty 2 (rmOf o) (fun f rm x y _ => subElem f rm (satOf o) x y)
      (laneVal c g o.ty o.a l) (laneVal c g o.ty o.b l) (laneVal c g o.ty o.c l)))

/-- FMUL (R260). -/
def execFmul (o : ROp) (s : State) : Host.Outcome State Fault Refusal :=
  .next (s.floatOp o.at' (srcs2 o) o.d (4, 8) true false (fun c g l =>
    floatElems o.ty 2 (rmOf o) (fun f rm x y _ => mulElem f rm (satOf o) x y)
      (laneVal c g o.ty o.a l) (laneVal c g o.ty o.b l) (laneVal c g o.ty o.c l)))

/-- FMA (R260). -/
def execFma (o : ROp) (s : State) : Host.Outcome State Fault Refusal :=
  .next (s.floatOp o.at' (srcs3 o) o.d (4, 8) true false (fun c g l =>
    floatElems o.ty 3 (rmOf o) (fun f rm x y z => fmaElem f rm (satOf o) x y z)
      (laneVal c g o.ty o.a l) (laneVal c g o.ty o.b l) (laneVal c g o.ty o.c l)))

/-- FDIV (R260). -/
def execFdiv (o : ROp) (s : State) : Host.Outcome State Fault Refusal :=
  .next (s.floatOp o.at' (srcs2 o) o.d (24, 28) true true (fun c g l =>
    floatElems o.ty 2 (rmOf o) (fun f rm x y _ => divElem f rm (satOf o) x y)
      (laneVal c g o.ty o.a l) (laneVal c g o.ty o.b l) (laneVal c g o.ty o.c l)))

/-- FMIN (R186). -/
def execFmin (o : ROp) (s : State) : Host.Outcome State Fault Refusal :=
  .next (s.floatOp o.at' (srcs2 o) o.d (4, 8) false false (fun c g l =>
    floatElems o.ty 2 (rmOf o) (fun f _ x y _ => minMaxElem f false x y)
      (laneVal c g o.ty o.a l) (laneVal c g o.ty o.b l) (laneVal c g o.ty o.c l)))

/-- FMAX (R186). -/
def execFmax (o : ROp) (s : State) : Host.Outcome State Fault Refusal :=
  .next (s.floatOp o.at' (srcs2 o) o.d (4, 8) false false (fun c g l =>
    floatElems o.ty 2 (rmOf o) (fun f _ x y _ => minMaxElem f true x y)
      (laneVal c g o.ty o.a l) (laneVal c g o.ty o.b l) (laneVal c g o.ty o.c l)))

/-- FCMP (R261). -/
def execFcmp (o : ROp) (s : State) : Host.Outcome State Fault Refusal :=
  .next (s.floatOp o.at' (srcs2 o) o.d (4, 8) false false (fun c g l =>
    floatElems o.ty 2 (rmOf o) (fun f _ x y _ =>
      let r := compareFloat f (o.mod.extractLsb' 8 3).toNat x y
      (truthElem f.width (o.mod.getLsbD 11) r.1, r.2))
      (laneVal c g o.ty o.a l) (laneVal c g o.ty o.b l) (laneVal c g o.ty o.c l)))

/-- FCLASS (R261). -/
def execFclass (o : ROp) (s : State) : Host.Outcome State Fault Refusal :=
  .next (s.floatOp o.at' (srcs1 o) o.d (4, 8) false false (fun c g l =>
    floatElems o.ty 1 (rmOf o) (fun f _ x _ _ => (classElem f x, 0#5))
      (laneVal c g o.ty o.a l) (laneVal c g o.ty o.b l) (laneVal c g o.ty o.c l)))

/-- FRND (R260). -/
def execFrnd (o : ROp) (s : State) : Host.Outcome State Fault Refusal :=
  .next (s.floatOp o.at' (srcs1 o) o.d (4, 8) true false (fun c g l =>
    floatElems o.ty 1 (rmOf o) (fun f rm x _ _ => rndElem f rm x)
      (laneVal c g o.ty o.a l) (laneVal c g o.ty o.b l) (laneVal c g o.ty o.c l)))

/-- RCP (R262). -/
def execRcp (o : ROp) (s : State) : Host.Outcome State Fault Refusal :=
  .next (s.floatOp o.at' (srcs1 o) o.d (12, 16) true true (fun c g l =>
    floatElems o.ty 1 (rmOf o) (fun f rm x _ _ => fnElem .rcp f rm (satOf o) x)
      (laneVal c g o.ty o.a l) (laneVal c g o.ty o.b l) (laneVal c g o.ty o.c l)))

/-- RSQ (R262). -/
def execRsq (o : ROp) (s : State) : Host.Outcome State Fault Refusal :=
  .next (s.floatOp o.at' (srcs1 o) o.d (12, 16) true true (fun c g l =>
    floatElems o.ty 1 (rmOf o) (fun f rm x _ _ => fnElem .rsq f rm (satOf o) x)
      (laneVal c g o.ty o.a l) (laneVal c g o.ty o.b l) (laneVal c g o.ty o.c l)))

/-- SQRT (R262). -/
def execSqrt (o : ROp) (s : State) : Host.Outcome State Fault Refusal :=
  .next (s.floatOp o.at' (srcs1 o) o.d (12, 16) true true (fun c g l =>
    floatElems o.ty 1 (rmOf o) (fun f rm x _ _ => fnElem .sqrt f rm (satOf o) x)
      (laneVal c g o.ty o.a l) (laneVal c g o.ty o.b l) (laneVal c g o.ty o.c l)))

/-- EXP2 (R262). -/
def execExp2 (o : ROp) (s : State) : Host.Outcome State Fault Refusal :=
  .next (s.floatOp o.at' (srcs1 o) o.d (12, 16) true true (fun c g l =>
    floatElems o.ty 1 (rmOf o) (fun f rm x _ _ => fnElem .exp2 f rm (satOf o) x)
      (laneVal c g o.ty o.a l) (laneVal c g o.ty o.b l) (laneVal c g o.ty o.c l)))

/-- LOG2 (R262). -/
def execLog2 (o : ROp) (s : State) : Host.Outcome State Fault Refusal :=
  .next (s.floatOp o.at' (srcs1 o) o.d (12, 16) true true (fun c g l =>
    floatElems o.ty 1 (rmOf o) (fun f rm x _ _ => fnElem .log2 f rm (satOf o) x)
      (laneVal c g o.ty o.a l) (laneVal c g o.ty o.b l) (laneVal c g o.ty o.c l)))

/-- SIN (R262). -/
def execSin (o : ROp) (s : State) : Host.Outcome State Fault Refusal :=
  .next (s.floatOp o.at' (srcs1 o) o.d (16, 20) true true (fun c g l =>
    floatElems o.ty 1 (rmOf o) (fun f rm x _ _ => fnElem .sin f rm (satOf o) x)
      (laneVal c g o.ty o.a l) (laneVal c g o.ty o.b l) (laneVal c g o.ty o.c l)))

/-- COS (R262). -/
def execCos (o : ROp) (s : State) : Host.Outcome State Fault Refusal :=
  .next (s.floatOp o.at' (srcs1 o) o.d (16, 20) true true (fun c g l =>
    floatElems o.ty 1 (rmOf o) (fun f rm x _ _ => fnElem .cos f rm (satOf o) x)
      (laneVal c g o.ty o.a l) (laneVal c g o.ty o.b l) (laneVal c g o.ty o.c l)))

/-- TANH (R262). -/
def execTanh (o : ROp) (s : State) : Host.Outcome State Fault Refusal :=
  .next (s.floatOp o.at' (srcs1 o) o.d (16, 20) true true (fun c g l =>
    floatElems o.ty 1 (rmOf o) (fun f rm x _ _ => fnElem .tanh f rm (satOf o) x)
      (laneVal c g o.ty o.a l) (laneVal c g o.ty o.b l) (laneVal c g o.ty o.c l)))

/-- The condition of R188 on a conversion: a subnormal source element, or a tiny result. -/
def convertDiverts (src dst : Ty) (rm : Nat) (sat : Bool) (x : Nat) : Bool :=
  (match fmtOfTy src with | some f => f.isSub x | none => false) ||
    (match fmtOfTy dst with | some f => f.tinyResult (fun m => convertElem src dst m sat x) rm | none => false)

/-- One element converted, as an element result (R263). -/
def convertFElem (src dst : Ty) (rm : Nat) (sat : Bool) (x : Nat) : FElem :=
  let r := convertElem src dst rm sat x
  { bits := r.1, flags := r.2, divert := convertDiverts src dst rm sat x }

/-- The source type code in MOD[13:9] (R257). -/
def srcTyOf (o : ROp) : Ty := (Ty.ofCode (o.mod.extractLsb' 9 5)).getD .b32

/-- CVT (R263): each element of a from the source type to TY. -/
def execCvt (o : ROp) (s : State) : Host.Outcome State Fault Refusal :=
  .next (s.floatOp o.at' (srcs1 o) o.d (4, 8) true true (fun c g l =>
    let x := laneVal c g (srcTyOf o) o.a l
    mapFloat o.ty.elemBits o.ty.count (fun i =>
      convertFElem (srcTyOf o) o.ty (rmOf o) (satOf o) (elemAt (srcTyOf o) x i))))

/-- PACK (R264): a and b converted into elements 2h and 2h + 1; the others copied from c. -/
def execPack (o : ROp) (s : State) : Host.Outcome State Fault Refusal :=
  .next (s.floatOp o.at' (if o.ty.count == 2 then srcs2 o else srcs3 o) o.d (4, 8) true true (fun c g l =>
    let src : Ty := if o.mod.getLsbD 10 then .i32 else .f32
    let h := (o.mod.extractLsb' 8 2).toNat
    let x := laneVal c g src o.a l
    let y := laneVal c g src o.b l
    let z := if o.ty.count == 2 then 0 else laneVal c g o.ty o.c l
    mapFloat o.ty.elemBits o.ty.count (fun i =>
      if i == 2 * h then convertFElem src o.ty (rmOf o) (satOf o) x
      else if i == 2 * h + 1 then convertFElem src o.ty (rmOf o) (satOf o) y
      else { bits := elemAt o.ty z i })))

/-- UNPACK (R264): element k of the packed source converted to TY. -/
def execUnpack (o : ROp) (s : State) : Host.Outcome State Fault Refusal :=
  .next (s.floatOp o.at' (srcs1 o) o.d (4, 8) true true (fun c g l =>
    convertFElem (srcTyOf o) o.ty (rmOf o) (satOf o)
      (elemAt (srcTyOf o) (laneVal c g (srcTyOf o) o.a l) (o.mod.extractLsb' 6 3).toNat)))

/-- The FMT bits that a mask of FMT's layout selects from IMM (R265). -/
def fmtMask (imm : BitVec 20) : Word := ((imm.extractLsb' 5 12).setWidth 32 <<< 11) ||| (imm.extractLsb' 0 5).setWidth 32

/-- FMT (R265): the selected bits written in every slice of the gang. A value with a reserved bit, or one that clears
FL in exposed mode (R162), raises an illegal-operand trap. -/
def execFmt (o : IOp) (s : State) : Host.Outcome State Fault Refusal :=
  .next (s.scalarOp o.at' (fun c =>
    let a : Word := (c.sval o.a).setWidth 32
    let m := fmtMask o.imm
    if a &&& 0xFF8007E0#32 != 0#32 then s.illegalOperand o.at'
    else if c.snap.vliw && c.snap.exposed && m.getLsbD 14 && !a.getLsbD 14 then s.illegalOperand o.at'
    else s.onGroup c.who (fun g => g.onSlices c.slices (fun x => { x with fmt := (x.fmt &&& ~~~m) ||| (a &&& m) }))))

/-- FMTRD (R266): the value of R152, zero-extended. -/
def execFmtrd (o : ROp) (s : State) : Host.Outcome State Fault Refusal :=
  .next (s.scalarOp o.at' (fun c => s.postScalar c o.d ((c.snap.readFmt c.slices).setWidth 64) 2))

end Sys2Proof.Machine
end

