-- ==== Sys2Proof/Machine/Dot.lean ====
section
/-! DEFINITION. The dot step (R190), the in-array sum and promotion (R191), on exact values. -/

namespace Sys2Proof.Machine

/-- An integer as an exact value. -/
def fpOfInt (v : Int) : Fp := .num (v < 0) v.natAbs 0

/-- The exact product of two terms; `none` for 0 × ∞ (R190). -/
def termProduct (p : Fp × Fp) : Option Fp := mulFp p.1 p.2

/-- Is it a NaN? -/
def Fp.isNan : Fp → Bool
  | .nan => true
  | _ => false

/-- The signs of the infinite products. -/
def infSigns (ps : List Fp) : List Bool := ps.filterMap (fun p => match p with | .inf n => some n | _ => none)

/-- The nonzero and zero finite products as sign, magnitude and exponent. -/
def finiteTerms (ps : List Fp) : List (Bool × Nat × Int) :=
  ps.filterMap (fun p => match p with | .num n m e => some (n, m, e) | _ => none)

/-- The largest exponent floor(log2 |p|) over the nonzero products. -/
def maxExp : List (Bool × Nat × Int) → Option Int
  | [] => none
  | (_, m, e) :: ts =>
    match maxExp ts with
    | none => if m == 0 then none else some (e + Nat.log2 m)
    | some x => if m == 0 then some x else some (if x < e + Nat.log2 m then e + Nat.log2 m else x)

/-- A magnitude truncated to a multiple of 2^u, in units of 2^u, with whether bits were lost. -/
def truncTo (m : Nat) (e u : Int) : Nat × Bool :=
  if u ≤ e then (m * 2 ^ (e - u).toNat, false)
  else (m / 2 ^ (u - e).toNat, m % 2 ^ (u - e).toNat != 0)

/-- dot_step of R190: the step sum and the lost bit. -/
def dotStep (ts : List (Fp × Fp)) (w : Nat) : Fp × Bool :=
  let ps := ts.map termProduct
  if ts.any (fun p => p.1.isNan || p.2.isNan) || ps.any Option.isNone then (.nan, false)
  else
    let ps := ps.filterMap id
    let infs := infSigns ps
    if infs.contains true && infs.contains false then (.nan, false)
    else
      match infs with
      | n :: _ => (.inf n, false)
      | [] =>
        let fs := finiteTerms ps
        match maxExp fs with
        | none => (.num (fs.all (fun t => t.1)) 0 0, false)
        | some top =>
          let u : Int := top + 1 - w
          let qs := fs.map (fun t => let r := truncTo t.2.1 t.2.2 u
            ((if t.1 then -(r.1 : Int) else (r.1 : Int)), r.2))
          let s : Int := qs.foldl (fun (a : Int) q => a + q.1) 0
          (.num (s < 0) s.natAbs u, qs.any (fun q => q.2))

/-- rne of a sum or product inside the array: NaN canonical, infinities by R185; as an exact value again. -/
def rneAdd (f : FFmt) (x y : Fp) : Fp :=
  match x, y with
  | .nan, _ | _, .nan => .nan
  | _, _ =>
    match addFp 0 x y with
    | none => .nan
    | some v => f.value (roundTo f 0 v).1

/-- rne_f32 of a product, as an exact value. -/
def rneMul (f : FFmt) (x y : Fp) : Fp :=
  match x, y with
  | .nan, _ | _, .nan => .nan
  | _, _ =>
    match mulFp x y with
    | none => .nan
    | some v => f.value (roundTo f 0 v).1

/-- The encoding of a value that is exact in the format. -/
def encodeFp (f : FFmt) (v : Fp) : Nat := (roundTo f 0 v).1

/-- One dot step added to the in-array sum z (R191). -/
def addStep (z : Fp) (s : Fp) : Fp := rneAdd f24 z s

/-- Promotion: acc := rne_f32(acc + rne_f32(rne_f32(sa × sb) × z)) (R191). -/
def promote (acc : Nat) (sa sb : Fp) (z : Fp) : Nat :=
  encodeFp f32 (rneAdd f32 (f32.value acc) (rneMul f32 (rneMul f32 sa sb) z))

/-- The value 1.0. -/
def fpOne : Fp := .num false 1 0

end Sys2Proof.Machine
end

