-- ==== Sys2Proof/Machine/LaneOps.lean ====
section
/-! DEFINITION. The meanings of the lane dot, codebook, lane-exchange, pass and random-number operations (R267 to
R277). -/

namespace Sys2Proof.Machine

/-! ## Dots -/

/-- The integer dot of R269: c plus the products of the elements, exact, then clamped or wrapped. -/
def intDot (ta tb : Ty) (sat : Bool) (a b c : Nat) : Nat :=
  fitTo .i32 sat ((List.range ta.count).foldl (fun s i => s + num ta (elemAt ta a i) * num tb (elemAt tb b i)) (num .i32 c))

/-- The type of b: as a, or of the opposite signedness with .mx (R269). -/
def mixedTy (t : Ty) (mx : Bool) : Ty :=
  if mx then (match t with | .i8x4 => .n8x4 | .n8x4 => .i8x4 | .i4x8 => .n4x8 | .n4x8 => .i4x8 | t => t) else t

/-- DOT4 (R269). -/
def execDot4 (o : ROp) (s : State) : Host.Outcome State Fault Refusal :=
  .next (s.laneMap o.at' (srcs3 o) o.d 8 false (fun c g l =>
    intDot o.ty (mixedTy o.ty (o.mod.getLsbD 8)) (satOf o)
      (laneVal c g o.ty o.a l) (laneVal c g o.ty o.b l) (laneVal c g .i32 o.c l)))

/-- DOT8 (R269). -/
def execDot8 (o : ROp) (s : State) : Host.Outcome State Fault Refusal :=
  .next (s.laneMap o.at' (srcs3 o) o.d 8 false (fun c g l =>
    intDot o.ty (mixedTy o.ty (o.mod.getLsbD 8)) (satOf o)
      (laneVal c g o.ty o.a l) (laneVal c g o.ty o.b l) (laneVal c g .i32 o.c l)))

/-- The window of an operation: its override, or FMT.WIN of the gang's lowest slice (R189). -/
def windowBits (c : Issue) (o : ROp) : Nat :=
  windowOf (if o.mod.getLsbD 3 then (o.mod.extractLsb' 4 3).toNat else fmtWin (c.snap.slice c.low).fmt)

/-- The dot step of DOTF: two bf16 products and c × 1.0 (R270). -/
def dotfStep (a b c : Nat) (w : Nat) : Fp × Bool :=
  dotStep [(bf16.value (elemAt .bf16x2 a 0), bf16.value (elemAt .bf16x2 b 0)),
           (bf16.value (elemAt .bf16x2 a 1), bf16.value (elemAt .bf16x2 b 1)), (f32.value c, fpOne)] w

/-- What DOTF writes: the rounded sum, or with .lf the lost bit (R270). -/
def dotfElem (rm : Nat) (sat lf : Bool) (w a b c : Nat) : Nat :=
  let (v, lost) := dotfStep a b c w
  if lf then (if lost then 1 else 0) else if v.isNan then 0x7FC00000 else saturate f32 sat (roundTo f32 rm v).1

/-- DOTF (R270). -/
def execDotf (o : ROp) (s : State) : Host.Outcome State Fault Refusal :=
  .next (s.laneMap o.at' (srcs3 o) o.d 8 false (fun c g l =>
    dotfElem (rmOf o) (satOf o) (o.mod.getLsbD 9) (windowBits c o)
      (laneVal c g .bf16x2 o.a l) (laneVal c g .bf16x2 o.b l) (laneVal c g .f32 o.c l)))

/-! ## Codebook (R267, R268) -/

/-- The codebook with the entries 2j and 2j + 1 that one lane of CBSET writes (R267). -/
def Group.cbSet (g : Group) (j a : Nat) : Group :=
  { g with codebook := Sparse.put 0 (2 * j + 1) (BitVec.ofNat 16 (a / 65536)) (Sparse.put 0 (2 * j) (BitVec.ofNat 16 a) g.codebook) }

/-- CBSET (R267): each active lane writes two entries; of several lanes with one j the highest writes. The gang's own readers wait for its
4 cycles, which each of its slices records; another gang may find an entry old or new until then, and here finds it new (DESIGN CHOICE,
log entry 59). -/
def execCbset (o : ROp) (s : State) : Host.Outcome State Fault Refusal :=
  .next (s.laneOp o.at' (srcs2 o) (fun c g lanes s =>
    let ws := lanes.map (fun l => (laneVal c g .n32 o.b l % 32, laneVal c g .bf16x2 o.a l))
    s.onGroup c.who (fun g => (ws.foldl (fun g p => g.cbSet p.1 p.2) g).onSlices c.slices (fun y => { y with cbDue := s.now + 4 }))))

/-- The candidate indices of a set starting at entry `base` whose entries are no NaN, with their entries (R180). -/
def cbCandidates (g : Group) (base n : Nat) : List (Nat × Fp) :=
  (List.range n).filterMap (fun j =>
    let e := (g.cb (base + j)).toNat
    if bf16.isNan e then none else some (j, bf16.value e))

/-- The exact distance of two finite values as a magnitude with an exponent; `none` when either is infinite. -/
def fpDistance (x y : Fp) : Option (Nat × Int) :=
  match addFp 0 x y.neg with
  | some (.num _ m e) => some (m, e)
  | _ => none

/-- Is distance p less than q? An infinite distance is greater than every finite one (R180). -/
def distLess (p q : Option (Nat × Int)) : Bool :=
  match p, q with
  | none, _ => false
  | some _, none => true
  | some (m1, e1), some (m2, e2) => cmpFp (.num false m1 e1) (.num false m2 e2) == Ordering.lt

/-- The lowest index whose key no other beats. -/
def pickBest (better : Fp → Fp → Bool) : List (Nat × Fp) → Option (Nat × Fp)
  | [] => none
  | p :: ps => some (ps.foldl (fun b q => if better q.2 b.2 then q else b) p)

/-- cbenc of R180 over the `n` entries from `base`; `cbn` is the index a NaN takes. -/
def cbEncode (g : Group) (base n cbn : Nat) (f : FFmt) (x : Nat) : Nat :=
  if f.isNan x then cbn % n
  else
    let cand := cbCandidates g base n
    let best :=
      match f.value x with
      | .inf neg => pickBest (fun p q => if neg then cmpFp p q == Ordering.lt else cmpFp p q == Ordering.gt) cand
      | v => pickBest (fun p q => distLess (fpDistance v p) (fpDistance v q)) cand
    (best.map Prod.fst).getD 0

/-- The index type, position and bank of CBENC and CBDEC (R268). -/
def cbKind (o : ROp) : Ty := if o.mod.getLsbD 8 then .k6x4 else .k4x8
def cbPos (o : ROp) : Nat := (o.mod.extractLsb' 11 3).toNat
/-- First entry and number of entries that an index of the kind selects from (R179). -/
def cbRange (c : Issue) (o : ROp) (l : Nat) : Nat × Nat :=
  if o.mod.getLsbD 8 then (0, 64) else (16 * fmtCbk (c.snap.slice (fmtSlice c.snap l)).fmt, 16)

/-- A register value with element `p` of the index type replaced (R178: k6x4 leaves bits 31 to 24 zero). -/
def setElem (t : Ty) (x p e : Nat) : Nat :=
  joinElems t.elemBits ((List.range t.count).map (fun i => if i == p then e else elemAt t x i))

/-- CBENC (R268). -/
def execCbenc (o : ROp) (s : State) : Host.Outcome State Fault Refusal :=
  .next (s.laneMap o.at' [(o.a, o.fa), (o.c, o.fc)] o.d 4 true (fun c g l =>
    let (base, n) := cbRange c o l
    let a := laneVal c g o.ty o.a l
    let cbn := fmtCbn (c.snap.slice (fmtSlice c.snap l)).fmt
    let old := laneVal c g (cbKind o) o.c l
    match fmtOfTy o.ty with
    | none => old
    | some f =>
      let x0 := setElem (cbKind o) old (cbPos o) (cbEncode c.snap base n cbn f (elemAt o.ty a 0))
      if o.ty.count == 2 then setElem (cbKind o) x0 (cbPos o + 1) (cbEncode c.snap base n cbn f (elemAt o.ty a 1)) else x0))

/-- CBDEC (R268): entries widened to f32, or unchanged as bf16. -/
def execCbdec (o : ROp) (s : State) : Host.Outcome State Fault Refusal :=
  .next (s.laneMap o.at' (srcs1 o) o.d 4 true (fun c g l =>
    let (base, _) := cbRange c o l
    let a := laneVal c g (cbKind o) o.a l
    let e (i : Nat) : Nat := (c.snap.cb (base + elemAt (cbKind o) a i)).toNat
    if o.ty.count == 2 then joinElems 16 [e (cbPos o), e (cbPos o + 1)] else e (cbPos o) * 65536))

/-! ## Lane exchange (R271 to R273) -/

/-- The source lane of SHFL; `none` outside the segment (R271). -/
def shflLane (mode n l y : Nat) : Option Nat :=
  let base := l - l % n
  let ys := toSigned 32 y
  let j : Int :=
    match mode with
    | 0 => base + y % n
    | 1 => base + (l - base + y) % n
    | 2 => l + ys
    | _ => ((l ^^^ (y % n) : Nat) : Int)
  if (base : Int) ≤ j && j < base + n then some j.toNat else none

/-- SHFL (R271). -/
def execShfl (o : ROp) (s : State) : Host.Outcome State Fault Refusal :=
  .next (s.laneMap o.at' (srcs2 o) o.d 4 true (fun c g l =>
    let n := 2 ^ ((o.mod.extractLsb' 10 3).toNat + 1)
    match shflLane (o.mod.extractLsb' 8 2).toNat n l (laneVal c g .n32 o.b l) with
    | some j => if c.mask.getLsbD j then laneVal c g o.ty o.a j else laneVal c g o.ty o.a l
    | none => laneVal c g o.ty o.a l))

/-- BCAST (R271). -/
def execBcast (o : ROp) (s : State) : Host.Outcome State Fault Refusal :=
  .next (s.laneMap o.at' (srcs1 o) o.d 4 true (fun c g l =>
    let j := scalarVal c .n32 o.b % 2 ^ 32
    if j < 32 && c.mask.getLsbD j then laneVal c g o.ty o.a j else laneVal c g o.ty o.a l))

/-- The value of VOTE over the active lanes' values (R272). -/
def voteValue (mode : Nat) (xs : List (Nat × Nat)) : Nat :=
  match mode with
  | 0 => if xs.any (fun p => p.2 != 0) then 1 else 0
  | 1 => if xs.all (fun p => p.2 != 0) then 1 else 0
  | 2 => xs.foldl (fun m p => if p.2 != 0 then m + 2 ^ p.1 else m) 0
  | _ => if xs.all (fun p => p.2 == (xs.headD (0, 0)).2) then 1 else 0

/-- VOTE (R272). -/
def execVote (o : ROp) (s : State) : Host.Outcome State Fault Refusal :=
  .next (s.laneMap o.at' (srcs1 o) o.d 4 true (fun c g _ =>
    voteValue (o.mod.extractLsb' 8 2).toNat ((c.opLanes o.at').map (fun l => (l, laneVal c g o.ty o.a l)))))

/-- The bitwise folds and the integer folds of REDUX; sums are exact and fitted once (R273). -/
def reduxInt (op : Nat) (t : Ty) (sat : Bool) (xs : List Nat) : Nat :=
  match op with
  | 0 => fitTo t sat (xs.foldl (fun s x => s + num t x) 0)
  | 1 => xs.tail.foldl (fun m x => if num t x < num t m then x else m) (xs.headD 0)
  | 2 => xs.tail.foldl (fun m x => if num t m < num t x then x else m) (xs.headD 0)
  | 3 => xs.tail.foldl (fun m x => m &&& x) (xs.headD 0)
  | 4 => xs.foldl (fun m x => m ||| x) 0
  | _ => xs.foldl (fun m x => m ^^^ x) 0

/-- The f32 folds of REDUX with their flags (R273). -/
def reduxFloat (op rm : Nat) (xs : List Nat) : Nat × FFlags :=
  xs.tail.foldl (fun r x =>
    let q := match op with
      | 0 => addElem f32 rm false r.1 x
      | 1 => minMaxElem f32 false r.1 x
      | _ => minMaxElem f32 true r.1 x
    (q.1, r.2 ||| q.2)) (xs.headD 0, 0#5)

/-- REDUX (R273): with .scan each lane folds the active lanes up to itself. Flags of the f32 forms are raised in the
gang's lowest slice. -/
def execRedux (o : ROp) (s : State) : Host.Outcome State Fault Refusal :=
  .next (s.laneOp o.at' (srcs1 o) (fun c g lanes s =>
    let op := (o.mod.extractLsb' 8 3).toNat
    let scan := o.mod.getLsbD 11
    let vals (l : Nat) : List Nat := (if scan then lanes.filter (fun j => j ≤ l) else lanes).map (laneVal c g o.ty o.a)
    if o.ty == .f32 then
      let fl := (reduxFloat op (rmOf o) (lanes.map (laneVal c g o.ty o.a))).2
      let s := s.onGroup c.who (fun g => g.onSlice c.low (fun x => { x with fmt := x.fmt ||| fl.setWidth 32 }))
      s.postLanes c o.d (lanes.map (fun l => (l, BitVec.ofNat 32 (reduxFloat op (rmOf o) (vals l)).1))) 12 true
    else
      s.postLanes c o.d (lanes.map (fun l => (l, BitVec.ofNat 32 (reduxInt op o.ty (satOf o) (vals l))))) 8 true))

/-! ## Operand passes (R164, R274) -/

/-- A schedule trap at an operation's slot, naming the register specifier and the lane (R355). -/
def State.scheduleTrap (s : State) (site : Site) (spec lane : Nat) : State :=
  s.stopAt { code := causeSchedule, slot := slotNumber site.slot, aux := BitVec.ofNat 64 (spec % 256 + 256 * (lane % 256)) }

/-- PSEND (R274): drives a onto a pass at the cluster; a value already there is a schedule trap. -/
def execPsend (o : ROp) (s : State) : Host.Outcome State Fault Refusal :=
  .next (s.laneOp o.at' (srcs1 o) (fun c g lanes s =>
    lanes.foldl (fun s l =>
      let p := (o.mod.extractLsb' 8 2).toNat
      if (s.cur c).passes.any (fun v => v.pass == p && v.cluster == l) then s.scheduleTrap o.at' 0 l
      else
        s.onGroup c.who (fun q => { q with passes := q.passes ++ [{ pass := p, cluster := l, age := 0,
                                                                    value := BitVec.ofNat 32 (laneVal c g o.ty o.a l) }] })) s))

/-- PTAKE (R274): the value at the cluster driven k bundles earlier, left in place; none is a schedule trap. -/
def execPtake (o : ROp) (s : State) : Host.Outcome State Fault Refusal :=
  .next (s.laneOp o.at' [] (fun c _ lanes s =>
    lanes.foldl (fun s l =>
      let p := (o.mod.extractLsb' 8 2).toNat
      let k := (o.mod.extractLsb' 10 4).toNat
      match c.snap.passes.find? (fun v => v.pass == p && v.cluster == l) with
      | some v => if v.age == k then s.postLanes c o.d [(l, v.value)] 1 false else s.scheduleTrap o.at' 0 l
      | none => s.scheduleTrap o.at' 0 l) s))

/-- The passes after a bundle of the thread: every value one cluster and one bundle further, gone after 15 hops
(R164). -/
def Group.advancePasses (g : Group) : Group :=
  let kept := g.passes.filter (fun v => v.age < 15)
  { g with passes := kept.map (fun v => { v with cluster := (v.cluster + 1) % g.width, age := v.age + 1 }) }

/-! ## Random numbers (R275 to R277) -/

/-- The four words of a lane's state after one step (R275). -/
def rngStep (x y z w : Word) : Word × Word × Word × Word :=
  let t := x ^^^ (x <<< 11)
  (y, z, w, w ^^^ (w >>> 19) ^^^ t ^^^ (t >>> 8))

/-- A lane's state stored. -/
def Group.setRng (g : Group) (l : Nat) (q : Word × Word × Word × Word) : Group :=
  { g with lanes := { g.lanes with
      rng := Sparse.put 0 (4 * l + 3) q.2.2.2 (Sparse.put 0 (4 * l + 2) q.2.2.1
        (Sparse.put 0 (4 * l + 1) q.2.1 (Sparse.put 0 (4 * l) q.1 g.lanes.rng))) } }

/-- A lane's state after a step. -/
def Group.rngNext (g : Group) (l : Nat) : Word × Word × Word × Word :=
  rngStep (g.rngWord l 0) (g.rngWord l 1) (g.rngWord l 2) (g.rngWord l 3)

/-- One step in each active lane, writing `h` of the new W (R275). -/
def State.rngOp (s : State) (o : ROp) (h : Word → Word) : State :=
  s.laneOp o.at' [] (fun c g lanes s =>
    let s := s.onGroup c.who (fun g => lanes.foldl (fun g l => g.setRng l (g.rngNext l)) g)
    s.postLanes c o.d (lanes.map (fun l => (l, h (g.rngNext l).2.2.2))) 4 true)

/-- RNG (R275). -/
def execRng (o : ROp) (s : State) : Host.Outcome State Fault Refusal := .next (s.rngOp o id)

/-- The f32 of a 24-bit number times 2^-24, exact (R275). -/
def unitFloat (w : Word) : Word := BitVec.ofNat 32 (roundTo f32 0 (.num false (w.toNat / 256) (-24))).1

/-- RNGF (R275). -/
def execRngf (o : ROp) (s : State) : Host.Outcome State Fault Refusal := .next (s.rngOp o unitFloat)

/-- mix64 of R276. -/
def mix64 (z : DWord) : DWord :=
  let z := (z ^^^ (z >>> 30)) * 0xBF58476D1CE4E5B9#64
  let z := (z ^^^ (z >>> 27)) * 0x94D049BB133111EB#64
  z ^^^ (z >>> 31)

/-- The state that RSPLIT seeds for a global lane index (R276). -/
def rsplitState (seed stream g : DWord) : Word × Word × Word × Word :=
  let z0 := seed ^^^ (stream * 0xD1B54A32D192ED03#64)
  let h1 := mix64 (z0 + (g + 1#64) * 0x9E3779B97F4A7C15#64)
  let h2 := mix64 (h1 + 0x9E3779B97F4A7C15#64)
  let x : Word := h1.setWidth 32
  let y : Word := (h1 >>> 32).setWidth 32
  let z : Word := h2.setWidth 32
  let w : Word := (h2 >>> 32).setWidth 32
  (x, y, z, if x == 0 && y == 0 && z == 0 && w == 0 then 1 else w)

/-- The group's number n of R276: its number in the team, or 16 + its slot number modulo 16 for a task group. -/
def rsplitGroup (w : Who) (g : Group) : Nat :=
  match w with
  | .gang a => if g.gid.task then 16 + a.slot % 16 else g.gid.num
  | .glen _ => 0

/-- RSPLIT (R276): each active lane seeded from cat(b, a), the stream ID c and cat(t, n, lane). -/
def execRsplit (o : ROp) (s : State) : Host.Outcome State Fault Refusal :=
  .next (s.laneOp o.at' (srcs3 o) (fun c g lanes s =>
    let qs := lanes.map (fun l =>
      (l, rsplitState (BitVec.ofNat 64 (laneVal c g .b32 o.b l * 2 ^ 32 + laneVal c g .b32 o.a l))
            (BitVec.ofNat 64 (laneVal c g .b32 o.c l))
            (BitVec.ofNat 64 (c.tidx * 1024 + 32 * rsplitGroup c.who c.snap + l))))
    s.onGroup c.who (fun g => qs.foldl (fun g p => g.setRng p.1 p.2) g)))

/-- RNGRD (R277). -/
def execRngrd (o : ROp) (s : State) : Host.Outcome State Fault Refusal :=
  .next (s.laneMap o.at' [] o.d 4 true (fun _ g l => (g.rngWord l (o.mod.extractLsb' 8 2).toNat).toNat))

/-- RNGWR (R277). -/
def execRngwr (o : ROp) (s : State) : Host.Outcome State Fault Refusal :=
  .next (s.laneOp o.at' (srcs1 o) (fun c g lanes s =>
    let ws := lanes.map (fun l => (4 * l + (o.mod.extractLsb' 8 2).toNat, BitVec.ofNat 32 (laneVal c g o.ty o.a l)))
    s.onGroup c.who (fun g => { g with lanes := { g.lanes with rng := ws.foldl (fun m p => Sparse.put 0 p.1 p.2 m) g.lanes.rng } })))

end Sys2Proof.Machine
end

