-- ==== Sys2Proof/Machine/Translate.lean ====
section
/-! DEFINITION. Address spaces, page tables, translation registers and translation faults (R9 to R37). -/

namespace Sys2Proof.Machine

/-- The size of local HBM (R71). -/
def hbmSize : Nat := 2 ^ 40
/-- The place of an address by home (R21): local HBM, the host, or a package of the domain; this package is package 0
(R377, DESIGN CHOICE, log entry 21). -/
def placeOf (home : BitVec 2) (pkg : Nat) (a : Nat) : Nat :=
  match home.toNat with
  | 0 => a
  | 1 => 2 ^ 60 + a
  | _ => if pkg == 0 then a else 2 ^ 61 + pkg * 2 ^ 52 + a
/-- Is the place in this package's HBM? -/
def isLocal (p : Nat) : Bool := p < hbmSize

/-- Bits `hi` to `lo` of a word. -/
def bitsOf (x : DWord) (hi lo : Nat) : Nat := x.toNat / 2 ^ lo % 2 ^ (hi + 1 - lo)

/-- A translation fault (R34): status, level and whether it is replayable. -/
structure XFault where
  tfs : Nat
  level : Nat := 0
  rpl : Bool := false
  deriving DecidableEq, Repr

/-- The result of a translation: an entry that covers the address, a fault, or a wait for the host (R22). -/
inductive XRes where
  | ok (e : TlbEntry)
  | fault (f : XFault)
  | ats (cid : Nat) (va : Nat)
  deriving DecidableEq, Repr

/-- A context descriptor. -/
def State.context (s : State) (cid : Nat) : Context := Sparse.look {} cid s.contexts
/-- Valid and with no reserved bit set (R11). -/
def Context.ok (c : Context) : Bool :=
  c.w0.getLsbD 0 && bitsOf c.w0 63 52 == 0 && bitsOf c.w0 13 8 == 0 && bitsOf c.w0 3 2 == 0 && bitsOf c.w1 63 20 == 0
def Context.root (c : Context) : Nat := bitsOf c.w0 51 14 * 2 ^ 14
def Context.part (c : Context) : Nat := bitsOf c.w0 7 4
def Context.bound (c : Context) : Bool := c.w0.getLsbD 1
def Context.pasid (c : Context) : Nat := bitsOf c.w1 19 0

/-- The HBM ranges of a partition, as start and end (R378). -/
def State.rangesOf (s : State) (part : Nat) : List (Nat × Nat) := (Sparse.look {} part s.partitions).ranges

/-- Is every byte from `lo` to `hi - 1` inside the union of the ranges (R20)? Each round goes on from the end of a range
that holds `lo`, so as many rounds as there are ranges are enough. -/
def coveredFrom (rs : List (Nat × Nat)) : Nat → Nat → Nat → Bool
  | 0, lo, hi => hi ≤ lo
  | n + 1, lo, hi =>
    hi ≤ lo || (match rs.find? (fun (r : Nat × Nat) => decide (r.1 ≤ lo) && decide (lo < r.2)) with
      | some r => coveredFrom rs n r.2 hi
      | none => false)

/-- Is every byte from `lo` to `hi - 1` inside the union of the ranges (R20)? -/
def coveredBy (rs : List (Nat × Nat)) (lo hi : Nat) : Bool := coveredFrom rs rs.length lo hi

/-- Is the package in the load-store domain (R15, R377)? `domain` counts its packages; 0 is not configured. -/
def State.inDomain (s : State) (pkg : Nat) : Bool := if s.domain == 0 then pkg == 0 else pkg < s.domain

/-- The bytes that a leaf of a level maps (R13). -/
def leafSize : Nat → Nat
  | 1 => 2 ^ 38
  | 2 => 2 ^ 27
  | _ => 2 ^ 16

/-- The index of a level in a virtual address (R13). -/
def levelIndex (va : Nat) (level : Nat) : Nat := va / 2 ^ (49 - 11 * level) % 2 ^ 11

/-- Is a valid table pointer malformed (R14, R15)? -/
def pointerBad (e : DWord) (level : Nat) : Bool :=
  level == 3 || bitsOf e 13 2 != 0 || bitsOf e 63 52 != 0 || hbmSize ≤ bitsOf e 51 14 * 2 ^ 14

/-- Is a valid leaf malformed (R14, R15)? -/
def leafBad (s : State) (e : DWord) (level va : Nat) : Bool :=
  let home := bitsOf e 7 6
  let mt := bitsOf e 9 8
  let frame := bitsOf e 51 16 * 2 ^ 16
  let pkg := bitsOf e 61 52
  level == 0 || bitsOf e 63 62 != 0 || bitsOf e 15 13 != 0 || (home != 2 && pkg != 0) ||
    frame % leafSize level != 0 || home == 3 || mt == 3 ||
    (e.getLsbD 12 && (level != 3 || bitsOf e 20 16 != va / 2 ^ 16 % 32)) ||
    (e.getLsbD 10 && (level != 3 || home != 0 || mt != 0)) || (e.getLsbD 4 && mt != 0) ||
    (home == 2 && !s.inDomain pkg) || (home == 0 && hbmSize ≤ frame)

/-- The TLB entry of a leaf. A CONT leaf is held as its own 64 KiB entry, which R18 allows (DESIGN CHOICE, log entry 10). -/
def leafEntry (e : DWord) (cid level va : Nat) : TlbEntry :=
  let n := leafSize level
  { cid := cid, vbase := va / n * n, size := n, pbase := bitsOf e 51 16 * 2 ^ 16, lvl := level, home := BitVec.ofNat 2 (bitsOf e 7 6),
    mt := BitVec.ofNat 2 (bitsOf e 9 8), kv := e.getLsbD 10, nr := e.getLsbD 11, rd := e.getLsbD 2, wr := e.getLsbD 3,
    ex := e.getLsbD 4, priv := e.getLsbD 5, pkg := BitVec.ofNat 10 (bitsOf e 61 52) }

/-- A byte as a coherent read finds it: the bytes of a stash line in state M, else the memory's (R19, R25, R58). -/
def State.coherentByte (s : State) (p : Nat) : Byte :=
  let held := s.cores.findSome? (fun c => c.2.crew.teams.findSome? (fun t => t.2.stash.findSome? (fun w =>
    (w.2.lines.find? (fun l => l.2.owned && l.2.place == p / 128 * 128)).map (fun l =>
      Memory.byte c.2.store.spad (t.2.res.spbase + w.2.w + 128 * l.1 + p % 128)))))
  held.getD (Memory.byte s.store.mem p)

/-- The eight bytes of a table entry, read coherently through the L2 (R25). -/
def State.tableEntry (s : State) (a : Nat) : DWord :=
  BitVec.ofNat 64 (leNat ((List.range 8).map (fun i => s.coherentByte (a + i))))

/-- The levels from `table` on (R13 to R20). A table outside the partition stops the walk at the level whose entry would be
read from it: R36 does not say whether that level or the pointer's is named (DESIGN CHOICE, log entry 47). -/
def walkFrom (s : State) (cid part va : Nat) : List Nat → Nat → XRes
  | [], _ => .fault { tfs := 8 }
  | level :: rest, table =>
    if !coveredBy (s.rangesOf part) table (table + 2 ^ 14) then .fault { tfs := 9, level := level }
    else
      let e := s.tableEntry (table + 8 * levelIndex va level)
      if !e.getLsbD 0 then .fault { tfs := 3, level := level, rpl := !e.getLsbD 11 }
      else if !e.getLsbD 1 then
        (if pointerBad e level then .fault { tfs := 8, level := level }
         else walkFrom s cid part va rest (bitsOf e 51 14 * 2 ^ 14))
      else if leafBad s e level va then .fault { tfs := 8, level := level }
      else
        let t := leafEntry e cid level va
        if t.home == 0#2 && !coveredBy (s.rangesOf part) t.pbase (t.pbase + t.size) then .fault { tfs := 9, level := level }
        else .ok t

/-- The walk of a 60-bit virtual address in a context (R13 to R20). -/
def walk (s : State) (cid va : Nat) : XRes :=
  let c := s.context cid
  if !c.ok then .fault { tfs := 8 } else walkFrom s cid c.part va [0, 1, 2, 3] c.root

/-- Does the entry cover the address? -/
def TlbEntry.covers (e : TlbEntry) (cid va : Nat) : Bool := e.cid == cid && e.vbase ≤ va && va < e.vbase + e.size

/-- The entry of a TLB, or of a walk on a miss (R24, R25). -/
def lookupOrWalk (s : State) (tlb : List TlbEntry) (cid va : Nat) : XRes :=
  match tlb.find? (fun e => e.covers cid va) with
  | some e => .ok e
  | none => walk s cid va

/-- A host-home page of a context bound to a PASID needs the host's grant (R21, R22), which a TLB holds as an ATS entry. A
write to a page that the host granted for reading only is a fault like one on a leaf without WR, and no page is requested for
it: R22 has the request only where neither access is granted (DESIGN CHOICE, log entry 48). -/
def throughAts (s : State) (e : TlbEntry) (va : Nat) : XRes :=
  if e.home == 1#2 && (s.context e.cid).bound && !e.ats then
    (if s.ats.refused.contains (e.cid, va / 4096 * 4096) then .fault { tfs := 0xA, level := e.lvl } else .ats e.cid (va / 4096 * 4096))
  else .ok e

/-- A translation request for a page of the host, where the die has none outstanding and no page request for it is sent or waits (R22). -/
def State.askHost (s : State) (die cid page : Nat) : State :=
  let r := (die, cid, page)
  if s.ats.requests.contains r || s.ats.pages.contains r || s.ats.queued.contains r then s else { s with ats := { s.ats with requests := s.ats.requests ++ [r] } }

/-- A page whose refusal a fault has told is asked for again by the next access to it (R22). -/
def State.forgetRefused (s : State) (cid : Nat) (xlat : BitVec 128) : State :=
  let page := xlat.toNat % 2 ^ 60 / 4096 * 4096
  if xlat.toNat / 2 ^ 64 % 16 == 0xA then { s with ats := { s.ats with refused := s.ats.refused.filter (fun p => p != (cid, page)) } } else s

/-- The permission check of an access kind on an entry (R34, R35). -/
def permit (e : TlbEntry) (k : AccessKind) (agent : Bool) : Option XFault :=
  let reads := match k with | .read | .atomic | .engineRead => true | _ => false
  let writes := match k with | .write | .atomic | .engineWrite => true | _ => false
  if e.priv && !agent then some { tfs := 7, level := e.lvl }
  else if reads && !e.rd then some { tfs := 4, level := e.lvl, rpl := !e.nr }
  else if writes && !e.wr then some { tfs := 5, level := e.lvl, rpl := !e.nr }
  else if k == .fetch && !e.ex then some { tfs := 6, level := e.lvl, rpl := !e.nr }
  else none

/-- The context that an address is translated in, or its R9 status. -/
def spaceOf (va : DWord) (cid : Nat) (agent : Bool) : Except XFault Nat :=
  match bitsOf va 63 60 with
  | 0 => .ok cid
  | 15 => if agent then .ok 0 else .error { tfs := 2 }
  | _ => .error { tfs := 1 }

/-- The 60-bit address within its space. -/
def va60 (va : DWord) : Nat := va.toNat % 2 ^ 60

/-- The translation of an address without a permission check: R9, the TLBs or a walk, ATS. -/
def findEntry (s : State) (tlb : List TlbEntry) (cid : Nat) (agent : Bool) (va : DWord) : XRes :=
  match spaceOf va cid agent with
  | .error f => .fault f
  | .ok cx =>
    match lookupOrWalk s tlb cx (va60 va) with
    | .ok e => throughAts s e (va60 va)
    | r => r

/-- An entry judged for an access kind (R35). -/
def XRes.permitted (r : XRes) (k : AccessKind) (agent : Bool) : XRes :=
  match r with
  | .ok e => (match permit e k agent with | some f => .fault f | none => .ok e)
  | r => r

/-- The translation of an address for an access kind: R9, the TLBs or a walk, ATS, permissions. -/
def translate (s : State) (tlb : List TlbEntry) (cid : Nat) (agent : Bool) (va : DWord) (k : AccessKind) : XRes :=
  (findEntry s tlb cid agent va).permitted k agent

/-- The place that an entry gives an address. -/
def TlbEntry.place (e : TlbEntry) (va : DWord) : Nat := placeOf e.home e.pkg.toNat (e.pbase + (va60 va - e.vbase))

/-- The code of an access kind in the translation detail (R36). -/
def kindCode : AccessKind → Nat
  | .read => 0 | .write => 1 | .atomic => 2 | .fetch => 3 | .engineRead => 4 | .engineWrite => 5

/-- The translation detail of a record (R36). The agent's accesses in firmware space are of context 0 (R9, R12). -/
def xlatDetail (s : State) (cid : Nat) (f : XFault) (k : AccessKind) (va : DWord) : BitVec 128 :=
  let cid := if bitsOf va 63 60 == 15 && f.tfs != 2 then 0 else cid
  let c := s.context cid
  let w1 := cid * 2 ^ 32 + (if c.bound then c.pasid else 0) * 2 ^ 12 + (if f.rpl then 2 ^ 9 else 0) +
    f.level % 4 * 2 ^ 7 + kindCode k * 16 + f.tfs
  BitVec.ofNat 128 (w1 * 2 ^ 64 + va.toNat)

/-- The context in which an issuer's context-space addresses are translated (R12). -/
def State.cidOf (s : State) (w : Who) : Nat :=
  match w with
  | .gang g =>
    if isAgent w then (s.core g.core).agent.actx
    else (Sparse.look 0 g.bank (s.core g.core).crew.bankCid)
  | .glen n => (s.glen n).cid

/-- What a cluster's L2 TLB holds (R24). -/
def State.l2Tlb (s : State) (cluster : Nat) : List TlbEntry := Sparse.look [] cluster s.tlbs
/-- What the 32 L3 banks of a die hold (R24). -/
def State.l3Tlb (s : State) (die : Nat) : List TlbEntry :=
  s.tlbs.flatMap (fun p => if 128 ≤ p.1 && (p.1 - 128) / 32 == die then p.2 else [])

/-- What an engine of a core, which has no L1 TLB, finds on its way to the walkers. -/
def State.engineTlb (s : State) (core : Nat) : List TlbEntry := s.l2Tlb (core / 8) ++ s.l3Tlb (core / 160)

/-- The host's grants that a die's L3 banks hold (R22, R24). -/
def State.dieGrants (s : State) (die : Nat) : List TlbEntry := (s.l3Tlb die).filter TlbEntry.ats
/-- The host's grants that the L3 banks of any die hold. -/
def State.allGrants (s : State) : List TlbEntry := (s.tlbs.flatMap Prod.snd).filter TlbEntry.ats

/-- The TLBs that an issuer's access passes, first to last (R24). -/
def State.tlbOf (s : State) (w : Who) : List TlbEntry :=
  match w with
  | .gang g => (s.core g.core).caches.tlb ++ s.engineTlb g.core
  | .glen n => (s.glen n).tlb ++ s.l3Tlb (n / 16)

/-- An entry added to a TLB of so many entries, once; a full TLB gives up its oldest (DESIGN CHOICE, log entry 49: R24 leaves
replacement open). -/
def tlbAdd (cap : Nat) (t : List TlbEntry) (e : TlbEntry) : List TlbEntry :=
  if t.contains e then t else (t ++ [e]).drop (t.length + 1 - cap)

/-- An entry added to a cluster's TLB or an L3 bank, by its key. -/
def State.keepTlbEntry (s : State) (key : Nat) (e : TlbEntry) : State :=
  { s with tlbs := Sparse.upd [] key (fun t => tlbAdd 4096 t e) s.tlbs }

/-- The key of the L3 bank of a die that holds an entry: the low bits of its page number choose the slice (DESIGN CHOICE, log
entry 49). -/
def bankOf (die : Nat) (e : TlbEntry) : Nat := 128 + 32 * die + e.vbase / 65536 % 32

/-- Entries that an access of a core's unit has used, put into the TLBs that it passed (R24). -/
def State.fillTlb (s : State) (core : Nat) (es : List TlbEntry) : State :=
  let s := s.onCore core (fun c => { c with caches := { c.caches with tlb := es.foldl (tlbAdd 128) c.caches.tlb } })
  es.foldl (fun s e => (s.keepTlbEntry (core / 8) e).keepTlbEntry (bankOf (core / 160) e) e) s

end Sys2Proof.Machine
end

