-- ==== Sys2Proof/Machine/Coherence.lean ====
section
/-! DEFINITION. The three stages of a store and coherence (R58, R64, R73, R110 to R140): pending stores, stash recalls,
engine ownership, poison of memory granules.
Readings of the rules: DEDUCED, log entry 42. -/

namespace Sys2Proof.Machine

/-- The start of the 128-byte line of a place. -/
def lineOf (p : Nat) : Nat := p / 128 * 128

/-- Does the store hold a byte of this place? -/
def PendingStore.byteAt (t : PendingStore) (p : Nat) : Option Byte := (t.bytes.find? (fun b => b.1 == p)).map Prod.snd

/-- The thread number of the whole of a VLIW thread (R110). -/
def vliwLane : Nat := 34

/-- Is the store one of the thread's own (R110)? A group that changes decoder keeps its stores: those of its VLIW thread are
its lanes' own, and the other way round (DESIGN CHOICE, log entry 50). -/
def PendingStore.ownOf (t : PendingStore) (group lane : Nat) : Bool :=
  t.group == group && (t.lane == lane || t.lane == vliwLane || lane == vliwLane)

/-- The latest byte that a thread sees among its core's pending stores, oldest first in the list (R116, R117). -/
def pendingByte (ts : List PendingStore) (group lane p : Nat) : Option Byte :=
  ts.foldl (fun r t =>
    if t.stage2 || t.ownOf group lane then
      (match t.byteAt p with | some b => some b | none => r)
    else r) none

/-- The byte that a thread of a core reads at a place. -/
def State.seenByte (s : State) (core group lane p : Nat) : Byte :=
  (pendingByte (s.core core).caches.stores group lane p).getD (s.store.mem.byte p)

/-- `n` bytes that a thread of a core reads from a place. -/
def State.seen (s : State) (core group lane p : Nat) : Nat → List Byte
  | 0 => []
  | n + 1 => s.seenByte core group lane p :: State.seen s core group lane (p + 1) n

/-- The state of memory outside the cores changed. -/
def State.onStore (s : State) (f : Store → Store) : State := { s with store := f s.store }

/-- Poison of the granules after a write of bytes: a granule written whole becomes clean, unless the bytes carry
poison (R73). -/
def poisonAfter (m : Sparse Bool) (places : List Nat) (poisoned : Bool) : Sparse Bool :=
  places.foldl (fun m p =>
    let g := p / 32
    if poisoned then Sparse.put false g true m
    else if (List.range 32).all (fun i => places.contains (32 * g + i)) then Sparse.put false g false m
    else m) m

/-- The links that have been lost. -/
def lostLinks (s : State) : List Nat := (s.plat.links.filter Prod.snd).map Prod.fst

/-- Does no path to a package remain (R377)? Which links a route uses is a free value (DESIGN CHOICE, log entry 21). -/
def noPathTo (s : State) (pkg : Nat) : Bool :=
  let l := lostLinks s
  pkg != 0 && !l.isEmpty && (l.length == 18 || Config.noPath l pkg)

/-- The package of a place that no path reaches. -/
def cutOff (s : State) (p : Nat) : Option Nat :=
  if p < 2 ^ 61 then none
  else if noPathTo s ((p - 2 ^ 61) / 2 ^ 52) then some ((p - 2 ^ 61) / 2 ^ 52) else none

/-- Bytes written at their places at stage 3 (R116); those to a package that no path reaches are lost (R377). -/
def State.perform (s : State) (bs : List (Nat × Byte)) (poisoned : Bool) : State :=
  let lost := (bs.filterMap (fun b => cutOff s b.1)).dedup
  let bs := if lost.isEmpty then bs else bs.filter (fun b => (cutOff s b.1).isNone)
  s.onStore (fun t => { t with
    mem := bs.foldl (fun m b => Sparse.put 0#8 b.1 b.2 m) t.mem
    poison := if t.poison.isEmpty && !poisoned then t.poison else poisonAfter t.poison (bs.map Prod.fst) poisoned
    cut := t.cut ++ lost })

/-- Does the byte at a place read as poisoned: its granule is, or no path reaches its package (R72, R377)? -/
def State.isPoisoned (s : State) (p : Nat) : Bool := Sparse.look false (p / 32) s.store.poison || (cutOff s p).isSome

/-! ## What caches hold (R64, R65, R67, R68, R86) -/

/-- The home slice of a local place: 32 × die + 8 × stack + j (R71). -/
def homeSlice (p : Nat) : Nat := 8 * (p / 2 ^ 36) + ((p / 2 ^ 8) ^^^ (p / 2 ^ 11) ^^^ (p / 2 ^ 14)) % 8

/-- The island of a place's home slice (R4; DESIGN CHOICE, log entry 32). -/
def sliceIsland (p : Nat) : Nat := 128 * (homeSlice p / 32) + 80 + homeSlice p % 32

/-- The cycles of an island's exit to RUN (R382). -/
def exitLatency : IslandPhase → Nat
  | .run => 0
  | .clockstop => 40
  | .retain => 3200
  | .gated => 80000

/-- An island that an access needs: one that runs is not idle; another begins to wake (R383). -/
def Island.use (x : Island) (now : Nat) : Island :=
  if x.phase == .run then { x with since := now }
  else if x.wakes == 0 && !x.withdrawn then { x with wakes := now + exitLatency x.phase }
  else x

/-- An access homed in a slice uses the slice's island (R383). -/
def State.useSlice (s : State) (p : Nat) : State :=
  if isLocal p then { s with plat := { s.plat with islands := Sparse.upd {} (sliceIsland p) (fun x => x.use s.now) s.plat.islands } } else s

/-- The cycles that a read waits for its home slice's island to leave its state (R383). -/
def sliceWait (s : State) (p : Nat) : Nat :=
  let x := Sparse.look {} (sliceIsland p) s.plat.islands
  if !isLocal p || x.phase == .run then 0 else if x.wakes == 0 then exitLatency x.phase else x.wakes - s.now

/-- The number of lines that the meadow partition holds (R86). -/
def MemSlice.capacity (m : MemSlice) : Nat := m.size * 512

/-- The ordinary lines of a slice of 3 MiB: the meadow partition's capacity is not theirs (R4, R67). -/
def MemSlice.room (m : MemSlice) : Nat := 24576 - m.capacity

/-- The line that makes room in a full slice: a first candidate where there is one (R65), else the lowest (DESIGN CHOICE, log
entry 49). -/
def l2Victim (t : Store) (slice line : Nat) : Option Nat :=
  let mine := (t.l2.map Prod.fst).filter (fun l => homeSlice l == slice && l != line)
  match mine.find? (fun l => Sparse.look false l t.evict) with
  | some l => some l
  | none => mine.head?

/-- A local line allocated in its home slice; `first` marks it as the first candidate for replacement (R65). A pinned line is
there already (R86). -/
def State.keepL2 (s : State) (line : Nat) (first : Bool) : State :=
  let k := homeSlice line
  let m := Sparse.look {} k s.slices
  if m.pinned.contains line then s
  else
    let t := { s.store with l2 := Sparse.put false line true s.store.l2, evict := Sparse.put false line first s.store.evict }
    let t := if m.room < (t.l2.filter (fun p => homeSlice p.1 == k)).length then
        (match l2Victim t k line with
         | some l => { t with l2 := Sparse.put false l false t.l2, evict := Sparse.put false l false t.evict }
         | none => t)
      else t
    { s with store := t }

/-- Does the home slice hold the line, as an ordinary or a pinned one? -/
def inL2 (s : State) (line : Nat) : Bool :=
  Sparse.look false line s.store.l2 || (Sparse.look {} (homeSlice line) s.slices).pinned.contains line

/-- A line allocated in a core's L1 of 1,024 lines; a full one gives up its lowest line (DESIGN CHOICE, log entry 49). -/
def Core.keepL1 (c : Core) (line : Nat) : Core :=
  let l1 := Sparse.put false line true c.caches.l1
  let out := if 1024 < l1.length then ((l1.map Prod.fst).find? (fun l => l != line)) else none
  match out with
  | some l =>
    let own := Sparse.put false l false c.caches.l1own
    { c with caches := { c.caches with l1 := Sparse.put false l false l1, l1own := own } }
  | none => { c with caches := { c.caches with l1 := l1 } }

/-! ## Stash recalls (R58) -/

/-- A window line in state M written back from the scratchpad (R58, R59). -/
def writeBackLine (t : Team) (spad : Memory) (w : StashWin) (k : Nat) (l : StashLine) (m : Memory) : Memory :=
  m.write l.place (spad.read (t.res.spbase + w.w + 128 * k) 128)

/-- The poison that goes with a line written back: a granule of which a word is poisoned becomes poisoned, any other clean
(R73). -/
def writeBackPoison (t : Team) (spadPoison : Sparse Bool) (w : StashWin) (k : Nat) (l : StashLine) (m : Sparse Bool) : Sparse Bool :=
  (List.range 4).foldl (fun m j =>
    let words := (List.range 8).map (fun i => (t.res.spbase + w.w + 128 * k) / 4 + 8 * j + i)
    Sparse.put false (l.place / 32 + j) (words.any (fun x => Sparse.look false x spadPoison)) m) m

/-- The stash lines of a core that pair with a global line. -/
def coreStash (c : Core) (line : Nat) : List (Nat × Nat × Nat × StashLine) :=
  c.crew.teams.flatMap (fun t => t.2.stash.flatMap (fun w => (w.2.lines.filter (fun l => l.2.place == line)).map
    (fun l => (t.1, w.1, l.1, l.2))))

/-- A stash line's entry replaced, or removed for state I. -/
def setStashLine (w : StashWin) (k : Nat) (l : Option StashLine) : StashWin :=
  let rest := w.lines.filter (fun p => p.1 != k)
  match l with
  | some x => { w with lines := rest ++ [(k, x)] }
  | none => { w with lines := rest }

/-- A team of a core changed. -/
def Core.onTeam (c : Core) (k : Nat) (f : Team → Team) : Core :=
  let ts := Sparse.upd {} k f c.crew.teams
  { c with crew := { c.crew with teams := ts } }

/-- A team of a core. -/
def Core.team (c : Core) (k : Nat) : Team := Sparse.look {} k c.crew.teams

/-- A core with one stash line changed. -/
def Core.onStashLine (c : Core) (team win k : Nat) (l : Option StashLine) : Core :=
  c.onTeam team (fun t =>
    let ws := Sparse.upd {} win (fun w => setStashLine w k l) t.stash
    { t with stash := ws })

/-- The recall of one stash line: written back when in M, then kept in S for a read, or set to I for a write. -/
def State.recallLine (s : State) (core team win k : Nat) (write : Bool) : State :=
  let c := s.core core
  let t := Sparse.look {} team c.crew.teams
  let w := Sparse.look {} win t.stash
  match w.lines.find? (fun p => p.1 == k) with
  | none => s
  | some (_, l) =>
    let s := if l.owned then s.onStore (fun m => { m with
        mem := writeBackLine t c.store.spad w k l m.mem, poison := writeBackPoison t c.store.spadPoison w k l m.poison }) else s
    s.onCore core (fun c => c.onStashLine team win k (if write then none else some { l with owned := false }))

/-- Every stash copy of a line recalled before another agent's access (R58): all of them for a write, those in M for a
read. `except` names the copy that stays: its core, team, window and line. -/
def State.recall (s : State) (line : Nat) (write : Bool) (except : Option (Nat × Nat × Nat × Nat)) : State :=
  s.cores.foldl (fun s p =>
    (coreStash p.2 line).foldl (fun s q =>
      if except == some (p.1, q.1, q.2.1, q.2.2.1) then s
      else if write || q.2.2.2.owned then s.recallLine p.1 q.1 q.2.1 q.2.2.1 write else s) s) s

/-- A core's L1 copy of a line, and its ownership, given up. -/
def Core.dropLine (c : Core) (line : Nat) : Core :=
  let kept := Sparse.put false line false c.caches.l1
  let own := Sparse.put false line false c.caches.l1own
  { c with caches := { c.caches with l1 := kept, l1own := own } }

/-- Every other core's L1 copy and every replica of a line given up before a write takes effect (R64, R67). -/
def State.dropL1 (s : State) (core line : Nat) : State :=
  let s := if s.store.replicas.isEmpty then s else s.onStore (fun t => { t with replicas := t.replicas.filter (fun r => r.1 != line) })
  s.cores.foldl (fun s p =>
    if p.1 == core || !(Sparse.look false line p.2.caches.l1 || Sparse.look false line p.2.caches.l1own) then s
    else s.onCore p.1 (fun c => c.dropLine line)) s

/-- Bytes written at stage 3 by an agent of a core, coherently: stash and L1 copies elsewhere go first. -/
def State.coherentWrite (s : State) (core : Nat) (bs : List (Nat × Byte)) (poisoned : Bool)
    (except : Option (Nat × Nat × Nat × Nat)) : State :=
  let lines := (bs.map (fun b => lineOf b.1)).dedup
  let s := lines.foldl (fun s l => ((s.recall l true except).dropL1 core l).useSlice l) s
  s.perform bs poisoned

/-! ## Engine ownership (R132, R133) -/

/-- Is the line held by an engine command that has not yet written it? -/
def State.isOwned (s : State) (line : Nat) : Bool := s.store.owners.any (fun o => o.line == line)

/-! ## Pending stores -/

/-- Do two stores share a place? -/
def PendingStore.overlaps (t u : PendingStore) : Bool := t.bytes.any (fun b => (u.byteAt b.1).isSome)

/-- Is the scope wider than the core (R114)? -/
def beyondCore : Scope → Bool
  | .slice | .grp | .core => false
  | _ => true

/-- Does the scope reach other packages (R114)? -/
def beyondPackage : Scope → Bool
  | .dom | .sys => true
  | _ => false

/-- Does the store go to another package (R128)? -/
def PendingStore.remote (t : PendingStore) : Bool := t.bytes.any (fun b => 2 ^ 61 ≤ b.1)

/-- Must an earlier store of the core have become visible before something ordered at a scope does (R120, R123)? Beyond the
core it must have performed, within it it must be at stage 2. A non-temporal store is never waited for (R127), and a store to
another package, or before an access to one, only at .dom or wider (R128). -/
def mustPrecede (x : Scope) (remote : Bool) (u : PendingStore) : Bool :=
  !u.nt && (beyondCore x || !u.stage2) && (beyondPackage x || !(remote || u.remote))

/-- May the store at position `k` of a core's queue perform (R117, R120, R133)? Its lines are held by no command, no
earlier store shares a place with it, and a release waits for the earlier stores that must precede it. -/
def storeReady (s : State) (ts : List PendingStore) (k : Nat) : Bool :=
  match ts[k]? with
  | none => false
  | some t =>
    t.bytes.all (fun b => !s.isOwned (lineOf b.1)) &&
      (ts.take k).all (fun u => !t.overlaps u && (match t.release with | some x => !mustPrecede x t.remote u | none => true))

/-! ## Kick pages (R330, R374) -/

/-- The queue on whose kick page a place lies, with the offset there: BAR 0 of a function holds its mailbox page, then the kick
pages of its queues in order of creation (R374). -/
def kickPageOf (s : State) (p : Nat) : Option (Nat × Nat) :=
  if s.host.bars.isEmpty then none
  else
    let start (q : Queue) : Nat := 2 ^ 60 + Sparse.look 0 q.fn s.host.bars + 4096 * (1 + q.page)
    (s.host.queues.find? (fun q => q.2.live && Sparse.look 0 q.2.fn s.host.bars != 0 && start q.2 ≤ p && p < start q.2 + 4096)).map
      (fun q => (q.1, p - start q.2))

/-- The number of a queue's state in QSTAT (R330). -/
def phaseCode : QueuePhase → Nat
  | .active => 0 | .blocked => 1 | .error => 2 | .held => 3

/-- The 64-bit register at an offset of a queue's kick page: WIDX, RDX and QSTAT; any other offset reads 0 (R330). -/
def Queue.kickReg (q : Queue) (off : Nat) : DWord :=
  match off with
  | 0 => q.widx
  | 8 => q.rdx
  | 16 => BitVec.ofNat 64 (q.cause % 256 * 256 + phaseCode q.phase)
  | _ => 0

/-- A byte read from a queue's kick page. -/
def Queue.kickByte (q : Queue) (off : Nat) : Byte := (q.kickReg (off / 8 * 8)).extractLsb' (8 * (off % 8)) 8

/-- The kick that a device's store makes: one to WIDX (R330, R331); a store to any other offset of a kick page is ignored. -/
def kickOf (s : State) (t : PendingStore) : Option (Option (Nat × DWord × Bool)) :=
  match t.bytes with
  | [] => none
  | b :: _ =>
    (kickPageOf s b.1).map (fun q =>
      if q.2 < 8 then some (q.1, BitVec.ofNat 64 (leNat (t.bytes.map Prod.snd)), q.2 == 0 && t.bytes.length == 8) else none)

/-- The store at position `k` performs at its home (stage 3) and leaves the queue; one to a kick page changes no memory, and one to
WIDX there is a kick, which comes next (R331). The words of one store perform together, though R111 would let them part (DESIGN
CHOICE, log entry 51). -/
def State.performStore (s : State) (core k : Nat) : State :=
  let ts := (s.core core).caches.stores
  match ts[k]? with
  | none => s
  | some t =>
    let s := s.onCore core (fun c => { c with caches := { c.caches with stores := c.caches.stores.eraseIdx k } })
    match kickOf s t with
    | some k => { s with host := { s.host with kicks := s.host.kicks ++ k.toList } }
    | none =>
      let s := s.coherentWrite core t.bytes t.poison none
      if t.alloc then (((t.bytes.map (fun b => lineOf b.1)).dedup).filter isLocal).foldl (fun s l => s.keepL2 l false) s else s

/-- Every pending store of a core performs, oldest first, that satisfies a test, with those before it that must go
first; a store held by a command stays. -/
def State.drainStores (s : State) (core : Nat) (want : PendingStore → Bool) : State :=
  let ts := (s.core core).caches.stores
  let last := ts.length - (ts.reverse.findIdx want)
  if ts.any want then
    (ts.take last).foldl (fun s t =>
      match (s.core core).caches.stores.findIdx? (fun u => u.id == t.id) with
      | some k => if storeReady s (s.core core).caches.stores k then s.performStore core k else s
      | none => s) s
  else s

/-- A store put into a core's queue (R116, R284). -/
def State.pushStore (s : State) (core : Nat) (t : PendingStore) : State :=
  s.onCore core (fun c => { c with caches := { c.caches with
    stores := c.caches.stores ++ [{ t with id := c.caches.nextStore }], nextStore := c.caches.nextStore + 1 } })

/-! ## Write-combining entries (R66, R126) -/

/-- An entry of a core written out: it leaves the eight entries and joins the stores on their way, its bytes together. -/
def State.writeOut (s : State) (core line : Nat) : State :=
  match (s.core core).caches.wc.find? (fun e => e.line == line) with
  | none => s
  | some e =>
    let s := s.onCore core (fun c => { c with caches := { c.caches with wc := c.caches.wc.filter (fun x => x.line != line) } })
    let w := e.threads.headD (0, 0)
    s.pushStore core { id := 0, op := (s.core core).caches.nextStore, group := w.1, lane := w.2, bytes := e.bytes, stage2 := false, wc := true }

/-- Every entry of a core written out that satisfies a test, oldest first. -/
def State.writeOutWhere (s : State) (core : Nat) (f : WcEntry → Bool) : State :=
  (((s.core core).caches.wc.filter f).map WcEntry.line).foldl (fun s l => s.writeOut core l) s

/-- Does the entry hold a store of the thread? -/
def WcEntry.ownOf (e : WcEntry) (group lane : Nat) : Bool :=
  e.threads.any (fun t => t.1 == group && (t.2 == lane || t.2 == vliwLane || lane == vliwLane))

/-- A store of a thread merged into the entry of its line, which is taken first where the line has none; the oldest entry is
written out where none of the eight is free, and a complete one at once (R66). -/
def State.mergeWc (s : State) (core group lane line : Nat) (bs : List (Nat × Byte)) : State :=
  let s := if (s.core core).caches.wc.any (fun e => e.line == line) then s
    else
      let s := if (s.core core).caches.wc.length < 8 then s
        else match (s.core core).caches.wc with | e :: _ => s.writeOut core e.line | [] => s
      s.onCore core (fun c => { c with caches := { c.caches with wc := c.caches.wc ++ [{ line := line, since := s.now }] } })
  let s := s.onCore core (fun c => { c with caches := { c.caches with wc := c.caches.wc.map (fun e =>
    if e.line == line then
      { e with bytes := bs.foldl (fun m b => Sparse.ins b.1 b.2 m) e.bytes
               threads := if e.threads.contains (group, lane) then e.threads else e.threads ++ [(group, lane)] }
    else e) } })
  if (s.core core).caches.wc.any (fun e => e.line == line && 128 ≤ e.bytes.length) then s.writeOut core line else s

/-- Is the core's queue of 64 store instructions full (R284)? -/
def storeQueueFull (ts : List PendingStore) : Bool := 64 ≤ ((ts.map PendingStore.op).dedup).length

end Sys2Proof.Machine
end

