-- ==== Sys2Proof/Machine/Access.lean ====
section
/-! DEFINITION. What every memory access shares: forming addresses, the fault classes of R285, translation of all lanes
before any effect (R37), held lines, scratchpad and stash windows, watchpoints, buffer counters and gather counters. -/

namespace Sys2Proof.Machine

/-- The lane number that stands for a group's scalar path. -/
def scalarLane : Nat := 32

/-- The thread that an access of a lane or of the scalar path belongs to: a VLIW thread is one agent (R110). -/
def threadLane (c : Issue) (l : Nat) : Nat := if c.snap.vliw then vliwLane else l

/-- A global address: a virtual address, or a translation register with an offset (R278). -/
inductive GAddr where
  | va (a : DWord)
  | xr (k : Nat) (o : Int)
  deriving DecidableEq, Repr

/-- The virtual address of a global address. -/
def GAddr.va64 (g : Group) : GAddr → DWord
  | .va a => a
  | .xr k o => (g.xreg k).vbase + BitVec.ofInt 64 o

/-- The address `n` bytes further. -/
def GAddr.plus (n : Nat) : GAddr → GAddr
  | .va a => .va (a + BitVec.ofNat 64 n)
  | .xr k o => .xr k (o + n)

/-- The index of an access in a lane, 32 bits (R278). -/
def idxVal (c : Issue) (g : Group) (x : Spec) (l : Nat) : Word :=
  BitVec.ofNat 32 (if l == scalarLane then scalarVal c .n32 x else laneVal c g .n32 x l)

/-- The global address of a lane (R278). -/
def globalAddr (c : Issue) (g : Group) (b : Base) (idx : Spec) (off : BitVec 16) (l : Nat) : GAddr :=
  match b with
  | .s n => .va (c.snap.sreg n.toNat + (idxVal c g idx l).signExtend 64 + off.signExtend 64)
  | .x n => .xr n.toNat ((idxVal c g idx l).toInt + off.toInt)
  | .pair =>
    (match idx with
     | .v n => .va ((c.snap.reg (n.toNat + 1) l ++ c.snap.reg n.toNat l : BitVec 64) + off.signExtend 64)
     | _ => .va 0)
  | _ => .va 0

/-- The 32-bit scratchpad offset or local address of a lane (R278). -/
def smallAddr (c : Issue) (g : Group) (b : Base) (idx : Spec) (off : BitVec 16) (l : Nat) : Word :=
  let base : Word := match b with
    | .s n => (c.snap.sreg n.toNat).setWidth 32
    | .sp => c.snap.win.sp
    | _ => 0
  base + idxVal c g idx l + off.signExtend 32

/-- The lanes that perform an access: the active lanes, or once the scalar path (R279). -/
def accessLanes (c : Issue) (site : Site) (isLane : Bool) : List Nat :=
  if isLane then c.opLanes site else if c.opMask site == 0#32 then [] else [scalarLane]

/-- The pieces of an access of `n` bytes: whole up to 4 bytes, else words (R111). -/
def piecesOf (n : Nat) : List (Nat × Nat) :=
  if n ≤ 4 then [(0, n)] else (List.range (n / 4)).map (fun i => (4 * i, 4))

/-- Natural alignment up to 4 bytes, 4-byte alignment above (R282). -/
def aligned (a n : Nat) : Bool := a % (if n ≤ 4 then n else 4) == 0

/-- The lowest of several addresses. -/
def lowest : List Nat → Nat
  | [] => 0
  | a :: as => as.foldl Nat.min a

/-- A stop that names the lowest failing address in AUX (R285, R355). -/
def addrStop (code slot : Nat) (as : List Nat) : Stop := { code := code, slot := slot, aux := BitVec.ofNat 64 (lowest as) }

/-! ## Translation registers (R26, R27, R296) -/

/-- The size code PS of an entry (R26). -/
def psOf (e : TlbEntry) : BitVec 2 := if e.size == 2 ^ 38 then 3#2 else if e.size == 2 ^ 27 then 2#2 else 0#2

/-- What an issuer's address translates to, whatever its permissions. -/
def findFor (s : State) (w : Who) (a : DWord) : XRes := findEntry s (s.tlbOf w) (s.cidOf w) (isAgent w) a

/-- The register that TRX writes for a base address from what its translation found (R296); nothing found leaves V clear. -/
def trxValue (a : DWord) (r : XRes) : XReg :=
  match r with
  | .ok e =>
    { vbase := a, valid := true, pbase := BitVec.ofNat 64 (e.pbase + (va60 a - e.vbase)), home := e.home, mt := e.mt,
      kv := e.kv, nr := e.nr, rd := e.rd, wr := e.wr, priv := e.priv, ps := psOf e, pkg := if e.home == 2#2 then e.pkg else 0,
      limit := BitVec.ofNat 39 (e.vbase + e.size - va60 a), cid := e.cid }
  | _ => { vbase := a }

/-- The level of the leaf that a register's size code stands for (R13, R26). -/
def levelOfPs (ps : BitVec 2) : Nat :=
  match ps.toNat with
  | 3 => 1
  | 2 => 2
  | _ => 3

/-- The entry that a valid translation register stands for. -/
def xregEntry (x : XReg) (cid : Nat) : TlbEntry :=
  { cid := cid, vbase := va60 x.vbase, size := x.limit.toNat, pbase := x.pbase.toNat, lvl := levelOfPs x.ps, home := x.home,
    mt := x.mt, kv := x.kv, nr := x.nr, rd := x.rd, wr := x.wr, priv := x.priv, pkg := x.pkg }

/-- Does the register resolve the address by itself (R27)? -/
def viaXreg (g : Group) (a : GAddr) : Bool :=
  match a with
  | .va _ => false
  | .xr n o => (g.xreg n).valid && 0 ≤ o && o < (g.xreg n).limit.toNat

/-- The resolution of one piece of an access whatever its permissions (R27): through the register while the offset lies below
LIMIT, else by translation. -/
def findPiece (s : State) (w : Who) (g : Group) (a : GAddr) : XRes :=
  match a with
  | .xr n _ => if viaXreg g a then .ok (xregEntry (g.xreg n) (s.cidOf w)) else findFor s w (a.va64 g)
  | .va v => findFor s w v

/-- The resolution of one piece of an access (R27, R35). -/
def resolvePiece (s : State) (w : Who) (g : Group) (k : AccessKind) (a : GAddr) : XRes := (findPiece s w g a).permitted k (isAgent w)

/-- A lane's access after translation: the lane, each byte's address and place, and the memory type and home of its
page. -/
structure GLane where
  lane : Nat
  vas : List DWord
  places : List Nat
  mt : BitVec 2
  home : BitVec 2
  deriving DecidableEq, Repr

/-- What the translation of every lane found: faults with their addresses, a page the host must grant, TLB entries,
and the resolved lanes. -/
structure Reach where
  faults : List (DWord × XFault) := []
  ats : Option (Nat × Nat) := none
  entries : List TlbEntry := []
  lanes : List GLane := []
  deriving DecidableEq, Repr

/-- One piece added to a lane's access. -/
def reachPiece (s : State) (w : Who) (g : Group) (k : AccessKind) (a : GAddr) (n : Nat) (r : Reach × GLane) : Reach × GLane :=
  let v := a.va64 g
  match resolvePiece s w g k a with
  | .fault f => ({ r.1 with faults := (v, f) :: r.1.faults }, r.2)
  | .ats c p => ({ r.1 with ats := some (match r.1.ats with | some q => if q.2 < p then q else (c, p) | none => (c, p)) }, r.2)
  | .ok e =>
    let p := e.place v
    ({ r.1 with entries := if viaXreg g a then r.1.entries else e :: r.1.entries },
     { r.2 with vas := r.2.vas ++ (List.range n).map (fun i => v + BitVec.ofNat 64 i)
                places := r.2.places ++ (List.range n).map (fun i => p + i), mt := e.mt, home := e.home })

/-- Every lane's pieces resolved (R37). -/
def reachLanes (s : State) (w : Who) (g : Group) (k : AccessKind) (ps : List (Nat × List (GAddr × Nat))) : Reach :=
  ps.foldl (fun r p =>
    let q := p.2.foldl (fun q a => reachPiece s w g k a.1 a.2 q)
      (r, { lane := p.1, vas := [], places := [], mt := 0, home := 0 })
    { q.1 with lanes := q.1.lanes ++ [q.2] }) {}

/-- The lowest faulting address with its status (R37). -/
def lowestFault : List (DWord × XFault) → Option (DWord × XFault)
  | [] => none
  | p :: ps => some (ps.foldl (fun b q => if q.1.toNat < b.1.toNat then q else b) p)

/-! ## Watchpoints (R364) -/

/-- Does watchpoint `i` of a core match an access to a byte range? -/
def watchHits (s : State) (c : Issue) (k : AccessKind) (vas : List DWord) (i : Nat) : Bool :=
  let a := (s.core (coreOf c.who)).agent
  let ctl := Sparse.look 0 i a.wpc
  let n := 2 ^ bitsOf ctl 11 8
  let lo := (Sparse.look 0 i a.wpa).toNat / n * n
  let kind := match k with
    | .read => ctl.getLsbD 1
    | .write => ctl.getLsbD 2
    | _ => ctl.getLsbD 1 || ctl.getLsbD 2
  ctl.getLsbD 0 && kind && s.cidOf c.who == a.dctlCid && vas.any (fun v => lo ≤ v.toNat && v.toNat < lo + n)

/-- The stop of the lowest matching watchpoint, taken after the bundle (R364). -/
def State.watch (s : State) (c : Issue) (site : Site) (k : AccessKind) (ls : List GLane) : State :=
  if (s.core (coreOf c.who)).agent.wpc.isEmpty then s
  else
    match (List.range 4).find? (fun i => ls.any (fun l => watchHits s c k l.vas i)) with
    | some i => s.stopAfter { code := causeWatchpoint, slot := slotNumber site.slot, info := BitVec.ofNat 32 i }
    | none => s

/-! ## Reaching memory (R285 class 3, R37, R133) -/

/-- Empty translation registers named by an access are refilled from the walk of their base (R27). -/
def State.refillX (s : State) (c : Issue) (ps : List (Nat × List (GAddr × Nat))) : State :=
  let ks := (ps.flatMap (fun p => p.2.filterMap (fun a => match a.1 with | .xr k _ => some k | _ => none))).dedup
  ks.foldl (fun s k =>
    let x := c.snap.xreg k
    if x.valid then s
    else
      let y := trxValue x.vbase (findFor s c.who x.vbase)
      if y.valid then s.onGroup c.who (fun g => g.setXreg k y) else s) s

/-- The access of several lanes: each page translated before any effect, a page of the host being waited for; then a fault of
any stops the bundle, and a line that an engine command holds is waited for by reads and atomics (R133). Then `f` runs
on the resolved lanes. -/
def State.reach (s : State) (c : Issue) (site : Site) (tag : Nat) (k : AccessKind) (ps : List (Nat × List (GAddr × Nat)))
    (f : List GLane → State → State) : State :=
  let r := reachLanes s c.who c.snap k ps
  match r.ats with
  | some (cid, p) => s.waitFor (.page cid (BitVec.ofNat 64 p))
  | none =>
    match lowestFault r.faults with
    | some (v, x) =>
      s.stopAt { code := causeTranslation, slot := slotNumber site.slot, rpl := x.rpl, xlat := xlatDetail s (s.cidOf c.who) x k v,
                 tag := some tag }
    | none =>
      if k != .write && r.lanes.any (fun l => l.places.any (fun p => s.isOwned (lineOf p))) then s.waitFor .poll
      else
        let s := s.refillX c ps
        let s := s.fillTlb (coreOf c.who) r.entries.reverse
        f r.lanes (s.watch c site k r.lanes)

/-! ## Counters (R38, R85, R86) -/

/-- The key of the issuing group's team in its core. -/
def teamKey (w : Who) (g : Group) : Nat :=
  match w with
  | .gang a => 8 * a.bank + g.gid.team
  | .glen _ => 0

/-- A buffer counter of a team advanced: kind 0 bytes read, 1 bytes written, 2 stall cycles, 3 faults (R38). -/
def Team.count (t : Team) (tag kind n : Nat) : Team :=
  let x := Sparse.look 0 (4 * tag + kind) t.counters + n
  let cap := 2 ^ 48 - 1
  { t with counters := Sparse.put 0 (4 * tag + kind) (Nat.min x cap) t.counters, saturated := t.saturated || decide (cap < x) }

/-- The issuing team's counter advanced; the agent and the glen cores have none. -/
def State.countTag (s : State) (c : Issue) (tag kind n : Nat) : State :=
  if isAgent c.who || isGlen c.who || n == 0 then s
  else s.onCore (coreOf c.who) (fun k => k.onTeam (teamKey c.who c.snap) (fun t => t.count tag kind n))

/-- The counter of a line (R85). -/
def gatherKey (p : Nat) : Nat := (p / 2 ^ 7 % 4096) ^^^ (p / 2 ^ 19 % 4096) ^^^ (p / 2 ^ 31 % 512)

/-- The pinned line with the lowest counter, with that counter; of several the one pinned first, since R86 does not say which
(DESIGN CHOICE, log entry 25). -/
def MemSlice.coldest (m : MemSlice) : Option (Nat × Nat) :=
  (m.pinned.map (fun l => (l, Sparse.look 0 (gatherKey l) m.counters))).foldl
    (fun b q => match b with | none => some q | some x => if q.2 < x.2 then some q else some x) none

/-- A class-3 request's line pinned where R86 says. -/
def MemSlice.pin (m : MemSlice) (line cnt : Nat) : MemSlice :=
  if cnt < m.thresh || m.pinned.contains line then m
  else if m.pinned.length < m.capacity then { m with pinned := m.pinned ++ [line] }
  else
    match m.coldest with
    | some (l, x) => if x < cnt then { m with pinned := (m.pinned.filter (fun y => y != l)) ++ [line] } else m
    | none => m

/-- Every counter halved, rounding down, once 2^20 requests have come (R85). -/
def MemSlice.halve (m : MemSlice) : MemSlice :=
  { m with requests := m.requests - 2 ^ 20, counters := (m.counters.map (fun p => (p.1, p.2 / 2))).filter (fun p => p.2 != 0) }

/-- One gather request of a reuse class at a slice (R85). A halving that is due comes before the next request. -/
def MemSlice.request (m : MemSlice) (p cls : Nat) : MemSlice :=
  let m := if 2 ^ 20 ≤ m.requests then m.halve else m
  let m := { m with requests := m.requests + 1 }
  if m.en && 2 ≤ cls then
    let k := gatherKey p
    let cnt := Nat.min (Sparse.look 0 k m.counters + 1) 65535
    let m := { m with counters := Sparse.put 0 k cnt m.counters }
    if cls == 3 then m.pin (lineOf p) cnt else m
  else m

/-- A read that reaches its home slice (R85): counted, and its line allocated there unless its class is 0; `first` marks the
line as the first candidate for replacement (R65). -/
def State.gather (s : State) (p cls : Nat) (first : Bool := false) : State :=
  if isLocal p then
    let s := ({ s with slices := Sparse.upd {} (homeSlice p) (fun m => m.request p cls) s.slices } : State).useSlice p
    if cls == 0 then s else s.keepL2 (lineOf p) first
  else s

/-! ## Latency and cache presence (R64, R65, R70) -/

/-- The die of a core (R250). -/
def dieOfCore (core : Nat) : Nat := core / 160

/-- The slice nearest a core's cluster that takes replicas of a line: the one of its own die with the home slice's number there
(DESIGN CHOICE, log entry 49: R67 leaves the assignment open). -/
def nearSlice (core line : Nat) : Nat := 32 * dieOfCore core + homeSlice line % 32

/-- Does the core's die hold a replica of the line (R67)? -/
def hasReplica (s : State) (core line : Nat) : Bool := s.store.replicas.any (fun r => r.1 == line && r.2.1 / 32 == dieOfCore core)

/-- The latency of a load served for a core from a place, unloaded (R70). R70 gives no figure for a line of the host, of another
package or uncached, nor for HBM of another die: the model takes 380 cycles, and 60 more on another die (DESIGN CHOICE, log
entry 8). An island of the home slice that does not run adds its exit (R383). -/
def loadLatency (s : State) (core p : Nat) : Nat :=
  let line := lineOf p
  if Sparse.look false line (s.core core).caches.l1 then 30
  else if hasReplica s core line then 110
  else (if inL2 s line then 110 else 380) + (if isLocal p && p / 2 ^ 38 != dieOfCore core then 60 else 0) + sliceWait s p

/-- The grid of the issuing team, as 256 × die + grid; the agent and the glen cores have none. -/
def gridKey (s : State) (c : Issue) : Option Nat :=
  if isAgent c.who || isGlen c.who then none
  else
    let t := (s.core (coreOf c.who)).team (teamKey c.who c.snap)
    some (256 * t.die + t.grid)

/-- A replica of a line made for a grid in the slice nearest to its core (R65, R67). -/
def State.replicate (s : State) (core line grid : Nat) : State :=
  let r := (line, nearSlice core line, grid)
  if s.store.replicas.contains r then s else s.onStore (fun t => { t with replicas := t.replicas ++ [r] })

/-- A load's effect on the caches and the home slice's counters: `pol` is the policy and reuse class (R65, R85), `grid` the grid
that a replica belongs to, `far` a prefetch that goes to the home slice whatever the L1 holds (R295). -/
def State.touch (s : State) (core : Nat) (grid : Option Nat) (far : Bool) (l : GLane) (pol : Nat) : State :=
  let lines := (l.places.map lineOf).dedup
  if l.mt != 0#2 then s
  else
    lines.foldl (fun s line =>
      if !far && Sparse.look false line (s.core core).caches.l1 then s
      else
        let s := s.gather line (pol / 4) (pol % 4 == 3)
        let s := match grid with
          | some g => if pol % 4 == 1 && isLocal line then s.replicate core line g else s
          | none => s
        if far || l.home == 2#2 || 2 ≤ pol % 4 then s else s.onCore core (fun c => c.keepL1 line)) s

/-! ## Scratchpad addressing (R42, R43) -/

/-- The swizzle of R43 for a row. -/
def swz (z row : Nat) : Nat :=
  match z with
  | 0 => 0
  | 1 => row % 8 * 4
  | 2 => row / 2 % 8 * 4
  | 3 => row / 4 % 8 * 4
  | 4 => row % 32
  | 5 => row % 16 * 2
  | 6 => row % 4 * 8
  | _ => row / 32 % 32

/-- spad_phys of R43. -/
def spadPhys (off z : Nat) : Nat :=
  let w := off / 4
  let row := w / 32
  row * 128 + ((w % 32) ^^^ swz z row) * 4 + off % 4

/-- The team-relative physical bytes of an access. -/
def spadBytes (off n z : Nat) : List Nat := (List.range n).map (fun i => spadPhys (off + i) z)

/-- The number of rounds of a scratchpad access (R44): the largest count over all banks of distinct words. -/
def rounds (words : List Nat) : Nat :=
  let ws := words.dedup
  (List.range 32).foldl (fun m b => Nat.max m (ws.filter (fun w => w % 32 == b)).length) 1

/-- The stash window and line that hold a team-relative byte, with the paired global address (R55). -/
def stashOf (t : Team) (p : Nat) : Option (Nat × Nat × DWord) :=
  (t.stash.find? (fun w => w.2.valid && w.2.w ≤ p && p < w.2.w + 128 * w.2.n)).map
    (fun w => (w.1, (p - w.2.w) / 128, w.2.g + BitVec.ofNat 64 (p - w.2.w)))

/-- The state of a window line: `none` for I. -/
def stashLine (t : Team) (win k : Nat) : Option StashLine :=
  ((Sparse.look {} win t.stash).lines.find? (fun l => l.1 == k)).map Prod.snd

/-- A filled line's bytes and poison put into the scratchpad (R56, R73): a word of a poisoned granule is poisoned. -/
def CoreStore.fillLine (m : CoreStore) (a : Nat) (bs : List Byte) (bad : List Bool) : CoreStore :=
  { m with
    spad := Memory.write m.spad a bs
    spadPoison := (List.range 32).foldl (fun p i => Sparse.put false (a / 4 + i) (bad.getD (i / 8) false) p) m.spadPoison }

/-- A window line filled from its global line and set to S, or upgraded to M for a write (R56). -/
def State.stashFill (s : State) (core team win k place : Nat) (own : Bool) : State :=
  let s := s.recall place own (some (core, team, win, k))
  let s := if own then s.dropL1 core place else s
  let t := (s.core core).team team
  let w := Sparse.look {} win t.stash
  let fresh := (stashLine t win k).isNone
  let bs := Memory.read s.store.mem place 128
  let bad := (List.range 4).map (fun j => s.isPoisoned (place + 32 * j))
  s.onCore core (fun c =>
    let c := if fresh then { c with store := c.store.fillLine (t.res.spbase + w.w + 128 * k) bs bad } else c
    c.onStashLine team win k (some { place := place, owned := own || ((stashLine t win k).map StashLine.owned).getD false }))

/-- The window lines that an access touches: window, line and the lowest address touched in it. -/
def stashTouched (t : Team) (ps : List Nat) : List (Nat × Nat × DWord) :=
  (ps.filterMap (stashOf t)).foldl (fun ns q =>
    if ns.any (fun n => n.1 == q.1 && n.2.1 == q.2.1) then
      ns.map (fun n => if n.1 == q.1 && n.2.1 == q.2.1 && q.2.2.toNat < n.2.2.toNat then q else n)
    else ns ++ [q]) []

/-- Must an access of this kind fill or upgrade the line first? -/
def stashNeeds (t : Team) (k : AccessKind) (n : Nat × Nat × DWord) : Bool :=
  match stashLine t n.1 n.2.1 with
  | none => true
  | some l => k != .read && !l.owned

/-- Is a page one whose lines fill a window (R57): cached and not of another package? -/
def TlbEntry.fills (e : TlbEntry) : Bool := e.mt == 0#2 && e.home != 2#2

/-- What the translation of a window line's touched byte gives (R56, R57): a line that fills is read first and then, for a
write or an atomic, owned; an unfilled line's page that does not fill is accessed directly. -/
def stashPermit (r : XRes) (fresh : Bool) (k : AccessKind) (agent : Bool) : Except (XFault × AccessKind) XRes :=
  match r with
  | .ok e =>
    if e.fills then
      (match (if fresh then permit e .read agent else none) with
       | some f => .error (f, .read)
       | none => (match (if k == .read then none else permit e .write agent) with | some f => .error (f, .write) | none => .ok r))
    else (match permit e k agent with | some f => .error (f, k) | none => .ok r)
  | .fault f => .error (f, if k == .read || fresh then .read else .write)
  | r => .ok r

/-- A byte of a scratchpad access: in the scratchpad, or at the paired global place where the page is not stashed
(R57). -/
inductive SpadByte where
  | here (a : Nat)
  | there (p : Nat)
  deriving DecidableEq, Repr

/-- The target of a team-relative byte once its stash line is filled. -/
def spadTarget (s : State) (w : Who) (t : Team) (p : Nat) : SpadByte :=
  match stashOf t p with
  | none => .here (t.res.spbase + p)
  | some (win, k, va) =>
    if (stashLine t win k).isSome then .here (t.res.spbase + p)
    else
      match findFor s w va with
      | .ok e => .there (e.place va)
      | _ => .here (t.res.spbase + p)

/-- The team-relative bytes of sixteen rows of a tile in the scratchpad (R319). -/
def tileRowBytes (size stride z base : Nat) : List Nat := (List.range 16).flatMap (fun i => spadBytes (base + i * stride) (64 * size) z)

/-- The bytes that a queued TST will write; its A holds the first row's offset. -/
def tstBytes (d : Cmd) : List Nat :=
  match d.op with
  | .tst o => tileRowBytes (o.ty.elemBits / 8) (o.ext.extractLsb' 16 16).toNat (o.ext.extractLsb' 13 3).toNat d.a.toNat
  | _ => []

/-- Are two issuers gangs of one group? -/
def sameGroup (v w : Who) : Bool :=
  match v, w with
  | .gang a, .gang b => a.core == b.core && a.bank == b.bank && a.slot == b.slot
  | _, _ => false

/-- Will a TST of the issuer's group, not yet done, write any of these bytes (R319)? -/
def tstPending (k : Core) (w : Who) (ps : List Nat) : Bool :=
  k.cmds.any (fun d => sameGroup d.who w && (tstBytes d).any ps.contains)

/-- The stores of the core to the lines of some places, and the write-combining entries there, brought to stage 3; false while
one cannot (R117, R140). -/
def State.settleLines (s : State) (core : Nat) (lines : List Nat) : State × Bool :=
  if (s.core core).caches.stores.isEmpty && (s.core core).caches.wc.isEmpty then (s, true)
  else
    let hits (t : PendingStore) : Bool := t.bytes.any (fun b => lines.contains (lineOf b.1))
    let s := s.writeOutWhere core (fun e => lines.contains e.line)
    let s := s.drainStores core hits
    (s, !(s.core core).caches.stores.any hits)

/-- The lowest of the faults of an access with its kind (R37). -/
def lowestKindFault : List (DWord × XFault × AccessKind) → Option (DWord × XFault × AccessKind)
  | [] => none
  | p :: ps => some (ps.foldl (fun b q => if q.1.toNat < b.1.toNat then q else b) p)

/-- The scratchpad access of several lanes at team-relative bytes: stores on their way to the paired lines first (R140), then
its stash fills and upgrades (R56), which may fault or wait; then `f` runs. -/
def State.spadReach (s : State) (c : Issue) (site : Site) (k : AccessKind) (ps : List Nat) (f : State → State) : State :=
  let core := coreOf c.who
  let tk := teamKey c.who c.snap
  let t := (s.core core).team tk
  let touched := stashTouched t ps
  if tstPending (s.core core) c.who ps then s.waitFor .poll
  else if touched.isEmpty then f s
  else
    let found (n : Nat × Nat × DWord) : XRes := findFor s c.who n.2.2
    let held := touched.filterMap (fun n => match stashLine t n.1 n.2.1 with
      | some l => some l.place
      | none => (match found n with | .ok e => some (lineOf (e.place n.2.2)) | _ => none))
    let r0 := s.settleLines core held.dedup
    if !r0.2 then s.waitFor .poll
    else
      let s := r0.1
      let t := (s.core core).team tk
      let needs := touched.filter (stashNeeds t k)
      let rs := needs.map (fun n => (n, stashPermit (found n) (stashLine t n.1 n.2.1).isNone k (isAgent c.who)))
      match rs.find? (fun r => match r.2 with | .ok (.ats ..) => true | _ => false) with
      | some (_, .ok (.ats cid p)) => s.waitFor (.page cid (BitVec.ofNat 64 p))
      | _ =>
        match lowestKindFault (rs.filterMap (fun r => match r.2 with | .error x => some (r.1.2.2, x) | _ => none)) with
        | some (v, x, k) =>
          s.stopAt { code := causeTranslation, slot := slotNumber site.slot, rpl := x.rpl, xlat := xlatDetail s (s.cidOf c.who) x k v }
        | none =>
          let oks := rs.filterMap (fun r => match r.2 with | .ok (.ok e) => some (r.1, e) | _ => none)
          if oks.any (fun r => s.isOwned (lineOf (r.2.place r.1.2.2))) then s.waitFor .poll
          else
            let s := s.fillTlb core (oks.map Prod.snd)
            f (oks.foldl (fun s r =>
              if r.2.fills then s.stashFill core tk r.1.1 r.1.2.1 (lineOf (r.2.place r.1.2.2)) (k != .read) else s) s)

end Sys2Proof.Machine
end

