-- ==== Sys2Proof/Machine/LoadStore.lean ====
section
/-! DEFINITION. The meanings of loads, stores, bit-field loads, atomics, fences, prefetches, translation registers,
stash windows and stream bindings (R278 to R300).
Readings of the rules: DEDUCED, log entry 42. -/

namespace Sys2Proof.Machine

/-- The key of the issuer's group among a core's threads. -/
def threadKey (w : Who) : Nat :=
  match w with
  | .gang g => slotKey g.bank g.slot
  | .glen _ => 0

/-- The bytes of a load size (R206). -/
def loadBytes : Nat → Nat
  | 0 | 1 => 1
  | 2 | 3 => 2
  | 4 => 4
  | 5 => 8
  | _ => 16

/-- A local address's pieces as global addresses (R60). -/
def localPieces (g : Group) (a : Word) (n l : Nat) (ps : List (Nat × Nat)) : List (GAddr × Nat) :=
  let w := g.width
  let lane := if l == scalarLane then 0 else l
  if n == 0 then [] else
  ps.map (fun p => (.va (g.win.lbase + BitVec.ofNat 64 (4 * ((a.toNat + p.1) / 4 * w + lane) + (a.toNat + p.1) % 4)), p.2))

/-- The pieces of a global or local access of `n` bytes in a lane. -/
def memPieces (c : Issue) (g : Group) (sp : Space) (o : MOp) (n : Nat) (ps : List (Nat × Nat)) (l : Nat) : List (GAddr × Nat) :=
  match sp with
  | .global => let a := globalAddr c g o.base o.idx o.off l; ps.map (fun p => (a.plus p.1, p.2))
  | _ => localPieces c.snap (smallAddr c g o.base o.idx o.off l) n l ps

/-- The address that alignment is judged on, and that a failure names. -/
def alignAddr (c : Issue) (g : Group) (sp : Space) (o : MOp) (l : Nat) : Nat :=
  match sp with
  | .global => ((globalAddr c g o.base o.idx o.off l).va64 c.snap).toNat
  | _ => (smallAddr c g o.base o.idx o.off l).toNat

/-- The lanes whose local access leaves the stack's limits (R61). -/
def stackFails (g : Group) (write : Bool) (n : Nat) (as : List Nat) : List Nat :=
  as.filter (fun a => g.win.lsize.toNat ≤ a + n - 1 || (write && a < g.win.lim.toNat))

/-- Classes 1 and 2 of R285 for an access: `none` when both pass. -/
def class12 (s : State) (c : Issue) (sp : Space) (write : Bool) (n slot : Nat) (needAlign : Bool) (as : List Nat) : Option Stop :=
  let mis := if needAlign then as.filter (fun a => !aligned a n) else []
  if !mis.isEmpty then some (addrStop causeMisaligned slot mis)
  else
    match sp with
    | .global => none
    | .scratch =>
      let size := ((s.core (coreOf c.who)).team (teamKey c.who c.snap)).res.spsize
      let out := as.filter (fun a => size ≤ a + n - 1)
      if out.isEmpty then none else some (addrStop causeScratchRange slot out)
    | .local' =>
      let out := stackFails c.snap write n as
      if out.isEmpty then none else some (addrStop causeStackLimit slot out)

/-- The register words of a loaded value in a lane (R281). -/
def loadWords (sz : Nat) (bs : List Byte) : List Word :=
  match sz with
  | 1 => [BitVec.ofInt 32 (toSigned 8 (leNat bs))]
  | 3 => [BitVec.ofInt 32 (toSigned 16 (leNat bs))]
  | 5 => [BitVec.ofNat 32 (leNat (bs.take 4)), BitVec.ofNat 32 (leNat (bs.drop 4))]
  | 6 => (List.range 4).map (fun i => BitVec.ofNat 32 (leNat ((bs.drop (4 * i)).take 4)))
  | _ => [BitVec.ofNat 32 (leNat bs)]

/-- The scalar value of a load (R281). -/
def loadScalar (sz : Nat) (bs : List Byte) : DWord :=
  match sz with
  | 1 => BitVec.ofInt 64 (toSigned 8 (leNat bs))
  | 3 => BitVec.ofInt 64 (toSigned 16 (leNat bs))
  | _ => BitVec.ofNat 64 (leNat bs)

/-- Words of several registers from vd up, for several lanes, put in flight (R156, R284); a load's are discarded where their slice has
exited, an atomic's arrive (R235). -/
def State.postWords (s : State) (c : Issue) (d : Spec) (vals : List (Nat × List Word)) (lat : Nat) (load : Bool := true) : State :=
  match d with
  | .v n =>
    s.onGroup c.who (fun g => g.post {
      lanes := vals.flatMap (fun p => p.2.zipIdx.map (fun w => (32 * c.snap.phys (n.toNat + w.2) + p.1, w.1, false)))
      due := s.now + lat
      empties := true, load := load })
  | _ => s

/-- The stop for a poisoned value delivered to a lane (R285 class 4): after the bundle, the destination unwritten. -/
def State.poisonStop (s : State) (site : Site) (d : Spec) (lane : Nat) : State :=
  s.stopAfter { code := causePoisonValue, slot := slotNumber site.slot, aux := BitVec.ofNat 64 (d.code.toNat + 256 * lane) }

/-- Loaded bytes by lane delivered to the destination (R281, R285). -/
def State.deliver (s : State) (c : Issue) (site : Site) (d : Spec) (sz : Nat) (vals : List (Nat × List Byte)) (lat : Nat)
    (bad : Option Nat) : State :=
  match bad with
  | some l => s.poisonStop site d l
  | none =>
    match d, vals with
    | .s _, (_, bs) :: _ => s.postScalar c d (loadScalar sz bs) lat true
    | _, _ => s.postWords c d (vals.map (fun p => (p.1, loadWords sz p.2))) lat

/-- The buffer tag of a load noted on its result in flight (R38). -/
def State.tagLast (s : State) (c : Issue) (tag : Nat) : State :=
  s.onGroup c.who (fun g => { g with inflight := g.inflight.modify (g.inflight.length - 1) (fun r => { r with tag := some tag }) })

/-- Does a load of a thread return only writes that are visible beyond the core: an acquire wider than the core, or any load
after a full fence wider than it (R121, R123)? -/
def wideLoad (g : Group) (scope : Option Scope) (thread : Nat) : Bool :=
  (match scope with | some x => beyondCore x | none => false) || g.fenced.contains thread

/-- The stores on their way that a lane's load needs performed first: another thread's that only the core sees, for a wide load
(R121), and those of a written-out entry (R126). -/
def loadNeeds (key thread : Nat) (wide : Bool) (places : List Nat) (t : PendingStore) : Bool :=
  (t.wc || (wide && t.stage2 && !t.ownOf key thread)) && t.bytes.any (fun b => places.contains b.1)

/-- Is a store of the core or a kick still on its way to the kick page that a lane reads (R330)? -/
def kicksPend (s : State) (core : Nat) (l : GLane) : Bool :=
  l.places.any (fun p => (kickPageOf s p).isSome) &&
    (!s.host.kicks.isEmpty || (s.core core).caches.stores.any (fun t => t.bytes.any (fun b => l.places.contains b.1)))

/-- Before a load binds, each lane's thread writes out its entry for the line (R126) and the stores that it needs perform; the
Boolean tells whether all of them have. Then M copies in stash windows are written back (R58). -/
def State.settleLoad (s : State) (c : Issue) (scope : Option Scope) (ls : List GLane) : State × Bool :=
  let core := coreOf c.who
  let key := threadKey c.who
  let r := ls.foldl (fun (r : State × Bool) l =>
    let thread := threadLane c l.lane
    let want := loadNeeds key thread (wideLoad c.snap scope thread) l.places
    let s := r.1.writeOutWhere core (fun e => e.ownOf key thread && l.places.any (fun p => lineOf p == e.line))
    let s := s.drainStores core want
    (s, r.2 && !(s.core core).caches.stores.any want && !kicksPend s core l)) (s, true)
  (ls.foldl (fun s l => (l.places.map lineOf).dedup.foldl (fun s p => s.recall p false none) s) r.1, r.2)

/-- The bytes that a lane's load binds: a kick page's registers, or what the thread sees of memory (R330). -/
def boundBytes (s : State) (c : Issue) (l : GLane) : List Byte :=
  l.places.map (fun p =>
    match kickPageOf s p with
    | some (n, off) => (Sparse.look {} n s.host.queues : Queue).kickByte off
    | none => s.seenByte (coreOf c.who) (threadKey c.who) (threadLane c l.lane) p)

/-- Of the lanes that a poisoned value reaches the one whose failing byte has the lowest address (R285 class 4). -/
def poisonedLane (s : State) (ls : List GLane) : Option Nat :=
  let bad := ls.flatMap (fun l => (l.vas.zip l.places).filterMap (fun p => if s.isPoisoned p.2 then some (p.1.toNat, l.lane) else none))
  match bad with
  | [] => none
  | p :: ps => some (ps.foldl (fun b q => if q.1 < b.1 then q else b) p).2

/-- A load of the .g or .l space (R278 to R285). -/
def State.loadMem (s : State) (o : MOp) (sp : Space) (scope : Option Scope) : State :=
  s.laneOp o.at' [] (fun c g _ s =>
    let n := loadBytes o.sz.toNat
    let lanes := accessLanes c o.at' o.isLane
    match class12 s c sp false n (slotNumber o.at'.slot) true (lanes.map (alignAddr c g sp o)) with
    | some x => s.stopAt x
    | none =>
      s.reach c o.at' o.tag.toNat .read (lanes.map (fun l => (l, memPieces c g sp o n (piecesOf n) l))) (fun ls s =>
        let core := coreOf c.who
        let r := s.settleLoad c scope ls
        if !r.2 then s.waitFor .poll
        else
          let s := r.1
          let vals := ls.map (fun l => (l.lane, boundBytes s c l))
          let bad := poisonedLane s ls
          let lat := ls.foldl (fun m l => l.places.foldl (fun m p => Nat.max m (loadLatency s core p)) m) 30
          let s := ls.foldl (fun s l => s.touch core (gridKey s c) false l o.pol.toNat) s
          let s := s.countTag c o.tag.toNat 0 (if bad.isSome then 0 else n * ls.length)
          let s := s.deliver c o.at' o.d o.sz.toNat vals lat bad
          if bad.isSome || o.d == .zero then s else s.tagLast c o.tag.toNat))

/-- A byte of a scratchpad access read; one accessed directly is read coherently at its place (R57, R58). -/
def State.spadByte (s : State) (core : Nat) (b : SpadByte) : Byte :=
  match b with
  | .here a => (s.core core).store.spad.byte a
  | .there p => s.coherentByte p

/-- Is the byte's word poisoned? -/
def State.spadBad (s : State) (core : Nat) (b : SpadByte) : Bool :=
  match b with
  | .here a => Sparse.look false (a / 4) (s.core core).store.spadPoison
  | .there p => s.isPoisoned p

/-- The targets of a scratchpad access's bytes in a lane. -/
def spadTargets (s : State) (c : Issue) (ps : List Nat) : List SpadByte :=
  ps.map (spadTarget s c.who ((s.core (coreOf c.who)).team (teamKey c.who c.snap)))

/-- The swizzle of a scratchpad access (R283). -/
def swizzleOf (o : MOp) : Nat := o.pol.toNat % 8

/-- The latency of a scratchpad access of some targets: its rounds, or the global latency of those accessed directly (R44,
R57). -/
def spadLatency (s : State) (core base : Nat) (ps : List Nat) (ts : List SpadByte) : Nat :=
  ts.foldl (fun m b => match b with | .here _ => m | .there p => Nat.max m (loadLatency s core p)) (base + rounds (ps.map (fun a => a / 4)))

/-- The lane of the lowest poisoned offset of a scratchpad access (R285 class 4). -/
def spadPoisoned (s : State) (core : Nat) (as : List Nat) (ts : List (Nat × List SpadByte)) : Option Nat :=
  let bad := (as.zip ts).filter (fun p => p.2.2.any (s.spadBad core))
  match bad with
  | [] => none
  | p :: ps => some (ps.foldl (fun b q => if q.1 < b.1 then q else b) p).2.1

/-- A load of the scratchpad (R42 to R44, R281). -/
def State.loadSpad (s : State) (o : MOp) : State :=
  s.laneOp o.at' [] (fun c g _ s =>
    let n := loadBytes o.sz.toNat
    let lanes := accessLanes c o.at' o.isLane
    match class12 s c .scratch false n (slotNumber o.at'.slot) true (lanes.map (alignAddr c g .scratch o)) with
    | some x => s.stopAt x
    | none =>
      let bs := lanes.map (fun l => (l, spadBytes (alignAddr c g .scratch o l) n (swizzleOf o)))
      s.spadReach c o.at' .read (bs.flatMap Prod.snd) (fun s =>
        let ts := bs.map (fun p => (p.1, spadTargets s c p.2))
        let vals := ts.map (fun p => (p.1, p.2.map (s.spadByte (coreOf c.who))))
        let bad := spadPoisoned s (coreOf c.who) (lanes.map (alignAddr c g .scratch o)) ts
        s.deliver c o.at' o.d o.sz.toNat vals (spadLatency s (coreOf c.who) 5 (bs.flatMap Prod.snd) (ts.flatMap Prod.snd)) bad))

/-- LD_G (R280). -/
def execLdG (o : MOp) (s : State) : Host.Outcome State Fault Refusal := .next (s.loadMem o .global none)
/-- LD_G_ACQ (R280, R121). -/
def execLdGAcq (o : MOp) (s : State) : Host.Outcome State Fault Refusal := .next (s.loadMem o .global (some o.scp))
/-- LD_S (R280). -/
def execLdS (o : MOp) (s : State) : Host.Outcome State Fault Refusal := .next (s.loadSpad o)
/-- LD_S_ACQ (R280): the scope is taken as at most .core (R115), where every store is already visible. -/
def execLdSAcq (o : MOp) (s : State) : Host.Outcome State Fault Refusal := .next (s.loadSpad o)
/-- LD_L (R280). -/
def execLdL (o : MOp) (s : State) : Host.Outcome State Fault Refusal := .next (s.loadMem o .local' none)
/-- LD_L_ACQ (R280, R121). -/
def execLdLAcq (o : MOp) (s : State) : Host.Outcome State Fault Refusal := .next (s.loadMem o .local' (some o.scp))

/-! ## Stores -/

/-- The bytes that a lane stores (R281). -/
def storeData (c : Issue) (g : Group) (d : Spec) (n l : Nat) : List Byte :=
  if l == scalarLane then leBytes n (scalarVal c .b32 d)
  else
    match d with
    | .v k => ((List.range ((n + 3) / 4)).flatMap (fun i => leBytes 4 (c.snap.reg (k.toNat + i) l).toNat)).take n
    | .s k => leBytes n (c.snap.sreg k.toNat).toNat
    | _ => leBytes n (laneVal c g .b32 d l)

/-- Of several lanes' bytes to one place only the highest lane's stays (R113). -/
def highestWins : List (Nat × List (Nat × Byte)) → List (Nat × List (Nat × Byte))
  | [] => []
  | p :: ps => (p.1, p.2.filter (fun b => ps.all (fun q => q.2.all (fun x => x.1 != b.1)))) :: highestWins ps

/-- A release at a scope by some threads of a group, to be seen at once: their write-combining entries are written out (R126)
and every store that must precede it performs (R120); the Boolean tells whether all have. -/
def State.releaseNow (s : State) (core key : Nat) (threads : List Nat) (x : Scope) (remote : Bool) : State × Bool :=
  let s := s.writeOutWhere core (fun e => threads.any (e.ownOf key))
  let s := s.drainStores core (mustPrecede x remote)
  (s, !(s.core core).caches.stores.any (mustPrecede x remote))

/-- One lane's bytes of one line enter the core's store queue, or the line's write-combining entry (R66, R116). A release of a
write-combining page is an entry that is written out at once; a release is at stage 2 only when nothing that must precede it is
outstanding (R120). -/
def State.storeLine (s : State) (core op key thread : Nat) (l : GLane) (pol : Nat) (nt : Bool) (release : Option Scope) (line : Nat)
    (bs : List (Nat × Byte)) (bad : Bool := false) : State :=
  if l.mt == 2#2 && release.isNone && !bad then s.mergeWc core key thread line bs
  else
    let s := if l.mt == 2#2 then s.writeOut core line else s
    let held := match release with
      | some x => (s.core core).caches.stores.any (mustPrecede x (2 ^ 61 ≤ line))
      | none => false
    s.pushStore core { id := 0, op := op, group := key, lane := thread, bytes := bs, poison := bad,
                       stage2 := l.mt == 0#2 && l.home != 2#2 && !nt && !held && Sparse.look false line (s.core core).caches.l1,
                       nt := nt, wc := l.mt == 2#2, release := release, alloc := l.mt == 0#2 && pol / 4 != 0 }

/-- A store to a kick page acts as a release at .sys (R331). -/
def releaseOf (s : State) (ls : List GLane) (release : Option Scope) : Option Scope :=
  if ls.any (fun l => l.places.any (fun p => (kickPageOf s p).isSome)) then some .sys else release

/-- A store of the .g or .l space (R278 to R285): each lane's bytes enter the core's store queue line by line. -/
def State.storeMem (s : State) (o : MOp) (sp : Space) (nt : Bool) (release : Option Scope) : State :=
  s.laneOp o.at' [(o.d, false)] (fun c g _ s =>
    let n := storeBytes o.sz.toNat
    let core := coreOf c.who
    let lanes := accessLanes c o.at' o.isLane
    match class12 s c sp true n (slotNumber o.at'.slot) true (lanes.map (alignAddr c g sp o)) with
    | some x => s.stopAt x
    | none =>
      s.reach c o.at' o.tag.toNat .write (lanes.map (fun l => (l, memPieces c g sp o n (piecesOf n) l))) (fun ls s =>
        if storeQueueFull (s.core core).caches.stores then s.waitFor .poll
        else
          let key := threadKey c.who
          let release := releaseOf s ls release
          let s := if release.isSome then s.writeOutWhere core (fun e => ls.any (fun l => e.ownOf key (threadLane c l.lane))) else s
          let data := highestWins (ls.map (fun l => (l.lane, l.places.zip (storeData c g o.d n l.lane))))
          let op := (s.core core).caches.nextStore
          let s := (ls.zip data).foldl (fun s p =>
            ((p.2.2.map (fun b => lineOf b.1)).dedup).foldl (fun s line =>
              s.storeLine core op key (threadLane c p.1.lane) p.1 o.pol.toNat nt release line (p.2.2.filter (fun b => lineOf b.1 == line))) s) s
          s.countTag c o.tag.toNat 1 (n * ls.length)))

/-- Bytes written to a scratchpad target; a word written whole becomes clean (R73). -/
def State.spadWrite (s : State) (core : Nat) (bs : List (SpadByte × Byte)) : State :=
  let here := bs.filterMap (fun p => match p.1 with | .here a => some (a, p.2) | .there _ => none)
  let there := bs.filterMap (fun p => match p.1 with | .here _ => none | .there q => some (q, p.2))
  let s := s.onCore core (fun c =>
    let as := here.map Prod.fst
    let clean := as.filter (fun a => (List.range 4).all (fun i => as.contains (a / 4 * 4 + i)))
    { c with store := { c.store with
        spad := here.foldl (fun m b => Sparse.put 0#8 b.1 b.2 m) c.store.spad
        spadPoison := clean.foldl (fun m a => Sparse.put false (a / 4) false m) c.store.spadPoison } })
  if there.isEmpty then s else s.coherentWrite core there false none

/-- A store to the scratchpad: it reaches every agent of the core at once (R139). -/
def State.storeSpad (s : State) (o : MOp) (release : Bool) : State :=
  s.laneOp o.at' [(o.d, false)] (fun c g _ s =>
    let n := storeBytes o.sz.toNat
    let lanes := accessLanes c o.at' o.isLane
    match class12 s c .scratch true n (slotNumber o.at'.slot) true (lanes.map (alignAddr c g .scratch o)) with
    | some x => s.stopAt x
    | none =>
      let bs := lanes.map (fun l => (l, spadBytes (alignAddr c g .scratch o l) n (swizzleOf o)))
      s.spadReach c o.at' .write (bs.flatMap Prod.snd) (fun s =>
        let r := if release then s.releaseNow (coreOf c.who) (threadKey c.who) (lanes.map (threadLane c)) .core false else (s, true)
        if !r.2 then s.waitFor .poll
        else bs.foldl (fun s p => s.spadWrite (coreOf c.who) ((spadTargets s c p.2).zip (storeData c g o.d n p.1))) r.1))

/-- ST_G (R280). -/
def execStG (o : MOp) (s : State) : Host.Outcome State Fault Refusal := .next (s.storeMem o .global false none)
/-- ST_G_REL (R280, R120). -/
def execStGRel (o : MOp) (s : State) : Host.Outcome State Fault Refusal := .next (s.storeMem o .global false (some o.scp))
/-- ST_G_NT (R280, R127). -/
def execStGNt (o : MOp) (s : State) : Host.Outcome State Fault Refusal := .next (s.storeMem o .global true none)
/-- ST_S (R280). -/
def execStS (o : MOp) (s : State) : Host.Outcome State Fault Refusal := .next (s.storeSpad o false)
/-- ST_S_REL (R280, R115). -/
def execStSRel (o : MOp) (s : State) : Host.Outcome State Fault Refusal := .next (s.storeSpad o true)
/-- ST_L (R280). -/
def execStL (o : MOp) (s : State) : Host.Outcome State Fault Refusal := .next (s.storeMem o .local' false none)
/-- ST_L_REL (R280, R120). -/
def execStLRel (o : MOp) (s : State) : Host.Outcome State Fault Refusal := .next (s.storeMem o .local' false (some o.scp))
/-- ST_L_NT (R280, R127). -/
def execStLNt (o : MOp) (s : State) : Host.Outcome State Fault Refusal := .next (s.storeMem o .local' true none)

/-! ## Bit-field extraction (R286 to R288) -/

/-- The fields of a pattern (R287). -/
structure Pattern where
  nr : Nat
  sx : Bool
  ow : Nat
  skip : Nat
  k : Nat
  w : Nat
  pb : Nat
  deriving DecidableEq, Repr

/-- A pattern word's fields (R287). -/
def patternOf (p : DWord) : Pattern :=
  { nr := [1, 2, 4, 0].getD (bitsOf p 31 30) 0, sx := p.getLsbD 29, ow := [8, 16, 32, 0].getD (bitsOf p 28 27) 0,
    skip := bitsOf p 26 20, k := bitsOf p 19 12, w := bitsOf p 11 6, pb := bitsOf p 5 0 }

/-- The number of output elements. -/
def Pattern.count (p : Pattern) : Nat := p.nr * (32 / p.ow)
/-- The span of a pattern in bytes (R287). -/
def Pattern.span (p : Pattern) : Nat :=
  (p.count - 1) / p.k * p.pb + (p.skip + (p.count - 1) % p.k * p.w + p.w + 7) / 8
/-- Is the pattern valid (R287)? -/
def patternOk (x : DWord) : Bool :=
  let p := patternOf x
  bitsOf x 63 32 == 0 && p.nr != 0 && p.ow != 0 && 1 ≤ p.k && p.k ≤ 128 && 1 ≤ p.w && p.w ≤ 32 && p.w ≤ p.ow &&
    1 ≤ p.pb && p.pb ≤ 16 && p.skip + p.k * p.w ≤ 8 * p.pb && p.span ≤ 64

/-- XPAT (R286): pattern n of the group written; an invalid pattern raises an illegal-operand trap. -/
def execXpat (o : IOp) (s : State) : Host.Outcome State Fault Refusal :=
  .next (s.laneOp o.at' [] (fun c _ _ s =>
    let a := c.sval o.a
    if !patternOk a then s.illegalOperand o.at'
    else
      let n := (o.imm.extractLsb' 0 3).toNat
      s.onGroup c.who (fun g => { g with xpat := Sparse.put 0 n a g.xpat })))

/-- The registers that a pattern extracts from the span's bytes (R288). -/
def extractPattern (p : Pattern) (bs : List Byte) : List Word :=
  let x := leNat bs
  let e (j : Nat) : Nat :=
    let f := x / 2 ^ (j / p.k * 8 * p.pb + p.skip + j % p.k * p.w) % 2 ^ p.w
    if p.sx then wrapTo p.ow (toSigned p.w f) else f
  let per := 32 / p.ow
  (List.range p.nr).map (fun r => BitVec.ofNat 32 (joinElems p.ow ((List.range per).map (fun i => e (r * per + i)))))

/-- Is the destination legal for the pattern's register count (R288)? -/
def ldxDestOk (p : Pattern) (d : Spec) : Bool :=
  match d with
  | .v n => n.toNat % p.nr == 0
  | _ => false

/-- The pattern that an LDX samples, or `none` for the illegal-operand trap of R288. -/
def ldxPattern (c : Issue) (o : MOp) : Option Pattern :=
  let x := Sparse.look 0 o.sz.toNat c.snap.xpat
  if patternOk x && ldxDestOk (patternOf x) o.d then some (patternOf x) else none

/-- LDX of the .g or .l space, byte by byte (R288). -/
def State.ldxMem (s : State) (o : MOp) (sp : Space) : State :=
  s.laneOp o.at' [] (fun c g _ s =>
    match ldxPattern c o with
    | none => s.illegalOperand o.at'
    | some p =>
      let n := p.span
      let core := coreOf c.who
      let lanes := accessLanes c o.at' o.isLane
      match class12 s c sp false n (slotNumber o.at'.slot) false (lanes.map (alignAddr c g sp o)) with
      | some x => s.stopAt x
      | none =>
        s.reach c o.at' o.tag.toNat .read (lanes.map (fun l => (l, memPieces c g sp o n ((List.range n).map (fun i => (i, 1))) l))) (fun ls s =>
          let r := s.settleLoad c none ls
          if !r.2 then s.waitFor .poll
          else
            let s := r.1
            let vals := ls.map (fun l => (l.lane, extractPattern p (boundBytes s c l)))
            let bad := poisonedLane s ls
            let lat := ls.foldl (fun m l => l.places.foldl (fun m q => Nat.max m (loadLatency s core q)) m) 30
            let s := ls.foldl (fun s l => s.touch core (gridKey s c) false l o.pol.toNat) s
            let s := s.countTag c o.tag.toNat 0 (if bad.isSome then 0 else n * ls.length)
            match bad with
            | some l => s.poisonStop o.at' o.d l
            | none => (s.postWords c o.d vals (lat + 2)).tagLast c o.tag.toNat))

/-- LDX_G (R288). -/
def execLdxG (o : MOp) (s : State) : Host.Outcome State Fault Refusal := .next (s.ldxMem o .global)
/-- LDX_L (R288). -/
def execLdxL (o : MOp) (s : State) : Host.Outcome State Fault Refusal := .next (s.ldxMem o .local')
/-- LDX_S (R288). -/
def execLdxS (o : MOp) (s : State) : Host.Outcome State Fault Refusal :=
  .next (s.laneOp o.at' [] (fun c g _ s =>
    match ldxPattern c o with
    | none => s.illegalOperand o.at'
    | some p =>
      let lanes := accessLanes c o.at' o.isLane
      match class12 s c .scratch false p.span (slotNumber o.at'.slot) false (lanes.map (alignAddr c g .scratch o)) with
      | some x => s.stopAt x
      | none =>
        let bs := lanes.map (fun l => (l, spadBytes (alignAddr c g .scratch o l) p.span (swizzleOf o)))
        s.spadReach c o.at' .read (bs.flatMap Prod.snd) (fun s =>
          let ts := bs.map (fun q => (q.1, spadTargets s c q.2))
          match spadPoisoned s (coreOf c.who) (lanes.map (alignAddr c g .scratch o)) ts with
          | some l => s.poisonStop o.at' o.d l
          | none =>
            s.postWords c o.d (ts.map (fun q => (q.1, extractPattern p (q.2.map (s.spadByte (coreOf c.who))))))
              (spadLatency s (coreOf c.who) 5 (bs.flatMap Prod.snd) (ts.flatMap Prod.snd) + 2))))

/-! ## Atomics (R289 to R291) -/

/-- The type of an atomic as an operand type. -/
def atomTy : AtomTy → Ty
  | .i32 => .i32 | .n32 => .n32 | .f32 => .f32 | .b32 => .b32 | .i64 => .i64 | .n64 => .n64 | .b64 => .b64

/-- The new value of an atomic, or `none` where nothing is written (R290). `cas` selects CAS: a is compared, b
written. -/
def atomNew (cas : Bool) (aop : Nat) (t : Ty) (old a b : Nat) : Option Nat :=
  let w := t.elemBits
  if cas then (if old == a % 2 ^ w then some (b % 2 ^ w) else none)
  else
    some (match aop with
      | 0 => (old + a) % 2 ^ w
      | 1 => (addElem f32 0 false old a).1
      | 2 => if t == .f32 then (minMaxElem f32 false old a).1 else arith .min t false old a 0
      | 3 => if t == .f32 then (minMaxElem f32 true old a).1 else arith .max t false old a 0
      | 4 => logic .and w old a
      | 5 => logic .or w old a
      | 6 => logic .xor w old a
      | 7 => a % 2 ^ w
      | 8 => if a % 2 ^ w ≤ old then 0 else old + 1
      | _ => if old == 0 || a % 2 ^ w < old then a % 2 ^ w else old - 1)

/-- An operand of an atomic in a lane: a register, or an even pair for a 64-bit type (R207, R289). -/
def atomVal (c : Issue) (g : Group) (t : AtomTy) (x : Spec) (l : Nat) : Nat :=
  if l == scalarLane then scalarVal c (atomTy t) x
  else
    match x with
    | .v n => if t.is64 then (c.snap.reg n.toNat l).toNat + 2 ^ 32 * (c.snap.reg (n.toNat + 1) l).toNat else (c.snap.reg n.toNat l).toNat
    | .s n => (c.snap.sreg n.toNat).toNat
    | .const k => constWord (atomTy t) k
    | _ => laneVal c g (atomTy t) x l

/-- The old value delivered to the destination; a 32-bit type in a scalar register is extended as R227. -/
def State.deliverOld (s : State) (c : Issue) (o : AOp) (olds : List (Nat × Nat)) (lat : Nat) : State :=
  match o.d, olds with
  | .s _, (_, x) :: _ => s.postScalar c o.d (scalarOf (atomTy o.ta) x) lat true
  | _, _ =>
    s.postWords c o.d (olds.map (fun p => (p.1,
      if o.ta.is64 then [BitVec.ofNat 32 p.2, BitVec.ofNat 32 (p.2 / 2 ^ 32)] else [BitVec.ofNat 32 p.2]))) lat false

/-- A memory-format address of an atomic: no offset (R289). -/
def atomAddr (o : AOp) : MOp :=
  { at' := o.at', sz := 4, scp := o.scp, d := o.d, base := o.base, idx := o.idx, pol := 0, tag := o.tag, off := 0 }

/-- May the atomic act on this page (R291)? Over CXL.io only add, exch and cas. -/
def atomSupported (cas : Bool) (aop : Nat) (l : GLane) : Bool :=
  l.home != 1#2 || l.mt == 0#2 || cas || aop == 0 || aop == 7

/-- One lane's atomic at stage 3 (R130), every other copy of its line given up first (R58, R64): the old value, unless its
granule is poisoned, and whether anything was written. -/
def State.atomStep (s : State) (core : Nat) (cas : Bool) (aop : Nat) (t : Ty) (places : List Nat) (a b : Nat) :
    State × Option Nat × Bool :=
  let s := ((places.map lineOf).dedup).foldl (fun s l => ((s.recall l true none).dropL1 core l).useSlice l) s
  if places.any s.isPoisoned then (s, none, false)
  else
    let old := leNat (places.map s.store.mem.byte)
    match atomNew cas aop t old a b with
    | none => (s, some old, false)
    | some x => (s.perform (places.zip (leBytes places.length x)) false, some old, true)

/-- The lines of cached host pages that an atomic has taken into the L1 with ownership (R291). -/
def State.ownHostLines (s : State) (core : Nat) (ls : List GLane) : State :=
  let lines := (ls.flatMap (fun l => if l.home == 1#2 && l.mt == 0#2 then l.places.map lineOf else [])).dedup
  lines.foldl (fun s line => s.onCore core (fun c =>
    let c := c.keepL1 line
    let own := Sparse.put false line true c.caches.l1own
    { c with caches := { c.caches with l1own := own } })) s

/-- What the lanes of an atomic gave: each lane's old value, or none where it is poisoned, with its address, and the number of
lanes that wrote. -/
structure AtomOut where
  st : State
  olds : List (Nat × Nat × Option Nat) := []
  wrote : Nat := 0

/-- The lane of the lowest address whose read half was poisoned (R285 class 4). -/
def AtomOut.bad (r : AtomOut) : Option Nat :=
  match r.olds.filter (fun p => p.2.2.isNone) with
  | [] => none
  | p :: ps => some (ps.foldl (fun b q => if q.2.1 < b.2.1 then q else b) p).1

/-- Does the order of an atomic release (R124)? -/
def ordReleases : Ord → Bool
  | .rel | .ar => true
  | _ => false

/-- The latency of an atomic's old value, unloaded: at a home slice of the core's die or of another one, or in the L1 for a
cached host home (R291). -/
def atomLatency (core : Nat) (ls : List GLane) : Nat :=
  ls.foldl (fun m l =>
    if l.home == 1#2 && l.mt == 0#2 then Nat.max m 34
    else if l.places.any (fun p => isLocal p && p / 2 ^ 38 != dieOfCore core) then Nat.max m 180
    else Nat.max m 120) 34

/-- An atomic of the .g space: the core's stores to its places, and for a release every earlier store, perform first;
then each active lane in ascending order (R113, R130, R290). -/
def State.atomMem (s : State) (o : AOp) (cas : Bool) : State :=
  s.laneOp o.at' (if cas then [(o.a, false), (o.b, false)] else [(o.a, false)]) (fun c g _ s =>
    let n := if o.ta.is64 then 8 else 4
    let core := coreOf c.who
    let m := atomAddr o
    let lanes := accessLanes c o.at' (o.isLane cas)
    let as := lanes.map (alignAddr c g .global m)
    let mis := as.filter (fun a => a % n != 0)
    if !mis.isEmpty then s.stopAt (addrStop causeMisaligned (slotNumber o.at'.slot) mis)
    else
      s.reach c o.at' o.tag.toNat .atomic (lanes.map (fun l => (l, memPieces c g .global m n [(0, n)] l))) (fun ls s =>
        if ls.any (fun l => !atomSupported cas o.aop.toNat l) then s.trapAt o.at' causeAtomic
        else
          let key := threadKey c.who
          let s := s.writeOutWhere core (fun e => ls.any (fun l => e.ownOf key (threadLane c l.lane) &&
            (ordReleases o.ord || l.places.any (fun p => lineOf p == e.line))))
          let want (t : PendingStore) : Bool :=
            t.bytes.any (fun b => ls.any (fun l => l.places.contains b.1)) ||
              (ls.any (fun l => t.wc && l.mt == 2#2 && t.bytes.any (fun b => l.places.any (fun p => lineOf p == lineOf b.1)))) ||
              (ordReleases o.ord && mustPrecede o.scp (ls.all (fun l => l.home == 2#2)) t)
          let s := s.drainStores core want
          if (s.core core).caches.stores.any want then s.waitFor .poll
          else
            let r := ls.foldl (fun (r : AtomOut) l =>
              let q := r.st.atomStep core cas o.aop.toNat (atomTy o.ta) l.places
                (atomVal c g o.ta o.a l.lane) (atomVal c g o.ta o.b l.lane)
              { st := q.1, olds := r.olds ++ [(l.lane, alignAddr c g .global m l.lane, q.2.1)], wrote := r.wrote + (if q.2.2 then 1 else 0) })
              { st := s }
            let s := (r.st.ownHostLines core ls).countTag c o.tag.toNat 1 (n * r.wrote)
            match r.bad with
            | some l => s.poisonStop o.at' o.d l
            | none =>
              (s.countTag c o.tag.toNat 0 (if o.d == .zero then 0 else n * ls.length)).deliverOld c o
                (r.olds.map (fun p => (p.1, p.2.2.getD 0))) (atomLatency core ls)))

/-- ATOM_G (R290). -/
def execAtomG (o : AOp) (s : State) : Host.Outcome State Fault Refusal := .next (s.atomMem o false)
/-- CAS_G (R290). -/
def execCasG (o : AOp) (s : State) : Host.Outcome State Fault Refusal := .next (s.atomMem o true)

/-- An atomic in the scratchpad: lanes in ascending order (R290, R291). -/
def State.atomSpad (s : State) (o : AOp) (cas : Bool) : State :=
  s.laneOp o.at' (if cas then [(o.a, false), (o.b, false)] else [(o.a, false)]) (fun c g _ s =>
    let n := if o.ta.is64 then 8 else 4
    let core := coreOf c.who
    let m := atomAddr o
    let lanes := accessLanes c o.at' (o.isLane cas)
    let as := lanes.map (alignAddr c g .scratch m)
    let mis := as.filter (fun a => a % n != 0)
    if !mis.isEmpty then s.stopAt (addrStop causeMisaligned (slotNumber o.at'.slot) mis)
    else
      match class12 s c .scratch true n (slotNumber o.at'.slot) false as with
      | some x => s.stopAt x
      | none =>
        let bs := lanes.map (fun l => (l, spadBytes (alignAddr c g .scratch m l) n 0))
        s.spadReach c o.at' .atomic (bs.flatMap Prod.snd) (fun s =>
          let q := if ordReleases o.ord then s.releaseNow core (threadKey c.who) (lanes.map (threadLane c)) .core false else (s, true)
          if !q.2 then s.waitFor .poll
          else
            let lat := spadLatency s core 7 (bs.flatMap Prod.snd) (bs.flatMap (fun p => spadTargets s c p.2))
            let r := bs.foldl (fun (r : AtomOut) p =>
              let ts := spadTargets r.st c p.2
              let out (x : Option Nat) := r.olds ++ [(p.1, alignAddr c g .scratch m p.1, x)]
              if ts.any (r.st.spadBad core) then { r with olds := out none }
              else
                let old := leNat (ts.map (r.st.spadByte core))
                match atomNew cas o.aop.toNat (atomTy o.ta) old (atomVal c g o.ta o.a p.1) (atomVal c g o.ta o.b p.1) with
                | none => { r with olds := out (some old) }
                | some x => { r with st := r.st.spadWrite core (ts.zip (leBytes n x)), olds := out (some old) }) { st := q.1 }
            match r.bad with
            | some l => r.st.poisonStop o.at' o.d l
            | none => r.st.deliverOld c o (r.olds.map (fun p => (p.1, p.2.2.getD 0))) lat))

/-- ATOM_S (R290). -/
def execAtomS (o : AOp) (s : State) : Host.Outcome State Fault Refusal := .next (s.atomSpad o false)
/-- CAS_S (R290). -/
def execCasS (o : AOp) (s : State) : Host.Outcome State Fault Refusal := .next (s.atomSpad o true)

/-! ## Fences (R292 to R294) -/

/-- A hold of the gang's later memory and engine operations until the named stores have performed (R294). -/
def State.holdFor (s : State) (c : Issue) (want : PendingStore → Bool) : State :=
  let ids := (((s.core (coreOf c.who)).caches.stores.filter want).map PendingStore.id)
  s.onGroup c.who (fun g =>
    { g with holds := g.holds ++ [{ slices := c.slices, stores := ids, ready := s.now + 2 }] })

/-- The threads that a fence or drain acts for: its active lanes and the scalar path (R292, R293). -/
def fenceThreads (c : Issue) (lanes : List Nat) : List Nat := if c.snap.vliw then [vliwLane] else lanes ++ [scalarLane]

/-- The write-combining entries that a fence or drain writes out: every one with a store of its threads, whatever the scope
(R66, R293). -/
def fenceEntry (key : Nat) (threads : List Nat) (e : WcEntry) : Bool := threads.any (e.ownOf key)

/-- The stores that a fence waits for. An acquire fence makes the earlier loads acquires: at a scope wider than the core what
they may have read at stage 2 must have performed (R121, R123). -/
def fenceWants (x : Scope) (kind : Nat) (t : PendingStore) : Bool := (kind != 1 || beyondCore x) && mustPrecede x false t

/-- The stores that a drain waits for: its threads' non-temporal ones, and the entries written out (R293). -/
def drainWants (key : Nat) (threads : List Nat) (t : PendingStore) : Bool := t.wc || (t.nt && threads.any (t.ownOf key))

/-- FENCE (R292): write-combining entries are written out, and later operations wait for the earlier stores that its scope must
see; after a full fence wider than the core its threads' loads are wide. -/
def execFence (o : ROp) (s : State) : Host.Outcome State Fault Refusal :=
  .next (s.laneOp o.at' [] (fun c _ lanes s =>
    let kind := (o.mod.extractLsb' 3 2).toNat
    let x := Scope.ofCode (o.mod.extractLsb' 0 3)
    let ts := fenceThreads c lanes
    let s := s.writeOutWhere (coreOf c.who) (fenceEntry (threadKey c.who) ts)
    let s := if kind == 0 && beyondCore x then
        s.onGroup c.who (fun g => { g with fenced := g.fenced ++ ts.filter (fun t => !g.fenced.contains t) }) else s
    s.holdFor c (fenceWants x kind)))

/-- DRAIN (R293): later operations wait for the threads' non-temporal stores and written-out entries. -/
def execDrain (o : ROp) (s : State) : Host.Outcome State Fault Refusal :=
  .next (s.laneOp o.at' [] (fun c _ lanes s =>
    let ts := fenceThreads c lanes
    (s.writeOutWhere (coreOf c.who) (fenceEntry (threadKey c.who) ts)).holdFor c (drainWants (threadKey c.who) ts)))

/-- FENCE_COMPLETE (R294): the gang's hold ends once its stores have performed and two cycles have passed. -/
def execFenceComplete (g : GangAt) (s : State) : Host.Outcome State Fault Refusal :=
  let stores := ((s.core g.core).caches.stores.map PendingStore.id)
  .next (s.onGroupAt g.core g.bank g.slot (fun q =>
    { q with holds := q.holds.filter (fun h => !h.slices.contains g.slice || s.now < h.ready || h.stores.any stores.contains) }))

/-! ## Prefetch and translation registers (R295, R296) -/

/-- PREF (R295): lines of cached pages with a local or host home brought near or far; nothing ever faults. -/
def execPref (o : MOp) (s : State) : Host.Outcome State Fault Refusal :=
  .next (s.laneOp o.at' [] (fun c g _ s =>
    let lanes := accessLanes c o.at' (idxIsLane o.idx)
    let r := reachLanes s c.who c.snap .read (lanes.map (fun l => (l, memPieces c g .global o 1 [(0, 1)] l)))
    let good := r.lanes.filter (fun l => !l.places.isEmpty && l.mt == 0#2 && l.home != 2#2)
    good.foldl (fun s l => s.touch (coreOf c.who) (gridKey s c) (o.sz != 0#3 || 2 ≤ o.pol.toNat % 4) l o.pol.toNat) s))

/-- TRX (R296): the gang waits for a page that the host must grant. -/
def execTrx (o : ROp) (s : State) : Host.Outcome State Fault Refusal :=
  .next (s.laneOp o.at' [] (fun c _ _ s =>
    match o.d with
    | .x n =>
      (match findFor s c.who (c.sval o.a) with
       | .ats cid p => s.waitFor (.page cid (BitVec.ofNat 64 p))
       | r =>
         let s := match r with | .ok e => s.fillTlb (coreOf c.who) [e] | _ => s
         s.onGroup c.who (fun g => g.setXreg n.toNat (trxValue (c.sval o.a) r)))
    | _ => s))

/-! ## Stash windows (R297, R298) -/

/-- Does the byte range meet a ring or stash window of the team (R45)? -/
def regionBusy (k : Core) (t : Team) (lo hi : Nat) : Bool :=
  t.res.rings.any (fun r =>
    let x := Sparse.look {} r k.rings
    x.valid && lo < x.base + x.count * x.slotsz * 128 && x.base < hi) ||
  t.stash.any (fun w => w.2.valid && lo < w.2.w + 128 * w.2.n && w.2.w < hi)

/-- Will a TST of the issuer's group, not yet done, write a byte of the range (R319)? -/
def tstWithin (k : Core) (w : Who) (lo hi : Nat) : Bool :=
  k.cmds.any (fun d => sameGroup d.who w && (tstBytes d).any (fun p => lo ≤ p && p < hi))

/-- STMAP (R297): it waits for its group's tile stores to the range. -/
def execStmap (o : ROp) (s : State) : Host.Outcome State Fault Refusal :=
  .next (s.laneOp o.at' [] (fun c _ _ s =>
    let core := coreOf c.who
    let k := s.core core
    let t := k.team (teamKey c.who c.snap)
    let g := c.sval o.a
    let w := (c.sval o.b).toNat
    let n := (c.sval o.c).toNat
    let free := (List.range 8).find? (fun i => !(Sparse.look {} i t.stash).valid)
    if g.toNat % 128 != 0 || bitsOf g 63 60 != 0 || 2 ^ 60 < g.toNat + 128 * n || w % 128 != 0 || n == 0 || 4096 < n ||
        t.res.spsize < w + 128 * n || regionBusy k t w (w + 128 * n) then s.illegalOperand o.at'
    else
      match free with
      | none => s.illegalOperand o.at'
      | some i =>
        if tstWithin k c.who w (w + 128 * n) then s.waitFor .poll
        else
          s.onCore core (fun k => k.onTeam (teamKey c.who c.snap) (fun t =>
            { t with stash := Sparse.put {} i { valid := true, g := g, w := w, n := n, lines := [] } t.stash }))))

/-- Every M line of a window written back (R59): left in S, or with `drop` every line set to I. -/
def State.flushWindow (s : State) (core team win : Nat) (drop : Bool) : State :=
  (Sparse.look {} win ((s.core core).team team).stash).lines.foldl (fun s l => s.recallLine core team win l.1 drop) s

/-- The mapped window that starts at W (R298). -/
def windowAt (t : Team) (w : DWord) : Option Nat :=
  (t.stash.find? (fun p => p.2.valid && p.2.w == w.toNat)).map Prod.fst

/-- Has the issuer's group a tile store to the window under way (R298)? -/
def windowPending (s : State) (core team : Nat) (w : Who) (win : Nat) : Bool :=
  let x := Sparse.look {} win ((s.core core).team team).stash
  tstWithin (s.core core) w x.w (x.w + 128 * x.n)

/-- STFLUSH (R298). -/
def execStflush (o : ROp) (s : State) : Host.Outcome State Fault Refusal :=
  .next (s.laneOp o.at' [] (fun c _ _ s =>
    let core := coreOf c.who
    let tk := teamKey c.who c.snap
    match windowAt ((s.core core).team tk) (c.sval o.a) with
    | none => s.illegalOperand o.at'
    | some i => if windowPending s core tk c.who i then s.waitFor .poll else s.flushWindow core tk i false))

/-- A window unmapped: M lines written back, every line I, the range plain storage again (R59). -/
def State.unmapWindow (s : State) (core team win : Nat) : State :=
  (s.flushWindow core team win true).onCore core (fun k => k.onTeam team (fun t => { t with stash := Sparse.put {} win {} t.stash }))

/-- STUNMAP (R298). -/
def execStunmap (o : ROp) (s : State) : Host.Outcome State Fault Refusal :=
  .next (s.laneOp o.at' [] (fun c _ _ s =>
    let core := coreOf c.who
    let tk := teamKey c.who c.snap
    match windowAt ((s.core core).team tk) (c.sval o.a) with
    | none => s.illegalOperand o.at'
    | some i => if windowPending s core tk c.who i then s.waitFor .poll else s.unmapWindow core tk i))

/-! ## Stream bindings (R300) -/

/-- QBIND (R52, R300). -/
def execQbind (o : ROp) (s : State) : Host.Outcome State Fault Refusal :=
  .next (s.laneOp o.at' [] (fun c _ _ s =>
    let core := coreOf c.who
    let k := s.core core
    let t := k.team (teamKey c.who c.snap)
    let a := (c.sval o.a).toNat
    let n := (c.sval o.b).toNat
    match o.d with
    | .q q =>
      if ((s.cur c).stream q.toNat).size != 0 || !([512, 1024, 2048, 4096, 8192, 16384, 32768].contains n) || a % 128 != 0 ||
          t.res.spsize < a + n || regionBusy k t a (a + n) then s.illegalOperand o.at'
      else s.onGroup c.who (fun g => { g with q := Sparse.put {} q.toNat { buf := a, size := n } g.q })
    | _ => s))

/-- QFREE (R54, R300): waits for the copies that name the register, then unbinds. -/
def execQfree (o : ROp) (s : State) : Host.Outcome State Fault Refusal :=
  .next (s.laneOp o.at' [] (fun c _ _ s =>
    match o.d with
    | .q q =>
      let x := (s.cur c).stream q.toNat
      if x.size == 0 then s.illegalOperand o.at'
      else if x.named != 0 then s.waitFor .poll
      else s.onGroup c.who (fun g => { g with q := Sparse.put {} q.toNat {} g.q })
    | _ => s))

end Sys2Proof.Machine
end

