-- ==== Sys2Proof/Machine/Records.lean ====
section
/-! DEFINITION. Records (R353 to R356, R386), host event queues (R376), trace records (R366), and queue errors (R342). -/

namespace Sys2Proof.Machine

/-! ## Identities (R356) -/

/-- An agent identity. -/
def aidOf (die unit kind bank slot qn : Nat) : Word :=
  BitVec.ofNat 32 (die * 2 ^ 30 + unit * 2 ^ 22 + kind * 2 ^ 18 + bank * 2 ^ 17 + slot * 2 ^ 13 + qn * 2 ^ 7)

/-- The identity of a unit on a core: kind 1 to 3, or 8 for the agent. -/
def coreAid (core kind : Nat) : Word := aidOf (dieOfCore core) (core % 160) kind 0 0 0
/-- The identity of a per-die engine, or of the front end (kind 9). -/
def dieAid (die kind qn : Nat) : Word := aidOf die 255 kind 0 0 qn
/-- The identity of an issuer. -/
def aidOfWho (w : Who) : Word :=
  match w with
  | .gang g => if isAgent w then coreAid g.core 8 else aidOf (dieOfCore g.core) (g.core % 160) 0 g.bank g.slot 0
  | .glen n => aidOf (n / 16) (160 + n % 16) 7 0 0 0

/-! ## Host event queues (R376) -/

/-- No core: an agent outside the cores. -/
def noCore : Nat := 640

/-- Bytes written in host memory at a host address. -/
def State.hostWrite (s : State) (a : Nat) (bs : List Byte) : State :=
  s.coherentWrite noCore (((List.range bs.length).zip bs).map (fun p => (2 ^ 60 + a + p.1, p.2))) false none

/-- Bytes of host memory. -/
def State.hostRead (s : State) (a n : Nat) : Nat := s.store.mem.num (2 ^ 60 + a) n

/-- An event queue. -/
def State.evq (s : State) (n : Nat) : EventQueue := Sparse.look {} n s.host.evqs
/-- The host's side changed. -/
def State.onHost (s : State) (f : HostSide → HostSide) : State := { s with host := f s.host }
/-- An event queue changed. -/
def State.onEvq (s : State) (n : Nat) (f : EventQueue → EventQueue) : State :=
  s.onHost (fun h => { h with evqs := Sparse.upd {} n f h.evqs })

/-- A record, then WIDX, then the MSI-X message; on a ring that is still full after rereading the host's read index the
record is dropped and LOST advanced (R376). -/
def State.postEvent (s : State) (n : Nat) (bs : List Byte) : State :=
  let e := s.evq n
  if !e.live then s
  else
    let size := 2 ^ e.log2n
    let full := size ≤ e.widx - e.seen
    let s := if full then s.onEvq n (fun e => { e with seen := s.hostRead (e.index + 16) 8 }) else s
    let e := s.evq n
    if size ≤ e.widx - e.seen then s.hostWrite (e.index + 8) (leBytes 8 (s.hostRead (e.index + 8) 8 + 1))
    else
      let s := s.hostWrite (e.base + 64 * (e.widx % size)) bs
      let s := s.hostWrite e.index (leBytes 8 (e.widx + 1))
      s.onEvq n (fun e => { e with widx := e.widx + 1, msgs := e.msgs + 1 })

/-- A queue. -/
def State.queue (s : State) (n : Nat) : Queue := Sparse.look {} n s.host.queues

/-- Does Ibien shoot down a context whose V it is about to clear (R11)? No packet of its queues starts and none of its teams is
claimed or restored meanwhile (DEDUCED, log entry 61). -/
def closing (s : State) (cid : Nat) : Bool :=
  s.host.mail.any (fun m => match m.2.wait with | some (.clearV _ c _ _) => c == cid | _ => false)
/-- A queue changed. -/
def State.onQueue (s : State) (n : Nat) (f : Queue → Queue) : State :=
  s.onHost (fun h => { h with queues := Sparse.upd {} n f h.queues })

/-! ## Records (R354, R355) -/

/-- The class of a cause (R354). -/
def classOf (code : Nat) (rpl : Bool) : Nat :=
  if rpl then 1 else if code ≤ 0x0E then 2 else if code ≤ 0x12 then 3 else if code ≤ 0x14 then 4 else if code ≤ 0x22 then 5 else 7

/-- Does INFO hold a code or a number (R355)? -/
def hasInfo (code : Nat) : Bool := 0x10 ≤ code && code ≤ 0x14

/-- A record's fields (R355). -/
structure Rec where
  stop : Stop
  aid : Word
  cid : Nat
  asy : Bool := false
  seq : Nat
  pc : DWord
  smask : Nat := 0
  amask : BitVec 32 := 0
  deriving DecidableEq, Repr

/-- The 64 bytes of a record (R355). -/
def Rec.bytes (r : Rec) (now : Nat) : List Byte :=
  let x := r.stop
  let w0 := r.aid.toNat * 2 ^ 32 + r.cid % 2 ^ 16 * 2 ^ 16 + (if r.asy then 2 ^ 13 else 0) + (if x.rpl then 2 ^ 12 else 0) +
    x.slot % 256 * 16 + classOf x.code x.rpl
  let info := if hasInfo x.code then x.info.toNat else x.code * 2 ^ 24
  let aux := if hasInfo x.code then x.code * 2 ^ 56 + x.aux.toNat % 2 ^ 56 else x.aux.toNat
  leBytes 8 w0 ++ leBytes 8 r.pc.toNat ++ leBytes 8 (r.seq % 2 ^ 32 * 2 ^ 32 + r.smask % 256) ++
    leBytes 8 (info * 2 ^ 32 + r.amask.toNat) ++ leBytes 16 x.xlat.toNat ++ leBytes 8 now ++ leBytes 8 aux

/-- Is a record one that awaits an answer (R375)? -/
def awaitsAnswer (code : Nat) (rpl : Bool) : Bool := (code == 1 && rpl) || code == 4 || code == 0x10 || (0x12 ≤ code && code ≤ 0x14)

/-- An event of a class made pending for a core's agent, which ends a HALT (R253, R354). Every record that the agent writes is an
event for it, one of a front end for the agent of core 0 of its die (DESIGN CHOICE, log entry 62). -/
def State.pend (s : State) (core cls : Nat) : State :=
  s.onCore core (fun c => { c with agent := { c.agent with events := c.agent.events ++ [cls], halted := false } })

/-- A record of a core's agent about something of a team, posted and, where it awaits an answer, noted outstanding. -/
def State.coreRecord (s : State) (core queue : Nat) (r : Rec) (about : Option RecordOf) : State :=
  let seq := (s.core core).recSeq
  let s := s.onCore core (fun c => { c with recSeq := (c.recSeq + 1) % 2 ^ 32 })
  let s := (s.postEvent (s.queue queue).evq ({ r with seq := seq }.bytes s.now)).pend core (classOf r.stop.code r.stop.rpl)
  match about with
  | none => s
  | some a =>
    if awaitsAnswer r.stop.code r.stop.rpl then
      s.onHost (fun h => { h with outs := h.outs ++ [{
        name := { die := r.aid.toNat / 2 ^ 30, unit := r.aid.toNat / 2 ^ 22 % 256, seq := seq }
        about := a, code := r.stop.code, rpl := r.stop.rpl, cid := r.cid }] })
    else s

/-- The event queue of a record that concerns no queue (R72, R74, R307, R352, R384): the lowest live one, where there
is one (DESIGN CHOICE, log entry 12). -/
def State.anyEvq (s : State) : Option Nat := (s.host.evqs.find? (fun p => p.2.live)).map Prod.fst

/-- A record of a core's agent about a structure with no command (R386). -/
def State.agentEvent (s : State) (core code : Nat) (aux : DWord) (cid : Nat) : State :=
  let seq := (s.core core).recSeq
  let s := (s.onCore core (fun c => { c with recSeq := (c.recSeq + 1) % 2 ^ 32 })).pend core (classOf code false)
  match s.anyEvq with
  | none => s
  | some e => s.postEvent e ({ stop := { code := code, aux := aux }, aid := coreAid core 8, cid := cid, seq := seq, pc := 0 : Rec }.bytes s.now)

/-- The events that name packages to which stores were lost (R377). -/
def State.tellCut (s : State) : State :=
  if s.store.cut.isEmpty then s
  else
    let ps := s.store.cut
    ps.foldl (fun s p => s.agentEvent 0 0x22 (BitVec.ofNat 64 p) 0) (s.onStore (fun t => { t with cut := [] }))

/-- A record of the front end about a queue (R386): `pc` the packet's index or the value R386 names, `low` what AUX
holds in its low byte. -/
def State.queueRecord (s : State) (q code low : Nat) (pc : DWord) (xlat : BitVec 128) : State :=
  let x := s.queue q
  let seq := (s.die x.die).recSeq
  let s := s.onDie x.die (fun d => { d with recSeq := (d.recSeq + 1) % 2 ^ 32 })
  let r : Rec := { stop := { code := code, aux := BitVec.ofNat 64 (x.page * 2 ^ 16 + low), xlat := xlat }, aid := dieAid x.die 9 0,
                   cid := x.cid, seq := seq, pc := pc }
  (s.postEvent x.evq (r.bytes s.now)).pend (160 * x.die) (classOf code false)

/-- A queue enters ERROR with a cause, and the queue-error event is posted (R342). -/
def State.queueError (s : State) (q cause : Nat) (index : Nat) (xlat : BitVec 128) : State :=
  if !(s.queue q).live then s
  else
    let s := s.onQueue q (fun x =>
      if x.phase == .held then { x with before := .error, cause := cause } else { x with phase := .error, cause := cause })
    s.queueRecord q 0x23 cause (BitVec.ofNat 64 index) xlat

/-! ## Trace records (R366) -/

/-- The fields of a trace record that vary. -/
structure Trace where
  type : Nat
  slices : Nat := 0
  aid : Word
  pc : DWord
  amask : BitVec 32 := 0
  p0 : Word := 0
  p1 : DWord := 0
  p2 : DWord := 0
  deriving DecidableEq, Repr

/-- The 64 bytes of a trace record. -/
def Trace.bytes (t : Trace) (now : Nat) : List Byte :=
  leBytes 1 t.type ++ leBytes 1 t.slices ++ leBytes 2 0 ++ leBytes 4 t.aid.toNat ++ leBytes 8 t.pc.toNat ++ leBytes 8 now ++
    leBytes 4 t.amask.toNat ++ leBytes 4 t.p0.toNat ++ leBytes 8 t.p1.toNat ++ leBytes 8 t.p2.toNat ++ leBytes 16 0

/-- A trace record written into the buffer of a core's agent by plain stores in firmware space; one whose page cannot
be written is lost (DESIGN CHOICE, log entry 14). -/
def State.trace (s : State) (core : Nat) (t : Trace) : State :=
  let a := (s.core core).agent
  if a.tsize == 0 then s
  else
    let va : DWord := BitVec.ofNat 64 (15 * 2 ^ 60 + (a.tbase.toNat + 64 * (a.tptr.toNat % a.tsize.toNat)) % 2 ^ 60)
    let s :=
      match translate s ((s.core core).caches.tlb ++ s.engineTlb core) 0 true va .write with
      | .ok e =>
        let rec64 := t.bytes s.now
        let bs := ((List.range 64).zip rec64).map (fun (p : Nat × Byte) => (e.place va + p.1, p.2))
        s.coherentWrite core bs false none
      | _ => s
    s.onCore core (fun c => { c with agent := { c.agent with tptr := c.agent.tptr + 1 } })

/-- Is tracing of a kind (a bit of trctl) on at a core (R364)? -/
def State.traces (s : State) (core bit : Nat) : Bool :=
  let a := (s.core core).agent
  a.trctl.getLsbD 0 && a.trctl.getLsbD bit && a.tsize != 0

/-- The slices of a gang as a mask: the core's slice numbers, so a half-width group on half 1 has slices 4 to 7. -/
def sliceMask (g : Group) (ks : List Nat) : Nat :=
  ks.foldl (fun m k => m + 2 ^ (k + (if g.gid.half && g.gid.hnum == 1 then 4 else 0))) 0

/-- A trace record about the issuing gang, where its kind is on. -/
def State.traceGang (s : State) (bit : Nat) (type : Nat) (w : Who) (g : Group) (slices : List Nat) (pc : DWord) (amask : BitVec 32)
    (p0 : Word) (p1 : DWord) : State :=
  if isGlen w || !s.traces (coreOf w) bit then s
  else s.trace (coreOf w) { type := type, slices := sliceMask g slices, aid := aidOfWho w, pc := pc, amask := amask, p0 := p0, p1 := p1 }

end Sys2Proof.Machine
end

