-- ==== Sys2Proof/Machine/Rings.lean ====
section
/-! DEFINITION. Completion flags and their handles (R303 to R307), and rings: counters, reservations, claims, commits,
pops and the ownership table (R46 to R51). -/

namespace Sys2Proof.Machine

/-! ## Flags (R303, R307) -/

/-- A flag of a core. -/
def State.flagOf (s : State) (core n : Nat) : Flag := Sparse.look {} n (s.core core).flags

/-- A flag of a core changed. -/
def State.onFlag (s : State) (core n : Nat) (f : Flag → Flag) : State :=
  s.onCore core (fun c => { c with flags := Sparse.upd {} n f c.flags })

/-- The change of one flag in one indivisible step: its value by `f`, ERR raised or kept, LAST set (R303, R306). -/
def Flag.change (f : Word → Word) (err : Bool) (aid : Word) (x : Flag) : Flag :=
  { x with value := f x.value, err := x.err || err, last := aid }

/-- Is a group of a core stopped for the debugger (R365)? -/
def groupStopped (g : Group) : Bool := g.slices.any Slice.debugStopped

/-- Adds 1 to a core flag for a command of a group, or holds the increment while the group is stopped for the debugger
with HOLD = 1 (R303, R365). -/
def State.signal (s : State) (core n group : Nat) (err : Bool) (aid : Word) : State :=
  let g := Sparse.look (groupZero group) group (s.core core).groups
  if groupStopped g && (s.core core).agent.dctlHold then
    s.onFlag core n (fun x => { x with held := x.held ++ [(group, err, aid)] })
  else s.onFlag core n (Flag.change (fun v => v + 1) err aid)

/-- The held increments of a group applied in order (R365). -/
def applyHeld (group : Nat) (x : Flag) : Flag :=
  let y := (x.held.filter (fun h => h.1 == group)).foldl (fun y h => Flag.change (fun v => v + 1) h.2.1 h.2.2 y) x
  { y with held := x.held.filter (fun h => h.1 != group) }

/-- The key under which a flag holds an increment by a command of a group of another core, or of its own through a handle. -/
def handleKey (core group : Nat) : Nat := 4096 + 64 * core + group

/-- Every held increment of a group applied, on its own core's flags and on those it names by handles. -/
def State.releaseHeld (s : State) (core group : Nat) : State :=
  let s := (s.core core).flags.foldl (fun s p => if p.2.held.isEmpty then s else s.onFlag core p.1 (applyHeld group)) s
  s.cores.foldl (fun s c => c.2.flags.foldl (fun s p =>
    if p.2.held.isEmpty then s else s.onFlag c.1 p.1 (applyHeld (handleKey core group))) s) s

/-- A glen core's flag changed. -/
def State.onGlenFlag (s : State) (n k : Nat) (f : Flag → Flag) : State :=
  s.onGlen n (fun g => { g with flags := Sparse.upd {} k f g.flags })

/-- The handle of a core flag (R307). -/
def flagHandle (s : State) (core n : Nat) : Nat :=
  dieOfCore core * 2 ^ 30 + core % 160 * 2 ^ 22 + n * 2 ^ 16 + (s.flagOf core n).gen.toNat

/-- The handle of a glen flag (R307). -/
def glenHandle (s : State) (g n : Nat) : Nat := g / 16 * 2 ^ 30 + (160 + g % 16) * 2 ^ 22 + n * 2 ^ 16 + (s.glen g).starts % 256

/-- The resident team of a core that holds a physical flag. -/
def flagTeam (c : Core) (n : Nat) : Option (Nat × Team) :=
  c.crew.teams.find? (fun t => t.2.live && t.2.res.fbase ≤ n && n < t.2.res.fbase + t.2.res.nflags)

/-- What a remote act on a flag handle reaches (R307, R351). -/
inductive FlagPlace where
  | core (k n : Nat)
  | glen (k n : Nat)
  | image (space : Nat) (va : DWord)
  | stale
  deriving DecidableEq, Repr

/-- The flag that a handle names for an agent of a context (R307, R351). -/
def flagPlace (s : State) (h cid : Nat) : FlagPlace :=
  let die := h / 2 ^ 30 % 4
  let unit := h / 2 ^ 22 % 256
  let n := h / 2 ^ 16 % 64
  let gen := h % 256
  if h / 2 ^ 8 % 256 != 0 then .stale
  else if unit < 160 then
    let k := die * 160 + unit
    let c := s.core k
    match c.crew.savedFlags.find? (fun x => x.flag == n && x.gen.toNat == gen && x.cid == cid) with
    | some x => .image x.space x.va
    | none =>
      match flagTeam c n with
      | some (_, t) => if t.cid == cid && (s.flagOf k n).gen.toNat == gen then .core k n else .stale
      | none => .stale
  else if unit < 176 then
    let g := die * 16 + (unit - 160)
    if n < 16 && (s.glen g).prog.running && (s.glen g).cid == cid && (s.glen g).starts % 256 == gen then .glen g n else .stale
  else .stale

/-- A flag's entry in a save image changed (R351, R361). -/
def State.onImageFlag (s : State) (space : Nat) (va : DWord) (f : Flag → Flag) : State :=
  match translate s s.allGrants space true va .write with
  | .ok e =>
    let p := e.place va
    let x : Flag := { value := Memory.word s.store.mem p, err := s.store.mem.byte (p + 4) == 1, last := Memory.word s.store.mem (p + 8) }
    let y := f x
    let bs := leBytes 4 y.value.toNat ++ [if y.err then 1#8 else 0#8] ++ leBytes 3 0 ++ leBytes 4 y.last.toNat
    s.coherentWrite noCore (((List.range 12).zip bs).map (fun (q : Nat × Byte) => (p + q.1, q.2))) false none
  | _ => s

/-- A change through a flag handle; the second component tells whether the handle named a flag. -/
def State.onHandle (s : State) (h cid : Nat) (f : Flag → Flag) : State × Bool :=
  match flagPlace s h cid with
  | .core k n => (s.onFlag k n f, true)
  | .glen g n => (s.onGlenFlag g n f, true)
  | .image c va => (s.onImageFlag c va f, true)
  | .stale => (s, false)

/-- The event about a stale handle (R307), to the queue of the team's grid or of the glen program (R355). -/
def State.staleEvent (s : State) (w : Who) (g : Group) (pc : DWord) : State :=
  match w with
  | .gang a =>
    let t := (s.core a.core).team (teamKey w g)
    s.coreRecord a.core t.queue { stop := { code := 0x22 }, aid := coreAid a.core 8, cid := t.cid,
                                  seq := 0, pc := pc } none
  | .glen n =>
    let x := s.glen n
    s.coreRecord x.prog.agent x.prog.queue { stop := { code := 0x22 }, aid := aidOfWho w, cid := x.cid,
                                             seq := 0, pc := pc } none

/-! ## Ring counters (R46, R47) -/

/-- A ring descriptor. -/
def State.ring (s : State) (core r : Nat) : Ring := Sparse.look {} r (s.core core).rings
/-- A ring descriptor changed. -/
def State.onRing (s : State) (core r : Nat) (f : Ring → Ring) : State :=
  s.onCore core (fun c => { c with rings := Sparse.upd {} r f c.rings })

/-- MOD of R47. -/
def Ring.modulus (x : Ring) : Nat := x.count * (65536 / x.count)
/-- A counter advanced by n. -/
def Ring.adv (x : Ring) (k n : Nat) : Nat := (k + n) % x.modulus
/-- The difference of two counters. -/
def Ring.diff (x : Ring) (a b : Nat) : Nat := (a + (x.modulus - b)) % x.modulus
/-- The bytes of a slot. -/
def Ring.slotBytes (x : Ring) : Nat := x.slotsz * 128
/-- The team-relative offset of a counter value's slot. -/
def Ring.slotAt (x : Ring) (k : Nat) : Nat := x.base + k % x.count * x.slotBytes
/-- Room to reserve n slots (R49). -/
def Ring.roomFor (x : Ring) (n : Nat) : Bool := x.diff x.rsv x.head + n ≤ x.count
/-- Room to claim n slots (R50). -/
def Ring.claimFits (x : Ring) (n : Nat) : Bool := x.diff x.clm x.head + n ≤ x.count
/-- Has TAIL passed n slots from `first` (R50)? -/
def Ring.passed (x : Ring) (first n : Nat) : Bool := x.diff first x.head + n ≤ x.diff x.tail x.head

/-- The team-relative offset of byte `i` of the concatenation of the slots from counter value `first` (R50, R309). -/
def Ring.byteAt (x : Ring) (first i : Nat) : Nat := x.slotAt (x.adv first (i / x.slotBytes)) + i % x.slotBytes

/-! ## Reservations, claims, commits and pops (R49 to R51) -/

/-- The first hold that still waits. -/
def firstWaiting : List RingHold → Option RingHold
  | [] => none
  | h :: hs => if h.granted then firstWaiting hs else some h

/-- The first hold that still waits granted at a counter value. -/
def grantHold (first : Nat) : List RingHold → List RingHold
  | [] => []
  | h :: hs => if h.granted then h :: grantHold first hs else { h with granted := true, first := first } :: hs

/-- The ownership table of a ring has room for what a hold needs: a thread's grant takes an entry (R51). -/
def Ring.tableRoom (x : Ring) (thread : Bool) : Bool := !thread || x.own.length < 32

/-- The ownership table once a hold is granted at a counter value (R51). -/
def Ring.ownWith (x : Ring) (h : RingHold) (take : Bool) (first : Nat) : List RingOwn :=
  if h.thread then x.own ++ [{ take := take, grp := h.num, n := h.n, first := first }] else x.own

/-- May the first waiting reservation be granted (R49, R51)? -/
def Ring.reserveFits (x : Ring) (h : RingHold) : Bool := x.roomFor h.n && x.tableRoom h.thread

/-- The first waiting reservation granted, where it fits (R49). -/
def Ring.grantReserve (x : Ring) : Ring :=
  match firstWaiting x.producers with
  | none => x
  | some h =>
    if x.reserveFits h then
      { x with producers := grantHold x.rsv x.producers, rsv := x.adv x.rsv h.n, own := x.ownWith h false x.rsv }
    else x

/-- The first waiting claim granted, where it fits (R50). -/
def Ring.grantClaim (x : Ring) : Ring :=
  match firstWaiting x.consumers with
  | none => x
  | some h =>
    if x.claimFits h.n && x.tableRoom h.thread then
      { x with consumers := grantHold x.clm x.consumers, clm := x.adv x.clm h.n, own := x.ownWith h true x.clm }
    else x

/-- TAIL moved past every completed reservation that begins at it, `fuel` at most (R49, R51). -/
def Ring.settleTail (x : Ring) : Nat → Ring
  | 0 => x
  | fuel + 1 =>
    match x.producers.find? (fun h => h.granted && h.done && h.first == x.tail) with
    | some h =>
      ({ x with tail := x.adv x.tail h.n, producers := x.producers.erase h } : Ring).settleTail fuel
    | none =>
      match x.own.find? (fun e => !e.take && e.done && e.first == x.tail) with
      | some e => ({ x with tail := x.adv x.tail e.n, own := x.own.erase e } : Ring).settleTail fuel
      | none => x

/-- HEAD moved past every popped claim that begins at it and that TAIL has passed (R47, R50, R51). -/
def Ring.settleHead (x : Ring) : Nat → Ring
  | 0 => x
  | fuel + 1 =>
    match x.consumers.find? (fun h => h.granted && h.done && h.first == x.head && x.passed h.first h.n) with
    | some h =>
      ({ x with head := x.adv x.head h.n, consumers := x.consumers.erase h } : Ring).settleHead fuel
    | none =>
      match x.own.find? (fun e => e.take && e.done && e.first == x.head && x.passed e.first e.n) with
      | some e => ({ x with head := x.adv x.head e.n, own := x.own.erase e } : Ring).settleHead fuel
      | none => x

/-- The most entries that a settling can consume. -/
def Ring.fuel (x : Ring) : Nat := x.producers.length + x.consumers.length + x.own.length

/-- Commits take effect in reservation order. -/
def Ring.commitAll (x : Ring) : Ring := x.settleTail x.fuel
/-- Pops take effect in claim order. -/
def Ring.popAll (x : Ring) : Ring := x.settleHead x.fuel

/-- The slots of a group's entries of one kind that are not yet done. -/
def ownedSlots (take : Bool) (grp : Nat) (es : List RingOwn) : Nat :=
  (es.filter (fun e => e.take == take && e.grp == grp && !e.done)).foldl (fun n e => n + e.n) 0

/-- n slots of a group's oldest entries of one kind marked done, an entry split where n ends inside it (R51). Entries of a kind
stand in the order of their grants, which is counter order. -/
def markDone (x : Ring) (take : Bool) (grp : Nat) : Nat → List RingOwn → List RingOwn
  | _, [] => []
  | n, e :: es =>
    if n == 0 || e.take != take || e.grp != grp || e.done then e :: markDone x take grp n es
    else if e.n ≤ n then { e with done := true } :: markDone x take grp (n - e.n) es
    else { e with done := true, n := n } :: { e with n := e.n - n, first := x.adv e.first n } :: es

/-- A command's first hold that is not done marked done. -/
def markHold (cmd : Nat) : List RingHold → List RingHold
  | [] => []
  | h :: hs => if h.cmd == cmd && !h.thread && !h.done then { h with done := true } :: hs else h :: markHold cmd hs

/-- A departed group's reservations commit and its takes pop (R51); its waiting holds are withdrawn. -/
def Ring.departs (x : Ring) (grp key : Nat) : Ring :=
  let y := { x with own := x.own.map (fun e => if e.grp == grp then { e with done := true } else e)
                    producers := x.producers.filter (fun h => !(h.thread && h.group == key))
                    consumers := x.consumers.filter (fun h => !(h.thread && h.group == key)) }
  if x.valid then y.commitAll.popAll else y

/-- The handle of a ring (R83). -/
def ringHandle (s : State) (core r : Nat) : Nat :=
  dieOfCore core * 2 ^ 30 + core % 160 * 2 ^ 22 + r * 2 ^ 15 + (s.ring core r).gen.toNat

/-- The team of a core that holds a physical ring. -/
def ringTeam (c : Core) (r : Nat) : Option (Nat × Team) := c.crew.teams.find? (fun t => t.2.live && t.2.res.rings.contains r)

/-- The core and ring that a handle names for an agent of a context, or none where it is stale (R83). -/
def ringPlace (s : State) (h cid : Nat) : Option (Nat × Nat) :=
  let unit := h / 2 ^ 22 % 256
  let core := h / 2 ^ 30 % 4 * 160 + unit
  let r := h / 2 ^ 15 % 128
  if 160 ≤ unit || h / 2 ^ 8 % 128 != 0 then none
  else
    let x := s.ring core r
    match ringTeam (s.core core) r with
    | some (_, t) => if x.valid && x.gen.toNat == h % 256 && t.cid == cid then some (core, r) else none
    | none => none

end Sys2Proof.Machine
end

