-- ==== Sys2Proof/Machine/Commands.lean ====
section
/-! DEFINITION. What every engine command is to the rest of the machine (R302, R303, R350): its unit and identity, the lines
and ring slots it holds, and its completion. -/

namespace Sys2Proof.Machine

/-! ## Units (R302) -/

/-- The queue that takes a command: 1 copy engine, 2 matrix array, 3 tile unit, 4 per-die path, numbered as R362 numbers
the units. -/
def unitOf (i : Instr) : Nat :=
  match i with
  | .cpy _ | .cpym _ => 1
  | .mma _ | .mmas _ | .attn _ => 2
  | .massfold _ | .kvtrunc _ | .evict _ | .coll _ | .bfqpost _ | .bfqtake _ | .bfqdone _ => 4
  | _ => 3

/-- KIND of the unit in an agent identity (R356). -/
def unitKind (i : Instr) : Nat :=
  match i with
  | .massfold _ | .kvtrunc _ | .evict _ => 4
  | .coll _ => 5
  | .bfqpost _ | .bfqtake _ | .bfqdone _ => 6
  | _ => unitOf i

/-- The flag that a command names (R303), where its FV bit is set. -/
def flagField (i : Instr) : Option Nat :=
  let ext (o : EOp) : Option Nat := if o.ext.getLsbD 6 then some (o.ext.extractLsb' 0 6).toNat else none
  let mod (o : ROp) : Option Nat := if o.mod.getLsbD 6 then some (o.mod.extractLsb' 0 6).toNat else none
  match i with
  | .cpy o | .cpym o | .mma o | .mmas o | .attn o | .evict o | .coll o | .bfqpost o => ext o
  | .massfold o | .kvtrunc o => mod o
  | .tst o => if o.ext.getLsbD 12 then some (o.ext.extractLsb' 6 6).toNat else none
  | _ => none

/-- The command's batch-forming queue, for its identity. -/
def bfqField (i : Instr) : Nat :=
  match i with
  | .bfqpost o => (o.ext.extractLsb' 7 6).toNat
  | .bfqtake o => (o.ext.extractLsb' 0 6).toNat
  | .bfqdone o => (o.mod.extractLsb' 0 6).toNat
  | _ => 0

/-- The identity of a command's unit (R386). -/
def cmdAid (core : Nat) (i : Instr) : Word :=
  if unitOf i == 4 then dieAid (dieOfCore core) (unitKind i) (bfqField i) else coreAid core (unitKind i)

/-- A command of a core. -/
def Core.cmd (c : Core) (id : Nat) : Option Cmd := c.cmds.find? (fun d => d.id == id)

/-- A command changed. -/
def State.onCmd (s : State) (core id : Nat) (f : Cmd → Cmd) : State :=
  s.onCore core (fun c => { c with cmds := c.cmds.map (fun d => if d.id == id then f d else d) })

/-- Has the unit begun it? -/
def Cmd.begun (d : Cmd) : Bool := d.phase == .started || d.phase == .finished

/-! ## Lines held -/

/-- Every line that a command still holds released (R133). -/
def State.disown (s : State) (unit cmd : Nat) : State :=
  s.onStore (fun m => { m with owners := m.owners.filter (fun o => !(o.unit == unit && o.cmd == cmd)) })

/-! ## Records and completion -/

/-- The key of a command's reservation among the holds of a ring; every third key, the others being those of claims. -/
def holdKey (unit id : Nat) : Nat := 1024 * (3 * id) + unit

/-- The group key of a command's issuer. -/
def Cmd.groupKey (d : Cmd) : Nat := threadKey d.who

/-- A record about a command (R386). -/
def State.cmdRecord (s : State) (core : Nat) (d : Cmd) (x : Stop) (asy : Bool) (about : Option RecordOf) : State :=
  let t := (s.core core).team d.team
  let r : Rec := { stop := { x with slot := d.slot }, aid := cmdAid core d.op, cid := d.cid, asy := asy, seq := 0, pc := d.pc,
                   smask := d.slices.foldl (fun m k => m + 2 ^ k) 0, amask := d.amask }
  s.coreRecord core t.queue r about

/-- A finished command's holds on a ring: granted slots are committed or popped, waiting ones withdrawn. -/
def Ring.dropHolds (x : Ring) (keys : List Nat) : Ring :=
  let mine (h : RingHold) : Bool := !h.thread && keys.contains h.cmd
  if (x.producers ++ x.consumers).any mine then
    let ended (hs : List RingHold) : List RingHold :=
      (hs.filter (fun h => !(mine h && !h.granted))).map (fun h => if mine h then { h with done := true } else h)
    ({ x with producers := ended x.producers, consumers := ended x.consumers } : Ring).commitAll.popAll
  else x

/-- Every hold of a unit's command or program dropped. -/
def State.dropHolds (s : State) (keys : List Nat) : State :=
  s.cores.foldl (fun s p =>
    p.2.rings.foldl (fun s r =>
      if (r.2.producers ++ r.2.consumers).any (fun h => !h.thread && keys.contains h.cmd) then s.onRing p.1 r.1 (fun x => x.dropHolds keys)
      else s) s) s

/-- The keys of a command's claims; `w` tells them apart. -/
def claimKey (core id w : Nat) : Nat := 1024 * (3 * id + 1 + w) + core

/-- A command leaves the machine: its lines and ring slots are released. -/
def State.dropCmd (s : State) (core : Nat) (d : Cmd) : State :=
  let s := s.onCore core (fun c => { c with cmds := c.cmds.filter (fun x => x.id != d.id) })
  ((s.disown core d.id).dropHolds (if unitOf d.op == 1 then [holdKey core d.id] else [claimKey core d.id 0, claimKey core d.id 1])).tellCut

/-- A command ends (R303): its flag is incremented with ERR where it met an error; without a flag an error is told by an event,
where none has told it yet. -/
def State.endCmd (s : State) (core : Nat) (d : Cmd) (err told : Bool) : State :=
  let e := d.err || err
  let t := (s.core core).team d.team
  let s := s.dropCmd core d
  match flagField d.op with
  | some n => s.signal core (t.res.fbase + n) d.groupKey e (cmdAid core d.op)
  | none => if e && !told then s.cmdRecord core d { code := 0x22 } false none else s

/-- A command completes (R303). -/
def State.finishCmd (s : State) (core : Nat) (d : Cmd) (err : Bool) : State := s.endCmd core d err false

end Sys2Proof.Machine
end

