-- ==== Sys2Proof/Machine/Stops.lean ====
section
/-! DEFINITION. How an issuing bundle ends: taking a stop (R353 to R360, R365), a wait (R172), or completing; the exit of
slices and groups (R148), the end of a team (R358) and the resumption of a stopped gang (R375). -/

namespace Sys2Proof.Machine

/-! ## Exit (R148, R235) -/

/-- The team number of a group for ring ownership (R51, R142). -/
def Group.number (g : Group) : Nat := g.gid.num

/-- A group that has ended: its halves return to the SIMT decoder (R235) and its ring entries commit and pop (R51). -/
def Core.groupEnds (c : Core) (key : Nat) : Core :=
  let g := Sparse.look (groupZero key) key c.groups
  let t := c.team (8 * (key / 16) + g.gid.team)
  let gs := Sparse.put (groupZero key) key { g with vliw := false, holds := [] } c.groups
  { c with groups := gs, rings := t.res.rings.foldl (fun m r => Sparse.upd {} r (fun x => x.departs g.number key) m) c.rings }

/-- Slices exited; loads and refills to them are discarded on arrival (R235). -/
def Group.exitSlices (g : Group) (ks : List Nat) : Group :=
  let lost (k : Nat) : Bool := ks.contains (k % 32 / 4)
  let h := g.onSlices ks (fun x => { x with exited := true, run := .running, debugStopped := false })
  { h with inflight := h.inflight.map (fun r => if r.load then { r with lanes := r.lanes.filter (fun p => !lost p.1) } else r) }

/-- The slices of a gang exit, and the group ends with its last slice (R148). -/
def State.exitGang (s : State) (a : GangAt) (ks : List Nat) : State :=
  let s := s.onGroupAt a.core a.bank a.slot (fun g => g.exitSlices ks)
  if (s.groupAt a.core a.bank a.slot).live.isEmpty then s.onCore a.core (fun c => c.groupEnds (slotKey a.bank a.slot)) else s

/-! ## Freezing a bank (R360) -/

/-- A bank frozen or released. -/
def State.freeze (s : State) (core bank : Nat) (on : Bool) : State :=
  s.onCore core (fun c => { c with crew := { c.crew with frozen := Sparse.put false bank on c.crew.frozen } })

/-- The loads, atomic returns and refills that the groups of a bank have issued written back in the order of their issue, before the
record of a replayable fault goes out (R360). -/
def State.landBank (s : State) (core bank : Nat) : State :=
  s.onCore core (fun c => { c with groups := c.groups.map (fun p => if p.1 / 16 == bank && p.1 != 15 then (p.1, p.2.landLoads) else p) })

/-- Is there an outstanding replayable fault of a gang of the bank? -/
def faultsOut (s : State) (core bank : Nat) : Bool :=
  s.host.outs.any (fun o => o.code == 1 && (match o.about with | .gang (.gang a) _ => a.core == core && a.bank == bank | _ => false))

/-- A bank released once every outstanding fault of it has been answered. -/
def State.thaw (s : State) (core bank : Nat) : State := if faultsOut s core bank then s else s.freeze core bank false

/-! ## The end of a team (R358) -/

/-- The keys of a team's groups. -/
def teamGroups (c : Core) (team : Nat) : List Nat :=
  (c.groups.filter (fun p => p.2.gid.live && p.1 != 15 && 8 * (p.1 / 16) + p.2.gid.team == team)).map Prod.fst

/-- Every gang of the team ends, its queued tasks are dropped and its paused commands end (R358); it retires once its
other commands have completed. -/
def State.endTeam (s : State) (core team : Nat) (x : Stop) : State :=
  if !((s.core core).team team).live then s
  else
    let s := (teamGroups (s.core core) team).foldl (fun s k =>
      let s := s.onCore core (fun c => c.onGroupK k (fun g => g.exitSlices (List.range 8)))
      s.onCore core (fun c => c.groupEnds k)) s
    let s := s.onCore core (fun c =>
      let tasks := c.crew.tasks.filter (fun q => q.team != team)
      ({ c with crew := { c.crew with tasks := tasks } } : Core).onTeam team (fun t => { t with ending := some x }))
    let s := s.onHost (fun h => { h with outs := h.outs.filter (fun o =>
      match o.about with
      | .gang (.gang a) _ => !(a.core == core && 8 * a.bank + (s.groupAt a.core a.bank a.slot).gid.team == team)
      | .cmd k i => !(k == core && (s.core core).cmds.any (fun d => d.id == i && d.team == team))
      | _ => true) })
    let paused := (s.core core).cmds.filter (fun d => d.team == team && d.paused.isSome)
    (paused.foldl (fun s d => s.finishCmd core d true) s).thaw core (team / 8)

/-- A glen program ends: its issue stops, its accepted commands complete (R78). -/
def State.endGlen (s : State) (n : Nat) (failed : Bool) : State :=
  s.onGlen n (fun g => { g with prog := { g.prog with ended := true, failed := g.prog.failed || failed } })

/-! ## Taking a stop: the one shared operation -/

/-- Is the cause a debug stop (R365)? -/
def isDebugStop (code : Nat) : Bool := 0x12 ≤ code && code ≤ 0x14

/-- Does the cause stop only the gang (the Stops column of R353)? -/
def stopsGang (x : Stop) : Bool := x.code == 0x04 || (0x10 ≤ x.code && x.code ≤ 0x14)

/-- With dctl.ALL every gang of the team stops at its next boundary (R365). -/
def State.debugAll (s : State) (core team : Nat) : State :=
  if (s.core core).agent.dctlAll then
    (teamGroups (s.core core) team).foldl (fun s k =>
      s.onCore core (fun c => c.onGroupK k (fun g =>
        { g with slices := g.slices.map (fun x => if x.exited then x else { x with debugStopped := true }) }))) s
  else s

/-- The SYSC service of a code performed by the agent: s0 to s7 take what its build gives them (R252). -/
def Group.service (g : Group) (free code : Nat) : Group :=
  (List.range 8).foldl (fun g n => g.setSreg n (Config.syscResult free code ((List.range 8).map g.sreg) n)) g

/-- The gang of the issuing bundle stops with cause `x` (R353 to R360): `after` tells the Point. The slices keep the
address they resume at; the record goes out; a replayable fault freezes the bank; a cause that stops the team ends it;
SYSC is served and the gang goes on. -/
def State.takeStop (s : State) (c : Issue) (x : Stop) (after : Bool) : State :=
  match c.who with
  | .glen n =>
    let g := s.glen n
    let r : Rec := { stop := x, aid := aidOfWho c.who, cid := g.cid, seq := 0, pc := c.pc }
    let s := s.coreRecord g.prog.agent g.prog.queue r (some (.gang c.who c.slices))
    let s := s.onGroup c.who (fun h => h.onSlices c.slices (fun y => { y with run := .stopped x after }))
    if x.rpl then s else (s.forgetRefused g.cid x.xlat).endGlen n true
  | .gang a =>
    let t := (s.core a.core).team (teamKey c.who c.snap)
    let s := s.traceGang 3 4 c.who c.snap c.slices c.pc c.mask (BitVec.ofNat 32 x.code) (BitVec.ofNat 64 (s.core a.core).recSeq)
    if isAgent c.who then
      (s.onGroup c.who (fun h => h.onSlices c.slices (fun y => { y with run := .stopped x after }))).onCore a.core
        (fun k => { k with agent := { k.agent with program := false } })
    else
      let r : Rec := { stop := x, aid := aidOfWho c.who, cid := t.cid, seq := 0, pc := c.pc, smask := sliceMask c.snap c.slices, amask := c.mask }
      let s := (if x.rpl then s.landBank a.core a.bank else s).coreRecord a.core t.queue r (some (.gang c.who c.slices))
      if x.code == causeSysc then
        { s with free := s.free + 1 }.onGroup c.who (fun h => h.service s.free x.info.toNat)
      else
        let s := s.onGroup c.who (fun h => h.onSlices c.slices (fun y =>
          { y with run := .stopped x after, pend := (match y.run with | .waiting w _ => if after then some w else none | _ => none),
                   debugStopped := y.debugStopped || isDebugStop x.code }))
        let s := match x.tag with
          | some tag => if x.rpl then s.countTag c tag 3 1 else s
          | none => s
        if isDebugStop x.code then s.debugAll a.core (teamKey c.who c.snap)
        else if x.rpl then s.freeze a.core a.bank true
        else if stopsGang x then s
        else (s.forgetRefused t.cid x.xlat).endTeam a.core (teamKey c.who c.snap) x

/-! ## Waiting (R172) -/

/-- The waits of the bundle that have already ended. -/
def hadWaits (r : Run) : List Wait :=
  match r with
  | .woken had => had
  | .waiting _ had => had
  | _ => []

/-- The key of a gang among the holds of a ring: its group and lowest slice. -/
def gangKey (w : Who) (c : Issue) : Nat := 8 * threadKey w + c.low

/-- A gang's hold on n slots of a ring, as it would be granted (R51). -/
def newHold (c : Issue) (n : Nat) : RingHold :=
  { cmd := gangKey c.who c, thread := true, group := threadKey c.who, num := c.snap.number, n := n }

/-- A thread's place in a ring's order (R49, R50), taken once. -/
def State.joinRing (s : State) (c : Issue) (r : Nat) (take : Bool) (n : Nat) : State :=
  let key := gangKey c.who c
  let h := newHold c n
  s.onRing (coreOf c.who) r (fun x =>
    let mine := (if take then x.consumers else x.producers).any (fun y => y.thread && y.cmd == key)
    if mine then x else if take then { x with consumers := x.consumers ++ [h] } else { x with producers := x.producers ++ [h] })

/-- A demand copy of a glen segment (R90): it waits for a copy in progress, then takes its frame; the stall counts from the
cycle in which issue first waited. -/
def State.demandSegment (s : State) (n seg : Nat) : State :=
  let g := s.glen n
  let f := Sparse.look {} (seg % 4) g.frames
  let since := match g.demand with | some (k, t) => if k == seg then t else s.now | none => s.now
  let s := s.onGlen n (fun g => { g with demand := some (seg, since) })
  if f.filling && f.seg == seg then
    (if f.demand then s
     else s.onGlen n (fun g => { g with frames := Sparse.upd {} (seg % 4) (fun f => { f with demand := true, since := since }) g.frames }))
  else if g.frames.any (fun p => p.2.filling) then s
  else
    let f : Frame := { valid := true, seg := seg, filling := true, demand := true, since := since, due := s.now + 380 }
    s.onGlen n (fun g => { g with frames := Sparse.put {} (seg % 4) f g.frames })

/-- The background copy that a marked bundle starts (R91). -/
def State.markSegment (s : State) (n : Nat) (pc : DWord) : State :=
  let g := s.glen n
  let seg := pc.toNat / 8192
  let next := ((g.segs[seg]?).getD {}).next
  let f := Sparse.look {} (next % 4) g.frames
  if next == 0xFFFF || (f.valid && f.seg == next) || next % 4 == seg % 4 || g.frames.any (fun p => p.2.filling) then s
  else
    let f : Frame := { valid := true, seg := next, filling := true, since := s.now, due := s.now + 380 }
    s.onGlen n (fun g => { g with frames := Sparse.put {} (next % 4) f g.frames })

/-- The gang of the issuing bundle waits; nothing of the bundle has taken effect. -/
def State.takeWait (s : State) (c : Issue) (w : Wait) : State :=
  let had := hadWaits (c.snap.slice c.low).run
  let s := match w with
    | .ring r take n => s.joinRing c r take n
    | .segment n => (match c.who with | .glen k => s.demandSegment k n | .gang _ => s)
    | .save t => (s.onCore (coreOf c.who) (fun k => k.onTeam t (fun x => { x with parked := true }))).writeOutWhere (coreOf c.who)
        (fun e => e.threads.any (fun x => (teamGroups (s.core (coreOf c.who)) t).contains x.1))
    | _ => s
  match w with
  | .poll | .segment _ | .save _ => s.onGroup c.who (fun g => g.onSlices c.slices (fun y => { y with ready := s.now + 1, run := if had.isEmpty then .running else .woken had }))
  | _ => s.onGroup c.who (fun g => g.onSlices c.slices (fun y => { y with run := .waiting w had, began := s.now }))

/-- Has the bundle's wait of this kind already ended? -/
def Issue.had (c : Issue) (w : Wait) : Bool := (hadWaits (c.snap.slice c.low).run).contains w

/-- A waiting slice woken. -/
def Slice.wakeUp (y : Slice) (ready : Nat) (value : DWord) : Slice :=
  match y.run with
  | .waiting w had => { y with run := .woken (w :: had), ready := ready, wake := value }
  | _ => y

/-! ## Completion -/

/-- The bundles that a slice goes on at: the branch target recorded for it, or the next bundle. -/
def Issue.target (c : Issue) (k : Nat) : DWord := Sparse.look c.next k c.npc

/-- The gang split by next program counter (R146): each set's number is its lowest slice. -/
def gangNumber (c : Issue) (k : Nat) : Nat := (c.slices.find? (fun j => c.target j == c.target k)).getD k

/-- The slices of a bundle that has completed. -/
def Issue.advance (c : Issue) (now : Nat) (k : Nat) (y : Slice) : Slice :=
  { y with
    pc := c.target k
    gang := if c.parts then gangNumber c k else y.gang
    run := if y.run matches .stopped .. then y.run else .running
    ready := Nat.max y.ready (now + 1 + (if c.moved.contains k then c.bubble else 0))
    aged := false
    since := now
    wake := 0 }

/-- What the control operation does at the end of its bundle. -/
def State.close (s : State) (c : Issue) : State :=
  let waits (w : Wait) : State := s.onGroup c.who (fun g => g.onSlices c.slices (fun y => { y with run := .waiting w [] }))
  match c.close with
  | .plain => s
  | .regang => waits .regang
  | .mode _ => waits .mode
  | .tlbi => waits (.tlbi true)
  | .exit =>
    (match c.who with
     | .gang a => s.exitGang a c.slices
     | .glen n => s.endGlen n false)
  | .halt =>
    s.onCore (coreOf c.who) (fun k => { k with agent := { k.agent with halted := k.agent.events.isEmpty } })
  | .eret =>
    let s := s.onGroup c.who (fun g => g.onSlices c.slices (fun y => { y with pc := (s.core (coreOf c.who)).agent.epc }))
    s.onCore (coreOf c.who) (fun k => { k with agent := { k.agent with een := true } })

/-- A bundle whose operations have all taken effect: program counters, parting, the results of a glen core (R77), the
passes of a VLIW thread (R164), the copy that a glen bundle's mark starts (R91), and the After stops, the first of which stands (R353). -/
def State.complete (s : State) (c : Issue) : State :=
  let s := { s with issue := none }
  let s := s.onGroup c.who (fun g =>
    let g := c.slices.foldl (fun g k => g.onSlice k (c.advance s.now k)) g
    if isGlen c.who then g.landAll else if g.vliw then g.advancePasses else g)
  let s := s.tellCut.close c
  let s := match c.who with | .glen n => if c.marked then s.markSegment n c.pc else s | .gang _ => s
  match c.after with
  | [] => s
  | x :: _ => s.takeStop c x true

/-- The end of a bundle by its status: complete, or from the state in which it began a stop or a wait. -/
def State.finishFrom (s0 s : State) : State :=
  match s.issue with
  | none => s0
  | some c =>
    match c.status with
    | .ok => s.complete c
    | .stop x => { s0 with issue := none }.takeStop c x false
    | .wait w => { s0 with issue := none }.takeWait c w

/-! ## Resumption (R252, R365, R375) -/

/-- How a slice goes on after an After stop: what its bundle left it waiting for still stands (R147, R159). -/
def Slice.afterStop (y : Slice) : Run := match y.pend with | some w => .waiting w [] | none => .running

/-- A stopped slice goes on: a Before stop replays its bundle, an After stop continues at the next one. -/
def Slice.resume (y : Slice) : Slice :=
  { y with run := (match y.run with | .stopped .. => y.afterStop | r => r), debugStopped := false, pend := none }

/-- The gang of an answered record resumes; after a debug stop the increments held for its group are applied, and with
dctl.ALL the rest of the team goes on (R365). -/
def State.resumeGang (s : State) (w : Who) (slices : List Nat) (debug : Bool) : State :=
  let s := s.onGroup w (fun g => g.onSlices slices (fun y =>
    { y.resume with run := (match y.run with
        | .stopped x false => if x.code == causeBreakpoint then .woken [] else .running
        | _ => y.afterStop) }))
  match w with
  | .gang a =>
    if debug then
      let team := teamKey w (s.groupOf w)
      let s := if (s.core a.core).agent.dctlAll then
        (teamGroups (s.core a.core) team).foldl (fun s k =>
          s.onCore a.core (fun c => c.onGroupK k (fun g => { g with slices := g.slices.map (fun x =>
            match x.run with | .stopped .. => x | _ => { x with debugStopped := false }) }))) s
        else s
      (teamGroups (s.core a.core) team).foldl (fun s k =>
        if groupStopped (((s.core a.core).groupK k)) then s else s.releaseHeld a.core k) s
    else s
  | .glen _ => s

end Sys2Proof.Machine
end

