-- ==== Sys2Proof/Machine/Control.lean ====
section
/-! DEFINITION. The meanings of the control operations: branches, calls and returns with their spills and refills,
structured control, gangs, decoders, fetch, tasks and election (R146 to R171, R229 to R239). -/

namespace Sys2Proof.Machine

/-! ## Branches (R230, R231) -/

/-- A transfer of slices to a target, with the cycles of its bubble (R228) and its trace record. -/
def State.jump (s : State) (c : Issue) (ks : List Nat) (tgt : DWord) (bubble : Nat) : State :=
  if ks.isEmpty then s
  else
    let s := s.traceGang 1 1 c.who c.snap c.slices c.pc c.mask 0 tgt
    s.onIssue (fun i => { i with npc := ks.foldl (fun m k => Sparse.put c.next k tgt m) i.npc, moved := i.moved ++ ks, bubble := bubble })

/-- The target of a format B operation. -/
def branchTarget (c : Issue) (o : BOp) : DWord := c.pc + o.off.signExtend 64

/-- The condition of BRA in a lane (R230). -/
def braHit (c : Issue) (o : BOp) (l : Nat) : Bool := (laneVal c c.snap .b32 o.c l % 2 ^ 32 != 0) != o.mod.getLsbD 0

/-- Does a slice take the branch (R230)? -/
def braTaken (c : Issue) (o : BOp) (k : Nat) : Bool :=
  let act := (List.range 4).filter (fun j => c.snap.active k j)
  match o.form.toNat with
  | 0 => braHit c o 0
  | 1 => act.any (fun j => braHit c o (4 * k + j))
  | _ => !act.isEmpty && act.all (fun j => braHit c o (4 * k + j))

/-- BRA (R230, R146). -/
def execBra (o : BOp) (s : State) : Host.Outcome State Fault Refusal :=
  .next (s.during (fun c =>
    let tgt := branchTarget c o
    let ks := c.slices.filter (braTaken c o)
    let s := if o.form != 0#2 && !ks.isEmpty && ks.length < c.slices.length then
        s.traceGang 2 2 c.who c.snap c.slices c.pc c.mask (BitVec.ofNat 32 (sliceMask c.snap ks)) tgt
      else s
    (s.jump c ks tgt 1).onIssue (fun i => { i with parts := o.form != 0#2 })))

/-- BRX (R231). -/
def execBrx (o : ROp) (s : State) : Host.Outcome State Fault Refusal :=
  .next (s.during (fun c => s.jump c c.slices (c.sval o.a &&& ~~~3#64) 1))

/-! ## Calls and returns (R154, R232, R75) -/

/-- The slices whose control stacks a gang's operations act on: a VLIW thread uses that of its lowest slice (R159). -/
def stackSlices (c : Issue) : List Nat := if c.snap.vliw then [0] else c.slices

/-- Does the gang hold every live slice of its group? -/
def wholeGang (c : Issue) : Bool := c.snap.live == c.slices

/-- The physical register of a logical register of the register stack (R153). -/
def Group.logical (g : Group) (n : Nat) : Nat := g.gid.rbase + n % g.gid.rsb

/-- The lanes of a unit of eight logical registers as local pieces from address `a` (R61): word j of lane l. -/
def unitPieces (g : Group) (a : Word) : List (Nat × List (GAddr × Nat)) :=
  (List.range g.width).map (fun l => (l, (List.range 8).flatMap (fun j => localPieces g (a + BitVec.ofNat 32 (4 * j)) 4 l [(0, 4)])))

/-- Several units' pieces, lane by lane: unit i of the list at its address. -/
def unitsPieces (g : Group) (as : List Word) : List (Nat × List (GAddr × Nat)) :=
  (List.range g.width).map (fun l => (l, as.flatMap (fun a =>
    (List.range 8).flatMap (fun j => localPieces g (a + BitVec.ofNat 32 (4 * j)) 4 l [(0, 4)]))))

/-- Is any lane register among these physical ones empty or awaiting a result? -/
def Group.pendingPhys (g : Group) (ps : List Nat) : Bool :=
  g.inflight.any (fun r => r.lanes.any (fun p => ps.contains (p.1 / 32)))

/-- The words of a lane for the logical registers of the spilled units, with their poison. -/
def spillWords (g : Group) (bot k l : Nat) : List (Word × Bool) :=
  (List.range (8 * k)).map (fun i =>
    let key := 32 * g.logical (bot + i) + l
    (Sparse.look 0 key g.lanes.v, Sparse.look false key g.lanes.poison))

/-- The policy and reuse class of spills and refills, which R61 does not name: those of an access that names none, .std and class 1
(R223, R283; DESIGN CHOICE, log entry 64). -/
def stackPolicy : Nat := 4

/-- The stores of a spill: each lane's words at its places line by line, poisoned words apart (R61, R72). -/
def State.spillLane (s : State) (c : Issue) (op : Nat) (l : GLane) (ws : List (Word × Bool)) : State :=
  let bs := (l.places.zip (ws.flatMap (fun w => (leBytes 4 w.1.toNat).map (fun b => (b, w.2)))))
  let put (s : State) (bad : Bool) : State :=
    let part := (bs.filter (fun (b : Nat × Byte × Bool) => b.2.2 == bad)).map (fun b => (b.1, b.2.1))
    ((part.map (fun b => lineOf b.1)).dedup).foldl (fun s line =>
      s.storeLine (coreOf c.who) op (threadKey c.who) (threadLane c l.lane) l stackPolicy false none line (part.filter (fun b => lineOf b.1 == line)) bad) s
  put (put s false) true

/-- The stack-limit stop of a CALL (R61, R154, R367). -/
def callLimit (g : Group) (k : Nat) : Bool :=
  (g.win.sp.toNat : Int) - 32 * k < g.win.lim.toNat || (k != 0 && g.win.lsize < g.win.sp)

/-- CALL with window size `n` to a target (R154). -/
def State.callTo (s : State) (site : Site) (n : Nat) (tgt : DWord) : State :=
  s.during (fun c =>
    let g := c.snap
    let push (cws spn : Nat) (s : State) : State :=
      let e : Entry := { kind := .callE, addr := c.next, cws := BitVec.ofNat 3 cws, spn := BitVec.ofNat 3 spn }
      s.onGroup c.who (fun h => h.onSlices (stackSlices c) (fun y => { y with stack' := e :: y.stack' }))
    if isGlen c.who || isAgent c.who then
      (if n != 8 then s.illegalOperation site
       else if (if isGlen c.who then 8 else 16) ≤ (g.slice c.low).stack'.length then s.controlOverflow site
       else (push 0 0 s).jump c c.slices tgt 1)
    else if !wholeGang c then s.illegalOperation site
    else
      let nb := g.win.wb + g.win.ws - 8
      let k := (Int.toNat ((nb + n : Int) - g.win.bot - g.gid.rsb)) / 8
      if (stackSlices c).any (fun j => 16 ≤ (g.slice j).stack'.length) then s.controlOverflow site
      else if callLimit g k then
        s.stopAt { code := causeStackLimit, slot := slotNumber site.slot, aux := BitVec.ofNat 64 ((g.win.sp - BitVec.ofNat 32 (32 * k)).toNat) }
      else if g.pendingPhys ((List.range (8 * k)).map (fun i => g.logical (g.win.bot + i))) then s.waitFor .poll
      else
        let as := (List.range k).map (fun i => g.win.sp - BitVec.ofNat 32 (32 * (i + 1)))
        let ps := if k == 0 then [] else unitsPieces g as
        s.reach c site 0 .write ps (fun ls s =>
          let op := (s.core (coreOf c.who)).caches.nextStore
          let s := ls.foldl (fun s l => s.spillLane c op l (spillWords g g.win.bot k l.lane)) s
          let s := push (g.win.ws / 8 - 1) k s
          let s := s.onGroup c.who (fun h => { h with win := { h.win with
            wb := nb, ws := n, bot := g.win.bot + 8 * k, sp := g.win.sp - BitVec.ofNat 32 (32 * k) } })
          s.jump c c.slices tgt (1 + 8 * k)))

/-- CALL (R232). -/
def execCall (o : BOp) (s : State) : Host.Outcome State Fault Refusal :=
  .next (s.during (fun c => s.callTo o.at' (8 * ((o.mod.extractLsb' 0 3).toNat + 1)) (branchTarget c o)))

/-- CALLX (R232). -/
def execCallx (o : ROp) (s : State) : Host.Outcome State Fault Refusal :=
  .next (s.during (fun c => s.callTo o.at' (8 * ((o.mod.extractLsb' 0 3).toNat + 1)) (c.sval o.a &&& ~~~3#64)))

/-- A refilled lane: the words read for the logical registers from `bot` down, unit by unit, with their poison (R61,
R73). -/
def refillLane (s : State) (c : Issue) (g : Group) (bot : Nat) (l : GLane) : List (Nat × Word × Bool) :=
  let words := (List.range (l.places.length / 4)).map (fun i => (l.places.drop (4 * i)).take 4)
  words.zipIdx.map (fun w =>
    let reg := bot - 8 * (w.2 / 8 + 1) + w.2 % 8
    (32 * g.logical reg + l.lane,
     BitVec.ofNat 32 (leNat (w.1.map (s.seenByte (coreOf c.who) (threadKey c.who) (threadLane c l.lane)))), w.1.any s.isPoisoned))

/-- The slices whose stacks CALL and RET act on: every live one (R154), of a VLIW thread the lowest (R159). -/
def returnSlices (c : Issue) : List Nat := if isGlen c.who || isAgent c.who then c.slices else if c.snap.vliw then [0] else c.snap.live

/-- RET (R154, R232). ret() names no whole gang: a parted gang's RET pops every live slice's stack and moves the gang that
issues it (DEDUCED, log entry 63). Like a CALL's spill, a refill waits for the results on their way to its registers. -/
def execRet (o : ROp) (s : State) : Host.Outcome State Fault Refusal :=
  .next (s.during (fun c =>
    let g := c.snap
    let site := o.at'
    let pop (s : State) : State := s.onGroup c.who (fun h => h.onSlices (returnSlices c) (fun y => { y with stack' := y.stack'.tail }))
    if (returnSlices c).any (fun j => (g.slice j).stack'.head?.map Entry.kind != some .callE) then s.controlOverflow site
    else
      match (g.slice c.low).stack'.head? with
      | none => s.controlOverflow site
      | some e =>
        if isGlen c.who || isAgent c.who then (pop s).jump c c.slices e.addr 1
        else
          let k := e.spn.toNat
          let as := (List.range k).map (fun i => g.win.sp + BitVec.ofNat 32 (32 * i))
          let out := as.filter (fun a => g.win.lsize.toNat ≤ a.toNat + 31)
          if !out.isEmpty then s.stopAt (addrStop causeStackLimit (slotNumber site.slot) (out.map BitVec.toNat))
          else if g.pendingPhys ((List.range (8 * k)).map (fun i => g.logical (g.win.bot - 8 * k + i))) then s.waitFor .poll
          else
            s.reach c site 0 .read (if k == 0 then [] else unitsPieces g as) (fun ls s =>
             let r := s.settleLoad c none ls
             if !r.2 then s.waitFor .poll
             else
              let s := r.1
              let vals := ls.flatMap (refillLane s c g g.win.bot)
              let lat := ls.foldl (fun m l => l.places.foldl (fun m p => Nat.max m (loadLatency s (coreOf c.who) p)) m) 30
              let s := ls.foldl (fun s l => s.touch (coreOf c.who) (gridKey s c) false l stackPolicy) s
              let s := pop s
              let cw := 8 * (e.cws.toNat + 1)
              let s := s.onGroup c.who (fun h => { h with win := { h.win with
                wb := g.win.wb + 8 - cw, ws := cw, bot := g.win.bot - 8 * k, sp := g.win.sp + BitVec.ofNat 32 (32 * k) } })
              let s := if k == 0 then s else s.onGroup c.who (fun h => h.post { lanes := vals, due := s.now + lat, empties := true, load := true })
              s.jump c c.slices e.addr (if k != 0 && g.vliw && g.exposed then lat else 1))))

/-! ## Structured control (R149 to R151, R165, R233) -/

/-- A nesting counter set. -/
def Group.setNc (g : Group) (lane n : Nat) : Group := { g with lanes := { g.lanes with nc := Sparse.put 0 lane n g.lanes.nc } }

/-- The lanes of slices. -/
def lanesOf (ks : List Nat) : List Nat := ks.flatMap (fun k => (List.range 4).map (fun j => 4 * k + j))

/-- Nesting counters of slices mapped. -/
def Group.mapNc (g : Group) (ks : List Nat) (f : Nat → Nat → Nat) : Group :=
  (lanesOf ks).foldl (fun h l => h.setNc l (f l (g.nc l))) g

/-- Would raising the nonzero counters of the slices pass 15 (R150)? -/
def ncFull (g : Group) (ks : List Nat) : Bool := (lanesOf ks).any (fun l => 15 ≤ g.nc l)

/-- An entry pushed on every slice. -/
def Group.push (g : Group) (ks : List Nat) (e : Slice → Entry) : Group := g.onSlices ks (fun y => { y with stack' := e y :: y.stack' })

/-- FMT takes the control fields of an entry and keeps its sticky flags (R151). -/
def restoreFmt (cur saved : Word) : Word := (saved &&& ~~~0x1F#32) ||| (cur &&& 0x1F#32)

/-- The top entries popped, FMT restored from them. -/
def Group.popFmt (g : Group) (ks : List Nat) : Group :=
  g.onSlices ks (fun y =>
    match y.stack' with
    | e :: es => { y with stack' := es, fmt := restoreFmt y.fmt e.fmt }
    | [] => y)

/-- Does every slice have an entry of a kind on top? -/
def topIs (g : Group) (ks : List Nat) (p : Entry → Bool) : Bool :=
  ks.all (fun k => match (g.slice k).stack' with | e :: _ => p e | [] => false)

/-- IF (R151). -/
def execIfC (o : ROp) (s : State) : Host.Outcome State Fault Refusal :=
  .next (s.during (fun c =>
    let g := c.snap
    let ks := c.slices
    if ks.any (fun k => 16 ≤ (g.slice k).stack'.length) || ncFull g ks then s.controlOverflow o.at'
    else
      let cond (l : Nat) : Bool := laneVal c g .b32 o.a l % 2 ^ 32 != 0
      s.onGroup c.who (fun h => (h.push ks (fun y => { kind := .ifE, fmt := y.fmt })).mapNc ks (fun l n =>
        if 0 < n then n + 1 else if cond l then 0 else 1))))

/-- ELSE (R151). -/
def execElseC (o : ROp) (s : State) : Host.Outcome State Fault Refusal :=
  .next (s.during (fun c =>
    let ks := c.slices
    if !topIs c.snap ks (fun e => e.kind == .ifE && !e.els) then s.controlOverflow o.at'
    else
      s.onGroup c.who (fun h =>
        let h := h.onSlices ks (fun y =>
          match y.stack' with
          | e :: es => { y with stack' := { e with els := true } :: es, fmt := restoreFmt y.fmt e.fmt }
          | [] => y)
        h.mapNc ks (fun _ n => if n == 0 then 1 else if n == 1 then 0 else n))))

/-- ENDIF (R151). -/
def execEndif (o : ROp) (s : State) : Host.Outcome State Fault Refusal :=
  .next (s.during (fun c =>
    if !topIs c.snap c.slices (fun e => e.kind == .ifE) then s.controlOverflow o.at'
    else s.onGroup c.who (fun h => (h.popFmt c.slices).mapNc c.slices (fun _ n => n - 1))))

/-- The trip count of LOOP: the low 32 bits of a scalar register, zero or a short constant (R233). -/
def tripCount (c : Issue) (o : BOp) : Nat := scalarVal c .n32 o.c % 2 ^ 32

/-- LOOP (R151, R165). -/
def execLoop (o : BOp) (s : State) : Host.Outcome State Fault Refusal :=
  .next (s.during (fun c =>
    let g := c.snap
    let unb := o.mod.getLsbD 0
    let sc := o.mod.extractLsb' 1 2
    let n := tripCount c o
    let ks := stackSlices c
    if (if g.vliw then unb else sc != 0#2) then s.illegalOperation o.at'
    else if !unb && n == 0 then s.jump c c.slices (branchTarget c o) 0
    else if ks.any (fun k => 16 ≤ (g.slice k).stack'.length) || (!g.vliw && ncFull g ks) then s.controlOverflow o.at'
    else
      s.onGroup c.who (fun h =>
        let h := h.push ks (fun y => { kind := .loopE, fmt := y.fmt, addr := c.next, trip := if unb then 0 else BitVec.ofNat 32 n,
                                       unb := unb, sc := if g.vliw then sc else 0#2 })
        if g.vliw then h else h.mapNc ks (fun _ m => if 0 < m then m + 1 else m))))

/-- Does a slice's ENDLOOP branch back, given its entry with ITER advanced (R151, R165)? -/
def loopsBack (g : Group) (k : Nat) (e : Entry) : Bool :=
  if g.vliw then e.iter.toNat < e.trip.toNat + e.sc.toNat
  else
    (List.range 4).any (fun j => g.nc (4 * k + j) == 0 && !e.brkm.getLsbD j) && (e.unb || e.iter < e.trip)

/-- A slice's ENDLOOP: the entry advanced, or popped with FMT restored. -/
def endLoopSlice (back : Bool) (y : Slice) : Slice :=
  match y.stack' with
  | e :: es =>
    if back then { y with stack' := { e with iter := e.iter + 1, cntm := 0 } :: es }
    else { y with stack' := es, fmt := restoreFmt y.fmt e.fmt }
  | [] => y

/-- ENDLOOP (R151, R165): the gang may part by it. -/
def execEndloop (o : ROp) (s : State) : Host.Outcome State Fault Refusal :=
  .next (s.during (fun c =>
    let g := c.snap
    let ks := stackSlices c
    if !topIs g ks (fun e => e.kind == .loopE) then s.controlOverflow o.at'
    else
      let top (k : Nat) : Entry := ((g.slice k).stack'.head?).getD { kind := .loopE }
      let back := ks.filter (fun k => let e := top k; loopsBack g k { e with iter := e.iter + 1 })
      let s := s.onGroup c.who (fun h =>
        let h := ks.foldl (fun h k => h.onSlice k (endLoopSlice (back.contains k))) h
        if g.vliw then h else h.mapNc (ks.filter (fun k => !back.contains k)) (fun _ n => n - 1))
      let s := if !g.vliw && !back.isEmpty && back.length < ks.length then
          s.traceGang 2 2 c.who g c.slices c.pc c.mask (BitVec.ofNat 32 (sliceMask g back)) (top (back.headD 0)).addr
        else s
      let s := if g.vliw then s.jump c (if back.isEmpty then [] else c.slices) (top 0).addr 1
        else back.foldl (fun s k => s.jump c [k] (top k).addr 1) s
      s.onIssue (fun i => { i with parts := !g.vliw })))

/-- A change of the innermost LOOP entry of a stack. -/
def onInnerLoop (f : Entry → Entry) : List Entry → List Entry
  | [] => []
  | e :: es => if e.kind == .loopE then f e :: es else e :: onInnerLoop f es

/-- The active lanes of a slice as a mask of four. -/
def activeNibble (g : Group) (k : Nat) : BitVec 4 :=
  (List.range 4).foldl (fun m j => if g.active k j then m ||| (1#4 <<< j) else m) 0#4

/-- BRK or CONT: a mask bit set for each active lane of each slice (R151). -/
def State.leaveLoop (s : State) (site : Site) (f : BitVec 4 → Entry → Entry) : State :=
  s.during (fun c =>
    if c.slices.any (fun k => (topLoop (c.snap.slice k).stack').isNone) then s.controlOverflow site
    else s.onGroup c.who (fun h => c.slices.foldl (fun h k =>
      h.onSlice k (fun y => { y with stack' := onInnerLoop (f (activeNibble c.snap k)) y.stack' })) h))

/-- BRK (R151). -/
def execBrk (o : ROp) (s : State) : Host.Outcome State Fault Refusal :=
  .next (s.leaveLoop o.at' (fun m e => { e with brkm := e.brkm ||| m }))
/-- CONT (R151). -/
def execCont (o : ROp) (s : State) : Host.Outcome State Fault Refusal :=
  .next (s.leaveLoop o.at' (fun m e => { e with cntm := e.cntm ||| m }))

/-! ## Gangs (R147, R148, R235) -/

/-- REGANG (R147, R235): a group that forms one gang goes on at once; otherwise the gang waits after its bundle. -/
def execRegang (_o : ROp) (s : State) : Host.Outcome State Fault Refusal :=
  .next (s.during (fun c => if wholeGang c then s else s.onIssue (fun i => { i with close := .regang })))

/-- Does the slice wait at the rendezvous? -/
def Slice.atRegang (y : Slice) : Bool := match y.run with | .waiting .regang _ => true | _ => false

/-- Slices regrouped by program counter (R147): each gang's number is its lowest slice. -/
def Group.regroup (g : Group) : Group :=
  g.live.foldl (fun h k => h.onSlice k (fun y =>
    { y with gang := (g.live.find? (fun j => (g.slice j).pc == y.pc)).getD k, run := .running })) g

/-- REGANG_RENDEZVOUS (R147): once every live slice waits there. -/
def execRegangRendezvous (a : GroupAt) (s : State) : Host.Outcome State Fault Refusal :=
  let g := s.groupAt a.core a.bank a.slot
  .next (if !g.live.isEmpty && g.live.all (fun k => (g.slice k).atRegang) then
      let s := s.onGroupAt a.core a.bank a.slot Group.regroup
      let w : Who := .gang { core := a.core, bank := a.bank, slot := a.slot, slice := g.live.headD 0 }
      s.traceGang 2 3 w g g.live (g.slice (g.live.headD 0)).pc 0 (BitVec.ofNat 32 (sliceMask g g.live)) 0
    else s)

/-- EXIT (R148, R235): the slices end with their bundle. -/
def execExit (_o : ROp) (s : State) : Host.Outcome State Fault Refusal :=
  .next (s.during (fun _ => s.onIssue (fun i => { i with close := .exit })))

/-! ## Decoders (R158 to R162, R236) -/

/-- The grid of a team. -/
def State.gridOf (s : State) (t : Team) : Grid := Sparse.look {} t.grid (s.die t.die).grids
/-- The team of an issuer. -/
def State.teamOf (s : State) (c : Issue) : Team := (s.core (coreOf c.who)).team (teamKey c.who c.snap)

/-- May the group change to the VLIW decoder (R159, R162, R236)? -/
def modeVliwOk (s : State) (c : Issue) : Bool :=
  let g := c.snap
  !g.vliw && (s.gridOf (s.teamOf c)).launch.vliw && c.slices.length == g.nslices && (lanesOf c.slices).all (fun l => g.nc l == 0) &&
    c.slices.all (fun k => (g.slice k).stack'.all (fun e => e.kind == .callE)) && !(g.exposed && !fmtFl (g.slice c.low).fmt)

/-- May the thread change to the SIMT decoder (R159)? -/
def modeSimtOk (c : Issue) : Bool := c.snap.vliw && (c.snap.slice 0).stack'.all (fun e => e.kind == .callE)

/-- MODE (R159, R236): the change follows once every register is full. -/
def execMode (o : BOp) (s : State) : Host.Outcome State Fault Refusal :=
  .next (s.during (fun c =>
    let v := o.mod.getLsbD 0
    if !(if v then modeVliwOk s c else modeSimtOk c) then s.illegalOperation o.at'
    else
      let s := s.traceGang 4 5 c.who c.snap c.slices c.pc c.mask (if v then 1 else 0) 0
      (s.onIssue (fun i => { i with npc := c.slices.foldl (fun m k => Sparse.put c.next k (branchTarget c o) m) i.npc })).onIssue
        (fun i => { i with close := .mode v })))

/-- Does the slice wait for the change of decoder? -/
def Slice.atMode (y : Slice) : Bool := match y.run with | .waiting .mode _ => true | _ => false

/-- The group on the other decoder (R159). -/
def Group.switch (g : Group) (now : Nat) : Group :=
  let go (y : Slice) : Slice := { y with run := .running, ready := now + 4 }
  if g.vliw then
    let y0 := g.slice 0
    { g with vliw := false, passes := [], slices := g.slices.map (fun y => go { y with gang := 0, stack' := y0.stack', fmt := y0.fmt, pc := y0.pc }) }
  else { g with vliw := true, slices := g.slices.map (fun y => go { y with gang := 0 }) }

/-- MODE_SWITCH (R159): every register of the group is full. -/
def execModeSwitch (a : GroupAt) (s : State) : Host.Outcome State Fault Refusal :=
  let g := s.groupAt a.core a.bank a.slot
  .next (if (g.slice 0).atMode && g.inflight.all (fun f => !f.empties) then s.onGroupAt a.core a.bank a.slot (fun g => g.switch s.now) else s)

/-! ## Fetch, tasks and election (R237 to R239) -/

/-- An instruction-cache line requested: due after an L2 hit or HBM (R70). -/
def State.requestLine (s : State) (core line : Nat) : State :=
  let lat := if inL2 s line then 110 else 380
  s.onCore core (fun c => { c with caches := { c.caches with fills := c.caches.fills ++ [(line, s.now + lat)] } })

/-- Is the line present or being filled? -/
def lineHeld (k : CoreCaches) (line : Nat) : Bool := k.icache.any (fun p => p.1 == line) || k.fills.any (fun p => p.1 == line)

/-- A prefetched line requested, where it is neither present nor being filled and a fill is free (R68, R237). -/
def State.prefetchLine (s : State) (core : Nat) (e : TlbEntry) (va : DWord) : State :=
  let line := lineOf (e.place va)
  if lineHeld (s.core core).caches line || 8 ≤ (s.core core).caches.fills.length then s
  else (s.fillTlb core [e]).requestLine core line

/-- PRFI (R237): lines present or being filled are skipped; those past the eighth fill or that would fault are
dropped; one whose page the host must grant is kept until the answer comes. -/
def execPrfi (o : BOp) (s : State) : Host.Outcome State Fault Refusal :=
  .next (s.during (fun c =>
    let core := coreOf c.who
    let tgt := branchTarget c o
    let base : DWord := BitVec.ofNat 64 (tgt.toNat / 128 * 128)
    (List.range ((o.mod.extractLsb' 0 3).toNat + 1)).foldl (fun s i =>
      let va := base + BitVec.ofNat 64 (128 * i)
      match translate s (s.tlbOf c.who) (s.cidOf c.who) (isAgent c.who) va .fetch with
      | .ok e => s.prefetchLine core e va
      | .ats cid _ =>
        s.onCore core (fun k =>
          if k.caches.prefetch.contains (cid, va) then k
          else { k with caches := { k.caches with prefetch := k.caches.prefetch ++ [(cid, va)] } })
      | .fault _ => s) s))

/-- SPAWN (R170, R238): a release at .core; 1 when the task is queued, else 0. -/
def execSpawn (o : ROp) (s : State) : Host.Outcome State Fault Refusal :=
  .next (s.scalarOp o.at' (fun c =>
    let core := coreOf c.who
    let full := 64 ≤ (s.core core).crew.tasks.length
    let none' := (s.gridOf (s.teamOf c)).launch.kernel.trsb == 0
    if c.opMask o.at' == 0#32 || full || none' then s.postScalar c o.d 0 2
    else
      let args := match o.b with
        | .s k => (List.range 4).map (fun j => c.snap.sreg (k.toNat + j))
        | _ => []
      let t : Task := { entry := c.sval o.a, args := args, role := c.snap.gid.role, team := teamKey c.who c.snap }
      let r := s.releaseNow core (threadKey c.who) [threadLane c scalarLane] .core false
      if !r.2 then s.waitFor .poll
      else
        let s := r.1.onCore core (fun k => { k with crew := { k.crew with tasks := k.crew.tasks ++ [t] } })
        s.postScalar c o.d 1 2))

/-- The lane that ELECT chooses (R239). -/
def electLane (width start : Nat) (act : List Nat) : Option Nat :=
  ((List.range width).map (fun i => (start + i) % width)).find? (fun l => act.contains l)

/-- ELECT (R239). -/
def execElect (o : ROp) (s : State) : Host.Outcome State Fault Refusal :=
  .next (s.scalarOp o.at' (fun c =>
    let g := c.snap
    let act := c.opLanes o.at'
    let x : DWord :=
      if act.isEmpty then BitVec.allOnes 64
      else if g.vliw then 0
      else BitVec.ofNat 64 ((electLane g.width ((c.sval o.a).toNat % g.width) act).getD 0)
    s.postScalar c o.d x 2))

end Sys2Proof.Machine
end

