-- ==== Sys2Proof/Machine/System.lean ====
section
/-! DEFINITION. The meanings of the system operations: traps and system calls, special registers, the cycle count, the
agent's events, and shootdowns (R29 to R33, R249 to R254, R299, R364). -/

namespace Sys2Proof.Machine

/-! ## Traps (R252) -/

/-- TRAP, BRKP or SYSC: After the bundle, with the code in INFO; nothing with an all-zero mask (R226, R252). -/
def State.trapAfter (s : State) (o : IOp) (code : Nat) : State :=
  s.laneOp o.at' [] (fun _ _ _ s => s.stopAfter { code := code, info := (o.imm.extractLsb' 0 16).setWidth 32 })

/-- TRAP (R252). -/
def execTrap (o : IOp) (s : State) : Host.Outcome State Fault Refusal := .next (s.trapAfter o causeTrap)
/-- BRKP (R252). -/
def execBrkp (o : IOp) (s : State) : Host.Outcome State Fault Refusal := .next (s.trapAfter o causeBrkp)
/-- SYSC (R252): served by the agent at the end of the bundle. -/
def execSysc (o : IOp) (s : State) : Host.Outcome State Fault Refusal := .next (s.trapAfter o causeSysc)

/-! ## Special registers (R249, R250, R364) -/

/-- The position register of a group (R250). -/
def locOf (a : GangAt) (g : Group) : DWord :=
  BitVec.ofNat 64 (dieOfCore a.core * 2 ^ 30 + a.core % 160 / 8 * 2 ^ 25 + a.core % 8 * 2 ^ 22 + a.bank * 2 ^ 21 + a.slot * 2 ^ 17 +
    (if g.gid.half then 2 ^ 16 else 0) + g.gid.hnum * 2 ^ 15 + g.gid.role * 2 ^ 13)

/-- Is the special register available to the issuer (R250, R364)? -/
def srAvailable (w : Who) (n : Nat) : Bool :=
  if n ≤ 2 then true
  else if n == 3 then !isGlen w
  else if n ≤ 0xC then !isGlen w && !isAgent w
  else if n == 0x10 then isGlen w
  else isAgent w

/-- estat (R250). -/
def estatOf (a : Agent) : DWord :=
  BitVec.ofNat 64 (a.cause * 256 + (if a.events.isEmpty then 0 else 2) + (if a.een then 1 else 0))
/-- dctl (R364). -/
def dctlOf (a : Agent) : DWord :=
  BitVec.ofNat 64 (a.dctlCid * 2 ^ 32 + (if a.dctlAll then 2 else 0) + (if a.dctlHold then 1 else 0))

/-- A special register of the agent. -/
def agentReg (a : Agent) (n : Nat) : DWord :=
  match n with
  | 0x100 => BitVec.ofNat 64 a.actx
  | 0x101 => a.evec
  | 0x102 => a.epc
  | 0x103 => estatOf a
  | 0x104 => a.wlthr.setWidth 64
  | 0x105 => dctlOf a
  | 0x118 => a.tbase
  | 0x119 => a.tsize
  | 0x11A => a.tptr
  | 0x11B => a.trctl
  | _ =>
    if n < 0x10C then Sparse.look 0 (n - 0x108) a.ibp
    else if n < 0x110 then Sparse.look 0 (n - 0x10C) a.wpa
    else Sparse.look 0 (n - 0x110) a.wpc

/-- The value that RDSR reads (R250). -/
def readSr (c : Issue) (n : Nat) : DWord :=
  let g := c.snap
  match n with
  | 0 => 0xFFFF
  | 1 => 0
  | 2 => 0x0000000008020806
  | 3 => (match c.who with | .gang a => locOf a g | .glen _ => 0)
  | 8 => g.win.sp.setWidth 64
  | 9 => g.win.lim.setWidth 64
  | 0xA => g.win.lbase
  | 0xB => g.win.lsize.setWidth 64
  | 0xC => BitVec.ofNat 64 (g.win.bot % 65536 * 2 ^ 32 + g.win.wb % 65536 * 2 ^ 16 + g.win.ws)
  | 0x10 => c.gstat
  | _ => agentReg c.agent n

/-- RDSR (R249). -/
def execRdsr (o : IOp) (s : State) : Host.Outcome State Fault Refusal :=
  .next (s.scalarOp o.at' (fun c =>
    let n := (o.imm.extractLsb' 0 12).toNat
    if !srAvailable c.who n then s.illegalOperation o.at' else s.postScalar c o.d (readSr c n) 2))

/-- A special register of the agent written field by field (R7, R250, R364). -/
def writeAgentReg (a : Agent) (n : Nat) (x : DWord) : Agent :=
  match n with
  | 0x100 => { a with actx := x.toNat % 65536 }
  | 0x101 => { a with evec := x &&& ~~~3#64 }
  | 0x102 => { a with epc := x &&& ~~~3#64 }
  | 0x103 => { a with een := x.getLsbD 0 }
  | 0x104 => { a with wlthr := x.setWidth 32 }
  | 0x105 => { a with dctlCid := bitsOf x 47 32, dctlAll := x.getLsbD 1, dctlHold := x.getLsbD 0 }
  | 0x118 => { a with tbase := x }
  | 0x119 => { a with tsize := x }
  | 0x11A => a
  | 0x11B => { a with trctl := x &&& 0x3F#64 }
  | _ =>
    if n < 0x10C then { a with ibp := Sparse.put 0 (n - 0x108) (x &&& ~~~2#64) a.ibp }
    else if n < 0x110 then { a with wpa := Sparse.put 0 (n - 0x10C) x a.wpa }
    else
      let old := Sparse.look 0 (n - 0x110) a.wpc
      let size := if 13 ≤ bitsOf x 11 8 then bitsOf old 11 8 else bitsOf x 11 8
      { a with wpc := Sparse.put 0 (n - 0x110) (BitVec.ofNat 64 (size * 256) ||| (x &&& 7#64)) a.wpc }

/-- WRSR (R249, R250). A field that is read-only keeps its value. -/
def execWrsr (o : IOp) (s : State) : Host.Outcome State Fault Refusal :=
  .next (s.scalarOp o.at' (fun c =>
    let n := (o.imm.extractLsb' 0 12).toNat
    let x := c.sval o.a
    if !srAvailable c.who n then s.illegalOperation o.at'
    else
      match n with
      | 8 => s.onGroup c.who (fun g => { g with win := { g.win with sp := x.setWidth 32 } })
      | 9 => s.onGroup c.who (fun g => { g with win := { g.win with lim := x.setWidth 32 } })
      | 0x10 => (match c.who with | .glen k => s.onGlen k (fun g => { g with gstat := g.gstat &&& ~~~x }) | .gang _ => s)
      | _ =>
        if n < 0x100 then s
        else s.onCore (coreOf c.who) (fun k => { k with agent := writeAgentReg k.agent n x })))

/-- RDTIME (R251). -/
def execRdtime (o : ROp) (s : State) : Host.Outcome State Fault Refusal :=
  .next (s.scalarOp o.at' (fun c => s.postScalar c o.d (BitVec.ofNat 64 s.now) 2))

/-! ## The agent's events (R253) -/

/-- ERET (R253): at the end of its bundle. -/
def execEret (_o : ROp) (s : State) : Host.Outcome State Fault Refusal :=
  .next (s.during (fun _ => s.onIssue (fun i => { i with close := .eret })))

/-- HALT (R253). -/
def execHalt (_o : ROp) (s : State) : Host.Outcome State Fault Refusal :=
  .next (s.during (fun _ => s.onIssue (fun i => { i with close := .halt })))

/-- Taking an event (R253): EPC takes the address of the next bundle, CAUSE the class, EEN is cleared, and the agent
goes on at EVEC. -/
def State.takeEvent (s : State) (core : Nat) : State :=
  match (s.core core).agent.events with
  | [] => s
  | cls :: rest =>
    let pc := ((s.groupAt core 0 15).slice 0).pc
    let s := s.onCore core (fun c => { c with agent := { c.agent with epc := pc, cause := cls, een := false, events := rest, halted := false } })
    s.onGroupAt core 0 15 (fun g => { g with slices := g.slices.map (fun y => { y with pc := (s.core core).agent.evec }) })

/-- EVENT_TAKE (R253): between two bundles, with EEN = 1 and PEND = 1. -/
def execEventTake (core : Nat) (s : State) : Host.Outcome State Fault Refusal :=
  .next (if (s.core core).agent.een && s.issue.isNone then s.takeEvent core else s)

/-! ## Shootdowns (R29 to R33, R254, R299) -/

/-- Does the scope cover an address range of a context (R29)? Pages beyond bit 59 of the address are not covered. -/
def shootCovers (x : ShootScope) (cid lo size : Nat) : Bool :=
  match x with
  | .all => true
  | .context k => k == cid
  | .range k va pages => k == cid && (let a := va60 va / 65536 * 65536; lo < a + pages * 65536 && a < lo + size)

/-- A shootdown broadcast (R30). -/
def State.startShoot (s : State) (scope : ShootScope) (src : ShootSource) : State :=
  s.onHost (fun h => { h with shoots := h.shoots ++ [{ id := h.nextShoot, scope := scope, source := src }], nextShoot := h.nextShoot + 1 })

/-- The agent's shootdowns under way. -/
def agentShoots (s : State) (core : Nat) : Nat := (s.host.shoots.filter (fun x => x.source == .agent core)).length

/-- TLBI (R254): a release at .sys of the agent's earlier accesses, the broadcast, and with .wait or .sync the wait for
its shootdowns; a ninth waits. -/
def State.tlbi (s : State) (o : ROp) (sync : Bool) (scope : Issue → Option ShootScope) : State :=
  s.during (fun c =>
    let core := coreOf c.who
    let q := s.releaseNow core (threadKey c.who) [threadLane c scalarLane] .sys false
    if !q.2 then s.waitFor .poll
    else
      let s := q.1
      let r := scope c
      if r.isSome && 8 ≤ agentShoots s core then s.waitFor (.tlbi false)
      else
        let s := match r with
          | some x => s.startShoot x (.agent core)
          | none => s
        if (sync || o.mod.getLsbD 2) && agentShoots s core != 0 then s.onIssue (fun i => { i with close := .tlbi }) else s)

/-- TLBI_RNG (R254): a count of 0 sends nothing. -/
def execTlbiRng (o : ROp) (s : State) : Host.Outcome State Fault Refusal :=
  .next (s.tlbi o false (fun c =>
    let n := (c.sval o.b).toNat % 2 ^ 32
    if n == 0 then none else some (.range ((c.sval o.c).toNat % 65536) (c.sval o.a) n)))
/-- TLBI_CTX (R254). -/
def execTlbiCtx (o : ROp) (s : State) : Host.Outcome State Fault Refusal :=
  .next (s.tlbi o false (fun c => some (.context ((c.sval o.c).toNat % 65536))))
/-- TLBI_ALL (R254). -/
def execTlbiAll (o : ROp) (s : State) : Host.Outcome State Fault Refusal := .next (s.tlbi o false (fun _ => some .all))
/-- TLBI_SYNC (R254). -/
def execTlbiSync (o : ROp) (s : State) : Host.Outcome State Fault Refusal := .next (s.tlbi o true (fun _ => none))

/-- TLB entries that survive a shootdown. -/
def keepTlb (x : ShootScope) (es : List TlbEntry) : List TlbEntry := es.filter (fun e => !shootCovers x e.cid e.vbase e.size)

/-- The bytes of the translated range that a size code stands for (R26). -/
def psSize (ps : Nat) : Nat :=
  match ps with
  | 0 => 2 ^ 16
  | 1 => 2 ^ 21
  | 2 => 2 ^ 27
  | _ => 2 ^ 38

/-- Does the scope overlap the translated range that holds a base (R26, R30)? -/
def shootsRange (x : ShootScope) (cid base ps : Nat) : Bool := shootCovers x cid (base / psSize ps * psSize ps) (psSize ps)

/-- A translation register with V cleared where the scope overlaps its translated range in the context that its base was
translated in (R12, R30). -/
def shootX (x : ShootScope) (r : XReg) : XReg :=
  if r.valid && shootsRange x r.cid (va60 r.vbase) r.ps.toNat then { r with valid := false } else r

/-- The translation registers of a group. -/
def Group.shoot (g : Group) (x : ShootScope) : Group :=
  { g with sca := { g.sca with x := g.sca.x.map (fun r => (r.1, shootX x r.2)) } }

/-- A save image's translation registers with V cleared where the scope overlaps them (R26, R30, R361, R362). Nothing
happens where the image cannot be reached. -/
def State.shootImage (s : State) (x : ShootScope) (cid space : Nat) (va : DWord) : State :=
  let at' (s : State) (off : Nat) : Option Nat :=
    match translate s s.allGrants space true (va + BitVec.ofNat 64 off) .write with
    | .ok e => some (e.place (va + BitVec.ofNat 64 off))
    | _ => none
  let num (s : State) (off n : Nat) : Nat := leNat ((List.range n).map (fun i => match at' s (off + i) with | some p => s.coherentByte p | none => 0))
  let ngrp := num s 6 1
  let r := (List.range ngrp).foldl (fun (r : State × Nat) _ =>
    let base := r.2
    let s := (List.range 8).foldl (fun s k =>
      let o := base + 0x150 + 24 * k
      let hi := num s (o + 23) 1
      if 128 ≤ hi && shootsRange x cid (num s o 8 % 2 ^ 60) (num s (o + 22) 1 / 16 % 4) then
        match at' s (o + 23) with
        | some p => s.coherentWrite noCore [(p, BitVec.ofNat 8 (hi - 128))] false none
        | none => s
      else s) r.1
    (s, base + 0x14C0 + 136 * (64 * num r.1 (base + 3) 1))) (s, 256)
  r.1

/-- The stash lines of a core whose global lines a shootdown covers, as team, window and line (R299). -/
def shotLines (c : Core) (x : ShootScope) : List (Nat × Nat × Nat) :=
  c.crew.teams.flatMap (fun t => t.2.stash.flatMap (fun w => (w.2.lines.filter (fun l =>
    shootCovers x t.2.cid (va60 w.2.g + 128 * l.1) 128)).map (fun l => (t.1, w.1, l.1))))

/-- A cluster's TLB or L3 bank after a shootdown. -/
def State.shootTlbs (s : State) (x : ShootScope) (mine : Nat → Bool) : State :=
  { s with tlbs := (s.tlbs.map (fun p => if mine p.1 then (p.1, keepTlb x p.2) else p)).filter (fun p => p.2 != []) }

/-- Does a shootdown cover a page that a die has asked the host to translate? Such a request starts again (R32). -/
def shotRequest (x : ShootScope) (die : Nat) (r : Nat × Nat × Nat) : Bool := r.1 == die && shootCovers x r.2.1 r.2.2 4096

/-- What a structure does before it acknowledges (R30): its entries go, covered translation registers lose V, covered stash lines
are written back and left unfilled (R299), and the stores it has issued perform. A die's acknowledgement is that of its L3 banks,
walkers, copy engines and per-die engines. -/
def State.shootUnit (s : State) (x : ShootScope) (u : AckUnit) : State :=
  match u with
  | .core k =>
    if !(s.cores.any (fun p => p.1 == k)) then s
    else
      let s := (s.writeOutWhere k (fun _ => true)).drainStores k (fun _ => true)
      let s := (shotLines (s.core k) x).foldl (fun s l => s.recallLine k l.1 l.2.1 l.2.2 true) s
      s.onCore k (fun c =>
        let gs := c.groups.map (fun p => (p.1, p.2.shoot x))
        { c with groups := gs, caches := { c.caches with tlb := keepTlb x c.caches.tlb } })
  | .cluster n => s.shootTlbs x (fun k => k == n)
  | .die d =>
    let s := s.shootTlbs x (fun k => 128 ≤ k && (k - 128) / 32 == d)
    let s := { s with ats := { s.ats with requests := s.ats.requests.filter (fun r => !shotRequest x d r) } }
    if d == 0 then s.host.saved.foldl (fun s i => s.shootImage x i.cid i.space i.img) s else s
  | .glen n => if s.glens.any (fun p => p.1 == n) then s.onGlen n (fun g => { g with tlb := keepTlb x g.tlb }) else s

/-- Every structure that acknowledges a shootdown (R30). -/
def ackUnits : List AckUnit :=
  (List.range 640).map AckUnit.core ++ (List.range 80).map AckUnit.cluster ++ (List.range 4).map AckUnit.die ++ (List.range 64).map AckUnit.glen

/-- Can a structure acknowledge (R30 step 3)? A core's covered stores must be free to perform. -/
def canAck (s : State) (u : AckUnit) : Bool :=
  match u with
  | .core k =>
    (s.core k).caches.stores.all (fun t => t.bytes.all (fun b => !s.isOwned (lineOf b.1))) &&
      (s.core k).caches.wc.all (fun e => !s.isOwned e.line)
  | _ => true

/-- SHOOTDOWN_ACK (R30, R33): each structure once. -/
def execShootdownAck (id : Nat) (u : AckUnit) (s : State) : Host.Outcome State Fault Refusal :=
  .next (match s.host.shoots.find? (fun x => x.id == id) with
    | none => s
    | some x =>
      if x.acks.contains u || !ackUnits.contains u || !canAck s u then s
      else
        let s := s.shootUnit x.scope u
        s.onHost (fun h => { h with shoots := h.shoots.map (fun y => if y.id == id then { y with acks := y.acks ++ [u] } else y) }))

/-- An agent that waits for its shootdowns goes on. -/
def State.wakeTlbi (s : State) (core : Nat) : State :=
  let n := agentShoots s core
  let y := (s.groupAt core 0 15).slice 0
  match y.run with
  | .waiting (.tlbi all) _ =>
    if (if all then n == 0 else n < 8) then
      s.onGroupAt core 0 15 (fun g => { g with slices := g.slices.map (fun y => if all then { y with run := .running } else y.wakeUp s.now 0) })
    else s
  | _ => s

end Sys2Proof.Machine
end

