-- ==== Sys2Proof/Machine/Fetch.lean ====
section
/-! DEFINITION. Fetching a bundle (R68 to R70, R90, R91, R368), the checks before it issues (R157, R202, R214), and
results written back (R156, R157).
Readings of the rules: DEDUCED, log entry 38. -/

namespace Sys2Proof.Machine

/-! ## Reading a bundle's bytes -/

/-- Why a bundle's bytes cannot be read yet. -/
inductive FetchFail where
  | fault (va : DWord) (f : XFault)
  | page (cid va : Nat)
  | miss (line : Nat) (e : TlbEntry)
  | segment (n : Nat)
  | bad
  deriving DecidableEq, Repr

/-- One byte of code at an address, from the instruction cache of the issuer's core (R68). A line there keeps its bytes until it is
filled again, where R69 leaves old or new code open (DESIGN CHOICE, log entry 58). -/
def codeByte (s : State) (w : Who) (va : DWord) : Except FetchFail Byte :=
  match translate s (s.tlbOf w) (s.cidOf w) (isAgent w) va .fetch with
  | .fault f => .error (.fault va f)
  | .ats c p => .error (.page c p)
  | .ok e =>
    let p := e.place va
    match (s.core (coreOf w)).caches.icache.find? (fun l => l.1 == lineOf p) with
    | some l => .ok (l.2.getD (p % 128) 0)
    | none => .error (.miss (lineOf p) e)

/-- One byte of a glen program at a glen code address (R89, R90). -/
def glenByte (g : Glen) (a : Nat) : Except FetchFail Byte :=
  let seg := a / 8192
  if g.segs.length ≤ seg then .error .bad
  else if ((g.segs[seg]?).getD {}).len ≤ a % 8192 then .error .bad
  else
    let f := Sparse.look {} (seg % 4) g.frames
    if f.valid && f.seg == seg && !f.filling then .ok (f.bytes.getD (a % 8192) 0) else .error (.segment seg)

/-- `n` bytes of code from an address, the first failure standing. -/
def codeBytes (s : State) (w : Who) (pc : DWord) : Nat → Nat → Except FetchFail (List Byte)
  | _, 0 => .ok []
  | off, n + 1 =>
    let b := match w with
      | .gang _ => codeByte s w (pc + BitVec.ofNat 64 off)
      | .glen k => glenByte (s.glen k) ((pc.toNat + off) % 2 ^ 32)
    match b with
    | .error e => .error e
    | .ok x =>
      match codeBytes s w pc (off + 1) n with
      | .error e => .error e
      | .ok xs => .ok (x :: xs)

/-- The bundle at an address. -/
def fetchBundle (s : State) (w : Who) (pc : DWord) : Except FetchFail RawBundle := readBundle (codeBytes s w pc)

/-- The slices of an issuer's gang. -/
def State.gangOf (s : State) (w : Who) : List Nat :=
  match w with
  | .gang a => (s.groupOf w).gangOf a.slice
  | .glen _ => [0]

/-- The program counter of an issuer. -/
def State.pcOf (s : State) (w : Who) : DWord :=
  let g := s.groupOf w
  match w with
  | .gang a => (g.slice a.slice).pc
  | .glen _ => (g.slice 0).pc

/-- The decoder that fetches for an issuer (R158, R76). -/
def State.decoderOf (s : State) (w : Who) : Decoder :=
  match w with
  | .glen _ => .glen
  | .gang _ => if (s.groupOf w).vliw then .vliw (!(s.groupOf w).gid.half) else .simt

/-- The record of a bundle about to issue. -/
def State.beginIssue (s : State) (w : Who) (len : Nat) : Issue :=
  let g := s.groupOf w
  let ks := s.gangOf w
  let pc := s.pcOf w
  let core := s.core (coreOf w)
  let t := core.team (teamKey w g)
  { who := w, pc := pc, next := pc + BitVec.ofNat 64 len, slices := ks, mask := g.activeMask ks, snap := g
    spad := core.store.spad, spadPoison := core.store.spadPoison, spbase := t.res.spbase, agent := core.agent, tidx := t.tidx
    gstat := match w with | .glen n => (s.glen n).gstat | .gang _ => 0 }

/-! ## The checks of R214 -/

/-- The site of an operation. -/
def siteOf (i : Instr) : Option Site :=
  match opRec i with
  | .none => none
  | .nop o => some o
  | .r o => some o.at'
  | .i o => some o.at'
  | .b o => some o.at'
  | .m o => some o.at'
  | .a o => some o.at'
  | .e o => some o.at'

/-- Is the operation privileged (R229)? -/
def privileged : Instr → Bool
  | .eret _ | .halt _ | .tlbiRng _ | .tlbiCtx _ | .tlbiAll _ | .tlbiSync _ | .ctxsave _ | .ctxload _ => true
  | _ => false

/-- Does the Ibien agent accept the operation (R145, R229, R258)? -/
def agentAccepts (i : Instr) : Bool :=
  match i with
  | .bra o => o.form == 0#2
  | .brx _ | .callx _ | .loop _ | .endloop _ | .mode _ | .prfi _ | .spawn _ | .elect _ | .sysc _ | .ifC _ | .elseC _ | .endif _
  | .brk _ | .cont _ | .regang _ | .fmt _ | .fmtrd _ => false
  | .pref o => !idxIsLane o.idx
  | .casG o | .casS o => !o.isLane true
  | _ =>
    match opRec i with
    | .m o => !o.isLane
    | .a o => !o.isLane false
    | _ =>
      (match siteOf i with
       | some st => (match st.slot with | .simt k => k != 3#3 && k != 4#3 && k != 5#3 | _ => true)
       | none => true)

/-- The illegal-operation conditions of R214 that depend on who issues: privilege, the columns of R229 and R258, and the
stage (R166). -/
def contextOk (c : Issue) (i : Instr) : Bool :=
  (if isAgent c.who then agentAccepts i else !privileged i) &&
    (match siteOf i with
     | some st => !c.snap.vliw || st.slot.isControl || (stageRuns c.snap st.stg.toNat).isSome
     | none => true)

/-- Does every lane register of the operation lie in the window (R153)? -/
def windowOk (c : Issue) (i : Instr) : Bool :=
  let u := usage c.snap i
  u.laneSrc.all (fun p => p.1 < c.snap.win.ws) && u.laneDst.all (fun n => n < c.snap.win.ws)

/-- One operation checked in order (R214). -/
def checkOp (c : Issue) (sl : Slot) (w0 w1 : DWord) : Except BadCode Instr :=
  match (parseWord sl w0 w1).bind instrOf with
  | none => .error .illegalOperation
  | some i =>
    if !opOk i || !contextOk c i then .error .illegalOperation
    else if !regOk i || !windowOk c i then .error .illegalOperand
    else .ok i

/-- The operations of a bundle checked in program order. -/
def checkOps (c : Issue) : List (Slot × DWord × DWord) → Except (Option Slot × BadCode) (List Instr)
  | [] => .ok []
  | (sl, w0, w1) :: rest =>
    match checkOp c sl w0 w1 with
    | .error e => .error (some sl, e)
    | .ok i =>
      match checkOps c rest with
      | .error e => .error e
      | .ok l => .ok (i :: l)

/-- The lanes that an operation's lane registers belong to. -/
def regLanes (i : Instr) : List Nat :=
  match siteOf i with
  | some st => (match st.slot with | .lane k => [k.toNat] | _ => List.range 32)
  | none => []

/-- The destinations of an operation, each lane register once for its lanes (R202). -/
structure Dests where
  lane : List (Nat × List Nat)
  sca : List Nat
  x : List Nat
  deriving DecidableEq, Repr

/-- The destinations of an operation. -/
def destsOf (g : Group) (i : Instr) : Dests :=
  let u := usage g i
  { lane := u.laneDst.map (fun n => (n, regLanes i)), sca := u.scaDst, x := u.xDst }

/-- Do two operations write one register of one lane (R202)? -/
def Dests.meet (a b : Dests) : Bool :=
  a.lane.any (fun p => b.lane.any (fun q => p.1 == q.1 && p.2.any q.2.contains)) || a.sca.any b.sca.contains || a.x.any b.x.contains

/-- The first operation whose destination an earlier one also names (R202). -/
def duplicateDest (g : Group) : List Instr → List Dests → Option Instr
  | [], _ => none
  | i :: is, before =>
    let d := destsOf g i
    if before.any (fun e => e.meet d) then some i else duplicateDest g is (d :: before)

/-- The cause of a failed check. -/
def badCause : BadCode → Nat
  | .illegalBundle => causeIllegalBundle
  | .illegalOperation => causeIllegalOperation
  | .illegalOperand => causeIllegalOperand

/-- R214: the operations of a bundle, or the stop of its first failure. -/
def checkBundle (d : Decoder) (c : Issue) (r : RawBundle) : Except Stop (List Instr) :=
  if !headOk d r.head r.lmask then .error { code := causeIllegalBundle, slot := 255 }
  else
    match checkOps c r.ops with
    | .error (sl, e) => .error { code := badCause e, slot := (sl.map slotNumber).getD 255 }
    | .ok is =>
      match duplicateDest c.snap is [] with
      | some i => .error { code := causeIllegalOperand, slot := ((siteOf i).map (fun st => slotNumber st.slot)).getD 255 }
      | none => .ok is

/-! ## Register waits and poison at issue (R72, R157) -/

/-- The lanes in which an operation reads and writes lane registers. -/
def Issue.hazardLanes (c : Issue) (i : Instr) : List Nat := match siteOf i with | some st => c.opLanes st | none => []

/-- The results in flight to a lane register of a lane. -/
def Group.inFlightTo (g : Group) (n l : Nat) : List InFlight := g.inflight.filter (fun r => r.lanes.any (fun p => p.1 == 32 * g.phys n + l))

/-- The results in flight to a scalar register. -/
def Group.inFlightToS (g : Group) (n : Nat) : List InFlight :=
  g.inflight.filter (fun r => match r.sca with | some (k, _) => k == n | none => false)

/-- What a source finds (R157). -/
def sourceStatus (g : Group) (slot spec lane : Nat) (f : Bool) (rs : List InFlight) : Status :=
  if rs.isEmpty then .ok
  else if g.vliw && g.exposed then
    (if rs.any InFlight.empties then
      (if f then .stop { code := causeSchedule, slot := slot, aux := BitVec.ofNat 64 (spec + 256 * lane) } else .wait .poll)
     else .ok)
  else .wait .poll

/-- What a destination finds (R157). -/
def destStatus (g : Group) (slot spec lane : Nat) (rs : List InFlight) : Status :=
  if rs.isEmpty then .ok
  else if g.vliw && g.exposed then .stop { code := causeSchedule, slot := slot, aux := BitVec.ofNat 64 (spec + 256 * lane) }
  else .wait .poll

/-- The first status that is not fine. -/
def firstStatus : List Status → Status
  | [] => .ok
  | .ok :: xs => firstStatus xs
  | x :: _ => x

/-- Does an operation read scalar registers on behalf of active lanes only, so that it takes no data fault with an empty mask
(R72, R149)? Control and scalar operations read them whatever the mask (R226). -/
def readsForLanes (i : Instr) : Bool :=
  match siteOf i with
  | some st => !(st.slot.isControl || st.slot.isScalar)
  | none => false

/-- What an operation's registers find at issue: waits and schedule traps (R157), then poison (R72). -/
def registerStatus (c : Issue) (i : Instr) : Status :=
  let g := c.snap
  let u := usage g i
  let slot := match siteOf i with | some st => slotNumber st.slot | none => 0
  let runs := match siteOf i with | some st => c.runs st | none => true
  let ls := c.hazardLanes i
  if !runs then .ok
  else
    firstStatus (
      u.laneSrc.flatMap (fun p => ls.map (fun l => sourceStatus g slot p.1 l p.2 (g.inFlightTo p.1 l))) ++
      u.scaSrc.map (fun p => sourceStatus g slot (0x40 + p.1) 0 p.2 (g.inFlightToS p.1)) ++
      u.laneDst.flatMap (fun n => ls.map (fun l => destStatus g slot n l (g.inFlightTo n l))) ++
      u.scaDst.map (fun n => destStatus g slot (0x40 + n) 0 (g.inFlightToS n)) ++
      u.laneSrc.flatMap (fun p => ls.map (fun l =>
        if Sparse.look false (32 * g.phys p.1 + l) g.lanes.poison then
          .stop { code := causePoisonSource, slot := slot, aux := BitVec.ofNat 64 (p.1 + 256 * l) }
        else .ok)) ++
      u.scaSrc.map (fun p =>
        if Sparse.look false p.1 g.sca.poison && !(readsForLanes i && ls.isEmpty) then .stop { code := causePoisonSource, slot := slot, aux := BitVec.ofNat 64 (0x40 + p.1) }
        else .ok))

/-- Is the operation one that a fence holds (R294): a memory or engine operation? -/
def heldByFence (i : Instr) : Bool :=
  match (opInfo i).cls with
  | .memory | .engine | .engineGlen | .glenEngine | .tile => true
  | _ => false

/-- The fence or drain of a bundle that a memory or engine operation follows in it: what it waits for (R294). -/
def fenceFirst (c : Issue) : List Instr → Option (List Nat × (PendingStore → Bool))
  | [] => none
  | i :: is =>
    let held := is.any heldByFence
    match i with
    | .fence o =>
      if held && !(c.opLanes o.at').isEmpty then
        some (fenceThreads c (c.opLanes o.at'), fenceWants (Scope.ofCode (o.mod.extractLsb' 0 3)) (o.mod.extractLsb' 3 2).toNat)
      else fenceFirst c is
    | .drain o =>
      if held && !(c.opLanes o.at').isEmpty then
        let ts := fenceThreads c (c.opLanes o.at')
        some (ts, drainWants (threadKey c.who) ts)
      else fenceFirst c is
    | _ => fenceFirst c is

/-- A bundle that such a fence holds writes out its threads' entries before it tries to issue. -/
def State.fenceFlush (s : State) (c : Issue) (is : List Instr) : State :=
  match fenceFirst c is with
  | some (ts, _) => s.writeOutWhere (coreOf c.who) (fenceEntry (threadKey c.who) ts)
  | none => s

/-- A gang under a fence or drain does not issue memory or engine operations, and a VLIW thread stalls whole; a bundle with a
fence or drain and a later memory or engine operation waits until what the first waits for has performed (R294). -/
def fenceStatus (s : State) (c : Issue) (is : List Instr) : Status :=
  if c.snap.holds.any (fun h => c.slices.any h.slices.contains) && (c.snap.vliw || is.any heldByFence) then .wait .poll
  else
    match fenceFirst c is with
    | some (_, want) => if (s.core (coreOf c.who)).caches.stores.any want then .wait .poll else .ok
    | none => .ok

/-- The cycles for which an operation holds its unit before another may use it (R228, R259). -/
def holdCycles (i : Instr) : Nat :=
  match i with
  | .div o | .rem o => if o.ty == .i64 || o.ty == .n64 || o.ty == .b64 then 32 else 16
  | .rcp _ | .rsq _ | .sqrt _ | .exp2 _ | .log2 _ => 2
  | .sin _ | .cos _ | .tanh _ | .rsplit _ => 4
  | .fdiv _ => 8
  | .redux o => if o.ty == .f32 then 4 else 2
  | .cvt _ | .pack _ | .unpack _ | .cbset _ | .cbenc _ | .cbdec _ | .shfl _ | .bcast _ | .vote _ | .rng _ | .rngf _ | .rngrd _ | .rngwr _ => 1
  | _ => 0

/-- Is the unit of a held operation the divider of its slot rather than the special unit? -/
def usesDivider : Instr → Bool
  | .div _ | .rem _ => true
  | _ => false

/-- The issue port that a bundle takes (R161): 2 for a VLIW thread, else the first free SIMT port of its core. -/
def issuePort (s : State) (c : Issue) : Nat :=
  if c.snap.vliw then 2 else ((s.core (coreOf c.who)).issued.filter (fun l => !l.contains 8)).length

/-- The units of the core that an operation holds, by the keys of `Core.pipes`. -/
def pipeKeys (s : State) (c : Issue) (i : Instr) : List Nat :=
  match siteOf i with
  | none => []
  | some st =>
    let unit := if usesDivider i then (if st.slot matches .simt 4#3 then 1 else 0) else 2
    match st.slot with
    | .simt 1#3 | .unit 1#2 => [96 + 2 * issuePort s c]
    | .simt 2#3 | .unit 2#2 => [97 + 2 * issuePort s c]
    | .glen _ => []
    | _ => (c.opLanes st).map (fun l => 3 * (l + (if c.snap.gid.half then 16 * c.snap.gid.hnum else 0)) + unit)

/-- An operation whose unit is still held waits (R228, R259). -/
def unitStatus (s : State) (c : Issue) (i : Instr) : Status :=
  if isGlen c.who || holdCycles i == 0 then .ok
  else if (pipeKeys s c i).any (fun k => s.now < Sparse.look 0 k (s.core (coreOf c.who)).pipes) then .wait .poll else .ok

/-- The latency with FL = 0 of an operation that may be diverted (R259). -/
def divertLatency (i : Instr) : Option Nat :=
  match i with
  | .fadd _ | .fsub _ | .fmul _ | .fma _ | .frnd _ | .cvt _ | .pack _ | .unpack _ => some 4
  | .rcp _ | .rsq _ | .sqrt _ | .exp2 _ | .log2 _ => some 12
  | .sin _ | .cos _ | .tanh _ => some 16
  | .fdiv _ => some 24
  | _ => none

/-- The lanes in which a diverted result of the operation is on its way: all its active ones (R188). -/
def divertedLanes (s : State) (c : Issue) (i : Instr) : List Nat :=
  match divertLatency i, siteOf i with
  | some n, some st =>
    let ls := c.opLanes st
    let ds := (usage c.snap i).laneDst.map c.snap.phys
    let mine (r : InFlight) : Bool :=
      if ds.isEmpty then r.lanes.isEmpty && r.sca.isNone else r.lanes.any (fun p => ls.any (fun l => ds.any (fun d => p.1 == 32 * d + l)))
    if (s.cur c).inflight.any (fun r => r.empties && r.due == s.now + n + 18 && mine r) then ls else []
  | _, _ => []

/-- The units that the operations of a bundle hold once it has issued, beyond the cycle of issue: an FMA-class result that is diverted holds the special
unit of its lanes for the 18 extra cycles, and so does a diverted operation of that unit (R188, R259). -/
def State.holdUnits (s : State) (c : Issue) (is : List Instr) : State :=
  if isGlen c.who then s
  else
    let keep (n k : Nat) (s : State) : State :=
      s.onCore (coreOf c.who) (fun x => { x with pipes := Sparse.put 0 k n x.pipes })
    is.foldl (fun s i =>
      let s := if holdCycles i ≤ 1 then s else (pipeKeys s c i).foldl (fun s k => keep (s.now + holdCycles i) k s) s
      (divertedLanes s c i).foldl (fun s l => keep (s.now + 18 + holdCycles i) (3 * (l + (if c.snap.gid.half then 16 * c.snap.gid.hnum else 0)) + 2) s) s) s

/-- The instruction breakpoint that a gang reaches (R364). -/
def breakpointAt (s : State) (c : Issue) : Option Nat :=
  let a := (s.core (coreOf c.who)).agent
  if isGlen c.who || isAgent c.who || (c.snap.slice c.low).run matches .woken .. then none
  else (List.range 4).find? (fun i =>
    let b := Sparse.look 0 i a.ibp
    b.getLsbD 0 && s.cidOf c.who == a.dctlCid && (b &&& ~~~3#64) == c.pc)

/-- Does an operation read the codebook (R179)? -/
def readsCodebook : Instr → Bool
  | .cbenc _ | .cbdec _ => true
  | .mma o | .mmas o => o.ty matches .k4x8 | .k6x4 || (o.ext.extractLsb' 22 5).toNat / 2 == 7
  | _ => false

/-- A reader of the codebook waits until the gang's last CBSET has retired (R267). -/
def codebookStatus (s : State) (c : Issue) (i : Instr) : Status :=
  if readsCodebook i && s.now < (c.snap.slice c.low).cbDue then .wait .poll else .ok

/-- What stands against the issue of a checked bundle: a breakpoint, a fence, its units, its registers, the codebook. -/
def issueStatus (s : State) (c : Issue) (is : List Instr) : Status :=
  match breakpointAt s c with
  | some n => .stop { code := causeBreakpoint, slot := 0, info := BitVec.ofNat 32 n }
  | none => firstStatus (fenceStatus s c is :: is.map (unitStatus s c) ++ is.map (registerStatus c) ++ is.map (codebookStatus s c))

/-! ## Demand fetch and line fills -/

/-- A gang that cannot read its next bundle, or whose bundle fails a check, stops or waits. -/
def State.fetchStop (s : State) (w : Who) (st : Status) : State :=
  let c := s.beginIssue w 0
  match st with
  | .stop x => s.takeStop c x false
  | .wait y => s.takeWait c y
  | .ok => s

/-- A demand fetch: a missing line is requested, within the eight fills that may be outstanding (R68). -/
def State.fetchFail (s : State) (w : Who) (e : FetchFail) : State :=
  match e with
  | .fault va f =>
    s.fetchStop w (.stop { code := causeTranslation, slot := 255, rpl := f.rpl, xlat := xlatDetail s (s.cidOf w) f .fetch va })
  | .page c p => s.fetchStop w (.wait (.page c (BitVec.ofNat 64 p)))
  | .bad => s.fetchStop w (.stop { code := causeIllegalBundle, slot := 255 })
  | .segment n => s.fetchStop w (.wait (.segment n))
  | .miss line e =>
    let k := s.core (coreOf w)
    if lineHeld k.caches line || 8 ≤ k.caches.fills.length then s
    else (s.fillTlb (coreOf w) [e]).requestLine (coreOf w) line

/-- INSTRUCTION_FETCH (R68, R214): the bundle that control has reached is fetched whole and checked; it may then issue,
or the gang stops precisely. -/
def execInstructionFetch (w : Who) (s : State) : Host.Outcome State Fault Refusal :=
  .next (if s.issue.isSome then s
    else
      match fetchBundle s w (s.pcOf w) with
      | .error e => s.fetchFail w e
      | .ok r =>
        match checkBundle (s.decoderOf w) (s.beginIssue w r.len) r with
        | .error x => s.fetchStop w (.stop x)
        | .ok _ => s)

/-- A line put into the instruction cache of 512 lines; a full one gives up its lowest other line (DESIGN CHOICE, log entry
49). -/
def Core.keepCode (c : Core) (line : Nat) (bs : List Byte) : Core :=
  let m := Sparse.put [] line bs c.caches.icache
  let out := if 512 < m.length then (m.map Prod.fst).find? (fun l => l != line) else none
  let m := match out with | some l => Sparse.put [] l [] m | none => m
  { c with caches := { c.caches with icache := m } }

/-- ICACHE_LINE_FILL (R68, R69): the line takes the bytes memory holds at this moment. -/
def execIcacheLineFill (core line : Nat) (s : State) : Host.Outcome State Fault Refusal :=
  .next (if (s.core core).caches.fills.any (fun p => p.1 == line && p.2 ≤ s.now) && !s.isOwned line then
      let s := s.recall line false none
      let bs := s.store.mem.read line 128
      let s := s.onCore core (fun c =>
        let fills := c.caches.fills.filter (fun p => p.1 != line)
        let c := { c with caches := { c.caches with fills := fills } }
        c.keepCode line bs)
      if isLocal line then s.keepL2 line false else s
    else s)

/-- EMPTY_BUNDLE (R198): a bundle with no operation issues with no effect. -/
def execEmptyBundle (w : Who) (s : State) : Host.Outcome State Fault Refusal :=
  .next (if s.issue.isSome then s
    else
      match fetchBundle s w (s.pcOf w) with
      | .ok r => if r.ops.isEmpty && headOk (s.decoderOf w) r.head r.lmask then
        s.complete { s.beginIssue w r.len with marked := r.head.getLsbD 27 } else s
      | .error _ => s)

/-! ## Write-back (R156, R157) -/

/-- The result at position `k` of a group, where it is due and of the kind asked for, written to its registers. -/
def State.writeBack (s : State) (a : GroupAt) (k : Nat) (empties : Bool) : State :=
  match ((s.groupAt a.core a.bank a.slot).inflight)[k]? with
  | some r => if r.due ≤ s.now && !r.held && r.empties == empties then s.onGroupAt a.core a.bank a.slot (fun g => g.land k) else s
  | none => s

/-- WRITE_BACK (R156): the destination is full again. -/
def execWriteBack (a : GroupAt) (k : Nat) (s : State) : Host.Outcome State Fault Refusal := .next (s.writeBack a k true)
/-- FIXED_LATENCY_WRITE_BACK (R157). -/
def execFixedLatencyWriteBack (a : GroupAt) (k : Nat) (s : State) : Host.Outcome State Fault Refusal := .next (s.writeBack a k false)

/-- STORE_PERFORM (R66, R116, R119): the store at a position performs at its home where the order allows it; a position past the
stores is that of a write-combining entry, which is written out. -/
def execStorePerform (core k : Nat) (s : State) : Host.Outcome State Fault Refusal :=
  .next (
    let c := (s.core core).caches
    match c.wc[k - c.stores.length]? with
    | some e => if c.stores.length ≤ k then s.writeOut core e.line else if storeReady s c.stores k then (s.performStore core k).tellCut else s
    | none => if storeReady s c.stores k then (s.performStore core k).tellCut else s)

/-- NOP (R199). -/
def execNop (_o : Site) (s : State) : Host.Outcome State Fault Refusal := .next s

end Sys2Proof.Machine
end

