-- ==== Sys2Proof/Machine/FlagOps.lean ====
section
/-! DEFINITION. The meanings of the flag operations (R304 to R307, R366) and of the thread's ring operations (R46 to R51,
R312, R369). -/

namespace Sys2Proof.Machine

/-! ## Flags -/

/-- The physical flag that fN names for the issuer, or none at or above its allocation (R301, R303). -/
def flagNumber (s : State) (c : Issue) (n : Nat) : Option Nat :=
  match c.who with
  | .glen _ => if n < 16 then some n else none
  | .gang _ => let t := s.teamOf c; if n < t.res.nflags then some (t.res.fbase + n) else none

/-- A flag as the issuer sees it. -/
def flagOfWho (s : State) (w : Who) (n : Nat) : Flag :=
  match w with
  | .gang a => s.flagOf a.core n
  | .glen k => Sparse.look {} n (s.glen k).flags

/-- A flag changed, of a core or a glen core. -/
def State.onFlagOf (s : State) (w : Who) (n : Nat) (f : Flag → Flag) : State :=
  match w with
  | .gang a => s.onFlag a.core n f
  | .glen k => s.onGlenFlag k n f

/-- Has the flag reached the target (R304)? -/
def flagReached (x : Flag) (target : Word) : Bool := (x.value - target).toNat < 2 ^ 31

/-- What WAITF writes: ERR above the value (R304). -/
def flagWord (x : Flag) : DWord := (if x.err then 2 ^ 32 else 0) + x.value.setWidth 64

/-- The flag, target and .clr of a WAITF. -/
def waitfWait (c : Issue) (o : ROp) (n : Nat) : Wait := .flag n ((c.sval o.a).setWidth 32) (o.mod.getLsbD 6)

/-- The gang's next bundle issues no earlier than a cycle (R304). -/
def State.readyAt (s : State) (c : Issue) (n : Nat) : State :=
  s.onGroup c.who (fun g => g.onSlices c.slices (fun y => { y with ready := Nat.max y.ready n }))

/-- The flag-wait record of a core's gang as its WAITF retires, where it waited longer than the threshold (R305, R366): the flag
with the ERR of the word that WAITF writes, the cycles since it began to wait, and the LAST of the flag at the wake. -/
def State.waitRecord (s : State) (c : Issue) (n : Nat) : State :=
  let y := c.snap.slice c.low
  let cycles := s.now - y.began
  let th := (s.core (coreOf c.who)).agent.wlthr.toNat
  if isGlen c.who || th == 0 || cycles ≤ th then s
  else s.trace (coreOf c.who) { type := 7, slices := sliceMask c.snap c.slices, aid := aidOfWho c.who, pc := c.pc, amask := c.mask,
                                p0 := BitVec.ofNat 32 (n + (if y.wake.getLsbD 32 then 256 else 0)), p1 := BitVec.ofNat 64 cycles,
                                p2 := y.last.setWidth 64 }

/-- WAITF (R304). -/
def execWaitf (o : ROp) (s : State) : Host.Outcome State Fault Refusal :=
  .next (s.laneOp o.at' [] (fun c _ _ s =>
    match flagNumber s c (o.mod.extractLsb' 0 6).toNat with
    | none => s.illegalOperand o.at'
    | some n =>
      let w := waitfWait c o n
      if c.had w then (s.waitRecord c n).postScalar c o.d (c.snap.slice c.low).wake 2
      else
        let x := flagOfWho s c.who n
        if flagReached x ((c.sval o.a).setWidth 32) then
          let s := if o.mod.getLsbD 6 then s.onFlagOf c.who n (fun y => { y with err := false }) else s
          (s.readyAt c (s.now + 2)).postScalar c o.d (flagWord x) 4
        else s.waitFor w))

/-- WAITF_WAKE (R304): the flag has reached the target of a waiting gang, whose WAITF retires 6 cycles later; with .clr, ERR is
cleared in the same step. -/
def execWaitfWake (w : Who) (s : State) : Host.Outcome State Fault Refusal :=
  let g := s.groupOf w
  let k := (s.gangOf w).headD 0
  .next (match (g.slice k).run with
    | .waiting (.flag n target clr) _ =>
      let x := flagOfWho s w n
      if flagReached x target && !(s.gangOf w).isEmpty then
        let s := s.onGroup w (fun g => g.onSlices (s.gangOf w) (fun y => { y.wakeUp (s.now + 6) (flagWord x) with last := x.last }))
        if clr then s.onFlagOf w n (fun y => { y with err := false }) else s
      else s
    | _ => s)

/-- A release at a scope by the issuing group, whose threads are every lane, the scalar path and the VLIW thread (R120). False
while a line that a command holds keeps a store back. A glen core's commands and rows are no stores of a thread. -/
def State.release (s : State) (w : Who) (x : Scope) : State × Bool :=
  if isGlen w then (s, true) else s.releaseNow (coreOf w) (threadKey w) (List.range 35) x false

/-- SETF or ADDF of a flag by number (R306). -/
def State.setFlag (s : State) (o : ROp) (f : Word → Word → Word) : State :=
  s.laneOp o.at' [] (fun c _ _ s =>
    match flagNumber s c (o.mod.extractLsb' 0 6).toNat with
    | none => s.illegalOperand o.at'
    | some n =>
      let r := s.release c.who (Scope.ofCode (o.mod.extractLsb' 8 3))
      if !r.2 then s.waitFor .poll
      else r.1.onFlagOf c.who n (Flag.change (fun v => f v ((c.sval o.a).setWidth 32)) false (aidOfWho c.who)))

/-- SETF (R306). -/
def execSetf (o : ROp) (s : State) : Host.Outcome State Fault Refusal := .next (s.setFlag o (fun _ a => a))
/-- ADDF (R306). -/
def execAddf (o : ROp) (s : State) : Host.Outcome State Fault Refusal := .next (s.setFlag o (fun v a => v + a))

/-- SETF or ADDF through a handle: a release at .die or .pkg; a stale handle changes nothing and an event is posted
(R306, R307). -/
def State.setFlagRem (s : State) (o : ROp) (f : Word → Word → Word) : State :=
  s.laneOp o.at' [] (fun c _ _ s =>
    let r := s.release c.who (if (c.sval o.a).toNat % 2 ^ 32 / 2 ^ 30 == dieOfCore (coreOf c.who) then .die else .pkg)
    if !r.2 then s.waitFor .poll
    else
      let h := (c.sval o.a).toNat % 2 ^ 32
      let q := r.1.onHandle h (s.cidOf c.who) (Flag.change (fun v => f v ((c.sval o.b).setWidth 32)) false (aidOfWho c.who))
      if q.2 then q.1 else r.1.staleEvent c.who c.snap c.pc)

/-- SETF_REM (R306). -/
def execSetfRem (o : ROp) (s : State) : Host.Outcome State Fault Refusal := .next (s.setFlagRem o (fun _ a => a))
/-- ADDF_REM (R306). -/
def execAddfRem (o : ROp) (s : State) : Host.Outcome State Fault Refusal := .next (s.setFlagRem o (fun v a => v + a))

/-- SETF_HND (R306). -/
def execSetfHnd (o : ROp) (s : State) : Host.Outcome State Fault Refusal :=
  .next (s.laneOp o.at' [] (fun c _ _ s =>
    match flagNumber s c (o.mod.extractLsb' 0 6).toNat with
    | none => s.illegalOperand o.at'
    | some n =>
      let h := match c.who with | .gang a => flagHandle s a.core n | .glen k => glenHandle s k n
      s.postScalar c o.d (BitVec.ofNat 64 h) 2))

/-! ## Thread-side ring operations (R312) -/

/-- The physical ring that ringN names, or none at or above the team's allocation (R301). -/
def ringNumber (s : State) (c : Issue) (n : Nat) : Option Nat := (s.teamOf c).res.rings[n]?

/-- An operation on the ring of word 1, which must be the team's and, for `live`, configured (R301, R312). -/
def State.ringOp (s : State) (o : EOp) (live : Bool) (f : Issue → Nat → Ring → State → State) : State :=
  s.laneOp o.at' [] (fun c _ _ s =>
    match ringNumber s c (o.ext.extractLsb' 0 4).toNat with
    | none => s.illegalOperand o.at'
    | some r =>
      let x := s.ring (coreOf c.who) r
      if live && !x.valid then s.illegalOperand o.at' else f c r x s)

/-- The count operand of a form, or none where it is 0 or above COUNT (R312). -/
def ringCount (c : Issue) (o : EOp) (x : Ring) : Option Nat :=
  let n := (c.sval o.a).toNat % 2 ^ 32
  if n == 0 || x.count < n then none else some n

/-- Does a ring have no operation left that names it (R46)? -/
def Ring.idle (x : Ring) : Bool := x.producers.isEmpty && x.consumers.isEmpty

/-- Is the configuration image well formed (R46, R312)? -/
def ringImageOk (s : State) (c : Issue) (r : Nat) (a : DWord) : Bool :=
  let count := bitsOf a 52 44
  let size := bitsOf a 39 28
  let base := bitsOf a 18 0
  let t := s.teamOf c
  let others := { t with res := { t.res with rings := t.res.rings.filter (fun q => q != r) } }
  let hi := base + count * size * 128
  bitsOf a 62 53 == 0 && bitsOf a 43 40 == 0 && bitsOf a 27 19 == 0 &&
    (!a.getLsbD 63 || (1 ≤ count && count ≤ 256 && 1 ≤ size && base % 128 == 0 && hi ≤ t.res.spsize &&
      !regionBusy (s.core (coreOf c.who)) others base hi))

/-- RINGCFG (R46, R48, R312). -/
def execRingcfg (o : EOp) (s : State) : Host.Outcome State Fault Refusal :=
  .next (s.ringOp o false (fun c r x s =>
    let a := c.sval o.a
    let core := coreOf c.who
    if !ringImageOk s c r a then s.illegalOperand o.at'
    else if x.valid && !x.idle then s.waitFor (.ringcfg r)
    else
      let y : Ring := if a.getLsbD 63 then
          { valid := true, base := bitsOf a 18 0, slotsz := bitsOf a 39 28, count := bitsOf a 52 44, gen := x.gen + 1 }
        else { gen := x.gen + 1 }
      let s := s.onRing core r (fun _ => y)
      s.postScalar c o.d (if a.getLsbD 63 then BitVec.ofNat 64 (ringHandle s core r) else 0) 2))

/-- The offset of a granted reservation or take handed to the thread (R312). -/
def State.handSlots (s : State) (c : Issue) (o : EOp) (x : Ring) (first : Nat) : State :=
  s.postScalar c o.d (BitVec.ofNat 64 (x.slotAt first)) 2

/-- A gang's own hold on a ring. -/
def myHold (c : Issue) (hs : List RingHold) : Option RingHold := hs.find? (fun h => h.thread && h.cmd == gangKey c.who c)

/-- RINGCFG_RSV (R49, R51, R312). -/
def execRingcfgRsv (o : EOp) (s : State) : Host.Outcome State Fault Refusal :=
  .next (s.ringOp o true (fun c r x s =>
    match ringCount c o x with
    | none => s.illegalOperand o.at'
    | some n =>
      match myHold c x.producers with
      | some h =>
        if h.granted then (s.onRing (coreOf c.who) r (fun y => { y with producers := y.producers.erase h })).handSlots c o x h.first
        else s.waitFor (.ring r false n)
      | none =>
        let h := newHold c n
        if (firstWaiting x.producers).isNone && x.reserveFits h then
          (s.onRing (coreOf c.who) r (fun y => { y with rsv := y.adv y.rsv n, own := y.ownWith h false y.rsv })).handSlots c o x x.rsv
        else s.waitFor (.ring r false n)))

/-- RINGCFG_TAKE (R50, R51, R312). -/
def execRingcfgTake (o : EOp) (s : State) : Host.Outcome State Fault Refusal :=
  .next (s.ringOp o true (fun c r x s =>
    match ringCount c o x with
    | none => s.illegalOperand o.at'
    | some n =>
      match myHold c x.consumers with
      | some h =>
        if h.granted && x.passed h.first n then
          (s.onRing (coreOf c.who) r (fun y => { y with consumers := y.consumers.erase h })).handSlots c o x h.first
        else s.waitFor (.ring r true n)
      | none =>
        let h := newHold c n
        if (firstWaiting x.consumers).isNone && x.claimFits n && x.tableRoom true && x.passed x.clm n then
          (s.onRing (coreOf c.who) r (fun y => { y with clm := y.adv y.clm n, own := y.ownWith h true y.clm })).handSlots c o x x.clm
        else s.waitFor (.ring r true n)))

/-- RINGCFG_CMT (R49, R51, R312): a release at .core; TAIL advances in reservation order. -/
def execRingcfgCmt (o : EOp) (s : State) : Host.Outcome State Fault Refusal :=
  .next (s.ringOp o true (fun c r x s =>
    match ringCount c o x with
    | none => s.illegalOperand o.at'
    | some n =>
      if ownedSlots false c.snap.number x.own < n then s.illegalOperand o.at'
      else
        let q := s.release c.who .core
        if !q.2 then s.waitFor .poll
        else q.1.onRing (coreOf c.who) r (fun y => { y with own := markDone y false c.snap.number n y.own })))

/-- RINGCFG_POP (R50, R51, R312): HEAD advances in claim order. -/
def execRingcfgPop (o : EOp) (s : State) : Host.Outcome State Fault Refusal :=
  .next (s.ringOp o true (fun c r x s =>
    match ringCount c o x with
    | none => s.illegalOperand o.at'
    | some n =>
      if ownedSlots true c.snap.number x.own < n then s.illegalOperand o.at'
      else s.onRing (coreOf c.who) r (fun y => ({ y with own := markDone y true c.snap.number n y.own } : Ring).popAll)))

/-- RINGCFG_HND (R48, R312). -/
def execRingcfgHnd (o : EOp) (s : State) : Host.Outcome State Fault Refusal :=
  .next (s.ringOp o true (fun c r _ s => s.postScalar c o.d (BitVec.ofNat 64 (ringHandle s (coreOf c.who) r)) 2))

/-! ## Ring events -/

/-- The slices of the gang with a key woken, where they wait for this ring. -/
def State.wakeHold (s : State) (core r : Nat) (h : RingHold) : State :=
  s.onCore core (fun c => c.onGroupK h.group (fun g =>
    g.onSlices (g.gangOf (h.cmd % 8)) (fun y =>
      match y.run with
      | .waiting (.ring n _ _) _ => if n == r then y.wakeUp s.now 0 else y
      | _ => y)))

/-- RING_RESERVE_GRANT (R49): the first waiting reservation fits. -/
def execRingReserveGrant (core ring : Nat) (s : State) : Host.Outcome State Fault Refusal :=
  let x := s.ring core ring
  .next (match firstWaiting x.producers with
    | some h =>
      if x.valid && x.reserveFits h then
        let s := s.onRing core ring Ring.grantReserve
        if h.thread then s.wakeHold core ring h else s
      else s
    | none => s)

/-- RING_COMMIT (R49): TAIL advances past completed reservations, and HEAD past claims already popped that it now passes. -/
def execRingCommit (core ring : Nat) (s : State) : Host.Outcome State Fault Refusal :=
  .next (if (s.ring core ring).valid then s.onRing core ring (fun x => x.commitAll.popAll) else s)

/-- RING_CLAIM_GRANT (R50): the first waiting claim fits; a thread whose claimed slots TAIL has passed goes on. -/
def execRingClaimGrant (core ring : Nat) (s : State) : Host.Outcome State Fault Refusal :=
  .next (if !(s.ring core ring).valid then s
    else
      let s := s.onRing core ring Ring.grantClaim
      let x := s.ring core ring
      (x.consumers.filter (fun h => h.thread && h.granted && x.passed h.first h.n)).foldl (fun s h => s.wakeHold core ring h) s)

/-- RING_RECONFIGURE (R46): every operation that named the ring has retired, so a waiting RINGCFG goes on. -/
def execRingReconfigure (core ring : Nat) (s : State) : Host.Outcome State Fault Refusal :=
  .next (if (s.ring core ring).idle then
      (s.core core).groups.foldl (fun s p => s.onCore core (fun c => c.onGroupK p.1 (fun g =>
        { g with slices := g.slices.map (fun y =>
            match y.run with
            | .waiting (.ringcfg n) _ => if n == ring then y.wakeUp s.now 0 else y
            | _ => y) }))) s
    else s)

end Sys2Proof.Machine
end

