-- ==== Sys2Proof/Machine/Engine.lean ====
section
/-! DEFINITION. What every engine command shares (R131 to R137, R301 to R303): its queue, ownership, start, completion,
pause and error records; and the copy engine (R308 to R311).
Readings of the rules: DEDUCED, log entry 44. -/

namespace Sys2Proof.Machine

/-! ## Queues (R302) -/

/-- The commands that a queue holds. -/
def queueDepth (unit : Nat) : Nat := if unit == 2 then 8 else 16

/-- Is a core's queue full? A command leaves its queue when it starts. -/
def queueFull (c : Core) (unit : Nat) : Bool :=
  queueDepth unit ≤ (c.cmds.filter (fun d => unitOf d.op == unit && !d.begun)).length

/-- The command that an issuing gang makes, with what it samples at issue (R202, R302). -/
def newCmd (s : State) (c : Issue) (site : Site) (op : Instr) : Cmd :=
  { id := (s.core (coreOf c.who)).nextCmd, op := op, who := c.who, team := teamKey c.who c.snap, cid := s.cidOf c.who,
    order := s.store.nextOwner, pc := c.pc, slot := slotNumber site.slot,
    slices := c.slices.map (fun k => k + (if c.snap.gid.half && c.snap.gid.hnum == 1 then 4 else 0)), amask := c.opMask site,
    fmt := (c.snap.slice c.low).fmt, codebook := c.snap.codebook }

/-- Is a TST of the issuer's group not yet done? Its writes come before the group's later engine commands (R319). -/
def tstOutstanding (k : Core) (w : Who) : Bool :=
  k.cmds.any (fun d => sameGroup d.who w && (match d.op with | .tst _ => true | _ => false))

/-- Does the operation name a flag outside the team's allocation (R301)? -/
def flagMissing (s : State) (c : Issue) (op : Instr) : Bool :=
  match flagField op with
  | some n => (flagNumber s c n).isNone
  | none => false

/-- What the issue of a command needs of the stores on their way (R131): the write-combining entries of the group's threads are
written out, and every store, non-temporal ones too, reaches stage 2, or stage 3 where the unit is outside the core. False while
one cannot. -/
def State.settleIssue (s : State) (core key : Nat) (outside : Bool) : State × Bool :=
  let want (t : PendingStore) : Bool := outside || !t.stage2
  let s := s.writeOutWhere core (fun e => e.threads.any (fun t => t.1 == key))
  let s := s.drainStores core want
  (s, !(s.core core).caches.stores.any want)

/-- A command accepted: its flag lies in the allocation, its queue has room, and its issue has released the group's earlier
writes, to stage 3 where the unit is outside the core (R131, R301, R302). `f` fills in the command; `g` acts on the state
once it is queued. -/
def State.accept (s : State) (c : Issue) (site : Site) (op : Instr) (f : Cmd → Cmd) (g : Cmd → State → State) : State :=
  let core := coreOf c.who
  if flagMissing s c op then s.illegalOperand site
  else if queueFull (s.core core) (unitOf op) || (unitOf op != 3 && tstOutstanding (s.core core) c.who) then s.waitFor .poll
  else
    let r := s.settleIssue core (threadKey c.who) (unitOf op == 4 || (match op with | .attn _ => true | _ => false))
    if !r.2 then s.waitFor .poll
    else
      let d := f (newCmd r.1 c site op)
      let s := r.1.onStore (fun m => { m with nextOwner := m.nextOwner + 1 })
      g d (s.onCore core (fun k => { k with cmds := k.cmds ++ [d], nextCmd := k.nextCmd + 1 }))

/-! ## Engine accesses (R31, R131) -/

/-- A run of bytes split at 4 KiB boundaries, within which every translation is one piece. -/
def pagePieces (va : DWord) : Nat → Nat → List (DWord × Nat)
  | _, 0 => []
  | n, fuel + 1 =>
    if n == 0 then []
    else
      let k := Nat.min n (4096 - va.toNat % 4096)
      (va, k) :: pagePieces (va + BitVec.ofNat 64 k) (n - k) fuel

/-- A run of `n` bytes from an address in pieces. -/
def runPieces (va : DWord) (n : Nat) : List (DWord × Nat) := pagePieces va n (n / 4096 + 2)

/-- A translated piece: its place, its bytes and its entry. -/
structure EPiece where
  place : Nat
  bytes : Nat
  entry : TlbEntry
  deriving DecidableEq, Repr

/-- Why an engine cannot go on: a fault, a page of the host, a line that an earlier command holds, or a descriptor that
breaks its limits (R96). -/
inductive EFail where
  | fault (va : DWord) (f : XFault) (k : AccessKind)
  | page (cid va : Nat)
  | held
  | bad
  deriving DecidableEq, Repr

/-- The pieces of an engine's access in order, the first failure standing. -/
def engineReachTlb (s : State) (tlb : List TlbEntry) (cid : Nat) (k : AccessKind) : List (DWord × Nat) → Except EFail (List EPiece)
  | [] => .ok []
  | (va, n) :: rest =>
    match translate s tlb cid false va k with
    | .fault f => .error (.fault va f k)
    | .ats c p => .error (.page c p)
    | .ok e =>
      match engineReachTlb s tlb cid k rest with
      | .error x => .error x
      | .ok l => .ok ({ place := e.place va, bytes := n, entry := e } :: l)

/-- The same for an engine of a core or of its die, which walks afresh; the host's grants lie in the die's L3 banks (R22, R31;
DESIGN CHOICE, log entry 24). -/
def engineReach (s : State) (core cid : Nat) (k : AccessKind) (ps : List (DWord × Nat)) : Except EFail (List EPiece) :=
  engineReachTlb s (s.dieGrants (dieOfCore core)) cid k ps

/-- The places of pieces, byte by byte. -/
def placesOf (ps : List EPiece) : List Nat := ps.flatMap (fun p => (List.range p.bytes).map (fun i => p.place + i))

/-- The cached local lines of pieces, which a command owns (R132, R134). -/
def ownedLines (ps : List EPiece) : List Nat :=
  ((ps.filter (fun p => p.entry.mt == 0#2 && p.entry.home == 0#2)).flatMap (fun p =>
    (List.range ((p.place + p.bytes - 1) / 128 + 1 - p.place / 128)).map (fun i => (p.place / 128 + i) * 128))).dedup

/-- Is a line held by a command that registered before `order`? -/
def State.heldBefore (s : State) (line order : Nat) : Bool := s.store.owners.any (fun o => o.line == line && o.seq < order)

/-- The agent number that stands for an engine among a core's threads. -/
def engineThread : Nat := 4096

/-- A byte that an engine of a core reads coherently: stores of the core at stage 2 are seen (R131). -/
def State.engineByte (s : State) (core : Nat) (b : SpadByte) : Byte :=
  match b with
  | .here a => (s.core core).store.spad.byte a
  | .there p => s.seenByte core engineThread 33 p

/-- Stash copies in state M of the places written back before an engine reads them (R58). -/
def State.recallAll (s : State) (ps : List Nat) : State :=
  ((ps.map lineOf).dedup).foldl (fun s l => s.recall l false none) s

/-- Bytes that an engine writes, each with its poison (R73): scratchpad bytes of `core`, or places of memory. -/
def State.engineWrite (s : State) (core : Nat) (bs : List (SpadByte × Byte × Bool)) : State :=
  let here := bs.filter (fun b => match b.1 with | .here _ => true | .there _ => false)
  let s := s.spadWrite core (here.map (fun b => (b.1, b.2.1)))
  let bad := here.filterMap (fun b => match b.1 with | .here a => if b.2.2 then some (a / 4) else none | .there _ => none)
  let s := if bad.isEmpty then s
    else s.onCore core (fun c => { c with store := { c.store with
      spadPoison := bad.foldl (fun m w => Sparse.put false w true m) c.store.spadPoison } })
  let there (p : Bool) : List (Nat × Byte) :=
    bs.filterMap (fun b => match b.1 with | .here _ => none | .there q => if b.2.2 == p then some (q, b.2.1) else none)
  let s := if (there false).isEmpty then s else s.coherentWrite noCore (there false) false none
  if (there true).isEmpty then s else s.coherentWrite noCore (there true) true none

/-! ## Ownership (R132, R133) -/

/-- Lines registered for a command: stash and L1 copies go. -/
def State.own (s : State) (unit cmd order : Nat) (lines : List Nat) : State :=
  let s := lines.foldl (fun s l => (s.recall l true none).dropL1 noCore l) s
  s.onStore (fun m => { m with owners := m.owners ++ lines.map (fun l => { line := l, unit := unit, cmd := cmd, seq := order }) })

/-! ## Errors -/

/-- The malformed-descriptor event with the descriptor's address (R96); the record has it in AUX (DEDUCED, log entry 16). -/
def State.malformed (s : State) (core : Nat) (d : Cmd) (addr : DWord) : State :=
  s.cmdRecord core d { code := 0x22, aux := addr } false none

/-- A page of the host that an engine of a die meets is asked for (R22). -/
def State.askFor (s : State) (die : Nat) (e : EFail) : State :=
  match e with
  | .page c p => s.askHost die c p
  | _ => s

/-- A command that its unit cannot carry on with (R136, R353): a replayable fault pauses it and is told to the host; any
other ends it with ERR, and its team; a page that the host must grant is waited for. -/
def State.cmdFail (s : State) (core : Nat) (d : Cmd) (e : EFail) (tag : Option Nat) : State :=
  match e with
  | .page .. | .held | .bad => s.askFor (dieOfCore core) e
  | .fault va f k =>
    let x : Stop := { code := causeTranslation, rpl := true, xlat := xlatDetail s d.cid f k va }
    if f.rpl then
      let s := s.onCmd core d.id (fun y => { y with paused := some x })
      let s := match tag with
        | some t => s.onCore core (fun c => c.onTeam d.team (fun y => y.count t 3 1))
        | none => s
      s.cmdRecord core d x true (some (.cmd core d.id))
    else
      let s := s.forgetRefused d.cid x.xlat
      let y : Stop := { code := causeEngine, xlat := x.xlat, aux := BitVec.ofNat 64 (unitOf d.op) }
      ((s.cmdRecord core d y true none).endCmd core d true true).endTeam core d.team y

/-! ## Starting (R302, R350) -/

/-- Does a hold of a command wait at a ring? -/
def holdsWait (s : State) (core id : Nat) (rings : List (Nat × Nat)) : Bool :=
  rings.any (fun p => (s.ring p.1 p.2).producers.any (fun h => !h.thread && h.cmd == holdKey core id && !h.granted))

/-- Have the earlier commands of its queue started, or paused on faults of their own? -/
def earlierStarted (c : Core) (d : Cmd) : Bool :=
  (c.cmds.filter (fun x => x.id < d.id && unitOf x.op == unitOf d.op)).all (fun x => x.begun || x.paused.isSome)

/-- Have the earlier commands of its queue left it? -/
def earlierGone (c : Core) (d : Cmd) : Bool := (c.cmds.filter (fun x => x.id < d.id && unitOf x.op == unitOf d.op)).isEmpty

/-! ## Copy descriptors (R308, R309) -/

/-- A number in a descriptor. -/
def descNum (bs : List Byte) (off n : Nat) : Nat := leNat ((bs.drop off).take n)
/-- A signed 32-bit number in a descriptor. -/
def descInt (bs : List Byte) (off : Nat) : Int := toSigned 32 (descNum bs off 4)

/-- A copy descriptor. -/
structure CopyDesc where
  src : DWord
  dst : DWord
  len0 : Nat
  ctl : Nat
  dims : List (Nat × Int × Int)
  tail : Nat
  deriving DecidableEq, Repr

/-- The descriptor in 96 bytes; dimension 1 first. -/
def copyDesc (bs : List Byte) : CopyDesc :=
  { src := BitVec.ofNat 64 (descNum bs 0 8), dst := BitVec.ofNat 64 (descNum bs 8 8), len0 := descNum bs 0x10 4,
    ctl := descNum bs 0x14 4, tail := descNum bs 0x54 12,
    dims := [1, 2, 3, 4, 5].map (fun k => (descNum bs (0x0C + 12 * k) 4, descInt bs (0x10 + 12 * k), descInt bs (0x14 + 12 * k))) }

def CopyDesc.sk (d : CopyDesc) : Nat := d.ctl % 4
def CopyDesc.dk (d : CopyDesc) : Nat := d.ctl / 4 % 4
def CopyDesc.dn (d : CopyDesc) : Nat := d.ctl / 16 % 16
def CopyDesc.sz (d : CopyDesc) : Nat := d.ctl / 256 % 8
def CopyDesc.dz (d : CopyDesc) : Nat := d.ctl / 2048 % 8
def CopyDesc.tag (d : CopyDesc) : Nat := d.ctl / 2 ^ 20 % 256
/-- The policy and reuse class of the source's reads (R65, R85). -/
def CopyDesc.pol (d : CopyDesc) : Nat := d.ctl / 2 ^ 16 % 4 + 4 * (d.ctl / 2 ^ 14 % 4)
/-- B of R309. -/
def CopyDesc.total (d : CopyDesc) : Nat := d.dims.foldl (fun b x => b * x.1) d.len0

/-- The source and destination offsets of every run, in destination order (R309). -/
def CopyDesc.runs (d : CopyDesc) : List (Int × Int) :=
  d.dims.reverse.foldl (fun rs x => rs.flatMap (fun r =>
    (List.range x.1).map (fun (i : Nat) => (r.1 + (i : Int) * x.2.1, r.2 + (i : Int) * x.2.2)))) [(0, 0)]

/-- The least offset and the end of a footprint with these strides. -/
def spanOf (len : Nat) (ds : List (Nat × Int)) : Int × Int :=
  ds.foldl (fun r x => (r.1 + min 0 (((x.1 : Int) - 1) * x.2), r.2 + max 0 (((x.1 : Int) - 1) * x.2))) (0, (len : Int))

def CopyDesc.srcDims (d : CopyDesc) : List (Nat × Int) := d.dims.map (fun x => (x.1, x.2.1))
def CopyDesc.dstDims (d : CopyDesc) : List (Nat × Int) := d.dims.map (fun x => (x.1, x.2.2))

/-- Runs, base and strides in whole words (R310). -/
def wordAligned (len base : Nat) (ds : List (Nat × Int)) : Bool :=
  len % 4 == 0 && base % 4 == 0 && ds.all (fun x => x.2 % 4 == 0)

/-- A footprint in a region of `size` bytes. -/
def fits (base : Nat) (len : Nat) (ds : List (Nat × Int)) (size : Nat) : Bool :=
  let p := spanOf len ds
  0 ≤ (base : Int) + p.1 && (base : Int) + p.2 ≤ (size : Int)

/-- Does any run touch a mapped stash window (R45)? -/
def touchesStash (t : Team) (base len : Nat) (offs : List Int) : Bool :=
  t.stash.any (fun w => w.2.valid && offs.any (fun o =>
    (base : Int) + o < ((w.2.w + 128 * w.2.n : Nat) : Int) && ((w.2.w : Nat) : Int) < (base : Int) + o + (len : Int)))

/-- The limits of R308. -/
def CopyDesc.limitsOk (d : CopyDesc) : Bool :=
  1 ≤ d.len0 && d.len0 ≤ 2 ^ 20 && d.dims.all (fun x => 1 ≤ x.1 && x.1 ≤ 65536) && d.ctl < 2 ^ 28 && d.tail == 0 && d.sk < 2 &&
    (d.sk != 1 || d.src.toNat < 2 ^ 19) && (d.dk != 1 || d.dst.toNat < 2 ^ 19) &&
    (d.dk != 3 || (d.dst == 0 && d.dn < 8 && d.dims.all (fun x => x.2.2 == 0)))

/-- A scratchpad side: inside the region, outside every stash window, in whole words (R310). -/
def spadSideOk (t : Team) (base len : Nat) (ds : List (Nat × Int)) (offs : List Int) : Bool :=
  wordAligned len base ds && fits base len ds t.res.spsize && !touchesStash t base len offs

/-- The slot-size conditions on a destination ring (R310, R311). -/
def CopyDesc.slotsOk (d : CopyDesc) (x : Ring) : Bool := x.valid && d.total % x.slotBytes == 0 && d.total / x.slotBytes ≤ x.count

/-- The conditions on a destination footprint within reserved slots of as many bytes as the copy has (R310). -/
def CopyDesc.footOk (d : CopyDesc) : Bool := fits d.dst.toNat d.len0 d.dstDims d.total && wordAligned d.len0 d.dst.toNat d.dstDims

/-- Every check of R310 but the ring's and the stream's. -/
def CopyDesc.ok (d : CopyDesc) (t : Team) : Bool :=
  d.limitsOk && (d.sk != 1 || spadSideOk t d.src.toNat d.len0 d.srcDims (d.runs.map Prod.fst)) &&
    (d.dk != 1 || spadSideOk t d.dst.toNat d.len0 d.dstDims (d.runs.map Prod.snd))

/-- The pieces of a global side. -/
def CopyDesc.pieces (d : CopyDesc) (base : DWord) (offs : List Int) : List (DWord × Nat) :=
  offs.flatMap (fun o => runPieces (base + BitVec.ofInt 64 o) d.len0)

/-! ## Issue of CPY and CPYM (R310, R311) -/

/-- The descriptor read at issue: a load of the gang, with the faults of one (R285, R310). -/
def State.readDesc (s : State) (c : Issue) (site : Site) (addr : DWord) (n : Nat) (f : List Byte → State → State) : State :=
  let ps := (List.range (n / 4)).map (fun i => (GAddr.va (addr + BitVec.ofNat 64 (4 * i)), 4))
  s.reach c site 0 .read [(scalarLane, ps)] (fun ls s =>
    let r := s.settleLoad c none ls
    if !r.2 then s.waitFor .poll
    else if (poisonedLane r.1 ls).isSome then r.1.poisonStop site .zero 0
    else f (ls.flatMap (boundBytes r.1 c)) r.1)

/-- The destination lines of a copy, or the failure that leaves them to OWNERSHIP_REGISTRATION. -/
def copyLines (s : State) (core cid : Nat) (d : CopyDesc) : Except EFail (List Nat) :=
  if d.dk != 0 then .ok []
  else
    match engineReach s core cid .engineWrite (d.pieces d.dst (d.runs.map Prod.snd)) with
    | .ok ps => .ok (ownedLines ps)
    | .error e => .error e

/-- A copy command queued: its lines are registered at once where its destination translates (R132). -/
def State.queueCopy (s : State) (c : Issue) (d : CopyDesc) (m : Cmd) : State :=
  match copyLines s (coreOf c.who) m.cid d with
  | .error _ => s
  | .ok lines =>
    let r := s.settleLines (coreOf c.who) lines
    if !r.2 then s.waitFor .poll
    else (r.1.own (coreOf c.who) m.id m.order lines).onCmd (coreOf c.who) m.id (fun y => { y with phase := .registered })

/-- A reservation of `n` slots for a command (R49). -/
def State.reserveFor (s : State) (core ring key group n : Nat) : State :=
  s.onRing core ring (fun x => { x with producers := x.producers ++ [{ cmd := key, group := group, n := n }] })

/-- CPY (R310). -/
def execCpy (o : EOp) (s : State) : Host.Outcome State Fault Refusal :=
  .next (s.laneOp o.at' [] (fun c _ _ s =>
    let core := coreOf c.who
    let a := c.sval o.a
    if a.toNat % 16 != 0 || flagMissing s c (.cpy o) then s.illegalOperand o.at'
    else
      s.readDesc c o.at' a 96 (fun bs s =>
        let d := copyDesc bs
        let t := s.teamOf c
        let ring := (ringNumber s c d.dn).map (fun r => (r, s.ring core r))
        let q := (s.cur c).stream d.dn
        let destOk := match d.dk with
          | 2 => (match ring with | some (_, x) => d.slotsOk x && d.footOk | none => false)
          | 3 => q.size != 0 && d.total % 4 == 0
          | _ => true
        if !d.ok t || !destOk then s.illegalOperand o.at'
        else
          s.accept c o.at' (.cpy o) (fun m => { m with a := a, desc := bs }) (fun m s =>
            let s := match d.dk, ring with
              | 2, some (r, x) => s.reserveFor core r (holdKey core m.id) m.groupKey (d.total / x.slotBytes)
              | 3, _ =>
                s.onGroup c.who (fun g =>
                  let y := g.stream d.dn
                  { g with q := Sparse.put {} d.dn { y with named := y.named + 1, done := false } g.q })
              | _, _ => s
            s.queueCopy c d m))))

/-- The ring handles of a CPYM, read at issue. -/
def handlesAt (s : State) (c : Issue) (off n : Nat) : List Nat :=
  (List.range n).map (fun i => ((s.core (coreOf c.who)).store.spad.read ((s.teamOf c).res.spbase + off + 4 * i) 4 |> leNat))

/-- The destination of a handle of CPYM: a live ring of the die and context that passes the slot-size test (R311). -/
def handleDest (s : State) (core cid : Nat) (d : CopyDesc) (h : Nat) : Option (Nat × Nat) :=
  match ringPlace s h cid with
  | some (k, r) => if dieOfCore k == dieOfCore core && d.slotsOk (s.ring k r) then some (k, r) else none
  | none => none

/-- CPYM (R311). -/
def execCpym (o : EOp) (s : State) : Host.Outcome State Fault Refusal :=
  .next (s.laneOp o.at' [] (fun c _ _ s =>
    let core := coreOf c.who
    let a := c.sval o.a
    let b := (c.sval o.b).toNat
    let n := (o.ext.extractLsb' 7 3).toNat + 1
    let t := s.teamOf c
    if a.toNat % 16 != 0 || b % 4 != 0 || t.res.spsize < b + 4 * n || touchesStash t b (4 * n) [0] || flagMissing s c (.cpym o) then s.illegalOperand o.at'
    else
      s.readDesc c o.at' a 96 (fun bs s =>
        let d := copyDesc bs
        if d.dk != 2 || !d.ok t || !d.footOk then s.illegalOperand o.at'
        else
          let hs := handlesAt s c b n
          let lost := (List.range n).any (fun i => s.spadBad core (.here (t.res.spbase + b + 4 * i)))
          let ds := hs.filterMap (handleDest s core (s.cidOf c.who) d)
          s.accept c o.at' (.cpym o)
            (fun m => { m with a := a, b := c.sval o.b, desc := bs, phase := .registered, err := lost || decide (ds.length < n),
                               aux := ds.map (fun p => 128 * p.1 + p.2) })
            (fun m s => ds.foldl (fun s p =>
              s.reserveFor p.1 p.2 (holdKey core m.id) m.groupKey (d.total / (s.ring p.1 p.2).slotBytes)) s))))

/-! ## The course of a copy -/

/-- The rings that a copy command writes, as core and ring. -/
def copyRings (s : State) (core : Nat) (m : Cmd) : List (Nat × Nat) :=
  match m.op with
  | .cpym _ => m.aux.map (fun x => (x / 128, x % 128))
  | _ =>
    let d := copyDesc m.desc
    if d.dk == 2 then (match ((s.core core).team m.team).res.rings[d.dn]? with | some r => [(core, r)] | none => []) else []

/-- A command's first granted hold on a ring that is not done. -/
def grantedHold (x : List RingHold) (key : Nat) : Option RingHold := x.find? (fun h => !h.thread && h.cmd == key && h.granted && !h.done)

/-- The ownership of a command whose destination did not translate at issue (R132): a fault pauses or ends it. -/
def State.registerCopy (s : State) (core : Nat) (m : Cmd) : State :=
  let d := copyDesc m.desc
  match copyLines s core m.cid d with
  | .error e => s.cmdFail core m e (some d.tag)
  | .ok lines =>
    let r := s.settleLines core lines
    if !r.2 then s else (r.1.own core m.id m.order lines).onCmd core m.id (fun y => { y with phase := .registered })

/-- May a copy start: in order, registered, its reservations granted, no earlier copy to its stream (R302, R310)? -/
def copyCanStart (s : State) (core : Nat) (m : Cmd) : Bool :=
  let c := s.core core
  let d := copyDesc m.desc
  m.phase == .registered && m.paused.isNone && earlierStarted c m && !holdsWait s core m.id (copyRings s core m) &&
    (d.dk != 3 || (c.cmds.filter (fun x => x.id < m.id && unitOf x.op == 1)).all (fun x =>
      let y := copyDesc x.desc
      !(y.dk == 3 && y.dn == d.dn && x.groupKey == m.groupKey)))

/-- A team-relative offset in a footprint. -/
def offAt (base : DWord) (o : Int) (i : Nat) : Nat := ((base.toNat : Int) + o + (i : Int)).toNat

/-- The places of a copy's source bytes, in destination order. -/
def copySource (s : State) (core : Nat) (m : Cmd) : Except EFail (List SpadByte) :=
  let d := copyDesc m.desc
  let offs := d.runs.map Prod.fst
  if d.sk == 1 then
    let t := (s.core core).team m.team
    .ok (offs.flatMap (fun o => (List.range d.len0).map (fun i =>
      SpadByte.here (t.res.spbase + spadPhys (offAt d.src o i) d.sz))))
  else
    match engineReach s core m.cid .engineRead (d.pieces d.src offs) with
    | .ok ps => .ok ((placesOf ps).map SpadByte.there)
    | .error e => .error e

/-- The targets of a copy's bytes on one ring from the counter value `first`. -/
def ringTargets (s : State) (k r : Nat) (d : CopyDesc) (first : Nat) : List SpadByte :=
  let x := s.ring k r
  let base := match ringTeam (s.core k) r with | some (_, t) => t.res.spbase | none => 0
  (d.runs.map Prod.snd).flatMap (fun o => (List.range d.len0).map (fun i =>
    SpadByte.here (base + spadPhys (x.byteAt first (offAt d.dst o i)) d.dz)))

/-- The targets of a copy's bytes in memory or the scratchpad. -/
def copyTargets (s : State) (core : Nat) (m : Cmd) : Except EFail (List SpadByte) :=
  let d := copyDesc m.desc
  let offs := d.runs.map Prod.snd
  if d.dk == 1 then
    let t := (s.core core).team m.team
    .ok (offs.flatMap (fun o => (List.range d.len0).map (fun i =>
      SpadByte.here (t.res.spbase + spadPhys (offAt d.dst o i) d.dz))))
  else if d.dk == 0 then
    match engineReach s core m.cid .engineWrite (d.pieces d.dst offs) with
    | .ok ps => .ok ((placesOf ps).map SpadByte.there)
    | .error e => .error e
  else .ok []

/-- Is a target poisoned for an engine that reads it? -/
def State.engineBad (s : State) (core : Nat) (b : SpadByte) : Bool := s.spadBad core b

/-- The word of a scratchpad or memory byte. -/
def SpadByte.word : SpadByte → Nat
  | .here a => a / 4
  | .there p => p / 4

/-- The byte whose original value a source byte of a command gives: a word that the command itself writes is read with its old
value, or with the value that the command writes there, which is again the value of a source byte (R135; DESIGN CHOICE, log entry
17). `pairs` are the command's source and destination bytes. -/
def overlapFrom (pairs : List (SpadByte × SpadByte)) (free : Nat) : Nat → SpadByte → SpadByte
  | 0, b => b
  | fuel + 1, b =>
    match pairs.reverse.find? (fun p => p.2 == b) with
    | some p => if Config.overlapReadsNew free b.word then overlapFrom pairs free fuel p.1 else b
    | none => b

/-- The source bytes of a command as it reads them, each with its poison; `pairs` are its source and destination bytes on the
core's own side. -/
def readSources (s : State) (core : Nat) (pairs : List (SpadByte × SpadByte)) (src : List SpadByte) : List (Byte × Bool) :=
  src.map (fun b =>
    let a := overlapFrom pairs s.free pairs.length b
    (s.engineByte core a, s.engineBad core a))

/-- The source and destination pairs of bytes that a command reads and writes both, if any byte is. -/
def overlapPairs (src : List SpadByte) (pairs : List (SpadByte × SpadByte)) : List (SpadByte × SpadByte) :=
  if src.any (fun b => pairs.any (fun p => p.2 == b)) then pairs else []

/-- Bytes copied, in order; a fresh number for the choice where source and destination meet. -/
def State.moveBytes (s : State) (core : Nat) (src dst : List SpadByte) : State :=
  let pairs := overlapPairs src (src.zip dst)
  let vals := readSources s core pairs src
  let s := if pairs.isEmpty then s else { s with free := s.free + 1 }
  s.engineWrite core (dst.zip vals)

/-- The memory places of a list of targets. -/
def memPlaces (bs : List SpadByte) : List Nat := bs.filterMap (fun b => match b with | .there p => some p | .here _ => none)

/-- The buffer counters of a copy: source and destination bytes outside the scratchpad (R38). -/
def State.countCopy (s : State) (core : Nat) (m : Cmd) (d : CopyDesc) : State :=
  s.onCore core (fun c => c.onTeam m.team (fun t =>
    let t := if d.sk == 0 then t.count d.tag 0 d.total else t
    if d.dk == 0 then t.count d.tag 1 d.total else t))

/-- The values of a copy written to one ring where its reservation stands, and committed; one that was dropped is a skip. -/
def State.copyToRing (s : State) (core : Nat) (m : Cmd) (vals : List (Byte × Bool)) (p : Nat × Nat) : State × Bool :=
  let key := holdKey core m.id
  match grantedHold (s.ring p.1 p.2).producers key with
  | none => (s, true)
  | some h =>
    let s := s.engineWrite p.1 ((ringTargets s p.1 p.2 (copyDesc m.desc) h.first).zip vals)
    (s.onRing p.1 p.2 (fun x => ({ x with producers := markHold key x.producers } : Ring).commitAll), false)

/-- The source and destination bytes of a copy to rings on its own core. -/
def ringPairs (s : State) (core : Nat) (m : Cmd) (src : List SpadByte) : List (SpadByte × SpadByte) :=
  ((copyRings s core m).filter (fun p => p.1 == core)).flatMap (fun p =>
    match grantedHold (s.ring p.1 p.2).producers (holdKey core m.id) with
    | some h => src.zip (ringTargets s p.1 p.2 (copyDesc m.desc) h.first)
    | none => [])

/-- A copy to rings (R311, R351): the source is read once, and each destination in turn is written; tells whether one was
skipped. -/
def State.copyToRings (s : State) (core : Nat) (m : Cmd) (src : List SpadByte) : State × Bool :=
  let pairs := overlapPairs src (ringPairs s core m src)
  let vals := readSources s core pairs src
  let s := if pairs.isEmpty then s else { s with free := s.free + 1 }
  (copyRings s core m).foldl (fun r p => let q := r.1.copyToRing core m vals p; (q.1, r.2 || q.2)) (s, false)

/-- The stream that a copy fills. -/
def copyStream (s : State) (m : Cmd) : Stream := (s.groupOf m.who).stream (copyDesc m.desc).dn

/-- Elements delivered to a stream register, as many as its buffer takes (R52); the stream is done when no copy that names it is
left (R54). -/
def State.copyToStream (s : State) (core : Nat) (m : Cmd) (src : List SpadByte) (bad : Bool) : State :=
  let d := copyDesc m.desc
  let q := copyStream s m
  let moved := m.aux.headD 0
  let room := q.size / 4 - (q.arrived - Nat.min q.pos q.arrived)
  let n := Nat.min room (d.total / 4 - moved)
  let t := (s.core core).team m.team
  let dst := (List.range (4 * n)).map (fun i => SpadByte.here (t.res.spbase + q.buf + (4 * q.arrived + i) % q.size))
  let s := s.moveBytes core ((src.drop (4 * moved)).take (4 * n)) dst
  let last := moved + n == d.total / 4
  let left := if last then q.named - 1 else q.named
  let s := s.onGroup m.who (fun g => { g with q := Sparse.put {} d.dn { q with arrived := q.arrived + n, named := left, done := last && left == 0 } g.q })
  if last then (s.countCopy core m d).finishCmd core m bad
  else s.onCmd core m.id (fun y => { y with aux := [moved + n], err := y.err || bad })

/-- A copy's last step, or for a stream its next (R310): sources are read coherently, destinations written in order, ring
slots committed, the flag incremented. -/
def State.completeCopy (s : State) (core : Nat) (m : Cmd) : State :=
  let d := copyDesc m.desc
  match copySource s core m, copyTargets s core m with
  | .error e, _ => s.cmdFail core m e (some d.tag)
  | _, .error e => s.cmdFail core m e (some d.tag)
  | .ok src, .ok dst =>
    if (memPlaces src ++ memPlaces dst).any (fun p => s.heldBefore (lineOf p) m.order) then s
    else
      let s := s.recallAll (memPlaces src)
      let bad := src.any (s.engineBad core)
      let s := (memPlaces src).foldl (fun s p => if p % 128 == 0 then s.gather p (d.pol / 4) else s) s
      if d.dk == 3 then s.copyToStream core m src bad
      else
        let kept := (src.zip dst).filter (fun p => match p.2 with | .there q => !m.owned.contains (lineOf q) | .here _ => true)
        let r := if d.dk == 2 then s.copyToRings core m src else (s.moveBytes core (kept.map Prod.fst) (kept.map Prod.snd), false)
        (r.1.countCopy core m d).finishCmd core m (bad || r.2)

/-- Have the commits of a copy's rings that must precede its own been made, so that its own take effect with it (R49)? -/
def commitsReady (s : State) (core : Nat) (m : Cmd) : Bool :=
  (copyRings s core m).all (fun p =>
    let x := s.ring p.1 p.2
    match grantedHold x.producers (holdKey core m.id) with
    | some h => h.first == x.commitAll.tail
    | none => true)

/-- COPY_COMPLETE (R310). -/
def execCopyComplete (core cmd : Nat) (s : State) : Host.Outcome State Fault Refusal :=
  .next (match (s.core core).cmd cmd with
    | some m =>
      if unitOf m.op == 1 && m.phase == .started && m.paused.isNone && m.due ≤ s.now && commitsReady s core m then s.completeCopy core m
      else s
    | none => s)

/-- One line of a copy to memory: the bytes it writes there, where every one of them can be reached. -/
def copyLineMoves (s : State) (core : Nat) (m : Cmd) (line : Nat) : List (SpadByte × SpadByte) :=
  match copySource s core m, copyTargets s core m with
  | .ok src, .ok dst => (src.zip dst).filter (fun p => match p.2 with | .there q => lineOf q == line | .here _ => false)
  | _, _ => []

/-- LINE_RELEASE (R133): a started copy has written all its bytes of one line, which is released. -/
def execLineRelease (core cmd line : Nat) (s : State) : Host.Outcome State Fault Refusal :=
  .next (match (s.core core).cmd cmd with
    | some m =>
      let moves := copyLineMoves s core m line
      if unitOf m.op == 1 && m.phase == .started && m.paused.isNone && !moves.isEmpty &&
          s.store.owners.any (fun o => o.line == line && o.unit == core && o.cmd == cmd) &&
          !(memPlaces (moves.map Prod.fst ++ moves.map Prod.snd)).any (fun p => s.heldBefore (lineOf p) m.order) then
        let s := s.recallAll (memPlaces (moves.map Prod.fst))
        let bad := moves.any (fun p => s.engineBad core p.1)
        let s := s.moveBytes core (moves.map Prod.fst) (moves.map Prod.snd)
        let s := s.onStore (fun x => { x with owners := x.owners.filter (fun o => !(o.line == line && o.unit == core && o.cmd == cmd)) })
        s.onCmd core cmd (fun y => { y with err := y.err || bad, owned := y.owned ++ [line] })
      else s
    | none => s)

end Sys2Proof.Machine
end

