-- ==== Sys2Proof/Machine/Matrix.lean ====
section
/-! DEFINITION. The matrix array and its tiles (R62, R190 to R194, R313 to R317).
Readings of the rules: DEDUCED, log entry 44. -/

namespace Sys2Proof.Machine

/-! ## Tiles -/

/-- The key of a tile element: physical tile, row, column. -/
def tileKey (tile row col : Nat) : Nat := (16 * tile + row) * 64 + col

/-- An element's value, lost-significance flag and poison. -/
def CoreStore.elem (k : CoreStore) (key : Nat) : Word := Sparse.look 0 key k.tiles
def CoreStore.lostAt (k : CoreStore) (key : Nat) : Bool := Sparse.look false key k.lost

/-- Elements written with their flags and poison. -/
def CoreStore.setElems (k : CoreStore) (es : List (Nat × Word × Bool × Bool)) : CoreStore :=
  { k with
    tiles := es.foldl (fun m e => Sparse.put 0 e.1 e.2.1 m) k.tiles
    lost := es.foldl (fun m e => Sparse.put false e.1 e.2.2.1 m) k.lost
    tilePoison := es.foldl (fun m e => Sparse.put false e.1 e.2.2.2 m) k.tilePoison }

/-- The core's storage changed. -/
def State.onTiles (s : State) (core : Nat) (f : CoreStore → CoreStore) : State := s.onCore core (fun c => { c with store := f c.store })

/-- Is any of the keys' elements poisoned? -/
def tilesBad (k : CoreStore) (keys : List Nat) : Bool := !k.tilePoison.isEmpty && keys.any (fun x => Sparse.look false x k.tilePoison)

/-- The keys of whole tiles. -/
def tileKeys (tiles : List Nat) : List Nat := tiles.flatMap (fun t => (List.range 1024).map (fun i => 1024 * t + i))

/-- A stop on a poisoned tile element (R72). What AUX holds of a tile is not stated (DESIGN CHOICE, log entry 18). -/
def tilePoisonStop (slot : Nat) (s : State) : Stop := { code := causePoisonSource, slot := slot, aux := Config.tilePoisonAux s.free }

/-- A command that meets a poisoned tile element after its issue ends with its team. -/
def State.cmdPoison (s : State) (core : Nat) (d : Cmd) : State :=
  let x := tilePoisonStop d.slot s
  let s := { s with free := s.free + 1 }
  ((s.cmdRecord core d x true none).endCmd core d true true).endTeam core d.team x

/-! ## Operands (R313, R314) -/

/-- The stored bits of a matrix element type code. -/
def matBits (ty : Nat) : Nat := if ty == 4 || ty == 5 then 16 else if 12 ≤ ty && ty ≤ 14 then 4 else 8

/-- The value of an element pattern; codebook types select an entry of the sampled codebook (R179). -/
def matValue (m : Cmd) (ty x : Nat) : Fp :=
  match ty with
  | 4 => bf16.value x
  | 5 => h16.value x
  | 8 => fpOfInt (toSigned 8 x)
  | 9 => fpOfInt x
  | 10 => e4m3.value x
  | 11 => e5m2.value x
  | 12 => fpOfInt (toSigned 4 x)
  | 13 => fpOfInt x
  | 14 => bf16.value (Sparse.look 0 (16 * fmtCbk m.fmt + x) m.codebook).toNat
  | _ => bf16.value (Sparse.look 0 (x % 64) m.codebook).toNat

/-- Terms of a dot step by the stored bits of the wider operand (R190). -/
def termsOf (bits : Nat) : Nat := if bits == 16 then 16 else if bits == 8 then 32 else 64

/-- The fields of an MMA or MMAS. -/
structure MatOp where
  ta : Nat
  tb : Nat
  ks : Nat
  p : Nat
  ra : Nat
  rb : Nat
  tile : Nat
  st : Bool
  win : Option Nat
  scaled : Bool
  deriving DecidableEq, Repr

/-- The fields of word 0 and word 1. -/
def matOp (o : EOp) (scaled : Bool) : MatOp :=
  { ta := o.ty.code.toNat, tb := (o.ext.extractLsb' 22 5).toNat, ks := (o.ext.extractLsb' 32 12).toNat,
    p := (o.ext.extractLsb' 27 4).toNat + 1, ra := (o.ext.extractLsb' 14 4).toNat, rb := (o.ext.extractLsb' 18 4).toNat,
    tile := (o.ext.extractLsb' 8 6).toNat, st := o.mod.getLsbD 7,
    win := if o.mod.getLsbD 3 then some (o.mod.extractLsb' 4 3).toNat else none, scaled := scaled }

/-- T, K and P of the operation. -/
def MatOp.t (m : MatOp) : Nat := termsOf (Nat.max (matBits m.ta) (matBits m.tb))
def MatOp.k (m : MatOp) : Nat := m.ks * m.t
def MatOp.period (m : MatOp) : Nat := if m.scaled then 128 / m.t else m.p
/-- The bytes of A and of B. -/
def MatOp.bytesA (m : MatOp) : Nat := 32 * m.k * matBits m.ta / 8
def MatOp.bytesB (m : MatOp) : Nat := 64 * m.k * matBits m.tb / 8
/-- W (R189), FMT as sampled at issue. -/
def MatOp.window (m : MatOp) (fmt : Word) : Nat := windowOf (m.win.getD (fmtWin fmt))

/-- The slots that hold `n` bytes. -/
def Ring.slotsFor (x : Ring) (n : Nat) : Nat := (n + x.slotBytes - 1) / x.slotBytes

/-- A claim of a command on a ring (R50). -/
def State.claimFor (s : State) (core ring key group n : Nat) : State :=
  s.onRing core ring (fun x => { x with consumers := x.consumers ++ [{ cmd := key, group := group, n := n }] })

/-- Is the claim granted and has TAIL passed it (R50)? -/
def claimArrived (s : State) (core ring key : Nat) : Bool :=
  let x := s.ring core ring
  match grantedHold x.consumers key with
  | some h => x.passed h.first h.n
  | none => false

/-- The bytes of a claim's slots as one run, with their poison. -/
def claimByte (s : State) (core ring key base i : Nat) : Byte × Bool :=
  let x := s.ring core ring
  match grantedHold x.consumers key with
  | some h =>
    let a := base + x.byteAt h.first i
    (s.engineByte core (.here a), s.engineBad core (.here a))
  | none => (0, false)

/-- Element `i` of a run of elements of `bits` bits, low nibble first, with its poison. -/
def elemOf (f : Nat → Byte × Bool) (bits i : Nat) : Nat × Bool :=
  match bits with
  | 4 => ((f (i / 2)).1.toNat / 16 ^ (i % 2) % 16, (f (i / 2)).2)
  | 8 => ((f i).1.toNat, (f i).2)
  | 16 => ((f (2 * i)).1.toNat + 256 * (f (2 * i + 1)).1.toNat, (f (2 * i)).2 || (f (2 * i + 1)).2)
  | _ => (leNat ((List.range 4).map (fun j => (f (4 * i + j)).1)), (List.range 4).any (fun j => (f (4 * i + j)).2))

/-! ## The element computation (R191) -/

/-- The running state of an element: z, acc and L. -/
structure Accum where
  z : Fp
  acc : Nat
  lost : Bool
  deriving DecidableEq, Repr

/-- Steps from number `k` on: `n` steps of the given terms, promoting after every `p` and at the last. -/
def accumulate (terms : Nat → List (Fp × Fp)) (w p : Nat) (scales : Nat → Fp × Fp) : Nat → Nat → Accum → Accum
  | _, 0, a => a
  | k, n + 1, a =>
    let r := dotStep (terms k) w
    let z := addStep a.z r.1
    let a : Accum :=
      if (k + 1) % p == 0 || n == 0 then
        let q := scales k
        { z := .num false 0 0, acc := promote a.acc q.1 q.2 z, lost := a.lost || r.2 }
      else { z := z, acc := a.acc, lost := a.lost || r.2 }
    accumulate terms w p scales (k + 1) n a

/-- Element (l, j) of an MMA from element readers for A and B. -/
def matElem (m : MatOp) (d : Cmd) (fa fb : Nat → Nat × Bool) (scales : Nat → Fp × Fp) (l j acc : Nat) (lost : Bool) : Accum :=
  let terms (s : Nat) : List (Fp × Fp) := (List.range m.t).map (fun i =>
    (matValue d m.ta (fa (l * m.k + s * m.t + i)).1, matValue d m.tb (fb (j * m.k + s * m.t + i)).1))
  accumulate terms (m.window d.fmt) m.period scales 0 m.ks { z := .num false 0 0, acc := acc, lost := lost }

/-! ## Issue (R313 to R315) -/

/-- Is an even tile and its neighbour inside the team's allocation (R62, R301)? -/
def regionOk (t : Team) (tile : Nat) : Bool := tile % 2 == 0 && tile + 1 < t.res.nacc

/-- The keys of the rows of a 32 × 64 region that a mask selects. -/
def regionKeys (t : Team) (tile : Nat) (mask : BitVec 32) : List Nat :=
  ((List.range 32).filter (fun l => mask.getLsbD l)).flatMap (fun l => (List.range 64).map (fun j => tileKey (t.res.abase + tile) l j))

/-- MMA and MMAS at issue: A's claim, then B's. -/
def State.matIssue (s : State) (o : EOp) (op : Instr) (scaled : Bool) : State :=
  s.laneOp o.at' [] (fun c _ _ s =>
    let core := coreOf c.who
    let t := s.teamOf c
    let m := matOp o scaled
    let off := (c.sval o.a).toNat % 2 ^ 32
    match ringNumber s c m.ra, ringNumber s c m.rb with
    | some ra, some rb =>
      let xa := s.ring core ra
      let xb := s.ring core rb
      if m.ks == 0 || !regionOk t m.tile || !xa.valid || !xb.valid || xa.count < xa.slotsFor m.bytesA || xb.count < xb.slotsFor m.bytesB ||
          (scaled && (m.ks % (128 / m.t) != 0 || off % 16 != 0 || t.res.spsize < off + 144 * (m.k / 128))) then s.illegalOperand o.at'
      else if !m.st && tilesBad (s.core core).store (regionKeys t m.tile (c.opMask o.at')) then
        s.stopAt (tilePoisonStop (slotNumber o.at'.slot) s)
      else
        s.accept c o.at' op (fun d => { d with a := BitVec.ofNat 64 off, aux := [ra, rb], phase := .registered }) (fun d s =>
          (s.claimFor core ra (claimKey core d.id 0) d.groupKey (xa.slotsFor m.bytesA)).claimFor core rb (claimKey core d.id 1) d.groupKey
            (xb.slotsFor m.bytesB))
    | _, _ => s.illegalOperand o.at')

/-- MMA (R313, R314). -/
def execMma (o : EOp) (s : State) : Host.Outcome State Fault Refusal := .next (s.matIssue o (.mma o) false)
/-- MMAS (R313, R315). -/
def execMmas (o : EOp) (s : State) : Host.Outcome State Fault Refusal := .next (s.matIssue o (.mmas o) true)

/-! ## Pending tiles (R62, R316) -/

/-- The physical tiles that a matrix command targets. -/
def matTargets (t : Team) (i : Instr) : List Nat :=
  match i with
  | .mma o => let m := matOp o false; [t.res.abase + m.tile, t.res.abase + m.tile + 1]
  | .mmas o => let m := matOp o true; [t.res.abase + m.tile, t.res.abase + m.tile + 1]
  | .attn o =>
    let tl := (o.ext.extractLsb' 10 6).toNat
    (List.range (2 * ((o.ext.extractLsb' 29 3).toNat + 1))).map (fun i => t.res.abase + tl + i)
  | _ => []

/-- The physical tiles that a tile-unit command reads and those it writes. -/
def tileUses (t : Team) (i : Instr) : List Nat × List Nat :=
  let a := t.res.abase
  let td (o : EOp) : Nat := a + (o.ext.extractLsb' 0 6).toNat
  let ta (o : EOp) : Nat := a + (o.ext.extractLsb' 8 6).toNat
  let tb (o : EOp) : Nat := a + (o.ext.extractLsb' 16 6).toNat
  let tc (o : EOp) : Nat := a + (o.ext.extractLsb' 24 6).toNat
  match i with
  | .tzero o => ([], [a + (o.mod.extractLsb' 8 6).toNat])
  | .accflg o => ([a + (o.mod.extractLsb' 8 6).toNat, a + (o.mod.extractLsb' 8 6).toNat + 1], [])
  | .accclr o => ([], [a + (o.mod.extractLsb' 8 6).toNat, a + (o.mod.extractLsb' 8 6).toNat + 1])
  | .tld o => ([], [td o])
  | .tst o => ([td o], [])
  | .tcpy o | .texp o | .tcvt o | .tredr o | .tredc o | .trotr o | .trotc o | .tbcr o | .tbcc o => ([ta o], [td o])
  | .tadd o | .tsub o | .tmul o | .tmax o | .tscr o | .tscc o => ([ta o, tb o], [td o])
  | .tfma o => ([ta o, tb o, tc o], [td o])
  | _ => ([], [])

/-- Does a matrix command before `id` still have one of the tiles pending? -/
def tilesPending (c : Core) (id : Nat) (tiles : List Nat) : Bool :=
  c.cmds.any (fun d => d.id < id && (matTargets (c.team d.team) d.op).any tiles.contains)

/-- Does a tile-unit command before `id` still use one of the tiles: write it, or with `reads` read it? -/
def tilesBusy (c : Core) (id : Nat) (tiles : List Nat) (reads : Bool) : Bool :=
  c.cmds.any (fun d => d.id < id && unitOf d.op == 3 &&
    (let u := tileUses (c.team d.team) d.op; (u.2 ++ (if reads then u.1 else [])).any tiles.contains))

/-! ## Start and completion (R316) -/

/-- May an MMA start: the array is free, its slots have arrived, and earlier tile-unit commands on its target are done? -/
def matCanStart (s : State) (core : Nat) (d : Cmd) : Bool :=
  let c := s.core core
  d.phase == .registered && earlierGone c d && claimArrived s core (d.aux.headD 0) (claimKey core d.id 0) &&
    claimArrived s core (d.aux.getD 1 0) (claimKey core d.id 1) && !tilesBusy c d.id (matTargets (c.team d.team) d.op) true

/-- The 16-row halves that hold an active row. -/
def activeHalves (mask : BitVec 32) : Nat := (if mask.extractLsb' 0 16 == 0#16 then 0 else 1) + (if mask.extractLsb' 16 16 == 0#16 then 0 else 1)

/-- The cycles from start to the last promotion (R316). -/
def matCycles (m : MatOp) (mask : BitVec 32) : Nat := 4 * m.ks * activeHalves mask + 24

/-- The scales of step `k` for row `l` (R192, R315). -/
def matScales (s : State) (core : Nat) (t : Team) (m : MatOp) (d : Cmd) (l k : Nat) : Fp × Fp :=
  if m.scaled then
    let at' (w : Nat) : Fp := f32.value ((s.core core).store.spad.num (t.res.spbase + d.a.toNat + 144 * (k * m.t / 128) + 4 * w) 4)
    (at' l, at' 32)
  else (fpOne, fpOne)

/-- Is a scale of row `l` poisoned? -/
def scalesBad (s : State) (core : Nat) (t : Team) (m : MatOp) (d : Cmd) (l : Nat) : Bool :=
  m.scaled && (List.range (m.k / 128)).any (fun kb => [l, 32].any (fun w =>
    s.engineBad core (.here (t.res.spbase + d.a.toNat + 144 * kb + 4 * w))))

/-- The rows that an MMA computes, as elements with flag and poison. -/
def matRows (s : State) (core : Nat) (d : Cmd) (m : MatOp) : List (Nat × Word × Bool × Bool) :=
  let c := s.core core
  let t := c.team d.team
  let fa := elemOf (claimByte s core (d.aux.headD 0) (claimKey core d.id 0) t.res.spbase) (matBits m.ta)
  let fb := elemOf (claimByte s core (d.aux.getD 1 0) (claimKey core d.id 1) t.res.spbase) (matBits m.tb)
  let clean := c.store.spadPoison.isEmpty
  ((List.range 32).filter (fun l => d.amask.getLsbD l)).flatMap (fun l =>
    let badA := !clean && ((List.range m.k).any (fun i => (fa (l * m.k + i)).2) || scalesBad s core t m d l)
    (List.range 64).map (fun j =>
      let key := tileKey (t.res.abase + m.tile) l j
      let x := matElem m d fa fb (matScales s core t m d l) l j (if m.st then 0 else (c.store.elem key).toNat)
        (if m.st then false else c.store.lostAt key)
      let badB := !clean && (List.range m.k).any (fun i => (fb (j * m.k + i)).2)
      (key, BitVec.ofNat 32 x.acc, x.lost, badA || badB)))

/-- An MMA's last promotion, its pops and its flag. -/
def State.completeMat (s : State) (core : Nat) (d : Cmd) (m : MatOp) : State :=
  let t := (s.core core).team d.team
  let es := matRows s core d m
  if !m.st && tilesBad (s.core core).store (regionKeys t m.tile d.amask) then s.cmdPoison core d
  else (s.onTiles core (fun k => k.setElems es)).finishCmd core d (es.any (fun e => e.2.2.2))

/-! ## ACCFLG and ACCCLR (R317) -/

/-- The flags of columns `from` to `from + 31` of row `l` of a region. -/
def flagColumns (k : CoreStore) (tile l lo : Nat) : Word := maskOf 32 (fun j => k.lostAt (tileKey tile l (lo + j)))

/-- The lanes that a mask names. -/
def maskLanes (mask : BitVec 32) : List Nat := (List.range 32).filter (fun l => mask.getLsbD l)

/-- The keys of the active lanes of a queued ACCFLG's register, numbered from the group's block. -/
def flagKeys (g : Group) (d : Cmd) (r : Nat) : List Nat := (maskLanes d.amask).map (fun l => 32 * (g.gid.rbase + r) + l)

/-- The registers of a queued ACCFLG await their results, which are of fixed latency once it starts (R317). -/
def State.awaitFlags (s : State) (d : Cmd) : State :=
  s.onGroup d.who (fun g => d.aux.foldl (fun g r => g.post { lanes := (flagKeys g d r).map (fun k => (k, 0, false)), held := true }) g)

/-- The first held result with these keys gets its values and its cycle. -/
def arriveLanes (keys : List Nat) (vals : List Word) (due : Nat) : List InFlight → List InFlight
  | [] => []
  | r :: rs =>
    if r.held && !r.empties && r.lanes.map Prod.fst == keys then
      { r with lanes := (keys.zip vals).map (fun p => (p.1, p.2, false)), held := false, due := due } :: rs
    else r :: arriveLanes keys vals due rs

/-- ACCFLG at its turn on the tile unit (R317): the flags of each active lane's row, columns 0 to 31 and 32 to 63, are written 6
cycles later. -/
def State.readFlags (s : State) (core : Nat) (d : Cmd) (o : ROp) : State :=
  let k := s.core core
  let tile := (k.team d.team).res.abase + (o.mod.extractLsb' 8 6).toNat
  let s := s.onGroup d.who (fun g => { g with inflight := (d.aux.zip [0, 32]).foldl (fun rs p =>
    arriveLanes (flagKeys g d p.1) ((maskLanes d.amask).map (fun l => flagColumns k.store tile l p.2)) (s.now + 6) rs) g.inflight })
  s.dropCmd core d

/-- ACCFLG (R302, R317): queued on the tile unit. -/
def execAccflg (o : ROp) (s : State) : Host.Outcome State Fault Refusal :=
  .next (s.laneOp o.at' [] (fun c _ _ s =>
    if !regionOk (s.teamOf c) (o.mod.extractLsb' 8 6).toNat then s.illegalOperand o.at'
    else
      let regs := match o.d with
        | .v v => [c.snap.phys v.toNat - c.snap.gid.rbase, c.snap.phys (v.toNat + 1) - c.snap.gid.rbase]
        | _ => []
      s.accept c o.at' (.accflg o) (fun d => { d with phase := .registered, aux := regs }) (fun d s => s.awaitFlags d)))

/-- ACCCLR (R317): a tile-unit command. -/
def execAccclr (o : ROp) (s : State) : Host.Outcome State Fault Refusal :=
  .next (s.laneOp o.at' [] (fun c _ _ s =>
    if !regionOk (s.teamOf c) (o.mod.extractLsb' 8 6).toNat then s.illegalOperand o.at'
    else s.accept c o.at' (.accclr o) (fun d => { d with phase := .registered }) (fun _ s => s)))

end Sys2Proof.Machine
end

