-- ==== Sys2Proof/Machine/Tile.lean ====
section
/-! DEFINITION. The tile unit (R318, R319).
Readings of the rules: DEDUCED, log entry 44. -/

namespace Sys2Proof.Machine

/-- An element: its f32 pattern and lost-significance flag. -/
abbrev Elem := Nat × Bool

/-- Every NaN of tile arithmetic is canonical (R318). -/
def canonical (x : Nat) : Nat := if f32.isNan x then f32.canonNan else x

/-- The fields of a two-word tile operation. -/
def tileK (o : EOp) : Nat := (o.ext.extractLsb' 32 6).toNat
def tileRm (o : EOp) : Nat := (o.mod.extractLsb' 0 2).toNat
def tileSat (o : EOp) : Bool := o.mod.getLsbD 2
def tilePeek (o : EOp) : Bool := o.mod.getLsbD 7

/-- A fold of TREDR and TREDC (R318): from the first element, sums by rne_f32, max and min by R186. -/
def tileFold (sel : Nat) : List Elem → Elem
  | [] => (0, false)
  | x :: xs =>
    xs.foldl (fun r y =>
      let v := match sel with
        | 0 => (addElem f32 0 false r.1 y.1).1
        | 1 => (minMaxElem f32 true r.1 y.1).1
        | _ => (minMaxElem f32 false r.1 y.1).1
      (canonical v, r.2 || y.2)) x

/-- Element (i, j) of a tile operation's result from its sources' elements (R318). -/
def tileElem (op : Instr) (a b c : Nat → Nat → Elem) (i j : Nat) : Elem :=
  let two (f : Nat → Nat → Nat) (x y : Elem) : Elem := (canonical (f x.1 y.1), x.2 || y.2)
  match op with
  | .tcpy _ => a i j
  | .tadd o => two (fun x y => (addElem f32 (tileRm o) (tileSat o) x y).1) (a i j) (b i j)
  | .tsub o => two (fun x y => (subElem f32 (tileRm o) (tileSat o) x y).1) (a i j) (b i j)
  | .tmul o => two (fun x y => (mulElem f32 (tileRm o) (tileSat o) x y).1) (a i j) (b i j)
  | .tmax _ => two (fun x y => (minMaxElem f32 true x y).1) (a i j) (b i j)
  | .tfma o =>
    let x := a i j
    let y := b i j
    let z := c i j
    (canonical (fmaElem f32 (tileRm o) (tileSat o) x.1 y.1 z.1).1, x.2 || y.2 || z.2)
  | .texp o => let x := a i j; (canonical (fnElem .exp2 f32 (tileRm o) (tileSat o) x.1).1, x.2)
  | .tcvt o =>
    let x := a i j
    (match fmtOfTy o.ty with
     | some f => (canonical (floatToFloat f f32 0 false (floatToFloat f32 f (tileRm o) (tileSat o) x.1).1).1, x.2)
     | none => x)
  | .tscr o => two (fun x y => (mulElem f32 0 false x y).1) (a i j) (b i (tileK o))
  | .tscc o => two (fun x y => (mulElem f32 0 false x y).1) (a i j) (b (tileK o) j)
  | .tredr o => tileFold (o.ext.extractLsb' 40 3).toNat ((List.range 64).map (fun q => a i q))
  | .tredc o => tileFold (o.ext.extractLsb' 40 3).toNat ((List.range 16).map (fun q => a q j))
  | .trotr o => a i ((j + 64 - tileK o) % 64)
  | .trotc o => a ((i + 16 - tileK o) % 16) j
  | .tbcr o => a i (tileK o)
  | .tbcc o => a (tileK o) j
  | _ => (0, false)

/-- The latency of a tile-unit command (R317 to R319). -/
def tileLatency (op : Instr) : Nat :=
  match op with
  | .texp _ => 8
  | .tscc _ | .tredc _ | .trotc _ | .tbcc _ => 10
  | .tld o | .tst o => if o.ty.elemBits == 32 then 32 else if o.ty.elemBits == 16 then 16 else 8
  | _ => 4

/-- Does the operation read pending sources (R62)? -/
def peeks (op : Instr) : Bool :=
  match op with
  | .tst o | .tcpy o | .tadd o | .tsub o | .tmul o | .tfma o | .tmax o | .texp o | .tcvt o | .tscr o | .tscc o | .tredr o | .tredc o
  | .trotr o | .trotc o | .tbcr o | .tbcc o => tilePeek o
  | .accflg o => o.mod.getLsbD 7
  | _ => false

/-! ## Issue -/

/-- A tile operation queued: its tiles lie in the allocation, and none of its source elements is poisoned (R62, R72, R301). -/
def State.tileIssue (s : State) (site : Site) (op : Instr) (fill : Cmd → Cmd) : State :=
  s.laneOp site [] (fun c _ _ s =>
    let t := s.teamOf c
    let u := tileUses t op
    if (u.1 ++ u.2).any (fun x => t.res.abase + t.res.nacc ≤ x) then s.illegalOperand site
    else if tilesBad (s.core (coreOf c.who)).store (tileKeys u.1) then s.stopAt (tilePoisonStop (slotNumber site.slot) s)
    else s.accept c site op (fun d => { fill d with phase := .registered }) (fun _ s => s))

/-- TZERO (R318). -/
def execTzero (o : ROp) (s : State) : Host.Outcome State Fault Refusal := .next (s.tileIssue o.at' (.tzero o) id)
/-- TCPY (R318). -/
def execTcpy (o : EOp) (s : State) : Host.Outcome State Fault Refusal := .next (s.tileIssue o.at' (.tcpy o) id)
/-- TADD (R318). -/
def execTadd (o : EOp) (s : State) : Host.Outcome State Fault Refusal := .next (s.tileIssue o.at' (.tadd o) id)
/-- TSUB (R318). -/
def execTsub (o : EOp) (s : State) : Host.Outcome State Fault Refusal := .next (s.tileIssue o.at' (.tsub o) id)
/-- TMUL (R318). -/
def execTmul (o : EOp) (s : State) : Host.Outcome State Fault Refusal := .next (s.tileIssue o.at' (.tmul o) id)
/-- TFMA (R318). -/
def execTfma (o : EOp) (s : State) : Host.Outcome State Fault Refusal := .next (s.tileIssue o.at' (.tfma o) id)
/-- TMAX (R318). -/
def execTmax (o : EOp) (s : State) : Host.Outcome State Fault Refusal := .next (s.tileIssue o.at' (.tmax o) id)
/-- TEXP (R318). -/
def execTexp (o : EOp) (s : State) : Host.Outcome State Fault Refusal := .next (s.tileIssue o.at' (.texp o) id)
/-- TCVT (R318). -/
def execTcvt (o : EOp) (s : State) : Host.Outcome State Fault Refusal := .next (s.tileIssue o.at' (.tcvt o) id)
/-- TSCR (R318). -/
def execTscr (o : EOp) (s : State) : Host.Outcome State Fault Refusal := .next (s.tileIssue o.at' (.tscr o) id)
/-- TSCC (R318). -/
def execTscc (o : EOp) (s : State) : Host.Outcome State Fault Refusal := .next (s.tileIssue o.at' (.tscc o) id)
/-- TREDR (R318). -/
def execTredr (o : EOp) (s : State) : Host.Outcome State Fault Refusal := .next (s.tileIssue o.at' (.tredr o) id)
/-- TREDC (R318). -/
def execTredc (o : EOp) (s : State) : Host.Outcome State Fault Refusal := .next (s.tileIssue o.at' (.tredc o) id)
/-- TROTR (R318). -/
def execTrotr (o : EOp) (s : State) : Host.Outcome State Fault Refusal := .next (s.tileIssue o.at' (.trotr o) id)
/-- TROTC (R318). -/
def execTrotc (o : EOp) (s : State) : Host.Outcome State Fault Refusal := .next (s.tileIssue o.at' (.trotc o) id)
/-- TBCR (R318). -/
def execTbcr (o : EOp) (s : State) : Host.Outcome State Fault Refusal := .next (s.tileIssue o.at' (.tbcr o) id)
/-- TBCC (R318). -/
def execTbcc (o : EOp) (s : State) : Host.Outcome State Fault Refusal := .next (s.tileIssue o.at' (.tbcc o) id)

/-- The offset of row 0 of a TLD or TST; negative ones are out of range. -/
def tileBase (c : Issue) (o : EOp) : Int := ((c.sval o.a).toNat : Int) + (o.ext.extractLsb' 32 16).toInt

/-- The limits of R319 on the sixteen rows. -/
def tileRowsOk (t : Team) (o : EOp) (base : Int) : Bool :=
  let size := o.ty.elemBits / 8
  let stride := (o.ext.extractLsb' 16 16).toNat
  64 * size ≤ stride && stride % 4 == 0 && 0 ≤ base && base + 15 * (stride : Int) + 64 * (size : Int) ≤ (t.res.spsize : Int) &&
    !touchesStash t base.toNat (64 * size) ((List.range 16).map (fun i => ((i * stride : Nat) : Int)))

/-- The team-relative bytes of the rows of a TLD or TST. -/
def tileBytes (o : EOp) (base : Nat) : List Nat :=
  tileRowBytes (o.ty.elemBits / 8) (o.ext.extractLsb' 16 16).toNat (o.ext.extractLsb' 13 3).toNat base

/-- TLD and TST: TLD's bytes are read at issue (DESIGN CHOICE, log entry 19), after any TST of the group that writes them. -/
def State.tileMove (s : State) (o : EOp) (op : Instr) (load : Bool) : State :=
  s.laneOp o.at' [] (fun c _ _ s =>
    let core := coreOf c.who
    let t := s.teamOf c
    let base := tileBase c o
    if !tileRowsOk t o base || t.res.nacc ≤ (o.ext.extractLsb' 0 6).toNat then s.illegalOperand o.at'
    else if tstPending (s.core core) c.who (tileBytes o base.toNat) then s.waitFor .poll
    else
      let bs := (tileBytes o base.toNat).map (fun p => SpadByte.here (t.res.spbase + p))
      s.tileIssue o.at' op (fun d => { d with a := BitVec.ofInt 64 base
                                              desc := if load then bs.map (s.engineByte core) else []
                                              err := load && bs.any (s.engineBad core)
                                              aux := if load then (bs.zipIdx.filter (fun b => s.engineBad core b.1)).map Prod.snd else [] }))

/-- TLD (R319). -/
def execTld (o : EOp) (s : State) : Host.Outcome State Fault Refusal := .next (s.tileMove o (.tld o) true)
/-- TST (R319). -/
def execTst (o : EOp) (s : State) : Host.Outcome State Fault Refusal := .next (s.tileMove o (.tst o) false)

/-! ## Start and completion -/

/-- May a tile-unit command start (R318): in order, its tiles neither pending nor in use by an earlier operation? -/
def tileCanStart (s : State) (core : Nat) (d : Cmd) : Bool :=
  let c := s.core core
  let u := tileUses (c.team d.team) d.op
  d.phase == .registered && earlierStarted c d && !tilesPending c d.id (u.2 ++ (if peeks d.op then [] else u.1)) &&
    !tilesBusy c d.id u.1 false && !tilesBusy c d.id u.2 true

/-- The elements that TLD writes: each widened exactly, its flag clear. -/
def tldElems (t : Team) (d : Cmd) (o : EOp) : List (Nat × Word × Bool × Bool) :=
  let bits := o.ty.elemBits
  let f (i : Nat) : Byte × Bool := (d.desc.getD i 0, d.aux.contains i)
  (List.range 1024).map (fun n =>
    let x := elemOf f bits n
    let v := match fmtOfTy o.ty with
      | some g => if bits == 32 then x.1 else (floatToFloat g f32 0 false x.1).1
      | none => x.1
    (1024 * (t.res.abase + (o.ext.extractLsb' 0 6).toNat) + n, BitVec.ofNat 32 v, false, x.2))

/-- The bytes that TST writes: each element rounded. -/
def tstData (k : CoreStore) (t : Team) (o : EOp) : List Byte :=
  let bits := o.ty.elemBits
  (List.range 1024).flatMap (fun n =>
    let x := (k.elem (1024 * (t.res.abase + (o.ext.extractLsb' 0 6).toNat) + n)).toNat
    let v := match fmtOfTy o.ty with
      | some g => if bits == 32 then saturate f32 (tileSat o) x else (floatToFloat f32 g (tileRm o) (tileSat o) x).1
      | none => x
    leBytes (bits / 8) v)

/-- The elements that an operation on whole tiles writes. -/
def tileResult (k : CoreStore) (t : Team) (op : Instr) : List (Nat × Word × Bool × Bool) :=
  let u := tileUses t op
  let get (n : Nat) (i j : Nat) : Elem :=
    let key := tileKey (u.1.getD n 0) i j
    ((k.elem key).toNat, k.lostAt key)
  u.2.flatMap (fun d => (List.range 16).flatMap (fun i => (List.range 64).map (fun j =>
    let x := tileElem op (get 0) (get 1) (get 2) i j
    (tileKey d i j, BitVec.ofNat 32 x.1, x.2, false))))

/-- What a tile-unit command does at its end. -/
def State.completeTile (s : State) (core : Nat) (d : Cmd) : State :=
  let c := s.core core
  let t := c.team d.team
  if tilesBad c.store (tileKeys (tileUses t d.op).1) then s.cmdPoison core d
  else
    match d.op with
    | .accclr o =>
      let keys := regionKeys t (o.mod.extractLsb' 8 6).toNat d.amask
      (s.onTiles core (fun k => { k with lost := keys.foldl (fun m x => Sparse.put false x false m) k.lost })).finishCmd core d false
    | .tld o => (s.onTiles core (fun k => k.setElems (tldElems t d o))).finishCmd core d false
    | .tst o =>
      let bs := (tileBytes o d.a.toNat).map (fun p => SpadByte.here (t.res.spbase + p))
      (s.spadWrite core (bs.zip (tstData c.store t o))).finishCmd core d false
    | op => (s.onTiles core (fun k => k.setElems (tileResult k t op))).finishCmd core d false

/-- TILE_OP_COMPLETE (R318). -/
def execTileOpComplete (core cmd : Nat) (s : State) : Host.Outcome State Fault Refusal :=
  .next (match (s.core core).cmd cmd with
    | some d => if unitOf d.op == 3 && d.phase == .started && d.due ≤ s.now then s.completeTile core d else s
    | none => s)

end Sys2Proof.Machine
end

