-- ==== Sys2Proof/Machine/Sequence.lean ====
section
/-! DEFINITION. Sequences of key-value pages (R92 to R109) and the commands on them: ATTN, MASSFOLD, KVTRUNC and EVICT (R320
to R323). -/

namespace Sys2Proof.Machine

/-! ## Reading through a command's context -/

/-- Every M line of every stash window written back, which no agent observes (R59). -/
def State.flushStashes (s : State) : State :=
  s.cores.foldl (fun s p => p.2.crew.teams.foldl (fun s t => t.2.stash.foldl (fun s w => s.flushWindow p.1 t.1 w.1 false) s) s) s

/-- The translations at hand for a command: a glen core's TLB (R75), and the host's grants in its die's L3 banks (R22). -/
def cmdTlb (s : State) (d : Cmd) : List TlbEntry :=
  match d.who with
  | .glen n => (s.glen n).tlb ++ s.dieGrants (n / 16)
  | .gang a => s.dieGrants (dieOfCore a.core)

/-- Is it a command on a sequence? -/
def isSeqOp (i : Instr) : Bool := match i with | .attn _ | .massfold _ | .kvtrunc _ | .evict _ => true | _ => false
/-- Does it take an exclusive claim? -/
def exclusive (i : Instr) : Bool := match i with | .kvtrunc _ | .evict _ => true | _ => false

/-- What a sequence command keeps of its claim: its query ring, the place of its descriptor, whether it is granted. -/
def seqPlace (d : Cmd) : Nat := d.aux.getD 1 0
def seqGranted (d : Cmd) : Bool := d.aux.getD 2 0 == 1

/-- Are two commands shared ones on one sequence, which overlap each other (R107)? -/
def sharesClaim (x d : Cmd) : Bool :=
  isSeqOp x.op && isSeqOp d.op && !exclusive x.op && !exclusive d.op && seqPlace x == seqPlace d && d.phase != .queued

/-- Is a line held by a command that registered before this one (R132, R133) and does not share its claim? -/
def State.heldFor (s : State) (d : Cmd) (line : Nat) : Bool :=
  s.store.owners.any (fun o => o.line == line && o.seq < d.order &&
    !((s.core o.unit).cmds.any (fun x => x.id == o.cmd && sharesClaim x d)))

/-- An engine's pieces whose lines no earlier command holds; with `kv`, on key-value pages (R92). -/
def seqReach (s : State) (d : Cmd) (k : AccessKind) (kv : Bool) (va : DWord) (n : Nat) : Except EFail (List EPiece) := do
  let ps ← engineReachTlb s (cmdTlb s d) d.cid k (runPieces va n)
  if kv && ps.any (fun p => !p.entry.kv) then
    let e := (ps.find? (fun p => !p.entry.kv)).map (fun p => p.entry.lvl)
    throw (.fault va { tfs := 0xB, level := e.getD 0 } k)
  if (ownedLines ps).any (s.heldFor d) then throw .held
  return ps

/-- Bytes that a command reads coherently, each with its poison. -/
def seqBytes (s : State) (d : Cmd) (kv : Bool) (va : DWord) (n : Nat) : Except EFail (List (Byte × Bool)) := do
  let ps ← seqReach s d .engineRead kv va n
  return (placesOf ps).map (fun p => (s.store.mem.byte p, s.isPoisoned p))

/-- The same, with whether any is poisoned. -/
def seqRead (s : State) (d : Cmd) (kv : Bool) (va : DWord) (n : Nat) : Except EFail (List Byte × Bool) := do
  let bs ← seqBytes s d kv va n
  return (bs.map Prod.fst, bs.any Prod.snd)

/-- A write that a command will make: its address, its bytes with their poison, and whether it goes to a key-value page. -/
abbrev SeqWrite := DWord × List (Byte × Bool) × Bool

/-- A write of clean bytes to an ordinary page. -/
def cleanWrite (va : DWord) (bs : List Byte) : SeqWrite := (va, bs.map (fun b => (b, false)), false)

/-- Does a write carry poison (R73)? -/
def SeqWrite.bad (w : SeqWrite) : Bool := w.2.1.any Prod.snd

/-- Writes that a command will make, translated before any is made (R106): the bytes at their places, with their poison. -/
def seqWrites (s : State) (d : Cmd) : List SeqWrite → Except EFail (List (Nat × Byte × Bool))
  | [] => return []
  | (va, bs, kv) :: rest => do
    let ps ← seqReach s d .engineWrite kv va bs.length
    let l ← seqWrites s d rest
    return (placesOf ps).zip bs ++ l

/-- Bytes written at stage 3 by a unit outside the cores. -/
def State.dieWrite (s : State) (bs : List (Nat × Byte × Bool)) : State :=
  s.engineWrite 0 (bs.map (fun b => (SpadByte.there b.1, b.2.1, b.2.2)))

/-! ## Descriptors (R94, R95) -/

/-- The bytes of an element of a type code; 0 for none (R95). -/
def kvSize (code : Nat) : Nat := match code with | 3 => 4 | 4 | 5 => 2 | 10 | 11 => 1 | _ => 0

/-- A sequence descriptor with its page list, as word 0 and word 1. -/
structure Seq where
  len : Nat
  npages : Nat
  sink : Nat
  recent : Nat
  mbase : DWord
  free : DWord
  hd : Nat
  kvh : Nat
  ty : Nat
  sgen : Nat
  ents : List (Nat × Nat)
  deriving DecidableEq, Repr

def Seq.slotBytes (q : Seq) : Nat := q.kvh * q.hd * kvSize q.ty

/-- Does a page-list entry keep its reserved bits (R94)? -/
def entryOk (e : Nat × Nat) : Bool := e.1 < 2 ^ 60 && e.2 < 2 ^ 60 && e.2 / 2 % 2 ^ 15 == 0

/-- A descriptor read (R95, R96): malformed where it breaks a limit. Poisoned bytes of it count as they are stored (DESIGN CHOICE, log
entry 56). -/
def readSeq (s : State) (d : Cmd) (addr : DWord) : Except EFail Seq := do
  if addr.toNat % 64 != 0 then throw .bad
  let ps ← seqReach s d .engineRead false addr 64
  if ps.any (fun p => !(p.entry.mt == 0#2 && p.entry.home == 0#2)) then throw .bad
  let bs := (placesOf ps).map s.store.mem.byte
  let len := descNum bs 0 4
  let npages := descNum bs 4 4
  let plist := descNum bs 0x10 8
  let mbase := descNum bs 0x18 8
  let free := descNum bs 0x20 8
  let hd := descNum bs 0x2A 2
  let kvh := descNum bs 0x29 1
  let ty := descNum bs 0x28 1
  if descNum bs 0x30 16 != 0 || 65535 < npages || 64 * npages < len || plist % 16 != 0 || mbase % 1024 != 0 || free % 64 != 0 ||
      hd < 16 || 512 < hd || hd % 16 != 0 || kvh < 1 || 64 < kvh || kvSize ty == 0 || 1024 < kvh * hd * kvSize ty then throw .bad
  let (es, _) ← seqRead s d false (BitVec.ofNat 64 plist) (16 * npages)
  let ents := (List.range npages).map (fun j => (descNum es (16 * j) 8, descNum es (16 * j + 8) 8))
  if ents.any (fun e => !entryOk e) then throw .bad
  return { len := len, npages := npages, sink := descNum bs 8 4, recent := descNum bs 12 4, mbase := BitVec.ofNat 64 mbase,
           free := BitVec.ofNat 64 free, hd := hd, kvh := kvh, ty := ty, sgen := descNum bs 0x2C 4, ents := ents }

/-- The page-list entry of a slot. -/
def Seq.ent (q : Seq) (k : Nat) : Nat × Nat := (q.ents[k / 64]?).getD (0, 0)
/-- The context address of a slot's data in its K page, or its V page (R92). -/
def Seq.slotAddr (q : Seq) (k : Nat) (v : Bool) : DWord :=
  let w := if v then (q.ent k).2 else (q.ent k).1
  BitVec.ofNat 64 (w % 2 ^ 60 / 2 ^ 16 * 2 ^ 16 + 1024 * (k % 64))
/-- The context address of the metadata block of page-list entry `j` (R93). -/
def Seq.metaAddr (q : Seq) (j : Nat) : DWord := q.mbase + BitVec.ofNat 64 (1024 * (((q.ents[j]?).getD (0, 0)).1 % 2 ^ 16))

/-! ## Metadata (R93) -/

/-- A word of a metadata block: its value, its poison, and whether a command writes it. -/
structure MWord where
  v : Nat := 0
  bad : Bool := false
  wr : Bool := false
  deriving DecidableEq, Repr

/-- The word of a command's bytes at an offset. -/
def wordAt (bs : List (Byte × Bool)) (off : Nat) : MWord :=
  let w := (bs.drop off).take 4
  { v := leNat (w.map Prod.fst), bad := w.any Prod.snd }

/-- A metadata block: counters, positions, valid bits, and the poison and writing of these. -/
structure Meta where
  mass : List MWord := []
  pos : List MWord := []
  valid : Nat := 0
  vbad : Bool := false
  vwr : Bool := false
  deriving DecidableEq, Repr

/-- The metadata blocks of a command by address, as read and changed. -/
abbrev Metas := Sparse Meta

/-- One block read. -/
def readMeta (s : State) (d : Cmd) (va : DWord) : Except EFail Meta := do
  let bs ← seqBytes s d false va 0x208
  return { mass := (List.range 64).map (fun k => wordAt bs (4 * k)), pos := (List.range 64).map (fun k => wordAt bs (256 + 4 * k)),
           valid := (wordAt bs 0x200).v + 2 ^ 32 * (wordAt bs 0x204).v, vbad := (wordAt bs 0x200).bad || (wordAt bs 0x204).bad }

/-- The blocks of some page-list entries. -/
def readMetas (s : State) (d : Cmd) (q : Seq) : List Nat → Except EFail Metas
  | [] => return []
  | j :: js => do
    let m ← readMetas s d q js
    let b ← readMeta s d (q.metaAddr j)
    return Sparse.put {} (q.metaAddr j).toNat b m

/-- The page-list entries that hold the slots from one number up to another. -/
def blocksOf (lo hi : Nat) : List Nat := (List.range ((hi + 63) / 64 - lo / 64)).map (fun i => lo / 64 + i)

/-- The block of a slot. -/
def Metas.at' (m : Metas) (q : Seq) (k : Nat) : Meta := Sparse.look {} (q.metaAddr (k / 64)).toNat m
def metaValid (m : Metas) (q : Seq) (k : Nat) : Bool := (Metas.at' m q k).valid.testBit (k % 64)
def metaMass (m : Metas) (q : Seq) (k : Nat) : MWord := (Metas.at' m q k).mass.getD (k % 64) {}
def metaPos (m : Metas) (q : Seq) (k : Nat) : MWord := (Metas.at' m q k).pos.getD (k % 64) {}

/-- A bit of a number set or cleared. -/
def setBit (x k : Nat) (b : Bool) : Nat := if x.testBit k == b then x else if b then x + 2 ^ k else x - 2 ^ k

/-- A slot's counter, position and valid bit written. -/
def onSlot (m : Metas) (q : Seq) (k : Nat) (f : Meta → Meta) : Metas := Sparse.upd {} (q.metaAddr (k / 64)).toNat f m
def setMass (m : Metas) (q : Seq) (k x : Nat) (bad : Bool := false) : Metas :=
  onSlot m q k (fun b => { b with mass := b.mass.set (k % 64) { v := x, bad := bad, wr := true } })
def setPos (m : Metas) (q : Seq) (k x : Nat) (bad : Bool) : Metas :=
  onSlot m q k (fun b => { b with pos := b.pos.set (k % 64) { v := x, bad := bad, wr := true } })
def setValid (m : Metas) (q : Seq) (k : Nat) (v : Bool) : Metas :=
  onSlot m q k (fun b => { b with valid := setBit b.valid (k % 64) v, vwr := true })

/-- The words of one kind that a command writes, from an address on. -/
def wordWrites (a : Nat) (ws : List MWord) : List SeqWrite :=
  ws.zipIdx.filterMap (fun w => if w.1.wr then some (BitVec.ofNat 64 (a + 4 * w.2), (leBytes 4 w.1.v).map (fun b => (b, w.1.bad)), false) else none)

/-- The writes of the words of the blocks that a command writes. -/
def metaWrites (m : Metas) : List SeqWrite :=
  m.flatMap (fun p => wordWrites p.1 p.2.mass ++ wordWrites (p.1 + 256) p.2.pos ++
    (if p.2.vwr then [(BitVec.ofNat 64 (p.1 + 0x200), (leBytes 8 p.2.valid).map (fun b => (b, p.2.vbad)), false)] else []))

/-! ## f32 steps inside the engines (R191: every NaN canonical) -/

def eAdd (x y : Nat) : Nat := canonical (addElem f32 0 false x y).1
def eSub (x y : Nat) : Nat := canonical (subElem f32 0 false x y).1
def eMul (x y : Nat) : Nat := canonical (mulElem f32 0 false x y).1
def eDiv (x y : Nat) : Nat := canonical (divElem f32 0 false x y).1
def eExp2 (x : Nat) : Nat := canonical (fnElem .exp2 f32 0 false x).1

/-- The f32 steps of the eviction engine, outside the array (R185). -/
def fAdd (x y : Nat) : Nat := (addElem f32 0 false x y).1
def fMul (x y : Nat) : Nat := (mulElem f32 0 false x y).1

/-! ## Releasing pages (R104) -/

/-- What a command does to a sequence: metadata, writes, NPAGES, and the error bit. -/
structure SeqOut where
  metas : Metas
  writes : List SeqWrite := []
  npages : Nat
  err : Bool := false
  deriving DecidableEq, Repr

/-- Pages `j0` on released, or none of them. -/
def releasePages (s : State) (d : Cmd) (q : Seq) (j0 : Nat) (m : Metas) : Except EFail SeqOut := do
  if q.npages ≤ j0 then return { metas := m, npages := q.npages }
  if q.free == 0 then return { metas := m, npages := q.npages, err := true }
  let (h, _) ← seqRead s d false q.free 64
  let cap := descNum h 0 4
  let tail := descNum h 4 4
  let head := descNum h 8 4
  let ents := descNum h 0x10 8
  if cap == 0 || 2 ^ 24 < cap || 2 ^ Nat.log2 cap != cap || ents % 16 != 0 || descNum h 0x0C 4 != 0 || descNum h 0x18 40 != 0 then throw .bad
  let k := q.npages - j0
  if cap < (tail + k + 2 ^ 32 - head) % 2 ^ 32 || cap < k then return { metas := m, npages := q.npages, err := true }
  let js := (List.range k).map (fun i => j0 + i)
  let m := js.foldl (fun m j => onSlot m q (64 * j) (fun b =>
    { b with mass := List.replicate 64 { wr := true }, valid := 0, vbad := false, vwr := true })) m
  let ws := js.zipIdx.flatMap (fun p =>
    let e := (q.ents[p.1]?).getD (0, 0)
    let a := BitVec.ofNat 64 (ents + 16 * ((tail + p.2) % 2 ^ 32 % cap))
    [cleanWrite a (leBytes 8 e.1), cleanWrite (a + 8) (leBytes 8 (e.2 / 2 * 2 + 1))])
  return { metas := m, npages := j0, writes := [cleanWrite (q.free + 4) (leBytes 4 ((tail + k) % 2 ^ 32))] ++ ws }

/-! ## MASSFOLD, KVTRUNC and EVICT (R102 to R106) -/

/-- A delta buffer's header (R100). -/
structure Delta where
  state : Nat
  sgen : Nat
  rows : Nat
  pages : Nat
  deriving DecidableEq, Repr

/-- The header at an address; malformed where it breaks R100. -/
def readDelta (s : State) (d : Cmd) (va : DWord) : Except EFail Delta := do
  if va.toNat % 256 != 0 then throw .bad
  let ps ← seqReach s d .engineRead false va 256
  if ps.any (fun p => !(p.entry.mt == 0#2 && p.entry.home == 0#2)) then throw .bad
  let h := (placesOf ps).map s.store.mem.byte
  let x : Delta := { state := descNum h 0 4, sgen := descNum h 4 4, rows := descNum h 8 4, pages := descNum h 12 4 }
  if 1 < x.state || x.rows < 1 || 16 < x.rows || x.pages < 1 || 65535 < x.pages || descNum h 16 240 != 0 then throw .bad
  return x

/-- The address of delta row r, slot k (R100). -/
def deltaAddr (va : DWord) (x : Delta) (r k : Nat) : DWord := va + BitVec.ofNat 64 (256 + ((k / 64) * x.rows + r) * 256 + 4 * (k % 64))

/-- Every delta word +0.0. -/
def clearDelta (va : DWord) (x : Delta) : SeqWrite := cleanWrite (va + 256) (List.replicate (256 * x.pages * x.rows) 0)

/-- MASSFOLD at its grant (R102): metadata and delta words are read only where it folds. -/
def massfoldOut (s : State) (d : Cmd) (q : Seq) : Except EFail SeqOut := do
  let x ← readDelta s d d.b
  let n := if x.state == 1 && x.sgen == q.sgen then Nat.min q.len (64 * x.pages) else 0
  let m0 ← readMetas s d q (blocksOf 0 n)
  let words ← if n == 0 then pure [] else seqBytes s d false (d.b + 256) (256 * x.rows * ((n + 63) / 64))
  let delta (r k : Nat) : MWord := wordAt words (((k / 64) * x.rows + r) * 256 + 4 * (k % 64))
  let rs := (List.range x.rows).filter (fun r => d.c.getLsbD r)
  let m := (List.range n).foldl (fun m k =>
    if metaValid m q k then
      let t := rs.foldl (fun t r => fAdd t (delta r k).v) 0
      setMass m q k (fAdd (metaMass m q k).v t) ((metaMass m q k).bad || rs.any (fun r => (delta r k).bad))
    else m) m0
  return { metas := m, npages := q.npages, err := x.state == 1 && x.sgen != q.sgen,
           writes := metaWrites m ++ [clearDelta d.b x, cleanWrite d.b (leBytes 4 0)] }

/-- LEN, NPAGES and SGEN of a descriptor written where they changed. -/
def seqHeader (a : DWord) (q : Seq) (len npages sgen : Nat) : List SeqWrite :=
  (if len == q.len then [] else [cleanWrite a (leBytes 4 len)]) ++
    (if npages == q.npages then [] else [cleanWrite (a + 4) (leBytes 4 npages)]) ++
    (if sgen == q.sgen then [] else [cleanWrite (a + 0x2C) (leBytes 4 sgen)])

/-- KVTRUNC at its grant (R103); of the metadata it touches the blocks of the slots that go and of the pages released (R106). -/
def kvtruncOut (s : State) (d : Cmd) (q : Seq) : Except EFail SeqOut := do
  let l := d.b.toNat % 2 ^ 32
  if q.len ≤ l then return { metas := [], npages := q.npages }
  let m0 ← readMetas s d q (blocksOf l q.len)
  let m := (List.range (q.len - l)).foldl (fun m i => setMass (setValid m q (l + i) false) q (l + i) 0) m0
  let r ← releasePages s d q ((l + 63) / 64) m
  return { r with writes := metaWrites r.metas ++ r.writes ++ seqHeader d.a q l r.npages q.sgen }

/-- The order of R105 on counters: NaN first, then ascending. -/
def massLess (x y : Nat) : Bool :=
  if f32.isNan x then !f32.isNan y
  else if f32.isNan y then false
  else cmpFp (f32.value x) (f32.value y) == Ordering.lt

/-- The first `n` of a list in the order of R105, ties by slot. -/
def firstByMass (m : Metas) (q : Seq) : Nat → List Nat → List Nat
  | 0, _ => []
  | n + 1, ks =>
    match ks with
    | [] => []
    | k :: rest =>
      let best := rest.foldl (fun b j => if massLess (metaMass m q j).v (metaMass m q b).v then j else b) k
      best :: firstByMass m q n (ks.filter (fun j => j != best))

/-- Is x ≥ T, false for a NaN? -/
def atLeast (x t : Nat) : Bool :=
  !f32.isNan x && !f32.isNan t && cmpFp (f32.value x) (f32.value t) != Ordering.lt

/-- The moves of a compaction: each kept slot's data to its new place with its poison, as read before any write. -/
def compactWrites (s : State) (d : Cmd) (q : Seq) : List (Nat × Nat) → Except EFail (List SeqWrite)
  | [] => return []
  | (j, k) :: rest => do
    let ws ← compactWrites s d q rest
    if j == k then return ws
    let kb ← seqBytes s d true (q.slotAddr k false) q.slotBytes
    let vb ← seqBytes s d true (q.slotAddr k true) q.slotBytes
    return (q.slotAddr j false, kb, true) :: (q.slotAddr j true, vb, true) :: ws

/-- EVICT at its grant (R105). -/
def evictOut (s : State) (d : Cmd) (q : Seq) (byCount : Bool) : Except EFail SeqOut := do
  let n := q.len
  let m0 ← readMetas s d q (blocksOf 0 n)
  let m := (List.range n).foldl (fun m k =>
    if metaValid m q k then setMass m q k (fMul (metaMass m q k).v (d.b.toNat % 2 ^ 32)) (metaMass m q k).bad else m) m0
  let cand := (List.range n).filter (fun k => metaValid m q k && !(k < q.sink || n ≤ k + q.recent))
  let arg := d.c.toNat % 2 ^ 32
  let drop := if byCount then firstByMass m q arg cand else cand.filter (fun k => !atLeast (metaMass m q k).v arg)
  let keep := (List.range n).filter (fun k => metaValid m q k && !drop.contains k)
  let moves ← compactWrites s d q (keep.zipIdx.map (fun p => (p.2, p.1)))
  let w := keep.length
  let m1 := keep.zipIdx.foldl (fun r p =>
    if p.1 == p.2 then r
    else setPos (setMass r q p.2 (metaMass m q p.1).v (metaMass m q p.1).bad) q p.2 (metaPos m q p.1).v (metaPos m q p.1).bad) m
  let m2 := (List.range (n - w)).foldl (fun r i => setMass (setValid r q (w + i) false) q (w + i) 0) m1
  let m3 := (List.range w).foldl (fun r k => setValid r q k true) m2
  let r ← releasePages s d q ((w + 63) / 64) m3
  let sgen := if w < n then (q.sgen + 1) % 2 ^ 32 else q.sgen
  return { r with writes := moves ++ metaWrites r.metas ++ r.writes ++ seqHeader d.a q w r.npages sgen }

/-! ## Claims (R107, R108) -/

/-- The context address of a command's sequence descriptor. -/
def seqAddr (d : Cmd) : DWord := match d.op with | .attn _ => d.b | _ => d.a

/-- Every command of every core. -/
def allCmds (s : State) : List (Nat × Cmd) := s.cores.flatMap (fun p => p.2.cmds.map (fun d => (p.1, d)))

/-- A place in the order of registrations taken. -/
def Store.nextTurn (m : Store) : Store := { m with nextOwner := m.nextOwner + 1 }

/-- A command's claim reaches the descriptor's home: its address translates, every earlier command of the group has arrived,
and on the per-die path every earlier command of the queue has started (R108, R302). -/
def State.seqArrive (s : State) (core : Nat) (d : Cmd) : State :=
  let behind := (s.core core).cmds.any (fun x => x.id < d.id && isSeqOp x.op && x.groupKey == d.groupKey && x.phase == .queued)
  if behind || (unitOf d.op == 4 && !earlierStarted (s.core core) d) || d.phase != .queued || d.paused.isSome then s
  else
    match engineReach s core d.cid .engineRead [(seqAddr d, 1)] with
    | .error e => s.cmdFail core d e none
    | .ok ps =>
      let s := s.onCmd core d.id (fun y => { y with phase := .registered, order := s.store.nextOwner,
                                                    aux := [d.aux.headD 0, (ps.map EPiece.place).headD 0, 0] })
      s.onStore Store.nextTurn

/-- Is the claim next (R107)? A claim that has been granted came before every one that waits. -/
def seqTurn (s : State) (d : Cmd) : Bool :=
  (allCmds s).all (fun p =>
    let x := p.2
    !(isSeqOp x.op && x.phase != .queued && (seqGranted x || x.order < d.order) && seqPlace x == seqPlace d && (exclusive x.op || exclusive d.op)))

/-- The state of a command after its grant. -/
def Cmd.grant (d : Cmd) (err : Bool) (phase : CmdPhase) : Cmd := { d with aux := d.aux.set 2 1, err := d.err || err, phase := phase }

/-- A command that read a malformed descriptor (R96): no change, ERR, one event, and its flag. The event has the sequence
descriptor's address also where the free list or the delta buffer is malformed, since R96 names no other (DESIGN CHOICE, log entry
57). -/
def State.seqBad (s : State) (core : Nat) (d : Cmd) : State := (s.malformed core d (seqAddr d)).endCmd core d true true

/-- A claim granted for a command of the eviction engine: all its effects at once (DESIGN CHOICE, log entry 20), after those of
every command that holds a line of them (R109, R132). Poison that it writes on sets ERR (R303). -/
def State.grantDie (s : State) (core : Nat) (d : Cmd) (out : Seq → Except EFail SeqOut) : State :=
  let s := s.flushStashes
  let r : Except EFail (SeqOut × List (Nat × Byte × Bool)) := do
    let q ← readSeq s d d.a
    let o ← out q
    let ws ← seqWrites s d o.writes
    return (o, ws)
  match r with
  | .error .bad => s.seqBad core d
  | .error e => s.cmdFail core d e none
  | .ok (o, ws) => ((s.dieWrite ws).onStore Store.nextTurn).onCmd core d.id (fun y => y.grant (o.err || o.writes.any SeqWrite.bad) .finished)

/-! ## ATTN (R98 to R101, R320 to R322) -/

/-- The fields of an ATTN. -/
structure AttnOp where
  tq : Nat
  tile : Nat
  ring : Nat
  rows : Nat
  heads : Nat
  nreg : Nat
  sc : Nat
  mass : Bool
  delta : Bool
  rb : Bool
  win : Option Nat
  deriving DecidableEq, Repr

def attnOp (o : EOp) : AttnOp :=
  { tq := o.ty.code.toNat, tile := (o.ext.extractLsb' 10 6).toNat, ring := (o.ext.extractLsb' 16 4).toNat,
    rows := (o.ext.extractLsb' 20 4).toNat + 1, heads := (o.ext.extractLsb' 24 5).toNat + 1, nreg := (o.ext.extractLsb' 29 3).toNat,
    sc := (o.ext.extractLsb' 32 32).toNat, mass := o.ext.getLsbD 7, delta := o.ext.getLsbD 8, rb := o.ext.getLsbD 9,
    win := if o.mod.getLsbD 3 then some (o.mod.extractLsb' 4 3).toNat else none }

/-- The bytes of the queries that an ATTN claims. -/
def AttnOp.bytes (m : AttnOp) : Nat := m.rows * m.heads * 64 * (m.nreg + 1) * matBits m.tq / 8

/-- ATTN at issue (R320): its query claim, then its descriptor claim. -/
def execAttn (o : EOp) (s : State) : Host.Outcome State Fault Refusal :=
  .next (s.laneOp o.at' [] (fun c _ _ s =>
    let core := coreOf c.who
    let t := s.teamOf c
    let m := attnOp o
    match ringNumber s c m.ring with
    | none => s.illegalOperand o.at'
    | some r =>
      let x := s.ring core r
      if 32 < m.rows * m.heads || m.tile % 2 != 0 || t.res.nacc < m.tile + 2 * m.nreg + 2 || !x.valid || x.count < x.slotsFor m.bytes then
        s.illegalOperand o.at'
      else
        s.accept c o.at' (.attn o) (fun d => { d with a := c.sval o.a, b := c.sval o.b, c := c.sval o.c, aux := [r, 0, 0] }) (fun d s =>
          (s.claimFor core r (claimKey core d.id 0) d.groupKey (x.slotsFor m.bytes)).seqArrive core d)))

/-- The conditions of R320 on a descriptor's LAYOUT. -/
def AttnOp.layoutOk (m : AttnOp) (q : Seq) : Bool := (q.hd + 63) / 64 == m.nreg + 1 && m.heads % q.kvh == 0

/-- The lines of a command's writes to some runs of bytes, those that translate. -/
def writeLines (s : State) (d : Cmd) (runs : List (DWord × Nat)) : List Nat :=
  runs.flatMap (fun p => match engineReachTlb s (cmdTlb s d) d.cid .engineWrite (runPieces p.1 p.2) with
    | .ok ps => ownedLines ps
    | .error _ => [])

/-- What a granted ATTN holds until it ends (R109): the descriptor's line, and those of the counters or delta words that it may
write. -/
def attnLines (s : State) (d : Cmd) (m : AttnOp) (q : Seq) (x : Delta) : List Nat :=
  let runs := if m.mass then (blocksOf 0 q.len).map (fun j => (q.metaAddr j, 256))
    else if m.delta then (blocksOf 0 (Nat.min q.len (64 * x.pages))).map (fun j => (deltaAddr d.c x 0 (64 * j), 256 * m.rows))
    else []
  (lineOf (seqPlace d) :: writeLines s d runs).dedup

/-- A claim granted for ATTN: it samples the descriptor; with .delta the buffer's header is read and set (R101). -/
def State.grantAttn (s : State) (core : Nat) (d : Cmd) (m : AttnOp) : State :=
  let s := s.flushStashes
  let r : Except EFail (Seq × Delta × Bool × List (Nat × Byte × Bool)) := do
    let q ← readSeq s d d.b
    if !m.layoutOk q then throw .bad
    if m.delta then
      let x ← readDelta s d d.c
      if x.rows < m.rows then throw .bad
      let stale := x.state == 1 && x.sgen != q.sgen
      let ws ← seqWrites s d ((if stale then [clearDelta d.c x] else []) ++ [cleanWrite d.c (leBytes 4 1), cleanWrite (d.c + 4) (leBytes 4 q.sgen)])
      return (q, x, stale, ws)
    else return (q, { state := 0, sgen := 0, rows := 0, pages := 0 }, false, [])
  match r with
  | .error .bad => s.seqBad core d
  | .error e => s.cmdFail core d e none
  | .ok (q, x, stale, ws) =>
    let ents := q.ents.flatMap (fun e => leBytes 8 e.1 ++ leBytes 8 e.2)
    let head := leBytes 4 q.len ++ leBytes 4 q.npages ++ leBytes 8 q.mbase.toNat ++ leBytes 4 q.hd ++ leBytes 4 q.kvh ++ leBytes 4 q.ty ++
      leBytes 4 x.rows ++ leBytes 4 x.pages
    let s := (s.dieWrite ws).onStore Store.nextTurn
    let s := s.own core d.id d.order (attnLines s d m q x)
    s.onCmd core d.id (fun y => { y.grant stale .registered with order := d.order, desc := head ++ ents })

/-- The sequence that a granted ATTN sampled. -/
def sampledSeq (d : Cmd) : Seq :=
  let n := descNum d.desc 4 4
  { len := descNum d.desc 0 4, npages := n, sink := 0, recent := 0, mbase := BitVec.ofNat 64 (descNum d.desc 8 8), free := 0,
    hd := descNum d.desc 16 4, kvh := descNum d.desc 20 4, ty := descNum d.desc 24 4, sgen := 0,
    ents := (List.range n).map (fun j => (descNum d.desc (36 + 16 * j) 8, descNum d.desc (36 + 16 * j + 8) 8)) }

/-- The delta header that a granted ATTN read (R101). -/
def sampledDelta (d : Cmd) : Delta := { state := 1, sgen := 0, rows := descNum d.desc 28 4, pages := descNum d.desc 32 4 }

/-- SEQUENCE_CLAIM_GRANT (R107): the command acts, and registers its lines, after every registration made so far (R132). -/
def execSequenceClaimGrant (core cmd : Nat) (s : State) : Host.Outcome State Fault Refusal :=
  .next (match (s.core core).cmd cmd with
    | none => s
    | some d =>
      if d.phase != .registered || seqGranted d || d.paused.isSome || !isSeqOp d.op || !seqTurn s d then s
      else
        let d := { d with order := s.store.nextOwner }
        match d.op with
        | .attn o => s.grantAttn core d (attnOp o)
        | .massfold _ => s.grantDie core d (massfoldOut s.flushStashes d)
        | .kvtrunc _ => s.grantDie core d (kvtruncOut s.flushStashes d)
        | .evict o => s.grantDie core d (fun q => evictOut s.flushStashes d q (o.ext.getLsbD 7))
        | _ => s)

/-- The value of a page or query element on entry to the array; f32 is rounded to bf16 (R321). -/
def kvValue (ty x : Nat) : Fp :=
  match ty with
  | 3 => bf16.value (floatToFloat f32 bf16 0 false x).1
  | 4 => bf16.value x
  | 5 => h16.value x
  | 10 => e4m3.value x
  | _ => e5m2.value x

/-- T of an ATTN (R321). -/
def attnTerms (tq ty : Nat) : Nat := if matBits tq == 8 && kvSize ty == 1 then 32 else 16

/-- The data of the slots that some row admits: slot, position, K bytes, V bytes, poison. -/
structure SlotData where
  slot : Nat
  pos : Nat
  k : List Byte
  v : List Byte
  bad : Bool
  deriving DecidableEq, Repr

/-- The slots read. -/
def readSlots (s : State) (d : Cmd) (q : Seq) (m : Metas) : List Nat → Except EFail (List SlotData)
  | [] => return []
  | k :: rest => do
    let (kb, kp) ← seqRead s d true (q.slotAddr k false) q.slotBytes
    let (vb, vp) ← seqRead s d true (q.slotAddr k true) q.slotBytes
    let l ← readSlots s d q m rest
    return { slot := k, pos := (metaPos m q k).v, k := kb, v := vb, bad := kp || vp } :: l

/-- A 32-bit position at or before another's. -/
def admits (qp pos : Nat) : Bool := pos ≤ qp

/-- The terms of step `k` of a dot over `n` elements; terms past the end are zero products. -/
def stepTerms (t n : Nat) (f : Nat → Fp × Fp) (k : Nat) : List (Fp × Fp) :=
  (List.range t).map (fun i => if k * t + i < n then f (k * t + i) else (.num false 0 0, .num false 0 0))

/-- acc of R191 with start, P = 16, unscaled, over `n` terms. -/
def unscaledDot (t w n : Nat) (f : Nat → Fp × Fp) : Accum :=
  accumulate (stepTerms t n f) w 16 (fun _ => (fpOne, fpOne)) 0 ((n + t - 1) / t) { z := .num false 0 0, acc := 0, lost := false }

/-- The element of a slot's bytes: head h, element e. -/
def slotElem (q : Seq) (bs : List Byte) (h e : Nat) : Fp :=
  let n := kvSize q.ty
  kvValue q.ty (descNum bs ((h * q.hd + e) * n) n)

/-- What an output row computes: its columns with their flags, and the weights of its admitted slots. -/
structure AttnRow where
  cols : List (Nat × Bool)
  weights : List (Nat × Nat)
  bad : Bool
  deriving DecidableEq, Repr

/-- Output row (r, h) of R321. `query` reads element e of the row's query. -/
def attnRow (m : AttnOp) (d : Cmd) (q : Seq) (query : Nat → Nat × Bool) (qp h : Nat) (slots : List SlotData) : AttnRow :=
  let t := attnTerms m.tq q.ty
  let w := windowOf (m.win.getD (fmtWin d.fmt))
  let g := m.heads / q.kvh
  let adm := slots.filter (fun x => admits qp x.pos)
  let bs := d.a.toNat / 2 ^ 32
  let score (x : SlotData) : Nat × Bool :=
    let a := unscaledDot t w q.hd (fun e => (kvValue m.tq (query e).1, slotElem q x.k (h / g) e))
    let y := if m.rb then
        eSub a.acc (eMul bs (canonical (intToFloat f32 0 false (toSigned 32 ((qp + 2 ^ 32 - x.pos) % 2 ^ 32))).1))
      else a.acc
    (eMul y m.sc, a.lost)
  let scores := adm.map score
  match scores with
  | [] => { cols := (List.range (64 * (m.nreg + 1))).map (fun _ => (0, false)), weights := [], bad := false }
  | s0 :: rest =>
    let top := rest.foldl (fun b x => canonical (minMaxElem f32 true b x.1).1) s0.1
    let es := scores.map (fun x => eExp2 (eSub x.1 top))
    let z := es.foldl eAdd 0
    let ps := es.map (fun e => eDiv e z)
    let lost := scores.any (fun x => x.2)
    let col (c : Nat) : Nat × Bool :=
      if q.hd ≤ c then (0, false)
      else
        let a := unscaledDot t w adm.length (fun i =>
          (bf16.value (floatToFloat f32 bf16 0 false (ps.getD i 0)).1, slotElem q ((adm[i]?).map SlotData.v |>.getD []) (h / g) c))
        (a.acc, a.lost || lost)
    { cols := (List.range (64 * (m.nreg + 1))).map col, weights := (adm.map SlotData.slot).zip ps,
      bad := adm.any SlotData.bad || (List.range q.hd).any (fun e => (query e).2) }

/-- The computed rows: number, query row, and result. -/
def attnRows (s : State) (core : Nat) (d : Cmd) (m : AttnOp) (q : Seq) (slots : List SlotData) : List (Nat × Nat × AttnRow) :=
  let base := ((s.core core).team d.team).res.spbase
  let el := elemOf (claimByte s core (d.aux.headD 0) (claimKey core d.id 0) base) (matBits m.tq)
  ((List.range (m.rows * m.heads)).filter (fun l => d.amask.getLsbD l)).map (fun l =>
    let r := l / m.heads
    let qp := (d.a.toNat % 2 ^ 32 + r) % 2 ^ 32
    (l, r, attnRow m d q (fun e => el (l * q.hd + e)) qp (l % m.heads) slots))

/-- The weight of a slot in a row. -/
def weightOf (x : AttnRow) (k : Nat) : Option Nat := (x.weights.find? (fun w => w.1 == k)).map Prod.snd

/-- t of R99 over rows of results, ascending. -/
def sumWeights (xs : List AttnRow) (k : Nat) : Nat := xs.foldl (fun t x => match weightOf x k with | some p => eAdd t p | none => t) 0

/-- Does a row of results that adds to a slot carry poison? -/
def badFor (xs : List AttnRow) (k : Nat) : Bool := xs.any (fun r => r.bad && (weightOf r k).isSome)

/-- The counters that .mass raises (R99). -/
def massWrites (m0 : Metas) (q : Seq) (xs : List AttnRow) (slots : List SlotData) : List SeqWrite :=
  metaWrites (slots.foldl (fun m x =>
    if xs.any (fun r => (weightOf r x.slot).isSome) then
      setMass m q x.slot (eAdd (metaMass m q x.slot).v (sumWeights xs x.slot)) ((metaMass m q x.slot).bad || badFor xs x.slot)
    else m) m0)

/-- The delta words that .delta raises (R101), and whether some slot lies past the buffer. -/
def deltaWrites (s : State) (d : Cmd) (x : Delta) (rows : List (Nat × Nat × AttnRow)) :
    List (Nat × Nat) → Except EFail (List SeqWrite × Bool)
  | [] => return ([], false)
  | (r, k) :: rest => do
    let (ws, over') ← deltaWrites s d x rows rest
    let xs := (rows.filter (fun p => p.2.1 == r)).map (fun p => p.2.2)
    if !xs.any (fun y => (weightOf y k).isSome) then return (ws, over')
    if 64 * x.pages ≤ k then return (ws, true)
    let a := deltaAddr d.c x r k
    let old := wordAt (← seqBytes s d false a 4) 0
    let bad := old.bad || badFor xs k
    return ((a, (leBytes 4 (eAdd old.v (sumWeights xs k))).map (fun b => (b, bad)), false) :: ws, over')

/-- Is a row of some query row computed (R321)? -/
def rowComputed (d : Cmd) (m : AttnOp) (r : Nat) : Bool := (List.range m.heads).any (fun h => d.amask.getLsbD (r * m.heads + h))

/-- The slots that some computed row admits (R98). -/
def admitted (d : Cmd) (m : AttnOp) (q : Seq) (m0 : Metas) : List Nat :=
  (List.range q.len).filter (fun k => metaValid m0 q k &&
    (List.range m.rows).any (fun r => rowComputed d m r && admits ((d.a.toNat % 2 ^ 32 + r) % 2 ^ 32) (metaPos m0 q k).v))

/-- What an ATTN computes and writes at its end: its rows, whether some contribution is dropped, and the writes of its metadata. -/
def attnOut (s : State) (core : Nat) (d : Cmd) (m : AttnOp) : Except EFail (List (Nat × Nat × AttnRow) × Bool × List SeqWrite) := do
  let q := sampledSeq d
  let m0 ← readMetas s d q (blocksOf 0 q.len)
  let ks := admitted d m q m0
  let slots ← readSlots s d q m0 ks
  let rows := attnRows s core d m q slots
  if m.mass then return (rows, false, massWrites m0 q (rows.map (fun p => p.2.2)) slots)
  if m.delta then
    let (dw, over') ← deltaWrites s d (sampledDelta d) rows ((List.range m.rows).flatMap (fun r => ks.map (fun k => (r, k))))
    return (rows, over', dw)
  return (rows, false, [])

/-- ATTN's last write: tiles, metadata, pops and its flag. -/
def State.completeAttn (s : State) (core : Nat) (d : Cmd) (m : AttnOp) : State :=
  let s := s.flushStashes
  let t := (s.core core).team d.team
  let r : Except EFail (List (Nat × Nat × AttnRow) × Bool × List (Nat × Byte × Bool)) := do
    let (rows, err, ws) ← attnOut s core d m
    let bs ← seqWrites s d ws
    return (rows, err || ws.any SeqWrite.bad, bs)
  match r with
  | .error e => s.cmdFail core d e none
  | .ok (rows, err, ws) =>
    let es := rows.flatMap (fun p => (List.range (m.nreg + 1)).flatMap (fun g => (List.range 64).map (fun j =>
      let x := p.2.2.cols.getD (64 * g + j) (0, false)
      (tileKey (t.res.abase + m.tile + 2 * g) p.1 j, BitVec.ofNat 32 x.1, x.2, p.2.2.bad))))
    ((s.onTiles core (fun k => k.setElems es)).dieWrite ws).finishCmd core d (err || rows.any (fun p => p.2.2.bad))

/-- May an ATTN start: granted, its queries arrived, the array free, its tiles not in use? -/
def attnCanStart (s : State) (core : Nat) (d : Cmd) : Bool :=
  let c := s.core core
  d.phase == .registered && seqGranted d && d.paused.isNone && earlierGone c d &&
    claimArrived s core (d.aux.headD 0) (claimKey core d.id 0) && !tilesBusy c d.id (matTargets (c.team d.team) d.op) true

/-- The cycles of an ATTN's sweeps (R322) over the slots that it admits as it starts, rounded up where HD / T is no whole
number. -/
def attnCycles (s : State) (d : Cmd) (m : AttnOp) : Nat :=
  let q := sampledSeq d
  let n := match readMetas s d q (blocksOf 0 q.len) with
    | .ok m0 => (admitted d m q m0).length
    | .error _ => 0
  let k := (n + 15) / 16 * q.hd * ((m.rows * m.heads + 15) / 16)
  let t := attnTerms m.tq q.ty
  (k + t - 1) / t + (2 * k + t - 1) / t

/-- MATRIX_OP_COMPLETE (R316, R321, R322). -/
def execMatrixOpComplete (core cmd : Nat) (s : State) : Host.Outcome State Fault Refusal :=
  .next (match (s.core core).cmd cmd with
    | none => s
    | some d =>
      if d.phase != .started || s.now < d.due || d.paused.isSome then s
      else
        match d.op with
        | .mma o => s.completeMat core d (matOp o false)
        | .mmas o => s.completeMat core d (matOp o true)
        | .attn o => s.completeAttn core d (attnOp o)
        | _ => s)

/-! ## Issue of the eviction engine's commands (R323) -/

/-- A command of the per-die path accepted, its claim sent. -/
def State.seqIssue (s : State) (o : ROp) (op : Instr) : State :=
  s.laneOp o.at' [] (fun c _ _ s =>
    s.accept c o.at' op (fun d => { d with a := c.sval o.a, b := c.sval o.b, c := c.sval o.c, aux := [0, 0, 0] })
      (fun d s => s.seqArrive (coreOf c.who) d))

/-- MASSFOLD (R102, R323). -/
def execMassfold (o : ROp) (s : State) : Host.Outcome State Fault Refusal := .next (s.seqIssue o (.massfold o))
/-- KVTRUNC (R103, R323). -/
def execKvtrunc (o : ROp) (s : State) : Host.Outcome State Fault Refusal := .next (s.seqIssue o (.kvtrunc o))

/-- The operand limits of EVICT (R105). -/
def evictOk (o : EOp) (b c : DWord) : Bool :=
  let x := b.toNat % 2 ^ 32
  let y := c.toNat % 2 ^ 32
  let d := f32.value x
  !f32.isNan x && cmpFp d (.num false 0 0) != Ordering.lt && cmpFp d fpOne != Ordering.gt &&
    (if o.ext.getLsbD 7 then 1 ≤ y && y ≤ 2 ^ 24 else !f32.isNan y)

/-- EVICT (R105, R323). -/
def execEvict (o : EOp) (s : State) : Host.Outcome State Fault Refusal :=
  .next (s.laneOp o.at' [] (fun c _ _ s =>
    if !evictOk o (c.sval o.b) (c.sval o.c) then s.illegalOperand o.at'
    else
      s.accept c o.at' (.evict o) (fun d => { d with a := c.sval o.a, b := c.sval o.b, c := c.sval o.c, aux := [0, 0, 0] })
        (fun d s => s.seqArrive (coreOf c.who) d)))

/-- SEQUENCE_COMMAND_COMPLETE (R109): the claim is released and the flag incremented. -/
def execSequenceCommandComplete (core cmd : Nat) (s : State) : Host.Outcome State Fault Refusal :=
  .next (match (s.core core).cmd cmd with
    | some d => if isSeqOp d.op && d.phase == .finished then s.finishCmd core d false else s
    | none => s)

end Sys2Proof.Machine
end

