-- ==== Sys2Proof/Machine/Collective.lean ====
section
/-! DEFINITION. Collectives (R324, R325).
Readings of the rules: DEDUCED, log entry 41. -/

namespace Sys2Proof.Machine

/-! ## Descriptors (R324) -/

/-- A collective descriptor with the communicator table's ID and count and this rank's entry. -/
structure CollDesc where
  src : DWord
  dst : DWord
  count : Nat
  op : Nat
  rop : Nat
  ty : Nat
  rank : Nat
  seq : Nat
  tmo : Nat
  root : Nat
  id : Nat
  nr : Nat
  bad : Bool
  deriving DecidableEq, Repr

/-- The descriptor in 64 bytes and the first 16 bytes of its table, with whether the rank's entries are sound. -/
def collDesc (bs : List Byte) : CollDesc :=
  let ctl := descNum bs 0x1C 4
  let count := descNum bs 0x18 4
  let op := ctl % 8
  let rop := ctl / 8 % 8
  let rank := descNum bs 0x20 4
  let nr := descNum bs 0x44 4
  let root := descNum bs 0x2C 4
  { src := BitVec.ofNat 64 (descNum bs 0 8), dst := BitVec.ofNat 64 (descNum bs 8 8), count := count, op := op, rop := rop,
    ty := ctl / 64 % 16, rank := rank, seq := descNum bs 0x24 4, tmo := descNum bs 0x28 4, root := root,
    id := descNum bs 0x40 4, nr := nr,
    bad := count == 0 || 2 ^ 28 < count || 3 < op || 2 < rop || 3 < ctl / 64 % 16 || 1024 ≤ ctl || nr ≤ rank ||
      descNum bs 0x30 16 != 0 || (op == 3 && nr ≤ root) || (op == 1 && count % nr != 0) || descNum bs 0x50 1 != 0 }

/-- The bytes of an element. -/
def CollDesc.size (d : CollDesc) : Nat := if d.ty == 1 then 2 else 4
/-- The bytes that a rank reads and writes. -/
def CollDesc.srcBytes (d : CollDesc) : Nat := d.count * d.size
def CollDesc.dstBytes (d : CollDesc) : Nat :=
  match d.op with
  | 1 => d.count / d.nr * d.size
  | 2 => d.nr * d.count * d.size
  | _ => d.count * d.size

/-- Do two ranks agree (R325)? -/
def CollDesc.agrees (d e : CollDesc) : Bool :=
  d.op == e.op && d.rop == e.rop && d.ty == e.ty && d.count == e.count && d.nr == e.nr && d.root == e.root

/-- An entry of the communicator table: package and die; its other bits are zero. -/
def commEntryOk (bs : List Byte) : Bool := descNum bs 0 8 < 2 ^ 12

/-- Is a communicator's count of ranks one that R324 allows? -/
def rankCountOk (nr : Nat) : Bool := 2 ≤ nr && nr ≤ 4096

/-- What a rank's command reads when it reaches the engine: its descriptor, the head of the table, a byte that tells
whether the descriptor's address, the table or the rank's entry breaks R324, and the packages of the ranks. -/
def collRead (s : State) (d : Cmd) (die : Nat) : Except EFail (List Byte × List Nat) := do
  let (bs, _) ← seqRead s d false d.a 64
  let comm : DWord := BitVec.ofNat 64 (descNum bs 0x10 8)
  let (head, _) ← seqRead s d false comm 16
  let nr := descNum head 4 4
  let (es, _) ← if rankCountOk nr then seqRead s d false (comm + 16) (8 * nr) else pure ([], false)
  let ents := (List.range (es.length / 8)).map (fun k => (es.drop (8 * k)).take 8)
  let e := descNum (ents.getD (descNum bs 0x20 4) []) 0 8
  let bad := d.a.toNat % 64 != 0 || !rankCountOk nr || descNum head 8 8 != 0 || !ents.all commEntryOk || e % 1024 != 0 || e / 1024 % 4 != die
  return (bs ++ head ++ [if bad then 1#8 else 0#8], ents.map (fun b => descNum b 0 8 % 1024))

/-! ## Arrival -/

/-- A rank that arrives: its command is read, its destination registered, and it waits for the others. One that names a package
that no path reaches fails alone (R325, R377). -/
def State.collArrive (s : State) (core : Nat) (d : Cmd) : State :=
  if d.phase != .queued || d.paused.isSome || !earlierStarted (s.core core) d then s
  else
    match collRead s.flushStashes d (dieOfCore core) with
    | .error e => s.cmdFail core d e none
    | .ok (bs, pkgs) =>
      let c := collDesc bs
      if pkgs.any (noPathTo s) then s.finishCmd core d true
      else
        let lines : Except EFail (List Nat) :=
          if c.bad then .ok []
          else
            match engineReach s core d.cid .engineWrite (runPieces c.dst c.dstBytes) with
            | .ok ps => .ok (ownedLines ps)
            | .error e => .error e
        match lines with
        | .error e => s.cmdFail core d e none
        | .ok ls =>
          let r := s.settleLines core ls
          if !r.2 then s
          else
            (r.1.own core d.id d.order ls).onCmd core d.id (fun y =>
              { y with phase := .started, desc := bs, aux := pkgs, due := s.now + 1024 * c.tmo })

/-- COLL (R324). -/
def execColl (o : EOp) (s : State) : Host.Outcome State Fault Refusal :=
  .next (s.laneOp o.at' [] (fun c _ _ s =>
    s.accept c o.at' (.coll o) (fun d => { d with a := c.sval o.a }) (fun d s => s.collArrive (coreOf c.who) d)))

/-! ## Completion (R325) -/

/-- Is it a collective command? -/
def isColl (i : Instr) : Bool := match i with | .coll _ => true | _ => false

/-- The ranks of a collective that have arrived, with their cores and descriptors. -/
def collRanks (s : State) (comm seq : Nat) : List (Nat × Cmd × CollDesc) :=
  ((allCmds s).filter (fun p => isColl p.2.op && p.2.phase == .started)).filterMap (fun p =>
    let c := collDesc p.2.desc
    if c.id == comm && c.seq == seq then some (p.1, p.2, c) else none)

/-- The arrived command of a rank. -/
def rankAt (xs : List (Nat × Cmd × CollDesc)) (k : Nat) : Option (Nat × Cmd × CollDesc) := xs.find? (fun x => x.2.2.rank == k)

/-- Have as many ranks arrived as the communicator has, by the table of one whose count is sound (R325)? With no sound count there
is none to wait for. -/
def collArrived (xs : List (Nat × Cmd × CollDesc)) : Bool :=
  let ns := (xs.map (fun y => y.2.2.nr)).filter rankCountOk
  !xs.isEmpty && (ns.isEmpty || ns.any (fun n => n ≤ xs.length))

/-- May the collective complete: its ranks have arrived and none is paused? -/
def collFull (xs : List (Nat × Cmd × CollDesc)) : Bool := collArrived xs && xs.all (fun y => y.2.1.paused.isNone)

/-- The value of a collective's tree over `n` ranks from `lo` (R325). -/
def collTree (op : Nat → Nat → Nat) (x : Nat → Nat) : Nat → Nat → Nat → Nat
  | 0, lo, _ => x lo
  | fuel + 1, lo, n =>
    if n ≤ 1 then x lo
    else
      let h := 2 ^ Nat.log2 (n - 1)
      op (collTree op x fuel lo h) (collTree op x fuel (lo + h) (n - h))

/-- op of R325 on elements held in 32 bits: bf16 widened to f32, whose tree is rounded once. -/
def collOp (ty rop : Nat) (u v : Nat) : Nat :=
  match ty with
  | 2 => (match rop with | 0 => (u + v) % 2 ^ 32 | 1 => (if toSigned 32 u < toSigned 32 v then v else u)
                         | _ => if toSigned 32 u < toSigned 32 v then u else v)
  | 3 => (match rop with | 0 => (u + v) % 2 ^ 32 | 1 => Nat.max u v | _ => Nat.min u v)
  | _ => (match rop with | 0 => (addElem f32 0 false u v).1 | 1 => (minMaxElem f32 true u v).1 | _ => (minMaxElem f32 false u v).1)

/-- The bytes of the ranks' sources with their poison. -/
abbrev CollSrcs := List (List (Byte × Bool))

/-- Element `i` of all ranks combined; poison of any rank's element stays with it (R73). -/
def collElem (d : CollDesc) (srcs : CollSrcs) (i : Nat) : List (Byte × Bool) :=
  let part (k : Nat) : List (Byte × Bool) := ((srcs.getD k []).drop (i * d.size)).take d.size
  let x (k : Nat) : Nat :=
    let v := leNat ((part k).map Prod.fst)
    if d.ty == 1 then (floatToFloat bf16 f32 0 false v).1 else v
  let r := collTree (collOp d.ty d.rop) x 13 0 d.nr
  let bad := (List.range d.nr).any (fun k => (part k).any Prod.snd)
  (leBytes d.size (if d.ty == 1 then (floatToFloat f32 bf16 0 false r).1 else r)).map (fun b => (b, bad))

/-- The bytes that a rank's destination takes. -/
def collResult (d : CollDesc) (srcs : CollSrcs) (k : Nat) : List (Byte × Bool) :=
  match d.op with
  | 0 => (List.range d.count).flatMap (collElem d srcs)
  | 1 => (List.range (d.count / d.nr)).flatMap (fun i => collElem d srcs (k * (d.count / d.nr) + i))
  | 2 => srcs.flatMap id
  | _ => srcs.getD d.root []

/-- A rank of a collective with the places of its source, where it is read, and of its destination. -/
structure CollPart where
  core : Nat
  cmd : Cmd
  desc : CollDesc
  src : List Nat
  dst : List Nat
  deriving DecidableEq, Repr

/-- The places of a rank's bytes, once no command but those of the collective holds a line of them from before. -/
def collPlaces (s : State) (core : Nat) (d : Cmd) (k : AccessKind) (va : DWord) (n : Nat) (members : List (Nat × Nat)) :
    Except EFail (List Nat) := do
  let ps ← engineReach s core d.cid k (runPieces va n)
  if (ownedLines ps).any (fun l => s.store.owners.any (fun o => o.line == l && o.seq < d.order && !members.contains (o.unit, o.cmd))) then throw .held
  return placesOf ps

/-- The parts of the ranks; a broadcast reads only its root's source. The first rank that cannot go on is named with why. -/
def collParts (s : State) (members : List (Nat × Nat)) : List (Nat × Cmd × CollDesc) → Except (Nat × Cmd × EFail) (List CollPart)
  | [] => .ok []
  | (k, d, c) :: rest =>
    let part : Except EFail CollPart := do
      let src ← if c.op == 3 && c.rank != c.root then pure [] else collPlaces s k d .engineRead c.src c.srcBytes members
      let dst ← collPlaces s k d .engineWrite c.dst c.dstBytes members
      return { core := k, cmd := d, desc := c, src := src, dst := dst }
    match part with
    | .error e => .error (k, d, e)
    | .ok p =>
      match collParts s members rest with
      | .error e => .error e
      | .ok l => .ok (p :: l)

/-- The source of each rank in rank order, as `f` gives the byte at a place. -/
def collSrcs (ps : List CollPart) (nr : Nat) (f : Nat → Byte × Bool) : CollSrcs :=
  (List.range nr).map (fun k => match ps.find? (fun p => p.desc.rank == k) with | some p => p.src.map f | none => [])

/-- What the ranks write from their sources, by place. -/
def collWrites (ps : List CollPart) (srcs : CollSrcs) : List (Nat × Byte × Bool) :=
  ps.flatMap (fun p => p.dst.zip (collResult p.desc srcs p.desc.rank))

/-- The sources as the engines read them: a word that a rank writes is read with its old value, or with the value written there, as
far as a chain of such words goes (R131, R135; DESIGN CHOICE, log entry 17). -/
def collRead' (s : State) (ps : List CollPart) (nr : Nat) : Nat → CollSrcs
  | 0 => collSrcs ps nr (fun p => (s.store.mem.byte p, s.isPoisoned p))
  | fuel + 1 =>
    let ws := (collWrites ps (collRead' s ps nr fuel)).reverse
    collSrcs ps nr (fun p =>
      match ws.find? (fun w => w.1 == p) with
      | some w => if Config.overlapReadsNew s.free (p / 4) then w.2 else (s.store.mem.byte p, s.isPoisoned p)
      | none => (s.store.mem.byte p, s.isPoisoned p))

/-- How far a chain of overlapping words can go: the words of the destinations, if any byte is both read and written. -/
def collChain (ps : List CollPart) : Nat :=
  let dst := ps.flatMap CollPart.dst
  if ps.any (fun p => p.src.any dst.contains) then dst.length / 4 + 1 else 0

/-- Every rank of a collective completes. -/
def State.collEnd (s : State) (xs : List (Nat × Cmd × CollDesc)) (err : CollDesc → Bool) : State :=
  xs.foldl (fun s x => s.finishCmd x.1 x.2.1 (err x.2.2)) s

/-- Does a rank read or write poison (R73)? -/
def collBad (ps : List CollPart) (srcs : CollSrcs) (c : CollDesc) : Bool :=
  (srcs.getD c.rank []).any Prod.snd || ps.any (fun p => p.desc.rank == c.rank && (collResult p.desc srcs c.rank).any Prod.snd)

/-- A collective all of whose ranks have arrived (R325): where they disagree, or one breaks R324, every rank completes with
ERR and writes nothing; otherwise every rank's destination is written and every flag incremented. -/
def State.collComplete (s : State) (xs : List (Nat × Cmd × CollDesc)) : State :=
  match xs with
  | [] => s
  | x :: _ =>
    let nr := x.2.2.nr
    let sound := xs.length == nr && (List.range nr).all (fun k => (rankAt xs k).isSome) && xs.all (fun y => !y.2.2.bad && x.2.2.agrees y.2.2)
    if !sound then s.collEnd xs (fun _ => true)
    else
      let s := s.flushStashes
      match collParts s (xs.map (fun y => (y.1, y.2.1.id))) xs with
      | .error (k, d, e) => s.cmdFail k d e none
      | .ok ps =>
        let n := collChain ps
        let srcs := collRead' s ps nr n
        let s := if n == 0 then s else { s with free := s.free + 1 }
        (s.dieWrite (collWrites ps srcs)).collEnd xs (collBad ps srcs)

/-- COLLECTIVE_COMPLETE (R325). -/
def execCollectiveComplete (comm seq : Nat) (s : State) : Host.Outcome State Fault Refusal :=
  .next (if collFull (collRanks s comm seq) then s.collComplete (collRanks s comm seq) else s)

/-- COLLECTIVE_TIMEOUT (R325): a rank whose TMO passes before every rank has arrived withdraws with ERR. -/
def execCollectiveTimeout (core cmd : Nat) (s : State) : Host.Outcome State Fault Refusal :=
  .next (match (s.core core).cmd cmd with
    | some d =>
      let c := collDesc d.desc
      if isColl d.op && d.phase == .started && c.tmo != 0 && d.due ≤ s.now && !collArrived (collRanks s c.id c.seq) then s.finishCmd core d true
      else s
    | none => s)

end Sys2Proof.Machine
end

