-- ==== Sys2Proof/Machine/Batch.lean ====
section
/-! DEFINITION. Batch-forming queues (R326, R327).
Readings of the rules: DEDUCED, log entry 41. -/

namespace Sys2Proof.Machine

/-! ## Queues -/

/-- A batch-forming queue of a die. -/
def State.bfq (s : State) (die q : Nat) : Bfq := Sparse.look {} q (s.die die).bfqs
/-- A batch-forming queue changed. -/
def State.onBfq (s : State) (die q : Nat) (f : Bfq → Bfq) : State :=
  s.onDie die (fun d => { d with bfqs := Sparse.upd {} q f d.bfqs })

/-- Is it a command on a batch-forming queue? -/
def isBfq (i : Instr) : Bool := match i with | .bfqpost _ | .bfqtake _ | .bfqdone _ => true | _ => false

/-- The slot, generation and operation number of operand b (R327). -/
def bfqGen (b : DWord) : Nat := bitsOf b 15 0
def bfqSlot (b : DWord) : Nat := bitsOf b 31 16
def bfqOp (b : DWord) : Nat := bitsOf b 47 32
/-- MAX of a BFQTAKE. -/
def takeMax (b : DWord) : Nat := bitsOf b 7 0

/-- The context address of a slot's entry. -/
def Bfq.entry (q : Bfq) (slot : Nat) : DWord := q.stab + BitVec.ofNat 64 (16 * slot)

/-- The 16 bytes of a record. -/
def BfqRec.bytes (r : BfqRec) : List Byte := leBytes 8 r.row.toNat ++ leBytes 8 (r.opid * 2 ^ 32 + r.slot * 2 ^ 16 + r.gen)

/-- The records that a take adds to those it has, as bytes, and the rest of the queue: first the oldest, then those of the
same OPID in arrival order, up to MAX. -/
def takeRecs (max : Nat) (have' : List Byte) : List BfqRec → List Byte × List BfqRec
  | [] => (have', [])
  | r :: rs =>
    if have'.length < 16 * max && (have'.isEmpty || descNum have' 12 2 == r.opid) then takeRecs max (have' ++ r.bytes) rs
    else
      let x := takeRecs max have' rs
      (x.1, r :: x.2)

/-! ## Effects -/

/-- An increment through a flag handle for a command, held while its group is stopped for the debugger with HOLD = 1 (R365);
a stale handle is told by an event (R307). -/
def State.signalHandle (s : State) (core : Nat) (d : Cmd) (h : Nat) (err : Bool) : State :=
  let aid := cmdAid core d.op
  let stopped := groupStopped ((s.core core).groupK d.groupKey) && (s.core core).agent.dctlHold
  let f (x : Flag) : Flag := Flag.change (fun v => v + 1) err aid x
  match flagPlace s h d.cid with
  | .core k n =>
    if stopped then s.onFlag k n (fun x => { x with held := x.held ++ [(handleKey core d.groupKey, err, aid)] }) else s.onFlag k n f
  | .glen g n => s.onGlenFlag g n f
  | .image c va => s.onImageFlag c va f
  | .stale => s.cmdRecord core d { code := 0x22 } false none

/-- BFQPOST at its queue: a slot at or above NSLOT is an error; otherwise the entry is written and the record appended, once
the queue holds fewer than CAP (R327). -/
def State.bfqPost (s : State) (core die q : Nat) (d : Cmd) : State :=
  let x := s.bfq die q
  if x.nslot ≤ bfqSlot d.b then s.finishCmd core d true
  else if x.cap ≤ x.recs.length then s
  else
    let t := (s.core core).team d.team
    let hnd := match flagField d.op with | some n => flagHandle s core (t.res.fbase + n) | none => 0
    match seqWrites s d [cleanWrite (x.entry (bfqSlot d.b) + 8) (leBytes 8 (hnd * 2 ^ 32 + 2 ^ 16 + bfqGen d.b))] with
    | .error e => s.cmdFail core d e none
    | .ok ws =>
      let r : BfqRec := { row := d.a, gen := bfqGen d.b, slot := bfqSlot d.b, opid := bfqOp d.b }
      ((s.dieWrite ws).onBfq die q (fun y => { y with recs := y.recs ++ [r] })).dropCmd core d

/-- The register of a returned BFQTAKE written: its result in flight arrives (R156). -/
def Group.arrive (g : Group) (n : Nat) (x : DWord) (due : Nat) : Group :=
  { g with inflight := g.inflight.map (fun r =>
      match r.sca with
      | some (m, _, p) => if r.held && m == n then { r with sca := some (m, x, p), held := false, due := due } else r
      | none => r) }

/-- BFQTAKE returns: the records are written at a + 16i and d takes their count. -/
def State.takeReturn (s : State) (core : Nat) (d : Cmd) (o : EOp) : State :=
  let t := (s.core core).team d.team
  let bs := ((List.range d.desc.length).zip d.desc).map (fun (p : Nat × Byte) => (SpadByte.here (t.res.spbase + d.a.toNat + p.1), p.2))
  let s := s.spadWrite core bs
  let s := match o.d with
    | .s n => s.onGroup d.who (fun g => g.arrive n.toNat (BitVec.ofNat 64 (d.desc.length / 16)) s.now)
    | _ => s
  s.dropCmd core d

/-- BFQTAKE at its queue. -/
def State.bfqTake (s : State) (core die q : Nat) (d : Cmd) (o : EOp) : State :=
  let x := s.bfq die q
  let r := takeRecs (takeMax d.b) d.desc x.recs
  let s := s.onBfq die q (fun y => { y with recs := r.2 })
  let e := { d with desc := r.1 }
  let s := s.onCmd core d.id (fun _ => e)
  if r.1.length == 16 * takeMax d.b then s.takeReturn core e o else s

/-- BFQDONE at its queue: the result copied where PV is set and the generation matches, PV cleared and the poster's flag
incremented; otherwise the result is dropped. A slot at or above NSLOT has no entry, so its result is dropped (R327). -/
def State.bfqDone (s : State) (core die q : Nat) (d : Cmd) : State :=
  let s := s.flushStashes
  let x := s.bfq die q
  let drop := (s.onBfq die q (fun y => { y with drops := y.drops + 1 })).dropCmd core d
  if x.nslot ≤ bfqSlot d.b then drop
  else
    let ent := x.entry (bfqSlot d.b)
    let r : Except EFail (Option (Nat × Bool × List (Nat × Byte × Bool))) := do
      let (bs, _) ← seqRead s d false ent 16
      let w := descNum bs 8 8
      if w / 2 ^ 16 % 2 == 1 && w % 2 ^ 16 == bfqGen d.b then do
        let src ← seqBytes s d false d.a x.rl
        let ws ← seqWrites s d [(BitVec.ofNat 64 (descNum bs 0 8), src, false), cleanWrite (ent + 8) (leBytes 8 (w - 2 ^ 16))]
        return some (w / 2 ^ 32, src.any Prod.snd, ws)
      else return none
    match r with
    | .error e => s.cmdFail core d e none
    | .ok none => drop
    | .ok (some (h, bad, ws)) =>
      let s := s.dieWrite ws
      (if h == 0 then s else s.signalHandle core d h bad).dropCmd core d

/-! ## Service -/

/-- The commands of a die that have reached one of its queues, oldest first. -/
def bfqCmds (s : State) (die q : Nat) : List (Nat × Cmd) :=
  let xs := (allCmds s).filter (fun p => isBfq p.2.op && p.2.phase == .started && p.2.paused.isNone && dieOfCore p.1 == die && bfqField p.2.op == q)
  let rec insert (x : Nat × Cmd) : List (Nat × Cmd) → List (Nat × Cmd)
    | [] => [x]
    | y :: ys => if x.2.order ≤ y.2.order then x :: y :: ys else y :: insert x ys
  xs.foldr insert []

/-- One command tried. -/
def State.bfqStep (s : State) (core die q : Nat) (d : Cmd) : State :=
  match d.op with
  | .bfqpost _ => s.bfqPost core die q d
  | .bfqtake o => s.bfqTake core die q d o
  | .bfqdone _ => s.bfqDone core die q d
  | _ => s

/-- Every command at a queue tried in order, `fuel` times over, since a take makes room for a post. -/
def State.bfqServe (s : State) (die q : Nat) : Nat → State
  | 0 => s
  | fuel + 1 =>
    let s := (bfqCmds s die q).foldl (fun s p => match (s.core p.1).cmd p.2.id with | some d => s.bfqStep p.1 die q d | none => s) s
    s.bfqServe die q fuel

/-- A command reaches its queue once the earlier ones of its core's path have started (R302), and the queue is served. -/
def State.bfqStart (s : State) (core : Nat) (d : Cmd) : State :=
  if d.paused.isSome || !(d.phase == .started || earlierStarted (s.core core) d) then s
  else
    let s := s.onCmd core d.id (fun y => { y with phase := .started })
    let die := dieOfCore core
    let q := bfqField d.op
    s.bfqServe die q ((bfqCmds s die q).length + 1)

/-- Is the queue configured for the issuer's context (R326)? -/
def bfqOpen (s : State) (c : Issue) (op : Instr) : Bool :=
  let x := s.bfq (dieOfCore (coreOf c.who)) (bfqField op)
  x.on && x.cid == s.cidOf c.who

/-- BFQPOST (R327). -/
def execBfqpost (o : EOp) (s : State) : Host.Outcome State Fault Refusal :=
  .next (s.laneOp o.at' [] (fun c _ _ s =>
    if !bfqOpen s c (.bfqpost o) then s.illegalOperand o.at'
    else
      s.accept c o.at' (.bfqpost o) (fun d => { d with a := c.sval o.a, b := c.sval o.b }) (fun d s => s.bfqStart (coreOf c.who) d)))

/-- BFQTAKE (R327): d is empty until it returns. -/
def execBfqtake (o : EOp) (s : State) : Host.Outcome State Fault Refusal :=
  .next (s.laneOp o.at' [] (fun c _ _ s =>
    let a := (c.sval o.a).toNat
    let b := c.sval o.b
    let t := s.teamOf c
    if !bfqOpen s c (.bfqtake o) || takeMax b == 0 || 128 < takeMax b || a % 16 != 0 || t.res.spsize < a + 16 * takeMax b then
      s.illegalOperand o.at'
    else
      s.accept c o.at' (.bfqtake o) (fun d => { d with a := c.sval o.a, b := b, due := s.now + 16 * bitsOf b 31 16 }) (fun d s =>
        let s := match o.d with
          | .s n => s.onGroup c.who (fun g => g.post { sca := some (n.toNat, 0, false), due := s.now, empties := true, held := true })
          | _ => s
        s.bfqStart (coreOf c.who) d)))

/-- BFQTAKE_TIMEOUT (R327): TMO after issue a take returns whatever it has taken. -/
def execBfqtakeTimeout (core cmd : Nat) (s : State) : Host.Outcome State Fault Refusal :=
  .next (match (s.core core).cmd cmd with
    | some d =>
      (match d.op with
       | .bfqtake o => if d.phase == .started && d.due ≤ s.now then s.takeReturn core d o else s
       | _ => s)
    | none => s)

/-- BFQDONE (R327). -/
def execBfqdone (o : ROp) (s : State) : Host.Outcome State Fault Refusal :=
  .next (s.laneOp o.at' [] (fun c _ _ s =>
    if !bfqOpen s c (.bfqdone o) then s.illegalOperand o.at'
    else
      s.accept c o.at' (.bfqdone o) (fun d => { d with a := c.sval o.a, b := c.sval o.b }) (fun d s => s.bfqStart (coreOf c.who) d)))

end Sys2Proof.Machine
end

