-- ==== Sys2Proof/Machine/Starts.lean ====
section
/-! DEFINITION. The start of an engine command (R302, R316, R318) and the registration of its destination or claim (R107,
R132). -/

namespace Sys2Proof.Machine

/-- A command started, its end due after some cycles. -/
def State.beginCmd (s : State) (core : Nat) (d : Cmd) (cycles : Nat) : State :=
  s.onCmd core d.id (fun y => { y with phase := .started, due := s.now + cycles })

/-- ENGINE_COMMAND_START (R302): a command whose unit can take it begins. -/
def execEngineCommandStart (core cmd : Nat) (s : State) : Host.Outcome State Fault Refusal :=
  .next (match (s.core core).cmd cmd with
    | none => s
    | some d =>
      match unitOf d.op with
      | 1 => if copyCanStart s core d then s.beginCmd core d (((copyDesc d.desc).total + 127) / 128) else s
      | 2 =>
        (match d.op with
         | .mma o => if matCanStart s core d then s.beginCmd core d (matCycles (matOp o false) d.amask) else s
         | .mmas o => if matCanStart s core d then s.beginCmd core d (matCycles (matOp o true) d.amask) else s
         | .attn o => if attnCanStart s core d then s.beginCmd core d (attnCycles s.flushStashes d (attnOp o)) else s
         | _ => s)
      | 3 =>
        if tileCanStart s core d then
          (match d.op with
           | .accflg o => s.readFlags core d o
           | op => s.beginCmd core d (tileLatency op))
        else s
      | _ => if isBfq d.op then s.bfqStart core d else s)

/-- OWNERSHIP_REGISTRATION (R132, R107): a copy or a collective registers its destination lines, a sequence command's
claim reaches the home of its descriptor. -/
def execOwnershipRegistration (core cmd : Nat) (s : State) : Host.Outcome State Fault Refusal :=
  .next (match (s.core core).cmd cmd with
    | none => s
    | some d =>
      if d.phase != .queued || d.paused.isSome then s
      else if unitOf d.op == 1 then s.registerCopy core d
      else if isSeqOp d.op then s.seqArrive core d
      else if isColl d.op then s.collArrive core d
      else s)

end Sys2Proof.Machine
end

