-- ==== Sys2Proof/Machine/GlenOps.lean ====
section
/-! DEFINITION. Glen commands (R79 to R84, R88, R328), segments (R89 to R91) and the end of a glen program (R77, R78).
Readings of the rules: DEDUCED, log entry 40. -/

namespace Sys2Proof.Machine

/-! ## The row buffer (R75) -/

/-- The size of the row buffer. -/
def rowSize : Nat := 65536

/-- A byte of the row buffer with its poison; past its end a free value (DESIGN CHOICE, log entry 23). -/
def Glen.rowByte (g : Glen) (free a : Nat) : Byte × Bool :=
  if a < rowSize then (g.row.byte a, Sparse.look false (a / 4) g.rowPoison) else (Config.pastRowBuffer free a, false)

/-- A little-endian number of the row buffer, with whether any of its words is poisoned. -/
def Glen.rowNum (g : Glen) (free a n : Nat) : Nat × Bool :=
  let bs := (List.range n).map (fun i => g.rowByte free (a + i))
  (leNat (bs.map Prod.fst), bs.any Prod.snd)

/-- Bytes written in the row buffer: a word that takes a poisoned byte is poisoned, one written whole and clean is clean
(R73). -/
def Glen.rowWrite (g : Glen) (a : Nat) (bs : List (Byte × Bool)) : Glen :=
  let ps := (List.range bs.length).zip bs
  let words := (List.range (bs.length / 4 + 2)).map (fun i => a / 4 + i)
  let poison := words.foldl (fun m w =>
    let mine := ps.filter (fun (p : Nat × Byte × Bool) => (a + p.1) / 4 == w)
    if mine.any (fun p => p.2.2) then Sparse.put false w true m else if mine.length == 4 then Sparse.put false w false m else m) g.rowPoison
  { g with row := g.row.write a (bs.map Prod.fst), rowPoison := if g.rowPoison.isEmpty && !bs.any Prod.snd then g.rowPoison else poison }

/-- Bytes of a number, clean or poisoned. -/
def rowBytes (n x : Nat) (bad : Bool) : List (Byte × Bool) := (leBytes n x).map (fun b => (b, bad))

/-! ## Batch areas (R80) -/

/-- The next multiple of 16. -/
def up16 (x : Nat) : Nat := (x + 15) / 16 * 16

/-- Where the parts of an area of n indices and B bags stand: M, the offsets, the weights, the end. -/
def areaParts (a n bags : Nat) (weights : Bool) : Nat × Nat × Nat × Nat :=
  let m := up16 (a + 16 + 4 * n)
  let o := up16 (m + 2 * n)
  let w := up16 (o + 4 * (bags + 1))
  (m, o, w, if weights then w + 4 * n else o + 4 * (bags + 1))

/-- The header of an area. -/
structure Area where
  n : Nat
  u : Nat
  bags : Nat
  bad : Bool
  weights : Bool
  deriving DecidableEq, Repr

/-- The header at an offset. -/
def Glen.area (g : Glen) (free a : Nat) : Area :=
  let f := (g.rowNum free (a + 12) 4).1
  { n := (g.rowNum free a 4).1, u := (g.rowNum free (a + 4) 4).1, bags := (g.rowNum free (a + 8) 4).1, bad := f % 2 == 1, weights := f / 2 % 2 == 1 }

/-! ## Operands (R328) -/

/-- The glen flag that a command names. -/
def glenFlag (i : Instr) : Nat :=
  match i with
  | .dedup o | .hand o => (o.mod.extractLsb' 0 6).toNat
  | .gth o | .pool o | .unz o => (o.ext.extractLsb' 0 6).toNat
  | _ => 0

def gthRb (o : EOp) : Nat := 4 * (o.ext.extractLsb' 10 11).toNat
def gthCap (o : EOp) : Nat := (o.ext.extractLsb' 21 12).toNat
def gthStride (o : EOp) : Nat := 4 * (o.ext.extractLsb' 33 31).toNat
def gthClass (o : EOp) : Nat := (o.ext.extractLsb' 8 2).toNat

def poolEt (o : EOp) : Nat := (o.ext.extractLsb' 8 2).toNat
def poolOp (o : EOp) : Nat := (o.ext.extractLsb' 10 2).toNat
def poolBf (o : EOp) : Bool := o.ext.getLsbD 12
def poolE (o : EOp) : Nat := (o.ext.extractLsb' 13 12).toNat
def poolCap (o : EOp) : Nat := (o.ext.extractLsb' 25 12).toNat
/-- The bytes of a row's element and of a result's. -/
def poolSize (o : EOp) : Nat := if poolEt o == 0 then 4 else 2
def poolOut (o : EOp) : Nat := if poolBf o then 2 else 4

def unzK (o : EOp) : Nat := (o.ext.extractLsb' 8 6).toNat + 1
def unzBits (o : EOp) : Nat := match (o.ext.extractLsb' 14 2).toNat with | 0 => 4 | 1 => 8 | _ => 16
/-- The bytes of a decoded block. -/
def unzBlock (o : EOp) : Nat := 64 * unzBits o

/-- Does an area offset hold a header (R80)? -/
def areaOk (a : Nat) : Bool := a % 128 == 0 && a + 16 ≤ rowSize

/-! ## Footprints (R84) -/

/-- The batch descriptor's sizes where it can be read: indices, bags, weights. -/
def batchSizes (s : State) (d : Cmd) : Option (Nat × Nat × Bool) :=
  match seqRead s d false d.a 48 with
  | .ok (bs, _) =>
    let n := descNum bs 0x18 4
    let bags := descNum bs 0x1C 4
    if n ≤ 2048 && bags ≤ 256 then some (n, bags, descNum bs 0x10 8 != 0) else none
  | .error _ => none

/-- A range of the row buffer. -/
abbrev RowRange := Nat × Nat

/-- What a command reads and writes of the row buffer, as its header now stands. -/
def glenUses (s : State) (g : Glen) (d : Cmd) : List RowRange × List RowRange :=
  let a := d.a.toNat
  let areaEnd (x : Nat) : RowRange :=
    let h := g.area 0 x
    (x, Nat.min rowSize (areaParts x (Nat.min h.n 2048) (Nat.min h.bags 256) h.weights).2.2.2)
  match d.op with
  | .dedup _ =>
    let b := d.b.toNat
    ([], [(b, match batchSizes s d with
              | some (n, bags, w) => Nat.min rowSize (areaParts b n bags w).2.2.2
              | none => rowSize)])
  | .gth o => ([areaEnd a], [(d.c.toNat, d.c.toNat + Nat.min (g.area 0 a).u (gthCap o) * gthRb o)])
  | .pool o =>
    let rows := Nat.min (g.area 0 a).u (poolCap o) * poolE o * poolSize o
    ([areaEnd a, (d.b.toNat, d.b.toNat + rows)], [(d.c.toNat, d.c.toNat + (g.area 0 a).bags * poolE o * poolOut o)])
  | .unz o => ([], [(d.c.toNat, d.c.toNat + unzK o * unzBlock o)])
  | .hand _ => ([(a, a + d.b.toNat)], [])
  | _ => ([], [])

/-- Do two ranges meet? -/
def rangesMeet (xs ys : List RowRange) : Bool := xs.any (fun x => ys.any (fun y => x.1 < y.2 && y.1 < x.2))

/-- Must the later command wait for the earlier one (R84)? -/
def glenConflict (s : State) (g : Glen) (early late : Cmd) : Bool :=
  let e := glenUses s g early
  let l := glenUses s g late
  rangesMeet (l.1 ++ l.2) e.2 || rangesMeet l.2 e.1

/-- May a command run: no two commands up to it conflict (R84)? -/
def glenReady (s : State) (g : Glen) (d : Cmd) : Bool :=
  let upto := g.cmds.filter (fun x => x.id ≤ d.id)
  upto.all (fun y => upto.all (fun x => !(x.id < y.id && glenConflict s g x y)))

/-! ## Issue -/

/-- A command of a glen core. -/
def Glen.cmd (g : Glen) (id : Nat) : Option Cmd := g.cmds.find? (fun d => d.id == id)
/-- A command changed. -/
def State.onGlenCmd (s : State) (n id : Nat) (f : Cmd → Cmd) : State :=
  s.onGlen n (fun g => { g with cmds := g.cmds.map (fun d => if d.id == id then f d else d) })

/-- The number of a glen core among the units that hold rings and lines. -/
def glenUnit (n : Nat) : Nat := 640 + n

/-- The ring that a HAND delivers to, or the GSTAT bit of its failure (R83). -/
def handTarget (s : State) (d : Cmd) : Except Nat (Nat × Nat × Nat) :=
  match ringPlace s (d.c.toNat % 2 ^ 32) d.cid with
  | none => .error 4
  | some (core, r) =>
    let x := s.ring core r
    let l := d.b.toNat
    if l % x.slotBytes != 0 || x.count < l / x.slotBytes then .error 5 else .ok (core, r, l / x.slotBytes)

/-- Every HAND that may start reserves its slots, or is found to fail (R83, R84). -/
def State.glenAdvance (s : State) (n : Nat) : State :=
  (s.glen n).cmds.foldl (fun s d =>
    match d.op with
    | .hand _ =>
      if d.phase != .queued || !glenReady s (s.glen n) d then s
      else
        match handTarget s d with
        | .error bit => s.onGlenCmd n d.id (fun y => { y with phase := .finished, aux := [bit] })
        | .ok (core, r, k) =>
          (s.reserveFor core r (holdKey (glenUnit n) d.id) 0 k).onGlenCmd n d.id (fun y => { y with phase := .registered, aux := [core, r] })
    | _ => s) s

/-- A glen command at issue (R75, R84, R328): `bad` its limits, `fill` its operands. -/
def State.glenIssue (s : State) (site : Site) (op : Instr) (bad : Issue → Glen → Bool) (fill : Issue → Cmd → Cmd) : State :=
  s.laneOp site [] (fun c _ _ s =>
    match c.who with
    | .gang _ => s
    | .glen n =>
      let g := s.glen n
      if 16 ≤ glenFlag op || bad c g then s.illegalOperand site
      else if 16 ≤ g.cmds.length then s.waitFor .poll
      else
        let d := fill c { id := g.nextCmd, op := op, who := c.who, cid := g.cid, order := s.store.nextOwner, pc := c.pc, slot := slotNumber site.slot }
        let s := s.onStore (fun m => { m with nextOwner := m.nextOwner + 1 })
        (s.onGlen n (fun g => { g with cmds := g.cmds ++ [d], nextCmd := g.nextCmd + 1 })).glenAdvance n)

/-- The operands of a command, sampled at issue. -/
def sampled (a b c : Spec) (i : Issue) (d : Cmd) : Cmd := { d with a := i.sval a, b := i.sval b, c := i.sval c }

/-- DEDUP (R80). -/
def execDedup (o : ROp) (s : State) : Host.Outcome State Fault Refusal :=
  .next (s.glenIssue o.at' (.dedup o) (fun c _ => !areaOk (c.sval o.b).toNat) (sampled o.a o.b .zero))

/-- GTH (R81). -/
def execGth (o : EOp) (s : State) : Host.Outcome State Fault Refusal :=
  .next (s.glenIssue o.at' (.gth o)
    (fun c _ => gthRb o == 0 || 4096 < gthRb o || gthCap o == 0 || gthStride o < gthRb o || !areaOk (c.sval o.a).toNat ||
      rowSize < (c.sval o.c).toNat + gthCap o * gthRb o)
    (sampled o.a o.b o.c))

/-- POOL (R82): its output is sized by the area's header, so it waits while an earlier command may still write that. -/
def execPool (o : EOp) (s : State) : Host.Outcome State Fault Refusal :=
  .next (s.during (fun c =>
    let a := (c.sval o.a).toNat
    let pending := match c.who with
      | .glen n => (s.glen n).cmds.any (fun d => rangesMeet [(a, a + 16)] (glenUses s (s.glen n) d).2)
      | .gang _ => false
    if pending && areaOk a then s.waitFor .poll
    else
      s.glenIssue o.at' (.pool o)
        (fun c g => poolEt o == 3 || poolOp o == 3 || poolE o == 0 || poolCap o == 0 || !areaOk a ||
          rowSize < (c.sval o.c).toNat + (g.area 0 a).bags * poolE o * poolOut o)
        (sampled o.a o.b o.c)))

/-- UNZ (R88). -/
def execUnz (o : EOp) (s : State) : Host.Outcome State Fault Refusal :=
  .next (s.glenIssue o.at' (.unz o)
    (fun c _ => (o.ext.extractLsb' 14 2).toNat == 3 || (c.sval o.a).toNat % 16 != 0 || rowSize < (c.sval o.c).toNat + unzK o * unzBlock o)
    (sampled o.a o.b o.c))

/-- HAND (R83). -/
def execHand (o : ROp) (s : State) : Host.Outcome State Fault Refusal :=
  .next (s.glenIssue o.at' (.hand o) (fun c _ => rowSize < (c.sval o.a).toNat + (c.sval o.b).toNat) (sampled o.a o.b o.c))

/-- SEGWAIT (R90): control reaches the segment; it waits until it is resident. -/
def execSegwait (o : IOp) (s : State) : Host.Outcome State Fault Refusal :=
  .next (s.laneOp o.at' [] (fun c _ _ s =>
    match c.who with
    | .gang _ => s
    | .glen n =>
      let g := s.glen n
      let seg := (o.imm.extractLsb' 0 12).toNat
      let f := Sparse.look {} (seg % 4) g.frames
      if g.segs.length ≤ seg then s.illegalOperand o.at'
      else if f.valid && f.seg == seg && !f.filling then s
      else s.waitFor (.segment seg)))

/-! ## Completion (R84) -/

/-- What a command leaves: the bytes it writes, the GSTAT bits it sets, and whether it met an error or a malformed
tensor. -/
structure GlenOut where
  writes : List (Nat × List (Byte × Bool)) := []
  bits : List Nat := []
  err : Bool := false
  mal : Bool := false
  rows : Option (Nat × Nat) := none
  lines : List Nat := []
  deriving DecidableEq, Repr

/-- Bytes read coherently, each with its poison. -/
def glenRead (s : State) (d : Cmd) (va : DWord) (n : Nat) : Except EFail (List (Byte × Bool)) := seqBytes s d false va n

/-- A number of a byte list with its poison. -/
def numAt (bs : List (Byte × Bool)) (off n : Nat) : Nat × Bool :=
  let x := (bs.drop off).take n
  (leNat (x.map Prod.fst), x.any Prod.snd)

/-- U and M of R80, by first occurrence: the list of unique indices with their poison, and the map. -/
def dedupe : List (Nat × Bool) → List (Nat × Bool) × List (Nat × Bool) → List (Nat × Bool) × List (Nat × Bool)
  | [], r => r
  | (x, p) :: xs, (u, m) =>
    match u.findIdx? (fun y => y.1 == x) with
    | some k => dedupe xs (u, m ++ [(k, p)])
    | none => dedupe xs (u ++ [(x, p)], m ++ [(u.length, p)])

/-- Does a list of offsets start at 0, end at n and never fall (R80)? -/
def offsetsOk (n : Nat) (os : List Nat) : Bool :=
  os.headD 1 == 0 && os.getLastD (n + 1) == n && (os.zip (os.drop 1)).all (fun p => p.1 ≤ p.2)

/-- The header of an area as bytes. -/
def headerBytes (n u bags : Nat) (flags : Nat) : List (Byte × Bool) := (leBytes 4 n ++ leBytes 4 u ++ leBytes 4 bags ++ leBytes 4 flags).map (fun b => (b, false))

/-- What DEDUP does (R80). -/
def dedupOut (s : State) (d : Cmd) : Except EFail GlenOut := do
  let b := d.b.toNat
  let bs ← glenRead s d d.a 48
  let num (off n : Nat) : Nat := (numAt bs off n).1
  let n := num 0x18 4
  let bags := num 0x1C 4
  let idx := num 0 8
  let off := num 8 8
  let wts := num 0x10 8
  let bad : GlenOut := { writes := [(b, headerBytes n 0 bags 1)], bits := [2] }
  if d.a.toNat % 16 != 0 || idx % 4 != 0 || off % 4 != 0 || wts % 4 != 0 || n == 0 || 2048 < n || bags == 0 || 256 < bags || num 0x24 12 != 0 then
    return bad
  let parts := areaParts b n bags (wts != 0)
  if rowSize < parts.2.2.2 then return bad
  let os ← glenRead s d (BitVec.ofNat 64 off) (4 * (bags + 1))
  if !offsetsOk n ((List.range (bags + 1)).map (fun k => (numAt os (4 * k) 4).1)) then return bad
  let is ← glenRead s d (BitVec.ofNat 64 idx) (4 * n)
  let ws ← (if wts == 0 then pure [] else glenRead s d (BitVec.ofNat 64 wts) (4 * n))
  let r := dedupe ((List.range n).map (fun k => numAt is (4 * k) 4)) ([], [])
  let poison := (bs ++ os ++ is ++ ws).any Prod.snd
  return { writes := [(b, headerBytes n r.1.length bags (if wts == 0 then 0 else 2)),
                      (b + 16, r.1.flatMap (fun x => rowBytes 4 x.1 x.2)), (parts.1, r.2.flatMap (fun x => rowBytes 2 x.1 x.2)),
                      (parts.2.1, os), (parts.2.2.1, ws)],
           bits := if poison then [6] else [], err := poison, rows := some (b, num 0x20 4) }

/-- The rows of a GTH from row `k` on (R81). -/
def gthRows (s : State) (g : Glen) (d : Cmd) (o : EOp) (limit : Nat) : List Nat → Except EFail (List (Nat × List (Byte × Bool)) × Bool × List Nat)
  | [] => return ([], false, [])
  | k :: ks => do
    let u := g.rowNum s.free (d.a.toNat + 16 + 4 * k) 4
    let at' := d.c.toNat + k * gthRb o
    let (rest, oor, ls) ← gthRows s g d o limit ks
    if limit ≤ u.1 then return ((at', List.replicate (gthRb o) (0, u.2)) :: rest, true, ls)
    else do
      let va := d.b + BitVec.ofNat 64 (u.1 * gthStride o)
      let ps ← seqReach s d .engineRead false va (gthRb o)
      let places := placesOf ps
      return ((at', places.map (fun p => (s.store.mem.byte p, s.isPoisoned p || u.2))) :: rest, oor, (places.map lineOf).dedup ++ ls)

/-- What GTH does. -/
def gthOut (s : State) (g : Glen) (d : Cmd) (o : EOp) : Except EFail GlenOut := do
  let h := g.area s.free d.a.toNat
  if h.bad then return {}
  let limit := ((g.areas.find? (fun p => p.1 == d.a.toNat)).map Prod.snd).getD (Config.areaRows s.free)
  let (ws, oor, ls) ← gthRows s g d o limit (List.range (Nat.min h.u (gthCap o)))
  let poison := ws.any (fun w => w.2.any Prod.snd)
  return { writes := ws, lines := ls, err := poison,
           bits := (if oor then [0] else []) ++ (if gthCap o < h.u then [1] else []) ++ (if poison then [6] else []) }

/-- One element of a pooled row (R82), with the poison it carries. -/
def poolElem (g : Glen) (free : Nat) (d : Cmd) (o : EOp) (h : Area) (b e : Nat) : Nat × Bool :=
  let parts := areaParts d.a.toNat h.n h.bags h.weights
  let lo := g.rowNum free (parts.2.1 + 4 * b) 4
  let hi := g.rowNum free (parts.2.1 + 4 * (b + 1)) 4
  let k := hi.1 - lo.1
  let value (i : Nat) : Nat × Nat × Bool :=
    let m := g.rowNum free (parts.1 + 2 * i) 2
    let x := if m.1 < Nat.min h.u (poolCap o) then
        (let r := g.rowNum free (d.b.toNat + (m.1 * poolE o + e) * poolSize o) (poolSize o)
         (match poolEt o with | 0 => r.1 | 1 => (floatToFloat bf16 f32 0 false r.1).1 | _ => (floatToFloat h16 f32 0 false r.1).1, r.2))
      else (0, false)
    let w := if h.weights then g.rowNum free (parts.2.2.1 + 4 * i) 4 else (0x3F800000, false)
    (x.1, w.1, m.2 || x.2 || w.2)
  let step (r : Nat × Bool) (j : Nat) : Nat × Bool :=
    let v := value (lo.1 + j)
    let t := (mulElem f32 0 false v.2.1 v.1).1
    let acc := if j == 0 then t
      else if poolOp o == 2 then (minMaxElem f32 true r.1 t).1
      else (fmaElem f32 0 false v.2.1 v.1 r.1).1
    (acc, r.2 || v.2.2)
  let acc := (List.range k).foldl step (0, lo.2 || hi.2)
  let out := if k == 0 then 0 else if poolOp o == 1 then (divElem f32 0 false acc.1 (intToFloat f32 0 false (k : Int)).1).1 else acc.1
  (if poolBf o then (floatToFloat f32 bf16 0 false out).1 else out, acc.2)

/-- What POOL does. -/
def poolResult (g : Glen) (free : Nat) (d : Cmd) (o : EOp) : GlenOut :=
  let h := g.area free d.a.toNat
  let es := (List.range h.bags).flatMap (fun b => (List.range (poolE o)).map (fun e => if h.bad then (0, false) else poolElem g free d o h b e))
  let poison := es.any Prod.snd
  { writes := [(d.c.toNat, es.flatMap (fun x => rowBytes (poolOut o) x.1 x.2))], bits := if poison then [6] else [], err := poison }

/-- The elements of a compressed block from its bitmap and values: `n` of `bits` bits, each with its poison. -/
def unzElems (bits : Nat) (bitmap vals : List (Byte × Bool)) : Nat → List (Nat × Bool)
  | 0 => []
  | n + 1 =>
    let before := (List.range n).foldl (fun c e => if (bitmap.getD (e / 8) (0, false)).1.getLsbD (e % 8) then c + 1 else c) 0
    let m := bitmap.getD (n / 8) (0, false)
    let x := if m.1.getLsbD (n % 8) then
        (if bits == 4 then
           (let v := vals.getD (before / 2) (0, false)
            (if before % 2 == 0 then v.1.toNat % 16 else v.1.toNat / 16, v.2))
         else numAt vals (before * bits / 8) (bits / 8))
      else (0, false)
    unzElems bits bitmap vals n ++ [(x.1, x.2 || m.2)]

/-- Elements packed into bytes. -/
def packElems (bits : Nat) (es : List (Nat × Bool)) : List (Byte × Bool) :=
  if bits == 4 then
    (List.range (es.length / 2)).map (fun i =>
      let a := es.getD (2 * i) (0, false)
      let b := es.getD (2 * i + 1) (0, false)
      (BitVec.ofNat 8 (a.1 + 16 * b.1), a.2 || b.2))
  else es.flatMap (fun x => rowBytes (bits / 8) x.1 x.2)

/-- The blocks of an UNZ from block `j` at address `va` on: those decoded before the first malformed one, and whether there
is one (R88). -/
def unzBlocks (s : State) (d : Cmd) (o : EOp) : Nat → Nat → DWord → Except EFail (List (List (Byte × Bool)) × Bool)
  | 0, _, _ => return ([], false)
  | n + 1, j, va => do
    let h ← glenRead s d va 80
    let bits := unzBits o
    let plen := (numAt h 0 8).1 % 2 ^ 11
    let pop := (List.range 512).foldl (fun c e => if (h.getD (16 + e / 8) (0, false)).1.getLsbD (e % 8) then c + 1 else c) 0
    let w0 := (numAt h 0 8).1
    let w1 := (numAt h 8 8).1
    let et := w0 / 2 ^ 32 % 4
    if w0 / 2 ^ 34 != 0 || w0 / 2 ^ 11 % 2 ^ 21 != 0 || w1 / 2 ^ 32 != 0 || et != (o.ext.extractLsb' 14 2).toNat ||
        w1 != (d.b.toNat + j) % 2 ^ 32 || plen != (pop * bits + 7) / 8 then
      return ([], true)
    else do
      let vals ← glenRead s d (va + 80) plen
      let es := unzElems bits (h.drop 16) vals 512
      let es := if (h.take 16).any Prod.snd then es.map (fun x => (x.1, true)) else es
      let (rest, bad) ← unzBlocks s d o n (j + 1) (va + BitVec.ofNat 64 (80 + up16 plen))
      return (packElems bits es :: rest, bad)

/-- What UNZ does. -/
def unzOut (s : State) (d : Cmd) (o : EOp) : Except EFail GlenOut := do
  let (bs, bad) ← unzBlocks s d o (unzK o) 0 d.a
  let good : List (Byte × Bool) := bs.flatMap (fun b => b)
  let poison := good.any Prod.snd
  let zeros : List (Byte × Bool) := List.replicate (unzK o * unzBlock o - good.length) (0, false)
  return { writes := [(d.c.toNat, good ++ zeros)], bits := (if bad then [3] else []) ++ (if poison then [6] else []),
           err := bad || poison, mal := bad }

/-- A record about a glen command (R386), for the agent that started the program. -/
def State.glenRecord (s : State) (n : Nat) (d : Cmd) (x : Stop) (about : Option RecordOf) : State :=
  let g := s.glen n
  let r : Rec := { stop := { x with slot := d.slot }, aid := aidOfWho (.glen n), cid := g.cid, asy := true, seq := 0, pc := d.pc }
  s.coreRecord g.prog.agent g.prog.queue r about

/-- A glen command leaves: GSTAT bits set, its flag incremented, and the commands behind it may start. -/
def State.glenFinish (s : State) (n : Nat) (d : Cmd) (bits : List Nat) (err : Bool) : State :=
  let s := s.onGlen n (fun g => { g with
    cmds := g.cmds.filter (fun x => x.id != d.id)
    gstat := bits.foldl (fun x b => x ||| (1#64 <<< b)) g.gstat })
  let s := s.dropHolds [holdKey (glenUnit n) d.id]
  let s := s.onGlenFlag n (glenFlag d.op) (Flag.change (fun v => v + 1) (err || d.err) (aidOfWho (.glen n)))
  s.glenAdvance n

/-- A glen command that cannot go on (R78): a replayable fault pauses it, any other ends it and the program. -/
def State.glenFail (s : State) (n : Nat) (d : Cmd) (e : EFail) : State :=
  match e with
  | .page .. | .held | .bad => s.askFor (n / 16) e
  | .fault va f k =>
    let x : Stop := { code := causeTranslation, rpl := true, xlat := xlatDetail s d.cid f k va }
    if f.rpl then
      (s.onGlenCmd n d.id (fun y => { y with paused := some x })).glenRecord n d x (some (.glenCmd n d.id))
    else
      let s := s.forgetRefused d.cid x.xlat
      let y : Stop := { code := causeEngine, xlat := x.xlat, aux := 5 }
      ((s.glenRecord n d y none).endGlen n true).glenFinish n d [] true

/-- A command's effect, then its end. -/
def State.glenDo (s : State) (n : Nat) (d : Cmd) (r : Except EFail GlenOut) (cls : Nat) : State :=
  match r with
  | .error e => s.glenFail n d e
  | .ok x =>
    let s := s.onGlen n (fun g => x.writes.foldl (fun g w => g.rowWrite w.1 w.2) g)
    let s := match x.rows with
      | some (a, k) => s.onGlen n (fun g => { g with areas := (g.areas.filter (fun (p : Nat × Nat) => p.1 != a)) ++ [(a, k)] })
      | none => s
    let s := x.lines.foldl (fun s l => s.gather l cls) s
    let s := if x.mal then (s.glenRecord n d { code := causeTensor } none).endGlen n true else s
    { s with free := s.free + 1 }.glenFinish n d x.bits x.err

/-- A HAND whose reservation has been granted delivers its bytes and commits; one whose reservation is gone has found its
ring stale (R83, R351). -/
def State.glenDeliver (s : State) (n : Nat) (d : Cmd) : State :=
  let core := d.aux.headD 0
  let r := d.aux.getD 1 0
  let key := holdKey (glenUnit n) d.id
  let x := s.ring core r
  match x.producers.find? (fun h => !h.thread && h.cmd == key) with
  | none => s.glenFinish n d [4] false
  | some h =>
    if !h.granted || h.first != x.commitAll.tail then s
    else
      let g := s.glen n
      let base := match ringTeam (s.core core) r with | some (_, t) => t.res.spbase | none => 0
      let bs := (List.range d.b.toNat).map (fun i =>
        let y := g.rowByte s.free (d.a.toNat + i)
        (SpadByte.here (base + x.byteAt h.first i), y.1, y.2))
      let poison := bs.any (fun b => b.2.2)
      let s := s.engineWrite core bs
      let s := s.onRing core r (fun x => ({ x with producers := markHold key x.producers } : Ring).commitAll)
      s.glenFinish n d (if poison then [6] else []) poison

/-- GLEN_COMMAND_COMPLETE (R84). -/
def execGlenCommandComplete (n cmd : Nat) (s : State) : Host.Outcome State Fault Refusal :=
  .next (match (s.glen n).cmd cmd with
    | none => s
    | some d =>
      if d.paused.isSome || !glenReady s (s.glen n) d then s
      else
        match d.op with
        | .dedup _ => s.flushStashes.glenDo n d (dedupOut s.flushStashes d) 1
        | .gth o => s.flushStashes.glenDo n d (gthOut s.flushStashes (s.glen n) d o) (gthClass o)
        | .pool o => s.glenDo n d (.ok (poolResult (s.glen n) s.free d o)) 1
        | .unz o => s.flushStashes.glenDo n d (unzOut s.flushStashes d o) 1
        | .hand _ => if d.phase == .finished then s.glenFinish n d d.aux false else s.glenDeliver n d
        | _ => s)

/-! ## Segments and the end of a program -/

/-- The bytes of a segment, reached with KIND demand fetch (R89, R91): those that stood there at the start; a segment that could not be
reached then is read now (DEDUCED, log entry 40). -/
def segmentBytes (s : State) (n seg : Nat) : Except EFail (List Byte) :=
  let g := s.glen n
  let x := (g.segs[seg]?).getD {}
  match engineReachTlb s (g.tlb ++ s.dieGrants (n / 16)) g.cid .fetch (runPieces x.addr x.len) with
  | .error e => .error e
  | .ok ps =>
    match g.code.find? (fun p => p.1 == seg) with
    | some p => .ok p.2
    | none => if (ownedLines ps).any s.isOwned then .error .held else .ok ((placesOf ps).map s.store.mem.byte)

/-- The frame that is filling. -/
def Glen.fillingFrame (g : Glen) : Option (Nat × Frame) := g.frames.find? (fun p => p.2.filling)

/-- A segment-stall record (R90, R366). -/
def State.stallRecord (s : State) (n seg since : Nat) : State :=
  let g := s.glen n
  let a := (s.core g.prog.agent).agent
  if a.trctl.getLsbD 0 && a.trctl.getLsbD 5 && a.tsize != 0 then
    s.trace g.prog.agent { type := 6, aid := aidOfWho (.glen n), pc := (g.ctx.slice 0).pc, p0 := BitVec.ofNat 32 seg,
                           p1 := BitVec.ofNat 64 (s.now - since) }
  else s

/-- SEGMENT_COPY_COMPLETE (R90, R91): the frame becomes resident; a fault on a background copy empties it, and one on a
demand copy is a demand-fetch fault of the program. -/
def execSegmentCopyComplete (n : Nat) (s : State) : Host.Outcome State Fault Refusal :=
  let g := s.glen n
  .next (match g.fillingFrame with
    | none => s
    | some (k, f) =>
      if s.now < f.due then s
      else
        let s := s.flushStashes
        match segmentBytes s n f.seg with
        | .ok bs =>
          let s := s.onGlen n (fun g => { g with frames := Sparse.put {} k { valid := true, seg := f.seg, bytes := bs } g.frames })
          (match g.demand with
           | some (seg, since) => if seg == f.seg then (s.stallRecord n f.seg since).onGlen n (fun g => { g with demand := none }) else s
           | none => s)
        | .error (.fault va x _) =>
          let s := s.onGlen n (fun g => { g with frames := Sparse.put {} k {} g.frames, demand := if f.demand then none else g.demand })
          if f.demand then
            s.fetchStop (.glen n) (.stop { code := causeTranslation, slot := 255, rpl := x.rpl, xlat := xlatDetail s g.cid x .fetch va })
          else s
        | .error e => s.askFor (n / 16) e)

/-- GLEN_PROGRAM_END (R77, R78): every accepted command has completed; the OVERLAY packet has done its work (R333). -/
def execGlenProgramEnd (n : Nat) (s : State) : Host.Outcome State Fault Refusal :=
  let g := s.glen n
  .next (if g.prog.running && g.prog.ended && g.cmds.isEmpty then
      let s := s.onGlen n (fun g => { g with prog := { g.prog with running := false } })
      s.onQueue g.prog.queue (fun q => { q with packets := q.packets.map (fun p =>
        if p.index == g.prog.packet then { p with finished := true } else p) })
    else s)

end Sys2Proof.Machine
end

