-- ==== Sys2Proof/Machine/IntegerOps.lean ====
section
/-! DEFINITION. The meanings of the integer operations (R240 to R248), on the lane and the scalar path. -/

namespace Sys2Proof.Machine

/-- The latency of the integer operations other than DIV and REM (R228). -/
def intLatency : Nat := 2

/-- The latency of DIV and REM: 20 cycles for 32-bit types, 36 for 64-bit types (R228). -/
def divLatency (t : Ty) : Nat := if wholeWidth t == 64 then 36 else 20

/-- MOD[2] of format I, .sat of the immediate forms (R248). -/
def immSat (o : IOp) : Bool := o.mod.getLsbD 2

/-- ADD (R241). -/
def execAdd (o : ROp) (s : State) : Host.Outcome State Fault Refusal :=
  .next (s.intOp o intLatency false (srcs2 o) (fun a b _ => arith .add o.ty (o.mod.getLsbD 2) a b 0))

/-- SUB (R241). -/
def execSub (o : ROp) (s : State) : Host.Outcome State Fault Refusal :=
  .next (s.intOp o intLatency false (srcs2 o) (fun a b _ => arith .sub o.ty (o.mod.getLsbD 2) a b 0))

/-- ADDC (R242). -/
def execAddc (o : ROp) (s : State) : Host.Outcome State Fault Refusal :=
  .next (s.intOp o intLatency false (srcs3 o) (fun a b c => addCarry o.ty (o.mod.getLsbD 8) a b c))

/-- SUBC (R242). -/
def execSubc (o : ROp) (s : State) : Host.Outcome State Fault Refusal :=
  .next (s.intOp o intLatency false (srcs3 o) (fun a b c => subBorrow o.ty (o.mod.getLsbD 8) a b c))

/-- MUL (R241). -/
def execMul (o : ROp) (s : State) : Host.Outcome State Fault Refusal :=
  .next (s.intOp o intLatency false (srcs2 o) (fun a b _ => arith .mul o.ty (o.mod.getLsbD 2) a b 0))

/-- MULH (R241). -/
def execMulh (o : ROp) (s : State) : Host.Outcome State Fault Refusal :=
  .next (s.intOp o intLatency false (srcs2 o) (fun a b _ => arith .mulh o.ty false a b 0))

/-- MAD (R241). -/
def execMad (o : ROp) (s : State) : Host.Outcome State Fault Refusal :=
  .next (s.intOp o intLatency false (srcs3 o) (fun a b c => arith .mad o.ty (o.mod.getLsbD 2) a b c))

/-- DIV (R243). -/
def execDiv (o : ROp) (s : State) : Host.Outcome State Fault Refusal :=
  .next (s.intOp o (divLatency o.ty) true (srcs2 o) (fun a b _ => divide o.ty (o.mod.getLsbD 2) a b))

/-- REM (R243). -/
def execRem (o : ROp) (s : State) : Host.Outcome State Fault Refusal :=
  .next (s.intOp o (divLatency o.ty) true (srcs2 o) (fun a b _ => remainder o.ty a b))

/-- MIN (R241). -/
def execMin (o : ROp) (s : State) : Host.Outcome State Fault Refusal :=
  .next (s.intOp o intLatency false (srcs2 o) (fun a b _ => arith .min o.ty false a b 0))

/-- MAX (R241). -/
def execMax (o : ROp) (s : State) : Host.Outcome State Fault Refusal :=
  .next (s.intOp o intLatency false (srcs2 o) (fun a b _ => arith .max o.ty false a b 0))

/-- ABS (R241). -/
def execAbs (o : ROp) (s : State) : Host.Outcome State Fault Refusal :=
  .next (s.intOp o intLatency false (srcs1 o) (fun a _ _ => arith .abs o.ty (o.mod.getLsbD 2) a 0 0))

/-- NEG (R241). -/
def execNeg (o : ROp) (s : State) : Host.Outcome State Fault Refusal :=
  .next (s.intOp o intLatency false (srcs1 o) (fun a _ _ => arith .neg o.ty (o.mod.getLsbD 2) a 0 0))

/-- AND (R244). -/
def execAnd (o : ROp) (s : State) : Host.Outcome State Fault Refusal :=
  .next (s.intOp o intLatency false (srcs2 o) (fun a b _ => logic .and (wholeWidth o.ty) a b))

/-- OR (R244). -/
def execOr (o : ROp) (s : State) : Host.Outcome State Fault Refusal :=
  .next (s.intOp o intLatency false (srcs2 o) (fun a b _ => logic .or (wholeWidth o.ty) a b))

/-- XOR (R244). -/
def execXor (o : ROp) (s : State) : Host.Outcome State Fault Refusal :=
  .next (s.intOp o intLatency false (srcs2 o) (fun a b _ => logic .xor (wholeWidth o.ty) a b))

/-- ANDN (R244). -/
def execAndn (o : ROp) (s : State) : Host.Outcome State Fault Refusal :=
  .next (s.intOp o intLatency false (srcs2 o) (fun a b _ => logic .andn (wholeWidth o.ty) a b))

/-- NOT (R244). -/
def execNot (o : ROp) (s : State) : Host.Outcome State Fault Refusal :=
  .next (s.intOp o intLatency false (srcs1 o) (fun a _ _ => logic .not (wholeWidth o.ty) a 0))

/-- SHL (R244). -/
def execShl (o : ROp) (s : State) : Host.Outcome State Fault Refusal :=
  .next (s.intOp o intLatency false (srcs2 o) (fun a b _ => shift .shl o.ty a b))

/-- SHR (R244). -/
def execShr (o : ROp) (s : State) : Host.Outcome State Fault Refusal :=
  .next (s.intOp o intLatency false (srcs2 o) (fun a b _ => shift .shr o.ty a b))

/-- SAR (R244). -/
def execSar (o : ROp) (s : State) : Host.Outcome State Fault Refusal :=
  .next (s.intOp o intLatency false (srcs2 o) (fun a b _ => shift .sar o.ty a b))

/-- ROT (R244). -/
def execRot (o : ROp) (s : State) : Host.Outcome State Fault Refusal :=
  .next (s.intOp o intLatency false (srcs2 o) (fun a b _ => shift .rot o.ty a b))

/-- BFX (R245). -/
def execBfx (o : ROp) (s : State) : Host.Outcome State Fault Refusal :=
  .next (s.intOp o intLatency false (srcs2 o) (fun a b _ => bitExtract o.ty a b))

/-- BFI (R245). -/
def execBfi (o : ROp) (s : State) : Host.Outcome State Fault Refusal :=
  .next (s.intOp o intLatency false (srcs3 o) (fun a b c => bitInsert o.ty a b c))

/-- POPC (R245). -/
def execPopc (o : ROp) (s : State) : Host.Outcome State Fault Refusal :=
  .next (s.intOp o intLatency false (srcs1 o) (fun a _ _ => popcount (wholeWidth o.ty) a))

/-- CLZ (R245). -/
def execClz (o : ROp) (s : State) : Host.Outcome State Fault Refusal :=
  .next (s.intOp o intLatency false (srcs1 o) (fun a _ _ => leadingZeros (wholeWidth o.ty) a))

/-- BREV (R245). -/
def execBrev (o : ROp) (s : State) : Host.Outcome State Fault Refusal :=
  .next (s.intOp o intLatency false (srcs1 o) (fun a _ _ => bitReverse (wholeWidth o.ty) a))

/-- SEL (R246). -/
def execSel (o : ROp) (s : State) : Host.Outcome State Fault Refusal :=
  .next (s.intOp o intLatency false (srcs3 o) (fun a b c => if c % 2 ^ wholeWidth o.ty = 0 then b else a))

/-- CMP (R246). -/
def execCmp (o : ROp) (s : State) : Host.Outcome State Fault Refusal :=
  .next (s.intOp o intLatency false (srcs2 o) (fun a b _ => compareElems o.ty (o.mod.extractLsb' 8 3).toNat (o.mod.getLsbD 11) a b))

/-- MOV (R247): 32 bits, or on the scalar path 64 bits, whatever the type. -/
def execMov (o : ROp) (s : State) : Host.Outcome State Fault Refusal :=
  .next (if o.at'.slot.isScalar then s.scalarOp o.at' (fun c => s.postScalar c o.d (movedOf o.ty o.a (scalarVal c o.ty o.a)) intLatency)
    else s.intOp o intLatency false (srcs1 o) (fun a _ _ => a))

/-- MOVI (R247): IMM sign-extended to the type's width. -/
def execMovi (o : IOp) (s : State) : Host.Outcome State Fault Refusal :=
  .next (s.immOp { o with a := .zero } (fun _ imm => imm))

/-- MOVW (R247): one half-word of d replaced by IMM[15:0], every other bit kept; h is MOD[1:0]. -/
def execMovw (o : IOp) (s : State) : Host.Outcome State Fault Refusal :=
  let h := (o.mod.extractLsb' 0 2).toNat
  .next (if o.at'.slot.isScalar then
      s.scalarOp o.at' (fun c => s.postScalar c o.d (BitVec.ofNat 64 (insertHalf (scalarVal c o.ty o.a) h o.imm.toNat)) 2)
    else s.immOp o (fun a _ => insertHalf a h o.imm.toNat))

/-- ADD with an immediate (R248). -/
def execAddImm (o : IOp) (s : State) : Host.Outcome State Fault Refusal :=
  .next (s.immOp o (fun a imm => arith .add o.ty (immSat o) a imm 0))

/-- MUL with an immediate (R248). -/
def execMulImm (o : IOp) (s : State) : Host.Outcome State Fault Refusal :=
  .next (s.immOp o (fun a imm => arith .mul o.ty (immSat o) a imm 0))

/-- AND with an immediate (R248). -/
def execAndImm (o : IOp) (s : State) : Host.Outcome State Fault Refusal :=
  .next (s.immOp o (fun a imm => logic .and (wholeWidth o.ty) a imm))

/-- OR with an immediate (R248). -/
def execOrImm (o : IOp) (s : State) : Host.Outcome State Fault Refusal :=
  .next (s.immOp o (fun a imm => logic .or (wholeWidth o.ty) a imm))

/-- XOR with an immediate (R248). -/
def execXorImm (o : IOp) (s : State) : Host.Outcome State Fault Refusal :=
  .next (s.immOp o (fun a imm => logic .xor (wholeWidth o.ty) a imm))

/-- SHL with an immediate (R248). -/
def execShlImm (o : IOp) (s : State) : Host.Outcome State Fault Refusal :=
  .next (s.immOp o (fun a imm => shift .shl o.ty a imm))

/-- SHR with an immediate (R248). -/
def execShrImm (o : IOp) (s : State) : Host.Outcome State Fault Refusal :=
  .next (s.immOp o (fun a imm => shift .shr o.ty a imm))

/-- SAR with an immediate (R248). -/
def execSarImm (o : IOp) (s : State) : Host.Outcome State Fault Refusal :=
  .next (s.immOp o (fun a imm => shift .sar o.ty a imm))

/-- CMP with an immediate (R248). -/
def execCmpImm (o : IOp) (s : State) : Host.Outcome State Fault Refusal :=
  .next (s.immOp o (fun a imm => compareElems o.ty (o.mod.extractLsb' 8 3).toNat (o.mod.getLsbD 11) a imm))

/-- MIN with an immediate (R248). -/
def execMinImm (o : IOp) (s : State) : Host.Outcome State Fault Refusal :=
  .next (s.immOp o (fun a imm => arith .min o.ty false a imm 0))

/-- MAX with an immediate (R248). -/
def execMaxImm (o : IOp) (s : State) : Host.Outcome State Fault Refusal :=
  .next (s.immOp o (fun a imm => arith .max o.ty false a imm 0))

end Sys2Proof.Machine
end

