-- ==== Sys2Proof/Machine/Translation.lean ====
section
/-! DEFINITION. The translation and coherence events that no bundle issues: page walks (R24, R25), ATS and page requests (R22,
R23), stash fills and recalls (R56, R58), host snoops (R64, R129), and the memory-side cache's counters (R85, R86). -/

namespace Sys2Proof.Machine

/-! ## Page walks and ATS -/

/-- The die of a core, or of a glen core numbered from 640 (R250, R307). -/
def dieOfUnit (u : Nat) : Nat := if u < 640 then dieOfCore u else (u - 640) / 16

/-- An entry put into the TLBs on the way of a core, or of a glen core numbered from 640, whose own TLB holds 32 (R24, R75). -/
def State.fillUnit (s : State) (u : Nat) (e : TlbEntry) : State :=
  if u < 640 then s.fillTlb u [e]
  else (s.onGlen (u - 640) (fun g => { g with tlb := tlbAdd 32 g.tlb e })).keepTlbEntry (bankOf ((u - 640) / 16) e) e

/-- A prefetch that awaited its page is served, or dropped where it would fault (R35, R237). -/
def State.servePrefetch (s : State) (core cid : Nat) (va : DWord) (e : Option TlbEntry) : State :=
  if !((s.core core).caches.prefetch.contains (cid, va)) then s
  else
    let s := s.onCore core (fun c => { c with caches := { c.caches with prefetch := c.caches.prefetch.erase (cid, va) } })
    match e with
    | some e => if (permit e .fetch false).isNone then s.prefetchLine core e va else s
    | none => s

/-- The host's side of translation changed. -/
def State.onAts (s : State) (f : Ats → Ats) : State := { s with ats := f s.ats }

/-- PAGE_WALK (R25): a miss walks the context's tables from the root; a leaf is inserted, a host page of a bound context asks
the host (R22), a fault inserts nothing. A prefetch of the unit for the page goes on with what was found (R237). -/
def execPageWalk (unit cid : Nat) (va : DWord) (_kind : AccessKind) (s : State) : Host.Outcome State Fault Refusal :=
  .next (match findEntry s (s.dieGrants (dieOfUnit unit)) cid false (BitVec.ofNat 64 (va60 va)) with
    | .ok e => (s.fillUnit unit e).servePrefetch unit cid va (some e)
    | .ats c p => s.askHost (dieOfUnit unit) c p
    | .fault _ => s.servePrefetch unit cid va none)

/-- Does the request concern a page of a context? -/
def asksFor (cid page : Nat) (r : Nat × Nat × Nat) : Bool := r.2.1 == cid && r.2.2 == page

/-- Every slice of a group that waits for a page of the host tries again. -/
def Group.wakePage (g : Group) (cid page now : Nat) : Group :=
  { g with slices := g.slices.map (fun y =>
      match y.run with
      | .waiting (.page c p) _ => if c == cid && p.toNat == page then y.wakeUp now 0 else y
      | _ => y) }

/-- Every gang and glen program that waits for the page tries again. -/
def State.wakePage (s : State) (cid page : Nat) : State :=
  { s with
    cores := s.cores.map (fun p => (p.1, { p.2 with groups := p.2.groups.map (fun g => (g.1, g.2.wakePage cid page s.now)) }))
    glens := s.glens.map (fun p => (p.1, { p.2 with ctx := p.2.ctx.wakePage cid page s.now })) }

/-- The size in bytes of the range that a completion grants: a power of two from 4 KiB, limited to the 64 KiB leaf (R22). -/
def grantSize (n : Nat) : Nat := ([65536, 32768, 16384, 8192].find? (fun k => k ≤ n)).getD 4096

/-- The entry of a completion under the leaf that it belongs to: the host's address and what leaf and grant both allow; a range
marked for untranslated access carries no limit of its own (R22). -/
def grantEntry (leaf : TlbEntry) (page : Nat) (g : AtsGrant) : TlbEntry :=
  let n := grantSize g.size
  { leaf with vbase := page / n * n, size := n, pbase := g.addr / n * n, rd := leaf.rd && (g.rd || g.untranslated),
              wr := leaf.wr && (g.wr || g.untranslated), ats := true, untranslated := g.untranslated }

/-- A completion's entry put into the L3 banks of the dies that asked, where the page is still the host's (R22, R32). -/
def State.insertGrant (s : State) (dies : List Nat) (cid page : Nat) (g : AtsGrant) : State :=
  match walk s cid page with
  | .ok leaf =>
    if leaf.home == 1#2 then
      let e := grantEntry leaf page g
      dies.foldl (fun s d => s.keepTlbEntry (bankOf d e) e) s
    else s
  | _ => s

/-- Page requests that wait for room are sent while a die's allocation has some (R23). -/
def Ats.promote (a : Ats) : Ats :=
  a.queued.foldl (fun a r =>
    if (a.pages.filter (fun q => q.1 == r.1)).length < a.limit then { a with pages := a.pages ++ [r], queued := a.queued.erase r } else a) a

/-- ATS_COMPLETION (R22): the answer to a translation request. A completion that grants neither access leads to a page
request, of which a die has at most so many outstanding as the host allots, 256 at most (R23); one beyond that waits for room. -/
def execAtsCompletion (cid : Nat) (va : DWord) (grant : AtsGrant) (s : State) : Host.Outcome State Fault Refusal :=
  let page := va60 va / 4096 * 4096
  .next (if !s.ats.requests.any (asksFor cid page) then s
    else if grant.rd || grant.wr || grant.untranslated then
      let dies := (s.ats.requests.filter (asksFor cid page)).map Prod.fst
      let s := s.onAts (fun a => { a with requests := a.requests.filter (fun r => !asksFor cid page r) })
      (s.insertGrant dies cid page grant).wakePage cid page
    else
      s.onAts (fun a => ({ a with
        requests := a.requests.filter (fun r => !asksFor cid page r), queued := a.queued ++ a.requests.filter (asksFor cid page) } : Ats).promote))

/-- PAGE_REQUEST_RESPONSE (R22): Success replays the access; any other code makes it a fault with status ATS. -/
def execPageRequestResponse (cid : Nat) (va : DWord) (code : PageResponse) (s : State) : Host.Outcome State Fault Refusal :=
  let page := va60 va / 4096 * 4096
  .next (if !s.ats.pages.any (asksFor cid page) then s
    else
      let s := s.onAts (fun a => Ats.promote { a with
        pages := a.pages.filter (fun r => !asksFor cid page r)
        refused := if code == .success || a.refused.contains (cid, page) then a.refused else a.refused ++ [(cid, page)] })
      s.wakePage cid page)

/-- The contexts bound to a PASID. -/
def boundTo (s : State) (pasid : Nat) : List Nat :=
  (s.contexts.filter (fun p => p.2.ok && p.2.bound && p.2.pasid == pasid)).map Prod.fst

/-- ATS_INVALIDATION (R23): a range of 4 KiB pages becomes a shootdown in every context bound to the PASID; for none it
completes at once. -/
def execAtsInvalidation (pasid : Nat) (va : DWord) (pages : Nat) (s : State) : Host.Outcome State Fault Refusal :=
  let lo := va60 va / 4096 * 4096
  let hi := lo + 4096 * pages
  .next (if pages == 0 then s
    else
      let cids := boundTo s pasid
      let s := s.onAts (fun a => { a with
        refused := a.refused.filter (fun r => !(cids.contains r.1 && lo ≤ r.2 && r.2 < hi)) })
      let first := lo / 65536
      cids.foldl (fun s c => s.startShoot (.range c (BitVec.ofNat 64 (first * 65536)) ((hi - 1) / 65536 + 1 - first)) .host) s)

/-! ## Stash windows and snoops -/

/-- STASH_FILL (R56): a line of a mapped window is filled, or taken for writing, from its global line. -/
def execStashFill (core team win line : Nat) (own : Bool) (s : State) : Host.Outcome State Fault Refusal :=
  .next (
    let t := (s.core core).team team
    let w := Sparse.look {} win t.stash
    if !(t.live && w.valid && line < w.n) then s
    else
      let va := w.g + BitVec.ofNat 64 (128 * line)
      let r := findEntry s ((s.core core).caches.tlb ++ s.engineTlb core) t.cid false va
      match stashPermit r (stashLine t win line).isNone (if own then .write else .read) false with
      | .ok (.ok e) =>
        let place := lineOf (e.place va)
        let q := s.settleLines core [place]
        if !e.fills || s.isOwned place || !q.2 then s else q.1.stashFill core team win line place own
      | _ => s)

/-- STASH_RECALL (R58): another agent's read leaves a clean copy, another agent's write none. -/
def execStashRecall (core team win line : Nat) (write : Bool) (s : State) : Host.Outcome State Fault Refusal :=
  .next (s.recallLine core team win line write)

/-- HOST_SNOOP (R64, R129): stores of the core to the line perform, its ownership goes, and on an invalidation its copy. -/
def execHostSnoop (core line : Nat) (invalidate : Bool) (s : State) : Host.Outcome State Fault Refusal :=
  .next (
    let l := lineOf line
    let s := s.drainStores core (fun t => t.bytes.any (fun b => lineOf b.1 == l))
    s.onCore core (fun c =>
      let own := Sparse.put false l false c.caches.l1own
      let kept := if invalidate then Sparse.put false l false c.caches.l1 else c.caches.l1
      { c with caches := { c.caches with l1 := kept, l1own := own } }))

/-! ## The memory-side cache (R85, R86) -/

/-- A slice of the memory-side cache. -/
def State.slice (s : State) (k : Nat) : MemSlice := Sparse.look {} k s.slices

/-- GATHER_COUNTER_HALVING (R85): after 2^20 requests every counter is halved, rounding down. -/
def execGatherCounterHalving (slice : Nat) (s : State) : Host.Outcome State Fault Refusal :=
  .next (if (s.slice slice).requests < 2 ^ 20 then s
    else { s with slices := Sparse.upd {} slice MemSlice.halve s.slices })

/-- The control register written (R86): lines beyond the partition's new size, or all of them with EN clear, are no longer
pinned; those pinned first stay (DESIGN CHOICE, log entry 25). -/
def MemSlice.writeControl (m : MemSlice) (x : DWord) : MemSlice :=
  let size := if 13 ≤ bitsOf x 7 4 then m.size else bitsOf x 7 4
  let en := x.getLsbD 0
  { m with thresh := Nat.max 1 (bitsOf x 47 32), size := size, en := en, pinned := if en then m.pinned.take (512 * size) else [] }

/-- MEADOW_CONTROL_WRITE (R86): lines no longer pinned stay as ordinary ones. -/
def execMeadowControlWrite (slice : Nat) (value : DWord) (s : State) : Host.Outcome State Fault Refusal :=
  .next (if slice < 128 then
      let before := (s.slice slice).pinned
      let s := { s with slices := Sparse.upd {} slice (fun m => m.writeControl value) s.slices }
      (before.filter (fun l => !(s.slice slice).pinned.contains l)).foldl (fun s l => s.keepL2 l false) s
    else s)

end Sys2Proof.Machine
end

