-- ==== Sys2Proof/Machine/Teams.lean ====
section
/-! DEFINITION. Placement (R41, R167), the states of a team (R168), group start (R169), tasks (R170, R171), retirement and the
completion of a grid (R39, R40, R344 to R346). -/

namespace Sys2Proof.Machine

/-! ## What is in use (R167) -/

/-- Is a group slot taken? The slot of a task group that has exited is free, once no command of it remains. -/
def slotTaken (c : Core) (key : Nat) : Bool :=
  let g := c.groupK key
  key == 15 || (g.gid.live && !(g.gid.task && g.live.isEmpty && !c.cmds.any (fun d => d.groupKey == key)))

/-- The register blocks of a group or reserve: `m` blocks from block `b`, in one half or in both. -/
def regBlocks (bank : Nat) (half : Bool) (hnum m b : Nat) : List Nat :=
  (if half then [hnum] else [0, 1]).flatMap (fun h => (List.range m).map (fun i => 16 * bank + 8 * h + b + i))

/-- The task reserve's register budget in blocks, of a team's kernel. -/
def State.taskBlocks (s : State) (t : Team) : Nat := (Sparse.look {} t.grid (s.die t.die).grids).launch.kernel.trsb

/-- What a core's teams hold. -/
def occOf (s : State) (core : Nat) : Occ :=
  let c := s.core core
  let teams := c.crew.teams.filter (fun p => p.2.live)
  let own := c.groups.filter (fun p => p.2.gid.live && !p.2.gid.task && p.1 != 15)
  { regs := own.flatMap (fun p => regBlocks (p.1 / 16) p.2.gid.half p.2.gid.hnum (p.2.gid.rsb / 64) (p.2.gid.rbase % 512 / 64)) ++
      teams.flatMap (fun p => match p.2.res.taskBase with
        | some b => regBlocks (p.1 / 8) false 0 (s.taskBlocks p.2) (b % 512 / 64)
        | none => [])
    slots := (List.range 32).filter (slotTaken c)
    teams := teams.map Prod.fst
    pages := teams.flatMap (fun p => (List.range (p.2.res.spsize / 4096)).map (fun i => p.2.res.spbase / 4096 + i))
    tiles := teams.flatMap (fun p => (List.range (p.2.res.nacc / 2)).map (fun i => p.2.res.abase / 2 + i))
    flags := teams.flatMap (fun p => (List.range (p.2.res.nflags / 4)).map (fun i => p.2.res.fbase / 4 + i))
    rings := teams.flatMap (fun p => p.2.res.rings) }

/-- Two occupancies together. -/
def Occ.and (a b : Occ) : Occ :=
  { regs := a.regs ++ b.regs, slots := a.slots ++ b.slots, teams := a.teams ++ b.teams, pages := a.pages ++ b.pages,
    tiles := a.tiles ++ b.tiles, flags := a.flags ++ b.flags, rings := a.rings ++ b.rings }

/-- What a restore or a task may not take: what is in use, and what has been freed for a team that reserves (R168). -/
def busyFor (s : State) (core : Nat) : Occ :=
  match (s.core core).crew.claim with
  | some q => (match q.before with | some o => (occOf s core).and o | none => occOf s core)
  | none => occOf s core

/-! ## Finding room -/

/-- What a team needs: width and blocks of each group, scratchpad, tiles, flags, rings, blocks of the task reserve. -/
structure Need where
  groups : List (Bool × Nat)
  spsize : Nat
  nacc : Nat
  nflags : Nat
  nrings : Nat
  trsb : Nat
  deriving DecidableEq, Repr

/-- The needs of a kernel (R167, R219). -/
def Kernel.need (k : Kernel) : Need :=
  { groups := k.roles.flatMap (fun r => List.replicate r.groups (r.half, r.rsb / 64)), spsize := k.spsize, nacc := k.nacc,
    nflags := k.nflags, nrings := k.nrings, trsb := k.trsb }

/-- Where a team goes. -/
structure Spot where
  bank : Nat
  team : Nat
  slots : List Nat
  regs : List (Nat × Nat)
  taskBase : Option Nat
  spbase : Nat
  abase : Nat
  fbase : Nat
  rings : List Nat
  deriving DecidableEq, Repr

/-- The lowest run of `n` free numbers below `total`. -/
def firstRun (n total : Nat) (used : List Nat) : Option Nat :=
  if n == 0 then some 0
  else (List.range (total + 1 - n)).find? (fun k => n ≤ total && (List.range n).all (fun i => !used.contains (k + i)))

/-- The lowest `n` free numbers among candidates. -/
def lowestFree (n : Nat) (all used : List Nat) : Option (List Nat) :=
  let l := (all.filter (fun k => !used.contains k)).take n
  if l.length == n then some l else none

/-- Register ranges for the groups from number `g` on, as half and block; each takes the lowest that leaves room for the
rest. Half-width group g goes to half g mod 2 (R370). -/
def placeRegs (bank : Nat) : Nat → List (Bool × Nat) → List Nat → Option (List (Nat × Nat))
  | _, [], _ => some []
  | g, (half, m) :: rest, used =>
    let h := if half then g % 2 else 0
    (List.range (9 - m)).findSome? (fun b =>
      let mine := regBlocks bank half h m b
      if mine.any used.contains then none
      else
        match placeRegs bank (g + 1) rest (mine ++ used) with
        | some l => some ((h, b) :: l)
        | none => none)

/-- A place in a bank, whose context must match. -/
def findSpot (c : Core) (busy : Occ) (cid : Nat) (n : Need) (bank : Nat) : Option Spot := do
  let held := Sparse.look 0 bank c.crew.bankCid
  let total := (n.groups.map (fun g => if g.1 then g.2 else 2 * g.2)).foldl (fun a b => a + b) (2 * n.trsb)
  if !(held == 0 || held == cid) || 16 < total + (busy.regs.filter (fun k => k / 16 == bank)).dedup.length then none
  let team ← (List.range 8).find? (fun k => !busy.teams.contains (8 * bank + k))
  let slots ← lowestFree n.groups.length ((List.range 16).map (fun k => 16 * bank + k)) (15 :: busy.slots)
  let regs ← placeRegs bank 0 (n.groups ++ (if n.trsb == 0 then [] else [(false, n.trsb)])) busy.regs
  let page ← firstRun (n.spsize / 4096) 128 busy.pages
  let tile ← firstRun (n.nacc / 2) 32 busy.tiles
  let flag ← firstRun (n.nflags / 4) 16 busy.flags
  let rings ← lowestFree n.nrings (List.range 128) busy.rings
  some { bank := bank, team := team, slots := slots.map (fun k => k % 16), regs := regs,
         taskBase := if n.trsb == 0 then none else (regs.getLast?).map (fun p => 512 * bank + 64 * p.2),
         spbase := 4096 * page, abase := 2 * tile, fbase := 4 * flag, rings := rings }

/-- A place in bank A, else in bank B. -/
def findPlace (c : Core) (busy : Occ) (cid : Nat) (n : Need) : Option Spot :=
  match findSpot c busy cid n 0 with
  | some p => some p
  | none => findSpot c busy cid n 1

/-- The lowest free local slots of a grid (R345). -/
def localSlots (g : Grid) (n : Nat) : Option (List Nat) :=
  let used := g.slots.map Prod.fst
  lowestFree n (List.range (Nat.min g.launch.nloc (used.length + n))) used

/-! ## Allocation (R41, R169) -/

/-- A grid record. -/
def State.grid (s : State) (die k : Nat) : Grid := Sparse.look {} k (s.die die).grids
/-- A grid record changed. -/
def State.onGrid (s : State) (die k : Nat) (f : Grid → Grid) : State :=
  s.onDie die (fun d => { d with grids := Sparse.upd {} k f d.grids })

/-- The resources of a spot allocated and cleared (R41): scratchpad, tiles, flags whose generation advances, rings whose
generation advances (R48, R307). -/
def Core.clearFor (c : Core) (n : Need) (p : Spot) : Core :=
  let lo := 1024 * p.abase
  let hi := 1024 * (p.abase + n.nacc)
  let store : CoreStore :=
    { spad := Sparse.clear p.spbase (p.spbase + n.spsize) c.store.spad
      spadPoison := Sparse.clear (p.spbase / 4) ((p.spbase + n.spsize) / 4) c.store.spadPoison
      tiles := Sparse.clear lo hi c.store.tiles, lost := Sparse.clear lo hi c.store.lost
      tilePoison := Sparse.clear lo hi c.store.tilePoison }
  let flags := (List.range n.nflags).foldl (fun m i =>
    Sparse.upd {} (p.fbase + i) (fun (x : Flag) => { gen := x.gen + 1, last := x.last }) m) c.flags
  let rings := p.rings.foldl (fun m r => Sparse.upd {} r (fun (x : Ring) => { gen := x.gen + 1 }) m) c.rings
  { c with store := store, flags := flags, rings := rings }

/-- The team of a spot made resident. -/
def Core.seat (c : Core) (key : Nat) (bank : Nat) (t : Team) : Core :=
  let teams := Sparse.put {} key t c.crew.teams
  let banks := Sparse.put 0 bank t.cid c.crew.bankCid
  { c with crew := { c.crew with teams := teams, bankCid := banks } }

/-- A group put into its slot. -/
def Core.setGroup (c : Core) (key : Nat) (g : Group) : Core := { c with groups := Sparse.put (groupZero key) key g c.groups }

/-- A group at its start (R169); its wait to issue begins now (R172). -/
def startGroup (now : Nat) (l : GridLaunch) (gid : GroupId) (entry lbase : DWord) (ws : Nat) (ss : List DWord) : Group :=
  let lsize := 32 * l.lsz
  let regs := ((List.range ss.length).zip ss).foldl (fun m (p : Nat × DWord) => Sparse.put 0 p.1 p.2 m) []
  { gid := gid
    sca := { s := regs }
    win := { ws := ws, sp := BitVec.ofNat 32 lsize, lim := BitVec.ofNat 32 (lsize - 32 * l.lstk), lsize := BitVec.ofNat 32 lsize, lbase := lbase }
    slices := List.replicate (if gid.half then 4 else 8) { pc := entry, fmt := l.kernel.fmt, ready := now, since := now }
    exposed := l.exposed }

/-- The roles of the groups of a kernel in team order, each with its number within the role. -/
def rolesOf (k : Kernel) : List (Nat × Role × Nat) :=
  ((List.range k.roles.length).zip k.roles).flatMap (fun p => (List.range p.2.groups).map (fun i => (p.1, p.2, i)))

/-- The base of a local slot (R335). -/
def slotBase (l : GridLaunch) (k : Nat) : DWord := l.local' + BitVec.ofNat 64 (32 * 32 * l.lsz * k)

/-- The team's groups, each with its slot, from the roles of its kernel. -/
def startGroups (now : Nat) (l : GridLaunch) (t : Team) (p : Spot) (slots : List Nat) : List (Nat × Group) :=
  ((List.range p.slots.length).zip (rolesOf l.kernel)).map (fun q =>
    let i := q.1
    let role := q.2.1
    let r := q.2.2.1
    let at' := p.regs.getD i (0, 0)
    let gid : GroupId := { live := true, team := p.team, role := role, prio := r.prio, num := i, half := r.half, hnum := at'.1,
                           rsb := r.rsb, rbase := 512 * p.bank + 64 * at'.2 }
    let ss : List DWord := [l.args, t.x.setWidth 64, t.y.setWidth 64, t.z.setWidth 64, BitVec.ofNat 64 q.2.2.2, BitVec.ofNat 64 role]
    (slotKey p.bank (p.slots.getD i 0),
     startGroup now l gid (l.code + BitVec.ofNat 64 (l.entry + r.entry)) (slotBase l (slots.getD i 0)) r.win ss))

/-- The team with linear index `t` of a grid (R141). -/
def newTeam (die grid t : Nat) (g : Grid) (res : TeamRes) : Team :=
  let l := g.launch
  { live := true, die := die, grid := grid, tidx := t, x := BitVec.ofNat 32 (t % l.gx), y := BitVec.ofNat 32 (t / l.gx % l.gy),
    z := BitVec.ofNat 32 (t / (l.gx * l.gy)), kidx := l.kidx, code := l.code, args := l.args, cid := l.cid, queue := l.queue, barriers := l.kernel.barriers, res := res }

/-- The instruction cache of a core invalidated before it runs the first team of a grid (R69, R346). -/
def State.firstVisit (s : State) (core die grid : Nat) : State :=
  if (s.grid die grid).visited.contains core then s
  else
    let s := s.onCore core (fun c => { c with caches := { c.caches with icache := [] } })
    s.onGrid die grid (fun g => { g with visited := g.visited ++ [core] })

/-- A fresh team placed at a spot with its local slots. -/
def State.seatTeam (s : State) (core die grid t : Nat) (p : Spot) (slots : List Nat) : State :=
  let s := s.firstVisit core die grid
  let g := s.grid die grid
  let k := g.launch.kernel
  let res : TeamRes := { spbase := p.spbase, spsize := k.spsize, abase := p.abase, nacc := k.nacc, fbase := p.fbase, nflags := k.nflags,
                         rings := p.rings, slots := slots, taskBase := p.taskBase, localSlot := slots.getLastD 0 }
  let tm := newTeam die grid t g res
  let s := s.onGrid die grid (fun g => { g with slots := slots.foldl (fun m k => Sparse.put false k true m) g.slots })
  let now := s.now
  s.onCore core (fun c =>
    let c := (c.clearFor k.need p).seat (8 * p.bank + p.team) p.bank tm
    (startGroups now g.launch tm p slots).foldl (fun c q => c.setGroup q.1 q.2) c)

/-! ## Claiming and placing (R168, R344) -/

/-- The cluster of a core among the package's 80 (R378). -/
def clusterOf (core : Nat) : Nat := 20 * (core / 160) + core % 160 / 8

/-- The partition of a context. -/
def State.partOf (s : State) (cid : Nat) : Partition := Sparse.look {} (s.context cid).part s.partitions

/-- May a core run teams of a context: its die has booted, it is of the context's partition, its island is not withdrawn, and the
context's descriptor is not being cleared (R11, R378, R379, R384)? -/
def coreServes (s : State) (core cid : Nat) : Bool :=
  core < 640 && (s.die (core / 160)).boot == .running && (s.partOf cid).clusters.getLsbD (clusterOf core) &&
    !(Sparse.look {} (128 * (core / 160) + core % 160 / 2) s.plat.islands).withdrawn && !closing s cid

/-- Is a bank free for a context (R168)? -/
def bankFree (c : Core) (cid bank : Nat) : Bool :=
  let held := Sparse.look 0 bank c.crew.bankCid
  held == 0 || (held == cid && (c.crew.teams.filter (fun p => p.2.live && p.1 / 8 == bank)).length < 8)

/-- A saved team on a grid's list is not a fresh one. -/
def isImage : SavedTeam → Bool
  | .image _ => true
  | .unstarted _ => false

/-- The grids from which a core's agent may claim: open, of its partition, with an unstarted or unclaimed team and no image
to restore first. -/
def claimable (s : State) (core : Nat) : List (Nat × Nat × Grid) :=
  (List.range 4).flatMap (fun d => ((s.die d).grids.filter (fun p =>
    let g := p.2
    g.live && g.phase == .open' && coreServes s core g.launch.cid && !g.saves.any isImage && (g.ticket < g.teams || !g.saves.isEmpty) &&
      (bankFree (s.core core) g.launch.cid 0 || bankFree (s.core core) g.launch.cid 1))).map (fun p => (d, p.1, p.2)))

/-- The first of the records by PRIO, then start sequence, then die (R344). -/
def firstGrid : List (Nat × Nat × Grid) → Option (Nat × Nat × Grid)
  | [] => none
  | x :: xs =>
    match firstGrid xs with
    | none => some x
    | some y =>
      if y.2.2.prio < x.2.2.prio || (y.2.2.prio == x.2.2.prio && (x.2.2.seq < y.2.2.seq || (x.2.2.seq == y.2.2.seq && x.1 ≤ y.1))) then some x
      else some y

/-- TEAM_CLAIM (R168, R344): an agent without an unplaced team takes the next index of the first grid. -/
def execTeamClaim (core : Nat) (s : State) : Host.Outcome State Fault Refusal :=
  .next (if (s.core core).crew.claim.isSome then s
    else
      match firstGrid (claimable s core) with
      | none => s
      | some (d, k, g) =>
        let t := match g.saves with | .unstarted t :: _ => t | _ => g.ticket
        let s := s.onGrid d k (fun g => match g.saves with
          | _ :: rest => { g with saves := rest }
          | [] => { g with ticket := g.ticket + 1 })
        let q : Claim := { die := d, grid := k, t := t, since := s.now }
        s.onCore core (fun c => { c with crew := { c.crew with claim := some q } }))

/-- A core's claim replaced. -/
def State.setClaim (s : State) (core : Nat) (q : Option Claim) : State :=
  s.onCore core (fun c => { c with crew := { c.crew with claim := q } })

/-- A core's claimed team placed where every resource fits (R168). -/
def State.placeClaim (s : State) (core : Nat) : Option State :=
  match (s.core core).crew.claim with
  | none => none
  | some q =>
    let g := s.grid q.die q.grid
    let n := g.launch.kernel.need
    match findPlace (s.core core) (occOf s core) g.launch.cid n, localSlots g (n.groups.length + (if n.trsb == 0 then 0 else 1)) with
    | some p, some slots => some ((s.seatTeam core q.die q.grid q.t p slots).setClaim core none)
    | _, _ => none

/-- TEAM_PLACE (R168): a claimed team becomes resident where it fits; one that does not fit waits. -/
def execTeamPlace (core : Nat) (s : State) : Host.Outcome State Fault Refusal :=
  .next (match s.placeClaim core with
    | some s' => s'
    | none =>
      match (s.core core).crew.claim with
      | some q => if q.phase == .claimed then s.setClaim core (some { q with phase := .waiting, since := s.now }) else s
      | none => s)

/-- TEAM_HANDOFF (R168): a waiting team goes to another agent of the die that has none. -/
def execTeamHandoff (core target : Nat) (s : State) : Host.Outcome State Fault Refusal :=
  .next (match (s.core core).crew.claim with
    | some q =>
      if q.phase == .waiting && core != target && dieOfCore core == dieOfCore target && (s.core target).crew.claim.isNone &&
          coreServes s target (s.grid q.die q.grid).launch.cid then
        (s.setClaim core none).setClaim target (some { q with phase := .claimed, since := s.now })
      else s
    | none => s)

/-- PLACEMENT_RESERVE_TIMEOUT (R168): after 4,096 cycles of waiting, what is freed from now on is held. -/
def execPlacementReserveTimeout (core : Nat) (s : State) : Host.Outcome State Fault Refusal :=
  .next (match (s.core core).crew.claim with
    | some q =>
      if q.phase == .waiting && q.since + 4096 ≤ s.now then s.setClaim core (some { q with phase := .reserving, before := some (occOf s core) })
      else s
    | none => s)

/-! ## Tasks (R171) -/

/-- The live groups of a team. -/
def liveGroups (c : Core) (team : Nat) : List Nat := (teamGroups c team).filter (fun k => !(c.groupK k).live.isEmpty)

/-- The group slot in which a queued task may start. -/
def taskSlot (s : State) (core : Nat) (q : Task) : Option Nat :=
  let c := s.core core
  let t := c.team q.team
  let bank := q.team / 8
  let busy := (liveGroups c q.team).any (fun k => (c.groupK k).gid.task)
  if !t.live || t.parked || t.ending.isSome || t.res.taskBase.isNone || busy || 16 ≤ (liveGroups c q.team).length then none
  else ((List.range 16).map (fun k => slotKey bank k)).find? (fun k => !(busyFor s core).slots.contains k)

/-- The number of a team's task group: the first past its role groups (DEDUCED, log entry 26). -/
def taskNumber (c : Core) (team : Nat) : Nat := ((teamGroups c team).filter (fun k => !(c.groupK k).gid.task)).length

/-- A core's task queue changed. -/
def Core.onTasks (c : Core) (f : List Task → List Task) : Core := { c with crew := { c.crew with tasks := f c.crew.tasks } }

/-- TASK_START (R171): the oldest queued task that can start becomes a full-width group of its team. -/
def execTaskStart (core : Nat) (s : State) : Host.Outcome State Fault Refusal :=
  .next (
    let c := s.core core
    match c.crew.tasks.find? (fun q => (taskSlot s core q).isSome) with
    | none => s
    | some q =>
      match taskSlot s core q with
      | none => s
      | some key =>
        let t := c.team q.team
        let l := (s.grid t.die t.grid).launch
        let prio := ((l.kernel.roles[q.role]?).map Role.prio).getD 0
        let gid : GroupId := { live := true, team := q.team % 8, role := q.role, prio := prio, num := taskNumber c q.team,
                               rsb := 64 * l.kernel.trsb, rbase := t.res.taskBase.getD 0, task := true }
        let g := startGroup s.now l gid q.entry (slotBase l t.res.localSlot) l.kernel.twin (q.args ++ [BitVec.ofNat 64 (16 + key % 16), BitVec.ofNat 64 q.role])
        s.onCore core (fun c => (c.setGroup key g).onTasks (fun ts => ts.erase q)))

/-! ## Retirement (R168, R358) -/

/-- A team's counters added into its grid's sums and cleared (R39). -/
def State.addCounters (s : State) (core team : Nat) : State :=
  let t := (s.core core).team team
  let s := s.onGrid t.die t.grid (fun g =>
    let sums := t.counters.foldl (fun m p => Sparse.upd 0 p.1 (fun x => (x + p.2) % 2 ^ 64) m) g.sums
    { g with sums := sums, saturated := g.saturated || t.saturated })
  s.onCore core (fun c => c.onTeam team (fun t => { t with counters := [], saturated := false }))

/-- The stash windows of a team unmapped. -/
def State.unmapAll (s : State) (core team : Nat) : State :=
  ((s.core core).team team).stash.foldl (fun s w => s.unmapWindow core team w.1) s

/-- A team's resources freed: its groups, its place in the bank, and the bank with its last team; images that failed to fit
are tried again (R144, R352). -/
def State.freeTeam (s : State) (core team : Nat) : State :=
  s.onCore core (fun c =>
    let groups := (teamGroups c team).foldl (fun m k => Sparse.put (groupZero k) k {} m) c.groups
    let rings := (c.team team).res.rings.foldl (fun m r => Sparse.upd {} r (fun (x : Ring) => { gen := x.gen }) m) c.rings
    let teams := Sparse.put {} team {} c.crew.teams
    let banks := if teams.any (fun p => p.2.live && p.1 / 8 == team / 8) then c.crew.bankCid else Sparse.put 0 (team / 8) 0 c.crew.bankCid
    { c with groups := groups, rings := rings, crew := { c.crew with teams := teams, bankCid := banks, tried := [] } })

/-- Have all groups, tasks and commands of a team ended (R168)? -/
def teamEnded (c : Core) (team : Nat) : Bool :=
  let t := c.team team
  t.live && (liveGroups c team).isEmpty && !c.crew.tasks.any (fun q => q.team == team) && !c.cmds.any (fun d => d.team == team)

/-- Is a store of some groups on its way: their own, or one written out of an entry that several may share (R66)? -/
def storesOut (c : Core) (gs : List Nat) : Bool :=
  c.caches.stores.any (fun t => t.wc || gs.contains t.group) || c.caches.wc.any (fun e => e.threads.any (fun t => gs.contains t.1))

/-- The stores of some groups performed as far as the order allows, the write-combining entries among them. -/
def State.finishStores (s : State) (core : Nat) (gs : List Nat) : State :=
  (s.writeOutWhere core (fun e => e.threads.any (fun t => gs.contains t.1))).drainStores core (fun t => t.wc || gs.contains t.group)

/-- May a team retire: it has ended, and its issued stores have completed (R168, R235)? -/
def canRetire (c : Core) (team : Nat) : Bool := teamEnded c team && !storesOut c (teamGroups c team)

/-- The unclaimed tickets of a grid whose team was ended count as retired (R358). -/
def State.dropTickets (s : State) (t : Team) : State :=
  s.onGrid t.die t.grid (fun g => { g with ticket := g.teams, done := g.done + (g.teams - g.ticket), failed := true })

/-- TEAM_RETIRE (R168, R235, R358): a team that has ended has its stores performed, and retires once they are. -/
def execTeamRetire (core team : Nat) (s : State) : Host.Outcome State Fault Refusal :=
  .next (if !teamEnded (s.core core) team then s
    else if !canRetire ((s.finishStores core (teamGroups (s.core core) team)).core core) team then
      s.finishStores core (teamGroups (s.core core) team)
    else
      let s := s.finishStores core (teamGroups (s.core core) team)
      let t := (s.core core).team team
      let s := ((s.unmapAll core team).addCounters core team).freeTeam core team
      let s := s.onGrid t.die t.grid (fun g => { g with
        done := g.done + 1, summed := g.summed + 1, agent := core, slots := t.res.slots.foldl (fun m k => Sparse.put false k false m) g.slots })
      if t.ending.isSome then s.dropTickets t else s)

/-! ## Grids (R39, R40, R346) -/

/-- The report of a grid (R40). -/
def reportBytes (g : Grid) : List Byte :=
  leBytes 4 1 ++ leBytes 4 (if g.saturated then 1 else 0) ++ leBytes 8 g.summed ++ leBytes 48 0 ++
    (List.range 1024).flatMap (fun k => leBytes 8 (Sparse.look 0 k g.sums))

/-- The pieces of a run of bytes that a core's agent reads or writes through a context. -/
def agentReach (s : State) (core cid : Nat) (k : AccessKind) : List (DWord × Nat) → Except EFail (List EPiece)
  | [] => .ok []
  | (va, n) :: rest =>
    match translate s (s.dieGrants (dieOfCore core)) cid true va k with
    | .fault f => .error (.fault va f k)
    | .ats c p => .error (.page c p)
    | .ok e =>
      match agentReach s core cid k rest with
      | .error x => .error x
      | .ok l => .ok ({ place := e.place va, bytes := n, entry := e } :: l)

/-- Bytes stored through a context by a core's agent, at stage 3, where every page can be reached. -/
def State.writeVirtual (s : State) (core cid : Nat) (va : DWord) (bs : List Byte) : Except EFail State :=
  match agentReach s core cid .write (runPieces va bs.length) with
  | .error e => .error e
  | .ok ps =>
    if (ownedLines ps).any s.isOwned then .error .held
    else .ok (s.coherentWrite noCore ((placesOf ps).zip bs) false none)

/-- A launched packet's work is done (R346). -/
def State.packetDone (s : State) (queue index : Nat) : State :=
  s.onQueue queue (fun q => { q with packets := q.packets.map (fun p => if p.index == index then { p with finished := true } else p) })

/-- The replicas of a grid dropped (R67, R346). -/
def State.dropReplicas (s : State) (die k : Nat) : State :=
  s.onStore (fun t => { t with replicas := t.replicas.filter (fun r => r.2.2 != 256 * die + k) })

/-- A grid's replicas dropped, its record closed, and its LAUNCH told; a grid a team of which was ended puts its queue into ERROR (R346,
R358). -/
def State.closeGrid (s : State) (die k : Nat) : State :=
  let l := (s.grid die k).launch
  let s := s.dropReplicas die k
  let s := (s.onGrid die k (fun g => { g with phase := .closed })).packetDone l.queue l.packet
  if (s.grid die k).failed then s.queueError l.queue 0x0F l.packet 0 else s

/-- GRID_COMPLETE (R346): the agent that retired the last team writes the report, the record is closed and the LAUNCH completed; a fault
abandons the report and is told by an event of cause 0x22, which no rule names (R39; DESIGN CHOICE, log entry 54). -/
def execGridComplete (die grid : Nat) (s : State) : Host.Outcome State Fault Refusal :=
  let g := s.grid die grid
  .next (if !(g.live && g.done == g.teams && g.phase != .closed) then s
    else if g.launch.report == 0 then s.closeGrid die grid
    else
      match s.writeVirtual g.agent g.launch.cid g.launch.report (reportBytes g) with
      | .ok s' => s'.closeGrid die grid
      | .error (.fault va f k) =>
        let x : Stop := { code := 0x22, xlat := xlatDetail s g.launch.cid f k va }
        (s.coreRecord g.agent g.launch.queue { stop := x, aid := coreAid g.agent 8, cid := g.launch.cid, seq := 0, pc := 0 } none).closeGrid die grid
      | .error e => s.askFor die e)

/-! ## Ageing (R172) -/

/-- GANG_PRIORITY_AGING (R172): a gang that has stayed issuable and unchosen for 256 cycles takes priority 4 until it
issues. -/
def execGangPriorityAging (a : GangAt) (s : State) : Host.Outcome State Fault Refusal :=
  .next (
    let g := s.groupAt a.core a.bank a.slot
    let ks := g.gangOf a.slice
    let y := g.slice a.slice
    let ready := match y.run with | .running | .woken _ => true | _ => false
    if g.gid.live && ready && ks.contains a.slice && !y.debugStopped && !(Sparse.look false a.bank (s.core a.core).crew.frozen) &&
        Nat.max y.since y.ready + 256 ≤ s.now then
      s.onGroupAt a.core a.bank a.slot (fun g => g.onSlices ks (fun x => { x with aged := true }))
    else s)

end Sys2Proof.Machine
end

