-- ==== Sys2Proof/Machine/Save.lean ====
section
/-! DEFINITION. Saving a team to its image and restoring it (R255, R256, R349 to R352, R361 to R363).
Readings of the rules: DEDUCED, log entry 37. -/

namespace Sys2Proof.Machine

/-! ## Bytes of an image (R361, R362) -/

/-- Bytes continued with zeros to `n`. -/
def padTo (n : Nat) (bs : List Byte) : List Byte := bs ++ List.replicate (n - bs.length) 0
/-- The next multiple of 64. -/
def up64 (n : Nat) : Nat := (n + 63) / 64 * 64
/-- A section, which ends on a 64-byte boundary. -/
def sect (bs : List Byte) : List Byte := padTo (up64 bs.length) bs

/-- `n` bits as bytes, bit 0 first. -/
def bitBytes (n : Nat) (f : Nat → Bool) : List Byte :=
  (List.range (n / 8)).map (fun i => (List.range 8).foldl (fun b j => if f (8 * i + j) then b ||| (1#8 <<< j) else b) 0#8)

/-- 2^k where a condition holds. -/
def bitIf (b : Bool) (k : Nat) : Nat := if b then 2 ^ k else 0

/-- The code of a kind of stack entry (R150). -/
def entryKindCode : EntryKind → Nat
  | .ifE => 0 | .loopE => 1 | .callE => 2

/-- A control-stack entry (R150). -/
def entryBytes (e : Entry) : List Byte :=
  let hi := entryKindCode e.kind * 2 ^ 30 + bitIf e.els 29 + bitIf e.unb 28 + e.cws.toNat * 2 ^ 25 + e.spn.toNat * 2 ^ 22 +
    e.sc.toNat * 2 ^ 20 + e.brkm.toNat * 2 ^ 16 + e.cntm.toNat * 2 ^ 12
  leBytes 8 e.addr.toNat ++ leBytes 4 e.iter.toNat ++ leBytes 4 e.trip.toNat ++ leBytes 4 e.fmt.toNat ++ leBytes 4 hi

/-- A translation register (R26). -/
def xregBytes (x : XReg) : List Byte :=
  let w2 := bitIf x.valid 63 + x.home.toNat * 2 ^ 61 + x.mt.toNat * 2 ^ 59 + bitIf x.kv 58 + bitIf x.nr 57 + bitIf x.rd 56 +
    bitIf x.wr 55 + bitIf x.priv 54 + x.ps.toNat * 2 ^ 52 + x.pkg.toNat * 2 ^ 42 + x.limit.toNat
  leBytes 8 x.vbase.toNat ++ leBytes 8 (x.pbase.toNat % 2 ^ 52) ++ leBytes 8 w2

/-- A slice's 24 bytes (R362). -/
def sliceBytes (y : Slice) : List Byte :=
  padTo 24 (leBytes 8 y.pc.toNat ++ leBytes 4 y.fmt.toNat ++ leBytes 1 y.stack'.length ++ leBytes 1 y.gang ++
    leBytes 1 (bitIf y.exited 0 + bitIf (y.atRegang || y.pend == some .regang) 1 + bitIf y.debugStopped 2))

/-- Is a lane of a physical register empty, or a scalar register? -/
def Group.emptyAt (g : Group) (key : Nat) : Bool := g.inflight.any (fun r => r.empties && r.lanes.any (fun p => p.1 == key))
def Group.emptyS (g : Group) (n : Nat) : Bool := g.inflight.any (fun r => r.empties && (r.sca.map Prod.fst) == some n)

/-- A group block (R362). -/
def groupBytes (g : Group) (slot : Nat) : List Byte :=
  let i := g.gid
  let flags := bitIf i.half 0 + bitIf (i.hnum == 1) 1 + bitIf g.vliw 2 + bitIf g.exposed 3 + bitIf i.task 4
  let head := leBytes 1 i.role ++ leBytes 1 slot ++ leBytes 1 flags ++ leBytes 1 (i.rsb / 64) ++ leBytes 2 g.win.wb ++ leBytes 1 g.win.ws ++
    leBytes 1 0 ++ leBytes 2 g.win.bot ++ leBytes 6 0 ++ leBytes 4 g.win.sp.toNat ++ leBytes 4 g.win.lim.toNat ++
    leBytes 8 g.win.lbase.toNat ++ leBytes 4 g.win.lsize.toNat
  let key (j : Nat) : Nat := 32 * i.rbase + j
  let qBytes (q : Stream) : List Byte := leBytes 4 q.buf ++ leBytes 4 q.size ++ leBytes 4 q.arrived ++ leBytes 4 q.pos
  let pass (p c : Nat) : Option PassValue := g.passes.find? (fun x => x.pass == p && x.cluster == c)
  padTo 0x40 head ++
    (List.range 32).flatMap (fun n => leBytes 8 (g.sreg n).toNat) ++
    padTo 16 (bitBytes 32 (fun n => !g.emptyS n) ++ bitBytes 32 (fun n => Sparse.look false n g.sca.poison)) ++
    (List.range 8).flatMap (fun n => xregBytes (g.xreg n)) ++
    (List.range 64).flatMap (fun n => leBytes 2 (g.cb n).toNat) ++
    (List.range 8).flatMap (fun n => leBytes 8 (Sparse.look 0 n g.xpat).toNat) ++
    (List.range 8).flatMap (fun n => qBytes (g.stream n)) ++
    (List.range 8).flatMap (fun k => if k < g.slices.length then sliceBytes (g.slice k) else leBytes 24 0) ++
    (List.range 8).flatMap (fun k => padTo 384 ((g.slice k).stack'.reverse.flatMap entryBytes)) ++
    (List.range 16).flatMap (fun n => leBytes 1 (g.nc (2 * n) + 16 * g.nc (2 * n + 1))) ++
    (List.range 128).flatMap (fun n => leBytes 4 (Sparse.look 0 n g.lanes.rng).toNat) ++
    (List.range 128).flatMap (fun n => leBytes 4 (((pass (n / 32) (n % 32)).map PassValue.value).getD 0).toNat) ++
    (List.range 128).flatMap (fun n => match pass (n / 32) (n % 32) with | some x => leBytes 1 (128 + x.age % 16) | none => leBytes 1 0) ++
    leBytes 32 0 ++
    (List.range (32 * i.rsb)).flatMap (fun j => leBytes 4 (Sparse.look 0 (key j) g.lanes.v).toNat) ++
    bitBytes (32 * i.rsb) (fun j => j % 32 < g.width && !g.emptyAt (key j)) ++
    bitBytes (32 * i.rsb) (fun j => Sparse.look false (key j) g.lanes.poison)

/-- The bytes of a group block of a register budget. -/
def groupBlock (rsb : Nat) : Nat := 0x14C0 + 136 * rsb

/-- A ring's descriptor, its granted slots only (R46). -/
def ringBytes (x : Ring) : List Byte :=
  if x.valid then
    leBytes 8 (2 ^ 63 + x.count * 2 ^ 44 + x.slotsz * 2 ^ 28 + x.base) ++ leBytes 2 x.head ++ leBytes 2 x.tail ++ leBytes 2 x.rsv ++ leBytes 2 x.clm
  else leBytes 16 0

/-- A ring's ownership entries; slots that an engine has finished but earlier ones hold back become entries that are done. -/
def ringEntries (x : Ring) : List RingOwn :=
  let done (take : Bool) (hs : List RingHold) : List RingOwn :=
    (hs.filter (fun h => h.granted && h.done)).map (fun h => { take := take, done := true, grp := h.group, n := h.n, first := h.first })
  x.own ++ done false x.producers ++ done true x.consumers

/-- An ownership entry (R51). -/
def ownBytes (e : RingOwn) : List Byte :=
  leBytes 8 (2 ^ 31 + bitIf e.take 30 + bitIf e.done 29 + e.grp % 16 * 2 ^ 25 + e.n * 2 ^ 16 + e.first)

/-- A flag's 16 bytes (R361). -/
def flagBytes (f : Flag) : List Byte := leBytes 4 f.value.toNat ++ leBytes 4 (bitIf f.err 0) ++ leBytes 4 f.last.toNat ++ leBytes 4 0

/-- A stash window's 16 bytes. -/
def windowBytes (w : StashWin) : List Byte :=
  leBytes 8 w.g.toNat ++ leBytes 4 w.w ++ leBytes 2 w.n ++ leBytes 1 (bitIf w.valid 0) ++ leBytes 1 0

/-- A queued task's 48 bytes. -/
def taskBytes (q : Task) : List Byte :=
  padTo 48 (leBytes 8 q.entry.toNat ++ padTo 32 ((q.args.take 4).flatMap (fun a => leBytes 8 a.toNat)) ++ leBytes 1 q.role)

/-- An unstarted command's 160 bytes (R362); `num` is its group's number. -/
def cmdBytes (d : Cmd) (num : Nat) : List Byte :=
  let w := (encode d.op).getD (0, 0)
  let head := leBytes 1 (unitOf d.op) ++ leBytes 1 num ++ leBytes 2 0 ++ leBytes 4 d.fmt.toNat ++ leBytes 8 w.1.toNat ++ leBytes 8 w.2.toNat ++
    leBytes 8 d.a.toNat ++ leBytes 8 d.b.toNat ++ leBytes 8 d.c.toNat
  padTo 64 head ++ padTo 96 (d.desc.take 96)

/-! ## What is saved -/

/-- The groups of a team in its image: the role groups by number, then its task group. -/
def imageGroups (c : Core) (team : Nat) : List Nat :=
  let gs := teamGroups c team
  gs.filter (fun k => !(c.groupK k).gid.task) ++
    gs.filter (fun k => (c.groupK k).gid.task && (!(c.groupK k).live.isEmpty || c.cmds.any (fun d => d.groupKey == k)))

/-- The keys under which a command holds slots of rings. -/
def holdKeys (core : Nat) (d : Cmd) : List Nat :=
  if unitOf d.op == 1 then [holdKey core d.id] else [claimKey core d.id 0, claimKey core d.id 1]

/-- Has a command been granted a slot of any ring? -/
def holdsGranted (s : State) (core : Nat) (d : Cmd) : Bool :=
  s.cores.any (fun p => p.2.rings.any (fun r =>
    (r.2.producers ++ r.2.consumers).any (fun h => !h.thread && h.granted && (holdKeys core d).contains h.cmd)))

/-- Is it a stream copy that waits on a full buffer (R52, R350)? -/
def streamFull (s : State) (d : Cmd) : Bool :=
  match d.op with
  | .cpy _ =>
    let q := copyStream s d
    (copyDesc d.desc).dk == 3 && q.size != 0 && q.size / 4 ≤ q.arrived - Nat.min q.pos q.arrived
  | _ => false

/-- Must a command complete before its team's image is written (R350)? -/
def mustComplete (s : State) (core : Nat) (d : Cmd) : Bool :=
  (d.begun && !streamFull s d) || holdsGranted s core d || s.store.owners.any (fun o => o.unit == core && o.cmd == d.id)

/-- Does a slice stand inside a bundle that it will complete: changing decoder, woken, or with a wait already ended that has cleared a
flag? -/
def Slice.inBundle (y : Slice) : Bool :=
  match y.run with
  | .woken _ => true
  | .waiting w had => w == .mode || had.any (fun h => match h with | .flag _ _ clr => clr | _ => false)
  | _ => false

/-- May the image be written (R255, R350, R351)? No register awaits a result, no bundle is half done, every command that
has started is complete, every granted reservation in the team's rings has its bytes, its stores have performed, its write-combining
entries among them. -/
def saveReady (s : State) (core team : Nat) : Bool :=
  let c := s.core core
  let gs := imageGroups c team
  gs.all (fun k => (c.groupK k).inflight.all InFlight.held && !(c.groupK k).slices.any Slice.inBundle) &&
    !(c.cmds.filter (fun d => d.team == team)).any (mustComplete s core) &&
    (c.team team).res.rings.all (fun r => let x := s.ring core r
      (x.producers ++ x.consumers).all (fun h => h.thread || !h.granted || h.done)) &&
    !storesOut c gs

/-- The offset of the flags in an image, and its size (R361). -/
def imageSizes (rsbs : List Nat) (spsize nacc nflags nrings ntask ncmd : Nat) : Nat × Nat :=
  let a := rsbs.foldl (fun n r => n + groupBlock r) 256
  let flags := a + spsize + up64 (spsize / 32) + 4224 * nacc + 128 * nacc
  let tasks := flags + up64 (16 * nflags) + up64 (16 * nrings) + 256 * nrings + 128
  (flags, tasks + up64 (48 * ntask) + 160 * ncmd)

/-- The sizes of a resident team's image. -/
def teamSizes (c : Core) (team : Nat) : Nat × Nat :=
  let t := c.team team
  imageSizes ((imageGroups c team).map (fun k => (c.groupK k).gid.rsb)) t.res.spsize t.res.nacc t.res.nflags t.res.rings.length
    (c.crew.tasks.filter (fun q => q.team == team)).length (c.cmds.filter (fun d => d.team == team)).length

/-- The address of a grid record as an image gives it (DESIGN CHOICE, log entry 27). -/
def gridAddr (t : Team) : Nat := 256 * t.die + t.grid

/-- The image of a team whose stash windows are `stash` (R361). -/
def imageBytes (c : Core) (team : Nat) (stash : Sparse StashWin) : List Byte :=
  let t := c.team team
  let r := t.res
  let gs := imageGroups c team
  let tasks := c.crew.tasks.filter (fun q => q.team == team)
  let cmds := c.cmds.filter (fun d => d.team == team)
  let head := leBytes 4 0x5A4B5349 ++ leBytes 2 1 ++ leBytes 1 gs.length ++ leBytes 1 cmds.length ++ leBytes 8 (teamSizes c team).2 ++
    leBytes 2 t.cid ++ leBytes 2 t.kidx ++ leBytes 1 tasks.length ++ leBytes 1 r.nacc ++ leBytes 1 r.nflags ++ leBytes 1 r.rings.length ++
    leBytes 4 r.spsize ++ leBytes 4 t.tidx ++ leBytes 8 (gridAddr t) ++ leBytes 8 t.code.toNat ++ leBytes 8 t.args.toNat ++
    leBytes 4 t.x.toNat ++ leBytes 4 t.y.toNat ++ leBytes 4 t.z.toNat
  let tile (n : Nat) : List Byte :=
    (List.range 1024).flatMap (fun e => leBytes 4 (Sparse.look 0 (1024 * (r.abase + n) + e) c.store.tiles).toNat) ++
      bitBytes 1024 (fun e => Sparse.look false (1024 * (r.abase + n) + e) c.store.lost)
  let ring (k : Nat) : Ring := Sparse.look {} k c.rings
  padTo 256 head ++ gs.flatMap (fun k => groupBytes (c.groupK k) (k % 16)) ++ c.store.spad.read r.spbase r.spsize ++
    sect (bitBytes (r.spsize / 4) (fun w => Sparse.look false (r.spbase / 4 + w) c.store.spadPoison)) ++
    (List.range r.nacc).flatMap tile ++ bitBytes (1024 * r.nacc) (fun e => Sparse.look false (1024 * r.abase + e) c.store.tilePoison) ++
    sect ((List.range r.nflags).flatMap (fun i => flagBytes (Sparse.look {} (r.fbase + i) c.flags))) ++
    sect (r.rings.flatMap (fun k => ringBytes (ring k))) ++
    r.rings.flatMap (fun k => padTo 256 (((ringEntries (ring k)).take 32).flatMap ownBytes)) ++
    (List.range 8).flatMap (fun w => windowBytes (Sparse.look {} w stash)) ++
    sect (tasks.flatMap taskBytes) ++ cmds.flatMap (fun d => cmdBytes d (c.groupK d.groupKey).gid.num)

/-! ## Saving (R255) -/

/-- What becomes of a record that awaits an answer when its team is saved (R363, DESIGN CHOICE, log entry 28): a replayable fault and a
stack limit are withdrawn, since the bundle replays; another stop waits for the restore; a fault of an unstarted command is
withdrawn with it. -/
def savedRecord (s : State) (core team space : Nat) (va : DWord) (o : Outstanding) : Option Outstanding :=
  let c := s.core core
  match o.about with
  | .gang (.gang a) ks =>
    let key := slotKey a.bank a.slot
    let g := c.groupK key
    if !(a.core == core && (imageGroups c team).contains key) then some o
    else
      match (g.slice (ks.headD 0)).run with
      | .stopped x after => if o.rpl || o.code == causeStackLimit then none
          else some { o with about := .saved space va ((imageGroups c team).findIdx (fun k => k == key)) ks x after }
      | _ => none
  | .cmd k id => if k == core && c.cmds.any (fun d => d.id == id && d.team == team) then none else some o
  | _ => some o

/-- The granted slots of a team's threads that they have not been handed: the image holds them as the ring's own. -/
def waitingHolds (s : State) (core team : Nat) : List SavedHold :=
  let c := s.core core
  let gs := imageGroups c team
  let note (i : Nat) (take : Bool) (h : RingHold) : Option SavedHold :=
    if h.thread && h.granted && gs.contains h.group then
      some { ring := i, take := take, grp := gs.findIdx (fun k => k == h.group), slice := h.cmd % 8, hold := h }
    else none
  (c.team team).res.rings.zipIdx.flatMap (fun (p : Nat × Nat) =>
    let x := s.ring core p.1
    x.producers.filterMap (note p.2 false) ++ x.consumers.filterMap (note p.2 true))

/-- What the stopped slices of a team wait for once they go on, by group and slice. -/
def stoppedWaits (c : Core) (team : Nat) : List (Nat × Nat × Wait) :=
  (imageGroups c team).zipIdx.flatMap (fun (p : Nat × Nat) => (c.groupK p.1).slices.zipIdx.filterMap (fun (y : Slice × Nat) =>
    match y.1.run, y.1.pend with
    | .stopped .., some w => some (p.2, y.2, w)
    | _, _ => none))

/-- A team gone to its image at `va`: the firmware's notes, the flags' old handles, its records, commands and tasks, its
resources (R350, R351, R363). -/
def State.retireSaved (s : State) (core team space : Nat) (va : DWord) : State :=
  let c := s.core core
  let t := c.team team
  let cmds := c.cmds.filter (fun d => d.team == team)
  let base := va + BitVec.ofNat 64 (teamSizes c team).1
  let flags : List SavedFlag := (List.range t.res.nflags).map (fun i =>
    { flag := t.res.fbase + i, gen := (s.flagOf core (t.res.fbase + i)).gen, cid := t.cid, space := space, img := va,
      va := base + BitVec.ofNat 64 (16 * i) })
  let outs := s.host.outs.filterMap (savedRecord s core team space va)
  let s := s.onHost (fun h => { h with
    outs := outs, saved := h.saved ++ [{ cid := t.cid, space := space, img := va, slots := t.res.slots, cmds := cmds,
                                             holds := waitingHolds s core team, pends := stoppedWaits c team }] })
  let s := (s.thaw core (team / 8)).onCore core (fun c => { c with crew := { c.crew with
    tasks := c.crew.tasks.filter (fun q => q.team != team), savedFlags := c.crew.savedFlags ++ flags } })
  let s := cmds.foldl (fun s d => s.dropCmd core d) s
  (s.addCounters core team).freeTeam core team

/-- The state of a team written to `va` through a context, once it is ready: the bytes written, and the team gone. -/
def State.saveTeam (s : State) (core team space : Nat) (va : DWord) : Except EFail (Nat × State) :=
  let gs := imageGroups (s.core core) team
  let s := s.finishStores core gs
  if !saveReady s core team then .error .held
  else
    let stash := ((s.core core).team team).stash
    let s := gs.foldl (fun s k => s.releaseHeld core k) s
    let s := s.unmapAll core team
    let bs := imageBytes (s.core core) team stash
    match agentReach s core space .write (runPieces va bs.length) with
    | .error e => .error e
    | .ok ps =>
      if (ownedLines ps).any s.isOwned then .error .held
      else
        let s := s.coherentWrite noCore ((placesOf ps).zip bs) false none
        .ok (bs.length, s.retireSaved core team space va)

/-- An event of a core's agent about a team or a grid, to the queue of its LAUNCH (R355, R386). -/
def State.teamEvent (s : State) (core queue cid : Nat) (x : Stop) : State :=
  s.coreRecord core queue { stop := x, aid := coreAid core 8, cid := cid, seq := 0, pc := 0 } none

/-- CTXSAVE (R255). -/
def execCtxsave (o : ROp) (s : State) : Host.Outcome State Fault Refusal :=
  .next (s.scalarOp o.at' (fun c =>
    let core := coreOf c.who
    let key := (c.sval o.a).toNat % 16
    let va := c.sval o.b
    let t := (s.core core).team key
    if !t.live || va.toNat % 4096 != 0 then s.postScalar c o.d 0 2
    else if !t.parked then s.waitFor (.save key)
    else
      match s.saveTeam core key (s.cidOf c.who) va with
      | .ok (n, s') => s'.postScalar c o.d (BitVec.ofNat 64 n) 2
      | .error (.fault a f k) =>
        (s.teamEvent core t.queue t.cid { code := 0x22, xlat := xlatDetail s (s.cidOf c.who) f k a }).postScalar c o.d 0 2
      | .error (.page p a) => s.waitFor (.page p (BitVec.ofNat 64 a))
      | .error _ => s.waitFor (.save key)))

/-! ## Reading an image (R363) -/

/-- A reader of an image: `n` bytes at an offset as a number. -/
abbrev ImgReader := Nat → Nat → Nat

/-- Whether the memory of `n` bytes of an image from an offset is poisoned. -/
abbrev ImgPoison := Nat → Nat → Bool

/-- Bit `i` of the bytes from an offset. -/
def imgBit (rd : ImgReader) (off i : Nat) : Bool := rd (off + i / 8) 1 / 2 ^ (i % 8) % 2 == 1

/-- Sparse data of `n` values from key `base` on. -/
def sparseOf {α : Type} [DecidableEq α] (d : α) (base n : Nat) (f : Nat → α) : Sparse α :=
  (List.range n).filterMap (fun i => if f i = d then none else some (base + i, f i))

/-- A stack entry. -/
def readEntry (rd : ImgReader) (o : Nat) : Entry :=
  let hi := rd (o + 20) 4
  { kind := match hi / 2 ^ 30 with | 0 => .ifE | 1 => .loopE | _ => .callE
    els := hi / 2 ^ 29 % 2 == 1, unb := hi / 2 ^ 28 % 2 == 1, cws := BitVec.ofNat 3 (hi / 2 ^ 25), spn := BitVec.ofNat 3 (hi / 2 ^ 22),
    sc := BitVec.ofNat 2 (hi / 2 ^ 20), brkm := BitVec.ofNat 4 (hi / 2 ^ 16), cntm := BitVec.ofNat 4 (hi / 2 ^ 12),
    fmt := BitVec.ofNat 32 (rd (o + 16) 4), trip := BitVec.ofNat 32 (rd (o + 12) 4), iter := BitVec.ofNat 32 (rd (o + 8) 4),
    addr := BitVec.ofNat 64 (rd o 8) }

/-- A translation register of a context. -/
def readXreg (rd : ImgReader) (cid o : Nat) : XReg :=
  let w := rd (o + 16) 8
  let b (k : Nat) : Bool := w / 2 ^ k % 2 == 1
  { valid := b 63, vbase := BitVec.ofNat 64 (rd o 8), pbase := BitVec.ofNat 64 (rd (o + 8) 8 % 2 ^ 52), home := BitVec.ofNat 2 (w / 2 ^ 61),
    mt := BitVec.ofNat 2 (w / 2 ^ 59), kv := b 58, nr := b 57, rd := b 56, wr := b 55, priv := b 54, ps := BitVec.ofNat 2 (w / 2 ^ 52),
    pkg := BitVec.ofNat 10 (w / 2 ^ 42), limit := BitVec.ofNat 39 w, cid := cid }

/-- Slice `k` of the block at `o`. -/
def readSlice (rd : ImgReader) (o k now : Nat) : Slice :=
  let p := o + 0x350 + 24 * k
  let st := rd (p + 14) 1
  { pc := BitVec.ofNat 64 (rd p 8), fmt := BitVec.ofNat 32 (rd (p + 8) 4), gang := rd (p + 13) 1, exited := st % 2 == 1,
    run := if st / 2 % 2 == 1 then .waiting .regang [] else .running, debugStopped := st / 4 % 2 == 1, ready := now, since := now,
    stack' := ((List.range (rd (p + 12) 1)).map (fun j => readEntry rd (o + 0x410 + 384 * k + 24 * j))).reverse }

/-- The flag byte of a block: width, half, decoder, exposed mode, task group. -/
def blockFlag (rd : ImgReader) (o k : Nat) : Bool := rd (o + 2) 1 / 2 ^ k % 2 == 1
/-- The register budget of a block. -/
def blockRsb (rd : ImgReader) (o : Nat) : Nat := 64 * rd (o + 3) 1

/-- A register that the image marks empty keeps awaiting its result. -/
def emptyRegs (rd : ImgReader) (o : Nat) (gid : GroupId) : List InFlight :=
  let w := if gid.half then 16 else 32
  let bits := o + 0x14C0 + 128 * gid.rsb
  let lanes := (List.range gid.rsb).filterMap (fun r =>
    let ls := (List.range w).filter (fun l => !imgBit rd bits (32 * r + l))
    if ls.isEmpty then none
    else some ({ lanes := ls.map (fun l => (32 * (gid.rbase + r) + l, BitVec.ofNat 32 (rd (o + 0x14C0 + 4 * (32 * r + l)) 4), false)),
                 empties := true, held := true } : InFlight))
  let scas := ((List.range 32).filter (fun n => !imgBit rd (o + 0x140) n)).map (fun n =>
    ({ sca := some (n, BitVec.ofNat 64 (rd (o + 0x40 + 8 * n) 8), false), empties := true, held := true } : InFlight))
  lanes ++ scas

/-- The group of the block at `o`, of a context. Registers whose bytes come from poisoned memory are poisoned (R73); what its threads may
have seen before the save, no other core's stores may hide (R136). -/
def readGroup (rd : ImgReader) (bad : ImgPoison) (o now cid : Nat) (gid : GroupId) : Group :=
  let regs := o + 0x14C0
  let nregs := 32 * gid.rsb
  let stream (n : Nat) : Stream :=
    let p := o + 0x2D0 + 16 * n
    { buf := rd p 4, size := rd (p + 4) 4, arrived := rd (p + 8) 4, pos := rd (p + 12) 4, done := rd (p + 8) 4 != 0 }
  { gid := gid
    lanes := {
      v := sparseOf 0 (32 * gid.rbase) nregs (fun j => BitVec.ofNat 32 (rd (regs + 4 * j) 4))
      poison := sparseOf false (32 * gid.rbase) nregs (fun j => imgBit rd (regs + 132 * gid.rsb) j || bad (regs + 4 * j) 4)
      nc := sparseOf 0 0 32 (fun l => rd (o + 0x1010 + l / 2) 1 / 16 ^ (l % 2) % 16)
      rng := sparseOf 0 0 128 (fun n => BitVec.ofNat 32 (rd (o + 0x1020 + 4 * n) 4)) }
    sca := {
      s := sparseOf 0 0 32 (fun n => BitVec.ofNat 64 (rd (o + 0x40 + 8 * n) 8))
      poison := sparseOf false 0 32 (fun n => imgBit rd (o + 0x144) n || bad (o + 0x40 + 8 * n) 8)
      x := sparseOf {} 0 8 (fun n => readXreg rd cid (o + 0x150 + 24 * n)) }
    win := { wb := rd (o + 4) 2, ws := rd (o + 6) 1, bot := rd (o + 8) 2, sp := BitVec.ofNat 32 (rd (o + 16) 4),
             lim := BitVec.ofNat 32 (rd (o + 20) 4), lbase := BitVec.ofNat 64 (rd (o + 24) 8), lsize := BitVec.ofNat 32 (rd (o + 32) 4) }
    slices := (List.range (if gid.half then 4 else 8)).map (fun k => readSlice rd o k now)
    codebook := sparseOf 0 0 64 (fun n => BitVec.ofNat 16 (rd (o + 0x210 + 2 * n) 2))
    xpat := sparseOf 0 0 8 (fun n => BitVec.ofNat 64 (rd (o + 0x290 + 8 * n) 8))
    q := sparseOf {} 0 8 stream
    vliw := blockFlag rd o 2
    exposed := blockFlag rd o 3
    passes := (List.range 128).filterMap (fun n =>
      let st := rd (o + 0x1420 + n) 1
      if 128 ≤ st then some { pass := n / 32, cluster := n % 32, age := st % 16, value := BitVec.ofNat 32 (rd (o + 0x1220 + 4 * n) 4) } else none)
    inflight := emptyRegs rd o gid
    fenced := List.range 35 }

/-- The blocks of an image and the offset past them. -/
def blockOffsets (rd : ImgReader) : Nat → Nat → List Nat
  | 0, _ => []
  | n + 1, o => o :: blockOffsets rd n (o + groupBlock (blockRsb rd o))

/-- The fields of an image's header and where its sections begin. -/
structure ImgPlan where
  blocks : List Nat
  ncmd : Nat
  ntask : Nat
  nacc : Nat
  nflags : Nat
  nrings : Nat
  spsize : Nat
  die : Nat
  grid : Nat
  tidx : Nat
  cid : Nat
  spad : Nat
  poison : Nat
  tiles : Nat
  tilePoison : Nat
  flags : Nat
  rings : Nat
  own : Nat
  stash : Nat
  tasks : Nat
  cmds : Nat
  size : Nat
  deriving DecidableEq, Repr

/-- The plan of an image. -/
def imgPlan (rd : ImgReader) : ImgPlan :=
  let blocks := blockOffsets rd (rd 6 1) 256
  let ntask := rd 0x14 1
  let nacc := rd 0x15 1
  let nflags := rd 0x16 1
  let nrings := rd 0x17 1
  let spsize := rd 0x18 4
  let spad := blocks.foldl (fun n o => n + groupBlock (blockRsb rd o)) 256
  let poison := spad + spsize
  let tiles := poison + up64 (spsize / 32)
  let tilePoison := tiles + 4224 * nacc
  let flags := tilePoison + 128 * nacc
  let rings := flags + up64 (16 * nflags)
  let own := rings + up64 (16 * nrings)
  let stash := own + 256 * nrings
  let tasks := stash + 128
  let cmds := tasks + up64 (48 * ntask)
  { blocks := blocks, ncmd := rd 7 1, ntask := ntask, nacc := nacc, nflags := nflags, nrings := nrings, spsize := spsize,
    die := rd 0x20 8 / 256, grid := rd 0x20 8 % 256, tidx := rd 0x1C 4, cid := rd 0x10 2, spad := spad, poison := poison, tiles := tiles,
    tilePoison := tilePoison, flags := flags, rings := rings, own := own, stash := stash, tasks := tasks, cmds := cmds,
    size := cmds + 160 * rd 7 1 }

/-- May the sections be measured: the counts and budgets of the header are within their limits? -/
def headerOk (rd : ImgReader) : Bool :=
  rd 0 4 == 0x5A4B5349 && rd 4 2 == 1 && 1 ≤ rd 6 1 && rd 6 1 ≤ 16 && rd 7 1 ≤ 56 && rd 0x14 1 ≤ 64 && rd 0x15 1 ≤ 64 && rd 0x15 1 % 2 == 0 &&
    rd 0x16 1 ≤ 64 && rd 0x16 1 % 4 == 0 && rd 0x17 1 ≤ 128 && rd 0x18 4 % 4096 == 0 && rd 0x18 4 ≤ 524288 && rd 0x44 188 == 0

/-- Does an FMT value keep its reserved bits (R181)? -/
def fmtImageOk (x : Nat) : Bool := BitVec.ofNat 32 x &&& ~~~fmtBits == 0#32

/-- A group block's checks: the limits of its registers (R150, R153, R181, R287, R362, R363). -/
def blockOk (rd : ImgReader) (o spsize : Nat) : Bool :=
  let ws := rd (o + 6) 1
  rd (o + 1) 1 < 16 && rd (o + 2) 1 < 32 && ws % 8 == 0 && 8 ≤ ws && ws ≤ 64 && rd (o + 7) 1 == 0 && rd (o + 10) 6 == 0 && rd (o + 36) 28 == 0 &&
    rd (o + 0x148) 8 == 0 && rd (o + 0x14A0) 32 == 0 &&
    rd (o + 4) 2 % 8 == 0 && rd (o + 8) 2 % 8 == 0 &&
    (List.range 8).all (fun n => let x := rd (o + 0x290 + 8 * n) 8; x == 0 || patternOk (BitVec.ofNat 64 x)) &&
    (List.range 8).all (fun n =>
      let x := readXreg rd 0 (o + 0x150 + 24 * n)
      !x.valid || (x.home != 3#2 && x.mt != 3#2 && 1 ≤ x.limit.toNat && x.limit.toNat ≤ 2 ^ 38 && (x.home == 2#2 || x.pkg == 0))) &&
    (List.range 8).all (fun n =>
      let p := o + 0x2D0 + 16 * n
      rd (p + 4) 4 == 0 || ([512, 1024, 2048, 4096, 8192, 16384, 32768].contains (rd (p + 4) 4) && rd p 4 % 128 == 0 && rd p 4 + rd (p + 4) 4 ≤ spsize)) &&
    (List.range 8).all (fun k =>
      let p := o + 0x350 + 24 * k
      rd p 1 % 4 == 0 && fmtImageOk (rd (p + 8) 4) && rd (p + 12) 1 ≤ 16 && rd (p + 13) 1 < 8 && rd (p + 14) 1 < 8 && rd (p + 15) 9 == 0 &&
        (List.range (rd (p + 12) 1)).all (fun j =>
          rd (o + 0x410 + 384 * k + 24 * j + 23) 1 < 192 && fmtImageOk (rd (o + 0x410 + 384 * k + 24 * j + 16) 4))) &&
    (List.range 128).all (fun n => rd (o + 0x1420 + n) 1 / 16 % 8 == 0)

/-- A ring's checks: its descriptor and its ownership entries. -/
def savedRingOk (rd : ImgReader) (o own spsize : Nat) : Bool :=
  let w := rd o 8
  let count := w / 2 ^ 44 % 512
  let slotsz := w / 2 ^ 28 % 4096
  let base := w % 2 ^ 19
  w / 2 ^ 53 % 1024 == 0 && w / 2 ^ 40 % 16 == 0 && w / 2 ^ 19 % 512 == 0 &&
    (w < 2 ^ 63 || (1 ≤ count && count ≤ 256 && 1 ≤ slotsz && base % 128 == 0 && base + 128 * slotsz * count ≤ spsize)) &&
    (List.range 32).all (fun k =>
      let e := rd (own + 8 * k) 8
      e < 2 ^ 32 && (e < 2 ^ 31 || (1 ≤ e / 2 ^ 16 % 512 && e / 2 ^ 16 % 512 ≤ 256)))

/-- A stash window's checks. -/
def windowImageOk (rd : ImgReader) (o spsize : Nat) : Bool :=
  rd (o + 14) 1 ≤ 1 && rd (o + 15) 1 == 0 &&
    (rd (o + 14) 1 == 0 || (rd o 8 % 128 == 0 && rd (o + 8) 4 % 128 == 0 && 1 ≤ rd (o + 12) 2 && rd (o + 12) 2 ≤ 4096 &&
      rd (o + 8) 4 + 128 * rd (o + 12) 2 ≤ spsize))

/-- The operation of a command entry, in the slot of its group's decoder. -/
def readOp (rd : ImgReader) (o : Nat) (vliw : Bool) : Option Instr :=
  let w0 : DWord := BitVec.ofNat 64 (rd (o + 8) 8)
  let w1 : DWord := BitVec.ofNat 64 (rd (o + 16) 8)
  let slots : List Slot := if vliw then [.unit 3#2] else (List.range 8).map (fun k => .simt (BitVec.ofNat 3 k))
  slots.findSome? (fun sl =>
    match (parseWord sl w0 w1).bind instrOf with
    | some i =>
      let engine := match (opInfo i).cls with | .engine | .engineGlen | .tile => true | _ => false
      if engine && opOk i && regOk i && unitOf i == rd o 1 then some i else none
    | none => none)

/-- A command entry's checks. -/
def cmdImageOk (rd : ImgReader) (p : ImgPlan) (o : Nat) : Bool :=
  rd (o + 2) 2 == 0 && rd (o + 0x30) 16 == 0 &&
    (match p.blocks[rd (o + 1) 1]? with
     | some b => (readOp rd o (blockFlag rd b 2)).isSome
     | none => false)

/-- The checks of R363 and of the kernel that the image's grid holds. -/
def imageOk (rd : ImgReader) (p : ImgPlan) (g : Grid) : Bool :=
  let l := g.launch
  let k := l.kernel
  let roles := rolesOf k
  let t := newTeam p.die p.grid p.tidx g {}
  g.live && g.phase != .closed && p.die < 4 && p.cid == l.cid && rd 0x12 2 == l.kidx && p.tidx < g.teams && p.size ≤ rd 8 8 &&
    rd 0x28 8 == l.code.toNat && rd 0x30 8 == l.args.toNat && rd 0x38 4 == t.x.toNat && rd 0x3C 4 == t.y.toNat && rd 0x40 4 == t.z.toNat &&
    p.spsize == k.spsize && p.nacc == k.nacc && p.nflags == k.nflags && p.nrings == k.nrings &&
    (roles.length == p.blocks.length || (roles.length + 1 == p.blocks.length && k.trsb != 0)) &&
    ((List.range p.blocks.length).zip p.blocks).all (fun q =>
      blockOk rd q.2 p.spsize &&
        (match roles[q.1]? with
         | some (i, r, _) => !blockFlag rd q.2 4 && rd q.2 1 == i && blockFlag rd q.2 0 == r.half && blockRsb rd q.2 == r.rsb
         | none => blockFlag rd q.2 4 && !blockFlag rd q.2 0 && blockRsb rd q.2 == 64 * k.trsb && rd q.2 1 < k.roles.length)) &&
    (List.range p.nflags).all (fun i => let o := p.flags + 16 * i; rd (o + 4) 4 ≤ 1 && rd (o + 12) 4 == 0) &&
    (List.range p.nrings).all (fun i => savedRingOk rd (p.rings + 16 * i) (p.own + 256 * i) p.spsize) &&
    (List.range 8).all (fun i => windowImageOk rd (p.stash + 16 * i) p.spsize) &&
    (List.range p.ntask).all (fun i => let o := p.tasks + 48 * i; rd (o + 41) 7 == 0 && rd (o + 40) 1 < k.roles.length) &&
    (List.range p.ncmd).all (fun i => cmdImageOk rd p (p.cmds + 160 * i))

/-! ## Restoring (R256) -/

/-- An ownership entry of an image. -/
def readOwn (rd : ImgReader) (o : Nat) : Option RingOwn :=
  let e := rd o 8
  if e < 2 ^ 31 then none
  else some { take := e / 2 ^ 30 % 2 == 1, done := e / 2 ^ 29 % 2 == 1, grp := e / 2 ^ 25 % 16, n := e / 2 ^ 16 % 512, first := e % 2 ^ 16 }

/-- A ring of an image on a descriptor whose generation stays. -/
def readRing (rd : ImgReader) (o own : Nat) (x : Ring) : Ring :=
  let w := rd o 8
  if w < 2 ^ 63 then x
  else
    { x with valid := true, base := w % 2 ^ 19, slotsz := w / 2 ^ 28 % 4096, count := w / 2 ^ 44 % 512, head := rd (o + 8) 2, tail := rd (o + 10) 2,
             rsv := rd (o + 12) 2, clm := rd (o + 14) 2, own := (List.range 32).filterMap (fun k => readOwn rd (own + 8 * k)) }

/-- The store of a core with the team's scratchpad and tiles from the image, poisoned where the image says so or its memory is (R73). -/
def readStore (rd : ImgReader) (bad : ImgPoison) (p : ImgPlan) (sp : Spot) (st : CoreStore) : CoreStore :=
  let put {α : Type} [DecidableEq α] (d : α) (base n : Nat) (f : Nat → α) (m : Sparse α) : Sparse α :=
    (sparseOf d base n f).foldl (fun m x => Sparse.put d x.1 x.2 m) m
  let tile (n : Nat) : Nat := p.tiles + 4224 * (n / 1024) + 4 * (n % 1024)
  let lost (n : Nat) : Bool := imgBit rd (p.tiles + 4224 * (n / 1024) + 4096) (n % 1024)
  { spad := put 0 sp.spbase p.spsize (fun i => BitVec.ofNat 8 (rd (p.spad + i) 1)) st.spad
    spadPoison := put false (sp.spbase / 4) (p.spsize / 4) (fun w => imgBit rd p.poison w || bad (p.spad + 4 * w) 4) st.spadPoison
    tiles := put 0 (1024 * sp.abase) (1024 * p.nacc) (fun n => BitVec.ofNat 32 (rd (tile n) 4)) st.tiles
    lost := put false (1024 * sp.abase) (1024 * p.nacc) lost st.lost
    tilePoison := put false (1024 * sp.abase) (1024 * p.nacc) (fun n => imgBit rd p.tilePoison n || bad (tile n) 4) st.tilePoison }

/-- A command put back into its queue, its claims and reservations asked for again (R350). -/
def State.requeue (s : State) (core : Nat) (d : Cmd) : State :=
  let t := (s.core core).team d.team
  let rel (n : Nat) : Nat := (t.res.rings[n]?).getD 0
  let add (s : State) (d : Cmd) : State :=
    (s.onStore (fun m => { m with nextOwner := m.nextOwner + 1 })).onCore core (fun k => { k with cmds := k.cmds ++ [d], nextCmd := k.nextCmd + 1 })
  let mat (m : MatOp) : State :=
    let ra := rel m.ra
    let rb := rel m.rb
    let s := add s { d with aux := [ra, rb], phase := .registered }
    (s.claimFor core ra (claimKey core d.id 0) d.groupKey ((s.ring core ra).slotsFor m.bytesA)).claimFor core rb (claimKey core d.id 1) d.groupKey
      ((s.ring core rb).slotsFor m.bytesB)
  match d.op with
  | .cpy _ =>
    let y := copyDesc d.desc
    let s := add s { d with phase := .queued }
    if y.dk == 2 then s.reserveFor core (rel y.dn) (holdKey core d.id) d.groupKey (y.total / (s.ring core (rel y.dn)).slotBytes)
    else if y.dk == 3 then s.onGroup d.who (fun g => { g with q := Sparse.upd {} y.dn (fun x => { x with named := x.named + 1, done := false }) g.q })
    else s
  | .cpym o =>
    let y := copyDesc d.desc
    let n := (o.ext.extractLsb' 7 3).toNat + 1
    let hs := (List.range n).map (fun i => leNat ((s.core core).store.spad.read (t.res.spbase + d.b.toNat + 4 * i) 4))
    let ds := hs.filterMap (handleDest s core d.cid y)
    let s := add s { d with phase := .registered, err := decide (ds.length < n), aux := ds.map (fun p => 128 * p.1 + p.2) }
    ds.foldl (fun s p => s.reserveFor p.1 p.2 (holdKey core d.id) d.groupKey (y.total / (s.ring p.1 p.2).slotBytes)) s
  | .mma o => mat (matOp o false)
  | .mmas o => mat (matOp o true)
  | .attn o =>
    let m := attnOp o
    let s := add s { d with aux := [rel m.ring, 0, 0], phase := .queued }
    s.claimFor core (rel m.ring) (claimKey core d.id 0) d.groupKey ((s.ring core (rel m.ring)).slotsFor m.bytes)
  | .accflg o =>
    let g := s.groupOf d.who
    let regs := match o.d with
      | .v v => if d.aux.isEmpty then [g.phys v.toNat - g.gid.rbase, g.phys (v.toNat + 1) - g.gid.rbase] else d.aux
      | _ => []
    let d := { d with aux := regs, phase := .registered }
    (add s d).awaitFlags d
  | _ => add s { d with aux := if isSeqOp d.op then [0, 0, 0] else [], phase := if unitOf d.op == 3 then .registered else .queued }

/-- The command of an entry: as the firmware noted it where the entry is its own, else with what the entry holds. -/
def readCmd (rd : ImgReader) (p : ImgPlan) (i : Nat) (note : Option Cmd) (who : Who) (team now : Nat) (vliw : Bool) : Option Cmd :=
  let o := p.cmds + 160 * i
  match readOp rd o vliw with
  | none => none
  | some op =>
    let a : DWord := BitVec.ofNat 64 (rd (o + 0x18) 8)
    let b : DWord := BitVec.ofNat 64 (rd (o + 0x20) 8)
    let c : DWord := BitVec.ofNat 64 (rd (o + 0x28) 8)
    let fmt : Word := BitVec.ofNat 32 (rd (o + 4) 4)
    let due := match op with | .bfqtake _ => now + 16 * bitsOf b 31 16 | _ => 0
    let plain : Cmd := { id := 0, op := op, who := who, amask := 0xFFFFFFFF, desc := leBytes 96 (rd (o + 0x40) 96) }
    let base := match note with
      | some d => if encode d.op == encode op then { d with op := op } else plain
      | none => plain
    some { base with who := who, team := team, cid := p.cid, a := a, b := b, c := c, fmt := fmt, due := due, paused := none, owned := [],
                     err := false, phase := .queued }

/-- The place of a restored team: what its role groups need, and a slot for its task group. -/
def restoreSpot (s : State) (core bank : Nat) (k : Kernel) (p : ImgPlan) : Option Spot := do
  let c := s.core core
  let busy := busyFor s core
  let sp ← findSpot c busy p.cid k.need bank
  if k.need.groups.length < p.blocks.length then do
    let extra ← lowestFree 1 ((List.range 16).map (fun j => 16 * bank + j)) (15 :: busy.slots ++ sp.slots.map (fun j => 16 * bank + j))
    some { sp with slots := sp.slots ++ extra.map (fun j => j % 16) }
  else some sp

/-- The slots that were granted to waiting threads of a saved team, theirs again in the restored one. -/
def State.rejoinHolds (s : State) (core : Nat) (rings : List Nat) (keyAt : Nat → Nat) (hs : List SavedHold) : State :=
  hs.foldl (fun s h =>
    let mine : RingHold := { h.hold with cmd := 8 * keyAt h.grp + h.slice, group := keyAt h.grp }
    s.onRing core (rings.getD h.ring 0) (fun x => if h.take then { x with consumers := x.consumers ++ [mine] } else { x with producers := x.producers ++ [mine] })) s

/-- The team of an image made resident at a spot. -/
def State.seatImage (s : State) (core : Nat) (rd : ImgReader) (bad : ImgPoison) (p : ImgPlan) (sp : Spot) (note : Option Saved) : State :=
  let s := s.firstVisit core p.die p.grid
  let g := s.grid p.die p.grid
  let k := g.launch.kernel
  let team := 8 * sp.bank + sp.team
  let slots := (note.map Saved.slots).getD []
  let res : TeamRes := { spbase := sp.spbase, spsize := k.spsize, abase := sp.abase, nacc := k.nacc, fbase := sp.fbase, nflags := k.nflags,
                         rings := sp.rings, slots := slots, taskBase := sp.taskBase, localSlot := slots.getLastD 0 }
  let tm := newTeam p.die p.grid p.tidx g res
  let stash := sparseOf {} 0 8 (fun i =>
    let o := p.stash + 16 * i
    if rd (o + 14) 1 == 0 then ({} : StashWin)
    else { valid := true, g := BitVec.ofNat 64 (rd o 8), w := rd (o + 8) 4, n := rd (o + 12) 2 })
  let gid (i o : Nat) : GroupId :=
    let at' := sp.regs.getD i (0, 0)
    let task := blockFlag rd o 4
    { live := true, team := sp.team, role := rd o 1, prio := ((k.roles[rd o 1]?).map Role.prio).getD 0, num := i, half := blockFlag rd o 0,
      hnum := if task then 0 else at'.1, rsb := blockRsb rd o, rbase := if task then sp.taskBase.getD 0 else 512 * sp.bank + 64 * at'.2, task := task }
  let keyAt (i : Nat) : Nat := slotKey sp.bank (sp.slots.getD i 0)
  let tasks : List Task := (List.range p.ntask).map (fun i =>
    let o := p.tasks + 48 * i
    { entry := BitVec.ofNat 64 (rd o 8), args := (List.range 4).map (fun j => BitVec.ofNat 64 (rd (o + 8 + 8 * j) 8)), role := rd (o + 40) 1, team := team })
  let now := s.now
  let s := s.onCore core (fun c =>
    let c := (c.clearFor k.need sp).seat team sp.bank { tm with stash := stash }
    let flags := (List.range p.nflags).foldl (fun m i =>
      let o := p.flags + 16 * i
      Sparse.upd {} (sp.fbase + i) (fun (f : Flag) => { f with value := BitVec.ofNat 32 (rd o 4), err := rd (o + 4) 1 == 1, last := BitVec.ofNat 32 (rd (o + 8) 4) }) m) c.flags
    let rings := ((List.range p.nrings).zip sp.rings).foldl (fun m q => Sparse.upd {} q.2 (readRing rd (p.rings + 16 * q.1) (p.own + 256 * q.1)) m) c.rings
    let c := { c with flags := flags, rings := rings, store := readStore rd bad p sp c.store }
    let c := c.onTasks (fun ts => ts ++ tasks)
    ((List.range p.blocks.length).zip p.blocks).foldl (fun c q => c.setGroup (keyAt q.1) (readGroup rd bad q.2 now p.cid (gid q.1 q.2))) c)
  let s := s.rejoinHolds core sp.rings keyAt ((note.map Saved.holds).getD [])
  let s := ((note.map Saved.pends).getD []).foldl (fun s w =>
    s.onCore core (fun c => c.onGroupK (keyAt w.1) (fun g => g.onSlice w.2.1 (fun y => { y with pend := some w.2.2 })))) s
  (List.range p.ncmd).foldl (fun s i =>
    let j := rd (p.cmds + 160 * i + 1) 1
    let who : Who := .gang { core := core, bank := sp.bank, slot := sp.slots.getD j 0, slice := 0 }
    match readCmd rd p i (note.bind (fun n => n.cmds[i]?)) who team now (blockFlag rd (p.blocks.getD j 0) 2) with
    | some d => s.requeue core { d with id := (s.core core).nextCmd, order := s.store.nextOwner }
    | none => s) s

/-- The records about a restored team's gangs name them again, and the answers given meanwhile take effect (R363, log
entry 28). -/
def State.rejoinRecords (s : State) (core space : Nat) (va : DWord) (sp : Spot) : State :=
  let mine (o : Outstanding) : Bool := match o.about with | .saved c a .. => c == space && a == va | _ => false
  let who (grp low : Nat) : Who := .gang { core := core, bank := sp.bank, slot := sp.slots.getD grp 0, slice := low }
  let os := s.host.outs.filter mine
  let s := s.onHost (fun h => { h with outs := h.outs.filterMap (fun o =>
    match o.about with
    | .saved c a grp ks _ _ => if c == space && a == va then (if o.answer.isSome then none else some { o with about := .gang (who grp (ks.headD 0)) ks }) else some o
    | _ => some o) })
  os.foldl (fun s o =>
    match o.about with
    | .saved _ _ grp ks x after =>
      let w := who grp (ks.headD 0)
      let s := s.onGroup w (fun g => g.onSlices ks (fun y => { y with run := .stopped x after }))
      (match o.answer with
       | none => s
       | some true => s.resumeGang w ks (isDebugStop o.code)
       | some false => s.endTeam core (8 * sp.bank + sp.team) x)
    | _ => s) s

/-- Why a restore does not happen. -/
inductive RestoreFail where
  | access (e : EFail)
  | unfit
  deriving DecidableEq, Repr

/-- The place of a byte of a run that was reached. -/
def placeIn (ps : List EPiece) (off : Nat) : Option Nat :=
  (ps.foldl (fun (r : Option Nat × Nat) p =>
    (if r.2 ≤ off && off < r.2 + p.bytes then some (p.place + (off - r.2)) else r.1, r.2 + p.bytes)) (none, 0)).1

/-- A reader of the bytes at places. -/
def readerOf (s : State) (ps : List EPiece) : ImgReader :=
  fun off n => leNat ((List.range n).map (fun i => match placeIn ps (off + i) with | some a => s.store.mem.byte a | none => 0))

/-- The poison of the bytes at places. -/
def poisonOf (s : State) (ps : List EPiece) : ImgPoison :=
  fun off n => !s.store.poison.isEmpty && (List.range n).any (fun i => match placeIn ps (off + i) with | some a => s.isPoisoned a | none => false)

/-- The bytes of a run that a core's agent can reach before the first failure, and that failure. -/
def agentPrefix (s : State) (core cid : Nat) (k : AccessKind) : List (DWord × Nat) → List EPiece × Option EFail
  | [] => ([], none)
  | p :: rest =>
    match agentReach s core cid k [p] with
    | .error e => ([], some e)
    | .ok l =>
      let r := agentPrefix s core cid k rest
      (l ++ r.1, r.2)

/-- More bytes than the sections of any image with fields within their limits take (R361). -/
def imageLimit : Nat := 2 ^ 22

/-- The image at `va` restored into one of some banks of a core: the bank and the team's index, and the machine. -/
def State.restoreTeam (s : State) (core space : Nat) (va : DWord) (banks : List Nat) : Except RestoreFail (Nat × State) :=
  let s := s.flushStashes
  match agentReach s core space .read (runPieces va 256) with
  | .error e => .error (.access e)
  | .ok hs =>
    if !headerOk (readerOf s hs) then .error .unfit
    else
      let size := readerOf s hs 8 8
      if size < 256 then .error .unfit
      else
        let r := agentPrefix s core space .read (runPieces va (Nat.min size imageLimit))
        let rd := readerOf s r.1
        let p := imgPlan rd
        if size < p.size then .error .unfit
        else if (r.1.map EPiece.bytes).foldl (fun a b => a + b) 0 < p.size then
          (match r.2 with | some e => .error (.access e) | none => .error .unfit)
        else if (ownedLines r.1).any s.isOwned then .error (.access .held)
        else
            let g := s.grid p.die p.grid
            if !imageOk rd p g then .error .unfit
            else
              match banks.findSome? (fun b => restoreSpot s core b g.launch.kernel p) with
              | none => .error .unfit
              | some sp =>
                let note := s.host.saved.find? (fun x => x.space == space && x.img == va)
                let s := s.seatImage core rd (poisonOf s r.1) p sp note
                let s := s.onHost (fun h => { h with saved := h.saved.filter (fun x => !(x.space == space && x.img == va)) })
                let drop (c : Core) : Core := { c with crew := { c.crew with savedFlags := c.crew.savedFlags.filter (fun f => !(f.space == space && f.img == va)) } }
                let s := { s with cores := s.cores.map (fun (q : Nat × Core) => (q.1, drop q.2)) }
                let s := s.onGrid p.die p.grid (fun g => { g with saves := g.saves.erase (.image va) })
                .ok (8 * sp.bank + sp.team, s.rejoinRecords core space va sp)

/-- CTXLOAD (R256). -/
def execCtxload (o : ROp) (s : State) : Host.Outcome State Fault Refusal :=
  .next (s.scalarOp o.at' (fun c =>
    let core := coreOf c.who
    let bank := (c.sval o.a).toNat / 8 % 2
    let space := s.cidOf c.who
    match s.restoreTeam core space (c.sval o.b) [bank] with
    | .ok (n, s') => s'.postScalar c o.d (BitVec.ofNat 64 n) 2
    | .error .unfit => s.postScalar c o.d (BitVec.allOnes 64) 2
    | .error (.access (.fault a f k)) =>
      s.stopAt { code := causeTranslation, slot := slotNumber o.at'.slot, rpl := f.rpl, xlat := xlatDetail s space f k a }
    | .error (.access (.page p a)) => s.waitFor (.page p (BitVec.ofNat 64 a))
    | .error (.access _) => s.waitFor .poll))

/-! ## Restores after a drain (R352) -/

/-- The oldest image of a grid. -/
def oldestImage (g : Grid) : Option DWord := g.saves.findSome? (fun x => match x with | .image a => some a | .unstarted _ => none)

/-- The open grids with an image that a core may restore, each with its oldest image. -/
def restorable (s : State) (core : Nat) : List (Nat × Nat × Grid) :=
  (List.range 4).flatMap (fun d => ((s.die d).grids.filter (fun p =>
    let g := p.2
    g.live && g.phase == .open' && coreServes s core g.launch.cid &&
      (match oldestImage g with | some a => !(s.core core).crew.tried.contains a | none => false))).map (fun p => (d, p.1, p.2)))

/-- TEAM_RESTORE (R352, R344): the oldest image of the first open grid that has one; where it does not fit it stays in the
list, an event tells of it, and the core tries again once it has freed resources. -/
def execTeamRestore (core : Nat) (s : State) : Host.Outcome State Fault Refusal :=
  .next (match firstGrid (restorable s core) with
    | none => s
    | some (_, _, g) =>
      match oldestImage g with
      | none => s
      | some a =>
        match s.restoreTeam core g.launch.cid a [0, 1] with
        | .ok (_, s') => s'
        | .error (.access (.page c p)) => s.askHost (dieOfCore core) c p
        | .error (.access .held) => s
        | .error e =>
          let xlat : BitVec 128 := match e with | .access (.fault va f k) => xlatDetail s g.launch.cid f k va | _ => 0
          let s := s.onCore core (fun c => { c with crew := { c.crew with tried := c.crew.tried ++ [a] } })
          s.teamEvent core g.launch.queue g.launch.cid { code := 0x22, xlat := xlat })

end Sys2Proof.Machine
end

