-- ==== Sys2Proof/Machine/Queues.lean ====
section
/-! DEFINITION. User queues and their packets (R329 to R346): kicks, the front end's choice, the start of each type of packet,
and its completion.
Readings of the rules: DEDUCED, log entry 34. Readings of the rules: DEDUCED, log entry 45. -/

namespace Sys2Proof.Machine

/-! ## Reading and writing by the front end -/

/-- Bytes that the front end reads through a queue's context. -/
def frontRead (s : State) (die cid : Nat) (va : DWord) (n : Nat) (k : AccessKind := .engineRead) : Except EFail (List Byte) :=
  match engineReach s (160 * die) cid k (runPieces va n) with
  | .error e => .error e
  | .ok ps => if (ownedLines ps).any s.isOwned then .error .held else .ok ((placesOf ps).map s.store.mem.byte)

/-- A 64-bit number changed atomically at its home by the front end. -/
def State.frontUpdate (s : State) (die cid : Nat) (va : DWord) (k : AccessKind) (f : Nat → Nat) : Except EFail State :=
  let s := s.flushStashes
  match engineReach s (160 * die) cid k (runPieces va 8) with
  | .error e => .error e
  | .ok ps =>
    if (ownedLines ps).any s.isOwned then .error .held
    else
      let at' := placesOf ps
      let v := leNat (at'.map s.store.mem.byte)
      .ok (s.coherentWrite noCore (at'.zip (leBytes 8 (f v % 2 ^ 64))) false none)

/-! ## Kicks (R330, R331)

A kick reaches its page from the host, or from a device's store (`State.performStore`), which is a release at .sys then. -/

/-- The difference of two packet indexes modulo 2^64. -/
def ahead (a b : DWord) : Nat := (a - b).toNat

/-- KICK (R330, R331): a write that is not an aligned 8-byte one is ignored; one that passes the checks is accepted, whatever
the queue's state; another posts a bad-kick event. -/
def execKick (queue : Nat) (value : DWord) (aligned8 : Bool) (s : State) : Host.Outcome State Fault Refusal :=
  let q := s.queue queue
  .next (if !q.live || !aligned8 then s
    else if ahead value q.widx < 2 ^ 63 && ahead value q.rdx ≤ 2 ^ q.log2n then s.onQueue queue (fun q => { q with widx := value })
    else s.queueRecord queue 0x24 1 value 0)

/-- The first of a device's kicks that have reached their pages taken (R331). -/
def takeKick (s : State) : Host.Outcome State Fault Refusal :=
  match s.host.kicks with
  | [] => .next s
  | k :: rest => execKick k.1 k.2.1 k.2.2 (s.onHost (fun h => { h with kicks := rest }))

/-! ## The front end's choice (R343) -/

/-- What the front end finds at a queue's read index. -/
inductive NextPacket where
  | none
  | wait (e : EFail)
  | fault (x : BitVec 128)
  | bytes (bs : List Byte)
  deriving DecidableEq, Repr

/-- The address of the packet at the read index (R329). -/
def Queue.nextAddr (q : Queue) : DWord := q.ring + BitVec.ofNat 64 (64 * (q.rdx.toNat % 2 ^ q.log2n))

/-- The next packet of a queue, where it is ACTIVE and has one. -/
def nextPacket (s : State) (n : Nat) : NextPacket :=
  let q := s.queue n
  if !q.live || q.phase != .active || q.widx == q.rdx then .none
  else
    match frontRead s q.die q.cid q.nextAddr 64 with
    | .ok bs => .bytes bs
    | .error (.fault va f k) => .fault (xlatDetail s q.cid f k va)
    | .error e => .wait e

/-- Why the front end cannot yet write a queue's RIDX: a page that the host has yet to grant, or a line that a command holds. It
takes no packet of the queue until it can (R333). -/
def ridxWait (s : State) (n : Nat) : Option EFail :=
  let q := s.queue n
  if q.ridx == 0 then none
  else
    match frontRead s q.die q.cid q.ridx 8 .engineWrite with
    | .error (.fault ..) => none
    | .error e => some e
    | .ok _ => none

/-- Is the packet a wait that has not completed? -/
def Packet.waits (p : Packet) : Bool := (p.kind == .waitAll || p.kind == .waitAny) && !p.finished

/-- The glen core that an OVERLAY names (R341), numbered over the package. -/
def overlayGlen (bs : List Byte) : Nat := let t := descNum bs 0x30 1; 16 * (t % 4) + t / 4 % 16

/-- A free grid record of a die (R344). -/
def freeGrid (s : State) (die : Nat) : Option Nat := (List.range 256).find? (fun k => !(s.grid die k).live)

/-- Does a queue hold a packet that may start (R11, R332, R333, R341, R344)? A running WAIT holds every later packet. -/
def startable (s : State) (n : Nat) : Bool :=
  let q := s.queue n
  match nextPacket s n with
  | .none => false
  | .wait _ => false
  | .fault _ => true
  | .bytes bs =>
    (descNum bs 2 1 % 2 == 0 || q.packets.isEmpty) && !q.packets.any Packet.waits && (ridxWait s n).isNone && !closing s q.cid &&
      (match descNum bs 0 1 with
       | 1 => (freeGrid s q.die).isSome
       | 6 => !(s.glen (overlayGlen bs)).prog.running
       | _ => true)

/-- A queue's level: its priority, or 8 once promoted. -/
def Queue.level (q : Queue) : Nat := if q.aged then 8 else q.prio

/-- The queue that a die's front end takes next: the highest level, round robin within it, one packet every 16 cycles. -/
def frontChoice (s : State) (die : Nat) : Option Nat :=
  let d := s.die die
  let can := ((s.host.queues.filter (fun p => p.2.live && p.2.die == die)).map Prod.fst).filter (startable s)
  let top := can.foldl (fun m n => Nat.max m (s.queue n).level) 0
  let cs := can.filter (fun n => (s.queue n).level == top)
  let early := match d.last with | some t => decide (s.now < t + 16) | none => false
  if early || d.boot != .running then none
  else match cs.find? (fun n => d.turn < n) with
    | some n => some n
    | none => cs.head?

/-- How long each queue has held a startable packet, brought up to the present cycle (R343). -/
def State.tickQueues (s : State) : State :=
  s.onHost (fun h => { h with queues := h.queues.map (fun p =>
    (p.1, { p.2 with since := if startable s p.1 then some (p.2.since.getD s.now) else none })) })

/-- QUEUE_STARVATION_PROMOTION (R343). -/
def execQueueStarvationPromotion (queue : Nat) (s : State) : Host.Outcome State Fault Refusal :=
  let q := s.queue queue
  .next (match q.since with
    | some t => if q.live && !q.aged && t + 1600000 ≤ s.now then s.onQueue queue (fun q => { q with aged := true }) else s
    | none => s)

/-! ## The start of a packet (R333) -/

/-- The index of a queue's next packet. -/
def Queue.nextIndex (q : Queue) : Nat := q.rdx.toNat

/-- RDX moved past the packet and written to RIDX; a fault on that store drops it with a notice. The queue's turn ends. A RIDX that
must be waited for is none here (`startable`). -/
def State.takePacket (s : State) (n : Nat) : State :=
  let die := (s.queue n).die
  let s := s.onQueue n (fun q => { q with rdx := q.rdx + 1, aged := false, since := none })
  let s := s.onDie die (fun d => { d with turn := n, last := some s.now })
  let q := s.queue n
  if q.ridx == 0 then s
  else
    match s.frontUpdate q.die q.cid q.ridx .engineWrite (fun _ => q.rdx.toNat) with
    | .ok s' => s'
    | .error (.fault ..) => s.queueRecord n 0x24 2 q.rdx 0
    | .error _ => s

/-- A packet added to those that have started. -/
def State.addPacket (s : State) (n : Nat) (p : Packet) : State := s.onQueue n (fun q => { q with packets := q.packets ++ [p] })

/-- A started packet changed. -/
def State.onPacket (s : State) (n index : Nat) (f : Packet → Packet) : State :=
  s.onQueue n (fun q => { q with packets := q.packets.map (fun p => if p.index == index then f p else p) })

/-- A started packet of a queue. -/
def packetOf (s : State) (n index : Nat) : Option Packet := (s.queue n).packets.find? (fun p => p.index == index)

/-- SPEC of a packet's header. -/
def specField (bs : List Byte) : Nat := descNum bs 4 4
/-- Is the header one that R332 allows? -/
def headerFine (bs : List Byte) : Bool := descNum bs 0 1 ≤ 6 && descNum bs 1 1 == 1 && descNum bs 2 2 / 4 == 0

/-- The common part of a packet: its index, type, signal and EVT. -/
def packetFrom (q : Queue) (kind : PacketKind) (bs : List Byte) (now : Nat) : Packet :=
  { index := q.nextIndex, kind := kind, evt := descNum bs 2 1 / 2 % 2 == 1, begun := now }

/-- The start of the packet at the read index by the die's front end: of one kind only, but every kind's step finds a packet
that cannot be read or whose header is invalid. `go` is given the packet's bytes and the state past it. -/
def State.startPacket (s : State) (n kind : Nat) (go : List Byte → Queue → State → State) : State :=
  let q := s.queue n
  if frontChoice s q.die != some n then s
  else
    let s := s.flushStashes
    match nextPacket s n with
    | .none => s
    | .wait e => s.askFor q.die e
    | .fault x =>
      (s.onDie q.die (fun d => { d with turn := n, last := some s.now })).queueError n 0x10 q.nextIndex x
    | .bytes bs =>
      if !headerFine bs then (s.takePacket n).queueError n 1 q.nextIndex 0
      else if descNum bs 0 1 == kind then go bs q s
      else s

/-- An invalid packet: the queue enters ERROR before it has any effect (R334, R342). -/
def State.refusePacket (s : State) (n cause : Nat) : State :=
  let i := (s.queue n).nextIndex
  (s.takePacket n).queueError n cause i 0

/-- NOP_PACKET (R333): complete once started. -/
def execNopPacket (queue : Nat) (s : State) : Host.Outcome State Fault Refusal :=
  .next (s.startPacket queue 0 (fun bs q s =>
    if specField bs != 0 then s.refusePacket queue 1
    else (s.takePacket queue).addPacket queue { packetFrom q .nop bs s.now with finished := true }))

/-! ## LAUNCH (R335, R336, R216 to R219) -/

/-- Is a code object's header one that R216 allows? -/
def codeHeaderOk (base : DWord) (h : List Byte) : Bool :=
  base.toNat % 128 == 0 && descNum h 0 4 == 0x4F434B5A && descNum h 4 2 == 1 && descNum h 6 2 < 8 &&
    (descNum h 6 1 % 2 == 1 || descNum h 0x18 8 == 0) && descNum h 0x20 4 ≤ 65535 && descNum h 0x24 4 % 128 == 0 &&
    descNum h 0x28 8 % 128 == 0 && descNum h 0x38 8 % 128 == 0 && descNum h 0x50 48 == 0

/-- Does the object ask only for features that the device has (R217)? -/
def featuresOk (h : List Byte) : Bool := descNum h 0x08 16 < 2 ^ 16
/-- The latency set of the device (R218). -/
def capLatency : Nat := 0x0000000008020806

/-- A role of a kernel descriptor (R219). -/
def readRole (k : List Byte) (i : Nat) : Role :=
  let o := 0x40 + 16 * i
  { entry := descNum k o 8, groups := descNum k (o + 8) 1, half := descNum k (o + 9) 1 == 1, rsb := 64 * descNum k (o + 10) 1,
    prio := descNum k (o + 11) 1, win := descNum k (o + 12) 1 }

/-- A kernel descriptor (R219). -/
def readKernel (k : List Byte) : Kernel :=
  { nrings := descNum k 5 1, nacc := descNum k 6 1, nflags := descNum k 7 1, spsize := descNum k 8 4, fmt := BitVec.ofNat 32 (descNum k 0x0C 4),
    trsb := descNum k 0x10 1, twin := descNum k 0x11 1, barriers := (List.range 4).map (fun i => (descNum k (0x18 + 2 * i) 1, descNum k (0x19 + 2 * i) 1)), roles := (List.range (Nat.min 4 (descNum k 4 1))).map (readRole k) }

/-- Is an entry window one that the device has? -/
def windowOkSize (w : Nat) : Bool := 8 ≤ w && w ≤ 64 && w % 8 == 0

/-- Does a role keep its limits (R142, R219)? -/
def roleOk (k : List Byte) (i : Nat) : Bool :=
  let o := 0x40 + 16 * i
  let r := readRole k i
  r.entry % 4 == 0 && 1 ≤ r.groups && r.groups ≤ 16 && descNum k (o + 9) 1 ≤ 1 && 64 ≤ r.rsb && r.rsb ≤ 512 && r.prio ≤ 3 && windowOkSize r.win &&
    descNum k (o + 13) 3 == 0

/-- Does a barrier name a flag of the team and roles of the kernel (R219)? -/
def barrierOk (k : List Byte) (i : Nat) : Bool :=
  let f := descNum k (0x18 + 2 * i) 1
  let m := descNum k (0x19 + 2 * i) 1
  m < 16 && (f == 0xFF || f < descNum k 7 1) && m < 2 ^ descNum k 4 1

/-- The limits of a kernel descriptor (R142, R219). -/
def kernelOk (k : List Byte) : Bool :=
  let d := readKernel k
  let n := descNum k 4 1
  1 ≤ n && n ≤ 4 && d.nrings ≤ 16 && d.nacc ≤ 64 && d.nacc % 2 == 0 && d.nflags ≤ 64 && d.nflags % 4 == 0 && 4096 ≤ d.spsize && d.spsize ≤ 524288 &&
    d.spsize % 4096 == 0 && (d.fmt.toNat / 2 ^ 23 == 0 && d.fmt.toNat / 2 ^ 5 % 2 ^ 6 == 0) && d.trsb ≤ 8 &&
    (if d.trsb == 0 then d.twin == 0 else windowOkSize d.twin) && descNum k 0x12 6 == 0 && descNum k 0x20 32 == 0 &&
    (List.range 4).all (barrierOk k) && (List.range n).all (roleOk k) &&
    (List.range 4).all (fun i => i < n || descNum k (0x40 + 16 * i) 16 == 0) && (d.roles.map Role.groups).foldl (fun a b => a + b) 0 ≤ 16

/-- Does one team fit into an empty bank (R167, R336)? -/
def kernelFits (k : Kernel) : Bool := (findPlace {} {} 1 k.need).isSome

/-- What the checks of a LAUNCH find: its grid, the cause of its failure, or a page that the host has yet to grant. -/
inductive LaunchCheck where
  | ok (l : GridLaunch)
  | fail (cause : Nat)
  | wait (e : EFail)
  deriving DecidableEq, Repr

/-- The grid of a LAUNCH whose code object and kernel have been read. -/
def launchFrom (q : Queue) (n : Nat) (bs h k : List Byte) : GridLaunch :=
  { queue := n, packet := q.nextIndex, cid := q.cid, code := BitVec.ofNat 64 (descNum bs 0x10 8), entry := descNum h 0x28 8,
    vliw := descNum h 6 1 % 2 == 1, exposed := descNum h 6 1 % 2 == 1 && descNum h 0x18 8 == capLatency,
    args := BitVec.ofNat 64 (descNum bs 0x18 8), gx := descNum bs 0x20 4 + 1, gy := descNum bs 0x24 4 + 1, gz := descNum bs 0x28 4 + 1,
    kidx := descNum bs 0x2C 2, kernel := readKernel k, lsz := descNum bs 0x2E 2, lstk := descNum bs 6 2, nloc := descNum bs 4 2,
    local' := BitVec.ofNat 64 (descNum bs 0x30 8), report := BitVec.ofNat 64 (descNum bs 0x38 8) }

/-- The checks of R336 in order. -/
def checkLaunch (s : State) (n : Nat) (bs : List Byte) : LaunchCheck :=
  let q := s.queue n
  let sig := descNum bs 8 8
  let dims := (descNum bs 0x20 4 + 1) * (descNum bs 0x24 4 + 1) * (descNum bs 0x28 4 + 1)
  let code : DWord := BitVec.ofNat 64 (descNum bs 0x10 8)
  if sig % 8 != 0 || 2 ^ 32 < dims then .fail 1
  else if q.cid == 0 || q.cid == 0xFFFF || !(s.context q.cid).ok then .fail 2
  else
    match frontRead s q.die q.cid code 128 with
    | .error (.fault ..) => .fail 3
    | .error e => .wait e
    | .ok h =>
      let kaddr := code + BitVec.ofNat 64 (descNum h 0x24 4 + 128 * descNum bs 0x2C 2)
      match (if descNum bs 0x2C 2 < descNum h 0x20 4 then frontRead s q.die q.cid kaddr 128 else .ok []) with
      | .error (.fault ..) => .fail 3
      | .error e => .wait e
      | .ok k =>
        let l := launchFrom q n bs h k
        if !codeHeaderOk code h then .fail 4
        else if !featuresOk h then .fail 5
        else if l.vliw && !l.exposed && descNum h 6 1 / 2 % 2 == 0 then .fail 6
        else if k.isEmpty || !kernelOk k then .fail 7
        else if l.report.toNat % 64 != 0 then .fail 8
        else if l.lsz < l.lstk || l.nloc == 0 || l.nloc < 16 + (if l.kernel.trsb == 0 then 0 else 1) || l.local'.toNat % 128 != 0 then .fail 9
        else if !kernelFits l.kernel then .fail 0xA
        else .ok l

/-- A grid record made for a LAUNCH (R344). -/
def State.newGrid (s : State) (die k : Nat) (prio : Nat) (l : GridLaunch) : State :=
  let seq := (s.die die).startSeq
  let g : Grid := { live := true, teams := l.gx * l.gy * l.gz, prio := prio, seq := seq, launch := l, agent := 160 * die }
  (s.onDie die (fun d => { d with startSeq := (d.startSeq + 1) % 2 ^ 29 })).onGrid die k (fun _ => g)

/-- LAUNCH (R335, R336, R344). -/
def execLaunch (queue : Nat) (s : State) : Host.Outcome State Fault Refusal :=
  .next (s.startPacket queue 1 (fun bs q s =>
    match checkLaunch s queue bs, freeGrid s q.die with
    | .wait e, _ => s.askFor q.die e
    | _, none => s
    | .fail c, _ => s.refusePacket queue c
    | .ok l, some k =>
      let s := s.takePacket queue
      let s := s.addPacket queue { packetFrom q .launch bs s.now with sig := BitVec.ofNat 64 (descNum bs 8 8) }
      s.newGrid q.die k q.prio l))

/-! ## COPY (R337) -/

/-- The unit of a queue's copies among those that hold lines. -/
def copyUnit (queue : Nat) : Nat := 1000 + queue

/-- The record of a copy's replayable fault: the per-die engine's, written by the front end (R386). -/
def State.copyFault (s : State) (n index : Nat) (x : Stop) : State :=
  let q := s.queue n
  let seq := (s.die q.die).recSeq
  let s := s.onDie q.die (fun d => { d with recSeq := (d.recSeq + 1) % 2 ^ 32 })
  let r : Rec := { stop := x, aid := dieAid q.die 1 0, cid := q.cid, asy := true, seq := seq, pc := BitVec.ofNat 64 index }
  let s := (s.postEvent q.evq (r.bytes s.now)).pend (160 * q.die) (classOf causeTranslation true)
  s.onHost (fun h => { h with outs := h.outs ++ [{
    name := { die := q.die, unit := 255, seq := seq }, about := .packet n index, code := causeTranslation, rpl := true, cid := q.cid }] })

/-- The lines of a copy's destination that translate. -/
def packetLines (s : State) (n : Nat) (p : Packet) : List Nat :=
  let q := s.queue n
  ((runPieces p.dst p.len).flatMap (fun x =>
    match engineReach s (160 * q.die) q.cid .engineWrite [x] with
    | .ok ps => ownedLines ps
    | .error _ => [])).dedup

/-- The lines of a copy's destination registered (R132): those that translate and are not registered yet, with the copy's place in
the order of registrations. -/
def State.registerPacket (s : State) (n : Nat) (p : Packet) : State :=
  let mine (l : Nat) : Bool := s.store.owners.any (fun o => o.line == l && o.unit == copyUnit n && o.cmd == p.index)
  s.own (copyUnit n) p.index p.order ((packetLines s n p).filter (fun l => !mine l))

/-- COPY (R337): started, its destination registered. -/
def execCopy (queue : Nat) (s : State) : Host.Outcome State Fault Refusal :=
  .next (s.startPacket queue 2 (fun bs q s =>
    let len := descNum bs 0x20 8
    if specField bs != 0 || descNum bs 8 8 % 8 != 0 || len == 0 || 2 ^ 40 < len || descNum bs 0x28 24 != 0 then s.refusePacket queue 1
    else
      let s := s.takePacket queue
      let p : Packet := { packetFrom q .copy bs s.now with
        sig := BitVec.ofNat 64 (descNum bs 8 8), src := BitVec.ofNat 64 (descNum bs 0x10 8), dst := BitVec.ofNat 64 (descNum bs 0x18 8),
        len := len, order := s.store.nextOwner }
      let s := s.onStore (fun m => { m with nextOwner := m.nextOwner + 1 })
      (s.addPacket queue p).registerPacket queue p))

/-- The bytes of a run that can be reached before the first failure, and that failure. -/
def reachPrefix (s : State) (core cid : Nat) (k : AccessKind) : List (DWord × Nat) → List EPiece × Option EFail
  | [] => ([], none)
  | p :: rest =>
    match engineReach s core cid k [p] with
    | .error e => ([], some e)
    | .ok l =>
      let r := reachPrefix s core cid k rest
      (l ++ r.1, r.2)

/-- The bytes of a copy moved in ascending order: to the end, or up to its first fault (R337). A replayable fault pauses it,
any other ends it. Lines that translate only now are registered first (R132, R136). -/
def State.runCopy (s : State) (n : Nat) (p : Packet) : State :=
  let q := s.queue n
  let s := (s.registerPacket n p).flushStashes
  let src := reachPrefix s (160 * q.die) q.cid .engineRead (runPieces p.src p.len)
  let dst := reachPrefix s (160 * q.die) q.cid .engineWrite (runPieces p.dst p.len)
  let srcs := (placesOf src.1).map SpadByte.there
  let dsts := (placesOf dst.1).map SpadByte.there
  if (placesOf src.1 ++ placesOf dst.1).any (fun a => s.heldBefore (lineOf a) p.order) then s
  else
    let fail := if (placesOf src.1).length ≤ (placesOf dst.1).length && src.2.isSome then src.2 else if dst.2.isSome then dst.2 else src.2
    match fail with
    | none =>
      ((s.moveBytes noCore srcs dsts).disown (copyUnit n) p.index).onPacket n p.index (fun x => { x with finished := true })
    | some (.fault va f k) =>
      let x : Stop := { code := causeTranslation, rpl := f.rpl, xlat := xlatDetail s q.cid f k va }
      if f.rpl then (s.copyFault n p.index x).onPacket n p.index (fun y => { y with paused := true })
      else
        let m := Nat.min srcs.length dsts.length
        let s := (s.moveBytes noCore (srcs.take m) (dsts.take m)).disown (copyUnit n) p.index
        let s := s.onQueue n (fun q => { q with packets := q.packets.filter (fun y => y.index != p.index) })
        s.queueError n 0x0C p.index 0
    | some e => s.askFor q.die e

/-! ## SIGNAL (R338) -/

/-- SIGNAL (R338): a store or an atomic add, done as the packet starts. R338 reserves no byte past VALUE. -/
def execSignal (queue : Nat) (s : State) : Host.Outcome State Fault Refusal :=
  .next (s.startPacket queue 3 (fun bs q s =>
    let addr := descNum bs 8 8
    let v := descNum bs 0x10 8
    if 1 < specField bs || addr % 8 != 0 then s.refusePacket queue 1
    else
      let add := specField bs == 1
      let t := s.takePacket queue
      match t.frontUpdate q.die q.cid (BitVec.ofNat 64 addr) (if add then .atomic else .engineWrite) (fun old => if add then old + v else v) with
      | .ok s' => s'.addPacket queue { packetFrom q .signal bs s.now with finished := true }
      | .error (.fault ..) => t.queueError queue 0x0B q.nextIndex 0
      | .error e => s.askFor q.die e))

/-! ## WAIT_ALL and WAIT_ANY (R339, R340) -/

/-- The state of a queue replaced, or the state it returns to after a drain. -/
def Queue.setPhase (q : Queue) (p : QueuePhase) : Queue := if q.phase == .held then { q with before := p } else { q with phase := p }

/-- A queue leaves BLOCKED when its WAIT completes; one that is in ERROR stays there until request 0x03 (R342). -/
def Queue.unblock (q : Queue) : Queue :=
  if q.phase == .blocked || (q.phase == .held && q.before == .blocked) then q.setPhase .active else q

/-- The start of a wait: its table read once, the queue BLOCKED. -/
def State.startWait (s : State) (queue kind : Nat) (k : PacketKind) : State :=
  s.startPacket queue kind (fun bs q s =>
    let n := specField bs % 16
    let tab := descNum bs 8 8
    if specField bs / 32 != 0 || n == 0 || 12 < n || tab % 64 != 0 || descNum bs 0x18 8 % 8 != 0 then s.refusePacket queue 1
    else
      match frontRead s q.die q.cid (BitVec.ofNat 64 tab) (16 * n) with
      | .error (.fault va f a) =>
        (s.onDie q.die (fun d => { d with turn := queue, last := some s.now })).queueError queue 0x10 q.nextIndex (xlatDetail s q.cid f a va)
      | .error e => s.askFor q.die e
      | .ok t =>
        let conds := (List.range n).map (fun i => (BitVec.ofNat 64 (descNum t (16 * i) 8), BitVec.ofNat 64 (descNum t (16 * i + 8) 8)))
        if conds.any (fun c => 6 ≤ c.1.toNat % 8) then s.refusePacket queue 1
        else
          let s := s.takePacket queue
          let p : Packet := { packetFrom q k bs s.now with
            table := conds, tmo := 1024 * descNum bs 0x10 8, res := BitVec.ofNat 64 (descNum bs 0x18 8), tfail := specField bs / 16 % 2 == 1 }
          (s.addPacket queue p).onQueue queue (fun q => q.setPhase .blocked))

/-- WAIT_ALL (R339). -/
def execWaitAll (queue : Nat) (s : State) : Host.Outcome State Fault Refusal := .next (s.startWait queue 4 .waitAll)
/-- WAIT_ANY (R339). -/
def execWaitAny (queue : Nat) (s : State) : Host.Outcome State Fault Refusal := .next (s.startWait queue 5 .waitAny)

/-- Does a comparison hold of a signal's value (R339)? -/
def condHolds (code : Nat) (v c : DWord) : Bool :=
  match code with
  | 0 => v == c
  | 1 => v != c
  | 2 => c.toNat ≤ v.toNat
  | 3 => v.toNat < c.toNat
  | 4 => (v - c).toNat < 2 ^ 63
  | 5 => (v &&& c) != 0
  | _ => false

/-- Have enough of a wait's conditions latched to complete it (R340)? -/
def Packet.met (p : Packet) : Bool := if p.kind == .waitAny then !p.latched.isEmpty else p.latched.length == p.table.length

/-- Does the front end read a condition's signal now: at once at a local home, at its period at the host's or a package's
(R340)? -/
def readsNow (s : State) (p : Packet) (ps : List EPiece) : Bool :=
  ps.all (fun e => e.entry.home == 0#2) || (s.now - p.begun) % 16384 == 0

/-- The end of a wait once its result is written (R340). -/
def State.waitEnded (s : State) (queue : Nat) (p : Packet) (late : Bool) : State :=
  if late && p.tfail then
    let s := s.onQueue queue (fun q => { q with packets := q.packets.filter (fun y => y.index != p.index) })
    s.queueError queue 0x0D p.index 0
  else (s.onPacket queue p.index (fun y => { y with finished := true })).onQueue queue Queue.unblock

/-- A wait's result: RES, where it is named, and the end of the wait (R340). A fault drops the write of RES (DEDUCED, log entry 34);
a page that the host must grant, or a line that a command holds, is waited for. -/
def State.endWait (s : State) (queue : Nat) (p : Packet) (late : Bool) : State :=
  let bits := p.latched.foldl (fun x k => x ||| 2 ^ k) (if late then 2 ^ 63 else 0)
  let q := s.queue queue
  if p.res == 0 then s.waitEnded queue p late
  else
    match s.frontUpdate q.die q.cid p.res .engineWrite (fun _ => bits) with
    | .ok s' => s'.waitEnded queue p late
    | .error (.fault ..) => s.waitEnded queue p late
    | .error e => s.askFor q.die e

/-- CONDITION_LATCH (R340): a condition found holding latches; the wait completes with all of them, or with any one. -/
def execConditionLatch (queue k : Nat) (s : State) : Host.Outcome State Fault Refusal :=
  let q := s.queue queue
  .next (match q.packets.find? Packet.waits with
    | none => s
    | some p =>
      match p.table[k]? with
      | none => s
      | some c =>
        if p.met then s.endWait queue p false
        else if p.latched.contains k || (p.tmo != 0 && p.begun + p.tmo < s.now) then s
        else
          let s := s.flushStashes
          let va := c.1 &&& ~~~7#64
          match engineReach s (160 * q.die) q.cid .engineRead (runPieces va 8) with
          | .error e => s.askFor q.die e
          | .ok ps =>
            if !readsNow s p ps || (ownedLines ps).any s.isOwned then s
            else if condHolds (c.1.toNat % 8) (BitVec.ofNat 64 (leNat ((placesOf ps).map s.store.mem.byte))) c.2 then
              let p' := { p with latched := p.latched ++ [k] }
              let s := s.onPacket queue p.index (fun _ => p')
              if p'.met then s.endWait queue p' false else s
            else s)

/-- WAIT_TIMEOUT (R340). -/
def execWaitTimeout (queue : Nat) (s : State) : Host.Outcome State Fault Refusal :=
  .next (match (s.queue queue).packets.find? Packet.waits with
    | none => s
    | some p => if p.tmo != 0 && p.begun + p.tmo ≤ s.now && !p.met then s.endWait queue p true else s)

/-! ## OVERLAY (R341, R89, R90) -/

/-- A segment table in bytes, or none where it breaks R89. -/
def readSegments (n : Nat) (t : List Byte) : Option (List Segment) :=
  (List.range n).mapM (fun i =>
    let addr := descNum t (16 * i) 8
    let w := descNum t (16 * i + 8) 8
    let len := w % 2 ^ 14
    let next := w / 2 ^ 16 % 2 ^ 16
    if w / 2 ^ 32 != 0 || w / 2 ^ 14 % 4 != 0 || (next != 0xFFFF && n ≤ next) || len < 128 || 8192 < len || len % 128 != 0 || addr % 128 != 0 then none
    else some ({ addr := BitVec.ofNat 64 addr, next := next, len := len } : Segment))

/-- Does a context's partition own a glen core whose island is not withdrawn (R378, R384)? -/
def glenServes (s : State) (glen cid : Nat) : Bool :=
  (s.partOf cid).stackMask.getLsbD (4 * (glen / 16) + glen % 16 / 4) &&
    !(Sparse.look {} (128 * (glen / 16) + 112 + glen % 16) s.plat.islands).withdrawn

/-- The code of a program's segments as it stands at the start (R89): each that can be fetched, or why one must be waited for. -/
def codeOf (s : State) (die cid : Nat) : Nat → List Segment → Except EFail (List (Nat × List Byte))
  | _, [] => .ok []
  | i, x :: rest =>
    match codeOf s die cid (i + 1) rest with
    | .error e => .error e
    | .ok l =>
      match frontRead s die cid x.addr x.len .fetch with
      | .ok bs => .ok ((i, bs) :: l)
      | .error (.fault ..) => .ok l
      | .error e => .error e

/-- A glen core at the start of a program (R307, R341): its count of starts advanced, flags, GSTAT and scalar registers
cleared, no batch area built yet, the entry's segment filling. -/
def Glen.begin' (g : Glen) (now : Nat) (prog : GlenProgram) (cid entry : Nat) (args : DWord) (segs : List Segment)
    (code : List (Nat × List Byte)) : Glen :=
  let seg := entry / 8192
  let sl : Slice := { pc := BitVec.ofNat 64 entry, ready := now + 380 }
  let f : Frame := { valid := true, seg := seg, filling := true, since := now, due := now + 380 }
  let regs : Scalars := { s := Sparse.put 0 0 args [] }
  { g with ctx := { sca := regs, slices := [sl] }, cid := cid, flags := [], gstat := 0, cmds := [], starts := g.starts + 1, prog := prog, segs := segs,
           areas := [], code := code, demand := none, frames := Sparse.put {} (seg % 4) f [] }

/-- OVERLAY (R341). R78 does not name the Ibien agent that starts the program: the model takes that of core 0 of the glen core's die
(DESIGN CHOICE, log entry 55). -/
def execOverlay (queue : Nat) (s : State) : Host.Outcome State Fault Refusal :=
  .next (s.startPacket queue 6 (fun bs q s =>
    let nseg := descNum bs 0x20 4
    let stab := descNum bs 0x18 8
    let code : DWord := BitVec.ofNat 64 (descNum bs 0x10 8)
    let glen := overlayGlen bs
    if specField bs != 0 || descNum bs 8 8 % 8 != 0 then s.refusePacket queue 1
    else if stab % 16 != 0 || nseg == 0 || 4096 < nseg || 64 ≤ descNum bs 0x30 1 || descNum bs 0x31 15 != 0 || !glenServes s glen q.cid then
      s.refusePacket queue 0x0E
    else
      match frontRead s q.die q.cid code 128, frontRead s q.die q.cid (BitVec.ofNat 64 stab) (16 * nseg) with
      | .error (.fault ..), _ => s.refusePacket queue 0x0E
      | _, .error (.fault ..) => s.refusePacket queue 0x0E
      | .ok h, .ok t =>
        (match readSegments nseg t with
         | none => s.refusePacket queue 0x0E
         | some segs =>
           if !codeHeaderOk code h || descNum h 6 1 / 4 % 2 == 0 || !featuresOk h then s.refusePacket queue 0x0E
           else
             match codeOf s q.die q.cid 0 segs with
             | .error e => s.askFor q.die e
             | .ok code =>
               let s := s.takePacket queue
               let p : Packet := { packetFrom q .overlay bs s.now with sig := BitVec.ofNat 64 (descNum bs 8 8), glen := glen }
               let prog : GlenProgram := { running := true, queue := queue, packet := p.index, agent := 160 * (glen / 16) }
               (s.addPacket queue p).onGlen glen (fun g =>
                 g.begin' s.now prog q.cid (descNum bs 0x24 4) (BitVec.ofNat 64 (descNum bs 0x28 8)) segs code))
      | .error e, _ => s.askFor q.die e
      | _, .error e => s.askFor q.die e))

/-! ## Completion (R333, R334) -/

/-- The grid record of a LAUNCH freed (R346). -/
def State.freeGridOf (s : State) (queue index : Nat) : State :=
  let die := (s.queue queue).die
  s.onDie die (fun d => { d with grids := d.grids.filter (fun p => !(p.2.launch.queue == queue && p.2.launch.packet == index && p.2.phase == .closed)) })

/-- A packet whose work is done: its signal raised, its event posted. -/
def State.completePacket (s : State) (queue : Nat) (p : Packet) : State :=
  let gone (s : State) : State :=
    let s := s.onQueue queue (fun q => { q with packets := q.packets.filter (fun y => y.index != p.index) })
    if p.kind == .launch then s.freeGridOf queue p.index else s
  let tell (s : State) : State := if p.evt then s.queueRecord queue 0x25 0 (BitVec.ofNat 64 p.index) 0 else s
  if p.sig == 0 then tell (gone s)
  else
    match s.frontUpdate (s.queue queue).die (s.queue queue).cid p.sig .atomic (fun v => v + 1) with
    | .ok s' => tell (gone s')
    | .error (.fault ..) => (gone s).queueError queue 0x0B p.index 0
    | .error e => s.askFor (s.queue queue).die e

/-- PACKET_COMPLETE (R333, R334, R337): a copy moves its bytes; a packet whose work is done completes. -/
def execPacketComplete (queue index : Nat) (s : State) : Host.Outcome State Fault Refusal :=
  .next (match packetOf s queue index with
    | none => s
    | some p =>
      if p.finished then s.completePacket queue p
      else if p.kind == .copy && !p.paused then s.runCopy queue p
      else s)

end Sys2Proof.Machine
end

