-- ==== Sys2Proof/Machine/Mailbox.lean ====
section
/-! DEFINITION. The requests of the mailbox (R375) and what they set going: queues and event queues (R329, R376), context
descriptors (R11), shootdowns (R29, R30), drains and their resumption (R348, R349, R352), batch-forming queues (R326),
debug registers (R364), partitions (R378) and the answers to records (R359, R360).
Readings of the rules: DEDUCED, log entry 35. -/

namespace Sys2Proof.Machine

/-! ## Requests and responses (R375) -/

/-- The mailbox page of a function. -/
def State.mailbox (s : State) (fn : Nat) : Mailbox := Sparse.look {} fn s.host.mail
/-- A mailbox page changed. -/
def State.onMail (s : State) (fn : Nat) (f : Mailbox → Mailbox) : State :=
  s.onHost (fun h => { h with mail := Sparse.upd {} fn f h.mail })

/-- The response of a request that is done: status 0 done, 1 invalid, 2 refused, and its results. -/
def State.respond (s : State) (fn code status : Nat) (data : List Byte := []) : State :=
  s.onMail fn (fun _ => { code := code, status := status, data := data })

/-- Does Ibien run on some die (R2, R379)? -/
def ibienRuns (s : State) : Bool := (List.range 4).any (fun d => (s.die d).boot == .running)

/-- The core whose agent has the event of a host request: core 0 of the first die on which Ibien runs (R354; DESIGN CHOICE, log entry
62). -/
def requestCore (s : State) : Nat := 160 * (((List.range 4).find? (fun d => (s.die d).boot == .running)).getD 0)

/-- A request of a function, an event of class 6 of an agent (R354): not taken while its mailbox is busy, nor while Ibien, which acts
on it, runs nowhere (R2, R375). -/
def State.request (s : State) (fn : Nat) (f : State) : State :=
  if (s.mailbox fn).busy || 16 < fn || !ibienRuns s then s else f.pend (requestCore s) 6

/-- A request that Ibien goes on with: BUSY stays 1. -/
def State.keepBusy (s : State) (fn code : Nat) (w : MailWait) : State :=
  s.onMail fn (fun m => { m with code := code, busy := true, wait := some w })

/-- The 64-bit STAT register: BUSY (R375). -/
def Mailbox.stat (m : Mailbox) : DWord := if m.busy then 1 else 0

/-- A byte that the host reads from a mailbox page (R7, R375): REQ as it was last submitted, whose arguments the model holds as they
were given and not as bytes (free values, DESIGN CHOICE, log entry 60), RSP, BELL, which reads 0, and STAT. -/
def Mailbox.byte (m : Mailbox) (off : Nat) : Byte :=
  if off == 0 then BitVec.ofNat 8 m.code
  else if off < 0x40 then Config.requestByte m.code off
  else if off == 0x40 then BitVec.ofNat 8 m.status
  else if 0x48 ≤ off && off < 0x80 then m.data.getD (off - 0x48) 0
  else if 0x88 ≤ off && off < 0x90 then m.stat.extractLsb' (8 * (off - 0x88)) 8
  else 0

/-- Does the function have a partition's contexts: the physical function, or the virtual one of the partition (R374)? -/
def fnServes (fn part : Nat) : Bool := fn == 0 || fn == part + 1
/-- Does the function have a context? -/
def fnHas (s : State) (fn cid : Nat) : Bool := fnServes fn (s.context cid).part

/-- MAILBOX_INVALID_REQUEST (R375): any other code receives status 1. -/
def execMailboxInvalidRequest (fn code : Nat) (s : State) : Host.Outcome State Fault Refusal :=
  .next (if 1 ≤ code && code ≤ 0x0F then s else s.request fn (s.respond fn code 1))

/-! ## Queues (R329, R342, R376) -/

/-- Does a partition have a cluster or a stack on a die? -/
def partOnDie (p : Partition) (die : Nat) : Bool :=
  (List.range 20).any (fun k => p.clusters.getLsbD (20 * die + k)) || (List.range 4).any (fun k => p.stackMask.getLsbD (4 * die + k))

/-- The status of a queue descriptor (R329): the table's limits, then what it refuses. -/
def queueReqStatus (s : State) (fn : Nat) (r : QueueReq) : Nat :=
  let e := s.evq r.evq
  if r.ring.toNat % 64 != 0 || r.ridx.toNat % 8 != 0 || r.log2n < 4 || 20 < r.log2n || 7 < r.prio || 3 < r.die || r.reserved != 0 ||
      0xFFFF < r.cid then 1
  else if r.cid == 0 || r.cid == 0xFFFF || !(s.context r.cid).w0.getLsbD 0 || !fnHas s fn r.cid || !e.live || e.fn != fn then 2
  else if !partOnDie (s.partOf r.cid) r.die then 1
  else if 1024 ≤ (s.host.queues.filter (fun p => p.2.live && p.2.cid == r.cid)).length then 2
  else 0

/-- A drain of a context. -/
def State.drainOf (s : State) (cid : Nat) : Option Drain := s.host.drains.find? (fun d => d.cid == cid)

/-- CREATE_QUEUE (R329, R374): the queue takes the next kick page of its function; a drain of its context holds it. -/
def execCreateQueue (fn : Nat) (r : QueueReq) (s : State) : Host.Outcome State Fault Refusal :=
  .next (s.request fn (
    match queueReqStatus s fn r with
    | 0 =>
      let n := s.host.nextQueue
      let page := Sparse.look 0 fn s.host.pages
      let q : Queue := { live := true, fn := fn, page := page, ring := r.ring, ridx := r.ridx, cid := r.cid, log2n := r.log2n, prio := r.prio,
                         die := r.die, evq := r.evq,
                         phase := if (s.drainOf r.cid).isSome then .held else .active }
      let s := s.onHost (fun h => { h with queues := Sparse.put {} n q h.queues, nextQueue := n + 1, pages := Sparse.put 0 fn (page + 1) h.pages })
      s.respond fn 1 0 (leBytes 8 n)
    | k => s.respond fn 1 k))

/-- A request about a queue: an unknown one receives status 1, one of another partition status 2. -/
def State.queueRequest (s : State) (fn code queue : Nat) (f : Queue → State) : State :=
  s.request fn (
    let q := s.queue queue
    if !q.live then s.respond fn code 1 else if !fnHas s fn q.cid then s.respond fn code 2 else f q)

/-- DESTROY_QUEUE (R375): refused while a started packet has not completed (DEDUCED, log entry 30). -/
def execDestroyQueue (fn queue : Nat) (s : State) : Host.Outcome State Fault Refusal :=
  .next (s.queueRequest fn 2 queue (fun q =>
    if !q.packets.isEmpty then s.respond fn 2 2 else (s.onQueue queue (fun _ => {})).respond fn 2 0))

/-- Request 0x03 in each state of the queue (R342). -/
def State.recoverQueue (s : State) (fn queue : Nat) (f : State) : State :=
  match (s.queue queue).phase with
  | .active => s.respond fn 3 0
  | .error => f
  | _ => s.respond fn 3 2

/-- The queue is ACTIVE again, and the request done. -/
def State.queueActive (s : State) (fn queue : Nat) : State :=
  (s.onQueue queue (fun q => { q with phase := .active, cause := 0 })).respond fn 3 0

/-- WIDX, RDX and RIDX take a value (R342): a fault drops the write of RIDX with a notice, as R333 has it; a page that the host must
grant, or a line that a command holds, is waited for with the mailbox busy. -/
def State.resetIndexes (s : State) (fn queue : Nat) (value : DWord) : State :=
  let t := s.onQueue queue (fun q => { q with widx := value, rdx := value })
  let q := s.queue queue
  if q.ridx == 0 then t.queueActive fn queue
  else
    match t.frontUpdate q.die q.cid q.ridx .engineWrite (fun _ => value.toNat) with
    | .ok s' => s'.queueActive fn queue
    | .error (.fault ..) => (t.queueRecord queue 0x24 2 value 0).queueActive fn queue
    | .error e => (s.askFor q.die e).keepBusy fn 3 (.ridx queue value)

/-- RESET_QUEUE (R342): WIDX, RDX and RIDX take the value; a reset that has waited for RIDX goes on. -/
def execResetQueue (fn queue : Nat) (value : DWord) (s : State) : Host.Outcome State Fault Refusal :=
  .next (if (s.mailbox fn).wait == some (.ridx queue value) then s.recoverQueue fn queue (s.resetIndexes fn queue value)
    else s.queueRequest fn 3 queue (fun _ => s.recoverQueue fn queue (s.resetIndexes fn queue value)))

/-- RESUME_QUEUE (R342): the front end goes on from RDX. -/
def execResumeQueue (fn queue : Nat) (s : State) : Host.Outcome State Fault Refusal :=
  .next (s.queueRequest fn 3 queue (fun _ => s.recoverQueue fn queue (s.queueActive fn queue)))

/-- CREATE_EVENT_QUEUE (R376, R374). -/
def execCreateEventQueue (fn : Nat) (r : EventQueueReq) (s : State) : Host.Outcome State Fault Refusal :=
  .next (s.request fn (
    if r.base % 4096 != 0 || r.log2n < 4 || 16 < r.log2n || 2048 ≤ r.vector then s.respond fn 4 1
    else
      let n := s.host.nextEvq
      let e : EventQueue := { live := true, fn := fn, base := r.base, log2n := r.log2n, index := r.index, vector := r.vector }
      (s.onHost (fun h => { h with evqs := Sparse.put {} n e h.evqs, nextEvq := n + 1 })).respond fn 4 0 (leBytes 8 n)))

/-! ## Contexts and shootdowns (R11, R29, R30) -/

/-- Is a team of the context resident on a core, or claimed by its agent? -/
def contextOnCore (s : State) (c : Core) (cid : Nat) : Bool :=
  c.crew.teams.any (fun t => t.2.live && t.2.cid == cid) ||
    (match c.crew.claim with | some q => (s.grid q.die q.grid).launch.cid == cid | none => false)

/-- Is the context in use (R11): a team resident or claimed, or a started packet not complete? -/
def contextBusy (s : State) (cid : Nat) : Bool :=
  s.cores.any (fun p => contextOnCore s p.2 cid) || s.host.queues.any (fun p => p.2.live && p.2.cid == cid && !p.2.packets.isEmpty)

/-- A descriptor written. -/
def State.setContext (s : State) (cid : Nat) (w0 w1 : DWord) : State :=
  { s with contexts := Sparse.put {} cid { w0 := w0, w1 := w1 } s.contexts }

/-- WRITE_CONTEXT_DESCRIPTOR (R11): clearing V needs an idle context and waits for the shootdown of the whole context ID. -/
def execWriteContextDescriptor (fn cid : Nat) (w0 w1 : DWord) (s : State) : Host.Outcome State Fault Refusal :=
  .next (s.request fn (
    let old := s.context cid
    if 0xFFFF ≤ cid then s.respond fn 5 1
    else if (old.w0.getLsbD 0 && !fnServes fn old.part) || !fnServes fn ({ w0 := w0, w1 := w1 } : Context).part then s.respond fn 5 2
    else if old.w0.getLsbD 0 && !w0.getLsbD 0 then
      (if contextBusy s cid then s.respond fn 5 2
       else
         let id := s.host.nextShoot
         (s.startShoot (.context cid) (.mailbox fn)).keepBusy fn 5 (.clearV id cid w0 w1))
    else (s.setContext cid w0 w1).respond fn 5 0))

/-- SHOOTDOWN_REQUEST (R29, R375): answered once it is complete. -/
def execShootdownRequest (fn : Nat) (scope : ShootScope) (s : State) : Host.Outcome State Fault Refusal :=
  .next (s.request fn (
    let mine := match scope with | .all => fn == 0 | .context k => fnHas s fn k | .range k _ _ => fnHas s fn k
    if !mine then s.respond fn 6 2
    else
      let id := s.host.nextShoot
      (s.startShoot scope (.mailbox fn)).keepBusy fn 6 (.shoot id)))

/-! ## Partitions (R378) -/

/-- The start and end in GiB of a range of an entry, or none where a reserved bit is set. -/
def entryRange (r : BitVec 32) : Nat × Nat := ((r.extractLsb' 0 10).toNat, (r.extractLsb' 0 10).toNat + (r.extractLsb' 10 10).toNat + 1)

/-- The limits of a valid entry: bits, ranges inside one stack of its own. -/
def partEntryOk (e : PartEntry) : Bool :=
  e.clusters.toNat < 2 ^ 80 && e.reserved == 0 && 1 ≤ e.ranges.length && e.ranges.length ≤ 8 &&
    e.ranges.all (fun r =>
      let p := entryRange r
      r.toNat < 2 ^ 20 && p.2 ≤ 1024 && p.1 / 64 == (p.2 - 1) / 64 && e.stackMask.getLsbD (p.1 / 64))

/-- The ranges of every entry. -/
def tableRanges (es : List PartEntry) : List (Nat × Nat) := es.flatMap (fun e => e.ranges.map entryRange)

/-- Do no two of the ranges overlap? -/
def rangesApart : List (Nat × Nat) → Bool
  | [] => true
  | x :: xs => xs.all (fun y => x.2 ≤ y.1 || y.2 ≤ x.1) && rangesApart xs

/-- Do no two entries share a cluster or a stack? -/
def entriesApart : List PartEntry → Bool
  | [] => true
  | e :: es => es.all (fun f => e.clusters &&& f.clusters == 0 && e.stackMask &&& f.stackMask == 0) && entriesApart es

/-- The valid entries of a table. -/
def validEntries (t : List PartEntry) : List PartEntry := t.filter (fun e => e.clusters != 0)

/-- A table that breaks no rule of R378. -/
def tableOk (t : List PartEntry) : Bool :=
  let v := validEntries t
  t.length == 16 && v.all partEntryOk && entriesApart v && rangesApart (tableRanges v)

/-- The partition that an entry describes; none where it is not valid. -/
def partOfEntry (e : PartEntry) : Partition :=
  if e.clusters == 0 then {}
  else { clusters := e.clusters, stackMask := e.stackMask, ranges := e.ranges.map (fun r => let p := entryRange r; (p.1 * 2 ^ 30, p.2 * 2 ^ 30)) }

/-- The partitions that the table changes. -/
def changedParts (s : State) (t : List PartEntry) : List Nat :=
  (List.range 16).filter (fun k =>
    let old := Sparse.look {} k s.partitions
    old.clusters != 0 && old != partOfEntry (t.getD k { clusters := 0, stackMask := 0, ranges := [], reserved := 0 }))

/-- Does a partition hold a byte of memory? -/
def holdsPlace (p : Partition) (a : Nat) : Bool := p.ranges.any (fun r => r.1 ≤ a && a < r.2)

/-- Ranges newly assigned written with zero (R378, R385). -/
def State.zeroNew (s : State) (old new : Sparse Partition) : State :=
  let fresh (a : Nat) : Bool :=
    a < hbmSize && (List.range 16).any (fun k => holdsPlace (Sparse.look {} k new) a && !holdsPlace (Sparse.look {} k old) a)
  s.onStore (fun m => { m with mem := m.mem.filter (fun p => !fresh p.1), poison := m.poison.filter (fun p => !fresh (32 * p.1)) })

/-- The partition that owns a stack; 16 for none. -/
def stackOwner (ps : Sparse Partition) (k : Nat) : Nat := ((List.range 16).find? (fun p => (Sparse.look {} p ps).stackMask.getLsbD k)).getD 16

/-- An entry appended to a die's attestation log, and its running digest (R380). -/
def Die.measure (d : Die) (e : List Byte) : Die := { d with log := d.log ++ [e], digest := Config.shake256 (d.digest ++ e) }

/-- The bytes of a partition table as the attestation log measures it. -/
def tableBytes (t : List PartEntry) : List Byte :=
  t.flatMap (fun e => padTo 64 (padTo 32 (leBytes 16 e.clusters.toNat ++ leBytes 2 e.stackMask.toNat ++ leBytes 1 e.ranges.length) ++
    e.ranges.flatMap (fun r => leBytes 4 r.toNat)))

/-- A partition table takes effect (R86, R377, R378, R380): with it Ibien configures the domain, of a number of packages that no rule
gives (a free value, DESIGN CHOICE, log entry 21); lines that lose their pinning stay as ordinary ones. -/
def State.applyTable (s : State) (t : List PartEntry) : State :=
  let old := s.partitions
  let new := ((List.range 16).zip t).foldl (fun m (p : Nat × PartEntry) => Sparse.put {} p.1 (partOfEntry p.2) m) old
  let s := s.zeroNew old new
  let moved (slice : Nat) : Bool := stackOwner old (slice / 8) != stackOwner new (slice / 8)
  let sl := (List.range 128).foldl (fun m k =>
    if moved k then Sparse.upd {} k (fun (x : MemSlice) => { x with pinned := [], counters := [] }) m else m) s.slices
  let unpinned := ((List.range 128).filter moved).flatMap (fun k => (Sparse.look {} k s.slices).pinned)
  let s := { s with partitions := new, slices := sl, domain := 1 + Config.domainPackages s.free % 1024, free := s.free + 1 }
  let s := unpinned.foldl (fun s l => s.keepL2 l false) s
  (List.range 4).foldl (fun s d => if (s.die d).boot == .running then s.onDie d (fun d => d.measure (tableBytes t)) else s) s

/-! ## Drains (R348, R349, R352) -/

/-- A drain changed. -/
def State.onDrain (s : State) (cid : Nat) (f : Drain → Drain) : State :=
  s.onHost (fun h => { h with drains := h.drains.map (fun d => if d.cid == cid then f d else d) })

/-- Every grid of a context changed. -/
def State.onGridsOf (s : State) (cid : Nat) (f : Grid → Grid) : State :=
  { s with dies := s.dies.map (fun d => (d.1, { d.2 with grids := d.2.grids.map (fun g =>
    if g.2.live && g.2.launch.cid == cid then (g.1, f g.2) else g) })) }

/-- The claimed teams of a context placed where they fit, or recorded as unstarted (R348). -/
def State.settleClaims (s : State) (cid : Nat) : State :=
  s.cores.foldl (fun s p =>
    match (s.core p.1).crew.claim with
    | none => s
    | some q =>
      if (s.grid q.die q.grid).launch.cid != cid then s
      else
        match s.placeClaim p.1 with
        | some s' => s'
        | none => (s.onGrid q.die q.grid (fun g => { g with saves := g.saves ++ [.unstarted q.t] })).setClaim p.1 none) s

/-- A drain set going (R348). -/
def State.beginDrain (s : State) (d : Drain) : State :=
  let s := s.onHost (fun h => { h with
    drains := h.drains ++ [d]
    queues := h.queues.map (fun p => if p.2.live && p.2.cid == d.cid && p.2.phase != .held then (p.1, { p.2 with before := p.2.phase, phase := .held }) else p) })
  (s.onGridsOf d.cid (fun g => if g.phase == .open' then { g with phase := .draining } else g)).settleClaims d.cid

/-- DRAIN_REQUEST (R348). -/
def execDrainRequest (fn : Nat) (r : DrainReq) (s : State) : Host.Outcome State Fault Refusal :=
  .next (s.request fn (
    let limit := if r.limit == 0 then 800000 else r.limit
    if r.area.toNat % 4096 != 0 || limit < 1600 || 1600000000 < limit || r.cid == 0 || 0xFFFF ≤ r.cid then s.respond fn 7 1
    else if !fnHas s fn r.cid || (s.drainOf r.cid).isSome then s.respond fn 7 2
    else (s.beginDrain { cid := r.cid, fn := fn, area := r.area, size := r.size, limit := limit, begun := s.now }).respond fn 7 0))

/-- The resident teams of a context, as core and team. -/
def teamsOf (s : State) (cid : Nat) : List (Nat × Nat) :=
  s.cores.flatMap (fun p => (p.2.crew.teams.filter (fun t => t.2.live && t.2.cid == cid)).map (fun t => (p.1, t.1)))

/-- A grid that a drain has emptied: SAVED while teams of it remain to run, else left to complete (R349). -/
def settleGrid (g : Grid) : Grid :=
  if g.phase == .draining && (g.ticket < g.teams || !g.saves.isEmpty) then { g with phase := .saved } else g

/-- Has every team of a context retired or been saved? -/
def contextEmpty (s : State) (cid : Nat) : Bool := !s.cores.any (fun p => contextOnCore s p.2 cid)

/-- The grids of a drained context settled, once every team of it has retired or been saved:
all together, not each once its own teams have (DEDUCED, log entry 35). -/
def State.settleGrids (s : State) (cid : Nat) : State := if contextEmpty s cid then s.onGridsOf cid settleGrid else s

/-- One resident team saved into the drain's area, where it is ready and fits (R349). Its stores
are finished first. One that does not fit, or whose image cannot be written, stays resident with its issue stopped, and an event
tells of it once. -/
def State.saveInto (s : State) (cid core team : Nat) : State :=
  match s.drainOf cid with
  | none => s
  | some d =>
    let s := s.onCore core (fun c => c.onTeam team (fun t => { t with parked := true }))
    let s := s.finishStores core (teamGroups (s.core core) team)
    let t := (s.core core).team team
    let key := 16 * core + team
    let tell (x : Stop) (s : State) : State :=
      if d.told.contains key then s
      else (s.onDrain cid (fun d => { d with told := d.told ++ [key] })).teamEvent core t.queue cid x
    let need := (teamSizes (s.core core) team).2
    if d.size < d.cursor + need then tell { code := 0x22 } s
    else
      let va := d.area + BitVec.ofNat 64 d.cursor
      match s.saveTeam core team cid va with
      | .ok (n, s') =>
        (s'.onDrain cid (fun d => { d with cursor := d.cursor + (n + 4095) / 4096 * 4096, images := d.images ++ [va] })).onGrid t.die t.grid
          (fun g => { g with saves := g.saves ++ [.image va] })
      | .error (.fault a f k) => tell { code := 0x22, xlat := xlatDetail s cid f k a } s
      | .error e => s.askFor (dieOfCore core) e

/-- DRAIN_TIMEOUT (R349): once the limit has passed the agents save every resident team, each as soon as it is ready. -/
def execDrainTimeout (cid : Nat) (s : State) : Host.Outcome State Fault Refusal :=
  .next (match s.drainOf cid with
    | none => s
    | some d =>
      if d.complete || s.now < d.begun + d.limit then s
      else
        let s := s.onDrain cid (fun d => { d with forced := true })
        ((teamsOf s cid).foldl (fun s p => s.saveInto cid p.1 p.2) s).settleGrids cid)

/-- The glen programs of a context that still run. -/
def programsOf (s : State) (cid : Nat) : List Nat := (s.glens.filter (fun p => p.2.prog.running && p.2.cid == cid)).map Prod.fst

/-- Does a COPY of the context run? -/
def copiesRun (s : State) (cid : Nat) : Bool :=
  s.host.queues.any (fun q => q.2.live && q.2.cid == cid && q.2.packets.any (fun p => p.kind == .copy && !p.finished))

/-- The partitions' table taken up once its contexts are drained: the shootdowns of each, then the table (R378). -/
def State.shootFor (s : State) (fn : Nat) (cids : List Nat) (t : List PartEntry) : State :=
  let first := s.host.nextShoot
  let s := cids.foldl (fun s c => s.startShoot (.context c) (.mailbox fn)) s
  s.keepBusy fn 0x0E (.shoots ((List.range cids.length).map (fun i => first + i)) t)

/-- A change of partitions that waits for drains goes on once all of them are complete. -/
def State.drainsDone (s : State) : State :=
  s.host.mail.foldl (fun s m =>
    match m.2.wait with
    | some (.drains cids t) =>
      if cids.all (fun c => match s.drainOf c with | some d => d.complete | none => true) then s.shootFor m.1 cids t else s
    | _ => s) s

/-- DRAIN_COMPLETE (R348): the drain's record is kept with the glen programs still running (DEDUCED, log entry 29). -/
def execDrainComplete (cid : Nat) (s : State) : Host.Outcome State Fault Refusal :=
  .next (match s.drainOf cid with
    | none => s
    | some d =>
      if d.complete || !contextEmpty s cid || copiesRun s cid then s
      else ((s.settleGrids cid).onDrain cid (fun d => { d with complete := true, programs := programsOf s cid })).drainsDone)

/-- RESUME_AFTER_DRAIN (R352): the context's queues leave HELD and its SAVED grids are OPEN again. -/
def execResumeAfterDrain (fn cid : Nat) (s : State) : Host.Outcome State Fault Refusal :=
  .next (s.request fn (
    match s.drainOf cid with
    | none => s.respond fn 8 1
    | some d =>
      if !fnHas s fn cid || !d.complete then s.respond fn 8 2
      else
        let s := s.onHost (fun h => { h with
          drains := h.drains.filter (fun x => x.cid != cid)
          queues := h.queues.map (fun p => if p.2.live && p.2.cid == cid && p.2.phase == .held then (p.1, { p.2 with phase := p.2.before, before := .active }) else p) })
        (s.onGridsOf cid (fun g => if g.phase == .saved then { g with phase := .open' } else g)).respond fn 8 0))

/-- SAVE_AREA_SUPPLY (R349): the driver adds room, and the teams that did not fit are tried again. -/
def execSaveAreaSupply (cid bytes : Nat) (s : State) : Host.Outcome State Fault Refusal :=
  .next (s.onDrain cid (fun d => { d with size := d.size + bytes, told := [] }))

/-- CONFIGURE_PARTITIONS (R378): from the physical function only; a table that changes a partition in use first drains and
shoots down its contexts. -/
def execConfigurePartitions (fn : Nat) (table : List PartEntry) (s : State) : Host.Outcome State Fault Refusal :=
  .next (s.request fn (
    if fn != 0 then s.respond fn 0x0E 2
    else if !tableOk table then s.respond fn 0x0E 1
    else
      let parts := changedParts s table
      let cids := (s.contexts.filter (fun p => p.2.w0.getLsbD 0 && parts.contains p.2.part)).map Prod.fst
      if cids.isEmpty then (s.applyTable table).respond fn 0x0E 0
      else
        let s := cids.foldl (fun s c =>
          if (s.drainOf c).isSome then s else s.beginDrain { cid := c, fn := fn, area := 0, size := 0, limit := 800000, begun := s.now }) s
        s.keepBusy fn 0x0E (.drains cids table)))

/-! ## The end of a shootdown (R30, R254) -/

/-- What a mailbox does once a shootdown that it waits for is complete. -/
def State.shootDone (s : State) (fn id : Nat) : State :=
  match (s.mailbox fn).wait with
  | some (.shoot k) => if k == id then s.respond fn 6 0 else s
  | some (.clearV k cid w0 w1) => if k == id then (s.setContext cid w0 w1).respond fn 5 0 else s
  | some (.shoots ids t) =>
    let rest := ids.filter (fun k => k != id)
    if rest.isEmpty then (s.applyTable t).respond fn 0x0E 0 else s.keepBusy fn 0x0E (.shoots rest t)
  | _ => s

/-- SHOOTDOWN_COMPLETE (R30): the last structure has acknowledged; its source goes on. -/
def execShootdownComplete (id : Nat) (s : State) : Host.Outcome State Fault Refusal :=
  .next (match s.host.shoots.find? (fun x => x.id == id) with
    | none => s
    | some x =>
      if !ackUnits.all x.acks.contains then s
      else
        let s := s.onHost (fun h => { h with shoots := h.shoots.filter (fun y => y.id != id) })
        match x.source with
        | .agent core => s.wakeTlbi core
        | .mailbox fn => s.shootDone fn id
        | .host => s)

/-! ## Batch-forming queues, tolerance, debug registers -/

/-- CONFIGURE_BFQ (R326). -/
def execConfigureBfq (fn die queue : Nat) (r : BfqReq) (s : State) : Host.Outcome State Fault Refusal :=
  .next (s.request fn (
    let old := s.bfq die queue
    if 3 < die || 63 < queue || r.stab.toNat % 16 != 0 || r.nslot == 0 || 65536 < r.nslot || r.rl < 4 || 4096 < r.rl || r.rl % 4 != 0 ||
        r.cap == 0 || 4096 < r.cap || r.reserved != 0 || 0xFFFF < r.cid then s.respond fn 9 1
    else if !fnHas s fn r.cid || (old.on && !fnHas s fn old.cid) then s.respond fn 9 2
    else
      (s.onBfq die queue (fun _ => { on := true, stab := r.stab, nslot := r.nslot, rl := r.rl, cid := r.cid, cap := r.cap, drops := r.drops })).respond
        fn 9 0))

/-- LATENCY_TOLERANCE (R383). -/
def execLatencyTolerance (fn part cycles : Nat) (s : State) : Host.Outcome State Fault Refusal :=
  .next (s.request fn (
    if 15 < part || 2 ^ 32 ≤ cycles then s.respond fn 0x0A 1
    else if !fnServes fn part then s.respond fn 0x0A 2
    else { s with plat := { s.plat with tolerance := Sparse.put 40 part cycles s.plat.tolerance } }.respond fn 0x0A 0))

/-- Is the number one of the debug registers (R364)? -/
def isDebugReg (n : Nat) : Bool := n == 0x104 || n == 0x105 || (0x108 ≤ n && n ≤ 0x113) || (0x118 ≤ n && n ≤ 0x11B)

/-- Does the write enable a breakpoint, a watchpoint or the trace that was not enabled? -/
def enablesDebug (a : Agent) (n : Nat) (x : DWord) : Bool :=
  ((0x108 ≤ n && n ≤ 0x10B) || (0x110 ≤ n && n ≤ 0x113) || n == 0x11B) && x.getLsbD 0 && !(agentReg a n).getLsbD 0

/-- WRITE_DEBUG_REGISTERS (R364, R380). -/
def execWriteDebugRegisters (fn core num : Nat) (value : DWord) (s : State) : Host.Outcome State Fault Refusal :=
  .next (s.request fn (
    let part := (List.range 16).find? (fun k => (Sparse.look {} k s.partitions).clusters.getLsbD (clusterOf core))
    if 640 ≤ core || !isDebugReg num then s.respond fn 0x0D 1
    else if fn != 0 && part.map (fun k => k + 1) != some fn then s.respond fn 0x0D 2
    else
      let on := enablesDebug (s.core core).agent num value
      let s := s.onCore core (fun c => { c with agent := writeAgentReg c.agent num value })
      let s := if on then s.onDie (dieOfCore core) (fun d => d.measure (leBytes 4 core ++ leBytes 4 num ++ leBytes 8 value.toNat)) else s
      s.respond fn 0x0D 0))

/-! ## Answers (R359, R360, R375) -/

/-- The outstanding record of a name. -/
def outstanding (s : State) (r : RecordName) : Option Outstanding := s.host.outs.find? (fun o => o.name == r && o.answer.isNone)

/-- An answer: status 1 where the record is not outstanding or the answer is not accepted for its cause, 2 where it is of
another partition. -/
def State.answer (s : State) (fn : Nat) (r : RecordName) (accepts : Outstanding → Bool) (f : Outstanding → State → State) : State :=
  s.request fn (
    match outstanding s r with
    | none => s.respond fn 0x0F 1
    | some o =>
      if !fnHas s fn o.cid then s.respond fn 0x0F 2
      else if !accepts o then s.respond fn 0x0F 1
      else (f o (s.onHost (fun h => { h with outs := h.outs.filter (fun x => x != o) }))).respond fn 0x0F 0)

/-- Is it a replayable fault, a TRAP, or a debug stop? -/
def retryable (o : Outstanding) : Bool := (o.code == causeTranslation && o.rpl) || o.code == causeTrap || isDebugStop o.code

/-- A command whose fault is answered goes on. -/
def State.retryCmd (s : State) (core id : Nat) : State :=
  let s := s.onCmd core id (fun d => { d with paused := none })
  match (s.core core).cmd id with
  | some d => if isBfq d.op && d.phase == .started then s.bfqStart core d else s
  | none => s

/-- ANSWER_RETRY (R78, R136, R252, R360, R365): a faulting bundle or a paused command replays, a stopped gang resumes. -/
def execAnswerRetry (fn : Nat) (r : RecordName) (s : State) : Host.Outcome State Fault Refusal :=
  .next (s.answer fn r retryable (fun o s =>
    match o.about with
    | .gang w ks =>
      let s := s.resumeGang w ks (isDebugStop o.code)
      (match w with | .gang a => if o.code == causeTranslation then s.thaw a.core a.bank else s | .glen _ => s)
    | .cmd core id => s.retryCmd core id
    | .glenCmd n id => s.onGlenCmd n id (fun d => { d with paused := none })
    | .packet q i => s.onPacket q i (fun p => { p with paused := false })
    | .saved .. => s.onHost (fun h => { h with outs := h.outs ++ [{ o with answer := some true }] })))

/-- A glen program ended by an answer: its paused commands end on their faults (R78). -/
def State.abortGlen (s : State) (n : Nat) : State :=
  let paused := (s.glen n).cmds.filter (fun d => d.paused.isSome)
  let s := s.onHost (fun h => { h with outs := h.outs.filter (fun o =>
    match o.about with | .glenCmd k _ => k != n | .gang (.glen k) _ => k != n | _ => true) })
  paused.foldl (fun s d => s.glenFinish n d [] true) (s.endGlen n true)

/-- ANSWER_END (R358, R78): the team ends, or the glen program; a COPY ends as on a fault that is not replayable. -/
def execAnswerEnd (fn : Nat) (r : RecordName) (s : State) : Host.Outcome State Fault Refusal :=
  .next (s.answer fn r (fun o => retryable o || o.code == causeStackLimit) (fun o s =>
    match o.about with
    | .gang w _ =>
      (match w with
       | .gang a => s.endTeam a.core (teamKey w (s.groupOf w)) { code := o.code }
       | .glen n => s.abortGlen n)
    | .cmd core id =>
      (match (s.core core).cmd id with
       | some d => (s.finishCmd core d true).endTeam core d.team { code := o.code }
       | none => s)
    | .glenCmd n _ => s.abortGlen n
    | .packet q i =>
      let s := (s.disown (copyUnit q) i).onQueue q (fun x => { x with packets := x.packets.filter (fun y => y.index != i) })
      s.queueError q 0x0C i 0
    | .saved .. => s.onHost (fun h => { h with outs := h.outs ++ [{ o with answer := some false }] })))

/-- ANSWER_LIM (R359): the group's LIM takes the value and the stopped bundle replays. -/
def execAnswerLim (fn : Nat) (r : RecordName) (lim : Word) (s : State) : Host.Outcome State Fault Refusal :=
  .next (s.answer fn r (fun o => o.code == causeStackLimit) (fun o s =>
    match o.about with
    | .gang w ks => (s.onGroup w (fun g => { g with win := { g.win with lim := lim } })).resumeGang w ks false
    | _ => s))

end Sys2Proof.Machine
end

