-- ==== Sys2Proof/Machine/Platform.lean ====
section
/-! DEFINITION. The platform: package reset, boot and attestation (R379 to R381, R385), soft errors and scrubbing (R72 to R74),
islands (R382 to R384), links and modules (R374, R377), fuses and power.
Readings of the rules: DESIGN CHOICE, log entry 36. Readings of the rules: DEDUCED, log entry 46. -/

namespace Sys2Proof.Machine

/-! ## Boot (R379, R380, R385) -/

/-- The slot that verifies an image: a customer key slot's number, or 4 for the vendor key unless it is revoked. -/
def verifyingSlot (p : Platform) (image : List Byte) : Option Nat :=
  if !Config.xmssVerifies image then none
  else if Config.imageKeyHash image == Config.vendorKeyHash && !p.revoked then some 4
  else (List.range 4).find? (fun k => p.keys.any (fun x => x.1 == k && x.2 == Config.imageKeyHash image))

/-- A die after its boot ROM has run: it runs Ibien, its attestation log begun, or nothing. -/
def bootDie (p : Platform) : Die :=
  match verifyingSlot p Config.bootImage with
  | some k => ({ boot := .running } : Die).measure (Config.romVersion ++ Config.shake256 Config.bootImage ++ leBytes 1 k)
  | none => { boot := .failed }

/-- PACKAGE_RESET (R379, R385): every register, cache and memory of the package as after reset; the fuses, the flash and the
memory outside the package stay. -/
def execPackageReset (s : State) : Host.Outcome State Fault Refusal :=
  let p : Platform := { keys := s.plat.keys, revoked := s.plat.revoked, quote := s.plat.quote }
  let outside (a : Nat) : Bool := 2 ^ 60 ≤ a
  let store : Store := { mem := s.store.mem.filter (fun x => outside x.1), poison := s.store.poison.filter (fun x => outside (32 * x.1)) }
  let dies := (List.range 4).foldl (fun m k => Sparse.put {} k (bootDie p) m) []
  .next { State.reset with store := store, plat := p, dies := dies, free := s.free, agenda := s.agenda }

/-- CUSTOMER_KEY_SLOT_PROVISION (R379): a slot is written once. -/
def execCustomerKeySlotProvision (slot : Nat) (hash : List Byte) (s : State) : Host.Outcome State Fault Refusal :=
  .next (if slot < 4 && hash.length == 32 && !s.plat.keys.any (fun p => p.1 == slot) then
      { s with plat := { s.plat with keys := Sparse.put [] slot hash s.plat.keys } }
    else s)

/-- VENDOR_KEY_REVOCATION (R379). -/
def execVendorKeyRevocation (s : State) : Host.Outcome State Fault Refusal := .next { s with plat := { s.plat with revoked := true } }

/-- POWER_FAILURE (R381): nothing runs until the next package reset; the flash keeps its index. -/
def execPowerFailure (s : State) : Host.Outcome State Fault Refusal := .next { s with plat := { s.plat with power := false } }

/-- The highest one-time index that a quote may use (R381). -/
def lastQuote : Nat := 1048575

/-- ATTESTATION_QUOTE (R381): the index advances on flash before the signature with the old one is released. -/
def execAttestationQuote (fn : Nat) (nonce : List Byte) (s : State) : Host.Outcome State Fault Refusal :=
  .next (s.request fn (
    let i := s.plat.quote
    if nonce.length != 32 then s.respond fn 0x0B 1
    else if lastQuote < i then s.respond fn 0x0B 2
    else
      let digests := (List.range 4).flatMap (fun d => (s.die d).digest)
      let logs := (List.range 4).flatMap (fun d => (s.die d).log.flatMap id)
      { s with plat := { s.plat with quote := i + 1 } }.respond fn 0x0B 0 (logs ++ digests ++ Config.xmssSign i (nonce ++ digests))))

/-! ## Islands (R382 to R384) -/

/-- An island. -/
def State.island (s : State) (k : Nat) : Island := Sparse.look {} k s.plat.islands
/-- An island changed. -/
def State.onIsland (s : State) (k : Nat) (f : Island → Island) : State :=
  { s with plat := { s.plat with islands := Sparse.upd {} k f s.plat.islands } }

/-- The cores, the memory slice or the glen core of an island (DESIGN CHOICE, log entry 32): 128 to a die, 80 for its core pairs, 32 for its
slices, 16 for its glen cores. -/
def islandCores (k : Nat) : List Nat := if k % 128 < 80 then [160 * (k / 128) + 2 * (k % 128), 160 * (k / 128) + 2 * (k % 128) + 1] else []
def islandSlice (k : Nat) : Option Nat := if 80 ≤ k % 128 && k % 128 < 112 then some (32 * (k / 128) + k % 128 - 80) else none
def islandGlen (k : Nat) : Option Nat := if 112 ≤ k % 128 then some (16 * (k / 128) + k % 128 - 112) else none

/-- The partition that an island is assigned to. -/
def islandPart (s : State) (k : Nat) : Option Nat :=
  (List.range 16).find? (fun p =>
    let x := Sparse.look {} p s.partitions
    if k % 128 < 80 then x.clusters.getLsbD (20 * (k / 128) + k % 128 / 4)
    else if k % 128 < 112 then x.stackMask.getLsbD (4 * (k / 128) + (k % 128 - 80) / 8)
    else x.stackMask.getLsbD (4 * (k / 128) + (k % 128 - 112) / 4))

/-- Has a core work: a team resident or claimed, commands, stores or fills under way, or an agent's program? -/
def coreWorks (c : Core) : Bool :=
  c.crew.claim.isSome || c.crew.teams.any (fun t => t.2.live) || !c.cmds.isEmpty || !c.caches.stores.isEmpty || !c.caches.wc.isEmpty || !c.caches.fills.isEmpty ||
    (c.agent.program && !c.agent.halted)

/-- Is work present on an island? -/
def islandWorks (s : State) (k : Nat) : Bool :=
  (islandCores k).any (fun c => coreWorks (s.core c)) || (match islandGlen k with | some g => (s.glen g).prog.running | none => false)

/-- The deepest state whose exit latency a tolerance allows; islands of no partition, and withdrawn ones, are GATED. -/
def restState (s : State) (k : Nat) : IslandPhase :=
  match islandPart s k with
  | none => .gated
  | some p =>
    let t := Sparse.look 40 p s.plat.tolerance
    if (s.island k).withdrawn || 80000 ≤ t then .gated else if 3200 ≤ t then .retain else if 40 ≤ t then .clockstop else .run

/-- May an island be gated: no live L2 data of its slice? -/
def mayGate (s : State) (k : Nat) : Bool :=
  match islandSlice k with
  | some j => (s.island k).withdrawn || (!s.store.l2.any (fun p => p.2 && homeSlice p.1 == j) && (Sparse.look {} j s.slices).pinned.isEmpty)
  | none => true

/-- The TLBs and caches of an island cleared. -/
def State.clearIsland (s : State) (k : Nat) : State :=
  let s := (islandCores k).foldl (fun s c => s.onCore c (fun x => { x with caches := { x.caches with icache := [], l1 := [], l1own := [], tlb := [] } })) s
  match islandGlen k, islandSlice k with
  | some g, _ => s.onGlen g (fun x => { x with tlb := [] })
  | none, some j => { s with tlbs := Sparse.put [] (128 + j) [] s.tlbs }
  | none, none => s

/-- ISLAND_IDLE (R382, R383): an island without work for 1,024 cycles rests in the deepest state that its partition
tolerates. -/
def execIslandIdle (island : Nat) (s : State) : Host.Outcome State Fault Refusal :=
  .next (
    let x := s.island island
    let rest := restState s island
    let rest := if rest == .gated && !mayGate s island then .retain else rest
    if 512 ≤ island || islandWorks s island || x.wakes != 0 || (x.phase == .run && s.now < x.since + 1024) || exitLatency rest ≤ exitLatency x.phase then s
    else
      let s := if rest == .gated then s.clearIsland island else s
      s.onIsland island (fun x => { x with phase := rest, wakes := 0 }))

/-- Must an island leave its state: work is present on it, an access has asked for it, or the tolerance of its partition no longer
allows so deep a state (R383)? -/
def mustWake (s : State) (k : Nat) : Bool :=
  let x := s.island k
  islandWorks s k || x.wakes != 0 || decide (exitLatency (restState s k) < exitLatency x.phase)

/-- ISLAND_WAKE (R382, R383): an island of a partition that must leave its state does; it runs once the exit latency has passed. -/
def execIslandWake (island : Nat) (s : State) : Host.Outcome State Fault Refusal :=
  .next (
    let x := s.island island
    if 512 ≤ island || x.phase == .run || !mustWake s island || x.withdrawn || (islandPart s island).isNone then s
    else if x.wakes == 0 then s.onIsland island (fun x => { x with wakes := s.now + exitLatency x.phase })
    else if x.wakes ≤ s.now then s.onIsland island (fun x => { x with phase := .run, wakes := 0, since := s.now })
    else s)

/-- The cycle since which each running island has been idle brought up to the present. -/
def State.tickIslands (s : State) : State :=
  { s with plat := { s.plat with islands := s.plat.islands.map (fun p =>
    if p.2.phase == .run && islandWorks s p.1 then (p.1, { p.2 with since := s.now }) else p) } }

/-- Does a core's island run? -/
def coreAwake (s : State) (core : Nat) : Bool := (s.island (128 * (core / 160) + core % 160 / 2)).phase == .run
/-- Does a glen core's island run? -/
def glenAwake (s : State) (n : Nat) : Bool := (s.island (128 * (n / 16) + 112 + n % 16)).phase == .run

/-- AGEING_MONITOR (R384): the supply rises to what the island needs; a prediction below 720 hours is told; an island that
needs more than 750 mV is withdrawn, and gated once it has no work. -/
def execAgeingMonitor (island needMv hours : Nat) (s : State) : Host.Outcome State Fault Refusal :=
  .next (if 512 ≤ island then s
    else
      let agent := 160 * (island / 128)
      let aux : DWord := BitVec.ofNat 64 island
      let over' := 750 < needMv
      let s := s.onIsland island (fun x =>
        { x with supply := Nat.max x.supply (Nat.max 450 (Nat.min 750 needMv)), life := hours, withdrawn := x.withdrawn || over' })
      let s := if over' && !islandWorks s island then (s.clearIsland island).onIsland island (fun x => { x with phase := .gated, wakes := 0 }) else s
      if over' || hours < 720 then s.agentEvent agent 0x22 aux 0 else s)

/-- HEALTH_REPORT (R384): supply, corrected errors and predicted life of each island of the function's partition. -/
def execHealthReport (fn : Nat) (s : State) : Host.Outcome State Fault Refusal :=
  .next (s.request fn (
    let mine := (List.range 512).filter (fun k => match islandPart s k with | some p => fnServes fn p | none => fn == 0)
    let count (k : Nat) : Nat := (s.plat.errors.filter (fun p => p.1 / 2 ^ 64 == k)).foldl (fun n p => n + p.2) 0
    s.respond fn 0x0C 0 (mine.flatMap (fun k => leBytes 4 (s.island k).supply ++ leBytes 8 (count k) ++ leBytes 4 (s.island k).life))))

/-! ## Soft errors (R72 to R74) -/

/-- The structure, island and location of an error, as one number. -/
def eccKey (p : EccPlace) : Nat :=
  let core (k n : Nat) : Nat := (128 * (k / 160) + k % 160 / 2) * 2 ^ 64 + n
  let home (g : Nat) : Nat := let h := homeSlice (32 * g); (128 * (h / 32) + 80 + h % 32) * 2 ^ 64 + g
  match p with
  | .laneReg g r l => core g.core (2 ^ 60 + ((16 * g.bank + g.slot) * 1024 + r) * 32 + l)
  | .scalarReg g n => core g.core (2 * 2 ^ 60 + (16 * g.bank + g.slot) * 32 + n)
  | .scratch k w => core k (3 * 2 ^ 60 + w)
  | .tile k e => core k (4 * 2 ^ 60 + e)
  | .l1 k l => core k (5 * 2 ^ 60 + l)
  | .icache k l => core k (6 * 2 ^ 60 + l)
  | .l2 g => home g + 7 * 2 ^ 60
  | .hbm g => home g + 8 * 2 ^ 60

/-- The core whose agent sees an error. -/
def eccCore (p : EccPlace) : Nat :=
  match p with
  | .laneReg g _ _ | .scalarReg g _ => g.core
  | .scratch k _ | .tile k _ | .l1 k _ | .icache k _ => k
  | .l2 g | .hbm g => 160 * (homeSlice (32 * g) / 32)

/-- A corrected error counted and told (R74). -/
def State.corrected (s : State) (p : EccPlace) : State :=
  { s with plat := { s.plat with errors := Sparse.upd 0 (eccKey p) (fun n => n + 1) s.plat.errors } }.agentEvent (eccCore p) 0x21 (Config.eccLocation p) 0

/-- Is a lane of a group active in its slice (R149)? -/
def laneActive (g : Group) (l : Nat) : Bool := g.vliw || (!(g.slice (l / 4)).exited && g.active (l / 4) (l % 4))

/-- ECC_ERROR (R72 to R74): a correctable error changes nothing but its count; an uncorrectable one poisons its word, element
or granule; a line of the L1 or the instruction cache is dropped and fetched again. -/
def execEccError (place : EccPlace) (correctable : Bool) (s : State) : Host.Outcome State Fault Refusal :=
  .next (
    match place with
    | .l1 k l => (s.onCore k (fun c => c.dropLine (lineOf l))).corrected place
    | .icache k l => (s.onCore k (fun c => { c with caches := { c.caches with icache := c.caches.icache.filter (fun p => p.1 != lineOf l) } })).corrected place
    | _ =>
      if correctable then s.corrected place
      else
        match place with
        | .laneReg g r l =>
          let key := 32 * r + l
          let latent := !laneActive (s.groupAt g.core g.bank g.slot) l
          let s := s.onGroupAt g.core g.bank g.slot (fun x => { x with lanes := { x.lanes with poison := Sparse.put false key true x.lanes.poison } })
          if latent then s.agentEvent g.core 0x20 (Config.eccLocation place) 0 else s
        | .scalarReg g n =>
          s.onGroupAt g.core g.bank g.slot (fun x => { x with sca := { x.sca with poison := Sparse.put false n true x.sca.poison } })
        | .scratch k w => s.onCore k (fun c => { c with store := { c.store with spadPoison := Sparse.put false w true c.store.spadPoison } })
        | .tile k e => s.onCore k (fun c => { c with store := { c.store with tilePoison := Sparse.put false e true c.store.tilePoison } })
        | .l2 g | .hbm g => s.onStore (fun m => { m with poison := Sparse.put false g true m.poison })
        | _ => s)

/-- PATROL_SCRUB (R72): the granule's correctable errors are corrected; nothing that a program can read changes. -/
def execPatrolScrub (_granule : Nat) (s : State) : Host.Outcome State Fault Refusal := .next s

/-! ## Links and modules (R374, R377) -/

/-- LINK_LOSS (R377): where no path remains to a package, the collectives that include it withdraw with ERR. -/
def execLinkLoss (link : Nat) (s : State) : Host.Outcome State Fault Refusal :=
  .next (if 18 ≤ link then s
    else
      let s := { s with plat := { s.plat with links := Sparse.put false link true s.plat.links } }
      let lost := (allCmds s).filter (fun p => isColl p.2.op && p.2.phase == .started && p.2.aux.any (noPathTo s))
      lost.foldl (fun s p => s.finishCmd p.1 p.2 true) s)

/-- MODULE_TRAINING_FAILURE (R374): the port runs on the remaining modules. -/
def execModuleTrainingFailure (module : Nat) (s : State) : Host.Outcome State Fault Refusal :=
  .next (if 4 ≤ module then s else { s with plat := { s.plat with modules := Sparse.put false module true s.plat.modules } })

end Sys2Proof.Machine
end

