-- ==== Sys2Proof/Machine/Dispatch.lean ====
section
/-! DEFINITION. One arm for each constructor of Instr: the call of its meaning. -/

namespace Sys2Proof.Machine

/-- The meaning of a step of the device. -/
def exec (i : Instr) (s : State) : Host.Outcome State Fault Refusal :=
  match i with
  | .nop o => Sys2Proof.Machine.execNop o s
  | .emptyBundle w => Sys2Proof.Machine.execEmptyBundle w s
  | .bra o => Sys2Proof.Machine.execBra o s
  | .brx o => Sys2Proof.Machine.execBrx o s
  | .call o => Sys2Proof.Machine.execCall o s
  | .callx o => Sys2Proof.Machine.execCallx o s
  | .ret o => Sys2Proof.Machine.execRet o s
  | .ifC o => Sys2Proof.Machine.execIfC o s
  | .elseC o => Sys2Proof.Machine.execElseC o s
  | .endif o => Sys2Proof.Machine.execEndif o s
  | .loop o => Sys2Proof.Machine.execLoop o s
  | .endloop o => Sys2Proof.Machine.execEndloop o s
  | .brk o => Sys2Proof.Machine.execBrk o s
  | .cont o => Sys2Proof.Machine.execCont o s
  | .regang o => Sys2Proof.Machine.execRegang o s
  | .regangRendezvous g => Sys2Proof.Machine.execRegangRendezvous g s
  | .exit o => Sys2Proof.Machine.execExit o s
  | .mode o => Sys2Proof.Machine.execMode o s
  | .modeSwitch g => Sys2Proof.Machine.execModeSwitch g s
  | .prfi o => Sys2Proof.Machine.execPrfi o s
  | .spawn o => Sys2Proof.Machine.execSpawn o s
  | .elect o => Sys2Proof.Machine.execElect o s
  | .trap o => Sys2Proof.Machine.execTrap o s
  | .brkp o => Sys2Proof.Machine.execBrkp o s
  | .sysc o => Sys2Proof.Machine.execSysc o s
  | .rdsr o => Sys2Proof.Machine.execRdsr o s
  | .wrsr o => Sys2Proof.Machine.execWrsr o s
  | .rdtime o => Sys2Proof.Machine.execRdtime o s
  | .eret o => Sys2Proof.Machine.execEret o s
  | .halt o => Sys2Proof.Machine.execHalt o s
  | .eventTake core => Sys2Proof.Machine.execEventTake core s
  | .tlbiRng o => Sys2Proof.Machine.execTlbiRng o s
  | .tlbiCtx o => Sys2Proof.Machine.execTlbiCtx o s
  | .tlbiAll o => Sys2Proof.Machine.execTlbiAll o s
  | .tlbiSync o => Sys2Proof.Machine.execTlbiSync o s
  | .ctxsave o => Sys2Proof.Machine.execCtxsave o s
  | .ctxload o => Sys2Proof.Machine.execCtxload o s
  | .add o => Sys2Proof.Machine.execAdd o s
  | .sub o => Sys2Proof.Machine.execSub o s
  | .addc o => Sys2Proof.Machine.execAddc o s
  | .subc o => Sys2Proof.Machine.execSubc o s
  | .mul o => Sys2Proof.Machine.execMul o s
  | .mulh o => Sys2Proof.Machine.execMulh o s
  | .mad o => Sys2Proof.Machine.execMad o s
  | .div o => Sys2Proof.Machine.execDiv o s
  | .rem o => Sys2Proof.Machine.execRem o s
  | .min o => Sys2Proof.Machine.execMin o s
  | .max o => Sys2Proof.Machine.execMax o s
  | .abs o => Sys2Proof.Machine.execAbs o s
  | .neg o => Sys2Proof.Machine.execNeg o s
  | .and o => Sys2Proof.Machine.execAnd o s
  | .or o => Sys2Proof.Machine.execOr o s
  | .xor o => Sys2Proof.Machine.execXor o s
  | .andn o => Sys2Proof.Machine.execAndn o s
  | .not o => Sys2Proof.Machine.execNot o s
  | .shl o => Sys2Proof.Machine.execShl o s
  | .shr o => Sys2Proof.Machine.execShr o s
  | .sar o => Sys2Proof.Machine.execSar o s
  | .rot o => Sys2Proof.Machine.execRot o s
  | .bfx o => Sys2Proof.Machine.execBfx o s
  | .bfi o => Sys2Proof.Machine.execBfi o s
  | .popc o => Sys2Proof.Machine.execPopc o s
  | .clz o => Sys2Proof.Machine.execClz o s
  | .brev o => Sys2Proof.Machine.execBrev o s
  | .sel o => Sys2Proof.Machine.execSel o s
  | .cmp o => Sys2Proof.Machine.execCmp o s
  | .mov o => Sys2Proof.Machine.execMov o s
  | .movi o => Sys2Proof.Machine.execMovi o s
  | .movw o => Sys2Proof.Machine.execMovw o s
  | .addImm o => Sys2Proof.Machine.execAddImm o s
  | .mulImm o => Sys2Proof.Machine.execMulImm o s
  | .andImm o => Sys2Proof.Machine.execAndImm o s
  | .orImm o => Sys2Proof.Machine.execOrImm o s
  | .xorImm o => Sys2Proof.Machine.execXorImm o s
  | .shlImm o => Sys2Proof.Machine.execShlImm o s
  | .shrImm o => Sys2Proof.Machine.execShrImm o s
  | .sarImm o => Sys2Proof.Machine.execSarImm o s
  | .cmpImm o => Sys2Proof.Machine.execCmpImm o s
  | .minImm o => Sys2Proof.Machine.execMinImm o s
  | .maxImm o => Sys2Proof.Machine.execMaxImm o s
  | .fadd o => Sys2Proof.Machine.execFadd o s
  | .fsub o => Sys2Proof.Machine.execFsub o s
  | .fmul o => Sys2Proof.Machine.execFmul o s
  | .fma o => Sys2Proof.Machine.execFma o s
  | .fdiv o => Sys2Proof.Machine.execFdiv o s
  | .fmin o => Sys2Proof.Machine.execFmin o s
  | .fmax o => Sys2Proof.Machine.execFmax o s
  | .fcmp o => Sys2Proof.Machine.execFcmp o s
  | .fclass o => Sys2Proof.Machine.execFclass o s
  | .frnd o => Sys2Proof.Machine.execFrnd o s
  | .rcp o => Sys2Proof.Machine.execRcp o s
  | .rsq o => Sys2Proof.Machine.execRsq o s
  | .sqrt o => Sys2Proof.Machine.execSqrt o s
  | .exp2 o => Sys2Proof.Machine.execExp2 o s
  | .log2 o => Sys2Proof.Machine.execLog2 o s
  | .sin o => Sys2Proof.Machine.execSin o s
  | .cos o => Sys2Proof.Machine.execCos o s
  | .tanh o => Sys2Proof.Machine.execTanh o s
  | .cvt o => Sys2Proof.Machine.execCvt o s
  | .pack o => Sys2Proof.Machine.execPack o s
  | .unpack o => Sys2Proof.Machine.execUnpack o s
  | .fmt o => Sys2Proof.Machine.execFmt o s
  | .fmtrd o => Sys2Proof.Machine.execFmtrd o s
  | .dot4 o => Sys2Proof.Machine.execDot4 o s
  | .dot8 o => Sys2Proof.Machine.execDot8 o s
  | .dotf o => Sys2Proof.Machine.execDotf o s
  | .cbset o => Sys2Proof.Machine.execCbset o s
  | .cbenc o => Sys2Proof.Machine.execCbenc o s
  | .cbdec o => Sys2Proof.Machine.execCbdec o s
  | .shfl o => Sys2Proof.Machine.execShfl o s
  | .bcast o => Sys2Proof.Machine.execBcast o s
  | .vote o => Sys2Proof.Machine.execVote o s
  | .redux o => Sys2Proof.Machine.execRedux o s
  | .psend o => Sys2Proof.Machine.execPsend o s
  | .ptake o => Sys2Proof.Machine.execPtake o s
  | .rng o => Sys2Proof.Machine.execRng o s
  | .rngf o => Sys2Proof.Machine.execRngf o s
  | .rsplit o => Sys2Proof.Machine.execRsplit o s
  | .rngrd o => Sys2Proof.Machine.execRngrd o s
  | .rngwr o => Sys2Proof.Machine.execRngwr o s
  | .ldG o => Sys2Proof.Machine.execLdG o s
  | .ldGAcq o => Sys2Proof.Machine.execLdGAcq o s
  | .ldS o => Sys2Proof.Machine.execLdS o s
  | .ldSAcq o => Sys2Proof.Machine.execLdSAcq o s
  | .ldL o => Sys2Proof.Machine.execLdL o s
  | .ldLAcq o => Sys2Proof.Machine.execLdLAcq o s
  | .stG o => Sys2Proof.Machine.execStG o s
  | .stGRel o => Sys2Proof.Machine.execStGRel o s
  | .stGNt o => Sys2Proof.Machine.execStGNt o s
  | .stS o => Sys2Proof.Machine.execStS o s
  | .stSRel o => Sys2Proof.Machine.execStSRel o s
  | .stL o => Sys2Proof.Machine.execStL o s
  | .stLRel o => Sys2Proof.Machine.execStLRel o s
  | .stLNt o => Sys2Proof.Machine.execStLNt o s
  | .ldxG o => Sys2Proof.Machine.execLdxG o s
  | .ldxS o => Sys2Proof.Machine.execLdxS o s
  | .ldxL o => Sys2Proof.Machine.execLdxL o s
  | .atomG o => Sys2Proof.Machine.execAtomG o s
  | .atomS o => Sys2Proof.Machine.execAtomS o s
  | .casG o => Sys2Proof.Machine.execCasG o s
  | .casS o => Sys2Proof.Machine.execCasS o s
  | .fence o => Sys2Proof.Machine.execFence o s
  | .fenceComplete g => Sys2Proof.Machine.execFenceComplete g s
  | .drain o => Sys2Proof.Machine.execDrain o s
  | .pref o => Sys2Proof.Machine.execPref o s
  | .trx o => Sys2Proof.Machine.execTrx o s
  | .xpat o => Sys2Proof.Machine.execXpat o s
  | .stmap o => Sys2Proof.Machine.execStmap o s
  | .stflush o => Sys2Proof.Machine.execStflush o s
  | .stunmap o => Sys2Proof.Machine.execStunmap o s
  | .qbind o => Sys2Proof.Machine.execQbind o s
  | .qfree o => Sys2Proof.Machine.execQfree o s
  | .cpy o => Sys2Proof.Machine.execCpy o s
  | .cpym o => Sys2Proof.Machine.execCpym o s
  | .ringcfg o => Sys2Proof.Machine.execRingcfg o s
  | .ringcfgRsv o => Sys2Proof.Machine.execRingcfgRsv o s
  | .ringcfgCmt o => Sys2Proof.Machine.execRingcfgCmt o s
  | .ringcfgTake o => Sys2Proof.Machine.execRingcfgTake o s
  | .ringcfgPop o => Sys2Proof.Machine.execRingcfgPop o s
  | .ringcfgHnd o => Sys2Proof.Machine.execRingcfgHnd o s
  | .ringReconfigure core ring => Sys2Proof.Machine.execRingReconfigure core ring s
  | .mma o => Sys2Proof.Machine.execMma o s
  | .mmas o => Sys2Proof.Machine.execMmas o s
  | .accflg o => Sys2Proof.Machine.execAccflg o s
  | .accclr o => Sys2Proof.Machine.execAccclr o s
  | .attn o => Sys2Proof.Machine.execAttn o s
  | .massfold o => Sys2Proof.Machine.execMassfold o s
  | .kvtrunc o => Sys2Proof.Machine.execKvtrunc o s
  | .evict o => Sys2Proof.Machine.execEvict o s
  | .coll o => Sys2Proof.Machine.execColl o s
  | .waitf o => Sys2Proof.Machine.execWaitf o s
  | .waitfWake w => Sys2Proof.Machine.execWaitfWake w s
  | .setf o => Sys2Proof.Machine.execSetf o s
  | .addf o => Sys2Proof.Machine.execAddf o s
  | .setfRem o => Sys2Proof.Machine.execSetfRem o s
  | .addfRem o => Sys2Proof.Machine.execAddfRem o s
  | .setfHnd o => Sys2Proof.Machine.execSetfHnd o s
  | .bfqpost o => Sys2Proof.Machine.execBfqpost o s
  | .bfqtake o => Sys2Proof.Machine.execBfqtake o s
  | .bfqtakeTimeout core cmd => Sys2Proof.Machine.execBfqtakeTimeout core cmd s
  | .bfqdone o => Sys2Proof.Machine.execBfqdone o s
  | .gth o => Sys2Proof.Machine.execGth o s
  | .dedup o => Sys2Proof.Machine.execDedup o s
  | .pool o => Sys2Proof.Machine.execPool o s
  | .unz o => Sys2Proof.Machine.execUnz o s
  | .hand o => Sys2Proof.Machine.execHand o s
  | .segwait o => Sys2Proof.Machine.execSegwait o s
  | .tld o => Sys2Proof.Machine.execTld o s
  | .tst o => Sys2Proof.Machine.execTst o s
  | .tzero o => Sys2Proof.Machine.execTzero o s
  | .tcpy o => Sys2Proof.Machine.execTcpy o s
  | .tadd o => Sys2Proof.Machine.execTadd o s
  | .tsub o => Sys2Proof.Machine.execTsub o s
  | .tmul o => Sys2Proof.Machine.execTmul o s
  | .tfma o => Sys2Proof.Machine.execTfma o s
  | .tmax o => Sys2Proof.Machine.execTmax o s
  | .texp o => Sys2Proof.Machine.execTexp o s
  | .tcvt o => Sys2Proof.Machine.execTcvt o s
  | .tscr o => Sys2Proof.Machine.execTscr o s
  | .tscc o => Sys2Proof.Machine.execTscc o s
  | .tredr o => Sys2Proof.Machine.execTredr o s
  | .tredc o => Sys2Proof.Machine.execTredc o s
  | .trotr o => Sys2Proof.Machine.execTrotr o s
  | .trotc o => Sys2Proof.Machine.execTrotc o s
  | .tbcr o => Sys2Proof.Machine.execTbcr o s
  | .tbcc o => Sys2Proof.Machine.execTbcc o s
  | .instructionFetch w => Sys2Proof.Machine.execInstructionFetch w s
  | .icacheLineFill core line => Sys2Proof.Machine.execIcacheLineFill core line s
  | .writeBack g k => Sys2Proof.Machine.execWriteBack g k s
  | .storePerform core k => Sys2Proof.Machine.execStorePerform core k s
  | .pageWalk core cid va kind => Sys2Proof.Machine.execPageWalk core cid va kind s
  | .atsCompletion cid va grant => Sys2Proof.Machine.execAtsCompletion cid va grant s
  | .pageRequestResponse cid va code => Sys2Proof.Machine.execPageRequestResponse cid va code s
  | .atsInvalidation pasid va pages => Sys2Proof.Machine.execAtsInvalidation pasid va pages s
  | .shootdownAck id u => Sys2Proof.Machine.execShootdownAck id u s
  | .shootdownComplete id => Sys2Proof.Machine.execShootdownComplete id s
  | .stashFill core team win line own => Sys2Proof.Machine.execStashFill core team win line own s
  | .stashRecall core team win line write => Sys2Proof.Machine.execStashRecall core team win line write s
  | .hostSnoop core line invalidate => Sys2Proof.Machine.execHostSnoop core line invalidate s
  | .engineCommandStart core cmd => Sys2Proof.Machine.execEngineCommandStart core cmd s
  | .ownershipRegistration core cmd => Sys2Proof.Machine.execOwnershipRegistration core cmd s
  | .lineRelease core cmd line => Sys2Proof.Machine.execLineRelease core cmd line s
  | .ringReserveGrant core ring => Sys2Proof.Machine.execRingReserveGrant core ring s
  | .ringCommit core ring => Sys2Proof.Machine.execRingCommit core ring s
  | .ringClaimGrant core ring => Sys2Proof.Machine.execRingClaimGrant core ring s
  | .copyComplete core cmd => Sys2Proof.Machine.execCopyComplete core cmd s
  | .matrixOpComplete core cmd => Sys2Proof.Machine.execMatrixOpComplete core cmd s
  | .tileOpComplete core cmd => Sys2Proof.Machine.execTileOpComplete core cmd s
  | .sequenceClaimGrant core cmd => Sys2Proof.Machine.execSequenceClaimGrant core cmd s
  | .sequenceCommandComplete core cmd => Sys2Proof.Machine.execSequenceCommandComplete core cmd s
  | .glenCommandComplete glen cmd => Sys2Proof.Machine.execGlenCommandComplete glen cmd s
  | .glenProgramEnd glen => Sys2Proof.Machine.execGlenProgramEnd glen s
  | .segmentCopyComplete glen => Sys2Proof.Machine.execSegmentCopyComplete glen s
  | .collectiveComplete comm seq => Sys2Proof.Machine.execCollectiveComplete comm seq s
  | .collectiveTimeout core cmd => Sys2Proof.Machine.execCollectiveTimeout core cmd s
  | .gatherCounterHalving slice => Sys2Proof.Machine.execGatherCounterHalving slice s
  | .meadowControlWrite slice value => Sys2Proof.Machine.execMeadowControlWrite slice value s
  | .taskStart core => Sys2Proof.Machine.execTaskStart core s
  | .teamClaim core => Sys2Proof.Machine.execTeamClaim core s
  | .teamPlace core => Sys2Proof.Machine.execTeamPlace core s
  | .teamHandoff core target => Sys2Proof.Machine.execTeamHandoff core target s
  | .placementReserveTimeout core => Sys2Proof.Machine.execPlacementReserveTimeout core s
  | .teamRetire core team => Sys2Proof.Machine.execTeamRetire core team s
  | .gridComplete die grid => Sys2Proof.Machine.execGridComplete die grid s
  | .gangPriorityAging g => Sys2Proof.Machine.execGangPriorityAging g s
  | .kick queue value aligned8 => Sys2Proof.Machine.execKick queue value aligned8 s
  | .nopPacket queue => Sys2Proof.Machine.execNopPacket queue s
  | .launch queue => Sys2Proof.Machine.execLaunch queue s
  | .copy queue => Sys2Proof.Machine.execCopy queue s
  | .signal queue => Sys2Proof.Machine.execSignal queue s
  | .waitAll queue => Sys2Proof.Machine.execWaitAll queue s
  | .waitAny queue => Sys2Proof.Machine.execWaitAny queue s
  | .overlay queue => Sys2Proof.Machine.execOverlay queue s
  | .conditionLatch queue k => Sys2Proof.Machine.execConditionLatch queue k s
  | .waitTimeout queue => Sys2Proof.Machine.execWaitTimeout queue s
  | .packetComplete queue index => Sys2Proof.Machine.execPacketComplete queue index s
  | .queueStarvationPromotion queue => Sys2Proof.Machine.execQueueStarvationPromotion queue s
  | .createQueue fn r => Sys2Proof.Machine.execCreateQueue fn r s
  | .destroyQueue fn queue => Sys2Proof.Machine.execDestroyQueue fn queue s
  | .resetQueue fn queue value => Sys2Proof.Machine.execResetQueue fn queue value s
  | .resumeQueue fn queue => Sys2Proof.Machine.execResumeQueue fn queue s
  | .createEventQueue fn r => Sys2Proof.Machine.execCreateEventQueue fn r s
  | .writeContextDescriptor fn cid w0 w1 => Sys2Proof.Machine.execWriteContextDescriptor fn cid w0 w1 s
  | .shootdownRequest fn scope => Sys2Proof.Machine.execShootdownRequest fn scope s
  | .drainRequest fn r => Sys2Proof.Machine.execDrainRequest fn r s
  | .drainTimeout cid => Sys2Proof.Machine.execDrainTimeout cid s
  | .drainComplete cid => Sys2Proof.Machine.execDrainComplete cid s
  | .resumeAfterDrain fn cid => Sys2Proof.Machine.execResumeAfterDrain fn cid s
  | .teamRestore core => Sys2Proof.Machine.execTeamRestore core s
  | .configureBfq fn die queue r => Sys2Proof.Machine.execConfigureBfq fn die queue r s
  | .latencyTolerance fn part cycles => Sys2Proof.Machine.execLatencyTolerance fn part cycles s
  | .attestationQuote fn nonce => Sys2Proof.Machine.execAttestationQuote fn nonce s
  | .healthReport fn => Sys2Proof.Machine.execHealthReport fn s
  | .writeDebugRegisters fn core num value => Sys2Proof.Machine.execWriteDebugRegisters fn core num value s
  | .configurePartitions fn table => Sys2Proof.Machine.execConfigurePartitions fn table s
  | .answerRetry fn r => Sys2Proof.Machine.execAnswerRetry fn r s
  | .answerEnd fn r => Sys2Proof.Machine.execAnswerEnd fn r s
  | .answerLim fn r lim => Sys2Proof.Machine.execAnswerLim fn r lim s
  | .eccError place correctable => Sys2Proof.Machine.execEccError place correctable s
  | .patrolScrub granule => Sys2Proof.Machine.execPatrolScrub granule s
  | .packageReset => Sys2Proof.Machine.execPackageReset s
  | .islandIdle island => Sys2Proof.Machine.execIslandIdle island s
  | .islandWake island => Sys2Proof.Machine.execIslandWake island s
  | .ageingMonitor island needMv hours => Sys2Proof.Machine.execAgeingMonitor island needMv hours s
  | .linkLoss link => Sys2Proof.Machine.execLinkLoss link s
  | .moduleTrainingFailure module => Sys2Proof.Machine.execModuleTrainingFailure module s
  | .fixedLatencyWriteBack g k => Sys2Proof.Machine.execFixedLatencyWriteBack g k s
  | .mailboxInvalidRequest fn code => Sys2Proof.Machine.execMailboxInvalidRequest fn code s
  | .powerFailure => Sys2Proof.Machine.execPowerFailure s
  | .customerKeySlotProvision slot hash => Sys2Proof.Machine.execCustomerKeySlotProvision slot hash s
  | .vendorKeyRevocation => Sys2Proof.Machine.execVendorKeyRevocation s
  | .saveAreaSupply cid bytes => Sys2Proof.Machine.execSaveAreaSupply cid bytes s

end Sys2Proof.Machine
end

