-- ==== Sys2Proof/Machine/Events.lean ====
section
/-! DEFINITION. The steps that the device may take by itself in a state, and the issue of bundles: which gang a core chooses
(R161, R172), the passing of time (DESIGN CHOICE, log entry 1).
Readings of the rules: DEDUCED, log entry 43. -/

namespace Sys2Proof.Machine

/-! ## Steps that no bundle issues -/

/-- A step that the device may take: the meaning of a row of the opcode table at a place. -/
abbrev Act := State → Host.Outcome State Fault Refusal

/-- The group at a key of a core, as a place. -/
def placeAt (core key : Nat) : GroupAt := { core := core, bank := key / 16, slot := key % 16 }

/-- A gang of the group at a key of a core. -/
def gangAt (core key slice : Nat) : Who := .gang { core := core, bank := key / 16, slot := key % 16, slice := slice }

/-- The lowest slice of each gang of a group (R146). -/
def Group.leaders (g : Group) : List Nat := g.live.filter (fun k => (g.gangOf k).headD k == k)

/-- What may end a slice's wait (R22, R304). -/
def waitEvents (w : Who) (unit : Nat) (y : Slice) : List Act :=
  match y.run with
  | .waiting (.flag ..) _ => [execWaitfWake w]
  | .waiting (.page c va) _ => [execPageWalk unit c va .read]
  | _ => []

/-- The results of a group that are due (R156, R157). -/
def resultEvents (a : GroupAt) (g : Group) (now : Nat) : List Act :=
  (g.inflight.zipIdx.filter (fun (r : InFlight × Nat) => decide (r.1.due ≤ now) && !r.1.held)).map (fun (r : InFlight × Nat) =>
    if r.1.empties then execWriteBack a r.2 else execFixedLatencyWriteBack a r.2)

/-- The steps of a group of a core. -/
def groupEvents (core : Nat) (p : Nat × Group) (now : Nat) : List Act :=
  let a := placeAt core p.1
  let g := p.2
  resultEvents a g now ++
    (if g.slices.any (fun y => y.run matches .waiting .regang _) then [execRegangRendezvous a] else []) ++
    (if g.slices.any (fun y => y.run matches .waiting .mode _) then [execModeSwitch a] else []) ++
    g.leaders.flatMap (fun k => waitEvents (gangAt core p.1 k) core (g.slice k)) ++
    g.holds.flatMap (fun h => h.slices.map (fun k => execFenceComplete { core := core, bank := p.1 / 16, slot := p.1 % 16, slice := k })) ++
    (g.leaders.filter (fun k => !(g.slice k).aged && decide (Nat.max (g.slice k).since (g.slice k).ready + 256 ≤ now))).map (fun k =>
      execGangPriorityAging { core := core, bank := p.1 / 16, slot := p.1 % 16, slice := k })

/-- The steps of an engine command of a core (R302). -/
def cmdEvents (core : Nat) (d : Cmd) : List Act :=
  match d.phase with
  | .queued => [execOwnershipRegistration core d.id, execEngineCommandStart core d.id]
  | .registered => [execSequenceClaimGrant core d.id, execEngineCommandStart core d.id]
  | .started =>
    if isColl d.op then [execCollectiveComplete (collDesc d.desc).id (collDesc d.desc).seq, execCollectiveTimeout core d.id]
    else if isBfq d.op then [execEngineCommandStart core d.id, execBfqtakeTimeout core d.id]
    else [execCopyComplete core d.id, execMatrixOpComplete core d.id, execTileOpComplete core d.id]
  | .finished => [execSequenceCommandComplete core d.id]

/-- The steps of a ring (R46, R49, R50). -/
def ringEvents (core ring : Nat) : List Act :=
  [execRingReserveGrant core ring, execRingCommit core ring, execRingClaimGrant core ring, execRingReconfigure core ring]

/-- Has a core room now for a team of a grid? -/
def roomFor (s : State) (core : Nat) (l : GridLaunch) : Bool :=
  coreServes s core l.cid && (findPlace (s.core core) (occOf s core) l.cid l.kernel.need).isSome

/-- The handing over of a waiting team (R168): to the first core of the die whose agent has no team to place and which has
room for it now (DESIGN CHOICE, log entry 1). -/
def handoffEvents (s : State) (core : Nat) (q : Claim) : List Act :=
  let l := (s.grid q.die q.grid).launch
  if q.phase == .waiting then
    (((List.range 160).find? (fun k =>
      let target := 160 * (core / 160) + k
      target != core && (s.core target).crew.claim.isNone && roomFor s target l)).toList).map (fun k => execTeamHandoff core (160 * (core / 160) + k))
  else []

/-- The age in cycles at which the model writes out a write-combining entry that nothing else has (R119; DESIGN CHOICE, log entry
53). -/
def wcAge : Nat := 65536

/-- The steps of a core. -/
def coreEvents (s : State) (p : Nat × Core) : List Act :=
  let k := p.1
  let c := p.2
  (if c.agent.een && !c.agent.events.isEmpty then [execEventTake k] else []) ++
    (c.caches.fills.filter (fun (f : Nat × Nat) => decide (f.2 ≤ s.now))).map (fun (f : Nat × Nat) => execIcacheLineFill k f.1) ++
    (List.range c.caches.stores.length).map (fun i => execStorePerform k i) ++
    (c.caches.wc.zipIdx.filter (fun (e : WcEntry × Nat) => decide (e.1.since + wcAge ≤ s.now))).map (fun (e : WcEntry × Nat) =>
      execStorePerform k (c.caches.stores.length + e.2)) ++
    c.caches.prefetch.map (fun (p : Nat × DWord) => execPageWalk k p.1 p.2 .fetch) ++
    c.groups.flatMap (fun g => groupEvents k g s.now) ++
    c.cmds.flatMap (cmdEvents k) ++
    c.rings.flatMap (fun (r : Nat × Ring) => ringEvents k r.1) ++
    (if c.crew.tasks.isEmpty then [] else [execTaskStart k]) ++
    (match c.crew.claim with
     | some q => if coreAwake s k then execTeamPlace k :: handoffEvents s k q ++ [execPlacementReserveTimeout k] else []
     | none => []) ++
    (c.crew.teams.filter (fun (t : Nat × Team) => t.2.live)).map (fun (t : Nat × Team) => execTeamRetire k t.1) ++
    (if coreAwake s k then [] else [execIslandWake (128 * (k / 160) + k % 160 / 2)])

/-- The steps of a glen core. -/
def glenEvents (s : State) (p : Nat × Glen) : List Act :=
  let n := p.1
  let g := p.2
  (match g.ctx.slices with | y :: _ => waitEvents (.glen n) (640 + n) y | [] => []) ++
    g.cmds.map (fun d => execGlenCommandComplete n d.id) ++
    (if g.fillingFrame.isSome then [execSegmentCopyComplete n] else []) ++
    (if g.prog.running && g.prog.ended then [execGlenProgramEnd n] else []) ++
    (if g.prog.running && !glenAwake s n then [execIslandWake (128 * (n / 16) + 112 + n % 16)] else [])

/-- Has an open grid a team to claim or an image to restore? -/
def Grid.offers (g : Grid) : Bool := g.live && g.phase == .open' && (decide (g.ticket < g.teams) || !g.saves.isEmpty)

/-- Has a core room for the team that its agent would claim next? -/
def claimFits (s : State) (core : Nat) : Bool :=
  match firstGrid (claimable s core) with
  | some x => roomFor s core x.2.2.launch
  | none => false

/-- The core whose agent claims next: the first that has room for the team, else the first that may claim (DESIGN CHOICE, log entry 1). -/
def nextClaimer (s : State) : Option Nat :=
  let free := (List.range 640).filter (fun k => (s.core k).crew.claim.isNone && !(claimable s k).isEmpty)
  match free.find? (claimFits s) with
  | some k => some k
  | none => free.head?

/-- The claims and restores that agents may take: those of the first core that can (R168, R352). -/
def claimEvents (s : State) : List Act :=
  if s.dies.any (fun (d : Nat × Die) => d.2.grids.any (fun (g : Nat × Grid) => g.2.offers)) then
    (((List.range 640).find? (fun k => !(restorable s k).isEmpty)).toList.map (fun k => execTeamRestore k)) ++
      ((nextClaimer s).toList.map (fun k => execTeamClaim k))
  else []

/-- The steps of a die's front end on the queue it takes next (R333, R343). -/
def frontEvents (s : State) (die : Nat) : List Act :=
  match frontChoice s die with
  | some n => [execNopPacket n, execLaunch n, execCopy n, execSignal n, execWaitAll n, execWaitAny n, execOverlay n]
  | none => []

/-- The steps of a queue. -/
def queueEvents (s : State) (p : Nat × Queue) : List Act :=
  let n := p.1
  p.2.packets.flatMap (fun k =>
    if k.finished || k.kind == .copy then [execPacketComplete n k.index]
    else (List.range k.table.length).map (fun i => execConditionLatch n i) ++ [execWaitTimeout n]) ++
    (match nextPacket s n with
     | .wait (.page c va) => [execPageWalk (160 * p.2.die) c (BitVec.ofNat 64 va) .engineRead]
     | .none => []
     | _ => (match ridxWait s n with
       | some (.page c va) => [execPageWalk (160 * p.2.die) c (BitVec.ofNat 64 va) .engineWrite]
       | _ => [])) ++
    (if p.2.since.isSome && !p.2.aged then [execQueueStarvationPromotion n] else [])

/-- The steps of a die: its grids, its front end. -/
def dieEvents (s : State) (p : Nat × Die) : List Act :=
  (p.2.grids.filter (fun (g : Nat × Grid) => g.2.live && g.2.done == g.2.teams)).map (fun (g : Nat × Grid) => execGridComplete p.1 g.1) ++
    frontEvents s p.1

/-- The steps of a mailbox: a reset of a queue that has waited for RIDX (R342). -/
def mailEvents (m : Nat × Mailbox) : List Act :=
  match m.2.wait with
  | some (.ridx queue value) => [execResetQueue m.1 queue value]
  | _ => []

/-- The steps of a shootdown (R30): the next structure that can acknowledge, or its end. -/
def shootEvents (s : State) (x : Shoot) : List Act :=
  match ackUnits.find? (fun u => !x.acks.contains u && canAck s u) with
  | some u => [execShootdownAck x.id u]
  | none => [execShootdownComplete x.id]

/-- The islands that leave their states: those that the model holds, and with a partition table all of them (R383). -/
def wakeEvents (s : State) : List Act :=
  let ks := if s.partitions.isEmpty then s.plat.islands.map Prod.fst else List.range 512
  (ks.filter (fun k => (s.island k).phase != .run && mustWake s k)).map (fun k => execIslandWake k)

/-- Every step that the device may take by itself, in the order in which the model takes them (DESIGN CHOICE, log entry 1). -/
def events (s : State) : List Act :=
  s.cores.flatMap (coreEvents s) ++ s.glens.flatMap (glenEvents s) ++ s.dies.flatMap (dieEvents s) ++ claimEvents s ++
    (if s.host.kicks.isEmpty then [] else [takeKick]) ++ s.host.queues.flatMap (queueEvents s) ++ s.host.mail.flatMap mailEvents ++
    s.host.drains.flatMap (fun d => if d.complete then [] else [execDrainTimeout d.cid, execDrainComplete d.cid]) ++
    s.host.shoots.flatMap (shootEvents s) ++
    (s.slices.filter (fun (m : Nat × MemSlice) => decide (2 ^ 20 ≤ m.2.requests))).map (fun (m : Nat × MemSlice) => execGatherCounterHalving m.1) ++
    (s.plat.islands.filter (fun (i : Nat × Island) => i.2.phase != .gated)).map (fun (i : Nat × Island) => execIslandIdle i.1) ++ wakeEvents s

/-- Does a die's boot ROM wait to run (R379)? -/
def bootWaits (s : State) : Bool := (List.range 4).any (fun d => (s.die d).boot == .waiting)

/-! ## Which gang issues (R145, R160, R161, R172) -/

/-- The slices of a gang by the core's numbers; the agent has none (R145). -/
def coreSlices (key : Nat) (g : Group) (ks : List Nat) : List Nat :=
  if key == 15 then [] else ks.map (fun k => k + (if g.gid.half && g.gid.hnum == 1 then 4 else 0))

/-- The halves that a group lives on. -/
def Group.halves (g : Group) : List Nat := if g.gid.half then [g.gid.hnum] else [0, 1]

/-- Does a gang of the group hold its halves for the VLIW decoder: a VLIW thread, or one that waits to become one (R160,
R236)? -/
def Group.takesHalves (g : Group) : Bool := g.gid.live && !g.live.isEmpty && (g.vliw || g.slices.any (fun y => y.run matches .waiting .mode _))

/-- Is the group held because another one has its half for the VLIW decoder (R160)? -/
def heldByVliw (c : Core) (key : Nat) (g : Group) : Bool :=
  key != 15 && c.groups.any (fun (p : Nat × Group) => p.1 != key && p.1 != 15 && p.2.takesHalves && p.2.halves.any g.halves.contains)

/-- May a gang issue as far as its own state goes (R172)? A team that is being saved only ends what it was woken for. -/
def gangReady (s : State) (core : Nat) (c : Core) (key : Nat) (g : Group) (k : Nat) : Bool :=
  let y := g.slice k
  let t := c.team (8 * (key / 16) + g.gid.team)
  let runs := match y.run with | .running => key == 15 || !t.parked | .woken _ => true | _ => false
  g.gid.live && runs && !y.debugStopped && decide (y.ready ≤ s.now) &&
    (if key == 15 then c.agent.program && !c.agent.halted else !(Sparse.look false (key / 16) c.crew.frozen)) &&
    !heldByVliw c key g && (s.die (core / 160)).boot == .running && coreAwake s core

/-- Is a port of the core free for the gang in this cycle (R161)? -/
def portFree (c : Core) (key : Nat) (g : Group) (ks : List Nat) : Bool :=
  let simt := c.issued.filter (fun l => !l.contains 8)
  if g.vliw then c.issued.all (fun l => !l.contains 8)
  else decide (simt.length < 2) && (coreSlices key g ks).all (fun x => simt.all (fun l => !l.contains x))

/-- A gang that may issue, with what R172 compares: its class (the agent, then priority), the cycle from which it has been
issuable, and its place. -/
structure Turn where
  who : Who
  cls : Nat
  since : Nat
  place : Nat
  deriving DecidableEq, Repr

/-- The order of R172. -/
def Turn.before (a b : Turn) : Bool :=
  decide (a.cls < b.cls) || (a.cls == b.cls && (decide (a.since < b.since) || (a.since == b.since && decide (a.place < b.place))))

/-- The first of several turns. -/
def firstTurn : List Turn → Option Turn
  | [] => none
  | x :: xs =>
    match firstTurn xs with
    | none => some x
    | some y => if x.before y then some x else some y

/-- The gangs of a core that may issue now, whether or not their next bundle is fetched. -/
def readyTurns (s : State) (p : Nat × Core) : List Turn :=
  let c := p.2
  let keys := if c.agent.program && !c.groups.any (fun (g : Nat × Group) => g.1 == 15) then (15, groupZero 15) :: c.groups else c.groups
  keys.flatMap (fun (q : Nat × Group) =>
    let g := q.2
    ((if g.vliw || q.1 == 15 then (g.live.take 1) else g.leaders).filter (fun k =>
      gangReady s p.1 c q.1 g k && portFree c q.1 g (g.gangOf k))).map (fun k =>
      let y := g.slice k
      { who := gangAt p.1 q.1 k
        cls := if q.1 == 15 then 0 else if y.aged then 1 else 5 - g.gid.prio
        since := Nat.max y.since y.ready
        place := 8 * q.1 + k }))

/-- The glen cores that may issue a bundle (R78). -/
def readyGlens (s : State) : List Who :=
  (s.glens.filter (fun (p : Nat × Glen) =>
    let y := p.2.ctx.slice 0
    p.2.prog.running && !p.2.prog.ended && (match y.run with | .running | .woken _ => true | _ => false) && decide (y.ready ≤ s.now) &&
      (s.die (p.1 / 16)).boot == .running && glenAwake s p.1)).map (fun (p : Nat × Glen) => .glen p.1)

/-- Is the next bundle of an issuer fetched? -/
def fetched (s : State) (w : Who) : Bool := match fetchBundle s w (s.pcOf w) with | .ok _ => true | .error _ => false

/-- Everyone who could issue a bundle now. -/
def readyAll (s : State) : List Who := s.cores.flatMap (fun p => (readyTurns s p).map Turn.who) ++ readyGlens s

/-- Who issues next: the choice of the first core that has one, or a glen core. -/
def nextIssuer (s : State) : Option Who :=
  match (s.cores.filterMap (fun p => firstTurn ((readyTurns s p).filter (fun t => fetched s t.who)))).head? with
  | some t => some t.who
  | none => (readyGlens s).find? (fetched s)

/-! ## Issue -/

/-- What stands against an operation in the state in which its bundle begins: its own outcome there. -/
def Issue.faresWith (r : Host.Outcome State Fault Refusal) : Status :=
  match r with
  | .next s => (match s.issue with | some c => c.status | none => .ok)
  | _ => .ok

/-- The results on their way that the sources of a bundle await. -/
def awaited (c : Issue) (is : List Instr) : List InFlight :=
  is.flatMap (fun i =>
    let u := usage c.snap i
    u.laneSrc.flatMap (fun p => (c.hazardLanes i).flatMap (fun l => c.snap.inFlightTo p.1 l)) ++ u.scaSrc.flatMap (fun p => c.snap.inFlightToS p.1))

/-- Are the destinations of a bundle free of results on their way? -/
def destsFree (c : Issue) (is : List Instr) : Bool :=
  is.all (fun i =>
    let u := usage c.snap i
    u.laneDst.all (fun n => (c.hazardLanes i).all (fun l => (c.snap.inFlightTo n l).isEmpty)) && u.scaDst.all (fun n => (c.snap.inFlightToS n).isEmpty))

/-- The tag of the load that empty source registers of the bundle await, where they await nothing else (R38). Of loads with
several tags the first in operand order is charged (DESIGN CHOICE, log entry 52). -/
def stallTag (c : Issue) (is : List Instr) : Option Nat :=
  let rs := awaited c is
  if rs.all (fun r => r.empties && r.tag.isSome) then (rs.filterMap InFlight.tag).head? else none

/-- Does the bundle hold an engine operation (R161)? -/
def hasEngineOp (is : List Instr) : Bool := is.any (fun i => match (opInfo i).cls with | .engine | .engineGlen | .glenEngine | .tile => true | _ => false)

/-- One engine operation issues in a core per cycle (R161). -/
def engineTaken (s : State) (c : Issue) (is : List Instr) : Bool :=
  !isGlen c.who && hasEngineOp is && (s.core (coreOf c.who)).issued.any (fun l => l.contains 9)

/-- A bundle that cannot issue for now: a stall is counted only where empty sources of tagged loads are all that stands against
it (R38). `fares` is what its operations' own outcomes are. -/
def State.stall (s : State) (c : Issue) (is : List Instr) (fares : List Status) : State :=
  if isAgent c.who || isGlen c.who || !(fenceStatus s c is == .ok && is.all (fun i => unitStatus s c i == .ok) && !engineTaken s c is &&
      fares.all (fun x => x == .ok) && destsFree c is) then s
  else
    match stallTag c is with
    | some tag => s.countTag c tag 2 1
    | none => s

/-- A bundle that has issued takes its port for the cycle and holds its units. -/
def State.takePort (s : State) (c : Issue) (is : List Instr) : State :=
  match c.who with
  | .glen _ => s
  | .gang a =>
    let mine := coreSlices (slotKey a.bank a.slot) c.snap c.slices ++ (if c.snap.vliw then [8] else []) ++ (if hasEngineOp is then [9] else [])
    (s.holdUnits c is).onCore a.core (fun k => { k with issued := k.issued ++ [mine] })

/-! ## Time -/

/-- The gangs that cannot issue in a cycle, by their lowest slices: their wait to be chosen begins anew (R172). -/
def heldGangs (s : State) (core : Nat) (c : Core) (key : Nat) (g : Group) : List Nat :=
  if !g.gid.live then []
  else (if g.vliw || key == 15 then g.live.take 1 else g.leaders).filter (fun k => !(gangReady s core c key g k && fetched s (gangAt core key k)))

/-- The cycle from which each gang has been issuable moves on while it is not (R172). -/
def State.tickGangs (s : State) : State :=
  s.cores.foldl (fun t p => p.2.groups.foldl (fun t q =>
    let ks := heldGangs s p.1 p.2 q.1 q.2
    if ks.isEmpty then t
    else t.onCore p.1 (fun c => c.onGroupK q.1 (fun g => ks.foldl (fun g k => g.onSlices (q.2.gangOf k) (fun y => { y with since := s.now + 1 })) g))) t) s

/-- The next cycle: ports are free again. -/
def State.tick (s : State) : State :=
  let s := s.tickGangs
  let s := { s.tickQueues.tickIslands with now := s.now + 1 }
  s.cores.foldl (fun s p => if p.2.issued.isEmpty then s else s.onCore p.1 (fun c => { c with issued := [] })) s

end Sys2Proof.Machine
end

