-- ==== Sys2Proof/Machine/Step.lean ====
section
/-! DEFINITION. One step of the machine: an input or chosen step, else a step that the device takes by itself, else the issue
of a bundle, else the passing of a cycle (DESIGN CHOICE, log entry 1); and the state that runs one given instruction next. -/

namespace Sys2Proof.Machine

/-- Does a step change the state? -/
def changes (r : Host.Outcome State Fault Refusal) (s : State) : Bool :=
  match r with
  | .next t => t != s
  | _ => true

/-- The operations of a bundle that has begun, in program order. -/
def runOps : List Instr → State → Host.Outcome State Fault Refusal
  | [], s => .next s
  | i :: is, s =>
    match exec i s with
    | .next t => runOps is t
    | r => r

/-- The outcome of the operations of a bundle, as its status shows: it completes, stops or waits (R172, R353); `fares` is how each
fared by itself. -/
def State.endBundle (s t : State) (c : Issue) (is : List Instr) (fares : List Status) : State :=
  match t.issue with
  | some d =>
    (match d.status with
     | .wait _ => (s.finishFrom t).stall c is fares
     | _ => (s.finishFrom t).takePort c is)
  | none => s

/-- The bundle ends with a status in the state in which it began. -/
def State.endWith (s : State) (c : Issue) (is : List Instr) (fares : List Status) (st : Status) : State :=
  s.endBundle { s with issue := some { c with status := st } } c is fares

/-- A checked bundle issues: each operation is tried in the state in which the bundle begins; the first that stops or waits
decides, else all take effect in program order (R112, R202, R353). -/
def issueOps (s : State) (c : Issue) (is : List Instr) : Host.Outcome State Fault Refusal :=
  let s := s.fenceFlush c is
  let s1 := { s with issue := some c }
  let fares := is.map (fun i => Issue.faresWith (exec i s1))
  match firstStatus (issueStatus s c is :: (if engineTaken s c is then .wait .poll else .ok) :: fares) with
  | .ok =>
    (match runOps is s1 with
     | .next t => .next (s.endBundle t c is fares)
     | r => r)
  | st => .next (s.endWith c is fares st)

/-- The bundle at an issuer's program counter: a breakpoint, its checks (R214), its issue. -/
def issueBundle (w : Who) (s : State) : Host.Outcome State Fault Refusal :=
  match fetchBundle s w (s.pcOf w) with
  | .error _ => execInstructionFetch w s
  | .ok r =>
    let c := { s.beginIssue w r.len with marked := r.head.getLsbD 27 }
    match breakpointAt s c with
    | some _ => .next (s.endWith c [] [] (issueStatus s c []))
    | none =>
      match checkBundle (s.decoderOf w) c r with
      | .error _ => execInstructionFetch w s
      | .ok [] => execEmptyBundle w s
      | .ok is => issueOps s c is

/-- One step. -/
def step (s : State) : Host.Outcome State Fault Refusal :=
  match s.agenda with
  | i :: rest => if s.plat.power || i == .packageReset then exec i { s with agenda := rest } else .fault .noPower
  | [] =>
    if !s.plat.power then .fault .noPower
    else if bootWaits s then execPackageReset s
    else
      match (events s).find? (fun f => changes (f s) s) with
      | some f => f s
      | none =>
        match (readyAll s).find? (fun w => !fetched s w && changes (execInstructionFetch w s) s) with
        | some w => execInstructionFetch w s
        | none =>
          match nextIssuer s with
          | some w => issueBundle w s
          | none => .next s.tick

/-! ## Running one given instruction (DESIGN CHOICE, log entry 13) -/

/-- The bundle that holds one operation in a slot: its header, a VLIW lane mask, and its words (R195 to R197). -/
def bundleBytes (sl : Slot) (words : List DWord) : List Byte :=
  let body := words.flatMap (fun w => leBytes 8 w.toNat)
  match sl with
  | .simt k => leBytes 4 (2 ^ 31 + 2 ^ k.toNat) ++ body
  | .glen k => leBytes 4 (2 ^ 31 + 2 ^ 29 + 2 ^ k.toNat) ++ body
  | .unit k => leBytes 4 (2 ^ 31 + 2 ^ 28 + 2 ^ 26 + 2 ^ k.toNat) ++ leBytes 4 0 ++ body
  | .lane c => leBytes 4 (2 ^ 31 + 2 ^ 28 + 2 ^ 26) ++ leBytes 4 (2 ^ c.toNat) ++ body

/-- A package whose dies run, and whose islands of core 0, slice 0 and glen core 0 are awake. -/
def State.awake (s : State) : State :=
  { s with
    agenda := []
    issue := none
    plat := { s.plat with power := true, islands := [(0, { phase := .run, since := s.now }), (80, { phase := .run, since := s.now }), (112, { phase := .run, since := s.now })] }
    dies := (List.range 4).map (fun k => (k, ({ boot := .running } : Die))) }

/-- The mapping of the first 64 KiB of context 1 to the first 64 KiB of the local HBM. -/
def firstPage : TlbEntry := { cid := 1, vbase := 0, size := 65536, pbase := 0, rd := true, wr := true, ex := true }

/-- A core whose instruction cache holds a bundle at address 0 of context 1. -/
def Core.holding (c : Core) (bs : List Byte) : Core :=
  { c with caches := { icache := [(0, (bs ++ List.replicate 128 0).take 128)], tlb := [firstPage] } }

/-- A team with every resource of its core. -/
def wholeTeam : Team :=
  { live := true, cid := 1,
    res := { spsize := 524288, nacc := 64, nflags := 64, rings := List.range 16, slots := [0], localSlot := 0 } }

/-- A full-width group of that team at address 0. -/
def wholeGroup (vliw : Bool) : Group :=
  { gid := { live := true, rsb := 512 }, slices := List.replicate 8 {}, vliw := vliw, win := { ws := 64, sp := 4096, lsize := 4096 } }

/-- Core 0 about to issue a bundle: from the agent, or from a group of one team. -/
def runsOn (c : Core) (agent vliw : Bool) (bs : List Byte) : Core :=
  let c := c.holding bs
  if agent then { c with agent := { c.agent with program := true, actx := 1 } }
  else { c with groups := [(0, wholeGroup vliw)], crew := { teams := [(0, wholeTeam)], bankCid := [(0, 1)] } }

/-- Glen core 0 about to issue a bundle. -/
def glenRunsOn (g : Glen) (bs : List Byte) : Glen :=
  { g with
    ctx := { slices := [{}] }, cid := 1, tlb := [firstPage], segs := [{ len := 128 }]
    frames := [(0, { valid := true, bytes := (bs ++ List.replicate 128 0).take 128 })]
    prog := { running := true } }

/-- The state that runs the bytes of a bundle next: a SIMT or VLIW one on core 0, a glen one on glen core 0. -/
def State.placing (s : State) (sl : Slot) (agent : Bool) (bs : List Byte) : State :=
  let s := { s.awake with store := { s.store with mem := s.store.mem.write 0 bs } }
  match sl with
  | .glen _ => { s with glens := [(0, glenRunsOn {} bs)], cores := [] }
  | _ => { s with cores := [(0, runsOn {} agent sl.isVliw bs)], glens := [] }

/-- The state that runs an instruction of the opcode table next. -/
def State.withFetchWord (s : State) (nbits w : Nat) : State :=
  if nbits ≤ 32 then s.placing (.simt 0#3) false (leBytes 4 w)
  else
    match tableWordSlot w with
    | some (sl, i) =>
      s.placing sl (privileged i) (bundleBytes sl (if isTwoWord ((BitVec.ofNat 64 w : DWord).extractLsb' 56 8) then
        [BitVec.ofNat 64 w, BitVec.ofNat 64 (w / 2 ^ 64)] else [BitVec.ofNat 64 w]))
    | none => s

end Sys2Proof.Machine
end

