-- ==== Sys2Proof/Safety.lean ====
section
/-! DEFINITION. The terms in which claims speak of a safe run: the forms that every state of a run has, and what no step may
undo. -/

namespace Sys2Proof.Machine

/-- Every memory is in its canonical form: the memory outside the cores, each scratchpad, each glen core's row buffer. -/
def State.MemoryForm (s : State) : Prop :=
  Memory.wf s.store.mem ∧ (∀ p ∈ s.cores, Memory.wf p.2.store.spad) ∧ (∀ p ∈ s.glens, Memory.wf p.2.row)

/-- The platform's bounds: every island is supplied with 450 to 750 mV (R384), and the one-time index of quotes has not
passed the number of its signatures (R381). -/
def State.PlatformForm (s : State) : Prop :=
  (∀ p ∈ s.plat.islands, 450 ≤ p.2.supply ∧ p.2.supply ≤ 750) ∧ s.plat.quote ≤ 2 ^ 20

/-- What is burnt into fuses, or stands on flash, is not undone (R379, R381): a revoked vendor key stays revoked, a written
customer key slot keeps its hash, the index of quotes never goes back. -/
def FusesKept (s t : State) : Prop :=
  (s.plat.revoked = true → t.plat.revoked = true) ∧
  (∀ p ∈ s.plat.keys, p ∈ t.plat.keys) ∧
  s.plat.quote ≤ t.plat.quote

/-! ## What a claim about one instruction says -/

/-- The bundle of an issue record is issuing, and nothing of it has stopped or waits so far. -/
def Runs (s : State) (c : Issue) : Prop := s.issue = some c ∧ c.status = .ok

/-- The stream sources of a lane operation have elements to give (R54). -/
def Fed (s : State) (c : Issue) (site : Site) (srcs : List (Spec × Bool)) : Prop :=
  streamStatus c (s.cur c) (c.opLanes site) (slotNumber site.slot) (streamsOf srcs) = .ok

/-- A lane operation takes effect: its bundle runs, a lane is active in it (R149), its streams have elements. -/
def LanesRun (s : State) (c : Issue) (site : Site) (srcs : List (Spec × Bool)) : Prop :=
  Runs s c ∧ c.opLanes site ≠ [] ∧ Fed s c site srcs

/-- A scalar-path operation takes effect: its bundle runs and its stage does not suppress it (R226). -/
def ScalarRuns (s : State) (c : Issue) (site : Site) : Prop := Runs s c ∧ c.scalarRuns site = true

/-- Do two issuers have the same registers? -/
def sameRegisters (v w : Who) : Bool :=
  match v, w with
  | .gang a, .gang b => a.core == b.core && slotKey a.bank a.slot == slotKey b.bank b.slot
  | .glen m, .glen n => m == n
  | _, _ => false

/-- Every byte of every memory reads as before: the memory outside the cores, each scratchpad, each row buffer. -/
def MemoryKept (s t : State) : Prop :=
  (∀ a, t.store.mem.byte a = s.store.mem.byte a) ∧ (∀ k a, (t.core k).store.spad.byte a = (s.core k).store.spad.byte a) ∧
    ∀ n a, (t.glen n).row.byte a = (s.glen n).row.byte a

/-- All but the registers and slices of one issuer is as before: the other issuers' registers, slices and translation
registers; every memory; of each core its teams, accumulator tiles, caches and queued stores, flags, rings, engine commands and its agent with
the special registers; of each glen core all but its registers; the dies, the host's side, the platform, the clock and the issue record. -/
def OnlyRegisters (w : Who) (s t : State) : Prop :=
  MemoryKept s t ∧ (∀ v, sameRegisters v w = false → t.groupOf v = s.groupOf v) ∧
    (∀ k, { t.core k with groups := [] } = { s.core k with groups := [] }) ∧ (∀ n, { t.glen n with ctx := {} } = { s.glen n with ctx := {} }) ∧
    t = { s with cores := t.cores, glens := t.glens }

/-- All but the issue record, which the end of the bundle acts on, is as before. -/
def OnlyIssue (s t : State) : Prop := MemoryKept s t ∧ (∀ v, t.groupOf v = s.groupOf v) ∧ t = { s with issue := t.issue }

/-- A lane operation's outcome: of the machine only the issuer's registers change; of these only that the streams among the
sources have been consumed (R53) and that the values `val` of the active lanes are on their way to register `d`, to be
written `lat` cycles on; the register is marked empty until then where `empties` stands (R156, R157). Where `d` is zero the
results are discarded (R211). -/
def LaneResult (s t : State) (c : Issue) (site : Site) (srcs : List (Spec × Bool)) (d : Spec) (lat : Nat) (empties : Bool)
    (val : Group → Nat → Word) : Prop :=
  OnlyRegisters c.who s t ∧
    t.cur c =
      (match d with
       | .v n => ((s.cur c).consume (streamsOf srcs)).post
           { lanes := (c.opLanes site).map (fun l => (32 * c.snap.phys n.toNat + l, val (s.cur c) l, false)), due := s.now + lat, empties := empties }
       | _ => (s.cur c).consume (streamsOf srcs))

/-- A scalar operation's outcome: only that value `x` is on its way to scalar register `d`; a glen core's next bundle reads
it (R77, R157). -/
def ScalarResult (s t : State) (c : Issue) (d : Spec) (lat : Nat) (empties : Bool) (x : DWord) : Prop :=
  OnlyRegisters c.who s t ∧
    t.cur c =
      (match d with
       | .s n => (s.cur c).post { sca := some (n.toNat, x, false), due := s.now + (if isGlen c.who then 0 else lat), empties := empties }
       | _ => s.cur c)

/-- The issuer's registers and slices changed by `f`, and nothing else. -/
def RegistersBecome (s t : State) (c : Issue) (f : Group → Group) : Prop := OnlyRegisters c.who s t ∧ t.cur c = f (s.cur c)

end Sys2Proof.Machine
end

