-- ==== Sys2Proof/Certificates/Slice0/Obligations.lean ====
section
/-! DEFINITION. The statements about the machine: its encoding, its steps, and what each instruction does, from the rules of the
specification. -/

open Sys2Proof Sys2Proof.Machine

/-! ## The integer operations (R240 to R248) -/

/-- An operation of format R as the claims about the integer operations list it: its constructor, its sources, the cycles to
its result, whether its destination is marked empty until then (R156), and its value on the whole operands. -/
structure IntRow where
  make : ROp → Instr
  srcs : ROp → List (Spec × Bool)
  lat : Ty → Nat
  empties : Bool
  val : ROp → Nat → Nat → Nat → Nat

/-- The integer operations of format R (R240). -/
def intRows : List IntRow :=
  [⟨.add, srcs2, fun _ => 2, false, fun o a b _ => arith .add o.ty (o.mod.getLsbD 2) a b 0⟩,
   ⟨.sub, srcs2, fun _ => 2, false, fun o a b _ => arith .sub o.ty (o.mod.getLsbD 2) a b 0⟩,
   ⟨.addc, srcs3, fun _ => 2, false, fun o a b c => addCarry o.ty (o.mod.getLsbD 8) a b c⟩,
   ⟨.subc, srcs3, fun _ => 2, false, fun o a b c => subBorrow o.ty (o.mod.getLsbD 8) a b c⟩,
   ⟨.mul, srcs2, fun _ => 2, false, fun o a b _ => arith .mul o.ty (o.mod.getLsbD 2) a b 0⟩,
   ⟨.mulh, srcs2, fun _ => 2, false, fun o a b _ => arith .mulh o.ty false a b 0⟩,
   ⟨.mad, srcs3, fun _ => 2, false, fun o a b c => arith .mad o.ty (o.mod.getLsbD 2) a b c⟩,
   ⟨.div, srcs2, fun t => if wholeWidth t = 64 then 36 else 20, true, fun o a b _ => divide o.ty (o.mod.getLsbD 2) a b⟩,
   ⟨.rem, srcs2, fun t => if wholeWidth t = 64 then 36 else 20, true, fun o a b _ => remainder o.ty a b⟩,
   ⟨.min, srcs2, fun _ => 2, false, fun o a b _ => arith .min o.ty false a b 0⟩,
   ⟨.max, srcs2, fun _ => 2, false, fun o a b _ => arith .max o.ty false a b 0⟩,
   ⟨.abs, srcs1, fun _ => 2, false, fun o a _ _ => arith .abs o.ty (o.mod.getLsbD 2) a 0 0⟩,
   ⟨.neg, srcs1, fun _ => 2, false, fun o a _ _ => arith .neg o.ty (o.mod.getLsbD 2) a 0 0⟩,
   ⟨.and, srcs2, fun _ => 2, false, fun o a b _ => logic .and (wholeWidth o.ty) a b⟩,
   ⟨.or, srcs2, fun _ => 2, false, fun o a b _ => logic .or (wholeWidth o.ty) a b⟩,
   ⟨.xor, srcs2, fun _ => 2, false, fun o a b _ => logic .xor (wholeWidth o.ty) a b⟩,
   ⟨.andn, srcs2, fun _ => 2, false, fun o a b _ => logic .andn (wholeWidth o.ty) a b⟩,
   ⟨.not, srcs1, fun _ => 2, false, fun o a _ _ => logic .not (wholeWidth o.ty) a 0⟩,
   ⟨.shl, srcs2, fun _ => 2, false, fun o a b _ => shift .shl o.ty a b⟩,
   ⟨.shr, srcs2, fun _ => 2, false, fun o a b _ => shift .shr o.ty a b⟩,
   ⟨.sar, srcs2, fun _ => 2, false, fun o a b _ => shift .sar o.ty a b⟩,
   ⟨.rot, srcs2, fun _ => 2, false, fun o a b _ => shift .rot o.ty a b⟩,
   ⟨.bfx, srcs2, fun _ => 2, false, fun o a b _ => bitExtract o.ty a b⟩,
   ⟨.bfi, srcs3, fun _ => 2, false, fun o a b c => bitInsert o.ty a b c⟩,
   ⟨.popc, srcs1, fun _ => 2, false, fun o a _ _ => popcount (wholeWidth o.ty) a⟩,
   ⟨.clz, srcs1, fun _ => 2, false, fun o a _ _ => leadingZeros (wholeWidth o.ty) a⟩,
   ⟨.brev, srcs1, fun _ => 2, false, fun o a _ _ => bitReverse (wholeWidth o.ty) a⟩,
   ⟨.sel, srcs3, fun _ => 2, false, fun o a b c => if c % 2 ^ wholeWidth o.ty = 0 then b else a⟩,
   ⟨.cmp, srcs2, fun _ => 2, false, fun o a b _ => compareElems o.ty (o.mod.extractLsb' 8 3).toNat (o.mod.getLsbD 11) a b⟩]

/-- MOV as a row: what the lane path writes is a. -/
def movRow : IntRow := ⟨.mov, srcs1, fun _ => 2, false, fun _ a _ _ => a⟩

/-- What MOV writes on the scalar path: all 64 bits of a scalar register, whatever the type, and another source as the type has it (R247). -/
def movedWord (o : ROp) (c : Issue) : DWord :=
  match o.a with
  | .s n => c.snap.sreg n.toNat
  | _ => scalarOf o.ty (scalarVal c o.ty o.a)

/-- An operation of format I: its constructor, and its value on a and the immediate. -/
structure ImmRow where
  make : IOp → Instr
  val : IOp → Nat → Nat → Nat

/-- The integer operations of format I (R247, R248). -/
def immRows : List ImmRow :=
  [⟨.addImm, fun o a k => arith .add o.ty (o.mod.getLsbD 2) a k 0⟩, ⟨.mulImm, fun o a k => arith .mul o.ty (o.mod.getLsbD 2) a k 0⟩,
   ⟨.andImm, fun o a k => logic .and (wholeWidth o.ty) a k⟩, ⟨.orImm, fun o a k => logic .or (wholeWidth o.ty) a k⟩,
   ⟨.xorImm, fun o a k => logic .xor (wholeWidth o.ty) a k⟩, ⟨.shlImm, fun o a k => shift .shl o.ty a k⟩,
   ⟨.shrImm, fun o a k => shift .shr o.ty a k⟩, ⟨.sarImm, fun o a k => shift .sar o.ty a k⟩,
   ⟨.cmpImm, fun o a k => compareElems o.ty (o.mod.extractLsb' 8 3).toNat (o.mod.getLsbD 11) a k⟩,
   ⟨.minImm, fun o a k => arith .min o.ty false a k 0⟩, ⟨.maxImm, fun o a k => arith .max o.ty false a k 0⟩]

/-- MOVW as a row: what the lane path writes is a with one half-word replaced. -/
def movwRow : ImmRow := ⟨.movw, fun o a _ => insertHalf a (o.mod.extractLsb' 0 2).toNat o.imm.toNat⟩

/-- Each integer operation of format R, on the lane path, puts its value for every active lane on its way to d and, on the scalar path, its one
value, which MOV takes whole from a scalar register whatever its type; it changes nothing else, no flag among it (R183, R226 to R228, R240,
R247). On the lane path with no active lane, and on the scalar path when its stage suppresses it, it changes nothing (R149, R166). The
immediate forms act as their register forms with b the immediate sign-extended to the type's width; MOVW replaces one half-word of a, which
is d, and on the scalar path keeps the other 48 bits whatever the type; MOVI writes the extended immediate (R247, R248). -/
def Obligations.IntegerOperations : Prop :=
  (∀ (o : ROp) (s : State) (c : Issue), Runs s c →
   (o.at'.slot.isScalar = true → c.scalarRuns o.at' = true → ∃ t, exec (.mov o) s = .next t ∧ ScalarResult s t c o.d 2 false (movedWord o c)) ∧
   (∀ r ∈ intRows, o.at'.slot.isScalar = true → c.scalarRuns o.at' = true →
      ∃ t, exec (r.make o) s = .next t ∧
        ScalarResult s t c o.d (r.lat o.ty) r.empties
          (scalarOf o.ty (r.val o (scalarVal c o.ty o.a) (scalarVal c o.ty o.b) (scalarVal c o.ty o.c)))) ∧
   ∀ r ∈ movRow :: intRows,
    (o.at'.slot.isScalar = false → c.opLanes o.at' ≠ [] → Fed s c o.at' (r.srcs o) →
      ∃ t, exec (r.make o) s = .next t ∧
        LaneResult s t c o.at' (r.srcs o) o.d (r.lat o.ty) r.empties
          (fun g l => BitVec.ofNat 32 (r.val o (laneVal c g o.ty o.a l) (laneVal c g o.ty o.b l) (laneVal c g o.ty o.c l)))) ∧
    (o.at'.slot.isScalar = true ∧ c.scalarRuns o.at' = false ∨ o.at'.slot.isScalar = false ∧ c.opLanes o.at' = [] →
      exec (r.make o) s = .next s)) ∧
  (∀ (o : IOp) (s : State) (c : Issue), Runs s c →
    let imm := (o.imm.signExtend (wholeWidth o.ty)).toNat
    (∀ r ∈ immRows, o.at'.slot.isScalar = true → c.scalarRuns o.at' = true →
      ∃ t, exec (r.make o) s = .next t ∧ ScalarResult s t c o.d 2 false (scalarOf o.ty (r.val o (scalarVal c o.ty o.a) imm))) ∧
    (o.at'.slot.isScalar = true → c.scalarRuns o.at' = true →
      ∃ t, exec (.movw o) s = .next t ∧
        ScalarResult s t c o.d 2 false (BitVec.ofNat 64 (insertHalf (scalarVal c o.ty o.a) (o.mod.extractLsb' 0 2).toNat o.imm.toNat))) ∧
    (∀ r ∈ movwRow :: immRows, o.at'.slot.isScalar = false → c.opLanes o.at' ≠ [] → Fed s c o.at' [(o.a, o.fa)] →
      ∃ t, exec (r.make o) s = .next t ∧
        LaneResult s t c o.at' [(o.a, o.fa)] o.d 2 false (fun g l => BitVec.ofNat 32 (r.val o (laneVal c g o.ty o.a l) imm))) ∧
    (o.at'.slot.isScalar = true → c.scalarRuns o.at' = true →
      ∃ t, exec (.movi o) s = .next t ∧ ScalarResult s t c o.d 2 false (scalarOf o.ty imm)) ∧
    (o.at'.slot.isScalar = false → c.opLanes o.at' ≠ [] →
      ∃ t, exec (.movi o) s = .next t ∧ LaneResult s t c o.at' [] o.d 2 false (fun _ _ => BitVec.ofNat 32 imm)))

/-- R244, bit by bit: the logical operations, and each shift and rotation of an element by the amount in the same element of b. R245, bit by
bit: the field that BFX extracts and BFI inserts, and the counts and the reversal. -/
def Obligations.LogicAndBitFields : Prop :=
  ((∀ (w a b k : Nat), k < w →
    (logic .and w a b).testBit k = (a.testBit k && b.testBit k) ∧ (logic .or w a b).testBit k = (a.testBit k || b.testBit k) ∧
    (logic .xor w a b).testBit k = (a.testBit k ^^ b.testBit k) ∧ (logic .andn w a b).testBit k = (a.testBit k && !b.testBit k) ∧
    (logic .not w a b).testBit k = !a.testBit k) ∧
  ∀ (t : Ty) (a b i k : Nat), i < t.count → k < t.elemBits →
    let w := t.elemBits
    let x := elemAt t a i
    let s := elemAt t b i
    (elemAt t (shift .shl t a b) i).testBit k = (decide (s ≤ k) && x.testBit (k - s)) ∧
    (elemAt t (shift .shr t a b) i).testBit k = (decide (k + s < w) && x.testBit (k + s)) ∧
    (elemAt t (shift .sar t a b) i).testBit k = x.testBit (min (k + s) (w - 1)) ∧
    (elemAt t (shift .rot t a b) i).testBit k = x.testBit ((k + (w - s % w)) % w)) ∧
  ((∀ (t : Ty) (a b ctl k : Nat), k < t.elemBits → t.count = 1 →
    let w := t.elemBits
    let p := min (ctl % 256) w
    let l := min (ctl / 256 % 256) (w - p)
    (bitExtract t a ctl).testBit k =
      (if k < l then a.testBit (p + k) else decide (0 < l) && isSigned t && a.testBit (p + l - 1)) ∧
    (bitInsert t a b ctl).testBit k = (if p ≤ k ∧ k < p + l then a.testBit (k - p) else b.testBit k)) ∧
  ∀ (w a : Nat), 0 < w →
    popcount w a = ((List.range w).filter (fun k => a.testBit k)).length ∧
    (∀ k < w, w - leadingZeros w a ≤ k → a.testBit k = false) ∧
    (leadingZeros w a < w → a.testBit (w - 1 - leadingZeros w a) = true) ∧ leadingZeros w a ≤ w ∧
    ∀ k < w, (bitReverse w a).testBit k = a.testBit (w - 1 - k))

/-- R241, element by element: with .sat the number written is the exact result clamped to the type's range, without it the number of the type
congruent to the exact result modulo 2^w; MULH is the upper half of the product. R242: ADDC and ADDC.hi together give the whole sum x + y +
c[0]; SUBC and SUBC.hi together the whole difference. R243: the quotient is rounded toward zero and the remainder, of x's sign or 0, makes
up the rest; a divisor of 0 gives all bits set and x; the one quotient outside the type's range is -2^(w-1), clamped with .sat, with
remainder 0. R246: CMP writes, for each element, 0 for false, and 1, or all ones with .m, for true, on the numbers of the elements. -/
def Obligations.IntegerElements : Prop :=
  (∀ (k : Arith) (t : Ty) (a b c i : Nat), i < t.count →
    let w := t.elemBits
    let x := num t (elemAt t a i)
    let y := num t (elemAt t b i)
    let z := num t (elemAt t c i)
    let r : Int :=
      match k with
      | .add => x + y
      | .sub => x - y
      | .mul => x * y
      | .mad => x * y + z
      | .mulh => ⌊((x * y : Int) : Rat) / 2 ^ w⌋
      | .min => min x y
      | .max => max x y
      | .abs => |x|
      | .neg => -x
    num t (elemAt t (arith k t true a b c) i) = max (minOf t) (min (maxOf t) r) ∧
    minOf t ≤ num t (elemAt t (arith k t false a b c) i) ∧ num t (elemAt t (arith k t false a b c) i) ≤ maxOf t ∧
    (2 ^ w : Int) ∣ num t (elemAt t (arith k t false a b c) i) - r) ∧
  (∀ (t : Ty) (x y c : Nat), x < 2 ^ t.elemBits → y < 2 ^ t.elemBits →
    addCarry t false x y c < 2 ^ t.elemBits ∧ addCarry t true x y c ≤ 1 ∧
    2 ^ t.elemBits * addCarry t true x y c + addCarry t false x y c = x + y + c % 2 ∧
    subBorrow t false x y c < 2 ^ t.elemBits ∧ subBorrow t true x y c ≤ 1 ∧
    (subBorrow t false x y c : Int) - 2 ^ t.elemBits * subBorrow t true x y c = (x : Int) - y - (c % 2 : Nat)) ∧
  (∀ (t : Ty) (sat : Bool) (a b : Nat),
    let w := t.elemBits
    let x := num t a
    let y := num t b
    (y = 0 → divide t sat a b = 2 ^ w - 1 ∧ remainder t a b = a % 2 ^ w) ∧
    (y ≠ 0 → ¬(isSigned t = true ∧ x = -(2 ^ (w - 1) : Int) ∧ y = -1) →
      x = num t (divide t sat a b) * y + num t (remainder t a b) ∧ |num t (remainder t a b)| < |y| ∧
        0 ≤ num t (remainder t a b) * x) ∧
    (isSigned t = true → x = -(2 ^ (w - 1) : Int) → y = -1 →
      num t (divide t sat a b) = (if sat then 2 ^ (w - 1) - 1 else -(2 ^ (w - 1) : Int)) ∧ remainder t a b = 0)) ∧
  (∀ (t : Ty) (m : Bool) (a b i : Nat), i < t.count →
    let x := num t (elemAt t a i)
    let y := num t (elemAt t b i)
    let truth (p : Bool) := if p then (if m then 2 ^ t.elemBits - 1 else 1) else 0
    elemAt t (compareElems t 0 m a b) i = truth (x = y) ∧ elemAt t (compareElems t 1 m a b) i = truth (x ≠ y) ∧
    elemAt t (compareElems t 2 m a b) i = truth (x < y) ∧ elemAt t (compareElems t 3 m a b) i = truth (x ≤ y) ∧
    elemAt t (compareElems t 4 m a b) i = truth (x > y) ∧ elemAt t (compareElems t 5 m a b) i = truth (x ≥ y))

/-! ## The floating-point operations (R182 to R188, R257 to R266) -/

/-- A floating-point operation of format R as the claims list it: its sources, its latency with FMT.FL 0 and 1, whether it can
be diverted, whether it runs on the special unit, and the result, flags and diversion of a lane, given what each operand reads
there as a type. -/
structure FloatRow where
  make : ROp → Instr
  srcs : ROp → List (Spec × Bool)
  lat0 : Nat
  lat1 : Nat
  diverts : Bool
  special : Bool
  val : ROp → (Ty → Spec → Nat) → FElem

/-- The value of a form of R260 or R262 element by element. -/
def elementwise (n : Nat) (h : ROp → FFmt → Nat → Nat → Nat → Nat → Nat × FFlags) (o : ROp) (rd : Ty → Spec → Nat) : FElem :=
  floatElems o.ty n (rmOf o) (h o) (rd o.ty o.a) (rd o.ty o.b) (rd o.ty o.c)

/-- The floating-point operations of format R with the timing of R259. -/
def floatRows : List FloatRow :=
  [⟨.fadd, srcs2, 4, 8, true, false, elementwise 2 (fun o f rm x y _ => addElem f rm (satOf o) x y)⟩,
   ⟨.fsub, srcs2, 4, 8, true, false, elementwise 2 (fun o f rm x y _ => subElem f rm (satOf o) x y)⟩,
   ⟨.fmul, srcs2, 4, 8, true, false, elementwise 2 (fun o f rm x y _ => mulElem f rm (satOf o) x y)⟩,
   ⟨.fma, srcs3, 4, 8, true, false, elementwise 3 (fun o f rm x y z => fmaElem f rm (satOf o) x y z)⟩,
   ⟨.fdiv, srcs2, 24, 28, true, true, elementwise 2 (fun o f rm x y _ => divElem f rm (satOf o) x y)⟩,
   ⟨.fmin, srcs2, 4, 8, false, false, elementwise 2 (fun _ f _ x y _ => minMaxElem f false x y)⟩,
   ⟨.fmax, srcs2, 4, 8, false, false, elementwise 2 (fun _ f _ x y _ => minMaxElem f true x y)⟩,
   ⟨.fcmp, srcs2, 4, 8, false, false, elementwise 2 (fun o f _ x y _ =>
      (truthElem f.width (o.mod.getLsbD 11) (compareFloat f (o.mod.extractLsb' 8 3).toNat x y).1,
        (compareFloat f (o.mod.extractLsb' 8 3).toNat x y).2))⟩,
   ⟨.fclass, srcs1, 4, 8, false, false, elementwise 1 (fun _ f _ x _ _ => (classElem f x, 0#5))⟩,
   ⟨.frnd, srcs1, 4, 8, true, false, elementwise 1 (fun _ f rm x _ _ => rndElem f rm x)⟩,
   ⟨.rcp, srcs1, 12, 16, true, true, elementwise 1 (fun o f rm x _ _ => fnElem .rcp f rm (satOf o) x)⟩,
   ⟨.rsq, srcs1, 12, 16, true, true, elementwise 1 (fun o f rm x _ _ => fnElem .rsq f rm (satOf o) x)⟩,
   ⟨.sqrt, srcs1, 12, 16, true, true, elementwise 1 (fun o f rm x _ _ => fnElem .sqrt f rm (satOf o) x)⟩,
   ⟨.exp2, srcs1, 12, 16, true, true, elementwise 1 (fun o f rm x _ _ => fnElem .exp2 f rm (satOf o) x)⟩,
   ⟨.log2, srcs1, 12, 16, true, true, elementwise 1 (fun o f rm x _ _ => fnElem .log2 f rm (satOf o) x)⟩,
   ⟨.sin, srcs1, 16, 20, true, true, elementwise 1 (fun o f rm x _ _ => fnElem .sin f rm (satOf o) x)⟩,
   ⟨.cos, srcs1, 16, 20, true, true, elementwise 1 (fun o f rm x _ _ => fnElem .cos f rm (satOf o) x)⟩,
   ⟨.tanh, srcs1, 16, 20, true, true, elementwise 1 (fun o f rm x _ _ => fnElem .tanh f rm (satOf o) x)⟩,
   ⟨.cvt, srcs1, 4, 8, true, true, fun o rd =>
      mapFloat o.ty.elemBits o.ty.count (fun i =>
        convertFElem (srcTyOf o) o.ty (rmOf o) (satOf o) (elemAt (srcTyOf o) (rd (srcTyOf o) o.a) i))⟩,
   ⟨.unpack, srcs1, 4, 8, true, true, fun o rd =>
      convertFElem (srcTyOf o) o.ty (rmOf o) (satOf o) (elemAt (srcTyOf o) (rd (srcTyOf o) o.a) (o.mod.extractLsb' 6 3).toNat)⟩,
   ⟨.pack, fun o => if o.ty.count = 2 then srcs2 o else srcs3 o, 4, 8, true, true, fun o rd =>
      let src : Ty := if o.mod.getLsbD 10 then .i32 else .f32
      let h := (o.mod.extractLsb' 8 2).toNat
      mapFloat o.ty.elemBits o.ty.count (fun i =>
        if i = 2 * h then convertFElem src o.ty (rmOf o) (satOf o) (rd src o.a)
        else if i = 2 * h + 1 then convertFElem src o.ty (rmOf o) (satOf o) (rd src o.b)
        else { bits := elemAt o.ty (if o.ty.count = 2 then 0 else rd o.ty o.c) i })⟩]

/-- Each floating-point operation puts the results of the active lanes on their way to d and raises their flags in the slices of
those lanes. With FMT.FL = 0 a subnormal operand or result in any active lane, of an operation that diverts, adds 18 cycles
and marks the destination empty, as every operation of the special unit does, and is under way though its d is zero; FL = 1 has one latency (R187, R188, R259).
Nothing else changes; with no active lane nothing at all does (R149). -/
def Obligations.FloatOperations : Prop :=
  ∀ r ∈ floatRows, ∀ (o : ROp) (s : State) (c : Issue), Runs s c →
    (c.opLanes o.at' ≠ [] → Fed s c o.at' (r.srcs o) →
      let es := (c.opLanes o.at').map (fun l => (l, r.val o (fun t x => laneVal c (s.cur c) t x l)))
      let fl := fmtFl (c.snap.slice c.low).fmt
      let div := r.diverts && !fl && es.any (fun p => p.2.divert)
      let g := ((s.cur c).consume (streamsOf (r.srcs o))).raiseAll (es.map (fun p => (p.1, p.2.flags)))
      ∃ t, exec (r.make o) s = .next t ∧ OnlyRegisters c.who s t ∧
        t.cur c =
          (match o.d with
           | .v n => g.post { lanes := es.map (fun p => (32 * c.snap.phys n.toNat + p.1, BitVec.ofNat 32 p.2.bits, false)),
                              due := s.now + ((if fl then r.lat1 else r.lat0) + if div then 18 else 0), empties := r.special || div }
           | _ => if div then g.post { due := s.now + (if fl then r.lat1 else r.lat0) + 18, empties := true } else g)) ∧
    (c.opLanes o.at' = [] → exec (r.make o) s = .next s)

/-- The formats of the lane floating-point types. -/
def laneFormats : List FFmt := [f32, bf16, h16]

/-- R185 and R262: a signalling operand is an invalid operation, which gives the canonical NaN and raises NV alone; otherwise the first NaN
among the operands is quieted, its top fraction bit set, and no flag is raised. So is 0 × ∞ invalid, even beside a quiet NaN, and so are ∞ -
∞, 0 / 0 and ∞ / ∞. R186 and R261: FMIN and FMAX give the number beside a NaN, the first of two NaNs quieted, and of two numbers one that is
not beyond the other, -0 below +0; FCMP's conditions are those of the order, each false on a NaN but .ne and .un; FCLASS sets the one bit of
the operand's class. -/
def Obligations.NansAndSelection : Prop :=
  (∀ f ∈ laneFormats, ∀ (rm : Nat) (sat : Bool) (x y z : Nat), x < 2 ^ f.width → y < 2 ^ f.width → z < 2 ^ f.width →
    let quiet (v : Nat) := v ||| 2 ^ (f.mb - 1)
    (∀ h ∈ [addElem, subElem, mulElem, divElem],
      (f.isSnan x || f.isSnan y → h f rm sat x y = (f.canonNan, flagNV)) ∧
      (f.isSnan x = false → f.isSnan y = false → f.isNan x → h f rm sat x y = (quiet x, 0#5)) ∧
      (f.isNan x = false → f.isSnan y = false → f.isNan y → h f rm sat x y = (quiet y, 0#5))) ∧
    (zeroTimesInf f x y → fmaElem f rm sat x y z = (f.canonNan, flagNV)) ∧
    (zeroTimesInf f x y = false → f.isSnan x || f.isSnan y || f.isSnan z → fmaElem f rm sat x y z = (f.canonNan, flagNV)) ∧
    (zeroTimesInf f x y = false → f.isSnan x = false → f.isSnan y = false → f.isNan x = false → f.isNan y = false →
      f.isSnan z = false → f.isNan z → fmaElem f rm sat x y z = (quiet z, 0#5)) ∧
    (∀ k : Fn, (f.isSnan x → fnElem k f rm sat x = (f.canonNan, flagNV)) ∧
      (f.isSnan x = false → f.isNan x → fnElem k f rm sat x = (quiet x, 0#5))) ∧
    (∀ n, f.value x = .inf n →
      (f.value y = .inf (!n) → addElem f rm sat x y = (f.canonNan, flagNV)) ∧
      (f.value y = .inf n → subElem f rm sat x y = (f.canonNan, flagNV)) ∧
      (∀ m, f.value y = .inf m → divElem f rm sat x y = (f.canonNan, flagNV)) ∧
      (∀ m e, f.value y = .num m 0 e → mulElem f rm sat x y = (f.canonNan, flagNV)))) ∧
  (∀ f ∈ laneFormats, ∀ (x y : Nat), x < 2 ^ f.width → y < 2 ^ f.width →
    (f.isNan x → f.isNan y → (minMaxElem f false x y).1 = x ||| 2 ^ (f.mb - 1) ∧ (minMaxElem f true x y).1 = x ||| 2 ^ (f.mb - 1)) ∧
    (f.isNan x = false → f.isNan y → (minMaxElem f false x y).1 = x ∧ (minMaxElem f true x y).1 = x) ∧
    (f.isNan x → f.isNan y = false → (minMaxElem f false x y).1 = y ∧ (minMaxElem f true x y).1 = y) ∧
    (f.isNan x = false → f.isNan y = false →
      (minMaxElem f false x y).1 ∈ [x, y] ∧ (minMaxElem f true x y).1 ∈ [x, y] ∧
      (cmpFp (f.value x) (f.value y) = Ordering.lt → (minMaxElem f false x y).1 = x ∧ (minMaxElem f true x y).1 = y) ∧
      (cmpFp (f.value x) (f.value y) = Ordering.gt → (minMaxElem f false x y).1 = y ∧ (minMaxElem f true x y).1 = x) ∧
      (x = f.zero true → y = f.zero false → (minMaxElem f false x y).1 = x ∧ (minMaxElem f true x y).1 = y) ∧
      (x = f.zero false → y = f.zero true → (minMaxElem f false x y).1 = y ∧ (minMaxElem f true x y).1 = x)) ∧
    ((minMaxElem f false x y).2 = if f.isSnan x || f.isSnan y then flagNV else 0#5) ∧
    (∀ cc < 8,
      (f.isNan x || f.isNan y → (compareFloat f cc x y).1 = (cc == 1 || cc == 6)) ∧
      (f.isNan x = false → f.isNan y = false →
        (compareFloat f cc x y).1 =
          (match cc, cmpFp (f.value x) (f.value y) with
           | 0, r => r == Ordering.eq
           | 1, r => r != Ordering.eq
           | 2, r => r == Ordering.lt
           | 3, r => r != Ordering.gt
           | 4, r => r == Ordering.gt
           | 5, r => r != Ordering.lt
           | 7, _ => true
           | _, _ => false)) ∧
      (compareFloat f cc x y).2 =
        (if f.isSnan x || f.isSnan y || ((f.isNan x || f.isNan y) && decide (2 ≤ cc ∧ cc ≤ 5)) then flagNV else 0#5)) ∧
    classElem f x =
      2 ^ (if f.isSnan x then 8 else if f.isNan x then 9
           else if f.value x = .inf true then 0 else if f.value x = .inf false then 7
           else if x = f.zero true then 3 else if x = f.zero false then 4
           else if f.sign x then (if f.isSub x then 2 else 1) else (if f.isSub x then 5 else 6)))

/-- R182: a value that the format holds is its own rounding in every mode, and raises no flag. R182: rounding down gives no more than the value
and rounding up no less, whatever the exponent; RZ gives one or the other by the sign; and where NX is not raised the result is the value
itself. R184: a conversion to an integer type gives 0 for a NaN, and otherwise the rounded value clamped to the type's range; NV is raised
for a NaN, an infinity and a value out of range after rounding, and NX alone where the value changed otherwise. -/
def Obligations.Rounding : Prop :=
  (∀ f ∈ [f32, bf16, h16, e4m3, e5m2], ∀ rm < 4, ∀ x < 2 ^ f.width, f.isNan x = false → roundTo f rm (f.value x) = (x, 0#5)) ∧
  (∀ f ∈ [f32, bf16, h16, e5m2], ∀ (v : Fp), v ≠ .nan →
    cmpFp (f.value (roundTo f 2 v).1) v ≠ Ordering.gt ∧ cmpFp v (f.value (roundTo f 3 v).1) ≠ Ordering.gt ∧
    (∀ m e, v = .num false m e → (roundTo f 1 v).1 = (roundTo f 2 v).1) ∧ (∀ m e, v = .num true m e → (roundTo f 1 v).1 = (roundTo f 3 v).1) ∧
    ∀ rm < 4, (roundTo f rm v).2 &&& flagNX = 0#5 → cmpFp (f.value (roundTo f rm v).1) v = Ordering.eq) ∧
  (∀ f ∈ [f32, bf16, h16, e4m3, e5m2], ∀ (t : Ty) (rm x : Nat), 0 < t.elemBits →
    (f.value x = .nan → floatToInt f t rm x = (0, flagNV)) ∧
    (∀ n, f.value x = .inf n → num t (floatToInt f t rm x).1 = (if n then minOf t else maxOf t) ∧ (floatToInt f t rm x).2 = flagNV) ∧
    ∀ n m e, f.value x = .num n m e →
      let i : Int := (roundInt rm n m e 0 false).1
      let v : Int := if n then -i else i
      num t (floatToInt f t rm x).1 = max (minOf t) (min (maxOf t) v) ∧
      (floatToInt f t rm x).2 =
        (if v < minOf t ∨ maxOf t < v then flagNV else if (roundInt rm n m e 0 false).2 then 0#5 else flagNX))

/-- R265, R266: FMT writes the selected bits of the control and status fields in every slice of the gang, whatever the mask; with
a reserved bit in a, or where it would clear FL in exposed mode, it changes nothing and raises an illegal-operand trap (cause
0x07). FMTRD gives the lowest slice's control fields with the sticky flags of all the gang's slices, reserved bits 0; a VLIW thread
has the one copy of its lowest slice (R152, R159, R181). -/
def Obligations.FormatRegister : Prop :=
  ∀ (s : State) (c : Issue),
    (∀ o : IOp, ScalarRuns s c o.at' →
      let a : Word := (c.sval o.a).setWidth 32
      let m : Word := ((o.imm.extractLsb' 5 12).setWidth 32 <<< 11) ||| (o.imm.extractLsb' 0 5).setWidth 32
      let bad := a &&& 0xFF8007E0#32 ≠ 0#32 ∨ (c.snap.vliw && c.snap.exposed && m.getLsbD 14 && !a.getLsbD 14) = true
      (bad → ∃ t, exec (.fmt o) s = .next t ∧ OnlyIssue s t ∧
        t.issue = some { c with status := .stop { code := 0x07, slot := slotNumber o.at'.slot } }) ∧
      (¬bad → ∃ t, exec (.fmt o) s = .next t ∧
        RegistersBecome s t c (fun g => g.onSlices c.slices (fun x => { x with fmt := (x.fmt &&& ~~~m) ||| (a &&& m) })))) ∧
    (∀ o : ROp, ScalarRuns s c o.at' → ∃ t, exec (.fmtrd o) s = .next t ∧
      ∃ w : Word, ScalarResult s t c o.d 2 false (w.setWidth 64) ∧
        ∀ k < 32, w.getLsbD k =
          (((11 ≤ k ∧ k ≤ 22) ∧ (c.snap.slice c.low).fmt.getLsbD k) ∨
            k ≤ 4 ∧ if c.snap.vliw then (c.snap.slice c.low).fmt.getLsbD k = true else ∃ j ∈ c.slices, (c.snap.slice j).fmt.getLsbD k : Prop))

/-! ## Dots, codebook, lane exchange, passes, random numbers (R164, R267 to R277) -/

/-- A lane operation of one result register as the claims list it: its sources, its latency, whether it runs on the special unit,
and its value in lane `l`, given the issue record and the group, before consumption, that `laneVal` reads. -/
structure LaneRow where
  make : ROp → Instr
  srcs : ROp → List (Spec × Bool)
  lat : Nat
  empties : Bool
  val : ROp → Issue → Group → Nat → Nat

/-- The sum of R269: c and the products of the elements of a and b, exact. -/
def dotSum (o : ROp) (c : Issue) (g : Group) (l : Nat) : Int :=
  let tb := mixedTy o.ty (o.mod.getLsbD 8)
  num .i32 (laneVal c g .i32 o.c l) +
    ((List.range o.ty.count).map (fun i => num o.ty (elemAt o.ty (laneVal c g o.ty o.a l) i) * num tb (elemAt tb (laneVal c g tb o.b l) i))).sum

/-- The lanes that supply nothing to lane `l` leave it its own value (R271). -/
def fromLane (o : ROp) (c : Issue) (g : Group) (l : Nat) (j : Option Nat) : Nat :=
  match j with
  | some j => if c.mask.getLsbD j then laneVal c g o.ty o.a j else laneVal c g o.ty o.a l
  | none => laneVal c g o.ty o.a l

/-- The source lane of SHFL by its mode (R271). -/
def shuffleSource (o : ROp) (y l : Nat) : Option Nat :=
  let n := 2 ^ ((o.mod.extractLsb' 10 3).toNat + 1)
  let base := l - l % n
  match (o.mod.extractLsb' 8 2).toNat with
  | 0 => some (base + y % n)
  | 1 => some (base + (l - base + y) % n)
  | 2 => if (base : Int) ≤ l + toSigned 32 y ∧ l + toSigned 32 y < base + n then some (l + toSigned 32 y).toNat else none
  | _ => some (l ^^^ (y % n))

/-- The lane operations of one result that touch no other state. -/
def laneRows : List LaneRow :=
  [⟨.dot4, srcs3, 8, false, fun o c g l => fitTo .i32 (satOf o) (dotSum o c g l)⟩,
   ⟨.dot8, srcs3, 8, false, fun o c g l => fitTo .i32 (satOf o) (dotSum o c g l)⟩,
   ⟨.dotf, srcs3, 8, false, fun o c g l =>
      dotfElem (rmOf o) (satOf o) (o.mod.getLsbD 9)
        (windowOf (if o.mod.getLsbD 3 then (o.mod.extractLsb' 4 3).toNat else fmtWin (c.snap.slice c.low).fmt))
        (laneVal c g .bf16x2 o.a l) (laneVal c g .bf16x2 o.b l) (laneVal c g .f32 o.c l)⟩,
   ⟨.shfl, srcs2, 4, true, fun o c g l => fromLane o c g l (shuffleSource o (laneVal c g .n32 o.b l) l)⟩,
   ⟨.bcast, srcs1, 4, true, fun o c g l =>
      fromLane o c g l (if scalarVal c .n32 o.b % 2 ^ 32 < 32 then some (scalarVal c .n32 o.b % 2 ^ 32) else none)⟩,
   ⟨.rngrd, fun _ => [], 4, true, fun o _ g l => (g.rngWord l (o.mod.extractLsb' 8 2).toNat).toNat⟩]

/-- Each of DOT4, DOT8, DOTF, SHFL, BCAST and RNGRD puts its value for every active lane on its way to d and changes nothing else, no flag among
it (R187, R189, R269 to R271, R277); with no active lane it changes nothing. The operands of SHFL are in the group's lanes. R272 and R273:
VOTE writes one value into d of every active lane; REDUX folds a over the active lanes in ascending order, or with .scan over those up to
each lane; an integer sum is exact and fitted once; the flags of an f32 fold are raised in the gang's lowest slice. -/
def Obligations.LaneOperations : Prop :=
  (∀ r ∈ laneRows, ∀ (o : ROp) (s : State) (c : Issue), Runs s c →
    (c.opLanes o.at' ≠ [] → Fed s c o.at' (r.srcs o) →
      ∃ t, exec (r.make o) s = .next t ∧
        LaneResult s t c o.at' (r.srcs o) o.d r.lat r.empties (fun g l => BitVec.ofNat 32 (r.val o c g l))) ∧
    (c.opLanes o.at' = [] → exec (r.make o) s = .next s)) ∧
  (∀ (o : ROp) (s : State) (c : Issue), LanesRun s c o.at' (srcs1 o) →
    let lanes := c.opLanes o.at'
    let a := laneVal c (s.cur c) o.ty o.a
    (∃ t, exec (.vote o) s = .next t ∧
      LaneResult s t c o.at' (srcs1 o) o.d 4 true (fun _ _ =>
        match (o.mod.extractLsb' 8 2).toNat with
        | 0 => if ∃ l ∈ lanes, a l ≠ 0 then 1 else 0
        | 1 => if ∀ l ∈ lanes, a l ≠ 0 then 1 else 0
        | 2 => maskOf 32 (fun l => decide (l ∈ lanes ∧ a l ≠ 0))
        | _ => if ∀ l ∈ lanes, ∀ k ∈ lanes, a l = a k then 1 else 0)) ∧
    let upTo (l : Nat) : List Nat := (if o.mod.getLsbD 11 then lanes.filter (fun j => j ≤ l) else lanes).map a
    let op := (o.mod.extractLsb' 8 3).toNat
    (o.ty ≠ .f32 →
      ∃ t, exec (.redux o) s = .next t ∧
        LaneResult s t c o.at' (srcs1 o) o.d 8 true (fun _ l => BitVec.ofNat 32 (reduxInt op o.ty (satOf o) (upTo l))) ∧
        ∀ l, reduxInt 0 o.ty (satOf o) (upTo l) = fitTo o.ty (satOf o) ((upTo l).map (num o.ty)).sum) ∧
    (o.ty = .f32 →
      ∃ t, exec (.redux o) s = .next t ∧ OnlyRegisters c.who s t ∧
        t.cur c =
          (let g := ((s.cur c).consume (streamsOf (srcs1 o))).onSlice c.low
            (fun x => { x with fmt := x.fmt ||| (reduxFloat op (rmOf o) (lanes.map a)).2.setWidth 32 })
           match o.d with
           | .v n => g.post { lanes := lanes.map (fun l => (32 * c.snap.phys n.toNat + l, BitVec.ofNat 32 (reduxFloat op (rmOf o) (upTo l)).1, false)),
                              due := s.now + 12, empties := true }
           | _ => g)))

/-- R267, R268: CBSET writes two codebook entries in each active lane, the highest of several lanes that name one pair last, and has the gang's
readers wait for 4 cycles; CBENC replaces the elements p (and p + 1) of c by the indices of the entries nearest to a's elements; CBDEC
writes the entries that the indices of a select. Nothing else changes; the codebook is the group's. R179, R180: what an encoding picks is a
candidate nearest to the value: an index below n whose entry is no NaN, and no candidate of a lower index is as near, none of a higher one
nearer. -/
def Obligations.CodebookOperations : Prop :=
  (∀ (o : ROp) (s : State) (c : Issue), Runs s c → c.opLanes o.at' ≠ [] →
    (Fed s c o.at' (srcs2 o) →
      ∃ t, exec (.cbset o) s = .next t ∧
        RegistersBecome s t c (fun g =>
          Group.onSlices ((c.opLanes o.at').foldl (fun h l =>
            { h with codebook :=
                let j := laneVal c (s.cur c) .n32 o.b l % 32
                let a := laneVal c (s.cur c) .bf16x2 o.a l
                Sparse.put 0 (2 * j + 1) (BitVec.ofNat 16 (a / 65536)) (Sparse.put 0 (2 * j) (BitVec.ofNat 16 a) h.codebook) })
            (g.consume (streamsOf (srcs2 o)))) c.slices (fun y => { y with cbDue := s.now + 4 }))) ∧
    let kind : Ty := if o.mod.getLsbD 8 then .k6x4 else .k4x8
    let p := (o.mod.extractLsb' 11 3).toNat
    let fmt (l : Nat) := (c.snap.slice (if c.snap.vliw then 0 else l / 4)).fmt
    let base (l : Nat) := if o.mod.getLsbD 8 then 0 else 16 * (fmt l).extractLsb' 15 2 |>.toNat
    let n := if o.mod.getLsbD 8 then 64 else 16
    (Fed s c o.at' [(o.a, o.fa), (o.c, o.fc)] → ∀ f, fmtOfTy o.ty = some f →
      ∃ t, exec (.cbenc o) s = .next t ∧
        LaneResult s t c o.at' [(o.a, o.fa), (o.c, o.fc)] o.d 4 true (fun g l =>
          let idx (i : Nat) := cbEncode c.snap (base l) n ((fmt l).extractLsb' 17 6).toNat f (elemAt o.ty (laneVal c g o.ty o.a l) i)
          let x := setElem kind (laneVal c g kind o.c l) p (idx 0)
          BitVec.ofNat 32 (if o.ty.count = 2 then setElem kind x (p + 1) (idx 1) else x))) ∧
    (Fed s c o.at' (srcs1 o) →
      ∃ t, exec (.cbdec o) s = .next t ∧
        LaneResult s t c o.at' (srcs1 o) o.d 4 true (fun g l =>
          let e (i : Nat) := (c.snap.cb (base l + elemAt kind (laneVal c g kind o.a l) i)).toNat
          BitVec.ofNat 32 (if o.ty.count = 2 then e p + 65536 * e (p + 1) else 65536 * e p)))) ∧
  (∀ (g : Group) (base n cbn x j : Nat) (f : FFmt), f.isNan x = false → (∀ b, f.value x ≠ .inf b) →
    let dist (k : Nat) := fpDistance (f.value x) (bf16.value (g.cb (base + k)).toNat)
    let cand (k : Nat) := k < n ∧ bf16.isNan (g.cb (base + k)).toNat = false
    cbEncode g base n cbn f x = j → (∃ k, cand k) →
      cand j ∧ ∀ k, cand k → distLess (dist k) (dist j) = false ∧ (k < j → distLess (dist j) (dist k) = true))

/-- R164, R274: in a lane slot of a VLIW bundle PSEND puts a on the pass at its cluster, and is a schedule trap where a value is already there;
PTAKE reads the value there, driven k bundles earlier, which stays, and is a schedule trap where there is none or one of another age.
Nothing else changes. R275 to R277: in each active lane RNG and RNGF make one step of the lane's xorshift128 state and write its result,
RSPLIT seeds the state from the seed, the stream and the lane's index, RNGWR sets one word of it. Inactive lanes keep their state. -/
def Obligations.PassesAndRandomNumbers : Prop :=
  (∀ (o : ROp) (s : State) (c : Issue) (l : Nat), Runs s c → c.opLanes o.at' = [l] →
    let p := (o.mod.extractLsb' 8 2).toNat
    let k := (o.mod.extractLsb' 10 4).toNat
    let trap (t : State) := OnlyIssue s t ∧ t.issue =
      some { c with status := .stop { code := 0x08, slot := slotNumber o.at'.slot, aux := BitVec.ofNat 64 (256 * (l % 256)) } }
    (Fed s c o.at' (srcs1 o) → (∀ v ∈ (s.cur c).passes, v.pass ≠ p ∨ v.cluster ≠ l) →
      ∃ t, exec (.psend o) s = .next t ∧
        RegistersBecome s t c (fun g =>
          { g.consume (streamsOf (srcs1 o)) with
            passes := g.passes ++ [{ pass := p, cluster := l, age := 0, value := BitVec.ofNat 32 (laneVal c (s.cur c) o.ty o.a l) }] })) ∧
    (streamsOf (srcs1 o) = [] → (∃ v ∈ (s.cur c).passes, v.pass = p ∧ v.cluster = l) → ∃ t, exec (.psend o) s = .next t ∧ trap t) ∧
    (∀ v, c.snap.passes.find? (fun v => v.pass == p && v.cluster == l) = some v → v.age = k →
      ∃ t, exec (.ptake o) s = .next t ∧ LaneResult s t c o.at' [] o.d 1 false (fun _ _ => v.value)) ∧
    (((∀ v ∈ c.snap.passes, v.pass ≠ p ∨ v.cluster ≠ l) ∨
        ∃ v, c.snap.passes.find? (fun v => v.pass == p && v.cluster == l) = some v ∧ v.age ≠ k) →
      ∃ t, exec (.ptake o) s = .next t ∧ trap t)) ∧
  (∀ (o : ROp) (s : State) (c : Issue), Runs s c → c.opLanes o.at' ≠ [] →
    let word (g : Group) (l j : Nat) := g.rngWord l j
    let stepped (l : Nat) : Word × Word × Word × Word :=
      let x := word (s.cur c) l 0
      let w := word (s.cur c) l 3
      let t := x ^^^ (x <<< 11)
      (word (s.cur c) l 1, word (s.cur c) l 2, w, w ^^^ (w >>> 19) ^^^ t ^^^ (t >>> 8))
    let words (g : Group) (l : Nat) := (word g l 0, word g l 1, word g l 2, word g l 3)
    let inactive (t : State) := ∀ l, l ∉ c.opLanes o.at' → words (t.cur c) l = words (s.cur c) l
    let posted (t : State) (h : Word → Word) := ∀ n, o.d = .v n →
      (t.cur c).inflight = (s.cur c).inflight ++
        [{ lanes := (c.opLanes o.at').map (fun l => (32 * c.snap.phys n.toNat + l, h (stepped l).2.2.2, false)), due := s.now + 4, empties := true }]
    (∃ t, exec (.rng o) s = .next t ∧ OnlyRegisters c.who s t ∧ inactive t ∧ posted t id ∧
      ∀ l ∈ c.opLanes o.at', words (t.cur c) l = stepped l) ∧
    (∃ t, exec (.rngf o) s = .next t ∧ OnlyRegisters c.who s t ∧ inactive t ∧ posted t unitFloat ∧
      ∀ l ∈ c.opLanes o.at', words (t.cur c) l = stepped l) ∧
    (Fed s c o.at' (srcs3 o) →
      ∃ t, exec (.rsplit o) s = .next t ∧ OnlyRegisters c.who s t ∧ inactive t ∧ (t.cur c).inflight = (s.cur c).inflight ∧
        ∀ l ∈ c.opLanes o.at', words (t.cur c) l =
          rsplitState (BitVec.ofNat 64 (laneVal c (s.cur c) .b32 o.b l * 2 ^ 32 + laneVal c (s.cur c) .b32 o.a l))
            (BitVec.ofNat 64 (laneVal c (s.cur c) .b32 o.c l)) (BitVec.ofNat 64 (c.tidx * 1024 + 32 * rsplitGroup c.who c.snap + l))) ∧
    (Fed s c o.at' (srcs1 o) →
      ∃ t, exec (.rngwr o) s = .next t ∧ OnlyRegisters c.who s t ∧ inactive t ∧ (t.cur c).inflight = (s.cur c).inflight ∧
        ∀ l ∈ c.opLanes o.at', ∀ j < 4, word (t.cur c) l j =
          if j = (o.mod.extractLsb' 8 2).toNat then BitVec.ofNat 32 (laneVal c (s.cur c) o.ty o.a l) else word (s.cur c) l j))

/-! ## Control (R146 to R160, R229 to R239) -/

/-- No trace record is written for the issuer (R364). -/
def Untraced (s : State) (c : Issue) : Prop := isGlen c.who = true ∨ ∀ bit, s.traces (coreOf c.who) bit = false

/-- The slices of a gang, each a slice of its group, none twice. -/
def GangIn (g : Group) (ks : List Nat) : Prop := ks.Nodup ∧ ∀ k ∈ ks, k < g.slices.length

/-- An operation stops its bundle with a cause code at its slot, and does nothing else (R353). -/
def TrapsWith (code : Nat) (i : Instr) (site : Site) (s : State) (c : Issue) : Prop :=
  ∃ t, exec i s = .next t ∧ OnlyIssue s t ∧ t.issue = some { c with status := .stop { code := code, slot := slotNumber site.slot } }

/-- The slices `ks` of the gang go on at `tgt` and the others where they were to go, after `bubble` cycles where any is taken;
nothing else happens. -/
def Transfers (s t : State) (c : Issue) (ks : List Nat) (tgt : DWord) (bubble : Nat) (parts : Bool) : Prop :=
  OnlyIssue s t ∧
  ∃ i, t.issue = some i ∧ i = { c with npc := i.npc, moved := c.moved ++ ks, parts := parts, bubble := if ks = [] then c.bubble else bubble } ∧
    ∀ k, Sparse.look c.next k i.npc = if k ∈ ks then tgt else Sparse.look c.next k c.npc

/-- R230, R231: BRA takes the slices for which the condition holds - lane 0's, that of some active lane, or that of every active lane of a slice
that has one - to the address of the bundle plus the offset; BRX takes the gang to the register's address with its two low bits 0. A taken
transfer costs one cycle (R228), and in the forms by slice the gang may part (R146). R154, R232: on a glen core or the agent CALL and CALLX
push the next bundle's address, and RET pops it; in a group they also move the window up by its size less 8 and RET moves it back, with the
entries of every live slice. A call that does not spill and a return that does not refill touch no memory. A call past the stack's depth and
a return without a call entry on top of every live slice are control-overflow traps (cause 0x09); a gang that is not its whole group may not
call (cause 0x06). That a parted gang's RET moves that gang alone is the model's reading (DEDUCED, log entry 63). -/
def Obligations.BranchesAndCalls : Prop :=
  (∀ (s : State) (c : Issue), Runs s c → Untraced s c →
    (∀ o : BOp,
      let hit (l : Nat) : Prop := (laneVal c c.snap .b32 o.c l % 2 ^ 32 ≠ 0) ↔ o.mod.getLsbD 0 = false
      let act (k j : Nat) : Prop := j < 4 ∧ c.snap.active k j = true
      ∃ t ks, exec (.bra o) s = .next t ∧ Transfers s t c ks (c.pc + o.off.signExtend 64) 1 (o.form != 0) ∧
        ∀ k, k ∈ ks ↔ k ∈ c.slices ∧
          (if o.form = 0 then hit 0
           else if o.form = 1 then ∃ j, act k j ∧ hit (4 * k + j)
           else (∃ j, act k j) ∧ ∀ j, act k j → hit (4 * k + j))) ∧
    (∀ o : ROp, ∃ t, exec (.brx o) s = .next t ∧ Transfers s t c c.slices (c.sval o.a &&& ~~~3#64) 1 c.parts)) ∧
  (∀ (s : State) (c : Issue), Runs s c → Untraced s c → GangIn (s.cur c) c.slices → c.snap = s.cur c →
    let small : Prop := (isGlen c.who || isAgent c.who) = true
    let g := s.cur c
    let ks := if g.vliw then [0] else c.slices
    (0 < g.slices.length → c.slices ≠ [] → ∀ (n : Nat) (tgt : DWord) (i : Instr) (site : Site),
      ((∃ o : BOp, i = .call o ∧ n = 8 * ((o.mod.extractLsb' 0 3).toNat + 1) ∧ tgt = c.pc + o.off.signExtend 64 ∧ site = o.at') ∨
       (∃ o : ROp, i = .callx o ∧ n = 8 * ((o.mod.extractLsb' 0 3).toNat + 1) ∧ tgt = c.sval o.a &&& ~~~3#64 ∧ site = o.at')) →
      (small → n = 8 → (g.slice c.low).stack'.length < (if isGlen c.who then 8 else 16) →
        ∃ t u, exec i s = .next t ∧
          RegistersBecome s u c (fun g => g.onSlices ks (fun y => { y with stack' := { kind := .callE, addr := c.next } :: y.stack' })) ∧
          Transfers u t c c.slices tgt 1 c.parts) ∧
      (small → n = 8 → (if isGlen c.who then 8 else 16) ≤ (g.slice c.low).stack'.length → TrapsWith 0x09 i site s c) ∧
      (small → n ≠ 8 → TrapsWith 0x06 i site s c) ∧
      (¬small → wholeGang c = false → TrapsWith 0x06 i site s c) ∧
      (¬small → wholeGang c = true → (∃ k ∈ ks, 16 ≤ (g.slice k).stack'.length) → TrapsWith 0x09 i site s c) ∧
      (¬small → wholeGang c = true → (∀ k ∈ ks, (g.slice k).stack'.length < 16) → g.win.lim ≤ g.win.sp →
        g.win.wb + g.win.ws - 8 + n ≤ g.win.bot + g.gid.rsb → (s.core (coreOf c.who)).agent.wpc = [] →
        ∃ t u, exec i s = .next t ∧
          RegistersBecome s u c (fun g =>
            { g.onSlices ks (fun y => { y with stack' := { kind := .callE, addr := c.next, cws := BitVec.ofNat 3 (g.win.ws / 8 - 1) } :: y.stack' }) with
              win := { g.win with wb := g.win.wb + g.win.ws - 8, ws := n } }) ∧
          Transfers u t c c.slices tgt 1 c.parts)) ∧
    (∀ o : ROp,
      let rs := if isGlen c.who || isAgent c.who then c.slices else if g.vliw then [0] else g.live
      ((∃ k ∈ rs, (g.slice k).stack'.head?.map Entry.kind ≠ some .callE) → TrapsWith 0x09 (.ret o) o.at' s c) ∧
      ((∀ k ∈ rs, (g.slice k).stack'.head?.map Entry.kind = some .callE) → ∀ e, (g.slice c.low).stack'.head? = some e →
        (small → ∃ t u, exec (.ret o) s = .next t ∧
          RegistersBecome s u c (fun g => g.onSlices rs (fun y => { y with stack' := y.stack'.tail })) ∧
          Transfers u t c c.slices e.addr 1 c.parts) ∧
        (¬small → e.spn = 0 → (s.core (coreOf c.who)).agent.wpc = [] →
          ∃ t u, exec (.ret o) s = .next t ∧
            RegistersBecome s u c (fun g =>
              { g.onSlices rs (fun y => { y with stack' := y.stack'.tail }) with
                win := { g.win with wb := g.win.wb + 8 - 8 * (e.cws.toNat + 1), ws := 8 * (e.cws.toNat + 1) } }) ∧
            Transfers u t c c.slices e.addr 1 c.parts))))

/-- The lanes of a gang's slices. -/
abbrev InGang (c : Issue) (l : Nat) : Prop := l / 4 ∈ c.slices

/-- R150, R151: IF pushes an entry with FMT on every slice of the gang and turns off the lanes whose condition is zero; ELSE turns the lanes of
this IF over; ENDIF pops the entry. A lane off through an outer structure counts one level more or less. FMT takes its control fields back
from the entry and keeps its sticky flags. An ELSE or ENDIF without its entry, a full stack and a full counter are control-overflow traps
(cause 0x09). R151, R165, R233: LOOP with a trip count of 0 goes to its target; otherwise it pushes an entry that holds FMT, the address
after it, the count, and in a VLIW thread the stage count. ENDLOOP counts an iteration and goes back while some lane of the slice is left in
the loop and iterations are, or in a VLIW thread until the pipeline has drained; else it pops the entry. BRK and CONT mark the active lanes
in the innermost loop's entry. A missing entry or a full stack is a control-overflow trap (cause 0x09). -/
def Obligations.StructuredControl : Prop :=
  (∀ (o : ROp) (s : State) (c : Issue), Runs s c → GangIn (s.cur c) c.slices → c.snap = s.cur c →
    let g := s.cur c
    let tops (p : Entry → Prop) : Prop := ∀ k ∈ c.slices, ∃ e es, (g.slice k).stack' = e :: es ∧ p e
    let restored (y : Slice) (e : Entry) : Word := (e.fmt &&& ~~~0x1F#32) ||| (y.fmt &&& 0x1F#32)
    let full : Prop := (∃ k ∈ c.slices, 16 ≤ (g.slice k).stack'.length) ∨ ∃ l, InGang c l ∧ 15 ≤ g.nc l
    (full → TrapsWith 0x09 (.ifC o) o.at' s c) ∧
    (¬full → ∃ t, exec (.ifC o) s = .next t ∧ OnlyRegisters c.who s t ∧
      (∀ l, (t.cur c).nc l =
        if InGang c l then (if 0 < g.nc l then g.nc l + 1 else if laneVal c g .b32 o.a l % 2 ^ 32 ≠ 0 then 0 else 1) else g.nc l) ∧
      (∀ k, (t.cur c).slice k =
        if k ∈ c.slices then { g.slice k with stack' := { kind := .ifE, fmt := (g.slice k).fmt } :: (g.slice k).stack' } else g.slice k) ∧
      t.cur c = { g with slices := (t.cur c).slices, lanes := { g.lanes with nc := (t.cur c).lanes.nc } }) ∧
    (¬tops (fun e => e.kind = .ifE ∧ e.els = false) → TrapsWith 0x09 (.elseC o) o.at' s c) ∧
    (tops (fun e => e.kind = .ifE ∧ e.els = false) → ∃ t, exec (.elseC o) s = .next t ∧ OnlyRegisters c.who s t ∧
      (∀ l, (t.cur c).nc l = if InGang c l then (if g.nc l = 0 then 1 else if g.nc l = 1 then 0 else g.nc l) else g.nc l) ∧
      (∀ k ∈ c.slices, ∀ e es, (g.slice k).stack' = e :: es →
        (t.cur c).slice k = { g.slice k with stack' := { e with els := true } :: es, fmt := restored (g.slice k) e }) ∧
      (∀ k, k ∉ c.slices → (t.cur c).slice k = g.slice k) ∧
      t.cur c = { g with slices := (t.cur c).slices, lanes := { g.lanes with nc := (t.cur c).lanes.nc } }) ∧
    (¬tops (fun e => e.kind = .ifE) → TrapsWith 0x09 (.endif o) o.at' s c) ∧
    (tops (fun e => e.kind = .ifE) → ∃ t, exec (.endif o) s = .next t ∧ OnlyRegisters c.who s t ∧
      (∀ l, (t.cur c).nc l = if InGang c l then g.nc l - 1 else g.nc l) ∧
      (∀ k ∈ c.slices, ∀ e es, (g.slice k).stack' = e :: es →
        (t.cur c).slice k = { g.slice k with stack' := es, fmt := restored (g.slice k) e }) ∧
      (∀ k, k ∉ c.slices → (t.cur c).slice k = g.slice k) ∧
      t.cur c = { g with slices := (t.cur c).slices, lanes := { g.lanes with nc := (t.cur c).lanes.nc } })) ∧
  (∀ (s : State) (c : Issue), Runs s c → Untraced s c → GangIn (s.cur c) c.slices → c.snap = s.cur c → 0 < (s.cur c).slices.length →
    ((s.cur c).vliw = true → 0 ∈ c.slices) →
    let g := s.cur c
    let ks := if g.vliw then [0] else c.slices
    (∀ o : BOp,
      let unb := o.mod.getLsbD 0
      let n := scalarVal c .n32 o.c % 2 ^ 32
      let illegal := if g.vliw then unb = true else o.mod.extractLsb' 1 2 ≠ 0
      let full := (∃ k ∈ ks, 16 ≤ (g.slice k).stack'.length) ∨ (g.vliw = false ∧ ∃ l, InGang c l ∧ 15 ≤ g.nc l)
      (illegal → TrapsWith 0x06 (.loop o) o.at' s c) ∧
      (¬illegal → unb = false → n = 0 → ∃ t, exec (.loop o) s = .next t ∧ Transfers s t c c.slices (c.pc + o.off.signExtend 64) 0 c.parts) ∧
      (¬illegal → ¬(unb = false ∧ n = 0) → full → TrapsWith 0x09 (.loop o) o.at' s c) ∧
      (¬illegal → ¬(unb = false ∧ n = 0) → ¬full → ∃ t, exec (.loop o) s = .next t ∧ OnlyRegisters c.who s t ∧
        (∀ l, (t.cur c).nc l = if g.vliw = false ∧ InGang c l ∧ 0 < g.nc l then g.nc l + 1 else g.nc l) ∧
        (∀ k, (t.cur c).slice k =
          if k ∈ ks then
            { g.slice k with stack' := { kind := .loopE, fmt := (g.slice k).fmt, addr := c.next, trip := if unb then 0 else BitVec.ofNat 32 n,
                                         unb := unb, sc := if g.vliw then o.mod.extractLsb' 1 2 else 0 } :: (g.slice k).stack' }
          else g.slice k) ∧
        t.cur c = { g with slices := (t.cur c).slices, lanes := { g.lanes with nc := (t.cur c).lanes.nc } })) ∧
    (∀ o : ROp,
      ((∃ k ∈ ks, ∀ e es, (g.slice k).stack' = e :: es → e.kind ≠ .loopE) → TrapsWith 0x09 (.endloop o) o.at' s c) ∧
      ((∀ k ∈ ks, ∃ e es, (g.slice k).stack' = e :: es ∧ e.kind = .loopE) →
        ∃ t u, exec (.endloop o) s = .next t ∧ OnlyRegisters c.who s u ∧ OnlyIssue u t ∧ (∀ k, k ∉ ks → (t.cur c).slice k = g.slice k) ∧
        ∀ k ∈ ks, ∀ e es, (g.slice k).stack' = e :: es →
          let again : Prop :=
            if g.vliw then (e.iter + 1).toNat < e.trip.toNat + e.sc.toNat
            else (∃ j < 4, g.nc (4 * k + j) = 0 ∧ e.brkm.getLsbD j = false) ∧ (e.unb = true ∨ e.iter + 1 < e.trip)
          (again → (t.cur c).slice k = { g.slice k with stack' := { e with iter := e.iter + 1, cntm := 0 } :: es } ∧
            ∀ i, t.issue = some i → Sparse.look c.next k i.npc = e.addr) ∧
          (¬again → (t.cur c).slice k = { g.slice k with stack' := es, fmt := (e.fmt &&& ~~~0x1F#32) ||| ((g.slice k).fmt &&& 0x1F#32) } ∧
            (∀ i, t.issue = some i → Sparse.look c.next k i.npc = Sparse.look c.next k c.npc) ∧
            ∀ j < 4, (t.cur c).nc (4 * k + j) = if g.vliw then g.nc (4 * k + j) else g.nc (4 * k + j) - 1))) ∧
    (∀ (o : ROp) (i : Instr) (mark : BitVec 4 → Entry → Entry),
      (i = .brk o ∧ mark = (fun m e => { e with brkm := e.brkm ||| m }) ∨ i = .cont o ∧ mark = (fun m e => { e with cntm := e.cntm ||| m })) →
      ((∃ k ∈ c.slices, topLoop (g.slice k).stack' = none) → TrapsWith 0x09 i o.at' s c) ∧
      ((∀ k ∈ c.slices, topLoop (g.slice k).stack' ≠ none) → ∃ t, exec i s = .next t ∧ OnlyRegisters c.who s t ∧
        (∀ k ∈ c.slices, ∃ e m, topLoop (g.slice k).stack' = some e ∧ topLoop ((t.cur c).slice k).stack' = some (mark m e) ∧
          (∀ j < 4, m.getLsbD j = g.active k j) ∧ ((t.cur c).slice k).stack'.length = (g.slice k).stack'.length ∧
          (t.cur c).slice k = { g.slice k with stack' := ((t.cur c).slice k).stack' }) ∧
        (∀ k, k ∉ c.slices → (t.cur c).slice k = g.slice k) ∧ t.cur c = { g with slices := (t.cur c).slices })))

/-- R147, R148, R159, R235, R236: what a bundle ends with is set by REGANG (unless the gang is its whole group), EXIT and MODE, which
also sets where the slices go on; a MODE that R159, R162 or R236 rules out is an illegal-operation trap. At the rendezvous the
live slices become gangs by program counter, each numbered by its lowest slice; the change of decoder waits until every
register is full, and takes 4 cycles. -/
def Obligations.GangsAndDecoders : Prop :=
  (∀ (s : State) (c : Issue), Runs s c → Untraced s c →
    (∀ o : ROp, exec (.regang o) s = .next (if wholeGang c then s else { s with issue := some { c with close := .regang } }) ∧
      exec (.exit o) s = .next { s with issue := some { c with close := .exit } }) ∧
    ∀ o : BOp,
      let v := o.mod.getLsbD 0
      let ok := if v then modeVliwOk s c else modeSimtOk c
      (ok = false → TrapsWith 0x06 (.mode o) o.at' s c) ∧
      (ok = true → ∃ t i, exec (.mode o) s = .next t ∧ OnlyIssue s t ∧ t.issue = some i ∧ i = { c with npc := i.npc, close := .mode v } ∧
        ∀ k, Sparse.look c.next k i.npc = if k ∈ c.slices then c.pc + o.off.signExtend 64 else Sparse.look c.next k c.npc)) ∧
  (∀ (a : GroupAt) (s : State), (∀ bit, s.traces a.core bit = false) →
    let g := s.groupAt a.core a.bank a.slot
    let waits (y : Slice) (w : Wait) : Prop := ∃ had, y.run = .waiting w had
    (g.live ≠ [] → (∀ k ∈ g.live, waits (g.slice k) .regang) →
      ∃ t, exec (.regangRendezvous a) s = .next t ∧ t = { s with cores := t.cores } ∧
        (∀ x y z, ¬(x = a.core ∧ slotKey y z = slotKey a.bank a.slot) → t.groupAt x y z = s.groupAt x y z) ∧
        ∀ k ∈ g.live, ∃ j ∈ g.live, (t.groupAt a.core a.bank a.slot).slice k = { g.slice k with gang := j, run := .running } ∧
          (g.slice j).pc = (g.slice k).pc ∧ ∀ i ∈ g.live, (g.slice i).pc = (g.slice k).pc → j ≤ i) ∧
    (waits (g.slice 0) .mode → (∀ r ∈ g.inflight, r.empties = false) →
      ∃ t, exec (.modeSwitch a) s = .next t ∧ t = { s with cores := t.cores } ∧
        (t.groupAt a.core a.bank a.slot).vliw = (!g.vliw) ∧
        ∀ k < g.slices.length, ((t.groupAt a.core a.bank a.slot).slice k).run = .running ∧
          ((t.groupAt a.core a.bank a.slot).slice k).ready = s.now + 4 ∧ ((t.groupAt a.core a.bank a.slot).slice k).gang = 0) ∧
    ((∃ k ∈ g.live, ¬waits (g.slice k) .regang) → exec (.regangRendezvous a) s = .next s) ∧
    ((∃ r ∈ g.inflight, r.empties = true) → exec (.modeSwitch a) s = .next s))

/-! ## Traps, special registers, tasks, the agent's events and shootdowns (R29 to R33, R170, R238, R239, R249 to R254, R364) -/

/-- R252: TRAP, BRKP and SYSC let their bundle complete and then stop it with causes 0x10, 0x12 and 0x11 and their number in INFO; with no
active lane they do nothing (R149). R353, R360: a replayable fault of a gang stops it Before its bundle: each slice holds the stop and keeps
its address, the gang's bank is frozen with every load, atomic return and refill of its groups written back, and the fault awaits an answer
under the number of its record. -/
def Obligations.TrapsAndFaults : Prop :=
  (∀ (o : IOp) (s : State) (c : Issue), Runs s c →
    ∀ p ∈ [(Instr.trap o, 0x10), (Instr.brkp o, 0x12), (Instr.sysc o, 0x11)],
      (c.opLanes o.at' ≠ [] → ∃ t, exec p.1 s = .next t ∧ OnlyIssue s t ∧
        t.issue = some { c with after := c.after ++ [{ code := p.2, info := (o.imm.extractLsb' 0 16).setWidth 32 }] }) ∧
      (c.opLanes o.at' = [] → exec p.1 s = .next s)) ∧
  (∀ (s : State) (c : Issue) (a : GangAt) (x : Stop), c.who = .gang a → isAgent c.who = false → x.rpl = true → x.code = 0x01 →
    Untraced s c → GangIn (s.cur c) c.slices →
    let t := s.takeStop c x false
    (∀ k ∈ c.slices, ((t.cur c).slice k).run = .stopped x false ∧ ((t.cur c).slice k).pc = ((s.cur c).slice k).pc) ∧
    Sparse.look false a.bank (t.core a.core).crew.frozen = true ∧
    (∀ n < 16, slotKey a.bank n ≠ 15 → ∀ r ∈ (t.groupAt a.core a.bank n).inflight, r.empties = false ∨ r.held = true ∨ (r.lanes = [] ∧ r.sca = none)) ∧
    (∃ o ∈ t.host.outs, o.about = .gang c.who c.slices ∧ o.code = 0x01 ∧ o.rpl = true ∧ o.name.seq = (s.core a.core).recSeq) ∧
    (t.core a.core).recSeq = ((s.core a.core).recSeq + 1) % 2 ^ 32)

/-- R249 to R251, R364: RDSR of an assigned register that the issuer has reads it: the three constants by all, its position by a group or the
agent, the stack and window registers by a group, GSTAT by a glen core, every register of the agent by the agent; of one that the issuer has
not it is an illegal-operation trap (cause 0x06). RDTIME reads the cycle count. R7, R249, R250, R364: WRSR of an assigned register that the
issuer has writes it field by field: the stack registers of a group; a glen core's GSTAT, whose written bits are cleared; each register of
the agent, of which reserved bits, the pending bit, the cause and TPTR keep their values and a SIZE of 13 to 15 leaves that field. A
read-only register takes no write. Of one that the issuer has not it is an illegal-operation trap (cause 0x06). Nothing else changes. -/
def Obligations.SpecialRegisters : Prop :=
  (∀ (s : State) (c : Issue),
    (∀ o : IOp, ScalarRuns s c o.at' →
      let n := (o.imm.extractLsb' 0 12).toNat
      let g := c.snap
      let ag := c.agent
      let has : Prop := n ≤ 2 ∨ (n = 3 ∧ isGlen c.who = false) ∨ (8 ≤ n ∧ n ≤ 0xC ∧ isGlen c.who = false ∧ isAgent c.who = false) ∨
        (n = 0x10 ∧ isGlen c.who = true) ∨ (0x100 ≤ n ∧ isAgent c.who = true)
      srAssigned n = true →
      (¬has → TrapsWith 0x06 (.rdsr o) o.at' s c) ∧
      (has → ∃ t x, exec (.rdsr o) s = .next t ∧ ScalarResult s t c o.d 2 false x ∧
        (n = 0 → x = 0xFFFF#64) ∧ (n = 1 → x = 0#64) ∧ (n = 2 → x = 0x0000000008020806#64) ∧
        (∀ a, n = 3 → c.who = .gang a → x = BitVec.ofNat 64 (2 ^ 30 * (a.core / 160) + 2 ^ 25 * (a.core % 160 / 8) + 2 ^ 22 * (a.core % 8) +
          2 ^ 21 * a.bank + 2 ^ 17 * a.slot + (if g.gid.half then 2 ^ 16 else 0) + 2 ^ 15 * g.gid.hnum + 2 ^ 13 * g.gid.role)) ∧
        (n = 8 → x = g.win.sp.setWidth 64) ∧ (n = 9 → x = g.win.lim.setWidth 64) ∧ (n = 0xA → x = g.win.lbase) ∧
        (n = 0xB → x = g.win.lsize.setWidth 64) ∧
        (n = 0xC → x = BitVec.ofNat 64 (2 ^ 32 * (g.win.bot % 2 ^ 16) + 2 ^ 16 * (g.win.wb % 2 ^ 16) + g.win.ws)) ∧
        (n = 0x10 → x = c.gstat) ∧ (n = 0x100 → x = BitVec.ofNat 64 ag.actx) ∧ (n = 0x101 → x = ag.evec) ∧ (n = 0x102 → x = ag.epc) ∧
        (n = 0x103 → x = BitVec.ofNat 64 (256 * ag.cause + (if ag.events = [] then 0 else 2) + (if ag.een then 1 else 0))) ∧
        (n = 0x104 → x = ag.wlthr.setWidth 64) ∧
        (n = 0x105 → x = BitVec.ofNat 64 (2 ^ 32 * ag.dctlCid + (if ag.dctlAll then 2 else 0) + (if ag.dctlHold then 1 else 0))) ∧
        (n = 0x118 → x = ag.tbase) ∧ (n = 0x119 → x = ag.tsize) ∧ (n = 0x11A → x = ag.tptr) ∧ (n = 0x11B → x = ag.trctl) ∧
        ∀ i < 4, (n = 0x108 + i → x = Sparse.look 0 i ag.ibp) ∧ (n = 0x10C + i → x = Sparse.look 0 i ag.wpa) ∧
          (n = 0x110 + i → x = Sparse.look 0 i ag.wpc))) ∧
    (∀ o : ROp, ScalarRuns s c o.at' →
      ∃ t, exec (.rdtime o) s = .next t ∧ ScalarResult s t c o.d 2 false (BitVec.ofNat 64 s.now))) ∧
  (∀ (o : IOp) (s : State) (c : Issue), ScalarRuns s c o.at' →
    let n := (o.imm.extractLsb' 0 12).toNat
    let x := c.sval o.a
    srAssigned n = true →
    (srAvailable c.who n = false → TrapsWith 0x06 (.wrsr o) o.at' s c) ∧
    (srAvailable c.who n = true →
      (n ∈ [0, 1, 2, 3, 0xA, 0xB, 0xC] → exec (.wrsr o) s = .next s) ∧
      (n = 8 → ∃ t, exec (.wrsr o) s = .next t ∧ RegistersBecome s t c (fun g => { g with win := { g.win with sp := x.setWidth 32 } })) ∧
      (n = 9 → ∃ t, exec (.wrsr o) s = .next t ∧ RegistersBecome s t c (fun g => { g with win := { g.win with lim := x.setWidth 32 } })) ∧
      (∀ k, n = 0x10 → c.who = .glen k → ∃ t, exec (.wrsr o) s = .next t ∧ MemoryKept s t ∧ t = { s with glens := t.glens } ∧
        ∀ j, t.glen j = if j = k then { s.glen k with gstat := (s.glen k).gstat &&& ~~~x } else s.glen j) ∧
      (0x100 ≤ n → ∃ t b, exec (.wrsr o) s = .next t ∧ MemoryKept s t ∧ t = { s with cores := t.cores } ∧
        (∀ j, t.core j = if j = coreOf c.who then { s.core j with agent := b } else s.core j) ∧
        let a := (s.core (coreOf c.who)).agent
        let reg (old new : Sparse DWord) (first : Nat) (v : Nat → DWord) : Prop :=
          ∀ i < 4, Sparse.look 0 i new = if n = first + i then v i else Sparse.look 0 i old
        b = { a with actx := b.actx, evec := b.evec, epc := b.epc, een := b.een, wlthr := b.wlthr, dctlCid := b.dctlCid, dctlAll := b.dctlAll,
                     dctlHold := b.dctlHold, ibp := b.ibp, wpa := b.wpa, wpc := b.wpc, tbase := b.tbase, tsize := b.tsize, trctl := b.trctl } ∧
        b.actx = (if n = 0x100 then x.toNat % 65536 else a.actx) ∧ b.evec = (if n = 0x101 then x &&& ~~~3#64 else a.evec) ∧
        b.epc = (if n = 0x102 then x &&& ~~~3#64 else a.epc) ∧ b.een = (if n = 0x103 then x.getLsbD 0 else a.een) ∧
        b.wlthr = (if n = 0x104 then x.setWidth 32 else a.wlthr) ∧
        b.dctlCid = (if n = 0x105 then (x.extractLsb' 32 16).toNat else a.dctlCid) ∧
        b.dctlAll = (if n = 0x105 then x.getLsbD 1 else a.dctlAll) ∧ b.dctlHold = (if n = 0x105 then x.getLsbD 0 else a.dctlHold) ∧
        reg a.ibp b.ibp 0x108 (fun _ => x &&& ~~~2#64) ∧ reg a.wpa b.wpa 0x10C (fun _ => x) ∧
        reg a.wpc b.wpc 0x110 (fun i =>
          if 13 ≤ (x.extractLsb' 8 4).toNat then (Sparse.look 0 i a.wpc &&& 0xF00#64) ||| (x &&& 7#64) else x &&& 0xF07#64) ∧
        b.tbase = (if n = 0x118 then x else a.tbase) ∧ b.tsize = (if n = 0x119 then x else a.tsize) ∧
        b.trctl = (if n = 0x11B then x &&& 0x3F#64 else a.trctl))))

/-- R170, R238, R239: SPAWN puts a task at the end of the core's queue and writes 1, or writes 0 where no lane is active, the queue holds 64
tasks or the kernel has no task registers. ELECT writes the active lane at or after its start lane, cyclically, or all ones where none is
active. R253: ERET and HALT act at the end of their bundle: ERET goes on at EPC and sets EEN, HALT stops the agent unless an event is
pending. An event is taken between two bundles while EEN is 1: EPC takes the address of the agent's next bundle, CAUSE the event's class,
EEN is cleared, HALT's stop ends, and the agent goes on at EVEC; otherwise nothing happens. -/
def Obligations.SpawnElectAndEvents : Prop :=
  (∀ (o : ROp) (s : State) (c : Issue), ScalarRuns s c o.at' →
    let core := coreOf c.who
    let full := 64 ≤ (s.core core).crew.tasks.length ∨ (s.gridOf (s.teamOf c)).launch.kernel.trsb = 0 ∨ c.opMask o.at' = 0
    (full → ∃ t, exec (.spawn o) s = .next t ∧ ScalarResult s t c o.d 2 false 0) ∧
    (∀ k, ¬full → o.b = .s k → (s.core core).caches.stores = [] → (s.core core).caches.wc = [] →
      ∃ t, exec (.spawn o) s = .next t ∧ MemoryKept s t ∧ t = { s with cores := t.cores, glens := t.glens } ∧
        (t.core core).crew = { (s.core core).crew with tasks := (s.core core).crew.tasks ++
          [{ entry := c.sval o.a, args := (List.range 4).map (fun j => c.snap.sreg (k.toNat + j)), role := c.snap.gid.role,
             team := teamKey c.who c.snap }] } ∧
        (∀ j ≠ core, t.core j = s.core j) ∧ (∀ v, sameRegisters v c.who = false → t.groupOf v = s.groupOf v) ∧
        ∀ n, o.d = .s n → (t.cur c).inflight = (s.cur c).inflight ++
          [{ sca := some (n.toNat, 1, false), due := s.now + (if isGlen c.who then 0 else 2), empties := false }]) ∧
    (∃ t x, exec (.elect o) s = .next t ∧ ScalarResult s t c o.d 2 false x ∧
      (c.opLanes o.at' = [] → x = BitVec.allOnes 64) ∧
      (c.opLanes o.at' ≠ [] → c.snap.vliw = false → (∀ l ∈ c.opLanes o.at', l < c.snap.width) →
        let dist (l : Nat) := (l + c.snap.width - (c.sval o.a).toNat % c.snap.width) % c.snap.width
        ∃ l ∈ c.opLanes o.at', x = BitVec.ofNat 64 l ∧ ∀ k ∈ c.opLanes o.at', dist l ≤ dist k))) ∧
  ((∀ (o : ROp) (s : State) (c : Issue), Runs s c →
    exec (.eret o) s = .next { s with issue := some { c with close := .eret } } ∧
    exec (.halt o) s = .next { s with issue := some { c with close := .halt } }) ∧
  (∀ (s : State) (c : Issue) (k : Nat), coreOf c.who = k → isAgent c.who = true → c.after = [] → s.store.cut = [] → GangIn (s.cur c) c.slices →
    let t := s.complete c
    (c.close = .eret → (t.core k).agent = { (s.core k).agent with een := true } ∧ ∀ j ∈ c.slices, ((t.cur c).slice j).pc = (s.core k).agent.epc) ∧
    (c.close = .halt → (t.core k).agent = { (s.core k).agent with halted := (s.core k).agent.events.isEmpty })) ∧
  ∀ (k cls : Nat) (rest : List Nat) (s : State),
    let a := (s.core k).agent
    (a.een = true → s.issue = none → a.events = cls :: rest →
      ∃ t, exec (.eventTake k) s = .next t ∧ MemoryKept s t ∧ t = { s with cores := t.cores } ∧
        (∀ j ≠ k, t.core j = s.core j) ∧
        t.core k = { s.core k with groups := (t.core k).groups,
                                   agent := { a with epc := ((s.groupAt k 0 15).slice 0).pc, cause := cls, een := false, events := rest, halted := false } } ∧
        (∀ b n, slotKey b n ≠ 15 → t.groupAt k b n = s.groupAt k b n) ∧
        t.groupAt k 0 15 = { s.groupAt k 0 15 with slices := (s.groupAt k 0 15).slices.map (fun y => { y with pc := a.evec }) }) ∧
    (a.een = false ∨ s.issue ≠ none ∨ a.events = [] → exec (.eventTake k) s = .next s))

/-- Does a shootdown's scope meet the range of `size` bytes from address `lo` of a context (R29)? A range scope is whole pages of
64 KiB. -/
def Meets (x : ShootScope) (cid lo size : Nat) : Prop :=
  match x with
  | .all => True
  | .context k => k = cid
  | .range k va pages => k = cid ∧ va60 va / 65536 * 65536 < lo + size ∧ lo < va60 va / 65536 * 65536 + pages * 65536

/-- R30, R254: with the agent's earlier stores performed and fewer than eight of its shootdowns under way, TLBI_RNG, TLBI_CTX and TLBI_ALL
broadcast a shootdown of their scope under the next number; a range of no page sends nothing; TLBI_SYNC sends nothing. With .wait, and for
TLBI_SYNC, the bundle ends waiting for the agent's shootdowns. A ninth shootdown waits. R30 step 3, R33, R299: each structure acknowledges a
shootdown once. A core with no store on its way drops the covered entries of its TLB, clears V of the translation registers whose translated
range is met in the context they were translated in, and writes back and empties the covered lines of its stash windows; a cluster and a die
drop the covered entries of their TLBs, and a die the requests to the host for covered pages; a glen core drops its covered entries. -/
def Obligations.Shootdowns : Prop :=
  (∀ (o : ROp) (s : State) (c : Issue), Runs s c → (s.core (coreOf c.who)).caches.stores = [] → (s.core (coreOf c.who)).caches.wc = [] →
    let core := coreOf c.who
    let n := (c.sval o.b).toNat % 2 ^ 32
    ∀ p ∈ [(Instr.tlbiRng o, false, if n = 0 then none else some (ShootScope.range ((c.sval o.c).toNat % 65536) (c.sval o.a) n)),
           (Instr.tlbiCtx o, false, some (ShootScope.context ((c.sval o.c).toNat % 65536))),
           (Instr.tlbiAll o, false, some ShootScope.all), (Instr.tlbiSync o, true, none)],
      let mine (t : State) : Nat := (t.host.shoots.filter (fun y => y.source == .agent core)).length
      (p.2.2 ≠ none → 8 ≤ mine s →
        ∃ t, exec p.1 s = .next t ∧ OnlyIssue s t ∧ t.issue = some { c with status := .wait (.tlbi false) }) ∧
      (p.2.2 = none ∨ mine s < 8 →
        ∃ t, exec p.1 s = .next t ∧ t = { s with host := t.host, issue := t.issue } ∧
          (∀ x, p.2.2 = some x → t.host = { s.host with
            shoots := s.host.shoots ++ [{ id := s.host.nextShoot, scope := x, source := .agent core }], nextShoot := s.host.nextShoot + 1 }) ∧
          (p.2.2 = none → t.host = s.host) ∧
          t.issue = some (if (p.2.1 || o.mod.getLsbD 2) && decide (0 < mine t) then { c with close := .tlbi } else c))) ∧
  (∀ (id : Nat) (u : AckUnit) (s : State) (x : Shoot), s.host.shoots.find? (fun y => y.id == id) = some x →
    let kept (old new : List TlbEntry) : Prop := ∀ e, e ∈ new ↔ e ∈ old ∧ ¬Meets x.scope e.cid e.vbase e.size
    let acked : HostSide := { s.host with shoots := s.host.shoots.map (fun y => if y.id = id then { y with acks := y.acks ++ [u] } else y) }
    (u ∈ x.acks → exec (.shootdownAck id u) s = .next s) ∧
    (∀ k, u = .core k → k < 640 → u ∉ x.acks → (s.core k).caches.stores = [] → (s.core k).caches.wc = [] →
      let line (s : State) (q : Nat × Nat × Nat) : Option StashLine := stashLine ((s.core k).team q.1) q.2.1 q.2.2
      let at' (q : Nat × Nat × Nat) : Nat :=
        ((s.core k).team q.1).res.spbase + (Sparse.look {} q.2.1 ((s.core k).team q.1).stash).w + 128 * q.2.2
      let shot : List (Nat × Nat × Nat) := shotLines (s.core k) x.scope
      let apart (l m : StashLine) : Prop := l.place + 128 ≤ m.place ∨ m.place + 128 ≤ l.place
      ∃ t, exec (.shootdownAck id u) s = .next t ∧ t = { s with cores := t.cores, store := t.store, host := acked } ∧
        (∀ j ≠ k, t.core j = s.core j) ∧
        t.core k = { s.core k with groups := (t.core k).groups, crew := (t.core k).crew, caches := { (s.core k).caches with tlb := (t.core k).caches.tlb } } ∧
        kept (s.core k).caches.tlb (t.core k).caches.tlb ∧
        (∀ b n, t.groupAt k b n = { s.groupAt k b n with sca := { (s.groupAt k b n).sca with x := (t.groupAt k b n).sca.x } } ∧
          ∀ r,
            let y := (s.groupAt k b n).xreg r
            let size := [2 ^ 16, 2 ^ 21, 2 ^ 27, 2 ^ 38].getD y.ps.toNat (2 ^ 38)
            (Meets x.scope y.cid (va60 y.vbase / size * size) size → (t.groupAt k b n).xreg r = { y with valid := false }) ∧
            (¬Meets x.scope y.cid (va60 y.vbase / size * size) size → (t.groupAt k b n).xreg r = y)) ∧
        (∀ q, line t q = if q ∈ shot then none else line s q) ∧
        (∀ q ∈ shot, ∀ l, line s q = some l → l.owned = true → (∀ r ∈ shot, r ≠ q → ∀ m, line s r = some m → m.owned = true → apart l m) →
          ∀ i < 128, t.store.mem.byte (l.place + i) = (s.core k).store.spad.byte (at' q + i)) ∧
        ∀ p, (∀ q ∈ shot, ∀ l, line s q = some l → l.owned = true → p < l.place ∨ l.place + 128 ≤ p) →
          t.store.mem.byte p = s.store.mem.byte p) ∧
    (∀ n, u = .cluster n → n < 80 → u ∉ x.acks →
      ∃ t, exec (.shootdownAck id u) s = .next t ∧ t = { s with tlbs := t.tlbs, host := acked } ∧
        (∀ j ≠ n, ∀ es ≠ [], (j, es) ∈ t.tlbs ↔ (j, es) ∈ s.tlbs) ∧
        ∀ es, (n, es) ∈ t.tlbs ↔ es ≠ [] ∧ ∃ old, (n, old) ∈ s.tlbs ∧ es = old.filter (fun e => !shootCovers x.scope e.cid e.vbase e.size)) ∧
    (∀ d, u = .die d → d < 4 → u ∉ x.acks → d ≠ 0 ∨ s.host.saved = [] →
      ∃ t, exec (.shootdownAck id u) s = .next t ∧ t = { s with tlbs := t.tlbs, ats := t.ats, host := acked } ∧
        (∀ j, ¬(128 ≤ j ∧ (j - 128) / 32 = d) → ∀ es ≠ [], (j, es) ∈ t.tlbs ↔ (j, es) ∈ s.tlbs) ∧
        (∀ j, 128 ≤ j → (j - 128) / 32 = d → ∀ es, (j, es) ∈ t.tlbs ↔
          es ≠ [] ∧ ∃ old, (j, old) ∈ s.tlbs ∧ es = old.filter (fun e => !shootCovers x.scope e.cid e.vbase e.size)) ∧
        t.ats = { s.ats with requests := t.ats.requests } ∧
        ∀ r, r ∈ t.ats.requests ↔ r ∈ s.ats.requests ∧ ¬(r.1 = d ∧ Meets x.scope r.2.1 r.2.2 4096)) ∧
    (∀ n, u = .glen n → n < 64 → u ∉ x.acks →
      ∃ t, exec (.shootdownAck id u) s = .next t ∧ MemoryKept s t ∧ t = { s with glens := t.glens, host := acked } ∧
        (∀ j ≠ n, t.glen j = s.glen j) ∧ t.glen n = { s.glen n with tlb := (t.glen n).tlb } ∧ kept (s.glen n).tlb (t.glen n).tlb))

/-! ## Loads, stores and atomics (R22, R37, R38, R42 to R44, R66, R110 to R130, R278 to R300) -/

/-- No stash window of any core holds a line (R56), and no link to another package is lost (R377). -/
def NoStash (s : State) : Prop := (∀ p ∈ s.cores, ∀ l, coreStash p.2 l = []) ∧ lostLinks s = []

/-- Every lane of an access is translated: none faults, none waits for a page of the host, and no line read is held by an
engine command (R37, R133). -/
def Reached (s : State) (c : Issue) (k : AccessKind) (ps : List (Nat × List (GAddr × Nat))) : Prop :=
  (reachLanes s c.who c.snap k ps).faults = [] ∧ (reachLanes s c.who c.snap k ps).ats = none ∧
    (k ≠ .write → ∀ l ∈ (reachLanes s c.who c.snap k ps).lanes, ∀ p ∈ l.places, s.isOwned (lineOf p) = false)

/-- Besides the issuer's registers an access leaves everything as before but TLBs, which lines the caches and replicas hold, gather
counters and pinned lines, the wakes of islands, its own team's buffer counters, which become `cnt`, and the issue record, which becomes `f`
of the one with the watchpoint stops taken after the bundle; `mem` and `queue` say whether it may also change memory and other cores' copies,
and the stores on their way from the issuer's core. -/
def AccessOnly (c : Issue) (s t : State) (mem queue : Bool) (cnt : Team → Team) (f : Issue → Issue) : Prop :=
  t = { s with cores := t.cores, slices := t.slices, store := t.store, tlbs := t.tlbs, plat := t.plat, issue := t.issue } ∧
    (∀ v, sameRegisters v c.who = false → t.groupOf v = s.groupOf v) ∧
    (∀ k, { t.core k with groups := [], caches := {}, crew := {}, store := {} } = { s.core k with groups := [], caches := {}, crew := {}, store := {} }) ∧
    (mem = false → t.store.mem = s.store.mem ∧ t.store.poison = s.store.poison ∧ ∀ k, (t.core k).store = (s.core k).store) ∧
    { t.store with l2 := [], evict := [], replicas := [], mem := [], poison := [] } = { s.store with l2 := [], evict := [], replicas := [], mem := [], poison := [] } ∧
    (∀ k, { (t.core k).caches with tlb := [], l1 := [], l1own := [], stores := [], wc := [], nextStore := 0 } =
      { (s.core k).caches with tlb := [], l1 := [], l1own := [], stores := [], wc := [], nextStore := 0 }) ∧
    (∀ k, queue = false ∨ k ≠ coreOf c.who → (t.core k).caches.stores = (s.core k).caches.stores ∧ (t.core k).caches.wc = (s.core k).caches.wc ∧
      (t.core k).caches.nextStore = (s.core k).caches.nextStore) ∧
    (∀ k ≠ coreOf c.who, (t.core k).caches.tlb = (s.core k).caches.tlb ∧ (mem = false → (t.core k).caches = (s.core k).caches)) ∧
    (∀ k, { (t.core k).crew with teams := [] } = { (s.core k).crew with teams := [] }) ∧
    (∀ k x, (t.core k).team x =
      if k = coreOf c.who ∧ x = teamKey c.who c.snap ∧ isAgent c.who = false then cnt ((s.core k).team x) else (s.core k).team x) ∧
    (∀ n, { (Sparse.look {} n t.slices : MemSlice) with counters := [], requests := 0, pinned := [] } =
      { (Sparse.look {} n s.slices : MemSlice) with counters := [], requests := 0, pinned := [] }) ∧
    { t.plat with islands := [] } = { s.plat with islands := [] } ∧
    (∀ n, { (Sparse.look {} n t.plat.islands : Island) with since := 0, wakes := 0 } = { (Sparse.look {} n s.plat.islands : Island) with since := 0, wakes := 0 }) ∧
    ∃ x, t.issue = some (f { c with after := c.after ++ x }) ∧ (∀ y ∈ x, y.code = 0x14) ∧ ((s.core (coreOf c.who)).agent.wpc = [] → x = [])

/-- The instruction changes nothing but that the streams `qs` are consumed and that the issue record becomes `f` of what it was. -/
def EndsWith (i : Instr) (s : State) (c : Issue) (qs : List (Nat × Bool)) (f : Issue → Issue) : Prop :=
  ∃ t u, exec i s = .next t ∧ RegistersBecome s u c (fun g => g.consume qs) ∧ OnlyIssue u t ∧ t.issue = some (f c)

/-- A Before stop, a wait, an After stop. -/
def stopping (x : Stop) (c : Issue) : Issue := { c with status := .stop x }

def waiting (w : Wait) (c : Issue) : Issue := { c with status := .wait w }

def stoppingAfter (x : Stop) (c : Issue) : Issue := { c with after := c.after ++ [x] }

/-- The stop of a translation fault of an access at an address (R36, R37, R353). -/
def faultStop (s : State) (c : Issue) (site : Site) (tag : Nat) (k : AccessKind) (v : DWord) (x : XFault) : Stop :=
  { code := 0x01, slot := slotNumber site.slot, rpl := x.rpl, xlat := xlatDetail s (s.cidOf c.who) x k v, tag := some tag }

/-- R22, R37, R133: an access of which a page awaits the host waits for the lowest such page; else one that faults stops with cause 0x01,
naming the lowest faulting address; else a read or an atomic of a line that an engine command holds waits. Nothing of it takes effect. -/
def HeldBack (i : Instr) (s : State) (c : Issue) (site : Site) (tag : Nat) (qs : List (Nat × Bool)) (k : AccessKind) (ps : List (Nat × List (GAddr × Nat))) : Prop :=
  let r := reachLanes s c.who c.snap k ps
  (∀ cid p, r.ats = some (cid, p) → EndsWith i s c qs (waiting (.page cid (BitVec.ofNat 64 p)))) ∧
  (r.ats = none → ∀ v x, lowestFault r.faults = some (v, x) → EndsWith i s c qs (stopping (faultStop s c site tag k v x))) ∧
  (r.ats = none → r.faults = [] → k ≠ .write → (∃ l ∈ r.lanes, ∃ p ∈ l.places, s.isOwned (lineOf p) = true) → EndsWith i s c qs (waiting .poll))

/-- The issuer's registers with the translation register that an access of global space names refilled, where it holds no translation and
the walk of its base finds one (R27). -/
def refilled (s : State) (c : Issue) (sp : Space) (b : Base) (g : Group) : Group :=
  match sp, b with
  | .global, .x n =>
    let x := c.snap.xreg n.toNat
    let y := trxValue x.vbase (findFor s c.who x.vbase)
    if x.valid = false ∧ y.valid = true then g.setXreg n.toNat y else g
  | _, _ => g

/-- Registers with results put on their way to them. -/
def withResults (r : List InFlight) (g : Group) : Group := { g with inflight := g.inflight ++ r }

/-- What a load delivers, of the bytes of each lane (R281, R284): its registers are empty until `due`. -/
def loadResult (o : MOp) (c : Issue) (tag : Option Nat) (vals : List (Nat × List Byte)) (due : Nat) : List InFlight :=
  match o.d with
  | .v n =>
    [{ lanes := vals.flatMap (fun p => (loadWords o.sz.toNat p.2).zipIdx.map (fun w => (32 * c.snap.phys (n.toNat + w.2) + p.1, w.1, false))),
       due := due, empties := true, load := true, tag := tag }]
  | .s n => [{ sca := some (n.toNat, loadScalar o.sz.toNat ((vals.headD (0, [])).2), false), due := due, empties := true, tag := tag }]
  | _ => []

/-- A destination that a load may have: lane registers, a scalar register, or zero. -/
def LoadDest (d : Spec) : Prop := (∃ n, d = .v n) ∨ (∃ n, d = .s n) ∨ d = .zero

/-- The byte that a thread of the issuer's core reads at a place: of the stores on their way the latest to it that is its own or that the
core sees already, else what memory holds (R116, R117). -/
def seenAt (s : State) (c : Issue) (thread p : Nat) : Byte :=
  let q := (s.core (coreOf c.who)).caches.stores.filter (fun e => e.stage2 || e.ownOf (threadKey c.who) thread)
  (q.reverse.findSome? (fun e => e.byteAt p)).getD (s.store.mem.byte p)

/-- No store has to perform before the lanes' loads bind (R121, R126), and none reads a kick page (R330). -/
def Settled (s : State) (c : Issue) (scope : Option Scope) (ls : List GLane) : Prop :=
  (s.core (coreOf c.who)).caches.wc = [] ∧ ∀ l ∈ ls, (∀ p ∈ l.places, kickPageOf s p = none) ∧
    ∀ e ∈ (s.core (coreOf c.who)).caches.stores,
      loadNeeds (threadKey c.who) (threadLane c l.lane) (wideLoad c.snap scope (threadLane c l.lane)) l.places e = false

/-- A read of global or local space, `n` bytes a lane in pieces: it is held back as R22, R37 and R133 say; else, with a poisoned byte, it
stops after the bundle with cause 0x0B, naming the destination and the lane of the lowest such address, and writes nothing; else `result` of the
bytes that the lanes see is on its way after the slowest line's unloaded latency and `more` cycles, and the bytes are counted. -/
def ReadsMemory (i : Instr) (o : MOp) (sp : Space) (scope : Option Scope) (s : State) (c : Issue) (n : Nat) (pieces : List (Nat × Nat)) (more : Nat)
    (result : List (Nat × List Byte) → Nat → List InFlight) : Prop :=
  let ps := (accessLanes c o.at' o.isLane).map (fun l => (l, memPieces c (s.cur c) sp o n pieces l))
  let r := reachLanes s c.who c.snap .read ps
  let lat := r.lanes.foldl (fun m l => l.places.foldl (fun m p => max m (loadLatency s (coreOf c.who) p)) m) 30
  let bad := r.lanes.flatMap (fun l => (l.vas.zip l.places).filterMap (fun p => if s.isPoisoned p.2 then some (p.1.toNat, l.lane) else none))
  HeldBack i s c o.at' o.tag.toNat [] .read ps ∧
  (Reached s c .read ps → NoStash s → Settled s c scope r.lanes →
    (bad = [] → ∃ t, exec i s = .next t ∧ AccessOnly c s t false false (fun x => x.count o.tag.toNat 0 (n * r.lanes.length)) id ∧
      t.cur c = refilled s c sp o.base (withResults (result (r.lanes.map (fun l => (l.lane, l.places.map (seenAt s c (threadLane c l.lane))))) (s.now + lat + more))
        (s.cur c))) ∧
    (bad ≠ [] → ∃ x ∈ bad, (∀ y ∈ bad, x.1 ≤ y.1) ∧ ∃ t, exec i s = .next t ∧
      AccessOnly c s t false false id (stoppingAfter { code := 0x0B, slot := slotNumber o.at'.slot, aux := BitVec.ofNat 64 (o.d.code.toNat + 256 * x.2) }) ∧
      t.cur c = refilled s c sp o.base (s.cur c)))

/-- The scratchpad bytes that a lane's access touches, within its team's part (R42, R43). -/
def laneBytes (s : State) (c : Issue) (o : MOp) (n z l : Nat) : List Nat := spadBytes (alignAddr c (s.cur c) .scratch o l) n z

/-- No byte of a scratchpad access belongs to a stash window; or each window line touched is filled, for a write or an atomic in state M, and the
core has no store on its way that could be to it (R56, R140). -/
def StashReady (s : State) (c : Issue) (write : Bool) (ps : List Nat) : Prop :=
  let k := s.core (coreOf c.who)
  let t0 := k.team (teamKey c.who c.snap)
  (∀ b ∈ ps, stashOf t0 b = none) ∨
    (k.caches.stores = [] ∧ k.caches.wc = [] ∧
      ∀ b ∈ ps, ∀ q, stashOf t0 b = some q → ∃ x, stashLine t0 q.1 q.2.1 = some x ∧ (write = true → x.owned = true))

/-- A read of the scratchpad, `n` bytes a lane: it waits for its group's tile stores to the bytes; else, with a poisoned word, it stops after the
bundle with cause 0x0B, naming the lane of the lowest such offset; else `result` of the bytes is on its way after 5 cycles, one per round and
`more`. -/
def ReadsScratchpad (i : Instr) (o : MOp) (s : State) (c : Issue) (n more : Nat) (result : List (Nat × List Byte) → Nat → List InFlight) : Prop :=
  let lanes := accessLanes c o.at' o.isLane
  let k := s.core (coreOf c.who)
  let t0 := k.team (teamKey c.who c.snap)
  let bytes := laneBytes s c o n (o.pol.toNat % 8)
  let bad := lanes.filter (fun l => (bytes l).any (fun b => Sparse.look false ((t0.res.spbase + b) / 4) k.store.spadPoison))
  (tstPending k c.who (lanes.flatMap bytes) = true → EndsWith i s c [] (waiting .poll)) ∧
  (tstPending k c.who (lanes.flatMap bytes) = false → StashReady s c false (lanes.flatMap bytes) →
    (bad = [] → ∃ t, exec i s = .next t ∧ RegistersBecome s t c (withResults
      (result (lanes.map (fun l => (l, (bytes l).map (fun b => k.store.spad.byte (t0.res.spbase + b)))))
        (s.now + 5 + rounds (lanes.flatMap (fun l => (bytes l).map (· / 4))) + more)))) ∧
    (bad ≠ [] → ∃ x ∈ bad, (∀ y ∈ bad, alignAddr c (s.cur c) .scratch o x ≤ alignAddr c (s.cur c) .scratch o y) ∧
      EndsWith i s c [] (stoppingAfter { code := 0x0B, slot := slotNumber o.at'.slot, aux := BitVec.ofNat 64 (o.d.code.toNat + 256 * x) })))

/-- R42, R61, R116, R117, R280 to R285: a load of global or local space with a misaligned lane stops with cause 0x03, one past the local stack
with 0x04, one whose translation faults with 0x01, each naming the lowest address, and a poisoned byte stops it after the bundle with 0x0B;
else every lane's bytes, as its thread sees them, are on their way to the destination, after the unloaded latency of R70 (log entry 8), and
nothing else changes. This for a core with no write-combining entry, no store that must perform first, no stashed line and no kick page.
That a load's bytes are read as it issues is the model's choice (log entry 42). R42 to R44, R73, R281, R285, R319: a load of the scratchpad
reads its team's bytes through the swizzle in 5 cycles and one per round; a misaligned lane stops it with cause 0x03, one past the team's
part with 0x02, a poisoned word after the bundle with 0x0B; a tile store to the bytes is waited for. This for bytes of no unfilled stash
line. -/
def Obligations.Loads : Prop :=
  (∀ (o : MOp) (s : State) (c : Issue), LanesRun s c o.at' [] → LoadDest o.d → isGlen c.who = false →
    ∀ p ∈ [(Instr.ldG o, Space.global, none), (Instr.ldGAcq o, Space.global, some o.scp), (Instr.ldL o, Space.local', none),
           (Instr.ldLAcq o, Space.local', some o.scp)],
      let n := loadBytes o.sz.toNat
      let lanes := accessLanes c o.at' o.isLane
      let addr := alignAddr c (s.cur c) p.2.1 o
      let bad := lanes.filter (fun l => addr l % min n 4 ≠ 0)
      let out := lanes.filter (fun l => c.snap.win.lsize.toNat ≤ addr l + n - 1)
      (bad ≠ [] → EndsWith p.1 s c [] (stopping { code := 0x03, slot := slotNumber o.at'.slot, aux := BitVec.ofNat 64 (lowest (bad.map addr)) })) ∧
      (bad = [] → p.2.1 = .local' → out ≠ [] →
        EndsWith p.1 s c [] (stopping { code := 0x04, slot := slotNumber o.at'.slot, aux := BitVec.ofNat 64 (lowest (out.map addr)) })) ∧
      (bad = [] → (p.2.1 = .local' → out = []) → ReadsMemory p.1 o p.2.1 p.2.2 s c n (piecesOf n) 0 (loadResult o c (some o.tag.toNat)))) ∧
  (∀ (o : MOp) (s : State) (c : Issue), LanesRun s c o.at' [] → LoadDest o.d → isGlen c.who = false →
    ∀ i ∈ [Instr.ldS o, Instr.ldSAcq o],
      let n := loadBytes o.sz.toNat
      let lanes := accessLanes c o.at' o.isLane
      let addr := alignAddr c (s.cur c) .scratch o
      let t0 := (s.core (coreOf c.who)).team (teamKey c.who c.snap)
      let bad := lanes.filter (fun l => addr l % min n 4 ≠ 0)
      let out := lanes.filter (fun l => t0.res.spsize ≤ addr l + n - 1)
      (bad ≠ [] → EndsWith i s c [] (stopping { code := 0x03, slot := slotNumber o.at'.slot, aux := BitVec.ofNat 64 (lowest (bad.map addr)) })) ∧
      (bad = [] → out ≠ [] → EndsWith i s c [] (stopping { code := 0x02, slot := slotNumber o.at'.slot, aux := BitVec.ofNat 64 (lowest (out.map addr)) })) ∧
      (bad = [] → out = [] → ReadsScratchpad i o s c n 0 (loadResult o c none)))

/-- A core's write-combining entries, its stores on their way, and the number of the next store. -/
abbrev StoreSide := List WcEntry × List PendingStore × Nat

/-- A store that joins those on their way, under the next number. -/
def StoreSide.push (q : StoreSide) (e : PendingStore) : StoreSide := (q.1, q.2.1 ++ [{ e with id := q.2.2 }], q.2.2 + 1)

/-- A line's entry written out: its bytes join the stores on their way as one store of no stage 2 (R126). -/
def StoreSide.out (q : StoreSide) (line : Nat) : StoreSide :=
  match q.1.find? (fun e => e.line == line) with
  | none => q
  | some e =>
    StoreSide.push (q.1.filter (fun x => x.line != line), q.2)
      { id := 0, op := q.2.2, group := (e.threads.headD (0, 0)).1, lane := (e.threads.headD (0, 0)).2, bytes := e.bytes, stage2 := false, wc := true }

/-- Bytes of a thread merged into their line's entry. A line without one takes a free one of the eight, or that of the oldest, which is written
out; a complete entry is written out at once (R66). -/
def StoreSide.merge (q : StoreSide) (now group thread line : Nat) (bs : List (Nat × Byte)) : StoreSide :=
  let has := q.1.any (fun e => e.line == line)
  let q1 := if has then q else if q.1.length < 8 then (q.1 ++ [{ line := line, since := now }], q.2)
    else let r := StoreSide.out q ((q.1.map WcEntry.line).headD 0); (r.1 ++ [{ line := line, since := now }], r.2)
  let joined (e : WcEntry) : WcEntry :=
    { e with bytes := bs.foldl (fun m b => Sparse.ins b.1 b.2 m) e.bytes
             threads := if e.threads.contains (group, thread) then e.threads else e.threads ++ [(group, thread)] }
  let q2 : StoreSide := (q1.1.map (fun e => if e.line == line then joined e else e), q1.2)
  if q2.1.any (fun e => e.line == line && 128 ≤ e.bytes.length) then StoreSide.out q2 line else q2

/-- One lane's bytes of one line in a store of the instruction numbered `op`: with write-combining they join their line's entry, unless
released; else they are a store on its way, which the core sees at once (stage 2) where it is temporal, to a cached page not of another package, to a
line in the L1, and as a release has nothing to wait for (R64, R66, R113, R116, R120, R127, R128). -/
def storesLine (s : State) (c : Issue) (pol op : Nat) (nt : Bool) (release : Option Scope) (q : StoreSide) (p : GLane × Nat × List (Nat × Byte)) : StoreSide :=
  let key := threadKey c.who
  let thread := threadLane c p.1.lane
  let wc := p.1.mt == 2#2
  if wc && release.isNone then StoreSide.merge q s.now key thread p.2.1 p.2.2
  else
    let q := if wc then StoreSide.out q p.2.1 else q
    let held := match release with | some x => q.2.1.any (mustPrecede x (2 ^ 61 ≤ p.2.1)) | none => false
    StoreSide.push q { id := 0, op := op, group := key, lane := thread, bytes := p.2.2,
                       stage2 := p.1.mt == 0#2 && p.1.home != 2#2 && !nt && !held && Sparse.look false p.2.1 (s.core (coreOf c.who)).caches.l1,
                       nt := nt, wc := wc, release := release, alloc := p.1.mt == 0#2 && pol / 4 != 0 }

/-- What a store instruction makes of its core's store side: a release first writes out its threads' entries, then each lane's bytes go line by
line, those that a higher lane also stores left out (R113, R126). -/
def stores (o : MOp) (s : State) (c : Issue) (ls : List GLane) (nt : Bool) (release : Option Scope) : StoreSide :=
  let k := (s.core (coreOf c.who)).caches
  let q0 : StoreSide := (k.wc, k.stores, k.nextStore)
  let own (e : WcEntry) : Bool := ls.any (fun l => e.ownOf (threadKey c.who) (threadLane c l.lane))
  let q1 := if release.isSome then ((k.wc.filter own).map WcEntry.line).foldl StoreSide.out q0 else q0
  let data := highestWins (ls.map (fun l => (l.lane, l.places.zip (storeData c (s.cur c) o.d (storeBytes o.sz.toNat) l.lane))))
  let parts := (ls.zip data).flatMap (fun p => ((p.2.2.map (fun b => lineOf b.1)).dedup).map (fun line => (p.1, line, p.2.2.filter (fun b => lineOf b.1 == line))))
  parts.foldl (storesLine s c o.pol.toNat q1.2.2 nt release) q1

/-- Besides the issuer's registers and its core's scratchpad, nothing has changed. -/
def OnlyScratchpad (c : Issue) (s t : State) : Prop :=
  t = { s with cores := t.cores } ∧ (∀ j ≠ coreOf c.who, t.core j = s.core j) ∧ (∀ v, sameRegisters v c.who = false → t.groupOf v = s.groupOf v) ∧
    { t.core (coreOf c.who) with groups := [], store := {} } = { s.core (coreOf c.who) with groups := [], store := {} } ∧
    { (t.core (coreOf c.who)).store with spad := [], spadPoison := [] } = { (s.core (coreOf c.who)).store with spad := [], spadPoison := [] }

/-- A release at .core by some lanes has nothing to wait for: none of their write-combining entries, and no store that only they see (R120). -/
def NothingBefore (s : State) (c : Issue) (lanes : List Nat) : Prop :=
  (∀ e ∈ (s.core (coreOf c.who)).caches.wc, ∀ l ∈ lanes, e.ownOf (threadKey c.who) (threadLane c l) = false) ∧
    ∀ e ∈ (s.core (coreOf c.who)).caches.stores, mustPrecede .core false e = false

/-- R61, R64, R66, R113, R116, R120, R126, R127, R284, R331: a store to global or local space with a misaligned lane stops with cause 0x03, one
past the stack's limits with 0x04, one whose translation faults with 0x01; with 64 store instructions on their way it waits; else each
lane's bytes join the core's stores on their way or, of a write-combining page, the entry of their line, and no byte of memory changes yet.
One to a kick page is a release at .sys. R73, R113, R139, R319: a store to the scratchpad writes its team's bytes through the swizzle at
once, the highest lane's where several write one, and a word that a lane writes whole is clean; nothing else changes. A misaligned lane
stops it with cause 0x03, one past the team's part with 0x02; a tile store to the bytes is waited for. This for bytes of no stash line that
must be filled or owned first, and of a release with nothing to wait for. -/
def Obligations.Stores : Prop :=
  (∀ (o : MOp) (s : State) (c : Issue), LanesRun s c o.at' [(o.d, false)] → isGlen c.who = false →
    ∀ p ∈ [(Instr.stG o, Space.global, false, none), (Instr.stGRel o, Space.global, false, some o.scp), (Instr.stGNt o, Space.global, true, none),
           (Instr.stL o, Space.local', false, none), (Instr.stLRel o, Space.local', false, some o.scp), (Instr.stLNt o, Space.local', true, none)],
      let n := storeBytes o.sz.toNat
      let lanes := accessLanes c o.at' o.isLane
      let addr := alignAddr c (s.cur c) p.2.1 o
      let bad := lanes.filter (fun l => addr l % min n 4 ≠ 0)
      let w := c.snap.win
      let out := lanes.filter (fun l => w.lsize.toNat ≤ addr l + n - 1 ∨ addr l < w.lim.toNat)
      let ps := lanes.map (fun l => (l, memPieces c (s.cur c) p.2.1 o n (piecesOf n) l))
      let r := reachLanes s c.who c.snap .write ps
      let qs := streamsOf [(o.d, false)]
      let u := refilled s c p.2.1 o.base ((s.cur c).consume qs)
      let q := (s.core (coreOf c.who)).caches.stores
      let kick := r.lanes.any (fun l => l.places.any (fun a => (kickPageOf s a).isSome))
      let ends := EndsWith p.1 s c qs
      (bad ≠ [] → ends (stopping { code := 0x03, slot := slotNumber o.at'.slot, aux := BitVec.ofNat 64 (lowest (bad.map addr)) })) ∧
      (bad = [] → p.2.1 = .local' → out ≠ [] →
        ends (stopping { code := 0x04, slot := slotNumber o.at'.slot, aux := BitVec.ofNat 64 (lowest (out.map addr)) })) ∧
      (bad = [] → (p.2.1 = .local' → out = []) →
        HeldBack p.1 s c o.at' o.tag.toNat qs .write ps ∧
        (Reached s c .write ps →
          (64 ≤ ((q.map PendingStore.op).dedup).length → ∃ t, exec p.1 s = .next t ∧ AccessOnly c s t false false id (waiting .poll) ∧ t.cur c = u) ∧
          (((q.map PendingStore.op).dedup).length < 64 → ∃ t, exec p.1 s = .next t ∧
            AccessOnly c s t false true (fun x => x.count o.tag.toNat 1 (n * r.lanes.length)) id ∧ t.cur c = u ∧
            (let k := (t.core (coreOf c.who)).caches
             (k.wc, k.stores, k.nextStore) = stores o s c r.lanes p.2.2.1 (if kick then some .sys else p.2.2.2)))))) ∧
  (∀ (o : MOp) (s : State) (c : Issue), LanesRun s c o.at' [(o.d, false)] → isGlen c.who = false →
    ∀ i ∈ [Instr.stS o, Instr.stSRel o],
      let n := storeBytes o.sz.toNat
      let lanes := accessLanes c o.at' o.isLane
      let addr := alignAddr c (s.cur c) .scratch o
      let k := s.core (coreOf c.who)
      let t0 := k.team (teamKey c.who c.snap)
      let bad := lanes.filter (fun l => addr l % min n 4 ≠ 0)
      let out := lanes.filter (fun l => t0.res.spsize ≤ addr l + n - 1)
      let bytes := laneBytes s c o n (o.pol.toNat % 8)
      let ws := lanes.flatMap (fun l => ((bytes l).map (fun b => t0.res.spbase + b)).zip (storeData c (s.cur c) o.d n l))
      let ends := EndsWith i s c (streamsOf [(o.d, false)])
      (bad ≠ [] → ends (stopping { code := 0x03, slot := slotNumber o.at'.slot, aux := BitVec.ofNat 64 (lowest (bad.map addr)) })) ∧
      (bad = [] → out ≠ [] → ends (stopping { code := 0x02, slot := slotNumber o.at'.slot, aux := BitVec.ofNat 64 (lowest (out.map addr)) })) ∧
      (bad = [] → out = [] → tstPending k c.who (lanes.flatMap bytes) = true → ends (waiting .poll)) ∧
      (bad = [] → out = [] → tstPending k c.who (lanes.flatMap bytes) = false → StashReady s c true (lanes.flatMap bytes) →
        (i = .stSRel o → NothingBefore s c lanes) →
        ∃ t, exec i s = .next t ∧ OnlyScratchpad c s t ∧ t.cur c = (s.cur c).consume (streamsOf [(o.d, false)]) ∧
          (∀ a, (t.core (coreOf c.who)).store.spad.byte a =
            (match ws.reverse.find? (fun w => w.1 == a) with | some w => w.2 | none => k.store.spad.byte a)) ∧
          ∀ w, Sparse.look false w (t.core (coreOf c.who)).store.spadPoison =
            if lanes.any (fun l => (List.range 4).all (fun j => ((bytes l).map (fun b => t0.res.spbase + b)).contains (4 * w + j))) then false else Sparse.look false w k.store.spadPoison))

/-- Lanes' atomics in order on a memory: each reads its place and writes what R290 gives, or nothing where a CAS fails; the old values
by lane, and how many lanes wrote. -/
def atomics (cas : Bool) (o : AOp) (a b : Nat → Nat) : List (Nat × List Nat) → Memory → Memory × List (Nat × Nat) × Nat
  | [], m => (m, [], 0)
  | (l, places) :: ls, m =>
    let old := leNat (places.map m.byte)
    let x := atomNew cas o.aop.toNat (atomTy o.ta) old (a l) (b l)
    let m' := match x with
      | some x => (places.zip (leBytes places.length x)).foldl (fun m w => Sparse.put 0#8 w.1 w.2 m) m
      | none => m
    let r := atomics cas o a b ls m'
    (r.1, (l, old) :: r.2.1, (if x.isSome then 1 else 0) + r.2.2)

/-- What an atomic delivers: the old value of each lane, or the one of the scalar path (R227, R289). -/
def oldResult (o : AOp) (c : Issue) (olds : List (Nat × Nat)) (due : Nat) : List InFlight :=
  match o.d with
  | .v n =>
    [{ lanes := olds.flatMap (fun p => ((if o.ta.is64 then [BitVec.ofNat 32 p.2, BitVec.ofNat 32 (p.2 / 2 ^ 32)] else [BitVec.ofNat 32 p.2]) : List Word).zipIdx.map
        (fun w => (32 * c.snap.phys (n.toNat + w.2) + p.1, w.1, false))),
       due := due, empties := true, load := true }]
  | .s n => [{ sca := some (n.toNat, scalarOf (atomTy o.ta) ((olds.headD (0, 0)).2), false), due := due, empties := true }]
  | _ => []

/-- A team's buffer counter advanced, where any byte is counted (R38). -/
def counted (tag kind n : Nat) (t : Team) : Team := if n = 0 then t else t.count tag kind n

/-- R38, R44, R113, R130, R285, R289 to R291: an atomic or a compare-and-swap acts lane after lane, in ascending order, on memory or on the team's
scratchpad, and its old values are on their way to the destination, after 120 cycles, 180 from another die, 34 for a cached page of the host, or
7 and the rounds for the scratchpad; the bytes written and delivered are counted. A misaligned lane stops it with cause 0x03 before any effect, an
operation that the host's page does not support with 0x0C, a lane past the team's part of the scratchpad with 0x02. This with no store on its way
from the core, no stashed line and no poison. -/
def Obligations.Atomics : Prop :=
  ∀ (o : AOp) (s : State) (c : Issue), LoadDest o.d → isGlen c.who = false →
    ∀ cas : Bool, LanesRun s c o.at' (if cas then [(o.a, false), (o.b, false)] else [(o.a, false)]) →
      let n := if o.ta.is64 then 8 else 4
      let lanes := accessLanes c o.at' (o.isLane cas)
      let m := atomAddr o
      let g := s.cur c
      let qs := streamsOf (if cas then [(o.a, false), (o.b, false)] else [(o.a, false)])
      let u := g.consume qs
      let k := s.core (coreOf c.who)
      let t0 := k.team (teamKey c.who c.snap)
      let av := atomVal c g o.ta o.a
      let bv := atomVal c g o.ta o.b
      let quiet : Prop := k.caches.stores = [] ∧ k.caches.wc = []
      (let i := if cas then Instr.casG o else Instr.atomG o
       let addr := alignAddr c g .global m
       let bad := (lanes.map addr).filter (fun a => a % n ≠ 0)
       let ps := lanes.map (fun l => (l, memPieces c g .global m n [(0, n)] l))
       let r := reachLanes s c.who c.snap .atomic ps
       let u := refilled s c .global o.base u
       let due := s.now + r.lanes.foldl (fun x l => max x (if l.home = 1#2 ∧ l.mt = 0#2 then 34
         else if ∃ p ∈ l.places, p < 2 ^ 40 ∧ p / 2 ^ 38 ≠ coreOf c.who / 160 then 180 else 120)) 34
       let able : Prop := ∀ l ∈ r.lanes, l.home ≠ 1#2 ∨ l.mt = 0#2 ∨ cas = true ∨ o.aop = 0 ∨ o.aop = 7
       (bad ≠ [] → EndsWith i s c qs (stopping { code := 0x03, slot := slotNumber o.at'.slot, aux := BitVec.ofNat 64 (lowest bad) })) ∧
       (bad = [] → HeldBack i s c o.at' o.tag.toNat qs .atomic ps) ∧
       (bad = [] → Reached s c .atomic ps → ¬able →
         ∃ t, exec i s = .next t ∧ AccessOnly c s t false false id (stopping { code := 0x0C, slot := slotNumber o.at'.slot }) ∧ t.cur c = u) ∧
       (bad = [] → Reached s c .atomic ps → able → quiet → NoStash s → (∀ l ∈ r.lanes, ∀ p ∈ l.places, s.isPoisoned p = false) →
         let q := atomics cas o av bv (r.lanes.map (fun l => (l.lane, l.places))) s.store.mem
         ∃ t, exec i s = .next t ∧
           AccessOnly c s t true false (fun x => counted o.tag.toNat 0 (if o.d = .zero then 0 else n * r.lanes.length) (counted o.tag.toNat 1 (n * q.2.2) x)) id ∧
           (∀ j, (t.core j).store = (s.core j).store) ∧ (∀ a, t.store.mem.byte a = q.1.byte a) ∧
           (∀ x, Sparse.look false x t.store.poison = Sparse.look false x s.store.poison) ∧ t.cur c = withResults (oldResult o c q.2.1 due) u)) ∧
      (let i := if cas then Instr.casS o else Instr.atomS o
       let addr := alignAddr c g .scratch m
       let bad := (lanes.map addr).filter (fun a => a % n ≠ 0)
       let out := (lanes.map addr).filter (fun a => t0.res.spsize ≤ a + n - 1)
       let bytes := laneBytes s c m n 0
       (bad ≠ [] → EndsWith i s c qs (stopping { code := 0x03, slot := slotNumber o.at'.slot, aux := BitVec.ofNat 64 (lowest bad) })) ∧
       (bad = [] → out ≠ [] → EndsWith i s c qs (stopping { code := 0x02, slot := slotNumber o.at'.slot, aux := BitVec.ofNat 64 (lowest out) })) ∧
       (bad = [] → out = [] → tstPending k c.who (lanes.flatMap bytes) = true → EndsWith i s c qs (waiting .poll)) ∧
       (bad = [] → out = [] → tstPending k c.who (lanes.flatMap bytes) = false → quiet → StashReady s c true (lanes.flatMap bytes) →
         (∀ l ∈ lanes, ∀ b ∈ bytes l, Sparse.look false ((t0.res.spbase + b) / 4) k.store.spadPoison = false) →
         let q := atomics cas o av bv (lanes.map (fun l => (l, (bytes l).map (fun b => t0.res.spbase + b)))) k.store.spad
         ∃ t, exec i s = .next t ∧ OnlyScratchpad c s t ∧ (∀ a, (t.core (coreOf c.who)).store.spad.byte a = q.1.byte a) ∧
           (∀ x, Sparse.look false x (t.core (coreOf c.who)).store.spadPoison = Sparse.look false x k.store.spadPoison) ∧
           t.cur c = withResults (oldResult o c q.2.1 (s.now + 7 + rounds (lanes.flatMap (fun l => (bytes l).map (· / 4))))) u))

/-- R286 to R288: XPAT holds a valid pattern and is an illegal-operand trap (cause 0x07) on any other, changing nothing; LDX of the
scratchpad and of memory writes the fields that the sampled pattern picks from the span's bytes, two cycles after a load of them, and is an
illegal-operand trap where the pattern is invalid or the destination not a multiple of its registers; a lane past the stack stops it with cause
0x04, one past the team's part of the scratchpad with 0x02. -/
def Obligations.FieldLoads : Prop :=
  (∀ (o : IOp) (s : State) (c : Issue), LanesRun s c o.at' [] →
    (patternOk (c.sval o.a) = false → TrapsWith 0x07 (.xpat o) o.at' s c) ∧
    (patternOk (c.sval o.a) = true →
      ∃ t, exec (.xpat o) s = .next t ∧ RegistersBecome s t c (fun g => { g with xpat := Sparse.put 0 (o.imm.extractLsb' 0 3).toNat (c.sval o.a) g.xpat }))) ∧
  ∀ (o : MOp) (s : State) (c : Issue), LanesRun s c o.at' [] → isGlen c.who = false →
    let x := Sparse.look 0 o.sz.toNat c.snap.xpat
    let p := patternOf x
    let lanes := accessLanes c o.at' o.isLane
    let ok := patternOk x = true ∧ ∃ n, o.d = .v n ∧ n.toNat % p.nr = 0
    let words (n : Nat) (tag : Option Nat) (vals : List (Nat × List Byte)) (due : Nat) : List InFlight :=
      [{ lanes := vals.flatMap (fun q => (extractPattern p q.2).zipIdx.map (fun w => (32 * c.snap.phys (n + w.2) + q.1, w.1, false))),
         due := due, empties := true, load := true, tag := tag }]
    let stops (i : Instr) (code : Nat) (as : List Nat) : Prop :=
      EndsWith i s c [] (stopping { code := code, slot := slotNumber o.at'.slot, aux := BitVec.ofNat 64 (lowest as) })
    (¬ok → TrapsWith 0x07 (.ldxG o) o.at' s c ∧ TrapsWith 0x07 (.ldxL o) o.at' s c ∧ TrapsWith 0x07 (.ldxS o) o.at' s c) ∧
    (ok → ∀ n, o.d = .v n →
      let pieces := (List.range p.span).map (fun i => (i, 1))
      let result := words n.toNat (some o.tag.toNat)
      let addrL := alignAddr c (s.cur c) .local' o
      let outL := lanes.filter (fun l => c.snap.win.lsize.toNat ≤ addrL l + p.span - 1)
      let addrS := alignAddr c (s.cur c) .scratch o
      let outS := lanes.filter (fun l => ((s.core (coreOf c.who)).team (teamKey c.who c.snap)).res.spsize ≤ addrS l + p.span - 1)
      ReadsMemory (.ldxG o) o .global none s c p.span pieces 2 result ∧
      (outL ≠ [] → stops (.ldxL o) 0x04 (outL.map addrL)) ∧ (outL = [] → ReadsMemory (.ldxL o) o .local' none s c p.span pieces 2 result) ∧
      (outS ≠ [] → stops (.ldxS o) 0x02 (outS.map addrS)) ∧ (outS = [] → ReadsScratchpad (.ldxS o) o s c p.span 2 (words n.toNat none)))

/-- What the TLBs behind a unit hold once an entry has been put into those of some keys (R24). -/
def Cached (s t : State) (keys : List Nat) (e : TlbEntry) : Prop :=
  ∀ u, Sparse.look [] u t.tlbs = if u ∈ keys then tlbAdd 4096 (Sparse.look [] u s.tlbs) e else Sparse.look [] u s.tlbs

/-- Only the issuer's registers have changed, by `f`, and its core's write-combining entries and stores on their way, which are `q`. -/
def RegistersAndStores (s t : State) (c : Issue) (f : Group → Group) (q : StoreSide) : Prop :=
  t = { s with cores := t.cores } ∧ (∀ j ≠ coreOf c.who, t.core j = s.core j) ∧ (∀ v, sameRegisters v c.who = false → t.groupOf v = s.groupOf v) ∧
    { t.core (coreOf c.who) with groups := [], caches := {} } = { s.core (coreOf c.who) with groups := [], caches := {} } ∧
    (t.core (coreOf c.who)).caches = { (s.core (coreOf c.who)).caches with wc := q.1, stores := q.2.1, nextStore := q.2.2 } ∧ t.cur c = f (s.cur c)

/-- R22 to R27, R66, R120, R121, R123, R127, R128, R292 to R296: FENCE and DRAIN write out the write-combining entries of their threads and hold the
gang's slices for two cycles and until the stores that they must see have performed, which FENCE_COMPLETE ends; after a full fence wider than the
core its threads' loads are wide. PREF changes no register and faults nowhere; near it brings a line into the L1, far and with a reuse class
into its home slice. TRX waits for a page of the host; else it writes the register with the translation of a's address, or not valid
where there is none. Readings of the order: log entry 42. -/
def Obligations.FencesAndTranslationRegisters : Prop :=
  (∀ (o : ROp) (s : State) (c : Issue), LanesRun s c o.at' [] → isGlen c.who = false →
    let core := coreOf c.who
    let key := threadKey c.who
    let k := (s.core core).caches
    let kind := (o.mod.extractLsb' 3 2).toNat
    let x := Scope.ofCode (o.mod.extractLsb' 0 3)
    let wide := beyondCore x
    let ts := if c.snap.vliw then [34] else c.opLanes o.at' ++ [32]
    let side := ((k.wc.filter (fun e => ts.any (e.ownOf key))).map WcEntry.line).foldl StoreSide.out (k.wc, k.stores, k.nextStore)
    let held (want : PendingStore → Bool) (g : Group) : Group :=
      { g with holds := g.holds ++ [{ slices := c.slices, stores := (side.2.1.filter want).map PendingStore.id, ready := s.now + 2 }] }
    (∃ t, exec (.fence o) s = .next t ∧ RegistersAndStores s t c
      (fun g => held (fun e => (decide (kind ≠ 1) || wide) && !e.nt && (wide || !e.stage2) && (beyondPackage x || !e.remote))
        { g with fenced := g.fenced ++ if kind = 0 ∧ wide = true then ts.filter (fun t => !g.fenced.contains t) else [] }) side) ∧
    (∃ t, exec (.drain o) s = .next t ∧ RegistersAndStores s t c (held (fun e => e.wc || (e.nt && ts.any (e.ownOf key)))) side) ∧
    ∀ n, o.d = .x n →
      let a := c.sval o.a
      let found := findEntry s ((s.core core).caches.tlb ++ s.engineTlb core) (s.cidOf c.who) (isAgent c.who) a
      (∀ cid p, found = .ats cid p → EndsWith (.trx o) s c [] (waiting (.page cid (BitVec.ofNat 64 p)))) ∧
      (∀ f, found = .fault f → ∃ t, exec (.trx o) s = .next t ∧ RegistersBecome s t c (fun g => g.setXreg n.toNat { vbase := a })) ∧
      ∀ e, found = .ok e → ∃ t, exec (.trx o) s = .next t ∧ t = { s with cores := t.cores, tlbs := t.tlbs } ∧ (∀ j ≠ core, t.core j = s.core j) ∧
        (∀ v, sameRegisters v c.who = false → t.groupOf v = s.groupOf v) ∧ Cached s t [core / 8, bankOf (core / 160) e] e ∧
        { t.core core with groups := [] } = { s.core core with groups := [], caches := { k with tlb := tlbAdd 128 k.tlb e } } ∧
        t.cur c = (s.cur c).setXreg n.toNat
          { vbase := a, valid := true, pbase := BitVec.ofNat 64 (e.pbase + (a.toNat % 2 ^ 60 - e.vbase)), home := e.home, mt := e.mt, kv := e.kv, nr := e.nr,
            rd := e.rd, wr := e.wr, priv := e.priv, ps := if e.size = 2 ^ 38 then 3 else if e.size = 2 ^ 27 then 2 else 0,
            pkg := if e.home = 2#2 then e.pkg else 0, limit := BitVec.ofNat 39 (e.vbase + e.size - a.toNat % 2 ^ 60), cid := e.cid }) ∧
  (∀ (a : GangAt) (s : State), ∃ t, exec (.fenceComplete a) s = .next t ∧ MemoryKept s t ∧ t = { s with cores := t.cores } ∧
    t.groupAt a.core a.bank a.slot = { s.groupAt a.core a.bank a.slot with
      holds := (s.groupAt a.core a.bank a.slot).holds.filter (fun h =>
        !(h.slices.contains a.slice && decide (h.ready ≤ s.now) && h.stores.all (fun i => (s.core a.core).caches.stores.all (fun e => e.id != i)))) } ∧
    (∀ k, { t.core k with groups := [] } = { s.core k with groups := [] }) ∧
    ∀ x y z, ¬(x = a.core ∧ slotKey y z = slotKey a.bank a.slot) → t.groupAt x y z = s.groupAt x y z) ∧
  ∀ (o : MOp) (s : State) (c : Issue), Runs s c → isGlen c.who = false →
    let r := reachLanes s c.who c.snap .read ((accessLanes c o.at' (idxIsLane o.idx)).map (fun l => (l, memPieces c (s.cur c) .global o 1 [(0, 1)] l)))
    ∃ t, exec (.pref o) s = .next t ∧ AccessOnly c s t false false id id ∧ t.issue = s.issue ∧ t.cur c = s.cur c ∧
      (c.opLanes o.at' ≠ [] → ∀ l p, r.lanes = [l] → l.places = [p] → l.mt = 0 → l.home ≠ 2 →
        (o.sz = 0 → o.pol.toNat % 4 < 2 → Sparse.look false (lineOf p) (t.core (coreOf c.who)).caches.l1 = true) ∧
        (o.sz ≠ 0 ∨ 2 ≤ o.pol.toNat % 4 → 4 ≤ o.pol.toNat → p < 2 ^ 40 → inL2 t (lineOf p) = true))

/-- The owned line of a stash window that pairs with a place of memory (R55). -/
def ownedAt (w : StashWin) (a : Nat) : Option (Nat × StashLine) :=
  w.lines.find? (fun l => l.2.owned && decide (l.2.place ≤ a) && decide (a < l.2.place + 128))

/-- R52, R54 to R59, R73, R297, R298, R300, R319: STMAP maps a window of empty lines, STFLUSH writes a window's modified lines back to memory, their
poison with them, and leaves them shared, STUNMAP writes them back and unmaps it, each once its group's tile stores to the range are done;
QBIND binds an unbound stream register to a buffer, and QFREE unbinds it once no copy names it, and waits before. An operand
outside these rules is an illegal-operand trap (cause 0x07). -/
def Obligations.StashAndStreams : Prop :=
  ∀ (o : ROp) (s : State) (c : Issue), LanesRun s c o.at' [] → isGlen c.who = false →
    let core := coreOf c.who
    let key := teamKey c.who c.snap
    let t0 := (s.core core).team key
    let spad := (s.core core).store.spad
    let onlyTeam (t : State) : Prop := (∀ v, t.groupOf v = s.groupOf v) ∧ t = { s with cores := t.cores, store := t.store } ∧
      t.store = { s.store with mem := t.store.mem, poison := t.store.poison } ∧ (∀ j ≠ core, t.core j = s.core j) ∧
      t.core core = { s.core core with crew := { (s.core core).crew with teams := (t.core core).crew.teams } } ∧
      (∀ x ≠ key, (t.core core).team x = (s.core core).team x) ∧
      (t.core core).team key = { t0 with stash := ((t.core core).team key).stash }
    let written (w : StashWin) (t : State) : Prop :=
      (∀ a, t.store.mem.byte a = match ownedAt w a with
        | some l => spad.byte (t0.res.spbase + w.w + 128 * l.1 + (a - l.2.place))
        | none => s.store.mem.byte a) ∧
      ∀ x, Sparse.look false x t.store.poison = match ownedAt w (32 * x) with
        | some l => (List.range 8).any (fun i => Sparse.look false ((t0.res.spbase + w.w + 128 * l.1) / 4 + 8 * (x - l.2.place / 32) + i) (s.core core).store.spadPoison)
        | none => Sparse.look false x s.store.poison
    (let g := c.sval o.a
     let w := (c.sval o.b).toNat
     let n := (c.sval o.c).toNat
     let free := (List.range 8).find? (fun i => !(Sparse.look {} i t0.stash).valid)
     let ok := g.toNat % 128 = 0 ∧ g.toNat < 2 ^ 60 ∧ g.toNat + 128 * n ≤ 2 ^ 60 ∧ w % 128 = 0 ∧ 0 < n ∧ n ≤ 4096 ∧ w + 128 * n ≤ t0.res.spsize ∧
       regionBusy (s.core core) t0 w (w + 128 * n) = false ∧ free ≠ none
     (¬ok → TrapsWith 0x07 (.stmap o) o.at' s c) ∧
     (ok → tstWithin (s.core core) c.who w (w + 128 * n) = true → EndsWith (.stmap o) s c [] (waiting .poll)) ∧
     (∀ i, ok → tstWithin (s.core core) c.who w (w + 128 * n) = false → free = some i → ∃ t, exec (.stmap o) s = .next t ∧ onlyTeam t ∧ t.store = s.store ∧
       ((t.core core).team key).stash = Sparse.put {} i { valid := true, g := g, w := w, n := n, lines := [] } t0.stash)) ∧
    (let win := windowAt t0 (c.sval o.a)
     (win = none → TrapsWith 0x07 (.stflush o) o.at' s c ∧ TrapsWith 0x07 (.stunmap o) o.at' s c) ∧
     ∀ i, win = some i →
       let w := Sparse.look {} i t0.stash
       let busy := tstWithin (s.core core) c.who w.w (w.w + 128 * w.n)
       (busy = true → EndsWith (.stflush o) s c [] (waiting .poll) ∧ EndsWith (.stunmap o) s c [] (waiting .poll)) ∧
       (busy = false → (w.lines.map Prod.fst).Nodup → (w.lines.map (fun l => l.2.place)).Nodup → (∀ l ∈ w.lines, l.2.place % 128 = 0) →
       (∃ t, exec (.stflush o) s = .next t ∧ onlyTeam t ∧ written w t ∧
         (let w' := Sparse.look {} i ((t.core core).team key).stash
          w' = { w with lines := w'.lines } ∧ (∀ l ∈ w'.lines, l.2.owned = false) ∧
          ∀ k p, (∃ l ∈ w'.lines, l.1 = k ∧ l.2.place = p) ↔ ∃ l ∈ w.lines, l.1 = k ∧ l.2.place = p)) ∧
       (∃ t, exec (.stunmap o) s = .next t ∧ onlyTeam t ∧ written w t ∧ Sparse.look {} i ((t.core core).team key).stash = {}))) ∧
    ∀ q, o.d = .q q →
      let x := (s.cur c).stream q.toNat
      let a := (c.sval o.a).toNat
      let n := (c.sval o.b).toNat
      let ok := x.size = 0 ∧ n ∈ [512, 1024, 2048, 4096, 8192, 16384, 32768] ∧ a % 128 = 0 ∧ a + n ≤ t0.res.spsize ∧
        regionBusy (s.core core) t0 a (a + n) = false
      (¬ok → TrapsWith 0x07 (.qbind o) o.at' s c) ∧
      (ok → ∃ t, exec (.qbind o) s = .next t ∧ RegistersBecome s t c (fun g => { g with q := Sparse.put {} q.toNat { buf := a, size := n } g.q })) ∧
      (x.size = 0 → TrapsWith 0x07 (.qfree o) o.at' s c) ∧
      (x.size ≠ 0 → x.named ≠ 0 → EndsWith (.qfree o) s c [] (waiting .poll)) ∧
      (x.size ≠ 0 → x.named = 0 → ∃ t, exec (.qfree o) s = .next t ∧
        RegistersBecome s t c (fun g => { g with q := Sparse.put {} q.toNat {} g.q }))

/-! ## Flags and rings (R46 to R51, R303 to R307, R312) -/

/-- Are two issuers on one core, or the same glen core? -/
def sameUnit (v w : Who) : Bool :=
  match v, w with
  | .gang a, .gang b => a.core == b.core
  | .glen m, .glen n => m == n
  | _, _ => false

/-- Flag `n` of the unit of `w` changed by `f`, and nothing else of the machine. -/
def FlagBecomes (s t : State) (w : Who) (n : Nat) (f : Flag → Flag) : Prop :=
  (∀ v k, flagOfWho t v k = if sameUnit v w = true ∧ k = n then f (flagOfWho s v k) else flagOfWho s v k) ∧
    MemoryKept s t ∧ (∀ v, t.groupOf v = s.groupOf v) ∧ (∀ k, { t.core k with flags := [] } = { s.core k with flags := [] }) ∧
    (∀ k, { t.glen k with flags := [] } = { s.glen k with flags := [] }) ∧ t = { s with cores := t.cores, glens := t.glens }

/-- The registers and slices of one issuer changed by `f`, and nothing else of the machine. -/
def GroupBecomes (s t : State) (w : Who) (f : Group → Group) : Prop := OnlyRegisters w s t ∧ t.groupOf w = f (s.groupOf w)

/-- No store of the issuer's core waits to be performed and no write-combining entry to be written out, or the issuer is a glen core, which
queues none. -/
def NoStores (s : State) (w : Who) : Prop := isGlen w = true ∨ (s.core (coreOf w)).caches.stores = [] ∧ (s.core (coreOf w)).caches.wc = []

/-- R301, R303 to R307, R366: WAITF returns the flag's value with ERR at bit 32 once it has reached the target, clearing ERR with
.clr, and its gang waits before; a waiting gang retires 6 cycles after the flag gets there, with a flag-wait record where it waited longer
than the threshold. SETF writes a flag and ADDF adds to
it, ERR unchanged and LAST set, by number or through the handle of a core's or a glen core's flag; a stale handle changes no flag and is
told by a record. SETF.HND gives the handle of a
flag. A number at or above the team's allocation is an illegal-operand trap (cause 0x07). -/
def Obligations.Flags : Prop :=
  (∀ (o : ROp) (s : State) (c : Issue), LanesRun s c o.at' [] →
    let n := (o.mod.extractLsb' 0 6).toNat
    let allot := if isGlen c.who then 16 else (s.teamOf c).res.nflags
    let p := if isGlen c.who then n else (s.teamOf c).res.fbase + n
    let x := flagOfWho s c.who p
    let a := (c.sval o.a).setWidth 32
    let reached : Prop := (x.value - a).toNat < 2 ^ 31
    let value := (if x.err then 2 ^ 32 else 0) + x.value.toNat
    (allot ≤ n → TrapsWith 0x07 (.waitf o) o.at' s c ∧ TrapsWith 0x07 (.setf o) o.at' s c ∧ TrapsWith 0x07 (.addf o) o.at' s c ∧
      TrapsWith 0x07 (.setfHnd o) o.at' s c) ∧
    (n < allot →
      (c.had (.flag p a (o.mod.getLsbD 6)) = false →
        (¬reached → ∃ t, exec (.waitf o) s = .next t ∧ OnlyIssue s t ∧ t.issue = some { c with status := .wait (.flag p a (o.mod.getLsbD 6)) }) ∧
        (reached → ∃ u v t, exec (.waitf o) s = .next t ∧
          FlagBecomes s u c.who p (fun y => if o.mod.getLsbD 6 then { y with err := false } else y) ∧
          RegistersBecome u v c (fun g => g.onSlices c.slices (fun y => { y with ready := max y.ready (s.now + 2) })) ∧
          ScalarResult v t c o.d 4 false (BitVec.ofNat 64 value))) ∧
      (c.had (.flag p a (o.mod.getLsbD 6)) = true → 
        let y := c.snap.slice c.low
        let th := (s.core (coreOf c.who)).agent.wlthr.toNat
        let quick : Prop := isGlen c.who = true ∨ th = 0 ∨ s.now - y.began ≤ th
        let told := s.trace (coreOf c.who)
          { type := 7, slices := sliceMask c.snap c.slices, aid := aidOfWho c.who, pc := c.pc, amask := c.mask,
            p0 := BitVec.ofNat 32 (p + (if y.wake.getLsbD 32 then 256 else 0)), p1 := BitVec.ofNat 64 (s.now - y.began), p2 := y.last.setWidth 64 }
        (quick → ∃ t, exec (.waitf o) s = .next t ∧ ScalarResult s t c o.d 2 false y.wake) ∧
        (¬quick → ∃ t, exec (.waitf o) s = .next t ∧ ScalarResult told t c o.d 2 false y.wake)) ∧
      (NoStores s c.who → ∃ t, exec (.setf o) s = .next t ∧ FlagBecomes s t c.who p (fun y => { y with value := a, last := aidOfWho c.who })) ∧
      (NoStores s c.who → ∃ t, exec (.addf o) s = .next t ∧ FlagBecomes s t c.who p (fun y => { y with value := y.value + a, last := aidOfWho c.who })) ∧
      ∃ t, exec (.setfHnd o) s = .next t ∧ ScalarResult s t c o.d 2 false
        (BitVec.ofNat 64 (match c.who with
          | .gang g => g.core / 160 * 2 ^ 30 + g.core % 160 * 2 ^ 22 + p * 2 ^ 16 + x.gen.toNat
          | .glen k => k / 16 * 2 ^ 30 + (160 + k % 16) * 2 ^ 22 + p * 2 ^ 16 + (s.glen k).starts % 256))) ∧
    (NoStores s c.who →
      let h := (c.sval o.a).toNat % 2 ^ 32
      let v := (c.sval o.b).setWidth 32
      (∀ k m i tm, k < 640 → m < 64 → h = flagHandle s k m → (s.core k).crew.savedFlags = [] →
        flagTeam (s.core k) m = some (i, tm) → tm.cid = s.cidOf c.who →
        let home := Who.gang { core := k, bank := 0, slot := 0, slice := 0 }
        (∃ t, exec (.setfRem o) s = .next t ∧ FlagBecomes s t home m (fun y => { y with value := v, last := aidOfWho c.who })) ∧
        ∃ t, exec (.addfRem o) s = .next t ∧ FlagBecomes s t home m (fun y => { y with value := y.value + v, last := aidOfWho c.who })) ∧
      (∀ k m, k < 64 → m < 16 → h = glenHandle s k m → (s.glen k).prog.running = true → (s.glen k).cid = s.cidOf c.who →
        (∃ t, exec (.setfRem o) s = .next t ∧ FlagBecomes s t (.glen k) m (fun y => { y with value := v, last := aidOfWho c.who })) ∧
        ∃ t, exec (.addfRem o) s = .next t ∧ FlagBecomes s t (.glen k) m (fun y => { y with value := y.value + v, last := aidOfWho c.who })) ∧
      (flagPlace s h (s.cidOf c.who) = .stale → ∀ i ∈ [Instr.setfRem o, Instr.addfRem o],
        ∃ t, exec i s = .next t ∧ (∀ w k, flagOfWho t w k = flagOfWho s w k) ∧ (∀ w, t.groupOf w = s.groupOf w) ∧
          ∀ a, c.who = .gang a → (t.core a.core).recSeq = ((s.core a.core).recSeq + 1) % 2 ^ 32))) ∧
  ∀ (w : Who) (s : State) (ks : List Nat) (n : Nat) (target : Word) (clr : Bool) (had : List Wait),
    s.gangOf w = ks → ks ≠ [] → (((s.groupOf w).slice (ks.headD 0)).run = .waiting (.flag n target clr) had) →
    let x := flagOfWho s w n
    (¬(x.value - target).toNat < 2 ^ 31 → exec (.waitfWake w) s = .next s) ∧
    ((x.value - target).toNat < 2 ^ 31 → ∃ u t, exec (.waitfWake w) s = .next t ∧
      GroupBecomes s u w (fun g => g.onSlices ks (fun y =>
        { y.wakeUp (s.now + 6) (BitVec.ofNat 64 ((if x.err then 2 ^ 32 else 0) + x.value.toNat)) with last := x.last })) ∧
      FlagBecomes u t w n (fun y => if clr then { y with err := false } else y))

/-- Ring `r` of a core becomes `x`, and nothing else of the machine changes. -/
def RingBecomes (s t : State) (core r : Nat) (x : Ring) : Prop :=
  (∀ k q, t.ring k q = if k = core ∧ q = r then x else s.ring k q) ∧ MemoryKept s t ∧ (∀ v, t.groupOf v = s.groupOf v) ∧
    (∀ k, { t.core k with rings := [] } = { s.core k with rings := [] }) ∧ t = { s with cores := t.cores }

/-- R46 to R51, R312: RINGCFG configures a ring with its counters at 0 and GEN advanced, or takes the configuration away; .rsv and .take
reserve and claim slots and give the offset of the first; .cmt and .pop mark the issuing group's oldest slots done, an entry split where they
end inside it, and a pop at HEAD that TAIL has passed advances it; .hnd gives the ring's handle. Before the grant, or while operations name the ring, the gang waits. A
number outside the allocation, a ring with V = 0, a count of 0, above COUNT or above the group's slots, and an ill-formed image
are illegal-operand traps (cause 0x07). -/
def Obligations.RingOperations : Prop :=
  ∀ (o : EOp) (s : State) (c : Issue), LanesRun s c o.at' [] → isGlen c.who = false →
    let k := coreOf c.who
    let a := c.sval o.a
    let tm := s.teamOf c
    let number := tm.res.rings[(o.ext.extractLsb' 0 4).toNat]?
    let n := a.toNat % 2 ^ 32
    let traps (i : Instr) : Prop := TrapsWith 0x07 i o.at' s c
    let waits (i : Instr) (w : Wait) : Prop := ∃ t, exec i s = .next t ∧ OnlyIssue s t ∧ t.issue = some { c with status := .wait w }
    (number = none → traps (.ringcfg o) ∧ traps (.ringcfgRsv o) ∧ traps (.ringcfgCmt o) ∧ traps (.ringcfgTake o) ∧ traps (.ringcfgPop o) ∧
      traps (.ringcfgHnd o)) ∧
    ∀ r, number = some r →
      let x := s.ring k r
      let mine := gangKey c.who c
      let place (i : Nat) : Nat := x.base + i % x.count * (x.slotsz * 128)
      let handle (g : BitVec 8) : Nat := k / 160 * 2 ^ 30 + k % 160 * 2 ^ 22 + r * 2 ^ 15 + g.toNat
      let done (i : Instr) (y : Ring) (v : Nat) : Prop := ∃ u t, exec i s = .next t ∧ RingBecomes s u k r y ∧ ScalarResult u t c o.d 2 false (BitVec.ofNat 64 v)
      (let count := (a.extractLsb' 44 9).toNat
       let size := (a.extractLsb' 28 12).toNat
       let base := (a.extractLsb' 0 19).toNat
       let hi := base + count * size * 128
       let others := { tm with res := { tm.res with rings := tm.res.rings.filter (fun q => q != r) } }
       let zeros : Prop := a.extractLsb' 53 10 = 0 ∧ a.extractLsb' 40 4 = 0 ∧ a.extractLsb' 19 9 = 0
       let good : Prop := zeros ∧ (a.getLsbD 63 = true →
         1 ≤ count ∧ count ≤ 256 ∧ 1 ≤ size ∧ base % 128 = 0 ∧ hi ≤ tm.res.spsize ∧ regionBusy (s.core k) others base hi = false)
       let busy : Prop := x.valid = true ∧ ¬(x.producers = [] ∧ x.consumers = [])
       (¬good → traps (.ringcfg o)) ∧ (good → busy → waits (.ringcfg o) (.ringcfg r)) ∧
       (good → ¬busy → a.getLsbD 63 = true →
         done (.ringcfg o) { valid := true, base := base, slotsz := size, count := count, gen := x.gen + 1 } (handle (x.gen + 1))) ∧
       (good → ¬busy → a.getLsbD 63 = false → done (.ringcfg o) { gen := x.gen + 1 } 0)) ∧
      (x.valid = false → traps (.ringcfgRsv o) ∧ traps (.ringcfgCmt o) ∧ traps (.ringcfgTake o) ∧ traps (.ringcfgPop o) ∧ traps (.ringcfgHnd o)) ∧
      (x.valid = true → (n = 0 ∨ x.count < n) → traps (.ringcfgRsv o) ∧ traps (.ringcfgCmt o) ∧ traps (.ringcfgTake o) ∧ traps (.ringcfgPop o)) ∧
      (x.valid = true → done (.ringcfgHnd o) x (handle x.gen)) ∧
      (x.valid = true → 1 ≤ n → n ≤ x.count →
        (let held := x.producers.find? (fun h => h.thread && h.cmd == mine)
         let fits : Prop := (∀ h ∈ x.producers, h.granted = true) ∧ x.diff x.rsv x.head + n ≤ x.count ∧ x.own.length < 32
         (held = none → fits → done (.ringcfgRsv o)
           { x with rsv := (x.rsv + n) % x.modulus, own := x.own ++ [{ take := false, grp := c.snap.number, n := n, first := x.rsv }] } (place x.rsv)) ∧
         (held = none → ¬fits → waits (.ringcfgRsv o) (.ring r false n)) ∧
         ∀ h, held = some h →
           (h.granted = true → done (.ringcfgRsv o) { x with producers := x.producers.erase h } (place h.first)) ∧
           (h.granted = false → waits (.ringcfgRsv o) (.ring r false n))) ∧
        (let held := x.consumers.find? (fun h => h.thread && h.cmd == mine)
         let passed (first : Nat) : Prop := x.diff first x.head + n ≤ x.diff x.tail x.head
         let fits : Prop := (∀ h ∈ x.consumers, h.granted = true) ∧ x.diff x.clm x.head + n ≤ x.count ∧ x.own.length < 32 ∧ passed x.clm
         (held = none → fits → done (.ringcfgTake o)
           { x with clm := (x.clm + n) % x.modulus, own := x.own ++ [{ take := true, grp := c.snap.number, n := n, first := x.clm }] } (place x.clm)) ∧
         (held = none → ¬fits → waits (.ringcfgTake o) (.ring r true n)) ∧
         ∀ h, held = some h →
           (h.granted = true → passed h.first → done (.ringcfgTake o) { x with consumers := x.consumers.erase h } (place h.first)) ∧
           (¬(h.granted = true ∧ passed h.first) → waits (.ringcfgTake o) (.ring r true n))) ∧
        (ownedSlots false c.snap.number x.own < n → traps (.ringcfgCmt o)) ∧
        (ownedSlots true c.snap.number x.own < n → traps (.ringcfgPop o)) ∧
        (n ≤ ownedSlots false c.snap.number x.own → NoStores s c.who → ∃ t, exec (.ringcfgCmt o) s = .next t ∧
          RingBecomes s t k r { x with own := markDone x false c.snap.number n x.own }) ∧
        (n ≤ ownedSlots true c.snap.number x.own → ∃ t, exec (.ringcfgPop o) s = .next t ∧
          RingBecomes s t k r ({ x with own := markDone x true c.snap.number n x.own } : Ring).popAll) ∧
        ∀ pre e post, x.own = pre ++ e :: post → e.done = false → e.grp = c.snap.number → n ≤ e.n →
          (∀ f ∈ pre, ¬(f.take = e.take ∧ f.grp = e.grp ∧ f.done = false)) →
          let rest : List RingOwn := if n = e.n then post else { e with n := e.n - n, first := (e.first + n) % x.modulus } :: post
          let marked := { x with own := pre ++ { e with done := true, n := n } :: rest }
          (e.take = false → NoStores s c.who → ∃ t, exec (.ringcfgCmt o) s = .next t ∧ RingBecomes s t k r marked) ∧
          (e.take = true → (∀ f ∈ x.own, f.take = true → f.done = false) → (∀ h ∈ x.consumers, h.done = false) →
            let heads : Prop := e.first = x.head ∧ x.diff e.first x.head + n ≤ x.diff x.tail x.head
            ∃ t, exec (.ringcfgPop o) s = .next t ∧
              (heads → RingBecomes s t k r { x with head := (x.head + n) % x.modulus, own := pre ++ rest }) ∧ (¬heads → RingBecomes s t k r marked)))

/-- The gang with a key among the slices of a group goes on where it waits for `r` as `w` tells. -/
def wakes (w : Wait → Bool) (ks : List Nat) (now : Nat) (g : Group) : Group :=
  g.onSlices ks (fun y =>
    match y.run with
    | .waiting q had => if w q then { y with run := .woken (q :: had), ready := now, wake := 0 } else y
    | _ => y)

/-- One group of a core changed by `f`, and nothing else of the machine. -/
def KeyBecomes (s t : State) (core key : Nat) (f : Group → Group) : Prop :=
  (∀ k q, (t.core k).groupK q = if k = core ∧ q = key then f ((s.core k).groupK q) else (s.core k).groupK q) ∧ MemoryKept s t ∧
    (∀ k, { t.core k with groups := [] } = { s.core k with groups := [] }) ∧ t = { s with cores := t.cores }

/-- R46, R49 to R51: a ring's first waiting reservation or claim is granted its slots once they fit and, for a thread, the ownership table has
room for them, and none behind it before; a waiting thread then goes on, with a claim once TAIL has passed its slots. TAIL moves past the completed
reservation that begins at it, and HEAD past the popped claim that begins at it and that TAIL has passed. Waiting configurations go on once
no operation names the ring. -/
def Obligations.RingEvents : Prop :=
  ∀ (core r : Nat) (s : State),
    let x := s.ring core r
    let mine (q : Wait) : Bool := match q with | .ring m _ _ => m == r | _ => false
    let room (h : RingHold) : Prop := h.thread = true → x.own.length < 32
    let owned (h : RingHold) (take : Bool) (first : Nat) : List RingOwn :=
      if h.thread then x.own ++ [{ take := take, grp := h.num, n := h.n, first := first }] else x.own
    let goOn (y : Ring) (t : State) : Prop := ∃ u, RingBecomes s u core r y ∧ MemoryKept u t ∧
      (∀ k, { t.core k with groups := [] } = { u.core k with groups := [] }) ∧ t = { u with cores := t.cores } ∧
      ∀ k q, (t.core k).groupK q =
        if k = core then
          (y.consumers.filter (fun h => h.thread && h.granted && h.group == q && decide (y.diff h.first y.head + h.n ≤ y.diff y.tail y.head))).foldl
            (fun g h => wakes mine (g.gangOf (h.cmd % 8)) s.now g) ((s.core k).groupK q)
        else (s.core k).groupK q
    (x.valid = false → exec (.ringReserveGrant core r) s = .next s ∧ exec (.ringClaimGrant core r) s = .next s ∧ exec (.ringCommit core r) s = .next s) ∧
    (x.valid = true →
      ((∀ h ∈ x.producers, h.granted = true) → exec (.ringReserveGrant core r) s = .next s) ∧
      (∀ pre h post, x.producers = pre ++ h :: post → (∀ f ∈ pre, f.granted = true) → h.granted = false →
        let fits : Prop := x.diff x.rsv x.head + h.n ≤ x.count ∧ room h
        (¬fits → exec (.ringReserveGrant core r) s = .next s) ∧
        (fits → ∃ u t, exec (.ringReserveGrant core r) s = .next t ∧
          RingBecomes s u core r { x with
            rsv := (x.rsv + h.n) % x.modulus, producers := pre ++ { h with granted := true, first := x.rsv } :: post, own := owned h false x.rsv } ∧
          KeyBecomes u t core h.group (fun g => if h.thread then wakes mine (g.gangOf (h.cmd % 8)) s.now g else g))) ∧
      ((∀ h ∈ x.consumers, h.granted = true) → ∃ t, exec (.ringClaimGrant core r) s = .next t ∧ goOn x t) ∧
      (∀ pre h post, x.consumers = pre ++ h :: post → (∀ f ∈ pre, f.granted = true) → h.granted = false →
        let fits : Prop := x.diff x.clm x.head + h.n ≤ x.count ∧ room h
        ∃ t, exec (.ringClaimGrant core r) s = .next t ∧ (¬fits → goOn x t) ∧
          (fits → goOn { x with clm := (x.clm + h.n) % x.modulus, consumers := pre ++ { h with granted := true, first := x.clm } :: post,
                                own := owned h true x.clm } t)) ∧
      ((∀ f ∈ x.own, f.take = true → f.done = false) → (∀ h ∈ x.consumers, h.done = false) →
        (∀ pre e post, x.own = pre ++ e :: post → e.take = false → e.done = true → e.first = x.tail → (∀ f ∈ pre ++ post, f.done = false) →
          (∀ h ∈ x.producers, h.done = false) →
          ∃ t, exec (.ringCommit core r) s = .next t ∧ RingBecomes s t core r { x with tail := (x.tail + e.n) % x.modulus, own := pre ++ post }) ∧
        (∀ pre h post, x.producers = pre ++ h :: post → h.granted = true → h.done = true → h.first = x.tail → (∀ f ∈ pre ++ post, f.done = false) →
          (∀ e ∈ x.own, e.done = false) →
          ∃ t, exec (.ringCommit core r) s = .next t ∧ RingBecomes s t core r { x with tail := (x.tail + h.n) % x.modulus, producers := pre ++ post })) ∧
      (∀ pre e post, x.own = pre ++ e :: post → e.take = true → e.done = true → e.first = x.head →
        x.diff e.first x.head + e.n ≤ x.diff x.tail x.head → (∀ f ∈ pre ++ post, f.done = false) →
        (∀ h ∈ x.producers, h.done = false) → (∀ h ∈ x.consumers, h.done = false) →
        ∃ t, exec (.ringCommit core r) s = .next t ∧ RingBecomes s t core r { x with head := (x.head + e.n) % x.modulus, own := pre ++ post })) ∧
    (¬(x.producers = [] ∧ x.consumers = []) → exec (.ringReconfigure core r) s = .next s) ∧
    (x.producers = [] → x.consumers = [] → ∃ t, exec (.ringReconfigure core r) s = .next t ∧ MemoryKept s t ∧
      (∀ k, { t.core k with groups := [] } = { s.core k with groups := [] }) ∧ t = { s with cores := t.cores } ∧
      ∀ k q, (t.core k).groupK q =
        if k = core then { (s.core k).groupK q with slices := ((s.core k).groupK q).slices.map (fun y =>
          match y.run with
          | .waiting (.ringcfg m) had => if m == r then { y with run := .woken (.ringcfg m :: had), ready := s.now, wake := 0 } else y
          | _ => y) }
        else (s.core k).groupK q)

/-! ## Engine commands, tiles and matrices (R62, R190 to R194, R301 to R303, R313 to R319) -/

/-- A core can take a command of a unit: the queue of `depth` has room, no TST of the group holds it back, no store waits, and the flag
that the command names lies in the team's allocation. -/
def CanQueue (s : State) (c : Issue) (i : Instr) (unit depth : Nat) : Prop :=
  isGlen c.who = false ∧ (s.core (coreOf c.who)).caches.stores = [] ∧ (s.core (coreOf c.who)).caches.wc = [] ∧
    ((s.core (coreOf c.who)).cmds.filter (fun d => unitOf d.op == unit && !d.begun)).length < depth ∧
    (unit = 3 ∨ tstOutstanding (s.core (coreOf c.who)) c.who = false) ∧ ∀ n, flagField i = some n → n < (s.teamOf c).res.nflags

/-- R301, R302, R319: a command whose flag lies outside the allocation is an illegal-operand trap (cause 0x07); else its gang waits while the
queue is full, or while a TST of its group is not done; else, with no store on its way from the core, the issue gives `act`. -/
def Queues (s : State) (c : Issue) (site : Site) (i : Instr) (unit depth : Nat) (act : State → Prop) : Prop :=
  let inTeam : Prop := ∀ n, flagField i = some n → n < (s.teamOf c).res.nflags
  let full : Prop := depth ≤ ((s.core (coreOf c.who)).cmds.filter (fun d => unitOf d.op == unit && !d.begun)).length ∨
    (unit ≠ 3 ∧ tstOutstanding (s.core (coreOf c.who)) c.who = true)
  (¬inTeam → TrapsWith 0x07 i site s c) ∧ (inTeam → full → EndsWith i s c [] (waiting .poll)) ∧
    (CanQueue s c i unit depth → ∃ t, exec i s = .next t ∧ act t)

/-- The command that an issuing gang makes, with the fields that `f` fills in, is the last of its core's, and nothing else of the machine
changes but the numbers given to commands. -/
def Commanded (s t : State) (c : Issue) (site : Site) (i : Instr) (f : Cmd → Cmd) : Prop :=
  let k := coreOf c.who
  let d := f { id := (s.core k).nextCmd, op := i, who := c.who, team := teamKey c.who c.snap, cid := s.cidOf c.who, order := s.store.nextOwner,
               pc := c.pc, slot := slotNumber site.slot,
               slices := c.slices.map (fun x => x + (if c.snap.gid.half && c.snap.gid.hnum == 1 then 4 else 0)), amask := c.opMask site,
               fmt := (c.snap.slice c.low).fmt, codebook := c.snap.codebook }
  t = { s with cores := t.cores, store := { s.store with nextOwner := s.store.nextOwner + 1 } } ∧ (∀ j ≠ k, t.core j = s.core j) ∧
    t.core k = { s.core k with cmds := (s.core k).cmds ++ [d], nextCmd := (s.core k).nextCmd + 1 }

/-- A physical tile of a core holds no poisoned element. -/
def TileClean (k : Core) (tile : Nat) : Prop := ∀ q < 1024, Sparse.look false (1024 * tile + q) k.store.tilePoison = false

/-- R62, R72, R301, R302, R317 to R319: a tile operation whose tiles lie in the team's allocation becomes a command of the tile unit; outside
it is an illegal-operand trap (cause 0x07), and on a poisoned source element it stops with cause 0x0A. TLD and TST moreover need
sixteen rows inside the team's scratchpad, word-aligned stride and no stash window, and wait for the group's tile stores to them; TLD samples the bytes it
loads, and the two registers of ACCFLG await its turn. That they are read then is the model's choice (log entry 19). -/
def Obligations.TileCommands : Prop :=
  ∀ (s : State) (c : Issue),
    let k := s.core (coreOf c.who)
    let tm := s.teamOf c
    let tile (n : Nat) : Nat := tm.res.abase + n
    let poisoned (site : Site) (i : Instr) : Prop :=
      EndsWith i s c [] (stopping { code := 0x0A, slot := slotNumber site.slot, aux := Config.tilePoisonAux s.free })
    (∀ o : EOp, LanesRun s c o.at' [] → isGlen c.who = false →
      let d := (o.ext.extractLsb' 0 6).toNat
      let a := (o.ext.extractLsb' 8 6).toNat
      let b := (o.ext.extractLsb' 16 6).toNat
      let e := (o.ext.extractLsb' 24 6).toNat
      (∀ p ∈ [(Instr.tcpy o, [a]), (.texp o, [a]), (.tcvt o, [a]), (.tredr o, [a]), (.tredc o, [a]), (.trotr o, [a]), (.trotc o, [a]), (.tbcr o, [a]),
          (.tbcc o, [a]), (.tadd o, [a, b]), (.tsub o, [a, b]), (.tmul o, [a, b]), (.tmax o, [a, b]), (.tscr o, [a, b]), (.tscc o, [a, b]),
          (.tfma o, [a, b, e])],
        ((∃ x ∈ d :: p.2, tm.res.nacc ≤ x) → TrapsWith 0x07 p.1 o.at' s c) ∧
        ((∀ x ∈ d :: p.2, x < tm.res.nacc) → (¬∀ x ∈ p.2, TileClean k (tile x)) → poisoned o.at' p.1) ∧
        ((∀ x ∈ d :: p.2, x < tm.res.nacc) → (∀ x ∈ p.2, TileClean k (tile x)) →
          Queues s c o.at' p.1 3 16 (fun t => Commanded s t c o.at' p.1 (fun m => { m with phase := .registered })))) ∧
      let size := o.ty.elemBits / 8
      let stride := (o.ext.extractLsb' 16 16).toNat
      let base : Int := ((c.sval o.a).toNat : Int) + (o.ext.extractLsb' 32 16).toInt
      let bytes := (List.range 16).flatMap (fun i => spadBytes (base.toNat + i * stride) (64 * size) (o.ext.extractLsb' 13 3).toNat)
      let ok : Prop := 64 * size ≤ stride ∧ stride % 4 = 0 ∧ 0 ≤ base ∧ base + 15 * stride + 64 * size ≤ tm.res.spsize ∧
        touchesStash tm base.toNat (64 * size) ((List.range 16).map (fun i => ((i * stride : Nat) : Int))) = false ∧ d < tm.res.nacc
      (¬ok → TrapsWith 0x07 (.tld o) o.at' s c ∧ TrapsWith 0x07 (.tst o) o.at' s c) ∧
      (ok → tstPending k c.who bytes = true → EndsWith (.tld o) s c [] (waiting .poll) ∧ EndsWith (.tst o) s c [] (waiting .poll)) ∧
      (ok → tstPending k c.who bytes = false →
        Queues s c o.at' (.tld o) 3 16 (fun t =>
          Commanded s t c o.at' (.tld o) (fun m =>
            { m with phase := .registered, a := BitVec.ofInt 64 base, desc := bytes.map (fun p => k.store.spad.byte (tm.res.spbase + p))
                     err := bytes.any (fun p => s.engineBad (coreOf c.who) (.here (tm.res.spbase + p)))
                     aux := (bytes.zipIdx.filter (fun p => s.engineBad (coreOf c.who) (.here (tm.res.spbase + p.1)))).map Prod.snd })) ∧
        (¬TileClean k (tile d) → poisoned o.at' (.tst o)) ∧
        (TileClean k (tile d) → Queues s c o.at' (.tst o) 3 16 (fun t =>
          Commanded s t c o.at' (.tst o) (fun m => { m with phase := .registered, a := BitVec.ofInt 64 base }))))) ∧
    ∀ o : ROp, LanesRun s c o.at' [] → isGlen c.who = false →
      let n := (o.mod.extractLsb' 8 6).toNat
      (tm.res.nacc ≤ n → TrapsWith 0x07 (.tzero o) o.at' s c) ∧
      (n < tm.res.nacc → Queues s c o.at' (.tzero o) 3 16 (fun t => Commanded s t c o.at' (.tzero o) (fun m => { m with phase := .registered }))) ∧
      (n % 2 ≠ 0 ∨ tm.res.nacc ≤ n + 1 → TrapsWith 0x07 (.accclr o) o.at' s c ∧ TrapsWith 0x07 (.accflg o) o.at' s c) ∧
      (n % 2 = 0 → n + 1 < tm.res.nacc →
        Queues s c o.at' (.accclr o) 3 16 (fun t => Commanded s t c o.at' (.accclr o) (fun m => { m with phase := .registered })) ∧
        (o.d = .zero → Queues s c o.at' (.accflg o) 3 16 (fun t => Commanded s t c o.at' (.accflg o) (fun m => { m with phase := .registered }))) ∧
        ∀ v, o.d = .v v →
          let regs := [v.toNat, v.toNat + 1].map (fun x => c.snap.phys x - c.snap.gid.rbase)
          Queues s c o.at' (.accflg o) 3 16 (fun t => ∃ u, Commanded s u c o.at' (.accflg o) (fun m => { m with phase := .registered, aux := regs }) ∧
            RegistersBecome u t c (fun g => withResults
              (regs.map (fun r => { lanes := (c.opLanes o.at').map (fun l => (32 * (g.gid.rbase + r) + l, 0, false)), held := true })) g)))

/-- A command of a core, the only one with its number, in a phase. -/
def Holds (s : State) (core : Nat) (d : Cmd) (phase : CmdPhase) : Prop :=
  (s.core core).cmd d.id = some d ∧ d.phase = phase ∧ d.paused = none

/-- A command leaves its core, with its held lines; its claims on rings are done and rings without one stay as they are. Of the rest only its
core's storage and the flags may change. -/
def CmdLeaves (s t : State) (core : Nat) (d : Cmd) : Prop :=
  let keys := if unitOf d.op = 1 then [holdKey core d.id] else [claimKey core d.id 0, claimKey core d.id 1]
  (∀ v, t.groupOf v = s.groupOf v) ∧ t = { s with cores := t.cores, store := t.store } ∧
    t.store = { s.store with owners := s.store.owners.filter (fun o => !(o.unit == core && o.cmd == d.id)) } ∧
    (∀ k, { t.core k with store := {}, cmds := [], rings := [], flags := [] } = { s.core k with store := {}, cmds := [], rings := [], flags := [] }) ∧
    (∀ k ≠ core, (t.core k).store = (s.core k).store ∧ (t.core k).cmds = (s.core k).cmds ∧ (t.core k).flags = (s.core k).flags) ∧
    (t.core core).cmds = (s.core core).cmds.filter (fun x => x.id != d.id) ∧
    ∀ k r, ((∀ h ∈ (s.ring k r).producers ++ (s.ring k r).consumers, h.thread = true ∨ h.cmd ∉ keys) → t.ring k r = s.ring k r) ∧
      ∀ h ∈ (t.ring k r).producers ++ (t.ring k r).consumers, h.thread = false → h.cmd ∈ keys → h.done = true

/-- The end of a command on tiles: it leaves its core, and of its core's storage only tiles change. -/
def TilesOnly (s t : State) (core : Nat) (d : Cmd) : Prop :=
  CmdLeaves s t core d ∧
    (t.core core).store = { (s.core core).store with tiles := (t.core core).store.tiles, lost := (t.core core).store.lost,
                                                     tilePoison := (t.core core).store.tilePoison }

/-- Element (i, j) of a tile, as its f32 pattern and its lost-significance flag. -/
def tileAt (k : Core) (tile i j : Nat) : Nat × Bool := ((k.store.elem (tileKey tile i j)).toNat, k.store.lostAt (tileKey tile i j))

/-- What the end of a command on a core leaves unchanged, whatever it writes: it leaves its core, with its held lines; of the rest only memory and
scratchpads, their poison, what the caches hold, rings and flags, stream registers, gather counters, the wakes of islands and its team's buffer
counters may change; other cores' commands and flags stay. -/
def CommandEnds (s t : State) (core : Nat) (d : Cmd) : Prop :=
  t = { s with cores := t.cores, slices := t.slices, store := t.store, plat := t.plat, free := t.free } ∧
    (∀ v, { t.groupOf v with q := [] } = { s.groupOf v with q := [] }) ∧ { t.plat with islands := [] } = { s.plat with islands := [] } ∧
    (∀ k, { t.core k with groups := [], caches := {}, crew := {}, store := {}, cmds := [], rings := [], flags := [] } =
      { s.core k with groups := [], caches := {}, crew := {}, store := {}, cmds := [], rings := [], flags := [] }) ∧
    (∀ k, { (t.core k).caches with l1 := [], l1own := [] } = { (s.core k).caches with l1 := [], l1own := [] }) ∧
    (∀ k, { (t.core k).crew with teams := [] } = { (s.core k).crew with teams := [] }) ∧
    (∀ k x, (k ≠ core ∨ x ≠ d.team → (t.core k).team x = (s.core k).team x) ∧
      { (t.core k).team x with counters := [], saturated := false } = { (s.core k).team x with counters := [], saturated := false }) ∧
    (∀ k, { (t.core k).store with spad := [], spadPoison := [], tiles := [], lost := [], tilePoison := [] } =
      { (s.core k).store with spad := [], spadPoison := [], tiles := [], lost := [], tilePoison := [] }) ∧
    { t.store with mem := [], poison := [], l2 := [], evict := [], replicas := [] } =
      { s.store with mem := [], poison := [], l2 := [], evict := [], replicas := [],
                     owners := s.store.owners.filter (fun o => !(o.unit == core && o.cmd == d.id)) } ∧
    (∀ k ≠ core, (t.core k).cmds = (s.core k).cmds ∧ (t.core k).flags = (s.core k).flags) ∧
    (t.core core).cmds = (s.core core).cmds.filter (fun x => x.id != d.id)

/-- The flag that a command names has gone up by one, with ERR where `err` stands and LAST set to the command's unit, and no other flag of
the core changes (R303); this while the command's group is not stopped for the debugger. -/
def FlagDone (s t : State) (core : Nat) (d : Cmd) (err : Bool) : Prop :=
  (flagField d.op = none → ∀ x, t.flagOf core x = s.flagOf core x) ∧
  ∀ n, flagField d.op = some n → (groupStopped ((s.core core).groupK d.groupKey) = false ∨ (s.core core).agent.dctlHold = false) →
    ∀ x, t.flagOf core x =
      if x = ((s.core core).team d.team).res.fbase + n then
        { s.flagOf core x with value := (s.flagOf core x).value + 1, err := (s.flagOf core x).err || err, last := cmdAid core d.op }
      else s.flagOf core x

/-- The same for a command that met no error. -/
def FlagUp (s t : State) (core : Nat) (d : Cmd) : Prop := FlagDone s t core d false

/-- A command of a core changed by `f`, and nothing else of the machine. -/
def CmdBecomes (s t : State) (core id : Nat) (f : Cmd → Cmd) : Prop :=
  t = { s with cores := t.cores } ∧ (∀ j ≠ core, t.core j = s.core j) ∧
    t.core core = { s.core core with cmds := (s.core core).cmds.map (fun d => if d.id == id then f d else d) }

/-- R62, R183, R302, R317 to R319: a tile-unit command starts in its queue's order, once its tiles are not pending, but for a .peek source, and used by
no earlier one; TEXP takes 8 cycles, the column operations 10, TLD and TST 8 for each byte of an element, the others 4. At its end a tile
operation writes each element of its destination from its sources' elements, a NaN as the
canonical one, the lost-significance flag set where a source element's is, and changes no other tile. TZERO writes zeros, TLD the
loaded elements widened, poisoned where a byte of one was, TST each element rounded, with .sat an infinity as the largest finite value; ACCCLR
clears the flags of the active rows, and ACCFLG at its turn gives its two registers the flags of each active row, 6 cycles later. -/
def Obligations.TileResults : Prop :=
  (∀ (core : Nat) (d : Cmd) (s : State), Holds s core d .registered → unitOf d.op = 3 →
    let k := s.core core
    let tm := k.team d.team
    let uses := tileUses tm d.op
    let free : Prop := (∀ x ∈ k.cmds, x.id < d.id → unitOf x.op = 3 → x.begun = true ∨ x.paused ≠ none) ∧
      (∀ x ∈ k.cmds, x.id < d.id → ∀ y ∈ matTargets (k.team x.team) x.op, y ∉ uses.2 ∧ (y ∈ uses.1 → peeks d.op = true)) ∧
      ∀ x ∈ k.cmds, x.id < d.id → unitOf x.op = 3 →
        (∀ y ∈ (tileUses (k.team x.team) x.op).2, y ∉ uses.1 ∧ y ∉ uses.2) ∧ ∀ y ∈ (tileUses (k.team x.team) x.op).1, y ∉ uses.2
    (¬free → exec (.engineCommandStart core d.id) s = .next s) ∧
    (free → (∀ o, d.op ≠ .accflg o) → ∃ t, exec (.engineCommandStart core d.id) s = .next t ∧ CmdBecomes s t core d.id (fun x =>
      { x with phase := .started
               due := s.now + (match d.op with
                 | .texp _ => 8
                 | .tscc _ | .tredc _ | .trotc _ | .tbcc _ => 10
                 | .tld o | .tst o => if o.ty.elemBits = 32 then 32 else if o.ty.elemBits = 16 then 16 else 8
                 | _ => 4) })) ∧
    ∀ o r0 r1 pre x0 x1 post, free → d.op = .accflg o → d.aux = [r0, r1] → s.store.cut = [] → isGlen d.who = false →
      let g := s.groupOf d.who
      let rows := (List.range 32).filter (fun l => d.amask.getLsbD l)
      let keys (r : Nat) : List Nat := rows.map (fun l => 32 * (g.gid.rbase + r) + l)
      let tile := tm.res.abase + (o.mod.extractLsb' 8 6).toNat
      let mine (r : Nat) (x : InFlight) : Prop := x.held = true ∧ x.empties = false ∧ x.lanes.map Prod.fst = keys r
      g.inflight = pre ++ x0 :: x1 :: post → (∀ x ∈ pre, ¬mine r0 x ∧ ¬mine r1 x) → mine r0 x0 → mine r1 x1 →
      ∃ (t u : State) (row : Nat → Nat → Word), exec (.engineCommandStart core d.id) s = .next t ∧
        (∀ l lo, ∀ j < 32, (row l lo).getLsbD j = k.store.lostAt (tileKey tile l (lo + j))) ∧ CmdLeaves s u core d ∧
        (∀ n, (u.core n).store = (s.core n).store) ∧ (u.core core).flags = k.flags ∧
        GroupBecomes u t d.who (fun g => { g with inflight := pre ++
          { x0 with lanes := rows.map (fun l => (32 * (g.gid.rbase + r0) + l, row l 0, false)), held := false, due := s.now + 6 } ::
          { x1 with lanes := rows.map (fun l => (32 * (g.gid.rbase + r1) + l, row l 32, false)), held := false, due := s.now + 6 } :: post })) ∧
  ∀ (core : Nat) (d : Cmd) (s : State), Holds s core d .started → d.due ≤ s.now → d.err = false → s.store.cut = [] →
    let k := s.core core
    let tm := k.team d.team
    let tile (n : Nat) : Nat := tm.res.abase + n
    let ends (t : State) : Prop := exec (.tileOpComplete core d.id) s = .next t ∧ TilesOnly s t core d
    (∀ (o : EOp) (i : Instr) (srcs : List Nat) (val : Nat → Nat → Nat × Bool),
      let a := tile (o.ext.extractLsb' 8 6).toNat
      let b := tile (o.ext.extractLsb' 16 6).toNat
      let e := tile (o.ext.extractLsb' 24 6).toNat
      let q := (o.ext.extractLsb' 32 6).toNat
      let rm := (o.mod.extractLsb' 0 2).toNat
      let sat := o.mod.getLsbD 2
      let one (f : Nat → Nat) (x : Nat × Bool) : Nat × Bool := (canonical (f x.1), x.2)
      let two (f : Nat → Nat → Nat) (x y : Nat × Bool) : Nat × Bool := (canonical (f x.1 y.1), x.2 || y.2)
      let add (x y : Nat) : Nat := (addElem f32 rm sat x y).1
      let fold (f : Nat → Nat × Bool) (n : Nat) : Nat × Bool := (List.range n).foldl (fun r j => two (fun x y =>
        match (o.ext.extractLsb' 40 3).toNat with
        | 0 => (addElem f32 0 false x y).1
        | 1 => (minMaxElem f32 true x y).1
        | _ => (minMaxElem f32 false x y).1) r (f (j + 1))) (f 0)
      d.op = i →
      (i, srcs, val) ∈ [
        (Instr.tcpy o, [a], fun i j => tileAt k a i j),
        (.tadd o, [a, b], fun i j => two add (tileAt k a i j) (tileAt k b i j)),
        (.tsub o, [a, b], fun i j => two (fun x y => (subElem f32 rm sat x y).1) (tileAt k a i j) (tileAt k b i j)),
        (.tmul o, [a, b], fun i j => two (fun x y => (mulElem f32 rm sat x y).1) (tileAt k a i j) (tileAt k b i j)),
        (.tmax o, [a, b], fun i j => two (fun x y => (minMaxElem f32 true x y).1) (tileAt k a i j) (tileAt k b i j)),
        (.tfma o, [a, b, e], fun i j => two (fun x y => (fmaElem f32 rm sat x y (tileAt k e i j).1).1) (tileAt k a i j)
          ((tileAt k b i j).1, (tileAt k b i j).2 || (tileAt k e i j).2)),
        (.texp o, [a], fun i j => one (fun x => (fnElem .exp2 f32 rm sat x).1) (tileAt k a i j)),
        (.tscr o, [a, b], fun i j => two (fun x y => (mulElem f32 0 false x y).1) (tileAt k a i j) (tileAt k b i q)),
        (.tscc o, [a, b], fun i j => two (fun x y => (mulElem f32 0 false x y).1) (tileAt k a i j) (tileAt k b q j)),
        (.tredr o, [a], fun i _ => fold (tileAt k a i) 63),
        (.tredc o, [a], fun _ j => fold (fun i => tileAt k a i j) 15),
        (.trotr o, [a], fun i j => tileAt k a i ((j + 64 - q) % 64)),
        (.trotc o, [a], fun i j => tileAt k a ((i + 16 - q) % 16) j),
        (.tbcr o, [a], fun i _ => tileAt k a i q),
        (.tbcc o, [a], fun _ j => tileAt k a q j),
        (.tcvt o, [a], fun i j =>
          match fmtOfTy o.ty with
          | some f => one (fun x => (floatToFloat f f32 0 false (floatToFloat f32 f rm sat x).1).1) (tileAt k a i j)
          | none => tileAt k a i j)] →
      (∀ x ∈ srcs, TileClean k x) →
      ∃ t, ends t ∧ ∀ n, ∀ i < 16, ∀ j < 64,
        tileAt (t.core core) n i j =
          (if n = tile (o.ext.extractLsb' 0 6).toNat then ((BitVec.ofNat 32 (val i j).1).toNat, (val i j).2) else tileAt k n i j) ∧
        Sparse.look false (tileKey n i j) (t.core core).store.tilePoison =
          (if n = tile (o.ext.extractLsb' 0 6).toNat then false else Sparse.look false (tileKey n i j) k.store.tilePoison)) ∧
    (∀ o : EOp, d.op = .tld o →
      let dest := tile (o.ext.extractLsb' 0 6).toNat
      let bits := o.ty.elemBits
      let num (n w : Nat) : Nat := leNat ((List.range w).map (fun x => d.desc.getD (w * n + x) 0))
      bits ∈ [8, 16, 32] →
      ∃ t, ends t ∧ ∀ n, ∀ i < 16, ∀ j < 64,
        tileAt (t.core core) n i j =
          (if n = dest then
            ((BitVec.ofNat 32 (let x := num (64 * i + j) (bits / 8)
              match fmtOfTy o.ty with | some f => if bits = 32 then x else (floatToFloat f f32 0 false x).1 | none => x)).toNat, false)
           else tileAt k n i j) ∧
        Sparse.look false (tileKey n i j) (t.core core).store.tilePoison =
          if n = dest then (List.range (bits / 8)).any (fun w => d.aux.contains (bits / 8 * (64 * i + j) + w))
          else Sparse.look false (tileKey n i j) k.store.tilePoison) ∧
    (∀ o : EOp, d.op = .tst o →
      let size := o.ty.elemBits / 8
      let src := tile (o.ext.extractLsb' 0 6).toNat
      let bytes := (List.range 16).flatMap (fun i =>
        spadBytes (d.a.toNat + i * (o.ext.extractLsb' 16 16).toNat) (64 * size) (o.ext.extractLsb' 13 3).toNat)
      let value (x : Nat) : Nat := match fmtOfTy o.ty with
        | some f =>
          if o.ty.elemBits = 32 then (if o.mod.getLsbD 2 = true ∧ (x = 0x7F800000 ∨ x = 0xFF800000) then x - 1 else x) else (floatToFloat f32 f (o.mod.extractLsb' 0 2).toNat (o.mod.getLsbD 2) x).1
        | none => x
      o.ty.elemBits ∈ [8, 16, 32] → TileClean k src → bytes.Nodup →
      ∃ t, exec (.tileOpComplete core d.id) s = .next t ∧ CmdLeaves s t core d ∧ FlagUp s t core d ∧
        (t.core core).store = { k.store with spad := (t.core core).store.spad, spadPoison := (t.core core).store.spadPoison } ∧
        (∀ w, Sparse.look false w (t.core core).store.spadPoison =
          if (List.range 4).all (fun j => (bytes.map (fun b => tm.res.spbase + b)).contains (4 * w + j)) then false else Sparse.look false w k.store.spadPoison) ∧
        (∀ i < 16, ∀ j < 64, ∀ w < size, ∀ b, bytes[size * (64 * i + j) + w]? = some b →
          (t.core core).store.spad.byte (tm.res.spbase + b) = BitVec.ofNat 8 (value (tileAt k src i j).1 / 256 ^ w)) ∧
        ∀ x, (∀ b ∈ bytes, x ≠ tm.res.spbase + b) → (t.core core).store.spad.byte x = k.store.spad.byte x) ∧
    (∀ o : ROp, d.op = .tzero o →
      ∃ t, ends t ∧ ∀ n, ∀ i < 16, ∀ j < 64,
        tileAt (t.core core) n i j = if n = tile (o.mod.extractLsb' 8 6).toNat then (0, false) else tileAt k n i j) ∧
    ∀ o : ROp, d.op = .accclr o →
      let n := (o.mod.extractLsb' 8 6).toNat
      ∃ t, ends t ∧ (t.core core).store.tiles = k.store.tiles ∧ ∀ m, ∀ i < 16, ∀ j < 64,
        (tileAt (t.core core) m i j).2 =
          if (m = tile n ∧ d.amask.getLsbD i = true) ∨ (m = tile n + 1 ∧ d.amask.getLsbD (16 + i) = true) then false else (tileAt k m i j).2

/-- R50, R191, R302, R313 to R316: MMA and MMAS claim the slots of their operands on both rings, A's first, and enter the matrix array's
queue; one starts once the array is free and its slots have arrived, and ends 4 cycles per step and half of rows and 24 later,
having written its elements' dots in the active rows and no other element; the flag that it names goes up by one. A K of 0, an odd
tile, a region outside the allocation, a ring outside it, not configured or too short, and ill-placed scales are illegal-operand
traps (cause 0x07), and a poisoned element to accumulate on stops with cause 0x0A. The end is stated for operands without poison. That its elements are
written at its end is the model's choice (log entry 44). -/
def Obligations.MatrixCommands : Prop :=
  ∀ (o : EOp) (scaled : Bool),
    let i := if scaled then Instr.mmas o else .mma o
    let m := matOp o scaled
    (∀ (s : State) (c : Issue), LanesRun s c o.at' [] → isGlen c.who = false →
      let k := s.core (coreOf c.who)
      let tm := s.teamOf c
      let off := (c.sval o.a).toNat % 2 ^ 32
      let slots (r n : Nat) : Nat := (n + (s.ring (coreOf c.who) r).slotBytes - 1) / (s.ring (coreOf c.who) r).slotBytes
      let fine (r n : Nat) : Prop := (s.ring (coreOf c.who) r).valid = true ∧ slots r n ≤ (s.ring (coreOf c.who) r).count
      let scales : Prop := scaled = true → m.ks % (128 / m.t) = 0 ∧ off % 16 = 0 ∧ off + 144 * (m.k / 128) ≤ tm.res.spsize
      (tm.res.rings[m.ra]? = none ∨ tm.res.rings[m.rb]? = none → TrapsWith 0x07 i o.at' s c) ∧
      ∀ ra rb, tm.res.rings[m.ra]? = some ra → tm.res.rings[m.rb]? = some rb →
        let ok : Prop := m.ks ≠ 0 ∧ m.tile % 2 = 0 ∧ m.tile + 1 < tm.res.nacc ∧ fine ra m.bytesA ∧ fine rb m.bytesB ∧ scales
        (¬ok → TrapsWith 0x07 i o.at' s c) ∧
        let clean : Prop := m.st = true ∨ ∀ l < 32, (c.opMask o.at').getLsbD l = true → ∀ j < 64,
          Sparse.look false (tileKey (tm.res.abase + m.tile) l j) k.store.tilePoison = false
        (ok → ¬clean → EndsWith i s c [] (stopping { code := 0x0A, slot := slotNumber o.at'.slot, aux := Config.tilePoisonAux s.free })) ∧
        (ok → clean → Queues s c o.at' i 2 8 (fun t => ∃ u,
            Commanded s u c o.at' i (fun d => { d with phase := .registered, a := BitVec.ofNat 64 off, aux := [ra, rb] }) ∧
            t = { u with cores := t.cores } ∧ (∀ j, { t.core j with rings := [] } = { u.core j with rings := [] }) ∧
            ∀ j r, t.ring j r =
              let x := s.ring j r
              let claim (w n : Nat) : RingHold := { cmd := claimKey (coreOf c.who) k.nextCmd w, group := threadKey c.who, n := n }
              if j = coreOf c.who then
                { x with consumers := x.consumers ++ (if r = ra then [claim 0 (slots ra m.bytesA)] else []) ++
                    (if r = rb then [claim 1 (slots rb m.bytesB)] else []) }
              else x))) ∧
    ∀ (core : Nat) (d : Cmd) (s : State), d.op = i →
      let k := s.core core
      let tm := k.team d.team
      let base := tm.res.abase + m.tile
      let targets := [base, base + 1]
      (Holds s core d .registered →
        let free : Prop := (∀ x ∈ k.cmds, x.id < d.id → unitOf x.op ≠ 2) ∧ claimArrived s core (d.aux.headD 0) (claimKey core d.id 0) = true ∧
          claimArrived s core (d.aux.getD 1 0) (claimKey core d.id 1) = true ∧ tilesBusy k d.id targets true = false
        let halves := (if d.amask.extractLsb' 0 16 = 0 then 0 else 1) + (if d.amask.extractLsb' 16 16 = 0 then 0 else 1)
        (¬free → exec (.engineCommandStart core d.id) s = .next s) ∧
        (free → ∃ t, exec (.engineCommandStart core d.id) s = .next t ∧
          CmdBecomes s t core d.id (fun x => { x with phase := .started, due := s.now + (4 * m.ks * halves + 24) }))) ∧
      (Holds s core d .started → s.now < d.due → exec (.matrixOpComplete core d.id) s = .next s) ∧
      (Holds s core d .started → d.due ≤ s.now → d.err = false → s.store.cut = [] → k.store.spadPoison = [] → k.store.tilePoison = [] →
        let el (n bits : Nat) := elemOf (claimByte s core (d.aux.getD n 0) (claimKey core d.id n) tm.res.spbase) bits
        let res (l j : Nat) := matElem m d (el 0 (matBits m.ta)) (el 1 (matBits m.tb)) (matScales s core tm m d l) l j
          (if m.st then 0 else (k.store.elem (tileKey base l j)).toNat) (if m.st then false else k.store.lostAt (tileKey base l j))
        ∃ t, exec (.matrixOpComplete core d.id) s = .next t ∧ TilesOnly s t core d ∧
          (∀ n, ∀ a < 16, ∀ j < 64, tileAt (t.core core) n a j =
            if n ∈ targets ∧ d.amask.getLsbD (16 * (n - base) + a) = true then
              ((BitVec.ofNat 32 (res (16 * (n - base) + a) j).acc).toNat, (res (16 * (n - base) + a) j).lost)
            else tileAt k n a j) ∧
          FlagUp s t core d)

/-! ## Copies (R49, R52, R131 to R137, R303, R308 to R311) -/

/-- A byte of the scratchpad of a core, or of the memory outside the cores. -/
def byteOf (s : State) (core : Nat) (b : SpadByte) : Byte :=
  match b with
  | .here a => (s.core core).store.spad.byte a
  | .there p => s.store.mem.byte p

/-- No byte of any memory is poisoned, and no core has a store on its way. -/
def Quiet (s : State) : Prop :=
  s.store.poison = [] ∧ s.store.cut = [] ∧ ∀ k, (s.core k).store.spadPoison = [] ∧ (s.core k).caches.stores = [] ∧ (s.core k).caches.wc = []

/-- The lines held for a command of a core from now on: copies in the L1s and replicas of them are given up (R64, R67, R132), and the command
becomes `f` of what it was. -/
def LinesHeld (s t : State) (core id order : Nat) (lines : List Nat) (f : Cmd → Cmd) : Prop :=
  t = { s with cores := t.cores, store := t.store } ∧
    t.store = { s.store with owners := s.store.owners ++ lines.map (fun l => { line := l, unit := core, cmd := id, seq := order })
                             replicas := s.store.replicas.filter (fun r => !lines.contains r.1) } ∧
    (∀ k, { t.core k with caches := {}, cmds := [] } = { s.core k with caches := {}, cmds := [] }) ∧
    (∀ k, { (t.core k).caches with l1 := [], l1own := [] } = { (s.core k).caches with l1 := [], l1own := [] }) ∧
    (∀ k ≠ noCore, ∀ l, Sparse.look false l (t.core k).caches.l1 = (!lines.contains l && Sparse.look false l (s.core k).caches.l1) ∧
      Sparse.look false l (t.core k).caches.l1own = (!lines.contains l && Sparse.look false l (s.core k).caches.l1own)) ∧
    (t.core core).cmds = (s.core core).cmds.map (fun x => if x.id == id then f x else x) ∧
    ∀ k ≠ core, (t.core k).cmds = (s.core k).cmds

/-- A replayable fault pauses a command (R136, R353): its registers and slices stay, and it awaits its answer. -/
def Pauses (s t : State) (core : Nat) (d : Cmd) (va : DWord) (f : XFault) (k : AccessKind) : Prop :=
  (∀ v, t.groupOf v = s.groupOf v) ∧
    (t.core core).cmd d.id = some { d with paused := some { code := 0x01, rpl := true, xlat := xlatDetail s d.cid f k va } }

/-- R308, R309: the runs of a copy: run i1 + DIM1 (i2 + DIM2 (i3 + ...)) lies at the sums of the indices times the source strides and times the
destination strides; the copy's bytes are LEN0 times the product of the dimensions. R22, R37, R49, R52, R54, R83, R96, R132, R133, R301,
R302, R308, R310, R311: CPY and CPYM check the descriptor's address and their operands, read the 96 bytes as a load of the gang, check them,
and enter the copy engine's queue with what they read; a ring destination, for CPYM the ring of each live handle, gets its reservation, a
stream register counts the copy, and lines of memory to be written are held at once where they translate. A breach is an illegal-operand
trap (cause 0x07), a translation fault of the read stops the gang with cause 0x01, a poisoned byte of it after the bundle with 0x0B; a full
queue is waited for. OWNERSHIP_REGISTRATION holds the lines of a copy where the issue could not, or a replayable fault pauses it. -/
def Obligations.CopyCommands : Prop :=
  (∀ bs : List Byte, bs.length = 96 →
    let num (off n : Nat) : Nat := leNat ((bs.drop off).take n)
    let int (off : Nat) : Int := if num off 4 < 2 ^ 31 then (num off 4 : Int) else (num off 4 : Int) - 2 ^ 32
    let dim (k : Nat) : Nat := num (0x0C + 12 * k) 4
    let ss (k : Nat) : Int := int (0x10 + 12 * k)
    let ds (k : Nat) : Int := int (0x14 + 12 * k)
    let d := copyDesc bs
    d.src = BitVec.ofNat 64 (num 0 8) ∧ d.dst = BitVec.ofNat 64 (num 8 8) ∧ d.len0 = num 0x10 4 ∧ d.sk = num 0x14 4 % 4 ∧ d.dk = num 0x14 4 / 4 % 4 ∧
      d.total = num 0x10 4 * (dim 1 * (dim 2 * (dim 3 * (dim 4 * dim 5)))) ∧ d.runs.length = dim 1 * (dim 2 * (dim 3 * (dim 4 * dim 5))) ∧
      ∀ i1 < dim 1, ∀ i2 < dim 2, ∀ i3 < dim 3, ∀ i4 < dim 4, ∀ i5 < dim 5,
        d.runs[i1 + dim 1 * (i2 + dim 2 * (i3 + dim 3 * (i4 + dim 4 * i5)))]? =
          some (i1 * ss 1 + i2 * ss 2 + i3 * ss 3 + i4 * ss 4 + i5 * ss 5, i1 * ds 1 + i2 * ds 2 + i3 * ds 3 + i4 * ds 4 + i5 * ds 5)) ∧
  ((∀ (o : EOp) (multi : Bool) (s : State) (c : Issue), LanesRun s c o.at' [] → isGlen c.who = false →
    let i := if multi then Instr.cpym o else .cpy o
    let core := coreOf c.who
    let tm := s.teamOf c
    let k := s.core core
    let a := c.sval o.a
    let b := (c.sval o.b).toNat
    let n := (o.ext.extractLsb' 7 3).toNat + 1
    let ps := [(scalarLane, (List.range 24).map (fun j => (GAddr.va (a + BitVec.ofNat 64 (4 * j)), 4)))]
    let r := reachLanes s c.who c.snap .read ps
    let ok0 : Prop := a.toNat % 16 = 0 ∧ (∀ x, flagField i = some x → x < tm.res.nflags) ∧
      (multi = true → b % 4 = 0 ∧ b + 4 * n ≤ tm.res.spsize ∧ touchesStash tm b (4 * n) [0] = false)
    (¬ok0 → TrapsWith 0x07 i o.at' s c) ∧
    (ok0 → HeldBack i s c o.at' 0 [] .read ps) ∧
    (ok0 → Reached s c .read ps → NoStash s → Settled s c none r.lanes →
      let clean : Prop := ∀ l ∈ r.lanes, ∀ p ∈ l.vas.zip l.places, s.isPoisoned p.2 = false
      let ends (f : Issue → Issue) : Prop := ∃ t, exec i s = .next t ∧ AccessOnly c s t false false id f ∧ t.cur c = s.cur c
      let bs := r.lanes.flatMap (fun l => l.places.map (seenAt s c (threadLane c l.lane)))
      let d := copyDesc bs
      let ring := if d.dk = 2 then tm.res.rings[d.dn]? else none
      let ok : Prop := d.ok tm = true ∧ (d.dk = 2 → d.footOk = true) ∧
        (if multi then d.dk = 2
         else (d.dk = 2 → ∃ q, tm.res.rings[d.dn]? = some q ∧ (s.ring core q).valid = true ∧
            d.total % (128 * (s.ring core q).slotsz) = 0 ∧ d.total / (128 * (s.ring core q).slotsz) ≤ (s.ring core q).count) ∧
          (d.dk = 3 → ((s.cur c).stream d.dn).size ≠ 0 ∧ d.total % 4 = 0))
      (¬clean → ends (stoppingAfter { code := 0x0B, slot := slotNumber o.at'.slot, aux := BitVec.ofNat 64 Spec.zero.code.toNat })) ∧
      (clean → ¬ok → ends (stopping { code := 0x07, slot := slotNumber o.at'.slot })) ∧
      (clean → ok → 16 ≤ (k.cmds.filter (fun d => unitOf d.op == 1 && !d.begun)).length ∨ tstOutstanding k c.who = true → ends (waiting .poll)) ∧
      (clean → ok → CanQueue s c i 1 16 →
        let hold (x : Ring) : RingHold := { cmd := holdKey core k.nextCmd, group := threadKey c.who, n := d.total / (128 * x.slotsz) }
        let rings (u t : State) (more : Nat → Nat → List RingHold) : Prop :=
          (∀ j q, t.ring j q = { u.ring j q with producers := (u.ring j q).producers ++ more j q }) ∧ (∀ v, t.groupOf v = u.groupOf v) ∧
            (∀ j, { t.core j with rings := [] } = { u.core j with rings := [] }) ∧ t = { u with cores := t.cores }
        ∃ u v w t, AccessOnly c s u false false id id ∧ u.cur c = s.cur c ∧ exec i s = .next t ∧
          (multi = false →
            Commanded u v c o.at' i (fun m => { m with a := a, desc := bs }) ∧
            (match d.dk with
             | 2 => rings v w (fun j q => if j = core ∧ ring = some q then [hold (s.ring j q)] else [])
             | 3 => RegistersBecome v w c (fun g =>
                 { g with q := Sparse.put {} d.dn { g.stream d.dn with named := (g.stream d.dn).named + 1, done := false } g.q })
             | _ => w = v) ∧
            (match copyLines w core (s.cidOf c.who) d with
             | .ok lines => LinesHeld w t core k.nextCmd s.store.nextOwner lines (fun y => { y with phase := .registered })
             | .error _ => t = w)) ∧
          (multi = true →
            let hs := (List.range n).map (fun x => leNat ((List.range 4).map (fun y => k.store.spad.byte (tm.res.spbase + b + 4 * x + y))))
            let ds := hs.filterMap (handleDest s core (s.cidOf c.who) d)
            let lost := (List.range n).any (fun x => Sparse.look false ((tm.res.spbase + b + 4 * x) / 4) k.store.spadPoison)
            Commanded u v c o.at' i (fun m => { m with a := a, b := c.sval o.b, desc := bs, phase := .registered, err := lost || decide (ds.length < n)
                                                       aux := ds.map (fun p => 128 * p.1 + p.2) }) ∧
            rings v t (fun j q => (ds.filter (fun p => p == (j, q))).map (fun _ => hold (s.ring j q))))))) ∧
  ∀ (core : Nat) (d : Cmd) (s : State), Holds s core d .queued → unitOf d.op = 1 →
    (∀ lines, NoStash s → (s.core core).caches.stores = [] → (s.core core).caches.wc = [] → copyLines s core d.cid (copyDesc d.desc) = .ok lines →
      ∃ t, exec (.ownershipRegistration core d.id) s = .next t ∧ LinesHeld s t core d.id d.order lines (fun y => { y with phase := .registered })) ∧
    ∀ va f kind, copyLines s core d.cid (copyDesc d.desc) = .error (.fault va f kind) → f.rpl = true →
      ∃ t, exec (.ownershipRegistration core d.id) s = .next t ∧ Pauses s t core d va f kind)

/-- R49, R52, R54, R132, R133, R136, R303, R309 to R311: a copy starts in its queue's order once its lines are held, its slots granted and earlier copies to
its stream done, and moves 128 bytes a cycle; at its end each destination byte - in memory, in the team's scratchpad, in the slots of each ring it
reserved, or next in a stream register's buffer, as much as that takes - is the source byte that the footprint pairs with it, no other byte of memory
changes, the lines it held are free, ring slots are committed and the flag it names goes up by one. LINE_RELEASE does so for one line, which the end then
leaves out. Earlier commands' lines and commits are waited for, and a replayable fault pauses it. This where the source does not overlap the destination and
nothing is poisoned. That a copy moves its bytes in one step is the model's choice (log entry 44). -/
def Obligations.CopyResults : Prop :=
  ∀ (core : Nat) (d : Cmd) (s : State), unitOf d.op = 1 →
    let x := copyDesc d.desc
    let k := s.core core
    let tm := k.team d.team
    let rings := copyRings s core d
    let key := holdKey core d.id
    (Holds s core d .registered →
      let earlier (y : Cmd) : Prop := y ∈ k.cmds ∧ y.id < d.id ∧ unitOf y.op = 1
      let free : Prop := (∀ y, earlier y → y.phase = .started ∨ y.phase = .finished ∨ y.paused ≠ none) ∧
        (∀ p ∈ rings, ∀ h ∈ (s.ring p.1 p.2).producers, h.thread = false → h.cmd = key → h.granted = true) ∧
        (x.dk = 3 → ∀ y, earlier y → ¬((copyDesc y.desc).dk = 3 ∧ (copyDesc y.desc).dn = x.dn ∧ y.groupKey = d.groupKey))
      (¬free → exec (.engineCommandStart core d.id) s = .next s) ∧
      (free → ∃ t, exec (.engineCommandStart core d.id) s = .next t ∧
        CmdBecomes s t core d.id (fun y => { y with phase := .started, due := s.now + (x.total + 127) / 128 }))) ∧
    (Holds s core d .started → s.now < d.due → exec (.copyComplete core d.id) s = .next s) ∧
    (Holds s core d .started → d.due ≤ s.now →
      (∀ p ∈ rings, ∀ h, grantedHold (s.ring p.1 p.2).producers key = some h → h.first = (s.ring p.1 p.2).commitAll.tail) →
      ∀ va f kind, copySource s core d = .error (.fault va f kind) → f.rpl = true →
        ∃ t, exec (.copyComplete core d.id) s = .next t ∧ Pauses s t core d va f kind) ∧
    (Holds s core d .started → d.due ≤ s.now → d.err = false → NoStash s → Quiet s →
      ∀ src, copySource s core d = .ok src →
        let ahead (bs : List SpadByte) : Prop := ∃ p, SpadByte.there p ∈ bs ∧ s.heldBefore (lineOf p) d.order = true
        let left (b : SpadByte) : Prop := ∀ p, b = .there p → lineOf p ∉ d.owned
        let moved (t : State) (c : Nat) (dst : List SpadByte) : Prop :=
          ∀ j : Nat, ∀ a b, src[j]? = some a → dst[j]? = some b → left b → byteOf t c b = byteOf s core a
        (∀ dst, rings = [] → x.dk < 2 → copyTargets s core d = .ok dst → ahead (src ++ dst) → exec (.copyComplete core d.id) s = .next s) ∧
        (∀ dst, rings = [] → x.dk < 2 → copyTargets s core d = .ok dst → dst.Nodup → (∀ b ∈ dst, b ∉ src) → ¬ahead (src ++ dst) →
          ∃ t, exec (.copyComplete core d.id) s = .next t ∧ CommandEnds s t core d ∧ FlagUp s t core d ∧ moved t core dst ∧
            (∀ b, (b ∉ dst ∨ ¬left b) → byteOf t core b = byteOf s core b) ∧ (∀ c ≠ core, (t.core c).store = (s.core c).store) ∧
            ∀ v, t.groupOf v = s.groupOf v) ∧
        (x.dk = 2 → (∃ p ∈ rings, ∃ h, grantedHold (s.ring p.1 p.2).producers key = some h ∧ h.first ≠ (s.ring p.1 p.2).commitAll.tail) →
          exec (.copyComplete core d.id) s = .next s) ∧
        (∀ (hold : Nat × Nat → RingHold), x.dk = 2 → rings.Nodup → ¬ahead src →
          (∀ p ∈ rings, grantedHold (s.ring p.1 p.2).producers key = some (hold p) ∧ (hold p).first = (s.ring p.1 p.2).tail ∧
            (s.ring p.1 p.2).producers.Nodup ∧
            (∀ h ∈ (s.ring p.1 p.2).producers, (h.thread = false → h.cmd = key → h = hold p) ∧ h.done = false) ∧
            (∀ h ∈ (s.ring p.1 p.2).consumers, h.thread = true ∨ h.cmd ≠ key) ∧
            (∀ e ∈ (s.ring p.1 p.2).own, e.take = false → e.done = false)) →
          let dst (p : Nat × Nat) := ringTargets s p.1 p.2 x (hold p).first
          (∀ p ∈ rings, (dst p).Nodup ∧ (p.1 = core → ∀ b ∈ dst p, b ∉ src) ∧ ∀ q ∈ rings, q ≠ p → q.1 = p.1 → ∀ b ∈ dst p, b ∉ dst q) →
          ∃ t, exec (.copyComplete core d.id) s = .next t ∧ CommandEnds s t core d ∧ FlagUp s t core d ∧
            (∀ p ∈ rings, moved t p.1 (dst p) ∧
              t.ring p.1 p.2 = { s.ring p.1 p.2 with producers := (s.ring p.1 p.2).producers.erase (hold p)
                                                     tail := ((s.ring p.1 p.2).tail + (hold p).n) % (s.ring p.1 p.2).modulus }) ∧
            (∀ c b, (∀ p ∈ rings, p.1 = c → b ∉ dst p) → byteOf t c b = byteOf s c b) ∧ ∀ v, t.groupOf v = s.groupOf v) ∧
        (x.dk = 3 → rings = [] → ¬ahead src →
          let q := (s.groupOf d.who).stream x.dn
          let gone := d.aux.headD 0
          let n := min (q.size / 4 - (q.arrived - min q.pos q.arrived)) (x.total / 4 - gone)
          let last : Prop := gone + n = x.total / 4
          let from' := (src.drop (4 * gone)).take (4 * n)
          let dst := (List.range (4 * n)).map (fun j => SpadByte.here (tm.res.spbase + q.buf + (4 * q.arrived + j) % q.size))
          coreOf d.who = core → isGlen d.who = false → x.total % 4 = 0 → q.size % 4 = 0 → src.length = x.total → (∀ b ∈ dst, b ∉ from') →
          ∃ t, exec (.copyComplete core d.id) s = .next t ∧
            (∀ j : Nat, ∀ a b, from'[j]? = some a → dst[j]? = some b → byteOf t core b = byteOf s core a) ∧
            (∀ b, b ∉ dst → byteOf t core b = byteOf s core b) ∧
            (last → CommandEnds s t core d ∧ FlagUp s t core d ∧
              (t.groupOf d.who).stream x.dn = { q with arrived := q.arrived + n, named := q.named - 1, done := q.named - 1 == 0 }) ∧
            (¬last → (t.core core).cmds = k.cmds.map (fun y => if y.id == d.id then { y with aux := [gone + n] } else y) ∧
              (t.groupOf d.who).stream x.dn = { q with arrived := q.arrived + n, done := false }))) ∧
    ∀ line, Holds s core d .started → x.dk = 0 → NoStash s → Quiet s → (∃ o ∈ s.store.owners, o.line = line ∧ o.unit = core ∧ o.cmd = d.id) →
      ∀ src dst, copySource s core d = .ok src → copyTargets s core d = .ok dst → dst.Nodup → (∀ b ∈ dst, b ∉ src) →
        (∀ p, SpadByte.there p ∈ src ++ dst → s.heldBefore (lineOf p) d.order = false) →
        (∃ (j : Nat) (p : Nat), j < src.length ∧ dst[j]? = some (.there p) ∧ lineOf p = line) →
        ∃ t, exec (.lineRelease core d.id line) s = .next t ∧ t.host = s.host ∧ (∀ v, t.groupOf v = s.groupOf v) ∧
          t.store.owners = s.store.owners.filter (fun o => !(o.line == line && o.unit == core && o.cmd == d.id)) ∧
          (t.core core).cmds = k.cmds.map (fun y => if y.id == d.id then { y with owned := y.owned ++ [line] } else y) ∧
          (∀ c, (t.core c).store = (s.core c).store) ∧
          (∀ j : Nat, ∀ a p, src[j]? = some a → dst[j]? = some (.there p) → lineOf p = line → t.store.mem.byte p = byteOf s core a) ∧
          ∀ p, lineOf p ≠ line → t.store.mem.byte p = s.store.mem.byte p

/-! ## Sequences of key-value pages (R92 to R109, R320 to R323) -/

/-- Bytes written at places of the memory outside the cores, and no others. -/
def WritesOnly (s t : State) (ws : List (Nat × Byte × Bool)) : Prop :=
  (∀ x ∈ ws, t.store.mem.byte x.1 = x.2.1) ∧ ∀ p, (∀ x ∈ ws, x.1 ≠ p) → t.store.mem.byte p = s.store.mem.byte p

/-- R102, R105, R107, R108, R136, R301, R302, R320, R323: ATTN, MASSFOLD, KVTRUNC and EVICT become commands with the operands sampled at issue, and
their claim goes to the home of the sequence descriptor at once, as OWNERSHIP_REGISTRATION does later where an earlier command of the group has yet to
arrive or, on the per-die path, to start; a replayable fault of the descriptor's address pauses the command. ATTN
claims its queries' slots first. An EVICT whose decay is no number from 0 to 1 or whose count or threshold breaks its limits, and an
ATTN with more than 32 rows, an odd tile, tiles outside the allocation or an unfit ring, are illegal-operand traps (cause 0x07); a full queue is
waited for. -/
def Obligations.SequenceCommands : Prop :=
  (∀ (s : State) (c : Issue) (i : Instr) (site : Site) (a b e : DWord), LanesRun s c site [] → isGlen c.who = false →
    (∀ y ∈ (s.core (coreOf c.who)).cmds, y.id ≠ (s.core (coreOf c.who)).nextCmd) →
    let core := coreOf c.who
    let sent (t : State) : Prop := ∃ u, Commanded s u c site i (fun d => { d with a := a, b := b, c := e, aux := [0, 0, 0] }) ∧
      exec (.ownershipRegistration core (s.core core).nextCmd) u = .next t
    ((∃ o : ROp, (i = .massfold o ∨ i = .kvtrunc o) ∧ site = o.at' ∧ a = c.sval o.a ∧ b = c.sval o.b ∧ e = c.sval o.c) → Queues s c site i 4 16 sent) ∧
    (∀ o : EOp, i = .evict o → site = o.at' → a = c.sval o.a → b = c.sval o.b → e = c.sval o.c →
      let x := b.toNat % 2 ^ 32
      let y := e.toNat % 2 ^ 32
      let decay : Prop := f32.isNan x = false ∧ cmpFp (f32.value x) (.num false 0 0) ≠ Ordering.lt ∧ cmpFp (f32.value x) fpOne ≠ Ordering.gt
      let ok : Prop := decay ∧ (if o.ext.getLsbD 7 then 1 ≤ y ∧ y ≤ 2 ^ 24 else f32.isNan y = false)
      (¬ok → TrapsWith 0x07 i site s c) ∧ (ok → Queues s c site i 4 16 sent)) ∧
    (∀ o : EOp, i = .attn o → site = o.at' → a = c.sval o.a → b = c.sval o.b → e = c.sval o.c →
      let tm := s.teamOf c
      let m := attnOp o
      (tm.res.rings[m.ring]? = none → TrapsWith 0x07 i site s c) ∧
      ∀ r, tm.res.rings[m.ring]? = some r →
        let x := s.ring core r
        let n := (m.rows * m.heads * 64 * (m.nreg + 1) * matBits m.tq / 8 + x.slotBytes - 1) / x.slotBytes
        let ok : Prop := m.rows * m.heads ≤ 32 ∧ m.tile % 2 = 0 ∧ m.tile + 2 * (m.nreg + 1) ≤ tm.res.nacc ∧ x.valid = true ∧ n ≤ x.count
        (¬ok → TrapsWith 0x07 i site s c) ∧
        (ok → Queues s c site i 2 8 (fun t => ∃ u v, Commanded s u c site i (fun d => { d with a := a, b := b, c := e, aux := [r, 0, 0] }) ∧
          RingBecomes u v core r { x with consumers := x.consumers ++ [{ cmd := claimKey core (s.core core).nextCmd 0, group := threadKey c.who, n := n }] } ∧
          exec (.ownershipRegistration core (s.core core).nextCmd) v = .next t)))) ∧
  ∀ (core : Nat) (d : Cmd) (s : State), Holds s core d .queued → isSeqOp d.op = true →
    let behind : Prop := (∃ x ∈ (s.core core).cmds, x.id < d.id ∧ isSeqOp x.op = true ∧ x.groupKey = d.groupKey ∧ x.phase = .queued) ∨
      (unitOf d.op = 4 ∧ ∃ x ∈ (s.core core).cmds, x.id < d.id ∧ unitOf x.op = 4 ∧ x.begun = false ∧ x.paused = none)
    (behind → exec (.ownershipRegistration core d.id) s = .next s) ∧
    (¬behind →
      (∀ p, engineReach s core d.cid .engineRead [(seqAddr d, 1)] = .ok [p] → ∃ t, exec (.ownershipRegistration core d.id) s = .next t ∧
        t.store = { s.store with nextOwner := s.store.nextOwner + 1 } ∧ CmdBecomes { s with store := t.store } t core d.id (fun y =>
          { y with phase := .registered, order := s.store.nextOwner, aux := [d.aux.headD 0, p.place, 0] })) ∧
      ∀ va f k, engineReach s core d.cid .engineRead [(seqAddr d, 1)] = .error (.fault va f k) → f.rpl = true →
        ∃ t, exec (.ownershipRegistration core d.id) s = .next t ∧ Pauses s t core d va f k)

/-- The claim of a registered command on its sequence is next: no granted or earlier claim on the descriptor is exclusive, nor is any there
before an exclusive one (R107). -/
def ClaimNext (s : State) (d : Cmd) : Prop :=
  ∀ k ∈ s.cores, ∀ x ∈ k.2.cmds, isSeqOp x.op = true → x.phase ≠ .queued → (seqGranted x = true ∨ x.order < d.order) → seqPlace x = seqPlace d →
    exclusive x.op = false ∧ exclusive d.op = false

/-- R96, R97, R101 to R103, R105 to R107, R109, R132, R136, R303: a claim waits for the earlier ones that it must follow. At its grant, which
comes in the order of registrations after every one so far, a command of the eviction engine reads the descriptor and makes all its writes;
KVTRUNC writes LEN where the new length is smaller and else writes nothing, EVICT by a count drops so many of the slots outside its windows,
or all of those. ATTN samples the descriptor, with .delta sets the buffer's header, and holds the lines it will write. A malformed
descriptor ends the command with ERR and a replayable fault pauses it. Afterwards the claim is released and the flag goes up. That an
eviction's effects all happen at its grant is the model's choice (log entry 20). R98, R99, R101, R320 to R322: a granted ATTN starts once
the array and its tiles are free and its queries have arrived, takes the cycles of its sweeps over the slots that it admits, and at its end
writes, for every active query row and head, the columns of the softmax-weighted sum of the values of the slots that the row admits; with
.mass it adds the rows' weights to the slots' counters, with .delta to the buffer's words, ERR where one lies past it. The flag that it
names goes up by one. This with nothing poisoned. How |adm| and the division in the cycles round is the model's choice (log entry 8). -/
def Obligations.SequencesAndAttention : Prop :=
  (∀ (core : Nat) (d : Cmd) (s : State), isSeqOp d.op = true →
    let e := { d with order := s.store.nextOwner }
    let becomes (t : State) (f : Cmd → Cmd) : Prop :=
      (t.core core).cmds = (s.core core).cmds.map (fun y => if y.id == d.id then f y else y) ∧ (∀ k ≠ core, (t.core k).cmds = (s.core k).cmds)
    let quiet (t : State) : Prop := (∀ v, t.groupOf v = s.groupOf v) ∧ t.host = s.host ∧ t.glens = s.glens ∧ t.dies = s.dies ∧
      (∀ k, (t.core k).flags = (s.core k).flags ∧ (t.core k).rings = (s.core k).rings ∧ (t.core k).store = (s.core k).store)
    (Holds s core d .registered → seqGranted d = false → ¬ClaimNext s d → exec (.sequenceClaimGrant core d.id) s = .next s) ∧
    (Holds s core d .registered → seqGranted d = true → exec (.sequenceClaimGrant core d.id) s = .next s) ∧
    (Holds s core d .registered → seqGranted d = false → ClaimNext s d → d.aux.length = 3 → NoStash s →
      (∀ (q : Seq) (o : SeqOut) (ws : List (Nat × Byte × Bool)),
        ((∃ x, d.op = .massfold x) ∧ massfoldOut s e q = .ok o) ∨ ((∃ x, d.op = .kvtrunc x) ∧ kvtruncOut s e q = .ok o) ∨
          (∃ x, d.op = .evict x ∧ evictOut s e q (x.ext.getLsbD 7) = .ok o) →
        readSeq s e d.a = .ok q → seqWrites s e o.writes = .ok ws → (ws.map Prod.fst).Nodup →
        ∃ t, exec (.sequenceClaimGrant core d.id) s = .next t ∧ WritesOnly s t ws ∧ quiet t ∧ t.store.nextOwner = s.store.nextOwner + 1 ∧
          t.store.owners = s.store.owners ∧
          becomes t (fun y => { y with phase := .finished, err := y.err || (o.err || o.writes.any SeqWrite.bad), aux := y.aux.set 2 1 })) ∧
      (∀ (q : Seq) (o : SeqOut), kvtruncOut s e q = .ok o →
        let l := d.b.toNat % 2 ^ 32
        (q.len ≤ l → o.writes = []) ∧ (l < q.len → cleanWrite d.a (leBytes 4 l) ∈ o.writes)) ∧
      (∀ (q : Seq) (o : SeqOut) (m0 : Metas), evictOut s e q true = .ok o → readMetas s e q (blocksOf 0 q.len) = .ok m0 →
        let valid := (List.range q.len).filter (fun k => metaValid m0 q k)
        let cand := valid.filter (fun k => decide (q.sink ≤ k) && decide (k + q.recent < q.len))
        let w := valid.length - min (d.c.toNat % 2 ^ 32) cand.length
        w ≠ q.len → cleanWrite d.a (leBytes 4 w) ∈ o.writes) ∧
      (readSeq s e (seqAddr d) = .error .bad → ∃ t, exec (.sequenceClaimGrant core d.id) s = .next t ∧ (∀ v, t.groupOf v = s.groupOf v) ∧
        (t.core core).cmds = (s.core core).cmds.filter (fun x => x.id != d.id) ∧ FlagDone s t core d true) ∧
      (∀ va f k, readSeq s e (seqAddr d) = .error (.fault va f k) → f.rpl = true →
        ∃ t, exec (.sequenceClaimGrant core d.id) s = .next t ∧ Pauses s t core d va f k) ∧
      ∀ (o : EOp) (q : Seq) (x : Delta) (ws : List (Nat × Byte × Bool)), d.op = .attn o → readSeq s e d.b = .ok q →
        let m := attnOp o
        let stale := x.state == 1 && x.sgen != q.sgen
        (q.hd + 63) / 64 = m.nreg + 1 → m.heads % q.kvh = 0 →
        (if m.delta then readDelta s e d.c = .ok x ∧ m.rows ≤ x.rows ∧
          seqWrites s e ((if stale then [clearDelta d.c x] else []) ++ [cleanWrite d.c (leBytes 4 1), cleanWrite (d.c + 4) (leBytes 4 q.sgen)]) = .ok ws
         else x = { state := 0, sgen := 0, rows := 0, pages := 0 } ∧ ws = []) → (ws.map Prod.fst).Nodup →
        ∃ t y, exec (.sequenceClaimGrant core d.id) s = .next t ∧ WritesOnly s t ws ∧ quiet t ∧ t.store.nextOwner = s.store.nextOwner + 1 ∧
          t.store.owners = s.store.owners ++ (attnLines s e m q x).map (fun l => { line := l, unit := core, cmd := d.id, seq := s.store.nextOwner }) ∧
          (∀ l, l = lineOf (seqPlace d) → l ∈ attnLines s e m q x) ∧ (t.core core).cmd d.id = some y ∧
          y = { d with order := s.store.nextOwner, err := d.err || stale, aux := d.aux.set 2 1, desc := y.desc } ∧
          sampledSeq y = { q with sink := 0, recent := 0, free := 0, sgen := 0 } ∧ (sampledDelta y).rows = x.rows ∧ (sampledDelta y).pages = x.pages) ∧
    (Holds s core d .finished → s.store.cut = [] → d.err = false → ∃ t, exec (.sequenceCommandComplete core d.id) s = .next t ∧
      MemoryKept s t ∧ CommandEnds s t core d ∧ FlagUp s t core d) ∧
    (d.phase ≠ .finished → (s.core core).cmd d.id = some d → exec (.sequenceCommandComplete core d.id) s = .next s)) ∧
  (∀ (o : EOp) (core : Nat) (d : Cmd) (s : State), d.op = .attn o → NoStash s →
    let m := attnOp o
    let k := s.core core
    let tm := k.team d.team
    let q := sampledSeq d
    let pos (r : Nat) : Nat := (d.a.toNat % 2 ^ 32 + r) % 2 ^ 32
    let computed (r : Nat) : Bool := (List.range m.heads).any (fun h => d.amask.getLsbD (r * m.heads + h))
    ∀ m0, readMetas s d q (blocksOf 0 q.len) = .ok m0 →
      let ks := (List.range q.len).filter (fun j =>
        metaValid m0 q j && (List.range m.rows).any (fun r => computed r && decide ((metaPos m0 q j).v ≤ pos r)))
      (Holds s core d .registered →
        let free : Prop := seqGranted d = true ∧ (∀ x ∈ k.cmds, x.id < d.id → unitOf x.op ≠ 2) ∧
          claimArrived s core (d.aux.headD 0) (claimKey core d.id 0) = true ∧
          tilesBusy k d.id ((List.range (2 * (m.nreg + 1))).map (fun i => tm.res.abase + m.tile + i)) true = false
        let work := (ks.length + 15) / 16 * q.hd * ((m.rows * m.heads + 15) / 16)
        let t := attnTerms m.tq q.ty
        (¬free → exec (.engineCommandStart core d.id) s = .next s) ∧
        (free → ∃ u, exec (.engineCommandStart core d.id) s = .next u ∧ CmdBecomes s u core d.id (fun x =>
          { x with phase := .started, due := s.now + ((work + t - 1) / t + (2 * work + t - 1) / t) }))) ∧
      (Holds s core d .started → s.now < d.due → exec (.matrixOpComplete core d.id) s = .next s) ∧
      (Holds s core d .started → d.due ≤ s.now → d.err = false → Quiet s → k.store.tilePoison = [] →
        ∀ slots, readSlots s d q m0 ks = .ok slots → (∀ x ∈ slots, x.bad = false) →
          let el := elemOf (claimByte s core (d.aux.headD 0) (claimKey core d.id 0) tm.res.spbase) (matBits m.tq)
          let row (l : Nat) := attnRow m d q (fun e => el (l * q.hd + e)) (pos (l / m.heads)) (l % m.heads) slots
          let active := (List.range (m.rows * m.heads)).filter (fun l => d.amask.getLsbD l)
          let pairs := (List.range m.rows).flatMap (fun r => ks.map (fun j => (r, j)))
          ∀ ws err, (if m.mass then seqWrites s d (massWrites m0 q (active.map row) slots) = .ok ws ∧ err = false
              else if m.delta then ∃ dw, deltaWrites s d (sampledDelta d) (active.map (fun l => (l, l / m.heads, row l))) pairs = .ok (dw, err) ∧
                seqWrites s d dw = .ok ws
              else ws = [] ∧ err = false) → (ws.map Prod.fst).Nodup →
            m.rows * m.heads ≤ 32 → (err = false ∨ flagField d.op ≠ none) →
            ∃ t, exec (.matrixOpComplete core d.id) s = .next t ∧ WritesOnly s t ws ∧ FlagDone s t core d err ∧ (∀ v, t.groupOf v = s.groupOf v) ∧
              (t.core core).cmds = k.cmds.filter (fun x => x.id != d.id) ∧ (∀ j, (t.core j).store.spad = (s.core j).store.spad) ∧
              ∀ n, ∀ i < 16, ∀ j < 64, tileAt (t.core core) n i j =
                (let g := (n - (tm.res.abase + m.tile)) / 2
                 let l := 16 * ((n - (tm.res.abase + m.tile)) % 2) + i
                 if tm.res.abase + m.tile ≤ n ∧ g ≤ m.nreg ∧ l ∈ active then
                   ((BitVec.ofNat 32 ((row l).cols.getD (64 * g + j) (0, false)).1).toNat, ((row l).cols.getD (64 * g + j) (0, false)).2)
                 else tileAt k n i j)))

/-! ## Collectives and batch-forming queues (R324 to R327) -/

/-- What the ranks of a collective tell of their arrival (R325): as many have arrived as the sound count of one of them says, or, where none has a
sound count, any has. -/
def RanksArrived (xs : List (Nat × Cmd × CollDesc)) : Prop :=
  let sound (n : Nat) : Prop := 2 ≤ n ∧ n ≤ 4096
  xs ≠ [] ∧ ((∃ y ∈ xs, sound y.2.2.nr ∧ y.2.2.nr ≤ xs.length) ∨ ∀ y ∈ xs, ¬sound y.2.2.nr)

/-- R73, R132, R133, R136, R301 to R303, R324, R325, R377: COLL enters the die's collective engine, which reads its descriptor and communicator table and
holds its destination, at once or at OWNERSHIP_REGISTRATION once the path's earlier commands have started; a replayable fault pauses it, and a package that no path
reaches ends it with ERR. A descriptor or table that breaks a limit, or an entry that names another die or package, holds no line. When all ranks
have arrived and agree, each rank's destination takes the result - of an all-reduce and a reduce-scatter the elements combined by R325's tree, of
a broadcast the root's bytes, of a gather all ranks' in rank order - every flag goes up by one and the lines are free. Where they disagree, or one
breaks a limit, every rank completes with ERR and nothing is
written. A rank whose time passes before withdraws with ERR. The result is stated where nothing is poisoned and no source overlaps a
destination. The ranks of other packages do not act in this model, and how ranks with broken tables are counted is its reading: log entry 41. -/
def Obligations.Collectives : Prop :=
  (∀ (o : EOp) (s : State) (c : Issue), LanesRun s c o.at' [] → isGlen c.who = false →
    (∀ y ∈ (s.core (coreOf c.who)).cmds, y.id ≠ (s.core (coreOf c.who)).nextCmd) →
    Queues s c o.at' (.coll o) 4 16 (fun t => ∃ u, Commanded s u c o.at' (.coll o) (fun d => { d with a := c.sval o.a }) ∧
      exec (.ownershipRegistration (coreOf c.who) (s.core (coreOf c.who)).nextCmd) u = .next t)) ∧
  (∀ (core : Nat) (d : Cmd) (o : EOp) (s : State), Holds s core d .queued → d.op = .coll o →
    let before : Prop := ∃ x ∈ (s.core core).cmds, x.id < d.id ∧ unitOf x.op = 4 ∧ x.begun = false ∧ x.paused = none
    (before → exec (.ownershipRegistration core d.id) s = .next s) ∧
    (¬before → ∀ bs pkgs, collRead s.flushStashes d (dieOfCore core) = .ok (bs, pkgs) → (∃ p ∈ pkgs, noPathTo s p = true) →
      s.store.cut = [] → (flagField d.op).isSome →
      ∃ t, exec (.ownershipRegistration core d.id) s = .next t ∧ MemoryKept s t ∧ CommandEnds s t core d ∧ FlagDone s t core d true) ∧
    (¬before → NoStash s → (s.core core).caches.stores = [] → (s.core core).caches.wc = [] →
      (∀ va f k, collRead s d (dieOfCore core) = .error (.fault va f k) → f.rpl = true →
        ∃ t, exec (.ownershipRegistration core d.id) s = .next t ∧ Pauses s t core d va f k) ∧
      ∀ b0 b1 es p0 p1 p2, seqRead s d false d.a 64 = .ok (b0, p0) →
        let comm : DWord := BitVec.ofNat 64 (descNum b0 0x10 8)
        seqRead s d false comm 16 = .ok (b1, p1) →
        let nr := descNum b1 4 4
        (if 2 ≤ nr ∧ nr ≤ 4096 then seqRead s d false (comm + 16) (8 * nr) = .ok (es, p2) else es = []) →
        let num (off : Nat) : Nat := descNum b0 off 4
        let op := num 0x1C % 8
        let ty := num 0x1C / 64 % 16
        let entry (k : Nat) : Nat := descNum es (8 * k) 8
        let dst : DWord := BitVec.ofNat 64 (descNum b0 8 8)
        let table : Prop := d.a.toNat % 64 ≠ 0 ∨ nr < 2 ∨ 4096 < nr ∨ descNum b1 8 8 ≠ 0 ∨ (∃ k < nr, 2 ^ 12 ≤ entry k) ∨
          entry (num 0x20) % 1024 ≠ 0 ∨ entry (num 0x20) / 1024 ≠ dieOfCore core
        let broken : Prop := table ∨ num 0x18 = 0 ∨ 2 ^ 28 < num 0x18 ∨ 3 < op ∨ 2 < num 0x1C / 8 % 8 ∨ 3 < ty ∨ 2 ^ 10 ≤ num 0x1C ∨ nr ≤ num 0x20 ∨
          descNum b0 0x30 16 ≠ 0 ∨ (op = 3 ∧ nr ≤ num 0x2C) ∨ (op = 1 ∧ num 0x18 % nr ≠ 0)
        let size := (if op = 1 then num 0x18 / nr else if op = 2 then nr * num 0x18 else num 0x18) * (if ty = 1 then 2 else 4)
        ∃ z : Byte, (table ↔ z = 1#8) ∧ (¬table ↔ z = 0#8) ∧
          (∀ ps, (broken ∧ ps = []) ∨ (¬broken ∧ engineReach s core d.cid .engineWrite (runPieces dst size) = .ok ps) →
            ∃ t, exec (.ownershipRegistration core d.id) s = .next t ∧ LinesHeld s t core d.id d.order (ownedLines ps) (fun y =>
              { y with phase := .started, desc := b0 ++ b1 ++ [z], due := s.now + 1024 * num 0x28
                       aux := (List.range (es.length / 8)).map (fun k => entry k % 1024) })) ∧
          ∀ va f k, ¬broken → engineReach s core d.cid .engineWrite (runPieces dst size) = .error (.fault va f k) → f.rpl = true →
            ∃ t, exec (.ownershipRegistration core d.id) s = .next t ∧ Pauses s t core d va f k)) ∧
  (∀ (comm seq : Nat) (s : State),
    let xs := collRanks s comm seq
    let full : Prop := RanksArrived xs ∧ ∀ y ∈ xs, y.2.1.paused = none
    let mine (k n : Nat) : List (Nat × Cmd × CollDesc) := xs.filter (fun x => x.1 == k &&
      (flagField x.2.1.op).map (fun f => ((s.core k).team x.2.1.team).res.fbase + f) == some n)
    let ends (t : State) (err : Bool) : Prop :=
      (∀ k, (t.core k).cmds = (s.core k).cmds.filter (fun y => !xs.any (fun x => x.1 == k && x.2.1.id == y.id))) ∧
      (∀ v, t.groupOf v = s.groupOf v) ∧ (∀ k, (t.core k).store = (s.core k).store) ∧ t.host = s.host ∧ t.glens = s.glens ∧ t.dies = s.dies ∧
      t.store.owners = s.store.owners.filter (fun o => !xs.any (fun x => x.1 == o.unit && x.2.1.id == o.cmd)) ∧
      ∀ k n, t.flagOf k n = { s.flagOf k n with
        value := (s.flagOf k n).value + BitVec.ofNat 32 (mine k n).length
        err := (s.flagOf k n).err || (err && !(mine k n).isEmpty)
        last := if (mine k n).isEmpty then (s.flagOf k n).last else dieAid (dieOfCore k) 5 0 }
    (¬full → exec (.collectiveComplete comm seq) s = .next s) ∧
    (full → NoStash s → Quiet s →
      (∀ x ∈ xs, x.2.1.err = false ∧ (flagField x.2.1.op).isSome ∧ groupStopped ((s.core x.1).groupK x.2.1.groupKey) = false) →
      ∀ a rest, xs = a :: rest →
        let nr := a.2.2.nr
        let agree (y : CollDesc) : Prop := a.2.2.op = y.op ∧ a.2.2.rop = y.rop ∧ a.2.2.ty = y.ty ∧ a.2.2.count = y.count ∧ a.2.2.nr = y.nr ∧
          a.2.2.root = y.root
        let sound : Prop := xs.length = nr ∧ (∀ k < nr, ∃ y ∈ xs, y.2.2.rank = k) ∧ ∀ y ∈ xs, y.2.2.bad = false ∧ agree y.2.2
        (¬sound → ∃ t, exec (.collectiveComplete comm seq) s = .next t ∧ MemoryKept s t ∧ ends t true) ∧
        (sound → ∀ ps, collParts s (xs.map (fun y => (y.1, y.2.1.id))) xs = .ok ps →
          (∀ p ∈ ps, ∀ q ∈ ps, ∀ b ∈ p.src, b ∉ q.dst) → (ps.flatMap CollPart.dst).Nodup →
          let srcs : CollSrcs := (List.range nr).map (fun k => ((ps.find? (fun p => p.desc.rank == k)).elim [] CollPart.src).map (fun b =>
            (s.store.mem.byte b, false)))
          ∃ t, exec (.collectiveComplete comm seq) s = .next t ∧ ends t false ∧
            WritesOnly s t (ps.flatMap (fun p => p.dst.zip (collResult p.desc srcs p.desc.rank)))))) ∧
  (∀ (x : CollDesc) (srcs : CollSrcs) (rank : Nat),
    (x.op = 2 → collResult x srcs rank = srcs.flatten) ∧ (x.op = 3 → collResult x srcs rank = srcs.getD x.root []) ∧
    (x.op < 2 → 1 ≤ x.nr → x.nr ≤ 4096 → x.rop < 3 → x.ty < 4 → (∀ b ∈ srcs.flatten, b.2 = false) →
      let elem (k i : Nat) : Nat := leNat (((srcs.getD k []).map Prod.fst).extract (i * x.size) (i * x.size + x.size))
      let signed (v : Nat) : Int := if v < 2 ^ 31 then (v : Int) else (v : Int) - 2 ^ 32
      let most (u v : Nat) : Nat :=
        if x.ty < 2 then (minMaxElem f32 true u v).1 else if x.ty = 2 then (if signed u < signed v then v else u) else max u v
      let least (u v : Nat) : Nat :=
        if x.ty < 2 then (minMaxElem f32 false u v).1 else if x.ty = 2 then (if signed u < signed v then u else v) else min u v
      let op (u v : Nat) : Nat :=
        if x.rop = 0 then (if x.ty < 2 then (addElem f32 0 false u v).1 else (u + v) % 2 ^ 32) else if x.rop = 1 then most u v else least u v
      ∃ tree : Nat → Nat → Nat → Nat,
        (∀ i lo, tree i lo 1 = if x.ty = 1 then (floatToFloat bf16 f32 0 false (elem lo i)).1 else elem lo i) ∧
        (∀ i lo n j, 2 ^ j < n → n ≤ 2 ^ (j + 1) → n ≤ 4096 → tree i lo n = op (tree i lo (2 ^ j)) (tree i (lo + 2 ^ j) (n - 2 ^ j))) ∧
        let value (i : Nat) : List (Byte × Bool) :=
          (leBytes x.size (if x.ty = 1 then (floatToFloat f32 bf16 0 false (tree i 0 x.nr)).1 else tree i 0 x.nr)).map (fun b => (b, false))
        collResult x srcs rank =
          if x.op = 0 then (List.range x.count).flatMap value
          else (List.range (x.count / x.nr)).flatMap (fun i => value (rank * (x.count / x.nr) + i)))) ∧
  ∀ (core : Nat) (d : Cmd) (o : EOp) (s : State), Holds s core d .started → d.op = .coll o →
    let x := collDesc d.desc
    let late : Prop := x.tmo ≠ 0 ∧ d.due ≤ s.now ∧ ¬RanksArrived (collRanks s x.id x.seq)
    (¬late → exec (.collectiveTimeout core d.id) s = .next s) ∧
    (late → s.store.cut = [] → (flagField d.op).isSome → ∃ t, exec (.collectiveTimeout core d.id) s = .next t ∧ MemoryKept s t ∧
      CommandEnds s t core d ∧ FlagDone s t core d true)

/-- A batch-forming queue changed, and no other of any die, nor anything else of a die. -/
def QueueBecomes (s t : State) (die q : Nat) (x : Bfq) : Prop :=
  t.bfq die q = x ∧ (∀ n ≠ q, t.bfq die n = s.bfq die n) ∧ { t.die die with bfqs := [] } = { s.die die with bfqs := [] } ∧
    ∀ n ≠ die, t.die n = s.die n

/-- What the end of a command at a batch-forming queue leaves unchanged: it leaves its core, with its held lines. Of the rest only memory, copies of
lines in L1s and replicas, the wakes of islands, scratchpads, gangs' registers, rings and flags may change, and the dies. -/
def QueueCommandEnds (s t : State) (core : Nat) (d : Cmd) : Prop :=
  t = { s with cores := t.cores, store := t.store, plat := t.plat, dies := t.dies } ∧ { t.plat with islands := [] } = { s.plat with islands := [] } ∧
    { t.store with mem := [], poison := [], replicas := [] } =
      { s.store with mem := [], poison := [], replicas := [], owners := s.store.owners.filter (fun o => !(o.unit == core && o.cmd == d.id)) } ∧
    (∀ k, { t.core k with groups := [], caches := {}, store := {}, cmds := [], rings := [], flags := [] } =
      { s.core k with groups := [], caches := {}, store := {}, cmds := [], rings := [], flags := [] }) ∧
    (∀ k, { (t.core k).caches with l1 := [], l1own := [] } = { (s.core k).caches with l1 := [], l1own := [] }) ∧
    (t.core core).cmds = (s.core core).cmds.filter (fun y => y.id != d.id) ∧ ∀ k ≠ core, (t.core k).cmds = (s.core k).cmds

/-- A BFQTAKE returns with records (R327): they lie at the offset that it names, its destination takes their count, and its command ends. -/
def TakeReturns (s t : State) (core : Nat) (d : Cmd) (o : EOp) (bytes : List Byte) : Prop :=
  let at' := ((s.core core).team d.team).res.spbase + d.a.toNat
  let g := s.groupOf d.who
  QueueCommandEnds s t core d ∧ t.store.mem = s.store.mem ∧ t.store.poison = s.store.poison ∧ (∀ k n, t.flagOf k n = s.flagOf k n) ∧
    (∀ j, ∀ y, bytes[j]? = some y → (t.core core).store.spad.byte (at' + j) = y) ∧
    (∀ p, (p < at' ∨ at' + bytes.length ≤ p) → (t.core core).store.spad.byte p = (s.core core).store.spad.byte p) ∧
    { (t.core core).store with spad := [], spadPoison := [] } = { (s.core core).store with spad := [], spadPoison := [] } ∧
    (∀ k ≠ core, (t.core k).store = (s.core k).store) ∧ (∀ v, sameRegisters v d.who = false → t.groupOf v = s.groupOf v) ∧
    t.groupOf d.who = (match o.d with
      | .s n => { g with inflight := g.inflight.map (fun r =>
          if r.held = true ∧ r.sca.map Prod.fst = some n.toNat then
            { r with sca := r.sca.map (fun y => (y.1, BitVec.ofNat 64 (bytes.length / 16), y.2.2)), held := false, due := s.now }
          else r) }
      | _ => g)

/-- R72, R301, R302, R307, R326, R327: a BFQPOST, BFQTAKE or BFQDONE to a queue that is not configured for its context is an illegal-operand
trap (cause 0x07), as is a take of none or more than 128 records or to a place outside the team's scratchpad; else it goes to its queue of
the die at once, or once the earlier commands of its path have. A post writes the slot's entry and appends its record, or waits while the
queue is full; a slot that the queue has not ends it with ERR. A take gets the oldest record and those of the same operation, up to its
maximum, and returns with them when it has that many; a done copies the result, clears PV and adds 1 to the flag of the entry's handle where
the entry still pends with its generation, and else drops the result and advances DROPS. This where nothing is poisoned. Readings of the
rules: log entry 41. R327: a take returns what it has when its time has passed, and not before. -/
def Obligations.BatchQueues : Prop :=
  ((∀ (i : Instr) (site : Site) (q : Nat) (f : Cmd → Cmd) (res : List InFlight) (s : State) (c : Issue), LanesRun s c site [] → isGlen c.who = false →
    (∀ y ∈ (s.core (coreOf c.who)).cmds, y.id ≠ (s.core (coreOf c.who)).nextCmd) →
    let core := coreOf c.who
    let a (x : Spec) : DWord := c.sval x
    let max (x : Spec) : Nat := ((c.sval x).extractLsb' 0 8).toNat
    (∃ o : EOp, i = .bfqpost o ∧ site = o.at' ∧ q = (o.ext.extractLsb' 7 6).toNat ∧ f = (fun d => { d with a := a o.a, b := a o.b }) ∧ res = []) ∨
    (∃ o : ROp, i = .bfqdone o ∧ site = o.at' ∧ q = (o.mod.extractLsb' 0 6).toNat ∧ f = (fun d => { d with a := a o.a, b := a o.b }) ∧ res = []) ∨
    (∃ o : EOp, i = .bfqtake o ∧ site = o.at' ∧ q = (o.ext.extractLsb' 0 6).toNat ∧
      f = (fun d => { d with a := a o.a, b := a o.b, due := s.now + 16 * ((a o.b).extractLsb' 16 16).toNat }) ∧
      res = (match o.d with | .s n => [{ sca := some (n.toNat, 0, false), due := s.now, empties := true, held := true }] | _ => [])) →
    let x := s.bfq (dieOfCore core) q
    let open' : Prop := x.on = true ∧ x.cid = s.cidOf c.who
    let fits : Prop := ∀ o, i = .bfqtake o → 1 ≤ max o.b ∧ max o.b ≤ 128 ∧ (a o.a).toNat % 16 = 0 ∧ (a o.a).toNat + 16 * max o.b ≤ (s.teamOf c).res.spsize
    (¬(open' ∧ fits) → TrapsWith 0x07 i site s c) ∧
    (open' → fits → Queues s c site i 4 16 (fun t => ∃ u v, Commanded s u c site i f ∧ RegistersBecome u v c (withResults res) ∧
      exec (.engineCommandStart core (s.core core).nextCmd) v = .next t))) ∧
  (∀ (core : Nat) (d : Cmd) (s : State), isBfq d.op = true → Holds s core d .queued →
    (∃ y ∈ (s.core core).cmds, y.id < d.id ∧ unitOf y.op = 4 ∧ y.begun = false ∧ y.paused = none) →
    exec (.engineCommandStart core d.id) s = .next s) ∧
  ∀ (core : Nat) (d : Cmd) (s : State), isBfq d.op = true → (s.core core).cmd d.id = some d → d.paused = none → NoStash s → Quiet s →
    let die := dieOfCore core
    let q := bfqField d.op
    let x := s.bfq die q
    let tm := (s.core core).team d.team
    let b (hi lo : Nat) : Nat := (d.b.extractLsb' lo (hi + 1 - lo)).toNat
    let entry := x.stab + BitVec.ofNat 64 (16 * b 31 16)
    let e : Cmd := { d with phase := .started }
    let stays (t : State) : Prop := (∀ v, t.groupOf v = s.groupOf v) ∧ ∀ k, (t.core k).store = (s.core k).store
    let starts (t : State) (y : Cmd) : Prop := t = { s with cores := t.cores, dies := t.dies } ∧ (∀ k ≠ core, t.core k = s.core k) ∧
      t.core core = { s.core core with cmds := (s.core core).cmds.map (fun z => if z.id == d.id then y else z) }
    d.phase = .started ∨ (d.phase = .queued ∧ ∀ y ∈ (s.core core).cmds, y.id < d.id → unitOf y.op = 4 → y.begun = true ∨ y.paused ≠ none) →
    (∀ p ∈ s.cores, ∀ y ∈ p.2.cmds, isBfq y.op = true → bfqField y.op = q → dieOfCore p.1 = die → y.phase = .started → y.paused ≠ none ∨ (p.1 = core ∧ y = d)) →
    ((s.core core).cmds.map Cmd.id).Nodup → d.err = false →
    (∀ o, d.op = .bfqpost o → b 31 16 < x.nslot → x.recs.length < x.cap →
      let h := match flagField d.op with | some n => flagHandle s core (tm.res.fbase + n) | none => 0
      ∀ ws, seqWrites s e [cleanWrite (entry + 8) (leBytes 8 (h * 2 ^ 32 + 2 ^ 16 + b 15 0))] = .ok ws → (ws.map Prod.fst).Nodup →
        ∃ t, exec (.engineCommandStart core d.id) s = .next t ∧ WritesOnly s t ws ∧ QueueCommandEnds s t core d ∧ stays t ∧
          (∀ k n, t.flagOf k n = s.flagOf k n) ∧
          QueueBecomes s t die q { x with recs := x.recs ++ [{ row := d.a, gen := b 15 0, slot := b 31 16, opid := b 47 32 }] }) ∧
    (∀ o, d.op = .bfqpost o → b 31 16 < x.nslot → x.cap ≤ x.recs.length →
      ∃ t, exec (.engineCommandStart core d.id) s = .next t ∧ starts t e ∧ QueueBecomes s t die q x) ∧
    (∀ o, d.op = .bfqpost o → x.nslot ≤ b 31 16 → (flagField d.op).isSome →
      ∃ t, exec (.engineCommandStart core d.id) s = .next t ∧ MemoryKept s t ∧ QueueCommandEnds s t core d ∧ stays t ∧ QueueBecomes s t die q x ∧
        FlagDone s t core d true ∧ ∀ k ≠ core, ∀ n, t.flagOf k n = s.flagOf k n) ∧
    (∀ o, d.op = .bfqtake o → d.desc.length % 16 = 0 → d.desc.length < 16 * b 7 0 → (∀ r ∈ x.recs, r.opid < 2 ^ 16 ∧ r.slot < 2 ^ 16 ∧ r.gen < 2 ^ 16) →
      coreOf d.who = core → isGlen d.who = false →
      let first := if d.desc = [] then x.recs.head?.map BfqRec.opid else some (descNum d.desc 12 2)
      let mine (r : BfqRec) : Bool := first == some r.opid
      let room := b 7 0 - d.desc.length / 16
      let got := (x.recs.filter mine).take room
      let bytes := d.desc ++ got.flatMap (fun r => leBytes 8 r.row.toNat ++ leBytes 8 (r.opid * 2 ^ 32 + r.slot * 2 ^ 16 + r.gen))
      ∃ t rest, exec (.engineCommandStart core d.id) s = .next t ∧ QueueBecomes s t die q { x with recs := rest } ∧ rest.Sublist x.recs ∧
        rest.length + got.length = x.recs.length ∧ rest.filter (fun r => !mine r) = x.recs.filter (fun r => !mine r) ∧
        rest.filter mine = (x.recs.filter mine).drop room ∧
        (got.length < room → starts t { e with desc := bytes }) ∧ (got.length = room → TakeReturns s t core d o bytes)) ∧
    (∀ o, d.op = .bfqdone o →
      let dropped (t : State) : Prop := MemoryKept s t ∧ QueueCommandEnds s t core d ∧ stays t ∧ (∀ k n, t.flagOf k n = s.flagOf k n) ∧
        QueueBecomes s t die q { x with drops := x.drops + 1 }
      (x.nslot ≤ b 31 16 → ∃ t, exec (.engineCommandStart core d.id) s = .next t ∧ dropped t) ∧
      (b 31 16 < x.nslot → ∀ bs bad, seqRead s e false entry 16 = .ok (bs, bad) →
        let w := descNum bs 8 8
        let pends : Prop := w / 2 ^ 16 % 2 = 1 ∧ w % 2 ^ 16 = b 15 0
        (¬pends → ∃ t, exec (.engineCommandStart core d.id) s = .next t ∧ dropped t) ∧
        (pends → ∀ tgt : Option (Nat × Nat),
          (w / 2 ^ 32 = 0 ∧ tgt = none) ∨ (w / 2 ^ 32 ≠ 0 ∧ ∃ k n, tgt = some (k, n) ∧ flagPlace s (w / 2 ^ 32) d.cid = .core k n) →
          groupStopped ((s.core core).groupK d.groupKey) = false →
          ∀ src ws, seqRead s e false d.a x.rl = .ok (src, false) →
          seqWrites s e [cleanWrite (BitVec.ofNat 64 (descNum bs 0 8)) src, cleanWrite (entry + 8) (leBytes 8 (w - 2 ^ 16))] = .ok ws →
          (ws.map Prod.fst).Nodup →
          ∃ t, exec (.engineCommandStart core d.id) s = .next t ∧ WritesOnly s t ws ∧ QueueCommandEnds s t core d ∧ stays t ∧ QueueBecomes s t die q x ∧
            ∀ k n, t.flagOf k n =
              if tgt = some (k, n) then { s.flagOf k n with value := (s.flagOf k n).value + 1, last := cmdAid core d.op } else s.flagOf k n)))) ∧
  (∀ (core : Nat) (d : Cmd) (o : EOp) (s : State), Holds s core d .started → d.op = .bfqtake o →
    (s.now < d.due → exec (.bfqtakeTimeout core d.id) s = .next s) ∧
    (d.due ≤ s.now → s.store.cut = [] → coreOf d.who = core → isGlen d.who = false →
      ∃ t, exec (.bfqtakeTimeout core d.id) s = .next t ∧ TakeReturns s t core d o d.desc ∧ t.dies = s.dies))

/-! ## Glen cores (R75 to R91, R328) -/

/-- A command of a glen core, with the fields that `f` fills in, is the last of its commands, and nothing else of the machine changes but the
numbers given to commands. -/
def GlenCommanded (s t : State) (c : Issue) (n : Nat) (site : Site) (i : Instr) (f : Cmd → Cmd) : Prop :=
  let d := f { id := (s.glen n).nextCmd, op := i, who := c.who, cid := (s.glen n).cid, order := s.store.nextOwner, pc := c.pc, slot := slotNumber site.slot }
  t = { s with glens := t.glens, store := { s.store with nextOwner := s.store.nextOwner + 1 } } ∧ (∀ j ≠ n, t.glen j = s.glen j) ∧
    t.glen n = { s.glen n with cmds := (s.glen n).cmds ++ [d], nextCmd := (s.glen n).nextCmd + 1 }

/-- None of a glen core's commands is a HAND. -/
def NoHand (g : Glen) : Prop := ∀ d ∈ g.cmds, ∀ o, d.op ≠ .hand o

/-- A command of a glen core changed by `f`, and nothing else of the machine. -/
def GlenCmdBecomes (s t : State) (n id : Nat) (f : Cmd → Cmd) : Prop :=
  t = { s with glens := t.glens } ∧ (∀ j ≠ n, t.glen j = s.glen j) ∧
    t.glen n = { s.glen n with cmds := (s.glen n).cmds.map (fun d => if d.id == id then f d else d) }

/-- R77, R78, R80 to R84, R88 to R91, R328: a glen command whose operands keep their limits is queued with its operands sampled, a HAND with its
slots reserved where no earlier command holds it back, or known as failed where its handle is stale or its size unfit; beyond the limits it is an
illegal-operand trap (cause 0x07), and with sixteen
commands queued the core waits, as a POOL does for the header that an earlier command may still write. SEGWAIT goes on where its segment is resident
and waits for it else. A segment's copy makes
its frame resident with the segment's bytes as they stood at the start, at its due time, and a fault of a background copy empties the frame; a program that
has ended is over with its last command, and its packet has done its work. Readings of the rules on its operands, and what a segment that could not be reached
at the start reads as: log entry 40. -/
def Obligations.GlenCommands : Prop :=
  (∀ (s : State) (c : Issue) (n : Nat), c.who = .glen n →
    let g := s.glen n
    let rb (o : EOp) : Nat := 4 * (o.ext.extractLsb' 10 11).toNat
    let cap (o : EOp) : Nat := (o.ext.extractLsb' 21 12).toNat
    let area (x : DWord) : Prop := x.toNat % 128 = 0 ∧ x.toNat + 16 ≤ 65536
    let waits (i : Instr) : Prop := ∃ t, exec i s = .next t ∧ OnlyIssue s t ∧ t.issue = some { c with status := .wait .poll }
    (∀ (i : Instr) (site : Site) (ok : Prop) (f : Cmd → Cmd), LanesRun s c site [] →
      ((∃ o : ROp, i = .dedup o ∧ site = o.at' ∧ (ok ↔ (o.mod.extractLsb' 0 6).toNat < 16 ∧ area (c.sval o.b)) ∧
          f = (fun d => { d with a := c.sval o.a, b := c.sval o.b, c := c.sval .zero })) ∨
        (∃ o : EOp, i = .gth o ∧ site = o.at' ∧ (ok ↔ (o.ext.extractLsb' 0 6).toNat < 16 ∧ 1 ≤ rb o ∧ rb o ≤ 4096 ∧ 1 ≤ cap o ∧
            rb o ≤ 4 * (o.ext.extractLsb' 33 31).toNat ∧ area (c.sval o.a) ∧ (c.sval o.c).toNat + cap o * rb o ≤ 65536) ∧
          f = (fun d => { d with a := c.sval o.a, b := c.sval o.b, c := c.sval o.c })) ∨
        (∃ o : EOp, i = .unz o ∧ site = o.at' ∧ (ok ↔ (o.ext.extractLsb' 0 6).toNat < 16 ∧ (o.ext.extractLsb' 14 2).toNat ≠ 3 ∧ (c.sval o.a).toNat % 16 = 0 ∧
            (c.sval o.c).toNat + ((o.ext.extractLsb' 8 6).toNat + 1) * unzBlock o ≤ 65536) ∧
          f = (fun d => { d with a := c.sval o.a, b := c.sval o.b, c := c.sval o.c })) ∨
        (∃ o : EOp, i = .pool o ∧ site = o.at' ∧ (∀ d ∈ g.cmds, rangesMeet [((c.sval o.a).toNat, (c.sval o.a).toNat + 16)] (glenUses s g d).2 = false) ∧
          (ok ↔ (o.ext.extractLsb' 0 6).toNat < 16 ∧ poolEt o ≠ 3 ∧ poolOp o ≠ 3 ∧ 1 ≤ poolE o ∧ 1 ≤ poolCap o ∧ area (c.sval o.a) ∧
            (c.sval o.c).toNat + (g.rowNum 0 ((c.sval o.a).toNat + 8) 4).1 * poolE o * poolOut o ≤ 65536) ∧
          f = (fun d => { d with a := c.sval o.a, b := c.sval o.b, c := c.sval o.c }))) →
      (¬ok → TrapsWith 0x07 i site s c) ∧
      (ok → 16 ≤ g.cmds.length → waits i) ∧
      (ok → g.cmds.length < 16 → NoHand g → ∃ t, exec i s = .next t ∧ GlenCommanded s t c n site i f)) ∧
    (∀ o : EOp, LanesRun s c o.at' [] → area (c.sval o.a) →
      (∃ d ∈ g.cmds, rangesMeet [((c.sval o.a).toNat, (c.sval o.a).toNat + 16)] (glenUses s g d).2 = true) → waits (.pool o)) ∧
    (∀ o : ROp, LanesRun s c o.at' [] →
      let a := c.sval o.a
      let b := c.sval o.b
      let h := c.sval o.c
      let ok : Prop := (o.mod.extractLsb' 0 6).toNat < 16 ∧ a.toNat + b.toNat ≤ 65536
      (¬ok → TrapsWith 0x07 (.hand o) o.at' s c) ∧
      (ok → 16 ≤ g.cmds.length → waits (.hand o)) ∧
      (ok → g.cmds.length < 16 → NoHand g → (∀ y ∈ g.cmds, y.id ≠ g.nextCmd) → ∃ u t d, exec (.hand o) s = .next t ∧
        GlenCommanded s u c n o.at' (.hand o) (fun d => { d with a := a, b := b, c := h }) ∧ (u.glen n).cmds.getLast? = some d ∧
        (glenReady u (u.glen n) d = false → t = u) ∧
        (glenReady u (u.glen n) d = true →
          (ringPlace s (h.toNat % 2 ^ 32) g.cid = none → GlenCmdBecomes u t n d.id (fun y => { y with phase := .finished, aux := [4] })) ∧
          ∀ k r, ringPlace s (h.toNat % 2 ^ 32) g.cid = some (k, r) →
            let x := s.ring k r
            let fits : Prop := b.toNat % x.slotBytes = 0 ∧ b.toNat / x.slotBytes ≤ x.count
            (¬fits → GlenCmdBecomes u t n d.id (fun y => { y with phase := .finished, aux := [5] })) ∧
            (fits → ∃ v, RingBecomes u v k r { x with producers := x.producers ++ [{ cmd := holdKey (640 + n) g.nextCmd, n := b.toNat / x.slotBytes }] } ∧
              GlenCmdBecomes v t n d.id (fun y => { y with phase := .registered, aux := [k, r] }))))) ∧
    (∀ o : IOp, LanesRun s c o.at' [] →
      let seg := (o.imm.extractLsb' 0 12).toNat
      let f := Sparse.look {} (seg % 4) g.frames
      let here : Prop := f.valid = true ∧ f.seg = seg ∧ f.filling = false
      (g.segs.length ≤ seg → TrapsWith 0x07 (.segwait o) o.at' s c) ∧
      (seg < g.segs.length → here → exec (.segwait o) s = .next s) ∧
      (seg < g.segs.length → ¬here → ∃ t, exec (.segwait o) s = .next t ∧ OnlyIssue s t ∧ t.issue = some { c with status := .wait (.segment seg) }))) ∧
  ∀ (n : Nat) (s : State),
    let g := s.glen n
    (g.fillingFrame = none → exec (.segmentCopyComplete n) s = .next s) ∧
    (∀ k f, g.fillingFrame = some (k, f) → s.now < f.due → exec (.segmentCopyComplete n) s = .next s) ∧
    (∀ k f, g.fillingFrame = some (k, f) → f.due ≤ s.now → NoStash s →
      let x := (g.segs[f.seg]?).getD {}
      let tlb := g.tlb ++ s.dieGrants (n / 16)
      (∀ ps bs, engineReachTlb s tlb g.cid .fetch (runPieces x.addr x.len) = .ok ps →
        (∃ p, g.code.find? (fun p => p.1 == f.seg) = some p ∧ bs = p.2) ∨
          (g.code.find? (fun p => p.1 == f.seg) = none ∧ (∀ l ∈ ownedLines ps, s.isOwned l = false) ∧ bs = (placesOf ps).map s.store.mem.byte) →
        (∀ since, g.demand = some (f.seg, since) → (s.core g.prog.agent).agent.trctl.getLsbD 5 = false) →
        ∃ t, exec (.segmentCopyComplete n) s = .next t ∧ t = { s with glens := t.glens } ∧ (∀ j ≠ n, t.glen j = s.glen j) ∧
          t.glen n = { g with frames := (t.glen n).frames, demand := if g.demand.map Prod.fst = some f.seg then none else g.demand } ∧
          ∀ j, Sparse.look {} j (t.glen n).frames = if j = k then { valid := true, seg := f.seg, bytes := bs } else Sparse.look {} j g.frames) ∧
      ∀ va y kind, engineReachTlb s tlb g.cid .fetch (runPieces x.addr x.len) = .error (.fault va y kind) → f.demand = false →
        ∃ t, exec (.segmentCopyComplete n) s = .next t ∧ t = { s with glens := t.glens } ∧ (∀ j ≠ n, t.glen j = s.glen j) ∧
          t.glen n = { g with frames := (t.glen n).frames } ∧
          ∀ j, Sparse.look {} j (t.glen n).frames = if j = k then {} else Sparse.look {} j g.frames) ∧
    (¬(g.prog.running = true ∧ g.prog.ended = true ∧ g.cmds = []) → exec (.glenProgramEnd n) s = .next s) ∧
    (g.prog.running = true → g.prog.ended = true → g.cmds = [] → ∃ t, exec (.glenProgramEnd n) s = .next t ∧
      t = { s with glens := t.glens, host := { s.host with queues := t.host.queues } } ∧ (∀ j ≠ n, t.glen j = s.glen j) ∧
      t.glen n = { g with prog := { g.prog with running := false } } ∧
      ∀ q, t.queue q = if q = g.prog.queue then { s.queue q with packets := (s.queue q).packets.map (fun p =>
        if p.index == g.prog.packet then { p with finished := true } else p) } else s.queue q)

/-- R73, R75, R78, R80 to R84, R87, R88: at its end a glen command has written its bytes in the row buffer, set its bits of GSTAT and raised its flag, with ERR
where it met poison. DEDUP's area holds the sizes, the unique indices, the map that names each index's place among them, the offsets and the weights, or is bad;
GTH's row k is the table's row of the k-th unique index, or zero; POOL's rows combine the gathered rows of each bag in ascending position; UNZ's blocks hold
their elements, zeros from a malformed one on, of which a record tells and with which the program ends; HAND delivers its bytes to the slots that it reserved and
commits them, or has set HSTALE or HSIZE. -/
def Obligations.GlenResults : Prop :=
  (∀ (n : Nat) (d : Cmd) (s : State), (s.glen n).cmd d.id = some d →
    let g := s.glen n
    let f := glenFlag d.op
    let raised (t : State) (e : Bool) : Prop := ∀ w k, flagOfWho t w k =
      if sameUnit w (.glen n) = true ∧ k = f then
        { flagOfWho s w k with value := (flagOfWho s w k).value + 1, err := (flagOfWho s w k).err || e, last := aidOfWho (.glen n) }
      else flagOfWho s w k
    let ends (t : State) (x : GlenOut) : Prop := exec (.glenCommandComplete n d.id) s = .next t ∧
      (∀ j ≠ n, t.glen j = s.glen j) ∧ (∀ k, (t.core k).store = (s.core k).store) ∧ (∀ v, t.groupOf v = s.groupOf v) ∧
      (x.mal = false → t.host = s.host ∧ { t.store with l2 := [], evict := [] } = { s.store with l2 := [], evict := [] } ∧
        (x.lines = [] → t.store = s.store)) ∧
      (t.glen n).row = x.writes.foldl (fun m w => m.write w.1 (w.2.map Prod.fst)) g.row ∧
      { t.glen n with row := [], rowPoison := [], flags := [] } =
        { g with row := [], rowPoison := [], flags := []
                 gstat := x.bits.foldl (fun b k => b ||| (1#64 <<< k)) g.gstat
                 cmds := g.cmds.filter (fun y => y.id != d.id)
                 areas := (match x.rows with | some (a, k) => (g.areas.filter (fun p => p.1 != a)) ++ [(a, k)] | none => g.areas)
                 prog := if x.mal then { g.prog with ended := true, failed := true } else g.prog } ∧
      raised t (x.err || d.err)
    let val (m : Memory) (a k : Nat) : Nat := leNat ((List.range k).map (fun i => m.byte (a + i)))
    let left (x : GlenOut) : Memory := x.writes.foldl (fun m w => m.write w.1 (w.2.map Prod.fst)) g.row
    let up (a : Nat) : Nat := (a + 15) / 16 * 16
    (d.paused ≠ none ∨ glenReady s g d = false → exec (.glenCommandComplete n d.id) s = .next s) ∧
    (d.paused = none → glenReady s g d = true →
      (NoHand g → NoStash s → ∀ x : GlenOut,
        ((∃ o, d.op = .dedup o) ∧ dedupOut s d = .ok x) ∨ (∃ o, d.op = .gth o ∧ gthOut s g d o = .ok x) ∨
          (∃ o, d.op = .pool o ∧ poolResult g s.free d o = x) ∨ (∃ o, d.op = .unz o ∧ unzOut s d o = .ok x) →
        ∃ t, ends t x) ∧
      (∀ x bs, dedupOut s d = .ok x → glenRead s d d.a 48 = .ok bs →
        let num (off k : Nat) : Nat := leNat (((bs.map Prod.fst).drop off).take k)
        let m := num 0x18 4
        let bags := num 0x1C 4
        let row := left x
        let b := d.b.toNat
        let uniq := val row (b + 4) 4
        let map' := up (b + 16 + 4 * m)
        let offs := up (map' + 2 * m)
        let wts := up (offs + 4 * (bags + 1))
        let idx (i : Nat) (is : List (Byte × Bool)) : Nat := leNat (((is.map Prod.fst).drop (4 * i)).take 4)
        let bad : Prop := val row (b + 12) 4 % 2 = 1
        val row b 4 = m ∧ val row (b + 8) 4 = bags ∧
        (bad → val row (b + 12) 4 = 1 ∧ uniq = 0 ∧ x.bits = [2] ∧ ∀ p, (p < b ∨ b + 16 ≤ p) → row.byte p = g.row.byte p) ∧
        (¬bad →
          val row (b + 12) 4 = (if num 0x10 8 = 0 then 0 else 2) ∧
          (d.a.toNat % 16 = 0 ∧ num 0 8 % 4 = 0 ∧ num 8 8 % 4 = 0 ∧ num 0x10 8 % 4 = 0 ∧ 1 ≤ m ∧ m ≤ 2048 ∧ 1 ≤ bags ∧ bags ≤ 256 ∧ num 0x24 12 = 0 ∧
            x.rows = some (b, num 0x20 4)) ∧
          ∀ is os, glenRead s d (BitVec.ofNat 64 (num 0 8)) (4 * m) = .ok is → glenRead s d (BitVec.ofNat 64 (num 8 8)) (4 * (bags + 1)) = .ok os →
            uniq ≤ m ∧ (∀ j < uniq, ∀ k < uniq, val row (b + 16 + 4 * j) 4 = val row (b + 16 + 4 * k) 4 → j = k) ∧
            (∀ i < m, val row (map' + 2 * i) 2 < uniq ∧ val row (b + 16 + 4 * val row (map' + 2 * i) 2) 4 = idx i is) ∧
            (∀ j < 4 * (bags + 1), row.byte (offs + j) = (os.getD j (0, false)).1) ∧ val row offs 4 = 0 ∧ val row (offs + 4 * bags) 4 = m ∧
            (∀ k < bags, val row (offs + 4 * k) 4 ≤ val row (offs + 4 * (k + 1)) 4) ∧
            ∀ ws, num 0x10 8 ≠ 0 → glenRead s d (BitVec.ofNat 64 (num 0x10 8)) (4 * m) = .ok ws →
              ∀ j < 4 * m, row.byte (wts + j) = (ws.getD j (0, false)).1)) ∧
      (∀ o x, d.op = .gth o → gthOut s g d o = .ok x →
        let limit := ((g.areas.find? (fun p => p.1 == d.a.toNat)).map Prod.snd).getD (Config.areaRows s.free)
        let rb := 4 * (o.ext.extractLsb' 10 11).toNat
        let cap := (o.ext.extractLsb' 21 12).toNat
        let uniq := (g.rowNum s.free (d.a.toNat + 4) 4).1
        let idx (k : Nat) : Nat := (g.rowNum s.free (d.a.toNat + 16 + 4 * k) 4).1
        ((g.area s.free d.a.toNat).bad = true → left x = g.row ∧ x.bits = []) ∧
        ((g.area s.free d.a.toNat).bad = false →
          (0 ∈ x.bits ↔ ∃ k < min uniq cap, limit ≤ idx k) ∧ (1 ∈ x.bits ↔ cap < uniq) ∧
          ∀ k < min uniq cap,
            (limit ≤ idx k → ∀ j < rb, (left x).byte (d.c.toNat + k * rb + j) = 0) ∧
            (idx k < limit → ∀ ps, seqReach s d .engineRead false (d.b + BitVec.ofNat 64 (idx k * (4 * (o.ext.extractLsb' 33 31).toNat))) rb = .ok ps →
              ∀ (j p : Nat), j < rb → (placesOf ps)[j]? = some p → (left x).byte (d.c.toNat + k * rb + j) = s.store.mem.byte p))) ∧
      (∀ o, d.op = .pool o →
        let x := poolResult g s.free d o
        let h := g.area s.free d.a.toNat
        let cap := (o.ext.extractLsb' 25 12).toNat
        let num (a k : Nat) : Nat := (g.rowNum s.free a k).1
        let map' := up (d.a.toNat + 16 + 4 * h.n)
        let offs := up (map' + 2 * h.n)
        let wts := up (offs + 4 * (h.bags + 1))
        ∀ b < h.bags, ∀ e < poolE o,
          let lo := num (offs + 4 * b) 4
          let k := num (offs + 4 * (b + 1)) 4 - lo
          let row (i : Nat) : Nat := num (map' + 2 * i) 2
          let elem (i : Nat) : Nat :=
            let v := num (d.b.toNat + (row i * poolE o + e) * poolSize o) (poolSize o)
            if row i < min h.u cap then
              (if poolEt o = 0 then v else if poolEt o = 1 then (floatToFloat bf16 f32 0 false v).1 else (floatToFloat h16 f32 0 false v).1)
            else 0
          let w (i : Nat) : Nat := if h.weights then num (wts + 4 * i) 4 else 0x3F800000
          ∃ acc : Nat → Nat, acc 1 = (mulElem f32 0 false (w lo) (elem lo)).1 ∧
            (∀ j, 1 ≤ j → j < k → acc (j + 1) =
              if poolOp o = 2 then (minMaxElem f32 true (acc j) (mulElem f32 0 false (w (lo + j)) (elem (lo + j))).1).1
              else (fmaElem f32 0 false (w (lo + j)) (elem (lo + j)) (acc j)).1) ∧
            let out := if h.bad = true ∨ k = 0 then 0 else if poolOp o = 1 then (divElem f32 0 false (acc k) (intToFloat f32 0 false (k : Int)).1).1 else acc k
            let bytes := leBytes (poolOut o) (if poolBf o = true ∧ h.bad = false then (floatToFloat f32 bf16 0 false out).1 else out)
            ∀ j < poolOut o, (left x).byte (d.c.toNat + (b * poolE o + e) * poolOut o + j) = bytes.getD j 0) ∧
      (∀ o x, d.op = .unz o → unzOut s d o = .ok x →
        let bits := unzBits o
        let size := 64 * bits
        let count := (o.ext.extractLsb' 8 6).toNat + 1
        let num (bs : List (Byte × Bool)) (off k : Nat) : Nat := leNat (((bs.map Prod.fst).drop off).take k)
        let present (h : List (Byte × Bool)) (e : Nat) : Bool := (h.getD (16 + e / 8) (0, false)).1.getLsbD (e % 8)
        let rank (h : List (Byte × Bool)) (e : Nat) : Nat := ((List.range e).filter (present h)).length
        let plen (h : List (Byte × Bool)) : Nat := num h 0 8 % 2 ^ 11
        let formed (h : List (Byte × Bool)) (j : Nat) : Prop := num h 0 8 / 2 ^ 34 = 0 ∧ num h 0 8 / 2 ^ 11 % 2 ^ 21 = 0 ∧
          num h 0 8 / 2 ^ 32 % 4 = (o.ext.extractLsb' 14 2).toNat ∧ num h 8 8 = (d.b.toNat + j) % 2 ^ 32 ∧ plen h = (rank h 512 * bits + 7) / 8
        let elem (f : Nat → Byte) (r : Nat) : Nat :=
          if bits = 4 then (f (r / 2)).toNat / 16 ^ (r % 2) % 16 else leNat ((List.range (bits / 8)).map (fun i => f (r * bits / 8 + i)))
        ∃ (good : Nat) (va : Nat → DWord), good ≤ count ∧ (x.mal = true ↔ good < count) ∧ (3 ∈ x.bits ↔ good < count) ∧ va 0 = d.a ∧
          (good < count → ∃ h, glenRead s d (va good) 80 = .ok h ∧ ¬formed h good) ∧
          (∀ j, good ≤ j → j < count → ∀ i < size, (left x).byte (d.c.toNat + j * size + i) = 0) ∧
          ∀ j < good, ∃ h vals, glenRead s d (va j) 80 = .ok h ∧ formed h j ∧ glenRead s d (va j + 80) (plen h) = .ok vals ∧
            va (j + 1) = va j + BitVec.ofNat 64 (80 + up (plen h)) ∧
            ∀ e < 512, elem (fun i => (left x).byte (d.c.toNat + j * size + i)) e =
              if present h e then elem (fun i => (vals.getD i (0, false)).1) (rank h e) else 0) ∧
      (∀ o, d.op = .hand o → d.phase = .finished → NoHand { g with cmds := g.cmds.filter (fun y => y.id != d.id) } →
        ∃ t, ends t { bits := d.aux }) ∧
      (∀ o h core r, d.op = .hand o → d.phase = .registered → d.aux = [core, r] → NoStash s → Quiet s → g.rowPoison = [] →
        NoHand { g with cmds := g.cmds.filter (fun y => y.id != d.id) } →
        let x := s.ring core r
        x.producers.find? (fun y => !y.thread && y.cmd == holdKey (640 + n) d.id) = some h → h.granted = true → h.first = x.tail →
        (∀ y ∈ x.producers, y.done = false ∧ (y.thread = false → y.cmd = holdKey (640 + n) d.id → y = h)) → (∀ e ∈ x.own, e.take = false → e.done = false) →
        let base := match ringTeam (s.core core) r with | some (_, t) => t.res.spbase | none => 0
        let at' (j : Nat) : Nat := base + x.byteAt h.first j
        d.a.toNat + d.b.toNat ≤ 65536 → ((List.range d.b.toNat).map at').Nodup →
        ∃ t, exec (.glenCommandComplete n d.id) s = .next t ∧ t.store.mem = s.store.mem ∧ t.host = s.host ∧ raised t d.err ∧
          (∀ j ≠ n, t.glen j = s.glen j) ∧ (∀ v, t.groupOf v = s.groupOf v) ∧
          { t.glen n with flags := [] } = { g with flags := [], cmds := g.cmds.filter (fun y => y.id != d.id) } ∧
          (∀ j < d.b.toNat, (t.core core).store.spad.byte (at' j) = g.row.byte (d.a.toNat + j)) ∧
          (∀ p, (∀ j < d.b.toNat, at' j ≠ p) → (t.core core).store.spad.byte p = (s.core core).store.spad.byte p) ∧
          (∀ k ≠ core, (t.core k).store = (s.core k).store) ∧
          (t.ring core r).tail = (x.tail + h.n) % x.modulus))) ∧
  ∀ xs : List (Nat × Bool),
    let r := dedupe xs ([], [])
    (r.1.map Prod.fst).Nodup ∧ r.2.length = xs.length ∧
      ∀ (i : Nat) (x : Nat × Bool), xs[i]? = some x → ∃ m y, r.2[i]? = some m ∧ m.1 ≤ i ∧ r.1[m.1]? = some y ∧ y.1 = x.1 ∧
        ∀ (j : Nat) (z : Nat × Bool), xs[j]? = some z → z.1 = x.1 → r.2[j]?.map Prod.fst = some m.1

/-! ## Fetch, write-back, stores and the stash (R56, R58, R64, R68, R69, R116, R156, R157, R198, R199, R237) -/

/-- The cycles in which a line of code comes from the L2 or from HBM (R70). -/
def codeLatency (s : State) (line : Nat) : Nat :=
  if Sparse.look false line s.store.l2 = true ∨ line ∈ (Sparse.look {} (homeSlice line) s.slices).pinned then 110 else 380

/-- A core asks for a line of code whose page has entry `e`, and nothing else changes but the TLBs (R24, R68). -/
def AsksLine (s t : State) (core line : Nat) (e : TlbEntry) : Prop :=
  t = { s with cores := t.cores, tlbs := t.tlbs } ∧ (∀ j ≠ core, t.core j = s.core j) ∧ Cached s t [core / 8, bankOf (core / 160) e] e ∧
    t.core core = { s.core core with caches := { (s.core core).caches with
      tlb := tlbAdd 128 (s.core core).caches.tlb e, fills := (s.core core).caches.fills ++ [(line, s.now + codeLatency s line)] } }

/-- A core has a line of code, waits for it, or has eight fills under way (R68). -/
def HasLine (s : State) (core line : Nat) : Prop :=
  (∃ p ∈ (s.core core).caches.icache, p.1 = line) ∨ (∃ p ∈ (s.core core).caches.fills, p.1 = line) ∨ 8 ≤ (s.core core).caches.fills.length

/-- R68, R91, R156, R157, R198, R199, R214, R237: NOP does nothing, and an empty bundle goes on to the next one and with a segment mark starts the copy
of the segment to preload. PRFI asks for a line of code that its core neither has nor waits for, with fewer than eight outstanding; it keeps
one whose page the host must grant and drops one that would fault; several lines are asked for one by one. A fetched bundle that
passes its checks changes nothing before its issue, one that fails them stops its gang precisely, and a missing line is asked for, to take the bytes that
memory holds when it comes. A result that is due is written to its registers and is in flight no longer. Which line leaves a full
instruction cache is the model's choice (log entry 49). -/
def Obligations.FetchAndWriteBack : Prop :=
  (∀ (o : Site) (s : State), exec (.nop o) s = .next s) ∧
  (∀ (w : Who) (s : State) (r : RawBundle), s.issue = none → s.store.cut = [] → fetchBundle s w (s.pcOf w) = .ok r →
    let moved (g : Group) : Group :=
      let h := g.onSlices (s.gangOf w) (fun y =>
        { y with pc := s.pcOf w + BitVec.ofNat 64 r.len, run := if y.run matches .stopped .. then y.run else .running,
                 ready := max y.ready (s.now + 1), aged := false, since := s.now, wake := 0 })
      if isGlen w then h.landAll else if h.vliw then h.advancePasses else h
    (r.ops = [] → headOk (s.decoderOf w) r.head r.lmask = true →
      (isGlen w = false ∨ r.head.getLsbD 27 = false → ∃ t, exec (.emptyBundle w) s = .next t ∧ GroupBecomes s t w moved) ∧
      ∀ n, w = .glen n → r.head.getLsbD 27 = true →
        let g := s.glen n
        let seg := (s.pcOf w).toNat / 8192
        let next := ((g.segs[seg]?).getD {}).next
        let f := Sparse.look {} (next % 4) g.frames
        let free : Prop := next ≠ 0xFFFF ∧ ¬(f.valid = true ∧ f.seg = next) ∧ next % 4 ≠ seg % 4 ∧ ∀ p ∈ g.frames, p.2.filling = false
        ∃ t, exec (.emptyBundle w) s = .next t ∧ t = { s with glens := t.glens } ∧ (∀ j ≠ n, t.glen j = s.glen j) ∧
          t.glen n = { g with ctx := moved g.ctx, frames := (t.glen n).frames } ∧
          (free → ∀ j, Sparse.look {} j (t.glen n).frames =
            if j = next % 4 then { valid := true, seg := next, filling := true, since := s.now, due := s.now + 380 } else Sparse.look {} j g.frames) ∧
          (¬free → (t.glen n).frames = g.frames)) ∧
    (∀ is, checkBundle (s.decoderOf w) (s.beginIssue w r.len) r = .ok is → exec (.instructionFetch w) s = .next s) ∧
    ∀ x, checkBundle (s.decoderOf w) (s.beginIssue w r.len) r = .error x → x.rpl = false →
      (∀ n, w = .glen n → 0 < (s.groupOf w).slices.length →
        ∃ t, exec (.instructionFetch w) s = .next t ∧ ((t.groupOf w).slice 0).run = .stopped x false ∧
          ((t.groupOf w).slice 0).pc = s.pcOf w ∧ (t.glen n).prog.ended = true ∧ (t.glen n).prog.failed = true) ∧
      ∀ a, w = .gang a → isAgent w = false → (∀ bit, s.traces a.core bit = false) → (s.core a.core).cmds = [] →
        ((s.core a.core).team (teamKey w (s.groupOf w))).live = true →
        ∃ t, exec (.instructionFetch w) s = .next t ∧ ((t.core a.core).team (teamKey w (s.groupOf w))).ending = some x ∧
          (t.core a.core).recSeq = ((s.core a.core).recSeq + 1) % 2 ^ 32) ∧
  (∀ (w : Who) (s : State) (line : Nat) (e : TlbEntry), s.issue = none → fetchBundle s w (s.pcOf w) = .error (.miss line e) →
    (HasLine s (coreOf w) line → exec (.instructionFetch w) s = .next s) ∧
    (¬HasLine s (coreOf w) line → ∃ t, exec (.instructionFetch w) s = .next t ∧ AsksLine s t (coreOf w) line e)) ∧
  (∀ (o : BOp) (s : State) (c : Issue), Runs s c →
    let core := coreOf c.who
    let count (o : BOp) : Nat := (o.mod.extractLsb' 0 3).toNat + 1
    let start (o : BOp) : DWord := BitVec.ofNat 64 ((c.pc + o.off.signExtend 64).toNat / 128 * 128)
    let found := translate s (s.tlbOf c.who) (s.cidOf c.who) (isAgent c.who) (start o) .fetch
    let waits := (s.core core).caches.prefetch
    (count o = 1 →
      (∀ f, found = .fault f → exec (.prfi o) s = .next s) ∧
      (∀ e, found = .ok e → HasLine s core (lineOf (e.place (start o))) → exec (.prfi o) s = .next s) ∧
      (∀ e, found = .ok e → ¬HasLine s core (lineOf (e.place (start o))) →
        ∃ t, exec (.prfi o) s = .next t ∧ AsksLine s t core (lineOf (e.place (start o))) e) ∧
      (∀ cid p, found = .ats cid p → ∃ t, exec (.prfi o) s = .next t ∧ t = { s with cores := t.cores } ∧ (∀ j ≠ core, t.core j = s.core j) ∧
        t.core core = { s.core core with caches := { (s.core core).caches with
          prefetch := if (cid, start o) ∈ waits then waits else waits ++ [(cid, start o)] } })) ∧
    ∀ first last : BOp, count o = count first + 1 → first.off = o.off → count last = 1 → start last = start o + BitVec.ofNat 64 (128 * count first) →
      ∃ t u, exec (.prfi first) s = .next t ∧ exec (.prfi last) t = .next u ∧ exec (.prfi o) s = .next u) ∧
  (∀ (core line : Nat) (s : State),
    let due : Prop := (∃ p ∈ (s.core core).caches.fills, p.1 = line ∧ p.2 ≤ s.now) ∧ s.isOwned line = false
    let bs := s.store.mem.read line 128
    (¬due → exec (.icacheLineFill core line) s = .next s) ∧
    (due → NoStash s → ∃ t out, exec (.icacheLineFill core line) s = .next t ∧ MemoryKept s t ∧
      t = { s with cores := t.cores, store := { s.store with l2 := t.store.l2, evict := t.store.evict } } ∧ (∀ j ≠ core, t.core j = s.core j) ∧
      t.core core = { s.core core with caches := { (s.core core).caches with
        icache := (t.core core).caches.icache, fills := (s.core core).caches.fills.filter (fun p => p.1 != line) } } ∧
      (∀ l, Sparse.look [] l (t.core core).caches.icache =
        if l = line then bs else if out = some l then [] else Sparse.look [] l (s.core core).caches.icache) ∧
      ((Sparse.ins line bs (s.core core).caches.icache).length ≤ 512 → out = none) ∧ (isLocal line = true → inL2 t line = true))) ∧
  ∀ (a : GroupAt) (k : Nat) (s : State) (r : InFlight),
    let w := Who.gang { core := a.core, bank := a.bank, slot := a.slot, slice := 0 }
    let g := s.groupOf w
    g.inflight[k]? = some r →
    ∀ p ∈ [(Instr.writeBack a k, true), (.fixedLatencyWriteBack a k, false)],
      (¬(r.due ≤ s.now ∧ r.held = false ∧ r.empties = p.2) → exec p.1 s = .next s) ∧
      (r.due ≤ s.now → r.held = false → r.empties = p.2 → (r.lanes.map Prod.fst).Nodup → ∃ t, exec p.1 s = .next t ∧ OnlyRegisters w s t ∧
        (t.groupOf w).inflight = g.inflight.eraseIdx k ∧
        (∀ key, let x := r.lanes.find? (fun x => x.1 == key)
          Sparse.look 0 key (t.groupOf w).lanes.v = (match x with | some x => x.2.1 | none => Sparse.look 0 key g.lanes.v) ∧
          Sparse.look false key (t.groupOf w).lanes.poison = (match x with | some x => x.2.2 | none => Sparse.look false key g.lanes.poison)) ∧
        (∀ n, (t.groupOf w).sreg n = (match r.sca with | some (m, x, _) => if n = m then x else g.sreg n | none => g.sreg n) ∧
          Sparse.look false n (t.groupOf w).sca.poison =
            (match r.sca with | some (m, _, b) => if n = m then b else Sparse.look false n g.sca.poison | none => Sparse.look false n g.sca.poison)) ∧
        t.groupOf w = { g with inflight := (t.groupOf w).inflight, lanes := { g.lanes with v := (t.groupOf w).lanes.v, poison := (t.groupOf w).lanes.poison },
                               sca := { g.sca with s := (t.groupOf w).sca.s, poison := (t.groupOf w).sca.poison } })

/-- R56, R58, R59, R64, R66, R67, R73, R116, R117, R119, R120, R128, R129, R283, R330, R331: a queued store performs once the order allows it: its
bytes and no others are then in memory, every other core's copy and every replica of its lines is gone, and its line is in the home slice where
it allocates; one to a kick page changes no memory and makes a kick. A write-combining entry that is written out joins the stores on their way
with its bytes together. A stash line is filled from its global line with its poison, and recalled with its bytes written back where it was
modified, left shared on a read and given up on a write. A snoop takes a core's ownership of a line, and with an invalidation its copy. -/
def Obligations.StoresAndCopies : Prop :=
  (∀ (core k : Nat) (s : State) (e : PendingStore), (s.core core).caches.stores[k]? = some e →
    let q := (s.core core).caches.stores
    let away (u : PendingStore) : Prop := ∃ b ∈ u.bytes, 2 ^ 61 ≤ b.1
    let first (x : Scope) (u : PendingStore) : Prop :=
      u.nt = false ∧ (x ∉ [Scope.slice, .grp, .core] ∨ u.stage2 = false) ∧ (x = .dom ∨ x = .sys ∨ ¬(away e ∨ away u))
    let ready : Prop := (∀ b ∈ e.bytes, s.isOwned (lineOf b.1) = false) ∧
      ∀ u ∈ q.take k, (∀ b ∈ e.bytes, u.byteAt b.1 = none) ∧ ∀ x, e.release = some x → ¬first x u
    (¬ready → exec (.storePerform core k) s = .next s) ∧
    (ready → kickOf s e = none → NoStash s → s.store.cut = [] → (e.bytes.map Prod.fst).Nodup → ∃ t, exec (.storePerform core k) s = .next t ∧
      (∀ b ∈ e.bytes, t.store.mem.byte b.1 = b.2) ∧ (∀ p, (∀ b ∈ e.bytes, b.1 ≠ p) → t.store.mem.byte p = s.store.mem.byte p) ∧
      (t.core core).caches.stores = q.eraseIdx k ∧ (∀ v, t.groupOf v = s.groupOf v) ∧ (∀ j, (t.core j).store = (s.core j).store) ∧
      (∀ j ≠ core, (t.core j).caches.stores = (s.core j).caches.stores ∧ ∀ b ∈ e.bytes, Sparse.look false (lineOf b.1) (t.core j).caches.l1 = false) ∧
      (∀ b ∈ e.bytes, ∀ x ∈ t.store.replicas, x.1 ≠ lineOf b.1) ∧
      (∀ line, e.alloc = true → e.bytes ≠ [] → isLocal line = true → (∀ b ∈ e.bytes, lineOf b.1 = line) → inL2 t line = true) ∧ t.host = s.host) ∧
    (∀ x, ready → kickOf s e = some x → s.store.cut = [] → ∃ t, exec (.storePerform core k) s = .next t ∧
      t = { s with cores := t.cores, host := { s.host with kicks := s.host.kicks ++ x.toList } } ∧ (∀ j ≠ core, t.core j = s.core j) ∧
      t.core core = { s.core core with caches := { (s.core core).caches with stores := q.eraseIdx k } })) ∧
  (∀ (core k : Nat) (s : State) (e : WcEntry), (s.core core).caches.wc[k]? = some e →
    (s.core core).caches.wc.find? (fun x => x.line == e.line) = some e →
    let c := (s.core core).caches
    ∃ t, exec (.storePerform core (c.stores.length + k)) s = .next t ∧ t = { s with cores := t.cores } ∧ (∀ j ≠ core, t.core j = s.core j) ∧
      t.core core = { s.core core with caches := { c with
        wc := c.wc.filter (fun x => x.line != e.line), nextStore := c.nextStore + 1
        stores := c.stores ++ [{ id := c.nextStore, op := c.nextStore, group := (e.threads.headD (0, 0)).1, lane := (e.threads.headD (0, 0)).2,
                                 bytes := e.bytes, stage2 := false, wc := true }] } }) ∧
  (∀ (core team win line : Nat) (s : State),
    let t0 := (s.core core).team team
    let w := Sparse.look {} win t0.stash
    let at' := t0.res.spbase + w.w + 128 * line
    (∀ own, ¬(t0.live = true ∧ w.valid = true ∧ line < w.n) → exec (.stashFill core team win line own) s = .next s) ∧
    (∀ own e, t0.live = true → w.valid = true → line < w.n → NoStash s → (s.core core).caches.stores = [] → (s.core core).caches.wc = [] →
      findEntry s ((s.core core).caches.tlb ++ s.engineTlb core) t0.cid false (w.g + BitVec.ofNat 64 (128 * line)) = .ok e →
      e.priv = false → e.rd = true → (own = true → e.wr = true) → e.mt = 0 → e.home ≠ 2 →
      let place := lineOf (e.place (w.g + BitVec.ofNat 64 (128 * line)))
      s.isOwned place = false → ∃ t, exec (.stashFill core team win line own) s = .next t ∧ (∀ v, t.groupOf v = s.groupOf v) ∧
        t.store.mem = s.store.mem ∧ (∀ i < 128, (t.core core).store.spad.byte (at' + i) = s.store.mem.byte (place + i)) ∧
        (∀ i < 32, Sparse.look false (at' / 4 + i) (t.core core).store.spadPoison = s.isPoisoned (place + 32 * (i / 8))) ∧
        (∀ p, (p < at' ∨ at' + 128 ≤ p) → (t.core core).store.spad.byte p = (s.core core).store.spad.byte p) ∧
        stashLine ((t.core core).team team) win line = some { place := place, owned := own }) ∧
    (∀ write, stashLine t0 win line = none → exec (.stashRecall core team win line write) s = .next s) ∧
    ∀ write l, stashLine t0 win line = some l → ∃ t, exec (.stashRecall core team win line write) s = .next t ∧
      (∀ v, t.groupOf v = s.groupOf v) ∧ (∀ j, (t.core j).store = (s.core j).store) ∧
      (∀ i < 128, t.store.mem.byte (l.place + i) =
        if l.owned then (s.core core).store.spad.byte (at' + i) else s.store.mem.byte (l.place + i)) ∧
      (∀ p, (p < l.place ∨ l.place + 128 ≤ p) → t.store.mem.byte p = s.store.mem.byte p) ∧
      stashLine ((t.core core).team team) win line = if write then none else some { l with owned := false }) ∧
  ∀ (core line : Nat) (inv : Bool) (s : State), (∀ e ∈ (s.core core).caches.stores, ∀ b ∈ e.bytes, lineOf b.1 ≠ lineOf line) →
    ∃ t, exec (.hostSnoop core line inv) s = .next t ∧ t = { s with cores := t.cores } ∧ (∀ j ≠ core, t.core j = s.core j) ∧
      t.core core = { s.core core with caches := { (s.core core).caches with l1 := (t.core core).caches.l1, l1own := (t.core core).caches.l1own } } ∧
      (∀ l, Sparse.look false l (t.core core).caches.l1own = if l = lineOf line then false else Sparse.look false l (s.core core).caches.l1own) ∧
      ∀ l, Sparse.look false l (t.core core).caches.l1 = if l = lineOf line ∧ inv = true then false else Sparse.look false l (s.core core).caches.l1

/-- R22 to R25, R30, R32, R85, R86, R237: a walk puts the leaf that it reaches into the TLBs of its unit's way and serves a prefetch that waits for its
page, or asks the host for the page once. The host's grant goes into the L3 banks of the dies that asked, and the waiting gangs try again; no
access granted becomes a page request, sent while the host's allotment has room; its refusal becomes a fault of the page; an invalidation
becomes a shootdown in every context of the PASID. A slice of the memory-side cache halves its counters after 2^20 requests, and its
control register's fields take a written value's, the lines no longer pinned staying as ordinary ones. -/
def Obligations.TranslationEvents : Prop :=
  (∀ (unit cid : Nat) (va : DWord) (kind : AccessKind) (s : State),
    let die := if unit < 640 then unit / 160 else (unit - 640) / 16
    let found := findEntry s (s.dieGrants die) cid false (BitVec.ofNat 64 (va60 va))
    let c := (s.core unit).caches
    ((cid, va) ∉ c.prefetch →
      (∀ e, found = .ok e → unit < 640 → ∃ t, exec (.pageWalk unit cid va kind) s = .next t ∧ t = { s with cores := t.cores, tlbs := t.tlbs } ∧
        (∀ j ≠ unit, t.core j = s.core j) ∧ t.core unit = { s.core unit with caches := { c with tlb := tlbAdd 128 c.tlb e } } ∧
        Cached s t [unit / 8, bankOf die e] e) ∧
      (∀ e n, found = .ok e → unit = 640 + n → ∃ t, exec (.pageWalk unit cid va kind) s = .next t ∧ t = { s with glens := t.glens, tlbs := t.tlbs } ∧
        (∀ j ≠ n, t.glen j = s.glen j) ∧ t.glen n = { s.glen n with tlb := tlbAdd 32 (s.glen n).tlb e } ∧ Cached s t [bankOf die e] e) ∧
      (∀ f, found = .fault f → exec (.pageWalk unit cid va kind) s = .next s)) ∧
    (∀ e, (cid, va) ∈ c.prefetch → unit < 640 → found = .ok e → e.priv = false → e.ex = true → ¬HasLine s unit (lineOf (e.place va)) →
      ∃ t, exec (.pageWalk unit cid va kind) s = .next t ∧ (t.core unit).caches.prefetch = c.prefetch.erase (cid, va) ∧
        (t.core unit).caches.fills = c.fills ++ [(lineOf (e.place va), s.now + codeLatency s (lineOf (e.place va)))]) ∧
    (∀ f, (cid, va) ∈ c.prefetch → found = .fault f → ∃ t, exec (.pageWalk unit cid va kind) s = .next t ∧ t = { s with cores := t.cores } ∧
      (∀ j ≠ unit, t.core j = s.core j) ∧ t.core unit = { s.core unit with caches := { c with prefetch := c.prefetch.erase (cid, va) } }) ∧
    ∀ x p, found = .ats x p →
      let asked : Prop := (die, x, p) ∈ s.ats.requests ∨ (die, x, p) ∈ s.ats.pages ∨ (die, x, p) ∈ s.ats.queued
      (asked → exec (.pageWalk unit cid va kind) s = .next s) ∧
      (¬asked → exec (.pageWalk unit cid va kind) s = .next { s with ats := { s.ats with requests := s.ats.requests ++ [(die, x, p)] } })) ∧
  (∀ (cid : Nat) (va : DWord) (s : State),
    let page := va60 va / 4096 * 4096
    let asks (r : Nat × Nat × Nat) : Bool := r.2.1 == cid && r.2.2 == page
    let asked := s.ats.requests.filter asks
    let rest := s.ats.requests.filter (fun r => !asks r)
    let sent (die : Nat) (ps : List (Nat × Nat × Nat)) : Nat := (ps.filter (fun q => q.1 == die)).length
    let woken (y : Slice) : Slice :=
      match y.run with
      | .waiting (.page c p) had => if c == cid && p.toNat == page then { y with run := .woken (.page c p :: had), ready := s.now, wake := 0 } else y
      | _ => y
    let wakes' (t : State) : Prop := MemoryKept s t ∧ t = { s with cores := t.cores, glens := t.glens, ats := t.ats, tlbs := t.tlbs } ∧
      (∀ k, t.core k = { s.core k with groups := (s.core k).groups.map (fun g => (g.1, { g.2 with slices := g.2.slices.map woken })) }) ∧
      ∀ n, t.glen n = { s.glen n with ctx := { (s.glen n).ctx with slices := (s.glen n).ctx.slices.map woken } }
    (∀ g : AtsGrant, s.ats.requests.any asks = false → exec (.atsCompletion cid va g) s = .next s) ∧
    (∀ g : AtsGrant, s.ats.requests.any asks = true → (g.rd || g.wr || g.untranslated) = true →
      ∃ t, exec (.atsCompletion cid va g) s = .next t ∧ wakes' t ∧ t.ats = { s.ats with requests := rest } ∧
        (∀ leaf, walk s cid page = .ok leaf → leaf.home = 1 →
          ∃ n e, n ∈ [4096, 8192, 16384, 32768, 65536] ∧ (n ≤ g.size ∨ n = 4096) ∧
            e = { leaf with vbase := page / n * n, size := n, pbase := g.addr / n * n, rd := leaf.rd && (g.rd || g.untranslated),
                            wr := leaf.wr && (g.wr || g.untranslated), ats := true, untranslated := g.untranslated } ∧
            Cached s t (asked.map (fun r => bankOf r.1 e)) e) ∧
        ((∀ leaf, walk s cid page = .ok leaf → leaf.home ≠ 1) → t.tlbs = s.tlbs)) ∧
    (∀ g : AtsGrant, s.ats.requests.any asks = true → (g.rd || g.wr || g.untranslated) = false →
      (s.ats.queued = [] → (∀ d, sent d s.ats.pages + sent d asked ≤ s.ats.limit) →
        exec (.atsCompletion cid va g) s = .next { s with ats := { s.ats with requests := rest, pages := s.ats.pages ++ asked } }) ∧
      ((∀ r ∈ s.ats.queued ++ asked, s.ats.limit ≤ sent r.1 s.ats.pages) →
        exec (.atsCompletion cid va g) s = .next { s with ats := { s.ats with requests := rest, queued := s.ats.queued ++ asked } })) ∧
    ∀ code, (s.ats.pages.any asks = false → exec (.pageRequestResponse cid va code) s = .next s) ∧
      (s.ats.pages.any asks = true → ∃ t, exec (.pageRequestResponse cid va code) s = .next t ∧ wakes' t ∧ t.tlbs = s.tlbs ∧
        t.ats = { s.ats with pages := t.ats.pages, queued := t.ats.queued,
                             refused := if code = .success ∨ (cid, page) ∈ s.ats.refused then s.ats.refused else s.ats.refused ++ [(cid, page)] } ∧
        let left := s.ats.pages.filter (fun r => !asks r)
        (s.ats.queued = [] → t.ats.pages = left ∧ t.ats.queued = []) ∧
        ∀ r, s.ats.queued = [r] → if sent r.1 left < s.ats.limit then t.ats.pages = left ++ [r] ∧ t.ats.queued = [] else t.ats.pages = left ∧ t.ats.queued = [r])) ∧
  (∀ (pasid : Nat) (va : DWord) (pages : Nat) (s : State), 1 ≤ pages →
    let lo := va60 va / 4096 * 4096
    let hi := lo + 4096 * pages
    let cids := boundTo s pasid
    ∃ t, exec (.atsInvalidation pasid va pages) s = .next t ∧ t = { s with ats := t.ats, host := t.host } ∧
      t.ats = { s.ats with refused := s.ats.refused.filter (fun r => !(cids.contains r.1 && decide (lo ≤ r.2) && decide (r.2 < hi))) } ∧
      (let shot (p : Nat × Nat) : Shoot :=
         { id := s.host.nextShoot + p.2, source := .host, scope := .range p.1 (BitVec.ofNat 64 (lo / 65536 * 65536)) ((hi - 1) / 65536 + 1 - lo / 65536) }
       t.host = { s.host with nextShoot := s.host.nextShoot + cids.length, shoots := s.host.shoots ++ cids.zipIdx.map shot })) ∧
  (∀ (n : Nat) (s : State),
    let m := Sparse.look {} n s.slices
    (m.requests < 2 ^ 20 → exec (.gatherCounterHalving n) s = .next s) ∧
    (2 ^ 20 ≤ m.requests → ∃ t, exec (.gatherCounterHalving n) s = .next t ∧ t = { s with slices := t.slices } ∧
      ∀ k, Sparse.look {} k t.slices = if k = n then { m with requests := m.requests - 2 ^ 20, counters := (m.counters.map (fun p => (p.1, p.2 / 2))).filter (fun p => p.2 != 0) }
        else Sparse.look {} k s.slices)) ∧
  ∀ (n : Nat) (x : DWord) (s : State), n < 128 →
    let m := Sparse.look {} n s.slices
    let size := if 13 ≤ (x.extractLsb' 4 4).toNat then m.size else (x.extractLsb' 4 4).toNat
    let pinned := if x.getLsbD 0 then m.pinned.take (512 * size) else []
    ∃ t, exec (.meadowControlWrite n x) s = .next t ∧ MemoryKept s t ∧
      t = { s with slices := t.slices, store := { s.store with l2 := t.store.l2, evict := t.store.evict } } ∧
      (∀ k, Sparse.look {} k t.slices =
        if k = n then { m with thresh := max 1 (x.extractLsb' 32 16).toNat, size := size, en := x.getLsbD 0, pinned := pinned } else Sparse.look {} k s.slices) ∧
      (∀ l, Sparse.look false l t.store.l2 = true → Sparse.look false l s.store.l2 = true ∨ l ∈ m.pinned ∧ l ∉ pinned) ∧
      ∀ l, l ∈ m.pinned → l ∉ pinned → homeSlice l = n → s.store.l2.length + m.pinned.length ≤ 24576 - 512 * size → Sparse.look false l t.store.l2 = true

/-! ## Teams and grids (R39 to R41, R141, R167 to R172, R344 to R346, R348 to R352, R358) -/

/-- Only the claim of core `k` changes. -/
def ClaimBecomes (s t : State) (k : Nat) (q : Option Claim) : Prop :=
  t = { s with cores := t.cores } ∧ (∀ j ≠ k, t.core j = s.core j) ∧ t.core k = { s.core k with crew := { (s.core k).crew with claim := q } }

/-- R41, R48, R69, R141, R167 to R169, R307, R344 to R346: an agent without an unplaced team takes the next index of the open grid that goes first
by priority, start sequence and die. The team becomes resident where every resource fits: scratchpad and tiles cleared, flags and rings
cleared with their generation advanced, the core's instruction cache empty where it is the grid's first team there, each group at its entry with s0 to s5,
its window and its slot of the local memory and every other element zero; one that
does not fit waits, may go to another agent of its die, and after 4,096 cycles reserves what is freed. Which agent a waiting team goes to is the agenda's choice (log entry 1). -/
def Obligations.TeamPlacement : Prop :=
  ∀ (k : Nat) (s : State),
    ((s.core k).crew.claim ≠ none ∨ claimable s k = [] → exec (.teamClaim k) s = .next s) ∧
    (∀ d n g, (s.core k).crew.claim = none → (d, n, g) ∈ claimable s k → s.grid d n = g →
      (∀ y ∈ claimable s k, y = (d, n, g) ∨ y.2.2.prio < g.prio ∨
        (y.2.2.prio = g.prio ∧ (g.seq < y.2.2.seq ∨ (g.seq = y.2.2.seq ∧ d < y.1)))) →
      let i := match g.saves with | .unstarted j :: _ => j | _ => g.ticket
      ∃ t, exec (.teamClaim k) s = .next t ∧ ClaimBecomes { s with dies := t.dies } t k (some { die := d, grid := n, t := i, since := s.now }) ∧
        (∀ d', { t.die d' with grids := [] } = { s.die d' with grids := [] }) ∧
        ∀ d' n', t.grid d' n' = if d' = d ∧ n' = n then (match g.saves with | _ :: r => { g with saves := r } | [] => { g with ticket := g.ticket + 1 })
          else s.grid d' n') ∧
    ((s.core k).crew.claim = none → exec (.teamPlace k) s = .next s ∧ (∀ j, exec (.teamHandoff k j) s = .next s) ∧
      exec (.placementReserveTimeout k) s = .next s) ∧
    ∀ q, (s.core k).crew.claim = some q →
      let g := s.grid q.die q.grid
      let l := g.launch
      let kn := l.kernel
      let m := kn.need.groups.length + (if kn.trsb = 0 then 0 else 1)
      let later : Prop := q.phase = .waiting ∧ q.since + 4096 ≤ s.now
      (findPlace (s.core k) (occOf s k) l.cid kn.need = none ∨ localSlots g m = none →
        (q.phase = .claimed → ∃ t, exec (.teamPlace k) s = .next t ∧ ClaimBecomes s t k (some { q with phase := .waiting, since := s.now })) ∧
        (q.phase ≠ .claimed → exec (.teamPlace k) s = .next s)) ∧
      (∀ p slots, findPlace (s.core k) (occOf s k) l.cid kn.need = some p → localSlots g m = some slots →
        let res : TeamRes :=
          { spbase := p.spbase, spsize := kn.spsize, abase := p.abase, nacc := kn.nacc, fbase := p.fbase, nflags := kn.nflags, rings := p.rings,
            slots := slots, taskBase := p.taskBase, localSlot := slots.getLastD 0 }
        let x := BitVec.ofNat 32 (q.t % l.gx)
        let y := BitVec.ofNat 32 (q.t / l.gx % l.gy)
        let z := BitVec.ofNat 32 (q.t / (l.gx * l.gy))
        ∃ t, exec (.teamPlace k) s = .next t ∧ t = { s with cores := t.cores, dies := t.dies } ∧ (∀ j ≠ k, t.core j = s.core j) ∧
          { t.core k with groups := [], crew := {}, store := {}, flags := [], rings := [], caches := {} } =
            { s.core k with groups := [], crew := {}, store := {}, flags := [], rings := [], caches := {} } ∧
          (t.core k).caches = (if k ∈ g.visited then (s.core k).caches else { (s.core k).caches with icache := [] }) ∧
          (t.core k).crew = { (s.core k).crew with claim := none, teams := (t.core k).crew.teams, bankCid := (t.core k).crew.bankCid } ∧
          (∀ b, Sparse.look 0 b (t.core k).crew.bankCid = if b = p.bank then l.cid else Sparse.look 0 b (s.core k).crew.bankCid) ∧
          (∀ j, (t.core k).team j = if j = 8 * p.bank + p.team then
            { live := true, die := q.die, grid := q.grid, tidx := q.t, x := x, y := y, z := z, kidx := l.kidx, code := l.code, args := l.args,
              cid := l.cid, queue := l.queue, barriers := kn.barriers, res := res }
            else (s.core k).team j) ∧
          (∀ a, (t.core k).store.spad.byte a = if p.spbase ≤ a ∧ a < p.spbase + kn.spsize then 0 else (s.core k).store.spad.byte a) ∧
          (∀ w, Sparse.look false w (t.core k).store.spadPoison =
            if p.spbase / 4 ≤ w ∧ w < (p.spbase + kn.spsize) / 4 then false else Sparse.look false w (s.core k).store.spadPoison) ∧
          (let tile (e : Nat) : Prop := 1024 * p.abase ≤ e ∧ e < 1024 * (p.abase + kn.nacc)
           ∀ e, (tile e → Sparse.look 0 e (t.core k).store.tiles = 0 ∧ Sparse.look false e (t.core k).store.lost = false ∧
              Sparse.look false e (t.core k).store.tilePoison = false) ∧
            (¬tile e → Sparse.look 0 e (t.core k).store.tiles = Sparse.look 0 e (s.core k).store.tiles ∧
              Sparse.look false e (t.core k).store.lost = Sparse.look false e (s.core k).store.lost ∧
              Sparse.look false e (t.core k).store.tilePoison = Sparse.look false e (s.core k).store.tilePoison)) ∧
          (∀ n, t.flagOf k n = if p.fbase ≤ n ∧ n < p.fbase + kn.nflags then { gen := (s.flagOf k n).gen + 1, last := (s.flagOf k n).last } else s.flagOf k n) ∧
          (∀ r, t.ring k r = if r ∈ p.rings then { gen := (s.ring k r).gen + 1 } else s.ring k r) ∧
          (∀ d n, (d ≠ q.die ∨ n ≠ q.grid) → t.grid d n = s.grid d n) ∧
          t.grid q.die q.grid = { g with slots := (t.grid q.die q.grid).slots, visited := if k ∈ g.visited then g.visited else g.visited ++ [k] } ∧
          (∀ n, Sparse.look false n (t.grid q.die q.grid).slots = (Sparse.look false n g.slots || slots.contains n)) ∧
          (∀ d, { t.die d with grids := [] } = { s.die d with grids := [] }) ∧
          (∀ b n, (b ≠ p.bank ∨ n ∉ p.slots) → n < 16 → t.groupAt k b n = s.groupAt k b n) ∧
          ∀ i sl role r num h b, p.slots[i]? = some sl → (rolesOf kn)[i]? = some (role, r, num) → p.regs[i]? = some (h, b) →
            let w := t.groupAt k p.bank sl
            let pc := l.code + BitVec.ofNat 64 (l.entry + r.entry)
            w = { gid := { live := true, team := p.team, role := role, prio := r.prio, num := i, half := r.half, hnum := h, rsb := r.rsb, rbase := 512 * p.bank + 64 * b }
                  sca := { s := w.sca.s }
                  win := { ws := r.win, sp := BitVec.ofNat 32 (32 * l.lsz), lim := BitVec.ofNat 32 (32 * l.lsz - 32 * l.lstk),
                           lsize := BitVec.ofNat 32 (32 * l.lsz), lbase := l.local' + BitVec.ofNat 64 (1024 * l.lsz * slots.getD i 0) }
                  slices := List.replicate (if r.half then 4 else 8) { pc := pc, fmt := kn.fmt, ready := s.now, since := s.now }
                  exposed := l.exposed } ∧
              w.sreg 0 = l.args ∧ w.sreg 1 = x.setWidth 64 ∧ w.sreg 2 = y.setWidth 64 ∧ w.sreg 3 = z.setWidth 64 ∧ w.sreg 4 = BitVec.ofNat 64 num ∧
              w.sreg 5 = BitVec.ofNat 64 role ∧ ∀ n ≥ 6, w.sreg n = 0) ∧
      (∀ j,
        let ok : Prop := q.phase = .waiting ∧ k ≠ j ∧ dieOfCore k = dieOfCore j ∧ (s.core j).crew.claim = none ∧ coreServes s j l.cid = true
        (¬ok → exec (.teamHandoff k j) s = .next s) ∧
        (ok → ∃ t, exec (.teamHandoff k j) s = .next t ∧ t = { s with cores := t.cores } ∧ (∀ i, i ≠ k → i ≠ j → t.core i = s.core i) ∧
          t.core k = { s.core k with crew := { (s.core k).crew with claim := none } } ∧
          t.core j = { s.core j with crew := { (s.core j).crew with claim := some { q with phase := .claimed, since := s.now } } })) ∧
      (¬later → exec (.placementReserveTimeout k) s = .next s) ∧
      (later → ∃ t, exec (.placementReserveTimeout k) s = .next t ∧ ClaimBecomes s t k (some { q with phase := .reserving, before := some (occOf s k) }))

/-- R39, R40, R67, R144, R168, R171, R172, R235, R346, R358: the oldest queued task that can start becomes a full-width group of its team, at its entry with
s0 to s3 its arguments, s4 and s5 as R171 says, in the team's task registers. A team all of whose groups have exited, without tasks or commands, retires once
its stores have performed: its place and its rings are free, its counters are added into its grid's sums, its local slots are free, the grid's DONE goes up; one that was ended by a stop takes the
unclaimed teams of the grid with it. A grid all of whose teams are done writes its report, which a fault abandons, gives up its replicas and closes, and its
LAUNCH's work is done; where a stop ended a team its queue is in ERROR with cause 0x0F. A gang that has been
issuable and unchosen for 256 cycles takes the highest priority. The number of a task group in its team is the model's reading: log entry 26. -/
def Obligations.TeamRuns : Prop :=
  (∀ (k : Nat) (s : State),
    ((∀ q ∈ (s.core k).crew.tasks, taskSlot s k q = none) → exec (.taskStart k) s = .next s) ∧
    ∀ q pre post key, (s.core k).crew.tasks = pre ++ q :: post → (∀ x ∈ pre, taskSlot s k x = none) → taskSlot s k q = some key → q.args.length = 4 →
      let t0 := (s.core k).team q.team
      let l := (s.grid t0.die t0.grid).launch
      ∃ t, exec (.taskStart k) s = .next t ∧ t = { s with cores := t.cores } ∧ (∀ j ≠ k, t.core j = s.core j) ∧
        t.core k = { s.core k with groups := (t.core k).groups, crew := { (s.core k).crew with tasks := pre ++ post } } ∧
        (∀ j ≠ key, (t.core k).groupK j = (s.core k).groupK j) ∧
        let g := (t.core k).groupK key
        g = { gid := { live := true, team := q.team % 8, role := q.role, prio := ((l.kernel.roles[q.role]?).map Role.prio).getD 0, num := g.gid.num,
                       rsb := 64 * l.kernel.trsb, rbase := g.gid.rbase, task := true }
              sca := { s := g.sca.s }
              win := { ws := l.kernel.twin, sp := BitVec.ofNat 32 (32 * l.lsz), lim := BitVec.ofNat 32 (32 * l.lsz - 32 * l.lstk),
                       lsize := BitVec.ofNat 32 (32 * l.lsz), lbase := l.local' + BitVec.ofNat 64 (1024 * l.lsz * t0.res.localSlot) }
              slices := List.replicate 8 { pc := q.entry, fmt := l.kernel.fmt, ready := s.now, since := s.now }
              exposed := l.exposed } ∧
          some g.gid.rbase = t0.res.taskBase ∧ (∀ i < 4, some (g.sreg i) = q.args[i]?) ∧ g.sreg 4 = BitVec.ofNat 64 (16 + key % 16) ∧
          g.sreg 5 = BitVec.ofNat 64 q.role ∧ ∀ i ≥ 6, g.sreg i = 0) ∧
  (∀ (k n : Nat) (s : State),
    let t0 := (s.core k).team n
    let ok : Prop := t0.live = true ∧ liveGroups (s.core k) n = [] ∧ (∀ q ∈ (s.core k).crew.tasks, q.team ≠ n) ∧ ∀ d ∈ (s.core k).cmds, d.team ≠ n
    let ended := t0.ending.isSome
    let g := s.grid t0.die t0.grid
    (¬ok → exec (.teamRetire k n) s = .next s) ∧
    (ok → (∃ e ∈ (s.core k).caches.stores, e.group ∈ teamGroups (s.core k) n ∧ ∃ b ∈ e.bytes, s.isOwned (lineOf b.1) = true) →
      ∃ t, exec (.teamRetire k n) s = .next t ∧ ((t.core k).team n).live = true ∧ t.dies = s.dies) ∧
    (ok → storesOut (s.core k) (teamGroups (s.core k) n) = false → t0.stash = [] → (t0.counters.map Prod.fst).Nodup →
      ∃ t, exec (.teamRetire k n) s = .next t ∧ t = { s with cores := t.cores, dies := t.dies } ∧
      (∀ j ≠ k, t.core j = s.core j) ∧ { t.core k with groups := [], crew := {}, rings := [] } = { s.core k with groups := [], crew := {}, rings := [] } ∧
      (t.core k).crew = { (s.core k).crew with teams := (t.core k).crew.teams, bankCid := (t.core k).crew.bankCid, tried := [] } ∧
      (∀ m, (t.core k).team m = if m = n then {} else (s.core k).team m) ∧
      (∀ key, (t.core k).groupK key = if key ∈ teamGroups (s.core k) n then {} else (s.core k).groupK key) ∧
      (∀ r, t.ring k r = if r ∈ t0.res.rings then { gen := (s.ring k r).gen } else s.ring k r) ∧
      (∀ d, { t.die d with grids := [] } = { s.die d with grids := [] }) ∧
      (∀ d j, (d ≠ t0.die ∨ j ≠ t0.grid) → t.grid d j = s.grid d j) ∧
      let h := t.grid t0.die t0.grid
      h = { g with done := g.done + 1 + (if ended then g.teams - g.ticket else 0), ticket := if ended then g.teams else g.ticket, failed := g.failed || ended,
                   summed := g.summed + 1, saturated := g.saturated || t0.saturated, agent := k, slots := h.slots, sums := h.sums } ∧
        (∀ j, Sparse.look false j h.slots = (Sparse.look false j g.slots && !t0.res.slots.contains j)) ∧
        ∀ c, Sparse.look 0 c h.sums = if c ∈ t0.counters.map Prod.fst then (Sparse.look 0 c g.sums + Sparse.look 0 c t0.counters) % 2 ^ 64 else Sparse.look 0 c g.sums)) ∧
  (∀ (d n : Nat) (s : State),
    let g := s.grid d n
    let l := g.launch
    let ok : Prop := g.live = true ∧ g.done = g.teams ∧ g.phase ≠ .closed
    let closes (t : State) : Prop := t.grid d n = { g with phase := .closed } ∧ (∀ d' n', (d' ≠ d ∨ n' ≠ n) → t.grid d' n' = s.grid d' n') ∧
      ∀ j, t.queue j = if j = l.queue then
        { s.queue j with packets := (s.queue j).packets.map (fun p => if p.index == l.packet then { p with finished := true } else p) } else s.queue j
    (¬ok → exec (.gridComplete d n) s = .next s) ∧
    (ok → g.failed = false → l.report = 0 → ∃ t, exec (.gridComplete d n) s = .next t ∧ closes t ∧
      t = { s with dies := t.dies, host := t.host, store := { s.store with replicas := s.store.replicas.filter (fun r => r.2.2 != 256 * d + n) } }) ∧
    (ok → g.failed = false → l.report ≠ 0 → NoStash s → ∀ ps, agentReach s g.agent l.cid .write (runPieces l.report 8256) = .ok ps →
      (∀ x ∈ ownedLines ps, s.isOwned x = false) → (placesOf ps).Nodup →
      ∃ t, exec (.gridComplete d n) s = .next t ∧ closes t ∧ (∀ v, t.groupOf v = s.groupOf v) ∧ (∀ k, (t.core k).store = (s.core k).store) ∧
        (∀ p, p ∉ placesOf ps → t.store.mem.byte p = s.store.mem.byte p) ∧
        let field (off len x : Nat) : Prop := ∀ i < len, ∀ p, (placesOf ps)[off + i]? = some p → t.store.mem.byte p = BitVec.ofNat 8 (x / 256 ^ i)
        field 0 4 1 ∧ field 4 4 (if g.saturated then 1 else 0) ∧ field 8 8 g.summed ∧ field 16 48 0 ∧ ∀ c < 1024, field (64 + 8 * c) 8 (Sparse.look 0 c g.sums)) ∧
    (ok → g.failed = false → l.report ≠ 0 → ∀ va f kind, agentReach s g.agent l.cid .write (runPieces l.report 8256) = .error (.fault va f kind) →
      ∃ t, exec (.gridComplete d n) s = .next t ∧ closes t ∧ ∀ v, t.groupOf v = s.groupOf v) ∧
    (ok → g.failed = true → l.report = 0 → (s.queue l.queue).live = true → (s.queue l.queue).phase ≠ .held →
      ∃ t, exec (.gridComplete d n) s = .next t ∧ t.grid d n = { g with phase := .closed } ∧ (t.queue l.queue).phase = .error ∧ (t.queue l.queue).cause = 0x0F ∧
        ∀ v, t.groupOf v = s.groupOf v)) ∧
  ∀ (a : GangAt) (s : State),
    let g := s.groupAt a.core a.bank a.slot
    let y := g.slice a.slice
    let ok : Prop := g.gid.live = true ∧ (y.run = .running ∨ ∃ h, y.run = .woken h) ∧ a.slice ∈ g.gangOf a.slice ∧ y.debugStopped = false ∧
      Sparse.look false a.bank (s.core a.core).crew.frozen = false ∧ max y.since y.ready + 256 ≤ s.now
    (¬ok → exec (.gangPriorityAging a) s = .next s) ∧
    (ok → ∃ t, exec (.gangPriorityAging a) s = .next t ∧ GroupBecomes s t (.gang a) (fun h => h.onSlices (g.gangOf a.slice) (fun x => { x with aged := true })))

/-! ## Save images (R255, R256, R349 to R352, R361 to R363) -/

/-- The sections of an image at an address can be read through a context by a core's agent, no line of them is held, its header keeps its limits, and
`rd` reads its bytes (R136, R361, R363). -/
def ImageRead (s : State) (k space : Nat) (va : DWord) (rd : ImgReader) : Prop :=
  ∃ hs, agentReach s k space .read (runPieces va 256) = .ok hs ∧ headerOk (readerOf s hs) = true ∧
    (let size := readerOf s hs 8 8
     let ps := (agentPrefix s k space .read (runPieces va (min size (2 ^ 22)))).1
     256 ≤ size ∧ rd = readerOf s ps ∧ (imgPlan rd).size ≤ size ∧ (imgPlan rd).size ≤ (ps.map EPiece.bytes).sum ∧ ∀ l ∈ ownedLines ps, s.isOwned l = false)

/-- The team of an image without commands stands on core `k` at a place: its indices, its place in its grid, its stash
windows without lines and its queued tasks; the scratchpad, the tiles and the flags and rings with a new generation hold what the image has; so do its groups'
windows, scalar and lane registers, translation and stream registers, codebooks and patterns, and their slices' program counters, formats, gangs and stacks (R256,
R361, R362). -/
def TeamStands (s u : State) (k : Nat) (rd : ImgReader) (sp : Spot) : Prop :=
  let p := imgPlan rd
  let l := (s.grid p.die p.grid).launch
  let team := 8 * sp.bank + sp.team
  let tm := (u.core k).team team
  let word (o : Nat) : Word := BitVec.ofNat 32 (rd o 4)
  let long (o : Nat) : DWord := BitVec.ofNat 64 (rd o 8)
  tm = { live := true, die := p.die, grid := p.grid, tidx := p.tidx, x := BitVec.ofNat 32 (p.tidx % l.gx), y := BitVec.ofNat 32 (p.tidx / l.gx % l.gy)
         z := BitVec.ofNat 32 (p.tidx / (l.gx * l.gy)), kidx := l.kidx, code := l.code, args := l.args, cid := l.cid, queue := l.queue
         barriers := l.kernel.barriers, res := tm.res, stash := tm.stash } ∧
    tm.res = { tm.res with spbase := sp.spbase, spsize := p.spsize, abase := sp.abase, nacc := p.nacc, fbase := sp.fbase, nflags := p.nflags
                           rings := sp.rings, taskBase := sp.taskBase } ∧
    (∀ i < 8, Sparse.look {} i tm.stash =
      let o := p.stash + 16 * i
      if rd (o + 14) 1 = 0 then {} else { valid := true, g := long o, w := rd (o + 8) 4, n := rd (o + 12) 2 }) ∧
    (u.core k).crew.tasks = (s.core k).crew.tasks ++ (List.range p.ntask).map (fun i =>
      let o := p.tasks + 48 * i
      { entry := long o, args := (List.range 4).map (fun j => long (o + 8 + 8 * j)), role := rd (o + 40) 1, team := team }) ∧
    (∀ i < p.spsize, (u.core k).store.spad.byte (sp.spbase + i) = BitVec.ofNat 8 (rd (p.spad + i) 1)) ∧
    (∀ a, (a < sp.spbase ∨ sp.spbase + p.spsize ≤ a) → (u.core k).store.spad.byte a = (s.core k).store.spad.byte a) ∧
    (∀ n < p.nacc, ∀ e < 1024, Sparse.look 0 (1024 * (sp.abase + n) + e) (u.core k).store.tiles = word (p.tiles + 4224 * n + 4 * e) ∧
      Sparse.look false (1024 * (sp.abase + n) + e) (u.core k).store.lost = imgBit rd (p.tiles + 4224 * n + 4096) e) ∧
    (∀ i < p.nflags, u.flagOf k (sp.fbase + i) = { value := word (p.flags + 16 * i), err := rd (p.flags + 16 * i + 4) 1 == 1
                                                   last := word (p.flags + 16 * i + 8), gen := (s.flagOf k (sp.fbase + i)).gen + 1 }) ∧
    (∀ i r, i < p.nrings → sp.rings[i]? = some r →
      let x := u.ring k r
      let o := p.rings + 16 * i
      x.gen = (s.ring k r).gen + 1 ∧ x.valid = decide (2 ^ 63 ≤ rd o 8) ∧
        (x.valid = true → x.base = rd o 8 % 2 ^ 19 ∧ x.slotsz = rd o 8 / 2 ^ 28 % 2 ^ 12 ∧ x.count = rd o 8 / 2 ^ 44 % 2 ^ 9 ∧ x.head = rd (o + 8) 2 ∧
          x.tail = rd (o + 10) 2 ∧ x.rsv = rd (o + 12) 2 ∧ x.clm = rd (o + 14) 2 ∧
          x.own = (List.range 32).filterMap (fun j => readOwn rd (p.own + 256 * i + 8 * j)))) ∧
    ∀ i o, p.blocks[i]? = some o →
      let g := u.groupAt k sp.bank (sp.slots.getD i 0)
      let task := blockFlag rd o 4
      let at' := sp.regs.getD i (0, 0)
      g.gid = { live := true, team := sp.team, role := rd o 1, prio := ((l.kernel.roles[rd o 1]?).map Role.prio).getD 0, num := i, half := blockFlag rd o 0
                hnum := if task then 0 else at'.1, rsb := blockRsb rd o
                rbase := if task then sp.taskBase.getD 0 else 512 * sp.bank + 64 * at'.2, task := task } ∧
        g.vliw = blockFlag rd o 2 ∧ g.exposed = blockFlag rd o 3 ∧
        g.win = { wb := rd (o + 4) 2, ws := rd (o + 6) 1, bot := rd (o + 8) 2, sp := word (o + 16), lim := word (o + 20), lbase := long (o + 24)
                  lsize := word (o + 32) } ∧
        (∀ n < 32, g.sreg n = long (o + 0x40 + 8 * n)) ∧
        (∀ n < 8, g.xreg n = readXreg rd p.cid (o + 0x150 + 24 * n) ∧ Sparse.look 0 n g.xpat = long (o + 0x290 + 8 * n) ∧
          (g.stream n).buf = rd (o + 0x2D0 + 16 * n) 4 ∧ (g.stream n).size = rd (o + 0x2D4 + 16 * n) 4 ∧
          (g.stream n).arrived = rd (o + 0x2D8 + 16 * n) 4 ∧ (g.stream n).pos = rd (o + 0x2DC + 16 * n) 4) ∧
        (∀ n < 64, g.cb n = BitVec.ofNat 16 (rd (o + 0x210 + 2 * n) 2)) ∧
        (∀ r < blockRsb rd o, ∀ x < 32, Sparse.look 0 (32 * (g.gid.rbase + r) + x) g.lanes.v = word (o + 0x14C0 + 4 * (32 * r + x))) ∧
        (∀ n < 128, Sparse.look 0 n g.lanes.rng = word (o + 0x1020 + 4 * n)) ∧
        g.slices.length = (if blockFlag rd o 0 then 4 else 8) ∧
        ∀ j < g.slices.length,
          let y := g.slice j
          let q := o + 0x350 + 24 * j
          y.pc = long q ∧ y.fmt = word (q + 8) ∧ y.gang = rd (q + 13) 1 ∧ y.exited = (rd (q + 14) 1 % 2 == 1) ∧ y.atRegang = (rd (q + 14) 1 / 2 % 2 == 1) ∧
            y.debugStopped = (rd (q + 14) 1 / 4 % 2 == 1) ∧ y.stack'.length = rd (q + 12) 1 ∧
            ∀ d e, y.stack'.reverse[d]? = some e → e = readEntry rd (o + 0x410 + 384 * j + 24 * d)

/-- An image that passes its checks and fits in one of the banks, of a team without commands, about whose gangs no record waits. -/
def ImageFits (s : State) (k space : Nat) (va : DWord) (banks : List Nat) (rd : ImgReader) (sp : Spot) : Prop :=
  let p := imgPlan rd
  let g := s.grid p.die p.grid
  ImageRead s k space va rd ∧ imageOk rd p g = true ∧ banks.findSome? (fun b => restoreSpot s k b g.launch.kernel p) = some sp ∧ p.ncmd = 0 ∧
    ∀ o ∈ s.host.outs, ∀ grp ks x after, o.about ≠ .saved space va grp ks x after

/-- R26, R39, R48, R136, R255, R256, R307, R344, R349 to R352, R361 to R363: CTXSAVE of a team that is not resident, or to an address that is not a multiple of
4 KiB, gives 0; of another it stops the team's issue and waits until the team's results, commands and stores are complete, then writes
the image, frees the team's resources and gives the number of bytes; a fault of the write gives 0 and leaves the team. The image's header names the team.
CTXLOAD of an image that fails its checks or finds no place gives all ones and changes nothing; a fault of the read stops it with cause 0x01; of another it gives
the bank and the team's number, and the team stands with what the image holds, here of an image without commands. The agents restore the oldest image of the first
open grid that has one; where it does not fit it stays in the grid's list and is told. The address of a grid record in an image is the model's: log entry 27. -/
def Obligations.TeamImages : Prop :=
  (∀ (c : Core) (team : Nat) (stash : Sparse StashWin),
    let bs := imageBytes c team stash
    let t := c.team team
    let at' (off n : Nat) : Nat := leNat ((bs.drop off).take n)
    at' 0 4 = 0x5A4B5349 ∧ at' 4 2 = 1 ∧ at' 6 1 = (imageGroups c team).length % 256 ∧ at' 8 8 = (teamSizes c team).2 % 2 ^ 64 ∧
      at' 0x10 2 = t.cid % 2 ^ 16 ∧ at' 0x12 2 = t.kidx % 2 ^ 16 ∧ at' 0x15 1 = t.res.nacc % 256 ∧ at' 0x16 1 = t.res.nflags % 256 ∧
      at' 0x17 1 = t.res.rings.length % 256 ∧ at' 0x18 4 = t.res.spsize % 2 ^ 32 ∧ at' 0x1C 4 = t.tidx % 2 ^ 32 ∧ at' 0x28 8 = t.code.toNat ∧
      at' 0x30 8 = t.args.toNat ∧ at' 0x38 4 = t.x.toNat ∧ at' 0x3C 4 = t.y.toNat ∧ at' 0x40 4 = t.z.toNat) ∧
  (∀ (o : ROp) (s : State) (c : Issue), ScalarRuns s c o.at' → isGlen c.who = false →
    let k := coreOf c.who
    let n := (c.sval o.a).toNat % 16
    let va := c.sval o.b
    let space := s.cidOf c.who
    let t0 := (s.core k).team n
    (t0.live = false ∨ va.toNat % 4096 ≠ 0 → ∃ t, exec (.ctxsave o) s = .next t ∧ ScalarResult s t c o.d 2 false 0) ∧
    (t0.live = true → va.toNat % 4096 = 0 → t0.parked = false ∨ ((s.core k).caches.stores = [] ∧ (s.core k).caches.wc = [] ∧ saveReady s k n = false) →
      ∃ t, exec (.ctxsave o) s = .next t ∧ OnlyIssue s t ∧ t.issue = some { c with status := .wait (.save n) }) ∧
    (t0.live = true → va.toNat % 4096 = 0 → t0.parked = true → (s.core k).caches.stores = [] → (s.core k).caches.wc = [] → saveReady s k n = true → NoStash s →
      s.store.cut = [] → t0.stash = [] → (∀ j f, (s.flagOf j f).held = []) →
      let bs := imageBytes (s.core k) n []
      (∀ a f x, agentReach s k space .write (runPieces va bs.length) = .error (.fault a f x) →
        ∃ u t, exec (.ctxsave o) s = .next t ∧ ScalarResult u t c o.d 2 false 0 ∧ (u.core k).team n = t0 ∧ ∀ v, u.groupOf v = s.groupOf v) ∧
      ∀ ps, agentReach s k space .write (runPieces va bs.length) = .ok ps → (∀ x ∈ ownedLines ps, s.isOwned x = false) → (placesOf ps).Nodup →
        ∃ u t, exec (.ctxsave o) s = .next t ∧ ScalarResult u t c o.d 2 false (BitVec.ofNat 64 bs.length) ∧ u.issue = s.issue ∧
          (∀ (i p : Nat) (b : Byte), (placesOf ps)[i]? = some p → bs[i]? = some b → u.store.mem.byte p = b) ∧
          (∀ p, p ∉ placesOf ps → u.store.mem.byte p = s.store.mem.byte p) ∧
          (u.core k).team n = {} ∧ (∀ m ≠ n, (u.core k).team m = (s.core k).team m) ∧ (∀ key, (u.core k).groupK key = if key ∈ teamGroups (s.core k) n then {} else (s.core k).groupK key) ∧
          (∀ j ≠ k, (u.core j).groups = (s.core j).groups) ∧ (u.core k).crew.tasks = (s.core k).crew.tasks.filter (fun q => q.team != n) ∧
          (u.core k).cmds = (s.core k).cmds.filter (fun y => !(s.core k).cmds.any (fun d => d.team == n && d.id == y.id)) ∧
          ∃ x ∈ u.host.saved, x.img = va ∧ x.space = space ∧ x.cid = t0.cid ∧ x.slots = t0.res.slots)) ∧
  (∀ (o : ROp) (s : State) (c : Issue), ScalarRuns s c o.at' → isGlen c.who = false → NoStash s →
    let k := coreOf c.who
    let bank := (c.sval o.a).toNat / 8 % 2
    let va := c.sval o.b
    let space := s.cidOf c.who
    (∀ a f x, agentReach s k space .read (runPieces va 256) = .error (.fault a f x) → ∃ t, exec (.ctxload o) s = .next t ∧ OnlyIssue s t ∧
      t.issue = some { c with status := .stop { code := 0x01, slot := slotNumber o.at'.slot, rpl := f.rpl, xlat := xlatDetail s space f x a } }) ∧
    (∀ hs, agentReach s k space .read (runPieces va 256) = .ok hs →
      let size := readerOf s hs 8 8
      headerOk (readerOf s hs) = false ∨ size < 256 ∨
        size < (imgPlan (readerOf s (agentPrefix s k space .read (runPieces va (min size (2 ^ 22)))).1)).size →
      ∃ t, exec (.ctxload o) s = .next t ∧ ScalarResult s t c o.d 2 false (BitVec.allOnes 64)) ∧
    (∀ rd, ImageRead s k space va rd → imageOk rd (imgPlan rd) (s.grid (imgPlan rd).die (imgPlan rd).grid) = false ∨
        restoreSpot s k bank (s.grid (imgPlan rd).die (imgPlan rd).grid).launch.kernel (imgPlan rd) = none →
      ∃ t, exec (.ctxload o) s = .next t ∧ ScalarResult s t c o.d 2 false (BitVec.allOnes 64)) ∧
    ∀ rd sp, ImageFits s k space va [bank] rd sp →
      ∃ u t, exec (.ctxload o) s = .next t ∧ ScalarResult u t c o.d 2 false (BitVec.ofNat 64 (8 * bank + sp.team)) ∧ sp.bank = bank ∧ TeamStands s u k rd sp ∧
        u.store.mem = s.store.mem) ∧
  ∀ (k : Nat) (s : State), NoStash s →
    (restorable s k = [] → exec (.teamRestore k) s = .next s) ∧
    ∀ d n g a, (d, n, g) ∈ restorable s k → s.grid d n = g → oldestImage g = some a →
      (∀ y ∈ restorable s k, y = (d, n, g) ∨ y.2.2.prio < g.prio ∨
        (y.2.2.prio = g.prio ∧ (g.seq < y.2.2.seq ∨ (g.seq = y.2.2.seq ∧ d < y.1)))) →
      (∀ rd sp, ImageFits s k g.launch.cid a [0, 1] rd sp → (imgPlan rd).die = d → (imgPlan rd).grid = n →
        ∃ t, exec (.teamRestore k) s = .next t ∧ TeamStands s t k rd sp ∧ (t.grid d n).saves = g.saves.erase (.image a) ∧ t.store.mem = s.store.mem) ∧
      ∀ hs, agentReach s k g.launch.cid .read (runPieces a 256) = .ok hs → readerOf s hs 0 4 ≠ 0x5A4B5349 →
        ∃ t, exec (.teamRestore k) s = .next t ∧ (t.core k).crew = { (s.core k).crew with tried := (s.core k).crew.tried ++ [a] } ∧ t.grid d n = g ∧
          ∀ v, t.groupOf v = s.groupOf v

/-! ## User queues and packets (R329 to R344, R89 to R91) -/

/-- Bytes have been written from outside the cores, in this order, and nothing else of the machine changes but copies of their lines in the L1s
and replicas, which are given up, and the use of their slices' islands; a granule written whole is no longer poisoned (R64, R67, R73, R116). -/
def Wrote (s t : State) (bs : List (Nat × Byte)) : Prop :=
  let on (l : Nat) : Bool := bs.any (fun b => lineOf b.1 == l)
  t = { s with cores := t.cores, store := t.store, plat := t.plat } ∧
    (∀ p, t.store.mem.byte p = ((bs.reverse.find? (fun b => b.1 == p)).map Prod.snd).getD (s.store.mem.byte p)) ∧
    (∀ g, Sparse.look false g t.store.poison =
      (Sparse.look false g s.store.poison && !(List.range 32).all (fun i => bs.any (fun b => b.1 == 32 * g + i)))) ∧
    t.store = { s.store with mem := t.store.mem, poison := t.store.poison, replicas := s.store.replicas.filter (fun r => !on r.1) } ∧
    (∀ k, { t.core k with caches := {} } = { s.core k with caches := {} }) ∧
    (∀ k, { (t.core k).caches with l1 := [], l1own := [] } = { (s.core k).caches with l1 := [], l1own := [] }) ∧
    (∀ k l, k ≠ noCore → Sparse.look false l (t.core k).caches.l1 = (!on l && Sparse.look false l (s.core k).caches.l1) ∧
      Sparse.look false l (t.core k).caches.l1own = (!on l && Sparse.look false l (s.core k).caches.l1own)) ∧
    { t.plat with islands := [] } = { s.plat with islands := [] } ∧
    ∀ j, { (Sparse.look {} j t.plat.islands : Island) with since := 0, wakes := 0 } = { (Sparse.look {} j s.plat.islands : Island) with since := 0, wakes := 0 }

/-- Of the machine only a queue changes. -/
def OnlyQueue (s t : State) (n : Nat) (f : Queue → Queue) : Prop :=
  t = { s with host := t.host } ∧ t.host = { s.host with queues := t.host.queues } ∧ ∀ m, t.queue m = if m = n then f (s.queue m) else s.queue m

/-- Of the machine only a die changes. -/
def OnlyDie (s t : State) (n : Nat) (f : Die → Die) : Prop := t = { s with dies := t.dies } ∧ ∀ d, t.die d = if d = n then f (s.die d) else s.die d

/-- A record has been posted to an event queue of the host: where the queue has room, after a reading of the host's read index if it seemed full,
its bytes stand in the ring, WIDX is one more and a message is sent; else LOST is one more (R376). -/
def Posted (s t : State) (n : Nat) (bs : List Byte) : Prop :=
  let e := s.evq n
  let size := 2 ^ e.log2n
  let seen := if size ≤ e.widx - e.seen then s.hostRead (e.index + 16) 8 else e.seen
  let at' (a : Nat) (x : List Byte) : List (Nat × Byte) := (List.range x.length).zipWith (fun i b => (2 ^ 60 + a + i, b)) x
  let only (x : EventQueue) : Prop := t.host = { s.host with evqs := t.host.evqs } ∧ ∀ m, t.evq m = if m = n then x else s.evq m
  let u := { s with host := t.host }
  (e.live = false → t = s) ∧
    (e.live = true → e.widx - seen < size → only { e with seen := seen, widx := e.widx + 1, msgs := e.msgs + 1 } ∧
      ∃ v, Wrote u v (at' (e.base + 64 * (e.widx % size)) bs) ∧ Wrote v t (at' e.index (leBytes 8 (e.widx + 1)))) ∧
    (e.live = true → size ≤ e.widx - seen → only { e with seen := seen } ∧ Wrote u t (at' (e.index + 8) (leBytes 8 (s.hostRead (e.index + 8) 8 + 1))))

/-- A record of an agent of a queue's die: the bytes of R355 without lanes or a slot. -/
def frontBytes (s : State) (n kind flags code aux : Nat) (pc : DWord) (x : BitVec 128) : List Byte :=
  let q := s.queue n
  leBytes 8 ((dieAid q.die kind 0).toNat * 2 ^ 32 + q.cid % 2 ^ 16 * 2 ^ 16 + flags) ++ leBytes 8 pc.toNat ++
    leBytes 8 ((s.die q.die).recSeq % 2 ^ 32 * 2 ^ 32) ++ leBytes 8 (code * 2 ^ 56) ++ leBytes 16 x.toNat ++ leBytes 8 s.now ++ leBytes 8 aux

/-- Such a record has gone out: the die's sequence number and the events for the agent of core 0 of the die (log entry 62) are one more, and the
bytes have been posted to the queue's event queue. -/
def FrontRecord (s t : State) (n cls : Nat) (bs : List Byte) : Prop :=
  let q := s.queue n
  ∃ u v, OnlyDie s u q.die (fun d => { d with recSeq := (d.recSeq + 1) % 2 ^ 32 }) ∧ v = { u with cores := v.cores } ∧
    (∀ k, v.core k =
      if k = 160 * q.die then { u.core k with agent := { (u.core k).agent with events := (u.core k).agent.events ++ [cls], halted := false } } else u.core k) ∧
    Posted v t q.evq bs

/-- A record about a queue: `low` is the queue error cause or the kind of notice (R386). -/
def QueueRecord (s t : State) (n code low : Nat) (pc : DWord) (x : BitVec 128) : Prop :=
  FrontRecord s t n 7 (frontBytes s n 9 7 code (((s.queue n).page * 2 ^ 16 + low) % 2 ^ 64) pc x)

/-- A queue has entered ERROR with a cause (a HELD one returns to it), and its record has gone out (R342). -/
def QueueError (s t : State) (n cause index : Nat) (x : BitVec 128) : Prop :=
  ∃ u, OnlyQueue s u n (fun q => if q.phase = .held then { q with before := .error, cause := cause } else { q with phase := .error, cause := cause }) ∧
    QueueRecord u t n 0x23 cause (BitVec.ofNat 64 index) x

/-- A die's front end takes the packet at the read index of queue `n` next, and its bytes are `bs`. -/
def FrontTakes (s : State) (n : Nat) (bs : List Byte) : Prop := NoStash s ∧ frontChoice s (s.queue n).die = some n ∧ nextPacket s n = .bytes bs

/-- The packet is of type `kind` with a valid header (R332). -/
def PacketIs (s : State) (n kind : Nat) (bs : List Byte) : Prop :=
  FrontTakes s n bs ∧ descNum bs 0 1 = kind ∧ descNum bs 1 1 = 1 ∧ descNum bs 2 2 < 4

/-- The places of 8 bytes that a queue's front end reaches in its context. -/
def frontPlaces (s : State) (n : Nat) (k : AccessKind) (va : DWord) : Except EFail (List EPiece) :=
  engineReach s (160 * (s.queue n).die) (s.queue n).cid k (runPieces va 8)

/-- The packet at the read index has been taken: the read index is past it and, where RIDX is named, written there, or told where that faults;
the queue has had its turn (R333, R343). -/
def Taken (s t : State) (n : Nat) : Prop :=
  let q := s.queue n
  ∃ u v, OnlyQueue s u n (fun q => { q with rdx := q.rdx + 1, aged := false, since := none }) ∧
    OnlyDie u v q.die (fun d => { d with turn := n, last := some s.now }) ∧ (q.ridx = 0 → t = v) ∧
    (∀ ps, q.ridx ≠ 0 → frontPlaces s n .engineWrite q.ridx = .ok ps → Wrote v t ((placesOf ps).zip (leBytes 8 (q.rdx + 1).toNat))) ∧
    ∀ a f k, q.ridx ≠ 0 → frontPlaces s n .engineWrite q.ridx = .error (.fault a f k) → QueueRecord v t n 0x24 2 (q.rdx + 1) 0

/-- An invalid packet has been refused: taken without an effect, and its queue in ERROR (R334, R342). -/
def PacketRefused (s t : State) (n cause : Nat) : Prop := ∃ u, Taken s u n ∧ QueueError u t n cause (s.queue n).rdx.toNat 0

/-- A packet cannot be read: nothing of it starts, the read index stays, and its queue is in ERROR (R333). -/
def PacketUnread (s t : State) (n : Nat) (x : BitVec 128) : Prop :=
  ∃ u, OnlyDie s u (s.queue n).die (fun d => { d with turn := n, last := some s.now }) ∧ QueueError u t n 0x10 (s.queue n).rdx.toNat x

/-- A packet is among those of its queue that have started. -/
def addedTo (p : Packet) (q : Queue) : Queue := { q with packets := q.packets ++ [p] }

/-- The lines are held for a command from now on: copies in the L1s and replicas of them are given up (R64, R67, R132). -/
def LinesOwned (s t : State) (unit cmd order : Nat) (lines : List Nat) : Prop :=
  t = { s with cores := t.cores, store := t.store } ∧
    t.store = { s.store with owners := s.store.owners ++ lines.map (fun l => { line := l, unit := unit, cmd := cmd, seq := order })
                             replicas := s.store.replicas.filter (fun r => !lines.contains r.1) } ∧
    (∀ k, { t.core k with caches := {} } = { s.core k with caches := {} }) ∧
    (∀ k, { (t.core k).caches with l1 := [], l1own := [] } = { (s.core k).caches with l1 := [], l1own := [] }) ∧
    ∀ k ≠ noCore, ∀ l, Sparse.look false l (t.core k).caches.l1 = (!lines.contains l && Sparse.look false l (s.core k).caches.l1) ∧
      Sparse.look false l (t.core k).caches.l1own = (!lines.contains l && Sparse.look false l (s.core k).caches.l1own)

/-- The lines of a copy's destination that translate and that it does not hold yet. -/
def destLines (s : State) (n : Nat) (p : Packet) : List Nat :=
  ((runPieces p.dst p.len).flatMap (fun x =>
    match engineReach s (160 * (s.queue n).die) (s.queue n).cid .engineWrite [x] with
    | .ok ps => ownedLines ps
    | .error _ => [])).dedup.filter (fun l => !s.store.owners.any (fun o => o.line == l && o.unit == copyUnit n && o.cmd == p.index))

/-- R329, R332 to R334, R337, R338, R342 to R344: nothing starts at a queue that is not the front end's next. An invalid header is cause 0x01 of an
ERROR, a fault on reading the packet cause 0x10 with the read index unchanged. A packet taken moves the read index, which is stored at RIDX; a fault
there drops the store with a notice. A NOP is complete once started. SIGNAL stores its value or adds it at its address; a misaligned
address or a reserved SPEC is cause 0x01, a fault cause 0x0B. A COPY's destination lines that translate are held from its start. -/
def Obligations.PacketStart : Prop :=
  ∀ (n : Nat) (s : State),
    let q := s.queue n
    let all : List Instr := [.nopPacket n, .launch n, .copy n, .signal n, .waitAll n, .waitAny n, .overlay n]
    (frontChoice s q.die ≠ some n → ∀ i ∈ all, exec i s = .next s) ∧
    (∀ bs, FrontTakes s n bs → (6 < descNum bs 0 1 ∨ descNum bs 1 1 ≠ 1 ∨ 4 ≤ descNum bs 2 2) →
      ∀ i ∈ all, ∃ t, exec i s = .next t ∧ PacketRefused s t n 0x01) ∧
    (∀ x, NoStash s → frontChoice s q.die = some n → nextPacket s n = .fault x → ∀ i ∈ all, ∃ t, exec i s = .next t ∧ PacketUnread s t n x) ∧
    (∀ bs, PacketIs s n 0 bs →
      let p : Packet := { index := q.rdx.toNat, kind := .nop, evt := (descNum bs 2 1).testBit 1, begun := s.now, finished := true }
      (descNum bs 4 4 ≠ 0 → ∃ t, exec (.nopPacket n) s = .next t ∧ PacketRefused s t n 0x01) ∧
      (descNum bs 4 4 = 0 → ∃ u t, exec (.nopPacket n) s = .next t ∧ Taken s u n ∧ OnlyQueue u t n (addedTo p))) ∧
    (∀ bs, PacketIs s n 3 bs →
      let addr := descNum bs 8 8
      let v := descNum bs 0x10 8
      let ok : Prop := descNum bs 4 4 ≤ 1 ∧ addr % 8 = 0
      let add := descNum bs 4 4 = 1
      let p : Packet := { index := q.rdx.toNat, kind := .signal, evt := (descNum bs 2 1).testBit 1, begun := s.now, finished := true }
      (¬ok → ∃ t, exec (.signal n) s = .next t ∧ PacketRefused s t n 0x01) ∧
      (ok → ∃ u, Taken s u n ∧
        let reach := frontPlaces u n (if add then .atomic else .engineWrite) (BitVec.ofNat 64 addr)
        (∀ a f k, reach = .error (.fault a f k) → ∃ t, exec (.signal n) s = .next t ∧ QueueError u t n 0x0B q.rdx.toNat 0) ∧
        ∀ ps, reach = .ok ps → (∀ l ∈ ownedLines ps, u.isOwned l = false) →
          let old := leNat ((placesOf ps).map u.store.mem.byte)
          ∃ w t, exec (.signal n) s = .next t ∧ Wrote u w ((placesOf ps).zip (leBytes 8 ((if add then old + v else v) % 2 ^ 64))) ∧ OnlyQueue w t n (addedTo p))) ∧
    ∀ bs, PacketIs s n 2 bs →
      let len := descNum bs 0x20 8
      let ok : Prop := descNum bs 4 4 = 0 ∧ descNum bs 8 8 % 8 = 0 ∧ 1 ≤ len ∧ len ≤ 2 ^ 40 ∧ descNum bs 0x28 24 = 0
      let p : Packet :=
        { index := q.rdx.toNat, kind := .copy, evt := (descNum bs 2 1).testBit 1, begun := s.now, sig := BitVec.ofNat 64 (descNum bs 8 8),
          src := BitVec.ofNat 64 (descNum bs 0x10 8), dst := BitVec.ofNat 64 (descNum bs 0x18 8), len := len, order := s.store.nextOwner }
      (¬ok → ∃ t, exec (.copy n) s = .next t ∧ PacketRefused s t n 0x01) ∧
      (ok → ∃ u v t, exec (.copy n) s = .next t ∧ Taken s u n ∧ OnlyQueue { u with store := { u.store with nextOwner := u.store.nextOwner + 1 } } v n (addedTo p) ∧
        LinesOwned v t (copyUnit n) p.index p.order (destLines v n p))

/-- R216 to R219, R335, R336, R341, R344, R89, R90, R307: LAUNCH checks its fields, its context, the code object, its features and latency set, the kernel,
the report, the local memory and whether a team fits, in this order, each with its cause; a launch that passes has a grid record
with a ticket for each team, the next start sequence and the queue's priority. OVERLAY, whose breaches are cause 0x0E, starts the glen
core that it names: at the entry with the segment there filling, s0 the argument, no flags, one start more, the segments' code as it stands. A fault on reading
what OVERLAY names counts as a breach, and the code is taken whole at the start (log entries 34, 40). -/
def Obligations.LaunchAndOverlay : Prop :=
  (∀ (n k : Nat) (s : State) (bs : List Byte), PacketIs s n 1 bs → freeGrid s (s.queue n).die = some k →
    let q := s.queue n
    let code := BitVec.ofNat 64 (descNum bs 0x10 8)
    let dims := (descNum bs 0x20 4 + 1) * (descNum bs 0x24 4 + 1) * (descNum bs 0x28 4 + 1)
    let fails (c : Nat) : Prop := ∃ t, exec (.launch n) s = .next t ∧ PacketRefused s t n c
    (descNum bs 8 8 % 8 ≠ 0 ∨ 2 ^ 32 < dims → fails 0x01) ∧
    (descNum bs 8 8 % 8 = 0 → dims ≤ 2 ^ 32 →
      (q.cid = 0 ∨ q.cid = 0xFFFF ∨ (s.context q.cid).ok = false → fails 0x02) ∧
      (q.cid ≠ 0 → q.cid ≠ 0xFFFF → (s.context q.cid).ok = true →
        (∀ a f x, frontRead s q.die q.cid code 128 = .error (.fault a f x) → fails 0x03) ∧
        ∀ h, frontRead s q.die q.cid code 128 = .ok h →
          let kaddr := code + BitVec.ofNat 64 (descNum h 0x24 4 + 128 * descNum bs 0x2C 2)
          let bad4 : Prop := codeHeaderOk code h = false
          let bad5 : Prop := featuresOk h = false
          let bad6 : Prop := (descNum h 6 1).testBit 0 = true ∧ descNum h 0x18 8 ≠ 0x8020806 ∧ (descNum h 6 1).testBit 1 = false
          (descNum h 0x20 4 ≤ descNum bs 0x2C 2 → (bad4 → fails 0x04) ∧ (¬bad4 → bad5 → fails 0x05) ∧ (¬bad4 → ¬bad5 → bad6 → fails 0x06) ∧
            (¬bad4 → ¬bad5 → ¬bad6 → fails 0x07)) ∧
          (descNum bs 0x2C 2 < descNum h 0x20 4 →
            (∀ a f x, frontRead s q.die q.cid kaddr 128 = .error (.fault a f x) → fails 0x03) ∧
            ∀ kd, frontRead s q.die q.cid kaddr 128 = .ok kd →
              let l := launchFrom q n bs h kd
              let bad7 : Prop := kernelOk kd = false
              let bad8 : Prop := descNum bs 0x38 8 % 64 ≠ 0
              let bad9 : Prop := descNum bs 0x2E 2 < descNum bs 6 2 ∨ descNum bs 4 2 = 0 ∨ descNum bs 4 2 < 16 + (if descNum kd 0x10 1 = 0 then 0 else 1) ∨
                descNum bs 0x30 8 % 128 ≠ 0
              let badA : Prop := kernelFits l.kernel = false
              (bad4 → fails 0x04) ∧ (¬bad4 → bad5 → fails 0x05) ∧ (¬bad4 → ¬bad5 → bad6 → fails 0x06) ∧ (¬bad4 → ¬bad5 → ¬bad6 → bad7 → fails 0x07) ∧
                (¬bad4 → ¬bad5 → ¬bad6 → ¬bad7 → bad8 → fails 0x08) ∧ (¬bad4 → ¬bad5 → ¬bad6 → ¬bad7 → ¬bad8 → bad9 → fails 0x09) ∧
                (¬bad4 → ¬bad5 → ¬bad6 → ¬bad7 → ¬bad8 → ¬bad9 → badA → fails 0x0A) ∧
                (¬bad4 → ¬bad5 → ¬bad6 → ¬bad7 → ¬bad8 → ¬bad9 → ¬badA →
                  let p : Packet := { index := q.rdx.toNat, kind := .launch, evt := (descNum bs 2 1).testBit 1, begun := s.now, sig := BitVec.ofNat 64 (descNum bs 8 8) }
                  ∃ u v t, exec (.launch n) s = .next t ∧ Taken s u n ∧ OnlyQueue u v n (addedTo p) ∧ t = { v with dies := t.dies } ∧
                    (∀ d, { t.die d with grids := [], startSeq := 0 } = { v.die d with grids := [], startSeq := 0 } ∧
                      (t.die d).startSeq = if d = q.die then ((s.die d).startSeq + 1) % 2 ^ 29 else (s.die d).startSeq) ∧
                    ∀ d j, t.grid d j = if d = q.die ∧ j = k then
                      { live := true, teams := dims, prio := q.prio, seq := (s.die q.die).startSeq, launch := l, agent := 160 * q.die } else s.grid d j))))) ∧
  ∀ (n : Nat) (s : State) (bs : List Byte), PacketIs s n 6 bs →
    let q := s.queue n
    let nseg := descNum bs 0x20 4
    let stab := descNum bs 0x18 8
    let code := BitVec.ofNat 64 (descNum bs 0x10 8)
    let b := descNum bs 0x30 1
    let g := 16 * (b % 4) + b / 4 % 16
    let entry := descNum bs 0x24 4
    let table := frontRead s q.die q.cid (BitVec.ofNat 64 stab) (16 * nseg)
    let fails (c : Nat) : Prop := ∃ t, exec (.overlay n) s = .next t ∧ PacketRefused s t n c
    let fit : Prop := descNum bs 4 4 = 0 ∧ descNum bs 8 8 % 8 = 0
    let ok : Prop := stab % 16 = 0 ∧ 1 ≤ nseg ∧ nseg ≤ 4096 ∧ b < 64 ∧ descNum bs 0x31 15 = 0 ∧ glenServes s g q.cid = true
    (¬fit → fails 0x01) ∧ (fit → ¬ok → fails 0x0E) ∧
    (fit → ok → (∃ a f x, frontRead s q.die q.cid code 128 = .error (.fault a f x)) → fails 0x0E) ∧
    (fit → ok → (∃ h, frontRead s q.die q.cid code 128 = .ok h) → (∃ a f x, table = .error (.fault a f x)) → fails 0x0E) ∧
    ∀ h tb, fit → ok → frontRead s q.die q.cid code 128 = .ok h → table = .ok tb →
      let glenCode : Prop := codeHeaderOk code h = true ∧ (descNum h 6 1).testBit 2 = true ∧ featuresOk h = true
      (readSegments nseg tb = none → fails 0x0E) ∧ (¬glenCode → fails 0x0E) ∧
      ∀ segs cs, readSegments nseg tb = some segs → glenCode → codeOf s q.die q.cid 0 segs = .ok cs →
        let p : Packet := { index := q.rdx.toNat, kind := .overlay, evt := (descNum bs 2 1).testBit 1, begun := s.now, sig := BitVec.ofNat 64 (descNum bs 8 8), glen := g }
        let ctx : Group := { sca := { s := Sparse.put 0 0 (BitVec.ofNat 64 (descNum bs 0x28 8)) [] }, slices := [{ pc := BitVec.ofNat 64 entry, ready := s.now + 380 }] }
        ∃ u v t, exec (.overlay n) s = .next t ∧ Taken s u n ∧ OnlyQueue u v n (addedTo p) ∧ t = { v with glens := t.glens } ∧ ∀ j, t.glen j = if j = g then
          { s.glen g with ctx := ctx, cid := q.cid, flags := [], gstat := 0, cmds := [], starts := (s.glen g).starts + 1, segs := segs, areas := [], demand := none
                          code := cs, prog := { running := true, queue := n, packet := q.rdx.toNat, agent := 160 * (g / 16) }
                          frames := [(entry / 8192 % 4, { valid := true, seg := entry / 8192, filling := true, since := s.now, due := s.now + 380 })] }
          else s.glen j

/-- R333, R334, R339, R340, R342: a WAIT reads its table once and blocks its queue; a breach of its limits or an unknown comparison is cause 0x01, a fault
on its table cause 0x10. A condition latches when a read of its signal finds its comparison to hold; WAIT_ALL goes on with all of
its conditions, WAIT_ANY with one, and RES gets the latched ones, with bit 63 where the time has passed first, when with TFAIL the
queue enters ERROR with cause 0x0D; a queue that is in ERROR stays there. The six comparisons are of unsigned numbers but the fifth, which is of their
difference. A fault drops the write of RES; where the signal's home is the host, it is read every 16,384 cycles (log entries 34, 45). -/
def Obligations.Waits : Prop :=
  (∀ v c : DWord, (condHolds 0 v c = true ↔ v = c) ∧ (condHolds 1 v c = true ↔ v ≠ c) ∧ (condHolds 2 v c = true ↔ c.toNat ≤ v.toNat) ∧
    (condHolds 3 v c = true ↔ v.toNat < c.toNat) ∧ (condHolds 4 v c = true ↔ 0 ≤ (v - c).toInt) ∧ (condHolds 5 v c = true ↔ ∃ i, v.getLsbD i = true ∧ c.getLsbD i = true)) ∧
  (∀ (n : Nat) (s : State) (bs : List Byte) (any : Bool), PacketIs s n (if any then 5 else 4) bs →
    let q := s.queue n
    let i := if any then Instr.waitAny n else .waitAll n
    let spec := descNum bs 4 4
    let m := spec % 16
    let tab := descNum bs 8 8
    let ok : Prop := spec < 32 ∧ 1 ≤ m ∧ m ≤ 12 ∧ tab % 64 = 0 ∧ descNum bs 0x18 8 % 8 = 0
    let tread := frontRead s q.die q.cid (BitVec.ofNat 64 tab) (16 * m)
    (¬ok → ∃ t, exec i s = .next t ∧ PacketRefused s t n 0x01) ∧
    (∀ a f x, ok → tread = .error (.fault a f x) → ∃ t, exec i s = .next t ∧ PacketUnread s t n (xlatDetail s q.cid f x a)) ∧
    ∀ tb, ok → tread = .ok tb →
      let conds := (List.range m).map (fun j => (BitVec.ofNat 64 (descNum tb (16 * j) 8), BitVec.ofNat 64 (descNum tb (16 * j + 8) 8)))
      let p : Packet :=
        { index := q.rdx.toNat, kind := if any then .waitAny else .waitAll, evt := (descNum bs 2 1).testBit 1, begun := s.now, table := conds,
          tmo := 1024 * descNum bs 0x10 8, res := BitVec.ofNat 64 (descNum bs 0x18 8), tfail := spec.testBit 4 }
      ((∃ c ∈ conds, 6 ≤ c.1.toNat % 8) → ∃ t, exec i s = .next t ∧ PacketRefused s t n 0x01) ∧
      ((∀ c ∈ conds, c.1.toNat % 8 < 6) → ∃ u t, exec i s = .next t ∧ Taken s u n ∧ OnlyQueue u t n (fun x => { addedTo p x with phase := .blocked }))) ∧
  ∀ (n : Nat) (s : State),
    let q := s.queue n
    (q.packets.find? Packet.waits = none → (∀ k, exec (.conditionLatch n k) s = .next s) ∧ exec (.waitTimeout n) s = .next s) ∧
    ∀ p, q.packets.find? Packet.waits = some p → NoStash s → (∀ x ∈ q.packets, x.index = p.index → x = p) →
      let turned (y : Packet) (x : Queue) : Queue := { x with packets := x.packets.map (fun z => if z.index == p.index then y else z) }
      let unblocked (x : Queue) : Queue :=
        if x.phase = .blocked then { x with phase := .active } else if x.phase = .held ∧ x.before = .blocked then { x with before := .active } else x
      let bits (b : List Nat) : Nat := b.foldl (fun x k => x ||| 2 ^ k) 0
      let met (b : List Nat) : Prop := if p.kind = .waitAny then b ≠ [] else b.length = p.table.length
      let written (u : State) (v : Nat) : Prop :=
        (p.res = 0 → u = s) ∧ (∀ rs, p.res ≠ 0 → frontPlaces s n .engineWrite p.res = .ok rs → (∀ l ∈ ownedLines rs, s.isOwned l = false) →
          Wrote s u ((placesOf rs).zip (leBytes 8 v))) ∧
        ∀ a f x, p.res ≠ 0 → frontPlaces s n .engineWrite p.res = .error (.fault a f x) → u = s
      let resReady : Prop := p.res = 0 ∨ (∃ rs, frontPlaces s n .engineWrite p.res = .ok rs ∧ ∀ l ∈ ownedLines rs, s.isOwned l = false) ∨
        ∃ a f x, frontPlaces s n .engineWrite p.res = .error (.fault a f x)
      let finishes (i : Instr) (b : List Nat) (v : Nat) : Prop :=
        ∃ u t, exec i s = .next t ∧ written u v ∧ OnlyQueue u t n (fun x => unblocked (turned { p with latched := b, finished := true } x))
      let late : Prop := p.tmo ≠ 0 ∧ p.begun + p.tmo < s.now
      (∀ k c ps, p.table[k]? = some c → k ∉ p.latched → ¬met p.latched → ¬late → frontPlaces s n .engineRead (c.1 &&& ~~~7#64) = .ok ps →
        let v := BitVec.ofNat 64 (leNat ((placesOf ps).map s.store.mem.byte))
        let now : Prop := (∀ e ∈ ps, e.entry.home = 0) ∨ (s.now - p.begun) % 16384 = 0
        let read : Prop := now ∧ (∀ l ∈ ownedLines ps, s.isOwned l = false)
        let all := p.latched ++ [k]
        (¬read ∨ condHolds (c.1.toNat % 8) v c.2 = false → exec (.conditionLatch n k) s = .next s) ∧
        (read → condHolds (c.1.toNat % 8) v c.2 = true → ¬met all →
          ∃ t, exec (.conditionLatch n k) s = .next t ∧ OnlyQueue s t n (turned { p with latched := all })) ∧
        (read → condHolds (c.1.toNat % 8) v c.2 = true → met all → resReady → finishes (.conditionLatch n k) all (bits all % 2 ^ 64))) ∧
      (∀ k, (p.table[k]? = none ∨ (¬met p.latched ∧ (k ∈ p.latched ∨ late))) → exec (.conditionLatch n k) s = .next s) ∧
      (∀ k, (p.table[k]?).isSome → met p.latched → resReady → finishes (.conditionLatch n k) p.latched (bits p.latched % 2 ^ 64)) ∧
      (p.tmo = 0 ∨ s.now < p.begun + p.tmo ∨ met p.latched → exec (.waitTimeout n) s = .next s) ∧
      (p.tmo ≠ 0 → p.begun + p.tmo ≤ s.now → ¬met p.latched → resReady → (∀ k ∈ p.latched, k < 63) →
        (p.tfail = false → finishes (.waitTimeout n) p.latched (2 ^ 63 + bits p.latched)) ∧
        (p.tfail = true → q.live = true → ∃ u v t, exec (.waitTimeout n) s = .next t ∧ written u (2 ^ 63 + bits p.latched) ∧
          OnlyQueue u v n (fun x => { x with packets := x.packets.filter (fun y => y.index != p.index) }) ∧ QueueError v t n 0x0D p.index 0))

/-- R330, R331, R333, R334, R337, R342, R343, R346: a kick is accepted where it goes forward and at most a ring ahead of the read index, whatever the
queue's state; another changes nothing of the queue and is told, and one that is no aligned 8-byte write is ignored. A queue that has held a
startable packet for 1,600,000 cycles goes first. A packet whose work is done adds 1 to its signal, leaves its queue, a LAUNCH with its
grid record, and is told where EVT asks it; a fault on the signal is cause 0x0B. A COPY moves its bytes and no others, a replayable fault pauses it, any
other ends it with the bytes before the fault and cause 0x0C. That a COPY moves its bytes in one step is the model's choice (log entry 34). -/
def Obligations.PacketsComplete : Prop :=
  (∀ (n : Nat) (w : DWord) (s : State),
    let q := s.queue n
    let ok : Prop := (w - q.widx).toNat < 2 ^ 63 ∧ (w - q.rdx).toNat ≤ 2 ^ q.log2n
    exec (.kick n w false) s = .next s ∧ (q.live = false → exec (.kick n w true) s = .next s) ∧
    (q.live = true → ok → ∃ t, exec (.kick n w true) s = .next t ∧ OnlyQueue s t n (fun x => { x with widx := w })) ∧
    (NoStash s → q.live = true → ¬ok → ∃ t, exec (.kick n w true) s = .next t ∧ QueueRecord s t n 0x24 1 w 0) ∧
    let late : Prop := q.live = true ∧ q.aged = false ∧ ∃ x, q.since = some x ∧ x + 1600000 ≤ s.now
    (¬late → exec (.queueStarvationPromotion n) s = .next s) ∧
    (late → ∃ t, exec (.queueStarvationPromotion n) s = .next t ∧ OnlyQueue s t n (fun x => { x with aged := true }))) ∧
  ∀ (n i : Nat) (s : State),
    let q := s.queue n
    let without (x : Queue) : Queue := { x with packets := x.packets.filter (fun y => y.index != i) }
    (packetOf s n i = none → exec (.packetComplete n i) s = .next s) ∧
    ∀ p, packetOf s n i = some p → NoStash s →
      let gone (u v : State) : Prop := ∃ x, OnlyQueue u x n without ∧
        OnlyDie x v q.die (fun d => if p.kind = .launch then
          { d with grids := d.grids.filter (fun g => !(g.2.launch.queue == n && g.2.launch.packet == i && g.2.phase == .closed)) } else d)
      let told (v t : State) : Prop := if p.evt then QueueRecord v t n 0x25 0 (BitVec.ofNat 64 i) 0 else t = v
      (p.finished = false → (p.kind ≠ .copy ∨ p.paused = true) → exec (.packetComplete n i) s = .next s) ∧
      (p.finished = true →
        (p.sig = 0 → ∃ v t, exec (.packetComplete n i) s = .next t ∧ gone s v ∧ told v t) ∧
        (∀ ps, p.sig ≠ 0 → frontPlaces s n .atomic p.sig = .ok ps → (∀ l ∈ ownedLines ps, s.isOwned l = false) →
          ∃ u v t, exec (.packetComplete n i) s = .next t ∧
            Wrote s u ((placesOf ps).zip (leBytes 8 ((leNat ((placesOf ps).map s.store.mem.byte) + 1) % 2 ^ 64))) ∧ gone u v ∧ told v t) ∧
        (∀ a f k, p.sig ≠ 0 → frontPlaces s n .atomic p.sig = .error (.fault a f k) → q.live = true →
          ∃ v t, exec (.packetComplete n i) s = .next t ∧ gone s v ∧ QueueError v t n 0x0B i 0)) ∧
      (p.finished = false → p.kind = .copy → p.paused = false → Quiet s → (∀ x ∈ q.packets, x.index = i → x = p) → destLines s n p = [] →
        let src := reachPrefix s (160 * q.die) q.cid .engineRead (runPieces p.src p.len)
        let dst := reachPrefix s (160 * q.die) q.cid .engineWrite (runPieces p.dst p.len)
        let a := placesOf src.1
        let b := placesOf dst.1
        let moved (u : State) : Prop := ∃ x, Wrote s x ((b.zip a).map (fun y => (y.1, s.store.mem.byte y.2))) ∧
          u = { x with store := { x.store with owners := x.store.owners.filter (fun o => !(o.unit == copyUnit n && o.cmd == i)) } }
        (∀ x ∈ a ++ b, s.heldBefore (lineOf x) p.order = false) → (∀ x ∈ a, x ∉ b) →
          (src.2 = none → dst.2 = none → ∃ u t, exec (.packetComplete n i) s = .next t ∧ moved u ∧
            OnlyQueue u t n (fun x => { x with packets := x.packets.map (fun x => if x.index == i then { p with finished := true } else x) })) ∧
          ∀ va f k, (src.2 = some (.fault va f k) ∧ a.length ≤ b.length) ∨ (dst.2 = some (.fault va f k) ∧ (src.2 = none ∨ b.length < a.length)) →
            (f.rpl = true → ∃ u v t, exec (.packetComplete n i) s = .next t ∧
              FrontRecord s u n 1 (frontBytes s n 1 (2 ^ 13 + 2 ^ 12 + 1) 0x01 0 (BitVec.ofNat 64 i) (xlatDetail s q.cid f k va)) ∧
              v = { u with host := { u.host with outs := u.host.outs ++ [{
                name := { die := q.die, unit := 255, seq := (s.die q.die).recSeq }, about := .packet n i, code := 0x01, rpl := true, cid := q.cid }] } } ∧
              OnlyQueue v t n (fun x => { x with packets := x.packets.map (fun x => if x.index == i then { p with paused := true } else x) })) ∧
            (f.rpl = false → q.live = true → ∃ u v t, exec (.packetComplete n i) s = .next t ∧ moved u ∧ OnlyQueue u v n without ∧ QueueError v t n 0x0C i 0))

/-! ## The mailbox (R11, R29, R30, R326, R329, R342, R348 to R352, R358 to R360, R364, R374 to R376, R378, R383) -/

/-- The mailbox of function `fn` is one that takes a request: there is such a function, no request of it is in progress, and Ibien runs on a die
(R2, R375). -/
def MailFree (s : State) (fn : Nat) : Prop := fn ≤ 16 ∧ (s.mailbox fn).busy = false ∧ ∃ d < 4, (s.die d).boot = .running

/-- Of the machine only the mailbox of a function changes. -/
def MailBecomes (s t : State) (fn : Nat) (m : Mailbox) : Prop :=
  t = { s with host := { s.host with mail := t.host.mail } } ∧ ∀ f, t.mailbox f = if f = fn then m else s.mailbox f

/-- The request is an event of class 6 for the agent of core 0 of the first die on which Ibien runs (R354, log entry 62). -/
def RequestEvent (s t : State) : Prop :=
  ∃ d < 4, (s.die d).boot = .running ∧ (∀ e < d, (s.die e).boot ≠ .running) ∧ t = { s with cores := t.cores } ∧
    ∀ k, t.core k = if k = 160 * d then
      { s.core k with agent := { (s.core k).agent with events := (s.core k).agent.events ++ [6], halted := false } } else s.core k

/-- The mailbox of `fn` holds a response, the request is an event, and nothing else has changed. -/
def Responds (s t : State) (fn code status : Nat) (data : List Byte) : Prop :=
  ∃ u, MailBecomes s u fn { code := code, status := status, data := data } ∧ RequestEvent u t

/-- The mailbox of `fn` is busy with a request that waits for something, the request is an event, and nothing else has changed. -/
def StaysBusy (s t : State) (fn code : Nat) (w : MailWait) : Prop :=
  ∃ u, MailBecomes s u fn { s.mailbox fn with code := code, busy := true, wait := some w } ∧ RequestEvent u t

/-- The request of `fn` by `i` is answered with a status, and has no other effect. -/
def Declined (s : State) (fn code status : Nat) (i : Instr) : Prop := ∃ t, exec i s = .next t ∧ Responds s t fn code status []

/-- A reset of a queue leaves the mailbox with `m`: it is an event where it is a new request, none where it has waited for RIDX. -/
def ResetReplies (s t : State) (fn : Nat) (first : Bool) (m : Mailbox) : Prop :=
  if first then ∃ u, MailBecomes s u fn m ∧ RequestEvent u t else MailBecomes s t fn m

/-- R375: a request to a mailbox that is busy, or to a function that does not exist, changes nothing; a code outside 0x01 to 0x0F has
status 1. R329, R374, R376: CREATE_QUEUE checks the table's limits, then the context, the event queue and the count of queues; the queue has the
next number, which it returns, and the next kick page of its function, and is ACTIVE unless a drain covers its context. A queue that does not
exist has status 1, one of another partition status 2, one with packets under way is not destroyed. R342: request 0x03 on a queue in ERROR
makes it ACTIVE, with its indices and RIDX at the value in the reset form; on an ACTIVE one it changes nothing, on a BLOCKED or HELD one
it has status 2. A fault on RIDX is told, a page or line that RIDX must wait for keeps the mailbox busy (log entry 35). CREATE_EVENT_QUEUE likewise
returns the number of a new event queue. Statuses that the rules do not name one by one: log entry 35. -/
def Obligations.QueueRequests : Prop :=
  ∀ (fn : Nat) (s : State),
    (¬MailFree s fn → ∀ i : Instr, (∃ code, i = .mailboxInvalidRequest fn code) ∨ (∃ r, i = .createQueue fn r) ∨ (∃ q, i = .destroyQueue fn q) ∨
        (∃ q v, i = .resetQueue fn q v ∧ (s.mailbox fn).wait ≠ some (.ridx q v)) ∨ (∃ q, i = .resumeQueue fn q) ∨ (∃ r, i = .createEventQueue fn r) ∨
        (∃ k a b, i = .writeContextDescriptor fn k a b) ∨ (∃ x, i = .shootdownRequest fn x) ∨ (∃ r, i = .drainRequest fn r) ∨ (∃ k, i = .resumeAfterDrain fn k) ∨
        (∃ d q r, i = .configureBfq fn d q r) ∨ (∃ a b, i = .latencyTolerance fn a b) ∨ (∃ n, i = .attestationQuote fn n) ∨ i = .healthReport fn ∨
        (∃ a b v, i = .writeDebugRegisters fn a b v) ∨ (∃ x, i = .configurePartitions fn x) ∨ (∃ r, i = .answerRetry fn r) ∨ (∃ r, i = .answerEnd fn r) ∨
        (∃ r l, i = .answerLim fn r l) → exec i s = .next s) ∧
    (MailFree s fn →
      (∀ code, (code = 0 ∨ 0x0F < code) → Declined s fn code 1 (.mailboxInvalidRequest fn code)) ∧
      (∀ r : QueueReq,
        let e := s.evq r.evq
        let n := s.host.nextQueue
        let page := Sparse.look 0 fn s.host.pages
        let fit : Prop := r.ring.toNat % 64 = 0 ∧ r.ridx.toNat % 8 = 0 ∧ 4 ≤ r.log2n ∧ r.log2n ≤ 20 ∧ r.prio ≤ 7 ∧ r.die ≤ 3 ∧ r.reserved = 0 ∧ r.cid ≤ 0xFFFF
        let own : Prop := r.cid ≠ 0 ∧ r.cid ≠ 0xFFFF ∧ (s.context r.cid).w0.getLsbD 0 = true ∧ (fn = 0 ∨ fn = (s.context r.cid).part + 1) ∧ e.live = true ∧ e.fn = fn
        let room : Prop := (s.host.queues.filter (fun p => p.2.live && p.2.cid == r.cid)).length < 1024
        let on : Prop := (∃ k < 20, (s.partOf r.cid).clusters.getLsbD (20 * r.die + k) = true) ∨ ∃ k < 4, (s.partOf r.cid).stackMask.getLsbD (4 * r.die + k) = true
        (¬fit → Declined s fn 1 1 (.createQueue fn r)) ∧ (fit → ¬own → Declined s fn 1 2 (.createQueue fn r)) ∧
        (fit → own → ¬on → Declined s fn 1 1 (.createQueue fn r)) ∧ (fit → own → on → ¬room → Declined s fn 1 2 (.createQueue fn r)) ∧
        (fit → own → on → room → ∃ u t, exec (.createQueue fn r) s = .next t ∧
          u = { s with host := { s.host with queues := u.host.queues, nextQueue := n + 1, pages := u.host.pages } } ∧ Responds u t fn 1 0 (leBytes 8 n) ∧
          (∀ f, Sparse.look 0 f u.host.pages = if f = fn then page + 1 else Sparse.look 0 f s.host.pages) ∧
          ∀ m, u.queue m = if m = n then
            { live := true, fn := fn, page := page, ring := r.ring, ridx := r.ridx, cid := r.cid, log2n := r.log2n, prio := r.prio, die := r.die, evq := r.evq,
              phase := if (s.drainOf r.cid).isSome then .held else .active } else s.queue m)) ∧
      (∀ n v,
        let q := s.queue n
        let mine : Prop := fn = 0 ∨ fn = (s.context q.cid).part + 1
        let first : Prop := (s.mailbox fn).wait ≠ some (.ridx n v)
        (q.live = false → Declined s fn 2 1 (.destroyQueue fn n) ∧ (first → Declined s fn 3 1 (.resetQueue fn n v)) ∧ Declined s fn 3 1 (.resumeQueue fn n)) ∧
        (q.live = true → ¬mine → Declined s fn 2 2 (.destroyQueue fn n) ∧ (first → Declined s fn 3 2 (.resetQueue fn n v)) ∧ Declined s fn 3 2 (.resumeQueue fn n)) ∧
        (q.live = true → mine →
          (q.packets ≠ [] → Declined s fn 2 2 (.destroyQueue fn n)) ∧
          (q.packets = [] → ∃ u t, exec (.destroyQueue fn n) s = .next t ∧ OnlyQueue s u n (fun _ => {}) ∧ Responds u t fn 2 0 []) ∧
          (q.phase = .active → Declined s fn 3 0 (.resumeQueue fn n)) ∧ (q.phase = .blocked ∨ q.phase = .held → Declined s fn 3 2 (.resumeQueue fn n)) ∧
          (q.phase = .error → ∃ u t, exec (.resumeQueue fn n) s = .next t ∧ OnlyQueue s u n (fun q => { q with phase := .active, cause := 0 }) ∧
            Responds u t fn 3 0 []))) ∧
      ∀ r : EventQueueReq,
        let n := s.host.nextEvq
        let fit : Prop := r.base % 4096 = 0 ∧ 4 ≤ r.log2n ∧ r.log2n ≤ 16 ∧ r.vector < 2048
        (¬fit → Declined s fn 4 1 (.createEventQueue fn r)) ∧
        (fit → ∃ u t, exec (.createEventQueue fn r) s = .next t ∧ u = { s with host := { s.host with evqs := u.host.evqs, nextEvq := n + 1 } } ∧
          Responds u t fn 4 0 (leBytes 8 n) ∧
          ∀ m, u.evq m = if m = n then { live := true, fn := fn, base := r.base, log2n := r.log2n, index := r.index, vector := r.vector } else s.evq m)) ∧
    ∀ n v (first : Bool), first = ((s.mailbox fn).wait != some (.ridx n v)) →
      let q := s.queue n
      let i := Instr.resetQueue fn n v
      let at' (q : Queue) : Queue := { q with widx := v, rdx := v }
      let active (q : Queue) : Queue := { q with phase := .active, cause := 0 }
      let busy : Mailbox := { s.mailbox fn with code := 3, busy := true, wait := some (.ridx n v) }
      (first = true → MailFree s fn ∧ q.live = true ∧ (fn = 0 ∨ fn = (s.context q.cid).part + 1)) →
      (q.phase = .active → ∃ t, exec i s = .next t ∧ ResetReplies s t fn first { code := 3 }) ∧
      (q.phase = .blocked ∨ q.phase = .held → ∃ t, exec i s = .next t ∧ ResetReplies s t fn first { code := 3, status := 2 }) ∧
      (q.phase = .error → q.ridx = 0 → ∃ u t, exec i s = .next t ∧ OnlyQueue s u n (fun q => active (at' q)) ∧ ResetReplies u t fn first { code := 3 }) ∧
      (q.phase = .error → q.ridx ≠ 0 → NoStash s →
        let reach := frontPlaces s n .engineWrite q.ridx
        (∀ ps, reach = .ok ps → (∀ l ∈ ownedLines ps, s.isOwned l = false) → ∃ u v' t, exec i s = .next t ∧ Wrote s u ((placesOf ps).zip (leBytes 8 v.toNat)) ∧
          OnlyQueue u v' n (fun q => active (at' q)) ∧ ResetReplies v' t fn first { code := 3 }) ∧
        (∀ a f k, reach = .error (.fault a f k) → ∃ u v' w t, exec i s = .next t ∧ OnlyQueue s u n at' ∧ QueueRecord u v' n 0x24 2 v 0 ∧
          OnlyQueue v' w n active ∧ ResetReplies w t fn first { code := 3 }) ∧
        (∀ ps l, reach = .ok ps → l ∈ ownedLines ps → s.isOwned l = true → ∃ t, exec i s = .next t ∧ ResetReplies s t fn first busy) ∧
        ∀ c p, reach = .error (.page c p) → ∃ u t, exec i s = .next t ∧ ResetReplies u t fn first busy ∧
          let r := (q.die, c, p)
          u = if r ∈ s.ats.requests ∨ r ∈ s.ats.pages ∨ r ∈ s.ats.queued then s else { s with ats := { s.ats with requests := s.ats.requests ++ [r] } })

/-- A partition table has taken effect (R86, R377, R378, R380): each partition is what its entry says, with the domain that the configuration gives (a
free value, log entry 21); bytes newly assigned to one read zero and are not poisoned; a stack that changes hands loses its pinned lines, which stay as
ordinary ones, and its counters; and each die that runs measures the table. -/
def TableTaken (s t : State) (tb : List PartEntry) : Prop :=
  let at' (k : Nat) : Partition := Sparse.look {} k t.partitions
  let fresh (a : Nat) : Bool := a < hbmSize && (List.range 16).any (fun k => holdsPlace (at' k) a && !holdsPlace (Sparse.look {} k s.partitions) a)
  let moved (n : Nat) : Bool := stackOwner s.partitions (n / 8) != stackOwner t.partitions (n / 8)
  let loose := ((List.range 128).filter moved).flatMap (fun k => (Sparse.look {} k s.slices : MemSlice).pinned)
  t = { s with partitions := t.partitions, store := t.store, slices := t.slices, dies := t.dies, free := s.free + 1,
               domain := 1 + Config.domainPackages s.free % 1024 } ∧
    (∀ (k : Nat) (e : PartEntry), k < 16 → tb[k]? = some e → at' k =
      if e.clusters = 0 then ({} : Partition) else
        { clusters := e.clusters, stackMask := e.stackMask, ranges := e.ranges.map (fun r =>
            ((r.extractLsb' 0 10).toNat * 2 ^ 30, ((r.extractLsb' 0 10).toNat + (r.extractLsb' 10 10).toNat + 1) * 2 ^ 30)) }) ∧
    (∀ k ≥ 16, at' k = Sparse.look {} k s.partitions) ∧
    (∀ a, t.store.mem.byte a = if fresh a = true then 0 else s.store.mem.byte a) ∧
    (∀ g, Sparse.look false g t.store.poison = (!fresh (32 * g) && Sparse.look false g s.store.poison)) ∧
    { t.store with mem := [], poison := [], l2 := [], evict := [] } = { s.store with mem := [], poison := [], l2 := [], evict := [] } ∧
    (∀ l, Sparse.look false l t.store.l2 = true → Sparse.look false l s.store.l2 = true ∨ l ∈ loose) ∧
    (∀ l ∈ loose, moved (homeSlice l) = true → homeSlice l < 128 →
      s.store.l2.length + loose.length ≤ 24576 - 512 * (Sparse.look {} (homeSlice l) s.slices : MemSlice).size → Sparse.look false l t.store.l2 = true) ∧
    (∀ n, Sparse.look {} n t.slices =
      if n < 128 ∧ moved n = true then { (Sparse.look {} n s.slices : MemSlice) with pinned := [], counters := [] } else Sparse.look {} n s.slices) ∧
    ∀ d, t.die d = if d < 4 ∧ (s.die d).boot = .running then
      { s.die d with log := (s.die d).log ++ [tableBytes tb], digest := Config.shake256 ((s.die d).digest ++ tableBytes tb) } else s.die d

/-- R11, R29, R30, R375: a descriptor is written at once, unless it would clear V: that is refused while a team of the context is resident or
claimed or a packet under way, and else waits for the shootdown of the whole context. A request for a shootdown is answered once it
is complete. A shootdown is complete when every structure has acknowledged it: the agent that waits for its last one, or for one of eight, goes on, the request
that waits for it is answered. R326, R364, R380, R383: a batch-forming queue is configured whole; the latency tolerance of a partition takes
the value; a debug register takes its value's fields, and one that comes to be enabled is measured in its die's log. -/
def Obligations.ContextRequests : Prop :=
  (∀ (fn : Nat) (s : State), MailFree s fn →
    (∀ k w0 w1,
      let old := s.context k
      let fresh : Context := { w0 := w0, w1 := w1 }
      let fits : Prop := (old.w0.getLsbD 0 = true → fn = 0 ∨ fn = old.part + 1) ∧ (fn = 0 ∨ fn = fresh.part + 1)
      let clears : Prop := old.w0.getLsbD 0 = true ∧ w0.getLsbD 0 = false
      let busy : Prop := (∃ p ∈ s.cores, contextOnCore s p.2 k = true) ∨ ∃ p ∈ s.host.queues, p.2.live = true ∧ p.2.cid = k ∧ p.2.packets ≠ []
      (0xFFFF ≤ k → Declined s fn 5 1 (.writeContextDescriptor fn k w0 w1)) ∧
      (k < 0xFFFF → ¬fits ∨ (clears ∧ busy) → Declined s fn 5 2 (.writeContextDescriptor fn k w0 w1)) ∧
      (k < 0xFFFF → fits → clears → ¬busy → ∃ t, exec (.writeContextDescriptor fn k w0 w1) s = .next t ∧
        let shot : Shoot := { id := s.host.nextShoot, scope := .context k, source := .mailbox fn }
        StaysBusy { s with host := { s.host with shoots := s.host.shoots ++ [shot], nextShoot := s.host.nextShoot + 1 } } t fn 5 (.clearV s.host.nextShoot k w0 w1)) ∧
      (k < 0xFFFF → fits → ¬clears → ∃ u t, exec (.writeContextDescriptor fn k w0 w1) s = .next t ∧ u = { s with contexts := u.contexts } ∧
        Responds u t fn 5 0 [] ∧ ∀ j, u.context j = if j = k then fresh else s.context j)) ∧
    (∀ x,
      let mine : Prop := fn = 0 ∨ ∃ k, fn = (s.context k).part + 1 ∧ (x = .context k ∨ ∃ a n, x = .range k a n)
      (¬mine → Declined s fn 6 2 (.shootdownRequest fn x)) ∧
      (mine → ∃ t, exec (.shootdownRequest fn x) s = .next t ∧
        let shot : Shoot := { id := s.host.nextShoot, scope := x, source := .mailbox fn }
        StaysBusy { s with host := { s.host with shoots := s.host.shoots ++ [shot], nextShoot := s.host.nextShoot + 1 } } t fn 6 (.shoot s.host.nextShoot))) ∧
    (∀ d n (r : BfqReq),
      let old := s.bfq d n
      let has (k : Nat) : Prop := fn = 0 ∨ fn = (s.context k).part + 1
      let fit : Prop := d ≤ 3 ∧ n ≤ 63 ∧ r.stab.toNat % 16 = 0 ∧ 1 ≤ r.nslot ∧ r.nslot ≤ 65536 ∧ 4 ≤ r.rl ∧ r.rl ≤ 4096 ∧ r.rl % 4 = 0 ∧ 1 ≤ r.cap ∧
        r.cap ≤ 4096 ∧ r.reserved = 0 ∧ r.cid ≤ 0xFFFF
      let own : Prop := has r.cid ∧ (old.on = true → has old.cid)
      (¬fit → Declined s fn 9 1 (.configureBfq fn d n r)) ∧ (fit → ¬own → Declined s fn 9 2 (.configureBfq fn d n r)) ∧
      (fit → own → ∃ u t, exec (.configureBfq fn d n r) s = .next t ∧ u = { s with dies := u.dies } ∧ Responds u t fn 9 0 [] ∧
        (∀ d', { u.die d' with bfqs := [] } = { s.die d' with bfqs := [] }) ∧
        ∀ d' m, u.bfq d' m = if d' = d ∧ m = n then
          { on := true, stab := r.stab, nslot := r.nslot, rl := r.rl, cid := r.cid, cap := r.cap, drops := r.drops } else s.bfq d' m)) ∧
    (∀ part cycles,
      (15 < part ∨ 2 ^ 32 ≤ cycles → Declined s fn 0x0A 1 (.latencyTolerance fn part cycles)) ∧
      (part ≤ 15 → cycles < 2 ^ 32 → fn ≠ 0 → fn ≠ part + 1 → Declined s fn 0x0A 2 (.latencyTolerance fn part cycles)) ∧
      (part ≤ 15 → cycles < 2 ^ 32 → fn = 0 ∨ fn = part + 1 → ∃ u t, exec (.latencyTolerance fn part cycles) s = .next t ∧
        u = { s with plat := { s.plat with tolerance := u.plat.tolerance } } ∧ Responds u t fn 0x0A 0 [] ∧
        ∀ p, Sparse.look 40 p u.plat.tolerance = if p = part then cycles else Sparse.look 40 p s.plat.tolerance)) ∧
    ∀ core num (v : DWord),
      let owner := (List.range 16).find? (fun k => (Sparse.look {} k s.partitions).clusters.getLsbD (20 * (core / 160) + core % 160 / 8))
      let a := (s.core core).agent
      let is : Prop := core < 640 ∧ (num = 0x104 ∨ num = 0x105 ∨ (0x108 ≤ num ∧ num ≤ 0x113) ∨ (0x118 ≤ num ∧ num ≤ 0x11B))
      let may : Prop := fn = 0 ∨ ∃ k, owner = some k ∧ fn = k + 1
      let on : Prop := v.getLsbD 0 = true ∧ ((num = 0x11B ∧ a.trctl.getLsbD 0 = false) ∨
        ∃ i < 4, (num = 0x108 + i ∧ (Sparse.look 0 i a.ibp).getLsbD 0 = false) ∨ (num = 0x110 + i ∧ (Sparse.look 0 i a.wpc).getLsbD 0 = false))
      (¬is → Declined s fn 0x0D 1 (.writeDebugRegisters fn core num v)) ∧ (is → ¬may → Declined s fn 0x0D 2 (.writeDebugRegisters fn core num v)) ∧
      (is → may → ∃ u t, exec (.writeDebugRegisters fn core num v) s = .next t ∧ u = { s with cores := u.cores, dies := u.dies } ∧ Responds u t fn 0x0D 0 [] ∧
        (∀ j ≠ core, u.core j = s.core j) ∧
        (let b := (u.core core).agent
         u.core core = { s.core core with agent := b } ∧
          (∀ i < 4, num = 0x108 + i → b = { a with ibp := b.ibp } ∧ ∀ j, Sparse.look 0 j b.ibp = if j = i then v &&& ~~~2#64 else Sparse.look 0 j a.ibp) ∧
          (∀ i < 4, num = 0x10C + i → b = { a with wpa := b.wpa } ∧ ∀ j, Sparse.look 0 j b.wpa = if j = i then v else Sparse.look 0 j a.wpa) ∧
          (∀ i < 4, num = 0x110 + i → b = { a with wpc := b.wpc } ∧
            let size := if 13 ≤ (v.extractLsb' 8 4).toNat then (Sparse.look 0 i a.wpc).extractLsb' 8 4 else v.extractLsb' 8 4
            ∀ j, Sparse.look 0 j b.wpc = if j = i then (size.setWidth 64 <<< 8) ||| (v &&& 7#64) else Sparse.look 0 j a.wpc) ∧
          (num = 0x104 → b = { a with wlthr := v.setWidth 32 }) ∧
          (num = 0x105 → b = { a with dctlCid := (v.extractLsb' 32 16).toNat, dctlAll := v.getLsbD 1, dctlHold := v.getLsbD 0 }) ∧
          (num = 0x118 → b = { a with tbase := v }) ∧ (num = 0x119 → b = { a with tsize := v }) ∧ (num = 0x11A → b = a) ∧
          (num = 0x11B → b = { a with trctl := v &&& 0x3F })) ∧
        let e := leBytes 4 core ++ leBytes 4 num ++ leBytes 8 v.toNat
        (on → ∀ d, u.die d = if d = core / 160 then
          { s.die d with log := (s.die d).log ++ [e], digest := Config.shake256 ((s.die d).digest ++ e) } else s.die d) ∧ (¬on → ∀ d, u.die d = s.die d))) ∧
  ∀ (id : Nat) (s : State),
    ((∀ x ∈ s.host.shoots, x.id ≠ id) → exec (.shootdownComplete id) s = .next s) ∧
    ∀ x, s.host.shoots.find? (fun y => y.id == id) = some x →
      let all : Prop := (∀ k < 640, AckUnit.core k ∈ x.acks) ∧ (∀ k < 80, AckUnit.cluster k ∈ x.acks) ∧ (∀ d < 4, AckUnit.die d ∈ x.acks) ∧
        ∀ g < 64, AckUnit.glen g ∈ x.acks
      let u : State := { s with host := { s.host with shoots := s.host.shoots.filter (fun y => y.id != id) } }
      (¬all → exec (.shootdownComplete id) s = .next s) ∧
      (all → x.source = .host → exec (.shootdownComplete id) s = .next u) ∧
      (∀ fn, all → x.source = .mailbox fn → (s.mailbox fn).wait = some (.shoot id) → ∃ t, exec (.shootdownComplete id) s = .next t ∧ MailBecomes u t fn { code := 6 }) ∧
      (∀ fn k w0 w1, all → x.source = .mailbox fn → (s.mailbox fn).wait = some (.clearV id k w0 w1) → ∃ v t, exec (.shootdownComplete id) s = .next t ∧
        v = { u with contexts := v.contexts } ∧ MailBecomes v t fn { code := 5 } ∧ ∀ j, v.context j = if j = k then { w0 := w0, w1 := w1 } else s.context j) ∧
      (∀ fn ids tb, all → x.source = .mailbox fn → (s.mailbox fn).wait = some (.shoots ids tb) → (∃ y ∈ ids, y ≠ id) →
        ∃ t, exec (.shootdownComplete id) s = .next t ∧
          MailBecomes u t fn { s.mailbox fn with code := 0x0E, busy := true, wait := some (.shoots (ids.filter (fun y => y != id)) tb) }) ∧
      (∀ fn ids tb, all → x.source = .mailbox fn → (s.mailbox fn).wait = some (.shoots ids tb) → (∀ y ∈ ids, y = id) →
        ∃ v t, exec (.shootdownComplete id) s = .next t ∧ TableTaken u v tb ∧ MailBecomes v t fn { code := 0x0E }) ∧
      ∀ k had, all → x.source = .agent k →
        let w := Who.gang { core := k, bank := 0, slot := 15, slice := 0 }
        let run := ((s.groupAt k 0 15).slice 0).run
        let left := (u.host.shoots.filter (fun y => y.source == .agent k)).length
        (run = .waiting (.tlbi true) had → left = 0 → ∃ t, exec (.shootdownComplete id) s = .next t ∧
          GroupBecomes u t w (fun g => { g with slices := g.slices.map (fun y => { y with run := .running }) })) ∧
        (run = .waiting (.tlbi false) had → left < 8 → ∃ t, exec (.shootdownComplete id) s = .next t ∧
          GroupBecomes u t w (fun g => { g with slices := g.slices.map (fun y =>
            match y.run with | .waiting q had => { y with run := .woken (q :: had), ready := s.now, wake := 0 } | _ => y) })) ∧
        ((run = .waiting (.tlbi true) had ∧ left ≠ 0) ∨ (run = .waiting (.tlbi false) had ∧ 8 ≤ left) ∨ run = .running →
          exec (.shootdownComplete id) s = .next u)

/-- Drains have begun: `added` are the new ones in order, the queues of their contexts are HELD and their open grids DRAINING (R348). -/
def DrainsBegin (s t : State) (added : List Drain) : Prop :=
  let of (cid : Nat) : Bool := added.any (fun d => d.cid == cid)
  t = { s with host := t.host, dies := t.dies } ∧ t.host = { s.host with drains := s.host.drains ++ added, queues := t.host.queues } ∧
    (∀ m, t.queue m = if (s.queue m).live = true ∧ of (s.queue m).cid = true ∧ (s.queue m).phase ≠ .held then
      { s.queue m with before := (s.queue m).phase, phase := .held } else s.queue m) ∧
    (∀ d, { t.die d with grids := [] } = { s.die d with grids := [] }) ∧
    ∀ d n, t.grid d n =
      if (s.grid d n).live = true ∧ of (s.grid d n).launch.cid = true ∧ (s.grid d n).phase = .open' then { s.grid d n with phase := .draining } else s.grid d n

/-- An event of a core's agent about a team has gone out: the core's next record, with a cause, to the team's queue, and an event for the agent (R349,
R354, R355). -/
def TeamTold (s t : State) (core queue cid code : Nat) : Prop :=
  ∃ u v, u = { s with cores := u.cores } ∧ (∀ k, u.core k = if k = core then { s.core k with recSeq := ((s.core k).recSeq + 1) % 2 ^ 32 } else s.core k) ∧
    Posted u v (s.queue queue).evq (leBytes 8 ((coreAid core 8).toNat * 2 ^ 32 + cid % 2 ^ 16 * 2 ^ 16 + 5) ++ leBytes 8 0 ++
      leBytes 8 ((s.core core).recSeq % 2 ^ 32 * 2 ^ 32) ++ leBytes 8 (code * 2 ^ 56) ++ leBytes 16 0 ++ leBytes 8 s.now ++ leBytes 8 0) ∧
    t = { v with cores := t.cores } ∧
    ∀ k, t.core k = if k = core then { v.core k with agent := { (v.core k).agent with events := (v.core k).agent.events ++ [5], halted := false } } else v.core k

/-- R348, R349, R352, R378: a drain holds the queues of its context, lets no agent claim from its grids and records a claimed team that
does not fit as unstarted. Once its time has passed each resident team is saved when it is ready, at the area's cursor, which goes on by whole
pages, and its image is on its grid's list; one that does not fit stays, its issue stopped, and is told once. A grid with teams to run
becomes SAVED once all of the context have retired or been saved; then, with no COPY running, the drain is complete. The resume
opens the grids and releases the queues to the states that they had. More room lets the teams be tried again. A partition table that breaks a rule has status 1, from a virtual
function status 2; one that concerns no context takes effect at once; one that does drains their contexts first, and shoots them down then. That a resumed
queue takes the state that it had is a reading of R352 (log entry 35). -/
def Obligations.DrainsAndPartitions : Prop :=
  (∀ (fn : Nat) (s : State), MailFree s fn →
    (∀ r : DrainReq,
      let limit := if r.limit = 0 then 800000 else r.limit
      let fit : Prop := r.area.toNat % 4096 = 0 ∧ 1600 ≤ limit ∧ limit ≤ 1600000000 ∧ r.cid ≠ 0 ∧ r.cid < 0xFFFF
      let own : Prop := (fn = 0 ∨ fn = (s.context r.cid).part + 1) ∧ s.drainOf r.cid = none
      let d : Drain := { cid := r.cid, fn := fn, area := r.area, size := r.size, limit := limit, begun := s.now }
      (¬fit → Declined s fn 7 1 (.drainRequest fn r)) ∧ (fit → ¬own → Declined s fn 7 2 (.drainRequest fn r)) ∧
      (fit → own → (∀ p ∈ s.cores, ∀ q, p.2.crew.claim = some q → (s.grid q.die q.grid).launch.cid ≠ r.cid) →
        ∃ u t, exec (.drainRequest fn r) s = .next t ∧ DrainsBegin s u [d] ∧ Responds u t fn 7 0 []) ∧
      ∀ k q, fit → own → (s.core k).crew.claim = some q → (∀ p ∈ s.cores, p.1 ≠ k → p.2.crew.claim = none) →
        let g := s.grid q.die q.grid
        let n := g.launch.kernel.need
        g.launch.cid = r.cid → g.live = true →
        findPlace (s.core k) (occOf s k) r.cid n = none ∨ localSlots g (n.groups.length + (if n.trsb = 0 then 0 else 1)) = none →
          ∃ u v t, exec (.drainRequest fn r) s = .next t ∧ DrainsBegin s u [d] ∧ v = { u with cores := v.cores, dies := v.dies } ∧
            (∀ x, { v.die x with grids := [] } = { u.die x with grids := [] }) ∧
            (∀ x y, v.grid x y = if x = q.die ∧ y = q.grid then { u.grid x y with saves := g.saves ++ [.unstarted q.t] } else u.grid x y) ∧
            (∀ j, v.core j = if j = k then { u.core j with crew := { (u.core j).crew with claim := none } } else u.core j) ∧ Responds v t fn 7 0 []) ∧
    (∀ cid,
      (s.drainOf cid = none → Declined s fn 8 1 (.resumeAfterDrain fn cid)) ∧
      ∀ d, s.drainOf cid = some d →
        let ok : Prop := (fn = 0 ∨ fn = (s.context cid).part + 1) ∧ d.complete = true
        (¬ok → Declined s fn 8 2 (.resumeAfterDrain fn cid)) ∧
        (ok → ∃ u t, exec (.resumeAfterDrain fn cid) s = .next t ∧ u = { s with host := u.host, dies := u.dies } ∧
          u.host = { s.host with drains := s.host.drains.filter (fun x => x.cid != cid), queues := u.host.queues } ∧ Responds u t fn 8 0 [] ∧
          (∀ m, u.queue m = if (s.queue m).live = true ∧ (s.queue m).cid = cid ∧ (s.queue m).phase = .held then
            { s.queue m with phase := (s.queue m).before, before := .active } else s.queue m) ∧
          (∀ x, { u.die x with grids := [] } = { s.die x with grids := [] }) ∧
          ∀ x n, u.grid x n = if (s.grid x n).live = true ∧ (s.grid x n).launch.cid = cid ∧ (s.grid x n).phase = .saved then { s.grid x n with phase := .open' } else s.grid x n)) ∧
    ∀ tb : List PartEntry,
      let i := Instr.configurePartitions fn tb
      let valid := tb.filter (fun e => e.clusters != 0)
      let span (r : BitVec 32) : Nat × Nat := ((r.extractLsb' 0 10).toNat, (r.extractLsb' 0 10).toNat + (r.extractLsb' 10 10).toNat + 1)
      let spans := valid.flatMap (fun e => e.ranges.map span)
      let breaks : Prop := tb.length ≠ 16 ∨
        (∃ e ∈ valid, 2 ^ 80 ≤ e.clusters.toNat ∨ e.reserved ≠ 0 ∨ e.ranges = [] ∨ 8 < e.ranges.length ∨
          ∃ r ∈ e.ranges, 2 ^ 20 ≤ r.toNat ∨ 1024 < (span r).2 ∨ (span r).1 / 64 ≠ ((span r).2 - 1) / 64 ∨ e.stackMask.getLsbD ((span r).1 / 64) = false) ∨
        (∃ (j k : Nat) (e f : PartEntry), j < k ∧ valid[j]? = some e ∧ valid[k]? = some f ∧ (e.clusters &&& f.clusters ≠ 0 ∨ e.stackMask &&& f.stackMask ≠ 0)) ∨
        ∃ (j k : Nat) (x y : Nat × Nat), j < k ∧ spans[j]? = some x ∧ spans[k]? = some y ∧ x.1 < y.2 ∧ y.1 < x.2
      let cids := (s.contexts.filter (fun p => p.2.w0.getLsbD 0 && (changedParts s tb).contains p.2.part)).map Prod.fst
      (fn ≠ 0 → Declined s fn 0x0E 2 i) ∧ (fn = 0 → breaks → Declined s fn 0x0E 1 i) ∧
      (fn = 0 → ¬breaks → cids = [] → ∃ u t, exec i s = .next t ∧ TableTaken s u tb ∧ Responds u t 0 0x0E 0 []) ∧
      (fn = 0 → ¬breaks → cids ≠ [] → (∀ p ∈ s.cores, p.2.crew.claim = none) → ∃ u t added, exec i s = .next t ∧ DrainsBegin s u added ∧
        StaysBusy u t 0 0x0E (.drains cids tb) ∧ (added.map Drain.cid).Nodup ∧
        ∀ d, d ∈ added ↔ d.cid ∈ cids ∧ s.drainOf d.cid = none ∧ d = { cid := d.cid, fn := 0, area := 0, size := 0, limit := 800000, begun := s.now })) ∧
  ∀ (cid : Nat) (s : State),
    (s.drainOf cid = none → exec (.drainTimeout cid) s = .next s ∧ exec (.drainComplete cid) s = .next s) ∧
    (∀ n, ∃ t, exec (.saveAreaSupply cid n) s = .next t ∧
      t = { s with host := { s.host with drains := s.host.drains.map (fun d => if d.cid == cid then { d with size := d.size + n, told := [] } else d) } }) ∧
    ∀ d, s.drainOf cid = some d →
      let settled (g : Grid) : Grid := if g.live = true ∧ g.launch.cid = cid ∧ g.phase = .draining ∧ (g.ticket < g.teams ∨ g.saves ≠ []) then { g with phase := .saved } else g
      let empty : Prop := ∀ p ∈ s.cores, contextOnCore s p.2 cid = false
      let copies : Prop := ∃ p ∈ s.host.queues, p.2.live = true ∧ p.2.cid = cid ∧ ∃ x ∈ p.2.packets, x.kind = .copy ∧ x.finished = false
      let drainIs (t : State) (f : Drain → Drain) : Prop := t.host = { s.host with drains := s.host.drains.map (fun d => if d.cid == cid then f d else d) }
      let grids (t : State) : Prop := (∀ x, { t.die x with grids := [] } = { s.die x with grids := [] }) ∧ ∀ x n, t.grid x n = settled (s.grid x n)
      let done (t : State) : Prop := t = { s with dies := t.dies, host := t.host } ∧ drainIs t (fun d => { d with complete := true, programs := programsOf s cid }) ∧ grids t
      let ready : Prop := d.complete = false ∧ empty ∧ ¬copies
      let waits (p : Nat × Mailbox) : Prop := ∃ cs tb, p.2.wait = some (.drains cs tb)
      (d.complete = true ∨ ¬empty ∨ copies → exec (.drainComplete cid) s = .next s) ∧
      (ready → (∀ m ∈ s.host.mail, ¬waits m) → ∃ t, exec (.drainComplete cid) s = .next t ∧ done t) ∧
      (∀ pre f m post cs tb, ready → s.host.mail = pre ++ (f, m) :: post → m.wait = some (.drains cs tb) → (∀ x ∈ pre ++ post, ¬waits x ∧ x.1 ≠ f) →
        (∀ c ∈ cs, c = cid ∨ ∀ e, s.drainOf c = some e → e.complete = true) → ∃ u v t, exec (.drainComplete cid) s = .next t ∧ done u ∧
          (let shot (p : Nat × Nat) : Shoot := { id := s.host.nextShoot + p.2, scope := .context p.1, source := .mailbox f }
           v = { u with host := { u.host with shoots := s.host.shoots ++ cs.zipIdx.map shot, nextShoot := s.host.nextShoot + cs.length } }) ∧
          MailBecomes v t f { m with code := 0x0E, busy := true, wait := some (.shoots ((List.range cs.length).map (fun i => s.host.nextShoot + i)) tb) }) ∧
      (d.complete = true ∨ s.now < d.begun + d.limit → exec (.drainTimeout cid) s = .next s) ∧
      (d.complete = false → d.begun + d.limit ≤ s.now → empty → ∃ t, exec (.drainTimeout cid) s = .next t ∧
        t = { s with dies := t.dies, host := t.host } ∧ drainIs t (fun d => { d with forced := true }) ∧ grids t) ∧
      ∀ k n, d.complete = false → d.begun + d.limit ≤ s.now → teamsOf s cid = [(k, n)] → (s.core k).caches.stores = [] → (s.core k).caches.wc = [] →
        let t0 := (s.core k).team n
        let size := (teamSizes (s.core k) n).2
        let va := d.area + BitVec.ofNat 64 d.cursor
        let parked (t : State) (f : Drain → Drain) : Prop := t = { s with cores := t.cores, host := t.host } ∧ drainIs t f ∧ (∀ j ≠ k, t.core j = s.core j) ∧
          { t.core k with crew := {} } = { s.core k with crew := {} } ∧ { (t.core k).crew with teams := [] } = { (s.core k).crew with teams := [] } ∧
          ∀ m, (t.core k).team m = if m = n then { t0 with parked := true } else (s.core k).team m
        (d.size < d.cursor + size → 16 * k + n ∈ d.told → ∃ t, exec (.drainTimeout cid) s = .next t ∧ parked t (fun d => { d with forced := true })) ∧
        (d.size < d.cursor + size → 16 * k + n ∉ d.told → NoStash s → ∃ u t, exec (.drainTimeout cid) s = .next t ∧
          parked u (fun d => { d with forced := true, told := d.told ++ [16 * k + n] }) ∧ TeamTold u t k t0.queue cid 0x22) ∧
        (d.cursor + size ≤ d.size → saveReady s k n = false → ∃ t, exec (.drainTimeout cid) s = .next t ∧ parked t (fun d => { d with forced := true })) ∧
        (d.cursor + size ≤ d.size → saveReady s k n = true → NoStash s → s.store.cut = [] → t0.stash = [] → (∀ p ∈ s.cores, ∀ f ∈ p.2.flags, f.2.held = []) →
          let bs := imageBytes (s.core k) n []
          ∀ ps, agentReach s k cid .write (runPieces va bs.length) = .ok ps → (∀ x ∈ ownedLines ps, s.isOwned x = false) → (placesOf ps).Nodup →
            ∃ t, exec (.drainTimeout cid) s = .next t ∧
              (∀ (i p : Nat) (b : Byte), (placesOf ps)[i]? = some p → bs[i]? = some b → t.store.mem.byte p = b) ∧
              (∀ p, p ∉ placesOf ps → t.store.mem.byte p = s.store.mem.byte p) ∧ (t.core k).team n = {} ∧ (∀ m ≠ n, (t.core k).team m = (s.core k).team m) ∧
              (∀ key, (t.core k).groupK key = if key ∈ teamGroups (s.core k) n then {} else (s.core k).groupK key) ∧ (∀ j ≠ k, (t.core j).groups = (s.core j).groups) ∧
              (t.core k).crew.tasks = (s.core k).crew.tasks.filter (fun q => q.team != n) ∧ (∃ x ∈ t.host.saved, x.img = va ∧ x.space = cid ∧ x.cid = t0.cid) ∧
              (t.grid t0.die t0.grid).saves = (s.grid t0.die t0.grid).saves ++ [.image va] ∧
              ∃ e, t.drainOf cid = some e ∧ e.forced = true ∧ e.cursor = d.cursor + (bs.length + 4095) / 4096 * 4096 ∧ e.images = d.images ++ [va])

/-- A stopped slice goes on (R360, R365): after a Before stop its bundle replays, without rematching its breakpoint; after an After stop it goes on with what
its bundle left it waiting for. -/
def resumedSlice (y : Slice) : Slice :=
  { y with run := (match y.run with
             | .stopped x false => if x.code == 0x13 then .woken [] else .running
             | _ => match y.pend with | some w => .waiting w [] | none => .running)
           debugStopped := false, pend := none }

/-- R78, R136, R252, R353, R358 to R360, R363, R365, R375: an answer to a record that is not outstanding, or that its cause does not accept, has status 1, to
one of another partition status 2, and nothing else changes. RETRY lets the gang go on, and its bank once no other fault of it is outstanding; the
command or the copy goes on. END ends the team: its groups exit and its queued tasks are dropped; or the glen program, or a copy with cause 0x0C. LIM
puts the group's LIM at the value and the stopped bundle replays. An answer about a team that has been saved waits for its restore. What is kept of a record about a saved team: log entry 28. -/
def Obligations.Answers : Prop :=
  ∀ (fn : Nat) (r : RecordName) (lim : Word) (s : State), MailFree s fn →
    let three : List Instr := [.answerRetry fn r, .answerEnd fn r, .answerLim fn r lim]
    ((∀ o ∈ s.host.outs, o.name = r → o.answer ≠ none) → ∀ i ∈ three, Declined s fn 0x0F 1 i) ∧
    ∀ o, s.host.outs.find? (fun x => x.name == r && x.answer.isNone) = some o →
      let mine : Prop := fn = 0 ∨ fn = (s.context o.cid).part + 1
      let retry : Prop := (o.code = 0x01 ∧ o.rpl = true) ∨ o.code = 0x10 ∨ (0x12 ≤ o.code ∧ o.code ≤ 0x14)
      let u : State := { s with host := { s.host with outs := s.host.outs.filter (fun x => x != o) } }
      let answered (i : Instr) (p : State → Prop) : Prop := ∃ v t, exec i s = .next t ∧ p v ∧ Responds v t fn 0x0F 0 []
      let resumes (x v : State) (w : Who) (ks : List Nat) : Prop := OnlyRegisters w x v ∧ v.groupOf w = (s.groupOf w).onSlices ks resumedSlice
      (¬mine → ∀ i ∈ three, Declined s fn 0x0F 2 i) ∧
      (mine → ¬retry → Declined s fn 0x0F 1 (.answerRetry fn r)) ∧ (mine → ¬retry → o.code ≠ 0x04 → Declined s fn 0x0F 1 (.answerEnd fn r)) ∧
      (mine → o.code ≠ 0x04 → Declined s fn 0x0F 1 (.answerLim fn r lim)) ∧
      (∀ a ks, mine → o.about = .gang (.gang a) ks → o.code = 0x01 → o.rpl = true → answered (.answerRetry fn r) (fun v =>
        let other : Prop := ∃ x ∈ u.host.outs, x.code = 0x01 ∧ ∃ b js, x.about = .gang (.gang b) js ∧ b.core = a.core ∧ b.bank = a.bank
        ∃ x, x = { u with cores := x.cores } ∧ (∀ j ≠ a.core, x.core j = s.core j) ∧
          x.core a.core = { s.core a.core with crew := { (s.core a.core).crew with frozen := (x.core a.core).crew.frozen } } ∧
          (∀ b, b ≠ a.bank ∨ other → Sparse.look false b (x.core a.core).crew.frozen = Sparse.look false b (s.core a.core).crew.frozen) ∧
          (¬other → Sparse.look false a.bank (x.core a.core).crew.frozen = false) ∧ resumes x v (.gang a) ks)) ∧
      (∀ a ks, mine → o.about = .gang (.gang a) ks → o.code = 0x10 → answered (.answerRetry fn r) (fun v => resumes u v (.gang a) ks)) ∧
      (∀ a ks, mine → o.about = .gang (.gang a) ks → 0x12 ≤ o.code → o.code ≤ 0x14 → (s.core a.core).agent.dctlAll = false →
        (∀ p ∈ s.cores, ∀ f ∈ p.2.flags, f.2.held = []) → answered (.answerRetry fn r) (fun v => resumes u v (.gang a) ks)) ∧
      (∀ n ks, mine → retry → o.about = .gang (.glen n) ks → answered (.answerRetry fn r) (fun v => resumes u v (.glen n) ks)) ∧
      (∀ k id d, mine → retry → o.about = .cmd k id → (s.core k).cmd id = some d → isBfq d.op = false → answered (.answerRetry fn r) (fun v =>
        v = { u with cores := v.cores } ∧ (∀ j ≠ k, v.core j = s.core j) ∧
          v.core k = { s.core k with cmds := (s.core k).cmds.map (fun x => if x.id == id then { x with paused := none } else x) })) ∧
      (∀ n id, mine → retry → o.about = .glenCmd n id → answered (.answerRetry fn r) (fun v =>
        v = { u with glens := v.glens } ∧ (∀ j ≠ n, v.glen j = s.glen j) ∧
          v.glen n = { s.glen n with cmds := (s.glen n).cmds.map (fun x => if x.id == id then { x with paused := none } else x) })) ∧
      (∀ n i, mine → retry → o.about = .packet n i →
        answered (.answerRetry fn r) (fun v =>
          OnlyQueue u v n (fun q => { q with packets := q.packets.map (fun x => if x.index == i then { x with paused := false } else x) })) ∧
        (NoStash s → (s.queue n).live = true → answered (.answerEnd fn r) (fun v =>
          ∃ w, OnlyQueue { u with store := { u.store with owners := u.store.owners.filter (fun x => !(x.unit == copyUnit n && x.cmd == i)) } } w n
            (fun q => { q with packets := q.packets.filter (fun y => y.index != i) }) ∧ QueueError w v n 0x0C i 0))) ∧
      (∀ sp va g ks x after, mine → retry → o.about = .saved sp va g ks x after →
        answered (.answerRetry fn r) (fun v => v = { u with host := { u.host with outs := u.host.outs ++ [{ o with answer := some true }] } }) ∧
        answered (.answerEnd fn r) (fun v => v = { u with host := { u.host with outs := u.host.outs ++ [{ o with answer := some false }] } })) ∧
      (∀ a ks, mine → retry ∨ o.code = 0x04 → o.about = .gang (.gang a) ks →
        let core := s.core a.core
        let n := 8 * a.bank + (s.groupAt a.core a.bank a.slot).gid.team
        (core.team n).live = true → isAgent (.gang a) = false → (∀ d ∈ core.cmds, d.paused = none) →
        answered (.answerEnd fn r) (fun v =>
          let c := v.core a.core
          v = { u with cores := v.cores, host := v.host } ∧ v.host = { u.host with outs := v.host.outs } ∧ (∀ x ∈ v.host.outs, x ∈ u.host.outs) ∧
            (∀ j ≠ a.core, v.core j = s.core j) ∧ { c with groups := [], rings := [], crew := {} } = { core with groups := [], rings := [], crew := {} } ∧
            c.crew = { core.crew with tasks := core.crew.tasks.filter (fun q => q.team != n), teams := c.crew.teams, frozen := c.crew.frozen } ∧
            (∀ m, c.team m = if m = n then { core.team n with ending := some { code := o.code } } else core.team m) ∧
            (∀ key ∉ teamGroups core n, c.groupK key = core.groupK key) ∧
            ∀ key ∈ teamGroups core n, (core.groupK key).slices.length ≤ 8 → c.groupK key =
              { core.groupK key with
                vliw := false, holds := []
                slices := (core.groupK key).slices.map (fun x => { x with exited := true, run := .running, debugStopped := false })
                inflight := (core.groupK key).inflight.map (fun f => if f.load then { f with lanes := [] } else f) })) ∧
      (∀ k id d, mine → retry → o.about = .cmd k id → (s.core k).cmd id = some d → ((s.core k).team d.team).live = true → answered (.answerEnd fn r) (fun v =>
        ((v.core k).team d.team).ending = some { code := o.code } ∧ (v.core k).cmd id = none ∧ ∀ q ∈ (v.core k).crew.tasks, q.team ≠ d.team)) ∧
      (∀ n ks, mine → retry → o.about = .gang (.glen n) ks → (∀ d ∈ (s.glen n).cmds, d.paused = none) → answered (.answerEnd fn r) (fun v =>
        v = { u with glens := v.glens, host := v.host } ∧ v.host = { u.host with outs := v.host.outs } ∧ (∀ x ∈ v.host.outs, x ∈ u.host.outs) ∧
          (∀ j ≠ n, v.glen j = s.glen j) ∧ v.glen n = { s.glen n with prog := { (s.glen n).prog with ended := true, failed := true } })) ∧
      (∀ n id, mine → retry → o.about = .glenCmd n id → answered (.answerEnd fn r) (fun v => (v.glen n).prog.ended = true ∧ (v.glen n).prog.failed = true)) ∧
      ∀ w ks, mine → o.code = 0x04 → o.about = .gang w ks → isGlen w = false → answered (.answerLim fn r lim) (fun v =>
        OnlyRegisters w u v ∧ v.groupOf w = { (s.groupOf w).onSlices ks resumedSlice with win := { (s.groupOf w).win with lim := lim } })

/-! ## The platform (R72 to R74, R372 to R374, R377, R379 to R385) -/

/-- R379, R380, R385: a package reset leaves every register, cache and memory of the package as after reset: the fuses, the index of quotes and the memory outside
the package stay. A die runs, with the first entry in its log, where the boot image is verified by the vendor key that is not revoked or a customer
slot, and else runs nothing. R379: a customer slot is written once, the vendor key is revoked for good. R381: a power failure
changes nothing but that the package has no power; a quote of a nonce of 32 bytes advances the index before its signature is released, until the
last is used. The layout of a quote is the model's choice (log entry 36). -/
def Obligations.BootAndAttestation : Prop :=
  (∀ s : State, ∃ t, exec .packageReset s = .next t ∧
    t = { State.reset with store := { mem := t.store.mem, poison := t.store.poison }, dies := t.dies, free := s.free, agenda := s.agenda,
                           plat := { keys := s.plat.keys, revoked := s.plat.revoked, quote := s.plat.quote } } ∧
    (∀ a, t.store.mem.byte a = if 2 ^ 60 ≤ a then s.store.mem.byte a else 0) ∧
    (∀ g, Sparse.look false g t.store.poison = (decide (2 ^ 60 ≤ 32 * g) && Sparse.look false g s.store.poison)) ∧ t.plat.power = true ∧
    (∀ d ≥ 4, t.die d = {}) ∧
    ∀ d < 4,
      let h := Config.imageKeyHash Config.bootImage
      let vendor : Prop := h = Config.vendorKeyHash ∧ s.plat.revoked = false
      let entry (k : Nat) : List Byte := Config.romVersion ++ Config.shake256 Config.bootImage ++ leBytes 1 k
      (Config.xmssVerifies Config.bootImage = false ∨ (¬vendor ∧ ∀ k < 4, (k, h) ∉ s.plat.keys) → t.die d = { boot := .failed }) ∧
      (Config.xmssVerifies Config.bootImage = true → vendor →
        t.die d = { boot := .running, log := [entry 4], digest := Config.shake256 (List.replicate 32 0 ++ entry 4) }) ∧
      (∀ k < 4, Config.xmssVerifies Config.bootImage = true → ¬vendor → (k, h) ∈ s.plat.keys → (∀ j < k, (j, h) ∉ s.plat.keys) →
        t.die d = { boot := .running, log := [entry k], digest := Config.shake256 (List.replicate 32 0 ++ entry k) })) ∧
  (∀ (slot : Nat) (hash : List Byte) (s : State),
    let ok : Prop := slot < 4 ∧ hash.length = 32 ∧ ∀ p ∈ s.plat.keys, p.1 ≠ slot
    (¬ok → exec (.customerKeySlotProvision slot hash) s = .next s) ∧
    (ok → ∃ t, exec (.customerKeySlotProvision slot hash) s = .next t ∧ t = { s with plat := { s.plat with keys := t.plat.keys } } ∧
      ∀ k, Sparse.look [] k t.plat.keys = if k = slot then hash else Sparse.look [] k s.plat.keys)) ∧
  (∀ s : State, exec .vendorKeyRevocation s = .next { s with plat := { s.plat with revoked := true } }) ∧
  (∀ s : State, exec .powerFailure s = .next { s with plat := { s.plat with power := false } }) ∧
  ∀ (fn : Nat) (nonce : List Byte) (s : State), MailFree s fn →
    (nonce.length ≠ 32 → Declined s fn 0x0B 1 (.attestationQuote fn nonce)) ∧
    (nonce.length = 32 → 1048575 < s.plat.quote → Declined s fn 0x0B 2 (.attestationQuote fn nonce)) ∧
    (nonce.length = 32 → s.plat.quote ≤ 1048575 →
      let digests := (s.die 0).digest ++ (s.die 1).digest ++ (s.die 2).digest ++ (s.die 3).digest
      let logs := (s.die 0).log.flatten ++ (s.die 1).log.flatten ++ (s.die 2).log.flatten ++ (s.die 3).log.flatten
      ∃ t, exec (.attestationQuote fn nonce) s = .next t ∧
        Responds { s with plat := { s.plat with quote := s.plat.quote + 1 } } t fn 0x0B 0 (logs ++ digests ++ Config.xmssSign s.plat.quote (nonce ++ digests)))

/-- Only island `k` changes, by `f`. -/
def IslandBecomes (s t : State) (k : Nat) (f : Island → Island) : Prop :=
  t = { s with plat := { s.plat with islands := t.plat.islands } } ∧ ∀ j, t.island j = if j = k then f (s.island j) else s.island j

/-- An island has lost its TLBs and caches: those of its cores, of its glen core, or the bank of its slice. -/
def IslandCleared (s t : State) (k : Nat) : Prop :=
  t = { s with cores := t.cores, glens := t.glens, tlbs := t.tlbs } ∧
    (∀ c, t.core c = if c ∈ islandCores k then
      { s.core c with caches := { (s.core c).caches with icache := [], l1 := [], l1own := [], tlb := [] } } else s.core c) ∧
    (∀ g, t.glen g = if islandGlen k = some g then { s.glen g with tlb := [] } else s.glen g) ∧
    ∀ j, Sparse.look [] j t.tlbs = if 128 ≤ j ∧ islandSlice k = some (j - 128) then [] else Sparse.look [] j s.tlbs

/-- An event of class 5 of a core's agent about a structure has gone out: its next record, with a cause and the place in AUX, to the lowest live event
queue where there is one (log entry 12), and an event for the agent (R74, R354, R355). -/
def AgentTold (s t : State) (core code : Nat) (aux : DWord) : Prop :=
  ∃ u, u = { s with cores := u.cores } ∧
    (∀ k, u.core k = if k = core then
      { s.core k with recSeq := ((s.core k).recSeq + 1) % 2 ^ 32
                      agent := { (s.core k).agent with events := (s.core k).agent.events ++ [5], halted := false } } else s.core k) ∧
    ((∀ p ∈ s.host.evqs, p.2.live = false) → t = u) ∧
    ∀ pre n e post, s.host.evqs = pre ++ (n, e) :: post → e.live = true → (∀ p ∈ pre, p.2.live = false) →
      Posted u t n (leBytes 8 ((coreAid core 8).toNat * 2 ^ 32 + 5) ++ leBytes 8 0 ++ leBytes 8 ((s.core core).recSeq % 2 ^ 32 * 2 ^ 32) ++
        leBytes 8 (code * 2 ^ 56) ++ leBytes 16 0 ++ leBytes 8 s.now ++ leBytes 8 aux.toNat)

/-- R382 to R384: an island without work for 1,024 cycles rests in the deepest state whose exit takes no longer than its partition tolerates, GATED where it
belongs to none or is withdrawn, but RETAIN for GATED while its slice of the L2 holds data; a GATED one has lost its TLBs and caches. An island with work, or
too deep for its partition's tolerance, leaves its state, and runs once 40, 3,200 or 80,000 cycles have passed. The monitors raise its supply within 450 to
750 mV; a life below 720 hours is told, and one that needs more supply is withdrawn, GATED once without work, and told. The health report gives the supply, the
corrected errors and the predicted life of each island of the function's partition. The layout of the report is the model's choice (log entry 36). -/
def Obligations.Islands : Prop :=
  (∀ (k : Nat) (s : State), k < 512 →
    let x := s.island k
    let exit (p : IslandPhase) : Nat := match p with | .run => 0 | .clockstop => 40 | .retain => 3200 | .gated => 80000
    let busy := islandWorks s k
    let part := islandPart s k
    let tol := Sparse.look 40 (part.getD 0) s.plat.tolerance
    let deepest : IslandPhase :=
      if part = none ∨ x.withdrawn = true ∨ 80000 ≤ tol then .gated else if 3200 ≤ tol then .retain else if 40 ≤ tol then .clockstop else .run
    let data : Bool := match islandSlice k with
      | some j => !x.withdrawn && (s.store.l2.any (fun p => p.2 && homeSlice p.1 == j) || !(Sparse.look {} j s.slices : MemSlice).pinned.isEmpty)
      | none => false
    let rest : IslandPhase := if deepest = .gated ∧ data = true then .retain else deepest
    let stays : Prop := busy = true ∨ x.wakes ≠ 0 ∨ (x.phase = .run ∧ s.now < x.since + 1024) ∨ exit rest ≤ exit x.phase
    let must : Prop := busy = true ∨ x.wakes ≠ 0 ∨ exit deepest < exit x.phase
    (stays → exec (.islandIdle k) s = .next s) ∧
    (¬stays → rest ≠ .gated → ∃ t, exec (.islandIdle k) s = .next t ∧ IslandBecomes s t k (fun y => { y with phase := rest, wakes := 0 })) ∧
    (¬stays → rest = .gated → ∃ u t, exec (.islandIdle k) s = .next t ∧ IslandCleared s u k ∧
      IslandBecomes u t k (fun y => { y with phase := .gated, wakes := 0 })) ∧
    (¬must ∨ x.phase = .run ∨ x.withdrawn = true ∨ part = none → exec (.islandWake k) s = .next s) ∧
    (must → x.phase ≠ .run → x.withdrawn = false → part ≠ none →
      (x.wakes = 0 → ∃ t, exec (.islandWake k) s = .next t ∧ IslandBecomes s t k (fun y => { y with wakes := s.now + exit x.phase })) ∧
      (x.wakes ≠ 0 → x.wakes ≤ s.now → ∃ t, exec (.islandWake k) s = .next t ∧ IslandBecomes s t k (fun y => { y with phase := .run, wakes := 0, since := s.now })) ∧
      (s.now < x.wakes → exec (.islandWake k) s = .next s)) ∧
    ∀ mv hours, NoStash s →
      let supplied (u : State) : Prop := IslandBecomes s u k (fun y =>
        { y with supply := max y.supply (max 450 (min 750 mv)), life := hours, withdrawn := y.withdrawn || decide (750 < mv) })
      let told (v t : State) : Prop := AgentTold v t (160 * (k / 128)) 0x22 (BitVec.ofNat 64 k)
      (mv ≤ 750 → 720 ≤ hours → ∃ t, exec (.ageingMonitor k mv hours) s = .next t ∧ supplied t) ∧
      ((mv ≤ 750 ∧ hours < 720) ∨ (750 < mv ∧ busy = true) → ∃ u t, exec (.ageingMonitor k mv hours) s = .next t ∧ supplied u ∧ told u t) ∧
      (750 < mv → busy = false → ∃ u v w t, exec (.ageingMonitor k mv hours) s = .next t ∧ supplied u ∧ IslandCleared u v k ∧
        IslandBecomes v w k (fun y => { y with phase := .gated, wakes := 0 }) ∧ told w t)) ∧
  (∀ (k mv hours : Nat) (s : State), 512 ≤ k → exec (.islandIdle k) s = .next s ∧ exec (.islandWake k) s = .next s ∧ exec (.ageingMonitor k mv hours) s = .next s) ∧
  ∀ (fn : Nat) (s : State), MailFree s fn →
    let mine := (List.range 512).filter (fun k => match islandPart s k with | some p => fn == 0 || fn == p + 1 | none => fn == 0)
    let errs (k : Nat) : Nat := ((s.plat.errors.filter (fun p => p.1 / 2 ^ 64 == k)).map Prod.snd).sum
    ∃ t, exec (.healthReport fn) s = .next t ∧
      Responds s t fn 0x0C 0 (mine.flatMap (fun k => leBytes 4 (s.island k).supply ++ leBytes 8 (errs k) ++ leBytes 4 (s.island k).life))

/-- R72 to R74: a correctable error changes nothing that a program can see, and is counted and told; so is any error of a line of the L1 or the instruction
cache, which is dropped. An uncorrectable error elsewhere poisons its register, word, element or granule, and no other; that of a register of a lane that is
not active is told. A scrub changes nothing. R374, R377: a link or a module is lost; the collectives started with a package to which no path
remains end with ERR. What names the place of an error in AUX is a free value (log entry 33). -/
def Obligations.ErrorsAndLinks : Prop :=
  (∀ (p : EccPlace) (s : State), NoStash s →
    let corrected (s t : State) : Prop := ∃ u, u = { s with plat := { s.plat with errors := u.plat.errors } } ∧
      (∀ k, Sparse.look 0 k u.plat.errors = Sparse.look 0 k s.plat.errors + (if k = eccKey p then 1 else 0)) ∧ AgentTold u t (eccCore p) 0x21 (Config.eccLocation p)
    ((∀ k l, p ≠ .l1 k l ∧ p ≠ .icache k l) → ∃ t, exec (.eccError p true) s = .next t ∧ corrected s t) ∧
    (∀ c k l, p = .l1 k l → ∃ u t, exec (.eccError p c) s = .next t ∧ corrected u t ∧ u = { s with cores := u.cores } ∧ (∀ j ≠ k, u.core j = s.core j) ∧
      (let x := (s.core k).caches
       let y := (u.core k).caches
       u.core k = { s.core k with caches := { x with l1 := y.l1, l1own := y.l1own } } ∧
         ∀ j, Sparse.look false j y.l1 = (!decide (j = lineOf l) && Sparse.look false j x.l1) ∧ Sparse.look false j y.l1own = (!decide (j = lineOf l) && Sparse.look false j x.l1own))) ∧
    (∀ c k l, p = .icache k l → ∃ u t, exec (.eccError p c) s = .next t ∧ corrected u t ∧ u = { s with cores := u.cores } ∧ (∀ j ≠ k, u.core j = s.core j) ∧
      u.core k = { s.core k with caches := { (s.core k).caches with icache := (s.core k).caches.icache.filter (fun x => x.1 != lineOf l) } }) ∧
    (∀ a r l, p = .laneReg a r l →
      let w := Who.gang { core := a.core, bank := a.bank, slot := a.slot, slice := 0 }
      let g := s.groupOf w
      ∃ u t, exec (.eccError p false) s = .next t ∧ GroupBecomes s u w (fun g => { g with lanes := { g.lanes with poison := (u.groupOf w).lanes.poison } }) ∧
        (∀ j, Sparse.look false j (u.groupOf w).lanes.poison = (decide (j = 32 * r + l) || Sparse.look false j g.lanes.poison)) ∧
        if laneActive g l then t = u else AgentTold u t a.core 0x20 (Config.eccLocation p)) ∧
    (∀ a n, p = .scalarReg a n →
      let w := Who.gang { core := a.core, bank := a.bank, slot := a.slot, slice := 0 }
      ∃ t, exec (.eccError p false) s = .next t ∧ GroupBecomes s t w (fun g => { g with sca := { g.sca with poison := (t.groupOf w).sca.poison } }) ∧
        ∀ j, Sparse.look false j (t.groupOf w).sca.poison = (decide (j = n) || Sparse.look false j (s.groupOf w).sca.poison)) ∧
    (∀ k w, p = .scratch k w → ∃ t, exec (.eccError p false) s = .next t ∧ t = { s with cores := t.cores } ∧ (∀ j ≠ k, t.core j = s.core j) ∧
      t.core k = { s.core k with store := { (s.core k).store with spadPoison := (t.core k).store.spadPoison } } ∧
      ∀ j, Sparse.look false j (t.core k).store.spadPoison = (decide (j = w) || Sparse.look false j (s.core k).store.spadPoison)) ∧
    (∀ k e, p = .tile k e → ∃ t, exec (.eccError p false) s = .next t ∧ t = { s with cores := t.cores } ∧ (∀ j ≠ k, t.core j = s.core j) ∧
      t.core k = { s.core k with store := { (s.core k).store with tilePoison := (t.core k).store.tilePoison } } ∧
      ∀ j, Sparse.look false j (t.core k).store.tilePoison = (decide (j = e) || Sparse.look false j (s.core k).store.tilePoison)) ∧
    ∀ g, p = .l2 g ∨ p = .hbm g → ∃ t, exec (.eccError p false) s = .next t ∧ t = { s with store := { s.store with poison := t.store.poison } } ∧
      ∀ j, Sparse.look false j t.store.poison = (decide (j = g) || Sparse.look false j s.store.poison)) ∧
  (∀ (g : Nat) (s : State), exec (.patrolScrub g) s = .next s) ∧
  (∀ (l : Nat) (s : State),
    (18 ≤ l → exec (.linkLoss l) s = .next s) ∧
    (l < 18 →
      let u : State := { s with plat := { s.plat with links := Sparse.put false l true s.plat.links } }
      let hit (x : Cmd) : Bool := isColl x.op && x.phase == .started && x.aux.any (noPathTo u)
      (∀ j, Sparse.look false j u.plat.links = (decide (j = l) || Sparse.look false j s.plat.links)) ∧
      ((∀ p ∈ allCmds s, hit p.2 = false) → exec (.linkLoss l) s = .next u) ∧
      (∀ k x, allCmds s = [(k, x)] → hit x = true → s.store.cut = [] → (flagField x.op).isSome →
        ∃ t, exec (.linkLoss l) s = .next t ∧ CommandEnds u t k x ∧ FlagDone u t k x true))) ∧
  ∀ (m : Nat) (s : State),
    (4 ≤ m → exec (.moduleTrainingFailure m) s = .next s) ∧
    (m < 4 → ∃ t, exec (.moduleTrainingFailure m) s = .next t ∧ t = { s with plat := { s.plat with modules := t.plat.modules } } ∧
      ∀ j, Sparse.look false j t.plat.modules = (decide (j = m) || Sparse.look false j s.plat.modules))

/-! ## The machine (R48, R195 to R215, R244, R250, R307, R364, R379, R381, R383, R385) -/

/-- R203 to R211, R215: the words of a well-formed operation decode to it, in its slot: every operand at every value that the encoding admits. -/
def Obligations.DecodeOfEncode : Prop :=
  ∀ (i : Instr) (e : Enc), wf i = true → encOf i = some e → decodeOp e.site.slot e.words.1 e.words.2 = .ok i

/-- R203 to R208, R211, R213, R215, R264: words written out bit by bit from the layouts decode to the operations that they stand for: NOP, ADD, MOVI, a
branch back, an FMA in a lane slot, a PACK given by the spec, a load and an atomic on global memory, a wait for a flag, a copy and a tile copy of two
words. A word with a bit of a reserved field, or of an opcode that the map does not assign, or in a slot that does not take it, is an illegal operation, one with a specifier from 0x80 has an
illegal operand. -/
def Obligations.SpecWordsDecode : Prop :=
  let site (k : BitVec 3) : Site := { slot := .simt k, stg := 0#2 }
  decodeOp (.simt 1#3) 0#64 0#64 = .ok (.nop (site 1#3)) ∧
    decodeOp (.simt 1#3) (0x20#8 ++ 0#2 ++ 1#5 ++ 0x43#8 ++ 0x41#8 ++ 0x42#8 ++ 0x00#8 ++ 0#3 ++ 0#14) 0#64 =
      .ok (.add { at' := site 1#3, ty := .i32, d := .s 3#5, a := .s 1#5, b := .s 2#5, c := .v 0#6, fa := false, fb := false, fc := false, mod := 0#14 }) ∧
    decodeOp (.simt 1#3) (0x3E#8 ++ 0#2 ++ 2#5 ++ 0x43#8 ++ 0x00#8 ++ 77#20 ++ 0#1 ++ 0#12) 0#64 =
      .ok (.movi { at' := site 1#3, ty := .n32, d := .s 3#5, a := .v 0#6, imm := 77#20, fa := false, mod := 0#12 }) ∧
    decodeOp (.simt 0#3) (0x01#8 ++ 0#2 ++ 0#2 ++ 0#3 ++ 0x70#8 ++ 0#1 ++ 0#8 ++ 0xFFFFFFF0#32) 0#64 =
      .ok (.bra { at' := site 0#3, form := 0#2, c := .zero, fc := false, mod := 0#8, off := 0xFFFFFFF0#32 }) ∧
    decodeOp (.lane 3#5) (0x53#8 ++ 2#2 ++ 3#5 ++ 2#8 ++ 3#8 ++ 4#8 ++ 5#8 ++ 0#3 ++ 0#14) 0#64 =
      .ok (.fma { at' := { slot := .lane 3#5, stg := 2#2 }, ty := .f32, d := .v 2#6, a := .v 3#6, b := .v 4#6, c := .v 5#6, fa := false, fb := false, fc := false, mod := 0#14 }) ∧
    decodeOp (.simt 5#3) 0x6314040002060004#64 0#64 =
      .ok (.pack { at' := site 5#3, ty := .e4m3x4, d := .v 2#6, a := .v 0#6, b := .v 1#6, c := .v 3#6, fa := false, fb := false, fc := false, mod := 4#14 }) ∧
    decodeOp (.simt 6#3) (0xA0#8 ++ 0#2 ++ 4#3 ++ 0#3 ++ 0x05#7 ++ 0x02#6 ++ 0x07#7 ++ 0#4 ++ 0#8 ++ 8#16) 0#64 =
      .ok (.ldG { at' := site 6#3, sz := 4#3, scp := .slice, d := .v 5#6, base := .s 2#5, idx := .v 7#6, pol := 0#4, tag := 0#8, off := 8#16 }) ∧
    decodeOp (.simt 6#3) (0xB1#8 ++ 0#2 ++ 0#4 ++ 3#2 ++ 7#3 ++ 0x70#7 ++ 0x05#7 ++ 0#7 ++ 1#3 ++ 2#6 ++ 7#7 ++ 0#8) 0#64 =
      .ok (.atomG { at' := site 6#3, aop := 0#4, ord := .ar, scp := .sys, d := .zero, a := .v 5#6, b := .v 0#6, ta := .n32, base := .s 2#5, idx := .v 7#6, tag := 0#8 }) ∧
    decodeOp (.simt 7#3) (0xCC#8 ++ 0#2 ++ 0#5 ++ 0x43#8 ++ 0x41#8 ++ 0x00#8 ++ 0x00#8 ++ 0#3 ++ 5#14) 0#64 =
      .ok (.waitf { at' := site 7#3, ty := .b32, d := .s 3#5, a := .s 1#5, b := .v 0#6, c := .v 0#6, fa := false, fb := false, fc := false, mod := 5#14 }) ∧
    decodeOp (.simt 7#3) (0xC0#8 ++ 0#2 ++ 0#5 ++ 0x00#8 ++ 0x41#8 ++ 0x00#8 ++ 0x00#8 ++ 0#3 ++ 0#14) 0x41#64 =
      .ok (.cpy { at' := site 7#3, ty := .b32, d := .v 0#6, a := .s 1#5, b := .v 0#6, c := .v 0#6, fa := false, fb := false, fc := false, mod := 0#14, ext := 0x41#64 }) ∧
    decodeOp (.simt 7#3) (0xE3#8 ++ 0#2 ++ 3#5 ++ 0#8 ++ 0#8 ++ 0#8 ++ 0#8 ++ 0#3 ++ 0#14) 0x0102#64 =
      .ok (.tcpy { at' := site 7#3, ty := .f32, d := .v 0#6, a := .v 0#6, b := .v 0#6, c := .v 0#6, fa := false, fb := false, fc := false, mod := 0#14, ext := 0x0102#64 }) ∧
    decodeOp (.simt 1#3) (0x20#8 ++ 0#2 ++ 1#5 ++ 0x43#8 ++ 0x80#8 ++ 0x42#8 ++ 0x00#8 ++ 0#3 ++ 0#14) 0#64 = .error .illegalOperand ∧
    decodeOp (.simt 1#3) (0x20#8 ++ 0#2 ++ 1#5 ++ 0x43#8 ++ 0x41#8 ++ 0x42#8 ++ 0x00#8 ++ 0#3 ++ 0x2000#14) 0#64 = .error .illegalOperation ∧
    decodeOp (.simt 1#3) (0x1F#8 ++ 0#56) 0#64 = .error .illegalOperation ∧ decodeOp (.simt 1#3) 1#64 0#64 = .error .illegalOperation ∧
    decodeOp (.simt 1#3) 0x6314040002060004#64 0#64 = .error .illegalOperation

/-- R112, R195, R202, R353, R379, R381: without power the machine stops, but for a package reset; an input or a chosen step that waits on the agenda runs first. A
die that waits for its boot has the package reset. Where the bytes at an issuer's program counter make a bundle whose words decode, and none of
whose operations stops or waits, the step of the bundle is the operations one after another, in program order, on the state in which the bundle has
begun, and then the bundle's end; a bundle of one operation is that operation's effect. Where one of them stops or waits, the first such in program order decides,
and none takes effect. That inputs and chosen steps wait on an agenda, and go first, is the model's choice (log entry 1). -/
def Obligations.StepRunsDecoded : Prop :=
  (∀ s : State, s.agenda = [] → s.plat.power = false → step s = .fault .noPower) ∧
  (∀ (s : State) (i : Instr) (rest : List Instr), s.agenda = i :: rest →
    (s.plat.power = true ∨ i = .packageReset → step s = exec i { s with agenda := rest }) ∧
    (s.plat.power = false → i ≠ .packageReset → step s = .fault .noPower)) ∧
  (∀ s : State, s.agenda = [] → s.plat.power = true → bootWaits s = true → step s = exec .packageReset s) ∧
  (∀ s : State, s.agenda = [] → s.plat.power = true → bootWaits s = false → (∀ f ∈ events s, f s = .next s) →
    (∀ w ∈ readyAll s, fetched s w = false → exec (.instructionFetch w) s = .next s) →
    (nextIssuer s = none → step s = .next s.tick) ∧
    ∀ w, nextIssuer s = some w → step s = issueBundle w s) ∧
  ∀ (s : State) (w : Who) (r : RawBundle) (is : List Instr),
    fetchBundle s w (s.pcOf w) = .ok r →
    let c : Issue := { s.beginIssue w r.len with marked := r.head.getLsbD 27 }
    let s0 := s.fenceFlush c is
    let s1 : State := { s0 with issue := some c }
    let fares := is.map (fun i => Issue.faresWith (exec i s1))
    let busy : Status := if engineTaken s0 c is then .wait .poll else .ok
    breakpointAt s c = none → checkBundle (s.decoderOf w) c r = .ok is → is ≠ [] →
      (firstStatus (issueStatus s0 c is :: busy :: fares) = .ok →
        (∀ t, runOps is s1 = .next t → issueBundle w s = .next (s0.endBundle t c is fares)) ∧
        (∀ i t, is = [i] → exec i s1 = .next t → issueBundle w s = .next (s0.endBundle t c [i] fares)) ∧
        ∀ i j t u, is = [i, j] → exec i s1 = .next t → exec j t = .next u → issueBundle w s = .next (s0.endBundle u c [i, j] fares)) ∧
      ∀ st, firstStatus (issueStatus s0 c is :: busy :: fares) = st → st ≠ .ok →
        issueBundle w s = .next (s0.endBundle { s0 with issue := some { c with status := st } } c is fares)

/-- R7, R48, R250, R251, R307, R364, R379, R383, R385: after a package reset the cycle count is 0; every byte of memory that the reset reaches reads zero and is not
poisoned; the generation of each ring is 0; CAUSE and EEN of estat are 0; of the debug registers only HOLD is set, the breakpoints and the watchpoints
are off; no context descriptor is valid, no cluster or stack belongs to a partition, each partition tolerates 40 cycles, and each island is GATED. That memory beyond the package reads zero is the model's choice (log entry 7). -/
def Obligations.ResetValues : Prop :=
  let s := State.reset
  s.now = 0 ∧ (∀ a, s.store.mem.byte a = 0) ∧ (∀ g, Sparse.look false g s.store.poison = false) ∧ (∀ k r, (s.ring k r).gen = 0) ∧
    (∀ k, (s.core k).agent.cause = 0 ∧ (s.core k).agent.een = false ∧ (s.core k).agent.dctlHold = true ∧ (s.core k).agent.dctlAll = false ∧
      (s.core k).agent.dctlCid = 0 ∧ (s.core k).agent.trctl = 0 ∧ (∀ n, Sparse.look 0 n (s.core k).agent.ibp = 0) ∧ ∀ n, Sparse.look 0 n (s.core k).agent.wpc = 0) ∧
    (∀ k, (s.context k).ok = false) ∧ (∀ p, (Sparse.look {} p s.partitions).clusters = 0 ∧ (Sparse.look {} p s.partitions).stackMask = 0) ∧
    (∀ p, Sparse.look 40 p s.plat.tolerance = 40) ∧ (∀ k, (s.island k).phase = .gated) ∧ ∀ n, (s.queue n).live = false

/-- Each memory stays in its canonical form, every island is supplied with 450 to 750 mV (R384), the index of quotes does not pass its limit (R381), a revoked key
stays revoked, a written key slot keeps its hash, the index of quotes does not go back (R379, R381): every step keeps this, whatever the state. -/
def Obligations.EveryStepKeepsForm : Prop :=
  ∀ s t : State, step s = .next t → (s.MemoryForm → t.MemoryForm) ∧ (s.PlatformForm → t.PlatformForm) ∧ FusesKept s t

/-- The state after reset has the forms that every step keeps. -/
def Obligations.ResetHasForm : Prop := State.reset.MemoryForm ∧ State.reset.PlatformForm
end

