-- ==== Sys2Proof/Laws/Sparse.lean ====
section
/-! SUPPORT. The laws of sparse data and of memory: a read after a write, on any data whatever its form, and the canonical
form, which every operation keeps. -/

namespace Sys2Proof

variable {α : Type}

theorem Sparse.look_nil (d : α) (k : Nat) : Sparse.look d k [] = d := rfl

/-! ## A read after a put -/

theorem Sparse.look_filter_same (d : α) (k : Nat) : ∀ (m : Sparse α), Sparse.look d k (m.filter (fun p => p.1 != k)) = d
  | [] => rfl
  | (j, x) :: m => by
    by_cases h : j = k
    · simpa [h] using Sparse.look_filter_same d k m
    · simpa [h, Sparse.look] using Sparse.look_filter_same d k m

theorem Sparse.look_filter_other (d : α) (k k' : Nat) (hk : k' ≠ k) : ∀ (m : Sparse α),
    Sparse.look d k' (m.filter (fun p => p.1 != k)) = Sparse.look d k' m
  | [] => rfl
  | (j, x) :: m => by
    by_cases h : j = k
    · simp [h, Sparse.look, Ne.symm hk, Sparse.look_filter_other d k k' hk m]
    · simp [h, Sparse.look, Sparse.look_filter_other d k k' hk m]

theorem Sparse.look_ins_same (d : α) (k : Nat) (v : α) : ∀ (m : Sparse α), Sparse.look d k (Sparse.ins k v m) = v
  | [] => by simp [Sparse.ins, Sparse.look]
  | (j, x) :: m => by
    by_cases h1 : k < j
    · simp [Sparse.ins, h1, Sparse.look]
    · by_cases h2 : j = k
      · simp [Sparse.ins, h2, Sparse.look]
      · simp [Sparse.ins, h1, h2, Sparse.look, Sparse.look_ins_same d k v m]

theorem Sparse.look_ins_other (d : α) (k k' : Nat) (v : α) (hk : k' ≠ k) : ∀ (m : Sparse α),
    Sparse.look d k' (Sparse.ins k v m) = Sparse.look d k' m
  | [] => by simp [Sparse.ins, Sparse.look, hk.symm]
  | (j, x) :: m => by
    by_cases h1 : k < j
    · simp [Sparse.ins, h1, Sparse.look, hk.symm]
    · by_cases h2 : j = k
      · subst h2; simp [Sparse.ins, Sparse.look, hk.symm]
      · simp [Sparse.ins, h1, h2, Sparse.look, Sparse.look_ins_other d k k' v hk m]

variable [DecidableEq α]

/-- The value stored is read back. -/
@[simp] theorem Sparse.look_put_same (d : α) (k : Nat) (v : α) (m : Sparse α) : Sparse.look d k (Sparse.put d k v m) = v := by
  unfold Sparse.put
  split
  · rename_i h; rw [Sparse.look_filter_same, h]
  · exact Sparse.look_ins_same d k v m

/-- A store leaves every other key alone, whatever its default. -/
theorem Sparse.look_put_other (d d' : α) (k k' : Nat) (v : α) (hk : k' ≠ k) (m : Sparse α) :
    Sparse.look d' k' (Sparse.put d k v m) = Sparse.look d' k' m := by
  unfold Sparse.put
  split
  · exact Sparse.look_filter_other d' k k' hk m
  · exact Sparse.look_ins_other d' k k' v hk m

/-- A read after a store. -/
theorem Sparse.look_put (d : α) (k k' : Nat) (v : α) (m : Sparse α) :
    Sparse.look d k' (Sparse.put d k v m) = if k' = k then v else Sparse.look d k' m := by
  by_cases h : k' = k
  · subst h; simp
  · simp [h, Sparse.look_put_other d d k k' v h m]

/-- A read after a change of an entry. -/
theorem Sparse.look_upd (d : α) (k k' : Nat) (f : α → α) (m : Sparse α) :
    Sparse.look d k' (Sparse.upd d k f m) = if k' = k then f (Sparse.look d k m) else Sparse.look d k' m :=
  Sparse.look_put d k k' _ m

/-! ## The canonical form -/

/-- A weaker lower bound. -/
theorem Sparse.wfFrom_mono (d : α) (m : Sparse α) {lo lo' : Nat} (h : Sparse.wfFrom d lo m = true) (hl : lo' ≤ lo) :
    Sparse.wfFrom d lo' m = true := by
  cases m with
  | nil => rfl
  | cons p m =>
    obtain ⟨j, x⟩ := p
    simp only [Sparse.wfFrom, Bool.and_eq_true, decide_eq_true_eq] at h ⊢
    exact ⟨⟨by omega, h.1.2⟩, h.2⟩

theorem Sparse.wfFrom_ins (d : α) (k : Nat) (v : α) (hv : v ≠ d) : ∀ (m : Sparse α) (lo : Nat), Sparse.wfFrom d lo m = true →
    lo ≤ k → Sparse.wfFrom d lo (Sparse.ins k v m) = true
  | [], lo, _, hk => by simp [Sparse.ins, Sparse.wfFrom, hv, hk]
  | (j, x) :: m, lo, h, hk => by
    simp only [Sparse.wfFrom, Bool.and_eq_true, decide_eq_true_eq] at h
    obtain ⟨⟨hj, hx⟩, hm⟩ := h
    simp only [Sparse.ins]
    split
    · simp only [Sparse.wfFrom, Bool.and_eq_true, decide_eq_true_eq]
      exact ⟨⟨hk, by simpa using hv⟩, ⟨by omega, hx⟩, hm⟩
    · split
      · subst_vars
        simp only [Sparse.wfFrom, Bool.and_eq_true, decide_eq_true_eq]
        exact ⟨⟨hk, by simpa using hv⟩, hm⟩
      · simp only [Sparse.wfFrom, Bool.and_eq_true, decide_eq_true_eq]
        exact ⟨⟨hj, hx⟩, Sparse.wfFrom_ins d k v hv m (j + 1) hm (by omega)⟩

/-- Dropping entries keeps the canonical form. -/
theorem Sparse.wfFrom_filter (d : α) (f : Nat × α → Bool) : ∀ (m : Sparse α) (lo : Nat),
    Sparse.wfFrom d lo m = true → Sparse.wfFrom d lo (m.filter f) = true
  | [], _, _ => rfl
  | (j, x) :: m, lo, h => by
    simp only [Sparse.wfFrom, Bool.and_eq_true, decide_eq_true_eq] at h
    obtain ⟨⟨hj, hx⟩, hm⟩ := h
    have ih := Sparse.wfFrom_filter d f m (j + 1) hm
    rw [List.filter_cons]
    split
    · simp only [Sparse.wfFrom, Bool.and_eq_true, decide_eq_true_eq]
      exact ⟨⟨hj, hx⟩, ih⟩
    · exact Sparse.wfFrom_mono d _ ih (by omega)

/-- Dropping entries keeps the canonical form. -/
theorem Sparse.wf_filter (d : α) (f : Nat × α → Bool) (m : Sparse α) (h : Sparse.wf d m = true) : Sparse.wf d (m.filter f) = true :=
  Sparse.wfFrom_filter d f m 0 h

/-- Storing keeps the canonical form. -/
theorem Sparse.wf_put (d : α) (k : Nat) (v : α) (m : Sparse α) (h : Sparse.wf d m = true) : Sparse.wf d (Sparse.put d k v m) = true := by
  unfold Sparse.put
  split
  · exact Sparse.wf_filter _ _ _ h
  · exact Sparse.wfFrom_ins d k v ‹_› m 0 h (Nat.zero_le k)

/-- Changing an entry keeps the canonical form. -/
theorem Sparse.wf_upd (d : α) (k : Nat) (f : α → α) (m : Sparse α) (h : Sparse.wf d m = true) : Sparse.wf d (Sparse.upd d k f m) = true :=
  Sparse.wf_put d k _ m h

/-- Clearing a range keeps the canonical form. -/
theorem Sparse.wf_clear (d : α) (lo hi : Nat) (m : Sparse α) (h : Sparse.wf d m = true) : Sparse.wf d (Sparse.clear lo hi m) = true :=
  Sparse.wf_filter d _ m h

/-- What is listed after a put is the value put or was listed before. -/
theorem Sparse.of_mem_put (d : α) (k : Nat) (v : α) (p : Nat × α) (m : Sparse α) (h : p ∈ Sparse.put d k v m) : p = (k, v) ∨ p ∈ m := by
  unfold Sparse.put at h
  split at h
  · exact .inr (List.mem_of_mem_filter h)
  · clear * - h
    induction m with
    | nil => simpa [Sparse.ins] using h
    | cons q m ih =>
      obtain ⟨j, x⟩ := q
      simp only [Sparse.ins] at h
      split at h
      · simpa using h
      · split at h
        · rcases List.mem_cons.mp h with h | h
          · exact .inl h
          · exact .inr (List.mem_cons_of_mem _ h)
        · rcases List.mem_cons.mp h with h | h
          · exact .inr (h ▸ List.mem_cons_self)
          · rcases ih h with h | h
            · exact .inl h
            · exact .inr (List.mem_cons_of_mem _ h)

/-- An entry with another key stays after a put. -/
theorem Sparse.mem_put (d : α) (k : Nat) (v : α) (p : Nat × α) (hk : p.1 ≠ k) (m : Sparse α) (h : p ∈ m) : p ∈ Sparse.put d k v m := by
  unfold Sparse.put
  split
  · exact List.mem_filter.mpr ⟨h, by simpa using hk⟩
  · induction m with
    | nil => cases h
    | cons q m ih =>
      obtain ⟨j, x⟩ := q
      simp only [Sparse.ins]
      split
      · exact List.mem_cons_of_mem _ h
      · split
        · rcases List.mem_cons.mp h with rfl | h
          · exact absurd ‹_› hk
          · exact List.mem_cons_of_mem _ h
        · rcases List.mem_cons.mp h with rfl | h
          · exact List.mem_cons_self
          · exact List.mem_cons_of_mem _ (ih h)

/-! ## Memory -/

/-- A store of bytes keeps the canonical form. -/
theorem Memory.wf_write : ∀ (bs : List Byte) (m : Memory) (a : Nat), m.wf → (Memory.write m a bs).wf
  | [], _, _, h => h
  | _ :: bs, _, _, h => Memory.wf_write bs _ _ (Sparse.wf_put _ _ _ _ h)

/-- Bytes put at their places keep the canonical form. -/
theorem Memory.wf_puts : ∀ (bs : List (Nat × Byte)) (m : Memory), m.wf → Memory.wf (bs.foldl (fun m b => Sparse.put 0#8 b.1 b.2 m) m)
  | [], _, h => h
  | _ :: bs, _, h => Memory.wf_puts bs _ (Sparse.wf_put _ _ _ _ h)

/-- Bytes put at their places leave every other place alone. -/
theorem Memory.byte_puts_other (x : Nat) : ∀ (bs : List (Nat × Byte)) (m : Memory), (∀ b ∈ bs, b.1 ≠ x) →
    Memory.byte (bs.foldl (fun m b => Sparse.put 0#8 b.1 b.2 m) m) x = m.byte x
  | [], _, _ => rfl
  | b :: bs, m, h => by
    rw [List.foldl_cons, Memory.byte_puts_other x bs _ (fun c hc => h c (List.mem_cons_of_mem _ hc))]
    exact Sparse.look_put_other _ _ _ _ _ (Ne.symm (h b List.mem_cons_self)) m

/-- A byte outside the bytes stored reads as before. -/
theorem Memory.byte_write_other : ∀ (bs : List Byte) (m : Memory) (a x : Nat), (x < a ∨ a + bs.length ≤ x) →
    (Memory.write m a bs).byte x = m.byte x
  | [], _, _, _, _ => rfl
  | b :: bs, m, a, x, hx => by
    simp only [List.length_cons] at hx
    rw [Memory.write, Memory.byte_write_other bs _ (a + 1) x (by omega)]
    exact Sparse.look_put_other _ _ a x b (by omega) m

/-- A byte stored is read back. -/
theorem Memory.byte_write : ∀ (bs : List Byte) (m : Memory) (a k : Nat), k < bs.length →
    (Memory.write m a bs).byte (a + k) = bs.getD k 0
  | [], _, _, _, hk => by simp at hk
  | b :: bs, m, a, k, hk => by
    rw [Memory.write]
    cases k with
    | zero =>
      rw [Memory.byte_write_other bs _ (a + 1) (a + 0) (by omega)]
      simp [Memory.byte]
    | succ k =>
      simp only [List.length_cons] at hk
      have := Memory.byte_write bs (Sparse.put 0#8 a b m) (a + 1) k (by omega)
      rw [show a + (k + 1) = a + 1 + k by omega, this]
      simp

end Sys2Proof
end

