-- ==== Sys2Proof/Laws/Keeps.lean ====
section
/-! SUPPORT. What every operation of the machine keeps: the forms of Safety.lean and the fuses. One lemma says it for each
update and combinator; Laws/Keeps*.lean say it for each operation. -/

namespace Sys2Proof.Machine

/-- From `s` to `t` the forms are kept and the fuses stand. -/
def Keeps (s t : State) : Prop :=
  (s.MemoryForm → t.MemoryForm) ∧ (s.PlatformForm → t.PlatformForm) ∧ FusesKept s t

theorem Keeps.refl (s : State) : Keeps s s := ⟨id, id, id, fun _ h => h, le_refl _⟩

theorem Keeps.trans {s t u : State} (h : Keeps s t) (g : Keeps t u) : Keeps s u :=
  ⟨fun x => g.1 (h.1 x), fun x => g.2.1 (h.2.1 x), fun x => g.2.2.1 (h.2.2.1 x), fun p x => g.2.2.2.1 p (h.2.2.2.1 p x),
   le_trans h.2.2.2.2 g.2.2.2.2⟩

/-- A change that leaves the cores, the glen cores, the memory and the platform alone. -/
theorem Keeps.aside {s0 s t : State} (h : Keeps s0 s) (h1 : t.cores = s.cores) (h2 : t.glens = s.glens) (h3 : t.store.mem = s.store.mem)
    (h4 : t.plat = s.plat) : Keeps s0 t := by
  refine h.trans ⟨fun x => ?_, fun x => ?_, ?_, ?_, ?_⟩
  · simpa [State.MemoryForm, h1, h2, h3] using x
  · simpa [State.PlatformForm, h4] using x
  · simp [h4]
  · simp [h4]
  · simp [h4]

/-- A state whose cores, glen cores, memory and platform are another's. -/
theorem Keeps.rest {s0 s : State} {now dies slices tlbs contexts ats partitions domain host free issue agenda} (h : Keeps s0 s) :
    Keeps s0 ⟨now, s.cores, s.glens, dies, s.store, slices, tlbs, contexts, ats, partitions, domain, host, s.plat, free, issue, agenda⟩ :=
  Keeps.aside h rfl rfl rfl rfl

theorem Keeps.restStore {s0 s : State} {now dies poison owners nextOwner l2 evict replicas cut slices tlbs contexts ats partitions domain host free issue agenda}
    (h : Keeps s0 s) :
    Keeps s0 ⟨now, s.cores, s.glens, dies, ⟨s.store.mem, poison, owners, nextOwner, l2, evict, replicas, cut⟩, slices, tlbs, contexts, ats, partitions,
      domain, host, s.plat, free, issue, agenda⟩ := Keeps.aside h rfl rfl rfl rfl

/-- A platform whose islands, keys, fuse and quotes are another's. -/
theorem Keeps.restPlat {s0 s : State} {now dies slices tlbs contexts ats partitions domain host free issue agenda power errors tolerance links modules}
    (h : Keeps s0 s) :
    Keeps s0 ⟨now, s.cores, s.glens, dies, s.store, slices, tlbs, contexts, ats, partitions, domain, host,
      ⟨power, s.plat.islands, errors, tolerance, s.plat.keys, s.plat.revoked, s.plat.quote, links, modules⟩, free, issue, agenda⟩ :=
  h.trans ⟨id, id, id, fun _ h => h, le_refl _⟩

/-- The cores of a state replaced by cores of the same form. -/
theorem Keeps.cores {s0 s : State} (h : Keeps s0 s) {cs : Sparse Core} {now dies slices tlbs contexts ats partitions domain host free issue agenda}
    (hc : (∀ p ∈ s.cores, Memory.wf p.2.store.spad) → ∀ p ∈ cs, Memory.wf p.2.store.spad) :
    Keeps s0 ⟨now, cs, s.glens, dies, s.store, slices, tlbs, contexts, ats, partitions, domain, host, s.plat, free, issue, agenda⟩ :=
  h.trans ⟨fun x => ⟨x.1, hc x.2.1, x.2.2⟩, id, id, fun _ h => h, le_refl _⟩

/-- A core's scratchpad stays in form. -/
@[irreducible] def CoreKeeps (c d : Core) : Prop := Memory.wf c.store.spad → Memory.wf d.store.spad
/-- A glen core's row buffer stays in form. -/
@[irreducible] def GlenKeeps (c d : Glen) : Prop := Memory.wf c.row → Memory.wf d.row

theorem CoreKeeps.refl (c : Core) : CoreKeeps c c := by unfold CoreKeeps; exact id
theorem CoreKeeps.wf {c d : Core} (e : Memory.wf c.store.spad → Memory.wf d.store.spad) : CoreKeeps c d := by unfold CoreKeeps; exact e
theorem CoreKeeps.use {c d : Core} (e : CoreKeeps c d) : Memory.wf c.store.spad → Memory.wf d.store.spad := by unfold CoreKeeps at e; exact e
theorem CoreKeeps.same {c d : Core} (e : d.store.spad = c.store.spad) : CoreKeeps c d := by unfold CoreKeeps; exact fun x => e ▸ x
theorem CoreKeeps.aside {c0 c d : Core} (h : CoreKeeps c0 c) (e : d.store.spad = c.store.spad) : CoreKeeps c0 d := by unfold CoreKeeps at *; exact fun x => e ▸ h x
theorem CoreKeeps.onTeam {c d : Core} {k : Nat} {f : Team → Team} (h : CoreKeeps c d) : CoreKeeps c (d.onTeam k f) := h.aside rfl
theorem CoreKeeps.onStashLine {c d : Core} {t w k : Nat} {l : Option StashLine} (h : CoreKeeps c d) : CoreKeeps c (d.onStashLine t w k l) :=
  h.aside (by unfold Core.onStashLine Core.onTeam; rfl)
theorem CoreKeeps.write {c : Core} {a : Nat} {bs : List Byte} :
    CoreKeeps c { c with store := { c.store with spad := c.store.spad.write a bs } } := .wf (fun h => Memory.wf_write bs _ a h)
theorem GlenKeeps.refl (c : Glen) : GlenKeeps c c := by unfold GlenKeeps; exact id
theorem GlenKeeps.wf {c d : Glen} (e : Memory.wf c.row → Memory.wf d.row) : GlenKeeps c d := by unfold GlenKeeps; exact e
theorem GlenKeeps.use {c d : Glen} (e : GlenKeeps c d) : Memory.wf c.row → Memory.wf d.row := by unfold GlenKeeps at e; exact e
theorem GlenKeeps.same {c d : Glen} (e : d.row = c.row) : GlenKeeps c d := by unfold GlenKeeps; exact fun x => e ▸ x
theorem GlenKeeps.aside {c0 c d : Glen} (h : GlenKeeps c0 c) (e : d.row = c.row) : GlenKeeps c0 d := by unfold GlenKeeps at *; exact fun x => e ▸ h x

/-- Every entry of sparse data has a property after a put, if the value put has it. -/
theorem Sparse.forall_put {α : Type} [DecidableEq α] (P : α → Prop) (d : α) (k : Nat) (v : α) (hv : P v) (m : Sparse α)
    (h : ∀ p ∈ m, P p.2) : ∀ p ∈ Sparse.put d k v m, P p.2 := fun p hp => by
  rcases Sparse.of_mem_put d k v p m hp with rfl | hp
  · exact hv
  · exact h p hp

/-- What is read has a property that every entry and the default have. -/
theorem Sparse.look_of_forall {α : Type} (P : α → Prop) (d : α) (hd : P d) (k : Nat) : ∀ (m : Sparse α), (∀ p ∈ m, P p.2) →
    P (Sparse.look d k m)
  | [], _ => hd
  | (j, x) :: m, h => by
    simp only [Sparse.look]
    split
    · exact h _ List.mem_cons_self
    · exact Sparse.look_of_forall P d hd k m (fun q hq => h q (List.mem_cons_of_mem _ hq))

/-- Every entry has a property after a change that keeps it. -/
theorem Sparse.forall_upd {α : Type} [DecidableEq α] (P : α → Prop) (d : α) (k : Nat) (f : α → α) (hd : P d) (hf : ∀ x, P x → P (f x))
    (m : Sparse α) (h : ∀ p ∈ m, P p.2) : ∀ p ∈ Sparse.upd d k f m, P p.2 :=
  Sparse.forall_put P d k _ (hf _ (Sparse.look_of_forall P d hd k m h)) m h

theorem Keeps.onCore {s0 s : State} (h : Keeps s0 s) (k : Nat) {f : Core → Core} (hf : ∀ c, CoreKeeps c (f c)) : Keeps s0 (s.onCore k f) :=
  h.trans ⟨fun x => ⟨x.1, Sparse.forall_upd (fun (c : Core) => Memory.wf c.store.spad) {} k f rfl (fun c => (hf c).use) s.cores x.2.1, x.2.2⟩, id, id, fun _ h => h, le_refl _⟩

theorem Keeps.onGlen {s0 s : State} (h : Keeps s0 s) (k : Nat) {f : Glen → Glen} (hf : ∀ c, GlenKeeps c (f c)) : Keeps s0 (s.onGlen k f) :=
  h.trans ⟨fun x => ⟨x.1, x.2.1, Sparse.forall_upd (fun (c : Glen) => Memory.wf c.row) {} k f rfl (fun c => (hf c).use) s.glens x.2.2⟩, id, id, fun _ h => h, le_refl _⟩

theorem Keeps.onGroupAt {s0 s : State} (h : Keeps s0 s) (a b c : Nat) (f : Group → Group) : Keeps s0 (s.onGroupAt a b c f) :=
  h.onCore a (fun _ => .same rfl)

theorem Keeps.onGroup {s0 s : State} (h : Keeps s0 s) (w : Who) (f : Group → Group) : Keeps s0 (s.onGroup w f) := by
  cases w with
  | gang g => exact h.onGroupAt _ _ _ f
  | glen n => exact h.onGlen n (fun _ => .same rfl)

/-- A memory whose form a change of the store keeps. -/
theorem Keeps.onStore {s0 s : State} (h : Keeps s0 s) {f : Store → Store} (hf : Memory.wf s.store.mem → Memory.wf (f s.store).mem) :
    Keeps s0 (s.onStore f) :=
  h.trans ⟨fun x => ⟨hf x.1, x.2.1, x.2.2⟩, id, id, fun _ h => h, le_refl _⟩

/-- A turn given to a command or a copy. -/
theorem Keeps.nextTurn {s0 s : State} (h : Keeps s0 s) : Keeps s0 (s.onStore Store.nextTurn) := h.onStore id

/-! ## Combinators -/

theorem Keeps.letS {s0 v : State} {b : State → State} (hv : Keeps s0 v) (h : ∀ x, Keeps s0 x → Keeps s0 (b x)) : Keeps s0 (let x := v; b x) := h v hv
theorem Keeps.letP {α : Type} {s0 : State} {v : State × α} {b : State × α → State} (hv : Keeps s0 v.1) (h : ∀ x, Keeps s0 x.1 → Keeps s0 (b x)) :
    Keeps s0 (let x := v; b x) := h v hv
theorem Keeps.letV {α : Sort _} {s0 : State} {v : α} {b : α → State} (h : ∀ x, Keeps s0 (b x)) : Keeps s0 (let x := v; b x) := h v

theorem Keeps.letS1 {α : Type} {s0 v : State} {b : State → State × α} (hv : Keeps s0 v) (h : ∀ x, Keeps s0 x → Keeps s0 (b x).1) :
    Keeps s0 (let x := v; b x).1 := h v hv
theorem Keeps.letV1 {α : Sort _} {β : Type} {s0 : State} {v : α} {b : α → State × β} (h : ∀ x, Keeps s0 (b x).1) : Keeps s0 (let x := v; b x).1 := h v

theorem Keeps.foldl {α : Type} {s0 : State} {f : State → α → State} (hf : ∀ s x, Keeps s0 s → Keeps s0 (f s x)) :
    ∀ (l : List α) {s : State}, Keeps s0 s → Keeps s0 (l.foldl f s)
  | [], _, h => h
  | x :: l, s, h => Keeps.foldl hf l (hf s x h)

theorem Keeps.foldlP {α β : Type} {s0 : State} {f : State × β → α → State × β} (hf : ∀ s x, Keeps s0 s.1 → Keeps s0 (f s x).1) :
    ∀ (l : List α) {s : State × β}, Keeps s0 s.1 → Keeps s0 (l.foldl f s).1
  | [], _, h => h
  | x :: l, s, h => Keeps.foldlP hf l (hf s x h)

/-- The outcome of a meaning: a next state that keeps everything. -/
@[irreducible] def Kept (s0 : State) (r : Host.Outcome State Fault Refusal) : Prop := ∀ t, r = .next t → Keeps s0 t

theorem Kept.next {s0 t : State} (h : Keeps s0 t) : Kept s0 (.next t) := by unfold Kept; intro _ e; cases e; exact h
theorem Kept.use {s0 t : State} {r : Host.Outcome State Fault Refusal} (h : Kept s0 r) (e : r = .next t) : Keeps s0 t := by
  unfold Kept at h; exact h t e
theorem Kept.fault {s0 : State} {f : Fault} : Kept s0 (.fault f) := by unfold Kept; intro _ e; cases e
theorem Kept.refused {s0 : State} {f : Refusal} : Kept s0 (.refused f) := by unfold Kept; intro _ e; cases e

end Sys2Proof.Machine
end

