-- ==== Sys2Proof/Laws/KeepsOps.lean ====
section
/-! SUPPORT. What every step keeps - the canonical forms, the platform's bounds, the fuses - one lemma per operation: the shared operations: places, translation, coherence, records, rings. -/

set_option linter.unreachableTactic false
set_option linter.unusedTactic false

namespace Sys2Proof.Machine

theorem State.onDie_keeps {s0 : State} {s : State} {k : Nat} {f : Die → Die} (h_s : Keeps s0 s) : Keeps s0 (State.onDie s k f) := 
  Keeps.rest h_s

theorem State.onIssue_keeps {s0 : State} {s : State} {f : Issue → Issue} (h_s : Keeps s0 s) : Keeps s0 (State.onIssue s f) := 
  Keeps.rest h_s

theorem State.stopAt_keeps {s0 : State} {s : State} {x : Stop} (h_s : Keeps s0 s) : Keeps s0 (State.stopAt s x) := 
  State.onIssue_keeps h_s

theorem State.trapAt_keeps {s0 : State} {s : State} {site : Site} {code : Nat} (h_s : Keeps s0 s) : Keeps s0 (State.trapAt s site code) := 
  State.stopAt_keeps h_s

theorem State.illegalOperation_keeps {s0 : State} {s : State} {site : Site} (h_s : Keeps s0 s) : Keeps s0 (State.illegalOperation s site) := 
  State.trapAt_keeps h_s

theorem State.illegalOperand_keeps {s0 : State} {s : State} {site : Site} (h_s : Keeps s0 s) : Keeps s0 (State.illegalOperand s site) := 
  State.trapAt_keeps h_s

theorem State.controlOverflow_keeps {s0 : State} {s : State} {site : Site} (h_s : Keeps s0 s) : Keeps s0 (State.controlOverflow s site) := 
  State.trapAt_keeps h_s

theorem State.waitFor_keeps {s0 : State} {s : State} {w : Wait} (h_s : Keeps s0 s) : Keeps s0 (State.waitFor s w) := 
  State.onIssue_keeps h_s

theorem State.stopAfter_keeps {s0 : State} {s : State} {x : Stop} (h_s : Keeps s0 s) : Keeps s0 (State.stopAfter s x) := 
  State.onIssue_keeps h_s

theorem State.during_keeps {s0 : State} {s : State} {f : Issue → State} (h_s : Keeps s0 s) (h_f : ∀ (x0 : Issue), Keeps s0 (f x0)) : Keeps s0 (State.during s f) := by
  unfold State.during
  repeat' first | with_reducible assumption | with_reducible apply Kept.next | with_reducible apply h_f | split

theorem State.postLanes_keeps {s0 : State} {s : State} {c : Issue} {d : Spec} {vals : List (Nat × Word)} {lat : Nat} {empties : Bool} (h_s : Keeps s0 s) : Keeps s0 (State.postLanes s c d vals lat empties) := by
  unfold State.postLanes
  repeat' first | with_reducible assumption | with_reducible apply Kept.next | with_reducible apply Keeps.onGroup | split

theorem State.postScalar_keeps {s0 : State} {s : State} {c : Issue} {d : Spec} {x : DWord} {lat : Nat} {empties : Bool} (h_s : Keeps s0 s) : Keeps s0 (State.postScalar s c d x lat empties) := by
  unfold State.postScalar
  repeat' first | with_reducible assumption | with_reducible apply Kept.next | with_reducible apply Keeps.onGroup | split

theorem State.askHost_keeps {s0 : State} {s : State} {die : Nat} {cid : Nat} {page : Nat} (h_s : Keeps s0 s) : Keeps s0 (State.askHost s die cid page) := by
  unfold State.askHost
  repeat' first
      | with_reducible assumption | with_reducible apply Kept.next
      | (with_reducible apply Keeps.rest; first | with_reducible assumption | with_reducible exact Keeps.refl _ | split)

theorem State.forgetRefused_keeps {s0 : State} {s : State} {cid : Nat} {xlat : BitVec 128} (h_s : Keeps s0 s) : Keeps s0 (State.forgetRefused s cid xlat) := by
  unfold State.forgetRefused
  repeat' first
      | with_reducible assumption | with_reducible apply Kept.next
      | (with_reducible apply Keeps.rest; first | with_reducible assumption | with_reducible exact Keeps.refl _ | split)

theorem State.keepTlbEntry_keeps {s0 : State} {s : State} {key : Nat} {e : TlbEntry} (h_s : Keeps s0 s) : Keeps s0 (State.keepTlbEntry s key e) := by
  unfold State.keepTlbEntry
  repeat' first
      | with_reducible assumption | with_reducible apply Keeps.nextTurn | with_reducible exact Keeps.refl _ | with_reducible apply Kept.next
      | with_reducible apply Kept.fault | with_reducible apply Keeps.foldl | with_reducible apply Keeps.foldlP | with_reducible apply hf
      | (with_reducible apply Keeps.restPlat; with_reducible assumption) | intro _ | with_reducible apply CoreKeeps.onTeam
      | with_reducible apply CoreKeeps.onStashLine | exact CoreKeeps.same rfl | exact GlenKeeps.same rfl | rfl
      | (extract_lets +onlyGivenNames x; first | (have hx : Keeps s0 x := ?_; clear_value x; on_goal 2 => subst x) | (have hx : Keeps s0 x.1 := ?_; clear_value x; on_goal 2 => subst x) | (have hf : ∀ t, Keeps s0 t → Keeps s0 (x t) := ?_; clear_value x; on_goal 2 => subst x) | (have hf : ∀ t b, Keeps s0 t → Keeps s0 (x t b) := ?_; clear_value x; on_goal 2 => subst x) | (have hf : ∀ a b t, Keeps s0 t → Keeps s0 (x a b t) := ?_; clear_value x; on_goal 2 => subst x) | (have hf : ∀ a, Keeps s0 (x a) := ?_; clear_value x; on_goal 2 => subst x) | clear_value x)
      | (with_reducible apply Keeps.rest; first | with_reducible assumption | with_reducible exact Keeps.refl _ | split)
      | (with_reducible apply Keeps.restStore; first | with_reducible assumption | with_reducible exact Keeps.refl _ | split) | split

theorem State.fillTlb_keeps {s0 : State} {s : State} {core : Nat} {es : List TlbEntry} (h_s : Keeps s0 s) : Keeps s0 (State.fillTlb s core es) := by
  unfold State.fillTlb
  repeat' first
      | with_reducible assumption | with_reducible apply Keeps.nextTurn | with_reducible exact Keeps.refl _ | with_reducible apply Kept.next
      | with_reducible apply Kept.fault | with_reducible apply Keeps.foldl | with_reducible apply Keeps.foldlP | with_reducible apply hf
      | with_reducible apply Keeps.onCore | with_reducible apply State.keepTlbEntry_keeps
      | (with_reducible apply Keeps.restPlat; with_reducible assumption) | intro _ | with_reducible apply CoreKeeps.onTeam
      | with_reducible apply CoreKeeps.onStashLine | exact CoreKeeps.same rfl | exact GlenKeeps.same rfl | rfl
      | (extract_lets +onlyGivenNames x; first | (have hx : Keeps s0 x := ?_; clear_value x; on_goal 2 => subst x) | (have hx : Keeps s0 x.1 := ?_; clear_value x; on_goal 2 => subst x) | (have hf : ∀ t, Keeps s0 t → Keeps s0 (x t) := ?_; clear_value x; on_goal 2 => subst x) | (have hf : ∀ t b, Keeps s0 t → Keeps s0 (x t b) := ?_; clear_value x; on_goal 2 => subst x) | (have hf : ∀ a b t, Keeps s0 t → Keeps s0 (x a b t) := ?_; clear_value x; on_goal 2 => subst x) | (have hf : ∀ a, Keeps s0 (x a) := ?_; clear_value x; on_goal 2 => subst x) | clear_value x)
      | (with_reducible apply Keeps.rest; first | with_reducible assumption | with_reducible exact Keeps.refl _ | with_reducible apply Keeps.onCore | with_reducible apply State.keepTlbEntry_keeps | split)
      | (with_reducible apply Keeps.restStore; first | with_reducible assumption | with_reducible exact Keeps.refl _ | with_reducible apply Keeps.onCore | with_reducible apply State.keepTlbEntry_keeps | split)
      | split

theorem State.perform_keeps {s0 s : State} {bs : List (Nat × Byte)} {poisoned : Bool} (h_s : Keeps s0 s) : Keeps s0 (State.perform s bs poisoned) := by
  unfold State.perform
  exact h_s.onStore (fun h => Memory.wf_puts _ _ h)

theorem State.useSlice_keeps {s0 s : State} {p : Nat} (h_s : Keeps s0 s) : Keeps s0 (State.useSlice s p) := by
  unfold State.useSlice
  split
  · refine h_s.trans ⟨id, fun x => ⟨?_, x.2⟩, id, fun _ h => h, le_refl _⟩
    refine Sparse.forall_upd (fun (i : Island) => 450 ≤ i.supply ∧ i.supply ≤ 750) {} (sliceIsland p) (fun i => i.use s.now) (by decide)
      (fun i hi => ?_) s.plat.islands x.1
    unfold Island.use
    split
    · exact hi
    · split <;> exact hi
  · exact h_s

theorem State.keepL2_keeps {s0 s : State} {line : Nat} {first : Bool} (h_s : Keeps s0 s) : Keeps s0 (State.keepL2 s line first) := by
  unfold State.keepL2
  dsimp only
  split
  · exact h_s
  · split
    · split <;> exact h_s.aside rfl rfl rfl rfl
    · exact h_s.aside rfl rfl rfl rfl

/-- A line written back keeps the memory's form. -/
theorem writeBackLine_wf (t : Team) (spad : Memory) (w : StashWin) (k : Nat) (l : StashLine) (m : Memory) (h : m.wf) :
    (writeBackLine t spad w k l m).wf := by
  unfold writeBackLine
  with_reducible exact Memory.wf_write _ _ _ h

theorem State.recallLine_keeps {s0 s : State} {core team win k : Nat} {write : Bool} (h_s : Keeps s0 s) :
    Keeps s0 (State.recallLine s core team win k write) := by
  unfold State.recallLine
  dsimp only
  split
  · exact h_s
  · refine Keeps.onCore ?_ _ (fun _ => .same (by unfold Core.onStashLine Core.onTeam; rfl))
    split
    · refine h_s.onStore (fun h => ?_)
      dsimp only
      with_reducible exact writeBackLine_wf _ _ _ _ _ _ h
    · exact h_s

theorem State.recall_keeps {s0 : State} {s : State} {line : Nat} {write : Bool} {except : Option (Nat × Nat × Nat × Nat)} (h_s : Keeps s0 s) : Keeps s0 (State.recall s line write except) := by
  unfold State.recall
  repeat' first
      | with_reducible assumption | with_reducible apply Kept.next | with_reducible apply Keeps.foldl | with_reducible apply Keeps.foldlP
      | with_reducible apply State.recallLine_keeps | intro _ | split

theorem State.dropL1_keeps {s0 : State} {s : State} {core : Nat} {line : Nat} (h_s : Keeps s0 s) : Keeps s0 (State.dropL1 s core line) := by
  unfold State.dropL1
  repeat' first
      | with_reducible assumption | with_reducible apply Keeps.nextTurn | with_reducible exact Keeps.refl _ | with_reducible apply Kept.next
      | with_reducible apply Kept.fault | with_reducible apply Keeps.foldl | with_reducible apply Keeps.foldlP | with_reducible apply hf
      | with_reducible apply Keeps.onStore | with_reducible apply Keeps.onCore | (with_reducible apply Keeps.restPlat; with_reducible assumption)
      | intro _ | with_reducible apply CoreKeeps.onTeam | with_reducible apply CoreKeeps.onStashLine | exact CoreKeeps.same rfl
      | exact GlenKeeps.same rfl | rfl
      | (extract_lets +onlyGivenNames x; first | (have hx : Keeps s0 x := ?_; clear_value x; on_goal 2 => subst x) | (have hx : Keeps s0 x.1 := ?_; clear_value x; on_goal 2 => subst x) | (have hf : ∀ t, Keeps s0 t → Keeps s0 (x t) := ?_; clear_value x; on_goal 2 => subst x) | (have hf : ∀ t b, Keeps s0 t → Keeps s0 (x t b) := ?_; clear_value x; on_goal 2 => subst x) | (have hf : ∀ a b t, Keeps s0 t → Keeps s0 (x a b t) := ?_; clear_value x; on_goal 2 => subst x) | (have hf : ∀ a, Keeps s0 (x a) := ?_; clear_value x; on_goal 2 => subst x) | clear_value x)
      | (with_reducible apply Keeps.rest; first | with_reducible assumption | with_reducible exact Keeps.refl _ | with_reducible apply Keeps.onStore | with_reducible apply Keeps.onCore | split)
      | (with_reducible apply Keeps.restStore; first | with_reducible assumption | with_reducible exact Keeps.refl _ | with_reducible apply Keeps.onStore | with_reducible apply Keeps.onCore | split)
      | split

theorem State.coherentWrite_keeps {s0 : State} {s : State} {core : Nat} {bs : List (Nat × Byte)} {poisoned : Bool} {except : Option (Nat × Nat × Nat × Nat)} (h_s : Keeps s0 s) : Keeps s0 (State.coherentWrite s core bs poisoned except) := by
  unfold State.coherentWrite
  repeat' first
      | with_reducible assumption | with_reducible apply Keeps.nextTurn | with_reducible exact Keeps.refl _ | with_reducible apply Kept.next
      | with_reducible apply Kept.fault | with_reducible apply Keeps.foldl | with_reducible apply Keeps.foldlP | with_reducible apply hf
      | with_reducible apply State.useSlice_keeps | with_reducible apply State.dropL1_keeps | with_reducible apply State.recall_keeps
      | with_reducible apply State.perform_keeps | (with_reducible apply Keeps.restPlat; with_reducible assumption) | intro _
      | with_reducible apply CoreKeeps.onTeam | with_reducible apply CoreKeeps.onStashLine | exact CoreKeeps.same rfl | exact GlenKeeps.same rfl | rfl
      | (extract_lets +onlyGivenNames x; first | (have hx : Keeps s0 x := ?_; clear_value x; on_goal 2 => subst x) | (have hx : Keeps s0 x.1 := ?_; clear_value x; on_goal 2 => subst x) | (have hf : ∀ t, Keeps s0 t → Keeps s0 (x t) := ?_; clear_value x; on_goal 2 => subst x) | (have hf : ∀ t b, Keeps s0 t → Keeps s0 (x t b) := ?_; clear_value x; on_goal 2 => subst x) | (have hf : ∀ a b t, Keeps s0 t → Keeps s0 (x a b t) := ?_; clear_value x; on_goal 2 => subst x) | (have hf : ∀ a, Keeps s0 (x a) := ?_; clear_value x; on_goal 2 => subst x) | clear_value x)
      | (with_reducible apply Keeps.rest; first | with_reducible assumption | with_reducible exact Keeps.refl _ | with_reducible apply State.useSlice_keeps | with_reducible apply State.dropL1_keeps | with_reducible apply State.recall_keeps | with_reducible apply State.perform_keeps | split)
      | (with_reducible apply Keeps.restStore; first | with_reducible assumption | with_reducible exact Keeps.refl _ | with_reducible apply State.useSlice_keeps | with_reducible apply State.dropL1_keeps | with_reducible apply State.recall_keeps | with_reducible apply State.perform_keeps | split)
      | split

theorem State.performStore_keeps {s0 : State} {s : State} {core : Nat} {k : Nat} (h_s : Keeps s0 s) : Keeps s0 (State.performStore s core k) := by
  unfold State.performStore
  repeat' first
      | with_reducible assumption | with_reducible apply Keeps.nextTurn | with_reducible exact Keeps.refl _ | with_reducible apply Kept.next
      | with_reducible apply Kept.fault | with_reducible apply Keeps.foldl | with_reducible apply Keeps.foldlP | with_reducible apply hf
      | with_reducible apply Keeps.onCore | with_reducible apply State.coherentWrite_keeps | with_reducible apply State.keepL2_keeps
      | (with_reducible apply Keeps.restPlat; with_reducible assumption) | intro _ | with_reducible apply CoreKeeps.onTeam
      | with_reducible apply CoreKeeps.onStashLine | exact CoreKeeps.same rfl | exact GlenKeeps.same rfl | rfl
      | (extract_lets +onlyGivenNames x; first | (have hx : Keeps s0 x := ?_; clear_value x; on_goal 2 => subst x) | (have hx : Keeps s0 x.1 := ?_; clear_value x; on_goal 2 => subst x) | (have hf : ∀ t, Keeps s0 t → Keeps s0 (x t) := ?_; clear_value x; on_goal 2 => subst x) | (have hf : ∀ t b, Keeps s0 t → Keeps s0 (x t b) := ?_; clear_value x; on_goal 2 => subst x) | (have hf : ∀ a b t, Keeps s0 t → Keeps s0 (x a b t) := ?_; clear_value x; on_goal 2 => subst x) | (have hf : ∀ a, Keeps s0 (x a) := ?_; clear_value x; on_goal 2 => subst x) | clear_value x)
      | (with_reducible apply Keeps.rest; first | with_reducible assumption | with_reducible exact Keeps.refl _ | with_reducible apply Keeps.onCore | with_reducible apply State.coherentWrite_keeps | with_reducible apply State.keepL2_keeps | split)
      | (with_reducible apply Keeps.restStore; first | with_reducible assumption | with_reducible exact Keeps.refl _ | with_reducible apply Keeps.onCore | with_reducible apply State.coherentWrite_keeps | with_reducible apply State.keepL2_keeps | split)
      | split

theorem State.drainStores_keeps {s0 : State} {s : State} {core : Nat} {want : PendingStore → Bool} (h_s : Keeps s0 s) : Keeps s0 (State.drainStores s core want) := by
  unfold State.drainStores
  repeat' first
      | with_reducible assumption | with_reducible apply Kept.next | with_reducible apply Keeps.foldl | with_reducible apply Keeps.foldlP
      | with_reducible apply hf | with_reducible apply State.performStore_keeps | intro _
      | (extract_lets +onlyGivenNames x; first | (have hx : Keeps s0 x := ?_; clear_value x; on_goal 2 => subst x) | (have hx : Keeps s0 x.1 := ?_; clear_value x; on_goal 2 => subst x) | (have hf : ∀ t, Keeps s0 t → Keeps s0 (x t) := ?_; clear_value x; on_goal 2 => subst x) | (have hf : ∀ t b, Keeps s0 t → Keeps s0 (x t b) := ?_; clear_value x; on_goal 2 => subst x) | (have hf : ∀ a b t, Keeps s0 t → Keeps s0 (x a b t) := ?_; clear_value x; on_goal 2 => subst x) | (have hf : ∀ a, Keeps s0 (x a) := ?_; clear_value x; on_goal 2 => subst x) | clear_value x)
      | split

theorem State.pushStore_keeps {s0 : State} {s : State} {core : Nat} {t : PendingStore} (h_s : Keeps s0 s) : Keeps s0 (State.pushStore s core t) := 
  Keeps.onCore h_s _ (fun _ => .same rfl)

theorem State.writeOut_keeps {s0 : State} {s : State} {core : Nat} {line : Nat} (h_s : Keeps s0 s) : Keeps s0 (State.writeOut s core line) := by
  unfold State.writeOut
  repeat' first
      | with_reducible assumption | with_reducible apply Keeps.nextTurn | with_reducible exact Keeps.refl _ | with_reducible apply Kept.next
      | with_reducible apply Kept.fault | with_reducible apply Keeps.foldl | with_reducible apply Keeps.foldlP | with_reducible apply hf
      | with_reducible apply Keeps.onCore | with_reducible apply State.pushStore_keeps
      | (with_reducible apply Keeps.restPlat; with_reducible assumption) | intro _ | with_reducible apply CoreKeeps.onTeam
      | with_reducible apply CoreKeeps.onStashLine | exact CoreKeeps.same rfl | exact GlenKeeps.same rfl | rfl
      | (extract_lets +onlyGivenNames x; first | (have hx : Keeps s0 x := ?_; clear_value x; on_goal 2 => subst x) | (have hx : Keeps s0 x.1 := ?_; clear_value x; on_goal 2 => subst x) | (have hf : ∀ t, Keeps s0 t → Keeps s0 (x t) := ?_; clear_value x; on_goal 2 => subst x) | (have hf : ∀ t b, Keeps s0 t → Keeps s0 (x t b) := ?_; clear_value x; on_goal 2 => subst x) | (have hf : ∀ a b t, Keeps s0 t → Keeps s0 (x a b t) := ?_; clear_value x; on_goal 2 => subst x) | (have hf : ∀ a, Keeps s0 (x a) := ?_; clear_value x; on_goal 2 => subst x) | clear_value x)
      | (with_reducible apply Keeps.rest; first | with_reducible assumption | with_reducible exact Keeps.refl _ | with_reducible apply Keeps.onCore | with_reducible apply State.pushStore_keeps | split)
      | (with_reducible apply Keeps.restStore; first | with_reducible assumption | with_reducible exact Keeps.refl _ | with_reducible apply Keeps.onCore | with_reducible apply State.pushStore_keeps | split)
      | split

theorem State.writeOutWhere_keeps {s0 : State} {s : State} {core : Nat} {f : WcEntry → Bool} (h_s : Keeps s0 s) : Keeps s0 (State.writeOutWhere s core f) := by
  unfold State.writeOutWhere
  repeat' first
      | with_reducible assumption | with_reducible apply Keeps.nextTurn | with_reducible exact Keeps.refl _ | with_reducible apply Kept.next
      | with_reducible apply Kept.fault | with_reducible apply Keeps.foldl | with_reducible apply Keeps.foldlP | with_reducible apply hf
      | with_reducible apply State.writeOut_keeps | (with_reducible apply Keeps.restPlat; with_reducible assumption) | intro _
      | with_reducible apply CoreKeeps.onTeam | with_reducible apply CoreKeeps.onStashLine | exact CoreKeeps.same rfl | exact GlenKeeps.same rfl | rfl
      | (extract_lets +onlyGivenNames x; first | (have hx : Keeps s0 x := ?_; clear_value x; on_goal 2 => subst x) | (have hx : Keeps s0 x.1 := ?_; clear_value x; on_goal 2 => subst x) | (have hf : ∀ t, Keeps s0 t → Keeps s0 (x t) := ?_; clear_value x; on_goal 2 => subst x) | (have hf : ∀ t b, Keeps s0 t → Keeps s0 (x t b) := ?_; clear_value x; on_goal 2 => subst x) | (have hf : ∀ a b t, Keeps s0 t → Keeps s0 (x a b t) := ?_; clear_value x; on_goal 2 => subst x) | (have hf : ∀ a, Keeps s0 (x a) := ?_; clear_value x; on_goal 2 => subst x) | clear_value x)
      | (with_reducible apply Keeps.rest; first | with_reducible assumption | with_reducible exact Keeps.refl _ | with_reducible apply State.writeOut_keeps | split)
      | (with_reducible apply Keeps.restStore; first | with_reducible assumption | with_reducible exact Keeps.refl _ | with_reducible apply State.writeOut_keeps | split)
      | split

theorem State.mergeWc_keeps {s0 : State} {s : State} {core : Nat} {group : Nat} {lane : Nat} {line : Nat} {bs : List (Nat × Byte)} (h_s : Keeps s0 s) : Keeps s0 (State.mergeWc s core group lane line bs) := by
  unfold State.mergeWc
  repeat' first
      | with_reducible assumption | with_reducible apply Keeps.nextTurn | with_reducible exact Keeps.refl _ | with_reducible apply Kept.next
      | with_reducible apply Kept.fault | with_reducible apply Keeps.foldl | with_reducible apply Keeps.foldlP | with_reducible apply hf
      | with_reducible apply State.writeOut_keeps | with_reducible apply Keeps.onCore
      | (with_reducible apply Keeps.restPlat; with_reducible assumption) | intro _ | with_reducible apply CoreKeeps.onTeam
      | with_reducible apply CoreKeeps.onStashLine | exact CoreKeeps.same rfl | exact GlenKeeps.same rfl | rfl
      | (extract_lets +onlyGivenNames x; first | (have hx : Keeps s0 x := ?_; clear_value x; on_goal 2 => subst x) | (have hx : Keeps s0 x.1 := ?_; clear_value x; on_goal 2 => subst x) | (have hf : ∀ t, Keeps s0 t → Keeps s0 (x t) := ?_; clear_value x; on_goal 2 => subst x) | (have hf : ∀ t b, Keeps s0 t → Keeps s0 (x t b) := ?_; clear_value x; on_goal 2 => subst x) | (have hf : ∀ a b t, Keeps s0 t → Keeps s0 (x a b t) := ?_; clear_value x; on_goal 2 => subst x) | (have hf : ∀ a, Keeps s0 (x a) := ?_; clear_value x; on_goal 2 => subst x) | clear_value x)
      | (with_reducible apply Keeps.rest; first | with_reducible assumption | with_reducible exact Keeps.refl _ | with_reducible apply State.writeOut_keeps | with_reducible apply Keeps.onCore | split)
      | (with_reducible apply Keeps.restStore; first | with_reducible assumption | with_reducible exact Keeps.refl _ | with_reducible apply State.writeOut_keeps | with_reducible apply Keeps.onCore | split)
      | split

theorem State.note_keeps {s0 : State} {s : State} {st : Status} (h_s : Keeps s0 s) : Keeps s0 (State.note s st) := by
  unfold State.note
  repeat' first
      | with_reducible assumption | with_reducible apply Kept.next | with_reducible apply State.stopAt_keeps
      | with_reducible apply State.waitFor_keeps | split

theorem State.laneOp_keeps {s0 : State} {s : State} {site : Site} {srcs : List (Spec × Bool)} {f : Issue → Group → List Nat → State → State} (h_s : Keeps s0 s) (h_f : ∀ (x0 : Issue) (x1 : Group) (x2 : List Nat) (x3 : State), Keeps s0 x3 → Keeps s0 (f x0 x1 x2 x3)) : Keeps s0 (State.laneOp s site srcs f) := by
  unfold State.laneOp
  repeat' first
      | with_reducible assumption | with_reducible apply Kept.next | with_reducible apply h_f | with_reducible apply State.during_keeps
      | with_reducible apply Keeps.onGroup | with_reducible apply State.note_keeps | intro _
      | (extract_lets +onlyGivenNames x; first | (have hx : Keeps s0 x := ?_; clear_value x; on_goal 2 => subst x) | (have hx : Keeps s0 x.1 := ?_; clear_value x; on_goal 2 => subst x) | (have hf : ∀ t, Keeps s0 t → Keeps s0 (x t) := ?_; clear_value x; on_goal 2 => subst x) | (have hf : ∀ t b, Keeps s0 t → Keeps s0 (x t b) := ?_; clear_value x; on_goal 2 => subst x) | (have hf : ∀ a b t, Keeps s0 t → Keeps s0 (x a b t) := ?_; clear_value x; on_goal 2 => subst x) | (have hf : ∀ a, Keeps s0 (x a) := ?_; clear_value x; on_goal 2 => subst x) | clear_value x)
      | split

theorem State.laneMap_keeps {s0 : State} {s : State} {site : Site} {srcs : List (Spec × Bool)} {d : Spec} {lat : Nat} {empties : Bool} {f : Issue → Group → Nat → Nat} (h_s : Keeps s0 s) : Keeps s0 (State.laneMap s site srcs d lat empties f) := by
  unfold State.laneMap
  repeat' first
      | with_reducible assumption | with_reducible apply Kept.next | with_reducible apply State.laneOp_keeps
      | with_reducible apply State.postLanes_keeps | intro _

theorem State.scalarOp_keeps {s0 : State} {s : State} {site : Site} {f : Issue → State} (h_s : Keeps s0 s) (h_f : ∀ (x0 : Issue), Keeps s0 (f x0)) : Keeps s0 (State.scalarOp s site f) := by
  unfold State.scalarOp
  repeat' first
      | with_reducible assumption | with_reducible apply Kept.next | with_reducible apply h_f | with_reducible apply State.during_keeps | intro _
      | split

theorem State.intOp_keeps {s0 : State} {s : State} {o : ROp} {lat : Nat} {empties : Bool} {srcs : List (Spec × Bool)} {f : Nat → Nat → Nat → Nat} (h_s : Keeps s0 s) : Keeps s0 (State.intOp s o lat empties srcs f) := by
  unfold State.intOp
  repeat' first
      | with_reducible assumption | with_reducible apply Kept.next | with_reducible apply State.scalarOp_keeps
      | with_reducible apply State.postScalar_keeps | with_reducible apply State.laneMap_keeps | intro _ | split

theorem State.immOp_keeps {s0 : State} {s : State} {o : IOp} {f : Nat → Nat → Nat} (h_s : Keeps s0 s) : Keeps s0 (State.immOp s o f) := by
  unfold State.immOp
  repeat' first
      | with_reducible assumption | with_reducible apply Kept.next | with_reducible apply State.scalarOp_keeps
      | with_reducible apply State.postScalar_keeps | with_reducible apply State.laneMap_keeps | intro _ | split

theorem State.floatOp_keeps {s0 : State} {s : State} {site : Site} {srcs : List (Spec × Bool)} {d : Spec} {lat : Nat × Nat} {diverts : Bool} {special : Bool} {f : Issue → Group → Nat → FElem} (h_s : Keeps s0 s) : Keeps s0 (State.floatOp s site srcs d lat diverts special f) := by
  unfold State.floatOp
  repeat' first
      | with_reducible assumption | with_reducible apply Keeps.nextTurn | with_reducible exact Keeps.refl _ | with_reducible apply Kept.next
      | with_reducible apply Kept.fault | with_reducible apply Keeps.foldl | with_reducible apply Keeps.foldlP | with_reducible apply hf
      | with_reducible apply State.laneOp_keeps | with_reducible apply Keeps.onGroup | with_reducible apply State.postLanes_keeps
      | (with_reducible apply Keeps.restPlat; with_reducible assumption) | intro _ | with_reducible apply CoreKeeps.onTeam
      | with_reducible apply CoreKeeps.onStashLine | exact CoreKeeps.same rfl | exact GlenKeeps.same rfl | rfl
      | (extract_lets +onlyGivenNames x; first | (have hx : Keeps s0 x := ?_; clear_value x; on_goal 2 => subst x) | (have hx : Keeps s0 x.1 := ?_; clear_value x; on_goal 2 => subst x) | (have hf : ∀ t, Keeps s0 t → Keeps s0 (x t) := ?_; clear_value x; on_goal 2 => subst x) | (have hf : ∀ t b, Keeps s0 t → Keeps s0 (x t b) := ?_; clear_value x; on_goal 2 => subst x) | (have hf : ∀ a b t, Keeps s0 t → Keeps s0 (x a b t) := ?_; clear_value x; on_goal 2 => subst x) | (have hf : ∀ a, Keeps s0 (x a) := ?_; clear_value x; on_goal 2 => subst x) | clear_value x)
      | (with_reducible apply Keeps.rest; first | with_reducible assumption | with_reducible exact Keeps.refl _ | with_reducible apply State.laneOp_keeps | with_reducible apply Keeps.onGroup | with_reducible apply State.postLanes_keeps | split)
      | (with_reducible apply Keeps.restStore; first | with_reducible assumption | with_reducible exact Keeps.refl _ | with_reducible apply State.laneOp_keeps | with_reducible apply Keeps.onGroup | with_reducible apply State.postLanes_keeps | split)
      | split

theorem State.watch_keeps {s0 : State} {s : State} {c : Issue} {site : Site} {k : AccessKind} {ls : List GLane} (h_s : Keeps s0 s) : Keeps s0 (State.watch s c site k ls) := by
  unfold State.watch
  repeat' first | with_reducible assumption | with_reducible apply Kept.next | with_reducible apply State.stopAfter_keeps | split

theorem State.refillX_keeps {s0 : State} {s : State} {c : Issue} {ps : List (Nat × List (GAddr × Nat))} (h_s : Keeps s0 s) : Keeps s0 (State.refillX s c ps) := by
  unfold State.refillX
  repeat' first
      | with_reducible assumption | with_reducible apply Kept.next | with_reducible apply Keeps.foldl | with_reducible apply Keeps.foldlP
      | with_reducible apply hf | with_reducible apply Keeps.onGroup | intro _
      | (extract_lets +onlyGivenNames x; first | (have hx : Keeps s0 x := ?_; clear_value x; on_goal 2 => subst x) | (have hx : Keeps s0 x.1 := ?_; clear_value x; on_goal 2 => subst x) | (have hf : ∀ t, Keeps s0 t → Keeps s0 (x t) := ?_; clear_value x; on_goal 2 => subst x) | (have hf : ∀ t b, Keeps s0 t → Keeps s0 (x t b) := ?_; clear_value x; on_goal 2 => subst x) | (have hf : ∀ a b t, Keeps s0 t → Keeps s0 (x a b t) := ?_; clear_value x; on_goal 2 => subst x) | (have hf : ∀ a, Keeps s0 (x a) := ?_; clear_value x; on_goal 2 => subst x) | clear_value x)
      | split

theorem State.reach_keeps {s0 : State} {s : State} {c : Issue} {site : Site} {tag : Nat} {k : AccessKind} {ps : List (Nat × List (GAddr × Nat))} {f : List GLane → State → State} (h_s : Keeps s0 s) (h_f : ∀ (x0 : List GLane) (x1 : State), Keeps s0 x1 → Keeps s0 (f x0 x1)) : Keeps s0 (State.reach s c site tag k ps f) := by
  unfold State.reach
  repeat' first
      | with_reducible assumption | with_reducible apply Kept.next | with_reducible apply h_f | with_reducible apply State.stopAt_keeps
      | with_reducible apply State.waitFor_keeps | with_reducible apply State.refillX_keeps | with_reducible apply State.fillTlb_keeps
      | with_reducible apply State.watch_keeps
      | (with_reducible apply Keeps.rest; first | with_reducible assumption | with_reducible exact Keeps.refl _ | with_reducible apply h_f | with_reducible apply State.stopAt_keeps | with_reducible apply State.waitFor_keeps | with_reducible apply State.refillX_keeps | with_reducible apply State.fillTlb_keeps | with_reducible apply State.watch_keeps | split)

theorem State.countTag_keeps {s0 : State} {s : State} {c : Issue} {tag : Nat} {kind : Nat} {n : Nat} (h_s : Keeps s0 s) : Keeps s0 (State.countTag s c tag kind n) := by
  unfold State.countTag
  repeat' first
      | with_reducible assumption | with_reducible apply Kept.next | with_reducible apply Keeps.onCore | intro _ | exact CoreKeeps.same rfl | split

theorem State.gather_keeps {s0 : State} {s : State} {p : Nat} {cls : Nat} {first : Bool} (h_s : Keeps s0 s) : Keeps s0 (State.gather s p cls first) := by
  unfold State.gather
  repeat' first
      | with_reducible assumption | with_reducible apply Keeps.nextTurn | with_reducible exact Keeps.refl _ | with_reducible apply Kept.next
      | with_reducible apply Kept.fault | with_reducible apply Keeps.foldl | with_reducible apply Keeps.foldlP | with_reducible apply hf
      | with_reducible apply State.useSlice_keeps | with_reducible apply State.keepL2_keeps
      | (with_reducible apply Keeps.restPlat; with_reducible assumption) | intro _ | with_reducible apply CoreKeeps.onTeam
      | with_reducible apply CoreKeeps.onStashLine | exact CoreKeeps.same rfl | exact GlenKeeps.same rfl | rfl
      | (extract_lets +onlyGivenNames x; first | (have hx : Keeps s0 x := ?_; clear_value x; on_goal 2 => subst x) | (have hx : Keeps s0 x.1 := ?_; clear_value x; on_goal 2 => subst x) | (have hf : ∀ t, Keeps s0 t → Keeps s0 (x t) := ?_; clear_value x; on_goal 2 => subst x) | (have hf : ∀ t b, Keeps s0 t → Keeps s0 (x t b) := ?_; clear_value x; on_goal 2 => subst x) | (have hf : ∀ a b t, Keeps s0 t → Keeps s0 (x a b t) := ?_; clear_value x; on_goal 2 => subst x) | (have hf : ∀ a, Keeps s0 (x a) := ?_; clear_value x; on_goal 2 => subst x) | clear_value x)
      | (with_reducible apply Keeps.rest; first | with_reducible assumption | with_reducible exact Keeps.refl _ | with_reducible apply State.useSlice_keeps | with_reducible apply State.keepL2_keeps | split)
      | (with_reducible apply Keeps.restStore; first | with_reducible assumption | with_reducible exact Keeps.refl _ | with_reducible apply State.useSlice_keeps | with_reducible apply State.keepL2_keeps | split)
      | split

theorem State.replicate_keeps {s0 : State} {s : State} {core : Nat} {line : Nat} {grid : Nat} (h_s : Keeps s0 s) : Keeps s0 (State.replicate s core line grid) := by
  unfold State.replicate
  repeat' first
      | with_reducible assumption | with_reducible apply Keeps.nextTurn | with_reducible exact Keeps.refl _ | with_reducible apply Kept.next
      | with_reducible apply Kept.fault | with_reducible apply Keeps.foldl | with_reducible apply Keeps.foldlP | with_reducible apply hf
      | with_reducible apply Keeps.onStore | (with_reducible apply Keeps.restPlat; with_reducible assumption) | intro _
      | with_reducible apply CoreKeeps.onTeam | with_reducible apply CoreKeeps.onStashLine | exact CoreKeeps.same rfl | exact GlenKeeps.same rfl | rfl
      | (extract_lets +onlyGivenNames x; first | (have hx : Keeps s0 x := ?_; clear_value x; on_goal 2 => subst x) | (have hx : Keeps s0 x.1 := ?_; clear_value x; on_goal 2 => subst x) | (have hf : ∀ t, Keeps s0 t → Keeps s0 (x t) := ?_; clear_value x; on_goal 2 => subst x) | (have hf : ∀ t b, Keeps s0 t → Keeps s0 (x t b) := ?_; clear_value x; on_goal 2 => subst x) | (have hf : ∀ a b t, Keeps s0 t → Keeps s0 (x a b t) := ?_; clear_value x; on_goal 2 => subst x) | (have hf : ∀ a, Keeps s0 (x a) := ?_; clear_value x; on_goal 2 => subst x) | clear_value x)
      | (with_reducible apply Keeps.rest; first | with_reducible assumption | with_reducible exact Keeps.refl _ | with_reducible apply Keeps.onStore | split)
      | (with_reducible apply Keeps.restStore; first | with_reducible assumption | with_reducible exact Keeps.refl _ | with_reducible apply Keeps.onStore | split)
      | split

theorem State.touch_keeps {s0 s : State} {core : Nat} {grid : Option Nat} {far : Bool} {l : GLane} {pol : Nat} (h_s : Keeps s0 s) :
    Keeps s0 (State.touch s core grid far l pol) := by
  unfold State.touch
  dsimp only
  split
  · exact h_s
  · refine Keeps.foldl (fun s line h => ?_) _ h_s
    split
    · exact h
    · have h1 := State.gather_keeps (p := line) (cls := pol / 4) (first := pol % 4 == 3) h
      have h2 : Keeps s0 (match grid with
          | some g => if pol % 4 == 1 && isLocal line then State.replicate (s.gather line (pol / 4) (pol % 4 == 3)) core line g
            else s.gather line (pol / 4) (pol % 4 == 3)
          | none => s.gather line (pol / 4) (pol % 4 == 3)) := by
        split
        · split
          · exact State.replicate_keeps h1
          · exact h1
        · exact h1
      split
      · exact h2
      · exact h2.onCore _ (fun c => .same (by unfold Core.keepL1; dsimp only; split <;> rfl))

theorem State.stashFill_keeps {s0 s : State} {core team win k place : Nat} {own : Bool} (h_s : Keeps s0 s) :
    Keeps s0 (State.stashFill s core team win k place own) := by
  unfold State.stashFill
  extract_lets s2 s3 t w fresh bs bad
  have h2 : Keeps s0 s2 := State.recall_keeps h_s
  have h3 : Keeps s0 s3 := by
    unfold s3
    split
    · exact State.dropL1_keeps h2
    · exact h2
  clear_value bs bad
  refine h3.onCore _ (fun c => ?_)
  dsimp only
  with_reducible apply CoreKeeps.onStashLine
  split
  · exact CoreKeeps.write.aside rfl
  · exact .refl _

theorem State.settleLines_keeps {s0 : State} {s : State} {core : Nat} {lines : List Nat} (h_s : Keeps s0 s) : Keeps s0 (State.settleLines s core lines).1 := by
  unfold State.settleLines
  repeat' first
      | with_reducible assumption | with_reducible apply Keeps.nextTurn | with_reducible exact Keeps.refl _ | with_reducible apply Kept.next
      | with_reducible apply Kept.fault | with_reducible apply Keeps.foldl | with_reducible apply Keeps.foldlP | with_reducible apply hf
      | with_reducible apply State.writeOutWhere_keeps | with_reducible apply State.drainStores_keeps
      | (with_reducible apply Keeps.restPlat; with_reducible assumption) | intro _ | with_reducible apply CoreKeeps.onTeam
      | with_reducible apply CoreKeeps.onStashLine | exact CoreKeeps.same rfl | exact GlenKeeps.same rfl | rfl
      | (extract_lets +onlyGivenNames x; first | (have hx : Keeps s0 x := ?_; clear_value x; on_goal 2 => subst x) | (have hx : Keeps s0 x.1 := ?_; clear_value x; on_goal 2 => subst x) | (have hf : ∀ t, Keeps s0 t → Keeps s0 (x t) := ?_; clear_value x; on_goal 2 => subst x) | (have hf : ∀ t b, Keeps s0 t → Keeps s0 (x t b) := ?_; clear_value x; on_goal 2 => subst x) | (have hf : ∀ a b t, Keeps s0 t → Keeps s0 (x a b t) := ?_; clear_value x; on_goal 2 => subst x) | (have hf : ∀ a, Keeps s0 (x a) := ?_; clear_value x; on_goal 2 => subst x) | clear_value x)
      | (with_reducible apply Keeps.rest; first | with_reducible assumption | with_reducible exact Keeps.refl _ | with_reducible apply State.writeOutWhere_keeps | with_reducible apply State.drainStores_keeps | split)
      | (with_reducible apply Keeps.restStore; first | with_reducible assumption | with_reducible exact Keeps.refl _ | with_reducible apply State.writeOutWhere_keeps | with_reducible apply State.drainStores_keeps | split)
      | split

theorem State.spadReach_keeps {s0 : State} {s : State} {c : Issue} {site : Site} {k : AccessKind} {ps : List Nat} {f : State → State} (h_s : Keeps s0 s) (h_f : ∀ (x0 : State), Keeps s0 x0 → Keeps s0 (f x0)) : Keeps s0 (State.spadReach s c site k ps f) := by
  unfold State.spadReach
  repeat' first
      | with_reducible assumption | with_reducible apply Keeps.nextTurn | with_reducible exact Keeps.refl _ | with_reducible apply Kept.next
      | with_reducible apply Kept.fault | with_reducible apply Keeps.foldl | with_reducible apply Keeps.foldlP | with_reducible apply hf
      | with_reducible apply h_f | with_reducible apply State.waitFor_keeps | with_reducible apply State.settleLines_keeps
      | with_reducible apply State.stopAt_keeps | with_reducible apply State.fillTlb_keeps | with_reducible apply State.stashFill_keeps
      | (with_reducible apply Keeps.restPlat; with_reducible assumption) | intro _ | with_reducible apply CoreKeeps.onTeam
      | with_reducible apply CoreKeeps.onStashLine | exact CoreKeeps.same rfl | exact GlenKeeps.same rfl | rfl
      | (extract_lets +onlyGivenNames x; first | (have hx : Keeps s0 x := ?_; clear_value x; on_goal 2 => subst x) | (have hx : Keeps s0 x.1 := ?_; clear_value x; on_goal 2 => subst x) | (have hf : ∀ t, Keeps s0 t → Keeps s0 (x t) := ?_; clear_value x; on_goal 2 => subst x) | (have hf : ∀ t b, Keeps s0 t → Keeps s0 (x t b) := ?_; clear_value x; on_goal 2 => subst x) | (have hf : ∀ a b t, Keeps s0 t → Keeps s0 (x a b t) := ?_; clear_value x; on_goal 2 => subst x) | (have hf : ∀ a, Keeps s0 (x a) := ?_; clear_value x; on_goal 2 => subst x) | clear_value x)
      | (with_reducible apply Keeps.rest; first | with_reducible assumption | with_reducible exact Keeps.refl _ | with_reducible apply h_f | with_reducible apply State.waitFor_keeps | with_reducible apply State.settleLines_keeps | with_reducible apply State.stopAt_keeps | with_reducible apply State.fillTlb_keeps | with_reducible apply State.stashFill_keeps | split)
      | (with_reducible apply Keeps.restStore; first | with_reducible assumption | with_reducible exact Keeps.refl _ | with_reducible apply h_f | with_reducible apply State.waitFor_keeps | with_reducible apply State.settleLines_keeps | with_reducible apply State.stopAt_keeps | with_reducible apply State.fillTlb_keeps | with_reducible apply State.stashFill_keeps | split)
      | split

theorem State.hostWrite_keeps {s0 : State} {s : State} {a : Nat} {bs : List Byte} (h_s : Keeps s0 s) : Keeps s0 (State.hostWrite s a bs) := 
  State.coherentWrite_keeps h_s

theorem State.onHost_keeps {s0 : State} {s : State} {f : HostSide → HostSide} (h_s : Keeps s0 s) : Keeps s0 (State.onHost s f) := 
  Keeps.rest h_s

theorem State.onEvq_keeps {s0 : State} {s : State} {n : Nat} {f : EventQueue → EventQueue} (h_s : Keeps s0 s) : Keeps s0 (State.onEvq s n f) := 
  State.onHost_keeps h_s

theorem State.postEvent_keeps {s0 : State} {s : State} {n : Nat} {bs : List Byte} (h_s : Keeps s0 s) : Keeps s0 (State.postEvent s n bs) := by
  unfold State.postEvent
  repeat' first
      | with_reducible assumption | with_reducible apply Kept.next | with_reducible apply State.onEvq_keeps
      | with_reducible apply State.hostWrite_keeps
      | (with_reducible apply Keeps.rest; first | with_reducible assumption | with_reducible exact Keeps.refl _ | with_reducible apply State.onEvq_keeps | with_reducible apply State.hostWrite_keeps | split)

theorem State.onQueue_keeps {s0 : State} {s : State} {n : Nat} {f : Queue → Queue} (h_s : Keeps s0 s) : Keeps s0 (State.onQueue s n f) := 
  State.onHost_keeps h_s

theorem State.pend_keeps {s0 : State} {s : State} {core : Nat} {cls : Nat} (h_s : Keeps s0 s) : Keeps s0 (State.pend s core cls) := 
  Keeps.onCore h_s _ (fun _ => .same rfl)

theorem State.coreRecord_keeps {s0 : State} {s : State} {core : Nat} {queue : Nat} {r : Rec} {about : Option RecordOf} (h_s : Keeps s0 s) : Keeps s0 (State.coreRecord s core queue r about) := by
  unfold State.coreRecord
  repeat' first
      | with_reducible assumption | with_reducible apply Keeps.nextTurn | with_reducible exact Keeps.refl _ | with_reducible apply Kept.next
      | with_reducible apply Kept.fault | with_reducible apply Keeps.foldl | with_reducible apply Keeps.foldlP | with_reducible apply hf
      | with_reducible apply Keeps.onCore | with_reducible apply State.pend_keeps | with_reducible apply State.postEvent_keeps
      | with_reducible apply State.onHost_keeps | (with_reducible apply Keeps.restPlat; with_reducible assumption) | intro _
      | with_reducible apply CoreKeeps.onTeam | with_reducible apply CoreKeeps.onStashLine | exact CoreKeeps.same rfl | exact GlenKeeps.same rfl | rfl
      | (extract_lets +onlyGivenNames x; first | (have hx : Keeps s0 x := ?_; clear_value x; on_goal 2 => subst x) | (have hx : Keeps s0 x.1 := ?_; clear_value x; on_goal 2 => subst x) | (have hf : ∀ t, Keeps s0 t → Keeps s0 (x t) := ?_; clear_value x; on_goal 2 => subst x) | (have hf : ∀ t b, Keeps s0 t → Keeps s0 (x t b) := ?_; clear_value x; on_goal 2 => subst x) | (have hf : ∀ a b t, Keeps s0 t → Keeps s0 (x a b t) := ?_; clear_value x; on_goal 2 => subst x) | (have hf : ∀ a, Keeps s0 (x a) := ?_; clear_value x; on_goal 2 => subst x) | clear_value x)
      | (with_reducible apply Keeps.rest; first | with_reducible assumption | with_reducible exact Keeps.refl _ | with_reducible apply Keeps.onCore | with_reducible apply State.pend_keeps | with_reducible apply State.postEvent_keeps | with_reducible apply State.onHost_keeps | split)
      | (with_reducible apply Keeps.restStore; first | with_reducible assumption | with_reducible exact Keeps.refl _ | with_reducible apply Keeps.onCore | with_reducible apply State.pend_keeps | with_reducible apply State.postEvent_keeps | with_reducible apply State.onHost_keeps | split)
      | split

theorem State.agentEvent_keeps {s0 : State} {s : State} {core : Nat} {code : Nat} {aux : DWord} {cid : Nat} (h_s : Keeps s0 s) : Keeps s0 (State.agentEvent s core code aux cid) := by
  unfold State.agentEvent
  repeat' first
      | with_reducible assumption | with_reducible apply Keeps.nextTurn | with_reducible exact Keeps.refl _ | with_reducible apply Kept.next
      | with_reducible apply Kept.fault | with_reducible apply Keeps.foldl | with_reducible apply Keeps.foldlP | with_reducible apply hf
      | with_reducible apply State.pend_keeps | with_reducible apply Keeps.onCore | with_reducible apply State.postEvent_keeps
      | (with_reducible apply Keeps.restPlat; with_reducible assumption) | intro _ | with_reducible apply CoreKeeps.onTeam
      | with_reducible apply CoreKeeps.onStashLine | exact CoreKeeps.same rfl | exact GlenKeeps.same rfl | rfl
      | (extract_lets +onlyGivenNames x; first | (have hx : Keeps s0 x := ?_; clear_value x; on_goal 2 => subst x) | (have hx : Keeps s0 x.1 := ?_; clear_value x; on_goal 2 => subst x) | (have hf : ∀ t, Keeps s0 t → Keeps s0 (x t) := ?_; clear_value x; on_goal 2 => subst x) | (have hf : ∀ t b, Keeps s0 t → Keeps s0 (x t b) := ?_; clear_value x; on_goal 2 => subst x) | (have hf : ∀ a b t, Keeps s0 t → Keeps s0 (x a b t) := ?_; clear_value x; on_goal 2 => subst x) | (have hf : ∀ a, Keeps s0 (x a) := ?_; clear_value x; on_goal 2 => subst x) | clear_value x)
      | (with_reducible apply Keeps.rest; first | with_reducible assumption | with_reducible exact Keeps.refl _ | with_reducible apply State.pend_keeps | with_reducible apply Keeps.onCore | with_reducible apply State.postEvent_keeps | split)
      | (with_reducible apply Keeps.restStore; first | with_reducible assumption | with_reducible exact Keeps.refl _ | with_reducible apply State.pend_keeps | with_reducible apply Keeps.onCore | with_reducible apply State.postEvent_keeps | split)
      | split

theorem State.tellCut_keeps {s0 : State} {s : State} (h_s : Keeps s0 s) : Keeps s0 (State.tellCut s) := by
  unfold State.tellCut
  repeat' first
      | with_reducible assumption | with_reducible apply Kept.next | with_reducible apply Keeps.foldl | with_reducible apply Keeps.foldlP
      | with_reducible apply State.agentEvent_keeps | with_reducible apply Keeps.onStore | intro _ | split

theorem State.queueRecord_keeps {s0 : State} {s : State} {q : Nat} {code : Nat} {low : Nat} {pc : DWord} {xlat : BitVec 128} (h_s : Keeps s0 s) : Keeps s0 (State.queueRecord s q code low pc xlat) := by
  unfold State.queueRecord
  repeat' first
      | with_reducible assumption | with_reducible apply Keeps.nextTurn | with_reducible exact Keeps.refl _ | with_reducible apply Kept.next
      | with_reducible apply Kept.fault | with_reducible apply Keeps.foldl | with_reducible apply Keeps.foldlP | with_reducible apply hf
      | with_reducible apply State.onDie_keeps | with_reducible apply State.pend_keeps | with_reducible apply State.postEvent_keeps
      | (with_reducible apply Keeps.restPlat; with_reducible assumption) | intro _ | with_reducible apply CoreKeeps.onTeam
      | with_reducible apply CoreKeeps.onStashLine | exact CoreKeeps.same rfl | exact GlenKeeps.same rfl | rfl
      | (extract_lets +onlyGivenNames x; first | (have hx : Keeps s0 x := ?_; clear_value x; on_goal 2 => subst x) | (have hx : Keeps s0 x.1 := ?_; clear_value x; on_goal 2 => subst x) | (have hf : ∀ t, Keeps s0 t → Keeps s0 (x t) := ?_; clear_value x; on_goal 2 => subst x) | (have hf : ∀ t b, Keeps s0 t → Keeps s0 (x t b) := ?_; clear_value x; on_goal 2 => subst x) | (have hf : ∀ a b t, Keeps s0 t → Keeps s0 (x a b t) := ?_; clear_value x; on_goal 2 => subst x) | (have hf : ∀ a, Keeps s0 (x a) := ?_; clear_value x; on_goal 2 => subst x) | clear_value x)
      | (with_reducible apply Keeps.rest; first | with_reducible assumption | with_reducible exact Keeps.refl _ | with_reducible apply State.onDie_keeps | with_reducible apply State.pend_keeps | with_reducible apply State.postEvent_keeps | split)
      | (with_reducible apply Keeps.restStore; first | with_reducible assumption | with_reducible exact Keeps.refl _ | with_reducible apply State.onDie_keeps | with_reducible apply State.pend_keeps | with_reducible apply State.postEvent_keeps | split)
      | split

theorem State.queueError_keeps {s0 : State} {s : State} {q : Nat} {cause : Nat} {index : Nat} {xlat : BitVec 128} (h_s : Keeps s0 s) : Keeps s0 (State.queueError s q cause index xlat) := by
  unfold State.queueError
  repeat' first
      | with_reducible assumption | with_reducible apply Kept.next | with_reducible apply State.onQueue_keeps
      | with_reducible apply State.queueRecord_keeps | split

theorem State.trace_keeps {s0 : State} {s : State} {core : Nat} {t : Trace} (h_s : Keeps s0 s) : Keeps s0 (State.trace s core t) := by
  unfold State.trace
  repeat' first
      | with_reducible assumption | with_reducible apply Kept.next | with_reducible apply State.coherentWrite_keeps
      | with_reducible apply Keeps.onCore | intro _ | exact CoreKeeps.same rfl
      | (extract_lets +onlyGivenNames x; first | (have hx : Keeps s0 x := ?_; clear_value x; on_goal 2 => subst x) | (have hx : Keeps s0 x.1 := ?_; clear_value x; on_goal 2 => subst x) | (have hf : ∀ t, Keeps s0 t → Keeps s0 (x t) := ?_; clear_value x; on_goal 2 => subst x) | (have hf : ∀ t b, Keeps s0 t → Keeps s0 (x t b) := ?_; clear_value x; on_goal 2 => subst x) | (have hf : ∀ a b t, Keeps s0 t → Keeps s0 (x a b t) := ?_; clear_value x; on_goal 2 => subst x) | (have hf : ∀ a, Keeps s0 (x a) := ?_; clear_value x; on_goal 2 => subst x) | clear_value x)
      | split

theorem State.traceGang_keeps {s0 : State} {s : State} {bit : Nat} {type : Nat} {w : Who} {g : Group} {slices : List Nat} {pc : DWord} {amask : BitVec 32} {p0 : Word} {p1 : DWord} (h_s : Keeps s0 s) : Keeps s0 (State.traceGang s bit type w g slices pc amask p0 p1) := by
  unfold State.traceGang
  repeat' first | with_reducible assumption | with_reducible apply Kept.next | with_reducible apply State.trace_keeps | split

theorem State.onFlag_keeps {s0 : State} {s : State} {core : Nat} {n : Nat} {f : Flag → Flag} (h_s : Keeps s0 s) : Keeps s0 (State.onFlag s core n f) := 
  Keeps.onCore h_s _ (fun _ => .same rfl)

theorem State.signal_keeps {s0 : State} {s : State} {core : Nat} {n : Nat} {group : Nat} {err : Bool} {aid : Word} (h_s : Keeps s0 s) : Keeps s0 (State.signal s core n group err aid) := by
  unfold State.signal
  repeat' first
      | with_reducible assumption | with_reducible apply Kept.next | with_reducible apply State.onFlag_keeps
      | (with_reducible apply Keeps.rest; first | with_reducible assumption | with_reducible exact Keeps.refl _ | with_reducible apply State.onFlag_keeps | split)

theorem State.releaseHeld_keeps {s0 : State} {s : State} {core : Nat} {group : Nat} (h_s : Keeps s0 s) : Keeps s0 (State.releaseHeld s core group) := by
  unfold State.releaseHeld
  repeat' first
      | with_reducible assumption | with_reducible apply Kept.next | with_reducible apply Keeps.foldl | with_reducible apply Keeps.foldlP
      | with_reducible apply State.onFlag_keeps | intro _ | split

theorem State.onGlenFlag_keeps {s0 : State} {s : State} {n : Nat} {k : Nat} {f : Flag → Flag} (h_s : Keeps s0 s) : Keeps s0 (State.onGlenFlag s n k f) := 
  Keeps.onGlen h_s _ (fun _ => .same rfl)

theorem State.onImageFlag_keeps {s0 : State} {s : State} {space : Nat} {va : DWord} {f : Flag → Flag} (h_s : Keeps s0 s) : Keeps s0 (State.onImageFlag s space va f) := by
  unfold State.onImageFlag
  repeat' first | with_reducible assumption | with_reducible apply Kept.next | with_reducible apply State.coherentWrite_keeps | split

theorem State.onHandle_keeps {s0 : State} {s : State} {h : Nat} {cid : Nat} {f : Flag → Flag} (h_s : Keeps s0 s) : Keeps s0 (State.onHandle s h cid f).1 := by
  unfold State.onHandle
  repeat' first
      | with_reducible assumption | with_reducible apply Kept.next | with_reducible apply State.onFlag_keeps
      | with_reducible apply State.onGlenFlag_keeps | with_reducible apply State.onImageFlag_keeps | split

theorem State.staleEvent_keeps {s0 : State} {s : State} {w : Who} {g : Group} {pc : DWord} (h_s : Keeps s0 s) : Keeps s0 (State.staleEvent s w g pc) := by
  unfold State.staleEvent
  repeat' first | with_reducible assumption | with_reducible apply Kept.next | with_reducible apply State.coreRecord_keeps | split

theorem State.onRing_keeps {s0 : State} {s : State} {core : Nat} {r : Nat} {f : Ring → Ring} (h_s : Keeps s0 s) : Keeps s0 (State.onRing s core r f) := 
  Keeps.onCore h_s _ (fun _ => .same rfl)

end Sys2Proof.Machine
end

