-- ==== Sys2Proof/Laws/KeepsBundles.lean ====
section
/-! SUPPORT. What every step keeps - the canonical forms, the platform's bounds, the fuses - one lemma per operation: the operations of a bundle: lanes, memory, control, system, fetch, and the flags. -/

set_option linter.unreachableTactic false
set_option linter.unusedTactic false

namespace Sys2Proof.Machine

theorem execFadd_keeps {s0 : State} {o : ROp} {s : State} (h_s : Keeps s0 s) : Kept s0 (execFadd o s) := 
  Kept.next (State.floatOp_keeps h_s)

theorem execFsub_keeps {s0 : State} {o : ROp} {s : State} (h_s : Keeps s0 s) : Kept s0 (execFsub o s) := 
  Kept.next (State.floatOp_keeps h_s)

theorem execFmul_keeps {s0 : State} {o : ROp} {s : State} (h_s : Keeps s0 s) : Kept s0 (execFmul o s) := 
  Kept.next (State.floatOp_keeps h_s)

theorem execFma_keeps {s0 : State} {o : ROp} {s : State} (h_s : Keeps s0 s) : Kept s0 (execFma o s) := 
  Kept.next (State.floatOp_keeps h_s)

theorem execFdiv_keeps {s0 : State} {o : ROp} {s : State} (h_s : Keeps s0 s) : Kept s0 (execFdiv o s) := 
  Kept.next (State.floatOp_keeps h_s)

theorem execFmin_keeps {s0 : State} {o : ROp} {s : State} (h_s : Keeps s0 s) : Kept s0 (execFmin o s) := 
  Kept.next (State.floatOp_keeps h_s)

theorem execFmax_keeps {s0 : State} {o : ROp} {s : State} (h_s : Keeps s0 s) : Kept s0 (execFmax o s) := 
  Kept.next (State.floatOp_keeps h_s)

theorem execFcmp_keeps {s0 : State} {o : ROp} {s : State} (h_s : Keeps s0 s) : Kept s0 (execFcmp o s) := 
  Kept.next (State.floatOp_keeps h_s)

theorem execFclass_keeps {s0 : State} {o : ROp} {s : State} (h_s : Keeps s0 s) : Kept s0 (execFclass o s) := 
  Kept.next (State.floatOp_keeps h_s)

theorem execFrnd_keeps {s0 : State} {o : ROp} {s : State} (h_s : Keeps s0 s) : Kept s0 (execFrnd o s) := 
  Kept.next (State.floatOp_keeps h_s)

theorem execRcp_keeps {s0 : State} {o : ROp} {s : State} (h_s : Keeps s0 s) : Kept s0 (execRcp o s) := 
  Kept.next (State.floatOp_keeps h_s)

theorem execRsq_keeps {s0 : State} {o : ROp} {s : State} (h_s : Keeps s0 s) : Kept s0 (execRsq o s) := 
  Kept.next (State.floatOp_keeps h_s)

theorem execSqrt_keeps {s0 : State} {o : ROp} {s : State} (h_s : Keeps s0 s) : Kept s0 (execSqrt o s) := 
  Kept.next (State.floatOp_keeps h_s)

theorem execExp2_keeps {s0 : State} {o : ROp} {s : State} (h_s : Keeps s0 s) : Kept s0 (execExp2 o s) := 
  Kept.next (State.floatOp_keeps h_s)

theorem execLog2_keeps {s0 : State} {o : ROp} {s : State} (h_s : Keeps s0 s) : Kept s0 (execLog2 o s) := 
  Kept.next (State.floatOp_keeps h_s)

theorem execSin_keeps {s0 : State} {o : ROp} {s : State} (h_s : Keeps s0 s) : Kept s0 (execSin o s) := 
  Kept.next (State.floatOp_keeps h_s)

theorem execCos_keeps {s0 : State} {o : ROp} {s : State} (h_s : Keeps s0 s) : Kept s0 (execCos o s) := 
  Kept.next (State.floatOp_keeps h_s)

theorem execTanh_keeps {s0 : State} {o : ROp} {s : State} (h_s : Keeps s0 s) : Kept s0 (execTanh o s) := 
  Kept.next (State.floatOp_keeps h_s)

theorem execCvt_keeps {s0 : State} {o : ROp} {s : State} (h_s : Keeps s0 s) : Kept s0 (execCvt o s) := 
  Kept.next (State.floatOp_keeps h_s)

theorem execPack_keeps {s0 : State} {o : ROp} {s : State} (h_s : Keeps s0 s) : Kept s0 (execPack o s) := 
  Kept.next (State.floatOp_keeps h_s)

theorem execUnpack_keeps {s0 : State} {o : ROp} {s : State} (h_s : Keeps s0 s) : Kept s0 (execUnpack o s) := 
  Kept.next (State.floatOp_keeps h_s)

theorem execFmt_keeps {s0 : State} {o : IOp} {s : State} (h_s : Keeps s0 s) : Kept s0 (execFmt o s) := by
  unfold execFmt
  repeat' first
      | with_reducible assumption | with_reducible apply Keeps.nextTurn | with_reducible exact Keeps.refl _ | with_reducible apply Kept.next
      | with_reducible apply Kept.fault | with_reducible apply Keeps.foldl | with_reducible apply Keeps.foldlP | with_reducible apply hf
      | with_reducible apply State.scalarOp_keeps | with_reducible apply State.illegalOperand_keeps | with_reducible apply Keeps.onGroup
      | (with_reducible apply Keeps.restPlat; with_reducible assumption) | intro _ | with_reducible apply CoreKeeps.onTeam
      | with_reducible apply CoreKeeps.onStashLine | exact CoreKeeps.same rfl | exact GlenKeeps.same rfl | rfl
      | (extract_lets +onlyGivenNames x; first | (have hx : Keeps s0 x := ?_; clear_value x; on_goal 2 => subst x) | (have hx : Keeps s0 x.1 := ?_; clear_value x; on_goal 2 => subst x) | (have hf : ∀ t, Keeps s0 t → Keeps s0 (x t) := ?_; clear_value x; on_goal 2 => subst x) | (have hf : ∀ t b, Keeps s0 t → Keeps s0 (x t b) := ?_; clear_value x; on_goal 2 => subst x) | (have hf : ∀ a b t, Keeps s0 t → Keeps s0 (x a b t) := ?_; clear_value x; on_goal 2 => subst x) | (have hf : ∀ a, Keeps s0 (x a) := ?_; clear_value x; on_goal 2 => subst x) | clear_value x)
      | (with_reducible apply Keeps.rest; first | with_reducible assumption | with_reducible exact Keeps.refl _ | with_reducible apply State.scalarOp_keeps | with_reducible apply State.illegalOperand_keeps | with_reducible apply Keeps.onGroup | split)
      | (with_reducible apply Keeps.restStore; first | with_reducible assumption | with_reducible exact Keeps.refl _ | with_reducible apply State.scalarOp_keeps | with_reducible apply State.illegalOperand_keeps | with_reducible apply Keeps.onGroup | split)
      | split

theorem execFmtrd_keeps {s0 : State} {o : ROp} {s : State} (h_s : Keeps s0 s) : Kept s0 (execFmtrd o s) := by
  unfold execFmtrd
  repeat' first
      | with_reducible assumption | with_reducible apply Keeps.nextTurn | with_reducible exact Keeps.refl _ | with_reducible apply Kept.next
      | with_reducible apply Kept.fault | with_reducible apply Keeps.foldl | with_reducible apply Keeps.foldlP | with_reducible apply hf
      | with_reducible apply State.scalarOp_keeps | with_reducible apply State.postScalar_keeps
      | (with_reducible apply Keeps.restPlat; with_reducible assumption) | intro _ | with_reducible apply CoreKeeps.onTeam
      | with_reducible apply CoreKeeps.onStashLine | exact CoreKeeps.same rfl | exact GlenKeeps.same rfl | rfl
      | (extract_lets +onlyGivenNames x; first | (have hx : Keeps s0 x := ?_; clear_value x; on_goal 2 => subst x) | (have hx : Keeps s0 x.1 := ?_; clear_value x; on_goal 2 => subst x) | (have hf : ∀ t, Keeps s0 t → Keeps s0 (x t) := ?_; clear_value x; on_goal 2 => subst x) | (have hf : ∀ t b, Keeps s0 t → Keeps s0 (x t b) := ?_; clear_value x; on_goal 2 => subst x) | (have hf : ∀ a b t, Keeps s0 t → Keeps s0 (x a b t) := ?_; clear_value x; on_goal 2 => subst x) | (have hf : ∀ a, Keeps s0 (x a) := ?_; clear_value x; on_goal 2 => subst x) | clear_value x)
      | (with_reducible apply Keeps.rest; first | with_reducible assumption | with_reducible exact Keeps.refl _ | with_reducible apply State.scalarOp_keeps | with_reducible apply State.postScalar_keeps | split)
      | (with_reducible apply Keeps.restStore; first | with_reducible assumption | with_reducible exact Keeps.refl _ | with_reducible apply State.scalarOp_keeps | with_reducible apply State.postScalar_keeps | split)
      | split

theorem execDot4_keeps {s0 : State} {o : ROp} {s : State} (h_s : Keeps s0 s) : Kept s0 (execDot4 o s) := 
  Kept.next (State.laneMap_keeps h_s)

theorem execDot8_keeps {s0 : State} {o : ROp} {s : State} (h_s : Keeps s0 s) : Kept s0 (execDot8 o s) := 
  Kept.next (State.laneMap_keeps h_s)

theorem execDotf_keeps {s0 : State} {o : ROp} {s : State} (h_s : Keeps s0 s) : Kept s0 (execDotf o s) := 
  Kept.next (State.laneMap_keeps h_s)

theorem execCbset_keeps {s0 : State} {o : ROp} {s : State} (h_s : Keeps s0 s) : Kept s0 (execCbset o s) := by
  unfold execCbset
  repeat' first
      | with_reducible assumption | with_reducible apply Kept.next | with_reducible apply State.laneOp_keeps | with_reducible apply Keeps.onGroup
      | intro _

theorem execCbenc_keeps {s0 : State} {o : ROp} {s : State} (h_s : Keeps s0 s) : Kept s0 (execCbenc o s) := 
  Kept.next (State.laneMap_keeps h_s)

theorem execCbdec_keeps {s0 : State} {o : ROp} {s : State} (h_s : Keeps s0 s) : Kept s0 (execCbdec o s) := 
  Kept.next (State.laneMap_keeps h_s)

theorem execShfl_keeps {s0 : State} {o : ROp} {s : State} (h_s : Keeps s0 s) : Kept s0 (execShfl o s) := 
  Kept.next (State.laneMap_keeps h_s)

theorem execBcast_keeps {s0 : State} {o : ROp} {s : State} (h_s : Keeps s0 s) : Kept s0 (execBcast o s) := 
  Kept.next (State.laneMap_keeps h_s)

theorem execVote_keeps {s0 : State} {o : ROp} {s : State} (h_s : Keeps s0 s) : Kept s0 (execVote o s) := 
  Kept.next (State.laneMap_keeps h_s)

theorem execRedux_keeps {s0 : State} {o : ROp} {s : State} (h_s : Keeps s0 s) : Kept s0 (execRedux o s) := by
  unfold execRedux
  repeat' first
      | with_reducible assumption | with_reducible apply Kept.next | with_reducible apply State.laneOp_keeps | with_reducible apply Keeps.onGroup
      | with_reducible apply State.postLanes_keeps | intro _ | split

theorem State.scheduleTrap_keeps {s0 : State} {s : State} {site : Site} {spec : Nat} {lane : Nat} (h_s : Keeps s0 s) : Keeps s0 (State.scheduleTrap s site spec lane) := 
  State.stopAt_keeps h_s

theorem execPsend_keeps {s0 : State} {o : ROp} {s : State} (h_s : Keeps s0 s) : Kept s0 (execPsend o s) := by
  unfold execPsend
  repeat' first
      | with_reducible assumption | with_reducible apply Kept.next | with_reducible apply Keeps.foldl | with_reducible apply Keeps.foldlP
      | with_reducible apply hf | with_reducible apply State.laneOp_keeps | with_reducible apply State.scheduleTrap_keeps
      | with_reducible apply Keeps.onGroup | intro _
      | (extract_lets +onlyGivenNames x; first | (have hx : Keeps s0 x := ?_; clear_value x; on_goal 2 => subst x) | (have hx : Keeps s0 x.1 := ?_; clear_value x; on_goal 2 => subst x) | (have hf : ∀ t, Keeps s0 t → Keeps s0 (x t) := ?_; clear_value x; on_goal 2 => subst x) | (have hf : ∀ t b, Keeps s0 t → Keeps s0 (x t b) := ?_; clear_value x; on_goal 2 => subst x) | (have hf : ∀ a b t, Keeps s0 t → Keeps s0 (x a b t) := ?_; clear_value x; on_goal 2 => subst x) | (have hf : ∀ a, Keeps s0 (x a) := ?_; clear_value x; on_goal 2 => subst x) | clear_value x)
      | split

theorem execPtake_keeps {s0 : State} {o : ROp} {s : State} (h_s : Keeps s0 s) : Kept s0 (execPtake o s) := by
  unfold execPtake
  repeat' first
      | with_reducible assumption | with_reducible apply Kept.next | with_reducible apply Keeps.foldl | with_reducible apply Keeps.foldlP
      | with_reducible apply hf | with_reducible apply State.laneOp_keeps | with_reducible apply State.postLanes_keeps
      | with_reducible apply State.scheduleTrap_keeps | intro _
      | (extract_lets +onlyGivenNames x; first | (have hx : Keeps s0 x := ?_; clear_value x; on_goal 2 => subst x) | (have hx : Keeps s0 x.1 := ?_; clear_value x; on_goal 2 => subst x) | (have hf : ∀ t, Keeps s0 t → Keeps s0 (x t) := ?_; clear_value x; on_goal 2 => subst x) | (have hf : ∀ t b, Keeps s0 t → Keeps s0 (x t b) := ?_; clear_value x; on_goal 2 => subst x) | (have hf : ∀ a b t, Keeps s0 t → Keeps s0 (x a b t) := ?_; clear_value x; on_goal 2 => subst x) | (have hf : ∀ a, Keeps s0 (x a) := ?_; clear_value x; on_goal 2 => subst x) | clear_value x)
      | split

theorem State.rngOp_keeps {s0 : State} {s : State} {o : ROp} {h : Word → Word} (h_s : Keeps s0 s) : Keeps s0 (State.rngOp s o h) := by
  unfold State.rngOp
  repeat' first
      | with_reducible assumption | with_reducible apply Kept.next | with_reducible apply State.laneOp_keeps | with_reducible apply Keeps.onGroup
      | with_reducible apply State.postLanes_keeps | intro _

theorem execRng_keeps {s0 : State} {o : ROp} {s : State} (h_s : Keeps s0 s) : Kept s0 (execRng o s) := 
  Kept.next (State.rngOp_keeps h_s)

theorem execRngf_keeps {s0 : State} {o : ROp} {s : State} (h_s : Keeps s0 s) : Kept s0 (execRngf o s) := 
  Kept.next (State.rngOp_keeps h_s)

theorem execRsplit_keeps {s0 : State} {o : ROp} {s : State} (h_s : Keeps s0 s) : Kept s0 (execRsplit o s) := by
  unfold execRsplit
  repeat' first
      | with_reducible assumption | with_reducible apply Kept.next | with_reducible apply State.laneOp_keeps | with_reducible apply Keeps.onGroup
      | intro _

theorem execRngrd_keeps {s0 : State} {o : ROp} {s : State} (h_s : Keeps s0 s) : Kept s0 (execRngrd o s) := 
  Kept.next (State.laneMap_keeps h_s)

theorem execRngwr_keeps {s0 : State} {o : ROp} {s : State} (h_s : Keeps s0 s) : Kept s0 (execRngwr o s) := by
  unfold execRngwr
  repeat' first
      | with_reducible assumption | with_reducible apply Kept.next | with_reducible apply State.laneOp_keeps | with_reducible apply Keeps.onGroup
      | intro _

theorem State.postWords_keeps {s0 : State} {s : State} {c : Issue} {d : Spec} {vals : List (Nat × List Word)} {lat : Nat} {load : Bool} (h_s : Keeps s0 s) : Keeps s0 (State.postWords s c d vals lat load) := by
  unfold State.postWords
  repeat' first | with_reducible assumption | with_reducible apply Kept.next | with_reducible apply Keeps.onGroup | split

theorem State.poisonStop_keeps {s0 : State} {s : State} {site : Site} {d : Spec} {lane : Nat} (h_s : Keeps s0 s) : Keeps s0 (State.poisonStop s site d lane) := 
  State.stopAfter_keeps h_s

theorem State.deliver_keeps {s0 : State} {s : State} {c : Issue} {site : Site} {d : Spec} {sz : Nat} {vals : List (Nat × List Byte)} {lat : Nat} {bad : Option Nat} (h_s : Keeps s0 s) : Keeps s0 (State.deliver s c site d sz vals lat bad) := by
  unfold State.deliver
  repeat' first
      | with_reducible assumption | with_reducible apply Kept.next | with_reducible apply State.poisonStop_keeps
      | with_reducible apply State.postScalar_keeps | with_reducible apply State.postWords_keeps | split

theorem State.tagLast_keeps {s0 : State} {s : State} {c : Issue} {tag : Nat} (h_s : Keeps s0 s) : Keeps s0 (State.tagLast s c tag) := 
  Keeps.onGroup h_s _ _

theorem State.settleLoad_keeps {s0 : State} {s : State} {c : Issue} {scope : Option Scope} {ls : List GLane} (h_s : Keeps s0 s) : Keeps s0 (State.settleLoad s c scope ls).1 := by
  unfold State.settleLoad
  repeat' first
      | with_reducible assumption | with_reducible apply Keeps.nextTurn | with_reducible exact Keeps.refl _ | with_reducible apply Kept.next
      | with_reducible apply Kept.fault | with_reducible apply Keeps.foldl | with_reducible apply Keeps.foldlP | with_reducible apply hf
      | with_reducible apply State.writeOutWhere_keeps | with_reducible apply State.drainStores_keeps | with_reducible apply State.recall_keeps
      | (with_reducible apply Keeps.restPlat; with_reducible assumption) | intro _ | with_reducible apply CoreKeeps.onTeam
      | with_reducible apply CoreKeeps.onStashLine | exact CoreKeeps.same rfl | exact GlenKeeps.same rfl | rfl
      | (extract_lets +onlyGivenNames x; first | (have hx : Keeps s0 x := ?_; clear_value x; on_goal 2 => subst x) | (have hx : Keeps s0 x.1 := ?_; clear_value x; on_goal 2 => subst x) | (have hf : ∀ t, Keeps s0 t → Keeps s0 (x t) := ?_; clear_value x; on_goal 2 => subst x) | (have hf : ∀ t b, Keeps s0 t → Keeps s0 (x t b) := ?_; clear_value x; on_goal 2 => subst x) | (have hf : ∀ a b t, Keeps s0 t → Keeps s0 (x a b t) := ?_; clear_value x; on_goal 2 => subst x) | (have hf : ∀ a, Keeps s0 (x a) := ?_; clear_value x; on_goal 2 => subst x) | clear_value x)
      | (with_reducible apply Keeps.rest; first | with_reducible assumption | with_reducible exact Keeps.refl _ | with_reducible apply State.writeOutWhere_keeps | with_reducible apply State.drainStores_keeps | with_reducible apply State.recall_keeps | split)
      | (with_reducible apply Keeps.restStore; first | with_reducible assumption | with_reducible exact Keeps.refl _ | with_reducible apply State.writeOutWhere_keeps | with_reducible apply State.drainStores_keeps | with_reducible apply State.recall_keeps | split)
      | split

theorem State.loadMem_keeps {s0 : State} {s : State} {o : MOp} {sp : Space} {scope : Option Scope} (h_s : Keeps s0 s) : Keeps s0 (State.loadMem s o sp scope) := by
  unfold State.loadMem
  repeat' first
      | with_reducible assumption | with_reducible apply Keeps.nextTurn | with_reducible exact Keeps.refl _ | with_reducible apply Kept.next
      | with_reducible apply Kept.fault | with_reducible apply Keeps.foldl | with_reducible apply Keeps.foldlP | with_reducible apply hf
      | with_reducible apply State.laneOp_keeps | with_reducible apply State.stopAt_keeps | with_reducible apply State.reach_keeps
      | with_reducible apply State.settleLoad_keeps | with_reducible apply State.waitFor_keeps | with_reducible apply State.touch_keeps
      | with_reducible apply State.countTag_keeps | with_reducible apply State.deliver_keeps | with_reducible apply State.tagLast_keeps
      | (with_reducible apply Keeps.restPlat; with_reducible assumption) | intro _ | with_reducible apply CoreKeeps.onTeam
      | with_reducible apply CoreKeeps.onStashLine | exact CoreKeeps.same rfl | exact GlenKeeps.same rfl | rfl
      | (extract_lets +onlyGivenNames x; first | (have hx : Keeps s0 x := ?_; clear_value x; on_goal 2 => subst x) | (have hx : Keeps s0 x.1 := ?_; clear_value x; on_goal 2 => subst x) | (have hf : ∀ t, Keeps s0 t → Keeps s0 (x t) := ?_; clear_value x; on_goal 2 => subst x) | (have hf : ∀ t b, Keeps s0 t → Keeps s0 (x t b) := ?_; clear_value x; on_goal 2 => subst x) | (have hf : ∀ a b t, Keeps s0 t → Keeps s0 (x a b t) := ?_; clear_value x; on_goal 2 => subst x) | (have hf : ∀ a, Keeps s0 (x a) := ?_; clear_value x; on_goal 2 => subst x) | clear_value x)
      | (with_reducible apply Keeps.rest; first | with_reducible assumption | with_reducible exact Keeps.refl _ | with_reducible apply State.laneOp_keeps | with_reducible apply State.stopAt_keeps | with_reducible apply State.reach_keeps | with_reducible apply State.settleLoad_keeps | with_reducible apply State.waitFor_keeps | with_reducible apply State.touch_keeps | with_reducible apply State.countTag_keeps | with_reducible apply State.deliver_keeps | with_reducible apply State.tagLast_keeps | split)
      | (with_reducible apply Keeps.restStore; first | with_reducible assumption | with_reducible exact Keeps.refl _ | with_reducible apply State.laneOp_keeps | with_reducible apply State.stopAt_keeps | with_reducible apply State.reach_keeps | with_reducible apply State.settleLoad_keeps | with_reducible apply State.waitFor_keeps | with_reducible apply State.touch_keeps | with_reducible apply State.countTag_keeps | with_reducible apply State.deliver_keeps | with_reducible apply State.tagLast_keeps | split)
      | split

theorem State.loadSpad_keeps {s0 : State} {s : State} {o : MOp} (h_s : Keeps s0 s) : Keeps s0 (State.loadSpad s o) := by
  unfold State.loadSpad
  repeat' first
      | with_reducible assumption | with_reducible apply Kept.next | with_reducible apply State.laneOp_keeps | with_reducible apply State.stopAt_keeps
      | with_reducible apply State.spadReach_keeps | with_reducible apply State.deliver_keeps | intro _
      | (extract_lets +onlyGivenNames x; first | (have hx : Keeps s0 x := ?_; clear_value x; on_goal 2 => subst x) | (have hx : Keeps s0 x.1 := ?_; clear_value x; on_goal 2 => subst x) | (have hf : ∀ t, Keeps s0 t → Keeps s0 (x t) := ?_; clear_value x; on_goal 2 => subst x) | (have hf : ∀ t b, Keeps s0 t → Keeps s0 (x t b) := ?_; clear_value x; on_goal 2 => subst x) | (have hf : ∀ a b t, Keeps s0 t → Keeps s0 (x a b t) := ?_; clear_value x; on_goal 2 => subst x) | (have hf : ∀ a, Keeps s0 (x a) := ?_; clear_value x; on_goal 2 => subst x) | clear_value x)
      | split

theorem execLdG_keeps {s0 : State} {o : MOp} {s : State} (h_s : Keeps s0 s) : Kept s0 (execLdG o s) := 
  Kept.next (State.loadMem_keeps h_s)

theorem execLdGAcq_keeps {s0 : State} {o : MOp} {s : State} (h_s : Keeps s0 s) : Kept s0 (execLdGAcq o s) := 
  Kept.next (State.loadMem_keeps h_s)

theorem execLdS_keeps {s0 : State} {o : MOp} {s : State} (h_s : Keeps s0 s) : Kept s0 (execLdS o s) := 
  Kept.next (State.loadSpad_keeps h_s)

theorem execLdSAcq_keeps {s0 : State} {o : MOp} {s : State} (h_s : Keeps s0 s) : Kept s0 (execLdSAcq o s) := 
  Kept.next (State.loadSpad_keeps h_s)

theorem execLdL_keeps {s0 : State} {o : MOp} {s : State} (h_s : Keeps s0 s) : Kept s0 (execLdL o s) := 
  Kept.next (State.loadMem_keeps h_s)

theorem execLdLAcq_keeps {s0 : State} {o : MOp} {s : State} (h_s : Keeps s0 s) : Kept s0 (execLdLAcq o s) := 
  Kept.next (State.loadMem_keeps h_s)

theorem State.releaseNow_keeps {s0 : State} {s : State} {core : Nat} {key : Nat} {threads : List Nat} {x : Scope} {remote : Bool} (h_s : Keeps s0 s) : Keeps s0 (State.releaseNow s core key threads x remote).1 := by
  unfold State.releaseNow
  repeat' first
      | with_reducible assumption | with_reducible apply Keeps.nextTurn | with_reducible exact Keeps.refl _ | with_reducible apply Kept.next
      | with_reducible apply Kept.fault | with_reducible apply Keeps.foldl | with_reducible apply Keeps.foldlP | with_reducible apply hf
      | with_reducible apply State.writeOutWhere_keeps | with_reducible apply State.drainStores_keeps
      | (with_reducible apply Keeps.restPlat; with_reducible assumption) | intro _ | with_reducible apply CoreKeeps.onTeam
      | with_reducible apply CoreKeeps.onStashLine | exact CoreKeeps.same rfl | exact GlenKeeps.same rfl | rfl
      | (extract_lets +onlyGivenNames x; first | (have hx : Keeps s0 x := ?_; clear_value x; on_goal 2 => subst x) | (have hx : Keeps s0 x.1 := ?_; clear_value x; on_goal 2 => subst x) | (have hf : ∀ t, Keeps s0 t → Keeps s0 (x t) := ?_; clear_value x; on_goal 2 => subst x) | (have hf : ∀ t b, Keeps s0 t → Keeps s0 (x t b) := ?_; clear_value x; on_goal 2 => subst x) | (have hf : ∀ a b t, Keeps s0 t → Keeps s0 (x a b t) := ?_; clear_value x; on_goal 2 => subst x) | (have hf : ∀ a, Keeps s0 (x a) := ?_; clear_value x; on_goal 2 => subst x) | clear_value x)
      | (with_reducible apply Keeps.rest; first | with_reducible assumption | with_reducible exact Keeps.refl _ | with_reducible apply State.writeOutWhere_keeps | with_reducible apply State.drainStores_keeps | split)
      | (with_reducible apply Keeps.restStore; first | with_reducible assumption | with_reducible exact Keeps.refl _ | with_reducible apply State.writeOutWhere_keeps | with_reducible apply State.drainStores_keeps | split)
      | split

theorem State.storeLine_keeps {s0 : State} {s : State} {core : Nat} {op : Nat} {key : Nat} {thread : Nat} {l : GLane} {pol : Nat} {nt : Bool} {release : Option Scope} {line : Nat} {bs : List (Nat × Byte)} {bad : Bool} (h_s : Keeps s0 s) : Keeps s0 (State.storeLine s core op key thread l pol nt release line bs bad) := by
  unfold State.storeLine
  repeat' first
      | with_reducible assumption | with_reducible apply Keeps.nextTurn | with_reducible exact Keeps.refl _ | with_reducible apply Kept.next
      | with_reducible apply Kept.fault | with_reducible apply Keeps.foldl | with_reducible apply Keeps.foldlP | with_reducible apply hf
      | with_reducible apply State.mergeWc_keeps | with_reducible apply State.writeOut_keeps | with_reducible apply State.pushStore_keeps
      | (with_reducible apply Keeps.restPlat; with_reducible assumption) | intro _ | with_reducible apply CoreKeeps.onTeam
      | with_reducible apply CoreKeeps.onStashLine | exact CoreKeeps.same rfl | exact GlenKeeps.same rfl | rfl
      | (extract_lets +onlyGivenNames x; first | (have hx : Keeps s0 x := ?_; clear_value x; on_goal 2 => subst x) | (have hx : Keeps s0 x.1 := ?_; clear_value x; on_goal 2 => subst x) | (have hf : ∀ t, Keeps s0 t → Keeps s0 (x t) := ?_; clear_value x; on_goal 2 => subst x) | (have hf : ∀ t b, Keeps s0 t → Keeps s0 (x t b) := ?_; clear_value x; on_goal 2 => subst x) | (have hf : ∀ a b t, Keeps s0 t → Keeps s0 (x a b t) := ?_; clear_value x; on_goal 2 => subst x) | (have hf : ∀ a, Keeps s0 (x a) := ?_; clear_value x; on_goal 2 => subst x) | clear_value x)
      | (with_reducible apply Keeps.rest; first | with_reducible assumption | with_reducible exact Keeps.refl _ | with_reducible apply State.mergeWc_keeps | with_reducible apply State.writeOut_keeps | with_reducible apply State.pushStore_keeps | split)
      | (with_reducible apply Keeps.restStore; first | with_reducible assumption | with_reducible exact Keeps.refl _ | with_reducible apply State.mergeWc_keeps | with_reducible apply State.writeOut_keeps | with_reducible apply State.pushStore_keeps | split)
      | split

theorem State.storeMem_keeps {s0 : State} {s : State} {o : MOp} {sp : Space} {nt : Bool} {release : Option Scope} (h_s : Keeps s0 s) : Keeps s0 (State.storeMem s o sp nt release) := by
  unfold State.storeMem
  repeat' first
      | with_reducible assumption | with_reducible apply Keeps.nextTurn | with_reducible exact Keeps.refl _ | with_reducible apply Kept.next
      | with_reducible apply Kept.fault | with_reducible apply Keeps.foldl | with_reducible apply Keeps.foldlP | with_reducible apply hf
      | with_reducible apply State.laneOp_keeps | with_reducible apply State.stopAt_keeps | with_reducible apply State.reach_keeps
      | with_reducible apply State.waitFor_keeps | with_reducible apply State.writeOutWhere_keeps | with_reducible apply State.storeLine_keeps
      | with_reducible apply State.countTag_keeps | (with_reducible apply Keeps.restPlat; with_reducible assumption) | intro _
      | with_reducible apply CoreKeeps.onTeam | with_reducible apply CoreKeeps.onStashLine | exact CoreKeeps.same rfl | exact GlenKeeps.same rfl | rfl
      | (extract_lets +onlyGivenNames x; first | (have hx : Keeps s0 x := ?_; clear_value x; on_goal 2 => subst x) | (have hx : Keeps s0 x.1 := ?_; clear_value x; on_goal 2 => subst x) | (have hf : ∀ t, Keeps s0 t → Keeps s0 (x t) := ?_; clear_value x; on_goal 2 => subst x) | (have hf : ∀ t b, Keeps s0 t → Keeps s0 (x t b) := ?_; clear_value x; on_goal 2 => subst x) | (have hf : ∀ a b t, Keeps s0 t → Keeps s0 (x a b t) := ?_; clear_value x; on_goal 2 => subst x) | (have hf : ∀ a, Keeps s0 (x a) := ?_; clear_value x; on_goal 2 => subst x) | clear_value x)
      | (with_reducible apply Keeps.rest; first | with_reducible assumption | with_reducible exact Keeps.refl _ | with_reducible apply State.laneOp_keeps | with_reducible apply State.stopAt_keeps | with_reducible apply State.reach_keeps | with_reducible apply State.waitFor_keeps | with_reducible apply State.writeOutWhere_keeps | with_reducible apply State.storeLine_keeps | with_reducible apply State.countTag_keeps | split)
      | (with_reducible apply Keeps.restStore; first | with_reducible assumption | with_reducible exact Keeps.refl _ | with_reducible apply State.laneOp_keeps | with_reducible apply State.stopAt_keeps | with_reducible apply State.reach_keeps | with_reducible apply State.waitFor_keeps | with_reducible apply State.writeOutWhere_keeps | with_reducible apply State.storeLine_keeps | with_reducible apply State.countTag_keeps | split)
      | split

theorem State.spadWrite_keeps {s0 s : State} {core : Nat} {bs : List (SpadByte × Byte)} (h_s : Keeps s0 s) :
    Keeps s0 (State.spadWrite s core bs) := by
  unfold State.spadWrite
  dsimp only
  split
  · exact h_s.onCore _ (fun _ => .wf (Memory.wf_puts _ _))
  · exact State.coherentWrite_keeps (h_s.onCore _ (fun _ => .wf (Memory.wf_puts _ _)))

theorem State.storeSpad_keeps {s0 : State} {s : State} {o : MOp} {release : Bool} (h_s : Keeps s0 s) : Keeps s0 (State.storeSpad s o release) := by
  unfold State.storeSpad
  repeat' first
      | with_reducible assumption | with_reducible apply Keeps.nextTurn | with_reducible exact Keeps.refl _ | with_reducible apply Kept.next
      | with_reducible apply Kept.fault | with_reducible apply Keeps.foldl | with_reducible apply Keeps.foldlP | with_reducible apply hf
      | with_reducible apply State.laneOp_keeps | with_reducible apply State.stopAt_keeps | with_reducible apply State.spadReach_keeps
      | with_reducible apply State.releaseNow_keeps | with_reducible apply State.waitFor_keeps | with_reducible apply State.spadWrite_keeps
      | (with_reducible apply Keeps.restPlat; with_reducible assumption) | intro _ | with_reducible apply CoreKeeps.onTeam
      | with_reducible apply CoreKeeps.onStashLine | exact CoreKeeps.same rfl | exact GlenKeeps.same rfl | rfl
      | (extract_lets +onlyGivenNames x; first | (have hx : Keeps s0 x := ?_; clear_value x; on_goal 2 => subst x) | (have hx : Keeps s0 x.1 := ?_; clear_value x; on_goal 2 => subst x) | (have hf : ∀ t, Keeps s0 t → Keeps s0 (x t) := ?_; clear_value x; on_goal 2 => subst x) | (have hf : ∀ t b, Keeps s0 t → Keeps s0 (x t b) := ?_; clear_value x; on_goal 2 => subst x) | (have hf : ∀ a b t, Keeps s0 t → Keeps s0 (x a b t) := ?_; clear_value x; on_goal 2 => subst x) | (have hf : ∀ a, Keeps s0 (x a) := ?_; clear_value x; on_goal 2 => subst x) | clear_value x)
      | (with_reducible apply Keeps.rest; first | with_reducible assumption | with_reducible exact Keeps.refl _ | with_reducible apply State.laneOp_keeps | with_reducible apply State.stopAt_keeps | with_reducible apply State.spadReach_keeps | with_reducible apply State.releaseNow_keeps | with_reducible apply State.waitFor_keeps | with_reducible apply State.spadWrite_keeps | split)
      | (with_reducible apply Keeps.restStore; first | with_reducible assumption | with_reducible exact Keeps.refl _ | with_reducible apply State.laneOp_keeps | with_reducible apply State.stopAt_keeps | with_reducible apply State.spadReach_keeps | with_reducible apply State.releaseNow_keeps | with_reducible apply State.waitFor_keeps | with_reducible apply State.spadWrite_keeps | split)
      | split

theorem execStG_keeps {s0 : State} {o : MOp} {s : State} (h_s : Keeps s0 s) : Kept s0 (execStG o s) := 
  Kept.next (State.storeMem_keeps h_s)

theorem execStGRel_keeps {s0 : State} {o : MOp} {s : State} (h_s : Keeps s0 s) : Kept s0 (execStGRel o s) := 
  Kept.next (State.storeMem_keeps h_s)

theorem execStGNt_keeps {s0 : State} {o : MOp} {s : State} (h_s : Keeps s0 s) : Kept s0 (execStGNt o s) := 
  Kept.next (State.storeMem_keeps h_s)

theorem execStS_keeps {s0 : State} {o : MOp} {s : State} (h_s : Keeps s0 s) : Kept s0 (execStS o s) := 
  Kept.next (State.storeSpad_keeps h_s)

theorem execStSRel_keeps {s0 : State} {o : MOp} {s : State} (h_s : Keeps s0 s) : Kept s0 (execStSRel o s) := 
  Kept.next (State.storeSpad_keeps h_s)

theorem execStL_keeps {s0 : State} {o : MOp} {s : State} (h_s : Keeps s0 s) : Kept s0 (execStL o s) := 
  Kept.next (State.storeMem_keeps h_s)

theorem execStLRel_keeps {s0 : State} {o : MOp} {s : State} (h_s : Keeps s0 s) : Kept s0 (execStLRel o s) := 
  Kept.next (State.storeMem_keeps h_s)

theorem execStLNt_keeps {s0 : State} {o : MOp} {s : State} (h_s : Keeps s0 s) : Kept s0 (execStLNt o s) := 
  Kept.next (State.storeMem_keeps h_s)

theorem execXpat_keeps {s0 : State} {o : IOp} {s : State} (h_s : Keeps s0 s) : Kept s0 (execXpat o s) := by
  unfold execXpat
  repeat' first
      | with_reducible assumption | with_reducible apply Keeps.nextTurn | with_reducible exact Keeps.refl _ | with_reducible apply Kept.next
      | with_reducible apply Kept.fault | with_reducible apply Keeps.foldl | with_reducible apply Keeps.foldlP | with_reducible apply hf
      | with_reducible apply State.laneOp_keeps | with_reducible apply State.illegalOperand_keeps | with_reducible apply Keeps.onGroup
      | (with_reducible apply Keeps.restPlat; with_reducible assumption) | intro _ | with_reducible apply CoreKeeps.onTeam
      | with_reducible apply CoreKeeps.onStashLine | exact CoreKeeps.same rfl | exact GlenKeeps.same rfl | rfl
      | (extract_lets +onlyGivenNames x; first | (have hx : Keeps s0 x := ?_; clear_value x; on_goal 2 => subst x) | (have hx : Keeps s0 x.1 := ?_; clear_value x; on_goal 2 => subst x) | (have hf : ∀ t, Keeps s0 t → Keeps s0 (x t) := ?_; clear_value x; on_goal 2 => subst x) | (have hf : ∀ t b, Keeps s0 t → Keeps s0 (x t b) := ?_; clear_value x; on_goal 2 => subst x) | (have hf : ∀ a b t, Keeps s0 t → Keeps s0 (x a b t) := ?_; clear_value x; on_goal 2 => subst x) | (have hf : ∀ a, Keeps s0 (x a) := ?_; clear_value x; on_goal 2 => subst x) | clear_value x)
      | (with_reducible apply Keeps.rest; first | with_reducible assumption | with_reducible exact Keeps.refl _ | with_reducible apply State.laneOp_keeps | with_reducible apply State.illegalOperand_keeps | with_reducible apply Keeps.onGroup | split)
      | (with_reducible apply Keeps.restStore; first | with_reducible assumption | with_reducible exact Keeps.refl _ | with_reducible apply State.laneOp_keeps | with_reducible apply State.illegalOperand_keeps | with_reducible apply Keeps.onGroup | split)
      | split

theorem State.ldxMem_keeps {s0 : State} {s : State} {o : MOp} {sp : Space} (h_s : Keeps s0 s) : Keeps s0 (State.ldxMem s o sp) := by
  unfold State.ldxMem
  repeat' first
      | with_reducible assumption | with_reducible apply Keeps.nextTurn | with_reducible exact Keeps.refl _ | with_reducible apply Kept.next
      | with_reducible apply Kept.fault | with_reducible apply Keeps.foldl | with_reducible apply Keeps.foldlP | with_reducible apply hf
      | with_reducible apply State.laneOp_keeps | with_reducible apply State.illegalOperand_keeps | with_reducible apply State.stopAt_keeps
      | with_reducible apply State.reach_keeps | with_reducible apply State.settleLoad_keeps | with_reducible apply State.waitFor_keeps
      | with_reducible apply State.touch_keeps | with_reducible apply State.countTag_keeps | with_reducible apply State.poisonStop_keeps
      | with_reducible apply State.tagLast_keeps | with_reducible apply State.postWords_keeps
      | (with_reducible apply Keeps.restPlat; with_reducible assumption) | intro _ | with_reducible apply CoreKeeps.onTeam
      | with_reducible apply CoreKeeps.onStashLine | exact CoreKeeps.same rfl | exact GlenKeeps.same rfl | rfl
      | (extract_lets +onlyGivenNames x; first | (have hx : Keeps s0 x := ?_; clear_value x; on_goal 2 => subst x) | (have hx : Keeps s0 x.1 := ?_; clear_value x; on_goal 2 => subst x) | (have hf : ∀ t, Keeps s0 t → Keeps s0 (x t) := ?_; clear_value x; on_goal 2 => subst x) | (have hf : ∀ t b, Keeps s0 t → Keeps s0 (x t b) := ?_; clear_value x; on_goal 2 => subst x) | (have hf : ∀ a b t, Keeps s0 t → Keeps s0 (x a b t) := ?_; clear_value x; on_goal 2 => subst x) | (have hf : ∀ a, Keeps s0 (x a) := ?_; clear_value x; on_goal 2 => subst x) | clear_value x)
      | (with_reducible apply Keeps.rest; first | with_reducible assumption | with_reducible exact Keeps.refl _ | with_reducible apply State.laneOp_keeps | with_reducible apply State.illegalOperand_keeps | with_reducible apply State.stopAt_keeps | with_reducible apply State.reach_keeps | with_reducible apply State.settleLoad_keeps | with_reducible apply State.waitFor_keeps | with_reducible apply State.touch_keeps | with_reducible apply State.countTag_keeps | with_reducible apply State.poisonStop_keeps | with_reducible apply State.tagLast_keeps | with_reducible apply State.postWords_keeps | split)
      | (with_reducible apply Keeps.restStore; first | with_reducible assumption | with_reducible exact Keeps.refl _ | with_reducible apply State.laneOp_keeps | with_reducible apply State.illegalOperand_keeps | with_reducible apply State.stopAt_keeps | with_reducible apply State.reach_keeps | with_reducible apply State.settleLoad_keeps | with_reducible apply State.waitFor_keeps | with_reducible apply State.touch_keeps | with_reducible apply State.countTag_keeps | with_reducible apply State.poisonStop_keeps | with_reducible apply State.tagLast_keeps | with_reducible apply State.postWords_keeps | split)
      | split

theorem execLdxG_keeps {s0 : State} {o : MOp} {s : State} (h_s : Keeps s0 s) : Kept s0 (execLdxG o s) := 
  Kept.next (State.ldxMem_keeps h_s)

theorem execLdxL_keeps {s0 : State} {o : MOp} {s : State} (h_s : Keeps s0 s) : Kept s0 (execLdxL o s) := 
  Kept.next (State.ldxMem_keeps h_s)

theorem execLdxS_keeps {s0 : State} {o : MOp} {s : State} (h_s : Keeps s0 s) : Kept s0 (execLdxS o s) := by
  unfold execLdxS
  repeat' first
      | with_reducible assumption | with_reducible apply Keeps.nextTurn | with_reducible exact Keeps.refl _ | with_reducible apply Kept.next
      | with_reducible apply Kept.fault | with_reducible apply Keeps.foldl | with_reducible apply Keeps.foldlP | with_reducible apply hf
      | with_reducible apply State.laneOp_keeps | with_reducible apply State.illegalOperand_keeps | with_reducible apply State.stopAt_keeps
      | with_reducible apply State.spadReach_keeps | with_reducible apply State.poisonStop_keeps | with_reducible apply State.postWords_keeps
      | (with_reducible apply Keeps.restPlat; with_reducible assumption) | intro _ | with_reducible apply CoreKeeps.onTeam
      | with_reducible apply CoreKeeps.onStashLine | exact CoreKeeps.same rfl | exact GlenKeeps.same rfl | rfl
      | (extract_lets +onlyGivenNames x; first | (have hx : Keeps s0 x := ?_; clear_value x; on_goal 2 => subst x) | (have hx : Keeps s0 x.1 := ?_; clear_value x; on_goal 2 => subst x) | (have hf : ∀ t, Keeps s0 t → Keeps s0 (x t) := ?_; clear_value x; on_goal 2 => subst x) | (have hf : ∀ t b, Keeps s0 t → Keeps s0 (x t b) := ?_; clear_value x; on_goal 2 => subst x) | (have hf : ∀ a b t, Keeps s0 t → Keeps s0 (x a b t) := ?_; clear_value x; on_goal 2 => subst x) | (have hf : ∀ a, Keeps s0 (x a) := ?_; clear_value x; on_goal 2 => subst x) | clear_value x)
      | (with_reducible apply Keeps.rest; first | with_reducible assumption | with_reducible exact Keeps.refl _ | with_reducible apply State.laneOp_keeps | with_reducible apply State.illegalOperand_keeps | with_reducible apply State.stopAt_keeps | with_reducible apply State.spadReach_keeps | with_reducible apply State.poisonStop_keeps | with_reducible apply State.postWords_keeps | split)
      | (with_reducible apply Keeps.restStore; first | with_reducible assumption | with_reducible exact Keeps.refl _ | with_reducible apply State.laneOp_keeps | with_reducible apply State.illegalOperand_keeps | with_reducible apply State.stopAt_keeps | with_reducible apply State.spadReach_keeps | with_reducible apply State.poisonStop_keeps | with_reducible apply State.postWords_keeps | split)
      | split

theorem State.deliverOld_keeps {s0 : State} {s : State} {c : Issue} {o : AOp} {olds : List (Nat × Nat)} {lat : Nat} (h_s : Keeps s0 s) : Keeps s0 (State.deliverOld s c o olds lat) := by
  unfold State.deliverOld
  repeat' first
      | with_reducible assumption | with_reducible apply Keeps.nextTurn | with_reducible exact Keeps.refl _ | with_reducible apply Kept.next
      | with_reducible apply Kept.fault | with_reducible apply Keeps.foldl | with_reducible apply Keeps.foldlP | with_reducible apply hf
      | with_reducible apply State.postScalar_keeps | with_reducible apply State.postWords_keeps
      | (with_reducible apply Keeps.restPlat; with_reducible assumption) | intro _ | with_reducible apply CoreKeeps.onTeam
      | with_reducible apply CoreKeeps.onStashLine | exact CoreKeeps.same rfl | exact GlenKeeps.same rfl | rfl
      | (extract_lets +onlyGivenNames x; first | (have hx : Keeps s0 x := ?_; clear_value x; on_goal 2 => subst x) | (have hx : Keeps s0 x.1 := ?_; clear_value x; on_goal 2 => subst x) | (have hf : ∀ t, Keeps s0 t → Keeps s0 (x t) := ?_; clear_value x; on_goal 2 => subst x) | (have hf : ∀ t b, Keeps s0 t → Keeps s0 (x t b) := ?_; clear_value x; on_goal 2 => subst x) | (have hf : ∀ a b t, Keeps s0 t → Keeps s0 (x a b t) := ?_; clear_value x; on_goal 2 => subst x) | (have hf : ∀ a, Keeps s0 (x a) := ?_; clear_value x; on_goal 2 => subst x) | clear_value x)
      | (with_reducible apply Keeps.rest; first | with_reducible assumption | with_reducible exact Keeps.refl _ | with_reducible apply State.postScalar_keeps | with_reducible apply State.postWords_keeps | split)
      | (with_reducible apply Keeps.restStore; first | with_reducible assumption | with_reducible exact Keeps.refl _ | with_reducible apply State.postScalar_keeps | with_reducible apply State.postWords_keeps | split)
      | split

theorem State.atomStep_keeps {s0 : State} {s : State} {core : Nat} {cas : Bool} {aop : Nat} {t : Ty} {places : List Nat} {a : Nat} {b : Nat} (h_s : Keeps s0 s) : Keeps s0 (State.atomStep s core cas aop t places a b).1 := by
  unfold State.atomStep
  repeat' first
      | with_reducible assumption | with_reducible apply Keeps.nextTurn | with_reducible exact Keeps.refl _ | with_reducible apply Kept.next
      | with_reducible apply Kept.fault | with_reducible apply Keeps.foldl | with_reducible apply Keeps.foldlP | with_reducible apply hf
      | with_reducible apply State.useSlice_keeps | with_reducible apply State.dropL1_keeps | with_reducible apply State.recall_keeps
      | with_reducible apply State.perform_keeps | (with_reducible apply Keeps.restPlat; with_reducible assumption) | intro _
      | with_reducible apply CoreKeeps.onTeam | with_reducible apply CoreKeeps.onStashLine | exact CoreKeeps.same rfl | exact GlenKeeps.same rfl | rfl
      | (extract_lets +onlyGivenNames x; first | (have hx : Keeps s0 x := ?_; clear_value x; on_goal 2 => subst x) | (have hx : Keeps s0 x.1 := ?_; clear_value x; on_goal 2 => subst x) | (have hf : ∀ t, Keeps s0 t → Keeps s0 (x t) := ?_; clear_value x; on_goal 2 => subst x) | (have hf : ∀ t b, Keeps s0 t → Keeps s0 (x t b) := ?_; clear_value x; on_goal 2 => subst x) | (have hf : ∀ a b t, Keeps s0 t → Keeps s0 (x a b t) := ?_; clear_value x; on_goal 2 => subst x) | (have hf : ∀ a, Keeps s0 (x a) := ?_; clear_value x; on_goal 2 => subst x) | clear_value x)
      | (with_reducible apply Keeps.rest; first | with_reducible assumption | with_reducible exact Keeps.refl _ | with_reducible apply State.useSlice_keeps | with_reducible apply State.dropL1_keeps | with_reducible apply State.recall_keeps | with_reducible apply State.perform_keeps | split)
      | (with_reducible apply Keeps.restStore; first | with_reducible assumption | with_reducible exact Keeps.refl _ | with_reducible apply State.useSlice_keeps | with_reducible apply State.dropL1_keeps | with_reducible apply State.recall_keeps | with_reducible apply State.perform_keeps | split)
      | split

theorem State.ownHostLines_keeps {s0 s : State} {core : Nat} {ls : List GLane} (h_s : Keeps s0 s) : Keeps s0 (State.ownHostLines s core ls) := by
  unfold State.ownHostLines
  refine Keeps.foldl (fun s line h => ?_) _ h_s
  exact h.onCore _ (fun c => .same (by unfold Core.keepL1; dsimp only; split <;> rfl))

/-- The lanes of an atomic, one after another. -/
theorem AtomOut.st_keeps {α : Type} {s0 : State} {f : AtomOut → α → AtomOut} (hf : ∀ r x, Keeps s0 r.st → Keeps s0 (f r x).st) :
    ∀ (l : List α) {r : AtomOut}, Keeps s0 r.st → Keeps s0 (l.foldl f r).st
  | [], _, h => h
  | x :: l, r, h => AtomOut.st_keeps hf l (hf r x h)

theorem State.atomMem_keeps {s0 : State} {s : State} {o : AOp} {cas : Bool} (h_s : Keeps s0 s) : Keeps s0 (State.atomMem s o cas) := by
  unfold State.atomMem
  repeat' first
      | with_reducible assumption | with_reducible apply Keeps.nextTurn | with_reducible exact Keeps.refl _ | with_reducible apply Kept.next
      | with_reducible apply Kept.fault | with_reducible apply Keeps.foldl | with_reducible apply Keeps.foldlP | with_reducible apply hf
      | with_reducible apply State.laneOp_keeps | with_reducible apply State.stopAt_keeps | with_reducible apply State.reach_keeps
      | with_reducible apply State.trapAt_keeps | with_reducible apply State.writeOutWhere_keeps | with_reducible apply State.drainStores_keeps
      | with_reducible apply State.waitFor_keeps | with_reducible apply State.atomStep_keeps | with_reducible apply AtomOut.st_keeps
      | with_reducible apply State.countTag_keeps | with_reducible apply State.ownHostLines_keeps | with_reducible apply State.poisonStop_keeps
      | with_reducible apply State.deliverOld_keeps | (with_reducible apply Keeps.restPlat; with_reducible assumption) | intro _
      | with_reducible apply CoreKeeps.onTeam | with_reducible apply CoreKeeps.onStashLine | exact CoreKeeps.same rfl | exact GlenKeeps.same rfl | rfl
      | (extract_lets +onlyGivenNames x; first | (have hx : Keeps s0 x := ?_; clear_value x; on_goal 2 => subst x) | (have hx : Keeps s0 x.1 := ?_; clear_value x; on_goal 2 => subst x) | (have hf : ∀ t, Keeps s0 t → Keeps s0 (x t) := ?_; clear_value x; on_goal 2 => subst x) | (have hf : ∀ t b, Keeps s0 t → Keeps s0 (x t b) := ?_; clear_value x; on_goal 2 => subst x) | (have hf : ∀ a b t, Keeps s0 t → Keeps s0 (x a b t) := ?_; clear_value x; on_goal 2 => subst x) | (have hf : ∀ a, Keeps s0 (x a) := ?_; clear_value x; on_goal 2 => subst x) | clear_value x)
      | (with_reducible apply Keeps.rest; first | with_reducible assumption | with_reducible exact Keeps.refl _ | with_reducible apply State.laneOp_keeps | with_reducible apply State.stopAt_keeps | with_reducible apply State.reach_keeps | with_reducible apply State.trapAt_keeps | with_reducible apply State.writeOutWhere_keeps | with_reducible apply State.drainStores_keeps | with_reducible apply State.waitFor_keeps | with_reducible apply State.atomStep_keeps | with_reducible apply AtomOut.st_keeps | with_reducible apply State.countTag_keeps | with_reducible apply State.ownHostLines_keeps | with_reducible apply State.poisonStop_keeps | with_reducible apply State.deliverOld_keeps | split)
      | (with_reducible apply Keeps.restStore; first | with_reducible assumption | with_reducible exact Keeps.refl _ | with_reducible apply State.laneOp_keeps | with_reducible apply State.stopAt_keeps | with_reducible apply State.reach_keeps | with_reducible apply State.trapAt_keeps | with_reducible apply State.writeOutWhere_keeps | with_reducible apply State.drainStores_keeps | with_reducible apply State.waitFor_keeps | with_reducible apply State.atomStep_keeps | with_reducible apply AtomOut.st_keeps | with_reducible apply State.countTag_keeps | with_reducible apply State.ownHostLines_keeps | with_reducible apply State.poisonStop_keeps | with_reducible apply State.deliverOld_keeps | split)
      | split

theorem execAtomG_keeps {s0 : State} {o : AOp} {s : State} (h_s : Keeps s0 s) : Kept s0 (execAtomG o s) := 
  Kept.next (State.atomMem_keeps h_s)

theorem execCasG_keeps {s0 : State} {o : AOp} {s : State} (h_s : Keeps s0 s) : Kept s0 (execCasG o s) := 
  Kept.next (State.atomMem_keeps h_s)

theorem State.atomSpad_keeps {s0 : State} {s : State} {o : AOp} {cas : Bool} (h_s : Keeps s0 s) : Keeps s0 (State.atomSpad s o cas) := by
  unfold State.atomSpad
  repeat' first
      | with_reducible assumption | with_reducible apply Keeps.nextTurn | with_reducible exact Keeps.refl _ | with_reducible apply Kept.next
      | with_reducible apply Kept.fault | with_reducible apply Keeps.foldl | with_reducible apply Keeps.foldlP | with_reducible apply hf
      | with_reducible apply State.laneOp_keeps | with_reducible apply State.stopAt_keeps | with_reducible apply State.spadReach_keeps
      | with_reducible apply State.releaseNow_keeps | with_reducible apply State.waitFor_keeps | with_reducible apply AtomOut.st_keeps
      | with_reducible apply State.spadWrite_keeps | with_reducible apply State.poisonStop_keeps | with_reducible apply State.deliverOld_keeps
      | (with_reducible apply Keeps.restPlat; with_reducible assumption) | intro _ | with_reducible apply CoreKeeps.onTeam
      | with_reducible apply CoreKeeps.onStashLine | exact CoreKeeps.same rfl | exact GlenKeeps.same rfl | rfl
      | (extract_lets +onlyGivenNames x; first | (have hx : Keeps s0 x := ?_; clear_value x; on_goal 2 => subst x) | (have hx : Keeps s0 x.1 := ?_; clear_value x; on_goal 2 => subst x) | (have hf : ∀ t, Keeps s0 t → Keeps s0 (x t) := ?_; clear_value x; on_goal 2 => subst x) | (have hf : ∀ t b, Keeps s0 t → Keeps s0 (x t b) := ?_; clear_value x; on_goal 2 => subst x) | (have hf : ∀ a b t, Keeps s0 t → Keeps s0 (x a b t) := ?_; clear_value x; on_goal 2 => subst x) | (have hf : ∀ a, Keeps s0 (x a) := ?_; clear_value x; on_goal 2 => subst x) | clear_value x)
      | (with_reducible apply Keeps.rest; first | with_reducible assumption | with_reducible exact Keeps.refl _ | with_reducible apply State.laneOp_keeps | with_reducible apply State.stopAt_keeps | with_reducible apply State.spadReach_keeps | with_reducible apply State.releaseNow_keeps | with_reducible apply State.waitFor_keeps | with_reducible apply AtomOut.st_keeps | with_reducible apply State.spadWrite_keeps | with_reducible apply State.poisonStop_keeps | with_reducible apply State.deliverOld_keeps | split)
      | (with_reducible apply Keeps.restStore; first | with_reducible assumption | with_reducible exact Keeps.refl _ | with_reducible apply State.laneOp_keeps | with_reducible apply State.stopAt_keeps | with_reducible apply State.spadReach_keeps | with_reducible apply State.releaseNow_keeps | with_reducible apply State.waitFor_keeps | with_reducible apply AtomOut.st_keeps | with_reducible apply State.spadWrite_keeps | with_reducible apply State.poisonStop_keeps | with_reducible apply State.deliverOld_keeps | split)
      | split

theorem execAtomS_keeps {s0 : State} {o : AOp} {s : State} (h_s : Keeps s0 s) : Kept s0 (execAtomS o s) := 
  Kept.next (State.atomSpad_keeps h_s)

theorem execCasS_keeps {s0 : State} {o : AOp} {s : State} (h_s : Keeps s0 s) : Kept s0 (execCasS o s) := 
  Kept.next (State.atomSpad_keeps h_s)

theorem State.holdFor_keeps {s0 : State} {s : State} {c : Issue} {want : PendingStore → Bool} (h_s : Keeps s0 s) : Keeps s0 (State.holdFor s c want) := 
  Keeps.onGroup h_s _ _

theorem execFence_keeps {s0 : State} {o : ROp} {s : State} (h_s : Keeps s0 s) : Kept s0 (execFence o s) := by
  unfold execFence
  repeat' first
      | with_reducible assumption | with_reducible apply Keeps.nextTurn | with_reducible exact Keeps.refl _ | with_reducible apply Kept.next
      | with_reducible apply Kept.fault | with_reducible apply Keeps.foldl | with_reducible apply Keeps.foldlP | with_reducible apply hf
      | with_reducible apply State.laneOp_keeps | with_reducible apply State.writeOutWhere_keeps | with_reducible apply Keeps.onGroup
      | with_reducible apply State.holdFor_keeps | (with_reducible apply Keeps.restPlat; with_reducible assumption) | intro _
      | with_reducible apply CoreKeeps.onTeam | with_reducible apply CoreKeeps.onStashLine | exact CoreKeeps.same rfl | exact GlenKeeps.same rfl | rfl
      | (extract_lets +onlyGivenNames x; first | (have hx : Keeps s0 x := ?_; clear_value x; on_goal 2 => subst x) | (have hx : Keeps s0 x.1 := ?_; clear_value x; on_goal 2 => subst x) | (have hf : ∀ t, Keeps s0 t → Keeps s0 (x t) := ?_; clear_value x; on_goal 2 => subst x) | (have hf : ∀ t b, Keeps s0 t → Keeps s0 (x t b) := ?_; clear_value x; on_goal 2 => subst x) | (have hf : ∀ a b t, Keeps s0 t → Keeps s0 (x a b t) := ?_; clear_value x; on_goal 2 => subst x) | (have hf : ∀ a, Keeps s0 (x a) := ?_; clear_value x; on_goal 2 => subst x) | clear_value x)
      | (with_reducible apply Keeps.rest; first | with_reducible assumption | with_reducible exact Keeps.refl _ | with_reducible apply State.laneOp_keeps | with_reducible apply State.writeOutWhere_keeps | with_reducible apply Keeps.onGroup | with_reducible apply State.holdFor_keeps | split)
      | (with_reducible apply Keeps.restStore; first | with_reducible assumption | with_reducible exact Keeps.refl _ | with_reducible apply State.laneOp_keeps | with_reducible apply State.writeOutWhere_keeps | with_reducible apply Keeps.onGroup | with_reducible apply State.holdFor_keeps | split)
      | split

theorem execDrain_keeps {s0 : State} {o : ROp} {s : State} (h_s : Keeps s0 s) : Kept s0 (execDrain o s) := by
  unfold execDrain
  repeat' first
      | with_reducible assumption | with_reducible apply Keeps.nextTurn | with_reducible exact Keeps.refl _ | with_reducible apply Kept.next
      | with_reducible apply Kept.fault | with_reducible apply Keeps.foldl | with_reducible apply Keeps.foldlP | with_reducible apply hf
      | with_reducible apply State.laneOp_keeps | with_reducible apply State.holdFor_keeps | with_reducible apply State.writeOutWhere_keeps
      | (with_reducible apply Keeps.restPlat; with_reducible assumption) | intro _ | with_reducible apply CoreKeeps.onTeam
      | with_reducible apply CoreKeeps.onStashLine | exact CoreKeeps.same rfl | exact GlenKeeps.same rfl | rfl
      | (extract_lets +onlyGivenNames x; first | (have hx : Keeps s0 x := ?_; clear_value x; on_goal 2 => subst x) | (have hx : Keeps s0 x.1 := ?_; clear_value x; on_goal 2 => subst x) | (have hf : ∀ t, Keeps s0 t → Keeps s0 (x t) := ?_; clear_value x; on_goal 2 => subst x) | (have hf : ∀ t b, Keeps s0 t → Keeps s0 (x t b) := ?_; clear_value x; on_goal 2 => subst x) | (have hf : ∀ a b t, Keeps s0 t → Keeps s0 (x a b t) := ?_; clear_value x; on_goal 2 => subst x) | (have hf : ∀ a, Keeps s0 (x a) := ?_; clear_value x; on_goal 2 => subst x) | clear_value x)
      | (with_reducible apply Keeps.rest; first | with_reducible assumption | with_reducible exact Keeps.refl _ | with_reducible apply State.laneOp_keeps | with_reducible apply State.holdFor_keeps | with_reducible apply State.writeOutWhere_keeps | split)
      | (with_reducible apply Keeps.restStore; first | with_reducible assumption | with_reducible exact Keeps.refl _ | with_reducible apply State.laneOp_keeps | with_reducible apply State.holdFor_keeps | with_reducible apply State.writeOutWhere_keeps | split)
      | split

theorem execFenceComplete_keeps {s0 : State} {g : GangAt} {s : State} (h_s : Keeps s0 s) : Kept s0 (execFenceComplete g s) := 
  Kept.next (Keeps.onGroupAt h_s _ _ _ _)

theorem execPref_keeps {s0 : State} {o : MOp} {s : State} (h_s : Keeps s0 s) : Kept s0 (execPref o s) := by
  unfold execPref
  repeat' first
      | with_reducible assumption | with_reducible apply Keeps.nextTurn | with_reducible exact Keeps.refl _ | with_reducible apply Kept.next
      | with_reducible apply Kept.fault | with_reducible apply Keeps.foldl | with_reducible apply Keeps.foldlP | with_reducible apply hf
      | with_reducible apply State.laneOp_keeps | with_reducible apply State.touch_keeps
      | (with_reducible apply Keeps.restPlat; with_reducible assumption) | intro _ | with_reducible apply CoreKeeps.onTeam
      | with_reducible apply CoreKeeps.onStashLine | exact CoreKeeps.same rfl | exact GlenKeeps.same rfl | rfl
      | (extract_lets +onlyGivenNames x; first | (have hx : Keeps s0 x := ?_; clear_value x; on_goal 2 => subst x) | (have hx : Keeps s0 x.1 := ?_; clear_value x; on_goal 2 => subst x) | (have hf : ∀ t, Keeps s0 t → Keeps s0 (x t) := ?_; clear_value x; on_goal 2 => subst x) | (have hf : ∀ t b, Keeps s0 t → Keeps s0 (x t b) := ?_; clear_value x; on_goal 2 => subst x) | (have hf : ∀ a b t, Keeps s0 t → Keeps s0 (x a b t) := ?_; clear_value x; on_goal 2 => subst x) | (have hf : ∀ a, Keeps s0 (x a) := ?_; clear_value x; on_goal 2 => subst x) | clear_value x)
      | (with_reducible apply Keeps.rest; first | with_reducible assumption | with_reducible exact Keeps.refl _ | with_reducible apply State.laneOp_keeps | with_reducible apply State.touch_keeps | split)
      | (with_reducible apply Keeps.restStore; first | with_reducible assumption | with_reducible exact Keeps.refl _ | with_reducible apply State.laneOp_keeps | with_reducible apply State.touch_keeps | split)
      | split

theorem execTrx_keeps {s0 : State} {o : ROp} {s : State} (h_s : Keeps s0 s) : Kept s0 (execTrx o s) := by
  unfold execTrx
  repeat' first
      | with_reducible assumption | with_reducible apply Keeps.nextTurn | with_reducible exact Keeps.refl _ | with_reducible apply Kept.next
      | with_reducible apply Kept.fault | with_reducible apply Keeps.foldl | with_reducible apply Keeps.foldlP | with_reducible apply hf
      | with_reducible apply State.laneOp_keeps | with_reducible apply State.waitFor_keeps | with_reducible apply State.fillTlb_keeps
      | with_reducible apply Keeps.onGroup | (with_reducible apply Keeps.restPlat; with_reducible assumption) | intro _
      | with_reducible apply CoreKeeps.onTeam | with_reducible apply CoreKeeps.onStashLine | exact CoreKeeps.same rfl | exact GlenKeeps.same rfl | rfl
      | (extract_lets +onlyGivenNames x; first | (have hx : Keeps s0 x := ?_; clear_value x; on_goal 2 => subst x) | (have hx : Keeps s0 x.1 := ?_; clear_value x; on_goal 2 => subst x) | (have hf : ∀ t, Keeps s0 t → Keeps s0 (x t) := ?_; clear_value x; on_goal 2 => subst x) | (have hf : ∀ t b, Keeps s0 t → Keeps s0 (x t b) := ?_; clear_value x; on_goal 2 => subst x) | (have hf : ∀ a b t, Keeps s0 t → Keeps s0 (x a b t) := ?_; clear_value x; on_goal 2 => subst x) | (have hf : ∀ a, Keeps s0 (x a) := ?_; clear_value x; on_goal 2 => subst x) | clear_value x)
      | (with_reducible apply Keeps.rest; first | with_reducible assumption | with_reducible exact Keeps.refl _ | with_reducible apply State.laneOp_keeps | with_reducible apply State.waitFor_keeps | with_reducible apply State.fillTlb_keeps | with_reducible apply Keeps.onGroup | split)
      | (with_reducible apply Keeps.restStore; first | with_reducible assumption | with_reducible exact Keeps.refl _ | with_reducible apply State.laneOp_keeps | with_reducible apply State.waitFor_keeps | with_reducible apply State.fillTlb_keeps | with_reducible apply Keeps.onGroup | split)
      | split

theorem execStmap_keeps {s0 : State} {o : ROp} {s : State} (h_s : Keeps s0 s) : Kept s0 (execStmap o s) := by
  unfold execStmap
  repeat' first
      | with_reducible assumption | with_reducible apply Keeps.nextTurn | with_reducible exact Keeps.refl _ | with_reducible apply Kept.next
      | with_reducible apply Kept.fault | with_reducible apply Keeps.foldl | with_reducible apply Keeps.foldlP | with_reducible apply hf
      | with_reducible apply State.laneOp_keeps | with_reducible apply State.illegalOperand_keeps | with_reducible apply State.waitFor_keeps
      | with_reducible apply Keeps.onCore | (with_reducible apply Keeps.restPlat; with_reducible assumption) | intro _
      | with_reducible apply CoreKeeps.onTeam | with_reducible apply CoreKeeps.onStashLine | exact CoreKeeps.same rfl | exact GlenKeeps.same rfl | rfl
      | (extract_lets +onlyGivenNames x; first | (have hx : Keeps s0 x := ?_; clear_value x; on_goal 2 => subst x) | (have hx : Keeps s0 x.1 := ?_; clear_value x; on_goal 2 => subst x) | (have hf : ∀ t, Keeps s0 t → Keeps s0 (x t) := ?_; clear_value x; on_goal 2 => subst x) | (have hf : ∀ t b, Keeps s0 t → Keeps s0 (x t b) := ?_; clear_value x; on_goal 2 => subst x) | (have hf : ∀ a b t, Keeps s0 t → Keeps s0 (x a b t) := ?_; clear_value x; on_goal 2 => subst x) | (have hf : ∀ a, Keeps s0 (x a) := ?_; clear_value x; on_goal 2 => subst x) | clear_value x)
      | (with_reducible apply Keeps.rest; first | with_reducible assumption | with_reducible exact Keeps.refl _ | with_reducible apply State.laneOp_keeps | with_reducible apply State.illegalOperand_keeps | with_reducible apply State.waitFor_keeps | with_reducible apply Keeps.onCore | split)
      | (with_reducible apply Keeps.restStore; first | with_reducible assumption | with_reducible exact Keeps.refl _ | with_reducible apply State.laneOp_keeps | with_reducible apply State.illegalOperand_keeps | with_reducible apply State.waitFor_keeps | with_reducible apply Keeps.onCore | split)
      | split

theorem State.flushWindow_keeps {s0 : State} {s : State} {core : Nat} {team : Nat} {win : Nat} {drop : Bool} (h_s : Keeps s0 s) : Keeps s0 (State.flushWindow s core team win drop) := by
  unfold State.flushWindow
  repeat' first
      | with_reducible assumption | with_reducible apply Keeps.nextTurn | with_reducible exact Keeps.refl _ | with_reducible apply Kept.next
      | with_reducible apply Kept.fault | with_reducible apply Keeps.foldl | with_reducible apply Keeps.foldlP | with_reducible apply hf
      | with_reducible apply State.recallLine_keeps | (with_reducible apply Keeps.restPlat; with_reducible assumption) | intro _
      | with_reducible apply CoreKeeps.onTeam | with_reducible apply CoreKeeps.onStashLine | exact CoreKeeps.same rfl | exact GlenKeeps.same rfl | rfl
      | (extract_lets +onlyGivenNames x; first | (have hx : Keeps s0 x := ?_; clear_value x; on_goal 2 => subst x) | (have hx : Keeps s0 x.1 := ?_; clear_value x; on_goal 2 => subst x) | (have hf : ∀ t, Keeps s0 t → Keeps s0 (x t) := ?_; clear_value x; on_goal 2 => subst x) | (have hf : ∀ t b, Keeps s0 t → Keeps s0 (x t b) := ?_; clear_value x; on_goal 2 => subst x) | (have hf : ∀ a b t, Keeps s0 t → Keeps s0 (x a b t) := ?_; clear_value x; on_goal 2 => subst x) | (have hf : ∀ a, Keeps s0 (x a) := ?_; clear_value x; on_goal 2 => subst x) | clear_value x)
      | (with_reducible apply Keeps.rest; first | with_reducible assumption | with_reducible exact Keeps.refl _ | with_reducible apply State.recallLine_keeps | split)
      | (with_reducible apply Keeps.restStore; first | with_reducible assumption | with_reducible exact Keeps.refl _ | with_reducible apply State.recallLine_keeps | split)
      | split

theorem execStflush_keeps {s0 : State} {o : ROp} {s : State} (h_s : Keeps s0 s) : Kept s0 (execStflush o s) := by
  unfold execStflush
  repeat' first
      | with_reducible assumption | with_reducible apply Keeps.nextTurn | with_reducible exact Keeps.refl _ | with_reducible apply Kept.next
      | with_reducible apply Kept.fault | with_reducible apply Keeps.foldl | with_reducible apply Keeps.foldlP | with_reducible apply hf
      | with_reducible apply State.laneOp_keeps | with_reducible apply State.illegalOperand_keeps | with_reducible apply State.waitFor_keeps
      | with_reducible apply State.flushWindow_keeps | (with_reducible apply Keeps.restPlat; with_reducible assumption) | intro _
      | with_reducible apply CoreKeeps.onTeam | with_reducible apply CoreKeeps.onStashLine | exact CoreKeeps.same rfl | exact GlenKeeps.same rfl | rfl
      | (extract_lets +onlyGivenNames x; first | (have hx : Keeps s0 x := ?_; clear_value x; on_goal 2 => subst x) | (have hx : Keeps s0 x.1 := ?_; clear_value x; on_goal 2 => subst x) | (have hf : ∀ t, Keeps s0 t → Keeps s0 (x t) := ?_; clear_value x; on_goal 2 => subst x) | (have hf : ∀ t b, Keeps s0 t → Keeps s0 (x t b) := ?_; clear_value x; on_goal 2 => subst x) | (have hf : ∀ a b t, Keeps s0 t → Keeps s0 (x a b t) := ?_; clear_value x; on_goal 2 => subst x) | (have hf : ∀ a, Keeps s0 (x a) := ?_; clear_value x; on_goal 2 => subst x) | clear_value x)
      | (with_reducible apply Keeps.rest; first | with_reducible assumption | with_reducible exact Keeps.refl _ | with_reducible apply State.laneOp_keeps | with_reducible apply State.illegalOperand_keeps | with_reducible apply State.waitFor_keeps | with_reducible apply State.flushWindow_keeps | split)
      | (with_reducible apply Keeps.restStore; first | with_reducible assumption | with_reducible exact Keeps.refl _ | with_reducible apply State.laneOp_keeps | with_reducible apply State.illegalOperand_keeps | with_reducible apply State.waitFor_keeps | with_reducible apply State.flushWindow_keeps | split)
      | split

theorem State.unmapWindow_keeps {s0 : State} {s : State} {core : Nat} {team : Nat} {win : Nat} (h_s : Keeps s0 s) : Keeps s0 (State.unmapWindow s core team win) := by
  unfold State.unmapWindow
  repeat' first
      | with_reducible assumption | with_reducible apply Keeps.nextTurn | with_reducible exact Keeps.refl _ | with_reducible apply Kept.next
      | with_reducible apply Kept.fault | with_reducible apply Keeps.foldl | with_reducible apply Keeps.foldlP | with_reducible apply hf
      | with_reducible apply Keeps.onCore | with_reducible apply State.flushWindow_keeps
      | (with_reducible apply Keeps.restPlat; with_reducible assumption) | intro _ | with_reducible apply CoreKeeps.onTeam
      | with_reducible apply CoreKeeps.onStashLine | exact CoreKeeps.same rfl | exact GlenKeeps.same rfl | rfl
      | (extract_lets +onlyGivenNames x; first | (have hx : Keeps s0 x := ?_; clear_value x; on_goal 2 => subst x) | (have hx : Keeps s0 x.1 := ?_; clear_value x; on_goal 2 => subst x) | (have hf : ∀ t, Keeps s0 t → Keeps s0 (x t) := ?_; clear_value x; on_goal 2 => subst x) | (have hf : ∀ t b, Keeps s0 t → Keeps s0 (x t b) := ?_; clear_value x; on_goal 2 => subst x) | (have hf : ∀ a b t, Keeps s0 t → Keeps s0 (x a b t) := ?_; clear_value x; on_goal 2 => subst x) | (have hf : ∀ a, Keeps s0 (x a) := ?_; clear_value x; on_goal 2 => subst x) | clear_value x)
      | (with_reducible apply Keeps.rest; first | with_reducible assumption | with_reducible exact Keeps.refl _ | with_reducible apply Keeps.onCore | with_reducible apply State.flushWindow_keeps | split)
      | (with_reducible apply Keeps.restStore; first | with_reducible assumption | with_reducible exact Keeps.refl _ | with_reducible apply Keeps.onCore | with_reducible apply State.flushWindow_keeps | split)
      | split

theorem execStunmap_keeps {s0 : State} {o : ROp} {s : State} (h_s : Keeps s0 s) : Kept s0 (execStunmap o s) := by
  unfold execStunmap
  repeat' first
      | with_reducible assumption | with_reducible apply Keeps.nextTurn | with_reducible exact Keeps.refl _ | with_reducible apply Kept.next
      | with_reducible apply Kept.fault | with_reducible apply Keeps.foldl | with_reducible apply Keeps.foldlP | with_reducible apply hf
      | with_reducible apply State.laneOp_keeps | with_reducible apply State.illegalOperand_keeps | with_reducible apply State.waitFor_keeps
      | with_reducible apply State.unmapWindow_keeps | (with_reducible apply Keeps.restPlat; with_reducible assumption) | intro _
      | with_reducible apply CoreKeeps.onTeam | with_reducible apply CoreKeeps.onStashLine | exact CoreKeeps.same rfl | exact GlenKeeps.same rfl | rfl
      | (extract_lets +onlyGivenNames x; first | (have hx : Keeps s0 x := ?_; clear_value x; on_goal 2 => subst x) | (have hx : Keeps s0 x.1 := ?_; clear_value x; on_goal 2 => subst x) | (have hf : ∀ t, Keeps s0 t → Keeps s0 (x t) := ?_; clear_value x; on_goal 2 => subst x) | (have hf : ∀ t b, Keeps s0 t → Keeps s0 (x t b) := ?_; clear_value x; on_goal 2 => subst x) | (have hf : ∀ a b t, Keeps s0 t → Keeps s0 (x a b t) := ?_; clear_value x; on_goal 2 => subst x) | (have hf : ∀ a, Keeps s0 (x a) := ?_; clear_value x; on_goal 2 => subst x) | clear_value x)
      | (with_reducible apply Keeps.rest; first | with_reducible assumption | with_reducible exact Keeps.refl _ | with_reducible apply State.laneOp_keeps | with_reducible apply State.illegalOperand_keeps | with_reducible apply State.waitFor_keeps | with_reducible apply State.unmapWindow_keeps | split)
      | (with_reducible apply Keeps.restStore; first | with_reducible assumption | with_reducible exact Keeps.refl _ | with_reducible apply State.laneOp_keeps | with_reducible apply State.illegalOperand_keeps | with_reducible apply State.waitFor_keeps | with_reducible apply State.unmapWindow_keeps | split)
      | split

theorem execQbind_keeps {s0 : State} {o : ROp} {s : State} (h_s : Keeps s0 s) : Kept s0 (execQbind o s) := by
  unfold execQbind
  repeat' first
      | with_reducible assumption | with_reducible apply Keeps.nextTurn | with_reducible exact Keeps.refl _ | with_reducible apply Kept.next
      | with_reducible apply Kept.fault | with_reducible apply Keeps.foldl | with_reducible apply Keeps.foldlP | with_reducible apply hf
      | with_reducible apply State.laneOp_keeps | with_reducible apply State.illegalOperand_keeps | with_reducible apply Keeps.onGroup
      | (with_reducible apply Keeps.restPlat; with_reducible assumption) | intro _ | with_reducible apply CoreKeeps.onTeam
      | with_reducible apply CoreKeeps.onStashLine | exact CoreKeeps.same rfl | exact GlenKeeps.same rfl | rfl
      | (extract_lets +onlyGivenNames x; first | (have hx : Keeps s0 x := ?_; clear_value x; on_goal 2 => subst x) | (have hx : Keeps s0 x.1 := ?_; clear_value x; on_goal 2 => subst x) | (have hf : ∀ t, Keeps s0 t → Keeps s0 (x t) := ?_; clear_value x; on_goal 2 => subst x) | (have hf : ∀ t b, Keeps s0 t → Keeps s0 (x t b) := ?_; clear_value x; on_goal 2 => subst x) | (have hf : ∀ a b t, Keeps s0 t → Keeps s0 (x a b t) := ?_; clear_value x; on_goal 2 => subst x) | (have hf : ∀ a, Keeps s0 (x a) := ?_; clear_value x; on_goal 2 => subst x) | clear_value x)
      | (with_reducible apply Keeps.rest; first | with_reducible assumption | with_reducible exact Keeps.refl _ | with_reducible apply State.laneOp_keeps | with_reducible apply State.illegalOperand_keeps | with_reducible apply Keeps.onGroup | split)
      | (with_reducible apply Keeps.restStore; first | with_reducible assumption | with_reducible exact Keeps.refl _ | with_reducible apply State.laneOp_keeps | with_reducible apply State.illegalOperand_keeps | with_reducible apply Keeps.onGroup | split)
      | split

theorem execQfree_keeps {s0 : State} {o : ROp} {s : State} (h_s : Keeps s0 s) : Kept s0 (execQfree o s) := by
  unfold execQfree
  repeat' first
      | with_reducible assumption | with_reducible apply Keeps.nextTurn | with_reducible exact Keeps.refl _ | with_reducible apply Kept.next
      | with_reducible apply Kept.fault | with_reducible apply Keeps.foldl | with_reducible apply Keeps.foldlP | with_reducible apply hf
      | with_reducible apply State.laneOp_keeps | with_reducible apply State.illegalOperand_keeps | with_reducible apply State.waitFor_keeps
      | with_reducible apply Keeps.onGroup | (with_reducible apply Keeps.restPlat; with_reducible assumption) | intro _
      | with_reducible apply CoreKeeps.onTeam | with_reducible apply CoreKeeps.onStashLine | exact CoreKeeps.same rfl | exact GlenKeeps.same rfl | rfl
      | (extract_lets +onlyGivenNames x; first | (have hx : Keeps s0 x := ?_; clear_value x; on_goal 2 => subst x) | (have hx : Keeps s0 x.1 := ?_; clear_value x; on_goal 2 => subst x) | (have hf : ∀ t, Keeps s0 t → Keeps s0 (x t) := ?_; clear_value x; on_goal 2 => subst x) | (have hf : ∀ t b, Keeps s0 t → Keeps s0 (x t b) := ?_; clear_value x; on_goal 2 => subst x) | (have hf : ∀ a b t, Keeps s0 t → Keeps s0 (x a b t) := ?_; clear_value x; on_goal 2 => subst x) | (have hf : ∀ a, Keeps s0 (x a) := ?_; clear_value x; on_goal 2 => subst x) | clear_value x)
      | (with_reducible apply Keeps.rest; first | with_reducible assumption | with_reducible exact Keeps.refl _ | with_reducible apply State.laneOp_keeps | with_reducible apply State.illegalOperand_keeps | with_reducible apply State.waitFor_keeps | with_reducible apply Keeps.onGroup | split)
      | (with_reducible apply Keeps.restStore; first | with_reducible assumption | with_reducible exact Keeps.refl _ | with_reducible apply State.laneOp_keeps | with_reducible apply State.illegalOperand_keeps | with_reducible apply State.waitFor_keeps | with_reducible apply Keeps.onGroup | split)
      | split

theorem State.onCmd_keeps {s0 : State} {s : State} {core : Nat} {id : Nat} {f : Cmd → Cmd} (h_s : Keeps s0 s) : Keeps s0 (State.onCmd s core id f) := 
  Keeps.onCore h_s _ (fun _ => .same rfl)

theorem State.disown_keeps {s0 : State} {s : State} {unit : Nat} {cmd : Nat} (h_s : Keeps s0 s) : Keeps s0 (State.disown s unit cmd) := 
  Keeps.onStore h_s id

theorem State.cmdRecord_keeps {s0 : State} {s : State} {core : Nat} {d : Cmd} {x : Stop} {asy : Bool} {about : Option RecordOf} (h_s : Keeps s0 s) : Keeps s0 (State.cmdRecord s core d x asy about) := by
  unfold State.cmdRecord
  repeat' first
      | with_reducible assumption | with_reducible apply Kept.next | with_reducible apply State.pend_keeps
      | with_reducible apply State.coreRecord_keeps

theorem State.dropHolds_keeps {s0 : State} {s : State} {keys : List Nat} (h_s : Keeps s0 s) : Keeps s0 (State.dropHolds s keys) := by
  unfold State.dropHolds
  repeat' first
      | with_reducible assumption | with_reducible apply Kept.next | with_reducible apply Keeps.foldl | with_reducible apply Keeps.foldlP
      | with_reducible apply State.onRing_keeps | intro _ | split

theorem State.dropCmd_keeps {s0 : State} {s : State} {core : Nat} {d : Cmd} (h_s : Keeps s0 s) : Keeps s0 (State.dropCmd s core d) := by
  unfold State.dropCmd
  repeat' first
      | with_reducible assumption | with_reducible apply Kept.next | with_reducible apply Keeps.onCore | with_reducible apply State.tellCut_keeps
      | with_reducible apply State.dropHolds_keeps | with_reducible apply State.disown_keeps | intro _ | exact CoreKeeps.same rfl

theorem State.endCmd_keeps {s0 : State} {s : State} {core : Nat} {d : Cmd} {err : Bool} {told : Bool} (h_s : Keeps s0 s) : Keeps s0 (State.endCmd s core d err told) := by
  unfold State.endCmd
  repeat' first
      | with_reducible assumption | with_reducible apply Keeps.nextTurn | with_reducible exact Keeps.refl _ | with_reducible apply Kept.next
      | with_reducible apply Kept.fault | with_reducible apply Keeps.foldl | with_reducible apply Keeps.foldlP | with_reducible apply hf
      | with_reducible apply State.dropCmd_keeps | with_reducible apply State.signal_keeps | with_reducible apply State.cmdRecord_keeps
      | (with_reducible apply Keeps.restPlat; with_reducible assumption) | intro _ | with_reducible apply CoreKeeps.onTeam
      | with_reducible apply CoreKeeps.onStashLine | exact CoreKeeps.same rfl | exact GlenKeeps.same rfl | rfl
      | (extract_lets +onlyGivenNames x; first | (have hx : Keeps s0 x := ?_; clear_value x; on_goal 2 => subst x) | (have hx : Keeps s0 x.1 := ?_; clear_value x; on_goal 2 => subst x) | (have hf : ∀ t, Keeps s0 t → Keeps s0 (x t) := ?_; clear_value x; on_goal 2 => subst x) | (have hf : ∀ t b, Keeps s0 t → Keeps s0 (x t b) := ?_; clear_value x; on_goal 2 => subst x) | (have hf : ∀ a b t, Keeps s0 t → Keeps s0 (x a b t) := ?_; clear_value x; on_goal 2 => subst x) | (have hf : ∀ a, Keeps s0 (x a) := ?_; clear_value x; on_goal 2 => subst x) | clear_value x)
      | (with_reducible apply Keeps.rest; first | with_reducible assumption | with_reducible exact Keeps.refl _ | with_reducible apply State.dropCmd_keeps | with_reducible apply State.signal_keeps | with_reducible apply State.cmdRecord_keeps | split)
      | (with_reducible apply Keeps.restStore; first | with_reducible assumption | with_reducible exact Keeps.refl _ | with_reducible apply State.dropCmd_keeps | with_reducible apply State.signal_keeps | with_reducible apply State.cmdRecord_keeps | split)
      | split

theorem State.finishCmd_keeps {s0 : State} {s : State} {core : Nat} {d : Cmd} {err : Bool} (h_s : Keeps s0 s) : Keeps s0 (State.finishCmd s core d err) := by
  unfold State.finishCmd
  repeat' first
      | with_reducible assumption | with_reducible apply Keeps.nextTurn | with_reducible exact Keeps.refl _ | with_reducible apply Kept.next
      | with_reducible apply Kept.fault | with_reducible apply Keeps.foldl | with_reducible apply Keeps.foldlP | with_reducible apply hf
      | with_reducible apply State.endCmd_keeps | (with_reducible apply Keeps.restPlat; with_reducible assumption) | intro _
      | with_reducible apply CoreKeeps.onTeam | with_reducible apply CoreKeeps.onStashLine | exact CoreKeeps.same rfl | exact GlenKeeps.same rfl | rfl
      | (extract_lets +onlyGivenNames x; first | (have hx : Keeps s0 x := ?_; clear_value x; on_goal 2 => subst x) | (have hx : Keeps s0 x.1 := ?_; clear_value x; on_goal 2 => subst x) | (have hf : ∀ t, Keeps s0 t → Keeps s0 (x t) := ?_; clear_value x; on_goal 2 => subst x) | (have hf : ∀ t b, Keeps s0 t → Keeps s0 (x t b) := ?_; clear_value x; on_goal 2 => subst x) | (have hf : ∀ a b t, Keeps s0 t → Keeps s0 (x a b t) := ?_; clear_value x; on_goal 2 => subst x) | (have hf : ∀ a, Keeps s0 (x a) := ?_; clear_value x; on_goal 2 => subst x) | clear_value x)
      | (with_reducible apply Keeps.rest; first | with_reducible assumption | with_reducible exact Keeps.refl _ | with_reducible apply State.endCmd_keeps | split)
      | (with_reducible apply Keeps.restStore; first | with_reducible assumption | with_reducible exact Keeps.refl _ | with_reducible apply State.endCmd_keeps | split)
      | split

theorem State.exitGang_keeps {s0 : State} {s : State} {a : GangAt} {ks : List Nat} (h_s : Keeps s0 s) : Keeps s0 (State.exitGang s a ks) := by
  unfold State.exitGang
  repeat' first
      | with_reducible assumption | with_reducible apply Kept.next | with_reducible apply Keeps.onGroupAt | with_reducible apply Keeps.onCore
      | intro _ | exact CoreKeeps.same rfl
      | (extract_lets +onlyGivenNames x; first | (have hx : Keeps s0 x := ?_; clear_value x; on_goal 2 => subst x) | (have hx : Keeps s0 x.1 := ?_; clear_value x; on_goal 2 => subst x) | (have hf : ∀ t, Keeps s0 t → Keeps s0 (x t) := ?_; clear_value x; on_goal 2 => subst x) | (have hf : ∀ t b, Keeps s0 t → Keeps s0 (x t b) := ?_; clear_value x; on_goal 2 => subst x) | (have hf : ∀ a b t, Keeps s0 t → Keeps s0 (x a b t) := ?_; clear_value x; on_goal 2 => subst x) | (have hf : ∀ a, Keeps s0 (x a) := ?_; clear_value x; on_goal 2 => subst x) | clear_value x)
      | split

theorem State.freeze_keeps {s0 : State} {s : State} {core : Nat} {bank : Nat} {on : Bool} (h_s : Keeps s0 s) : Keeps s0 (State.freeze s core bank on) := 
  Keeps.onCore h_s _ (fun _ => .same rfl)

theorem State.landBank_keeps {s0 : State} {s : State} {core : Nat} {bank : Nat} (h_s : Keeps s0 s) : Keeps s0 (State.landBank s core bank) := by
  unfold State.landBank
  repeat' first
      | with_reducible assumption | with_reducible apply Keeps.nextTurn | with_reducible exact Keeps.refl _ | with_reducible apply Kept.next
      | with_reducible apply Kept.fault | with_reducible apply Keeps.foldl | with_reducible apply Keeps.foldlP | with_reducible apply hf
      | with_reducible apply Keeps.onCore | (with_reducible apply Keeps.restPlat; with_reducible assumption) | intro _
      | with_reducible apply CoreKeeps.onTeam | with_reducible apply CoreKeeps.onStashLine | exact CoreKeeps.same rfl | exact GlenKeeps.same rfl | rfl
      | (extract_lets +onlyGivenNames x; first | (have hx : Keeps s0 x := ?_; clear_value x; on_goal 2 => subst x) | (have hx : Keeps s0 x.1 := ?_; clear_value x; on_goal 2 => subst x) | (have hf : ∀ t, Keeps s0 t → Keeps s0 (x t) := ?_; clear_value x; on_goal 2 => subst x) | (have hf : ∀ t b, Keeps s0 t → Keeps s0 (x t b) := ?_; clear_value x; on_goal 2 => subst x) | (have hf : ∀ a b t, Keeps s0 t → Keeps s0 (x a b t) := ?_; clear_value x; on_goal 2 => subst x) | (have hf : ∀ a, Keeps s0 (x a) := ?_; clear_value x; on_goal 2 => subst x) | clear_value x)
      | (with_reducible apply Keeps.rest; first | with_reducible assumption | with_reducible exact Keeps.refl _ | with_reducible apply Keeps.onCore | split)
      | (with_reducible apply Keeps.restStore; first | with_reducible assumption | with_reducible exact Keeps.refl _ | with_reducible apply Keeps.onCore | split)
      | split

theorem State.thaw_keeps {s0 : State} {s : State} {core : Nat} {bank : Nat} (h_s : Keeps s0 s) : Keeps s0 (State.thaw s core bank) := by
  unfold State.thaw
  repeat' first | with_reducible assumption | with_reducible apply Kept.next | with_reducible apply State.freeze_keeps | split

theorem State.endTeam_keeps {s0 : State} {s : State} {core : Nat} {team : Nat} {x : Stop} (h_s : Keeps s0 s) : Keeps s0 (State.endTeam s core team x) := by
  unfold State.endTeam
  repeat' first
      | with_reducible assumption | with_reducible apply Kept.next | with_reducible apply Keeps.foldl | with_reducible apply Keeps.foldlP
      | with_reducible apply hf | with_reducible apply Keeps.onCore | with_reducible apply State.onHost_keeps | with_reducible apply State.thaw_keeps
      | with_reducible apply State.finishCmd_keeps | intro _ | exact CoreKeeps.same rfl
      | (extract_lets +onlyGivenNames x; first | (have hx : Keeps s0 x := ?_; clear_value x; on_goal 2 => subst x) | (have hx : Keeps s0 x.1 := ?_; clear_value x; on_goal 2 => subst x) | (have hf : ∀ t, Keeps s0 t → Keeps s0 (x t) := ?_; clear_value x; on_goal 2 => subst x) | (have hf : ∀ t b, Keeps s0 t → Keeps s0 (x t b) := ?_; clear_value x; on_goal 2 => subst x) | (have hf : ∀ a b t, Keeps s0 t → Keeps s0 (x a b t) := ?_; clear_value x; on_goal 2 => subst x) | (have hf : ∀ a, Keeps s0 (x a) := ?_; clear_value x; on_goal 2 => subst x) | clear_value x)
      | (with_reducible apply Keeps.rest; first | with_reducible assumption | with_reducible exact Keeps.refl _ | with_reducible apply Keeps.onCore | with_reducible apply State.onHost_keeps | with_reducible apply State.thaw_keeps | with_reducible apply State.finishCmd_keeps | split)
      | split

theorem State.endGlen_keeps {s0 : State} {s : State} {n : Nat} {failed : Bool} (h_s : Keeps s0 s) : Keeps s0 (State.endGlen s n failed) := 
  Keeps.onGlen h_s _ (fun _ => .same rfl)

theorem State.debugAll_keeps {s0 : State} {s : State} {core : Nat} {team : Nat} (h_s : Keeps s0 s) : Keeps s0 (State.debugAll s core team) := by
  unfold State.debugAll
  repeat' first
      | with_reducible assumption | with_reducible apply Kept.next | with_reducible apply Keeps.foldl | with_reducible apply Keeps.foldlP
      | with_reducible apply hf | with_reducible apply Keeps.onCore | intro _ | exact CoreKeeps.same rfl
      | (extract_lets +onlyGivenNames x; first | (have hx : Keeps s0 x := ?_; clear_value x; on_goal 2 => subst x) | (have hx : Keeps s0 x.1 := ?_; clear_value x; on_goal 2 => subst x) | (have hf : ∀ t, Keeps s0 t → Keeps s0 (x t) := ?_; clear_value x; on_goal 2 => subst x) | (have hf : ∀ t b, Keeps s0 t → Keeps s0 (x t b) := ?_; clear_value x; on_goal 2 => subst x) | (have hf : ∀ a b t, Keeps s0 t → Keeps s0 (x a b t) := ?_; clear_value x; on_goal 2 => subst x) | (have hf : ∀ a, Keeps s0 (x a) := ?_; clear_value x; on_goal 2 => subst x) | clear_value x)
      | (with_reducible apply Keeps.rest; first | with_reducible assumption | with_reducible exact Keeps.refl _ | with_reducible apply Keeps.onCore | split)
      | split

theorem State.takeStop_keeps {s0 : State} {s : State} {c : Issue} {x : Stop} {after : Bool} (h_s : Keeps s0 s) : Keeps s0 (State.takeStop s c x after) := by
  unfold State.takeStop
  repeat' first
      | with_reducible assumption | with_reducible apply Keeps.nextTurn | with_reducible exact Keeps.refl _ | with_reducible apply Kept.next
      | with_reducible apply Kept.fault | with_reducible apply Keeps.foldl | with_reducible apply Keeps.foldlP | with_reducible apply hf
      | with_reducible apply State.coreRecord_keeps | with_reducible apply Keeps.onGroup | with_reducible apply State.endGlen_keeps
      | with_reducible apply State.forgetRefused_keeps | with_reducible apply State.traceGang_keeps | with_reducible apply Keeps.onCore
      | with_reducible apply State.landBank_keeps | with_reducible apply State.countTag_keeps | with_reducible apply State.debugAll_keeps
      | with_reducible apply State.freeze_keeps | with_reducible apply State.endTeam_keeps
      | (with_reducible apply Keeps.restPlat; with_reducible assumption) | intro _ | with_reducible apply CoreKeeps.onTeam
      | with_reducible apply CoreKeeps.onStashLine | exact CoreKeeps.same rfl | exact GlenKeeps.same rfl | rfl
      | (extract_lets +onlyGivenNames x; first | (have hx : Keeps s0 x := ?_; clear_value x; on_goal 2 => subst x) | (have hx : Keeps s0 x.1 := ?_; clear_value x; on_goal 2 => subst x) | (have hf : ∀ t, Keeps s0 t → Keeps s0 (x t) := ?_; clear_value x; on_goal 2 => subst x) | (have hf : ∀ t b, Keeps s0 t → Keeps s0 (x t b) := ?_; clear_value x; on_goal 2 => subst x) | (have hf : ∀ a b t, Keeps s0 t → Keeps s0 (x a b t) := ?_; clear_value x; on_goal 2 => subst x) | (have hf : ∀ a, Keeps s0 (x a) := ?_; clear_value x; on_goal 2 => subst x) | clear_value x)
      | (with_reducible apply Keeps.rest; first | with_reducible assumption | with_reducible exact Keeps.refl _ | with_reducible apply State.coreRecord_keeps | with_reducible apply Keeps.onGroup | with_reducible apply State.endGlen_keeps | with_reducible apply State.forgetRefused_keeps | with_reducible apply State.traceGang_keeps | with_reducible apply Keeps.onCore | with_reducible apply State.landBank_keeps | with_reducible apply State.countTag_keeps | with_reducible apply State.debugAll_keeps | with_reducible apply State.freeze_keeps | with_reducible apply State.endTeam_keeps | split)
      | (with_reducible apply Keeps.restStore; first | with_reducible assumption | with_reducible exact Keeps.refl _ | with_reducible apply State.coreRecord_keeps | with_reducible apply Keeps.onGroup | with_reducible apply State.endGlen_keeps | with_reducible apply State.forgetRefused_keeps | with_reducible apply State.traceGang_keeps | with_reducible apply Keeps.onCore | with_reducible apply State.landBank_keeps | with_reducible apply State.countTag_keeps | with_reducible apply State.debugAll_keeps | with_reducible apply State.freeze_keeps | with_reducible apply State.endTeam_keeps | split)
      | split

theorem State.joinRing_keeps {s0 : State} {s : State} {c : Issue} {r : Nat} {take : Bool} {n : Nat} (h_s : Keeps s0 s) : Keeps s0 (State.joinRing s c r take n) := 
  State.onRing_keeps h_s

theorem State.demandSegment_keeps {s0 : State} {s : State} {n : Nat} {seg : Nat} (h_s : Keeps s0 s) : Keeps s0 (State.demandSegment s n seg) := by
  unfold State.demandSegment
  repeat' first
      | with_reducible assumption | with_reducible apply Kept.next | with_reducible apply Keeps.onGlen | intro _ | exact CoreKeeps.same rfl
      | exact GlenKeeps.same rfl
      | (extract_lets +onlyGivenNames x; first | (have hx : Keeps s0 x := ?_; clear_value x; on_goal 2 => subst x) | (have hx : Keeps s0 x.1 := ?_; clear_value x; on_goal 2 => subst x) | (have hf : ∀ t, Keeps s0 t → Keeps s0 (x t) := ?_; clear_value x; on_goal 2 => subst x) | (have hf : ∀ t b, Keeps s0 t → Keeps s0 (x t b) := ?_; clear_value x; on_goal 2 => subst x) | (have hf : ∀ a b t, Keeps s0 t → Keeps s0 (x a b t) := ?_; clear_value x; on_goal 2 => subst x) | (have hf : ∀ a, Keeps s0 (x a) := ?_; clear_value x; on_goal 2 => subst x) | clear_value x)
      | split

theorem State.markSegment_keeps {s0 : State} {s : State} {n : Nat} {pc : DWord} (h_s : Keeps s0 s) : Keeps s0 (State.markSegment s n pc) := by
  unfold State.markSegment
  repeat' first
      | with_reducible assumption | with_reducible apply Kept.next | with_reducible apply Keeps.onGlen | intro _ | exact CoreKeeps.same rfl
      | exact GlenKeeps.same rfl
      | (extract_lets +onlyGivenNames x; first | (have hx : Keeps s0 x := ?_; clear_value x; on_goal 2 => subst x) | (have hx : Keeps s0 x.1 := ?_; clear_value x; on_goal 2 => subst x) | (have hf : ∀ t, Keeps s0 t → Keeps s0 (x t) := ?_; clear_value x; on_goal 2 => subst x) | (have hf : ∀ t b, Keeps s0 t → Keeps s0 (x t b) := ?_; clear_value x; on_goal 2 => subst x) | (have hf : ∀ a b t, Keeps s0 t → Keeps s0 (x a b t) := ?_; clear_value x; on_goal 2 => subst x) | (have hf : ∀ a, Keeps s0 (x a) := ?_; clear_value x; on_goal 2 => subst x) | clear_value x)
      | split

theorem State.takeWait_keeps {s0 : State} {s : State} {c : Issue} {w : Wait} (h_s : Keeps s0 s) : Keeps s0 (State.takeWait s c w) := by
  unfold State.takeWait
  repeat' first
      | with_reducible assumption | with_reducible apply Keeps.nextTurn | with_reducible exact Keeps.refl _ | with_reducible apply Kept.next
      | with_reducible apply Kept.fault | with_reducible apply Keeps.foldl | with_reducible apply Keeps.foldlP | with_reducible apply hf
      | with_reducible apply State.joinRing_keeps | with_reducible apply State.demandSegment_keeps | with_reducible apply State.writeOutWhere_keeps
      | with_reducible apply Keeps.onCore | with_reducible apply Keeps.onGroup | (with_reducible apply Keeps.restPlat; with_reducible assumption)
      | intro _ | with_reducible apply CoreKeeps.onTeam | with_reducible apply CoreKeeps.onStashLine | exact CoreKeeps.same rfl
      | exact GlenKeeps.same rfl | rfl
      | (extract_lets +onlyGivenNames x; first | (have hx : Keeps s0 x := ?_; clear_value x; on_goal 2 => subst x) | (have hx : Keeps s0 x.1 := ?_; clear_value x; on_goal 2 => subst x) | (have hf : ∀ t, Keeps s0 t → Keeps s0 (x t) := ?_; clear_value x; on_goal 2 => subst x) | (have hf : ∀ t b, Keeps s0 t → Keeps s0 (x t b) := ?_; clear_value x; on_goal 2 => subst x) | (have hf : ∀ a b t, Keeps s0 t → Keeps s0 (x a b t) := ?_; clear_value x; on_goal 2 => subst x) | (have hf : ∀ a, Keeps s0 (x a) := ?_; clear_value x; on_goal 2 => subst x) | clear_value x)
      | (with_reducible apply Keeps.rest; first | with_reducible assumption | with_reducible exact Keeps.refl _ | with_reducible apply State.joinRing_keeps | with_reducible apply State.demandSegment_keeps | with_reducible apply State.writeOutWhere_keeps | with_reducible apply Keeps.onCore | with_reducible apply Keeps.onGroup | split)
      | (with_reducible apply Keeps.restStore; first | with_reducible assumption | with_reducible exact Keeps.refl _ | with_reducible apply State.joinRing_keeps | with_reducible apply State.demandSegment_keeps | with_reducible apply State.writeOutWhere_keeps | with_reducible apply Keeps.onCore | with_reducible apply Keeps.onGroup | split)
      | split

theorem State.close_keeps {s0 : State} {s : State} {c : Issue} (h_s : Keeps s0 s) : Keeps s0 (State.close s c) := by
  unfold State.close
  repeat' first
      | with_reducible assumption | with_reducible apply Kept.next | with_reducible apply Keeps.onGroup | with_reducible apply State.exitGang_keeps
      | with_reducible apply State.endGlen_keeps | with_reducible apply Keeps.onCore | intro _ | exact CoreKeeps.same rfl | split

theorem State.complete_keeps {s0 : State} {s : State} {c : Issue} (h_s : Keeps s0 s) : Keeps s0 (State.complete s c) := by
  unfold State.complete
  repeat' first
      | with_reducible assumption | with_reducible apply Keeps.nextTurn | with_reducible exact Keeps.refl _ | with_reducible apply Kept.next
      | with_reducible apply Kept.fault | with_reducible apply Keeps.foldl | with_reducible apply Keeps.foldlP | with_reducible apply hf
      | with_reducible apply Keeps.onGroup | with_reducible apply State.close_keeps | with_reducible apply State.tellCut_keeps
      | with_reducible apply State.markSegment_keeps | with_reducible apply State.takeStop_keeps
      | (with_reducible apply Keeps.restPlat; with_reducible assumption) | intro _ | with_reducible apply CoreKeeps.onTeam
      | with_reducible apply CoreKeeps.onStashLine | exact CoreKeeps.same rfl | exact GlenKeeps.same rfl | rfl
      | (extract_lets +onlyGivenNames x; first | (have hx : Keeps s0 x := ?_; clear_value x; on_goal 2 => subst x) | (have hx : Keeps s0 x.1 := ?_; clear_value x; on_goal 2 => subst x) | (have hf : ∀ t, Keeps s0 t → Keeps s0 (x t) := ?_; clear_value x; on_goal 2 => subst x) | (have hf : ∀ t b, Keeps s0 t → Keeps s0 (x t b) := ?_; clear_value x; on_goal 2 => subst x) | (have hf : ∀ a b t, Keeps s0 t → Keeps s0 (x a b t) := ?_; clear_value x; on_goal 2 => subst x) | (have hf : ∀ a, Keeps s0 (x a) := ?_; clear_value x; on_goal 2 => subst x) | clear_value x)
      | (with_reducible apply Keeps.rest; first | with_reducible assumption | with_reducible exact Keeps.refl _ | with_reducible apply Keeps.onGroup | with_reducible apply State.close_keeps | with_reducible apply State.tellCut_keeps | with_reducible apply State.markSegment_keeps | with_reducible apply State.takeStop_keeps | split)
      | (with_reducible apply Keeps.restStore; first | with_reducible assumption | with_reducible exact Keeps.refl _ | with_reducible apply Keeps.onGroup | with_reducible apply State.close_keeps | with_reducible apply State.tellCut_keeps | with_reducible apply State.markSegment_keeps | with_reducible apply State.takeStop_keeps | split)
      | split

theorem State.finishFrom_keeps {s0 s t : State} (h_s : Keeps s0 s) (h_t : Keeps s0 t) : Keeps s0 (State.finishFrom s t) := by
  unfold State.finishFrom
  split
  · exact h_s
  · split
    · exact State.complete_keeps h_t
    · exact State.takeStop_keeps (Keeps.rest h_s)
    · exact State.takeWait_keeps (Keeps.rest h_s)

theorem State.resumeGang_keeps {s0 : State} {s : State} {w : Who} {slices : List Nat} {debug : Bool} (h_s : Keeps s0 s) : Keeps s0 (State.resumeGang s w slices debug) := by
  unfold State.resumeGang
  repeat' first
      | with_reducible assumption | with_reducible apply Kept.next | with_reducible apply Keeps.foldl | with_reducible apply Keeps.foldlP
      | with_reducible apply hf | with_reducible apply Keeps.onGroup | with_reducible apply Keeps.onCore
      | with_reducible apply State.releaseHeld_keeps | intro _ | exact CoreKeeps.same rfl
      | (extract_lets +onlyGivenNames x; first | (have hx : Keeps s0 x := ?_; clear_value x; on_goal 2 => subst x) | (have hx : Keeps s0 x.1 := ?_; clear_value x; on_goal 2 => subst x) | (have hf : ∀ t, Keeps s0 t → Keeps s0 (x t) := ?_; clear_value x; on_goal 2 => subst x) | (have hf : ∀ t b, Keeps s0 t → Keeps s0 (x t b) := ?_; clear_value x; on_goal 2 => subst x) | (have hf : ∀ a b t, Keeps s0 t → Keeps s0 (x a b t) := ?_; clear_value x; on_goal 2 => subst x) | (have hf : ∀ a, Keeps s0 (x a) := ?_; clear_value x; on_goal 2 => subst x) | clear_value x)
      | (with_reducible apply Keeps.rest; first | with_reducible assumption | with_reducible exact Keeps.refl _ | with_reducible apply Keeps.onGroup | with_reducible apply Keeps.onCore | with_reducible apply State.releaseHeld_keeps | split)
      | split

theorem State.jump_keeps {s0 : State} {s : State} {c : Issue} {ks : List Nat} {tgt : DWord} {bubble : Nat} (h_s : Keeps s0 s) : Keeps s0 (State.jump s c ks tgt bubble) := by
  unfold State.jump
  repeat' first
      | with_reducible assumption | with_reducible apply Kept.next | with_reducible apply State.traceGang_keeps
      | with_reducible apply State.onIssue_keeps | split

theorem execBra_keeps {s0 : State} {o : BOp} {s : State} (h_s : Keeps s0 s) : Kept s0 (execBra o s) := by
  unfold execBra
  repeat' first
      | with_reducible assumption | with_reducible apply Kept.next | with_reducible apply State.during_keeps
      | with_reducible apply State.traceGang_keeps | with_reducible apply State.onIssue_keeps | with_reducible apply State.jump_keeps | intro _
      | split

theorem execBrx_keeps {s0 : State} {o : ROp} {s : State} (h_s : Keeps s0 s) : Kept s0 (execBrx o s) := by
  unfold execBrx
  repeat' first
      | with_reducible assumption | with_reducible apply Kept.next | with_reducible apply State.during_keeps | with_reducible apply State.jump_keeps
      | intro _

theorem State.spillLane_keeps {s0 : State} {s : State} {c : Issue} {op : Nat} {l : GLane} {ws : List (Word × Bool)} (h_s : Keeps s0 s) : Keeps s0 (State.spillLane s c op l ws) := by
  unfold State.spillLane
  repeat' first
      | with_reducible assumption | with_reducible apply Keeps.nextTurn | with_reducible exact Keeps.refl _ | with_reducible apply Kept.next
      | with_reducible apply Kept.fault | with_reducible apply Keeps.foldl | with_reducible apply Keeps.foldlP | with_reducible apply hf
      | with_reducible apply State.storeLine_keeps | (with_reducible apply Keeps.restPlat; with_reducible assumption) | intro _
      | with_reducible apply CoreKeeps.onTeam | with_reducible apply CoreKeeps.onStashLine | exact CoreKeeps.same rfl | exact GlenKeeps.same rfl | rfl
      | (extract_lets +onlyGivenNames x; first | (have hx : Keeps s0 x := ?_; clear_value x; on_goal 2 => subst x) | (have hx : Keeps s0 x.1 := ?_; clear_value x; on_goal 2 => subst x) | (have hf : ∀ t, Keeps s0 t → Keeps s0 (x t) := ?_; clear_value x; on_goal 2 => subst x) | (have hf : ∀ t b, Keeps s0 t → Keeps s0 (x t b) := ?_; clear_value x; on_goal 2 => subst x) | (have hf : ∀ a b t, Keeps s0 t → Keeps s0 (x a b t) := ?_; clear_value x; on_goal 2 => subst x) | (have hf : ∀ a, Keeps s0 (x a) := ?_; clear_value x; on_goal 2 => subst x) | clear_value x)
      | (with_reducible apply Keeps.rest; first | with_reducible assumption | with_reducible exact Keeps.refl _ | with_reducible apply State.storeLine_keeps | split)
      | (with_reducible apply Keeps.restStore; first | with_reducible assumption | with_reducible exact Keeps.refl _ | with_reducible apply State.storeLine_keeps | split)
      | split

theorem State.callTo_keeps {s0 : State} {s : State} {site : Site} {n : Nat} {tgt : DWord} (h_s : Keeps s0 s) : Keeps s0 (State.callTo s site n tgt) := by
  unfold State.callTo
  repeat' first
      | with_reducible assumption | with_reducible apply Kept.next | with_reducible apply Keeps.foldl | with_reducible apply Keeps.foldlP
      | with_reducible apply hf | with_reducible apply State.during_keeps | with_reducible apply Keeps.onGroup
      | with_reducible apply State.illegalOperation_keeps | with_reducible apply State.controlOverflow_keeps | with_reducible apply State.jump_keeps
      | with_reducible apply State.stopAt_keeps | with_reducible apply State.waitFor_keeps | with_reducible apply State.reach_keeps
      | with_reducible apply State.spillLane_keeps | intro _
      | (extract_lets +onlyGivenNames x; first | (have hx : Keeps s0 x := ?_; clear_value x; on_goal 2 => subst x) | (have hx : Keeps s0 x.1 := ?_; clear_value x; on_goal 2 => subst x) | (have hf : ∀ t, Keeps s0 t → Keeps s0 (x t) := ?_; clear_value x; on_goal 2 => subst x) | (have hf : ∀ t b, Keeps s0 t → Keeps s0 (x t b) := ?_; clear_value x; on_goal 2 => subst x) | (have hf : ∀ a b t, Keeps s0 t → Keeps s0 (x a b t) := ?_; clear_value x; on_goal 2 => subst x) | (have hf : ∀ a, Keeps s0 (x a) := ?_; clear_value x; on_goal 2 => subst x) | clear_value x)
      | split

theorem execCall_keeps {s0 : State} {o : BOp} {s : State} (h_s : Keeps s0 s) : Kept s0 (execCall o s) := by
  unfold execCall
  repeat' first
      | with_reducible assumption | with_reducible apply Kept.next | with_reducible apply State.during_keeps | with_reducible apply State.callTo_keeps
      | intro _

theorem execCallx_keeps {s0 : State} {o : ROp} {s : State} (h_s : Keeps s0 s) : Kept s0 (execCallx o s) := by
  unfold execCallx
  repeat' first
      | with_reducible assumption | with_reducible apply Kept.next | with_reducible apply State.during_keeps | with_reducible apply State.callTo_keeps
      | intro _

theorem execRet_keeps {s0 : State} {o : ROp} {s : State} (h_s : Keeps s0 s) : Kept s0 (execRet o s) := by
  unfold execRet
  repeat' first
      | with_reducible assumption | with_reducible apply Keeps.nextTurn | with_reducible exact Keeps.refl _ | with_reducible apply Kept.next
      | with_reducible apply Kept.fault | with_reducible apply Keeps.foldl | with_reducible apply Keeps.foldlP | with_reducible apply hf
      | with_reducible apply State.during_keeps | with_reducible apply Keeps.onGroup | with_reducible apply State.controlOverflow_keeps
      | with_reducible apply State.jump_keeps | with_reducible apply State.stopAt_keeps | with_reducible apply State.waitFor_keeps
      | with_reducible apply State.reach_keeps | with_reducible apply State.settleLoad_keeps | with_reducible apply State.touch_keeps
      | (with_reducible apply Keeps.restPlat; with_reducible assumption) | intro _ | with_reducible apply CoreKeeps.onTeam
      | with_reducible apply CoreKeeps.onStashLine | exact CoreKeeps.same rfl | exact GlenKeeps.same rfl | rfl
      | (extract_lets +onlyGivenNames x; first | (have hx : Keeps s0 x := ?_; clear_value x; on_goal 2 => subst x) | (have hx : Keeps s0 x.1 := ?_; clear_value x; on_goal 2 => subst x) | (have hf : ∀ t, Keeps s0 t → Keeps s0 (x t) := ?_; clear_value x; on_goal 2 => subst x) | (have hf : ∀ t b, Keeps s0 t → Keeps s0 (x t b) := ?_; clear_value x; on_goal 2 => subst x) | (have hf : ∀ a b t, Keeps s0 t → Keeps s0 (x a b t) := ?_; clear_value x; on_goal 2 => subst x) | (have hf : ∀ a, Keeps s0 (x a) := ?_; clear_value x; on_goal 2 => subst x) | clear_value x)
      | (with_reducible apply Keeps.rest; first | with_reducible assumption | with_reducible exact Keeps.refl _ | with_reducible apply State.during_keeps | with_reducible apply Keeps.onGroup | with_reducible apply State.controlOverflow_keeps | with_reducible apply State.jump_keeps | with_reducible apply State.stopAt_keeps | with_reducible apply State.waitFor_keeps | with_reducible apply State.reach_keeps | with_reducible apply State.settleLoad_keeps | split)
      | (with_reducible apply Keeps.restStore; first | with_reducible assumption | with_reducible exact Keeps.refl _ | with_reducible apply State.during_keeps | with_reducible apply Keeps.onGroup | with_reducible apply State.controlOverflow_keeps | with_reducible apply State.jump_keeps | with_reducible apply State.stopAt_keeps | with_reducible apply State.waitFor_keeps | with_reducible apply State.reach_keeps | with_reducible apply State.settleLoad_keeps | split)
      | split

theorem execIfC_keeps {s0 : State} {o : ROp} {s : State} (h_s : Keeps s0 s) : Kept s0 (execIfC o s) := by
  unfold execIfC
  repeat' first
      | with_reducible assumption | with_reducible apply Kept.next | with_reducible apply State.during_keeps
      | with_reducible apply State.controlOverflow_keeps | with_reducible apply Keeps.onGroup | intro _
      | (extract_lets +onlyGivenNames x; first | (have hx : Keeps s0 x := ?_; clear_value x; on_goal 2 => subst x) | (have hx : Keeps s0 x.1 := ?_; clear_value x; on_goal 2 => subst x) | (have hf : ∀ t, Keeps s0 t → Keeps s0 (x t) := ?_; clear_value x; on_goal 2 => subst x) | (have hf : ∀ t b, Keeps s0 t → Keeps s0 (x t b) := ?_; clear_value x; on_goal 2 => subst x) | (have hf : ∀ a b t, Keeps s0 t → Keeps s0 (x a b t) := ?_; clear_value x; on_goal 2 => subst x) | (have hf : ∀ a, Keeps s0 (x a) := ?_; clear_value x; on_goal 2 => subst x) | clear_value x)
      | split

theorem execElseC_keeps {s0 : State} {o : ROp} {s : State} (h_s : Keeps s0 s) : Kept s0 (execElseC o s) := by
  unfold execElseC
  repeat' first
      | with_reducible assumption | with_reducible apply Kept.next | with_reducible apply State.during_keeps
      | with_reducible apply State.controlOverflow_keeps | with_reducible apply Keeps.onGroup | intro _
      | (extract_lets +onlyGivenNames x; first | (have hx : Keeps s0 x := ?_; clear_value x; on_goal 2 => subst x) | (have hx : Keeps s0 x.1 := ?_; clear_value x; on_goal 2 => subst x) | (have hf : ∀ t, Keeps s0 t → Keeps s0 (x t) := ?_; clear_value x; on_goal 2 => subst x) | (have hf : ∀ t b, Keeps s0 t → Keeps s0 (x t b) := ?_; clear_value x; on_goal 2 => subst x) | (have hf : ∀ a b t, Keeps s0 t → Keeps s0 (x a b t) := ?_; clear_value x; on_goal 2 => subst x) | (have hf : ∀ a, Keeps s0 (x a) := ?_; clear_value x; on_goal 2 => subst x) | clear_value x)
      | split

theorem execEndif_keeps {s0 : State} {o : ROp} {s : State} (h_s : Keeps s0 s) : Kept s0 (execEndif o s) := by
  unfold execEndif
  repeat' first
      | with_reducible assumption | with_reducible apply Kept.next | with_reducible apply State.during_keeps
      | with_reducible apply State.controlOverflow_keeps | with_reducible apply Keeps.onGroup | intro _ | split

theorem execLoop_keeps {s0 : State} {o : BOp} {s : State} (h_s : Keeps s0 s) : Kept s0 (execLoop o s) := by
  unfold execLoop
  repeat' first
      | with_reducible assumption | with_reducible apply Kept.next | with_reducible apply State.during_keeps
      | with_reducible apply State.illegalOperation_keeps | with_reducible apply State.jump_keeps | with_reducible apply State.controlOverflow_keeps
      | with_reducible apply Keeps.onGroup | intro _
      | (extract_lets +onlyGivenNames x; first | (have hx : Keeps s0 x := ?_; clear_value x; on_goal 2 => subst x) | (have hx : Keeps s0 x.1 := ?_; clear_value x; on_goal 2 => subst x) | (have hf : ∀ t, Keeps s0 t → Keeps s0 (x t) := ?_; clear_value x; on_goal 2 => subst x) | (have hf : ∀ t b, Keeps s0 t → Keeps s0 (x t b) := ?_; clear_value x; on_goal 2 => subst x) | (have hf : ∀ a b t, Keeps s0 t → Keeps s0 (x a b t) := ?_; clear_value x; on_goal 2 => subst x) | (have hf : ∀ a, Keeps s0 (x a) := ?_; clear_value x; on_goal 2 => subst x) | clear_value x)
      | split

theorem execEndloop_keeps {s0 : State} {o : ROp} {s : State} (h_s : Keeps s0 s) : Kept s0 (execEndloop o s) := by
  unfold execEndloop
  repeat' first
      | with_reducible assumption | with_reducible apply Kept.next | with_reducible apply Keeps.foldl | with_reducible apply Keeps.foldlP
      | with_reducible apply hf | with_reducible apply State.during_keeps | with_reducible apply State.controlOverflow_keeps
      | with_reducible apply Keeps.onGroup | with_reducible apply State.traceGang_keeps | with_reducible apply State.jump_keeps
      | with_reducible apply State.onIssue_keeps | intro _
      | (extract_lets +onlyGivenNames x; first | (have hx : Keeps s0 x := ?_; clear_value x; on_goal 2 => subst x) | (have hx : Keeps s0 x.1 := ?_; clear_value x; on_goal 2 => subst x) | (have hf : ∀ t, Keeps s0 t → Keeps s0 (x t) := ?_; clear_value x; on_goal 2 => subst x) | (have hf : ∀ t b, Keeps s0 t → Keeps s0 (x t b) := ?_; clear_value x; on_goal 2 => subst x) | (have hf : ∀ a b t, Keeps s0 t → Keeps s0 (x a b t) := ?_; clear_value x; on_goal 2 => subst x) | (have hf : ∀ a, Keeps s0 (x a) := ?_; clear_value x; on_goal 2 => subst x) | clear_value x)
      | split

theorem State.leaveLoop_keeps {s0 : State} {s : State} {site : Site} {f : BitVec 4 → Entry → Entry} (h_s : Keeps s0 s) : Keeps s0 (State.leaveLoop s site f) := by
  unfold State.leaveLoop
  repeat' first
      | with_reducible assumption | with_reducible apply Kept.next | with_reducible apply State.during_keeps
      | with_reducible apply State.controlOverflow_keeps | with_reducible apply Keeps.onGroup | intro _ | split

theorem execBrk_keeps {s0 : State} {o : ROp} {s : State} (h_s : Keeps s0 s) : Kept s0 (execBrk o s) := 
  Kept.next (State.leaveLoop_keeps h_s)

theorem execCont_keeps {s0 : State} {o : ROp} {s : State} (h_s : Keeps s0 s) : Kept s0 (execCont o s) := 
  Kept.next (State.leaveLoop_keeps h_s)

theorem execRegang_keeps {s0 : State} {_o : ROp} {s : State} (h_s : Keeps s0 s) : Kept s0 (execRegang _o s) := by
  unfold execRegang
  repeat' first
      | with_reducible assumption | with_reducible apply Kept.next | with_reducible apply State.during_keeps
      | with_reducible apply State.onIssue_keeps | intro _ | split

theorem execRegangRendezvous_keeps {s0 : State} {a : GroupAt} {s : State} (h_s : Keeps s0 s) : Kept s0 (execRegangRendezvous a s) := by
  unfold execRegangRendezvous
  repeat' first
      | with_reducible assumption | with_reducible apply Keeps.nextTurn | with_reducible exact Keeps.refl _ | with_reducible apply Kept.next
      | with_reducible apply Kept.fault | with_reducible apply Keeps.foldl | with_reducible apply Keeps.foldlP | with_reducible apply hf
      | with_reducible apply Keeps.onGroupAt | with_reducible apply State.traceGang_keeps
      | (with_reducible apply Keeps.restPlat; with_reducible assumption) | intro _ | with_reducible apply CoreKeeps.onTeam
      | with_reducible apply CoreKeeps.onStashLine | exact CoreKeeps.same rfl | exact GlenKeeps.same rfl | rfl
      | (extract_lets +onlyGivenNames x; first | (have hx : Keeps s0 x := ?_; clear_value x; on_goal 2 => subst x) | (have hx : Keeps s0 x.1 := ?_; clear_value x; on_goal 2 => subst x) | (have hf : ∀ t, Keeps s0 t → Keeps s0 (x t) := ?_; clear_value x; on_goal 2 => subst x) | (have hf : ∀ t b, Keeps s0 t → Keeps s0 (x t b) := ?_; clear_value x; on_goal 2 => subst x) | (have hf : ∀ a b t, Keeps s0 t → Keeps s0 (x a b t) := ?_; clear_value x; on_goal 2 => subst x) | (have hf : ∀ a, Keeps s0 (x a) := ?_; clear_value x; on_goal 2 => subst x) | clear_value x)
      | (with_reducible apply Keeps.rest; first | with_reducible assumption | with_reducible exact Keeps.refl _ | with_reducible apply Keeps.onGroupAt | with_reducible apply State.traceGang_keeps | split)
      | (with_reducible apply Keeps.restStore; first | with_reducible assumption | with_reducible exact Keeps.refl _ | with_reducible apply Keeps.onGroupAt | with_reducible apply State.traceGang_keeps | split)
      | split

theorem execExit_keeps {s0 : State} {_o : ROp} {s : State} (h_s : Keeps s0 s) : Kept s0 (execExit _o s) := by
  unfold execExit
  repeat' first
      | with_reducible assumption | with_reducible apply Keeps.nextTurn | with_reducible exact Keeps.refl _ | with_reducible apply Kept.next
      | with_reducible apply Kept.fault | with_reducible apply Keeps.foldl | with_reducible apply Keeps.foldlP | with_reducible apply hf
      | with_reducible apply State.during_keeps | with_reducible apply State.onIssue_keeps
      | (with_reducible apply Keeps.restPlat; with_reducible assumption) | intro _ | with_reducible apply CoreKeeps.onTeam
      | with_reducible apply CoreKeeps.onStashLine | exact CoreKeeps.same rfl | exact GlenKeeps.same rfl | rfl
      | (extract_lets +onlyGivenNames x; first | (have hx : Keeps s0 x := ?_; clear_value x; on_goal 2 => subst x) | (have hx : Keeps s0 x.1 := ?_; clear_value x; on_goal 2 => subst x) | (have hf : ∀ t, Keeps s0 t → Keeps s0 (x t) := ?_; clear_value x; on_goal 2 => subst x) | (have hf : ∀ t b, Keeps s0 t → Keeps s0 (x t b) := ?_; clear_value x; on_goal 2 => subst x) | (have hf : ∀ a b t, Keeps s0 t → Keeps s0 (x a b t) := ?_; clear_value x; on_goal 2 => subst x) | (have hf : ∀ a, Keeps s0 (x a) := ?_; clear_value x; on_goal 2 => subst x) | clear_value x)
      | (with_reducible apply Keeps.rest; first | with_reducible assumption | with_reducible exact Keeps.refl _ | with_reducible apply State.during_keeps | with_reducible apply State.onIssue_keeps | split)
      | (with_reducible apply Keeps.restStore; first | with_reducible assumption | with_reducible exact Keeps.refl _ | with_reducible apply State.during_keeps | with_reducible apply State.onIssue_keeps | split)
      | split

theorem execMode_keeps {s0 : State} {o : BOp} {s : State} (h_s : Keeps s0 s) : Kept s0 (execMode o s) := by
  unfold execMode
  repeat' first
      | with_reducible assumption | with_reducible apply Keeps.nextTurn | with_reducible exact Keeps.refl _ | with_reducible apply Kept.next
      | with_reducible apply Kept.fault | with_reducible apply Keeps.foldl | with_reducible apply Keeps.foldlP | with_reducible apply hf
      | with_reducible apply State.during_keeps | with_reducible apply State.illegalOperation_keeps | with_reducible apply State.traceGang_keeps
      | with_reducible apply State.onIssue_keeps | (with_reducible apply Keeps.restPlat; with_reducible assumption) | intro _
      | with_reducible apply CoreKeeps.onTeam | with_reducible apply CoreKeeps.onStashLine | exact CoreKeeps.same rfl | exact GlenKeeps.same rfl | rfl
      | (extract_lets +onlyGivenNames x; first | (have hx : Keeps s0 x := ?_; clear_value x; on_goal 2 => subst x) | (have hx : Keeps s0 x.1 := ?_; clear_value x; on_goal 2 => subst x) | (have hf : ∀ t, Keeps s0 t → Keeps s0 (x t) := ?_; clear_value x; on_goal 2 => subst x) | (have hf : ∀ t b, Keeps s0 t → Keeps s0 (x t b) := ?_; clear_value x; on_goal 2 => subst x) | (have hf : ∀ a b t, Keeps s0 t → Keeps s0 (x a b t) := ?_; clear_value x; on_goal 2 => subst x) | (have hf : ∀ a, Keeps s0 (x a) := ?_; clear_value x; on_goal 2 => subst x) | clear_value x)
      | (with_reducible apply Keeps.rest; first | with_reducible assumption | with_reducible exact Keeps.refl _ | with_reducible apply State.during_keeps | with_reducible apply State.illegalOperation_keeps | with_reducible apply State.traceGang_keeps | with_reducible apply State.onIssue_keeps | split)
      | (with_reducible apply Keeps.restStore; first | with_reducible assumption | with_reducible exact Keeps.refl _ | with_reducible apply State.during_keeps | with_reducible apply State.illegalOperation_keeps | with_reducible apply State.traceGang_keeps | with_reducible apply State.onIssue_keeps | split)
      | split

theorem execModeSwitch_keeps {s0 : State} {a : GroupAt} {s : State} (h_s : Keeps s0 s) : Kept s0 (execModeSwitch a s) := by
  unfold execModeSwitch
  repeat' first
      | with_reducible assumption | with_reducible apply Keeps.nextTurn | with_reducible exact Keeps.refl _ | with_reducible apply Kept.next
      | with_reducible apply Kept.fault | with_reducible apply Keeps.foldl | with_reducible apply Keeps.foldlP | with_reducible apply hf
      | with_reducible apply Keeps.onGroupAt | (with_reducible apply Keeps.restPlat; with_reducible assumption) | intro _
      | with_reducible apply CoreKeeps.onTeam | with_reducible apply CoreKeeps.onStashLine | exact CoreKeeps.same rfl | exact GlenKeeps.same rfl | rfl
      | (extract_lets +onlyGivenNames x; first | (have hx : Keeps s0 x := ?_; clear_value x; on_goal 2 => subst x) | (have hx : Keeps s0 x.1 := ?_; clear_value x; on_goal 2 => subst x) | (have hf : ∀ t, Keeps s0 t → Keeps s0 (x t) := ?_; clear_value x; on_goal 2 => subst x) | (have hf : ∀ t b, Keeps s0 t → Keeps s0 (x t b) := ?_; clear_value x; on_goal 2 => subst x) | (have hf : ∀ a b t, Keeps s0 t → Keeps s0 (x a b t) := ?_; clear_value x; on_goal 2 => subst x) | (have hf : ∀ a, Keeps s0 (x a) := ?_; clear_value x; on_goal 2 => subst x) | clear_value x)
      | (with_reducible apply Keeps.rest; first | with_reducible assumption | with_reducible exact Keeps.refl _ | with_reducible apply Keeps.onGroupAt | split)
      | (with_reducible apply Keeps.restStore; first | with_reducible assumption | with_reducible exact Keeps.refl _ | with_reducible apply Keeps.onGroupAt | split)
      | split

theorem State.requestLine_keeps {s0 : State} {s : State} {core : Nat} {line : Nat} (h_s : Keeps s0 s) : Keeps s0 (State.requestLine s core line) := 
  Keeps.onCore h_s _ (fun _ => .same rfl)

theorem State.prefetchLine_keeps {s0 : State} {s : State} {core : Nat} {e : TlbEntry} {va : DWord} (h_s : Keeps s0 s) : Keeps s0 (State.prefetchLine s core e va) := by
  unfold State.prefetchLine
  repeat' first
      | with_reducible assumption | with_reducible apply Keeps.nextTurn | with_reducible exact Keeps.refl _ | with_reducible apply Kept.next
      | with_reducible apply Kept.fault | with_reducible apply Keeps.foldl | with_reducible apply Keeps.foldlP | with_reducible apply hf
      | with_reducible apply State.requestLine_keeps | with_reducible apply State.fillTlb_keeps
      | (with_reducible apply Keeps.restPlat; with_reducible assumption) | intro _ | with_reducible apply CoreKeeps.onTeam
      | with_reducible apply CoreKeeps.onStashLine | exact CoreKeeps.same rfl | exact GlenKeeps.same rfl | rfl
      | (extract_lets +onlyGivenNames x; first | (have hx : Keeps s0 x := ?_; clear_value x; on_goal 2 => subst x) | (have hx : Keeps s0 x.1 := ?_; clear_value x; on_goal 2 => subst x) | (have hf : ∀ t, Keeps s0 t → Keeps s0 (x t) := ?_; clear_value x; on_goal 2 => subst x) | (have hf : ∀ t b, Keeps s0 t → Keeps s0 (x t b) := ?_; clear_value x; on_goal 2 => subst x) | (have hf : ∀ a b t, Keeps s0 t → Keeps s0 (x a b t) := ?_; clear_value x; on_goal 2 => subst x) | (have hf : ∀ a, Keeps s0 (x a) := ?_; clear_value x; on_goal 2 => subst x) | clear_value x)
      | (with_reducible apply Keeps.rest; first | with_reducible assumption | with_reducible exact Keeps.refl _ | with_reducible apply State.requestLine_keeps | with_reducible apply State.fillTlb_keeps | split)
      | (with_reducible apply Keeps.restStore; first | with_reducible assumption | with_reducible exact Keeps.refl _ | with_reducible apply State.requestLine_keeps | with_reducible apply State.fillTlb_keeps | split)
      | split

theorem execPrfi_keeps {s0 : State} {o : BOp} {s : State} (h_s : Keeps s0 s) : Kept s0 (execPrfi o s) := by
  unfold execPrfi
  repeat' first
      | with_reducible assumption | with_reducible apply Keeps.nextTurn | with_reducible exact Keeps.refl _ | with_reducible apply Kept.next
      | with_reducible apply Kept.fault | with_reducible apply Keeps.foldl | with_reducible apply Keeps.foldlP | with_reducible apply hf
      | with_reducible apply State.during_keeps | with_reducible apply State.prefetchLine_keeps | with_reducible apply Keeps.onCore
      | (with_reducible apply Keeps.restPlat; with_reducible assumption) | intro _ | with_reducible apply CoreKeeps.onTeam
      | with_reducible apply CoreKeeps.onStashLine | exact CoreKeeps.same rfl | exact GlenKeeps.same rfl | rfl
      | (extract_lets +onlyGivenNames x; first | (have hx : Keeps s0 x := ?_; clear_value x; on_goal 2 => subst x) | (have hx : Keeps s0 x.1 := ?_; clear_value x; on_goal 2 => subst x) | (have hf : ∀ t, Keeps s0 t → Keeps s0 (x t) := ?_; clear_value x; on_goal 2 => subst x) | (have hf : ∀ t b, Keeps s0 t → Keeps s0 (x t b) := ?_; clear_value x; on_goal 2 => subst x) | (have hf : ∀ a b t, Keeps s0 t → Keeps s0 (x a b t) := ?_; clear_value x; on_goal 2 => subst x) | (have hf : ∀ a, Keeps s0 (x a) := ?_; clear_value x; on_goal 2 => subst x) | clear_value x)
      | (with_reducible apply Keeps.rest; first | with_reducible assumption | with_reducible exact Keeps.refl _ | with_reducible apply State.during_keeps | with_reducible apply State.prefetchLine_keeps | with_reducible apply Keeps.onCore | split)
      | (with_reducible apply Keeps.restStore; first | with_reducible assumption | with_reducible exact Keeps.refl _ | with_reducible apply State.during_keeps | with_reducible apply State.prefetchLine_keeps | with_reducible apply Keeps.onCore | split)
      | split

theorem execSpawn_keeps {s0 : State} {o : ROp} {s : State} (h_s : Keeps s0 s) : Kept s0 (execSpawn o s) := by
  unfold execSpawn
  repeat' first
      | with_reducible assumption | with_reducible apply Keeps.nextTurn | with_reducible exact Keeps.refl _ | with_reducible apply Kept.next
      | with_reducible apply Kept.fault | with_reducible apply Keeps.foldl | with_reducible apply Keeps.foldlP | with_reducible apply hf
      | with_reducible apply State.scalarOp_keeps | with_reducible apply State.postScalar_keeps | with_reducible apply State.releaseNow_keeps
      | with_reducible apply State.waitFor_keeps | with_reducible apply Keeps.onCore
      | (with_reducible apply Keeps.restPlat; with_reducible assumption) | intro _ | with_reducible apply CoreKeeps.onTeam
      | with_reducible apply CoreKeeps.onStashLine | exact CoreKeeps.same rfl | exact GlenKeeps.same rfl | rfl
      | (extract_lets +onlyGivenNames x; first | (have hx : Keeps s0 x := ?_; clear_value x; on_goal 2 => subst x) | (have hx : Keeps s0 x.1 := ?_; clear_value x; on_goal 2 => subst x) | (have hf : ∀ t, Keeps s0 t → Keeps s0 (x t) := ?_; clear_value x; on_goal 2 => subst x) | (have hf : ∀ t b, Keeps s0 t → Keeps s0 (x t b) := ?_; clear_value x; on_goal 2 => subst x) | (have hf : ∀ a b t, Keeps s0 t → Keeps s0 (x a b t) := ?_; clear_value x; on_goal 2 => subst x) | (have hf : ∀ a, Keeps s0 (x a) := ?_; clear_value x; on_goal 2 => subst x) | clear_value x)
      | (with_reducible apply Keeps.rest; first | with_reducible assumption | with_reducible exact Keeps.refl _ | with_reducible apply State.scalarOp_keeps | with_reducible apply State.postScalar_keeps | with_reducible apply State.releaseNow_keeps | with_reducible apply State.waitFor_keeps | with_reducible apply Keeps.onCore | split)
      | (with_reducible apply Keeps.restStore; first | with_reducible assumption | with_reducible exact Keeps.refl _ | with_reducible apply State.scalarOp_keeps | with_reducible apply State.postScalar_keeps | with_reducible apply State.releaseNow_keeps | with_reducible apply State.waitFor_keeps | with_reducible apply Keeps.onCore | split)
      | split

theorem execElect_keeps {s0 : State} {o : ROp} {s : State} (h_s : Keeps s0 s) : Kept s0 (execElect o s) := by
  unfold execElect
  repeat' first
      | with_reducible assumption | with_reducible apply Keeps.nextTurn | with_reducible exact Keeps.refl _ | with_reducible apply Kept.next
      | with_reducible apply Kept.fault | with_reducible apply Keeps.foldl | with_reducible apply Keeps.foldlP | with_reducible apply hf
      | with_reducible apply State.scalarOp_keeps | with_reducible apply State.postScalar_keeps
      | (with_reducible apply Keeps.restPlat; with_reducible assumption) | intro _ | with_reducible apply CoreKeeps.onTeam
      | with_reducible apply CoreKeeps.onStashLine | exact CoreKeeps.same rfl | exact GlenKeeps.same rfl | rfl
      | (extract_lets +onlyGivenNames x; first | (have hx : Keeps s0 x := ?_; clear_value x; on_goal 2 => subst x) | (have hx : Keeps s0 x.1 := ?_; clear_value x; on_goal 2 => subst x) | (have hf : ∀ t, Keeps s0 t → Keeps s0 (x t) := ?_; clear_value x; on_goal 2 => subst x) | (have hf : ∀ t b, Keeps s0 t → Keeps s0 (x t b) := ?_; clear_value x; on_goal 2 => subst x) | (have hf : ∀ a b t, Keeps s0 t → Keeps s0 (x a b t) := ?_; clear_value x; on_goal 2 => subst x) | (have hf : ∀ a, Keeps s0 (x a) := ?_; clear_value x; on_goal 2 => subst x) | clear_value x)
      | (with_reducible apply Keeps.rest; first | with_reducible assumption | with_reducible exact Keeps.refl _ | with_reducible apply State.scalarOp_keeps | with_reducible apply State.postScalar_keeps | split)
      | (with_reducible apply Keeps.restStore; first | with_reducible assumption | with_reducible exact Keeps.refl _ | with_reducible apply State.scalarOp_keeps | with_reducible apply State.postScalar_keeps | split)
      | split

theorem State.trapAfter_keeps {s0 : State} {s : State} {o : IOp} {code : Nat} (h_s : Keeps s0 s) : Keeps s0 (State.trapAfter s o code) := by
  unfold State.trapAfter
  repeat' first
      | with_reducible assumption | with_reducible apply Kept.next | with_reducible apply State.laneOp_keeps
      | with_reducible apply State.stopAfter_keeps | intro _

theorem execTrap_keeps {s0 : State} {o : IOp} {s : State} (h_s : Keeps s0 s) : Kept s0 (execTrap o s) := 
  Kept.next (State.trapAfter_keeps h_s)

theorem execBrkp_keeps {s0 : State} {o : IOp} {s : State} (h_s : Keeps s0 s) : Kept s0 (execBrkp o s) := 
  Kept.next (State.trapAfter_keeps h_s)

theorem execSysc_keeps {s0 : State} {o : IOp} {s : State} (h_s : Keeps s0 s) : Kept s0 (execSysc o s) := 
  Kept.next (State.trapAfter_keeps h_s)

theorem execRdsr_keeps {s0 : State} {o : IOp} {s : State} (h_s : Keeps s0 s) : Kept s0 (execRdsr o s) := by
  unfold execRdsr
  repeat' first
      | with_reducible assumption | with_reducible apply Kept.next | with_reducible apply State.scalarOp_keeps
      | with_reducible apply State.illegalOperation_keeps | with_reducible apply State.postScalar_keeps | intro _
      | (extract_lets +onlyGivenNames x; first | (have hx : Keeps s0 x := ?_; clear_value x; on_goal 2 => subst x) | (have hx : Keeps s0 x.1 := ?_; clear_value x; on_goal 2 => subst x) | (have hf : ∀ t, Keeps s0 t → Keeps s0 (x t) := ?_; clear_value x; on_goal 2 => subst x) | (have hf : ∀ t b, Keeps s0 t → Keeps s0 (x t b) := ?_; clear_value x; on_goal 2 => subst x) | (have hf : ∀ a b t, Keeps s0 t → Keeps s0 (x a b t) := ?_; clear_value x; on_goal 2 => subst x) | (have hf : ∀ a, Keeps s0 (x a) := ?_; clear_value x; on_goal 2 => subst x) | clear_value x)
      | split

theorem execWrsr_keeps {s0 : State} {o : IOp} {s : State} (h_s : Keeps s0 s) : Kept s0 (execWrsr o s) := by
  unfold execWrsr
  repeat' first
      | with_reducible assumption | with_reducible apply Kept.next | with_reducible apply State.scalarOp_keeps
      | with_reducible apply State.illegalOperation_keeps | with_reducible apply Keeps.onGroup | with_reducible apply Keeps.onGlen
      | with_reducible apply Keeps.onCore | intro _ | exact CoreKeeps.same rfl | exact GlenKeeps.same rfl
      | (extract_lets +onlyGivenNames x; first | (have hx : Keeps s0 x := ?_; clear_value x; on_goal 2 => subst x) | (have hx : Keeps s0 x.1 := ?_; clear_value x; on_goal 2 => subst x) | (have hf : ∀ t, Keeps s0 t → Keeps s0 (x t) := ?_; clear_value x; on_goal 2 => subst x) | (have hf : ∀ t b, Keeps s0 t → Keeps s0 (x t b) := ?_; clear_value x; on_goal 2 => subst x) | (have hf : ∀ a b t, Keeps s0 t → Keeps s0 (x a b t) := ?_; clear_value x; on_goal 2 => subst x) | (have hf : ∀ a, Keeps s0 (x a) := ?_; clear_value x; on_goal 2 => subst x) | clear_value x)
      | split

theorem execRdtime_keeps {s0 : State} {o : ROp} {s : State} (h_s : Keeps s0 s) : Kept s0 (execRdtime o s) := by
  unfold execRdtime
  repeat' first
      | with_reducible assumption | with_reducible apply Kept.next | with_reducible apply State.scalarOp_keeps
      | with_reducible apply State.postScalar_keeps | intro _

theorem execEret_keeps {s0 : State} {_o : ROp} {s : State} (h_s : Keeps s0 s) : Kept s0 (execEret _o s) := by
  unfold execEret
  repeat' first
      | with_reducible assumption | with_reducible apply Kept.next | with_reducible apply State.during_keeps
      | with_reducible apply State.onIssue_keeps | intro _

theorem execHalt_keeps {s0 : State} {_o : ROp} {s : State} (h_s : Keeps s0 s) : Kept s0 (execHalt _o s) := by
  unfold execHalt
  repeat' first
      | with_reducible assumption | with_reducible apply Kept.next | with_reducible apply State.during_keeps
      | with_reducible apply State.onIssue_keeps | intro _

theorem State.takeEvent_keeps {s0 : State} {s : State} {core : Nat} (h_s : Keeps s0 s) : Keeps s0 (State.takeEvent s core) := by
  unfold State.takeEvent
  repeat' first
      | with_reducible assumption | with_reducible apply Kept.next | with_reducible apply Keeps.onCore | with_reducible apply Keeps.onGroupAt
      | intro _ | exact CoreKeeps.same rfl | split

theorem execEventTake_keeps {s0 : State} {core : Nat} {s : State} (h_s : Keeps s0 s) : Kept s0 (execEventTake core s) := by
  unfold execEventTake
  repeat' first | with_reducible assumption | with_reducible apply Kept.next | with_reducible apply State.takeEvent_keeps | split

theorem State.startShoot_keeps {s0 : State} {s : State} {scope : ShootScope} {src : ShootSource} (h_s : Keeps s0 s) : Keeps s0 (State.startShoot s scope src) := 
  State.onHost_keeps h_s

theorem State.tlbi_keeps {s0 : State} {s : State} {o : ROp} {sync : Bool} {scope : Issue → Option ShootScope} (h_s : Keeps s0 s) : Keeps s0 (State.tlbi s o sync scope) := by
  unfold State.tlbi
  repeat' first
      | with_reducible assumption | with_reducible apply Keeps.nextTurn | with_reducible exact Keeps.refl _ | with_reducible apply Kept.next
      | with_reducible apply Kept.fault | with_reducible apply Keeps.foldl | with_reducible apply Keeps.foldlP | with_reducible apply hf
      | with_reducible apply State.during_keeps | with_reducible apply State.releaseNow_keeps | with_reducible apply State.waitFor_keeps
      | with_reducible apply State.startShoot_keeps | with_reducible apply State.onIssue_keeps
      | (with_reducible apply Keeps.restPlat; with_reducible assumption) | intro _ | with_reducible apply CoreKeeps.onTeam
      | with_reducible apply CoreKeeps.onStashLine | exact CoreKeeps.same rfl | exact GlenKeeps.same rfl | rfl
      | (extract_lets +onlyGivenNames x; first | (have hx : Keeps s0 x := ?_; clear_value x; on_goal 2 => subst x) | (have hx : Keeps s0 x.1 := ?_; clear_value x; on_goal 2 => subst x) | (have hf : ∀ t, Keeps s0 t → Keeps s0 (x t) := ?_; clear_value x; on_goal 2 => subst x) | (have hf : ∀ t b, Keeps s0 t → Keeps s0 (x t b) := ?_; clear_value x; on_goal 2 => subst x) | (have hf : ∀ a b t, Keeps s0 t → Keeps s0 (x a b t) := ?_; clear_value x; on_goal 2 => subst x) | (have hf : ∀ a, Keeps s0 (x a) := ?_; clear_value x; on_goal 2 => subst x) | clear_value x)
      | (with_reducible apply Keeps.rest; first | with_reducible assumption | with_reducible exact Keeps.refl _ | with_reducible apply State.during_keeps | with_reducible apply State.releaseNow_keeps | with_reducible apply State.waitFor_keeps | with_reducible apply State.startShoot_keeps | with_reducible apply State.onIssue_keeps | split)
      | (with_reducible apply Keeps.restStore; first | with_reducible assumption | with_reducible exact Keeps.refl _ | with_reducible apply State.during_keeps | with_reducible apply State.releaseNow_keeps | with_reducible apply State.waitFor_keeps | with_reducible apply State.startShoot_keeps | with_reducible apply State.onIssue_keeps | split)
      | split

theorem execTlbiRng_keeps {s0 : State} {o : ROp} {s : State} (h_s : Keeps s0 s) : Kept s0 (execTlbiRng o s) := 
  Kept.next (State.tlbi_keeps h_s)

theorem execTlbiCtx_keeps {s0 : State} {o : ROp} {s : State} (h_s : Keeps s0 s) : Kept s0 (execTlbiCtx o s) := 
  Kept.next (State.tlbi_keeps h_s)

theorem execTlbiAll_keeps {s0 : State} {o : ROp} {s : State} (h_s : Keeps s0 s) : Kept s0 (execTlbiAll o s) := 
  Kept.next (State.tlbi_keeps h_s)

theorem execTlbiSync_keeps {s0 : State} {o : ROp} {s : State} (h_s : Keeps s0 s) : Kept s0 (execTlbiSync o s) := 
  Kept.next (State.tlbi_keeps h_s)

theorem State.shootImage_keeps {s0 : State} {s : State} {x : ShootScope} {cid : Nat} {space : Nat} {va : DWord} (h_s : Keeps s0 s) : Keeps s0 (State.shootImage s x cid space va) := by
  unfold State.shootImage
  repeat' first
      | with_reducible assumption | with_reducible apply Kept.next | with_reducible apply Keeps.foldl | with_reducible apply Keeps.foldlP
      | with_reducible apply hf | with_reducible apply State.coherentWrite_keeps | intro _
      | (extract_lets +onlyGivenNames x; first | (have hx : Keeps s0 x := ?_; clear_value x; on_goal 2 => subst x) | (have hx : Keeps s0 x.1 := ?_; clear_value x; on_goal 2 => subst x) | (have hf : ∀ t, Keeps s0 t → Keeps s0 (x t) := ?_; clear_value x; on_goal 2 => subst x) | (have hf : ∀ t b, Keeps s0 t → Keeps s0 (x t b) := ?_; clear_value x; on_goal 2 => subst x) | (have hf : ∀ a b t, Keeps s0 t → Keeps s0 (x a b t) := ?_; clear_value x; on_goal 2 => subst x) | (have hf : ∀ a, Keeps s0 (x a) := ?_; clear_value x; on_goal 2 => subst x) | clear_value x)
      | split

theorem State.shootTlbs_keeps {s0 : State} {s : State} {x : ShootScope} {mine : Nat → Bool} (h_s : Keeps s0 s) : Keeps s0 (State.shootTlbs s x mine) := by
  unfold State.shootTlbs
  repeat' first
      | with_reducible assumption | with_reducible apply Keeps.nextTurn | with_reducible exact Keeps.refl _ | with_reducible apply Kept.next
      | with_reducible apply Kept.fault | with_reducible apply Keeps.foldl | with_reducible apply Keeps.foldlP | with_reducible apply hf
      | (with_reducible apply Keeps.restPlat; with_reducible assumption) | intro _ | with_reducible apply CoreKeeps.onTeam
      | with_reducible apply CoreKeeps.onStashLine | exact CoreKeeps.same rfl | exact GlenKeeps.same rfl | rfl
      | (extract_lets +onlyGivenNames x; first | (have hx : Keeps s0 x := ?_; clear_value x; on_goal 2 => subst x) | (have hx : Keeps s0 x.1 := ?_; clear_value x; on_goal 2 => subst x) | (have hf : ∀ t, Keeps s0 t → Keeps s0 (x t) := ?_; clear_value x; on_goal 2 => subst x) | (have hf : ∀ t b, Keeps s0 t → Keeps s0 (x t b) := ?_; clear_value x; on_goal 2 => subst x) | (have hf : ∀ a b t, Keeps s0 t → Keeps s0 (x a b t) := ?_; clear_value x; on_goal 2 => subst x) | (have hf : ∀ a, Keeps s0 (x a) := ?_; clear_value x; on_goal 2 => subst x) | clear_value x)
      | (with_reducible apply Keeps.rest; first | with_reducible assumption | with_reducible exact Keeps.refl _ | split)
      | (with_reducible apply Keeps.restStore; first | with_reducible assumption | with_reducible exact Keeps.refl _ | split) | split

theorem State.shootUnit_keeps {s0 : State} {s : State} {x : ShootScope} {u : AckUnit} (h_s : Keeps s0 s) : Keeps s0 (State.shootUnit s x u) := by
  unfold State.shootUnit
  repeat' first
      | with_reducible assumption | with_reducible apply Keeps.nextTurn | with_reducible exact Keeps.refl _ | with_reducible apply Kept.next
      | with_reducible apply Kept.fault | with_reducible apply Keeps.foldl | with_reducible apply Keeps.foldlP | with_reducible apply hf
      | with_reducible apply State.drainStores_keeps | with_reducible apply State.writeOutWhere_keeps | with_reducible apply State.recallLine_keeps
      | with_reducible apply Keeps.onCore | with_reducible apply State.shootTlbs_keeps | with_reducible apply State.shootImage_keeps
      | with_reducible apply Keeps.onGlen | (with_reducible apply Keeps.restPlat; with_reducible assumption) | intro _
      | with_reducible apply CoreKeeps.onTeam | with_reducible apply CoreKeeps.onStashLine | exact CoreKeeps.same rfl | exact GlenKeeps.same rfl | rfl
      | (extract_lets +onlyGivenNames x; first | (have hx : Keeps s0 x := ?_; clear_value x; on_goal 2 => subst x) | (have hx : Keeps s0 x.1 := ?_; clear_value x; on_goal 2 => subst x) | (have hf : ∀ t, Keeps s0 t → Keeps s0 (x t) := ?_; clear_value x; on_goal 2 => subst x) | (have hf : ∀ t b, Keeps s0 t → Keeps s0 (x t b) := ?_; clear_value x; on_goal 2 => subst x) | (have hf : ∀ a b t, Keeps s0 t → Keeps s0 (x a b t) := ?_; clear_value x; on_goal 2 => subst x) | (have hf : ∀ a, Keeps s0 (x a) := ?_; clear_value x; on_goal 2 => subst x) | clear_value x)
      | (with_reducible apply Keeps.rest; first | with_reducible assumption | with_reducible exact Keeps.refl _ | with_reducible apply State.drainStores_keeps | with_reducible apply State.writeOutWhere_keeps | with_reducible apply State.recallLine_keeps | with_reducible apply Keeps.onCore | with_reducible apply State.shootTlbs_keeps | with_reducible apply State.shootImage_keeps | with_reducible apply Keeps.onGlen | split)
      | (with_reducible apply Keeps.restStore; first | with_reducible assumption | with_reducible exact Keeps.refl _ | with_reducible apply State.drainStores_keeps | with_reducible apply State.writeOutWhere_keeps | with_reducible apply State.recallLine_keeps | with_reducible apply Keeps.onCore | with_reducible apply State.shootTlbs_keeps | with_reducible apply State.shootImage_keeps | with_reducible apply Keeps.onGlen | split)
      | split

theorem execShootdownAck_keeps {s0 : State} {id : Nat} {u : AckUnit} {s : State} (h_s : Keeps s0 s) : Kept s0 (execShootdownAck id u s) := by
  unfold execShootdownAck
  repeat' first
      | with_reducible assumption | with_reducible apply Keeps.nextTurn | with_reducible exact Keeps.refl _ | with_reducible apply Kept.next
      | with_reducible apply Kept.fault | with_reducible apply Keeps.foldl | with_reducible apply Keeps.foldlP | with_reducible apply hf
      | with_reducible apply State.shootUnit_keeps | with_reducible apply State.onHost_keeps
      | (with_reducible apply Keeps.restPlat; with_reducible assumption) | intro _ | with_reducible apply CoreKeeps.onTeam
      | with_reducible apply CoreKeeps.onStashLine | exact CoreKeeps.same rfl | exact GlenKeeps.same rfl | rfl
      | (extract_lets +onlyGivenNames x; first | (have hx : Keeps s0 x := ?_; clear_value x; on_goal 2 => subst x) | (have hx : Keeps s0 x.1 := ?_; clear_value x; on_goal 2 => subst x) | (have hf : ∀ t, Keeps s0 t → Keeps s0 (x t) := ?_; clear_value x; on_goal 2 => subst x) | (have hf : ∀ t b, Keeps s0 t → Keeps s0 (x t b) := ?_; clear_value x; on_goal 2 => subst x) | (have hf : ∀ a b t, Keeps s0 t → Keeps s0 (x a b t) := ?_; clear_value x; on_goal 2 => subst x) | (have hf : ∀ a, Keeps s0 (x a) := ?_; clear_value x; on_goal 2 => subst x) | clear_value x)
      | (with_reducible apply Keeps.rest; first | with_reducible assumption | with_reducible exact Keeps.refl _ | with_reducible apply State.shootUnit_keeps | with_reducible apply State.onHost_keeps | split)
      | (with_reducible apply Keeps.restStore; first | with_reducible assumption | with_reducible exact Keeps.refl _ | with_reducible apply State.shootUnit_keeps | with_reducible apply State.onHost_keeps | split)
      | split

theorem State.wakeTlbi_keeps {s0 : State} {s : State} {core : Nat} (h_s : Keeps s0 s) : Keeps s0 (State.wakeTlbi s core) := by
  unfold State.wakeTlbi
  repeat' first
      | with_reducible assumption | with_reducible apply Keeps.nextTurn | with_reducible exact Keeps.refl _ | with_reducible apply Kept.next
      | with_reducible apply Kept.fault | with_reducible apply Keeps.foldl | with_reducible apply Keeps.foldlP | with_reducible apply hf
      | with_reducible apply Keeps.onGroupAt | (with_reducible apply Keeps.restPlat; with_reducible assumption) | intro _
      | with_reducible apply CoreKeeps.onTeam | with_reducible apply CoreKeeps.onStashLine | exact CoreKeeps.same rfl | exact GlenKeeps.same rfl | rfl
      | (extract_lets +onlyGivenNames x; first | (have hx : Keeps s0 x := ?_; clear_value x; on_goal 2 => subst x) | (have hx : Keeps s0 x.1 := ?_; clear_value x; on_goal 2 => subst x) | (have hf : ∀ t, Keeps s0 t → Keeps s0 (x t) := ?_; clear_value x; on_goal 2 => subst x) | (have hf : ∀ t b, Keeps s0 t → Keeps s0 (x t b) := ?_; clear_value x; on_goal 2 => subst x) | (have hf : ∀ a b t, Keeps s0 t → Keeps s0 (x a b t) := ?_; clear_value x; on_goal 2 => subst x) | (have hf : ∀ a, Keeps s0 (x a) := ?_; clear_value x; on_goal 2 => subst x) | clear_value x)
      | (with_reducible apply Keeps.rest; first | with_reducible assumption | with_reducible exact Keeps.refl _ | with_reducible apply Keeps.onGroupAt | split)
      | (with_reducible apply Keeps.restStore; first | with_reducible assumption | with_reducible exact Keeps.refl _ | with_reducible apply Keeps.onGroupAt | split)
      | split

theorem State.fenceFlush_keeps {s0 : State} {s : State} {c : Issue} {is : List Instr} (h_s : Keeps s0 s) : Keeps s0 (State.fenceFlush s c is) := by
  unfold State.fenceFlush
  repeat' first
      | with_reducible assumption | with_reducible apply Keeps.nextTurn | with_reducible exact Keeps.refl _ | with_reducible apply Kept.next
      | with_reducible apply Kept.fault | with_reducible apply Keeps.foldl | with_reducible apply Keeps.foldlP | with_reducible apply hf
      | with_reducible apply State.writeOutWhere_keeps | (with_reducible apply Keeps.restPlat; with_reducible assumption) | intro _
      | with_reducible apply CoreKeeps.onTeam | with_reducible apply CoreKeeps.onStashLine | exact CoreKeeps.same rfl | exact GlenKeeps.same rfl | rfl
      | (extract_lets +onlyGivenNames x; first | (have hx : Keeps s0 x := ?_; clear_value x; on_goal 2 => subst x) | (have hx : Keeps s0 x.1 := ?_; clear_value x; on_goal 2 => subst x) | (have hf : ∀ t, Keeps s0 t → Keeps s0 (x t) := ?_; clear_value x; on_goal 2 => subst x) | (have hf : ∀ t b, Keeps s0 t → Keeps s0 (x t b) := ?_; clear_value x; on_goal 2 => subst x) | (have hf : ∀ a b t, Keeps s0 t → Keeps s0 (x a b t) := ?_; clear_value x; on_goal 2 => subst x) | (have hf : ∀ a, Keeps s0 (x a) := ?_; clear_value x; on_goal 2 => subst x) | clear_value x)
      | (with_reducible apply Keeps.rest; first | with_reducible assumption | with_reducible exact Keeps.refl _ | with_reducible apply State.writeOutWhere_keeps | split)
      | (with_reducible apply Keeps.restStore; first | with_reducible assumption | with_reducible exact Keeps.refl _ | with_reducible apply State.writeOutWhere_keeps | split)
      | split

theorem State.holdUnits_keeps {s0 : State} {s : State} {c : Issue} {is : List Instr} (h_s : Keeps s0 s) : Keeps s0 (State.holdUnits s c is) := by
  unfold State.holdUnits
  repeat' first
      | with_reducible assumption | with_reducible apply Kept.next | with_reducible apply Keeps.foldl | with_reducible apply Keeps.foldlP
      | with_reducible apply hf | with_reducible apply Keeps.onCore | intro _ | exact CoreKeeps.same rfl
      | (extract_lets +onlyGivenNames x; first | (have hx : Keeps s0 x := ?_; clear_value x; on_goal 2 => subst x) | (have hx : Keeps s0 x.1 := ?_; clear_value x; on_goal 2 => subst x) | (have hf : ∀ t, Keeps s0 t → Keeps s0 (x t) := ?_; clear_value x; on_goal 2 => subst x) | (have hf : ∀ t b, Keeps s0 t → Keeps s0 (x t b) := ?_; clear_value x; on_goal 2 => subst x) | (have hf : ∀ a b t, Keeps s0 t → Keeps s0 (x a b t) := ?_; clear_value x; on_goal 2 => subst x) | (have hf : ∀ a, Keeps s0 (x a) := ?_; clear_value x; on_goal 2 => subst x) | clear_value x)
      | (with_reducible apply Keeps.rest; first | with_reducible assumption | with_reducible exact Keeps.refl _ | with_reducible apply Keeps.onCore | split)
      | split

theorem State.fetchStop_keeps {s0 : State} {s : State} {w : Who} {st : Status} (h_s : Keeps s0 s) : Keeps s0 (State.fetchStop s w st) := by
  unfold State.fetchStop
  repeat' first
      | with_reducible assumption | with_reducible apply Kept.next | with_reducible apply State.takeStop_keeps
      | with_reducible apply State.takeWait_keeps | split

theorem State.fetchFail_keeps {s0 : State} {s : State} {w : Who} {e : FetchFail} (h_s : Keeps s0 s) : Keeps s0 (State.fetchFail s w e) := by
  unfold State.fetchFail
  repeat' first
      | with_reducible assumption | with_reducible apply Kept.next | with_reducible apply State.fetchStop_keeps
      | with_reducible apply State.requestLine_keeps | with_reducible apply State.fillTlb_keeps
      | (with_reducible apply Keeps.rest; first | with_reducible assumption | with_reducible exact Keeps.refl _ | with_reducible apply State.fetchStop_keeps | with_reducible apply State.requestLine_keeps | with_reducible apply State.fillTlb_keeps | split)

theorem execInstructionFetch_keeps {s0 : State} {w : Who} {s : State} (h_s : Keeps s0 s) : Kept s0 (execInstructionFetch w s) := by
  unfold execInstructionFetch
  repeat' first
      | with_reducible assumption | with_reducible apply Kept.next | with_reducible apply State.fetchFail_keeps
      | with_reducible apply State.fetchStop_keeps | split

theorem execIcacheLineFill_keeps {s0 : State} {core : Nat} {line : Nat} {s : State} (h_s : Keeps s0 s) : Kept s0 (execIcacheLineFill core line s) := by
  unfold execIcacheLineFill
  repeat' first
      | with_reducible assumption | with_reducible apply Keeps.nextTurn | with_reducible exact Keeps.refl _ | with_reducible apply Kept.next
      | with_reducible apply Kept.fault | with_reducible apply Keeps.foldl | with_reducible apply Keeps.foldlP | with_reducible apply hf
      | with_reducible apply State.recall_keeps | with_reducible apply Keeps.onCore | with_reducible apply State.keepL2_keeps
      | (with_reducible apply Keeps.restPlat; with_reducible assumption) | intro _ | with_reducible apply CoreKeeps.onTeam
      | with_reducible apply CoreKeeps.onStashLine | exact CoreKeeps.same rfl | exact GlenKeeps.same rfl | rfl
      | (extract_lets +onlyGivenNames x; first | (have hx : Keeps s0 x := ?_; clear_value x; on_goal 2 => subst x) | (have hx : Keeps s0 x.1 := ?_; clear_value x; on_goal 2 => subst x) | (have hf : ∀ t, Keeps s0 t → Keeps s0 (x t) := ?_; clear_value x; on_goal 2 => subst x) | (have hf : ∀ t b, Keeps s0 t → Keeps s0 (x t b) := ?_; clear_value x; on_goal 2 => subst x) | (have hf : ∀ a b t, Keeps s0 t → Keeps s0 (x a b t) := ?_; clear_value x; on_goal 2 => subst x) | (have hf : ∀ a, Keeps s0 (x a) := ?_; clear_value x; on_goal 2 => subst x) | clear_value x)
      | (with_reducible apply Keeps.rest; first | with_reducible assumption | with_reducible exact Keeps.refl _ | with_reducible apply State.recall_keeps | with_reducible apply Keeps.onCore | with_reducible apply State.keepL2_keeps | split)
      | (with_reducible apply Keeps.restStore; first | with_reducible assumption | with_reducible exact Keeps.refl _ | with_reducible apply State.recall_keeps | with_reducible apply Keeps.onCore | with_reducible apply State.keepL2_keeps | split)
      | split

theorem execEmptyBundle_keeps {s0 : State} {w : Who} {s : State} (h_s : Keeps s0 s) : Kept s0 (execEmptyBundle w s) := by
  unfold execEmptyBundle
  repeat' first | with_reducible assumption | with_reducible apply Kept.next | with_reducible apply State.complete_keeps | split

theorem State.writeBack_keeps {s0 : State} {s : State} {a : GroupAt} {k : Nat} {empties : Bool} (h_s : Keeps s0 s) : Keeps s0 (State.writeBack s a k empties) := by
  unfold State.writeBack
  repeat' first | with_reducible assumption | with_reducible apply Kept.next | with_reducible apply Keeps.onGroupAt | split

theorem execWriteBack_keeps {s0 : State} {a : GroupAt} {k : Nat} {s : State} (h_s : Keeps s0 s) : Kept s0 (execWriteBack a k s) := 
  Kept.next (State.writeBack_keeps h_s)

theorem execFixedLatencyWriteBack_keeps {s0 : State} {a : GroupAt} {k : Nat} {s : State} (h_s : Keeps s0 s) : Kept s0 (execFixedLatencyWriteBack a k s) := 
  Kept.next (State.writeBack_keeps h_s)

theorem execStorePerform_keeps {s0 : State} {core : Nat} {k : Nat} {s : State} (h_s : Keeps s0 s) : Kept s0 (execStorePerform core k s) := by
  unfold execStorePerform
  repeat' first
      | with_reducible assumption | with_reducible apply Keeps.nextTurn | with_reducible exact Keeps.refl _ | with_reducible apply Kept.next
      | with_reducible apply Kept.fault | with_reducible apply Keeps.foldl | with_reducible apply Keeps.foldlP | with_reducible apply hf
      | with_reducible apply State.writeOut_keeps | with_reducible apply State.tellCut_keeps | with_reducible apply State.performStore_keeps
      | (with_reducible apply Keeps.restPlat; with_reducible assumption) | intro _ | with_reducible apply CoreKeeps.onTeam
      | with_reducible apply CoreKeeps.onStashLine | exact CoreKeeps.same rfl | exact GlenKeeps.same rfl | rfl
      | (extract_lets +onlyGivenNames x; first | (have hx : Keeps s0 x := ?_; clear_value x; on_goal 2 => subst x) | (have hx : Keeps s0 x.1 := ?_; clear_value x; on_goal 2 => subst x) | (have hf : ∀ t, Keeps s0 t → Keeps s0 (x t) := ?_; clear_value x; on_goal 2 => subst x) | (have hf : ∀ t b, Keeps s0 t → Keeps s0 (x t b) := ?_; clear_value x; on_goal 2 => subst x) | (have hf : ∀ a b t, Keeps s0 t → Keeps s0 (x a b t) := ?_; clear_value x; on_goal 2 => subst x) | (have hf : ∀ a, Keeps s0 (x a) := ?_; clear_value x; on_goal 2 => subst x) | clear_value x)
      | (with_reducible apply Keeps.rest; first | with_reducible assumption | with_reducible exact Keeps.refl _ | with_reducible apply State.writeOut_keeps | with_reducible apply State.tellCut_keeps | with_reducible apply State.performStore_keeps | split)
      | (with_reducible apply Keeps.restStore; first | with_reducible assumption | with_reducible exact Keeps.refl _ | with_reducible apply State.writeOut_keeps | with_reducible apply State.tellCut_keeps | with_reducible apply State.performStore_keeps | split)
      | split

theorem execNop_keeps {s0 : State} {_o : Site} {s : State} (h_s : Keeps s0 s) : Kept s0 (execNop _o s) := by
  unfold execNop
  repeat' first | with_reducible assumption | with_reducible apply Kept.next

theorem State.onFlagOf_keeps {s0 : State} {s : State} {w : Who} {n : Nat} {f : Flag → Flag} (h_s : Keeps s0 s) : Keeps s0 (State.onFlagOf s w n f) := by
  unfold State.onFlagOf
  repeat' first
      | with_reducible assumption | with_reducible apply Kept.next | with_reducible apply State.onFlag_keeps
      | with_reducible apply State.onGlenFlag_keeps | split

theorem State.readyAt_keeps {s0 : State} {s : State} {c : Issue} {n : Nat} (h_s : Keeps s0 s) : Keeps s0 (State.readyAt s c n) := 
  Keeps.onGroup h_s _ _

theorem State.waitRecord_keeps {s0 : State} {s : State} {c : Issue} {n : Nat} (h_s : Keeps s0 s) : Keeps s0 (State.waitRecord s c n) := by
  unfold State.waitRecord
  repeat' first
      | with_reducible assumption | with_reducible apply Kept.next | with_reducible apply State.trace_keeps
      | (with_reducible apply Keeps.rest; first | with_reducible assumption | with_reducible exact Keeps.refl _ | with_reducible apply State.trace_keeps | split)

theorem execWaitf_keeps {s0 : State} {o : ROp} {s : State} (h_s : Keeps s0 s) : Kept s0 (execWaitf o s) := by
  unfold execWaitf
  repeat' first
      | with_reducible assumption | with_reducible apply Keeps.nextTurn | with_reducible exact Keeps.refl _ | with_reducible apply Kept.next
      | with_reducible apply Kept.fault | with_reducible apply Keeps.foldl | with_reducible apply Keeps.foldlP | with_reducible apply hf
      | with_reducible apply State.laneOp_keeps | with_reducible apply State.illegalOperand_keeps | with_reducible apply State.postScalar_keeps
      | with_reducible apply State.waitRecord_keeps | with_reducible apply State.onFlagOf_keeps | with_reducible apply State.readyAt_keeps
      | with_reducible apply State.waitFor_keeps | (with_reducible apply Keeps.restPlat; with_reducible assumption) | intro _
      | with_reducible apply CoreKeeps.onTeam | with_reducible apply CoreKeeps.onStashLine | exact CoreKeeps.same rfl | exact GlenKeeps.same rfl | rfl
      | (extract_lets +onlyGivenNames x; first | (have hx : Keeps s0 x := ?_; clear_value x; on_goal 2 => subst x) | (have hx : Keeps s0 x.1 := ?_; clear_value x; on_goal 2 => subst x) | (have hf : ∀ t, Keeps s0 t → Keeps s0 (x t) := ?_; clear_value x; on_goal 2 => subst x) | (have hf : ∀ t b, Keeps s0 t → Keeps s0 (x t b) := ?_; clear_value x; on_goal 2 => subst x) | (have hf : ∀ a b t, Keeps s0 t → Keeps s0 (x a b t) := ?_; clear_value x; on_goal 2 => subst x) | (have hf : ∀ a, Keeps s0 (x a) := ?_; clear_value x; on_goal 2 => subst x) | clear_value x)
      | (with_reducible apply Keeps.rest; first | with_reducible assumption | with_reducible exact Keeps.refl _ | with_reducible apply State.laneOp_keeps | with_reducible apply State.illegalOperand_keeps | with_reducible apply State.postScalar_keeps | with_reducible apply State.waitRecord_keeps | with_reducible apply State.onFlagOf_keeps | with_reducible apply State.readyAt_keeps | with_reducible apply State.waitFor_keeps | split)
      | (with_reducible apply Keeps.restStore; first | with_reducible assumption | with_reducible exact Keeps.refl _ | with_reducible apply State.laneOp_keeps | with_reducible apply State.illegalOperand_keeps | with_reducible apply State.postScalar_keeps | with_reducible apply State.waitRecord_keeps | with_reducible apply State.onFlagOf_keeps | with_reducible apply State.readyAt_keeps | with_reducible apply State.waitFor_keeps | split)
      | split

theorem execWaitfWake_keeps {s0 : State} {w : Who} {s : State} (h_s : Keeps s0 s) : Kept s0 (execWaitfWake w s) := by
  unfold execWaitfWake
  repeat' first
      | with_reducible assumption | with_reducible apply Kept.next | with_reducible apply State.waitRecord_keeps | with_reducible apply Keeps.onGroup
      | with_reducible apply State.onFlagOf_keeps
      | (with_reducible apply Keeps.rest; first | with_reducible assumption | with_reducible exact Keeps.refl _ | with_reducible apply State.waitRecord_keeps | with_reducible apply Keeps.onGroup | with_reducible apply State.onFlagOf_keeps | split)

theorem State.release_keeps {s0 : State} {s : State} {w : Who} {x : Scope} (h_s : Keeps s0 s) : Keeps s0 (State.release s w x).1 := by
  unfold State.release
  repeat' first
      | with_reducible assumption | with_reducible apply Keeps.nextTurn | with_reducible exact Keeps.refl _ | with_reducible apply Kept.next
      | with_reducible apply Kept.fault | with_reducible apply Keeps.foldl | with_reducible apply Keeps.foldlP | with_reducible apply hf
      | with_reducible apply State.releaseNow_keeps | (with_reducible apply Keeps.restPlat; with_reducible assumption) | intro _
      | with_reducible apply CoreKeeps.onTeam | with_reducible apply CoreKeeps.onStashLine | exact CoreKeeps.same rfl | exact GlenKeeps.same rfl | rfl
      | (extract_lets +onlyGivenNames x; first | (have hx : Keeps s0 x := ?_; clear_value x; on_goal 2 => subst x) | (have hx : Keeps s0 x.1 := ?_; clear_value x; on_goal 2 => subst x) | (have hf : ∀ t, Keeps s0 t → Keeps s0 (x t) := ?_; clear_value x; on_goal 2 => subst x) | (have hf : ∀ t b, Keeps s0 t → Keeps s0 (x t b) := ?_; clear_value x; on_goal 2 => subst x) | (have hf : ∀ a b t, Keeps s0 t → Keeps s0 (x a b t) := ?_; clear_value x; on_goal 2 => subst x) | (have hf : ∀ a, Keeps s0 (x a) := ?_; clear_value x; on_goal 2 => subst x) | clear_value x)
      | (with_reducible apply Keeps.rest; first | with_reducible assumption | with_reducible exact Keeps.refl _ | with_reducible apply State.releaseNow_keeps | split)
      | (with_reducible apply Keeps.restStore; first | with_reducible assumption | with_reducible exact Keeps.refl _ | with_reducible apply State.releaseNow_keeps | split)
      | split

theorem State.setFlag_keeps {s0 : State} {s : State} {o : ROp} {f : Word → Word → Word} (h_s : Keeps s0 s) : Keeps s0 (State.setFlag s o f) := by
  unfold State.setFlag
  repeat' first
      | with_reducible assumption | with_reducible apply Kept.next | with_reducible apply State.laneOp_keeps
      | with_reducible apply State.illegalOperand_keeps | with_reducible apply State.release_keeps | with_reducible apply State.waitFor_keeps
      | with_reducible apply State.onFlagOf_keeps | intro _
      | (extract_lets +onlyGivenNames x; first | (have hx : Keeps s0 x := ?_; clear_value x; on_goal 2 => subst x) | (have hx : Keeps s0 x.1 := ?_; clear_value x; on_goal 2 => subst x) | (have hf : ∀ t, Keeps s0 t → Keeps s0 (x t) := ?_; clear_value x; on_goal 2 => subst x) | (have hf : ∀ t b, Keeps s0 t → Keeps s0 (x t b) := ?_; clear_value x; on_goal 2 => subst x) | (have hf : ∀ a b t, Keeps s0 t → Keeps s0 (x a b t) := ?_; clear_value x; on_goal 2 => subst x) | (have hf : ∀ a, Keeps s0 (x a) := ?_; clear_value x; on_goal 2 => subst x) | clear_value x)
      | split

theorem execSetf_keeps {s0 : State} {o : ROp} {s : State} (h_s : Keeps s0 s) : Kept s0 (execSetf o s) := 
  Kept.next (State.setFlag_keeps h_s)

theorem execAddf_keeps {s0 : State} {o : ROp} {s : State} (h_s : Keeps s0 s) : Kept s0 (execAddf o s) := 
  Kept.next (State.setFlag_keeps h_s)

theorem State.setFlagRem_keeps {s0 : State} {s : State} {o : ROp} {f : Word → Word → Word} (h_s : Keeps s0 s) : Keeps s0 (State.setFlagRem s o f) := by
  unfold State.setFlagRem
  repeat' first
      | with_reducible assumption | with_reducible apply Kept.next | with_reducible apply State.laneOp_keeps
      | with_reducible apply State.release_keeps | with_reducible apply State.waitFor_keeps | with_reducible apply State.onHandle_keeps
      | with_reducible apply State.staleEvent_keeps | intro _
      | (extract_lets +onlyGivenNames x; first | (have hx : Keeps s0 x := ?_; clear_value x; on_goal 2 => subst x) | (have hx : Keeps s0 x.1 := ?_; clear_value x; on_goal 2 => subst x) | (have hf : ∀ t, Keeps s0 t → Keeps s0 (x t) := ?_; clear_value x; on_goal 2 => subst x) | (have hf : ∀ t b, Keeps s0 t → Keeps s0 (x t b) := ?_; clear_value x; on_goal 2 => subst x) | (have hf : ∀ a b t, Keeps s0 t → Keeps s0 (x a b t) := ?_; clear_value x; on_goal 2 => subst x) | (have hf : ∀ a, Keeps s0 (x a) := ?_; clear_value x; on_goal 2 => subst x) | clear_value x)
      | split

theorem execSetfRem_keeps {s0 : State} {o : ROp} {s : State} (h_s : Keeps s0 s) : Kept s0 (execSetfRem o s) := 
  Kept.next (State.setFlagRem_keeps h_s)

theorem execAddfRem_keeps {s0 : State} {o : ROp} {s : State} (h_s : Keeps s0 s) : Kept s0 (execAddfRem o s) := 
  Kept.next (State.setFlagRem_keeps h_s)

theorem execSetfHnd_keeps {s0 : State} {o : ROp} {s : State} (h_s : Keeps s0 s) : Kept s0 (execSetfHnd o s) := by
  unfold execSetfHnd
  repeat' first
      | with_reducible assumption | with_reducible apply Kept.next | with_reducible apply State.laneOp_keeps
      | with_reducible apply State.illegalOperand_keeps | with_reducible apply State.postScalar_keeps | intro _ | split

theorem State.ringOp_keeps {s0 : State} {s : State} {o : EOp} {live : Bool} {f : Issue → Nat → Ring → State → State} (h_s : Keeps s0 s) (h_f : ∀ (x0 : Issue) (x1 : Nat) (x2 : Ring) (x3 : State), Keeps s0 x3 → Keeps s0 (f x0 x1 x2 x3)) : Keeps s0 (State.ringOp s o live f) := by
  unfold State.ringOp
  repeat' first
      | with_reducible assumption | with_reducible apply Kept.next | with_reducible apply h_f | with_reducible apply State.laneOp_keeps
      | with_reducible apply State.illegalOperand_keeps | intro _
      | (extract_lets +onlyGivenNames x; first | (have hx : Keeps s0 x := ?_; clear_value x; on_goal 2 => subst x) | (have hx : Keeps s0 x.1 := ?_; clear_value x; on_goal 2 => subst x) | (have hf : ∀ t, Keeps s0 t → Keeps s0 (x t) := ?_; clear_value x; on_goal 2 => subst x) | (have hf : ∀ t b, Keeps s0 t → Keeps s0 (x t b) := ?_; clear_value x; on_goal 2 => subst x) | (have hf : ∀ a b t, Keeps s0 t → Keeps s0 (x a b t) := ?_; clear_value x; on_goal 2 => subst x) | (have hf : ∀ a, Keeps s0 (x a) := ?_; clear_value x; on_goal 2 => subst x) | clear_value x)
      | split

theorem execRingcfg_keeps {s0 : State} {o : EOp} {s : State} (h_s : Keeps s0 s) : Kept s0 (execRingcfg o s) := by
  unfold execRingcfg
  repeat' first
      | with_reducible assumption | with_reducible apply Kept.next | with_reducible apply State.ringOp_keeps
      | with_reducible apply State.illegalOperand_keeps | with_reducible apply State.waitFor_keeps | with_reducible apply State.onRing_keeps
      | with_reducible apply State.postScalar_keeps | intro _
      | (extract_lets +onlyGivenNames x; first | (have hx : Keeps s0 x := ?_; clear_value x; on_goal 2 => subst x) | (have hx : Keeps s0 x.1 := ?_; clear_value x; on_goal 2 => subst x) | (have hf : ∀ t, Keeps s0 t → Keeps s0 (x t) := ?_; clear_value x; on_goal 2 => subst x) | (have hf : ∀ t b, Keeps s0 t → Keeps s0 (x t b) := ?_; clear_value x; on_goal 2 => subst x) | (have hf : ∀ a b t, Keeps s0 t → Keeps s0 (x a b t) := ?_; clear_value x; on_goal 2 => subst x) | (have hf : ∀ a, Keeps s0 (x a) := ?_; clear_value x; on_goal 2 => subst x) | clear_value x)
      | split

theorem State.handSlots_keeps {s0 : State} {s : State} {c : Issue} {o : EOp} {x : Ring} {first : Nat} (h_s : Keeps s0 s) : Keeps s0 (State.handSlots s c o x first) := by
  unfold State.handSlots
  repeat' first
      | with_reducible assumption | with_reducible apply Kept.next | with_reducible apply State.onRing_keeps
      | with_reducible apply State.postScalar_keeps

theorem execRingcfgRsv_keeps {s0 : State} {o : EOp} {s : State} (h_s : Keeps s0 s) : Kept s0 (execRingcfgRsv o s) := by
  unfold execRingcfgRsv
  repeat' first
      | with_reducible assumption | with_reducible apply Keeps.nextTurn | with_reducible exact Keeps.refl _ | with_reducible apply Kept.next
      | with_reducible apply Kept.fault | with_reducible apply Keeps.foldl | with_reducible apply Keeps.foldlP | with_reducible apply hf
      | with_reducible apply State.ringOp_keeps | with_reducible apply State.illegalOperand_keeps | with_reducible apply State.handSlots_keeps
      | with_reducible apply State.onRing_keeps | with_reducible apply State.waitFor_keeps
      | (with_reducible apply Keeps.restPlat; with_reducible assumption) | intro _ | with_reducible apply CoreKeeps.onTeam
      | with_reducible apply CoreKeeps.onStashLine | exact CoreKeeps.same rfl | exact GlenKeeps.same rfl | rfl
      | (extract_lets +onlyGivenNames x; first | (have hx : Keeps s0 x := ?_; clear_value x; on_goal 2 => subst x) | (have hx : Keeps s0 x.1 := ?_; clear_value x; on_goal 2 => subst x) | (have hf : ∀ t, Keeps s0 t → Keeps s0 (x t) := ?_; clear_value x; on_goal 2 => subst x) | (have hf : ∀ t b, Keeps s0 t → Keeps s0 (x t b) := ?_; clear_value x; on_goal 2 => subst x) | (have hf : ∀ a b t, Keeps s0 t → Keeps s0 (x a b t) := ?_; clear_value x; on_goal 2 => subst x) | (have hf : ∀ a, Keeps s0 (x a) := ?_; clear_value x; on_goal 2 => subst x) | clear_value x)
      | (with_reducible apply Keeps.rest; first | with_reducible assumption | with_reducible exact Keeps.refl _ | with_reducible apply State.ringOp_keeps | with_reducible apply State.illegalOperand_keeps | with_reducible apply State.handSlots_keeps | with_reducible apply State.onRing_keeps | with_reducible apply State.waitFor_keeps | split)
      | (with_reducible apply Keeps.restStore; first | with_reducible assumption | with_reducible exact Keeps.refl _ | with_reducible apply State.ringOp_keeps | with_reducible apply State.illegalOperand_keeps | with_reducible apply State.handSlots_keeps | with_reducible apply State.onRing_keeps | with_reducible apply State.waitFor_keeps | split)
      | split

theorem execRingcfgTake_keeps {s0 : State} {o : EOp} {s : State} (h_s : Keeps s0 s) : Kept s0 (execRingcfgTake o s) := by
  unfold execRingcfgTake
  repeat' first
      | with_reducible assumption | with_reducible apply Kept.next | with_reducible apply State.ringOp_keeps
      | with_reducible apply State.illegalOperand_keeps | with_reducible apply State.waitFor_keeps | with_reducible apply State.handSlots_keeps
      | with_reducible apply State.onRing_keeps | intro _ | split

theorem execRingcfgCmt_keeps {s0 : State} {o : EOp} {s : State} (h_s : Keeps s0 s) : Kept s0 (execRingcfgCmt o s) := by
  unfold execRingcfgCmt
  repeat' first
      | with_reducible assumption | with_reducible apply Keeps.nextTurn | with_reducible exact Keeps.refl _ | with_reducible apply Kept.next
      | with_reducible apply Kept.fault | with_reducible apply Keeps.foldl | with_reducible apply Keeps.foldlP | with_reducible apply hf
      | with_reducible apply State.ringOp_keeps | with_reducible apply State.illegalOperand_keeps | with_reducible apply State.release_keeps
      | with_reducible apply State.waitFor_keeps | with_reducible apply State.onRing_keeps
      | (with_reducible apply Keeps.restPlat; with_reducible assumption) | intro _ | with_reducible apply CoreKeeps.onTeam
      | with_reducible apply CoreKeeps.onStashLine | exact CoreKeeps.same rfl | exact GlenKeeps.same rfl | rfl
      | (extract_lets +onlyGivenNames x; first | (have hx : Keeps s0 x := ?_; clear_value x; on_goal 2 => subst x) | (have hx : Keeps s0 x.1 := ?_; clear_value x; on_goal 2 => subst x) | (have hf : ∀ t, Keeps s0 t → Keeps s0 (x t) := ?_; clear_value x; on_goal 2 => subst x) | (have hf : ∀ t b, Keeps s0 t → Keeps s0 (x t b) := ?_; clear_value x; on_goal 2 => subst x) | (have hf : ∀ a b t, Keeps s0 t → Keeps s0 (x a b t) := ?_; clear_value x; on_goal 2 => subst x) | (have hf : ∀ a, Keeps s0 (x a) := ?_; clear_value x; on_goal 2 => subst x) | clear_value x)
      | (with_reducible apply Keeps.rest; first | with_reducible assumption | with_reducible exact Keeps.refl _ | with_reducible apply State.ringOp_keeps | with_reducible apply State.illegalOperand_keeps | with_reducible apply State.release_keeps | with_reducible apply State.waitFor_keeps | with_reducible apply State.onRing_keeps | split)
      | (with_reducible apply Keeps.restStore; first | with_reducible assumption | with_reducible exact Keeps.refl _ | with_reducible apply State.ringOp_keeps | with_reducible apply State.illegalOperand_keeps | with_reducible apply State.release_keeps | with_reducible apply State.waitFor_keeps | with_reducible apply State.onRing_keeps | split)
      | split

theorem execRingcfgPop_keeps {s0 : State} {o : EOp} {s : State} (h_s : Keeps s0 s) : Kept s0 (execRingcfgPop o s) := by
  unfold execRingcfgPop
  repeat' first
      | with_reducible assumption | with_reducible apply Keeps.nextTurn | with_reducible exact Keeps.refl _ | with_reducible apply Kept.next
      | with_reducible apply Kept.fault | with_reducible apply Keeps.foldl | with_reducible apply Keeps.foldlP | with_reducible apply hf
      | with_reducible apply State.ringOp_keeps | with_reducible apply State.illegalOperand_keeps | with_reducible apply State.onRing_keeps
      | (with_reducible apply Keeps.restPlat; with_reducible assumption) | intro _ | with_reducible apply CoreKeeps.onTeam
      | with_reducible apply CoreKeeps.onStashLine | exact CoreKeeps.same rfl | exact GlenKeeps.same rfl | rfl
      | (extract_lets +onlyGivenNames x; first | (have hx : Keeps s0 x := ?_; clear_value x; on_goal 2 => subst x) | (have hx : Keeps s0 x.1 := ?_; clear_value x; on_goal 2 => subst x) | (have hf : ∀ t, Keeps s0 t → Keeps s0 (x t) := ?_; clear_value x; on_goal 2 => subst x) | (have hf : ∀ t b, Keeps s0 t → Keeps s0 (x t b) := ?_; clear_value x; on_goal 2 => subst x) | (have hf : ∀ a b t, Keeps s0 t → Keeps s0 (x a b t) := ?_; clear_value x; on_goal 2 => subst x) | (have hf : ∀ a, Keeps s0 (x a) := ?_; clear_value x; on_goal 2 => subst x) | clear_value x)
      | (with_reducible apply Keeps.rest; first | with_reducible assumption | with_reducible exact Keeps.refl _ | with_reducible apply State.ringOp_keeps | with_reducible apply State.illegalOperand_keeps | with_reducible apply State.onRing_keeps | split)
      | (with_reducible apply Keeps.restStore; first | with_reducible assumption | with_reducible exact Keeps.refl _ | with_reducible apply State.ringOp_keeps | with_reducible apply State.illegalOperand_keeps | with_reducible apply State.onRing_keeps | split)
      | split

theorem execRingcfgHnd_keeps {s0 : State} {o : EOp} {s : State} (h_s : Keeps s0 s) : Kept s0 (execRingcfgHnd o s) := by
  unfold execRingcfgHnd
  repeat' first
      | with_reducible assumption | with_reducible apply Keeps.nextTurn | with_reducible exact Keeps.refl _ | with_reducible apply Kept.next
      | with_reducible apply Kept.fault | with_reducible apply Keeps.foldl | with_reducible apply Keeps.foldlP | with_reducible apply hf
      | with_reducible apply State.ringOp_keeps | with_reducible apply State.postScalar_keeps
      | (with_reducible apply Keeps.restPlat; with_reducible assumption) | intro _ | with_reducible apply CoreKeeps.onTeam
      | with_reducible apply CoreKeeps.onStashLine | exact CoreKeeps.same rfl | exact GlenKeeps.same rfl | rfl
      | (extract_lets +onlyGivenNames x; first | (have hx : Keeps s0 x := ?_; clear_value x; on_goal 2 => subst x) | (have hx : Keeps s0 x.1 := ?_; clear_value x; on_goal 2 => subst x) | (have hf : ∀ t, Keeps s0 t → Keeps s0 (x t) := ?_; clear_value x; on_goal 2 => subst x) | (have hf : ∀ t b, Keeps s0 t → Keeps s0 (x t b) := ?_; clear_value x; on_goal 2 => subst x) | (have hf : ∀ a b t, Keeps s0 t → Keeps s0 (x a b t) := ?_; clear_value x; on_goal 2 => subst x) | (have hf : ∀ a, Keeps s0 (x a) := ?_; clear_value x; on_goal 2 => subst x) | clear_value x)
      | (with_reducible apply Keeps.rest; first | with_reducible assumption | with_reducible exact Keeps.refl _ | with_reducible apply State.ringOp_keeps | with_reducible apply State.postScalar_keeps | split)
      | (with_reducible apply Keeps.restStore; first | with_reducible assumption | with_reducible exact Keeps.refl _ | with_reducible apply State.ringOp_keeps | with_reducible apply State.postScalar_keeps | split)
      | split

theorem State.wakeHold_keeps {s0 : State} {s : State} {core : Nat} {r : Nat} {h : RingHold} (h_s : Keeps s0 s) : Keeps s0 (State.wakeHold s core r h) := 
  Keeps.onCore h_s _ (fun _ => .same rfl)

theorem execRingReserveGrant_keeps {s0 : State} {core : Nat} {ring : Nat} {s : State} (h_s : Keeps s0 s) : Kept s0 (execRingReserveGrant core ring s) := by
  unfold execRingReserveGrant
  repeat' first
      | with_reducible assumption | with_reducible apply Keeps.nextTurn | with_reducible exact Keeps.refl _ | with_reducible apply Kept.next
      | with_reducible apply Kept.fault | with_reducible apply Keeps.foldl | with_reducible apply Keeps.foldlP | with_reducible apply hf
      | with_reducible apply State.onRing_keeps | with_reducible apply State.wakeHold_keeps
      | (with_reducible apply Keeps.restPlat; with_reducible assumption) | intro _ | with_reducible apply CoreKeeps.onTeam
      | with_reducible apply CoreKeeps.onStashLine | exact CoreKeeps.same rfl | exact GlenKeeps.same rfl | rfl
      | (extract_lets +onlyGivenNames x; first | (have hx : Keeps s0 x := ?_; clear_value x; on_goal 2 => subst x) | (have hx : Keeps s0 x.1 := ?_; clear_value x; on_goal 2 => subst x) | (have hf : ∀ t, Keeps s0 t → Keeps s0 (x t) := ?_; clear_value x; on_goal 2 => subst x) | (have hf : ∀ t b, Keeps s0 t → Keeps s0 (x t b) := ?_; clear_value x; on_goal 2 => subst x) | (have hf : ∀ a b t, Keeps s0 t → Keeps s0 (x a b t) := ?_; clear_value x; on_goal 2 => subst x) | (have hf : ∀ a, Keeps s0 (x a) := ?_; clear_value x; on_goal 2 => subst x) | clear_value x)
      | (with_reducible apply Keeps.rest; first | with_reducible assumption | with_reducible exact Keeps.refl _ | with_reducible apply State.onRing_keeps | with_reducible apply State.wakeHold_keeps | split)
      | (with_reducible apply Keeps.restStore; first | with_reducible assumption | with_reducible exact Keeps.refl _ | with_reducible apply State.onRing_keeps | with_reducible apply State.wakeHold_keeps | split)
      | split

theorem execRingCommit_keeps {s0 : State} {core : Nat} {ring : Nat} {s : State} (h_s : Keeps s0 s) : Kept s0 (execRingCommit core ring s) := by
  unfold execRingCommit
  repeat' first
      | with_reducible assumption | with_reducible apply Keeps.nextTurn | with_reducible exact Keeps.refl _ | with_reducible apply Kept.next
      | with_reducible apply Kept.fault | with_reducible apply Keeps.foldl | with_reducible apply Keeps.foldlP | with_reducible apply hf
      | with_reducible apply State.onRing_keeps | (with_reducible apply Keeps.restPlat; with_reducible assumption) | intro _
      | with_reducible apply CoreKeeps.onTeam | with_reducible apply CoreKeeps.onStashLine | exact CoreKeeps.same rfl | exact GlenKeeps.same rfl | rfl
      | (extract_lets +onlyGivenNames x; first | (have hx : Keeps s0 x := ?_; clear_value x; on_goal 2 => subst x) | (have hx : Keeps s0 x.1 := ?_; clear_value x; on_goal 2 => subst x) | (have hf : ∀ t, Keeps s0 t → Keeps s0 (x t) := ?_; clear_value x; on_goal 2 => subst x) | (have hf : ∀ t b, Keeps s0 t → Keeps s0 (x t b) := ?_; clear_value x; on_goal 2 => subst x) | (have hf : ∀ a b t, Keeps s0 t → Keeps s0 (x a b t) := ?_; clear_value x; on_goal 2 => subst x) | (have hf : ∀ a, Keeps s0 (x a) := ?_; clear_value x; on_goal 2 => subst x) | clear_value x)
      | (with_reducible apply Keeps.rest; first | with_reducible assumption | with_reducible exact Keeps.refl _ | with_reducible apply State.onRing_keeps | split)
      | (with_reducible apply Keeps.restStore; first | with_reducible assumption | with_reducible exact Keeps.refl _ | with_reducible apply State.onRing_keeps | split)
      | split

theorem execRingClaimGrant_keeps {s0 : State} {core : Nat} {ring : Nat} {s : State} (h_s : Keeps s0 s) : Kept s0 (execRingClaimGrant core ring s) := by
  unfold execRingClaimGrant
  repeat' first
      | with_reducible assumption | with_reducible apply Keeps.nextTurn | with_reducible exact Keeps.refl _ | with_reducible apply Kept.next
      | with_reducible apply Kept.fault | with_reducible apply Keeps.foldl | with_reducible apply Keeps.foldlP | with_reducible apply hf
      | with_reducible apply State.onRing_keeps | with_reducible apply State.wakeHold_keeps
      | (with_reducible apply Keeps.restPlat; with_reducible assumption) | intro _ | with_reducible apply CoreKeeps.onTeam
      | with_reducible apply CoreKeeps.onStashLine | exact CoreKeeps.same rfl | exact GlenKeeps.same rfl | rfl
      | (extract_lets +onlyGivenNames x; first | (have hx : Keeps s0 x := ?_; clear_value x; on_goal 2 => subst x) | (have hx : Keeps s0 x.1 := ?_; clear_value x; on_goal 2 => subst x) | (have hf : ∀ t, Keeps s0 t → Keeps s0 (x t) := ?_; clear_value x; on_goal 2 => subst x) | (have hf : ∀ t b, Keeps s0 t → Keeps s0 (x t b) := ?_; clear_value x; on_goal 2 => subst x) | (have hf : ∀ a b t, Keeps s0 t → Keeps s0 (x a b t) := ?_; clear_value x; on_goal 2 => subst x) | (have hf : ∀ a, Keeps s0 (x a) := ?_; clear_value x; on_goal 2 => subst x) | clear_value x)
      | (with_reducible apply Keeps.rest; first | with_reducible assumption | with_reducible exact Keeps.refl _ | with_reducible apply State.onRing_keeps | with_reducible apply State.wakeHold_keeps | split)
      | (with_reducible apply Keeps.restStore; first | with_reducible assumption | with_reducible exact Keeps.refl _ | with_reducible apply State.onRing_keeps | with_reducible apply State.wakeHold_keeps | split)
      | split

theorem execRingReconfigure_keeps {s0 : State} {core : Nat} {ring : Nat} {s : State} (h_s : Keeps s0 s) : Kept s0 (execRingReconfigure core ring s) := by
  unfold execRingReconfigure
  repeat' first
      | with_reducible assumption | with_reducible apply Keeps.nextTurn | with_reducible exact Keeps.refl _ | with_reducible apply Kept.next
      | with_reducible apply Kept.fault | with_reducible apply Keeps.foldl | with_reducible apply Keeps.foldlP | with_reducible apply hf
      | with_reducible apply Keeps.onCore | (with_reducible apply Keeps.restPlat; with_reducible assumption) | intro _
      | with_reducible apply CoreKeeps.onTeam | with_reducible apply CoreKeeps.onStashLine | exact CoreKeeps.same rfl | exact GlenKeeps.same rfl | rfl
      | (extract_lets +onlyGivenNames x; first | (have hx : Keeps s0 x := ?_; clear_value x; on_goal 2 => subst x) | (have hx : Keeps s0 x.1 := ?_; clear_value x; on_goal 2 => subst x) | (have hf : ∀ t, Keeps s0 t → Keeps s0 (x t) := ?_; clear_value x; on_goal 2 => subst x) | (have hf : ∀ t b, Keeps s0 t → Keeps s0 (x t b) := ?_; clear_value x; on_goal 2 => subst x) | (have hf : ∀ a b t, Keeps s0 t → Keeps s0 (x a b t) := ?_; clear_value x; on_goal 2 => subst x) | (have hf : ∀ a, Keeps s0 (x a) := ?_; clear_value x; on_goal 2 => subst x) | clear_value x)
      | (with_reducible apply Keeps.rest; first | with_reducible assumption | with_reducible exact Keeps.refl _ | with_reducible apply Keeps.onCore | split)
      | (with_reducible apply Keeps.restStore; first | with_reducible assumption | with_reducible exact Keeps.refl _ | with_reducible apply Keeps.onCore | split)
      | split

theorem execAdd_keeps {s0 : State} {o : ROp} {s : State} (h_s : Keeps s0 s) : Kept s0 (execAdd o s) := 
  Kept.next (State.intOp_keeps h_s)

theorem execSub_keeps {s0 : State} {o : ROp} {s : State} (h_s : Keeps s0 s) : Kept s0 (execSub o s) := 
  Kept.next (State.intOp_keeps h_s)

theorem execAddc_keeps {s0 : State} {o : ROp} {s : State} (h_s : Keeps s0 s) : Kept s0 (execAddc o s) := 
  Kept.next (State.intOp_keeps h_s)

theorem execSubc_keeps {s0 : State} {o : ROp} {s : State} (h_s : Keeps s0 s) : Kept s0 (execSubc o s) := 
  Kept.next (State.intOp_keeps h_s)

theorem execMul_keeps {s0 : State} {o : ROp} {s : State} (h_s : Keeps s0 s) : Kept s0 (execMul o s) := 
  Kept.next (State.intOp_keeps h_s)

theorem execMulh_keeps {s0 : State} {o : ROp} {s : State} (h_s : Keeps s0 s) : Kept s0 (execMulh o s) := 
  Kept.next (State.intOp_keeps h_s)

theorem execMad_keeps {s0 : State} {o : ROp} {s : State} (h_s : Keeps s0 s) : Kept s0 (execMad o s) := 
  Kept.next (State.intOp_keeps h_s)

theorem execDiv_keeps {s0 : State} {o : ROp} {s : State} (h_s : Keeps s0 s) : Kept s0 (execDiv o s) := 
  Kept.next (State.intOp_keeps h_s)

theorem execRem_keeps {s0 : State} {o : ROp} {s : State} (h_s : Keeps s0 s) : Kept s0 (execRem o s) := 
  Kept.next (State.intOp_keeps h_s)

theorem execMin_keeps {s0 : State} {o : ROp} {s : State} (h_s : Keeps s0 s) : Kept s0 (execMin o s) := 
  Kept.next (State.intOp_keeps h_s)

theorem execMax_keeps {s0 : State} {o : ROp} {s : State} (h_s : Keeps s0 s) : Kept s0 (execMax o s) := 
  Kept.next (State.intOp_keeps h_s)

theorem execAbs_keeps {s0 : State} {o : ROp} {s : State} (h_s : Keeps s0 s) : Kept s0 (execAbs o s) := 
  Kept.next (State.intOp_keeps h_s)

theorem execNeg_keeps {s0 : State} {o : ROp} {s : State} (h_s : Keeps s0 s) : Kept s0 (execNeg o s) := 
  Kept.next (State.intOp_keeps h_s)

theorem execAnd_keeps {s0 : State} {o : ROp} {s : State} (h_s : Keeps s0 s) : Kept s0 (execAnd o s) := 
  Kept.next (State.intOp_keeps h_s)

theorem execOr_keeps {s0 : State} {o : ROp} {s : State} (h_s : Keeps s0 s) : Kept s0 (execOr o s) := 
  Kept.next (State.intOp_keeps h_s)

theorem execXor_keeps {s0 : State} {o : ROp} {s : State} (h_s : Keeps s0 s) : Kept s0 (execXor o s) := 
  Kept.next (State.intOp_keeps h_s)

theorem execAndn_keeps {s0 : State} {o : ROp} {s : State} (h_s : Keeps s0 s) : Kept s0 (execAndn o s) := 
  Kept.next (State.intOp_keeps h_s)

theorem execNot_keeps {s0 : State} {o : ROp} {s : State} (h_s : Keeps s0 s) : Kept s0 (execNot o s) := 
  Kept.next (State.intOp_keeps h_s)

theorem execShl_keeps {s0 : State} {o : ROp} {s : State} (h_s : Keeps s0 s) : Kept s0 (execShl o s) := 
  Kept.next (State.intOp_keeps h_s)

theorem execShr_keeps {s0 : State} {o : ROp} {s : State} (h_s : Keeps s0 s) : Kept s0 (execShr o s) := 
  Kept.next (State.intOp_keeps h_s)

theorem execSar_keeps {s0 : State} {o : ROp} {s : State} (h_s : Keeps s0 s) : Kept s0 (execSar o s) := 
  Kept.next (State.intOp_keeps h_s)

theorem execRot_keeps {s0 : State} {o : ROp} {s : State} (h_s : Keeps s0 s) : Kept s0 (execRot o s) := 
  Kept.next (State.intOp_keeps h_s)

theorem execBfx_keeps {s0 : State} {o : ROp} {s : State} (h_s : Keeps s0 s) : Kept s0 (execBfx o s) := 
  Kept.next (State.intOp_keeps h_s)

theorem execBfi_keeps {s0 : State} {o : ROp} {s : State} (h_s : Keeps s0 s) : Kept s0 (execBfi o s) := 
  Kept.next (State.intOp_keeps h_s)

theorem execPopc_keeps {s0 : State} {o : ROp} {s : State} (h_s : Keeps s0 s) : Kept s0 (execPopc o s) := 
  Kept.next (State.intOp_keeps h_s)

theorem execClz_keeps {s0 : State} {o : ROp} {s : State} (h_s : Keeps s0 s) : Kept s0 (execClz o s) := 
  Kept.next (State.intOp_keeps h_s)

theorem execBrev_keeps {s0 : State} {o : ROp} {s : State} (h_s : Keeps s0 s) : Kept s0 (execBrev o s) := 
  Kept.next (State.intOp_keeps h_s)

theorem execSel_keeps {s0 : State} {o : ROp} {s : State} (h_s : Keeps s0 s) : Kept s0 (execSel o s) := 
  Kept.next (State.intOp_keeps h_s)

theorem execCmp_keeps {s0 : State} {o : ROp} {s : State} (h_s : Keeps s0 s) : Kept s0 (execCmp o s) := 
  Kept.next (State.intOp_keeps h_s)

theorem execMov_keeps {s0 : State} {o : ROp} {s : State} (h_s : Keeps s0 s) : Kept s0 (execMov o s) := by
  unfold execMov
  repeat' first
      | with_reducible assumption | with_reducible apply Keeps.nextTurn | with_reducible exact Keeps.refl _ | with_reducible apply Kept.next
      | with_reducible apply Kept.fault | with_reducible apply Keeps.foldl | with_reducible apply Keeps.foldlP | with_reducible apply hf
      | with_reducible apply State.scalarOp_keeps | with_reducible apply State.postScalar_keeps | with_reducible apply State.intOp_keeps
      | (with_reducible apply Keeps.restPlat; with_reducible assumption) | intro _ | with_reducible apply CoreKeeps.onTeam
      | with_reducible apply CoreKeeps.onStashLine | exact CoreKeeps.same rfl | exact GlenKeeps.same rfl | rfl
      | (extract_lets +onlyGivenNames x; first | (have hx : Keeps s0 x := ?_; clear_value x; on_goal 2 => subst x) | (have hx : Keeps s0 x.1 := ?_; clear_value x; on_goal 2 => subst x) | (have hf : ∀ t, Keeps s0 t → Keeps s0 (x t) := ?_; clear_value x; on_goal 2 => subst x) | (have hf : ∀ t b, Keeps s0 t → Keeps s0 (x t b) := ?_; clear_value x; on_goal 2 => subst x) | (have hf : ∀ a b t, Keeps s0 t → Keeps s0 (x a b t) := ?_; clear_value x; on_goal 2 => subst x) | (have hf : ∀ a, Keeps s0 (x a) := ?_; clear_value x; on_goal 2 => subst x) | clear_value x)
      | (with_reducible apply Keeps.rest; first | with_reducible assumption | with_reducible exact Keeps.refl _ | with_reducible apply State.scalarOp_keeps | with_reducible apply State.postScalar_keeps | with_reducible apply State.intOp_keeps | split)
      | (with_reducible apply Keeps.restStore; first | with_reducible assumption | with_reducible exact Keeps.refl _ | with_reducible apply State.scalarOp_keeps | with_reducible apply State.postScalar_keeps | with_reducible apply State.intOp_keeps | split)
      | split

theorem execMovi_keeps {s0 : State} {o : IOp} {s : State} (h_s : Keeps s0 s) : Kept s0 (execMovi o s) := 
  Kept.next (State.immOp_keeps h_s)

theorem execMovw_keeps {s0 : State} {o : IOp} {s : State} (h_s : Keeps s0 s) : Kept s0 (execMovw o s) := by
  unfold execMovw
  repeat' first
      | with_reducible assumption | with_reducible apply Keeps.nextTurn | with_reducible exact Keeps.refl _ | with_reducible apply Kept.next
      | with_reducible apply Kept.fault | with_reducible apply Keeps.foldl | with_reducible apply Keeps.foldlP | with_reducible apply hf
      | with_reducible apply State.scalarOp_keeps | with_reducible apply State.postScalar_keeps | with_reducible apply State.immOp_keeps
      | (with_reducible apply Keeps.restPlat; with_reducible assumption) | intro _ | with_reducible apply CoreKeeps.onTeam
      | with_reducible apply CoreKeeps.onStashLine | exact CoreKeeps.same rfl | exact GlenKeeps.same rfl | rfl
      | (extract_lets +onlyGivenNames x; first | (have hx : Keeps s0 x := ?_; clear_value x; on_goal 2 => subst x) | (have hx : Keeps s0 x.1 := ?_; clear_value x; on_goal 2 => subst x) | (have hf : ∀ t, Keeps s0 t → Keeps s0 (x t) := ?_; clear_value x; on_goal 2 => subst x) | (have hf : ∀ t b, Keeps s0 t → Keeps s0 (x t b) := ?_; clear_value x; on_goal 2 => subst x) | (have hf : ∀ a b t, Keeps s0 t → Keeps s0 (x a b t) := ?_; clear_value x; on_goal 2 => subst x) | (have hf : ∀ a, Keeps s0 (x a) := ?_; clear_value x; on_goal 2 => subst x) | clear_value x)
      | (with_reducible apply Keeps.rest; first | with_reducible assumption | with_reducible exact Keeps.refl _ | with_reducible apply State.scalarOp_keeps | with_reducible apply State.postScalar_keeps | with_reducible apply State.immOp_keeps | split)
      | (with_reducible apply Keeps.restStore; first | with_reducible assumption | with_reducible exact Keeps.refl _ | with_reducible apply State.scalarOp_keeps | with_reducible apply State.postScalar_keeps | with_reducible apply State.immOp_keeps | split)
      | split

theorem execAddImm_keeps {s0 : State} {o : IOp} {s : State} (h_s : Keeps s0 s) : Kept s0 (execAddImm o s) := 
  Kept.next (State.immOp_keeps h_s)

theorem execMulImm_keeps {s0 : State} {o : IOp} {s : State} (h_s : Keeps s0 s) : Kept s0 (execMulImm o s) := 
  Kept.next (State.immOp_keeps h_s)

theorem execAndImm_keeps {s0 : State} {o : IOp} {s : State} (h_s : Keeps s0 s) : Kept s0 (execAndImm o s) := 
  Kept.next (State.immOp_keeps h_s)

theorem execOrImm_keeps {s0 : State} {o : IOp} {s : State} (h_s : Keeps s0 s) : Kept s0 (execOrImm o s) := 
  Kept.next (State.immOp_keeps h_s)

theorem execXorImm_keeps {s0 : State} {o : IOp} {s : State} (h_s : Keeps s0 s) : Kept s0 (execXorImm o s) := 
  Kept.next (State.immOp_keeps h_s)

theorem execShlImm_keeps {s0 : State} {o : IOp} {s : State} (h_s : Keeps s0 s) : Kept s0 (execShlImm o s) := 
  Kept.next (State.immOp_keeps h_s)

theorem execShrImm_keeps {s0 : State} {o : IOp} {s : State} (h_s : Keeps s0 s) : Kept s0 (execShrImm o s) := 
  Kept.next (State.immOp_keeps h_s)

theorem execSarImm_keeps {s0 : State} {o : IOp} {s : State} (h_s : Keeps s0 s) : Kept s0 (execSarImm o s) := 
  Kept.next (State.immOp_keeps h_s)

theorem execCmpImm_keeps {s0 : State} {o : IOp} {s : State} (h_s : Keeps s0 s) : Kept s0 (execCmpImm o s) := 
  Kept.next (State.immOp_keeps h_s)

theorem execMinImm_keeps {s0 : State} {o : IOp} {s : State} (h_s : Keeps s0 s) : Kept s0 (execMinImm o s) := 
  Kept.next (State.immOp_keeps h_s)

theorem execMaxImm_keeps {s0 : State} {o : IOp} {s : State} (h_s : Keeps s0 s) : Kept s0 (execMaxImm o s) := 
  Kept.next (State.immOp_keeps h_s)

end Sys2Proof.Machine
end

