-- ==== Sys2Proof/Laws/KeepsEngines.lean ====
section
/-! SUPPORT. What every step keeps - the canonical forms, the platform's bounds, the fuses - one lemma per operation: the engines, the tile unit, the sequence engine, collectives and the glen cores. -/

set_option linter.unreachableTactic false
set_option linter.unusedTactic false

namespace Sys2Proof.Machine

theorem State.settleIssue_keeps {s0 : State} {s : State} {core : Nat} {key : Nat} {outside : Bool} (h_s : Keeps s0 s) : Keeps s0 (State.settleIssue s core key outside).1 := by
  unfold State.settleIssue
  repeat' first
      | with_reducible assumption | with_reducible apply Keeps.nextTurn | with_reducible exact Keeps.refl _ | with_reducible apply Kept.next
      | with_reducible apply Kept.fault | with_reducible apply Keeps.foldl | with_reducible apply Keeps.foldlP | with_reducible apply hf
      | with_reducible apply State.writeOutWhere_keeps | with_reducible apply State.drainStores_keeps
      | (with_reducible apply Keeps.restPlat; with_reducible assumption) | intro _ | with_reducible apply CoreKeeps.onTeam
      | with_reducible apply CoreKeeps.onStashLine | exact CoreKeeps.same rfl | exact GlenKeeps.same rfl | rfl
      | (extract_lets +onlyGivenNames x; first | (have hx : Keeps s0 x := ?_; clear_value x; on_goal 2 => subst x) | (have hx : Keeps s0 x.1 := ?_; clear_value x; on_goal 2 => subst x) | (have hf : ∀ t, Keeps s0 t → Keeps s0 (x t) := ?_; clear_value x; on_goal 2 => subst x) | (have hf : ∀ t b, Keeps s0 t → Keeps s0 (x t b) := ?_; clear_value x; on_goal 2 => subst x) | (have hf : ∀ a b t, Keeps s0 t → Keeps s0 (x a b t) := ?_; clear_value x; on_goal 2 => subst x) | (have hf : ∀ a, Keeps s0 (x a) := ?_; clear_value x; on_goal 2 => subst x) | clear_value x)
      | (with_reducible apply Keeps.rest; first | with_reducible assumption | with_reducible exact Keeps.refl _ | with_reducible apply State.writeOutWhere_keeps | with_reducible apply State.drainStores_keeps | split)
      | (with_reducible apply Keeps.restStore; first | with_reducible assumption | with_reducible exact Keeps.refl _ | with_reducible apply State.writeOutWhere_keeps | with_reducible apply State.drainStores_keeps | split)
      | split

theorem State.accept_keeps {s0 : State} {s : State} {c : Issue} {site : Site} {op : Instr} {f : Cmd → Cmd} {g : Cmd → State → State} (h_s : Keeps s0 s) (h_g : ∀ (x0 : Cmd) (x1 : State), Keeps s0 x1 → Keeps s0 (g x0 x1)) : Keeps s0 (State.accept s c site op f g) := by
  unfold State.accept
  repeat' first
      | with_reducible assumption | with_reducible apply Keeps.nextTurn | with_reducible exact Keeps.refl _ | with_reducible apply Kept.next
      | with_reducible apply Kept.fault | with_reducible apply Keeps.foldl | with_reducible apply Keeps.foldlP | with_reducible apply hf
      | with_reducible apply h_g | with_reducible apply State.illegalOperand_keeps | with_reducible apply State.waitFor_keeps
      | with_reducible apply State.settleIssue_keeps | with_reducible apply Keeps.onStore | with_reducible apply Keeps.onCore
      | (with_reducible apply Keeps.restPlat; with_reducible assumption) | intro _ | with_reducible apply CoreKeeps.onTeam
      | with_reducible apply CoreKeeps.onStashLine | exact CoreKeeps.same rfl | exact GlenKeeps.same rfl | rfl
      | (extract_lets +onlyGivenNames x; first | (have hx : Keeps s0 x := ?_; clear_value x; on_goal 2 => subst x) | (have hx : Keeps s0 x.1 := ?_; clear_value x; on_goal 2 => subst x) | (have hf : ∀ t, Keeps s0 t → Keeps s0 (x t) := ?_; clear_value x; on_goal 2 => subst x) | (have hf : ∀ t b, Keeps s0 t → Keeps s0 (x t b) := ?_; clear_value x; on_goal 2 => subst x) | (have hf : ∀ a b t, Keeps s0 t → Keeps s0 (x a b t) := ?_; clear_value x; on_goal 2 => subst x) | (have hf : ∀ a, Keeps s0 (x a) := ?_; clear_value x; on_goal 2 => subst x) | clear_value x)
      | (with_reducible apply Keeps.rest; first | with_reducible assumption | with_reducible exact Keeps.refl _ | with_reducible apply h_g | with_reducible apply State.illegalOperand_keeps | with_reducible apply State.waitFor_keeps | with_reducible apply State.settleIssue_keeps | with_reducible apply Keeps.onStore | with_reducible apply Keeps.onCore | split)
      | (with_reducible apply Keeps.restStore; first | with_reducible assumption | with_reducible exact Keeps.refl _ | with_reducible apply h_g | with_reducible apply State.illegalOperand_keeps | with_reducible apply State.waitFor_keeps | with_reducible apply State.settleIssue_keeps | with_reducible apply Keeps.onStore | with_reducible apply Keeps.onCore | split)
      | split

theorem State.recallAll_keeps {s0 : State} {s : State} {ps : List Nat} (h_s : Keeps s0 s) : Keeps s0 (State.recallAll s ps) := by
  unfold State.recallAll
  repeat' first
      | with_reducible assumption | with_reducible apply Kept.next | with_reducible apply Keeps.foldl | with_reducible apply Keeps.foldlP
      | with_reducible apply State.recall_keeps | intro _

theorem State.engineWrite_keeps {s0 : State} {s : State} {core : Nat} {bs : List (SpadByte × Byte × Bool)} (h_s : Keeps s0 s) : Keeps s0 (State.engineWrite s core bs) := by
  unfold State.engineWrite
  repeat' first
      | with_reducible assumption | with_reducible apply Kept.next | with_reducible apply State.spadWrite_keeps | with_reducible apply Keeps.onCore
      | with_reducible apply State.coherentWrite_keeps | intro _ | exact CoreKeeps.same rfl
      | (extract_lets +onlyGivenNames x; first | (have hx : Keeps s0 x := ?_; clear_value x; on_goal 2 => subst x) | (have hx : Keeps s0 x.1 := ?_; clear_value x; on_goal 2 => subst x) | (have hf : ∀ t, Keeps s0 t → Keeps s0 (x t) := ?_; clear_value x; on_goal 2 => subst x) | (have hf : ∀ t b, Keeps s0 t → Keeps s0 (x t b) := ?_; clear_value x; on_goal 2 => subst x) | (have hf : ∀ a b t, Keeps s0 t → Keeps s0 (x a b t) := ?_; clear_value x; on_goal 2 => subst x) | (have hf : ∀ a, Keeps s0 (x a) := ?_; clear_value x; on_goal 2 => subst x) | clear_value x)
      | split

theorem State.own_keeps {s0 : State} {s : State} {unit : Nat} {cmd : Nat} {order : Nat} {lines : List Nat} (h_s : Keeps s0 s) : Keeps s0 (State.own s unit cmd order lines) := by
  unfold State.own
  repeat' first
      | with_reducible assumption | with_reducible apply Kept.next | with_reducible apply Keeps.foldl | with_reducible apply Keeps.foldlP
      | with_reducible apply State.dropL1_keeps | with_reducible apply State.recall_keeps | with_reducible apply Keeps.onStore | intro _

theorem State.malformed_keeps {s0 : State} {s : State} {core : Nat} {d : Cmd} {addr : DWord} (h_s : Keeps s0 s) : Keeps s0 (State.malformed s core d addr) := 
  State.cmdRecord_keeps h_s

theorem State.askFor_keeps {s0 : State} {s : State} {die : Nat} {e : EFail} (h_s : Keeps s0 s) : Keeps s0 (State.askFor s die e) := by
  unfold State.askFor
  repeat' first | with_reducible assumption | with_reducible apply Kept.next | with_reducible apply State.askHost_keeps | split

theorem State.cmdFail_keeps {s0 : State} {s : State} {core : Nat} {d : Cmd} {e : EFail} {tag : Option Nat} (h_s : Keeps s0 s) : Keeps s0 (State.cmdFail s core d e tag) := by
  unfold State.cmdFail
  repeat' first
      | with_reducible assumption | with_reducible apply Keeps.nextTurn | with_reducible exact Keeps.refl _ | with_reducible apply Kept.next
      | with_reducible apply Kept.fault | with_reducible apply Keeps.foldl | with_reducible apply Keeps.foldlP | with_reducible apply hf
      | with_reducible apply State.askFor_keeps | with_reducible apply State.onCmd_keeps | with_reducible apply Keeps.onCore
      | with_reducible apply State.cmdRecord_keeps | with_reducible apply State.forgetRefused_keeps | with_reducible apply State.endTeam_keeps
      | with_reducible apply State.endCmd_keeps | (with_reducible apply Keeps.restPlat; with_reducible assumption) | intro _
      | with_reducible apply CoreKeeps.onTeam | with_reducible apply CoreKeeps.onStashLine | exact CoreKeeps.same rfl | exact GlenKeeps.same rfl | rfl
      | (extract_lets +onlyGivenNames x; first | (have hx : Keeps s0 x := ?_; clear_value x; on_goal 2 => subst x) | (have hx : Keeps s0 x.1 := ?_; clear_value x; on_goal 2 => subst x) | (have hf : ∀ t, Keeps s0 t → Keeps s0 (x t) := ?_; clear_value x; on_goal 2 => subst x) | (have hf : ∀ t b, Keeps s0 t → Keeps s0 (x t b) := ?_; clear_value x; on_goal 2 => subst x) | (have hf : ∀ a b t, Keeps s0 t → Keeps s0 (x a b t) := ?_; clear_value x; on_goal 2 => subst x) | (have hf : ∀ a, Keeps s0 (x a) := ?_; clear_value x; on_goal 2 => subst x) | clear_value x)
      | (with_reducible apply Keeps.rest; first | with_reducible assumption | with_reducible exact Keeps.refl _ | with_reducible apply State.askFor_keeps | with_reducible apply State.onCmd_keeps | with_reducible apply Keeps.onCore | with_reducible apply State.cmdRecord_keeps | with_reducible apply State.forgetRefused_keeps | with_reducible apply State.endTeam_keeps | with_reducible apply State.endCmd_keeps | split)
      | (with_reducible apply Keeps.restStore; first | with_reducible assumption | with_reducible exact Keeps.refl _ | with_reducible apply State.askFor_keeps | with_reducible apply State.onCmd_keeps | with_reducible apply Keeps.onCore | with_reducible apply State.cmdRecord_keeps | with_reducible apply State.forgetRefused_keeps | with_reducible apply State.endTeam_keeps | with_reducible apply State.endCmd_keeps | split)
      | split

theorem State.readDesc_keeps {s0 : State} {s : State} {c : Issue} {site : Site} {addr : DWord} {n : Nat} {f : List Byte → State → State} (h_s : Keeps s0 s) (h_f : ∀ (x0 : List Byte) (x1 : State), Keeps s0 x1 → Keeps s0 (f x0 x1)) : Keeps s0 (State.readDesc s c site addr n f) := by
  unfold State.readDesc
  repeat' first
      | with_reducible assumption | with_reducible apply Keeps.nextTurn | with_reducible exact Keeps.refl _ | with_reducible apply Kept.next
      | with_reducible apply Kept.fault | with_reducible apply Keeps.foldl | with_reducible apply Keeps.foldlP | with_reducible apply hf
      | with_reducible apply h_f | with_reducible apply State.reach_keeps | with_reducible apply State.settleLoad_keeps
      | with_reducible apply State.waitFor_keeps | with_reducible apply State.poisonStop_keeps
      | (with_reducible apply Keeps.restPlat; with_reducible assumption) | intro _ | with_reducible apply CoreKeeps.onTeam
      | with_reducible apply CoreKeeps.onStashLine | exact CoreKeeps.same rfl | exact GlenKeeps.same rfl | rfl
      | (extract_lets +onlyGivenNames x; first | (have hx : Keeps s0 x := ?_; clear_value x; on_goal 2 => subst x) | (have hx : Keeps s0 x.1 := ?_; clear_value x; on_goal 2 => subst x) | (have hf : ∀ t, Keeps s0 t → Keeps s0 (x t) := ?_; clear_value x; on_goal 2 => subst x) | (have hf : ∀ t b, Keeps s0 t → Keeps s0 (x t b) := ?_; clear_value x; on_goal 2 => subst x) | (have hf : ∀ a b t, Keeps s0 t → Keeps s0 (x a b t) := ?_; clear_value x; on_goal 2 => subst x) | (have hf : ∀ a, Keeps s0 (x a) := ?_; clear_value x; on_goal 2 => subst x) | clear_value x)
      | (with_reducible apply Keeps.rest; first | with_reducible assumption | with_reducible exact Keeps.refl _ | with_reducible apply h_f | with_reducible apply State.reach_keeps | with_reducible apply State.settleLoad_keeps | with_reducible apply State.waitFor_keeps | with_reducible apply State.poisonStop_keeps | split)
      | (with_reducible apply Keeps.restStore; first | with_reducible assumption | with_reducible exact Keeps.refl _ | with_reducible apply h_f | with_reducible apply State.reach_keeps | with_reducible apply State.settleLoad_keeps | with_reducible apply State.waitFor_keeps | with_reducible apply State.poisonStop_keeps | split)
      | split

theorem State.queueCopy_keeps {s0 : State} {s : State} {c : Issue} {d : CopyDesc} {m : Cmd} (h_s : Keeps s0 s) : Keeps s0 (State.queueCopy s c d m) := by
  unfold State.queueCopy
  repeat' first
      | with_reducible assumption | with_reducible apply Keeps.nextTurn | with_reducible exact Keeps.refl _ | with_reducible apply Kept.next
      | with_reducible apply Kept.fault | with_reducible apply Keeps.foldl | with_reducible apply Keeps.foldlP | with_reducible apply hf
      | with_reducible apply State.settleLines_keeps | with_reducible apply State.waitFor_keeps | with_reducible apply State.onCmd_keeps
      | with_reducible apply State.own_keeps | (with_reducible apply Keeps.restPlat; with_reducible assumption) | intro _
      | with_reducible apply CoreKeeps.onTeam | with_reducible apply CoreKeeps.onStashLine | exact CoreKeeps.same rfl | exact GlenKeeps.same rfl | rfl
      | (extract_lets +onlyGivenNames x; first | (have hx : Keeps s0 x := ?_; clear_value x; on_goal 2 => subst x) | (have hx : Keeps s0 x.1 := ?_; clear_value x; on_goal 2 => subst x) | (have hf : ∀ t, Keeps s0 t → Keeps s0 (x t) := ?_; clear_value x; on_goal 2 => subst x) | (have hf : ∀ t b, Keeps s0 t → Keeps s0 (x t b) := ?_; clear_value x; on_goal 2 => subst x) | (have hf : ∀ a b t, Keeps s0 t → Keeps s0 (x a b t) := ?_; clear_value x; on_goal 2 => subst x) | (have hf : ∀ a, Keeps s0 (x a) := ?_; clear_value x; on_goal 2 => subst x) | clear_value x)
      | (with_reducible apply Keeps.rest; first | with_reducible assumption | with_reducible exact Keeps.refl _ | with_reducible apply State.settleLines_keeps | with_reducible apply State.waitFor_keeps | with_reducible apply State.onCmd_keeps | with_reducible apply State.own_keeps | split)
      | (with_reducible apply Keeps.restStore; first | with_reducible assumption | with_reducible exact Keeps.refl _ | with_reducible apply State.settleLines_keeps | with_reducible apply State.waitFor_keeps | with_reducible apply State.onCmd_keeps | with_reducible apply State.own_keeps | split)
      | split

theorem State.reserveFor_keeps {s0 : State} {s : State} {core : Nat} {ring : Nat} {key : Nat} {group : Nat} {n : Nat} (h_s : Keeps s0 s) : Keeps s0 (State.reserveFor s core ring key group n) := 
  State.onRing_keeps h_s

theorem execCpy_keeps {s0 : State} {o : EOp} {s : State} (h_s : Keeps s0 s) : Kept s0 (execCpy o s) := by
  unfold execCpy
  repeat' first
      | with_reducible assumption | with_reducible apply Kept.next | with_reducible apply State.laneOp_keeps
      | with_reducible apply State.illegalOperand_keeps | with_reducible apply State.readDesc_keeps | with_reducible apply State.accept_keeps
      | with_reducible apply State.reserveFor_keeps | with_reducible apply Keeps.onGroup | with_reducible apply State.queueCopy_keeps | intro _
      | (extract_lets +onlyGivenNames x; first | (have hx : Keeps s0 x := ?_; clear_value x; on_goal 2 => subst x) | (have hx : Keeps s0 x.1 := ?_; clear_value x; on_goal 2 => subst x) | (have hf : ∀ t, Keeps s0 t → Keeps s0 (x t) := ?_; clear_value x; on_goal 2 => subst x) | (have hf : ∀ t b, Keeps s0 t → Keeps s0 (x t b) := ?_; clear_value x; on_goal 2 => subst x) | (have hf : ∀ a b t, Keeps s0 t → Keeps s0 (x a b t) := ?_; clear_value x; on_goal 2 => subst x) | (have hf : ∀ a, Keeps s0 (x a) := ?_; clear_value x; on_goal 2 => subst x) | clear_value x)
      | split

theorem execCpym_keeps {s0 : State} {o : EOp} {s : State} (h_s : Keeps s0 s) : Kept s0 (execCpym o s) := by
  unfold execCpym
  repeat' first
      | with_reducible assumption | with_reducible apply Kept.next | with_reducible apply Keeps.foldl | with_reducible apply Keeps.foldlP
      | with_reducible apply hf | with_reducible apply State.laneOp_keeps | with_reducible apply State.illegalOperand_keeps
      | with_reducible apply State.readDesc_keeps | with_reducible apply State.accept_keeps | with_reducible apply State.reserveFor_keeps | intro _
      | (extract_lets +onlyGivenNames x; first | (have hx : Keeps s0 x := ?_; clear_value x; on_goal 2 => subst x) | (have hx : Keeps s0 x.1 := ?_; clear_value x; on_goal 2 => subst x) | (have hf : ∀ t, Keeps s0 t → Keeps s0 (x t) := ?_; clear_value x; on_goal 2 => subst x) | (have hf : ∀ t b, Keeps s0 t → Keeps s0 (x t b) := ?_; clear_value x; on_goal 2 => subst x) | (have hf : ∀ a b t, Keeps s0 t → Keeps s0 (x a b t) := ?_; clear_value x; on_goal 2 => subst x) | (have hf : ∀ a, Keeps s0 (x a) := ?_; clear_value x; on_goal 2 => subst x) | clear_value x)
      | split

theorem State.registerCopy_keeps {s0 : State} {s : State} {core : Nat} {m : Cmd} (h_s : Keeps s0 s) : Keeps s0 (State.registerCopy s core m) := by
  unfold State.registerCopy
  repeat' first
      | with_reducible assumption | with_reducible apply Keeps.nextTurn | with_reducible exact Keeps.refl _ | with_reducible apply Kept.next
      | with_reducible apply Kept.fault | with_reducible apply Keeps.foldl | with_reducible apply Keeps.foldlP | with_reducible apply hf
      | with_reducible apply State.cmdFail_keeps | with_reducible apply State.settleLines_keeps | with_reducible apply State.onCmd_keeps
      | with_reducible apply State.own_keeps | (with_reducible apply Keeps.restPlat; with_reducible assumption) | intro _
      | with_reducible apply CoreKeeps.onTeam | with_reducible apply CoreKeeps.onStashLine | exact CoreKeeps.same rfl | exact GlenKeeps.same rfl | rfl
      | (extract_lets +onlyGivenNames x; first | (have hx : Keeps s0 x := ?_; clear_value x; on_goal 2 => subst x) | (have hx : Keeps s0 x.1 := ?_; clear_value x; on_goal 2 => subst x) | (have hf : ∀ t, Keeps s0 t → Keeps s0 (x t) := ?_; clear_value x; on_goal 2 => subst x) | (have hf : ∀ t b, Keeps s0 t → Keeps s0 (x t b) := ?_; clear_value x; on_goal 2 => subst x) | (have hf : ∀ a b t, Keeps s0 t → Keeps s0 (x a b t) := ?_; clear_value x; on_goal 2 => subst x) | (have hf : ∀ a, Keeps s0 (x a) := ?_; clear_value x; on_goal 2 => subst x) | clear_value x)
      | (with_reducible apply Keeps.rest; first | with_reducible assumption | with_reducible exact Keeps.refl _ | with_reducible apply State.cmdFail_keeps | with_reducible apply State.settleLines_keeps | with_reducible apply State.onCmd_keeps | with_reducible apply State.own_keeps | split)
      | (with_reducible apply Keeps.restStore; first | with_reducible assumption | with_reducible exact Keeps.refl _ | with_reducible apply State.cmdFail_keeps | with_reducible apply State.settleLines_keeps | with_reducible apply State.onCmd_keeps | with_reducible apply State.own_keeps | split)
      | split

theorem State.moveBytes_keeps {s0 : State} {s : State} {core : Nat} {src : List SpadByte} {dst : List SpadByte} (h_s : Keeps s0 s) : Keeps s0 (State.moveBytes s core src dst) := by
  unfold State.moveBytes
  repeat' first
      | with_reducible assumption | with_reducible apply Kept.next | with_reducible apply Keeps.foldl | with_reducible apply Keeps.foldlP
      | with_reducible apply hf | with_reducible apply State.engineWrite_keeps | intro _ | exact CoreKeeps.same rfl
      | (extract_lets +onlyGivenNames x; first | (have hx : Keeps s0 x := ?_; clear_value x; on_goal 2 => subst x) | (have hx : Keeps s0 x.1 := ?_; clear_value x; on_goal 2 => subst x) | (have hf : ∀ t, Keeps s0 t → Keeps s0 (x t) := ?_; clear_value x; on_goal 2 => subst x) | (have hf : ∀ t b, Keeps s0 t → Keeps s0 (x t b) := ?_; clear_value x; on_goal 2 => subst x) | (have hf : ∀ a b t, Keeps s0 t → Keeps s0 (x a b t) := ?_; clear_value x; on_goal 2 => subst x) | (have hf : ∀ a, Keeps s0 (x a) := ?_; clear_value x; on_goal 2 => subst x) | clear_value x)
      | (with_reducible apply Keeps.rest; first | with_reducible assumption | with_reducible exact Keeps.refl _ | with_reducible apply State.engineWrite_keeps | split)
      | split

theorem State.countCopy_keeps {s0 : State} {s : State} {core : Nat} {m : Cmd} {d : CopyDesc} (h_s : Keeps s0 s) : Keeps s0 (State.countCopy s core m d) := 
  Keeps.onCore h_s _ (fun _ => .same rfl)

theorem State.copyToRing_keeps {s0 : State} {s : State} {core : Nat} {m : Cmd} {vals : List (Byte × Bool)} {p : Nat × Nat} (h_s : Keeps s0 s) : Keeps s0 (State.copyToRing s core m vals p).1 := by
  unfold State.copyToRing
  repeat' first
      | with_reducible assumption | with_reducible apply Keeps.nextTurn | with_reducible exact Keeps.refl _ | with_reducible apply Kept.next
      | with_reducible apply Kept.fault | with_reducible apply Keeps.foldl | with_reducible apply Keeps.foldlP | with_reducible apply hf
      | with_reducible apply State.engineWrite_keeps | with_reducible apply State.onRing_keeps
      | (with_reducible apply Keeps.restPlat; with_reducible assumption) | intro _ | with_reducible apply CoreKeeps.onTeam
      | with_reducible apply CoreKeeps.onStashLine | exact CoreKeeps.same rfl | exact GlenKeeps.same rfl | rfl
      | (extract_lets +onlyGivenNames x; first | (have hx : Keeps s0 x := ?_; clear_value x; on_goal 2 => subst x) | (have hx : Keeps s0 x.1 := ?_; clear_value x; on_goal 2 => subst x) | (have hf : ∀ t, Keeps s0 t → Keeps s0 (x t) := ?_; clear_value x; on_goal 2 => subst x) | (have hf : ∀ t b, Keeps s0 t → Keeps s0 (x t b) := ?_; clear_value x; on_goal 2 => subst x) | (have hf : ∀ a b t, Keeps s0 t → Keeps s0 (x a b t) := ?_; clear_value x; on_goal 2 => subst x) | (have hf : ∀ a, Keeps s0 (x a) := ?_; clear_value x; on_goal 2 => subst x) | clear_value x)
      | (with_reducible apply Keeps.rest; first | with_reducible assumption | with_reducible exact Keeps.refl _ | with_reducible apply State.engineWrite_keeps | with_reducible apply State.onRing_keeps | split)
      | (with_reducible apply Keeps.restStore; first | with_reducible assumption | with_reducible exact Keeps.refl _ | with_reducible apply State.engineWrite_keeps | with_reducible apply State.onRing_keeps | split)
      | split

theorem State.copyToRings_keeps {s0 : State} {s : State} {core : Nat} {m : Cmd} {src : List SpadByte} (h_s : Keeps s0 s) : Keeps s0 (State.copyToRings s core m src).1 := by
  unfold State.copyToRings
  repeat' first
      | with_reducible assumption | with_reducible apply Keeps.nextTurn | with_reducible exact Keeps.refl _ | with_reducible apply Kept.next
      | with_reducible apply Kept.fault | with_reducible apply Keeps.foldl | with_reducible apply Keeps.foldlP | with_reducible apply hf
      | with_reducible apply State.copyToRing_keeps | (with_reducible apply Keeps.restPlat; with_reducible assumption) | intro _
      | with_reducible apply CoreKeeps.onTeam | with_reducible apply CoreKeeps.onStashLine | exact CoreKeeps.same rfl | exact GlenKeeps.same rfl | rfl
      | (extract_lets +onlyGivenNames x; first | (have hx : Keeps s0 x := ?_; clear_value x; on_goal 2 => subst x) | (have hx : Keeps s0 x.1 := ?_; clear_value x; on_goal 2 => subst x) | (have hf : ∀ t, Keeps s0 t → Keeps s0 (x t) := ?_; clear_value x; on_goal 2 => subst x) | (have hf : ∀ t b, Keeps s0 t → Keeps s0 (x t b) := ?_; clear_value x; on_goal 2 => subst x) | (have hf : ∀ a b t, Keeps s0 t → Keeps s0 (x a b t) := ?_; clear_value x; on_goal 2 => subst x) | (have hf : ∀ a, Keeps s0 (x a) := ?_; clear_value x; on_goal 2 => subst x) | clear_value x)
      | (with_reducible apply Keeps.rest; first | with_reducible assumption | with_reducible exact Keeps.refl _ | with_reducible apply State.copyToRing_keeps | split)
      | (with_reducible apply Keeps.restStore; first | with_reducible assumption | with_reducible exact Keeps.refl _ | with_reducible apply State.copyToRing_keeps | split)
      | split

theorem State.copyToStream_keeps {s0 : State} {s : State} {core : Nat} {m : Cmd} {src : List SpadByte} {bad : Bool} (h_s : Keeps s0 s) : Keeps s0 (State.copyToStream s core m src bad) := by
  unfold State.copyToStream
  repeat' first
      | with_reducible assumption | with_reducible apply Keeps.nextTurn | with_reducible exact Keeps.refl _ | with_reducible apply Kept.next
      | with_reducible apply Kept.fault | with_reducible apply Keeps.foldl | with_reducible apply Keeps.foldlP | with_reducible apply hf
      | with_reducible apply State.moveBytes_keeps | with_reducible apply Keeps.onGroup | with_reducible apply State.finishCmd_keeps
      | with_reducible apply State.countCopy_keeps | with_reducible apply State.onCmd_keeps
      | (with_reducible apply Keeps.restPlat; with_reducible assumption) | intro _ | with_reducible apply CoreKeeps.onTeam
      | with_reducible apply CoreKeeps.onStashLine | exact CoreKeeps.same rfl | exact GlenKeeps.same rfl | rfl
      | (extract_lets +onlyGivenNames x; first | (have hx : Keeps s0 x := ?_; clear_value x; on_goal 2 => subst x) | (have hx : Keeps s0 x.1 := ?_; clear_value x; on_goal 2 => subst x) | (have hf : ∀ t, Keeps s0 t → Keeps s0 (x t) := ?_; clear_value x; on_goal 2 => subst x) | (have hf : ∀ t b, Keeps s0 t → Keeps s0 (x t b) := ?_; clear_value x; on_goal 2 => subst x) | (have hf : ∀ a b t, Keeps s0 t → Keeps s0 (x a b t) := ?_; clear_value x; on_goal 2 => subst x) | (have hf : ∀ a, Keeps s0 (x a) := ?_; clear_value x; on_goal 2 => subst x) | clear_value x)
      | (with_reducible apply Keeps.rest; first | with_reducible assumption | with_reducible exact Keeps.refl _ | with_reducible apply State.moveBytes_keeps | with_reducible apply Keeps.onGroup | with_reducible apply State.finishCmd_keeps | with_reducible apply State.countCopy_keeps | with_reducible apply State.onCmd_keeps | split)
      | (with_reducible apply Keeps.restStore; first | with_reducible assumption | with_reducible exact Keeps.refl _ | with_reducible apply State.moveBytes_keeps | with_reducible apply Keeps.onGroup | with_reducible apply State.finishCmd_keeps | with_reducible apply State.countCopy_keeps | with_reducible apply State.onCmd_keeps | split)
      | split

theorem State.completeCopy_keeps {s0 : State} {s : State} {core : Nat} {m : Cmd} (h_s : Keeps s0 s) : Keeps s0 (State.completeCopy s core m) := by
  unfold State.completeCopy
  repeat' first
      | with_reducible assumption | with_reducible apply Keeps.nextTurn | with_reducible exact Keeps.refl _ | with_reducible apply Kept.next
      | with_reducible apply Kept.fault | with_reducible apply Keeps.foldl | with_reducible apply Keeps.foldlP | with_reducible apply hf
      | with_reducible apply State.cmdFail_keeps | with_reducible apply State.recallAll_keeps | with_reducible apply State.gather_keeps
      | with_reducible apply State.copyToStream_keeps | with_reducible apply State.copyToRings_keeps | with_reducible apply State.moveBytes_keeps
      | with_reducible apply State.finishCmd_keeps | with_reducible apply State.countCopy_keeps
      | (with_reducible apply Keeps.restPlat; with_reducible assumption) | intro _ | with_reducible apply CoreKeeps.onTeam
      | with_reducible apply CoreKeeps.onStashLine | exact CoreKeeps.same rfl | exact GlenKeeps.same rfl | rfl
      | (extract_lets +onlyGivenNames x; first | (have hx : Keeps s0 x := ?_; clear_value x; on_goal 2 => subst x) | (have hx : Keeps s0 x.1 := ?_; clear_value x; on_goal 2 => subst x) | (have hf : ∀ t, Keeps s0 t → Keeps s0 (x t) := ?_; clear_value x; on_goal 2 => subst x) | (have hf : ∀ t b, Keeps s0 t → Keeps s0 (x t b) := ?_; clear_value x; on_goal 2 => subst x) | (have hf : ∀ a b t, Keeps s0 t → Keeps s0 (x a b t) := ?_; clear_value x; on_goal 2 => subst x) | (have hf : ∀ a, Keeps s0 (x a) := ?_; clear_value x; on_goal 2 => subst x) | clear_value x)
      | (with_reducible apply Keeps.rest; first | with_reducible assumption | with_reducible exact Keeps.refl _ | with_reducible apply State.cmdFail_keeps | with_reducible apply State.recallAll_keeps | with_reducible apply State.gather_keeps | with_reducible apply State.copyToStream_keeps | with_reducible apply State.copyToRings_keeps | with_reducible apply State.moveBytes_keeps | with_reducible apply State.finishCmd_keeps | with_reducible apply State.countCopy_keeps | split)
      | (with_reducible apply Keeps.restStore; first | with_reducible assumption | with_reducible exact Keeps.refl _ | with_reducible apply State.cmdFail_keeps | with_reducible apply State.recallAll_keeps | with_reducible apply State.gather_keeps | with_reducible apply State.copyToStream_keeps | with_reducible apply State.copyToRings_keeps | with_reducible apply State.moveBytes_keeps | with_reducible apply State.finishCmd_keeps | with_reducible apply State.countCopy_keeps | split)
      | split

theorem execCopyComplete_keeps {s0 : State} {core : Nat} {cmd : Nat} {s : State} (h_s : Keeps s0 s) : Kept s0 (execCopyComplete core cmd s) := by
  unfold execCopyComplete
  repeat' first
      | with_reducible assumption | with_reducible apply Keeps.nextTurn | with_reducible exact Keeps.refl _ | with_reducible apply Kept.next
      | with_reducible apply Kept.fault | with_reducible apply Keeps.foldl | with_reducible apply Keeps.foldlP | with_reducible apply hf
      | with_reducible apply State.completeCopy_keeps | (with_reducible apply Keeps.restPlat; with_reducible assumption) | intro _
      | with_reducible apply CoreKeeps.onTeam | with_reducible apply CoreKeeps.onStashLine | exact CoreKeeps.same rfl | exact GlenKeeps.same rfl | rfl
      | (extract_lets +onlyGivenNames x; first | (have hx : Keeps s0 x := ?_; clear_value x; on_goal 2 => subst x) | (have hx : Keeps s0 x.1 := ?_; clear_value x; on_goal 2 => subst x) | (have hf : ∀ t, Keeps s0 t → Keeps s0 (x t) := ?_; clear_value x; on_goal 2 => subst x) | (have hf : ∀ t b, Keeps s0 t → Keeps s0 (x t b) := ?_; clear_value x; on_goal 2 => subst x) | (have hf : ∀ a b t, Keeps s0 t → Keeps s0 (x a b t) := ?_; clear_value x; on_goal 2 => subst x) | (have hf : ∀ a, Keeps s0 (x a) := ?_; clear_value x; on_goal 2 => subst x) | clear_value x)
      | (with_reducible apply Keeps.rest; first | with_reducible assumption | with_reducible exact Keeps.refl _ | with_reducible apply State.completeCopy_keeps | split)
      | (with_reducible apply Keeps.restStore; first | with_reducible assumption | with_reducible exact Keeps.refl _ | with_reducible apply State.completeCopy_keeps | split)
      | split

theorem execLineRelease_keeps {s0 : State} {core : Nat} {cmd : Nat} {line : Nat} {s : State} (h_s : Keeps s0 s) : Kept s0 (execLineRelease core cmd line s) := by
  unfold execLineRelease
  repeat' first
      | with_reducible assumption | with_reducible apply Keeps.nextTurn | with_reducible exact Keeps.refl _ | with_reducible apply Kept.next
      | with_reducible apply Kept.fault | with_reducible apply Keeps.foldl | with_reducible apply Keeps.foldlP | with_reducible apply hf
      | with_reducible apply State.recallAll_keeps | with_reducible apply State.moveBytes_keeps | with_reducible apply Keeps.onStore
      | with_reducible apply State.onCmd_keeps | (with_reducible apply Keeps.restPlat; with_reducible assumption) | intro _
      | with_reducible apply CoreKeeps.onTeam | with_reducible apply CoreKeeps.onStashLine | exact CoreKeeps.same rfl | exact GlenKeeps.same rfl | rfl
      | (extract_lets +onlyGivenNames x; first | (have hx : Keeps s0 x := ?_; clear_value x; on_goal 2 => subst x) | (have hx : Keeps s0 x.1 := ?_; clear_value x; on_goal 2 => subst x) | (have hf : ∀ t, Keeps s0 t → Keeps s0 (x t) := ?_; clear_value x; on_goal 2 => subst x) | (have hf : ∀ t b, Keeps s0 t → Keeps s0 (x t b) := ?_; clear_value x; on_goal 2 => subst x) | (have hf : ∀ a b t, Keeps s0 t → Keeps s0 (x a b t) := ?_; clear_value x; on_goal 2 => subst x) | (have hf : ∀ a, Keeps s0 (x a) := ?_; clear_value x; on_goal 2 => subst x) | clear_value x)
      | (with_reducible apply Keeps.rest; first | with_reducible assumption | with_reducible exact Keeps.refl _ | with_reducible apply State.recallAll_keeps | with_reducible apply State.moveBytes_keeps | with_reducible apply Keeps.onStore | with_reducible apply State.onCmd_keeps | split)
      | (with_reducible apply Keeps.restStore; first | with_reducible assumption | with_reducible exact Keeps.refl _ | with_reducible apply State.recallAll_keeps | with_reducible apply State.moveBytes_keeps | with_reducible apply Keeps.onStore | with_reducible apply State.onCmd_keeps | split)
      | split

theorem State.onTiles_keeps {s0 s : State} {core : Nat} {f : CoreStore → CoreStore} (h_s : Keeps s0 s) (h_f : ∀ t, (f t).spad = t.spad) :
    Keeps s0 (State.onTiles s core f) := by
  unfold State.onTiles
  exact h_s.onCore _ (fun c => .same (h_f c.store))

theorem State.cmdPoison_keeps {s0 : State} {s : State} {core : Nat} {d : Cmd} (h_s : Keeps s0 s) : Keeps s0 (State.cmdPoison s core d) := by
  unfold State.cmdPoison
  repeat' first
      | with_reducible assumption | with_reducible apply Keeps.nextTurn | with_reducible exact Keeps.refl _ | with_reducible apply Kept.next
      | with_reducible apply Kept.fault | with_reducible apply Keeps.foldl | with_reducible apply Keeps.foldlP | with_reducible apply hf
      | with_reducible apply State.endTeam_keeps | with_reducible apply State.endCmd_keeps | with_reducible apply State.cmdRecord_keeps
      | (with_reducible apply Keeps.restPlat; with_reducible assumption) | intro _ | with_reducible apply CoreKeeps.onTeam
      | with_reducible apply CoreKeeps.onStashLine | exact CoreKeeps.same rfl | exact GlenKeeps.same rfl | rfl
      | (extract_lets +onlyGivenNames x; first | (have hx : Keeps s0 x := ?_; clear_value x; on_goal 2 => subst x) | (have hx : Keeps s0 x.1 := ?_; clear_value x; on_goal 2 => subst x) | (have hf : ∀ t, Keeps s0 t → Keeps s0 (x t) := ?_; clear_value x; on_goal 2 => subst x) | (have hf : ∀ t b, Keeps s0 t → Keeps s0 (x t b) := ?_; clear_value x; on_goal 2 => subst x) | (have hf : ∀ a b t, Keeps s0 t → Keeps s0 (x a b t) := ?_; clear_value x; on_goal 2 => subst x) | (have hf : ∀ a, Keeps s0 (x a) := ?_; clear_value x; on_goal 2 => subst x) | clear_value x)
      | (with_reducible apply Keeps.rest; first | with_reducible assumption | with_reducible exact Keeps.refl _ | with_reducible apply State.endTeam_keeps | with_reducible apply State.endCmd_keeps | with_reducible apply State.cmdRecord_keeps | split)
      | (with_reducible apply Keeps.restStore; first | with_reducible assumption | with_reducible exact Keeps.refl _ | with_reducible apply State.endTeam_keeps | with_reducible apply State.endCmd_keeps | with_reducible apply State.cmdRecord_keeps | split)
      | split

theorem State.claimFor_keeps {s0 : State} {s : State} {core : Nat} {ring : Nat} {key : Nat} {group : Nat} {n : Nat} (h_s : Keeps s0 s) : Keeps s0 (State.claimFor s core ring key group n) := 
  State.onRing_keeps h_s

theorem State.matIssue_keeps {s0 : State} {s : State} {o : EOp} {op : Instr} {scaled : Bool} (h_s : Keeps s0 s) : Keeps s0 (State.matIssue s o op scaled) := by
  unfold State.matIssue
  repeat' first
      | with_reducible assumption | with_reducible apply Kept.next | with_reducible apply State.laneOp_keeps
      | with_reducible apply State.illegalOperand_keeps | with_reducible apply State.stopAt_keeps | with_reducible apply State.accept_keeps
      | with_reducible apply State.claimFor_keeps | intro _
      | (extract_lets +onlyGivenNames x; first | (have hx : Keeps s0 x := ?_; clear_value x; on_goal 2 => subst x) | (have hx : Keeps s0 x.1 := ?_; clear_value x; on_goal 2 => subst x) | (have hf : ∀ t, Keeps s0 t → Keeps s0 (x t) := ?_; clear_value x; on_goal 2 => subst x) | (have hf : ∀ t b, Keeps s0 t → Keeps s0 (x t b) := ?_; clear_value x; on_goal 2 => subst x) | (have hf : ∀ a b t, Keeps s0 t → Keeps s0 (x a b t) := ?_; clear_value x; on_goal 2 => subst x) | (have hf : ∀ a, Keeps s0 (x a) := ?_; clear_value x; on_goal 2 => subst x) | clear_value x)
      | split

theorem execMma_keeps {s0 : State} {o : EOp} {s : State} (h_s : Keeps s0 s) : Kept s0 (execMma o s) := 
  Kept.next (State.matIssue_keeps h_s)

theorem execMmas_keeps {s0 : State} {o : EOp} {s : State} (h_s : Keeps s0 s) : Kept s0 (execMmas o s) := 
  Kept.next (State.matIssue_keeps h_s)

theorem State.completeMat_keeps {s0 : State} {s : State} {core : Nat} {d : Cmd} {m : MatOp} (h_s : Keeps s0 s) : Keeps s0 (State.completeMat s core d m) := by
  unfold State.completeMat
  repeat' first
      | with_reducible assumption | with_reducible exact Keeps.refl _ | with_reducible apply Kept.next | with_reducible apply Kept.fault
      | with_reducible apply Keeps.foldl | with_reducible apply Keeps.foldlP | with_reducible apply hf | with_reducible apply State.cmdPoison_keeps
      | with_reducible apply State.finishCmd_keeps | with_reducible apply State.onTiles_keeps
      | (with_reducible apply Keeps.restPlat; with_reducible assumption) | intro _ | with_reducible apply CoreKeeps.onTeam
      | with_reducible apply CoreKeeps.onStashLine | exact CoreKeeps.same rfl | exact GlenKeeps.same rfl | rfl
      | (extract_lets +onlyGivenNames x; first | (have hx : Keeps s0 x := ?_; clear_value x; on_goal 2 => subst x) | (have hx : Keeps s0 x.1 := ?_; clear_value x; on_goal 2 => subst x) | (have hf : ∀ t, Keeps s0 t → Keeps s0 (x t) := ?_; clear_value x; on_goal 2 => subst x) | (have hf : ∀ t b, Keeps s0 t → Keeps s0 (x t b) := ?_; clear_value x; on_goal 2 => subst x) | (have hf : ∀ a b t, Keeps s0 t → Keeps s0 (x a b t) := ?_; clear_value x; on_goal 2 => subst x) | (have hf : ∀ a, Keeps s0 (x a) := ?_; clear_value x; on_goal 2 => subst x) | clear_value x)
      | (with_reducible apply Keeps.rest; first | with_reducible assumption | with_reducible exact Keeps.refl _ | with_reducible apply State.cmdPoison_keeps | with_reducible apply State.finishCmd_keeps | with_reducible apply State.onTiles_keeps | split)
      | (with_reducible apply Keeps.restStore; first | with_reducible assumption | with_reducible exact Keeps.refl _ | with_reducible apply State.cmdPoison_keeps | with_reducible apply State.finishCmd_keeps | with_reducible apply State.onTiles_keeps | split)
      | split

theorem State.awaitFlags_keeps {s0 : State} {s : State} {d : Cmd} (h_s : Keeps s0 s) : Keeps s0 (State.awaitFlags s d) := by
  unfold State.awaitFlags
  repeat' first
      | with_reducible assumption | with_reducible apply Keeps.nextTurn | with_reducible exact Keeps.refl _ | with_reducible apply Kept.next
      | with_reducible apply Kept.fault | with_reducible apply Keeps.foldl | with_reducible apply Keeps.foldlP | with_reducible apply hf
      | with_reducible apply Keeps.onGroup | (with_reducible apply Keeps.restPlat; with_reducible assumption) | intro _
      | with_reducible apply CoreKeeps.onTeam | with_reducible apply CoreKeeps.onStashLine | exact CoreKeeps.same rfl | exact GlenKeeps.same rfl | rfl
      | (extract_lets +onlyGivenNames x; first | (have hx : Keeps s0 x := ?_; clear_value x; on_goal 2 => subst x) | (have hx : Keeps s0 x.1 := ?_; clear_value x; on_goal 2 => subst x) | (have hf : ∀ t, Keeps s0 t → Keeps s0 (x t) := ?_; clear_value x; on_goal 2 => subst x) | (have hf : ∀ t b, Keeps s0 t → Keeps s0 (x t b) := ?_; clear_value x; on_goal 2 => subst x) | (have hf : ∀ a b t, Keeps s0 t → Keeps s0 (x a b t) := ?_; clear_value x; on_goal 2 => subst x) | (have hf : ∀ a, Keeps s0 (x a) := ?_; clear_value x; on_goal 2 => subst x) | clear_value x)
      | (with_reducible apply Keeps.rest; first | with_reducible assumption | with_reducible exact Keeps.refl _ | with_reducible apply Keeps.onGroup | split)
      | (with_reducible apply Keeps.restStore; first | with_reducible assumption | with_reducible exact Keeps.refl _ | with_reducible apply Keeps.onGroup | split)
      | split

theorem State.readFlags_keeps {s0 : State} {s : State} {core : Nat} {d : Cmd} {o : ROp} (h_s : Keeps s0 s) : Keeps s0 (State.readFlags s core d o) := by
  unfold State.readFlags
  repeat' first
      | with_reducible assumption | with_reducible apply Keeps.nextTurn | with_reducible exact Keeps.refl _ | with_reducible apply Kept.next
      | with_reducible apply Kept.fault | with_reducible apply Keeps.foldl | with_reducible apply Keeps.foldlP | with_reducible apply hf
      | with_reducible apply Keeps.onGroup | with_reducible apply State.dropCmd_keeps
      | (with_reducible apply Keeps.restPlat; with_reducible assumption) | intro _ | with_reducible apply CoreKeeps.onTeam
      | with_reducible apply CoreKeeps.onStashLine | exact CoreKeeps.same rfl | exact GlenKeeps.same rfl | rfl
      | (extract_lets +onlyGivenNames x; first | (have hx : Keeps s0 x := ?_; clear_value x; on_goal 2 => subst x) | (have hx : Keeps s0 x.1 := ?_; clear_value x; on_goal 2 => subst x) | (have hf : ∀ t, Keeps s0 t → Keeps s0 (x t) := ?_; clear_value x; on_goal 2 => subst x) | (have hf : ∀ t b, Keeps s0 t → Keeps s0 (x t b) := ?_; clear_value x; on_goal 2 => subst x) | (have hf : ∀ a b t, Keeps s0 t → Keeps s0 (x a b t) := ?_; clear_value x; on_goal 2 => subst x) | (have hf : ∀ a, Keeps s0 (x a) := ?_; clear_value x; on_goal 2 => subst x) | clear_value x)
      | (with_reducible apply Keeps.rest; first | with_reducible assumption | with_reducible exact Keeps.refl _ | with_reducible apply Keeps.onGroup | with_reducible apply State.dropCmd_keeps | split)
      | (with_reducible apply Keeps.restStore; first | with_reducible assumption | with_reducible exact Keeps.refl _ | with_reducible apply Keeps.onGroup | with_reducible apply State.dropCmd_keeps | split)
      | split

theorem execAccflg_keeps {s0 : State} {o : ROp} {s : State} (h_s : Keeps s0 s) : Kept s0 (execAccflg o s) := by
  unfold execAccflg
  repeat' first
      | with_reducible assumption | with_reducible apply Keeps.nextTurn | with_reducible exact Keeps.refl _ | with_reducible apply Kept.next
      | with_reducible apply Kept.fault | with_reducible apply Keeps.foldl | with_reducible apply Keeps.foldlP | with_reducible apply hf
      | with_reducible apply State.laneOp_keeps | with_reducible apply State.illegalOperand_keeps | with_reducible apply State.accept_keeps
      | with_reducible apply State.awaitFlags_keeps | (with_reducible apply Keeps.restPlat; with_reducible assumption) | intro _
      | with_reducible apply CoreKeeps.onTeam | with_reducible apply CoreKeeps.onStashLine | exact CoreKeeps.same rfl | exact GlenKeeps.same rfl | rfl
      | (extract_lets +onlyGivenNames x; first | (have hx : Keeps s0 x := ?_; clear_value x; on_goal 2 => subst x) | (have hx : Keeps s0 x.1 := ?_; clear_value x; on_goal 2 => subst x) | (have hf : ∀ t, Keeps s0 t → Keeps s0 (x t) := ?_; clear_value x; on_goal 2 => subst x) | (have hf : ∀ t b, Keeps s0 t → Keeps s0 (x t b) := ?_; clear_value x; on_goal 2 => subst x) | (have hf : ∀ a b t, Keeps s0 t → Keeps s0 (x a b t) := ?_; clear_value x; on_goal 2 => subst x) | (have hf : ∀ a, Keeps s0 (x a) := ?_; clear_value x; on_goal 2 => subst x) | clear_value x)
      | (with_reducible apply Keeps.rest; first | with_reducible assumption | with_reducible exact Keeps.refl _ | with_reducible apply State.laneOp_keeps | with_reducible apply State.illegalOperand_keeps | with_reducible apply State.accept_keeps | with_reducible apply State.awaitFlags_keeps | split)
      | (with_reducible apply Keeps.restStore; first | with_reducible assumption | with_reducible exact Keeps.refl _ | with_reducible apply State.laneOp_keeps | with_reducible apply State.illegalOperand_keeps | with_reducible apply State.accept_keeps | with_reducible apply State.awaitFlags_keeps | split)
      | split

theorem execAccclr_keeps {s0 : State} {o : ROp} {s : State} (h_s : Keeps s0 s) : Kept s0 (execAccclr o s) := by
  unfold execAccclr
  repeat' first
      | with_reducible assumption | with_reducible apply Kept.next | with_reducible apply State.laneOp_keeps
      | with_reducible apply State.illegalOperand_keeps | with_reducible apply State.accept_keeps | intro _ | split

theorem State.tileIssue_keeps {s0 : State} {s : State} {site : Site} {op : Instr} {fill : Cmd → Cmd} (h_s : Keeps s0 s) : Keeps s0 (State.tileIssue s site op fill) := by
  unfold State.tileIssue
  repeat' first
      | with_reducible assumption | with_reducible apply Kept.next | with_reducible apply State.laneOp_keeps
      | with_reducible apply State.illegalOperand_keeps | with_reducible apply State.stopAt_keeps | with_reducible apply State.accept_keeps | intro _
      | (extract_lets +onlyGivenNames x; first | (have hx : Keeps s0 x := ?_; clear_value x; on_goal 2 => subst x) | (have hx : Keeps s0 x.1 := ?_; clear_value x; on_goal 2 => subst x) | (have hf : ∀ t, Keeps s0 t → Keeps s0 (x t) := ?_; clear_value x; on_goal 2 => subst x) | (have hf : ∀ t b, Keeps s0 t → Keeps s0 (x t b) := ?_; clear_value x; on_goal 2 => subst x) | (have hf : ∀ a b t, Keeps s0 t → Keeps s0 (x a b t) := ?_; clear_value x; on_goal 2 => subst x) | (have hf : ∀ a, Keeps s0 (x a) := ?_; clear_value x; on_goal 2 => subst x) | clear_value x)
      | split

theorem execTzero_keeps {s0 : State} {o : ROp} {s : State} (h_s : Keeps s0 s) : Kept s0 (execTzero o s) := 
  Kept.next (State.tileIssue_keeps h_s)

theorem execTcpy_keeps {s0 : State} {o : EOp} {s : State} (h_s : Keeps s0 s) : Kept s0 (execTcpy o s) := 
  Kept.next (State.tileIssue_keeps h_s)

theorem execTadd_keeps {s0 : State} {o : EOp} {s : State} (h_s : Keeps s0 s) : Kept s0 (execTadd o s) := 
  Kept.next (State.tileIssue_keeps h_s)

theorem execTsub_keeps {s0 : State} {o : EOp} {s : State} (h_s : Keeps s0 s) : Kept s0 (execTsub o s) := 
  Kept.next (State.tileIssue_keeps h_s)

theorem execTmul_keeps {s0 : State} {o : EOp} {s : State} (h_s : Keeps s0 s) : Kept s0 (execTmul o s) := 
  Kept.next (State.tileIssue_keeps h_s)

theorem execTfma_keeps {s0 : State} {o : EOp} {s : State} (h_s : Keeps s0 s) : Kept s0 (execTfma o s) := 
  Kept.next (State.tileIssue_keeps h_s)

theorem execTmax_keeps {s0 : State} {o : EOp} {s : State} (h_s : Keeps s0 s) : Kept s0 (execTmax o s) := 
  Kept.next (State.tileIssue_keeps h_s)

theorem execTexp_keeps {s0 : State} {o : EOp} {s : State} (h_s : Keeps s0 s) : Kept s0 (execTexp o s) := 
  Kept.next (State.tileIssue_keeps h_s)

theorem execTcvt_keeps {s0 : State} {o : EOp} {s : State} (h_s : Keeps s0 s) : Kept s0 (execTcvt o s) := 
  Kept.next (State.tileIssue_keeps h_s)

theorem execTscr_keeps {s0 : State} {o : EOp} {s : State} (h_s : Keeps s0 s) : Kept s0 (execTscr o s) := 
  Kept.next (State.tileIssue_keeps h_s)

theorem execTscc_keeps {s0 : State} {o : EOp} {s : State} (h_s : Keeps s0 s) : Kept s0 (execTscc o s) := 
  Kept.next (State.tileIssue_keeps h_s)

theorem execTredr_keeps {s0 : State} {o : EOp} {s : State} (h_s : Keeps s0 s) : Kept s0 (execTredr o s) := 
  Kept.next (State.tileIssue_keeps h_s)

theorem execTredc_keeps {s0 : State} {o : EOp} {s : State} (h_s : Keeps s0 s) : Kept s0 (execTredc o s) := 
  Kept.next (State.tileIssue_keeps h_s)

theorem execTrotr_keeps {s0 : State} {o : EOp} {s : State} (h_s : Keeps s0 s) : Kept s0 (execTrotr o s) := 
  Kept.next (State.tileIssue_keeps h_s)

theorem execTrotc_keeps {s0 : State} {o : EOp} {s : State} (h_s : Keeps s0 s) : Kept s0 (execTrotc o s) := 
  Kept.next (State.tileIssue_keeps h_s)

theorem execTbcr_keeps {s0 : State} {o : EOp} {s : State} (h_s : Keeps s0 s) : Kept s0 (execTbcr o s) := 
  Kept.next (State.tileIssue_keeps h_s)

theorem execTbcc_keeps {s0 : State} {o : EOp} {s : State} (h_s : Keeps s0 s) : Kept s0 (execTbcc o s) := 
  Kept.next (State.tileIssue_keeps h_s)

theorem State.tileMove_keeps {s0 : State} {s : State} {o : EOp} {op : Instr} {load : Bool} (h_s : Keeps s0 s) : Keeps s0 (State.tileMove s o op load) := by
  unfold State.tileMove
  repeat' first
      | with_reducible assumption | with_reducible apply Kept.next | with_reducible apply State.laneOp_keeps
      | with_reducible apply State.illegalOperand_keeps | with_reducible apply State.waitFor_keeps | with_reducible apply State.tileIssue_keeps
      | intro _
      | (extract_lets +onlyGivenNames x; first | (have hx : Keeps s0 x := ?_; clear_value x; on_goal 2 => subst x) | (have hx : Keeps s0 x.1 := ?_; clear_value x; on_goal 2 => subst x) | (have hf : ∀ t, Keeps s0 t → Keeps s0 (x t) := ?_; clear_value x; on_goal 2 => subst x) | (have hf : ∀ t b, Keeps s0 t → Keeps s0 (x t b) := ?_; clear_value x; on_goal 2 => subst x) | (have hf : ∀ a b t, Keeps s0 t → Keeps s0 (x a b t) := ?_; clear_value x; on_goal 2 => subst x) | (have hf : ∀ a, Keeps s0 (x a) := ?_; clear_value x; on_goal 2 => subst x) | clear_value x)
      | split

theorem execTld_keeps {s0 : State} {o : EOp} {s : State} (h_s : Keeps s0 s) : Kept s0 (execTld o s) := 
  Kept.next (State.tileMove_keeps h_s)

theorem execTst_keeps {s0 : State} {o : EOp} {s : State} (h_s : Keeps s0 s) : Kept s0 (execTst o s) := 
  Kept.next (State.tileMove_keeps h_s)

theorem CoreStore.setElems_spad (k : CoreStore) (es : List (Nat × Word × Bool × Bool)) : (k.setElems es).spad = k.spad := by
  unfold CoreStore.setElems
  rfl

theorem State.completeTile_keeps {s0 s : State} {core : Nat} {d : Cmd} (h_s : Keeps s0 s) : Keeps s0 (State.completeTile s core d) := by
  unfold State.completeTile
  extract_lets c t
  split
  · exact State.cmdPoison_keeps h_s
  · split
    · exact State.finishCmd_keeps (State.onTiles_keeps h_s (fun _ => rfl))
    · exact State.finishCmd_keeps (State.onTiles_keeps h_s (fun _ => CoreStore.setElems_spad _ _))
    · exact State.finishCmd_keeps (State.spadWrite_keeps h_s)
    · exact State.finishCmd_keeps (State.onTiles_keeps h_s (fun _ => CoreStore.setElems_spad _ _))

theorem execTileOpComplete_keeps {s0 : State} {core : Nat} {cmd : Nat} {s : State} (h_s : Keeps s0 s) : Kept s0 (execTileOpComplete core cmd s) := by
  unfold execTileOpComplete
  repeat' first
      | with_reducible assumption | with_reducible apply Keeps.nextTurn | with_reducible exact Keeps.refl _ | with_reducible apply Kept.next
      | with_reducible apply Kept.fault | with_reducible apply Keeps.foldl | with_reducible apply Keeps.foldlP | with_reducible apply hf
      | with_reducible apply State.completeTile_keeps | (with_reducible apply Keeps.restPlat; with_reducible assumption) | intro _
      | with_reducible apply CoreKeeps.onTeam | with_reducible apply CoreKeeps.onStashLine | exact CoreKeeps.same rfl | exact GlenKeeps.same rfl | rfl
      | (extract_lets +onlyGivenNames x; first | (have hx : Keeps s0 x := ?_; clear_value x; on_goal 2 => subst x) | (have hx : Keeps s0 x.1 := ?_; clear_value x; on_goal 2 => subst x) | (have hf : ∀ t, Keeps s0 t → Keeps s0 (x t) := ?_; clear_value x; on_goal 2 => subst x) | (have hf : ∀ t b, Keeps s0 t → Keeps s0 (x t b) := ?_; clear_value x; on_goal 2 => subst x) | (have hf : ∀ a b t, Keeps s0 t → Keeps s0 (x a b t) := ?_; clear_value x; on_goal 2 => subst x) | (have hf : ∀ a, Keeps s0 (x a) := ?_; clear_value x; on_goal 2 => subst x) | clear_value x)
      | (with_reducible apply Keeps.rest; first | with_reducible assumption | with_reducible exact Keeps.refl _ | with_reducible apply State.completeTile_keeps | split)
      | (with_reducible apply Keeps.restStore; first | with_reducible assumption | with_reducible exact Keeps.refl _ | with_reducible apply State.completeTile_keeps | split)
      | split

theorem State.flushStashes_keeps {s0 : State} {s : State} (h_s : Keeps s0 s) : Keeps s0 (State.flushStashes s) := by
  unfold State.flushStashes
  repeat' first
      | with_reducible assumption | with_reducible apply Kept.next | with_reducible apply Keeps.foldl | with_reducible apply Keeps.foldlP
      | with_reducible apply State.flushWindow_keeps | intro _

theorem State.dieWrite_keeps {s0 : State} {s : State} {bs : List (Nat × Byte × Bool)} (h_s : Keeps s0 s) : Keeps s0 (State.dieWrite s bs) := 
  State.engineWrite_keeps h_s

theorem State.seqArrive_keeps {s0 : State} {s : State} {core : Nat} {d : Cmd} (h_s : Keeps s0 s) : Keeps s0 (State.seqArrive s core d) := by
  unfold State.seqArrive
  repeat' first
      | with_reducible assumption | with_reducible apply Keeps.nextTurn | with_reducible exact Keeps.refl _ | with_reducible apply Kept.next
      | with_reducible apply Kept.fault | with_reducible apply Keeps.foldl | with_reducible apply Keeps.foldlP | with_reducible apply hf
      | with_reducible apply State.cmdFail_keeps | with_reducible apply State.onCmd_keeps | with_reducible apply Keeps.onStore
      | (with_reducible apply Keeps.restPlat; with_reducible assumption) | intro _ | with_reducible apply CoreKeeps.onTeam
      | with_reducible apply CoreKeeps.onStashLine | exact CoreKeeps.same rfl | exact GlenKeeps.same rfl | rfl
      | (extract_lets +onlyGivenNames x; first | (have hx : Keeps s0 x := ?_; clear_value x; on_goal 2 => subst x) | (have hx : Keeps s0 x.1 := ?_; clear_value x; on_goal 2 => subst x) | (have hf : ∀ t, Keeps s0 t → Keeps s0 (x t) := ?_; clear_value x; on_goal 2 => subst x) | (have hf : ∀ t b, Keeps s0 t → Keeps s0 (x t b) := ?_; clear_value x; on_goal 2 => subst x) | (have hf : ∀ a b t, Keeps s0 t → Keeps s0 (x a b t) := ?_; clear_value x; on_goal 2 => subst x) | (have hf : ∀ a, Keeps s0 (x a) := ?_; clear_value x; on_goal 2 => subst x) | clear_value x)
      | (with_reducible apply Keeps.rest; first | with_reducible assumption | with_reducible exact Keeps.refl _ | with_reducible apply State.cmdFail_keeps | with_reducible apply State.onCmd_keeps | with_reducible apply Keeps.onStore | split)
      | (with_reducible apply Keeps.restStore; first | with_reducible assumption | with_reducible exact Keeps.refl _ | with_reducible apply State.cmdFail_keeps | with_reducible apply State.onCmd_keeps | with_reducible apply Keeps.onStore | split)
      | split

theorem State.seqBad_keeps {s0 : State} {s : State} {core : Nat} {d : Cmd} (h_s : Keeps s0 s) : Keeps s0 (State.seqBad s core d) := by
  unfold State.seqBad
  repeat' first
      | with_reducible assumption | with_reducible apply Keeps.nextTurn | with_reducible exact Keeps.refl _ | with_reducible apply Kept.next
      | with_reducible apply Kept.fault | with_reducible apply Keeps.foldl | with_reducible apply Keeps.foldlP | with_reducible apply hf
      | with_reducible apply State.endCmd_keeps | with_reducible apply State.malformed_keeps
      | (with_reducible apply Keeps.restPlat; with_reducible assumption) | intro _ | with_reducible apply CoreKeeps.onTeam
      | with_reducible apply CoreKeeps.onStashLine | exact CoreKeeps.same rfl | exact GlenKeeps.same rfl | rfl
      | (extract_lets +onlyGivenNames x; first | (have hx : Keeps s0 x := ?_; clear_value x; on_goal 2 => subst x) | (have hx : Keeps s0 x.1 := ?_; clear_value x; on_goal 2 => subst x) | (have hf : ∀ t, Keeps s0 t → Keeps s0 (x t) := ?_; clear_value x; on_goal 2 => subst x) | (have hf : ∀ t b, Keeps s0 t → Keeps s0 (x t b) := ?_; clear_value x; on_goal 2 => subst x) | (have hf : ∀ a b t, Keeps s0 t → Keeps s0 (x a b t) := ?_; clear_value x; on_goal 2 => subst x) | (have hf : ∀ a, Keeps s0 (x a) := ?_; clear_value x; on_goal 2 => subst x) | clear_value x)
      | (with_reducible apply Keeps.rest; first | with_reducible assumption | with_reducible exact Keeps.refl _ | with_reducible apply State.endCmd_keeps | with_reducible apply State.malformed_keeps | split)
      | (with_reducible apply Keeps.restStore; first | with_reducible assumption | with_reducible exact Keeps.refl _ | with_reducible apply State.endCmd_keeps | with_reducible apply State.malformed_keeps | split)
      | split

theorem State.grantDie_keeps {s0 : State} {s : State} {core : Nat} {d : Cmd} {out : Seq → Except EFail SeqOut} (h_s : Keeps s0 s) : Keeps s0 (State.grantDie s core d out) := by
  unfold State.grantDie
  repeat' first
      | with_reducible assumption | with_reducible apply Keeps.nextTurn | with_reducible exact Keeps.refl _ | with_reducible apply Kept.next
      | with_reducible apply Kept.fault | with_reducible apply Keeps.foldl | with_reducible apply Keeps.foldlP | with_reducible apply hf
      | with_reducible apply State.flushStashes_keeps | with_reducible apply State.seqBad_keeps | with_reducible apply State.cmdFail_keeps
      | with_reducible apply State.onCmd_keeps | with_reducible apply Keeps.onStore | with_reducible apply State.dieWrite_keeps
      | (with_reducible apply Keeps.restPlat; with_reducible assumption) | intro _ | with_reducible apply CoreKeeps.onTeam
      | with_reducible apply CoreKeeps.onStashLine | exact CoreKeeps.same rfl | exact GlenKeeps.same rfl | rfl
      | (extract_lets +onlyGivenNames x; first | (have hx : Keeps s0 x := ?_; clear_value x; on_goal 2 => subst x) | (have hx : Keeps s0 x.1 := ?_; clear_value x; on_goal 2 => subst x) | (have hf : ∀ t, Keeps s0 t → Keeps s0 (x t) := ?_; clear_value x; on_goal 2 => subst x) | (have hf : ∀ t b, Keeps s0 t → Keeps s0 (x t b) := ?_; clear_value x; on_goal 2 => subst x) | (have hf : ∀ a b t, Keeps s0 t → Keeps s0 (x a b t) := ?_; clear_value x; on_goal 2 => subst x) | (have hf : ∀ a, Keeps s0 (x a) := ?_; clear_value x; on_goal 2 => subst x) | clear_value x)
      | (with_reducible apply Keeps.rest; first | with_reducible assumption | with_reducible exact Keeps.refl _ | with_reducible apply State.flushStashes_keeps | with_reducible apply State.seqBad_keeps | with_reducible apply State.cmdFail_keeps | with_reducible apply State.onCmd_keeps | with_reducible apply Keeps.onStore | with_reducible apply State.dieWrite_keeps | split)
      | (with_reducible apply Keeps.restStore; first | with_reducible assumption | with_reducible exact Keeps.refl _ | with_reducible apply State.flushStashes_keeps | with_reducible apply State.seqBad_keeps | with_reducible apply State.cmdFail_keeps | with_reducible apply State.onCmd_keeps | with_reducible apply Keeps.onStore | with_reducible apply State.dieWrite_keeps | split)
      | split

theorem execAttn_keeps {s0 : State} {o : EOp} {s : State} (h_s : Keeps s0 s) : Kept s0 (execAttn o s) := by
  unfold execAttn
  repeat' first
      | with_reducible assumption | with_reducible apply Kept.next | with_reducible apply State.laneOp_keeps
      | with_reducible apply State.illegalOperand_keeps | with_reducible apply State.accept_keeps | with_reducible apply State.seqArrive_keeps
      | with_reducible apply State.claimFor_keeps | intro _
      | (extract_lets +onlyGivenNames x; first | (have hx : Keeps s0 x := ?_; clear_value x; on_goal 2 => subst x) | (have hx : Keeps s0 x.1 := ?_; clear_value x; on_goal 2 => subst x) | (have hf : ∀ t, Keeps s0 t → Keeps s0 (x t) := ?_; clear_value x; on_goal 2 => subst x) | (have hf : ∀ t b, Keeps s0 t → Keeps s0 (x t b) := ?_; clear_value x; on_goal 2 => subst x) | (have hf : ∀ a b t, Keeps s0 t → Keeps s0 (x a b t) := ?_; clear_value x; on_goal 2 => subst x) | (have hf : ∀ a, Keeps s0 (x a) := ?_; clear_value x; on_goal 2 => subst x) | clear_value x)
      | split

theorem State.grantAttn_keeps {s0 : State} {s : State} {core : Nat} {d : Cmd} {m : AttnOp} (h_s : Keeps s0 s) : Keeps s0 (State.grantAttn s core d m) := by
  unfold State.grantAttn
  repeat' first
      | with_reducible assumption | with_reducible apply Keeps.nextTurn | with_reducible exact Keeps.refl _ | with_reducible apply Kept.next
      | with_reducible apply Kept.fault | with_reducible apply Keeps.foldl | with_reducible apply Keeps.foldlP | with_reducible apply hf
      | with_reducible apply State.flushStashes_keeps | with_reducible apply State.seqBad_keeps | with_reducible apply State.cmdFail_keeps
      | with_reducible apply Keeps.onStore | with_reducible apply State.dieWrite_keeps | with_reducible apply State.own_keeps
      | with_reducible apply State.onCmd_keeps | (with_reducible apply Keeps.restPlat; with_reducible assumption) | intro _
      | with_reducible apply CoreKeeps.onTeam | with_reducible apply CoreKeeps.onStashLine | exact CoreKeeps.same rfl | exact GlenKeeps.same rfl | rfl
      | (extract_lets +onlyGivenNames x; first | (have hx : Keeps s0 x := ?_; clear_value x; on_goal 2 => subst x) | (have hx : Keeps s0 x.1 := ?_; clear_value x; on_goal 2 => subst x) | (have hf : ∀ t, Keeps s0 t → Keeps s0 (x t) := ?_; clear_value x; on_goal 2 => subst x) | (have hf : ∀ t b, Keeps s0 t → Keeps s0 (x t b) := ?_; clear_value x; on_goal 2 => subst x) | (have hf : ∀ a b t, Keeps s0 t → Keeps s0 (x a b t) := ?_; clear_value x; on_goal 2 => subst x) | (have hf : ∀ a, Keeps s0 (x a) := ?_; clear_value x; on_goal 2 => subst x) | clear_value x)
      | (with_reducible apply Keeps.rest; first | with_reducible assumption | with_reducible exact Keeps.refl _ | with_reducible apply State.flushStashes_keeps | with_reducible apply State.seqBad_keeps | with_reducible apply State.cmdFail_keeps | with_reducible apply Keeps.onStore | with_reducible apply State.dieWrite_keeps | with_reducible apply State.own_keeps | with_reducible apply State.onCmd_keeps | split)
      | (with_reducible apply Keeps.restStore; first | with_reducible assumption | with_reducible exact Keeps.refl _ | with_reducible apply State.flushStashes_keeps | with_reducible apply State.seqBad_keeps | with_reducible apply State.cmdFail_keeps | with_reducible apply Keeps.onStore | with_reducible apply State.dieWrite_keeps | with_reducible apply State.own_keeps | with_reducible apply State.onCmd_keeps | split)
      | split

theorem execSequenceClaimGrant_keeps {s0 : State} {core : Nat} {cmd : Nat} {s : State} (h_s : Keeps s0 s) : Kept s0 (execSequenceClaimGrant core cmd s) := by
  unfold execSequenceClaimGrant
  repeat' first
      | with_reducible assumption | with_reducible apply Keeps.nextTurn | with_reducible exact Keeps.refl _ | with_reducible apply Kept.next
      | with_reducible apply Kept.fault | with_reducible apply Keeps.foldl | with_reducible apply Keeps.foldlP | with_reducible apply hf
      | with_reducible apply State.grantAttn_keeps | with_reducible apply State.grantDie_keeps | with_reducible apply State.flushStashes_keeps
      | (with_reducible apply Keeps.restPlat; with_reducible assumption) | intro _ | with_reducible apply CoreKeeps.onTeam
      | with_reducible apply CoreKeeps.onStashLine | exact CoreKeeps.same rfl | exact GlenKeeps.same rfl | rfl
      | (extract_lets +onlyGivenNames x; first | (have hx : Keeps s0 x := ?_; clear_value x; on_goal 2 => subst x) | (have hx : Keeps s0 x.1 := ?_; clear_value x; on_goal 2 => subst x) | (have hf : ∀ t, Keeps s0 t → Keeps s0 (x t) := ?_; clear_value x; on_goal 2 => subst x) | (have hf : ∀ t b, Keeps s0 t → Keeps s0 (x t b) := ?_; clear_value x; on_goal 2 => subst x) | (have hf : ∀ a b t, Keeps s0 t → Keeps s0 (x a b t) := ?_; clear_value x; on_goal 2 => subst x) | (have hf : ∀ a, Keeps s0 (x a) := ?_; clear_value x; on_goal 2 => subst x) | clear_value x)
      | (with_reducible apply Keeps.rest; first | with_reducible assumption | with_reducible exact Keeps.refl _ | with_reducible apply State.grantAttn_keeps | with_reducible apply State.grantDie_keeps | with_reducible apply State.flushStashes_keeps | split)
      | (with_reducible apply Keeps.restStore; first | with_reducible assumption | with_reducible exact Keeps.refl _ | with_reducible apply State.grantAttn_keeps | with_reducible apply State.grantDie_keeps | with_reducible apply State.flushStashes_keeps | split)
      | split

theorem State.completeAttn_keeps {s0 : State} {s : State} {core : Nat} {d : Cmd} {m : AttnOp} (h_s : Keeps s0 s) : Keeps s0 (State.completeAttn s core d m) := by
  unfold State.completeAttn
  repeat' first
      | with_reducible assumption | with_reducible exact Keeps.refl _ | with_reducible apply Kept.next | with_reducible apply Kept.fault
      | with_reducible apply Keeps.foldl | with_reducible apply Keeps.foldlP | with_reducible apply hf | with_reducible apply State.flushStashes_keeps
      | with_reducible apply State.cmdFail_keeps | with_reducible apply State.finishCmd_keeps | with_reducible apply State.dieWrite_keeps
      | with_reducible apply State.onTiles_keeps | (with_reducible apply Keeps.restPlat; with_reducible assumption) | intro _
      | with_reducible apply CoreKeeps.onTeam | with_reducible apply CoreKeeps.onStashLine | exact CoreKeeps.same rfl | exact GlenKeeps.same rfl | rfl
      | (extract_lets +onlyGivenNames x; first | (have hx : Keeps s0 x := ?_; clear_value x; on_goal 2 => subst x) | (have hx : Keeps s0 x.1 := ?_; clear_value x; on_goal 2 => subst x) | (have hf : ∀ t, Keeps s0 t → Keeps s0 (x t) := ?_; clear_value x; on_goal 2 => subst x) | (have hf : ∀ t b, Keeps s0 t → Keeps s0 (x t b) := ?_; clear_value x; on_goal 2 => subst x) | (have hf : ∀ a b t, Keeps s0 t → Keeps s0 (x a b t) := ?_; clear_value x; on_goal 2 => subst x) | (have hf : ∀ a, Keeps s0 (x a) := ?_; clear_value x; on_goal 2 => subst x) | clear_value x)
      | (with_reducible apply Keeps.rest; first | with_reducible assumption | with_reducible exact Keeps.refl _ | with_reducible apply State.flushStashes_keeps | with_reducible apply State.cmdFail_keeps | with_reducible apply State.finishCmd_keeps | with_reducible apply State.dieWrite_keeps | with_reducible apply State.onTiles_keeps | split)
      | (with_reducible apply Keeps.restStore; first | with_reducible assumption | with_reducible exact Keeps.refl _ | with_reducible apply State.flushStashes_keeps | with_reducible apply State.cmdFail_keeps | with_reducible apply State.finishCmd_keeps | with_reducible apply State.dieWrite_keeps | with_reducible apply State.onTiles_keeps | split)
      | split

theorem execMatrixOpComplete_keeps {s0 : State} {core : Nat} {cmd : Nat} {s : State} (h_s : Keeps s0 s) : Kept s0 (execMatrixOpComplete core cmd s) := by
  unfold execMatrixOpComplete
  repeat' first
      | with_reducible assumption | with_reducible apply Kept.next | with_reducible apply State.completeMat_keeps
      | with_reducible apply State.completeAttn_keeps | split

theorem State.seqIssue_keeps {s0 : State} {s : State} {o : ROp} {op : Instr} (h_s : Keeps s0 s) : Keeps s0 (State.seqIssue s o op) := by
  unfold State.seqIssue
  repeat' first
      | with_reducible assumption | with_reducible apply Kept.next | with_reducible apply State.laneOp_keeps | with_reducible apply State.accept_keeps
      | with_reducible apply State.seqArrive_keeps | intro _

theorem execMassfold_keeps {s0 : State} {o : ROp} {s : State} (h_s : Keeps s0 s) : Kept s0 (execMassfold o s) := 
  Kept.next (State.seqIssue_keeps h_s)

theorem execKvtrunc_keeps {s0 : State} {o : ROp} {s : State} (h_s : Keeps s0 s) : Kept s0 (execKvtrunc o s) := 
  Kept.next (State.seqIssue_keeps h_s)

theorem execEvict_keeps {s0 : State} {o : EOp} {s : State} (h_s : Keeps s0 s) : Kept s0 (execEvict o s) := by
  unfold execEvict
  repeat' first
      | with_reducible assumption | with_reducible apply Kept.next | with_reducible apply State.laneOp_keeps
      | with_reducible apply State.illegalOperand_keeps | with_reducible apply State.accept_keeps | with_reducible apply State.seqArrive_keeps
      | intro _ | split

theorem execSequenceCommandComplete_keeps {s0 : State} {core : Nat} {cmd : Nat} {s : State} (h_s : Keeps s0 s) : Kept s0 (execSequenceCommandComplete core cmd s) := by
  unfold execSequenceCommandComplete
  repeat' first | with_reducible assumption | with_reducible apply Kept.next | with_reducible apply State.finishCmd_keeps | split

theorem State.collArrive_keeps {s0 : State} {s : State} {core : Nat} {d : Cmd} (h_s : Keeps s0 s) : Keeps s0 (State.collArrive s core d) := by
  unfold State.collArrive
  repeat' first
      | with_reducible assumption | with_reducible apply Keeps.nextTurn | with_reducible exact Keeps.refl _ | with_reducible apply Kept.next
      | with_reducible apply Kept.fault | with_reducible apply Keeps.foldl | with_reducible apply Keeps.foldlP | with_reducible apply hf
      | with_reducible apply State.flushStashes_keeps | with_reducible apply State.cmdFail_keeps | with_reducible apply State.finishCmd_keeps
      | with_reducible apply State.settleLines_keeps | with_reducible apply State.onCmd_keeps | with_reducible apply State.own_keeps
      | (with_reducible apply Keeps.restPlat; with_reducible assumption) | intro _ | with_reducible apply CoreKeeps.onTeam
      | with_reducible apply CoreKeeps.onStashLine | exact CoreKeeps.same rfl | exact GlenKeeps.same rfl | rfl
      | (extract_lets +onlyGivenNames x; first | (have hx : Keeps s0 x := ?_; clear_value x; on_goal 2 => subst x) | (have hx : Keeps s0 x.1 := ?_; clear_value x; on_goal 2 => subst x) | (have hf : ∀ t, Keeps s0 t → Keeps s0 (x t) := ?_; clear_value x; on_goal 2 => subst x) | (have hf : ∀ t b, Keeps s0 t → Keeps s0 (x t b) := ?_; clear_value x; on_goal 2 => subst x) | (have hf : ∀ a b t, Keeps s0 t → Keeps s0 (x a b t) := ?_; clear_value x; on_goal 2 => subst x) | (have hf : ∀ a, Keeps s0 (x a) := ?_; clear_value x; on_goal 2 => subst x) | clear_value x)
      | (with_reducible apply Keeps.rest; first | with_reducible assumption | with_reducible exact Keeps.refl _ | with_reducible apply State.flushStashes_keeps | with_reducible apply State.cmdFail_keeps | with_reducible apply State.finishCmd_keeps | with_reducible apply State.settleLines_keeps | with_reducible apply State.onCmd_keeps | with_reducible apply State.own_keeps | split)
      | (with_reducible apply Keeps.restStore; first | with_reducible assumption | with_reducible exact Keeps.refl _ | with_reducible apply State.flushStashes_keeps | with_reducible apply State.cmdFail_keeps | with_reducible apply State.finishCmd_keeps | with_reducible apply State.settleLines_keeps | with_reducible apply State.onCmd_keeps | with_reducible apply State.own_keeps | split)
      | split

theorem execColl_keeps {s0 : State} {o : EOp} {s : State} (h_s : Keeps s0 s) : Kept s0 (execColl o s) := by
  unfold execColl
  repeat' first
      | with_reducible assumption | with_reducible apply Kept.next | with_reducible apply State.laneOp_keeps | with_reducible apply State.accept_keeps
      | with_reducible apply State.collArrive_keeps | intro _

theorem State.collEnd_keeps {s0 : State} {s : State} {xs : List (Nat × Cmd × CollDesc)} {err : CollDesc → Bool} (h_s : Keeps s0 s) : Keeps s0 (State.collEnd s xs err) := by
  unfold State.collEnd
  repeat' first
      | with_reducible assumption | with_reducible apply Kept.next | with_reducible apply Keeps.foldl | with_reducible apply Keeps.foldlP
      | with_reducible apply State.finishCmd_keeps | intro _

theorem State.collComplete_keeps {s0 : State} {s : State} {xs : List (Nat × Cmd × CollDesc)} (h_s : Keeps s0 s) : Keeps s0 (State.collComplete s xs) := by
  unfold State.collComplete
  repeat' first
      | with_reducible assumption | with_reducible apply Kept.next | with_reducible apply State.collEnd_keeps
      | with_reducible apply State.flushStashes_keeps | with_reducible apply State.cmdFail_keeps | with_reducible apply State.dieWrite_keeps
      | (with_reducible apply Keeps.rest; first | with_reducible assumption | with_reducible exact Keeps.refl _ | with_reducible apply State.collEnd_keeps | with_reducible apply State.flushStashes_keeps | with_reducible apply State.cmdFail_keeps | with_reducible apply State.dieWrite_keeps | split)

theorem execCollectiveComplete_keeps {s0 : State} {comm : Nat} {seq : Nat} {s : State} (h_s : Keeps s0 s) : Kept s0 (execCollectiveComplete comm seq s) := by
  unfold execCollectiveComplete
  repeat' first | with_reducible assumption | with_reducible apply Kept.next | with_reducible apply State.collComplete_keeps | split

theorem execCollectiveTimeout_keeps {s0 : State} {core : Nat} {cmd : Nat} {s : State} (h_s : Keeps s0 s) : Kept s0 (execCollectiveTimeout core cmd s) := by
  unfold execCollectiveTimeout
  repeat' first
      | with_reducible assumption | with_reducible apply Kept.next | with_reducible apply State.finishCmd_keeps
      | (with_reducible apply Keeps.rest; first | with_reducible assumption | with_reducible exact Keeps.refl _ | with_reducible apply State.finishCmd_keeps | split)

theorem State.onBfq_keeps {s0 : State} {s : State} {die : Nat} {q : Nat} {f : Bfq → Bfq} (h_s : Keeps s0 s) : Keeps s0 (State.onBfq s die q f) := 
  State.onDie_keeps h_s

theorem State.signalHandle_keeps {s0 : State} {s : State} {core : Nat} {d : Cmd} {h : Nat} {err : Bool} (h_s : Keeps s0 s) : Keeps s0 (State.signalHandle s core d h err) := by
  unfold State.signalHandle
  repeat' first
      | with_reducible assumption | with_reducible apply Kept.next | with_reducible apply State.onFlag_keeps
      | with_reducible apply State.onGlenFlag_keeps | with_reducible apply State.onImageFlag_keeps | with_reducible apply State.cmdRecord_keeps
      | (with_reducible apply Keeps.rest; first | with_reducible assumption | with_reducible exact Keeps.refl _ | with_reducible apply State.onFlag_keeps | with_reducible apply State.onGlenFlag_keeps | with_reducible apply State.onImageFlag_keeps | with_reducible apply State.cmdRecord_keeps | split)

theorem State.bfqPost_keeps {s0 : State} {s : State} {core : Nat} {die : Nat} {q : Nat} {d : Cmd} (h_s : Keeps s0 s) : Keeps s0 (State.bfqPost s core die q d) := by
  unfold State.bfqPost
  repeat' first
      | with_reducible assumption | with_reducible apply Kept.next | with_reducible apply State.finishCmd_keeps
      | with_reducible apply State.cmdFail_keeps | with_reducible apply State.dropCmd_keeps | with_reducible apply State.onBfq_keeps
      | with_reducible apply State.dieWrite_keeps
      | (with_reducible apply Keeps.rest; first | with_reducible assumption | with_reducible exact Keeps.refl _ | with_reducible apply State.finishCmd_keeps | with_reducible apply State.cmdFail_keeps | with_reducible apply State.dropCmd_keeps | with_reducible apply State.onBfq_keeps | with_reducible apply State.dieWrite_keeps | split)

theorem State.takeReturn_keeps {s0 : State} {s : State} {core : Nat} {d : Cmd} {o : EOp} (h_s : Keeps s0 s) : Keeps s0 (State.takeReturn s core d o) := by
  unfold State.takeReturn
  repeat' first
      | with_reducible assumption | with_reducible apply Kept.next | with_reducible apply State.spadWrite_keeps | with_reducible apply Keeps.onGroup
      | with_reducible apply State.dropCmd_keeps | split

theorem State.bfqTake_keeps {s0 : State} {s : State} {core : Nat} {die : Nat} {q : Nat} {d : Cmd} {o : EOp} (h_s : Keeps s0 s) : Keeps s0 (State.bfqTake s core die q d o) := by
  unfold State.bfqTake
  repeat' first
      | with_reducible assumption | with_reducible apply Kept.next | with_reducible apply State.onBfq_keeps | with_reducible apply State.onCmd_keeps
      | with_reducible apply State.takeReturn_keeps
      | (with_reducible apply Keeps.rest; first | with_reducible assumption | with_reducible exact Keeps.refl _ | with_reducible apply State.onBfq_keeps | with_reducible apply State.onCmd_keeps | with_reducible apply State.takeReturn_keeps | split)

theorem State.bfqDone_keeps {s0 : State} {s : State} {core : Nat} {die : Nat} {q : Nat} {d : Cmd} (h_s : Keeps s0 s) : Keeps s0 (State.bfqDone s core die q d) := by
  unfold State.bfqDone
  repeat' first
      | with_reducible assumption | with_reducible apply Kept.next | with_reducible apply State.flushStashes_keeps
      | with_reducible apply State.dropCmd_keeps | with_reducible apply State.onBfq_keeps | with_reducible apply State.cmdFail_keeps
      | with_reducible apply State.dieWrite_keeps | with_reducible apply State.signalHandle_keeps
      | (with_reducible apply Keeps.rest; first | with_reducible assumption | with_reducible exact Keeps.refl _ | with_reducible apply State.flushStashes_keeps | with_reducible apply State.dropCmd_keeps | with_reducible apply State.onBfq_keeps | with_reducible apply State.cmdFail_keeps | with_reducible apply State.dieWrite_keeps | with_reducible apply State.signalHandle_keeps | split)

theorem State.bfqStep_keeps {s0 : State} {s : State} {core : Nat} {die : Nat} {q : Nat} {d : Cmd} (h_s : Keeps s0 s) : Keeps s0 (State.bfqStep s core die q d) := by
  unfold State.bfqStep
  repeat' first
      | with_reducible assumption | with_reducible apply Kept.next | with_reducible apply State.bfqPost_keeps
      | with_reducible apply State.bfqTake_keeps | with_reducible apply State.bfqDone_keeps | split

theorem State.bfqServe_keeps {s0 : State} {die q : Nat} : ∀ {fuel : Nat} {s : State}, Keeps s0 s → Keeps s0 (State.bfqServe s die q fuel)
  | 0, _, h => h
  | fuel + 1, s, h => by
    unfold State.bfqServe
    refine State.bfqServe_keeps (fuel := fuel) (Keeps.foldl (fun t p ht => ?_) _ h)
    split
    · exact State.bfqStep_keeps ht
    · exact ht

theorem State.bfqStart_keeps {s0 : State} {s : State} {core : Nat} {d : Cmd} (h_s : Keeps s0 s) : Keeps s0 (State.bfqStart s core d) := by
  unfold State.bfqStart
  repeat' first
      | with_reducible assumption | with_reducible apply Kept.next | with_reducible apply State.onCmd_keeps
      | with_reducible apply State.bfqServe_keeps | split

theorem execBfqpost_keeps {s0 : State} {o : EOp} {s : State} (h_s : Keeps s0 s) : Kept s0 (execBfqpost o s) := by
  unfold execBfqpost
  repeat' first
      | with_reducible assumption | with_reducible apply Kept.next | with_reducible apply State.laneOp_keeps
      | with_reducible apply State.illegalOperand_keeps | with_reducible apply State.accept_keeps | with_reducible apply State.bfqStart_keeps
      | intro _ | split

theorem execBfqtake_keeps {s0 : State} {o : EOp} {s : State} (h_s : Keeps s0 s) : Kept s0 (execBfqtake o s) := by
  unfold execBfqtake
  repeat' first
      | with_reducible assumption | with_reducible apply Kept.next | with_reducible apply State.laneOp_keeps
      | with_reducible apply State.illegalOperand_keeps | with_reducible apply State.accept_keeps | with_reducible apply Keeps.onGroup
      | with_reducible apply State.bfqStart_keeps | intro _
      | (extract_lets +onlyGivenNames x; first | (have hx : Keeps s0 x := ?_; clear_value x; on_goal 2 => subst x) | (have hx : Keeps s0 x.1 := ?_; clear_value x; on_goal 2 => subst x) | (have hf : ∀ t, Keeps s0 t → Keeps s0 (x t) := ?_; clear_value x; on_goal 2 => subst x) | (have hf : ∀ t b, Keeps s0 t → Keeps s0 (x t b) := ?_; clear_value x; on_goal 2 => subst x) | (have hf : ∀ a b t, Keeps s0 t → Keeps s0 (x a b t) := ?_; clear_value x; on_goal 2 => subst x) | (have hf : ∀ a, Keeps s0 (x a) := ?_; clear_value x; on_goal 2 => subst x) | clear_value x)
      | split

theorem execBfqtakeTimeout_keeps {s0 : State} {core : Nat} {cmd : Nat} {s : State} (h_s : Keeps s0 s) : Kept s0 (execBfqtakeTimeout core cmd s) := by
  unfold execBfqtakeTimeout
  repeat' first | with_reducible assumption | with_reducible apply Kept.next | with_reducible apply State.takeReturn_keeps | split

theorem execBfqdone_keeps {s0 : State} {o : ROp} {s : State} (h_s : Keeps s0 s) : Kept s0 (execBfqdone o s) := by
  unfold execBfqdone
  repeat' first
      | with_reducible assumption | with_reducible apply Kept.next | with_reducible apply State.laneOp_keeps
      | with_reducible apply State.illegalOperand_keeps | with_reducible apply State.accept_keeps | with_reducible apply State.bfqStart_keeps
      | intro _ | split

theorem State.beginCmd_keeps {s0 : State} {s : State} {core : Nat} {d : Cmd} {cycles : Nat} (h_s : Keeps s0 s) : Keeps s0 (State.beginCmd s core d cycles) := 
  State.onCmd_keeps h_s

theorem execEngineCommandStart_keeps {s0 : State} {core : Nat} {cmd : Nat} {s : State} (h_s : Keeps s0 s) : Kept s0 (execEngineCommandStart core cmd s) := by
  unfold execEngineCommandStart
  repeat' first
      | with_reducible assumption | with_reducible apply Keeps.nextTurn | with_reducible exact Keeps.refl _ | with_reducible apply Kept.next
      | with_reducible apply Kept.fault | with_reducible apply Keeps.foldl | with_reducible apply Keeps.foldlP | with_reducible apply hf
      | with_reducible apply State.beginCmd_keeps | with_reducible apply State.flushStashes_keeps | with_reducible apply State.readFlags_keeps
      | with_reducible apply State.bfqStart_keeps | (with_reducible apply Keeps.restPlat; with_reducible assumption) | intro _
      | with_reducible apply CoreKeeps.onTeam | with_reducible apply CoreKeeps.onStashLine | exact CoreKeeps.same rfl | exact GlenKeeps.same rfl | rfl
      | (extract_lets +onlyGivenNames x; first | (have hx : Keeps s0 x := ?_; clear_value x; on_goal 2 => subst x) | (have hx : Keeps s0 x.1 := ?_; clear_value x; on_goal 2 => subst x) | (have hf : ∀ t, Keeps s0 t → Keeps s0 (x t) := ?_; clear_value x; on_goal 2 => subst x) | (have hf : ∀ t b, Keeps s0 t → Keeps s0 (x t b) := ?_; clear_value x; on_goal 2 => subst x) | (have hf : ∀ a b t, Keeps s0 t → Keeps s0 (x a b t) := ?_; clear_value x; on_goal 2 => subst x) | (have hf : ∀ a, Keeps s0 (x a) := ?_; clear_value x; on_goal 2 => subst x) | clear_value x)
      | (with_reducible apply Keeps.rest; first | with_reducible assumption | with_reducible exact Keeps.refl _ | with_reducible apply State.beginCmd_keeps | with_reducible apply State.flushStashes_keeps | with_reducible apply State.readFlags_keeps | with_reducible apply State.bfqStart_keeps | split)
      | (with_reducible apply Keeps.restStore; first | with_reducible assumption | with_reducible exact Keeps.refl _ | with_reducible apply State.beginCmd_keeps | with_reducible apply State.flushStashes_keeps | with_reducible apply State.readFlags_keeps | with_reducible apply State.bfqStart_keeps | split)
      | split

theorem execOwnershipRegistration_keeps {s0 : State} {core : Nat} {cmd : Nat} {s : State} (h_s : Keeps s0 s) : Kept s0 (execOwnershipRegistration core cmd s) := by
  unfold execOwnershipRegistration
  repeat' first
      | with_reducible assumption | with_reducible apply Kept.next | with_reducible apply State.registerCopy_keeps
      | with_reducible apply State.seqArrive_keeps | with_reducible apply State.collArrive_keeps | split

theorem State.onGlenCmd_keeps {s0 : State} {s : State} {n : Nat} {id : Nat} {f : Cmd → Cmd} (h_s : Keeps s0 s) : Keeps s0 (State.onGlenCmd s n id f) := 
  Keeps.onGlen h_s _ (fun _ => .same rfl)

theorem State.glenAdvance_keeps {s0 : State} {s : State} {n : Nat} (h_s : Keeps s0 s) : Keeps s0 (State.glenAdvance s n) := by
  unfold State.glenAdvance
  repeat' first
      | with_reducible assumption | with_reducible apply Kept.next | with_reducible apply Keeps.foldl | with_reducible apply Keeps.foldlP
      | with_reducible apply State.onGlenCmd_keeps | with_reducible apply State.reserveFor_keeps | intro _ | split

theorem State.glenIssue_keeps {s0 : State} {s : State} {site : Site} {op : Instr} {bad : Issue → Glen → Bool} {fill : Issue → Cmd → Cmd} (h_s : Keeps s0 s) : Keeps s0 (State.glenIssue s site op bad fill) := by
  unfold State.glenIssue
  repeat' first
      | with_reducible assumption | with_reducible apply Kept.next | with_reducible apply State.laneOp_keeps
      | with_reducible apply State.illegalOperand_keeps | with_reducible apply State.waitFor_keeps | with_reducible apply Keeps.onStore
      | with_reducible apply State.glenAdvance_keeps | with_reducible apply Keeps.onGlen | intro _ | exact CoreKeeps.same rfl
      | exact GlenKeeps.same rfl
      | (extract_lets +onlyGivenNames x; first | (have hx : Keeps s0 x := ?_; clear_value x; on_goal 2 => subst x) | (have hx : Keeps s0 x.1 := ?_; clear_value x; on_goal 2 => subst x) | (have hf : ∀ t, Keeps s0 t → Keeps s0 (x t) := ?_; clear_value x; on_goal 2 => subst x) | (have hf : ∀ t b, Keeps s0 t → Keeps s0 (x t b) := ?_; clear_value x; on_goal 2 => subst x) | (have hf : ∀ a b t, Keeps s0 t → Keeps s0 (x a b t) := ?_; clear_value x; on_goal 2 => subst x) | (have hf : ∀ a, Keeps s0 (x a) := ?_; clear_value x; on_goal 2 => subst x) | clear_value x)
      | split

theorem execDedup_keeps {s0 : State} {o : ROp} {s : State} (h_s : Keeps s0 s) : Kept s0 (execDedup o s) := 
  Kept.next (State.glenIssue_keeps h_s)

theorem execGth_keeps {s0 : State} {o : EOp} {s : State} (h_s : Keeps s0 s) : Kept s0 (execGth o s) := 
  Kept.next (State.glenIssue_keeps h_s)

theorem execPool_keeps {s0 : State} {o : EOp} {s : State} (h_s : Keeps s0 s) : Kept s0 (execPool o s) := by
  unfold execPool
  repeat' first
      | with_reducible assumption | with_reducible apply Kept.next | with_reducible apply State.during_keeps
      | with_reducible apply State.waitFor_keeps | with_reducible apply State.glenIssue_keeps | intro _
      | (extract_lets +onlyGivenNames x; first | (have hx : Keeps s0 x := ?_; clear_value x; on_goal 2 => subst x) | (have hx : Keeps s0 x.1 := ?_; clear_value x; on_goal 2 => subst x) | (have hf : ∀ t, Keeps s0 t → Keeps s0 (x t) := ?_; clear_value x; on_goal 2 => subst x) | (have hf : ∀ t b, Keeps s0 t → Keeps s0 (x t b) := ?_; clear_value x; on_goal 2 => subst x) | (have hf : ∀ a b t, Keeps s0 t → Keeps s0 (x a b t) := ?_; clear_value x; on_goal 2 => subst x) | (have hf : ∀ a, Keeps s0 (x a) := ?_; clear_value x; on_goal 2 => subst x) | clear_value x)
      | split

theorem execUnz_keeps {s0 : State} {o : EOp} {s : State} (h_s : Keeps s0 s) : Kept s0 (execUnz o s) := 
  Kept.next (State.glenIssue_keeps h_s)

theorem execHand_keeps {s0 : State} {o : ROp} {s : State} (h_s : Keeps s0 s) : Kept s0 (execHand o s) := 
  Kept.next (State.glenIssue_keeps h_s)

theorem execSegwait_keeps {s0 : State} {o : IOp} {s : State} (h_s : Keeps s0 s) : Kept s0 (execSegwait o s) := by
  unfold execSegwait
  repeat' first
      | with_reducible assumption | with_reducible apply Kept.next | with_reducible apply State.laneOp_keeps
      | with_reducible apply State.illegalOperand_keeps | with_reducible apply State.waitFor_keeps | intro _
      | (extract_lets +onlyGivenNames x; first | (have hx : Keeps s0 x := ?_; clear_value x; on_goal 2 => subst x) | (have hx : Keeps s0 x.1 := ?_; clear_value x; on_goal 2 => subst x) | (have hf : ∀ t, Keeps s0 t → Keeps s0 (x t) := ?_; clear_value x; on_goal 2 => subst x) | (have hf : ∀ t b, Keeps s0 t → Keeps s0 (x t b) := ?_; clear_value x; on_goal 2 => subst x) | (have hf : ∀ a b t, Keeps s0 t → Keeps s0 (x a b t) := ?_; clear_value x; on_goal 2 => subst x) | (have hf : ∀ a, Keeps s0 (x a) := ?_; clear_value x; on_goal 2 => subst x) | clear_value x)
      | split

theorem State.glenRecord_keeps {s0 : State} {s : State} {n : Nat} {d : Cmd} {x : Stop} {about : Option RecordOf} (h_s : Keeps s0 s) : Keeps s0 (State.glenRecord s n d x about) := by
  unfold State.glenRecord
  repeat' first
      | with_reducible assumption | with_reducible apply Kept.next | with_reducible apply State.pend_keeps
      | with_reducible apply State.coreRecord_keeps

theorem State.glenFinish_keeps {s0 : State} {s : State} {n : Nat} {d : Cmd} {bits : List Nat} {err : Bool} (h_s : Keeps s0 s) : Keeps s0 (State.glenFinish s n d bits err) := by
  unfold State.glenFinish
  repeat' first
      | with_reducible assumption | with_reducible apply Kept.next | with_reducible apply Keeps.onGlen | with_reducible apply State.dropHolds_keeps
      | with_reducible apply State.onGlenFlag_keeps | with_reducible apply State.glenAdvance_keeps | intro _ | exact GlenKeeps.same rfl

theorem State.glenFail_keeps {s0 : State} {s : State} {n : Nat} {d : Cmd} {e : EFail} (h_s : Keeps s0 s) : Keeps s0 (State.glenFail s n d e) := by
  unfold State.glenFail
  repeat' first
      | with_reducible assumption | with_reducible apply Kept.next | with_reducible apply State.askFor_keeps
      | with_reducible apply State.glenRecord_keeps | with_reducible apply State.onGlenCmd_keeps | with_reducible apply State.forgetRefused_keeps
      | with_reducible apply State.glenFinish_keeps | with_reducible apply State.endGlen_keeps | split

theorem Glen.rowWrite_keeps {c d : Glen} {a : Nat} {bs : List (Byte × Bool)} (h : GlenKeeps c d) : GlenKeeps c (d.rowWrite a bs) := by
  unfold Glen.rowWrite
  exact .wf (fun w => Memory.wf_write _ _ _ (h.use w))

theorem Glen.rowWrites_keeps : ∀ (ws : List (Nat × List (Byte × Bool))) {c d : Glen}, GlenKeeps c d →
    GlenKeeps c (ws.foldl (fun g w => g.rowWrite w.1 w.2) d)
  | [], _, _, h => h
  | _ :: ws, _, _, h => Glen.rowWrites_keeps ws (Glen.rowWrite_keeps h)

theorem State.glenDo_keeps {s0 s : State} {n : Nat} {d : Cmd} {r : Except EFail GlenOut} {cls : Nat} (h_s : Keeps s0 s) :
    Keeps s0 (State.glenDo s n d r cls) := by
  unfold State.glenDo
  split
  · exact State.glenFail_keeps h_s
  · rename_i x
    extract_lets s1 s2 s3 s4
    have h1 : Keeps s0 s1 := h_s.onGlen n (fun c => Glen.rowWrites_keeps _ (.refl c))
    have h2 : Keeps s0 s2 := by
      unfold s2
      split
      · exact h1.onGlen n (fun _ => .same rfl)
      · exact h1
    have h3 : Keeps s0 s3 := Keeps.foldl (fun t l h => State.gather_keeps h) _ h2
    have h4 : Keeps s0 s4 := by
      unfold s4
      split
      · exact State.endGlen_keeps (State.glenRecord_keeps h3)
      · exact h3
    exact State.glenFinish_keeps (Keeps.rest h4)

theorem State.glenDeliver_keeps {s0 : State} {s : State} {n : Nat} {d : Cmd} (h_s : Keeps s0 s) : Keeps s0 (State.glenDeliver s n d) := by
  unfold State.glenDeliver
  repeat' first
      | with_reducible assumption | with_reducible apply Kept.next | with_reducible apply State.glenFinish_keeps
      | with_reducible apply State.engineWrite_keeps | with_reducible apply State.onRing_keeps
      | (with_reducible apply Keeps.rest; first | with_reducible assumption | with_reducible exact Keeps.refl _ | with_reducible apply State.glenFinish_keeps | with_reducible apply State.engineWrite_keeps | with_reducible apply State.onRing_keeps | split)

theorem execGlenCommandComplete_keeps {s0 : State} {n : Nat} {cmd : Nat} {s : State} (h_s : Keeps s0 s) : Kept s0 (execGlenCommandComplete n cmd s) := by
  unfold execGlenCommandComplete
  repeat' first
      | with_reducible assumption | with_reducible apply Kept.next | with_reducible apply State.glenDo_keeps
      | with_reducible apply State.flushStashes_keeps | with_reducible apply State.glenFinish_keeps | with_reducible apply State.glenDeliver_keeps
      | split

theorem State.stallRecord_keeps {s0 : State} {s : State} {n : Nat} {seg : Nat} {since : Nat} (h_s : Keeps s0 s) : Keeps s0 (State.stallRecord s n seg since) := by
  unfold State.stallRecord
  repeat' first
      | with_reducible assumption | with_reducible apply Kept.next | with_reducible apply State.trace_keeps
      | (with_reducible apply Keeps.rest; first | with_reducible assumption | with_reducible exact Keeps.refl _ | with_reducible apply State.trace_keeps | split)

theorem execSegmentCopyComplete_keeps {s0 : State} {n : Nat} {s : State} (h_s : Keeps s0 s) : Kept s0 (execSegmentCopyComplete n s) := by
  unfold execSegmentCopyComplete
  repeat' first
      | with_reducible assumption | with_reducible apply Kept.next | with_reducible apply State.flushStashes_keeps | with_reducible apply Keeps.onGlen
      | with_reducible apply State.stallRecord_keeps | with_reducible apply State.fetchStop_keeps | with_reducible apply State.askFor_keeps | intro _
      | exact CoreKeeps.same rfl | exact GlenKeeps.same rfl
      | (extract_lets +onlyGivenNames x; first | (have hx : Keeps s0 x := ?_; clear_value x; on_goal 2 => subst x) | (have hx : Keeps s0 x.1 := ?_; clear_value x; on_goal 2 => subst x) | (have hf : ∀ t, Keeps s0 t → Keeps s0 (x t) := ?_; clear_value x; on_goal 2 => subst x) | (have hf : ∀ t b, Keeps s0 t → Keeps s0 (x t b) := ?_; clear_value x; on_goal 2 => subst x) | (have hf : ∀ a b t, Keeps s0 t → Keeps s0 (x a b t) := ?_; clear_value x; on_goal 2 => subst x) | (have hf : ∀ a, Keeps s0 (x a) := ?_; clear_value x; on_goal 2 => subst x) | clear_value x)
      | split

theorem execGlenProgramEnd_keeps {s0 : State} {n : Nat} {s : State} (h_s : Keeps s0 s) : Kept s0 (execGlenProgramEnd n s) := by
  unfold execGlenProgramEnd
  repeat' first
      | with_reducible assumption | with_reducible apply Kept.next | with_reducible apply Keeps.onGlen | with_reducible apply State.onQueue_keeps
      | intro _ | exact CoreKeeps.same rfl | exact GlenKeeps.same rfl
      | (extract_lets +onlyGivenNames x; first | (have hx : Keeps s0 x := ?_; clear_value x; on_goal 2 => subst x) | (have hx : Keeps s0 x.1 := ?_; clear_value x; on_goal 2 => subst x) | (have hf : ∀ t, Keeps s0 t → Keeps s0 (x t) := ?_; clear_value x; on_goal 2 => subst x) | (have hf : ∀ t b, Keeps s0 t → Keeps s0 (x t b) := ?_; clear_value x; on_goal 2 => subst x) | (have hf : ∀ a b t, Keeps s0 t → Keeps s0 (x a b t) := ?_; clear_value x; on_goal 2 => subst x) | (have hf : ∀ a, Keeps s0 (x a) := ?_; clear_value x; on_goal 2 => subst x) | clear_value x)
      | split

end Sys2Proof.Machine
end

