-- ==== Sys2Proof/Laws/KeepsDevice.lean ====
section
/-! SUPPORT. What every step keeps - the canonical forms, the platform's bounds, the fuses - one lemma per operation: translation, teams, queues, saves, the mailbox, the platform; and every instruction. -/

set_option linter.unreachableTactic false
set_option linter.unusedTactic false

namespace Sys2Proof.Machine

theorem State.fillUnit_keeps {s0 : State} {s : State} {u : Nat} {e : TlbEntry} (h_s : Keeps s0 s) : Keeps s0 (State.fillUnit s u e) := by
  unfold State.fillUnit
  repeat' first
      | with_reducible assumption | with_reducible apply Keeps.nextTurn | with_reducible exact Keeps.refl _ | with_reducible apply Kept.next
      | with_reducible apply Kept.fault | with_reducible apply Keeps.foldl | with_reducible apply Keeps.foldlP | with_reducible apply hf
      | with_reducible apply State.fillTlb_keeps | with_reducible apply State.keepTlbEntry_keeps | with_reducible apply Keeps.onGlen
      | (with_reducible apply Keeps.restPlat; with_reducible assumption) | intro _ | with_reducible apply CoreKeeps.onTeam
      | with_reducible apply CoreKeeps.onStashLine | exact CoreKeeps.same rfl | exact GlenKeeps.same rfl | rfl
      | (extract_lets +onlyGivenNames x; first | (have hx : Keeps s0 x := ?_; clear_value x; on_goal 2 => subst x) | (have hx : Keeps s0 x.1 := ?_; clear_value x; on_goal 2 => subst x) | (have hf : ∀ t, Keeps s0 t → Keeps s0 (x t) := ?_; clear_value x; on_goal 2 => subst x) | (have hf : ∀ t b, Keeps s0 t → Keeps s0 (x t b) := ?_; clear_value x; on_goal 2 => subst x) | (have hf : ∀ a b t, Keeps s0 t → Keeps s0 (x a b t) := ?_; clear_value x; on_goal 2 => subst x) | (have hf : ∀ a, Keeps s0 (x a) := ?_; clear_value x; on_goal 2 => subst x) | clear_value x)
      | (with_reducible apply Keeps.rest; first | with_reducible assumption | with_reducible exact Keeps.refl _ | with_reducible apply State.fillTlb_keeps | with_reducible apply State.keepTlbEntry_keeps | with_reducible apply Keeps.onGlen | split)
      | (with_reducible apply Keeps.restStore; first | with_reducible assumption | with_reducible exact Keeps.refl _ | with_reducible apply State.fillTlb_keeps | with_reducible apply State.keepTlbEntry_keeps | with_reducible apply Keeps.onGlen | split)
      | split

theorem State.servePrefetch_keeps {s0 : State} {s : State} {core : Nat} {cid : Nat} {va : DWord} {e : Option TlbEntry} (h_s : Keeps s0 s) : Keeps s0 (State.servePrefetch s core cid va e) := by
  unfold State.servePrefetch
  repeat' first
      | with_reducible assumption | with_reducible apply Keeps.nextTurn | with_reducible exact Keeps.refl _ | with_reducible apply Kept.next
      | with_reducible apply Kept.fault | with_reducible apply Keeps.foldl | with_reducible apply Keeps.foldlP | with_reducible apply hf
      | with_reducible apply Keeps.onCore | with_reducible apply State.prefetchLine_keeps
      | (with_reducible apply Keeps.restPlat; with_reducible assumption) | intro _ | with_reducible apply CoreKeeps.onTeam
      | with_reducible apply CoreKeeps.onStashLine | exact CoreKeeps.same rfl | exact GlenKeeps.same rfl | rfl
      | (extract_lets +onlyGivenNames x; first | (have hx : Keeps s0 x := ?_; clear_value x; on_goal 2 => subst x) | (have hx : Keeps s0 x.1 := ?_; clear_value x; on_goal 2 => subst x) | (have hf : ∀ t, Keeps s0 t → Keeps s0 (x t) := ?_; clear_value x; on_goal 2 => subst x) | (have hf : ∀ t b, Keeps s0 t → Keeps s0 (x t b) := ?_; clear_value x; on_goal 2 => subst x) | (have hf : ∀ a b t, Keeps s0 t → Keeps s0 (x a b t) := ?_; clear_value x; on_goal 2 => subst x) | (have hf : ∀ a, Keeps s0 (x a) := ?_; clear_value x; on_goal 2 => subst x) | clear_value x)
      | (with_reducible apply Keeps.rest; first | with_reducible assumption | with_reducible exact Keeps.refl _ | with_reducible apply Keeps.onCore | with_reducible apply State.prefetchLine_keeps | split)
      | (with_reducible apply Keeps.restStore; first | with_reducible assumption | with_reducible exact Keeps.refl _ | with_reducible apply Keeps.onCore | with_reducible apply State.prefetchLine_keeps | split)
      | split

theorem State.onAts_keeps {s0 : State} {s : State} {f : Ats → Ats} (h_s : Keeps s0 s) : Keeps s0 (State.onAts s f) := 
  Keeps.rest h_s

theorem execPageWalk_keeps {s0 : State} {unit : Nat} {cid : Nat} {va : DWord} {_kind : AccessKind} {s : State} (h_s : Keeps s0 s) : Kept s0 (execPageWalk unit cid va _kind s) := by
  unfold execPageWalk
  repeat' first
      | with_reducible assumption | with_reducible apply Keeps.nextTurn | with_reducible exact Keeps.refl _ | with_reducible apply Kept.next
      | with_reducible apply Kept.fault | with_reducible apply Keeps.foldl | with_reducible apply Keeps.foldlP | with_reducible apply hf
      | with_reducible apply State.servePrefetch_keeps | with_reducible apply State.fillUnit_keeps | with_reducible apply State.askHost_keeps
      | (with_reducible apply Keeps.restPlat; with_reducible assumption) | intro _ | with_reducible apply CoreKeeps.onTeam
      | with_reducible apply CoreKeeps.onStashLine | exact CoreKeeps.same rfl | exact GlenKeeps.same rfl | rfl
      | (extract_lets +onlyGivenNames x; first | (have hx : Keeps s0 x := ?_; clear_value x; on_goal 2 => subst x) | (have hx : Keeps s0 x.1 := ?_; clear_value x; on_goal 2 => subst x) | (have hf : ∀ t, Keeps s0 t → Keeps s0 (x t) := ?_; clear_value x; on_goal 2 => subst x) | (have hf : ∀ t b, Keeps s0 t → Keeps s0 (x t b) := ?_; clear_value x; on_goal 2 => subst x) | (have hf : ∀ a b t, Keeps s0 t → Keeps s0 (x a b t) := ?_; clear_value x; on_goal 2 => subst x) | (have hf : ∀ a, Keeps s0 (x a) := ?_; clear_value x; on_goal 2 => subst x) | clear_value x)
      | (with_reducible apply Keeps.rest; first | with_reducible assumption | with_reducible exact Keeps.refl _ | with_reducible apply State.servePrefetch_keeps | with_reducible apply State.fillUnit_keeps | with_reducible apply State.askHost_keeps | split)
      | (with_reducible apply Keeps.restStore; first | with_reducible assumption | with_reducible exact Keeps.refl _ | with_reducible apply State.servePrefetch_keeps | with_reducible apply State.fillUnit_keeps | with_reducible apply State.askHost_keeps | split)
      | split

theorem State.wakePage_keeps {s0 s : State} {cid page : Nat} (h_s : Keeps s0 s) : Keeps s0 (State.wakePage s cid page) := by
  unfold State.wakePage
  refine h_s.trans ⟨fun x => ⟨x.1, ?_, ?_⟩, id, id, fun _ h => h, le_refl _⟩
  · intro p hp
    obtain ⟨q, hq, rfl⟩ := List.mem_map.mp hp
    exact x.2.1 q hq
  · intro p hp
    obtain ⟨q, hq, rfl⟩ := List.mem_map.mp hp
    exact x.2.2 q hq

theorem State.insertGrant_keeps {s0 : State} {s : State} {dies : List Nat} {cid : Nat} {page : Nat} {g : AtsGrant} (h_s : Keeps s0 s) : Keeps s0 (State.insertGrant s dies cid page g) := by
  unfold State.insertGrant
  repeat' first
      | with_reducible assumption | with_reducible apply Keeps.nextTurn | with_reducible exact Keeps.refl _ | with_reducible apply Kept.next
      | with_reducible apply Kept.fault | with_reducible apply Keeps.foldl | with_reducible apply Keeps.foldlP | with_reducible apply hf
      | with_reducible apply State.keepTlbEntry_keeps | (with_reducible apply Keeps.restPlat; with_reducible assumption) | intro _
      | with_reducible apply CoreKeeps.onTeam | with_reducible apply CoreKeeps.onStashLine | exact CoreKeeps.same rfl | exact GlenKeeps.same rfl | rfl
      | (extract_lets +onlyGivenNames x; first | (have hx : Keeps s0 x := ?_; clear_value x; on_goal 2 => subst x) | (have hx : Keeps s0 x.1 := ?_; clear_value x; on_goal 2 => subst x) | (have hf : ∀ t, Keeps s0 t → Keeps s0 (x t) := ?_; clear_value x; on_goal 2 => subst x) | (have hf : ∀ t b, Keeps s0 t → Keeps s0 (x t b) := ?_; clear_value x; on_goal 2 => subst x) | (have hf : ∀ a b t, Keeps s0 t → Keeps s0 (x a b t) := ?_; clear_value x; on_goal 2 => subst x) | (have hf : ∀ a, Keeps s0 (x a) := ?_; clear_value x; on_goal 2 => subst x) | clear_value x)
      | (with_reducible apply Keeps.rest; first | with_reducible assumption | with_reducible exact Keeps.refl _ | with_reducible apply State.keepTlbEntry_keeps | split)
      | (with_reducible apply Keeps.restStore; first | with_reducible assumption | with_reducible exact Keeps.refl _ | with_reducible apply State.keepTlbEntry_keeps | split)
      | split

theorem execAtsCompletion_keeps {s0 : State} {cid : Nat} {va : DWord} {grant : AtsGrant} {s : State} (h_s : Keeps s0 s) : Kept s0 (execAtsCompletion cid va grant s) := by
  unfold execAtsCompletion
  repeat' first
      | with_reducible assumption | with_reducible apply Keeps.nextTurn | with_reducible exact Keeps.refl _ | with_reducible apply Kept.next
      | with_reducible apply Kept.fault | with_reducible apply Keeps.foldl | with_reducible apply Keeps.foldlP | with_reducible apply hf
      | with_reducible apply State.onAts_keeps | with_reducible apply State.wakePage_keeps | with_reducible apply State.insertGrant_keeps
      | (with_reducible apply Keeps.restPlat; with_reducible assumption) | intro _ | with_reducible apply CoreKeeps.onTeam
      | with_reducible apply CoreKeeps.onStashLine | exact CoreKeeps.same rfl | exact GlenKeeps.same rfl | rfl
      | (extract_lets +onlyGivenNames x; first | (have hx : Keeps s0 x := ?_; clear_value x; on_goal 2 => subst x) | (have hx : Keeps s0 x.1 := ?_; clear_value x; on_goal 2 => subst x) | (have hf : ∀ t, Keeps s0 t → Keeps s0 (x t) := ?_; clear_value x; on_goal 2 => subst x) | (have hf : ∀ t b, Keeps s0 t → Keeps s0 (x t b) := ?_; clear_value x; on_goal 2 => subst x) | (have hf : ∀ a b t, Keeps s0 t → Keeps s0 (x a b t) := ?_; clear_value x; on_goal 2 => subst x) | (have hf : ∀ a, Keeps s0 (x a) := ?_; clear_value x; on_goal 2 => subst x) | clear_value x)
      | (with_reducible apply Keeps.rest; first | with_reducible assumption | with_reducible exact Keeps.refl _ | with_reducible apply State.onAts_keeps | with_reducible apply State.wakePage_keeps | with_reducible apply State.insertGrant_keeps | split)
      | (with_reducible apply Keeps.restStore; first | with_reducible assumption | with_reducible exact Keeps.refl _ | with_reducible apply State.onAts_keeps | with_reducible apply State.wakePage_keeps | with_reducible apply State.insertGrant_keeps | split)
      | split

theorem execPageRequestResponse_keeps {s0 : State} {cid : Nat} {va : DWord} {code : PageResponse} {s : State} (h_s : Keeps s0 s) : Kept s0 (execPageRequestResponse cid va code s) := by
  unfold execPageRequestResponse
  repeat' first
      | with_reducible assumption | with_reducible apply Kept.next | with_reducible apply State.onAts_keeps
      | with_reducible apply State.wakePage_keeps | split

theorem execAtsInvalidation_keeps {s0 : State} {pasid : Nat} {va : DWord} {pages : Nat} {s : State} (h_s : Keeps s0 s) : Kept s0 (execAtsInvalidation pasid va pages s) := by
  unfold execAtsInvalidation
  repeat' first
      | with_reducible assumption | with_reducible apply Kept.next | with_reducible apply Keeps.foldl | with_reducible apply Keeps.foldlP
      | with_reducible apply State.onAts_keeps | with_reducible apply State.startShoot_keeps | intro _ | split

theorem execStashFill_keeps {s0 : State} {core : Nat} {team : Nat} {win : Nat} {line : Nat} {own : Bool} {s : State} (h_s : Keeps s0 s) : Kept s0 (execStashFill core team win line own s) := by
  unfold execStashFill
  repeat' first
      | with_reducible assumption | with_reducible apply Keeps.nextTurn | with_reducible exact Keeps.refl _ | with_reducible apply Kept.next
      | with_reducible apply Kept.fault | with_reducible apply Keeps.foldl | with_reducible apply Keeps.foldlP | with_reducible apply hf
      | with_reducible apply State.settleLines_keeps | with_reducible apply State.stashFill_keeps
      | (with_reducible apply Keeps.restPlat; with_reducible assumption) | intro _ | with_reducible apply CoreKeeps.onTeam
      | with_reducible apply CoreKeeps.onStashLine | exact CoreKeeps.same rfl | exact GlenKeeps.same rfl | rfl
      | (extract_lets +onlyGivenNames x; first | (have hx : Keeps s0 x := ?_; clear_value x; on_goal 2 => subst x) | (have hx : Keeps s0 x.1 := ?_; clear_value x; on_goal 2 => subst x) | (have hf : ∀ t, Keeps s0 t → Keeps s0 (x t) := ?_; clear_value x; on_goal 2 => subst x) | (have hf : ∀ t b, Keeps s0 t → Keeps s0 (x t b) := ?_; clear_value x; on_goal 2 => subst x) | (have hf : ∀ a b t, Keeps s0 t → Keeps s0 (x a b t) := ?_; clear_value x; on_goal 2 => subst x) | (have hf : ∀ a, Keeps s0 (x a) := ?_; clear_value x; on_goal 2 => subst x) | clear_value x)
      | (with_reducible apply Keeps.rest; first | with_reducible assumption | with_reducible exact Keeps.refl _ | with_reducible apply State.settleLines_keeps | with_reducible apply State.stashFill_keeps | split)
      | (with_reducible apply Keeps.restStore; first | with_reducible assumption | with_reducible exact Keeps.refl _ | with_reducible apply State.settleLines_keeps | with_reducible apply State.stashFill_keeps | split)
      | split

theorem execStashRecall_keeps {s0 : State} {core : Nat} {team : Nat} {win : Nat} {line : Nat} {write : Bool} {s : State} (h_s : Keeps s0 s) : Kept s0 (execStashRecall core team win line write s) := 
  Kept.next (State.recallLine_keeps h_s)

theorem execHostSnoop_keeps {s0 : State} {core : Nat} {line : Nat} {invalidate : Bool} {s : State} (h_s : Keeps s0 s) : Kept s0 (execHostSnoop core line invalidate s) := by
  unfold execHostSnoop
  repeat' first
      | with_reducible assumption | with_reducible apply Kept.next | with_reducible apply State.drainStores_keeps | with_reducible apply Keeps.onCore
      | intro _ | exact CoreKeeps.same rfl

theorem execGatherCounterHalving_keeps {s0 : State} {slice : Nat} {s : State} (h_s : Keeps s0 s) : Kept s0 (execGatherCounterHalving slice s) := by
  unfold execGatherCounterHalving
  repeat' first
      | with_reducible assumption | with_reducible apply Kept.next
      | (with_reducible apply Keeps.rest; first | with_reducible assumption | with_reducible exact Keeps.refl _ | split)

theorem execMeadowControlWrite_keeps {s0 : State} {slice : Nat} {value : DWord} {s : State} (h_s : Keeps s0 s) : Kept s0 (execMeadowControlWrite slice value s) := by
  unfold execMeadowControlWrite
  repeat' first
      | with_reducible assumption | with_reducible apply Keeps.nextTurn | with_reducible exact Keeps.refl _ | with_reducible apply Kept.next
      | with_reducible apply Kept.fault | with_reducible apply Keeps.foldl | with_reducible apply Keeps.foldlP | with_reducible apply hf
      | with_reducible apply State.keepL2_keeps | (with_reducible apply Keeps.restPlat; with_reducible assumption) | intro _
      | with_reducible apply CoreKeeps.onTeam | with_reducible apply CoreKeeps.onStashLine | exact CoreKeeps.same rfl | exact GlenKeeps.same rfl | rfl
      | (extract_lets +onlyGivenNames x; first | (have hx : Keeps s0 x := ?_; clear_value x; on_goal 2 => subst x) | (have hx : Keeps s0 x.1 := ?_; clear_value x; on_goal 2 => subst x) | (have hf : ∀ t, Keeps s0 t → Keeps s0 (x t) := ?_; clear_value x; on_goal 2 => subst x) | (have hf : ∀ t b, Keeps s0 t → Keeps s0 (x t b) := ?_; clear_value x; on_goal 2 => subst x) | (have hf : ∀ a b t, Keeps s0 t → Keeps s0 (x a b t) := ?_; clear_value x; on_goal 2 => subst x) | (have hf : ∀ a, Keeps s0 (x a) := ?_; clear_value x; on_goal 2 => subst x) | clear_value x)
      | (with_reducible apply Keeps.rest; first | with_reducible assumption | with_reducible exact Keeps.refl _ | with_reducible apply State.keepL2_keeps | split)
      | (with_reducible apply Keeps.restStore; first | with_reducible assumption | with_reducible exact Keeps.refl _ | with_reducible apply State.keepL2_keeps | split)
      | split

theorem State.onGrid_keeps {s0 : State} {s : State} {die : Nat} {k : Nat} {f : Grid → Grid} (h_s : Keeps s0 s) : Keeps s0 (State.onGrid s die k f) := 
  State.onDie_keeps h_s

theorem State.firstVisit_keeps {s0 : State} {s : State} {core : Nat} {die : Nat} {grid : Nat} (h_s : Keeps s0 s) : Keeps s0 (State.firstVisit s core die grid) := by
  unfold State.firstVisit
  repeat' first
      | with_reducible assumption | with_reducible apply Kept.next | with_reducible apply Keeps.onCore | with_reducible apply State.onGrid_keeps
      | intro _ | exact CoreKeeps.same rfl | split

theorem Core.setGroups_keeps : ∀ (qs : List (Nat × Group)) {c d : Core}, CoreKeeps c d → CoreKeeps c (qs.foldl (fun c q => c.setGroup q.1 q.2) d)
  | [], _, _, h => h
  | _ :: qs, _, _, h => Core.setGroups_keeps qs (h.aside rfl)

theorem Core.setGroups_keeps' {α : Type} {key : α → Nat} {grp : α → Group} : ∀ (qs : List α) {c d : Core}, CoreKeeps c d →
    CoreKeeps c (qs.foldl (fun c q => c.setGroup (key q) (grp q)) d)
  | [], _, _, h => h
  | _ :: qs, _, _, h => Core.setGroups_keeps' qs (h.aside rfl)

theorem Core.clearFor_keeps {c : Core} {n : Need} {p : Spot} : CoreKeeps c (c.clearFor n p) := by
  unfold Core.clearFor
  exact .wf (fun h => Sparse.wf_clear _ _ _ _ h)

theorem State.seatTeam_keeps {s0 s : State} {core die grid t : Nat} {p : Spot} {slots : List Nat} (h_s : Keeps s0 s) :
    Keeps s0 (State.seatTeam s core die grid t p slots) := by
  unfold State.seatTeam
  exact (State.onGrid_keeps (State.firstVisit_keeps h_s)).onCore core
    (fun c => Core.setGroups_keeps _ (Core.clearFor_keeps.aside rfl))

theorem execTeamClaim_keeps {s0 : State} {core : Nat} {s : State} (h_s : Keeps s0 s) : Kept s0 (execTeamClaim core s) := by
  unfold execTeamClaim
  repeat' first
      | with_reducible assumption | with_reducible apply Kept.next | with_reducible apply State.onGrid_keeps | with_reducible apply Keeps.onCore
      | intro _ | exact CoreKeeps.same rfl | split

theorem State.setClaim_keeps {s0 : State} {s : State} {core : Nat} {q : Option Claim} (h_s : Keeps s0 s) : Keeps s0 (State.setClaim s core q) := 
  Keeps.onCore h_s _ (fun _ => .same rfl)

theorem State.placeClaim_keeps {s0 s t : State} {core : Nat} (h_s : Keeps s0 s) (e : State.placeClaim s core = some t) : Keeps s0 t := by
  unfold State.placeClaim at e
  split at e
  · cases e
  · dsimp only at e
    split at e
    · cases e
      exact State.setClaim_keeps (State.seatTeam_keeps h_s)
    · cases e

theorem execTeamPlace_keeps {s0 s : State} {core : Nat} (h_s : Keeps s0 s) : Kept s0 (execTeamPlace core s) := by
  unfold execTeamPlace
  apply Kept.next
  split
  · exact State.placeClaim_keeps h_s ‹_›
  · split
    · split
      · exact State.setClaim_keeps h_s
      · exact h_s
    · exact h_s

theorem execTeamHandoff_keeps {s0 : State} {core : Nat} {target : Nat} {s : State} (h_s : Keeps s0 s) : Kept s0 (execTeamHandoff core target s) := by
  unfold execTeamHandoff
  repeat' first | with_reducible assumption | with_reducible apply Kept.next | with_reducible apply State.setClaim_keeps | split

theorem execPlacementReserveTimeout_keeps {s0 : State} {core : Nat} {s : State} (h_s : Keeps s0 s) : Kept s0 (execPlacementReserveTimeout core s) := by
  unfold execPlacementReserveTimeout
  repeat' first | with_reducible assumption | with_reducible apply Kept.next | with_reducible apply State.setClaim_keeps | split

theorem execTaskStart_keeps {s0 : State} {core : Nat} {s : State} (h_s : Keeps s0 s) : Kept s0 (execTaskStart core s) := by
  unfold execTaskStart
  repeat' first
      | with_reducible assumption | with_reducible apply Kept.next | with_reducible apply Keeps.onCore | intro _ | exact CoreKeeps.same rfl
      | (extract_lets +onlyGivenNames x; first | (have hx : Keeps s0 x := ?_; clear_value x; on_goal 2 => subst x) | (have hx : Keeps s0 x.1 := ?_; clear_value x; on_goal 2 => subst x) | (have hf : ∀ t, Keeps s0 t → Keeps s0 (x t) := ?_; clear_value x; on_goal 2 => subst x) | (have hf : ∀ t b, Keeps s0 t → Keeps s0 (x t b) := ?_; clear_value x; on_goal 2 => subst x) | (have hf : ∀ a b t, Keeps s0 t → Keeps s0 (x a b t) := ?_; clear_value x; on_goal 2 => subst x) | (have hf : ∀ a, Keeps s0 (x a) := ?_; clear_value x; on_goal 2 => subst x) | clear_value x)
      | split

theorem State.addCounters_keeps {s0 : State} {s : State} {core : Nat} {team : Nat} (h_s : Keeps s0 s) : Keeps s0 (State.addCounters s core team) := 
  Keeps.onCore h_s _ (fun _ => .same rfl)

theorem State.unmapAll_keeps {s0 : State} {s : State} {core : Nat} {team : Nat} (h_s : Keeps s0 s) : Keeps s0 (State.unmapAll s core team) := by
  unfold State.unmapAll
  repeat' first
      | with_reducible assumption | with_reducible apply Kept.next | with_reducible apply Keeps.foldl | with_reducible apply Keeps.foldlP
      | with_reducible apply State.unmapWindow_keeps | intro _

theorem State.freeTeam_keeps {s0 : State} {s : State} {core : Nat} {team : Nat} (h_s : Keeps s0 s) : Keeps s0 (State.freeTeam s core team) := 
  Keeps.onCore h_s _ (fun _ => .same rfl)

theorem State.finishStores_keeps {s0 : State} {s : State} {core : Nat} {gs : List Nat} (h_s : Keeps s0 s) : Keeps s0 (State.finishStores s core gs) := by
  unfold State.finishStores
  repeat' first
      | with_reducible assumption | with_reducible apply Keeps.nextTurn | with_reducible exact Keeps.refl _ | with_reducible apply Kept.next
      | with_reducible apply Kept.fault | with_reducible apply Keeps.foldl | with_reducible apply Keeps.foldlP | with_reducible apply hf
      | with_reducible apply State.drainStores_keeps | with_reducible apply State.writeOutWhere_keeps
      | (with_reducible apply Keeps.restPlat; with_reducible assumption) | intro _ | with_reducible apply CoreKeeps.onTeam
      | with_reducible apply CoreKeeps.onStashLine | exact CoreKeeps.same rfl | exact GlenKeeps.same rfl | rfl
      | (extract_lets +onlyGivenNames x; first | (have hx : Keeps s0 x := ?_; clear_value x; on_goal 2 => subst x) | (have hx : Keeps s0 x.1 := ?_; clear_value x; on_goal 2 => subst x) | (have hf : ∀ t, Keeps s0 t → Keeps s0 (x t) := ?_; clear_value x; on_goal 2 => subst x) | (have hf : ∀ t b, Keeps s0 t → Keeps s0 (x t b) := ?_; clear_value x; on_goal 2 => subst x) | (have hf : ∀ a b t, Keeps s0 t → Keeps s0 (x a b t) := ?_; clear_value x; on_goal 2 => subst x) | (have hf : ∀ a, Keeps s0 (x a) := ?_; clear_value x; on_goal 2 => subst x) | clear_value x)
      | (with_reducible apply Keeps.rest; first | with_reducible assumption | with_reducible exact Keeps.refl _ | with_reducible apply State.drainStores_keeps | with_reducible apply State.writeOutWhere_keeps | split)
      | (with_reducible apply Keeps.restStore; first | with_reducible assumption | with_reducible exact Keeps.refl _ | with_reducible apply State.drainStores_keeps | with_reducible apply State.writeOutWhere_keeps | split)
      | split

theorem State.dropTickets_keeps {s0 : State} {s : State} {t : Team} (h_s : Keeps s0 s) : Keeps s0 (State.dropTickets s t) := 
  State.onGrid_keeps h_s

theorem execTeamRetire_keeps {s0 : State} {core : Nat} {team : Nat} {s : State} (h_s : Keeps s0 s) : Kept s0 (execTeamRetire core team s) := by
  unfold execTeamRetire
  repeat' first
      | with_reducible assumption | with_reducible apply Keeps.nextTurn | with_reducible exact Keeps.refl _ | with_reducible apply Kept.next
      | with_reducible apply Kept.fault | with_reducible apply Keeps.foldl | with_reducible apply Keeps.foldlP | with_reducible apply hf
      | with_reducible apply State.finishStores_keeps | with_reducible apply State.freeTeam_keeps | with_reducible apply State.addCounters_keeps
      | with_reducible apply State.unmapAll_keeps | with_reducible apply State.onGrid_keeps | with_reducible apply State.dropTickets_keeps
      | (with_reducible apply Keeps.restPlat; with_reducible assumption) | intro _ | with_reducible apply CoreKeeps.onTeam
      | with_reducible apply CoreKeeps.onStashLine | exact CoreKeeps.same rfl | exact GlenKeeps.same rfl | rfl
      | (extract_lets +onlyGivenNames x; first | (have hx : Keeps s0 x := ?_; clear_value x; on_goal 2 => subst x) | (have hx : Keeps s0 x.1 := ?_; clear_value x; on_goal 2 => subst x) | (have hf : ∀ t, Keeps s0 t → Keeps s0 (x t) := ?_; clear_value x; on_goal 2 => subst x) | (have hf : ∀ t b, Keeps s0 t → Keeps s0 (x t b) := ?_; clear_value x; on_goal 2 => subst x) | (have hf : ∀ a b t, Keeps s0 t → Keeps s0 (x a b t) := ?_; clear_value x; on_goal 2 => subst x) | (have hf : ∀ a, Keeps s0 (x a) := ?_; clear_value x; on_goal 2 => subst x) | clear_value x)
      | (with_reducible apply Keeps.rest; first | with_reducible assumption | with_reducible exact Keeps.refl _ | with_reducible apply State.finishStores_keeps | with_reducible apply State.freeTeam_keeps | with_reducible apply State.addCounters_keeps | with_reducible apply State.unmapAll_keeps | with_reducible apply State.onGrid_keeps | with_reducible apply State.dropTickets_keeps | split)
      | (with_reducible apply Keeps.restStore; first | with_reducible assumption | with_reducible exact Keeps.refl _ | with_reducible apply State.finishStores_keeps | with_reducible apply State.freeTeam_keeps | with_reducible apply State.addCounters_keeps | with_reducible apply State.unmapAll_keeps | with_reducible apply State.onGrid_keeps | with_reducible apply State.dropTickets_keeps | split)
      | split

theorem State.writeVirtual_keeps {s0 s t : State} {core cid : Nat} {va : DWord} {bs : List Byte} (h_s : Keeps s0 s)
    (e : State.writeVirtual s core cid va bs = .ok t) : Keeps s0 t := by
  unfold State.writeVirtual at e
  split at e
  · cases e
  · split at e
    · cases e
    · cases e
      exact State.coherentWrite_keeps h_s

theorem State.packetDone_keeps {s0 : State} {s : State} {queue : Nat} {index : Nat} (h_s : Keeps s0 s) : Keeps s0 (State.packetDone s queue index) := 
  State.onQueue_keeps h_s

theorem State.dropReplicas_keeps {s0 : State} {s : State} {die : Nat} {k : Nat} (h_s : Keeps s0 s) : Keeps s0 (State.dropReplicas s die k) := by
  unfold State.dropReplicas
  repeat' first
      | with_reducible assumption | with_reducible apply Keeps.nextTurn | with_reducible exact Keeps.refl _ | with_reducible apply Kept.next
      | with_reducible apply Kept.fault | with_reducible apply Keeps.foldl | with_reducible apply Keeps.foldlP | with_reducible apply hf
      | with_reducible apply Keeps.onStore | (with_reducible apply Keeps.restPlat; with_reducible assumption) | intro _
      | with_reducible apply CoreKeeps.onTeam | with_reducible apply CoreKeeps.onStashLine | exact CoreKeeps.same rfl | exact GlenKeeps.same rfl | rfl
      | (extract_lets +onlyGivenNames x; first | (have hx : Keeps s0 x := ?_; clear_value x; on_goal 2 => subst x) | (have hx : Keeps s0 x.1 := ?_; clear_value x; on_goal 2 => subst x) | (have hf : ∀ t, Keeps s0 t → Keeps s0 (x t) := ?_; clear_value x; on_goal 2 => subst x) | (have hf : ∀ t b, Keeps s0 t → Keeps s0 (x t b) := ?_; clear_value x; on_goal 2 => subst x) | (have hf : ∀ a b t, Keeps s0 t → Keeps s0 (x a b t) := ?_; clear_value x; on_goal 2 => subst x) | (have hf : ∀ a, Keeps s0 (x a) := ?_; clear_value x; on_goal 2 => subst x) | clear_value x)
      | (with_reducible apply Keeps.rest; first | with_reducible assumption | with_reducible exact Keeps.refl _ | with_reducible apply Keeps.onStore | split)
      | (with_reducible apply Keeps.restStore; first | with_reducible assumption | with_reducible exact Keeps.refl _ | with_reducible apply Keeps.onStore | split)
      | split

theorem State.closeGrid_keeps {s0 : State} {s : State} {die : Nat} {k : Nat} (h_s : Keeps s0 s) : Keeps s0 (State.closeGrid s die k) := by
  unfold State.closeGrid
  repeat' first
      | with_reducible assumption | with_reducible apply Keeps.nextTurn | with_reducible exact Keeps.refl _ | with_reducible apply Kept.next
      | with_reducible apply Kept.fault | with_reducible apply Keeps.foldl | with_reducible apply Keeps.foldlP | with_reducible apply hf
      | with_reducible apply State.dropReplicas_keeps | with_reducible apply State.packetDone_keeps | with_reducible apply State.onGrid_keeps
      | with_reducible apply State.queueError_keeps | (with_reducible apply Keeps.restPlat; with_reducible assumption) | intro _
      | with_reducible apply CoreKeeps.onTeam | with_reducible apply CoreKeeps.onStashLine | exact CoreKeeps.same rfl | exact GlenKeeps.same rfl | rfl
      | (extract_lets +onlyGivenNames x; first | (have hx : Keeps s0 x := ?_; clear_value x; on_goal 2 => subst x) | (have hx : Keeps s0 x.1 := ?_; clear_value x; on_goal 2 => subst x) | (have hf : ∀ t, Keeps s0 t → Keeps s0 (x t) := ?_; clear_value x; on_goal 2 => subst x) | (have hf : ∀ t b, Keeps s0 t → Keeps s0 (x t b) := ?_; clear_value x; on_goal 2 => subst x) | (have hf : ∀ a b t, Keeps s0 t → Keeps s0 (x a b t) := ?_; clear_value x; on_goal 2 => subst x) | (have hf : ∀ a, Keeps s0 (x a) := ?_; clear_value x; on_goal 2 => subst x) | clear_value x)
      | (with_reducible apply Keeps.rest; first | with_reducible assumption | with_reducible exact Keeps.refl _ | with_reducible apply State.dropReplicas_keeps | with_reducible apply State.packetDone_keeps | with_reducible apply State.onGrid_keeps | with_reducible apply State.queueError_keeps | split)
      | (with_reducible apply Keeps.restStore; first | with_reducible assumption | with_reducible exact Keeps.refl _ | with_reducible apply State.dropReplicas_keeps | with_reducible apply State.packetDone_keeps | with_reducible apply State.onGrid_keeps | with_reducible apply State.queueError_keeps | split)
      | split

theorem execGridComplete_keeps {s0 : State} {die : Nat} {grid : Nat} {s : State} (h_s : Keeps s0 s) : Kept s0 (execGridComplete die grid s) := by
  unfold execGridComplete
  repeat' first
      | with_reducible assumption | with_reducible apply Keeps.nextTurn | with_reducible exact Keeps.refl _ | with_reducible apply Kept.next
      | with_reducible apply Kept.fault | with_reducible apply Keeps.foldl | with_reducible apply Keeps.foldlP | with_reducible apply hf
      | with_reducible apply State.closeGrid_keeps | with_reducible apply State.coreRecord_keeps | with_reducible apply State.askFor_keeps
      | exact State.writeVirtual_keeps (by assumption) ‹_› | (with_reducible apply Keeps.restPlat; with_reducible assumption) | intro _
      | with_reducible apply CoreKeeps.onTeam | with_reducible apply CoreKeeps.onStashLine | exact CoreKeeps.same rfl | exact GlenKeeps.same rfl | rfl
      | (extract_lets +onlyGivenNames x; first | (have hx : Keeps s0 x := ?_; clear_value x; on_goal 2 => subst x) | (have hx : Keeps s0 x.1 := ?_; clear_value x; on_goal 2 => subst x) | (have hf : ∀ t, Keeps s0 t → Keeps s0 (x t) := ?_; clear_value x; on_goal 2 => subst x) | (have hf : ∀ t b, Keeps s0 t → Keeps s0 (x t b) := ?_; clear_value x; on_goal 2 => subst x) | (have hf : ∀ a b t, Keeps s0 t → Keeps s0 (x a b t) := ?_; clear_value x; on_goal 2 => subst x) | (have hf : ∀ a, Keeps s0 (x a) := ?_; clear_value x; on_goal 2 => subst x) | clear_value x)
      | (with_reducible apply Keeps.rest; first | with_reducible assumption | with_reducible exact Keeps.refl _ | with_reducible apply State.closeGrid_keeps | with_reducible apply State.coreRecord_keeps | with_reducible apply State.askFor_keeps | exact State.writeVirtual_keeps (by assumption) ‹_› | split)
      | (with_reducible apply Keeps.restStore; first | with_reducible assumption | with_reducible exact Keeps.refl _ | with_reducible apply State.closeGrid_keeps | with_reducible apply State.coreRecord_keeps | with_reducible apply State.askFor_keeps | exact State.writeVirtual_keeps (by assumption) ‹_› | split)
      | split

theorem execGangPriorityAging_keeps {s0 : State} {a : GangAt} {s : State} (h_s : Keeps s0 s) : Kept s0 (execGangPriorityAging a s) := by
  unfold execGangPriorityAging
  repeat' first
      | with_reducible assumption | with_reducible apply Kept.next | with_reducible apply Keeps.onGroupAt
      | (with_reducible apply Keeps.rest; first | with_reducible assumption | with_reducible exact Keeps.refl _ | with_reducible apply Keeps.onGroupAt | split)

theorem State.retireSaved_keeps {s0 : State} {s : State} {core : Nat} {team : Nat} {space : Nat} {va : DWord} (h_s : Keeps s0 s) : Keeps s0 (State.retireSaved s core team space va) := by
  unfold State.retireSaved
  repeat' first
      | with_reducible assumption | with_reducible apply Kept.next | with_reducible apply Keeps.foldl | with_reducible apply Keeps.foldlP
      | with_reducible apply hf | with_reducible apply State.onHost_keeps | with_reducible apply Keeps.onCore | with_reducible apply State.thaw_keeps
      | with_reducible apply State.dropCmd_keeps | with_reducible apply State.freeTeam_keeps | with_reducible apply State.addCounters_keeps | intro _
      | exact CoreKeeps.same rfl
      | (extract_lets +onlyGivenNames x; first | (have hx : Keeps s0 x := ?_; clear_value x; on_goal 2 => subst x) | (have hx : Keeps s0 x.1 := ?_; clear_value x; on_goal 2 => subst x) | (have hf : ∀ t, Keeps s0 t → Keeps s0 (x t) := ?_; clear_value x; on_goal 2 => subst x) | (have hf : ∀ t b, Keeps s0 t → Keeps s0 (x t b) := ?_; clear_value x; on_goal 2 => subst x) | (have hf : ∀ a b t, Keeps s0 t → Keeps s0 (x a b t) := ?_; clear_value x; on_goal 2 => subst x) | (have hf : ∀ a, Keeps s0 (x a) := ?_; clear_value x; on_goal 2 => subst x) | clear_value x)
      | (with_reducible apply Keeps.rest; first | with_reducible assumption | with_reducible exact Keeps.refl _ | with_reducible apply State.onHost_keeps | with_reducible apply Keeps.onCore | with_reducible apply State.thaw_keeps | with_reducible apply State.dropCmd_keeps | with_reducible apply State.freeTeam_keeps | with_reducible apply State.addCounters_keeps | split)
      | split

theorem State.saveTeam_keeps {s0 s t : State} {core team space n : Nat} {va : DWord} (h_s : Keeps s0 s)
    (e : State.saveTeam s core team space va = .ok (n, t)) : Keeps s0 t := by
  unfold State.saveTeam at e
  extract_lets gs s1 at e
  have h1 : Keeps s0 s1 := State.finishStores_keeps h_s
  split at e
  · cases e
  · rename_i stash s2 s3 bs hr
    revert e
    dsimp only
    intro e
    have h2 : Keeps s0 s2 := Keeps.foldl (fun t k h => State.releaseHeld_keeps h) _ h1
    have h3 : Keeps s0 s3 := State.unmapAll_keeps h2
    split at e
    · cases e
    · split at e
      · cases e
      · injection e with e
        injection e with _ e
        subst e
        exact State.retireSaved_keeps (State.coherentWrite_keeps h3)

theorem State.teamEvent_keeps {s0 : State} {s : State} {core : Nat} {queue : Nat} {cid : Nat} {x : Stop} (h_s : Keeps s0 s) : Keeps s0 (State.teamEvent s core queue cid x) := 
  State.coreRecord_keeps h_s

theorem execCtxsave_keeps {s0 : State} {o : ROp} {s : State} (h_s : Keeps s0 s) : Kept s0 (execCtxsave o s) := by
  unfold execCtxsave
  repeat' first
      | with_reducible assumption | with_reducible apply Kept.next | with_reducible apply State.scalarOp_keeps
      | with_reducible apply State.postScalar_keeps | with_reducible apply State.waitFor_keeps | with_reducible apply State.teamEvent_keeps
      | exact State.saveTeam_keeps (by assumption) ‹_› | intro _
      | (extract_lets +onlyGivenNames x; first | (have hx : Keeps s0 x := ?_; clear_value x; on_goal 2 => subst x) | (have hx : Keeps s0 x.1 := ?_; clear_value x; on_goal 2 => subst x) | (have hf : ∀ t, Keeps s0 t → Keeps s0 (x t) := ?_; clear_value x; on_goal 2 => subst x) | (have hf : ∀ t b, Keeps s0 t → Keeps s0 (x t b) := ?_; clear_value x; on_goal 2 => subst x) | (have hf : ∀ a b t, Keeps s0 t → Keeps s0 (x a b t) := ?_; clear_value x; on_goal 2 => subst x) | (have hf : ∀ a, Keeps s0 (x a) := ?_; clear_value x; on_goal 2 => subst x) | clear_value x)
      | split

theorem State.requeue_keeps {s0 s : State} {core : Nat} {d : Cmd} (h_s : Keeps s0 s) : Keeps s0 (State.requeue s core d) := by
  unfold State.requeue
  extract_lets t rel add mat
  have ha : ∀ x y, Keeps s0 x → Keeps s0 (add x y) := fun x y h => (h.onStore id).onCore core (fun _ => .same rfl)
  have hm : ∀ m, Keeps s0 (mat m) := fun m => State.claimFor_keeps (State.claimFor_keeps (ha _ _ h_s))
  clear_value add mat
  split
  · have h1 := ha s { d with phase := .queued } h_s
    split
    · exact State.reserveFor_keeps h1
    · split
      · exact h1.onGroup _ _
      · exact h1
  · exact Keeps.foldl (fun t p h => State.reserveFor_keeps h) _ (ha _ _ h_s)
  · exact hm _
  · exact hm _
  · exact State.claimFor_keeps (ha _ _ h_s)
  · exact State.awaitFlags_keeps (ha _ _ h_s)
  · exact ha _ _ h_s

theorem State.rejoinHolds_keeps {s0 : State} {s : State} {core : Nat} {rings : List Nat} {keyAt : Nat → Nat} {hs : List SavedHold} (h_s : Keeps s0 s) : Keeps s0 (State.rejoinHolds s core rings keyAt hs) := by
  unfold State.rejoinHolds
  repeat' first
      | with_reducible assumption | with_reducible apply Keeps.nextTurn | with_reducible exact Keeps.refl _ | with_reducible apply Kept.next
      | with_reducible apply Kept.fault | with_reducible apply Keeps.foldl | with_reducible apply Keeps.foldlP | with_reducible apply hf
      | with_reducible apply State.onRing_keeps | (with_reducible apply Keeps.restPlat; with_reducible assumption) | intro _
      | with_reducible apply CoreKeeps.onTeam | with_reducible apply CoreKeeps.onStashLine | exact CoreKeeps.same rfl | exact GlenKeeps.same rfl | rfl
      | (extract_lets +onlyGivenNames x; first | (have hx : Keeps s0 x := ?_; clear_value x; on_goal 2 => subst x) | (have hx : Keeps s0 x.1 := ?_; clear_value x; on_goal 2 => subst x) | (have hf : ∀ t, Keeps s0 t → Keeps s0 (x t) := ?_; clear_value x; on_goal 2 => subst x) | (have hf : ∀ t b, Keeps s0 t → Keeps s0 (x t b) := ?_; clear_value x; on_goal 2 => subst x) | (have hf : ∀ a b t, Keeps s0 t → Keeps s0 (x a b t) := ?_; clear_value x; on_goal 2 => subst x) | (have hf : ∀ a, Keeps s0 (x a) := ?_; clear_value x; on_goal 2 => subst x) | clear_value x)
      | (with_reducible apply Keeps.rest; first | with_reducible assumption | with_reducible exact Keeps.refl _ | with_reducible apply State.onRing_keeps | split)
      | (with_reducible apply Keeps.restStore; first | with_reducible assumption | with_reducible exact Keeps.refl _ | with_reducible apply State.onRing_keeps | split)
      | split

theorem readStore_wf {rd : ImgReader} {bad : ImgPoison} {p : ImgPlan} {sp : Spot} {st : CoreStore} (h : Memory.wf st.spad) : Memory.wf (readStore rd bad p sp st).spad := by
  unfold readStore
  exact Memory.wf_puts _ _ h

theorem readStore_keeps {rd : ImgReader} {bad : ImgPoison} {p : ImgPlan} {sp : Spot} {c d : Core} {e : Core} (h : CoreKeeps c d)
    (he : e.store = readStore rd bad p sp d.store) : CoreKeeps c e :=
  .wf (fun w => by rw [he]; exact readStore_wf (h.use w))

theorem State.seatImage_keeps {s0 s : State} {core : Nat} {rd : ImgReader} {bad : ImgPoison} {p : ImgPlan} {sp : Spot} {note : Option Saved} (h_s : Keeps s0 s) :
    Keeps s0 (State.seatImage s core rd bad p sp note) := by
  unfold State.seatImage
  extract_lets s1 g k team slots res tm stash gid keyAt tasks now s2 s3 s4
  have h1 : Keeps s0 s1 := State.firstVisit_keeps h_s
  have h2 : Keeps s0 s2 := by
    refine h1.onCore core (fun c => ?_)
    extract_lets c1 flags rings c2 c3
    have k1 : CoreKeeps c c1 := Core.clearFor_keeps.aside rfl
    have k2 : CoreKeeps c c2 := readStore_keeps k1 rfl
    exact Core.setGroups_keeps' _ (k2.aside rfl)
  clear_value s2
  have h3 : Keeps s0 s3 := State.rejoinHolds_keeps h2
  clear_value s3
  have h4 : Keeps s0 s4 := by
    refine Keeps.foldl (fun t w h => ?_) _ h3
    exact h.onCore core (fun _ => CoreKeeps.same rfl)
  clear_value s4
  refine Keeps.foldl (fun t i h => ?_) _ h4
  extract_lets j who
  split
  · exact State.requeue_keeps h
  · exact h

theorem State.rejoinRecords_keeps {s0 : State} {s : State} {core : Nat} {space : Nat} {va : DWord} {sp : Spot} (h_s : Keeps s0 s) : Keeps s0 (State.rejoinRecords s core space va sp) := by
  unfold State.rejoinRecords
  repeat' first
      | with_reducible assumption | with_reducible apply Kept.next | with_reducible apply Keeps.foldl | with_reducible apply Keeps.foldlP
      | with_reducible apply State.onHost_keeps | with_reducible apply Keeps.onGroup | with_reducible apply State.resumeGang_keeps
      | with_reducible apply State.endTeam_keeps | intro _ | split

theorem State.restoreTeam_keeps {s0 s t : State} {core space n : Nat} {va : DWord} {banks : List Nat} (h_s : Keeps s0 s)
    (e : State.restoreTeam s core space va banks = .ok (n, t)) : Keeps s0 t := by
  unfold State.restoreTeam at e
  extract_lets s1 at e
  have h1 : Keeps s0 s1 := State.flushStashes_keeps h_s
  clear_value s1
  split at e
  · cases e
  split at e
  · cases e
  extract_lets size at e
  split at e
  · cases e
  split at e
  · cases e
  split at e
  · split at e <;> cases e
  split at e
  · cases e
  split at e
  · cases e
  split at e
  · cases e
  injection e with e
  injection e with _ e
  subst e
  refine State.rejoinRecords_keeps (State.onGrid_keeps (Keeps.cores (State.onHost_keeps (State.seatImage_keeps h1)) (fun x q hq => ?_)))
  obtain ⟨r, hr, rfl⟩ := List.mem_map.mp hq
  exact x r hr

theorem execCtxload_keeps {s0 : State} {o : ROp} {s : State} (h_s : Keeps s0 s) : Kept s0 (execCtxload o s) := by
  unfold execCtxload
  repeat' first
      | with_reducible assumption | with_reducible apply Keeps.nextTurn | with_reducible exact Keeps.refl _ | with_reducible apply Kept.next
      | with_reducible apply Kept.fault | with_reducible apply Keeps.foldl | with_reducible apply Keeps.foldlP | with_reducible apply hf
      | with_reducible apply State.scalarOp_keeps | with_reducible apply State.postScalar_keeps | with_reducible apply State.stopAt_keeps
      | with_reducible apply State.waitFor_keeps | exact State.restoreTeam_keeps (by assumption) ‹_›
      | (with_reducible apply Keeps.restPlat; with_reducible assumption) | intro _ | with_reducible apply CoreKeeps.onTeam
      | with_reducible apply CoreKeeps.onStashLine | exact CoreKeeps.same rfl | exact GlenKeeps.same rfl | rfl
      | (extract_lets +onlyGivenNames x; first | (have hx : Keeps s0 x := ?_; clear_value x; on_goal 2 => subst x) | (have hx : Keeps s0 x.1 := ?_; clear_value x; on_goal 2 => subst x) | (have hf : ∀ t, Keeps s0 t → Keeps s0 (x t) := ?_; clear_value x; on_goal 2 => subst x) | (have hf : ∀ t b, Keeps s0 t → Keeps s0 (x t b) := ?_; clear_value x; on_goal 2 => subst x) | (have hf : ∀ a b t, Keeps s0 t → Keeps s0 (x a b t) := ?_; clear_value x; on_goal 2 => subst x) | (have hf : ∀ a, Keeps s0 (x a) := ?_; clear_value x; on_goal 2 => subst x) | clear_value x)
      | (with_reducible apply Keeps.rest; first | with_reducible assumption | with_reducible exact Keeps.refl _ | with_reducible apply State.scalarOp_keeps | with_reducible apply State.postScalar_keeps | with_reducible apply State.stopAt_keeps | with_reducible apply State.waitFor_keeps | exact State.restoreTeam_keeps (by assumption) ‹_› | split)
      | (with_reducible apply Keeps.restStore; first | with_reducible assumption | with_reducible exact Keeps.refl _ | with_reducible apply State.scalarOp_keeps | with_reducible apply State.postScalar_keeps | with_reducible apply State.stopAt_keeps | with_reducible apply State.waitFor_keeps | exact State.restoreTeam_keeps (by assumption) ‹_› | split)
      | split

theorem execTeamRestore_keeps {s0 s : State} {core : Nat} (h_s : Keeps s0 s) : Kept s0 (execTeamRestore core s) := by
  unfold execTeamRestore
  apply Kept.next
  split
  · exact h_s
  · split
    · exact h_s
    · split
      · exact State.restoreTeam_keeps h_s ‹_›
      · exact State.askHost_keeps h_s
      · exact h_s
      · dsimp only
        exact State.teamEvent_keeps (h_s.onCore core (fun _ => .same rfl))

theorem State.frontUpdate_keeps {s0 s t : State} {die cid : Nat} {va : DWord} {k : AccessKind} {f : Nat → Nat} (h_s : Keeps s0 s)
    (e : State.frontUpdate s die cid va k f = .ok t) : Keeps s0 t := by
  unfold State.frontUpdate at e
  extract_lets s1 at e
  split at e
  · cases e
  · split at e
    · cases e
    · cases e
      exact State.coherentWrite_keeps (State.flushStashes_keeps h_s)

theorem execKick_keeps {s0 : State} {queue : Nat} {value : DWord} {aligned8 : Bool} {s : State} (h_s : Keeps s0 s) : Kept s0 (execKick queue value aligned8 s) := by
  unfold execKick
  repeat' first
      | with_reducible assumption | with_reducible apply Kept.next | with_reducible apply State.onQueue_keeps
      | with_reducible apply State.queueRecord_keeps | split

theorem takeKick_keeps {s0 : State} {s : State} (h_s : Keeps s0 s) : Kept s0 (takeKick s) := by
  unfold takeKick
  repeat' first
      | with_reducible assumption | with_reducible apply Keeps.nextTurn | with_reducible exact Keeps.refl _ | with_reducible apply Kept.next
      | with_reducible apply Kept.fault | with_reducible apply Keeps.foldl | with_reducible apply Keeps.foldlP | with_reducible apply hf
      | with_reducible apply execKick_keeps | with_reducible apply State.onHost_keeps
      | (with_reducible apply Keeps.restPlat; with_reducible assumption) | intro _ | with_reducible apply CoreKeeps.onTeam
      | with_reducible apply CoreKeeps.onStashLine | exact CoreKeeps.same rfl | exact GlenKeeps.same rfl | rfl
      | (extract_lets +onlyGivenNames x; first | (have hx : Keeps s0 x := ?_; clear_value x; on_goal 2 => subst x) | (have hx : Keeps s0 x.1 := ?_; clear_value x; on_goal 2 => subst x) | (have hf : ∀ t, Keeps s0 t → Keeps s0 (x t) := ?_; clear_value x; on_goal 2 => subst x) | (have hf : ∀ t b, Keeps s0 t → Keeps s0 (x t b) := ?_; clear_value x; on_goal 2 => subst x) | (have hf : ∀ a b t, Keeps s0 t → Keeps s0 (x a b t) := ?_; clear_value x; on_goal 2 => subst x) | (have hf : ∀ a, Keeps s0 (x a) := ?_; clear_value x; on_goal 2 => subst x) | clear_value x)
      | (with_reducible apply Keeps.rest; first | with_reducible assumption | with_reducible exact Keeps.refl _ | with_reducible apply execKick_keeps | with_reducible apply State.onHost_keeps | split)
      | (with_reducible apply Keeps.restStore; first | with_reducible assumption | with_reducible exact Keeps.refl _ | with_reducible apply execKick_keeps | with_reducible apply State.onHost_keeps | split)
      | split

theorem State.tickQueues_keeps {s0 : State} {s : State} (h_s : Keeps s0 s) : Keeps s0 (State.tickQueues s) := 
  State.onHost_keeps h_s

theorem execQueueStarvationPromotion_keeps {s0 : State} {queue : Nat} {s : State} (h_s : Keeps s0 s) : Kept s0 (execQueueStarvationPromotion queue s) := by
  unfold execQueueStarvationPromotion
  repeat' first | with_reducible assumption | with_reducible apply Kept.next | with_reducible apply State.onQueue_keeps | split

theorem State.takePacket_keeps {s0 s : State} {n : Nat} (h_s : Keeps s0 s) : Keeps s0 (State.takePacket s n) := by
  unfold State.takePacket
  extract_lets die s1 s2 q
  have h2 : Keeps s0 s2 := State.onDie_keeps (State.onQueue_keeps h_s)
  clear_value s2
  split
  · exact h2
  · split
    · exact State.frontUpdate_keeps h2 ‹_›
    · exact State.queueRecord_keeps h2
    · exact h2

theorem State.addPacket_keeps {s0 : State} {s : State} {n : Nat} {p : Packet} (h_s : Keeps s0 s) : Keeps s0 (State.addPacket s n p) := 
  State.onQueue_keeps h_s

theorem State.onPacket_keeps {s0 : State} {s : State} {n : Nat} {index : Nat} {f : Packet → Packet} (h_s : Keeps s0 s) : Keeps s0 (State.onPacket s n index f) := 
  State.onQueue_keeps h_s

theorem State.startPacket_keeps {s0 : State} {s : State} {n : Nat} {kind : Nat} {go : List Byte → Queue → State → State} (h_s : Keeps s0 s) (h_go : ∀ (x0 : List Byte) (x1 : Queue) (x2 : State), Keeps s0 x2 → Keeps s0 (go x0 x1 x2)) : Keeps s0 (State.startPacket s n kind go) := by
  unfold State.startPacket
  repeat' first
      | with_reducible assumption | with_reducible apply Kept.next | with_reducible apply h_go | with_reducible apply State.flushStashes_keeps
      | with_reducible apply State.askFor_keeps | with_reducible apply State.queueError_keeps | with_reducible apply State.onDie_keeps
      | with_reducible apply State.takePacket_keeps
      | (with_reducible apply Keeps.rest; first | with_reducible assumption | with_reducible exact Keeps.refl _ | with_reducible apply h_go | with_reducible apply State.flushStashes_keeps | with_reducible apply State.askFor_keeps | with_reducible apply State.queueError_keeps | with_reducible apply State.onDie_keeps | with_reducible apply State.takePacket_keeps | split)

theorem State.refusePacket_keeps {s0 : State} {s : State} {n : Nat} {cause : Nat} (h_s : Keeps s0 s) : Keeps s0 (State.refusePacket s n cause) := by
  unfold State.refusePacket
  repeat' first
      | with_reducible assumption | with_reducible apply Kept.next | with_reducible apply State.queueError_keeps
      | with_reducible apply State.takePacket_keeps

theorem execNopPacket_keeps {s0 : State} {queue : Nat} {s : State} (h_s : Keeps s0 s) : Kept s0 (execNopPacket queue s) := by
  unfold execNopPacket
  repeat' first
      | with_reducible assumption | with_reducible apply Kept.next | with_reducible apply State.startPacket_keeps
      | with_reducible apply State.refusePacket_keeps | with_reducible apply State.addPacket_keeps | with_reducible apply State.takePacket_keeps
      | intro _ | split

theorem State.newGrid_keeps {s0 : State} {s : State} {die : Nat} {k : Nat} {prio : Nat} {l : GridLaunch} (h_s : Keeps s0 s) : Keeps s0 (State.newGrid s die k prio l) := 
  State.onGrid_keeps h_s

theorem execLaunch_keeps {s0 : State} {queue : Nat} {s : State} (h_s : Keeps s0 s) : Kept s0 (execLaunch queue s) := by
  unfold execLaunch
  repeat' first
      | with_reducible assumption | with_reducible apply Kept.next | with_reducible apply State.startPacket_keeps
      | with_reducible apply State.askFor_keeps | with_reducible apply State.refusePacket_keeps | with_reducible apply State.takePacket_keeps
      | with_reducible apply State.addPacket_keeps | with_reducible apply State.newGrid_keeps | intro _ | split

theorem State.copyFault_keeps {s0 : State} {s : State} {n : Nat} {index : Nat} {x : Stop} (h_s : Keeps s0 s) : Keeps s0 (State.copyFault s n index x) := by
  unfold State.copyFault
  repeat' first
      | with_reducible assumption | with_reducible apply Keeps.nextTurn | with_reducible exact Keeps.refl _ | with_reducible apply Kept.next
      | with_reducible apply Kept.fault | with_reducible apply Keeps.foldl | with_reducible apply Keeps.foldlP | with_reducible apply hf
      | with_reducible apply State.onDie_keeps | with_reducible apply State.pend_keeps | with_reducible apply State.postEvent_keeps
      | with_reducible apply State.onHost_keeps | (with_reducible apply Keeps.restPlat; with_reducible assumption) | intro _
      | with_reducible apply CoreKeeps.onTeam | with_reducible apply CoreKeeps.onStashLine | exact CoreKeeps.same rfl | exact GlenKeeps.same rfl | rfl
      | (extract_lets +onlyGivenNames x; first | (have hx : Keeps s0 x := ?_; clear_value x; on_goal 2 => subst x) | (have hx : Keeps s0 x.1 := ?_; clear_value x; on_goal 2 => subst x) | (have hf : ∀ t, Keeps s0 t → Keeps s0 (x t) := ?_; clear_value x; on_goal 2 => subst x) | (have hf : ∀ t b, Keeps s0 t → Keeps s0 (x t b) := ?_; clear_value x; on_goal 2 => subst x) | (have hf : ∀ a b t, Keeps s0 t → Keeps s0 (x a b t) := ?_; clear_value x; on_goal 2 => subst x) | (have hf : ∀ a, Keeps s0 (x a) := ?_; clear_value x; on_goal 2 => subst x) | clear_value x)
      | (with_reducible apply Keeps.rest; first | with_reducible assumption | with_reducible exact Keeps.refl _ | with_reducible apply State.onDie_keeps | with_reducible apply State.pend_keeps | with_reducible apply State.postEvent_keeps | with_reducible apply State.onHost_keeps | split)
      | (with_reducible apply Keeps.restStore; first | with_reducible assumption | with_reducible exact Keeps.refl _ | with_reducible apply State.onDie_keeps | with_reducible apply State.pend_keeps | with_reducible apply State.postEvent_keeps | with_reducible apply State.onHost_keeps | split)
      | split

theorem State.registerPacket_keeps {s0 : State} {s : State} {n : Nat} {p : Packet} (h_s : Keeps s0 s) : Keeps s0 (State.registerPacket s n p) := by
  unfold State.registerPacket
  repeat' first | with_reducible assumption | with_reducible apply Kept.next | with_reducible apply State.own_keeps | split

theorem execCopy_keeps {s0 : State} {queue : Nat} {s : State} (h_s : Keeps s0 s) : Kept s0 (execCopy queue s) := by
  unfold execCopy
  repeat' first
      | with_reducible assumption | with_reducible apply Kept.next | with_reducible apply State.startPacket_keeps
      | with_reducible apply State.refusePacket_keeps | with_reducible apply State.takePacket_keeps | with_reducible apply Keeps.onStore
      | with_reducible apply State.registerPacket_keeps | with_reducible apply State.addPacket_keeps | intro _
      | (extract_lets +onlyGivenNames x; first | (have hx : Keeps s0 x := ?_; clear_value x; on_goal 2 => subst x) | (have hx : Keeps s0 x.1 := ?_; clear_value x; on_goal 2 => subst x) | (have hf : ∀ t, Keeps s0 t → Keeps s0 (x t) := ?_; clear_value x; on_goal 2 => subst x) | (have hf : ∀ t b, Keeps s0 t → Keeps s0 (x t b) := ?_; clear_value x; on_goal 2 => subst x) | (have hf : ∀ a b t, Keeps s0 t → Keeps s0 (x a b t) := ?_; clear_value x; on_goal 2 => subst x) | (have hf : ∀ a, Keeps s0 (x a) := ?_; clear_value x; on_goal 2 => subst x) | clear_value x)
      | split

theorem State.runCopy_keeps {s0 : State} {s : State} {n : Nat} {p : Packet} (h_s : Keeps s0 s) : Keeps s0 (State.runCopy s n p) := by
  unfold State.runCopy
  repeat' first
      | with_reducible assumption | with_reducible apply Keeps.nextTurn | with_reducible exact Keeps.refl _ | with_reducible apply Kept.next
      | with_reducible apply Kept.fault | with_reducible apply Keeps.foldl | with_reducible apply Keeps.foldlP | with_reducible apply hf
      | with_reducible apply State.flushStashes_keeps | with_reducible apply State.registerPacket_keeps | with_reducible apply State.onPacket_keeps
      | with_reducible apply State.disown_keeps | with_reducible apply State.moveBytes_keeps | with_reducible apply State.copyFault_keeps
      | with_reducible apply State.onQueue_keeps | with_reducible apply State.queueError_keeps | with_reducible apply State.askFor_keeps
      | (with_reducible apply Keeps.restPlat; with_reducible assumption) | intro _ | with_reducible apply CoreKeeps.onTeam
      | with_reducible apply CoreKeeps.onStashLine | exact CoreKeeps.same rfl | exact GlenKeeps.same rfl | rfl
      | (extract_lets +onlyGivenNames x; first | (have hx : Keeps s0 x := ?_; clear_value x; on_goal 2 => subst x) | (have hx : Keeps s0 x.1 := ?_; clear_value x; on_goal 2 => subst x) | (have hf : ∀ t, Keeps s0 t → Keeps s0 (x t) := ?_; clear_value x; on_goal 2 => subst x) | (have hf : ∀ t b, Keeps s0 t → Keeps s0 (x t b) := ?_; clear_value x; on_goal 2 => subst x) | (have hf : ∀ a b t, Keeps s0 t → Keeps s0 (x a b t) := ?_; clear_value x; on_goal 2 => subst x) | (have hf : ∀ a, Keeps s0 (x a) := ?_; clear_value x; on_goal 2 => subst x) | clear_value x)
      | (with_reducible apply Keeps.rest; first | with_reducible assumption | with_reducible exact Keeps.refl _ | with_reducible apply State.flushStashes_keeps | with_reducible apply State.registerPacket_keeps | with_reducible apply State.onPacket_keeps | with_reducible apply State.disown_keeps | with_reducible apply State.moveBytes_keeps | with_reducible apply State.copyFault_keeps | with_reducible apply State.onQueue_keeps | with_reducible apply State.queueError_keeps | with_reducible apply State.askFor_keeps | split)
      | (with_reducible apply Keeps.restStore; first | with_reducible assumption | with_reducible exact Keeps.refl _ | with_reducible apply State.flushStashes_keeps | with_reducible apply State.registerPacket_keeps | with_reducible apply State.onPacket_keeps | with_reducible apply State.disown_keeps | with_reducible apply State.moveBytes_keeps | with_reducible apply State.copyFault_keeps | with_reducible apply State.onQueue_keeps | with_reducible apply State.queueError_keeps | with_reducible apply State.askFor_keeps | split)
      | split

theorem execSignal_keeps {s0 : State} {queue : Nat} {s : State} (h_s : Keeps s0 s) : Kept s0 (execSignal queue s) := by
  unfold execSignal
  repeat' first
      | with_reducible assumption | with_reducible apply Keeps.nextTurn | with_reducible exact Keeps.refl _ | with_reducible apply Kept.next
      | with_reducible apply Kept.fault | with_reducible apply Keeps.foldl | with_reducible apply Keeps.foldlP | with_reducible apply hf
      | with_reducible apply State.startPacket_keeps | with_reducible apply State.refusePacket_keeps | with_reducible apply State.takePacket_keeps
      | with_reducible apply State.addPacket_keeps | with_reducible apply State.queueError_keeps | with_reducible apply State.askFor_keeps
      | exact State.frontUpdate_keeps (by assumption) ‹_› | (with_reducible apply Keeps.restPlat; with_reducible assumption) | intro _
      | with_reducible apply CoreKeeps.onTeam | with_reducible apply CoreKeeps.onStashLine | exact CoreKeeps.same rfl | exact GlenKeeps.same rfl | rfl
      | (extract_lets +onlyGivenNames x; first | (have hx : Keeps s0 x := ?_; clear_value x; on_goal 2 => subst x) | (have hx : Keeps s0 x.1 := ?_; clear_value x; on_goal 2 => subst x) | (have hf : ∀ t, Keeps s0 t → Keeps s0 (x t) := ?_; clear_value x; on_goal 2 => subst x) | (have hf : ∀ t b, Keeps s0 t → Keeps s0 (x t b) := ?_; clear_value x; on_goal 2 => subst x) | (have hf : ∀ a b t, Keeps s0 t → Keeps s0 (x a b t) := ?_; clear_value x; on_goal 2 => subst x) | (have hf : ∀ a, Keeps s0 (x a) := ?_; clear_value x; on_goal 2 => subst x) | clear_value x)
      | (with_reducible apply Keeps.rest; first | with_reducible assumption | with_reducible exact Keeps.refl _ | with_reducible apply State.startPacket_keeps | with_reducible apply State.refusePacket_keeps | with_reducible apply State.takePacket_keeps | with_reducible apply State.addPacket_keeps | with_reducible apply State.queueError_keeps | with_reducible apply State.askFor_keeps | exact State.frontUpdate_keeps (by assumption) ‹_› | split)
      | (with_reducible apply Keeps.restStore; first | with_reducible assumption | with_reducible exact Keeps.refl _ | with_reducible apply State.startPacket_keeps | with_reducible apply State.refusePacket_keeps | with_reducible apply State.takePacket_keeps | with_reducible apply State.addPacket_keeps | with_reducible apply State.queueError_keeps | with_reducible apply State.askFor_keeps | exact State.frontUpdate_keeps (by assumption) ‹_› | split)
      | split

theorem State.startWait_keeps {s0 : State} {s : State} {queue : Nat} {kind : Nat} {k : PacketKind} (h_s : Keeps s0 s) : Keeps s0 (State.startWait s queue kind k) := by
  unfold State.startWait
  repeat' first
      | with_reducible assumption | with_reducible apply Kept.next | with_reducible apply State.startPacket_keeps
      | with_reducible apply State.refusePacket_keeps | with_reducible apply State.queueError_keeps | with_reducible apply State.onDie_keeps
      | with_reducible apply State.askFor_keeps | with_reducible apply State.takePacket_keeps | with_reducible apply State.onQueue_keeps
      | with_reducible apply State.addPacket_keeps | intro _
      | (extract_lets +onlyGivenNames x; first | (have hx : Keeps s0 x := ?_; clear_value x; on_goal 2 => subst x) | (have hx : Keeps s0 x.1 := ?_; clear_value x; on_goal 2 => subst x) | (have hf : ∀ t, Keeps s0 t → Keeps s0 (x t) := ?_; clear_value x; on_goal 2 => subst x) | (have hf : ∀ t b, Keeps s0 t → Keeps s0 (x t b) := ?_; clear_value x; on_goal 2 => subst x) | (have hf : ∀ a b t, Keeps s0 t → Keeps s0 (x a b t) := ?_; clear_value x; on_goal 2 => subst x) | (have hf : ∀ a, Keeps s0 (x a) := ?_; clear_value x; on_goal 2 => subst x) | clear_value x)
      | split

theorem execWaitAll_keeps {s0 : State} {queue : Nat} {s : State} (h_s : Keeps s0 s) : Kept s0 (execWaitAll queue s) := 
  Kept.next (State.startWait_keeps h_s)

theorem execWaitAny_keeps {s0 : State} {queue : Nat} {s : State} (h_s : Keeps s0 s) : Kept s0 (execWaitAny queue s) := 
  Kept.next (State.startWait_keeps h_s)

theorem State.waitEnded_keeps {s0 : State} {s : State} {queue : Nat} {p : Packet} {late : Bool} (h_s : Keeps s0 s) : Keeps s0 (State.waitEnded s queue p late) := by
  unfold State.waitEnded
  repeat' first
      | with_reducible assumption | with_reducible apply Keeps.nextTurn | with_reducible exact Keeps.refl _ | with_reducible apply Kept.next
      | with_reducible apply Kept.fault | with_reducible apply Keeps.foldl | with_reducible apply Keeps.foldlP | with_reducible apply hf
      | with_reducible apply State.onQueue_keeps | with_reducible apply State.queueError_keeps | with_reducible apply State.onPacket_keeps
      | (with_reducible apply Keeps.restPlat; with_reducible assumption) | intro _ | with_reducible apply CoreKeeps.onTeam
      | with_reducible apply CoreKeeps.onStashLine | exact CoreKeeps.same rfl | exact GlenKeeps.same rfl | rfl
      | (extract_lets +onlyGivenNames x; first | (have hx : Keeps s0 x := ?_; clear_value x; on_goal 2 => subst x) | (have hx : Keeps s0 x.1 := ?_; clear_value x; on_goal 2 => subst x) | (have hf : ∀ t, Keeps s0 t → Keeps s0 (x t) := ?_; clear_value x; on_goal 2 => subst x) | (have hf : ∀ t b, Keeps s0 t → Keeps s0 (x t b) := ?_; clear_value x; on_goal 2 => subst x) | (have hf : ∀ a b t, Keeps s0 t → Keeps s0 (x a b t) := ?_; clear_value x; on_goal 2 => subst x) | (have hf : ∀ a, Keeps s0 (x a) := ?_; clear_value x; on_goal 2 => subst x) | clear_value x)
      | (with_reducible apply Keeps.rest; first | with_reducible assumption | with_reducible exact Keeps.refl _ | with_reducible apply State.onQueue_keeps | with_reducible apply State.queueError_keeps | with_reducible apply State.onPacket_keeps | split)
      | (with_reducible apply Keeps.restStore; first | with_reducible assumption | with_reducible exact Keeps.refl _ | with_reducible apply State.onQueue_keeps | with_reducible apply State.queueError_keeps | with_reducible apply State.onPacket_keeps | split)
      | split

theorem State.endWait_keeps {s0 : State} {s : State} {queue : Nat} {p : Packet} {late : Bool} (h_s : Keeps s0 s) : Keeps s0 (State.endWait s queue p late) := by
  unfold State.endWait
  repeat' first
      | with_reducible assumption | with_reducible apply Keeps.nextTurn | with_reducible exact Keeps.refl _ | with_reducible apply Kept.next
      | with_reducible apply Kept.fault | with_reducible apply Keeps.foldl | with_reducible apply Keeps.foldlP | with_reducible apply hf
      | with_reducible apply State.waitEnded_keeps | with_reducible apply State.askFor_keeps | exact State.frontUpdate_keeps (by assumption) ‹_›
      | (with_reducible apply Keeps.restPlat; with_reducible assumption) | intro _ | with_reducible apply CoreKeeps.onTeam
      | with_reducible apply CoreKeeps.onStashLine | exact CoreKeeps.same rfl | exact GlenKeeps.same rfl | rfl
      | (extract_lets +onlyGivenNames x; first | (have hx : Keeps s0 x := ?_; clear_value x; on_goal 2 => subst x) | (have hx : Keeps s0 x.1 := ?_; clear_value x; on_goal 2 => subst x) | (have hf : ∀ t, Keeps s0 t → Keeps s0 (x t) := ?_; clear_value x; on_goal 2 => subst x) | (have hf : ∀ t b, Keeps s0 t → Keeps s0 (x t b) := ?_; clear_value x; on_goal 2 => subst x) | (have hf : ∀ a b t, Keeps s0 t → Keeps s0 (x a b t) := ?_; clear_value x; on_goal 2 => subst x) | (have hf : ∀ a, Keeps s0 (x a) := ?_; clear_value x; on_goal 2 => subst x) | clear_value x)
      | (with_reducible apply Keeps.rest; first | with_reducible assumption | with_reducible exact Keeps.refl _ | with_reducible apply State.waitEnded_keeps | with_reducible apply State.askFor_keeps | exact State.frontUpdate_keeps (by assumption) ‹_› | split)
      | (with_reducible apply Keeps.restStore; first | with_reducible assumption | with_reducible exact Keeps.refl _ | with_reducible apply State.waitEnded_keeps | with_reducible apply State.askFor_keeps | exact State.frontUpdate_keeps (by assumption) ‹_› | split)
      | split

theorem execConditionLatch_keeps {s0 : State} {queue : Nat} {k : Nat} {s : State} (h_s : Keeps s0 s) : Kept s0 (execConditionLatch queue k s) := by
  unfold execConditionLatch
  repeat' first
      | with_reducible assumption | with_reducible apply Keeps.nextTurn | with_reducible exact Keeps.refl _ | with_reducible apply Kept.next
      | with_reducible apply Kept.fault | with_reducible apply Keeps.foldl | with_reducible apply Keeps.foldlP | with_reducible apply hf
      | with_reducible apply State.endWait_keeps | with_reducible apply State.flushStashes_keeps | with_reducible apply State.askFor_keeps
      | with_reducible apply State.onPacket_keeps | (with_reducible apply Keeps.restPlat; with_reducible assumption) | intro _
      | with_reducible apply CoreKeeps.onTeam | with_reducible apply CoreKeeps.onStashLine | exact CoreKeeps.same rfl | exact GlenKeeps.same rfl | rfl
      | (extract_lets +onlyGivenNames x; first | (have hx : Keeps s0 x := ?_; clear_value x; on_goal 2 => subst x) | (have hx : Keeps s0 x.1 := ?_; clear_value x; on_goal 2 => subst x) | (have hf : ∀ t, Keeps s0 t → Keeps s0 (x t) := ?_; clear_value x; on_goal 2 => subst x) | (have hf : ∀ t b, Keeps s0 t → Keeps s0 (x t b) := ?_; clear_value x; on_goal 2 => subst x) | (have hf : ∀ a b t, Keeps s0 t → Keeps s0 (x a b t) := ?_; clear_value x; on_goal 2 => subst x) | (have hf : ∀ a, Keeps s0 (x a) := ?_; clear_value x; on_goal 2 => subst x) | clear_value x)
      | (with_reducible apply Keeps.rest; first | with_reducible assumption | with_reducible exact Keeps.refl _ | with_reducible apply State.endWait_keeps | with_reducible apply State.flushStashes_keeps | with_reducible apply State.askFor_keeps | with_reducible apply State.onPacket_keeps | split)
      | (with_reducible apply Keeps.restStore; first | with_reducible assumption | with_reducible exact Keeps.refl _ | with_reducible apply State.endWait_keeps | with_reducible apply State.flushStashes_keeps | with_reducible apply State.askFor_keeps | with_reducible apply State.onPacket_keeps | split)
      | split

theorem execWaitTimeout_keeps {s0 : State} {queue : Nat} {s : State} (h_s : Keeps s0 s) : Kept s0 (execWaitTimeout queue s) := by
  unfold execWaitTimeout
  repeat' first
      | with_reducible assumption | with_reducible apply Keeps.nextTurn | with_reducible exact Keeps.refl _ | with_reducible apply Kept.next
      | with_reducible apply Kept.fault | with_reducible apply Keeps.foldl | with_reducible apply Keeps.foldlP | with_reducible apply hf
      | with_reducible apply State.endWait_keeps | (with_reducible apply Keeps.restPlat; with_reducible assumption) | intro _
      | with_reducible apply CoreKeeps.onTeam | with_reducible apply CoreKeeps.onStashLine | exact CoreKeeps.same rfl | exact GlenKeeps.same rfl | rfl
      | (extract_lets +onlyGivenNames x; first | (have hx : Keeps s0 x := ?_; clear_value x; on_goal 2 => subst x) | (have hx : Keeps s0 x.1 := ?_; clear_value x; on_goal 2 => subst x) | (have hf : ∀ t, Keeps s0 t → Keeps s0 (x t) := ?_; clear_value x; on_goal 2 => subst x) | (have hf : ∀ t b, Keeps s0 t → Keeps s0 (x t b) := ?_; clear_value x; on_goal 2 => subst x) | (have hf : ∀ a b t, Keeps s0 t → Keeps s0 (x a b t) := ?_; clear_value x; on_goal 2 => subst x) | (have hf : ∀ a, Keeps s0 (x a) := ?_; clear_value x; on_goal 2 => subst x) | clear_value x)
      | (with_reducible apply Keeps.rest; first | with_reducible assumption | with_reducible exact Keeps.refl _ | with_reducible apply State.endWait_keeps | split)
      | (with_reducible apply Keeps.restStore; first | with_reducible assumption | with_reducible exact Keeps.refl _ | with_reducible apply State.endWait_keeps | split)
      | split

theorem execOverlay_keeps {s0 : State} {queue : Nat} {s : State} (h_s : Keeps s0 s) : Kept s0 (execOverlay queue s) := by
  unfold execOverlay
  repeat' first
      | with_reducible assumption | with_reducible apply Keeps.nextTurn | with_reducible exact Keeps.refl _ | with_reducible apply Kept.next
      | with_reducible apply Kept.fault | with_reducible apply Keeps.foldl | with_reducible apply Keeps.foldlP | with_reducible apply hf
      | with_reducible apply State.startPacket_keeps | with_reducible apply State.refusePacket_keeps | with_reducible apply State.askFor_keeps
      | with_reducible apply State.takePacket_keeps | with_reducible apply Keeps.onGlen | with_reducible apply State.addPacket_keeps
      | (with_reducible apply Keeps.restPlat; with_reducible assumption) | intro _ | with_reducible apply CoreKeeps.onTeam
      | with_reducible apply CoreKeeps.onStashLine | exact CoreKeeps.same rfl | exact GlenKeeps.same rfl | rfl
      | (extract_lets +onlyGivenNames x; first | (have hx : Keeps s0 x := ?_; clear_value x; on_goal 2 => subst x) | (have hx : Keeps s0 x.1 := ?_; clear_value x; on_goal 2 => subst x) | (have hf : ∀ t, Keeps s0 t → Keeps s0 (x t) := ?_; clear_value x; on_goal 2 => subst x) | (have hf : ∀ t b, Keeps s0 t → Keeps s0 (x t b) := ?_; clear_value x; on_goal 2 => subst x) | (have hf : ∀ a b t, Keeps s0 t → Keeps s0 (x a b t) := ?_; clear_value x; on_goal 2 => subst x) | (have hf : ∀ a, Keeps s0 (x a) := ?_; clear_value x; on_goal 2 => subst x) | clear_value x)
      | (with_reducible apply Keeps.rest; first | with_reducible assumption | with_reducible exact Keeps.refl _ | with_reducible apply State.startPacket_keeps | with_reducible apply State.refusePacket_keeps | with_reducible apply State.askFor_keeps | with_reducible apply State.takePacket_keeps | with_reducible apply Keeps.onGlen | with_reducible apply State.addPacket_keeps | split)
      | (with_reducible apply Keeps.restStore; first | with_reducible assumption | with_reducible exact Keeps.refl _ | with_reducible apply State.startPacket_keeps | with_reducible apply State.refusePacket_keeps | with_reducible apply State.askFor_keeps | with_reducible apply State.takePacket_keeps | with_reducible apply Keeps.onGlen | with_reducible apply State.addPacket_keeps | split)
      | split

theorem State.freeGridOf_keeps {s0 : State} {s : State} {queue : Nat} {index : Nat} (h_s : Keeps s0 s) : Keeps s0 (State.freeGridOf s queue index) := 
  State.onDie_keeps h_s

theorem State.completePacket_keeps {s0 s : State} {queue : Nat} {p : Packet} (h_s : Keeps s0 s) :
    Keeps s0 (State.completePacket s queue p) := by
  unfold State.completePacket
  extract_lets gone tell
  have hg : ∀ t, Keeps s0 t → Keeps s0 (gone t) := fun t h => by
    unfold gone
    dsimp only
    split
    · exact State.freeGridOf_keeps (State.onQueue_keeps h)
    · exact State.onQueue_keeps h
  have ht : ∀ t, Keeps s0 t → Keeps s0 (tell t) := fun t h => by
    unfold tell
    split
    · exact State.queueRecord_keeps h
    · exact h
  clear_value gone tell
  split
  · exact ht _ (hg _ h_s)
  · split
    · exact ht _ (hg _ (State.frontUpdate_keeps h_s ‹_›))
    · exact State.queueError_keeps (hg _ h_s)
    · exact State.askFor_keeps h_s

theorem execPacketComplete_keeps {s0 : State} {queue : Nat} {index : Nat} {s : State} (h_s : Keeps s0 s) : Kept s0 (execPacketComplete queue index s) := by
  unfold execPacketComplete
  repeat' first
      | with_reducible assumption | with_reducible apply Keeps.nextTurn | with_reducible exact Keeps.refl _ | with_reducible apply Kept.next
      | with_reducible apply Kept.fault | with_reducible apply Keeps.foldl | with_reducible apply Keeps.foldlP | with_reducible apply hf
      | with_reducible apply State.completePacket_keeps | with_reducible apply State.runCopy_keeps
      | (with_reducible apply Keeps.restPlat; with_reducible assumption) | intro _ | with_reducible apply CoreKeeps.onTeam
      | with_reducible apply CoreKeeps.onStashLine | exact CoreKeeps.same rfl | exact GlenKeeps.same rfl | rfl
      | (extract_lets +onlyGivenNames x; first | (have hx : Keeps s0 x := ?_; clear_value x; on_goal 2 => subst x) | (have hx : Keeps s0 x.1 := ?_; clear_value x; on_goal 2 => subst x) | (have hf : ∀ t, Keeps s0 t → Keeps s0 (x t) := ?_; clear_value x; on_goal 2 => subst x) | (have hf : ∀ t b, Keeps s0 t → Keeps s0 (x t b) := ?_; clear_value x; on_goal 2 => subst x) | (have hf : ∀ a b t, Keeps s0 t → Keeps s0 (x a b t) := ?_; clear_value x; on_goal 2 => subst x) | (have hf : ∀ a, Keeps s0 (x a) := ?_; clear_value x; on_goal 2 => subst x) | clear_value x)
      | (with_reducible apply Keeps.rest; first | with_reducible assumption | with_reducible exact Keeps.refl _ | with_reducible apply State.completePacket_keeps | with_reducible apply State.runCopy_keeps | split)
      | (with_reducible apply Keeps.restStore; first | with_reducible assumption | with_reducible exact Keeps.refl _ | with_reducible apply State.completePacket_keeps | with_reducible apply State.runCopy_keeps | split)
      | split

theorem State.onMail_keeps {s0 : State} {s : State} {fn : Nat} {f : Mailbox → Mailbox} (h_s : Keeps s0 s) : Keeps s0 (State.onMail s fn f) := 
  State.onHost_keeps h_s

theorem State.respond_keeps {s0 : State} {s : State} {fn : Nat} {code : Nat} {status : Nat} {data : optParam (List Byte) []} (h_s : Keeps s0 s) : Keeps s0 (State.respond s fn code status data) := 
  State.onMail_keeps h_s

theorem State.request_keeps {s0 : State} {s : State} {fn : Nat} {f : State} (h_s : Keeps s0 s) (h_f : Keeps s0 f) : Keeps s0 (State.request s fn f) := by
  unfold State.request
  repeat' first
      | with_reducible assumption | with_reducible apply Keeps.nextTurn | with_reducible exact Keeps.refl _ | with_reducible apply Kept.next
      | with_reducible apply Kept.fault | with_reducible apply Keeps.foldl | with_reducible apply Keeps.foldlP | with_reducible apply hf
      | with_reducible apply State.pend_keeps | (with_reducible apply Keeps.restPlat; with_reducible assumption) | intro _
      | with_reducible apply CoreKeeps.onTeam | with_reducible apply CoreKeeps.onStashLine | exact CoreKeeps.same rfl | exact GlenKeeps.same rfl | rfl
      | (extract_lets +onlyGivenNames x; first | (have hx : Keeps s0 x := ?_; clear_value x; on_goal 2 => subst x) | (have hx : Keeps s0 x.1 := ?_; clear_value x; on_goal 2 => subst x) | (have hf : ∀ t, Keeps s0 t → Keeps s0 (x t) := ?_; clear_value x; on_goal 2 => subst x) | (have hf : ∀ t b, Keeps s0 t → Keeps s0 (x t b) := ?_; clear_value x; on_goal 2 => subst x) | (have hf : ∀ a b t, Keeps s0 t → Keeps s0 (x a b t) := ?_; clear_value x; on_goal 2 => subst x) | (have hf : ∀ a, Keeps s0 (x a) := ?_; clear_value x; on_goal 2 => subst x) | clear_value x)
      | (with_reducible apply Keeps.rest; first | with_reducible assumption | with_reducible exact Keeps.refl _ | with_reducible apply State.pend_keeps | split)
      | (with_reducible apply Keeps.restStore; first | with_reducible assumption | with_reducible exact Keeps.refl _ | with_reducible apply State.pend_keeps | split)
      | split

theorem State.keepBusy_keeps {s0 : State} {s : State} {fn : Nat} {code : Nat} {w : MailWait} (h_s : Keeps s0 s) : Keeps s0 (State.keepBusy s fn code w) := 
  State.onMail_keeps h_s

theorem execMailboxInvalidRequest_keeps {s0 : State} {fn : Nat} {code : Nat} {s : State} (h_s : Keeps s0 s) : Kept s0 (execMailboxInvalidRequest fn code s) := by
  unfold execMailboxInvalidRequest
  repeat' first
      | with_reducible assumption | with_reducible apply Kept.next | with_reducible apply State.request_keeps
      | with_reducible apply State.respond_keeps | split

theorem execCreateQueue_keeps {s0 : State} {fn : Nat} {r : QueueReq} {s : State} (h_s : Keeps s0 s) : Kept s0 (execCreateQueue fn r s) := by
  unfold execCreateQueue
  repeat' first
      | with_reducible assumption | with_reducible apply Kept.next | with_reducible apply State.request_keeps
      | with_reducible apply State.onHost_keeps | with_reducible apply State.respond_keeps | split

theorem State.queueRequest_keeps {s0 : State} {s : State} {fn : Nat} {code : Nat} {queue : Nat} {f : Queue → State} (h_s : Keeps s0 s) (h_f : ∀ (x0 : Queue), Keeps s0 (f x0)) : Keeps s0 (State.queueRequest s fn code queue f) := by
  unfold State.queueRequest
  repeat' first
      | with_reducible assumption | with_reducible apply Kept.next | with_reducible apply h_f | with_reducible apply State.request_keeps
      | with_reducible apply State.respond_keeps
      | (with_reducible apply Keeps.rest; first | with_reducible assumption | with_reducible exact Keeps.refl _ | with_reducible apply h_f | with_reducible apply State.request_keeps | with_reducible apply State.respond_keeps | split)

theorem execDestroyQueue_keeps {s0 : State} {fn : Nat} {queue : Nat} {s : State} (h_s : Keeps s0 s) : Kept s0 (execDestroyQueue fn queue s) := by
  unfold execDestroyQueue
  repeat' first
      | with_reducible assumption | with_reducible apply Kept.next | with_reducible apply State.queueRequest_keeps
      | with_reducible apply State.respond_keeps | with_reducible apply State.onQueue_keeps | intro _ | split

theorem State.recoverQueue_keeps {s0 : State} {s : State} {fn : Nat} {queue : Nat} {f : State} (h_s : Keeps s0 s) (h_f : Keeps s0 f) : Keeps s0 (State.recoverQueue s fn queue f) := by
  unfold State.recoverQueue
  repeat' first
      | with_reducible assumption | with_reducible apply Kept.next | with_reducible apply h_f | with_reducible apply State.queueRequest_keeps
      | with_reducible apply State.respond_keeps | with_reducible apply State.onQueue_keeps | intro _ | split

theorem State.queueActive_keeps {s0 : State} {s : State} {fn : Nat} {queue : Nat} (h_s : Keeps s0 s) : Keeps s0 (State.queueActive s fn queue) := by
  unfold State.queueActive
  repeat' first
      | with_reducible assumption | with_reducible apply Keeps.nextTurn | with_reducible exact Keeps.refl _ | with_reducible apply Kept.next
      | with_reducible apply Kept.fault | with_reducible apply Keeps.foldl | with_reducible apply Keeps.foldlP | with_reducible apply hf
      | with_reducible apply State.respond_keeps | with_reducible apply State.onQueue_keeps
      | (with_reducible apply Keeps.restPlat; with_reducible assumption) | intro _ | with_reducible apply CoreKeeps.onTeam
      | with_reducible apply CoreKeeps.onStashLine | exact CoreKeeps.same rfl | exact GlenKeeps.same rfl | rfl
      | (extract_lets +onlyGivenNames x; first | (have hx : Keeps s0 x := ?_; clear_value x; on_goal 2 => subst x) | (have hx : Keeps s0 x.1 := ?_; clear_value x; on_goal 2 => subst x) | (have hf : ∀ t, Keeps s0 t → Keeps s0 (x t) := ?_; clear_value x; on_goal 2 => subst x) | (have hf : ∀ t b, Keeps s0 t → Keeps s0 (x t b) := ?_; clear_value x; on_goal 2 => subst x) | (have hf : ∀ a b t, Keeps s0 t → Keeps s0 (x a b t) := ?_; clear_value x; on_goal 2 => subst x) | (have hf : ∀ a, Keeps s0 (x a) := ?_; clear_value x; on_goal 2 => subst x) | clear_value x)
      | (with_reducible apply Keeps.rest; first | with_reducible assumption | with_reducible exact Keeps.refl _ | with_reducible apply State.respond_keeps | with_reducible apply State.onQueue_keeps | split)
      | (with_reducible apply Keeps.restStore; first | with_reducible assumption | with_reducible exact Keeps.refl _ | with_reducible apply State.respond_keeps | with_reducible apply State.onQueue_keeps | split)
      | split

theorem State.resetIndexes_keeps {s0 : State} {s : State} {fn : Nat} {queue : Nat} {value : DWord} (h_s : Keeps s0 s) : Keeps s0 (State.resetIndexes s fn queue value) := by
  unfold State.resetIndexes
  repeat' first
      | with_reducible assumption | with_reducible apply Keeps.nextTurn | with_reducible exact Keeps.refl _ | with_reducible apply Kept.next
      | with_reducible apply Kept.fault | with_reducible apply Keeps.foldl | with_reducible apply Keeps.foldlP | with_reducible apply hf
      | with_reducible apply State.onQueue_keeps | with_reducible apply State.queueActive_keeps | with_reducible apply State.queueRecord_keeps
      | with_reducible apply State.keepBusy_keeps | with_reducible apply State.askFor_keeps | exact State.frontUpdate_keeps (by assumption) ‹_›
      | (with_reducible apply Keeps.restPlat; with_reducible assumption) | intro _ | with_reducible apply CoreKeeps.onTeam
      | with_reducible apply CoreKeeps.onStashLine | exact CoreKeeps.same rfl | exact GlenKeeps.same rfl | rfl
      | (extract_lets +onlyGivenNames x; first | (have hx : Keeps s0 x := ?_; clear_value x; on_goal 2 => subst x) | (have hx : Keeps s0 x.1 := ?_; clear_value x; on_goal 2 => subst x) | (have hf : ∀ t, Keeps s0 t → Keeps s0 (x t) := ?_; clear_value x; on_goal 2 => subst x) | (have hf : ∀ t b, Keeps s0 t → Keeps s0 (x t b) := ?_; clear_value x; on_goal 2 => subst x) | (have hf : ∀ a b t, Keeps s0 t → Keeps s0 (x a b t) := ?_; clear_value x; on_goal 2 => subst x) | (have hf : ∀ a, Keeps s0 (x a) := ?_; clear_value x; on_goal 2 => subst x) | clear_value x)
      | (with_reducible apply Keeps.rest; first | with_reducible assumption | with_reducible exact Keeps.refl _ | with_reducible apply State.onQueue_keeps | with_reducible apply State.queueActive_keeps | with_reducible apply State.queueRecord_keeps | with_reducible apply State.keepBusy_keeps | with_reducible apply State.askFor_keeps | exact State.frontUpdate_keeps (by assumption) ‹_› | split)
      | (with_reducible apply Keeps.restStore; first | with_reducible assumption | with_reducible exact Keeps.refl _ | with_reducible apply State.onQueue_keeps | with_reducible apply State.queueActive_keeps | with_reducible apply State.queueRecord_keeps | with_reducible apply State.keepBusy_keeps | with_reducible apply State.askFor_keeps | exact State.frontUpdate_keeps (by assumption) ‹_› | split)
      | split

theorem execResetQueue_keeps {s0 : State} {fn : Nat} {queue : Nat} {value : DWord} {s : State} (h_s : Keeps s0 s) : Kept s0 (execResetQueue fn queue value s) := by
  unfold execResetQueue
  repeat' first
      | with_reducible assumption | with_reducible apply Keeps.nextTurn | with_reducible exact Keeps.refl _ | with_reducible apply Kept.next
      | with_reducible apply Kept.fault | with_reducible apply Keeps.foldl | with_reducible apply Keeps.foldlP | with_reducible apply hf
      | with_reducible apply State.recoverQueue_keeps | with_reducible apply State.resetIndexes_keeps | with_reducible apply State.queueRequest_keeps
      | (with_reducible apply Keeps.restPlat; with_reducible assumption) | intro _ | with_reducible apply CoreKeeps.onTeam
      | with_reducible apply CoreKeeps.onStashLine | exact CoreKeeps.same rfl | exact GlenKeeps.same rfl | rfl
      | (extract_lets +onlyGivenNames x; first | (have hx : Keeps s0 x := ?_; clear_value x; on_goal 2 => subst x) | (have hx : Keeps s0 x.1 := ?_; clear_value x; on_goal 2 => subst x) | (have hf : ∀ t, Keeps s0 t → Keeps s0 (x t) := ?_; clear_value x; on_goal 2 => subst x) | (have hf : ∀ t b, Keeps s0 t → Keeps s0 (x t b) := ?_; clear_value x; on_goal 2 => subst x) | (have hf : ∀ a b t, Keeps s0 t → Keeps s0 (x a b t) := ?_; clear_value x; on_goal 2 => subst x) | (have hf : ∀ a, Keeps s0 (x a) := ?_; clear_value x; on_goal 2 => subst x) | clear_value x)
      | (with_reducible apply Keeps.rest; first | with_reducible assumption | with_reducible exact Keeps.refl _ | with_reducible apply State.recoverQueue_keeps | with_reducible apply State.resetIndexes_keeps | with_reducible apply State.queueRequest_keeps | split)
      | (with_reducible apply Keeps.restStore; first | with_reducible assumption | with_reducible exact Keeps.refl _ | with_reducible apply State.recoverQueue_keeps | with_reducible apply State.resetIndexes_keeps | with_reducible apply State.queueRequest_keeps | split)
      | split

theorem execResumeQueue_keeps {s0 s : State} {fn queue : Nat} (h_s : Keeps s0 s) : Kept s0 (execResumeQueue fn queue s) := by
  unfold execResumeQueue
  exact Kept.next (State.queueRequest_keeps h_s (fun _ => State.recoverQueue_keeps h_s (State.queueActive_keeps h_s)))

theorem execCreateEventQueue_keeps {s0 : State} {fn : Nat} {r : EventQueueReq} {s : State} (h_s : Keeps s0 s) : Kept s0 (execCreateEventQueue fn r s) := by
  unfold execCreateEventQueue
  repeat' first
      | with_reducible assumption | with_reducible apply Kept.next | with_reducible apply State.request_keeps
      | with_reducible apply State.respond_keeps | with_reducible apply State.onHost_keeps | split

theorem State.setContext_keeps {s0 : State} {s : State} {cid : Nat} {w0 : DWord} {w1 : DWord} (h_s : Keeps s0 s) : Keeps s0 (State.setContext s cid w0 w1) := 
  Keeps.rest h_s

theorem execWriteContextDescriptor_keeps {s0 : State} {fn : Nat} {cid : Nat} {w0 : DWord} {w1 : DWord} {s : State} (h_s : Keeps s0 s) : Kept s0 (execWriteContextDescriptor fn cid w0 w1 s) := by
  unfold execWriteContextDescriptor
  repeat' first
      | with_reducible assumption | with_reducible apply Kept.next | with_reducible apply State.request_keeps
      | with_reducible apply State.respond_keeps | with_reducible apply State.keepBusy_keeps | with_reducible apply State.startShoot_keeps
      | with_reducible apply State.setContext_keeps
      | (with_reducible apply Keeps.rest; first | with_reducible assumption | with_reducible exact Keeps.refl _ | with_reducible apply State.request_keeps | with_reducible apply State.respond_keeps | with_reducible apply State.keepBusy_keeps | with_reducible apply State.startShoot_keeps | with_reducible apply State.setContext_keeps | split)

theorem execShootdownRequest_keeps {s0 : State} {fn : Nat} {scope : ShootScope} {s : State} (h_s : Keeps s0 s) : Kept s0 (execShootdownRequest fn scope s) := by
  unfold execShootdownRequest
  repeat' first
      | with_reducible assumption | with_reducible apply Kept.next | with_reducible apply State.request_keeps
      | with_reducible apply State.respond_keeps | with_reducible apply State.keepBusy_keeps | with_reducible apply State.startShoot_keeps
      | (with_reducible apply Keeps.rest; first | with_reducible assumption | with_reducible exact Keeps.refl _ | with_reducible apply State.request_keeps | with_reducible apply State.respond_keeps | with_reducible apply State.keepBusy_keeps | with_reducible apply State.startShoot_keeps | split)

theorem State.zeroNew_keeps {s0 s : State} {old new : Sparse Partition} (h_s : Keeps s0 s) : Keeps s0 (State.zeroNew s old new) := by
  unfold State.zeroNew
  exact h_s.onStore (fun h => Sparse.wf_filter _ _ _ h)

theorem State.applyTable_keeps {s0 : State} {s : State} {t : List PartEntry} (h_s : Keeps s0 s) : Keeps s0 (State.applyTable s t) := by
  unfold State.applyTable
  repeat' first
      | with_reducible assumption | with_reducible apply Keeps.nextTurn | with_reducible exact Keeps.refl _ | with_reducible apply Kept.next
      | with_reducible apply Kept.fault | with_reducible apply Keeps.foldl | with_reducible apply Keeps.foldlP | with_reducible apply hf
      | with_reducible apply State.zeroNew_keeps | with_reducible apply State.keepL2_keeps | with_reducible apply State.onDie_keeps
      | (with_reducible apply Keeps.restPlat; with_reducible assumption) | intro _ | with_reducible apply CoreKeeps.onTeam
      | with_reducible apply CoreKeeps.onStashLine | exact CoreKeeps.same rfl | exact GlenKeeps.same rfl | rfl
      | (extract_lets +onlyGivenNames x; first | (have hx : Keeps s0 x := ?_; clear_value x; on_goal 2 => subst x) | (have hx : Keeps s0 x.1 := ?_; clear_value x; on_goal 2 => subst x) | (have hf : ∀ t, Keeps s0 t → Keeps s0 (x t) := ?_; clear_value x; on_goal 2 => subst x) | (have hf : ∀ t b, Keeps s0 t → Keeps s0 (x t b) := ?_; clear_value x; on_goal 2 => subst x) | (have hf : ∀ a b t, Keeps s0 t → Keeps s0 (x a b t) := ?_; clear_value x; on_goal 2 => subst x) | (have hf : ∀ a, Keeps s0 (x a) := ?_; clear_value x; on_goal 2 => subst x) | clear_value x)
      | (with_reducible apply Keeps.rest; first | with_reducible assumption | with_reducible exact Keeps.refl _ | with_reducible apply State.zeroNew_keeps | with_reducible apply State.keepL2_keeps | with_reducible apply State.onDie_keeps | split)
      | (with_reducible apply Keeps.restStore; first | with_reducible assumption | with_reducible exact Keeps.refl _ | with_reducible apply State.zeroNew_keeps | with_reducible apply State.keepL2_keeps | with_reducible apply State.onDie_keeps | split)
      | split

theorem State.onDrain_keeps {s0 : State} {s : State} {cid : Nat} {f : Drain → Drain} (h_s : Keeps s0 s) : Keeps s0 (State.onDrain s cid f) := 
  State.onHost_keeps h_s

theorem State.onGridsOf_keeps {s0 : State} {s : State} {cid : Nat} {f : Grid → Grid} (h_s : Keeps s0 s) : Keeps s0 (State.onGridsOf s cid f) := 
  Keeps.rest h_s

theorem State.settleClaims_keeps {s0 : State} {s : State} {cid : Nat} (h_s : Keeps s0 s) : Keeps s0 (State.settleClaims s cid) := by
  unfold State.settleClaims
  repeat' first
      | with_reducible assumption | with_reducible apply Kept.next | with_reducible apply Keeps.foldl | with_reducible apply Keeps.foldlP
      | with_reducible apply State.setClaim_keeps | with_reducible apply State.onGrid_keeps | exact State.placeClaim_keeps (by assumption) ‹_›
      | intro _ | split

theorem State.beginDrain_keeps {s0 : State} {s : State} {d : Drain} (h_s : Keeps s0 s) : Keeps s0 (State.beginDrain s d) := 
  State.settleClaims_keeps h_s

theorem execDrainRequest_keeps {s0 : State} {fn : Nat} {r : DrainReq} {s : State} (h_s : Keeps s0 s) : Kept s0 (execDrainRequest fn r s) := by
  unfold execDrainRequest
  repeat' first
      | with_reducible assumption | with_reducible apply Kept.next | with_reducible apply State.request_keeps
      | with_reducible apply State.respond_keeps | with_reducible apply State.beginDrain_keeps
      | (with_reducible apply Keeps.rest; first | with_reducible assumption | with_reducible exact Keeps.refl _ | with_reducible apply State.request_keeps | with_reducible apply State.respond_keeps | with_reducible apply State.beginDrain_keeps | split)

theorem State.settleGrids_keeps {s0 : State} {s : State} {cid : Nat} (h_s : Keeps s0 s) : Keeps s0 (State.settleGrids s cid) := by
  unfold State.settleGrids
  repeat' first | with_reducible assumption | with_reducible apply Kept.next | with_reducible apply State.onGridsOf_keeps | split

theorem State.saveInto_keeps {s0 s : State} {cid core team : Nat} (h_s : Keeps s0 s) : Keeps s0 (State.saveInto s cid core team) := by
  unfold State.saveInto
  split
  · exact h_s
  · rename_i d hd
    extract_lets s0' s1 t key tell need va
    have h1 : Keeps s0 s1 := State.finishStores_keeps (h_s.onCore core (fun _ => .same rfl))
    have ht : ∀ x y, Keeps s0 y → Keeps s0 (tell x y) := fun x y h => by
      unfold tell
      split
      · exact h
      · exact State.teamEvent_keeps (State.onDrain_keeps h)
    clear_value s1 tell
    split
    · exact ht _ _ h1
    · split
      · exact State.onGrid_keeps (State.onDrain_keeps (State.saveTeam_keeps h1 ‹_›))
      · exact ht _ _ h1
      · exact State.askFor_keeps h1

theorem execDrainTimeout_keeps {s0 : State} {cid : Nat} {s : State} (h_s : Keeps s0 s) : Kept s0 (execDrainTimeout cid s) := by
  unfold execDrainTimeout
  repeat' first
      | with_reducible assumption | with_reducible apply Kept.next | with_reducible apply Keeps.foldl | with_reducible apply Keeps.foldlP
      | with_reducible apply State.onDrain_keeps | with_reducible apply State.settleGrids_keeps | with_reducible apply State.saveInto_keeps | intro _
      | split

theorem State.shootFor_keeps {s0 : State} {s : State} {fn : Nat} {cids : List Nat} {t : List PartEntry} (h_s : Keeps s0 s) : Keeps s0 (State.shootFor s fn cids t) := by
  unfold State.shootFor
  repeat' first
      | with_reducible assumption | with_reducible apply Kept.next | with_reducible apply Keeps.foldl | with_reducible apply Keeps.foldlP
      | with_reducible apply State.startShoot_keeps | with_reducible apply State.keepBusy_keeps | intro _

theorem State.drainsDone_keeps {s0 : State} {s : State} (h_s : Keeps s0 s) : Keeps s0 (State.drainsDone s) := by
  unfold State.drainsDone
  repeat' first
      | with_reducible assumption | with_reducible apply Keeps.nextTurn | with_reducible exact Keeps.refl _ | with_reducible apply Kept.next
      | with_reducible apply Kept.fault | with_reducible apply Keeps.foldl | with_reducible apply Keeps.foldlP | with_reducible apply hf
      | with_reducible apply State.shootFor_keeps | (with_reducible apply Keeps.restPlat; with_reducible assumption) | intro _
      | with_reducible apply CoreKeeps.onTeam | with_reducible apply CoreKeeps.onStashLine | exact CoreKeeps.same rfl | exact GlenKeeps.same rfl | rfl
      | (extract_lets +onlyGivenNames x; first | (have hx : Keeps s0 x := ?_; clear_value x; on_goal 2 => subst x) | (have hx : Keeps s0 x.1 := ?_; clear_value x; on_goal 2 => subst x) | (have hf : ∀ t, Keeps s0 t → Keeps s0 (x t) := ?_; clear_value x; on_goal 2 => subst x) | (have hf : ∀ t b, Keeps s0 t → Keeps s0 (x t b) := ?_; clear_value x; on_goal 2 => subst x) | (have hf : ∀ a b t, Keeps s0 t → Keeps s0 (x a b t) := ?_; clear_value x; on_goal 2 => subst x) | (have hf : ∀ a, Keeps s0 (x a) := ?_; clear_value x; on_goal 2 => subst x) | clear_value x)
      | (with_reducible apply Keeps.rest; first | with_reducible assumption | with_reducible exact Keeps.refl _ | with_reducible apply State.shootFor_keeps | split)
      | (with_reducible apply Keeps.restStore; first | with_reducible assumption | with_reducible exact Keeps.refl _ | with_reducible apply State.shootFor_keeps | split)
      | split

theorem execDrainComplete_keeps {s0 : State} {cid : Nat} {s : State} (h_s : Keeps s0 s) : Kept s0 (execDrainComplete cid s) := by
  unfold execDrainComplete
  repeat' first
      | with_reducible assumption | with_reducible apply Keeps.nextTurn | with_reducible exact Keeps.refl _ | with_reducible apply Kept.next
      | with_reducible apply Kept.fault | with_reducible apply Keeps.foldl | with_reducible apply Keeps.foldlP | with_reducible apply hf
      | with_reducible apply State.drainsDone_keeps | with_reducible apply State.onDrain_keeps | with_reducible apply State.settleGrids_keeps
      | (with_reducible apply Keeps.restPlat; with_reducible assumption) | intro _ | with_reducible apply CoreKeeps.onTeam
      | with_reducible apply CoreKeeps.onStashLine | exact CoreKeeps.same rfl | exact GlenKeeps.same rfl | rfl
      | (extract_lets +onlyGivenNames x; first | (have hx : Keeps s0 x := ?_; clear_value x; on_goal 2 => subst x) | (have hx : Keeps s0 x.1 := ?_; clear_value x; on_goal 2 => subst x) | (have hf : ∀ t, Keeps s0 t → Keeps s0 (x t) := ?_; clear_value x; on_goal 2 => subst x) | (have hf : ∀ t b, Keeps s0 t → Keeps s0 (x t b) := ?_; clear_value x; on_goal 2 => subst x) | (have hf : ∀ a b t, Keeps s0 t → Keeps s0 (x a b t) := ?_; clear_value x; on_goal 2 => subst x) | (have hf : ∀ a, Keeps s0 (x a) := ?_; clear_value x; on_goal 2 => subst x) | clear_value x)
      | (with_reducible apply Keeps.rest; first | with_reducible assumption | with_reducible exact Keeps.refl _ | with_reducible apply State.drainsDone_keeps | with_reducible apply State.onDrain_keeps | with_reducible apply State.settleGrids_keeps | split)
      | (with_reducible apply Keeps.restStore; first | with_reducible assumption | with_reducible exact Keeps.refl _ | with_reducible apply State.drainsDone_keeps | with_reducible apply State.onDrain_keeps | with_reducible apply State.settleGrids_keeps | split)
      | split

theorem execResumeAfterDrain_keeps {s0 : State} {fn : Nat} {cid : Nat} {s : State} (h_s : Keeps s0 s) : Kept s0 (execResumeAfterDrain fn cid s) := by
  unfold execResumeAfterDrain
  repeat' first
      | with_reducible assumption | with_reducible apply Keeps.nextTurn | with_reducible exact Keeps.refl _ | with_reducible apply Kept.next
      | with_reducible apply Kept.fault | with_reducible apply Keeps.foldl | with_reducible apply Keeps.foldlP | with_reducible apply hf
      | with_reducible apply State.request_keeps | with_reducible apply State.respond_keeps | with_reducible apply State.onHost_keeps
      | with_reducible apply State.onGridsOf_keeps | (with_reducible apply Keeps.restPlat; with_reducible assumption) | intro _
      | with_reducible apply CoreKeeps.onTeam | with_reducible apply CoreKeeps.onStashLine | exact CoreKeeps.same rfl | exact GlenKeeps.same rfl | rfl
      | (extract_lets +onlyGivenNames x; first | (have hx : Keeps s0 x := ?_; clear_value x; on_goal 2 => subst x) | (have hx : Keeps s0 x.1 := ?_; clear_value x; on_goal 2 => subst x) | (have hf : ∀ t, Keeps s0 t → Keeps s0 (x t) := ?_; clear_value x; on_goal 2 => subst x) | (have hf : ∀ t b, Keeps s0 t → Keeps s0 (x t b) := ?_; clear_value x; on_goal 2 => subst x) | (have hf : ∀ a b t, Keeps s0 t → Keeps s0 (x a b t) := ?_; clear_value x; on_goal 2 => subst x) | (have hf : ∀ a, Keeps s0 (x a) := ?_; clear_value x; on_goal 2 => subst x) | clear_value x)
      | (with_reducible apply Keeps.rest; first | with_reducible assumption | with_reducible exact Keeps.refl _ | with_reducible apply State.request_keeps | with_reducible apply State.respond_keeps | with_reducible apply State.onHost_keeps | with_reducible apply State.onGridsOf_keeps | split)
      | (with_reducible apply Keeps.restStore; first | with_reducible assumption | with_reducible exact Keeps.refl _ | with_reducible apply State.request_keeps | with_reducible apply State.respond_keeps | with_reducible apply State.onHost_keeps | with_reducible apply State.onGridsOf_keeps | split)
      | split

theorem execSaveAreaSupply_keeps {s0 : State} {cid : Nat} {bytes : Nat} {s : State} (h_s : Keeps s0 s) : Kept s0 (execSaveAreaSupply cid bytes s) := 
  Kept.next (State.onDrain_keeps h_s)

theorem execConfigurePartitions_keeps {s0 : State} {fn : Nat} {table : List PartEntry} {s : State} (h_s : Keeps s0 s) : Kept s0 (execConfigurePartitions fn table s) := by
  unfold execConfigurePartitions
  repeat' first
      | with_reducible assumption | with_reducible apply Keeps.nextTurn | with_reducible exact Keeps.refl _ | with_reducible apply Kept.next
      | with_reducible apply Kept.fault | with_reducible apply Keeps.foldl | with_reducible apply Keeps.foldlP | with_reducible apply hf
      | with_reducible apply State.request_keeps | with_reducible apply State.respond_keeps | with_reducible apply State.applyTable_keeps
      | with_reducible apply State.beginDrain_keeps | with_reducible apply State.keepBusy_keeps
      | (with_reducible apply Keeps.restPlat; with_reducible assumption) | intro _ | with_reducible apply CoreKeeps.onTeam
      | with_reducible apply CoreKeeps.onStashLine | exact CoreKeeps.same rfl | exact GlenKeeps.same rfl | rfl
      | (extract_lets +onlyGivenNames x; first | (have hx : Keeps s0 x := ?_; clear_value x; on_goal 2 => subst x) | (have hx : Keeps s0 x.1 := ?_; clear_value x; on_goal 2 => subst x) | (have hf : ∀ t, Keeps s0 t → Keeps s0 (x t) := ?_; clear_value x; on_goal 2 => subst x) | (have hf : ∀ t b, Keeps s0 t → Keeps s0 (x t b) := ?_; clear_value x; on_goal 2 => subst x) | (have hf : ∀ a b t, Keeps s0 t → Keeps s0 (x a b t) := ?_; clear_value x; on_goal 2 => subst x) | (have hf : ∀ a, Keeps s0 (x a) := ?_; clear_value x; on_goal 2 => subst x) | clear_value x)
      | (with_reducible apply Keeps.rest; first | with_reducible assumption | with_reducible exact Keeps.refl _ | with_reducible apply State.request_keeps | with_reducible apply State.respond_keeps | with_reducible apply State.applyTable_keeps | with_reducible apply State.beginDrain_keeps | with_reducible apply State.keepBusy_keeps | split)
      | (with_reducible apply Keeps.restStore; first | with_reducible assumption | with_reducible exact Keeps.refl _ | with_reducible apply State.request_keeps | with_reducible apply State.respond_keeps | with_reducible apply State.applyTable_keeps | with_reducible apply State.beginDrain_keeps | with_reducible apply State.keepBusy_keeps | split)
      | split

theorem State.shootDone_keeps {s0 : State} {s : State} {fn : Nat} {id : Nat} (h_s : Keeps s0 s) : Keeps s0 (State.shootDone s fn id) := by
  unfold State.shootDone
  repeat' first
      | with_reducible assumption | with_reducible apply Keeps.nextTurn | with_reducible exact Keeps.refl _ | with_reducible apply Kept.next
      | with_reducible apply Kept.fault | with_reducible apply Keeps.foldl | with_reducible apply Keeps.foldlP | with_reducible apply hf
      | with_reducible apply State.respond_keeps | with_reducible apply State.setContext_keeps | with_reducible apply State.applyTable_keeps
      | with_reducible apply State.keepBusy_keeps | (with_reducible apply Keeps.restPlat; with_reducible assumption) | intro _
      | with_reducible apply CoreKeeps.onTeam | with_reducible apply CoreKeeps.onStashLine | exact CoreKeeps.same rfl | exact GlenKeeps.same rfl | rfl
      | (extract_lets +onlyGivenNames x; first | (have hx : Keeps s0 x := ?_; clear_value x; on_goal 2 => subst x) | (have hx : Keeps s0 x.1 := ?_; clear_value x; on_goal 2 => subst x) | (have hf : ∀ t, Keeps s0 t → Keeps s0 (x t) := ?_; clear_value x; on_goal 2 => subst x) | (have hf : ∀ t b, Keeps s0 t → Keeps s0 (x t b) := ?_; clear_value x; on_goal 2 => subst x) | (have hf : ∀ a b t, Keeps s0 t → Keeps s0 (x a b t) := ?_; clear_value x; on_goal 2 => subst x) | (have hf : ∀ a, Keeps s0 (x a) := ?_; clear_value x; on_goal 2 => subst x) | clear_value x)
      | (with_reducible apply Keeps.rest; first | with_reducible assumption | with_reducible exact Keeps.refl _ | with_reducible apply State.respond_keeps | with_reducible apply State.setContext_keeps | with_reducible apply State.applyTable_keeps | with_reducible apply State.keepBusy_keeps | split)
      | (with_reducible apply Keeps.restStore; first | with_reducible assumption | with_reducible exact Keeps.refl _ | with_reducible apply State.respond_keeps | with_reducible apply State.setContext_keeps | with_reducible apply State.applyTable_keeps | with_reducible apply State.keepBusy_keeps | split)
      | split

theorem execShootdownComplete_keeps {s0 s : State} {id : Nat} (h_s : Keeps s0 s) : Kept s0 (execShootdownComplete id s) := by
  unfold execShootdownComplete
  apply Kept.next
  split
  · exact h_s
  · split
    · exact h_s
    · extract_lets s1
      have h1 : Keeps s0 s1 := State.onHost_keeps h_s
      split
      · exact State.wakeTlbi_keeps h1
      · exact State.shootDone_keeps h1
      · exact h1

theorem execConfigureBfq_keeps {s0 : State} {fn : Nat} {die : Nat} {queue : Nat} {r : BfqReq} {s : State} (h_s : Keeps s0 s) : Kept s0 (execConfigureBfq fn die queue r s) := by
  unfold execConfigureBfq
  repeat' first
      | with_reducible assumption | with_reducible apply Keeps.nextTurn | with_reducible exact Keeps.refl _ | with_reducible apply Kept.next
      | with_reducible apply Kept.fault | with_reducible apply Keeps.foldl | with_reducible apply Keeps.foldlP | with_reducible apply hf
      | with_reducible apply State.request_keeps | with_reducible apply State.respond_keeps | with_reducible apply State.onBfq_keeps
      | (with_reducible apply Keeps.restPlat; with_reducible assumption) | intro _ | with_reducible apply CoreKeeps.onTeam
      | with_reducible apply CoreKeeps.onStashLine | exact CoreKeeps.same rfl | exact GlenKeeps.same rfl | rfl
      | (extract_lets +onlyGivenNames x; first | (have hx : Keeps s0 x := ?_; clear_value x; on_goal 2 => subst x) | (have hx : Keeps s0 x.1 := ?_; clear_value x; on_goal 2 => subst x) | (have hf : ∀ t, Keeps s0 t → Keeps s0 (x t) := ?_; clear_value x; on_goal 2 => subst x) | (have hf : ∀ t b, Keeps s0 t → Keeps s0 (x t b) := ?_; clear_value x; on_goal 2 => subst x) | (have hf : ∀ a b t, Keeps s0 t → Keeps s0 (x a b t) := ?_; clear_value x; on_goal 2 => subst x) | (have hf : ∀ a, Keeps s0 (x a) := ?_; clear_value x; on_goal 2 => subst x) | clear_value x)
      | (with_reducible apply Keeps.rest; first | with_reducible assumption | with_reducible exact Keeps.refl _ | with_reducible apply State.request_keeps | with_reducible apply State.respond_keeps | with_reducible apply State.onBfq_keeps | split)
      | (with_reducible apply Keeps.restStore; first | with_reducible assumption | with_reducible exact Keeps.refl _ | with_reducible apply State.request_keeps | with_reducible apply State.respond_keeps | with_reducible apply State.onBfq_keeps | split)
      | split

theorem execLatencyTolerance_keeps {s0 s : State} {fn part cycles : Nat} (h_s : Keeps s0 s) :
    Kept s0 (execLatencyTolerance fn part cycles s) := by
  unfold execLatencyTolerance
  apply Kept.next
  refine State.request_keeps h_s ?_
  split
  · exact State.respond_keeps h_s
  · split
    · exact State.respond_keeps h_s
    · exact State.respond_keeps (Keeps.restPlat h_s)

theorem execWriteDebugRegisters_keeps {s0 : State} {fn : Nat} {core : Nat} {num : Nat} {value : DWord} {s : State} (h_s : Keeps s0 s) : Kept s0 (execWriteDebugRegisters fn core num value s) := by
  unfold execWriteDebugRegisters
  repeat' first
      | with_reducible assumption | with_reducible apply Keeps.nextTurn | with_reducible exact Keeps.refl _ | with_reducible apply Kept.next
      | with_reducible apply Kept.fault | with_reducible apply Keeps.foldl | with_reducible apply Keeps.foldlP | with_reducible apply hf
      | with_reducible apply State.request_keeps | with_reducible apply State.respond_keeps | with_reducible apply Keeps.onCore
      | with_reducible apply State.onDie_keeps | (with_reducible apply Keeps.restPlat; with_reducible assumption) | intro _
      | with_reducible apply CoreKeeps.onTeam | with_reducible apply CoreKeeps.onStashLine | exact CoreKeeps.same rfl | exact GlenKeeps.same rfl | rfl
      | (extract_lets +onlyGivenNames x; first | (have hx : Keeps s0 x := ?_; clear_value x; on_goal 2 => subst x) | (have hx : Keeps s0 x.1 := ?_; clear_value x; on_goal 2 => subst x) | (have hf : ∀ t, Keeps s0 t → Keeps s0 (x t) := ?_; clear_value x; on_goal 2 => subst x) | (have hf : ∀ t b, Keeps s0 t → Keeps s0 (x t b) := ?_; clear_value x; on_goal 2 => subst x) | (have hf : ∀ a b t, Keeps s0 t → Keeps s0 (x a b t) := ?_; clear_value x; on_goal 2 => subst x) | (have hf : ∀ a, Keeps s0 (x a) := ?_; clear_value x; on_goal 2 => subst x) | clear_value x)
      | (with_reducible apply Keeps.rest; first | with_reducible assumption | with_reducible exact Keeps.refl _ | with_reducible apply State.request_keeps | with_reducible apply State.respond_keeps | with_reducible apply Keeps.onCore | with_reducible apply State.onDie_keeps | split)
      | (with_reducible apply Keeps.restStore; first | with_reducible assumption | with_reducible exact Keeps.refl _ | with_reducible apply State.request_keeps | with_reducible apply State.respond_keeps | with_reducible apply Keeps.onCore | with_reducible apply State.onDie_keeps | split)
      | split

theorem State.answer_keeps {s0 : State} {s : State} {fn : Nat} {r : RecordName} {accepts : Outstanding → Bool} {f : Outstanding → State → State} (h_s : Keeps s0 s) (h_f : ∀ (x0 : Outstanding) (x1 : State), Keeps s0 x1 → Keeps s0 (f x0 x1)) : Keeps s0 (State.answer s fn r accepts f) := by
  unfold State.answer
  repeat' first
      | with_reducible assumption | with_reducible apply Kept.next | with_reducible apply h_f | with_reducible apply State.request_keeps
      | with_reducible apply State.respond_keeps | with_reducible apply State.onHost_keeps | split

theorem State.retryCmd_keeps {s0 : State} {s : State} {core : Nat} {id : Nat} (h_s : Keeps s0 s) : Keeps s0 (State.retryCmd s core id) := by
  unfold State.retryCmd
  repeat' first
      | with_reducible assumption | with_reducible apply Keeps.nextTurn | with_reducible exact Keeps.refl _ | with_reducible apply Kept.next
      | with_reducible apply Kept.fault | with_reducible apply Keeps.foldl | with_reducible apply Keeps.foldlP | with_reducible apply hf
      | with_reducible apply State.onCmd_keeps | with_reducible apply State.bfqStart_keeps
      | (with_reducible apply Keeps.restPlat; with_reducible assumption) | intro _ | with_reducible apply CoreKeeps.onTeam
      | with_reducible apply CoreKeeps.onStashLine | exact CoreKeeps.same rfl | exact GlenKeeps.same rfl | rfl
      | (extract_lets +onlyGivenNames x; first | (have hx : Keeps s0 x := ?_; clear_value x; on_goal 2 => subst x) | (have hx : Keeps s0 x.1 := ?_; clear_value x; on_goal 2 => subst x) | (have hf : ∀ t, Keeps s0 t → Keeps s0 (x t) := ?_; clear_value x; on_goal 2 => subst x) | (have hf : ∀ t b, Keeps s0 t → Keeps s0 (x t b) := ?_; clear_value x; on_goal 2 => subst x) | (have hf : ∀ a b t, Keeps s0 t → Keeps s0 (x a b t) := ?_; clear_value x; on_goal 2 => subst x) | (have hf : ∀ a, Keeps s0 (x a) := ?_; clear_value x; on_goal 2 => subst x) | clear_value x)
      | (with_reducible apply Keeps.rest; first | with_reducible assumption | with_reducible exact Keeps.refl _ | with_reducible apply State.onCmd_keeps | with_reducible apply State.bfqStart_keeps | split)
      | (with_reducible apply Keeps.restStore; first | with_reducible assumption | with_reducible exact Keeps.refl _ | with_reducible apply State.onCmd_keeps | with_reducible apply State.bfqStart_keeps | split)
      | split

theorem execAnswerRetry_keeps {s0 : State} {fn : Nat} {r : RecordName} {s : State} (h_s : Keeps s0 s) : Kept s0 (execAnswerRetry fn r s) := by
  unfold execAnswerRetry
  repeat' first
      | with_reducible assumption | with_reducible apply Keeps.nextTurn | with_reducible exact Keeps.refl _ | with_reducible apply Kept.next
      | with_reducible apply Kept.fault | with_reducible apply Keeps.foldl | with_reducible apply Keeps.foldlP | with_reducible apply hf
      | with_reducible apply State.answer_keeps | with_reducible apply State.resumeGang_keeps | with_reducible apply State.thaw_keeps
      | with_reducible apply State.retryCmd_keeps | with_reducible apply State.onGlenCmd_keeps | with_reducible apply State.onPacket_keeps
      | with_reducible apply State.onHost_keeps | (with_reducible apply Keeps.restPlat; with_reducible assumption) | intro _
      | with_reducible apply CoreKeeps.onTeam | with_reducible apply CoreKeeps.onStashLine | exact CoreKeeps.same rfl | exact GlenKeeps.same rfl | rfl
      | (extract_lets +onlyGivenNames x; first | (have hx : Keeps s0 x := ?_; clear_value x; on_goal 2 => subst x) | (have hx : Keeps s0 x.1 := ?_; clear_value x; on_goal 2 => subst x) | (have hf : ∀ t, Keeps s0 t → Keeps s0 (x t) := ?_; clear_value x; on_goal 2 => subst x) | (have hf : ∀ t b, Keeps s0 t → Keeps s0 (x t b) := ?_; clear_value x; on_goal 2 => subst x) | (have hf : ∀ a b t, Keeps s0 t → Keeps s0 (x a b t) := ?_; clear_value x; on_goal 2 => subst x) | (have hf : ∀ a, Keeps s0 (x a) := ?_; clear_value x; on_goal 2 => subst x) | clear_value x)
      | (with_reducible apply Keeps.rest; first | with_reducible assumption | with_reducible exact Keeps.refl _ | with_reducible apply State.answer_keeps | with_reducible apply State.resumeGang_keeps | with_reducible apply State.thaw_keeps | with_reducible apply State.retryCmd_keeps | with_reducible apply State.onGlenCmd_keeps | with_reducible apply State.onPacket_keeps | with_reducible apply State.onHost_keeps | split)
      | (with_reducible apply Keeps.restStore; first | with_reducible assumption | with_reducible exact Keeps.refl _ | with_reducible apply State.answer_keeps | with_reducible apply State.resumeGang_keeps | with_reducible apply State.thaw_keeps | with_reducible apply State.retryCmd_keeps | with_reducible apply State.onGlenCmd_keeps | with_reducible apply State.onPacket_keeps | with_reducible apply State.onHost_keeps | split)
      | split

theorem State.abortGlen_keeps {s0 : State} {s : State} {n : Nat} (h_s : Keeps s0 s) : Keeps s0 (State.abortGlen s n) := by
  unfold State.abortGlen
  repeat' first
      | with_reducible assumption | with_reducible apply Keeps.nextTurn | with_reducible exact Keeps.refl _ | with_reducible apply Kept.next
      | with_reducible apply Kept.fault | with_reducible apply Keeps.foldl | with_reducible apply Keeps.foldlP | with_reducible apply hf
      | with_reducible apply State.onHost_keeps | with_reducible apply State.glenFinish_keeps | with_reducible apply State.endGlen_keeps
      | (with_reducible apply Keeps.restPlat; with_reducible assumption) | intro _ | with_reducible apply CoreKeeps.onTeam
      | with_reducible apply CoreKeeps.onStashLine | exact CoreKeeps.same rfl | exact GlenKeeps.same rfl | rfl
      | (extract_lets +onlyGivenNames x; first | (have hx : Keeps s0 x := ?_; clear_value x; on_goal 2 => subst x) | (have hx : Keeps s0 x.1 := ?_; clear_value x; on_goal 2 => subst x) | (have hf : ∀ t, Keeps s0 t → Keeps s0 (x t) := ?_; clear_value x; on_goal 2 => subst x) | (have hf : ∀ t b, Keeps s0 t → Keeps s0 (x t b) := ?_; clear_value x; on_goal 2 => subst x) | (have hf : ∀ a b t, Keeps s0 t → Keeps s0 (x a b t) := ?_; clear_value x; on_goal 2 => subst x) | (have hf : ∀ a, Keeps s0 (x a) := ?_; clear_value x; on_goal 2 => subst x) | clear_value x)
      | (with_reducible apply Keeps.rest; first | with_reducible assumption | with_reducible exact Keeps.refl _ | with_reducible apply State.onHost_keeps | with_reducible apply State.glenFinish_keeps | with_reducible apply State.endGlen_keeps | split)
      | (with_reducible apply Keeps.restStore; first | with_reducible assumption | with_reducible exact Keeps.refl _ | with_reducible apply State.onHost_keeps | with_reducible apply State.glenFinish_keeps | with_reducible apply State.endGlen_keeps | split)
      | split

theorem execAnswerEnd_keeps {s0 : State} {fn : Nat} {r : RecordName} {s : State} (h_s : Keeps s0 s) : Kept s0 (execAnswerEnd fn r s) := by
  unfold execAnswerEnd
  repeat' first
      | with_reducible assumption | with_reducible apply Keeps.nextTurn | with_reducible exact Keeps.refl _ | with_reducible apply Kept.next
      | with_reducible apply Kept.fault | with_reducible apply Keeps.foldl | with_reducible apply Keeps.foldlP | with_reducible apply hf
      | with_reducible apply State.answer_keeps | with_reducible apply State.endTeam_keeps | with_reducible apply State.abortGlen_keeps
      | with_reducible apply State.finishCmd_keeps | with_reducible apply State.onQueue_keeps | with_reducible apply State.disown_keeps
      | with_reducible apply State.queueError_keeps | with_reducible apply State.onHost_keeps
      | (with_reducible apply Keeps.restPlat; with_reducible assumption) | intro _ | with_reducible apply CoreKeeps.onTeam
      | with_reducible apply CoreKeeps.onStashLine | exact CoreKeeps.same rfl | exact GlenKeeps.same rfl | rfl
      | (extract_lets +onlyGivenNames x; first | (have hx : Keeps s0 x := ?_; clear_value x; on_goal 2 => subst x) | (have hx : Keeps s0 x.1 := ?_; clear_value x; on_goal 2 => subst x) | (have hf : ∀ t, Keeps s0 t → Keeps s0 (x t) := ?_; clear_value x; on_goal 2 => subst x) | (have hf : ∀ t b, Keeps s0 t → Keeps s0 (x t b) := ?_; clear_value x; on_goal 2 => subst x) | (have hf : ∀ a b t, Keeps s0 t → Keeps s0 (x a b t) := ?_; clear_value x; on_goal 2 => subst x) | (have hf : ∀ a, Keeps s0 (x a) := ?_; clear_value x; on_goal 2 => subst x) | clear_value x)
      | (with_reducible apply Keeps.rest; first | with_reducible assumption | with_reducible exact Keeps.refl _ | with_reducible apply State.answer_keeps | with_reducible apply State.endTeam_keeps | with_reducible apply State.abortGlen_keeps | with_reducible apply State.finishCmd_keeps | with_reducible apply State.onQueue_keeps | with_reducible apply State.disown_keeps | with_reducible apply State.queueError_keeps | with_reducible apply State.onHost_keeps | split)
      | (with_reducible apply Keeps.restStore; first | with_reducible assumption | with_reducible exact Keeps.refl _ | with_reducible apply State.answer_keeps | with_reducible apply State.endTeam_keeps | with_reducible apply State.abortGlen_keeps | with_reducible apply State.finishCmd_keeps | with_reducible apply State.onQueue_keeps | with_reducible apply State.disown_keeps | with_reducible apply State.queueError_keeps | with_reducible apply State.onHost_keeps | split)
      | split

theorem execAnswerLim_keeps {s0 : State} {fn : Nat} {r : RecordName} {lim : Word} {s : State} (h_s : Keeps s0 s) : Kept s0 (execAnswerLim fn r lim s) := by
  unfold execAnswerLim
  repeat' first
      | with_reducible assumption | with_reducible apply Keeps.nextTurn | with_reducible exact Keeps.refl _ | with_reducible apply Kept.next
      | with_reducible apply Kept.fault | with_reducible apply Keeps.foldl | with_reducible apply Keeps.foldlP | with_reducible apply hf
      | with_reducible apply State.answer_keeps | with_reducible apply State.resumeGang_keeps | with_reducible apply Keeps.onGroup
      | (with_reducible apply Keeps.restPlat; with_reducible assumption) | intro _ | with_reducible apply CoreKeeps.onTeam
      | with_reducible apply CoreKeeps.onStashLine | exact CoreKeeps.same rfl | exact GlenKeeps.same rfl | rfl
      | (extract_lets +onlyGivenNames x; first | (have hx : Keeps s0 x := ?_; clear_value x; on_goal 2 => subst x) | (have hx : Keeps s0 x.1 := ?_; clear_value x; on_goal 2 => subst x) | (have hf : ∀ t, Keeps s0 t → Keeps s0 (x t) := ?_; clear_value x; on_goal 2 => subst x) | (have hf : ∀ t b, Keeps s0 t → Keeps s0 (x t b) := ?_; clear_value x; on_goal 2 => subst x) | (have hf : ∀ a b t, Keeps s0 t → Keeps s0 (x a b t) := ?_; clear_value x; on_goal 2 => subst x) | (have hf : ∀ a, Keeps s0 (x a) := ?_; clear_value x; on_goal 2 => subst x) | clear_value x)
      | (with_reducible apply Keeps.rest; first | with_reducible assumption | with_reducible exact Keeps.refl _ | with_reducible apply State.answer_keeps | with_reducible apply State.resumeGang_keeps | with_reducible apply Keeps.onGroup | split)
      | (with_reducible apply Keeps.restStore; first | with_reducible assumption | with_reducible exact Keeps.refl _ | with_reducible apply State.answer_keeps | with_reducible apply State.resumeGang_keeps | with_reducible apply Keeps.onGroup | split)
      | split

theorem execPackageReset_keeps {s0 s : State} (h_s : Keeps s0 s) : Kept s0 (execPackageReset s) := by
  unfold execPackageReset
  refine Kept.next (h_s.trans ⟨fun x => ⟨Sparse.wf_filter _ _ _ x.1, ?_, ?_⟩, fun x => ⟨?_, x.2⟩, id, fun _ h => h, le_refl _⟩) <;>
  · intro p hp
    cases hp

theorem execCustomerKeySlotProvision_keeps {s0 s : State} {slot : Nat} {hash : List Byte} (h_s : Keeps s0 s) :
    Kept s0 (execCustomerKeySlotProvision slot hash s) := by
  unfold execCustomerKeySlotProvision
  apply Kept.next
  split
  · rename_i h
    simp only [Bool.and_eq_true, Bool.not_eq_true', List.any_eq_false] at h
    exact h_s.trans ⟨id, id, id, fun p hp => Sparse.mem_put _ _ _ p (by simpa using h.2 p hp) _ hp, le_refl _⟩
  · exact h_s

theorem execVendorKeyRevocation_keeps {s0 s : State} (h_s : Keeps s0 s) : Kept s0 (execVendorKeyRevocation s) := by
  unfold execVendorKeyRevocation
  exact Kept.next (h_s.trans ⟨id, id, fun _ => rfl, fun _ h => h, le_refl _⟩)

theorem execPowerFailure_keeps {s0 : State} {s : State} (h_s : Keeps s0 s) : Kept s0 (execPowerFailure s) := by
  unfold execPowerFailure
  repeat' first
      | with_reducible assumption | with_reducible exact Keeps.refl _ | with_reducible apply Kept.next | with_reducible apply Kept.fault
      | with_reducible apply Keeps.foldl | with_reducible apply Keeps.foldlP | with_reducible apply hf
      | (with_reducible apply Keeps.restPlat; with_reducible assumption) | intro _ | with_reducible apply CoreKeeps.onTeam
      | with_reducible apply CoreKeeps.onStashLine | exact CoreKeeps.same rfl | exact GlenKeeps.same rfl | rfl
      | (extract_lets +onlyGivenNames x; first | (have hx : Keeps s0 x := ?_; clear_value x; on_goal 2 => subst x) | (have hx : Keeps s0 x.1 := ?_; clear_value x; on_goal 2 => subst x) | (have hf : ∀ t, Keeps s0 t → Keeps s0 (x t) := ?_; clear_value x; on_goal 2 => subst x) | (have hf : ∀ t b, Keeps s0 t → Keeps s0 (x t b) := ?_; clear_value x; on_goal 2 => subst x) | (have hf : ∀ a b t, Keeps s0 t → Keeps s0 (x a b t) := ?_; clear_value x; on_goal 2 => subst x) | (have hf : ∀ a, Keeps s0 (x a) := ?_; clear_value x; on_goal 2 => subst x) | clear_value x)
      | (with_reducible apply Keeps.rest; first | with_reducible assumption | with_reducible exact Keeps.refl _ | split)
      | (with_reducible apply Keeps.restStore; first | with_reducible assumption | with_reducible exact Keeps.refl _ | split) | split

/-- The index of quotes moved on. -/
theorem Keeps.quote {s0 s : State} (h_s : Keeps s0 s) (h : s.plat.quote < 2 ^ 20) :
    Keeps s0 { s with plat := { s.plat with quote := s.plat.quote + 1 } } :=
  h_s.trans ⟨id, fun x => ⟨x.1, h⟩, id, fun _ h => h, Nat.le_succ _⟩

theorem execAttestationQuote_keeps {s0 s : State} {fn : Nat} {nonce : List Byte} (h_s : Keeps s0 s) :
    Kept s0 (execAttestationQuote fn nonce s) := by
  unfold execAttestationQuote
  apply Kept.next
  refine State.request_keeps h_s ?_
  dsimp only
  split
  · exact State.respond_keeps h_s
  · split
    · exact State.respond_keeps h_s
    · rename_i h
      unfold lastQuote at h
      exact State.respond_keeps (Keeps.quote h_s (by omega))

/-- A change of an island that keeps its supply within the bounds. -/
theorem State.onIsland_keeps {s0 s : State} {k : Nat} {f : Island → Island} (h_s : Keeps s0 s)
    (hf : ∀ x : Island, 450 ≤ x.supply ∧ x.supply ≤ 750 → 450 ≤ (f x).supply ∧ (f x).supply ≤ 750) : Keeps s0 (State.onIsland s k f) := by
  unfold State.onIsland
  refine h_s.trans ⟨id, fun x => ⟨?_, x.2⟩, id, fun _ h => h, le_refl _⟩
  exact Sparse.forall_upd (fun (i : Island) => 450 ≤ i.supply ∧ i.supply ≤ 750) {} k f (by decide) hf s.plat.islands x.1

theorem State.clearIsland_keeps {s0 : State} {s : State} {k : Nat} (h_s : Keeps s0 s) : Keeps s0 (State.clearIsland s k) := by
  unfold State.clearIsland
  repeat' first
      | with_reducible assumption | with_reducible apply Kept.next | with_reducible apply Keeps.foldl | with_reducible apply Keeps.foldlP
      | with_reducible apply hf | with_reducible apply Keeps.onCore | with_reducible apply Keeps.onGlen | intro _ | exact CoreKeeps.same rfl
      | exact GlenKeeps.same rfl
      | (extract_lets +onlyGivenNames x; first | (have hx : Keeps s0 x := ?_; clear_value x; on_goal 2 => subst x) | (have hx : Keeps s0 x.1 := ?_; clear_value x; on_goal 2 => subst x) | (have hf : ∀ t, Keeps s0 t → Keeps s0 (x t) := ?_; clear_value x; on_goal 2 => subst x) | (have hf : ∀ t b, Keeps s0 t → Keeps s0 (x t b) := ?_; clear_value x; on_goal 2 => subst x) | (have hf : ∀ a b t, Keeps s0 t → Keeps s0 (x a b t) := ?_; clear_value x; on_goal 2 => subst x) | (have hf : ∀ a, Keeps s0 (x a) := ?_; clear_value x; on_goal 2 => subst x) | clear_value x)
      | (with_reducible apply Keeps.rest; first | with_reducible assumption | with_reducible exact Keeps.refl _ | with_reducible apply Keeps.onCore | with_reducible apply Keeps.onGlen | split)
      | (with_reducible apply Keeps.restStore; first | with_reducible assumption | with_reducible exact Keeps.refl _ | with_reducible apply Keeps.onCore | with_reducible apply Keeps.onGlen | split)
      | split

theorem execIslandIdle_keeps {s0 s : State} {island : Nat} (h_s : Keeps s0 s) : Kept s0 (execIslandIdle island s) := by
  unfold execIslandIdle
  apply Kept.next
  extract_lets x rest rest'
  clear_value rest'
  split
  · exact h_s
  · rename_i s1 _
    refine State.onIsland_keeps ?_ (fun _ h => h)
    unfold s1
    split
    · exact State.clearIsland_keeps h_s
    · exact h_s

theorem execIslandWake_keeps {s0 s : State} {island : Nat} (h_s : Keeps s0 s) : Kept s0 (execIslandWake island s) := by
  unfold execIslandWake
  apply Kept.next
  dsimp only
  split
  · exact h_s
  · split
    · exact State.onIsland_keeps h_s (fun _ h => h)
    · split
      · exact State.onIsland_keeps h_s (fun _ h => h)
      · exact h_s

theorem State.tickIslands_keeps {s0 s : State} (h_s : Keeps s0 s) : Keeps s0 (State.tickIslands s) := by
  unfold State.tickIslands
  refine h_s.trans ⟨id, fun x => ⟨?_, x.2⟩, id, fun _ h => h, le_refl _⟩
  intro p hp
  obtain ⟨q, hq, rfl⟩ := List.mem_map.mp hp
  have := x.1 q hq
  split <;> exact this

theorem execAgeingMonitor_keeps {s0 s : State} {island needMv hours : Nat} (h_s : Keeps s0 s) :
    Kept s0 (execAgeingMonitor island needMv hours s) := by
  unfold execAgeingMonitor
  apply Kept.next
  split
  · exact h_s
  · extract_lets agent aux over' s1 s2
    have h1 : Keeps s0 s1 := State.onIsland_keeps h_s (fun x h => by simp; omega)
    have h2 : Keeps s0 s2 := by
      unfold s2
      split
      · exact State.onIsland_keeps (State.clearIsland_keeps h1) (fun _ h => h)
      · exact h1
    clear_value s2
    split
    · exact State.agentEvent_keeps h2
    · exact h2

theorem execHealthReport_keeps {s0 : State} {fn : Nat} {s : State} (h_s : Keeps s0 s) : Kept s0 (execHealthReport fn s) := by
  unfold execHealthReport
  repeat' first
      | with_reducible assumption | with_reducible apply Kept.next | with_reducible apply State.request_keeps
      | with_reducible apply State.respond_keeps

theorem State.corrected_keeps {s0 s : State} {p : EccPlace} (h_s : Keeps s0 s) : Keeps s0 (State.corrected s p) := by
  unfold State.corrected
  exact State.agentEvent_keeps (Keeps.restPlat h_s)

theorem execEccError_keeps {s0 : State} {place : EccPlace} {correctable : Bool} {s : State} (h_s : Keeps s0 s) : Kept s0 (execEccError place correctable s) := by
  unfold execEccError
  repeat' first
      | with_reducible assumption | with_reducible apply Kept.next | with_reducible apply State.corrected_keeps | with_reducible apply Keeps.onCore
      | with_reducible apply Keeps.onGroupAt | with_reducible apply State.agentEvent_keeps | with_reducible apply Keeps.onStore | intro _
      | exact CoreKeeps.same rfl
      | (extract_lets +onlyGivenNames x; first | (have hx : Keeps s0 x := ?_; clear_value x; on_goal 2 => subst x) | (have hx : Keeps s0 x.1 := ?_; clear_value x; on_goal 2 => subst x) | (have hf : ∀ t, Keeps s0 t → Keeps s0 (x t) := ?_; clear_value x; on_goal 2 => subst x) | (have hf : ∀ t b, Keeps s0 t → Keeps s0 (x t b) := ?_; clear_value x; on_goal 2 => subst x) | (have hf : ∀ a b t, Keeps s0 t → Keeps s0 (x a b t) := ?_; clear_value x; on_goal 2 => subst x) | (have hf : ∀ a, Keeps s0 (x a) := ?_; clear_value x; on_goal 2 => subst x) | clear_value x)
      | split

theorem execPatrolScrub_keeps {s0 : State} {_granule : Nat} {s : State} (h_s : Keeps s0 s) : Kept s0 (execPatrolScrub _granule s) := by
  unfold execPatrolScrub
  repeat' first | with_reducible assumption | with_reducible apply Kept.next

theorem execLinkLoss_keeps {s0 s : State} {link : Nat} (h_s : Keeps s0 s) : Kept s0 (execLinkLoss link s) := by
  unfold execLinkLoss
  apply Kept.next
  split
  · exact h_s
  · exact Keeps.foldl (fun t p h => State.finishCmd_keeps h) _ (Keeps.restPlat h_s)

theorem execModuleTrainingFailure_keeps {s0 s : State} {module : Nat} (h_s : Keeps s0 s) :
    Kept s0 (execModuleTrainingFailure module s) := by
  unfold execModuleTrainingFailure
  apply Kept.next
  split
  · exact h_s
  · exact Keeps.restPlat h_s

theorem exec_keeps {s0 : State} {i : Instr} {s : State} (h_s : Keeps s0 s) : Kept s0 (exec i s) :=
  match i with
  | .nop o => execNop_keeps (_o := o) h_s
  | .emptyBundle w => execEmptyBundle_keeps h_s
  | .bra o => execBra_keeps h_s
  | .brx o => execBrx_keeps h_s
  | .call o => execCall_keeps h_s
  | .callx o => execCallx_keeps h_s
  | .ret o => execRet_keeps h_s
  | .ifC o => execIfC_keeps h_s
  | .elseC o => execElseC_keeps h_s
  | .endif o => execEndif_keeps h_s
  | .loop o => execLoop_keeps h_s
  | .endloop o => execEndloop_keeps h_s
  | .brk o => execBrk_keeps h_s
  | .cont o => execCont_keeps h_s
  | .regang o => execRegang_keeps (_o := o) h_s
  | .regangRendezvous g => execRegangRendezvous_keeps h_s
  | .exit o => execExit_keeps (_o := o) h_s
  | .mode o => execMode_keeps h_s
  | .modeSwitch g => execModeSwitch_keeps h_s
  | .prfi o => execPrfi_keeps h_s
  | .spawn o => execSpawn_keeps h_s
  | .elect o => execElect_keeps h_s
  | .trap o => execTrap_keeps h_s
  | .brkp o => execBrkp_keeps h_s
  | .sysc o => execSysc_keeps h_s
  | .rdsr o => execRdsr_keeps h_s
  | .wrsr o => execWrsr_keeps h_s
  | .rdtime o => execRdtime_keeps h_s
  | .eret o => execEret_keeps (_o := o) h_s
  | .halt o => execHalt_keeps (_o := o) h_s
  | .eventTake core => execEventTake_keeps h_s
  | .tlbiRng o => execTlbiRng_keeps h_s
  | .tlbiCtx o => execTlbiCtx_keeps h_s
  | .tlbiAll o => execTlbiAll_keeps h_s
  | .tlbiSync o => execTlbiSync_keeps h_s
  | .ctxsave o => execCtxsave_keeps h_s
  | .ctxload o => execCtxload_keeps h_s
  | .add o => execAdd_keeps h_s
  | .sub o => execSub_keeps h_s
  | .addc o => execAddc_keeps h_s
  | .subc o => execSubc_keeps h_s
  | .mul o => execMul_keeps h_s
  | .mulh o => execMulh_keeps h_s
  | .mad o => execMad_keeps h_s
  | .div o => execDiv_keeps h_s
  | .rem o => execRem_keeps h_s
  | .min o => execMin_keeps h_s
  | .max o => execMax_keeps h_s
  | .abs o => execAbs_keeps h_s
  | .neg o => execNeg_keeps h_s
  | .and o => execAnd_keeps h_s
  | .or o => execOr_keeps h_s
  | .xor o => execXor_keeps h_s
  | .andn o => execAndn_keeps h_s
  | .not o => execNot_keeps h_s
  | .shl o => execShl_keeps h_s
  | .shr o => execShr_keeps h_s
  | .sar o => execSar_keeps h_s
  | .rot o => execRot_keeps h_s
  | .bfx o => execBfx_keeps h_s
  | .bfi o => execBfi_keeps h_s
  | .popc o => execPopc_keeps h_s
  | .clz o => execClz_keeps h_s
  | .brev o => execBrev_keeps h_s
  | .sel o => execSel_keeps h_s
  | .cmp o => execCmp_keeps h_s
  | .mov o => execMov_keeps h_s
  | .movi o => execMovi_keeps h_s
  | .movw o => execMovw_keeps h_s
  | .addImm o => execAddImm_keeps h_s
  | .mulImm o => execMulImm_keeps h_s
  | .andImm o => execAndImm_keeps h_s
  | .orImm o => execOrImm_keeps h_s
  | .xorImm o => execXorImm_keeps h_s
  | .shlImm o => execShlImm_keeps h_s
  | .shrImm o => execShrImm_keeps h_s
  | .sarImm o => execSarImm_keeps h_s
  | .cmpImm o => execCmpImm_keeps h_s
  | .minImm o => execMinImm_keeps h_s
  | .maxImm o => execMaxImm_keeps h_s
  | .fadd o => execFadd_keeps h_s
  | .fsub o => execFsub_keeps h_s
  | .fmul o => execFmul_keeps h_s
  | .fma o => execFma_keeps h_s
  | .fdiv o => execFdiv_keeps h_s
  | .fmin o => execFmin_keeps h_s
  | .fmax o => execFmax_keeps h_s
  | .fcmp o => execFcmp_keeps h_s
  | .fclass o => execFclass_keeps h_s
  | .frnd o => execFrnd_keeps h_s
  | .rcp o => execRcp_keeps h_s
  | .rsq o => execRsq_keeps h_s
  | .sqrt o => execSqrt_keeps h_s
  | .exp2 o => execExp2_keeps h_s
  | .log2 o => execLog2_keeps h_s
  | .sin o => execSin_keeps h_s
  | .cos o => execCos_keeps h_s
  | .tanh o => execTanh_keeps h_s
  | .cvt o => execCvt_keeps h_s
  | .pack o => execPack_keeps h_s
  | .unpack o => execUnpack_keeps h_s
  | .fmt o => execFmt_keeps h_s
  | .fmtrd o => execFmtrd_keeps h_s
  | .dot4 o => execDot4_keeps h_s
  | .dot8 o => execDot8_keeps h_s
  | .dotf o => execDotf_keeps h_s
  | .cbset o => execCbset_keeps h_s
  | .cbenc o => execCbenc_keeps h_s
  | .cbdec o => execCbdec_keeps h_s
  | .shfl o => execShfl_keeps h_s
  | .bcast o => execBcast_keeps h_s
  | .vote o => execVote_keeps h_s
  | .redux o => execRedux_keeps h_s
  | .psend o => execPsend_keeps h_s
  | .ptake o => execPtake_keeps h_s
  | .rng o => execRng_keeps h_s
  | .rngf o => execRngf_keeps h_s
  | .rsplit o => execRsplit_keeps h_s
  | .rngrd o => execRngrd_keeps h_s
  | .rngwr o => execRngwr_keeps h_s
  | .ldG o => execLdG_keeps h_s
  | .ldGAcq o => execLdGAcq_keeps h_s
  | .ldS o => execLdS_keeps h_s
  | .ldSAcq o => execLdSAcq_keeps h_s
  | .ldL o => execLdL_keeps h_s
  | .ldLAcq o => execLdLAcq_keeps h_s
  | .stG o => execStG_keeps h_s
  | .stGRel o => execStGRel_keeps h_s
  | .stGNt o => execStGNt_keeps h_s
  | .stS o => execStS_keeps h_s
  | .stSRel o => execStSRel_keeps h_s
  | .stL o => execStL_keeps h_s
  | .stLRel o => execStLRel_keeps h_s
  | .stLNt o => execStLNt_keeps h_s
  | .ldxG o => execLdxG_keeps h_s
  | .ldxS o => execLdxS_keeps h_s
  | .ldxL o => execLdxL_keeps h_s
  | .atomG o => execAtomG_keeps h_s
  | .atomS o => execAtomS_keeps h_s
  | .casG o => execCasG_keeps h_s
  | .casS o => execCasS_keeps h_s
  | .fence o => execFence_keeps h_s
  | .fenceComplete g => execFenceComplete_keeps h_s
  | .drain o => execDrain_keeps h_s
  | .pref o => execPref_keeps h_s
  | .trx o => execTrx_keeps h_s
  | .xpat o => execXpat_keeps h_s
  | .stmap o => execStmap_keeps h_s
  | .stflush o => execStflush_keeps h_s
  | .stunmap o => execStunmap_keeps h_s
  | .qbind o => execQbind_keeps h_s
  | .qfree o => execQfree_keeps h_s
  | .cpy o => execCpy_keeps h_s
  | .cpym o => execCpym_keeps h_s
  | .ringcfg o => execRingcfg_keeps h_s
  | .ringcfgRsv o => execRingcfgRsv_keeps h_s
  | .ringcfgCmt o => execRingcfgCmt_keeps h_s
  | .ringcfgTake o => execRingcfgTake_keeps h_s
  | .ringcfgPop o => execRingcfgPop_keeps h_s
  | .ringcfgHnd o => execRingcfgHnd_keeps h_s
  | .ringReconfigure core ring => execRingReconfigure_keeps h_s
  | .mma o => execMma_keeps h_s
  | .mmas o => execMmas_keeps h_s
  | .accflg o => execAccflg_keeps h_s
  | .accclr o => execAccclr_keeps h_s
  | .attn o => execAttn_keeps h_s
  | .massfold o => execMassfold_keeps h_s
  | .kvtrunc o => execKvtrunc_keeps h_s
  | .evict o => execEvict_keeps h_s
  | .coll o => execColl_keeps h_s
  | .waitf o => execWaitf_keeps h_s
  | .waitfWake w => execWaitfWake_keeps h_s
  | .setf o => execSetf_keeps h_s
  | .addf o => execAddf_keeps h_s
  | .setfRem o => execSetfRem_keeps h_s
  | .addfRem o => execAddfRem_keeps h_s
  | .setfHnd o => execSetfHnd_keeps h_s
  | .bfqpost o => execBfqpost_keeps h_s
  | .bfqtake o => execBfqtake_keeps h_s
  | .bfqtakeTimeout core cmd => execBfqtakeTimeout_keeps h_s
  | .bfqdone o => execBfqdone_keeps h_s
  | .gth o => execGth_keeps h_s
  | .dedup o => execDedup_keeps h_s
  | .pool o => execPool_keeps h_s
  | .unz o => execUnz_keeps h_s
  | .hand o => execHand_keeps h_s
  | .segwait o => execSegwait_keeps h_s
  | .tld o => execTld_keeps h_s
  | .tst o => execTst_keeps h_s
  | .tzero o => execTzero_keeps h_s
  | .tcpy o => execTcpy_keeps h_s
  | .tadd o => execTadd_keeps h_s
  | .tsub o => execTsub_keeps h_s
  | .tmul o => execTmul_keeps h_s
  | .tfma o => execTfma_keeps h_s
  | .tmax o => execTmax_keeps h_s
  | .texp o => execTexp_keeps h_s
  | .tcvt o => execTcvt_keeps h_s
  | .tscr o => execTscr_keeps h_s
  | .tscc o => execTscc_keeps h_s
  | .tredr o => execTredr_keeps h_s
  | .tredc o => execTredc_keeps h_s
  | .trotr o => execTrotr_keeps h_s
  | .trotc o => execTrotc_keeps h_s
  | .tbcr o => execTbcr_keeps h_s
  | .tbcc o => execTbcc_keeps h_s
  | .instructionFetch w => execInstructionFetch_keeps h_s
  | .icacheLineFill core line => execIcacheLineFill_keeps h_s
  | .writeBack g k => execWriteBack_keeps h_s
  | .storePerform core k => execStorePerform_keeps h_s
  | .pageWalk core cid va kind => execPageWalk_keeps (_kind := kind) h_s
  | .atsCompletion cid va grant => execAtsCompletion_keeps h_s
  | .pageRequestResponse cid va code => execPageRequestResponse_keeps h_s
  | .atsInvalidation pasid va pages => execAtsInvalidation_keeps h_s
  | .shootdownAck id u => execShootdownAck_keeps h_s
  | .shootdownComplete id => execShootdownComplete_keeps h_s
  | .stashFill core team win line own => execStashFill_keeps h_s
  | .stashRecall core team win line write => execStashRecall_keeps h_s
  | .hostSnoop core line invalidate => execHostSnoop_keeps h_s
  | .engineCommandStart core cmd => execEngineCommandStart_keeps h_s
  | .ownershipRegistration core cmd => execOwnershipRegistration_keeps h_s
  | .lineRelease core cmd line => execLineRelease_keeps h_s
  | .ringReserveGrant core ring => execRingReserveGrant_keeps h_s
  | .ringCommit core ring => execRingCommit_keeps h_s
  | .ringClaimGrant core ring => execRingClaimGrant_keeps h_s
  | .copyComplete core cmd => execCopyComplete_keeps h_s
  | .matrixOpComplete core cmd => execMatrixOpComplete_keeps h_s
  | .tileOpComplete core cmd => execTileOpComplete_keeps h_s
  | .sequenceClaimGrant core cmd => execSequenceClaimGrant_keeps h_s
  | .sequenceCommandComplete core cmd => execSequenceCommandComplete_keeps h_s
  | .glenCommandComplete glen cmd => execGlenCommandComplete_keeps h_s
  | .glenProgramEnd glen => execGlenProgramEnd_keeps h_s
  | .segmentCopyComplete glen => execSegmentCopyComplete_keeps h_s
  | .collectiveComplete comm seq => execCollectiveComplete_keeps h_s
  | .collectiveTimeout core cmd => execCollectiveTimeout_keeps h_s
  | .gatherCounterHalving slice => execGatherCounterHalving_keeps h_s
  | .meadowControlWrite slice value => execMeadowControlWrite_keeps h_s
  | .taskStart core => execTaskStart_keeps h_s
  | .teamClaim core => execTeamClaim_keeps h_s
  | .teamPlace core => execTeamPlace_keeps h_s
  | .teamHandoff core target => execTeamHandoff_keeps h_s
  | .placementReserveTimeout core => execPlacementReserveTimeout_keeps h_s
  | .teamRetire core team => execTeamRetire_keeps h_s
  | .gridComplete die grid => execGridComplete_keeps h_s
  | .gangPriorityAging g => execGangPriorityAging_keeps h_s
  | .kick queue value aligned8 => execKick_keeps h_s
  | .nopPacket queue => execNopPacket_keeps h_s
  | .launch queue => execLaunch_keeps h_s
  | .copy queue => execCopy_keeps h_s
  | .signal queue => execSignal_keeps h_s
  | .waitAll queue => execWaitAll_keeps h_s
  | .waitAny queue => execWaitAny_keeps h_s
  | .overlay queue => execOverlay_keeps h_s
  | .conditionLatch queue k => execConditionLatch_keeps h_s
  | .waitTimeout queue => execWaitTimeout_keeps h_s
  | .packetComplete queue index => execPacketComplete_keeps h_s
  | .queueStarvationPromotion queue => execQueueStarvationPromotion_keeps h_s
  | .createQueue fn r => execCreateQueue_keeps h_s
  | .destroyQueue fn queue => execDestroyQueue_keeps h_s
  | .resetQueue fn queue value => execResetQueue_keeps h_s
  | .resumeQueue fn queue => execResumeQueue_keeps h_s
  | .createEventQueue fn r => execCreateEventQueue_keeps h_s
  | .writeContextDescriptor fn cid w0 w1 => execWriteContextDescriptor_keeps h_s
  | .shootdownRequest fn scope => execShootdownRequest_keeps h_s
  | .drainRequest fn r => execDrainRequest_keeps h_s
  | .drainTimeout cid => execDrainTimeout_keeps h_s
  | .drainComplete cid => execDrainComplete_keeps h_s
  | .resumeAfterDrain fn cid => execResumeAfterDrain_keeps h_s
  | .teamRestore core => execTeamRestore_keeps h_s
  | .configureBfq fn die queue r => execConfigureBfq_keeps h_s
  | .latencyTolerance fn part cycles => execLatencyTolerance_keeps h_s
  | .attestationQuote fn nonce => execAttestationQuote_keeps h_s
  | .healthReport fn => execHealthReport_keeps h_s
  | .writeDebugRegisters fn core num value => execWriteDebugRegisters_keeps h_s
  | .configurePartitions fn table => execConfigurePartitions_keeps h_s
  | .answerRetry fn r => execAnswerRetry_keeps h_s
  | .answerEnd fn r => execAnswerEnd_keeps h_s
  | .answerLim fn r lim => execAnswerLim_keeps h_s
  | .eccError place correctable => execEccError_keeps h_s
  | .patrolScrub granule => execPatrolScrub_keeps (_granule := granule) h_s
  | .packageReset => execPackageReset_keeps h_s
  | .islandIdle island => execIslandIdle_keeps h_s
  | .islandWake island => execIslandWake_keeps h_s
  | .ageingMonitor island needMv hours => execAgeingMonitor_keeps h_s
  | .linkLoss link => execLinkLoss_keeps h_s
  | .moduleTrainingFailure module => execModuleTrainingFailure_keeps h_s
  | .fixedLatencyWriteBack g k => execFixedLatencyWriteBack_keeps h_s
  | .mailboxInvalidRequest fn code => execMailboxInvalidRequest_keeps h_s
  | .powerFailure => execPowerFailure_keeps h_s
  | .customerKeySlotProvision slot hash => execCustomerKeySlotProvision_keeps h_s
  | .vendorKeyRevocation => execVendorKeyRevocation_keeps h_s
  | .saveAreaSupply cid bytes => execSaveAreaSupply_keeps h_s

theorem State.stall_keeps {s0 : State} {s : State} {c : Issue} {is : List Instr} {fares : List Status} (h_s : Keeps s0 s) : Keeps s0 (State.stall s c is fares) := by
  unfold State.stall
  repeat' first | with_reducible assumption | with_reducible apply Kept.next | with_reducible apply State.countTag_keeps | split

theorem State.takePort_keeps {s0 : State} {s : State} {c : Issue} {is : List Instr} (h_s : Keeps s0 s) : Keeps s0 (State.takePort s c is) := by
  unfold State.takePort
  repeat' first
      | with_reducible assumption | with_reducible apply Kept.next | with_reducible apply Keeps.onCore | with_reducible apply State.holdUnits_keeps
      | intro _ | exact CoreKeeps.same rfl | split

theorem State.tickGangs_keeps {s0 : State} {s : State} (h_s : Keeps s0 s) : Keeps s0 (State.tickGangs s) := by
  unfold State.tickGangs
  repeat' first
      | with_reducible assumption | with_reducible apply Keeps.nextTurn | with_reducible exact Keeps.refl _ | with_reducible apply Kept.next
      | with_reducible apply Kept.fault | with_reducible apply Keeps.foldl | with_reducible apply Keeps.foldlP | with_reducible apply hf
      | with_reducible apply Keeps.onCore | (with_reducible apply Keeps.restPlat; with_reducible assumption) | intro _
      | with_reducible apply CoreKeeps.onTeam | with_reducible apply CoreKeeps.onStashLine | exact CoreKeeps.same rfl | exact GlenKeeps.same rfl | rfl
      | (extract_lets +onlyGivenNames x; first | (have hx : Keeps s0 x := ?_; clear_value x; on_goal 2 => subst x) | (have hx : Keeps s0 x.1 := ?_; clear_value x; on_goal 2 => subst x) | (have hf : ∀ t, Keeps s0 t → Keeps s0 (x t) := ?_; clear_value x; on_goal 2 => subst x) | (have hf : ∀ t b, Keeps s0 t → Keeps s0 (x t b) := ?_; clear_value x; on_goal 2 => subst x) | (have hf : ∀ a b t, Keeps s0 t → Keeps s0 (x a b t) := ?_; clear_value x; on_goal 2 => subst x) | (have hf : ∀ a, Keeps s0 (x a) := ?_; clear_value x; on_goal 2 => subst x) | clear_value x)
      | (with_reducible apply Keeps.rest; first | with_reducible assumption | with_reducible exact Keeps.refl _ | with_reducible apply Keeps.onCore | split)
      | (with_reducible apply Keeps.restStore; first | with_reducible assumption | with_reducible exact Keeps.refl _ | with_reducible apply Keeps.onCore | split)
      | split

theorem State.tick_keeps {s0 : State} {s : State} (h_s : Keeps s0 s) : Keeps s0 (State.tick s) := by
  unfold State.tick
  repeat' first
      | with_reducible assumption | with_reducible apply Keeps.nextTurn | with_reducible exact Keeps.refl _ | with_reducible apply Kept.next
      | with_reducible apply Kept.fault | with_reducible apply Keeps.foldl | with_reducible apply Keeps.foldlP | with_reducible apply hf
      | with_reducible apply State.tickGangs_keeps | with_reducible apply State.tickIslands_keeps | with_reducible apply State.tickQueues_keeps
      | with_reducible apply Keeps.onCore | (with_reducible apply Keeps.restPlat; with_reducible assumption) | intro _
      | with_reducible apply CoreKeeps.onTeam | with_reducible apply CoreKeeps.onStashLine | exact CoreKeeps.same rfl | exact GlenKeeps.same rfl | rfl
      | (extract_lets +onlyGivenNames x; first | (have hx : Keeps s0 x := ?_; clear_value x; on_goal 2 => subst x) | (have hx : Keeps s0 x.1 := ?_; clear_value x; on_goal 2 => subst x) | (have hf : ∀ t, Keeps s0 t → Keeps s0 (x t) := ?_; clear_value x; on_goal 2 => subst x) | (have hf : ∀ t b, Keeps s0 t → Keeps s0 (x t b) := ?_; clear_value x; on_goal 2 => subst x) | (have hf : ∀ a b t, Keeps s0 t → Keeps s0 (x a b t) := ?_; clear_value x; on_goal 2 => subst x) | (have hf : ∀ a, Keeps s0 (x a) := ?_; clear_value x; on_goal 2 => subst x) | clear_value x)
      | (with_reducible apply Keeps.rest; first | with_reducible assumption | with_reducible exact Keeps.refl _ | with_reducible apply State.tickGangs_keeps | with_reducible apply State.tickIslands_keeps | with_reducible apply State.tickQueues_keeps | with_reducible apply Keeps.onCore | split)
      | (with_reducible apply Keeps.restStore; first | with_reducible assumption | with_reducible exact Keeps.refl _ | with_reducible apply State.tickGangs_keeps | with_reducible apply State.tickIslands_keeps | with_reducible apply State.tickQueues_keeps | with_reducible apply Keeps.onCore | split)
      | split

/-! ## The steps that the device takes by itself -/

/-- Each of the steps keeps the forms. -/
def Acts (fs : List Act) : Prop := ∀ f ∈ fs, ∀ s0 s, Keeps s0 s → Kept s0 (f s)

theorem Acts.nil : Acts [] := fun _ h => by cases h
theorem Acts.cons {f : Act} {fs : List Act} (h : ∀ s0 s, Keeps s0 s → Kept s0 (f s)) (hs : Acts fs) : Acts (f :: fs) := fun g hg => by
  rcases List.mem_cons.mp hg with rfl | hg
  · exact h
  · exact hs g hg
theorem Acts.one {f : Act} (h : ∀ s0 s, Keeps s0 s → Kept s0 (f s)) : Acts [f] := .cons h .nil
theorem Acts.append {fs gs : List Act} (h : Acts fs) (k : Acts gs) : Acts (fs ++ gs) := fun f hf => by
  rcases List.mem_append.mp hf with hf | hf
  · exact h f hf
  · exact k f hf
theorem Acts.map {α : Type} {f : α → Act} {l : List α} (h : ∀ x s0 s, Keeps s0 s → Kept s0 (f x s)) : Acts (l.map f) := fun g hg => by
  obtain ⟨x, _, rfl⟩ := List.mem_map.mp hg
  exact h x
theorem Acts.flatMap {α : Type} {f : α → List Act} {l : List α} (h : ∀ x, Acts (f x)) : Acts (l.flatMap f) := fun g hg => by
  obtain ⟨x, _, hx⟩ := List.mem_flatMap.mp hg
  exact h x g hx

theorem waitEvents_keep (w : Who) (unit : Nat) (y : Slice) : Acts (waitEvents w unit y) := by
  unfold waitEvents
  split
  · exact .one fun _ _ h => execWaitfWake_keeps h
  · exact .one fun _ _ h => execPageWalk_keeps h
  · exact .nil

theorem groupEvents_keep (core : Nat) (p : Nat × Group) (now : Nat) : Acts (groupEvents core p now) := by
  unfold groupEvents resultEvents
  dsimp only
  refine .append (.append (.append (.append (.append (.map fun x _ _ h => ?_) ?_) ?_) (.flatMap fun k => waitEvents_keep _ _ _))
    (.flatMap fun _ => .map fun _ _ _ h => execFenceComplete_keeps h)) (.map fun _ _ _ h => execGangPriorityAging_keeps h)
  · split
    · exact execWriteBack_keeps h
    · exact execFixedLatencyWriteBack_keeps h
  · split
    · exact .one fun _ _ h => execRegangRendezvous_keeps h
    · exact .nil
  · split
    · exact .one fun _ _ h => execModeSwitch_keeps h
    · exact .nil

theorem cmdEvents_keep (core : Nat) (d : Cmd) : Acts (cmdEvents core d) := by
  unfold cmdEvents
  split
  · exact .cons (fun _ _ h => execOwnershipRegistration_keeps h) (.one fun _ _ h => execEngineCommandStart_keeps h)
  · exact .cons (fun _ _ h => execSequenceClaimGrant_keeps h) (.one fun _ _ h => execEngineCommandStart_keeps h)
  · split
    · exact .cons (fun _ _ h => execCollectiveComplete_keeps h) (.one fun _ _ h => execCollectiveTimeout_keeps h)
    · split
      · exact .cons (fun _ _ h => execEngineCommandStart_keeps h) (.one fun _ _ h => execBfqtakeTimeout_keeps h)
      · exact .cons (fun _ _ h => execCopyComplete_keeps h) (.cons (fun _ _ h => execMatrixOpComplete_keeps h)
          (.one fun _ _ h => execTileOpComplete_keeps h))
  · exact .one fun _ _ h => execSequenceCommandComplete_keeps h

theorem ringEvents_keep (core ring : Nat) : Acts (ringEvents core ring) := by
  unfold ringEvents
  exact .cons (fun _ _ h => execRingReserveGrant_keeps h) (.cons (fun _ _ h => execRingCommit_keeps h)
    (.cons (fun _ _ h => execRingClaimGrant_keeps h) (.one fun _ _ h => execRingReconfigure_keeps h)))

theorem handoffEvents_keep (s : State) (core : Nat) (q : Claim) : Acts (handoffEvents s core q) := by
  unfold handoffEvents
  dsimp only
  split
  · exact .map fun _ _ _ h => execTeamHandoff_keeps h
  · exact .nil

theorem coreEvents_keep (s : State) (p : Nat × Core) : Acts (coreEvents s p) := by
  unfold coreEvents
  dsimp only
  refine .append (.append (.append (.append (.append (.append (.append (.append (.append (.append (.append ?_
    (.map fun _ _ _ h => execIcacheLineFill_keeps h)) (.map fun _ _ _ h => execStorePerform_keeps h))
    (.map fun _ _ _ h => execStorePerform_keeps h)) (.map fun _ _ _ h => execPageWalk_keeps h)) (.flatMap fun _ => groupEvents_keep _ _ _)) (.flatMap fun _ => cmdEvents_keep _ _))
    (.flatMap fun _ => ringEvents_keep _ _)) ?_) ?_) (.map fun _ _ _ h => execTeamRetire_keeps h)) ?_
  · split
    · exact .one fun _ _ h => execEventTake_keeps h
    · exact .nil
  · split
    · exact .nil
    · exact .one fun _ _ h => execTaskStart_keeps h
  · split
    · split
      · exact .append (.cons (fun _ _ h => execTeamPlace_keeps h) (handoffEvents_keep _ _ _))
          (.one fun _ _ h => execPlacementReserveTimeout_keeps h)
      · exact .nil
    · exact .nil
  · split
    · exact .nil
    · exact .one fun _ _ h => execIslandWake_keeps h

theorem glenEvents_keep (s : State) (p : Nat × Glen) : Acts (glenEvents s p) := by
  unfold glenEvents
  dsimp only
  refine .append (.append (.append (.append ?_ (.map fun _ _ _ h => execGlenCommandComplete_keeps h)) ?_) ?_) ?_
  · split
    · exact waitEvents_keep _ _ _
    · exact .nil
  · split
    · exact .one fun _ _ h => execSegmentCopyComplete_keeps h
    · exact .nil
  · split
    · exact .one fun _ _ h => execGlenProgramEnd_keeps h
    · exact .nil
  · split
    · exact .one fun _ _ h => execIslandWake_keeps h
    · exact .nil

theorem claimEvents_keep (s : State) : Acts (claimEvents s) := by
  unfold claimEvents
  split
  · exact .append (.map fun _ _ _ h => execTeamRestore_keeps h) (.map fun _ _ _ h => execTeamClaim_keeps h)
  · exact .nil

theorem frontEvents_keep (s : State) (die : Nat) : Acts (frontEvents s die) := by
  unfold frontEvents
  split
  · exact .cons (fun _ _ h => execNopPacket_keeps h) (.cons (fun _ _ h => execLaunch_keeps h) (.cons (fun _ _ h => execCopy_keeps h)
      (.cons (fun _ _ h => execSignal_keeps h) (.cons (fun _ _ h => execWaitAll_keeps h) (.cons (fun _ _ h => execWaitAny_keeps h)
        (.one fun _ _ h => execOverlay_keeps h))))))
  · exact .nil

theorem queueEvents_keep (s : State) (p : Nat × Queue) : Acts (queueEvents s p) := by
  unfold queueEvents
  dsimp only
  refine .append (.append (.flatMap fun k => ?_) ?_) ?_
  · split
    · exact .one fun _ _ h => execPacketComplete_keeps h
    · exact .append (.map fun _ _ _ h => execConditionLatch_keeps h) (.one fun _ _ h => execWaitTimeout_keeps h)
  · split
    · exact .one fun _ _ h => execPageWalk_keeps h
    · exact .nil
    · split
      · exact .one fun _ _ h => execPageWalk_keeps h
      · exact .nil
  · split
    · exact .one fun _ _ h => execQueueStarvationPromotion_keeps h
    · exact .nil

theorem dieEvents_keep (s : State) (p : Nat × Die) : Acts (dieEvents s p) := by
  unfold dieEvents
  exact .append (.map fun _ _ _ h => execGridComplete_keeps h) (frontEvents_keep _ _)

theorem shootEvents_keep (s : State) (x : Shoot) : Acts (shootEvents s x) := by
  unfold shootEvents
  split
  · exact .one fun _ _ h => execShootdownAck_keeps h
  · exact .one fun _ _ h => execShootdownComplete_keeps h

theorem mailEvents_keep (m : Nat × Mailbox) : Acts (mailEvents m) := by
  unfold mailEvents
  split
  · exact .one fun _ _ h => execResetQueue_keeps h
  · exact .nil

theorem wakeEvents_keep (s : State) : Acts (wakeEvents s) := by
  unfold wakeEvents
  exact .map fun _ _ _ h => execIslandWake_keeps h

/-- Every step that the device takes by itself keeps the forms. -/
theorem events_keep (s : State) : Acts (events s) := by
  unfold events
  refine .append (.append (.append (.append (.append (.append (.append (.append (.append (.append (.append (.flatMap fun _ => coreEvents_keep _ _)
    (.flatMap fun _ => glenEvents_keep _ _)) (.flatMap fun _ => dieEvents_keep _ _)) (claimEvents_keep _)) ?_)
    (.flatMap fun _ => queueEvents_keep _ _)) (.flatMap fun _ => mailEvents_keep _)) (.flatMap fun d => ?_)) (.flatMap fun _ => shootEvents_keep _ _))
    (.map fun _ _ _ h => execGatherCounterHalving_keeps h)) (.map fun _ _ _ h => execIslandIdle_keeps h)) (wakeEvents_keep s)
  · split
    · exact .nil
    · exact .one fun _ _ h => takeKick_keeps h
  · split
    · exact .nil
    · exact .cons (fun _ _ h => execDrainTimeout_keeps h) (.one fun _ _ h => execDrainComplete_keeps h)

theorem runOps_keeps {s0 : State} : ∀ (is : List Instr) {s : State}, Keeps s0 s → Kept s0 (runOps is s)
  | [], _, h => Kept.next h
  | i :: is, s, h => by
    unfold runOps
    have hx : Kept s0 (exec i s) := exec_keeps h
    split
    · exact runOps_keeps is (hx.use ‹_›)
    · exact hx

theorem State.endBundle_keeps {s0 s t : State} {c : Issue} {is : List Instr} {fares : List Status} (h_s : Keeps s0 s) (h_t : Keeps s0 t) :
    Keeps s0 (State.endBundle s t c is fares) := by
  unfold State.endBundle
  split
  · split
    · exact State.stall_keeps (State.finishFrom_keeps h_s h_t)
    · exact State.takePort_keeps (State.finishFrom_keeps h_s h_t)
  · exact h_s

theorem State.endWith_keeps {s0 s : State} {c : Issue} {is : List Instr} {fares : List Status} {st : Status} (h_s : Keeps s0 s) :
    Keeps s0 (State.endWith s c is fares st) := State.endBundle_keeps h_s (Keeps.rest h_s)

theorem issueOps_keeps {s0 s : State} {c : Issue} {is : List Instr} (h_s : Keeps s0 s) : Kept s0 (issueOps s c is) := by
  unfold issueOps
  extract_lets s1 s2 fares
  have h1 : Keeps s0 s1 := State.fenceFlush_keeps h_s
  have h2 : Keeps s0 s2 := Keeps.rest h1
  split
  · have hr : Kept s0 (runOps is s2) := runOps_keeps is h2
    split
    · exact Kept.next (State.endBundle_keeps h1 (hr.use ‹_›))
    · exact hr
  · exact Kept.next (State.endWith_keeps h1)

theorem issueBundle_keeps {s0 s : State} {w : Who} (h_s : Keeps s0 s) : Kept s0 (issueBundle w s) := by
  unfold issueBundle
  split
  · exact execInstructionFetch_keeps h_s
  · extract_lets c
    split
    · exact Kept.next (State.endWith_keeps h_s)
    · split
      · exact execInstructionFetch_keeps h_s
      · exact execEmptyBundle_keeps h_s
      · exact issueOps_keeps h_s

end Sys2Proof.Machine
end

