-- ==== Sys2Proof/Laws/State.lean ====
section
/-! SUPPORT. One lemma per field of State and update: what an update leaves alone, and what a place reads as after it. -/

namespace Sys2Proof.Machine

/-! ## onCore -/

@[simp] theorem State.onCore_now (s : State) (k : Nat) (f : Core → Core) : (s.onCore k f).now = s.now := rfl
@[simp] theorem State.onCore_glens (s : State) (k : Nat) (f : Core → Core) : (s.onCore k f).glens = s.glens := rfl
@[simp] theorem State.onCore_dies (s : State) (k : Nat) (f : Core → Core) : (s.onCore k f).dies = s.dies := rfl
@[simp] theorem State.onCore_store (s : State) (k : Nat) (f : Core → Core) : (s.onCore k f).store = s.store := rfl
@[simp] theorem State.onCore_slices (s : State) (k : Nat) (f : Core → Core) : (s.onCore k f).slices = s.slices := rfl
@[simp] theorem State.onCore_tlbs (s : State) (k : Nat) (f : Core → Core) : (s.onCore k f).tlbs = s.tlbs := rfl
@[simp] theorem State.onCore_contexts (s : State) (k : Nat) (f : Core → Core) : (s.onCore k f).contexts = s.contexts := rfl
@[simp] theorem State.onCore_ats (s : State) (k : Nat) (f : Core → Core) : (s.onCore k f).ats = s.ats := rfl
@[simp] theorem State.onCore_partitions (s : State) (k : Nat) (f : Core → Core) : (s.onCore k f).partitions = s.partitions := rfl
@[simp] theorem State.onCore_domain (s : State) (k : Nat) (f : Core → Core) : (s.onCore k f).domain = s.domain := rfl
@[simp] theorem State.onCore_host (s : State) (k : Nat) (f : Core → Core) : (s.onCore k f).host = s.host := rfl
@[simp] theorem State.onCore_plat (s : State) (k : Nat) (f : Core → Core) : (s.onCore k f).plat = s.plat := rfl
@[simp] theorem State.onCore_free (s : State) (k : Nat) (f : Core → Core) : (s.onCore k f).free = s.free := rfl
@[simp] theorem State.onCore_issue (s : State) (k : Nat) (f : Core → Core) : (s.onCore k f).issue = s.issue := rfl
@[simp] theorem State.onCore_agenda (s : State) (k : Nat) (f : Core → Core) : (s.onCore k f).agenda = s.agenda := rfl

/-! ## onDie -/

@[simp] theorem State.onDie_now (s : State) (k : Nat) (f : Die → Die) : (s.onDie k f).now = s.now := rfl
@[simp] theorem State.onDie_cores (s : State) (k : Nat) (f : Die → Die) : (s.onDie k f).cores = s.cores := rfl
@[simp] theorem State.onDie_glens (s : State) (k : Nat) (f : Die → Die) : (s.onDie k f).glens = s.glens := rfl
@[simp] theorem State.onDie_store (s : State) (k : Nat) (f : Die → Die) : (s.onDie k f).store = s.store := rfl
@[simp] theorem State.onDie_slices (s : State) (k : Nat) (f : Die → Die) : (s.onDie k f).slices = s.slices := rfl
@[simp] theorem State.onDie_tlbs (s : State) (k : Nat) (f : Die → Die) : (s.onDie k f).tlbs = s.tlbs := rfl
@[simp] theorem State.onDie_contexts (s : State) (k : Nat) (f : Die → Die) : (s.onDie k f).contexts = s.contexts := rfl
@[simp] theorem State.onDie_ats (s : State) (k : Nat) (f : Die → Die) : (s.onDie k f).ats = s.ats := rfl
@[simp] theorem State.onDie_partitions (s : State) (k : Nat) (f : Die → Die) : (s.onDie k f).partitions = s.partitions := rfl
@[simp] theorem State.onDie_domain (s : State) (k : Nat) (f : Die → Die) : (s.onDie k f).domain = s.domain := rfl
@[simp] theorem State.onDie_host (s : State) (k : Nat) (f : Die → Die) : (s.onDie k f).host = s.host := rfl
@[simp] theorem State.onDie_plat (s : State) (k : Nat) (f : Die → Die) : (s.onDie k f).plat = s.plat := rfl
@[simp] theorem State.onDie_free (s : State) (k : Nat) (f : Die → Die) : (s.onDie k f).free = s.free := rfl
@[simp] theorem State.onDie_issue (s : State) (k : Nat) (f : Die → Die) : (s.onDie k f).issue = s.issue := rfl
@[simp] theorem State.onDie_agenda (s : State) (k : Nat) (f : Die → Die) : (s.onDie k f).agenda = s.agenda := rfl

/-! ## onGlen -/

@[simp] theorem State.onGlen_now (s : State) (k : Nat) (f : Glen → Glen) : (s.onGlen k f).now = s.now := rfl
@[simp] theorem State.onGlen_cores (s : State) (k : Nat) (f : Glen → Glen) : (s.onGlen k f).cores = s.cores := rfl
@[simp] theorem State.onGlen_dies (s : State) (k : Nat) (f : Glen → Glen) : (s.onGlen k f).dies = s.dies := rfl
@[simp] theorem State.onGlen_store (s : State) (k : Nat) (f : Glen → Glen) : (s.onGlen k f).store = s.store := rfl
@[simp] theorem State.onGlen_slices (s : State) (k : Nat) (f : Glen → Glen) : (s.onGlen k f).slices = s.slices := rfl
@[simp] theorem State.onGlen_tlbs (s : State) (k : Nat) (f : Glen → Glen) : (s.onGlen k f).tlbs = s.tlbs := rfl
@[simp] theorem State.onGlen_contexts (s : State) (k : Nat) (f : Glen → Glen) : (s.onGlen k f).contexts = s.contexts := rfl
@[simp] theorem State.onGlen_ats (s : State) (k : Nat) (f : Glen → Glen) : (s.onGlen k f).ats = s.ats := rfl
@[simp] theorem State.onGlen_partitions (s : State) (k : Nat) (f : Glen → Glen) : (s.onGlen k f).partitions = s.partitions := rfl
@[simp] theorem State.onGlen_domain (s : State) (k : Nat) (f : Glen → Glen) : (s.onGlen k f).domain = s.domain := rfl
@[simp] theorem State.onGlen_host (s : State) (k : Nat) (f : Glen → Glen) : (s.onGlen k f).host = s.host := rfl
@[simp] theorem State.onGlen_plat (s : State) (k : Nat) (f : Glen → Glen) : (s.onGlen k f).plat = s.plat := rfl
@[simp] theorem State.onGlen_free (s : State) (k : Nat) (f : Glen → Glen) : (s.onGlen k f).free = s.free := rfl
@[simp] theorem State.onGlen_issue (s : State) (k : Nat) (f : Glen → Glen) : (s.onGlen k f).issue = s.issue := rfl
@[simp] theorem State.onGlen_agenda (s : State) (k : Nat) (f : Glen → Glen) : (s.onGlen k f).agenda = s.agenda := rfl

/-! ## onIssue -/

@[simp] theorem State.onIssue_now (s : State) (f : Issue → Issue) : (s.onIssue f).now = s.now := rfl
@[simp] theorem State.onIssue_cores (s : State) (f : Issue → Issue) : (s.onIssue f).cores = s.cores := rfl
@[simp] theorem State.onIssue_glens (s : State) (f : Issue → Issue) : (s.onIssue f).glens = s.glens := rfl
@[simp] theorem State.onIssue_dies (s : State) (f : Issue → Issue) : (s.onIssue f).dies = s.dies := rfl
@[simp] theorem State.onIssue_store (s : State) (f : Issue → Issue) : (s.onIssue f).store = s.store := rfl
@[simp] theorem State.onIssue_slices (s : State) (f : Issue → Issue) : (s.onIssue f).slices = s.slices := rfl
@[simp] theorem State.onIssue_tlbs (s : State) (f : Issue → Issue) : (s.onIssue f).tlbs = s.tlbs := rfl
@[simp] theorem State.onIssue_contexts (s : State) (f : Issue → Issue) : (s.onIssue f).contexts = s.contexts := rfl
@[simp] theorem State.onIssue_ats (s : State) (f : Issue → Issue) : (s.onIssue f).ats = s.ats := rfl
@[simp] theorem State.onIssue_partitions (s : State) (f : Issue → Issue) : (s.onIssue f).partitions = s.partitions := rfl
@[simp] theorem State.onIssue_domain (s : State) (f : Issue → Issue) : (s.onIssue f).domain = s.domain := rfl
@[simp] theorem State.onIssue_host (s : State) (f : Issue → Issue) : (s.onIssue f).host = s.host := rfl
@[simp] theorem State.onIssue_plat (s : State) (f : Issue → Issue) : (s.onIssue f).plat = s.plat := rfl
@[simp] theorem State.onIssue_free (s : State) (f : Issue → Issue) : (s.onIssue f).free = s.free := rfl
@[simp] theorem State.onIssue_agenda (s : State) (f : Issue → Issue) : (s.onIssue f).agenda = s.agenda := rfl

/-! ## onStore -/

@[simp] theorem State.onStore_now (s : State) (f : Store → Store) : (s.onStore f).now = s.now := rfl
@[simp] theorem State.onStore_cores (s : State) (f : Store → Store) : (s.onStore f).cores = s.cores := rfl
@[simp] theorem State.onStore_glens (s : State) (f : Store → Store) : (s.onStore f).glens = s.glens := rfl
@[simp] theorem State.onStore_dies (s : State) (f : Store → Store) : (s.onStore f).dies = s.dies := rfl
@[simp] theorem State.onStore_slices (s : State) (f : Store → Store) : (s.onStore f).slices = s.slices := rfl
@[simp] theorem State.onStore_tlbs (s : State) (f : Store → Store) : (s.onStore f).tlbs = s.tlbs := rfl
@[simp] theorem State.onStore_contexts (s : State) (f : Store → Store) : (s.onStore f).contexts = s.contexts := rfl
@[simp] theorem State.onStore_ats (s : State) (f : Store → Store) : (s.onStore f).ats = s.ats := rfl
@[simp] theorem State.onStore_partitions (s : State) (f : Store → Store) : (s.onStore f).partitions = s.partitions := rfl
@[simp] theorem State.onStore_domain (s : State) (f : Store → Store) : (s.onStore f).domain = s.domain := rfl
@[simp] theorem State.onStore_host (s : State) (f : Store → Store) : (s.onStore f).host = s.host := rfl
@[simp] theorem State.onStore_plat (s : State) (f : Store → Store) : (s.onStore f).plat = s.plat := rfl
@[simp] theorem State.onStore_free (s : State) (f : Store → Store) : (s.onStore f).free = s.free := rfl
@[simp] theorem State.onStore_issue (s : State) (f : Store → Store) : (s.onStore f).issue = s.issue := rfl
@[simp] theorem State.onStore_agenda (s : State) (f : Store → Store) : (s.onStore f).agenda = s.agenda := rfl

/-! ## onHost -/

@[simp] theorem State.onHost_now (s : State) (f : HostSide → HostSide) : (s.onHost f).now = s.now := rfl
@[simp] theorem State.onHost_cores (s : State) (f : HostSide → HostSide) : (s.onHost f).cores = s.cores := rfl
@[simp] theorem State.onHost_glens (s : State) (f : HostSide → HostSide) : (s.onHost f).glens = s.glens := rfl
@[simp] theorem State.onHost_dies (s : State) (f : HostSide → HostSide) : (s.onHost f).dies = s.dies := rfl
@[simp] theorem State.onHost_store (s : State) (f : HostSide → HostSide) : (s.onHost f).store = s.store := rfl
@[simp] theorem State.onHost_slices (s : State) (f : HostSide → HostSide) : (s.onHost f).slices = s.slices := rfl
@[simp] theorem State.onHost_tlbs (s : State) (f : HostSide → HostSide) : (s.onHost f).tlbs = s.tlbs := rfl
@[simp] theorem State.onHost_contexts (s : State) (f : HostSide → HostSide) : (s.onHost f).contexts = s.contexts := rfl
@[simp] theorem State.onHost_ats (s : State) (f : HostSide → HostSide) : (s.onHost f).ats = s.ats := rfl
@[simp] theorem State.onHost_partitions (s : State) (f : HostSide → HostSide) : (s.onHost f).partitions = s.partitions := rfl
@[simp] theorem State.onHost_domain (s : State) (f : HostSide → HostSide) : (s.onHost f).domain = s.domain := rfl
@[simp] theorem State.onHost_plat (s : State) (f : HostSide → HostSide) : (s.onHost f).plat = s.plat := rfl
@[simp] theorem State.onHost_free (s : State) (f : HostSide → HostSide) : (s.onHost f).free = s.free := rfl
@[simp] theorem State.onHost_issue (s : State) (f : HostSide → HostSide) : (s.onHost f).issue = s.issue := rfl
@[simp] theorem State.onHost_agenda (s : State) (f : HostSide → HostSide) : (s.onHost f).agenda = s.agenda := rfl

/-! ## onAts -/

@[simp] theorem State.onAts_now (s : State) (f : Ats → Ats) : (s.onAts f).now = s.now := rfl
@[simp] theorem State.onAts_cores (s : State) (f : Ats → Ats) : (s.onAts f).cores = s.cores := rfl
@[simp] theorem State.onAts_glens (s : State) (f : Ats → Ats) : (s.onAts f).glens = s.glens := rfl
@[simp] theorem State.onAts_dies (s : State) (f : Ats → Ats) : (s.onAts f).dies = s.dies := rfl
@[simp] theorem State.onAts_store (s : State) (f : Ats → Ats) : (s.onAts f).store = s.store := rfl
@[simp] theorem State.onAts_slices (s : State) (f : Ats → Ats) : (s.onAts f).slices = s.slices := rfl
@[simp] theorem State.onAts_tlbs (s : State) (f : Ats → Ats) : (s.onAts f).tlbs = s.tlbs := rfl
@[simp] theorem State.onAts_contexts (s : State) (f : Ats → Ats) : (s.onAts f).contexts = s.contexts := rfl
@[simp] theorem State.onAts_partitions (s : State) (f : Ats → Ats) : (s.onAts f).partitions = s.partitions := rfl
@[simp] theorem State.onAts_domain (s : State) (f : Ats → Ats) : (s.onAts f).domain = s.domain := rfl
@[simp] theorem State.onAts_host (s : State) (f : Ats → Ats) : (s.onAts f).host = s.host := rfl
@[simp] theorem State.onAts_plat (s : State) (f : Ats → Ats) : (s.onAts f).plat = s.plat := rfl
@[simp] theorem State.onAts_free (s : State) (f : Ats → Ats) : (s.onAts f).free = s.free := rfl
@[simp] theorem State.onAts_issue (s : State) (f : Ats → Ats) : (s.onAts f).issue = s.issue := rfl
@[simp] theorem State.onAts_agenda (s : State) (f : Ats → Ats) : (s.onAts f).agenda = s.agenda := rfl

/-! ## onGroupAt -/

@[simp] theorem State.onGroupAt_now (s : State) (a b c : Nat) (f : Group → Group) : (s.onGroupAt a b c f).now = s.now := rfl
@[simp] theorem State.onGroupAt_glens (s : State) (a b c : Nat) (f : Group → Group) : (s.onGroupAt a b c f).glens = s.glens := rfl
@[simp] theorem State.onGroupAt_dies (s : State) (a b c : Nat) (f : Group → Group) : (s.onGroupAt a b c f).dies = s.dies := rfl
@[simp] theorem State.onGroupAt_store (s : State) (a b c : Nat) (f : Group → Group) : (s.onGroupAt a b c f).store = s.store := rfl
@[simp] theorem State.onGroupAt_slices (s : State) (a b c : Nat) (f : Group → Group) : (s.onGroupAt a b c f).slices = s.slices := rfl
@[simp] theorem State.onGroupAt_tlbs (s : State) (a b c : Nat) (f : Group → Group) : (s.onGroupAt a b c f).tlbs = s.tlbs := rfl
@[simp] theorem State.onGroupAt_contexts (s : State) (a b c : Nat) (f : Group → Group) : (s.onGroupAt a b c f).contexts = s.contexts := rfl
@[simp] theorem State.onGroupAt_ats (s : State) (a b c : Nat) (f : Group → Group) : (s.onGroupAt a b c f).ats = s.ats := rfl
@[simp] theorem State.onGroupAt_partitions (s : State) (a b c : Nat) (f : Group → Group) : (s.onGroupAt a b c f).partitions = s.partitions := rfl
@[simp] theorem State.onGroupAt_domain (s : State) (a b c : Nat) (f : Group → Group) : (s.onGroupAt a b c f).domain = s.domain := rfl
@[simp] theorem State.onGroupAt_host (s : State) (a b c : Nat) (f : Group → Group) : (s.onGroupAt a b c f).host = s.host := rfl
@[simp] theorem State.onGroupAt_plat (s : State) (a b c : Nat) (f : Group → Group) : (s.onGroupAt a b c f).plat = s.plat := rfl
@[simp] theorem State.onGroupAt_free (s : State) (a b c : Nat) (f : Group → Group) : (s.onGroupAt a b c f).free = s.free := rfl
@[simp] theorem State.onGroupAt_issue (s : State) (a b c : Nat) (f : Group → Group) : (s.onGroupAt a b c f).issue = s.issue := rfl
@[simp] theorem State.onGroupAt_agenda (s : State) (a b c : Nat) (f : Group → Group) : (s.onGroupAt a b c f).agenda = s.agenda := rfl

/-! ## onGroup -/

@[simp] theorem State.onGroup_now (s : State) (w : Who) (f : Group → Group) : (s.onGroup w f).now = s.now := by cases w <;> rfl
@[simp] theorem State.onGroup_dies (s : State) (w : Who) (f : Group → Group) : (s.onGroup w f).dies = s.dies := by cases w <;> rfl
@[simp] theorem State.onGroup_store (s : State) (w : Who) (f : Group → Group) : (s.onGroup w f).store = s.store := by cases w <;> rfl
@[simp] theorem State.onGroup_slices (s : State) (w : Who) (f : Group → Group) : (s.onGroup w f).slices = s.slices := by cases w <;> rfl
@[simp] theorem State.onGroup_tlbs (s : State) (w : Who) (f : Group → Group) : (s.onGroup w f).tlbs = s.tlbs := by cases w <;> rfl
@[simp] theorem State.onGroup_contexts (s : State) (w : Who) (f : Group → Group) : (s.onGroup w f).contexts = s.contexts := by cases w <;> rfl
@[simp] theorem State.onGroup_ats (s : State) (w : Who) (f : Group → Group) : (s.onGroup w f).ats = s.ats := by cases w <;> rfl
@[simp] theorem State.onGroup_partitions (s : State) (w : Who) (f : Group → Group) : (s.onGroup w f).partitions = s.partitions := by cases w <;> rfl
@[simp] theorem State.onGroup_domain (s : State) (w : Who) (f : Group → Group) : (s.onGroup w f).domain = s.domain := by cases w <;> rfl
@[simp] theorem State.onGroup_host (s : State) (w : Who) (f : Group → Group) : (s.onGroup w f).host = s.host := by cases w <;> rfl
@[simp] theorem State.onGroup_plat (s : State) (w : Who) (f : Group → Group) : (s.onGroup w f).plat = s.plat := by cases w <;> rfl
@[simp] theorem State.onGroup_free (s : State) (w : Who) (f : Group → Group) : (s.onGroup w f).free = s.free := by cases w <;> rfl
@[simp] theorem State.onGroup_issue (s : State) (w : Who) (f : Group → Group) : (s.onGroup w f).issue = s.issue := by cases w <;> rfl
@[simp] theorem State.onGroup_agenda (s : State) (w : Who) (f : Group → Group) : (s.onGroup w f).agenda = s.agenda := by cases w <;> rfl

/-! ## Places -/

theorem State.core_onCore (s : State) (k j : Nat) (f : Core → Core) : (s.onCore k f).core j = if j = k then f (s.core k) else s.core j := by
  unfold State.core State.onCore Sparse.upd
  exact Sparse.look_put _ _ _ _ _

@[simp] theorem State.core_onCore_same (s : State) (k : Nat) (f : Core → Core) : (s.onCore k f).core k = f (s.core k) := by
  simp [State.core_onCore]

theorem State.core_onCore_other (s : State) {k j : Nat} (h : j ≠ k) (f : Core → Core) : (s.onCore k f).core j = s.core j := by
  simp [State.core_onCore, h]

theorem State.glen_onGlen (s : State) (k j : Nat) (f : Glen → Glen) : (s.onGlen k f).glen j = if j = k then f (s.glen k) else s.glen j := by
  unfold State.glen State.onGlen Sparse.upd
  exact Sparse.look_put _ _ _ _ _

@[simp] theorem State.glen_onGlen_same (s : State) (k : Nat) (f : Glen → Glen) : (s.onGlen k f).glen k = f (s.glen k) := by
  simp [State.glen_onGlen]

theorem State.die_onDie (s : State) (k j : Nat) (f : Die → Die) : (s.onDie k f).die j = if j = k then f (s.die k) else s.die j := by
  unfold State.die State.onDie Sparse.upd
  exact Sparse.look_put _ _ _ _ _

@[simp] theorem State.die_onDie_same (s : State) (k : Nat) (f : Die → Die) : (s.onDie k f).die k = f (s.die k) := by
  simp [State.die_onDie]

@[simp] theorem State.core_onDie (s : State) (k j : Nat) (f : Die → Die) : (s.onDie k f).core j = s.core j := rfl
@[simp] theorem State.core_onGlen (s : State) (k j : Nat) (f : Glen → Glen) : (s.onGlen k f).core j = s.core j := rfl
@[simp] theorem State.core_onIssue (s : State) (j : Nat) (f : Issue → Issue) : (s.onIssue f).core j = s.core j := rfl
@[simp] theorem State.core_onStore (s : State) (j : Nat) (f : Store → Store) : (s.onStore f).core j = s.core j := rfl
@[simp] theorem State.core_onHost (s : State) (j : Nat) (f : HostSide → HostSide) : (s.onHost f).core j = s.core j := rfl
@[simp] theorem State.glen_onDie (s : State) (k j : Nat) (f : Die → Die) : (s.onDie k f).glen j = s.glen j := rfl
@[simp] theorem State.glen_onCore (s : State) (k j : Nat) (f : Core → Core) : (s.onCore k f).glen j = s.glen j := rfl
@[simp] theorem State.glen_onIssue (s : State) (j : Nat) (f : Issue → Issue) : (s.onIssue f).glen j = s.glen j := rfl
@[simp] theorem State.glen_onStore (s : State) (j : Nat) (f : Store → Store) : (s.onStore f).glen j = s.glen j := rfl
@[simp] theorem State.glen_onHost (s : State) (j : Nat) (f : HostSide → HostSide) : (s.onHost f).glen j = s.glen j := rfl
@[simp] theorem State.die_onCore (s : State) (k j : Nat) (f : Core → Core) : (s.onCore k f).die j = s.die j := rfl
@[simp] theorem State.die_onGlen (s : State) (k j : Nat) (f : Glen → Glen) : (s.onGlen k f).die j = s.die j := rfl
@[simp] theorem State.die_onIssue (s : State) (j : Nat) (f : Issue → Issue) : (s.onIssue f).die j = s.die j := rfl
@[simp] theorem State.die_onStore (s : State) (j : Nat) (f : Store → Store) : (s.onStore f).die j = s.die j := rfl
@[simp] theorem State.die_onHost (s : State) (j : Nat) (f : HostSide → HostSide) : (s.onHost f).die j = s.die j := rfl

/-- What a group slot holds after a change of one. -/
theorem State.groupAt_onGroupAt (s : State) (a b c x y z : Nat) (f : Group → Group) :
    (s.onGroupAt a b c f).groupAt x y z = if x = a ∧ slotKey y z = slotKey b c then f (s.groupAt a b c) else s.groupAt x y z := by
  unfold State.groupAt State.onGroupAt
  rw [State.core_onCore]
  by_cases h : x = a
  · subst h
    simp only [if_true, Sparse.upd, true_and]
    by_cases k : slotKey y z = slotKey b c
    · rw [k, Sparse.look_put, if_pos rfl]
    · rw [if_neg k]
      exact Sparse.look_put_other _ _ _ _ _ k _
  · simp [h]

@[simp] theorem State.groupAt_onGroupAt_same (s : State) (a b c : Nat) (f : Group → Group) :
    (s.onGroupAt a b c f).groupAt a b c = f (s.groupAt a b c) := by simp [State.groupAt_onGroupAt]

/-- The issuer's registers after a change of them. -/
@[simp] theorem State.groupOf_onGroup_same (s : State) (w : Who) (f : Group → Group) : (s.onGroup w f).groupOf w = f (s.groupOf w) := by
  cases w <;> simp [State.groupOf, State.onGroup]

@[simp] theorem State.groupOf_onIssue (s : State) (w : Who) (f : Issue → Issue) : (s.onIssue f).groupOf w = s.groupOf w := by cases w <;> rfl
@[simp] theorem State.groupOf_onStore (s : State) (w : Who) (f : Store → Store) : (s.onStore f).groupOf w = s.groupOf w := by cases w <;> rfl
@[simp] theorem State.groupOf_onHost (s : State) (w : Who) (f : HostSide → HostSide) : (s.onHost f).groupOf w = s.groupOf w := by cases w <;> rfl
@[simp] theorem State.groupOf_onDie (s : State) (w : Who) (k : Nat) (f : Die → Die) : (s.onDie k f).groupOf w = s.groupOf w := by cases w <;> rfl

end Sys2Proof.Machine
end

