-- ==== Sys2Proof/Laws/Results.lean ====
section
/-! SUPPORT. What the shared operations of the lane and scalar paths do: an operation on the issuer's registers changes
nothing else, and the results of a lane or scalar operation. -/

namespace Sys2Proof.Machine

theorem MemoryKept.refl (s : State) : MemoryKept s s := ⟨fun _ => rfl, fun _ _ => rfl, fun _ _ => rfl⟩

theorem MemoryKept.trans {s t u : State} (h : MemoryKept s t) (k : MemoryKept t u) : MemoryKept s u :=
  ⟨fun a => (k.1 a).trans (h.1 a), fun x a => (k.2.1 x a).trans (h.2.1 x a), fun x a => (k.2.2 x a).trans (h.2.2 x a)⟩

theorem OnlyRegisters.refl (w : Who) (s : State) : OnlyRegisters w s s :=
  ⟨MemoryKept.refl s, fun _ _ => rfl, fun _ => rfl, fun _ => rfl, rfl⟩

theorem OnlyRegisters.trans {w : Who} {s t u : State} (h : OnlyRegisters w s t) (k : OnlyRegisters w t u) : OnlyRegisters w s u :=
  ⟨h.1.trans k.1, fun v hv => (k.2.1 v hv).trans (h.2.1 v hv), fun x => (k.2.2.1 x).trans (h.2.2.1 x),
    fun x => (k.2.2.2.1 x).trans (h.2.2.2.1 x), by rw [k.2.2.2.2, h.2.2.2.2]⟩

/-- Changing the issuer's registers changes nothing else. -/
theorem OnlyRegisters.onGroup (w : Who) (s : State) (f : Group → Group) : OnlyRegisters w s (s.onGroup w f) := by
  cases w with
  | gang g =>
    have hc (k : Nat) : { (s.onGroup (.gang g) f).core k with groups := [] } = { s.core k with groups := [] } := by
      show { (s.onCore g.core _).core k with groups := [] } = _
      rw [State.core_onCore]
      split
      · subst_vars; rfl
      · rfl
    refine ⟨⟨fun _ => rfl, fun k a => ?_, fun k a => rfl⟩, fun v hv => ?_, hc, fun k => rfl, rfl⟩
    · have h := congrArg Core.store (hc k)
      exact congrArg (fun x : CoreStore => Memory.byte x.spad a) h
    · cases v with
      | gang x =>
        refine (State.groupAt_onGroupAt s _ _ _ x.core x.bank x.slot f).trans (if_neg ?_)
        rintro ⟨h1, h2⟩
        simp [sameRegisters, h1, h2] at hv
      | glen n => rfl
  | glen n =>
    have hc (k : Nat) : { (s.onGroup (.glen n) f).glen k with ctx := {} } = { s.glen k with ctx := {} } := by
      show { (s.onGlen n _).glen k with ctx := {} } = _
      rw [State.glen_onGlen]
      split
      · subst_vars; rfl
      · rfl
    refine ⟨⟨fun _ => rfl, fun k a => rfl, fun k a => ?_⟩, fun v hv => ?_, fun k => rfl, hc, rfl⟩
    · have h := congrArg Glen.row (hc k)
      exact congrArg (fun x : Memory => Memory.byte x a) h
    · cases v with
      | gang x => rfl
      | glen m =>
        have hm : m ≠ n := fun h => by rw [h] at hv; exact absurd hv (by simp [sameRegisters])
        exact congrArg Glen.ctx ((State.glen_onGlen s n m _).trans (if_neg hm))

/-- Changing the issuer's registers, as the outcome of an operation. -/
theorem RegistersBecome.onGroup (c : Issue) (s : State) (f : Group → Group) : RegistersBecome s (s.onGroup c.who f) c f :=
  ⟨OnlyRegisters.onGroup _ _ _, State.groupOf_onGroup_same _ _ _⟩

theorem RegistersBecome.comp {s t u : State} {c : Issue} {f g : Group → Group} (h : RegistersBecome s t c f) (k : RegistersBecome t u c g) :
    RegistersBecome s u c (fun x => g (f x)) := ⟨h.1.trans k.1, by rw [k.2, h.2]⟩

/-- A group with no stream consumed. -/
@[simp] theorem Group.consume_nil (g : Group) : g.consume [] = g := rfl

/-- Sources consumed at once. -/
theorem State.consumed (s : State) (c : Issue) (qs : List (Nat × Bool)) :
    RegistersBecome s (if qs.isEmpty then s else s.onGroup c.who (fun g => g.consume qs)) c (fun g => g.consume qs) := by
  cases qs with
  | nil => exact ⟨OnlyRegisters.refl _ _, rfl⟩
  | cons q qs => exact RegistersBecome.onGroup c s _

theorem State.during_runs {s : State} {c : Issue} (h : Runs s c) (f : Issue → State) : s.during f = f c := by
  simp [State.during, h.1, h.2]

/-- A lane operation that takes effect. -/
theorem State.laneOp_runs {s : State} {c : Issue} {site : Site} {srcs : List (Spec × Bool)} (h : LanesRun s c site srcs)
    (f : Issue → Group → List Nat → State → State) :
    s.laneOp site srcs f =
      f c (s.cur c) (c.opLanes site) (if (streamsOf srcs).isEmpty then s else s.onGroup c.who (fun g => g.consume (streamsOf srcs))) := by
  unfold State.laneOp
  rw [State.during_runs h.1]
  simp only [List.isEmpty_iff, h.2.1, if_false]
  rw [h.2.2]

/-- A lane operation without an active lane does nothing (R149). -/
theorem State.laneOp_empty {s : State} {c : Issue} {site : Site} (h : Runs s c) (he : c.opLanes site = []) (srcs : List (Spec × Bool))
    (f : Issue → Group → List Nat → State → State) : s.laneOp site srcs f = s := by
  unfold State.laneOp
  rw [State.during_runs h]
  simp [he]

/-- Lane results put in flight after the streams are consumed. -/
theorem LaneResult.post {s t : State} {c : Issue} {site : Site} {srcs : List (Spec × Bool)} (d : Spec) (lat : Nat) (empties : Bool)
    (val : Group → Nat → Word) (h : RegistersBecome s t c (fun g => g.consume (streamsOf srcs))) (hn : t.now = s.now) :
    LaneResult s (t.postLanes c d ((c.opLanes site).map (fun l => (l, val (s.cur c) l))) lat empties) c site srcs d lat empties val := by
  cases d with
  | v n =>
    refine ⟨h.1.trans (OnlyRegisters.onGroup _ _ _), ?_⟩
    show State.groupOf _ _ = _
    rw [State.postLanes, State.groupOf_onGroup_same, ← State.cur, h.2, hn, List.map_map]; rfl
  | _ => exact ⟨h.1, h.2⟩

@[simp] theorem State.onGroup_now' (s : State) (w : Who) (f : Group → Group) : (s.onGroup w f).now = s.now := by cases w <;> rfl

/-- The outcome of a lane operation that writes one register. -/
theorem State.laneMap_result {s : State} {c : Issue} {site : Site} {srcs : List (Spec × Bool)} (h : LanesRun s c site srcs) (d : Spec)
    (lat : Nat) (empties : Bool) (f : Issue → Group → Nat → Nat) :
    LaneResult s (s.laneMap site srcs d lat empties f) c site srcs d lat empties (fun g l => BitVec.ofNat 32 (f c g l)) := by
  unfold State.laneMap
  rw [State.laneOp_runs h]
  have hn : (if (streamsOf srcs).isEmpty then s else s.onGroup c.who (fun g => g.consume (streamsOf srcs))).now = s.now := by
    split
    · rfl
    · exact State.onGroup_now' _ _ _
  exact LaneResult.post d lat empties (fun g l => BitVec.ofNat 32 (f c g l)) (State.consumed s c (streamsOf srcs)) hn

theorem State.scalarOp_runs {s : State} {c : Issue} {site : Site} (h : ScalarRuns s c site) (f : Issue → State) : s.scalarOp site f = f c := by
  unfold State.scalarOp
  rw [State.during_runs h.1]
  simp [h.2]

/-- A scalar operation whose stage suppresses it does nothing (R166). -/
theorem State.scalarOp_suppressed {s : State} {c : Issue} {site : Site} (h : Runs s c) (hs : c.scalarRuns site = false) (f : Issue → State) :
    s.scalarOp site f = s := by
  unfold State.scalarOp
  rw [State.during_runs h]
  simp [hs]

/-- The outcome of a scalar result put in flight. -/
theorem ScalarResult.post (s : State) (c : Issue) (d : Spec) (x : DWord) (lat : Nat) (empties : Bool) :
    ScalarResult s (s.postScalar c d x lat empties) c d lat empties x := by
  cases d with
  | s n =>
    refine ⟨OnlyRegisters.onGroup _ _ _, ?_⟩
    show State.groupOf _ _ = _
    rw [State.postScalar, State.groupOf_onGroup_same]; rfl
  | _ => exact ⟨OnlyRegisters.refl _ _, rfl⟩

end Sys2Proof.Machine
end

