-- ==== Sys2Proof/Tests/Slice0.lean ====
section
/-! SUPPORT. Tests: ill-formed terms that the checks refuse, words written out from the encodings, single steps on small states, and for
each statement with hypotheses a state and operands that meet them. -/

open Sys2Proof Sys2Proof.Machine

set_option maxRecDepth 20000

namespace Sys2Proof.Tests

/-- A gang of all slices of a full-width group, alone on core 0, about to issue. -/
def base : State := State.reset.placing (.simt 1#3) false (bundleBytes (.simt 1#3) [0#64])

/-- The same for a VLIW thread, the agent and a glen core. -/
def baseVliw : State := State.reset.placing (.unit 1#2) false (bundleBytes (.unit 1#2) [0#64])
def baseAgent : State := State.reset.placing (.simt 1#3) true (bundleBytes (.simt 1#3) [0#64])
def baseGlen : State := State.reset.placing (.glen 1#3) false (bundleBytes (.glen 1#3) [0#64])

def user : Who := .gang { core := 0, bank := 0, slot := 0, slice := 0 }
def agent : Who := .gang { core := 0, bank := 0, slot := 15, slice := 0 }

/-- The issue record of a bundle of 12 bytes, and the state in which it issues. -/
def rec (s : State) (w : Who) : Issue := s.beginIssue w 12
def begun (s : State) (w : Who) : State := { s with issue := some (rec s w) }

def site (k : BitVec 3) : Site := { slot := .simt k, stg := 0#2 }

/-! ## The checks refuse ill-formed terms -/

def addTerm : ROp := { at' := site 1, ty := .i32, d := .s 3, a := .s 1, b := .s 2, c := .v 0, fa := false, fb := false, fc := false, mod := 0 }
def fmaTerm : ROp := { at' := site 3, ty := .f32, d := .v 3, a := .v 1, b := .q 2, c := .lane, fa := false, fb := false, fc := false, mod := 0 }
def loadTerm : MOp := { at' := site 6, sz := 4, scp := .slice, d := .v 5, base := .s 2, idx := .v 7, pol := 0, tag := 0, off := 8 }
def atomTerm : AOp := { at' := site 6, aop := 0, ord := .ar, scp := .sys, d := .zero, a := .v 5, b := .v 0, ta := .n32, base := .s 2, idx := .v 7, tag := 0 }
def braTerm : BOp := { at' := site 0, form := 0, c := .zero, fc := false, mod := 0, off := 0xFFFFFFF0 }
def mmaTerm : EOp := { at' := site 7, ty := .bf16x2, d := .v 0, a := .v 0, b := .v 0, c := .v 0, fa := false, fb := false, fc := false, mod := 0, ext := BitVec.ofNat 64 (4 * 2 ^ 22) }

/-- Terms that keep every rule. -/
theorem test_well_formed_terms : wf (.add addTerm) = true ∧ wf (.fma fmaTerm) = true ∧ wf (.ldG loadTerm) = true ∧ wf (.atomG atomTerm) = true ∧ wf (.bra braTerm) = true ∧
    wf (.mma mmaTerm) = true ∧ wf .powerFailure = true := by decide

/-- A class that the slot does not take, a stage outside a VLIW bundle, a stage in the control slot, an operation that a VLIW thread or a glen core never
takes (R199, R200, R209, R229). -/
theorem test_site_refused : wf (.add { addTerm with at' := site 6 }) = false ∧ wf (.add { addTerm with at' := { slot := .simt 1, stg := 1 } }) = false ∧
    wf (.bra { braTerm with at' := { slot := .unit 0, stg := 1 } }) = false ∧ wf (.vote { fmaTerm with at' := { slot := .lane 0, stg := 0 } }) = false ∧
    wf (.ifC { addTerm with at' := { slot := .unit 0, stg := 0 } }) = false ∧ wf (.brx { addTerm with at' := { slot := .glen 0, stg := 0 } }) = false ∧
    wf (.hand { addTerm with at' := site 7 }) = false := by decide

/-- A type that the operation or the path does not take, a reserved bit of MOD or of the second word, an unused field that is not 0x00 (R203, R210, R213). -/
theorem test_fields_refused : wf (.add { addTerm with ty := .f32 }) = false ∧ wf (.fma { fmaTerm with ty := .i32 }) = false ∧ wf (.add { addTerm with at' := site 3, ty := .i64, d := .v 3, a := .v 1 }) = false ∧
    wf (.add { addTerm with mod := 0x2000 }) = false ∧ wf (.mma { mmaTerm with ext := 0x8000000000000000 }) = false ∧ wf (.add { addTerm with c := .s 1 }) = false ∧
    wf (.add { addTerm with fc := true }) = false := by decide

/-- What single instructions refuse (R230, R240, R242, R250, R263, R290, R313). -/
theorem test_instruction_checks_refuse : wf (.bra { braTerm with form := 3 }) = false ∧ wf (.bra { braTerm with off := 2 }) = false ∧ wf (.call { braTerm with form := 1 }) = false ∧
    wf (.add { addTerm with ty := .b32, mod := 4 }) = false ∧ wf (.nop { slot := .simt 1, stg := 1 }) = false ∧
    wf (.rdsr { at' := site 0, ty := .n64, d := .s 1, a := .v 0, imm := 0x106, fa := false, mod := 0 }) = false ∧
    wf (.cvt { fmaTerm with at' := site 5, b := .v 0, c := .v 0, mod := BitVec.ofNat 14 (4 * 2 ^ 9) }) = false ∧ wf (.atomG { atomTerm with aop := 10 }) = false ∧
    wf (.atomG { atomTerm with aop := 1 }) = false ∧ wf (.casG { atomTerm with aop := 1 }) = false ∧ wf (.mma { mmaTerm with ext := BitVec.ofNat 64 (8 * 2 ^ 22) }) = false ∧
    wf (.ldG { loadTerm with sz := 7 }) = false ∧ wf (.ldG { loadTerm with scp := .sys }) = false ∧ wf (.ldS { loadTerm with pol := 8 }) = false := by decide

/-- Register fields: a lane register in a scalar slot, a scalar destination of a lane operation, q or lane in a scalar slot, a reserved code, a constant without a value in
the type, an odd pair, the base of another space, an index that is no register (R206, R207, R211, R212). -/
theorem test_registers_refused : wf (.add { addTerm with a := .v 1 }) = false ∧ wf (.add { addTerm with at' := site 3 }) = false ∧ wf (.add { addTerm with b := .lane }) = false ∧
    wf (.add { addTerm with b := .q 0 }) = false ∧ wf (.add { addTerm with b := .reserved 0 }) = false ∧ wf (.add { addTerm with b := .const 10 }) = false ∧
    wf (.add { addTerm with d := .const 2 }) = false ∧ wf (.fma { fmaTerm with d := .x 1 }) = false ∧ wf (.ldG { loadTerm with sz := 5 }) = false ∧ wf (.ldG { loadTerm with base := .sp }) = false ∧
    wf (.ldS { loadTerm with base := .x 1 }) = false ∧ wf (.ldG { loadTerm with idx := .const 2 }) = false ∧ wf (.ldG { loadTerm with base := .pair }) = false ∧
    wf (.ldG { loadTerm with base := .reserved 43 }) = false ∧ wf (.atomG { atomTerm with ta := .i64 }) = false := by decide

/-! ## Words written out from the layouts of R203 to R208 and the map of R215 -/

/-- The words that the spec itself gives, in the examples of DOTF and PACK. -/
theorem test_decode_given_words : decodeOp (.simt 3) 0x690810080A0C0028 0 =
      .ok (.dotf { at' := site 3, ty := .bf16x2, d := .v 8, a := .v 4, b := .v 5, c := .v 6, fa := false, fb := false, fc := false, mod := 0x28 }) ∧
    decodeOp (.simt 5) 0x6314040002060004 0 =
      .ok (.pack { at' := site 5, ty := .e4m3x4, d := .v 2, a := .v 0, b := .v 1, c := .v 3, fa := false, fb := false, fc := false, mod := 4 }) := by decide

/-- Control and system: CALL with a window of 16, RET, IF on v1, LOOP on the count in s2. -/
theorem test_decode_control : decodeOp (.simt 0) (0x03#8 ++ 0#2 ++ 0#2 ++ 0#3 ++ 0x00#8 ++ 0#1 ++ 1#8 ++ 0x40#32) 0 =
      .ok (.call { at' := site 0, form := 0, c := .v 0, fc := false, mod := 1, off := 0x40 }) ∧
    decodeOp (.simt 0) (0x05#8 ++ 0#56) 0 = .ok (.ret { at' := site 0, ty := .b32, d := .v 0, a := .v 0, b := .v 0, c := .v 0, fa := false, fb := false, fc := false, mod := 0 }) ∧
    decodeOp (.simt 0) (0x06#8 ++ 0#2 ++ 0#5 ++ 0#8 ++ 0x01#8 ++ 0#8 ++ 0#8 ++ 0#3 ++ 0#14) 0 =
      .ok (.ifC { at' := site 0, ty := .b32, d := .v 0, a := .v 1, b := .v 0, c := .v 0, fa := false, fb := false, fc := false, mod := 0 }) ∧
    decodeOp (.simt 0) (0x09#8 ++ 0#2 ++ 0#2 ++ 0#3 ++ 0x42#8 ++ 0#1 ++ 0#8 ++ 0x80#32) 0 =
      .ok (.loop { at' := site 0, form := 0, c := .s 2, fc := false, mod := 0, off := 0x80 }) := by decide

/-- Integer and special operations: ADD in a lane slot with B from a stream register in full/empty mode, RCP, the immediate form of ADD with −2. -/
theorem test_decode_lane : decodeOp (.simt 3) (0x20#8 ++ 0#2 ++ 2#5 ++ 1#8 ++ 2#8 ++ 0x60#8 ++ 0#8 ++ 0b010#3 ++ 0#14) 0 =
      .ok (.add { at' := site 3, ty := .n32, d := .v 1, a := .v 2, b := .q 0, c := .v 0, fa := false, fb := true, fc := false, mod := 0 }) ∧
    decodeOp (.simt 5) (0x5A#8 ++ 0#2 ++ 3#5 ++ 1#8 ++ 2#8 ++ 0#8 ++ 0#8 ++ 0#3 ++ 0#14) 0 =
      .ok (.rcp { at' := site 5, ty := .f32, d := .v 1, a := .v 2, b := .v 0, c := .v 0, fa := false, fb := false, fc := false, mod := 0 }) ∧
    decodeOp (.simt 1) (0x40#8 ++ 0#2 ++ 1#5 ++ 0x43#8 ++ 0x41#8 ++ 0xFFFFE#20 ++ 0#1 ++ 0#12) 0 =
      .ok (.addImm { at' := site 1, ty := .i32, d := .s 3, a := .s 1, imm := 0xFFFFE, fa := false, mod := 0 }) := by decide

/-- Memory: a store of 16 bytes to scratchpad with swizzle 3, an acquiring load at .die, CAS on scratchpad. -/
theorem test_decode_memory : decodeOp (.simt 6) (0xA9#8 ++ 0#2 ++ 6#3 ++ 0#3 ++ 0x04#7 ++ 0x28#6 ++ 0x71#7 ++ 3#4 ++ 9#8 ++ 0xFFF0#16) 0 =
      .ok (.stS { at' := site 6, sz := 6, scp := .slice, d := .v 4, base := .none, idx := .lane, pol := 3, tag := 9, off := 0xFFF0 }) ∧
    decodeOp (.simt 6) (0xA1#8 ++ 0#2 ++ 4#3 ++ 4#3 ++ 0x41#7 ++ 0x20#6 ++ 0x70#7 ++ 0#4 ++ 0#8 ++ 0#16) 0 =
      .ok (.ldGAcq { at' := site 6, sz := 4, scp := .die, d := .s 1, base := .x 0, idx := .zero, pol := 0, tag := 0, off := 0 }) ∧
    decodeOp (.simt 6) (0xB4#8 ++ 0#2 ++ 0#4 ++ 0#2 ++ 2#3 ++ 0x02#7 ++ 0x03#7 ++ 0x04#7 ++ 1#3 ++ 0x28#6 ++ 0x05#7 ++ 0#8) 0 =
      .ok (.casS { at' := site 6, aop := 0, ord := .none, scp := .core, d := .v 2, a := .v 3, b := .v 4, ta := .n32, base := .none, idx := .v 5, tag := 0 }) := by decide

/-- Engines, tiles and glen cores: TADD of f32, MMA of e4m3, HAND in slot 7 of a glen bundle. -/
theorem test_decode_engines : decodeOp (.simt 7) (0xE4#8 ++ 0#2 ++ 3#5 ++ 0#8 ++ 0#8 ++ 0#8 ++ 0#8 ++ 0#3 ++ 0#14) (0#32 ++ 0#8 ++ 3#8 ++ 2#8 ++ 1#8) =
      .ok (.tadd { at' := site 7, ty := .f32, d := .v 0, a := .v 0, b := .v 0, c := .v 0, fa := false, fb := false, fc := false, mod := 0, ext := 0x30201 }) ∧
    decodeOp (.simt 7) (0xC3#8 ++ 0#2 ++ 0x0A#5 ++ 0#8 ++ 0#8 ++ 0#8 ++ 0#8 ++ 0#3 ++ 0#14) (0#37 ++ 0x0B#5 ++ 0#22) =
      .ok (.mma { mmaTerm with ty := .e4m3x4, ext := 0x2C00000 }) ∧
    decodeOp (.glen 7) (0xD6#8 ++ 0#2 ++ 0#5 ++ 0#8 ++ 0x41#8 ++ 0x42#8 ++ 0x43#8 ++ 0#3 ++ 5#14) 0 =
      .ok (.hand { at' := { slot := .glen 7, stg := 0 }, ty := .b32, d := .v 0, a := .s 1, b := .s 2, c := .s 3, fa := false, fb := false, fc := false, mod := 5 }) := by decide


/-! ## Witnesses: the hypotheses of the statements can be met -/

def rop (k : BitVec 3) (d a b c : Spec) : ROp :=
  { at' := site k, ty := .i32, d := d, a := a, b := b, c := c, fa := false, fb := false, fc := false, mod := 0 }
def iop (k : BitVec 3) (d a : Spec) (imm : BitVec 20) : IOp := { at' := site k, ty := .n32, d := d, a := a, imm := imm, fa := false, mod := 0 }

theorem only_core (s : State) (c : Core) (h : s.cores = [(0, c)]) (k : Nat) : s.core k = if 0 = k then c else {} := by
  simp [State.core, h, Sparse.look]

theorem no_core (s : State) (h : s.cores = []) (k : Nat) : s.core k = {} := by simp [State.core, h, Sparse.look]

/-- The gang with no lane active: its nesting counters stand at 1. -/
def maskedGang : State := base.onGroup user (fun g => { g with lanes := { g.lanes with nc := (List.range 32).map (fun l => (l, 1)) } })

/-- A VLIW thread in a software pipeline of two stages, in its first iteration. -/
def pipelined : State :=
  baseVliw.onGroup user (fun g => g.onSlice 0 (fun y => { y with stack' := [{ kind := .loopE, trip := 4, sc := 1 }] }))

/-- A lane slot of a VLIW bundle, and the same in stage 1. -/
def laneSite (c : BitVec 5) : Site := { slot := .lane c, stg := 0#2 }
def stageOne : Site := { slot := .unit 1#2, stg := 1#2 }

theorem runs_begun (s : State) (w : Who) : Runs (begun s w) (rec s w) := ⟨rfl, rfl⟩

theorem test_integer_operations_hypotheses :
    (Runs (begun base user) (rec base user) ∧ (site 1).slot.isScalar = true ∧ (rec base user).scalarRuns (site 1) = true) ∧
      ((site 3).slot.isScalar = false ∧ (rec base user).opLanes (site 3) ≠ [] ∧ Fed (begun base user) (rec base user) (site 3) (srcs3 (rop 3 (.v 2) (.v 1) (.s 3) .zero))) ∧
      (stageOne.slot.isScalar = true ∧ (rec pipelined user).scalarRuns stageOne = false) ∧
      ((rec maskedGang user).opLanes (site 3) = []) :=
  ⟨⟨runs_begun _ _, by decide, by decide⟩, ⟨by decide, by decide, by rfl⟩, ⟨by decide, by decide⟩, by decide⟩

theorem test_integer_elements_hypotheses :
    (0 < Ty.count .i32 ∧ 3 < Ty.count .i8x4) ∧ (2 ^ 32 - 1 < 2 ^ Ty.elemBits .n32) ∧ (num .i32 0 = 0) ∧
      (num .i32 7 ≠ 0 ∧ ¬(isSigned .i32 = true ∧ num .i32 7 = -(2 ^ 31 : Int) ∧ num .i32 7 = -1)) ∧
      (isSigned .i32 = true ∧ num .i32 (2 ^ 31) = -(2 ^ (Ty.elemBits .i32 - 1) : Int) ∧ num .i32 (2 ^ 32 - 1) = -1) := by decide

theorem test_logic_hypotheses : (31 < 32 ∧ 1 < Ty.count .n16x2 ∧ 15 < Ty.elemBits .n16x2) ∧ (31 < Ty.elemBits .i32 ∧ Ty.count .i32 = 1) := by decide

theorem test_float_operations_hypotheses :
    let o := rop 3 (.v 2) (.v 1) (.v 3) .zero
    (Runs (begun base user) (rec base user) ∧ (rec base user).opLanes o.at' ≠ [] ∧ Fed (begun base user) (rec base user) o.at' (srcs3 o)) ∧
      (rec maskedGang user).opLanes o.at' = [] := ⟨⟨runs_begun _ _, by decide, by rfl⟩, by decide⟩

/-- A signalling NaN, a quiet NaN, infinities of both signs, 1.0 and 0: f32. -/
theorem test_nans_and_selection_hypotheses :
    f32 ∈ laneFormats ∧ f32.isSnan 0x7F800001 = true ∧ (f32.isSnan 0x7FC00000 = false ∧ f32.isNan 0x7FC00000 = true) ∧ f32.isNan 0x3F800000 = false ∧
      zeroTimesInf f32 0 0x7F800000 = true ∧ f32.value 0x7F800000 = .inf false ∧ f32.value 0xFF800000 = .inf true ∧ f32.value 0 = .num false 0 (-149) ∧
      0x80000000 = f32.zero true ∧ 0 = f32.zero false ∧ cmpFp (f32.value 0x3F800000) (f32.value 0x40000000) = Ordering.lt ∧
      cmpFp (f32.value 0x40000000) (f32.value 0x3F800000) = Ordering.gt := by decide

theorem test_rounding_hypotheses :
    (f32 ∈ [f32, bf16, h16, e4m3, e5m2] ∧ (3 : Nat) < 4 ∧ 0x3F800000 < 2 ^ f32.width ∧ f32.isNan 0x3F800000 = false) ∧
      (Fp.num true 1 0 ≠ Fp.nan ∧ (roundTo f32 0 (.num false 1 0)).2 &&& flagNX = 0#5) ∧
      (0 < Ty.elemBits .i32 ∧ f32.value 0x7FC00000 = .nan ∧ f32.value 0xFF800000 = .inf true ∧ ∃ m e, f32.value 0x3F800000 = .num false m e) :=
  ⟨by decide, by decide, by decide, by decide, by decide, ⟨_, _, rfl⟩⟩

/-- FMT with a zero and with a reserved bit set in a. -/
theorem test_format_register_hypotheses :
    ScalarRuns (begun base user) (rec base user) (site 1) ∧ (((rec base user).sval .zero).setWidth 32 &&& 0xFF8007E0#32 = 0#32) ∧
      ((rec (base.onGroup user (fun g => g.setSreg 1 0x80000000)) user).sval (.s 1)).setWidth 32 &&& 0xFF8007E0#32 ≠ 0#32 :=
  ⟨⟨runs_begun _ _, by decide⟩, by decide, by decide⟩

theorem test_lane_operations_hypotheses :
    let o := rop 5 (.v 2) (.v 1) (.v 3) .zero
    (Runs (begun base user) (rec base user) ∧ (rec base user).opLanes o.at' ≠ [] ∧ Fed (begun base user) (rec base user) o.at' (srcs3 o)) ∧
      LanesRun (begun base user) (rec base user) o.at' (srcs1 o) ∧ o.ty ≠ .f32 ∧ ({ o with ty := .f32 } : ROp).ty = .f32 ∧ (rec maskedGang user).opLanes o.at' = [] :=
  ⟨⟨runs_begun _ _, by decide, by rfl⟩, ⟨runs_begun _ _, by decide, by rfl⟩, by decide, rfl, by decide⟩

theorem test_codebook_hypotheses :
    let o : ROp := { rop 5 (.v 2) (.v 1) (.v 3) (.v 4) with ty := .bf16x2 }
    (Runs (begun base user) (rec base user) ∧ (rec base user).opLanes o.at' ≠ [] ∧ Fed (begun base user) (rec base user) o.at' (srcs2 o) ∧
        Fed (begun base user) (rec base user) o.at' [(o.a, o.fa), (o.c, o.fc)] ∧ fmtOfTy o.ty = some bf16 ∧ Fed (begun base user) (rec base user) o.at' (srcs1 o)) ∧
      (f32.isNan 0x3F800000 = false ∧ (∀ b, f32.value 0x3F800000 ≠ .inf b) ∧ ∃ k, k < 16 ∧ bf16.isNan (({} : Group).cb (0 + k)).toNat = false) :=
  ⟨⟨runs_begun _ _, by decide, by rfl, by rfl, by decide, by rfl⟩, by decide, by decide, 15, by decide, by decide⟩

/-- A VLIW thread with a value on pass 0 at cluster 3, driven two bundles earlier. -/
def withPass : State := baseVliw.onGroup user (fun g => { g with passes := [{ pass := 0, cluster := 3, age := 2, value := 9 }] })

theorem test_passes_hypotheses :
    let o : ROp := { rop 0 (.v 2) (.v 1) .zero .zero with at' := laneSite 3, mod := 0x800 }
    (Runs (begun baseVliw user) (rec baseVliw user) ∧ (rec baseVliw user).opLanes o.at' = [3] ∧ Fed (begun baseVliw user) (rec baseVliw user) o.at' (srcs1 o) ∧
        (∀ v ∈ ((begun baseVliw user).cur (rec baseVliw user)).passes, v.pass ≠ 0 ∨ v.cluster ≠ 3) ∧ ∀ v ∈ (rec baseVliw user).snap.passes, v.pass ≠ 0 ∨ v.cluster ≠ 3) ∧
      (Runs (begun withPass user) (rec withPass user) ∧ (rec withPass user).opLanes o.at' = [3] ∧ streamsOf (srcs1 o) = [] ∧
        (∃ v ∈ ((begun withPass user).cur (rec withPass user)).passes, v.pass = (o.mod.extractLsb' 8 2).toNat ∧ v.cluster = 3) ∧
        ∃ v, (rec withPass user).snap.passes.find? (fun v => v.pass == 0 && v.cluster == 3) = some v ∧ v.age = (o.mod.extractLsb' 10 4).toNat) :=
  ⟨⟨runs_begun _ _, by decide, by rfl, by decide, by decide⟩, runs_begun _ _, by decide, by decide, ⟨_, List.mem_singleton.2 rfl, by decide, by decide⟩, _, rfl, by decide⟩

theorem test_random_numbers_hypotheses :
    let o := rop 5 (.v 2) (.v 1) (.v 3) (.v 4)
    Runs (begun base user) (rec base user) ∧ (rec base user).opLanes o.at' ≠ [] ∧ Fed (begun base user) (rec base user) o.at' (srcs3 o) ∧
      Fed (begun base user) (rec base user) o.at' (srcs1 o) := ⟨runs_begun _ _, by decide, by rfl, by rfl⟩

theorem untraced_of (s : State) (c : Issue) (h : (s.core (coreOf c.who)).agent.trctl = 0) : Untraced s c :=
  .inr fun bit => by simp [State.traces, h]

/-- An inner call entry, a loop entry with iterations left, an IF entry, and the entry of an IF whose ELSE has passed, on top of every slice's stack. -/
def withTop (e : Entry) : State := base.onGroup user (fun g => { g with slices := g.slices.map (fun y => { y with stack' := [e] }) })

/-- Full control stacks. -/
def withFullStacks : State := withTop' (List.replicate 16 { kind := .ifE })
where withTop' (l : List Entry) : State := base.onGroup user (fun g => { g with slices := g.slices.map (fun y => { y with stack' := l }) })

def callOp (win : BitVec 8) : BOp := { at' := site 0, form := 0, c := .zero, fc := false, mod := win, off := 16 }

theorem test_branches_and_calls_hypotheses :
    (Runs (begun base user) (rec base user) ∧ Untraced (begun base user) (rec base user)) ∧
      (GangIn ((begun base user).cur (rec base user)) (rec base user).slices ∧ (rec base user).snap = (begun base user).cur (rec base user) ∧
        0 < ((begun base user).cur (rec base user)).slices.length ∧ (rec base user).slices ≠ []) ∧
      (isAgent (rec baseAgent agent).who = true ∧ Runs (begun baseAgent agent) (rec baseAgent agent) ∧
        GangIn ((begun baseAgent agent).cur (rec baseAgent agent)) (rec baseAgent agent).slices ∧
        (((begun baseAgent agent).cur (rec baseAgent agent)).slice 0).stack'.length < 16) ∧
      (wholeGang (rec base user) = true ∧ (∀ k ∈ (rec base user).slices, (((begun base user).cur (rec base user)).slice k).stack'.length < 16) ∧
        (let g := (begun base user).cur (rec base user)
         g.win.lim ≤ g.win.sp ∧ g.win.wb + g.win.ws - 8 + 8 ≤ g.win.bot + g.gid.rsb) ∧
        ((begun base user).core 0).agent.wpc = []) ∧
      (∃ k ∈ (rec withFullStacks user).slices, 16 ≤ (((begun withFullStacks user).cur (rec withFullStacks user)).slice k).stack'.length) ∧
      (let s := withTop { kind := .callE, addr := 64 }
       (∀ k ∈ (rec s user).slices, (((begun s user).cur (rec s user)).slice k).stack'.head?.map Entry.kind = some .callE) ∧
         (((begun s user).cur (rec s user)).slice (rec s user).low).stack'.head? = some { kind := .callE, addr := 64 }) ∧
      ∃ k ∈ (rec base user).slices, (((begun base user).cur (rec base user)).slice k).stack'.head?.map Entry.kind ≠ some .callE :=
  ⟨⟨runs_begun _ _, untraced_of _ _ rfl⟩, ⟨⟨by decide, by decide⟩, rfl, by decide, by decide⟩, ⟨by decide, runs_begun _ _, ⟨by decide, by decide⟩, by decide⟩,
    ⟨by decide, by decide, by decide, by decide⟩, by decide, by decide, by decide⟩

theorem test_structured_control_hypotheses :
    (Runs (begun base user) (rec base user) ∧ GangIn ((begun base user).cur (rec base user)) (rec base user).slices ∧
        (rec base user).snap = (begun base user).cur (rec base user) ∧ Untraced (begun base user) (rec base user) ∧
        ((begun base user).cur (rec base user)).vliw = false) ∧
      (Runs (begun baseVliw user) (rec baseVliw user) ∧ 0 ∈ (rec baseVliw user).slices ∧ (rec baseVliw user).snap = (begun baseVliw user).cur (rec baseVliw user)) ∧
      (∃ k ∈ (rec withFullStacks user).slices, 16 ≤ (((begun withFullStacks user).cur (rec withFullStacks user)).slice k).stack'.length) ∧
      (let s := withTop { kind := .ifE }
       ∀ k ∈ (rec s user).slices, (((begun s user).cur (rec s user)).slice k).stack' = [{ kind := .ifE }]) ∧
      (let s := withTop { kind := .loopE, trip := 2 }
       (∀ k ∈ (rec s user).slices, (((begun s user).cur (rec s user)).slice k).stack' = [{ kind := .loopE, trip := 2 }]) ∧
         (∀ k ∈ (rec s user).slices, topLoop (((begun s user).cur (rec s user)).slice k).stack' ≠ none)) ∧
      (∃ k ∈ (rec base user).slices, topLoop (((begun base user).cur (rec base user)).slice k).stack' = none) ∧
      (let o := callOp 0
       o.mod.extractLsb' 1 2 = 0 ∧ o.mod.getLsbD 0 = false ∧ scalarVal (rec base user) .n32 o.c % 2 ^ 32 = 0) ∧
      scalarVal (rec base user) .n32 (.const 3) % 2 ^ 32 ≠ 0 :=
  ⟨⟨runs_begun _ _, ⟨by decide, by decide⟩, rfl, untraced_of _ _ rfl, by decide⟩, ⟨runs_begun _ _, by decide, rfl⟩, by decide, by decide, by decide, by decide,
    by decide, by decide⟩

/-- All slices at a rendezvous, and slice 0 of a group waiting to change decoder. -/
def atWait (w : Wait) : State :=
  base.onGroup user (fun g => { g with slices := g.slices.map (fun y => { y with run := .waiting w [] }) })

/-- The team's grid was launched from code with VLIW parts. -/
def vliwLaunch : State := base.onGrid 0 0 (fun g => { g with live := true, launch := { vliw := true } })



theorem test_gangs_and_decoders_hypotheses :
    (Runs (begun base user) (rec base user) ∧ Untraced (begun base user) (rec base user) ∧ modeVliwOk (begun vliwLaunch user) (rec vliwLaunch user) = true ∧
        modeVliwOk (begun base user) (rec base user) = false ∧ modeSimtOk (rec base user) = false ∧ modeSimtOk (rec baseVliw user) = true) ∧
      (∀ bit, base.traces 0 bit = false) ∧
      (let g := (atWait .regang).groupAt 0 0 0
       g.live ≠ [] ∧ ∀ k ∈ g.live, ∃ had, (g.slice k).run = .waiting .regang had) ∧
      (let g := (atWait .mode).groupAt 0 0 0
       (∃ had, (g.slice 0).run = .waiting .mode had) ∧ ∀ r ∈ g.inflight, r.empties = false) ∧
      (let g := (base.onGroup user (fun g => { g with inflight := [{ due := 9, empties := true }] })).groupAt 0 0 0
       (∃ k ∈ g.live, ¬∃ had, (g.slice k).run = .waiting .regang had) ∧ ∃ r ∈ g.inflight, r.empties = true) := by
  refine ⟨⟨runs_begun _ _, untraced_of _ _ rfl, by decide, by decide, by decide, by decide⟩, fun bit => ?_, ⟨by decide, fun k h => ?_⟩, ⟨⟨[], by decide⟩, by decide⟩, ⟨0, by decide, ?_⟩, by decide⟩
  · have h : (base.core 0).agent.trctl = 0 := rfl
    simp [State.traces, h]
  · refine ⟨[], ?_⟩
    revert k
    decide
  · rintro ⟨had, h⟩
    have e : (((base.onGroup user (fun g => { g with inflight := [{ due := 9, empties := true }] })).groupAt 0 0 0).slice 0).run = .running := by decide
    rw [e] at h
    cases h

theorem test_traps_and_faults_hypotheses :
    (Runs (begun base user) (rec base user) ∧ (rec base user).opLanes (site 0) ≠ [] ∧ (rec maskedGang user).opLanes (site 0) = []) ∧
      (let c := rec base user
       let x : Stop := { code := 0x01, rpl := true }
       (∃ a, c.who = .gang a) ∧ isAgent c.who = false ∧ x.rpl = true ∧ x.code = 0x01 ∧ Untraced (begun base user) c ∧ GangIn ((begun base user).cur c) c.slices) :=
  ⟨⟨runs_begun _ _, by decide, by decide⟩, ⟨_, rfl⟩, by decide, rfl, rfl, untraced_of _ _ rfl, by decide, by decide⟩

/-- RDSR and WRSR at both ends of the ranges of register numbers: a gang has 0 to 0xC, a glen core 0x10, the agent the rest from 0xD. -/
theorem test_special_registers_hypotheses :
    (ScalarRuns (begun base user) (rec base user) (site 1) ∧ ScalarRuns (begun baseAgent agent) (rec baseAgent agent) (site 1) ∧
        ScalarRuns (begun baseGlen (.glen 0)) (rec baseGlen (.glen 0)) { slot := .glen 1, stg := 0 }) ∧
      (srAvailable user 8 = true ∧ srAvailable user 9 = true ∧ srAvailable user 0xC = true ∧ srAvailable user 0x100 = false ∧ srAvailable user 0x10 = false) ∧
      (srAvailable (.glen 0) 0x10 = true ∧ srAvailable (.glen 0) 3 = false ∧ srAvailable (.glen 0) 2 = true) ∧
      (srAvailable agent 0x100 = true ∧ srAvailable agent 0x11B = true ∧ srAvailable agent 4 = false) ∧ (srAssigned 0x11B = true ∧ srAssigned 3 = true ∧ srAssigned 0x10 = true) :=
  ⟨⟨⟨runs_begun _ _, by decide⟩, ⟨runs_begun _ _, by decide⟩, ⟨runs_begun _ _, by decide⟩⟩, by decide, by decide, by decide, by decide⟩

/-- The kernel has task registers, so that SPAWN can queue a task. -/
def spawning : State := base.onGrid 0 0 (fun g => { g with live := true, launch := { kernel := { trsb := 1, twin := 16 } } })

/-- An event is pending at the agent, and it takes events. -/
def eventPending : State := baseAgent.onCore 0 (fun c => { c with agent := { c.agent with een := true, events := [1] } })

theorem test_spawn_elect_and_events_hypotheses :
    (let o := rop 0 (.s 3) (.s 1) (.s 4) .zero
     ScalarRuns (begun spawning user) (rec spawning user) o.at' ∧ o.b = .s 4 ∧ ((begun spawning user).core 0).caches.stores = [] ∧ ((begun spawning user).core 0).caches.wc = [] ∧
       ¬(64 ≤ ((begun spawning user).core 0).crew.tasks.length ∨ ((begun spawning user).gridOf ((begun spawning user).teamOf (rec spawning user))).launch.kernel.trsb = 0 ∨
         (rec spawning user).opMask o.at' = 0) ∧
       ((begun base user).gridOf ((begun base user).teamOf (rec base user))).launch.kernel.trsb = 0) ∧
      ((rec base user).opLanes (site 0) ≠ [] ∧ (rec base user).snap.vliw = false ∧ (∀ l ∈ (rec base user).opLanes (site 0), l < (rec base user).snap.width) ∧
        (rec maskedGang user).opLanes (site 0) = []) ∧
      ((eventPending.core 0).agent.een = true ∧ eventPending.issue = none ∧ (eventPending.core 0).agent.events = [1]) ∧ (baseAgent.core 0).agent.een = false ∧
      (let c := { rec baseAgent agent with close := .eret }
       coreOf c.who = 0 ∧ isAgent c.who = true ∧ c.after = [] ∧ (begun baseAgent agent).store.cut = [] ∧ GangIn ((begun baseAgent agent).cur c) c.slices ∧ c.close = .eret ∧
         { c with close := Close.halt }.close = .halt) :=
  ⟨⟨⟨runs_begun _ _, by decide⟩, by decide, by decide, by decide, by decide, by decide⟩, ⟨by decide, by decide, by decide, by decide⟩, ⟨by decide, rfl, by decide⟩, by decide, by decide, by decide, by decide,
    by decide, ⟨by decide, by decide⟩, by decide, by decide⟩

/-- Eight shootdowns of the agent of core 0 under way, and one that core 0 has not acknowledged. -/
def shot (n : Nat) : State :=
  baseAgent.onHost (fun h => { h with nextShoot := n, shoots := (List.range n).map (fun i => { id := i, scope := .context 1, source := .agent 0 }) })

theorem test_shootdowns_hypotheses :
    (Runs (begun baseAgent agent) (rec baseAgent agent) ∧ ((begun baseAgent agent).core 0).caches.stores = [] ∧ ((begun baseAgent agent).core 0).caches.wc = [] ∧
        agentShoots (begun baseAgent agent) 0 < 8) ∧
      (8 ≤ agentShoots (begun (shot 8) agent) 0 ∧ agentShoots (begun (shot 7) agent) 0 < 8) ∧
      (let x : Shoot := { id := 0, scope := .context 1, source := .agent 0 }
       (shot 1).host.shoots.find? (fun y => y.id == 0) = some x ∧ AckUnit.core 0 ∉ x.acks ∧ AckUnit.glen 63 ∉ x.acks ∧ ((shot 1).core 0).caches.stores = [] ∧
         ((shot 1).core 0).caches.wc = [] ∧ (3 ≠ 0 ∧ (shot 1).host.saved = []) ∧ AckUnit.cluster 79 ∉ x.acks ∧ AckUnit.die 3 ∉ x.acks) :=
  ⟨⟨runs_begun _ _, by decide, by decide, by decide⟩, ⟨by decide, by decide⟩, rfl, by decide, by decide, by decide, by decide, by decide, by decide, by decide⟩

theorem noStash_of (s : State) (c : Core) (h : s.cores = [(0, c)]) (e : ∀ p ∈ c.crew.teams, p.2.stash = []) (l : lostLinks s = []) : NoStash s := by
  refine ⟨fun p hp line => ?_, l⟩
  rw [h, List.mem_singleton] at hp
  subst hp
  simp only [coreStash, List.flatMap_eq_nil_iff]
  intro t ht
  simp [e t ht]

theorem quiet_of (s : State) (c : Core) (h : s.cores = [(0, c)]) (e : c.store.spadPoison = [] ∧ c.caches.stores = [] ∧ c.caches.wc = []) (p : s.store.poison = [] ∧ s.store.cut = []) :
    Quiet s := by
  refine ⟨p.1, p.2, fun k => ?_⟩
  rw [only_core s c h k]
  split
  · exact e
  · exact ⟨rfl, rfl, rfl⟩

/-- A load or store of 4 bytes at s2 plus an offset, and the gang with an address in s2. -/
def mop (d : Spec) (off : BitVec 16) : MOp :=
  { at' := site 6, sz := 4, scp := .core, d := d, base := .s 2, idx := .zero, pol := 0, tag := 0, off := off }
def addressed (a : DWord) : State := base.onGroup user (fun g => g.setSreg 2 a)

/-- The gang's accesses go to a page of the host that awaits its translation, to a line that an engine command holds, to a poisoned granule. -/
def toHost : State :=
  (addressed 0x10000).onCore 0 (fun c => { c with caches := { c.caches with tlb := [firstPage, { firstPage with vbase := 0x10000, home := 1, pbase := 0x10000 }] } }) |> fun s =>
    { s with contexts := [(1, { w0 := 0x100003, w1 := 5 })] }
def toOwned : State := base.onStore (fun m => { m with owners := [{ line := 0, unit := 0, cmd := 0, seq := 0 }] })
def toPoison : State := base.onStore (fun m => { m with poison := [(0, true)] })

/-- What a state's gang reads with an access of a kind. -/
def reachOf (s : State) (k : AccessKind) (off : BitVec 16) : Reach :=
  let b := begun s user
  let c := rec s user
  reachLanes b user c.snap k ((accessLanes c (site 6) false).map (fun l => (l, memPieces c (b.cur c) .global (mop (.v 5) off) 4 (piecesOf 4) l)))

theorem test_held_back_hypotheses :
    ((reachOf toHost .read 0).ats = some (1, 0x10000) ∧ (reachOf toHost .write 0).ats ≠ none ∧ (reachOf toHost .atomic 0).ats ≠ none) ∧
      ((reachOf (addressed 0x10000) .read 0).ats = none ∧ (lowestFault (reachOf (addressed 0x10000) .read 0).faults).isSome = true) ∧
      ((reachOf toOwned .read 8).ats = none ∧ (reachOf toOwned .read 8).faults = [] ∧ AccessKind.read ≠ .write ∧
        ∃ l ∈ (reachOf toOwned .read 8).lanes, ∃ p ∈ l.places, toOwned.isOwned (lineOf p) = true) := by decide

theorem test_loads_hypotheses :
    let s := begun base user
    let c := rec base user
    let o := mop (.v 5) 8
    let lanes := accessLanes c o.at' o.isLane
    (LanesRun s c o.at' [] ∧ LoadDest o.d ∧ isGlen c.who = false) ∧
      (let ps := lanes.map (fun l => (l, memPieces c (s.cur c) .global o 4 (piecesOf 4) l))
       Reached s c .read ps ∧ NoStash s ∧ Settled s c (some .core) (reachLanes s c.who c.snap .read ps).lanes ∧
         Settled s c none (reachLanes s c.who c.snap .read ps).lanes ∧ (∀ l ∈ (reachLanes s c.who c.snap .read ps).lanes, ∀ q ∈ l.places, s.isPoisoned q = false) ∧
         ∃ l ∈ (reachOf toPoison .read 8).lanes, ∃ q ∈ l.places, toPoison.isPoisoned q = true) ∧
      (lanes.filter (fun l => alignAddr c (s.cur c) .global o l % min 4 4 ≠ 0) = [] ∧ lanes.filter (fun l => c.snap.win.lsize.toNat ≤ alignAddr c (s.cur c) .local' o l + 4 - 1) = [] ∧
        lanes.filter (fun l => alignAddr c (s.cur c) .global (mop (.v 5) 9) l % min 4 4 ≠ 0) ≠ []) ∧
      (let s1 := begun (addressed 0x10000) user
       let c1 := rec (addressed 0x10000) user
       let ps := lanes.map (fun l => (l, memPieces c1 (s1.cur c1) .global (mop (.v 5) 0) 4 (piecesOf 4) l))
       (∃ f, lowestFault (reachLanes s1 c1.who c1.snap .read ps).faults = some f) ∧
         lanes.filter (fun l => c1.snap.win.lsize.toNat ≤ alignAddr c1 (s1.cur c1) .local' (mop (.v 5) 0) l + 4 - 1) ≠ []) ∧
      (tstPending (s.core 0) c.who (lanes.flatMap (fun l => spadBytes (alignAddr c (s.cur c) .scratch o l) 4 0)) = false ∧
        (let t0 := (s.core 0).team (teamKey c.who c.snap)
         (∀ l ∈ lanes, t0.res.spsize > alignAddr c (s.cur c) .scratch o l + 4 - 1) ∧
           ∀ l ∈ lanes, ∀ b ∈ spadBytes (alignAddr c (s.cur c) .scratch o l) 4 0, stashOf t0 b = none ∧
             Sparse.look false ((t0.res.spbase + b) / 4) (s.core 0).store.spadPoison = false)) := by
  refine ⟨⟨⟨runs_begun _ _, by decide, rfl⟩, .inl ⟨5, rfl⟩, rfl⟩, ⟨⟨by decide, by decide, fun _ => by decide⟩, noStash_of _ _ rfl (by decide) (by decide), ⟨by decide, by decide⟩, ⟨by decide, by decide⟩, by decide, by decide⟩,
    ⟨by decide, by decide, by decide⟩, ⟨?_, by decide⟩, by decide, by decide, by decide⟩
  exact Option.isSome_iff_exists.1 (by decide)

/-- A core with 64 stores queued. -/
def full : State :=
  let l : List PendingStore := (List.range 64).map (fun i => { id := i, op := i, group := 0, lane := 0, bytes := [(4 * i, 1)] })
  base.onCore 0 (fun c => { c with caches := { c.caches with stores := l } })

theorem test_stores_hypotheses :
    let s := begun base user
    let c := rec base user
    let o := mop (.v 5) 8
    let lanes := accessLanes c o.at' o.isLane
    (LanesRun s c o.at' [(o.d, false)] ∧ isGlen c.who = false) ∧
      (Reached s c .write (lanes.map (fun l => (l, memPieces c (s.cur c) .global o 4 (piecesOf 4) l))) ∧ (((s.core 0).caches.stores.map PendingStore.op).dedup).length < 64) ∧
      (Reached (begun full user) (rec full user) .write (lanes.map (fun l => (l, memPieces (rec full user) ((begun full user).cur (rec full user)) .global o 4 (piecesOf 4) l))) ∧
         64 ≤ ((((begun full user).core 0).caches.stores.map PendingStore.op).dedup).length) ∧
      (lanes.filter (fun l => alignAddr c (s.cur c) .scratch (mop (.v 5) 9) l % min 4 4 ≠ 0) ≠ [] ∧
        tstPending (s.core 0) c.who (lanes.flatMap (fun l => spadBytes (alignAddr c (s.cur c) .scratch o l) 4 0)) = false ∧
        (lanes.filter (fun l => ((s.core 0).team (teamKey c.who c.snap)).res.spsize ≤ alignAddr c (s.cur c) .scratch o l + 4 - 1) = []) ∧
        StashReady s c true (lanes.flatMap (laneBytes s c o 4 0)) ∧ NothingBefore s c lanes) :=
  ⟨⟨⟨runs_begun _ _, by decide, by rfl⟩, rfl⟩, ⟨⟨by decide, by decide, fun h => absurd rfl h⟩, by decide⟩, ⟨⟨by decide, by decide, fun h => absurd rfl h⟩, by decide⟩,
    by decide, by decide, by decide, .inl (by decide), by decide, by decide⟩

def aop (off : Spec) : AOp :=
  { at' := site 6, aop := 0, ord := .none, scp := .core, d := .v 5, a := .v 4, b := .v 3, ta := .n32, base := .s 2, idx := off, tag := 0 }

theorem test_atomics_hypotheses :
    let s := begun base user
    let c := rec base user
    let o := aop .zero
    let lanes := accessLanes c o.at' (o.isLane true)
    let ps := lanes.map (fun l => (l, memPieces c (s.cur c) .global (atomAddr o) 4 [(0, 4)] l))
    (LoadDest o.d ∧ isGlen c.who = false ∧ ((s.core (coreOf c.who)).caches.stores = [] ∧ (s.core (coreOf c.who)).caches.wc = []) ∧ NoStash s ∧ LanesRun s c o.at' [(o.a, false), (o.b, false)] ∧
        LanesRun s c o.at' [(o.a, false)]) ∧
      ((lanes.map (alignAddr c (s.cur c) .global (atomAddr o))).filter (fun a => a % 4 ≠ 0) = [] ∧ Reached s c .atomic ps ∧
        ∀ l ∈ (reachLanes s c.who c.snap .atomic ps).lanes, (l.home ≠ 1#2 ∨ l.mt = 0#2 ∨ false = true ∨ o.aop = 0 ∨ o.aop = 7) ∧ ∀ p ∈ l.places, s.isPoisoned p = false) ∧
      (let c1 := rec (addressed 2) user
       (lanes.map (alignAddr c1 ((begun (addressed 2) user).cur c1) .global (atomAddr o))).filter (fun a => a % 4 ≠ 0) ≠ []) ∧
      (let k := s.core (coreOf c.who)
       let t0 := k.team (teamKey c.who c.snap)
       (∀ l ∈ lanes, alignAddr c (s.cur c) .scratch (atomAddr o) l + 4 - 1 < t0.res.spsize) ∧ StashReady s c true (lanes.flatMap (laneBytes s c (atomAddr o) 4 0)) ∧
         tstPending k c.who (lanes.flatMap (fun l => spadBytes (alignAddr c (s.cur c) .scratch (atomAddr o) l) 4 0)) = false ∧
         ∀ l ∈ lanes, ∀ b ∈ spadBytes (alignAddr c (s.cur c) .scratch (atomAddr o) l) 4 0, Sparse.look false ((t0.res.spbase + b) / 4) k.store.spadPoison = false) :=
  ⟨⟨.inl ⟨5, rfl⟩, rfl, by decide, noStash_of _ _ rfl (by decide) (by decide), ⟨runs_begun _ _, by decide, by rfl⟩, runs_begun _ _, by decide, by rfl⟩,
    ⟨by decide, ⟨by decide, by decide, fun _ => by decide⟩, by decide⟩, by decide, by decide, .inl (by decide), by decide, by decide⟩

/-- XPAT's pattern word: one register of four fields of 8 bits a byte apart; the gang holds it as pattern 0. -/
def pattern : DWord := BitVec.ofNat 64 (4 * 2 ^ 12 + 8 * 2 ^ 6 + 4)
def patterned : State := base.onGroup user (fun g => { g with xpat := [(0, pattern)] })

theorem test_field_loads_hypotheses :
    let s := begun patterned user
    let c := rec patterned user
    let o : MOp := { mop (.v 5) 8 with sz := 0 }
    let p := patternOf (Sparse.look 0 0 c.snap.xpat)
    let lanes := accessLanes c o.at' o.isLane
    let ps := lanes.map (fun l => (l, memPieces c (s.cur c) .global o p.span ((List.range p.span).map (fun i => (i, 1))) l))
    (LanesRun s c o.at' [] ∧ patternOk pattern = true ∧ patternOk (Sparse.look 0 0 c.snap.xpat) = true ∧ 5 % p.nr = 0 ∧ patternOk 0 = false) ∧
      (Reached s c .read ps ∧ NoStash s ∧ Settled s c none (reachLanes s c.who c.snap .read ps).lanes ∧
        (∀ l ∈ (reachLanes s c.who c.snap .read ps).lanes, ∀ a ∈ l.places, s.isPoisoned a = false) ∧
        ∀ l ∈ lanes, alignAddr c (s.cur c) .local' o l + p.span - 1 < c.snap.win.lsize.toNat) ∧
      (let k := s.core (coreOf c.who)
       let t0 := k.team (teamKey c.who c.snap)
       (∀ l ∈ lanes, alignAddr c (s.cur c) .scratch o l + p.span - 1 < t0.res.spsize) ∧ StashReady s c false (lanes.flatMap (laneBytes s c o p.span 0)) ∧
         tstPending k c.who (lanes.flatMap (fun l => spadBytes (alignAddr c (s.cur c) .scratch o l) p.span 0)) = false) :=
  ⟨⟨⟨runs_begun _ _, by decide, by rfl⟩, by decide, by decide, by decide, by decide⟩,
    ⟨⟨by decide, by decide, fun _ => by decide⟩, noStash_of _ _ rfl (by decide) (by decide), ⟨by decide, by decide⟩, by decide, by decide⟩, by decide, .inl (by decide), by decide⟩

theorem test_fences_hypotheses :
    LanesRun (begun base user) (rec base user) (site 6) [] ∧ (rop 6 (.x 7) (.s 1) .zero .zero).d = .x 7 ∧ Runs (begun base user) (rec base user) ∧
      isGlen (rec base user).who = false ∧
      (let found (s : State) (a : DWord) := findEntry s ((s.core 0).caches.tlb ++ s.engineTlb 0) 1 false a
       found toHost 0x10000 = .ats 1 0x10000 ∧ (found base 8 = .ok firstPage) ∧ ∃ f, found base 0x10000 = .fault f) ∧
      (let s := begun base user
       let c := rec base user
       let o : MOp := { mop (.v 5) 8 with idx := .zero }
       (c.opLanes o.at' ≠ [] ∧ ∃ l p, (reachLanes s user c.snap .read ((accessLanes c o.at' (idxIsLane o.idx)).map (fun l => (l, memPieces c (s.cur c) .global o 1 [(0, 1)] l)))).lanes = [l] ∧
         l.places = [p] ∧ l.mt = 0 ∧ l.home ≠ 2)) :=
  ⟨⟨runs_begun _ _, by decide, by rfl⟩, rfl, runs_begun _ _, rfl, ⟨by decide, by decide, _, by rfl⟩, by decide, _, _, by rfl, by rfl, by decide, by decide⟩

/-- The team with a stash window that has a modified line, and a gang with a bound stream, its copy complete. -/
def stashed : State :=
  (base.onCore 0 (fun c => { c with crew := { c.crew with teams := [(0, { wholeTeam with stash := [(2, { valid := true, g := 4096, w := 1024, n := 2, lines := [(0, { place := 4096, owned := true })] })] })] } })).onGroup
    user (fun g => { (g.setSreg 1 1024).setSreg 4 1 with q := [(0, { buf := 0, size := 512, named := 1, done := true })] })

theorem test_stash_and_streams_hypotheses :
    let s := begun stashed user
    let c := rec stashed user
    let t0 := (s.core 0).team (teamKey c.who c.snap)
    (LanesRun s c (site 6) [] ∧ isGlen c.who = false) ∧
      ((c.sval .zero).toNat % 128 = 0 ∧ (c.sval .zero).toNat + 128 * (c.sval (.s 4)).toNat ≤ 2 ^ 60 ∧ 0 < (c.sval (.s 4)).toNat ∧
        (2048 : Nat) + 128 * (c.sval (.s 4)).toNat ≤ t0.res.spsize ∧ (List.range 8).find? (fun i => !(Sparse.look {} i t0.stash).valid) = some 0 ∧
        tstWithin (s.core 0) c.who 2048 2176 = false ∧ regionBusy (s.core 0) t0 2048 2176 = false) ∧
      (windowAt t0 (c.sval (.s 1)) = some 2 ∧ windowAt t0 (c.sval .zero) = none ∧
        (let w := Sparse.look {} 2 t0.stash
         (w.lines.map Prod.fst).Nodup ∧ (w.lines.map (fun l => l.2.place)).Nodup ∧ ∀ l ∈ w.lines, l.2.place % 128 = 0)) ∧
      (((s.cur c).stream 0).size ≠ 0 ∧ ((s.cur c).stream 0).done = true ∧ ((s.cur c).stream 7).size = 0 ∧ regionBusy (s.core 0) t0 8192 (8192 + 512) = false) :=
  ⟨⟨⟨runs_begun _ _, by decide, by rfl⟩, rfl⟩, by decide, by decide, by decide⟩

def eop (k : BitVec 3) (d a b c : Spec) (ext : BitVec 64) : EOp :=
  { at' := site k, ty := .b32, d := d, a := a, b := b, c := c, fa := false, fb := false, fc := false, mod := 0, ext := ext }

/-- The gang after WAITF's wait for flag 0 to reach 0 has ended; and with a flag handle in s1, valid for flag 5, or with a reserved bit. -/
def woken : State := base.onGroup user (fun g => { g with slices := g.slices.map (fun y => { y with run := .woken [.flag 0 0 false] }) })
def withHandle (h : DWord) : State := base.onGroup user (fun g => g.setSreg 1 h)

/-- A glen core whose program runs in context 1, beside the gang. -/
def besideGlen (h : DWord) : State := { withHandle h with glens := [(0, { cid := 1, prog := { running := true } })] }

theorem test_flag_handles_and_records_hypotheses :
    (let s := begun (besideGlen 0x28000000) user
     let c := rec (besideGlen 0x28000000) user
     NoStores s c.who ∧ (c.sval (.s 1)).toNat % 2 ^ 32 = glenHandle s 0 0 ∧ (s.glen 0).prog.running = true ∧ (s.glen 0).cid = s.cidOf c.who) ∧
      (let s := woken.onCore 0 (fun k => { k with agent := { k.agent with wlthr := 5 } })
       let q : State := { s with now := s.now + 9 }
       ¬(((q.core 0).agent.wlthr.toNat = 0) ∨ q.now - ((rec q user).snap.slice 0).began ≤ (q.core 0).agent.wlthr.toNat) ∧ (rec q user).had (.flag 0 0 false) = true) :=
  ⟨⟨.inr ⟨rfl, rfl⟩, by decide, by decide, by decide⟩, by decide⟩

theorem test_flags_hypotheses :
    let s := begun base user
    let c := rec base user
    (LanesRun s c (site 7) [] ∧ (0 : Nat) < (s.teamOf c).res.nflags ∧ (63 : Nat) < (s.teamOf c).res.nflags ∧ (s.teamOf c).res.nflags ≤ 64 ∧ c.had (.flag 0 0 false) = false ∧
        ((flagOfWho s c.who 0).value - (c.sval .zero).setWidth 32).toNat < 2 ^ 31 ∧ ¬((flagOfWho s c.who 0).value - (c.sval (.const 2)).setWidth 32).toNat < 2 ^ 31 ∧ NoStores s c.who) ∧
      (rec woken user).had (.flag 0 0 false) = true ∧
      (let s1 := begun (withHandle 0x50000) user
       let c1 := rec (withHandle 0x50000) user
       LanesRun s1 c1 (site 7) [] ∧ NoStores s1 c1.who ∧ (c1.sval (.s 1)).toNat % 2 ^ 32 = flagHandle s1 0 5 ∧ (s1.core 0).crew.savedFlags = [] ∧
         (flagTeam (s1.core 0) 5).map Prod.fst = some 0 ∧ ((s1.core 0).team 0).cid = s1.cidOf c1.who) ∧
      (let s2 := begun (withHandle 0x50100) user
       flagPlace s2 (((rec (withHandle 0x50100) user).sval (.s 1)).toNat % 2 ^ 32) (s2.cidOf user) = .stale) ∧
      (let s3 := atWait (.flag 0 1 false)
       s3.gangOf user = [0, 1, 2, 3, 4, 5, 6, 7] ∧ ((s3.groupOf user).slice 0).run = .waiting (.flag 0 1 false) [] ∧ s3.gangOf user ≠ []) :=
  ⟨⟨⟨runs_begun _ _, by decide, by rfl⟩, by decide, by decide, by decide, by decide, by decide, by decide, .inr ⟨rfl, rfl⟩⟩, by decide,
    ⟨⟨runs_begun _ _, by decide, by rfl⟩, .inr ⟨rfl, rfl⟩, by decide, rfl, by decide, by decide⟩, by decide, by decide, by decide, by decide⟩

/-- Ring 3 with four slots, some slots reserved and claimed by group 0; an image that configures it. -/
def ring3 (x : Ring) : State := base.onRing 0 3 (fun _ => x)
def idle3 : Ring := { valid := true, base := 0, slotsz := 1, count := 4, gen := 1 }
def used3 : Ring :=
  { idle3 with rsv := 1, tail := 0, own := [{ take := false, grp := 0, n := 1, first := 0 }] }
def taken3 : Ring := { idle3 with rsv := 2, tail := 2, clm := 1, own := [{ take := true, grp := 0, n := 1, first := 0 }] }
def ringImage : DWord := BitVec.ofNat 64 (2 ^ 63 + 4 * 2 ^ 44 + 1 * 2 ^ 28 + 1024)

theorem test_ring_operations_hypotheses :
    let s := begun (ring3 idle3) user
    let c := rec (ring3 idle3) user
    let o := eop 7 (.s 3) (.const 2) .zero .zero 3
    (LanesRun s c o.at' [] ∧ isGlen c.who = false ∧ (s.teamOf c).res.rings[(o.ext.extractLsb' 0 4).toNat]? = some 3 ∧ s.ring (coreOf c.who) 3 = idle3 ∧
        (c.sval o.a).toNat % 2 ^ 32 = 1) ∧
      (1 ≤ idle3.count ∧ idle3.own.length < 32 ∧ idle3.producers = [] ∧ idle3.diff idle3.rsv idle3.head + 4 ≤ idle3.count ∧ idle3.count < idle3.diff idle3.rsv idle3.head + 5 ∧
        idle3.diff taken3.tail taken3.head = 2) ∧
      (used3.valid = true ∧ used3.own = [] ++ { take := false, grp := 0, n := 1, first := 0 } :: [] ∧ ownedSlots true 0 used3.own < 1 ∧ NoStores s c.who) ∧
      (taken3.valid = true ∧ (∀ f ∈ taken3.own, f.take = true → f.done = false) ∧ ownedSlots false 0 taken3.own < 1 ∧ taken3.own.length < 32) ∧
      (ringImage.extractLsb' 53 10 = 0 ∧ ringImage.extractLsb' 40 4 = 0 ∧ ringImage.extractLsb' 19 9 = 0 ∧ ringImage.getLsbD 63 = true ∧
        (ringImage.extractLsb' 44 9).toNat = 4 ∧ (ringImage.extractLsb' 28 12).toNat = 1 ∧ (ringImage.extractLsb' 0 19).toNat = 1024) ∧
      (0 : DWord).getLsbD 63 = false ∧ (32 : Nat) ≤ (List.replicate 32 (0 : Nat)).length :=
  ⟨⟨⟨runs_begun _ _, by decide, by rfl⟩, rfl, by decide, by decide, by decide⟩, by decide, ⟨rfl, rfl, by decide, .inr ⟨rfl, rfl⟩⟩, by decide, by decide, by decide⟩

theorem test_ring_waits_hypotheses :
    let h : RingHold := { cmd := gangKey user (rec base user), thread := true, num := 0, group := 0, n := 2, granted := true }
    let x : Ring := { idle3 with producers := [h], consumers := [{ h with granted := false }], rsv := 2 }
    (1 ≤ 2 ∧ 2 ≤ x.count ∧ x.producers.find? (fun f => f.thread && f.cmd == gangKey user (rec base user)) = some h ∧ h.granted = true ∧
        x.consumers.find? (fun f => f.thread && f.cmd == gangKey user (rec base user)) = some { h with granted := false } ∧
        ¬((x.producers = [] ∧ x.consumers = []) ∧ x.valid = true)) ∧
      (2 ≤ ownedSlots false 0 { used3 with own := [{ take := false, grp := 0, n := 1, first := 0 }, { take := false, grp := 0, n := 1, first := 1 }] }.own ∧
        1 ≤ ownedSlots true 0 taken3.own) ∧
      (∃ e, taken3.own = [] ++ e :: [] ∧ e.done = false ∧ e.take = true ∧ e.first = taken3.head ∧ taken3.diff e.first taken3.head + 1 ≤ taken3.diff taken3.tail taken3.head) := by
  refine ⟨by decide, by decide, _, rfl, by decide⟩

theorem test_ring_events_hypotheses :
    let h : RingHold := { cmd := 5, n := 2 }
    let x := { idle3 with producers := [h] }
    let y := { idle3 with tail := 2, consumers := [h] }
    let z := { used3 with own := [{ take := false, done := true, grp := 0, n := 1, first := 0 }] }
    (((ring3 x).ring 0 3).valid = true ∧ ((ring3 x).ring 0 3).producers = [] ++ h :: [] ∧ h.granted = false ∧ x.diff x.rsv x.head + h.n ≤ x.count ∧ x.count < x.diff x.rsv x.head + 5) ∧
      (((ring3 y).ring 0 3).consumers = h :: [] ∧ y.diff y.clm y.head + h.n ≤ y.count ∧ y.diff y.clm y.head + h.n ≤ y.diff y.tail y.head) ∧
      (((ring3 z).ring 0 3).own = [] ++ { take := false, done := true, grp := 0, n := 1, first := 0 } :: [] ∧ z.tail = 0 ∧ z.producers = []) ∧
      (¬(((ring3 x).ring 0 3).producers = [] ∧ ((ring3 x).ring 0 3).consumers = []) ∧ ((ring3 idle3).ring 0 3).producers = [] ∧ ((ring3 idle3).ring 0 3).consumers = []) := by decide

/-! ### Tiles and matrices -/

/-- Tile operands: destination 2, sources 0, 1 and 3; and a tile 63 that lies at the end of an allocation of 64, or beyond one of 63. -/
def tileOp : EOp := eop 7 .zero .zero .zero .zero (BitVec.ofNat 64 (2 + 0 * 2 ^ 8 + 1 * 2 ^ 16 + 3 * 2 ^ 24))

theorem clean_of (k : Core) (tile : Nat) (h : k.store.tilePoison = []) : TileClean k tile := by
  intro q _
  simp [h, Sparse.look]

theorem canQueue_of (s : State) (c : Issue) (i : Instr) (unit depth : Nat) (h : isGlen c.who = false) (a : (s.core (coreOf c.who)).caches.stores = [])
    (b : (s.core (coreOf c.who)).cmds = []) (w : (s.core (coreOf c.who)).caches.wc = []) (d : 0 < depth) (f : ∀ n, flagField i = some n → n < (s.teamOf c).res.nflags) : CanQueue s c i unit depth := by
  refine ⟨h, a, w, by simp [b, d], .inr ?_, f⟩
  simp [tstOutstanding, b]

theorem test_tile_commands_hypotheses :
    let s := begun base user
    let c := rec base user
    (LanesRun s c (site 7) [] ∧ isGlen c.who = false ∧ (s.teamOf c).res.nacc = 64 ∧ TileClean (s.core (coreOf c.who)) 63 ∧ CanQueue s c (.tfma tileOp) 3 16 ∧
        CanQueue s c (.tzero (rop 7 .zero .zero .zero .zero)) 3 16) ∧
      (let s1 := base.onCore 0 (fun k => { k with store := { k.store with tilePoison := [(1024, true)] } })
       ¬TileClean (s1.core 0) 1) ∧
      (let base' : Int := ((c.sval .zero).toNat : Int) + (BitVec.toInt (0 : BitVec 16))
       64 * (Ty.elemBits .f32 / 8) ≤ 256 ∧ 256 % 4 = 0 ∧ 0 ≤ base' ∧ base' + 15 * 256 + 64 * 4 ≤ (s.teamOf c).res.spsize ∧
         touchesStash (s.teamOf c) base'.toNat 256 ((List.range 16).map (fun i => ((i * 256 : Nat) : Int))) = false ∧ tstPending (s.core 0) c.who [] = false) ∧
      (tilesPending (s.core 0) (s.core 0).nextCmd [0, 1] = false ∧ tilesBusy (s.core 0) (s.core 0).nextCmd [0, 1] false = false) := by
  refine ⟨⟨⟨runs_begun _ _, by decide, by rfl⟩, rfl, by decide, clean_of _ _ rfl, canQueue_of _ _ _ _ _ rfl rfl rfl rfl (by decide) ?_, canQueue_of _ _ _ _ _ rfl rfl rfl rfl (by decide) ?_⟩,
    fun h => absurd (h 0 (by decide)) (by decide), by decide, by decide⟩
  · intro n h
    cases h
  · intro n h
    cases h

/-- A core with one command of the team, in a phase. -/
def commanded (i : Instr) (p : CmdPhase) (aux : List Nat) : Cmd := { id := 7, op := i, who := user, phase := p, amask := 0xFFFFFFFF, aux := aux, cid := 1 }
def holding (d : Cmd) (s : State := base) : State := s.onCore 0 (fun k => { k with cmds := [d], nextCmd := 8 })

theorem holds_of (d : Cmd) (s : State) (p : CmdPhase) (h : (s.core 0).cmds = [d]) (e : d.phase = p) (f : d.paused = none) : Holds s 0 d p :=
  ⟨by simp [Core.cmd, h], e, f⟩

theorem test_tile_results_hypotheses :
    let d := commanded (.tadd tileOp) .started []
    Holds (holding d) 0 d .started ∧ d.due ≤ (holding d).now ∧ d.err = false ∧ (holding d).store.cut = [] ∧ TileClean ((holding d).core 0) 0 ∧ Ty.elemBits .bf16x2 ∈ [8, 16, 32] ∧
      Ty.elemBits .f32 ∈ [8, 16, 32] :=
  ⟨holds_of _ _ _ rfl rfl rfl, by decide, rfl, rfl, clean_of _ _ rfl, by decide, by decide⟩

/-- An ACCFLG at its turn, its two registers held for it. -/
def flagRegs (r : Nat) : InFlight := { lanes := (List.range 32).map (fun l => (32 * r + l, 0, false)), held := true, empties := false }

theorem test_tile_starts_hypotheses :
    let o := rop 7 (.v 4) .zero .zero .zero
    let d := commanded (.accflg o) .registered [4, 5]
    let s := holding d (base.onGroup user (fun g => { g with inflight := [flagRegs 4, flagRegs 5] }))
    (Holds s 0 d .registered ∧ unitOf d.op = 3 ∧ s.store.cut = [] ∧ isGlen d.who = false ∧ d.aux = [4, 5]) ∧
      (let g := s.groupOf d.who
       let keys (r : Nat) : List Nat := ((List.range 32).filter (fun l => d.amask.getLsbD l)).map (fun l => 32 * (g.gid.rbase + r) + l)
       g.inflight = [] ++ flagRegs 4 :: flagRegs 5 :: [] ∧ (flagRegs 4).held = true ∧ (flagRegs 4).empties = false ∧ (flagRegs 4).lanes.map Prod.fst = keys 4 ∧
         (flagRegs 5).lanes.map Prod.fst = keys 5) ∧
      (let uses := tileUses ((s.core 0).team d.team) d.op
       (∀ x ∈ (s.core 0).cmds, x.id < d.id → unitOf x.op = 3 → x.begun = true ∨ x.paused ≠ none) ∧
         (∀ x ∈ (s.core 0).cmds, x.id < d.id → ∀ y ∈ matTargets ((s.core 0).team x.team) x.op, y ∉ uses.2 ∧ (y ∈ uses.1 → peeks d.op = true)) ∧
         ∀ x ∈ (s.core 0).cmds, x.id < d.id → unitOf x.op = 3 →
           (∀ y ∈ (tileUses ((s.core 0).team x.team) x.op).2, y ∉ uses.1 ∧ y ∉ uses.2) ∧ ∀ y ∈ (tileUses ((s.core 0).team x.team) x.op).1, y ∉ uses.2) :=
  ⟨⟨holds_of _ _ _ rfl rfl rfl, by decide, rfl, rfl, rfl⟩, by decide, by decide⟩

/-- An MMA of bf16 with K = 16, from rings 0 and 1 into tiles 0 and 1; its rings hold as many slots as its operands take. -/
def mmaOp : EOp := { eop 7 .zero .zero .zero .zero (BitVec.ofNat 64 (1 * 2 ^ 18 + 4 * 2 ^ 22 + 1 * 2 ^ 32)) with ty := .bf16x2 }
def ringsFor (h0 h1 : List RingHold) (tail : Nat) : State :=
  (base.onRing 0 0 (fun _ => { valid := true, slotsz := 1, count := 8, rsv := tail, tail := min tail 8, clm := tail, consumers := h0 })).onRing 0 1
    (fun _ => { valid := true, base := 1024, slotsz := 1, count := 16, rsv := tail, tail := tail, clm := tail, consumers := h1 })

theorem test_matrix_commands_hypotheses :
    let s := begun (ringsFor [] [] 0) user
    let c := rec (ringsFor [] [] 0) user
    let m := matOp mmaOp false
    (LanesRun s c mmaOp.at' [] ∧ isGlen c.who = false ∧ (s.teamOf c).res.rings[m.ra]? = some 0 ∧ (s.teamOf c).res.rings[m.rb]? = some 1) ∧
      (m.ks ≠ 0 ∧ m.tile % 2 = 0 ∧ m.tile + 1 < (s.teamOf c).res.nacc ∧ (s.ring 0 0).valid = true ∧ (m.bytesA + (s.ring 0 0).slotBytes - 1) / (s.ring 0 0).slotBytes ≤ (s.ring 0 0).count ∧
        (s.ring 0 1).valid = true ∧ (m.bytesB + (s.ring 0 1).slotBytes - 1) / (s.ring 0 1).slotBytes ≤ (s.ring 0 1).count) ∧
      (TileClean (s.core 0) 0 ∧ TileClean (s.core 0) 1 ∧ CanQueue s c (.mma mmaOp) 2 8) ∧
      (let d := commanded (.mma mmaOp) .registered [0, 1]
       let w := holding d (ringsFor [{ cmd := claimKey 0 7 0, n := 8, granted := true }] [{ cmd := claimKey 0 7 1, n := 16, granted := true }] 16)
       Holds w 0 d .registered ∧ claimArrived w 0 0 (claimKey 0 7 0) = true ∧ claimArrived w 0 1 (claimKey 0 7 1) = true ∧ tilesBusy (w.core 0) 7 [0, 1] true = false) ∧
      (let d := commanded (.mma mmaOp) .started [0, 1]
       Holds (holding d) 0 d .started ∧ d.due ≤ (holding d).now ∧ d.err = false ∧ (holding d).store.cut = [] ∧ ((holding d).core 0).store.spadPoison = [] ∧
         ((holding d).core 0).store.tilePoison = []) := by
  refine ⟨⟨⟨runs_begun _ _, by decide, by rfl⟩, rfl, by decide, by decide⟩, by decide, ⟨clean_of _ _ rfl, clean_of _ _ rfl, canQueue_of _ _ _ _ _ rfl rfl rfl rfl (by decide) ?_⟩,
    ⟨holds_of _ _ _ rfl rfl rfl, by decide, by decide, by decide⟩, ⟨holds_of _ _ _ rfl rfl rfl, by decide, rfl, rfl, rfl, rfl⟩⟩
  intro n h
  revert h
  decide +revert

/-! ### Copies -/

/-- The state with context 1 mapping the first 256 GiB of HBM to themselves: a root table at 1 MiB, and one leaf. -/
def mapped (s : State) (extra : Memory := []) : State :=
  { s with
    contexts := [(1, { w0 := 0x100001 })]
    partitions := [(0, { clusters := 1, stackMask := 1, ranges := [(0, 2 ^ 38)] })]
    store := { s.store with mem := ((s.store.mem.write 0x100000 (leBytes 8 0x104001)).write 0x104000 (leBytes 8 0x1F)).write 0x1000 (extra.map Prod.snd) } }

/-- Bytes at 0x1000. -/
def at1000 (bs : List Byte) : Memory := bs.map (fun b => (0, b))

/-- A copy descriptor of one run of 128 bytes from 0x2000 to 0x3000, with the kinds of its ends. -/
def oneRun (kinds : Nat) (dst : Nat := 0x3000) (len : Nat := 128) : List Byte :=
  leBytes 8 0x2000 ++ leBytes 8 dst ++ leBytes 4 len ++ leBytes 4 kinds ++
    (leBytes 4 1 ++ leBytes 8 0) ++ (leBytes 4 1 ++ leBytes 8 0) ++ (leBytes 4 1 ++ leBytes 8 0) ++ (leBytes 4 1 ++ leBytes 8 0) ++ (leBytes 4 1 ++ leBytes 8 0) ++
    List.replicate 12 0

def copying : State := (mapped base (at1000 (oneRun 0))).onGroup user (fun g => g.setSreg 1 0x1000)
def cpyOp : EOp := eop 7 .zero (.s 1) .zero .zero 0

theorem test_copy_commands_hypotheses :
    let s := begun copying user
    let c := rec copying user
    let ps := [(scalarLane, (List.range 24).map (fun j => (GAddr.va (0x1000 + BitVec.ofNat 64 (4 * j)), 4)))]
    let r := reachLanes s c.who c.snap .read ps
    let bs := (r.lanes.flatMap GLane.places).map s.store.mem.byte
    ((oneRun 0).length = 96 ∧ 0 < leNat (((oneRun 0).drop (0x0C + 12)).take 4)) ∧
      (LanesRun s c cpyOp.at' [] ∧ isGlen c.who = false ∧ c.sval cpyOp.a = 0x1000 ∧ flagField (.cpy cpyOp) = none) ∧
      (Reached s c .read ps ∧ NoStash s ∧ Settled s c none r.lanes ∧ (∀ l ∈ r.lanes, ∀ p ∈ l.vas.zip l.places, s.isPoisoned p.2 = false) ∧ (copyDesc bs).ok (s.teamOf c) = true ∧
        (copyDesc bs).dk = 0 ∧
        CanQueue s c (.cpy cpyOp) 1 16) ∧
      (∃ f, lowestFault (reachLanes (begun base user) user (rec base user).snap .read [(scalarLane, [(GAddr.va 0x10000, 4)])]).faults = some f) ∧
      (let d : Cmd := { commanded (.cpy cpyOp) .queued [] with desc := oneRun 0 }
       let w := holding d copying
       Holds w 0 d .queued ∧ unitOf d.op = 1 ∧ NoStash w ∧ (w.core 0).caches.stores = [] ∧ (w.core 0).caches.wc = [] ∧ ∃ l, copyLines w 0 d.cid (copyDesc d.desc) = .ok l ∧ l = [0x3000]) ∧
      (let d : Cmd := { commanded (.cpy cpyOp) .queued [] with desc := oneRun 0 (2 ^ 39) }
       Holds (holding d copying) 0 d .queued ∧ ∃ va f k, copyLines (holding d copying) 0 d.cid (copyDesc d.desc) = .error (.fault va f k) ∧ f.rpl = true) := by
  refine ⟨by decide, ⟨⟨runs_begun _ _, by decide, by rfl⟩, rfl, by decide, by decide⟩,
    ⟨⟨by decide, by decide, fun _ => by decide⟩, noStash_of _ _ rfl (by decide) (by decide), ⟨by decide, by decide⟩, by decide, by decide, by decide, canQueue_of _ _ _ _ _ rfl rfl rfl rfl (by decide) ?_⟩,
    Option.isSome_iff_exists.1 (by decide), ⟨holds_of _ _ _ rfl rfl rfl, rfl, noStash_of _ _ rfl (by decide) (by decide), by decide, by decide, _, rfl, by decide⟩, holds_of _ _ _ rfl rfl rfl, _, _, _, rfl, by decide⟩
  intro n h
  revert h
  decide +revert

/-- A started copy, to memory, to ring 3 (one slot granted), to stream register 0. -/
def started (kinds : Nat) (dst : Nat := 0x3000) (len : Nat := 128) : Cmd := { commanded (.cpy cpyOp) .started [] with desc := oneRun kinds dst len }
def startedIn (d : Cmd) : State := holding d copying

theorem test_copy_results_hypotheses :
    (let d := { started 0 with phase := .registered }
     unitOf d.op = 1 ∧ Holds (startedIn d) 0 d .registered ∧ (copyDesc d.desc).dk ≠ 3 ∧ copyRings (startedIn d) 0 d = []) ∧
      (let d := started 0 0x3000 4
       let s := startedIn d
       Holds s 0 d .started ∧ d.due ≤ s.now ∧ d.err = false ∧ d.owned = [] ∧ NoStash s ∧ Quiet s ∧
         ∃ src dst, copySource s 0 d = .ok src ∧ copyTargets s 0 d = .ok dst ∧ src = (List.range 4).map (fun j => SpadByte.there (0x2000 + j)) ∧
           dst = (List.range 4).map (fun j => SpadByte.there (0x3000 + j)) ∧ dst.Nodup ∧ (∀ b ∈ dst, b ∉ src) ∧
           ∀ p, SpadByte.there p ∈ src ++ dst → s.heldBefore (lineOf p) d.order = false) ∧
      (let d := started (2 * 4 + 3 * 16) 0
       let h : RingHold := { cmd := holdKey 0 7, n := 1, granted := true }
       let s := (startedIn d).onRing 0 3 (fun _ => { idle3 with rsv := 1, producers := [h] })
       (copyDesc d.desc).dk = 2 ∧ copyRings s 0 d = [(0, 3)] ∧ grantedHold (s.ring 0 3).producers (holdKey 0 7) = some h ∧ h.first = (s.ring 0 3).tail ∧
         h.first = (s.ring 0 3).commitAll.tail ∧ (s.ring 0 3).producers.Nodup ∧ (∀ g ∈ (s.ring 0 3).producers, (g.thread = false → g.cmd = holdKey 0 7 → g = h) ∧ g.done = false) ∧
         (s.ring 0 3).consumers = [] ∧ (∀ e ∈ (s.ring 0 3).own, e.take = false → e.done = false) ∧ (ringTargets s 0 3 (copyDesc d.desc) h.first).Nodup) ∧
      (let d := started (3 * 4) 0 4
       let s := startedIn d |>.onGroup user (fun g => { g with q := [(0, { buf := 0, size := 512, named := 1 })] })
       (copyDesc d.desc).dk = 3 ∧ copyRings s 0 d = [] ∧ coreOf d.who = 0 ∧ isGlen d.who = false ∧ d.aux = [] ∧ ((s.groupOf d.who).stream 0).size % 4 = 0 ∧ (copyDesc d.desc).total % 4 = 0 ∧
         ∃ src, copySource s 0 d = .ok src ∧ src.length = (copyDesc d.desc).total) ∧
      (let d := started 0 0x3000 4
       let s : State := { startedIn d with store := { copying.store with owners := [{ line := 0x3000, unit := 0, cmd := 7, seq := 0 }] } }
       (copyDesc d.desc).dk = 0 ∧ Holds s 0 d .started ∧ ∃ o ∈ s.store.owners, o.line = 0x3000 ∧ o.unit = 0 ∧ o.cmd = d.id) ∧
      (let d := { started 0 0x3000 4 with desc := leBytes 8 (2 ^ 39) ++ (oneRun 0 0x3000 4).drop 8 }
       Holds (startedIn d) 0 d .started ∧ ∃ va f k, copySource (startedIn d) 0 d = .error (.fault va f k) ∧ f.rpl = true) := by
  refine ⟨⟨rfl, holds_of _ _ _ rfl rfl rfl, by decide, by decide⟩,
    ⟨holds_of _ _ _ rfl rfl rfl, by decide, rfl, rfl, noStash_of _ _ rfl (by decide) (by decide), quiet_of _ _ rfl (by decide) (by decide), _, _, rfl, rfl, by decide, by decide,
      by decide, by decide, ?_⟩, by decide, ⟨by decide, by decide, by decide, by decide, by decide, by decide, by decide, _, rfl, by decide⟩,
    ⟨by decide, holds_of _ _ _ rfl rfl rfl, by decide⟩, ⟨holds_of _ _ _ rfl rfl rfl, _, _, _, rfl, by decide⟩⟩
  intro p _
  have h : (startedIn (started 0 0x3000 4)).store.owners = [] := rfl
  simp [State.heldBefore, h]

/-! ### Sequences, attention, collectives, batch-forming queues -/

/-- A sequence descriptor: two f32 slots of one head of 16 elements, one page, its metadata at 0x1400 with both slots valid. -/
def sequence : List Byte :=
  leBytes 4 2 ++ leBytes 4 1 ++ leBytes 8 0 ++ leBytes 8 0x1040 ++ leBytes 8 0x1400 ++ leBytes 8 0 ++ [3, 1] ++ leBytes 2 16 ++ leBytes 4 0 ++ List.replicate 16 0 ++
    (leBytes 8 0x10000 ++ leBytes 8 0x20000) ++ List.replicate 0x3B0 0 ++ List.replicate 512 0 ++ leBytes 8 3
def sequenced (d : Cmd) : State := holding d (mapped base (at1000 sequence))
def ofSeq (i : Instr) (p : CmdPhase) (a b c : DWord) (aux : List Nat) : Cmd := { commanded i p aux with a := a, b := b, c := c }

/-- KVTRUNC, an EVICT by count with decay 1.0, an ATTN of one bf16 row and head without its columns' tiles shared. -/
def truncOp : ROp := rop 7 .zero (.s 1) .zero .zero
def evictOp : EOp := eop 7 .zero (.s 1) (.s 2) (.s 3) (BitVec.ofNat 64 (2 ^ 7))
def attnOp1 : EOp := { eop 7 .zero (.s 1) (.s 2) .zero 0 with ty := .bf16x2 }
def evicting : State := base.onGroup user (fun g => (g.setSreg 2 0x3F800000).setSreg 3 1)

theorem test_sequence_commands_hypotheses :
    let s := begun evicting user
    let c := rec evicting user
    (LanesRun s c (site 7) [] ∧ (∀ y ∈ (s.core (coreOf c.who)).cmds, y.id ≠ (s.core (coreOf c.who)).nextCmd) ∧ CanQueue s c (.kvtrunc truncOp) 4 16 ∧ CanQueue s c (.evict evictOp) 4 16) ∧
      (let x := (c.sval (.s 2)).toNat % 2 ^ 32
       f32.isNan x = false ∧ cmpFp (f32.value x) (.num false 0 0) ≠ Ordering.lt ∧ cmpFp (f32.value x) fpOne ≠ Ordering.gt ∧ (c.sval (.s 3)).toNat % 2 ^ 32 = 1 ∧
         evictOp.ext.getLsbD 7 = true ∧ f32.isNan 0x7FC00000 = true) ∧
      (let s1 := begun (ringsFor [] [] 0) user
       let c1 := rec (ringsFor [] [] 0) user
       let m := attnOp attnOp1
       (s1.teamOf c1).res.rings[m.ring]? = some 0 ∧ m.rows * m.heads ≤ 32 ∧ m.tile % 2 = 0 ∧ m.tile + 2 * (m.nreg + 1) ≤ (s1.teamOf c1).res.nacc ∧
         (m.rows * m.heads * 64 * (m.nreg + 1) * matBits m.tq / 8 + (s1.ring 0 0).slotBytes - 1) / (s1.ring 0 0).slotBytes ≤ (s1.ring 0 0).count ∧ CanQueue s1 c1 (.attn attnOp1) 2 8) ∧
      (let d := ofSeq (.kvtrunc truncOp) .queued 0x1000 1 0 [0, 0, 0]
       Holds (sequenced d) 0 d .queued ∧ isSeqOp d.op = true ∧ (¬∃ x ∈ ((sequenced d).core 0).cmds, x.id < d.id) ∧
         ∃ p, engineReach (sequenced d) 0 d.cid .engineRead [(seqAddr d, 1)] = .ok [p] ∧ p.place = 0x1000) := by
  refine ⟨⟨⟨runs_begun _ _, by decide, by rfl⟩, by decide, canQueue_of _ _ _ _ _ rfl rfl rfl rfl (by decide) ?_, canQueue_of _ _ _ _ _ rfl rfl rfl rfl (by decide) ?_⟩, by decide,
    ⟨by decide, by decide, by decide, by decide, by decide, canQueue_of _ _ _ _ _ rfl rfl rfl rfl (by decide) ?_⟩, ⟨holds_of _ _ _ rfl rfl rfl, rfl, by decide, _, rfl, by decide⟩⟩
  all_goals
    intro n h
    revert h
    decide +revert

/-- The claim of the one command on the sequence is next, and its outcome is known: KVTRUNC to one slot, EVICT of two, an ATTN; a descriptor that is
misaligned, or of which the page is not mapped. -/
theorem claimNext_of (d : Cmd) (h : (sequenced d).cores.all (fun k => k.2.cmds.all (fun x => x.order == 0)) = true) (e : d.order = 0)
    (g : (sequenced d).cores.all (fun k => k.2.cmds.all (fun x => !seqGranted x)) = true) : ClaimNext (sequenced d) d := by
  intro k hk x hx _ _ n
  simp only [List.all_eq_true, beq_iff_eq, Bool.not_eq_true'] at h g
  rcases n with n | n
  · rw [g k hk x hx] at n
    cases n
  · rw [h k hk x hx, e] at n
    exact absurd n (by decide)

theorem test_sequences_hypotheses :
    (let d := ofSeq (.kvtrunc truncOp) .registered 0x1000 1 0 [0, 0x1000, 0]
     let s := sequenced d
     let e := { d with order := s.store.nextOwner }
     isSeqOp d.op = true ∧ Holds s 0 d .registered ∧ seqGranted d = false ∧ ClaimNext s d ∧ d.aux.length = 3 ∧ NoStash s ∧
       ∃ q o ws, kvtruncOut s e q = .ok o ∧ readSeq s e d.a = .ok q ∧ seqWrites s e o.writes = .ok ws ∧ q.len = 2 ∧ (ws.map Prod.fst).Nodup) ∧
      (let d := ofSeq (.kvtrunc truncOp) .finished 0x1000 1 0 [0, 0x1000, 1]
       Holds (sequenced d) 0 d .finished ∧ (sequenced d).store.cut = [] ∧ d.err = false ∧ seqGranted { d with phase := .registered } = true) ∧
      (let d := ofSeq (.evict evictOp) .registered 0x1000 0x3F800000 2 [0, 0x1000, 0]
       ∃ q o m, readSeq (sequenced d) d d.a = .ok q ∧ evictOut (sequenced d) d q true = .ok o ∧ readMetas (sequenced d) d q (blocksOf 0 q.len) = .ok m) ∧
      (let d := ofSeq (.kvtrunc truncOp) .registered 0x1008 1 0 [0, 0x1000, 0]
       readSeq (sequenced d) d (seqAddr d) = .error .bad) ∧
      (let d := ofSeq (.kvtrunc truncOp) .registered (2 ^ 39) 1 0 [0, 0x1000, 0]
       ∃ va f k, readSeq (sequenced d) d (seqAddr d) = .error (.fault va f k) ∧ f.rpl = true) ∧
      (let d := ofSeq (.attn attnOp1) .registered 0 0x1000 0 [0, 0x1000, 0]
       ∃ q, readSeq (sequenced d) d d.b = .ok q ∧ (q.hd + 63) / 64 = (attnOp attnOp1).nreg + 1 ∧ (attnOp attnOp1).heads % q.kvh = 0 ∧ (attnOp attnOp1).delta = false) := by
  refine ⟨⟨rfl, holds_of _ _ _ rfl rfl rfl, by decide, claimNext_of _ (by decide) rfl (by decide), rfl, noStash_of _ _ rfl (by decide) (by decide), _, _, _, rfl, rfl, rfl, by decide, by decide⟩,
    ⟨holds_of _ _ _ rfl rfl rfl, rfl, rfl, by decide⟩, ⟨_, _, _, rfl, rfl, rfl⟩, rfl, ⟨_, _, _, rfl, by decide⟩, ⟨_, rfl, by decide, by decide, by decide⟩⟩

theorem test_attention_hypotheses :
    let q : List Byte := List.replicate 16 0 ++ leBytes 4 16 ++ leBytes 4 1 ++ leBytes 4 3
    (let d := { ofSeq (.attn attnOp1) .registered 0 0x1000 0 [0, 0x1000, 1] with desc := q }
     let s := (sequenced d).onRing 0 0 (fun _ => { valid := true, slotsz := 8, count := 8, rsv := 8, tail := 8, clm := 1, consumers := [{ cmd := claimKey 0 7 0, granted := true }] })
     Holds s 0 d .registered ∧ seqGranted d = true ∧ (∀ x ∈ (s.core 0).cmds, x.id < d.id → unitOf x.op ≠ 2) ∧
       claimArrived s 0 0 (claimKey 0 7 0) = true ∧ tilesBusy (s.core 0) 7 [0, 1] true = false) ∧
      (let d := { ofSeq (.attn attnOp1) .started 0 0x1000 0 [0, 0x1000, 1] with desc := q }
       let s := sequenced d
       Holds s 0 d .started ∧ d.due ≤ s.now ∧ d.err = false ∧ (attnOp attnOp1).mass = false ∧ (attnOp attnOp1).delta = false ∧ NoStash s ∧ Quiet s ∧
         (s.core 0).store.tilePoison = [] ∧ ∃ m0, readMetas s d (sampledSeq d) (blocksOf 0 (sampledSeq d).len) = .ok m0 ∧ readSlots s d (sampledSeq d) m0 [] = .ok []) := by
  refine ⟨⟨holds_of _ _ _ rfl rfl rfl, by decide, by decide, by decide, by decide⟩,
    ⟨holds_of _ _ _ rfl rfl rfl, by decide, rfl, by decide, by decide, noStash_of _ _ rfl (by decide) (by decide), quiet_of _ _ rfl (by decide) (by decide), rfl, _, rfl, rfl⟩⟩

/-- A collective of two ranks, both of core 0, that add one number each: the descriptor of rank k and the communicator table. -/
def collBytes (k : Nat) : List Byte :=
  leBytes 8 (0x2000 + 16 * k) ++ leBytes 8 (0x3000 + 128 * k) ++ leBytes 8 0x1100 ++ leBytes 4 1 ++ leBytes 4 128 ++ leBytes 4 k ++ leBytes 4 5 ++ List.replicate 24 0
def table : List Byte := leBytes 4 9 ++ leBytes 4 2 ++ List.replicate 8 0
def collOp1 (k : Nat) : EOp := eop 7 .zero (.s 1) .zero .zero (BitVec.ofNat 64 (64 + k))
def collCmd (k : Nat) (p : CmdPhase) : Cmd :=
  { commanded (.coll (collOp1 k)) p [0, 0] with id := 7 + k, a := 0x1000 + BitVec.ofNat 64 (64 * k), desc := if p = .started then collBytes k ++ table ++ [0] else [] }
def collective (p : CmdPhase) : State :=
  (mapped base (at1000 (collBytes 0 ++ collBytes 1 ++ List.replicate 128 0 ++ table ++ List.replicate 16 0))).onCore 0 (fun k => { k with cmds := [collCmd 0 p, collCmd 1 p], nextCmd := 9 })

theorem test_collectives_hypotheses :
    (let s := begun base user
     let c := rec base user
     LanesRun s c (collOp1 0).at' [] ∧ (∀ y ∈ (s.core (coreOf c.who)).cmds, y.id ≠ (s.core (coreOf c.who)).nextCmd) ∧ CanQueue s c (.coll (collOp1 0)) 4 16) ∧
      (let s := collective .queued
       let d := collCmd 0 .queued
       Holds s 0 d .queued ∧ (¬∃ x ∈ (s.core 0).cmds, x.id < d.id) ∧ NoStash s ∧ (s.core 0).caches.stores = [] ∧ (s.core 0).caches.wc = [] ∧
         ∃ b0 b1 es ps, seqRead s d false d.a 64 = .ok (b0, false) ∧ seqRead s d false (BitVec.ofNat 64 (descNum b0 0x10 8)) 16 = .ok (b1, false) ∧ descNum b1 4 4 = 2 ∧
           seqRead s d false (BitVec.ofNat 64 (descNum b0 0x10 8) + 16) 16 = .ok (es, false) ∧
           engineReach s 0 d.cid .engineWrite (runPieces (BitVec.ofNat 64 (descNum b0 8 8)) 4) = .ok ps ∧ collRead s.flushStashes d 0 = .ok (b0 ++ b1 ++ [0], [0, 0])) ∧
      (let s := collective .started
       let xs := collRanks s 9 5
       RanksArrived xs ∧ (∀ y ∈ xs, y.2.1.paused = none) ∧ NoStash s ∧ Quiet s ∧ (xs.map (fun x => (x.1, x.2.1.id))).Nodup ∧
         (∀ x ∈ xs, x.2.1.err = false ∧ (flagField x.2.1.op).isSome ∧ groupStopped ((s.core x.1).groupK x.2.1.groupKey) = false) ∧ xs.length = 2 ∧
         (∀ k < 2, ∃ y ∈ xs, y.2.2.rank = k) ∧ (∀ y ∈ xs, y.2.2.bad = false ∧ y.2.2.op = 0 ∧ y.2.2.rop = 0 ∧ y.2.2.ty = 2 ∧ y.2.2.count = 1 ∧ y.2.2.nr = 2 ∧ y.2.2.root = 0) ∧
         ∃ ps, collParts s (xs.map (fun y => (y.1, y.2.1.id))) xs = .ok ps ∧ (∀ p ∈ ps, ∀ q ∈ ps, ∀ b ∈ p.src, b ∉ q.dst) ∧ (ps.flatMap CollPart.dst).Nodup) ∧
      (let d : Cmd := { collCmd 0 .started with desc := (collBytes 0).take 40 ++ leBytes 4 1 ++ (collBytes 0).drop 44 ++ table ++ [0] }
       let s := holding d
       Holds s 0 d .started ∧ (collDesc d.desc).tmo ≠ 0 ∧ d.due ≤ s.now ∧ ¬RanksArrived (collRanks s 9 5) ∧ s.store.cut = [] ∧ (flagField d.op).isSome) := by
  refine ⟨⟨⟨runs_begun _ _, by decide, by rfl⟩, by decide, canQueue_of _ _ _ _ _ rfl rfl rfl rfl (by decide) ?_⟩,
    ⟨⟨by decide, rfl, rfl⟩, by decide, noStash_of _ _ rfl (by decide) (by decide), by decide, by decide, _, _, _, _, rfl, rfl, by decide, rfl, rfl, rfl⟩,
    ⟨by simp only [RanksArrived]; decide, by decide, noStash_of _ _ rfl (by decide) (by decide), quiet_of _ _ rfl (by decide) (by decide), by decide, by decide, by decide, by decide,
      by decide, _, rfl, by decide, by decide⟩,
    ⟨holds_of _ _ _ rfl rfl rfl, by decide, by decide, by simp only [RanksArrived]; decide, rfl, by decide⟩⟩
  intro n h
  have e : flagField (.coll (collOp1 0)) = some 0 := by decide
  rw [e] at h
  cases h
  decide

/-- Queue 0 of die 0 for context 1: four slots, two records. -/
def openQueue (s : State) : State :=
  s.onBfq 0 0 (fun _ => { on := true, stab := 0x2000, nslot := 4, rl := 4, cid := 1, cap := 2 })
def postOp : EOp := eop 7 .zero (.s 1) (.s 2) .zero 0
def takeOp : EOp := eop 7 (.s 3) (.s 1) (.s 2) .zero 0
def doneOp : ROp := rop 7 .zero (.s 1) (.s 2) .zero
def bfqCmd (i : Instr) (b : DWord) : Cmd := { commanded i .queued [] with b := b }
def taking : State := (openQueue base).onGroup user (fun g => g.setSreg 2 1)

theorem test_batch_queues_hypotheses :
    (let s := begun taking user
     let c := rec taking user
     LanesRun s c (site 7) [] ∧ isGlen c.who = false ∧ (∀ y ∈ (s.core (coreOf c.who)).cmds, y.id ≠ (s.core (coreOf c.who)).nextCmd) ∧
       ((s.bfq 0 0).on = true ∧ (s.bfq 0 0).cid = s.cidOf c.who ∧ (s.bfq 0 1).on = false) ∧ CanQueue s c (.bfqpost postOp) 4 16 ∧ CanQueue s c (.bfqtake takeOp) 4 16 ∧
       (let max := ((c.sval (.s 2)).extractLsb' 0 8).toNat
        1 ≤ max ∧ max ≤ 128 ∧ (c.sval (.s 1)).toNat % 16 = 0 ∧ (c.sval (.s 1)).toNat + 16 * max ≤ (s.teamOf c).res.spsize)) ∧
      (∀ i ∈ [Instr.bfqpost postOp, .bfqtake takeOp, .bfqdone doneOp], ∀ b ∈ [(1 : DWord), 0x40000],
        let d := bfqCmd i b
        let s := holding d (mapped (openQueue base))
        isBfq d.op = true ∧ Holds s 0 d .queued ∧ NoStash s ∧ Quiet s ∧ d.err = false ∧ (s.core 0).cmds = [d] ∧ s.cores.map Prod.fst = [0] ∧
          groupStopped ((s.core 0).groupK d.groupKey) = false) ∧
      (let d := bfqCmd (.bfqpost postOp) 1
       let s := holding d (mapped (openQueue base))
       (d.b.extractLsb' 16 16).toNat < (s.bfq 0 0).nslot ∧ (s.bfq 0 0).recs.length < (s.bfq 0 0).cap ∧ (s.bfq 0 0).nslot ≤ ((0x40000 : DWord).extractLsb' 16 16).toNat ∧
         ∃ ws, seqWrites s { d with phase := .started } [cleanWrite 0x2008 (leBytes 8 (2 ^ 16 + 1))] = .ok ws ∧ (ws.map Prod.fst).Nodup) ∧
      (let d := bfqCmd (.bfqdone doneOp) 1
       let s := holding d (mapped (openQueue base))
       ∃ bs bad, seqRead s { d with phase := .started } false 0x2000 16 = .ok (bs, bad) ∧ bs.length = 16) ∧
      (let d : Cmd := { bfqCmd (.bfqtake takeOp) 1 with phase := .started }
       Holds (holding d) 0 d .started ∧ d.due ≤ (holding d).now ∧ (holding d).store.cut = [] ∧ takeOp.d = .s 3 ∧ coreOf d.who = 0 ∧ isGlen d.who = false ∧ d.desc.length % 16 = 0 ∧
         d.desc.length < 16 * 1) := by
  refine ⟨⟨⟨runs_begun _ _, by decide, by rfl⟩, rfl, by decide, by decide, canQueue_of _ _ _ _ _ rfl rfl rfl rfl (by decide) ?_, canQueue_of _ _ _ _ _ rfl rfl rfl rfl (by decide) ?_, by decide⟩,
    fun i hi b hb => ?_, ⟨by decide, by decide, by decide, _, rfl, by decide⟩, ⟨_, _, rfl, by decide⟩, ⟨holds_of _ _ _ rfl rfl rfl, by decide, rfl, rfl, rfl, rfl, by decide, by decide⟩⟩
  · intro n h
    revert h
    decide +revert
  · intro n h
    revert h
    decide +revert
  · simp only [List.mem_cons, List.not_mem_nil, or_false] at hi hb
    obtain rfl | rfl | rfl := hi <;> obtain rfl | rfl := hb <;>
      exact ⟨rfl, holds_of _ _ _ rfl rfl rfl, noStash_of _ _ rfl (by decide) (by decide), quiet_of _ _ rfl (by decide) (by decide), rfl, rfl, rfl, rfl⟩

/-! ### Glen cores -/

def glen0 : Who := .glen 0
/-- Glen core 0 about to issue, beside the gang of core 0, with a command. -/
def withGlen (f : Glen → Glen) (extra : Memory := []) : State :=
  { mapped base extra with glens := baseGlen.glens.map (fun p => (p.1, f p.2)) }
def glenCmd (i : Instr) (p : CmdPhase) (aux : List Nat) : Cmd := { id := 7, op := i, who := glen0, phase := p, cid := 1, aux := aux }
def gthOp : EOp := eop 7 .zero .zero .zero .zero (BitVec.ofNat 64 (2 ^ 10 + 4 * 2 ^ 21 + 2 ^ 33))
def poolOp1 : EOp := eop 7 .zero .zero .zero .zero (BitVec.ofNat 64 (2 ^ 13 + 2 ^ 25))
def unzOp : EOp := eop 7 .zero .zero .zero .zero 0
def handOp : ROp := rop 7 .zero .zero (.s 1) (.s 2)
/-- Ring 3 of core 0 live with generation 1, its handle, and the glen core about to hand it one slot. -/
def handing (h : DWord) (x : Ring) (cs : List Cmd) : State :=
  (withGlen (fun g => { g with cmds := cs, nextCmd := 8, ctx := (g.ctx.setSreg 1 128).setSreg 2 h })).onRing 0 3 (fun _ => x)
def ringHandle : DWord := BitVec.ofNat 64 (3 * 2 ^ 15 + 1)

theorem test_glen_commands_hypotheses :
    (let s := begun (withGlen id) glen0
     let c := rec (withGlen id) glen0
     LanesRun s c (site 7) [] ∧ (c.sval .zero).toNat % 128 = 0 ∧ (c.sval .zero).toNat + 16 ≤ 65536 ∧ (s.glen 0).cmds = [] ∧
       (let rb := 4 * (gthOp.ext.extractLsb' 10 11).toNat
        let cap := (gthOp.ext.extractLsb' 21 12).toNat
        1 ≤ rb ∧ rb ≤ 4096 ∧ 1 ≤ cap ∧ rb ≤ 4 * (gthOp.ext.extractLsb' 33 31).toNat ∧ (c.sval .zero).toNat + cap * rb ≤ 65536) ∧
       (poolEt poolOp1 ≠ 3 ∧ poolOp poolOp1 ≠ 3 ∧ 1 ≤ poolE poolOp1 ∧ 1 ≤ poolCap poolOp1 ∧ (s.glen 0).rowNum 0 8 4 = (0, false)) ∧
       ((c.sval .zero).toNat + unzBlock unzOp ≤ 65536) ∧ NoHand (s.glen 0)) ∧
      (let s := begun (handing ringHandle idle3 []) glen0
       let c := rec (handing ringHandle idle3 []) glen0
       LanesRun s c handOp.at' [] ∧ (c.sval .zero).toNat + (c.sval (.s 1)).toNat ≤ 65536 ∧ ringPlace s ((c.sval (.s 2)).toNat % 2 ^ 32) 1 = some (0, 3) ∧
         (c.sval (.s 1)).toNat % idle3.slotBytes = 0 ∧ (c.sval (.s 1)).toNat / idle3.slotBytes ≤ idle3.count ∧ ringPlace s 0 1 = none) ∧
      (let s := withGlen (fun g => { g with frames := [(0, { valid := true, seg := 4, bytes := [] })], segs := List.replicate 5 {} })
       let f := Sparse.look {} (4 % 4) (s.glen 0).frames
       4 < (s.glen 0).segs.length ∧ f.valid = true ∧ f.seg = 4 ∧ f.filling = false ∧ ¬3 + 2 < (s.glen 0).segs.length) ∧
      (let s := withGlen (fun g => { g with frames := [(1, { seg := 0, filling := true, due := 0 })] })
       (s.glen 0).fillingFrame = some (1, { seg := 0, filling := true, due := 0 }) ∧ (0 : Nat) ≤ s.now ∧ NoStash s ∧ (s.glen 0).demand = none ∧ (s.glen 0).code = [] ∧
         ∃ ps, engineReachTlb s ((s.glen 0).tlb ++ s.dieGrants 0) (s.glen 0).cid .fetch (runPieces 0 128) = .ok ps ∧ ∀ l ∈ ownedLines ps, s.isOwned l = false) ∧
      (let s := withGlen (fun g => { g with frames := [(1, { seg := 0, filling := true, due := 0 })], segs := [{ addr := 2 ^ 39, len := 128 }] })
       ∃ va y k, engineReachTlb s ((s.glen 0).tlb ++ s.dieGrants 0) (s.glen 0).cid .fetch (runPieces (2 ^ 39) 128) = .error (.fault va y k)) ∧
      (let s := withGlen (fun g => { g with prog := { g.prog with ended := true } })
       (s.glen 0).prog.running = true ∧ (s.glen 0).prog.ended = true ∧ (s.glen 0).cmds = []) :=
  ⟨⟨⟨runs_begun _ _, by decide, by rfl⟩, by decide, by decide, rfl, by decide, by decide, by decide, fun d hd => absurd (show d ∈ ([] : List Cmd) from hd) List.not_mem_nil⟩,
    ⟨⟨runs_begun _ _, by decide, by rfl⟩, by decide, by decide, by decide, by decide, by decide⟩, by decide,
    ⟨by decide, by decide, noStash_of _ _ rfl (by decide) (by decide), rfl, rfl, _, rfl, by decide⟩, ⟨_, _, _, rfl⟩, by decide⟩

/-- A batch of two equal indices at 0x2000 with its bag offsets at 0x2010; its descriptor at 0x1000; and a batch area with one unique index, row 1. -/
def batchDesc : List Byte := leBytes 8 0x2000 ++ leBytes 8 0x2010 ++ leBytes 8 0 ++ leBytes 4 2 ++ leBytes 4 1 ++ leBytes 4 8 ++ List.replicate 12 0
def area1 : Memory := Memory.write [] 0 (leBytes 4 1 ++ leBytes 4 1 ++ leBytes 4 1 ++ leBytes 4 0 ++ leBytes 4 1)
def commandIn (d : Cmd) (row : Memory) : State := withGlen (fun g => { g with cmds := [d], row := row, areas := [(0, 8)] }) (at1000 batchDesc)

theorem test_glen_results_hypotheses :
    (let d := { glenCmd (.dedup (rop 7 .zero .zero .zero .zero)) .queued [] with a := 0x1000 }
     let s := commandIn d []
     (s.glen 0).cmd 7 = some d ∧ d.paused = none ∧ glenReady s (s.glen 0) d = true ∧ NoHand (s.glen 0) ∧ NoStash s ∧ ∃ x, dedupOut s d = .ok x ∧ x.mal = false) ∧
      (let d := { glenCmd (.gth gthOp) .queued [] with a := 0, b := 0x2000, c := 256 }
       let s := commandIn d area1
       let g := s.glen 0
       (∃ x, gthOut s g d gthOp = .ok x ∧ x.mal = false) ∧ (g.area s.free d.a.toNat).bad = false ∧
         0 < min (g.rowNum s.free (d.a.toNat + 4) 4).1 (gthOp.ext.extractLsb' 21 12).toNat ∧ (g.rowNum s.free (d.a.toNat + 16) 4).1 = 1 ∧
         ∃ ps, seqReach s d .engineRead false (d.b + BitVec.ofNat 64 (1 * 4)) 4 = .ok ps ∧ (placesOf ps)[3]? = some 0x2007) ∧
      (let d := { glenCmd (.hand handOp) .registered [0, 3] with b := 128 }
       let h : RingHold := { cmd := holdKey 640 7, n := 1, granted := true }
       let s := handing ringHandle { idle3 with rsv := 1, producers := [h] } [d]
       let x := s.ring 0 3
       (s.glen 0).cmd 7 = some d ∧ glenReady s (s.glen 0) d = true ∧ NoStash s ∧ Quiet s ∧ (s.glen 0).rowPoison = [] ∧ NoHand { s.glen 0 with cmds := [] } ∧
         x.producers.find? (fun y => !y.thread && y.cmd == holdKey 640 7) = some h ∧ h.granted = true ∧ h.first = x.tail ∧ (∀ y ∈ x.producers, y.done = false ∧ (y.thread = false → y.cmd = holdKey 640 7 → y = h)) ∧ x.own = [] ∧ d.a.toNat + d.b.toNat ≤ 65536 ∧
         ((List.range d.b.toNat).map (fun j => x.byteAt h.first j)).Nodup) := by
  refine ⟨⟨by decide, rfl, by decide, fun d hd o h => ?_, noStash_of _ _ rfl (by decide) (by decide), _, rfl, by decide⟩,
    ⟨⟨_, rfl, by decide⟩, by decide, by decide, by decide, _, rfl, by decide⟩,
    ⟨by decide, by decide, noStash_of _ _ rfl (by decide) (by decide), quiet_of _ _ rfl (by decide) (by decide), rfl, fun d hd => absurd hd (by simp), by decide, rfl, by decide,
      by decide, by decide, by decide, by decide⟩⟩
  have e : (commandIn { glenCmd (.dedup (rop 7 .zero .zero .zero .zero)) .queued [] with a := 0x1000 } []).glen 0 = _ := rfl
  rw [e] at hd
  obtain rfl := List.mem_singleton.1 hd
  cases h


/-! ### Fetch, write-back, stores and the stash, translation -/

/-- The gang at a bundle with no operation; a glen core at a bundle with a slot that it does not have; core 0 without its cached code. -/
def emptyBundle : State := State.reset.placing (.simt 1#3) false (leBytes 4 (2 ^ 31))
def badGlen : State := State.reset.placing (.glen 1#3) false (leBytes 4 (2 ^ 31 + 2 ^ 28))
def badGang : State := State.reset.placing (.simt 1#3) false (leBytes 4 (2 ^ 31 + 2 ^ 28))
def uncached : State := base.onCore 0 (fun k => { k with caches := { k.caches with icache := [] } })
def prfiOp : BOp := { at' := site 0, form := 0, c := .zero, fc := false, mod := 1, off := 256 }
def arriving : InFlight := { lanes := [(64, 5, false)], sca := some (3, 7, false), empties := true }
def group0 : GroupAt := { core := 0, bank := 0, slot := 0 }

theorem test_fetch_and_write_back_hypotheses :
    (∃ r, fetchBundle emptyBundle user (emptyBundle.pcOf user) = .ok r ∧ r.ops = [] ∧ headOk (emptyBundle.decoderOf user) r.head r.lmask = true ∧ emptyBundle.store.cut = [] ∧
        emptyBundle.issue = none) ∧
      (∃ r, fetchBundle (State.reset.placing (.glen 1#3) false (leBytes 4 (2 ^ 31 + 2 ^ 27))) (.glen 0) 0 = .ok r ∧ r.ops = [] ∧ r.head.getLsbD 27 = true) ∧
      (∃ r is, fetchBundle base user (base.pcOf user) = .ok r ∧ checkBundle (base.decoderOf user) (base.beginIssue user r.len) r = .ok is) ∧
      (∃ r x, fetchBundle badGlen (.glen 0) (badGlen.pcOf (.glen 0)) = .ok r ∧ checkBundle (badGlen.decoderOf (.glen 0)) (badGlen.beginIssue (.glen 0) r.len) r = .error x ∧
        0 < (badGlen.groupOf (.glen 0)).slices.length ∧ x.rpl = false) ∧
      (∃ r x, fetchBundle badGang user (badGang.pcOf user) = .ok r ∧ checkBundle (badGang.decoderOf user) (badGang.beginIssue user r.len) r = .error x ∧ x.rpl = false ∧
        isAgent user = false ∧ (badGang.core 0).agent.trctl = 0 ∧ (badGang.core 0).cmds = [] ∧ ((badGang.core 0).team (teamKey user (badGang.groupOf user))).live = true) ∧
      (∃ e, fetchBundle uncached user (uncached.pcOf user) = .error (.miss 0 e) ∧ (uncached.core 0).caches.icache = [] ∧ (uncached.core 0).caches.fills = [] ∧ ¬HasLine uncached 0 0) ∧
      (let s := begun base user
       let c := rec base user
       Runs s c ∧ ∃ e, translate s (s.tlbOf c.who) (s.cidOf c.who) false (BitVec.ofNat 64 ((branchTarget c prfiOp).toNat / 128 * 128)) .fetch = .ok e ∧
         lineHeld (s.core 0).caches (lineOf (e.place (BitVec.ofNat 64 ((branchTarget c prfiOp).toNat / 128 * 128)))) = false ∧ (s.core 0).caches.fills.length < 8) ∧
      (let s := base.onCore 0 (fun k => { k with caches := { k.caches with fills := [(256, 0)] } })
       (∃ p ∈ (s.core 0).caches.fills, p.1 = 256 ∧ p.2 ≤ s.now) ∧ s.isOwned 256 = false ∧ NoStash s) ∧
      (let s := base.onGroup user (fun g => { g with inflight := [arriving] })
       (s.groupOf user).inflight[0]? = some arriving ∧ arriving.due ≤ s.now ∧ arriving.held = false ∧ arriving.empties = true ∧ (arriving.lanes.map Prod.fst).Nodup) :=
  ⟨⟨_, rfl, by decide, by decide, rfl, rfl⟩, ⟨_, rfl, by decide, by decide⟩, ⟨_, _, rfl, rfl⟩, ⟨_, _, rfl, rfl, by decide, rfl⟩, ⟨_, _, rfl, rfl, rfl, rfl, rfl, rfl, rfl⟩, ⟨_, rfl, by decide, by decide, by unfold HasLine; decide⟩,
    ⟨runs_begun _ _, _, rfl, by decide, by decide⟩, ⟨⟨_, List.mem_singleton.2 rfl, rfl, by decide⟩, by decide, noStash_of _ _ rfl (by decide) (by decide)⟩, by decide⟩

/-- The kick page of queue 0 lies at an address of the host. -/
def kicked (a : Nat) : State := { base with host := { base.host with queues := [(0, { live := true })], bars := [(0, a)] } }

/-- The team with a stash window of two lines, none filled. -/
def windowed : State :=
  base.onCore 0 (fun c => { c with crew := { c.crew with teams := [(0, { wholeTeam with stash := [(2, { valid := true, g := 4096, w := 1024, n := 2 })] })] } })

theorem test_stores_and_copies_hypotheses :
    (let e : PendingStore := { id := 0, group := 0, lane := 0, bytes := [(4096, 1), (4097, 2)] }
     let s := base.onCore 0 (fun k => { k with caches := { k.caches with stores := [e] } })
     (s.core 0).caches.stores[0]? = some e ∧ (∀ b ∈ e.bytes, s.isOwned (lineOf b.1) = false) ∧ (s.core 0).caches.stores.take 0 = [] ∧ kickOf s e = none ∧ NoStash s ∧ s.store.cut = [] ∧
       (e.bytes.map Prod.fst).Nodup) ∧
      (let s := windowed
       let t0 := (s.core 0).team 0
       let w := Sparse.look {} 2 t0.stash
       t0.live = true ∧ w.valid = true ∧ 1 < w.n ∧ NoStash s ∧ (s.core 0).caches.stores = [] ∧ (s.core 0).caches.wc = [] ∧
         ∃ e, findEntry s ((s.core 0).caches.tlb ++ s.engineTlb 0) t0.cid false (w.g + BitVec.ofNat 64 (128 * 1)) = .ok e ∧ e.priv = false ∧ e.rd = true ∧ e.wr = true ∧ e.mt = 0 ∧ e.home ≠ 2 ∧
           s.isOwned (lineOf (e.place (w.g + BitVec.ofNat 64 (128 * 1)))) = false) ∧
      (stashLine ((stashed.core 0).team 0) 2 0 = some { place := 4096, owned := true } ∧ stashLine ((stashed.core 0).team 0) 2 1 = none) ∧
      (∀ e ∈ (base.core 0).caches.stores, ∀ b ∈ e.bytes, lineOf b.1 ≠ lineOf 4096) ∧
      (let e : WcEntry := { line := 4096, bytes := [(4096, 1)], threads := [(0, 0)] }
       let s := base.onCore 0 (fun k => { k with caches := { k.caches with wc := [e] } })
       (s.core 0).caches.wc[0]? = some e ∧ (s.core 0).caches.wc.find? (fun x => x.line == e.line) = some e) ∧
      (let e : PendingStore := { id := 0, group := 0, lane := 0, bytes := (leBytes 8 3).zipIdx.map (fun b => (2 ^ 60 + 0x11000 + b.2, b.1)) }
       let s := (kicked 0x10000).onCore 0 (fun k => { k with caches := { k.caches with stores := [e] } })
       (s.core 0).caches.stores[0]? = some e ∧ (∃ x, kickOf s e = some x) ∧ s.store.cut = []) := by
  refine ⟨⟨rfl, by decide, rfl, by decide, noStash_of _ _ rfl (by decide) (by decide), rfl, by decide⟩, ⟨rfl, rfl, by decide, ⟨fun p hp l => ?_, by decide⟩, rfl, rfl, _, rfl, by decide⟩, by decide,
    fun e he => absurd (show e ∈ ([] : List PendingStore) from he) List.not_mem_nil, by decide, rfl, ⟨_, rfl⟩, rfl⟩
  obtain rfl := List.mem_singleton.1 (show p ∈ [(0, windowed.core 0)] from hp)
  rfl

/-- Context 1 bound to PASID 5, with the host's memory mapped from 2^38; the host asked for its second page. -/
def bound (a : Ats) : State :=
  let m := mapped base
  { m with contexts := [(1, { w0 := 0x100003, w1 := 5 })], store := { m.store with mem := m.store.mem.write 0x104008 (leBytes 8 0x5F) }, ats := a }

theorem test_translation_events_hypotheses :
    ((∃ e, findEntry (bound {}) ((bound {}).dieGrants 0) 1 false 0x1000 = .ok e ∧ e.priv = false ∧ e.ex = true ∧ ¬HasLine (bound {}) 0 (lineOf (e.place 0x1000))) ∧
        (let s := (bound {}).onCore 0 (fun k => { k with caches := { k.caches with prefetch := [(1, 0x1000)] } })
         (1, (0x1000 : DWord)) ∈ (s.core 0).caches.prefetch ∧ (∃ e, findEntry s (s.dieGrants 0) 1 false 0x1000 = .ok e) ∧ (1, (0x1000 : DWord)) ∉ ((bound {}).core 0).caches.prefetch)) ∧
      (findEntry (bound {}) ((bound {}).dieGrants 0) 1 false (2 ^ 38 + 4096) = .ats 1 (2 ^ 38 + 4096) ∧ (∃ leaf, walk (bound {}) 1 (2 ^ 38 + 4096) = .ok leaf ∧ leaf.home = 1) ∧
        (0, 1, 2 ^ 38 + 4096) ∉ (bound {}).ats.requests ∧ (0, 1, 2 ^ 38 + 4096) ∉ (bound {}).ats.pages) ∧
      (∃ f, findEntry (bound {}) ((bound {}).dieGrants 0) 1 false (2 ^ 39) = .fault f) ∧
      (let s := bound { requests := [(0, 1, 0x1000)], pages := [(0, 1, 0x2000)] }
       let asks (page : Nat) (r : Nat × Nat × Nat) : Bool := r.2.1 == 1 && r.2.2 == page
       s.ats.requests.any (asks 0x1000) = true ∧ s.ats.requests.any (asks 0x2000) = false ∧ s.ats.pages.any (asks 0x2000) = true ∧ s.ats.pages.any (asks 0x1000) = false) ∧
      (∀ d, ((bound { pages := [(0, 1, 0x2000)] }).ats.pages.filter (fun q => q.1 == d)).length + ([(0, 1, 0x1000)].filter (fun (q : Nat × Nat × Nat) => q.1 == d)).length ≤
        (bound {}).ats.limit) ∧ (∀ r ∈ [((0 : Nat), (1 : Nat), (0x1000 : Nat))], (bound { limit := 0 }).ats.limit ≤ (([] : List (Nat × Nat × Nat)).filter (fun q => q.1 == r.1)).length) ∧ boundTo (bound {}) 5 = [1] ∧
      (let s : State := { base with slices := [(3, { requests := 2 ^ 20, counters := [(7, 5)] })] }
       2 ^ 20 ≤ (Sparse.look {} 3 s.slices).requests ∧ (Sparse.look {} 4 s.slices).requests < 2 ^ 20) ∧
      (127 < 128 ∧ 13 ≤ ((0xD0 : DWord).extractLsb' 4 4).toNat ∧ ¬13 ≤ ((0xC0 : DWord).extractLsb' 4 4).toNat) := by
  refine ⟨⟨⟨_, rfl, by decide, by decide, by unfold HasLine; decide⟩, by decide, ⟨_, rfl⟩, by decide⟩, ⟨rfl, ⟨_, rfl, by decide⟩, by decide, by decide⟩, ⟨_, rfl⟩, by decide, fun d => ?_, by decide, by decide, by decide, by decide⟩
  exact Nat.le_trans (Nat.add_le_add (List.length_filter_le _ _) (List.length_filter_le _ _)) (by decide)


/-! ### Teams, grids and images -/

/-- Pieces one past another hold no place twice. -/
theorem places_nodup (ps : List EPiece) (h : ps.Pairwise (fun p q => p.place + p.bytes ≤ q.place)) : (placesOf ps).Nodup := by
  rw [placesOf, List.nodup_flatMap]
  refine ⟨fun p _ => List.nodup_range.map (fun a b e => by simpa using e), h.imp ?_⟩
  intro p q e x hx hy
  simp only [List.mem_map, List.mem_range] at hx hy
  obtain ⟨i, hi, rfl⟩ := hx
  obtain ⟨j, hj, ej⟩ := hy
  omega

/-- No line is held where no command holds one. -/
theorem unowned (s : State) (h : s.store.owners = []) (x : Nat) : s.isOwned x = false := by simp [State.isOwned, h]

/-- A kernel of one half-width group of 64 registers, a grid of two teams of it, and the package with that grid and empty cores. -/
def kernel1 : Kernel := { roles := [{ entry := 0, groups := 1, half := true, rsb := 64, prio := 1, win := 64 }] }
def grid1 : Grid := { live := true, teams := 2, launch := { cid := 1, gx := 2, kernel := kernel1 } }
def gridded (g : Grid) (c : Core) : State := { (mapped base).onGrid 0 0 (fun _ => g) with cores := [(0, c)] }
def claiming (p : ClaimPhase) (c : Core := {}) : State := gridded grid1 { c with crew := { c.crew with claim := some { die := 0, grid := 0, t := 1, phase := p } } }

theorem test_team_placement_hypotheses :
    ((claimable (gridded grid1 {}) 0).map (fun x => (x.1, x.2.1, x.2.2.ticket)) = [(0, 0, 0)] ∧ (gridded grid1 {}).grid 0 0 = grid1) ∧
      (findPlace ((claiming .claimed).core 0) (occOf (claiming .claimed) 0) 1 kernel1.need).isSome = true ∧ localSlots grid1 1 = some [0] ∧
      localSlots { grid1 with slots := [(0, true)] } 1 = none ∧
      (let s : State := { claiming .waiting with now := 4096 }
       ∃ q, (s.core 0).crew.claim = some q ∧ q.phase = .waiting ∧ q.since + 4096 ≤ s.now ∧ dieOfCore 0 = dieOfCore 1 ∧ (s.core 1).crew.claim = none ∧ coreServes s 1 1 = true) :=
  ⟨by decide, by decide, by decide, by decide, _, rfl, rfl, by decide, by decide, by decide, by decide⟩

/-- A small team of core 0 with room for a task, and with nothing left of it. -/
def smallTeam : Team := { live := true, cid := 1, counters := [(3, 2 ^ 64 - 1)], res := { taskBase := some 0, slots := [0] } }
def taskGrid : Grid := { grid1 with launch := { grid1.launch with kernel := { kernel1 with trsb := 1, twin := 16 } }, slots := [(0, true)], sums := [(3, 2)] }
def teamed (tasks : List Task) : State := gridded taskGrid { crew := { teams := [(0, smallTeam)], bankCid := [(0, 1)], tasks := tasks } }
def closing (report : DWord) : Grid := { grid1 with done := 2, launch := { grid1.launch with report := report } }

theorem test_team_runs_hypotheses :
    (let q : Task := { entry := 64, args := [1, 2, 3, 4], role := 0, team := 0 }
     ∃ key, taskSlot (teamed [q]) 0 q = some key ∧ ((teamed [q]).core 0).crew.tasks = [] ++ q :: [] ∧ q.args.length = 4) ∧
      (let s := teamed []
       let t0 := (s.core 0).team 0
       t0.live = true ∧ liveGroups (s.core 0) 0 = [] ∧ (s.core 0).crew.tasks = [] ∧ (s.core 0).cmds = [] ∧ storesOut (s.core 0) (teamGroups (s.core 0) 0) = false ∧ t0.stash = [] ∧ (t0.counters.map Prod.fst).Nodup) ∧
      (∃ va f k, agentReach (gridded (closing (2 ^ 39)) {}) 0 1 .write (runPieces (2 ^ 39) 8256) = .error (.fault va f k)) ∧
      (let s := { gridded { closing 0 with failed := true } {} with host := { base.host with queues := [(0, { live := true })] } }
       let l := (s.grid 0 0).launch
       (s.grid 0 0).live = true ∧ (s.grid 0 0).done = (s.grid 0 0).teams ∧ (s.grid 0 0).phase ≠ .closed ∧ (s.grid 0 0).failed = true ∧ l.report = 0 ∧ (s.queue l.queue).live = true ∧
         (s.queue l.queue).phase ≠ .held) ∧
      (let s := gridded (closing 0x10000) {}
       let l := (closing 0x10000).launch
       (s.grid 0 0).live = true ∧ (s.grid 0 0).done = (s.grid 0 0).teams ∧ (s.grid 0 0).phase ≠ .closed ∧ (s.grid 0 0).failed = false ∧ l.report ≠ 0 ∧ NoStash s ∧
         ∃ ps, agentReach s (s.grid 0 0).agent l.cid .write (runPieces l.report 8256) = .ok ps ∧ (∀ x ∈ ownedLines ps, s.isOwned x = false) ∧ (placesOf ps).Nodup) ∧
      (let s : State := { base with now := 256 }
       let g := s.groupAt 0 0 0
       g.gid.live = true ∧ (g.slice 0).run = .running ∧ 0 ∈ g.gangOf 0 ∧ (g.slice 0).debugStopped = false ∧ Sparse.look false 0 (s.core 0).crew.frozen = false ∧
         max (g.slice 0).since (g.slice 0).ready + 256 ≤ s.now ∧ ¬max (g.slice 0).since (g.slice 0).ready + 256 ≤ 255) := by
  refine ⟨⟨_, rfl, rfl, rfl⟩, by decide, ⟨_, _, _, rfl⟩, by decide,
    ⟨rfl, rfl, by decide, rfl, by decide, noStash_of _ _ rfl (by decide) (by decide), _, rfl, fun x _ => ?_, places_nodup _ (by decide)⟩, by decide⟩
  exact unowned _ rfl x

/-- The agent of core 0 about to save a team that is stopped and holds nothing but its place. -/
def parkedTeam : Team := { live := true, cid := 1, parked := true }
def saving : State :=
  (mapped baseAgent).onCore 0 (fun c => { c with crew := { teams := [(0, parkedTeam)], bankCid := [(0, 1)] }, agent := { c.agent with actx := 1 } })
def saveOp : ROp := rop 0 (.s 3) .zero .zero .zero

/-- The image at 0x8000 of the grid's team 0: one half-width group of 64 registers. -/
def image : List (Nat × List Byte) :=
  [(0, leBytes 4 0x5A4B5349 ++ leBytes 2 1 ++ leBytes 1 1 ++ leBytes 1 0 ++ leBytes 8 0x5000), (0x10, leBytes 2 1), (0x18, leBytes 4 4096),
   (256, leBytes 1 0 ++ leBytes 1 0 ++ leBytes 1 1 ++ leBytes 1 1 ++ leBytes 2 0 ++ leBytes 1 64)]
def imaged (saves : List SavedTeam) : State :=
  let s := gridded { grid1 with saves := saves } {}
  { s with store := { s.store with mem := image.foldl (fun m p => m.write (0x8000 + p.1) p.2) s.store.mem } }
theorem test_team_images_hypotheses :
    (let s := begun saving agent
     let c := rec saving agent
     ScalarRuns s c saveOp.at' ∧ isGlen c.who = false ∧ ((s.core 0).team 0).live = true ∧ (c.sval saveOp.b).toNat % 4096 = 0 ∧ ((s.core 0).team 0).parked = true ∧
       (s.core 0).caches.stores = [] ∧ (s.core 0).caches.wc = [] ∧ saveReady s 0 0 = true ∧ NoStash s ∧ s.store.cut = [] ∧ ((s.core 0).team 0).stash = [] ∧ (∀ j f, (s.flagOf j f).held = []) ∧
       ∃ ps, agentReach s 0 (s.cidOf c.who) .write (runPieces (c.sval saveOp.b) (imageBytes (s.core 0) 0 []).length) = .ok ps ∧ (∀ x ∈ ownedLines ps, s.isOwned x = false) ∧
         (placesOf ps).Nodup) ∧
      (∃ a f x, agentReach (begun saving agent) 0 1 .read (runPieces (BitVec.ofNat 64 (2 ^ 39)) 256) = .error (.fault a f x)) ∧
      (∃ hs, agentReach (begun saving agent) 0 1 .read (runPieces 0 256) = .ok hs ∧ readerOf (begun saving agent) hs 0 4 ≠ 0x5A4B5349) ∧
      (let s := imaged [.image 0x8000]
       ∃ rd sp, ImageFits s 0 1 0x8000 [0, 1] rd sp ∧ (imgPlan rd).die = 0 ∧ (imgPlan rd).grid = 0 ∧ NoStash s ∧
         (restorable s 0).map (fun y => (y.1, y.2.1)) = [(0, 0)] ∧ oldestImage (s.grid 0 0) = some 0x8000) := by
  refine ⟨⟨⟨runs_begun _ _, by decide⟩, rfl, rfl, by decide, rfl, rfl, rfl, by decide, noStash_of _ _ rfl (by decide) (by decide), rfl, rfl, fun j f => ?_, _, rfl,
      fun x _ => unowned _ rfl x, places_nodup _ (by decide)⟩, ⟨_, _, _, rfl⟩, ⟨_, rfl, by decide⟩,
    ⟨_, _, ⟨⟨_, rfl, by decide, by decide, rfl, by decide, by decide, fun l _ => unowned _ rfl l⟩, by decide, rfl, by decide, fun o h => ?_⟩, by decide, by decide,
      noStash_of _ _ rfl (by decide) (by decide), by decide, by decide⟩⟩
  · simp [State.flagOf, only_core (begun saving agent) _ rfl]
    split <;> rfl
  · exact absurd (show o ∈ [] from h) List.not_mem_nil


/-! ### User queues and packets -/

theorem unheld (s : State) (h : s.store.owners = []) (x n : Nat) : s.heldBefore x n = false := by simp [State.heldBefore, h]

/-- Queue 0 of die 0 for context 1, with a packet at 0x4000 and other bytes in memory. -/
def theQueue : Queue := { live := true, cid := 1, ring := 0x4000, widx := 1 }
def queued (bs : List Byte) (extra : List (Nat × List Byte)) (q : Queue := theQueue) : State :=
  let m := mapped base
  { m with store := { m.store with mem := ((0x4000, bs) :: extra).foldl (fun m p => m.write p.1 p.2) m.store.mem }, host := { queues := [(0, q)] } }
/-- A packet of a type with bytes 4 to 15, and what follows. -/
def packet (kind spec : Nat) (at8 : Nat) (rest : List Byte) : List Byte := leBytes 1 kind ++ leBytes 1 1 ++ leBytes 2 0 ++ leBytes 4 spec ++ leBytes 8 at8 ++ rest

def unreachable : State := queued [] [] { theQueue with ring := BitVec.ofNat 64 (2 ^ 39) }

theorem test_packet_start_hypotheses :
    (frontChoice base 0 = none) ∧
      (let s := queued (packet 7 0 0 []) []
       ∃ bs, FrontTakes s 0 bs ∧ 6 < descNum bs 0 1) ∧
      (NoStash unreachable ∧ frontChoice unreachable 0 = some 0 ∧ ∃ x, nextPacket unreachable 0 = .fault x) ∧
      (let s := queued (packet 0 0 0 []) [] { theQueue with ridx := 0x9000 }
       ∃ bs ps, PacketIs s 0 0 bs ∧ descNum bs 4 4 = 0 ∧ (s.queue 0).ridx ≠ 0 ∧ frontPlaces s 0 .engineWrite (s.queue 0).ridx = .ok ps) ∧
      (let s := queued (packet 0 1 0 []) [] { theQueue with ridx := BitVec.ofNat 64 (2 ^ 39) }
       ∃ bs a f k, PacketIs s 0 0 bs ∧ descNum bs 4 4 ≠ 0 ∧ (s.queue 0).ridx ≠ 0 ∧ frontPlaces s 0 .engineWrite (s.queue 0).ridx = .error (.fault a f k)) ∧
      (let s := queued (packet 3 1 0x9000 (leBytes 8 5)) []
       ∃ bs ps, PacketIs s 0 3 bs ∧ descNum bs 4 4 = 1 ∧ descNum bs 8 8 % 8 = 0 ∧ (s.queue 0).ridx = 0 ∧
         frontPlaces s 0 .atomic (BitVec.ofNat 64 (descNum bs 8 8)) = .ok ps ∧ ∀ l ∈ ownedLines ps, s.isOwned l = false) ∧
      (let s := queued (packet 3 2 0x9000 (leBytes 8 5)) []
       ∃ bs, PacketIs s 0 3 bs ∧ 1 < descNum bs 4 4) ∧
      (let s := queued (packet 3 0 (2 ^ 39) []) []
       ∃ bs a f k, PacketIs s 0 3 bs ∧ descNum bs 8 8 % 8 = 0 ∧ frontPlaces s 0 .engineWrite (BitVec.ofNat 64 (descNum bs 8 8)) = .error (.fault a f k)) ∧
      (let s := queued (packet 2 0 0 (leBytes 8 0x2000 ++ leBytes 8 0x3000 ++ leBytes 8 64)) []
       ∃ bs, PacketIs s 0 2 bs ∧ descNum bs 4 4 = 0 ∧ descNum bs 8 8 % 8 = 0 ∧ descNum bs 0x20 8 = 64 ∧ descNum bs 0x28 24 = 0) ∧
      (let s := queued (packet 2 0 0 (leBytes 8 0x2000 ++ leBytes 8 0x3000 ++ leBytes 8 0)) []
       ∃ bs, PacketIs s 0 2 bs ∧ descNum bs 0x20 8 = 0) := by
  refine ⟨by decide, ⟨_, ⟨noStash_of _ _ rfl (by decide) (by decide), by decide, rfl⟩, by decide⟩, ⟨noStash_of _ _ rfl (by decide) (by decide), by decide, _, rfl⟩,
    ⟨_, _, ⟨⟨noStash_of _ _ rfl (by decide) (by decide), by decide, rfl⟩, by decide, by decide, by decide⟩, by decide, by decide, rfl⟩,
    ⟨_, _, _, _, ⟨⟨noStash_of _ _ rfl (by decide) (by decide), by decide, rfl⟩, by decide, by decide, by decide⟩, by decide, by decide, rfl⟩,
    ⟨_, _, ⟨⟨noStash_of _ _ rfl (by decide) (by decide), by decide, rfl⟩, by decide, by decide, by decide⟩, by decide, by decide, rfl, rfl, fun l _ => unowned _ rfl l⟩,
    ⟨_, ⟨⟨noStash_of _ _ rfl (by decide) (by decide), by decide, rfl⟩, by decide, by decide, by decide⟩, by decide⟩,
    ⟨_, _, _, _, ⟨⟨noStash_of _ _ rfl (by decide) (by decide), by decide, rfl⟩, by decide, by decide, by decide⟩, by decide, rfl⟩,
    ⟨_, ⟨⟨noStash_of _ _ rfl (by decide) (by decide), by decide, rfl⟩, by decide, by decide, by decide⟩, by decide, by decide, by decide, by decide⟩,
    ⟨_, ⟨⟨noStash_of _ _ rfl (by decide) (by decide), by decide, rfl⟩, by decide, by decide, by decide⟩, by decide⟩⟩

/-- A code object with flags, of one kernel of one half-width group; a LAUNCH of it, and an OVERLAY of one segment. -/
def codeObject (flags : Nat) : List Byte :=
  leBytes 4 0x4F434B5A ++ leBytes 2 1 ++ leBytes 2 flags ++ leBytes 16 0 ++ leBytes 8 0 ++ leBytes 4 1 ++ leBytes 4 128 ++ leBytes 8 256 ++ List.replicate 80 0 ++
    (leBytes 4 0 ++ leBytes 1 1 ++ leBytes 3 0 ++ leBytes 4 4096 ++ List.replicate 12 0 ++ leBytes 8 0xFF00FF00FF00FF ++ List.replicate 32 0 ++ leBytes 8 0 ++ leBytes 1 1 ++ leBytes 1 1 ++ leBytes 1 1 ++ leBytes 1 1 ++ leBytes 1 64)
def launchPacket (sig gz : Nat) : List Byte := packet 1 16 sig (leBytes 8 0x5000 ++ leBytes 8 0 ++ leBytes 8 0 ++ leBytes 4 gz)
def overlayPacket : List Byte := packet 6 0 0 (leBytes 8 0x5000 ++ leBytes 8 0x6000 ++ leBytes 4 1)

theorem test_launch_and_overlay_hypotheses :
    (let s := queued (launchPacket 0 0) [(0x5000, codeObject 0)]
     let q := s.queue 0
     ∃ bs h kd, PacketIs s 0 1 bs ∧ freeGrid s 0 = some 0 ∧ q.cid ≠ 0 ∧ (s.context q.cid).ok = true ∧ descNum bs 8 8 % 8 = 0 ∧ frontRead s 0 1 0x5000 128 = .ok h ∧
       frontRead s 0 1 (0x5000 + BitVec.ofNat 64 (descNum h 0x24 4)) 128 = .ok kd ∧ kd.length = 128 ∧ codeHeaderOk 0x5000 h = true ∧ featuresOk h = true ∧
       (descNum h 6 1).testBit 0 = false ∧ kernelOk kd = true ∧ descNum bs 0x38 8 % 64 = 0 ∧ 16 ≤ descNum bs 4 2 ∧ descNum kd 0x10 1 = 0 ∧ descNum bs 0x30 8 % 128 = 0 ∧
       kernelFits (launchFrom q 0 bs h kd).kernel = true) ∧
      (let s := queued (launchPacket 4 0) []
       ∃ bs, PacketIs s 0 1 bs ∧ descNum bs 8 8 % 8 ≠ 0) ∧
      (let s := queued overlayPacket [(0x5000, codeObject 4), (0x6000, leBytes 8 0x7000 ++ leBytes 8 (0xFFFF * 2 ^ 16 + 128))]
       ∃ bs h tb segs, PacketIs s 0 6 bs ∧ glenServes s 0 1 = true ∧ descNum bs 0x31 15 = 0 ∧ frontRead s 0 1 0x5000 128 = .ok h ∧ frontRead s 0 1 0x6000 16 = .ok tb ∧
         codeHeaderOk 0x5000 h = true ∧ (descNum h 6 1).testBit 2 = true ∧ featuresOk h = true ∧ readSegments 1 tb = some segs ∧ segs.length = 1 ∧ ∃ cs, codeOf s 0 1 0 segs = .ok cs) := by
  refine ⟨⟨_, _, _, ⟨⟨noStash_of _ _ rfl (by decide) (by decide), by decide, rfl⟩, by decide, by decide, by decide⟩, by decide, by decide, by decide, by decide, rfl, rfl, by decide,
      by decide, by decide, by decide, by decide, by decide, by decide, by decide, by decide, by decide⟩,
    ⟨_, ⟨⟨noStash_of _ _ rfl (by decide) (by decide), by decide, rfl⟩, by decide, by decide, by decide⟩, by decide⟩,
    ⟨_, _, _, _, ⟨⟨noStash_of _ _ rfl (by decide) (by decide), by decide, rfl⟩, by decide, by decide, by decide⟩, by decide, by decide, rfl, rfl, by decide, by decide, by decide, rfl,
      by decide, _, rfl⟩⟩

/-- A wait for one signal at 0x9000 to reach 0, as a packet and as what the queue holds. -/
def waitPacket : List Byte := packet 4 1 0x6000 []
def waitingOn (f : Packet → Packet) : State :=
  queued [] [] { theQueue with phase := .blocked, rdx := 1, packets := [f { kind := .waitAll, table := [(0x9002, 0)], tmo := 1024, res := 0x9800 }] }

theorem test_waits_start_hypotheses :
    (let s := queued waitPacket [(0x6000, leBytes 8 0x9002 ++ leBytes 8 0)]
     ∃ bs tb, PacketIs s 0 4 bs ∧ descNum bs 4 4 = 1 ∧ descNum bs 8 8 % 64 = 0 ∧ descNum bs 0x18 8 % 8 = 0 ∧
       frontRead s 0 1 0x6000 16 = .ok tb ∧ descNum tb 0 8 % 8 < 6) ∧
      (let s := queued waitPacket [(0x6000, leBytes 8 0x9006 ++ leBytes 8 0)]
       ∃ bs tb, PacketIs s 0 4 bs ∧ descNum bs 4 4 = 1 ∧ frontRead s 0 1 0x6000 16 = .ok tb ∧ 6 ≤ descNum tb 0 8 % 8) ∧
      (let s := queued (packet 5 1 (2 ^ 39) []) []
       ∃ bs a f k, PacketIs s 0 5 bs ∧ descNum bs 4 4 = 1 ∧ descNum bs 0x18 8 % 8 = 0 ∧ frontRead s 0 1 (BitVec.ofNat 64 (2 ^ 39)) 16 = .error (.fault a f k)) ∧
      (let s := queued (packet 4 13 0x6000 []) []
       ∃ bs, PacketIs s 0 4 bs ∧ 12 < descNum bs 4 4 % 16) := by
  refine ⟨⟨_, _, ⟨⟨noStash_of _ _ rfl (by decide) (by decide), by decide, rfl⟩, by decide, by decide, by decide⟩, by decide, by decide, by decide, rfl, by decide⟩, ⟨_, _, ⟨⟨noStash_of _ _ rfl (by decide) (by decide), by decide, rfl⟩, by decide, by decide, by decide⟩, by decide, rfl, by decide⟩,
    ⟨_, _, _, _, ⟨⟨noStash_of _ _ rfl (by decide) (by decide), by decide, rfl⟩, by decide, by decide, by decide⟩, by decide, by decide, rfl⟩, ⟨_, ⟨⟨noStash_of _ _ rfl (by decide) (by decide), by decide, rfl⟩, by decide, by decide, by decide⟩, by decide⟩⟩

theorem test_waits_hypotheses :
    (let s := waitingOn id
     ∃ p ps rs, (s.queue 0).packets.find? Packet.waits = some p ∧ NoStash s ∧ (∀ x ∈ (s.queue 0).packets, x.index = p.index → x = p) ∧ p.table[0]? = some (0x9002, 0) ∧ 0 ∉ p.latched ∧
       s.now < p.begun + p.tmo ∧ frontPlaces s 0 .engineRead ((0x9002 : DWord) &&& ~~~7#64) = .ok ps ∧ (∀ e ∈ ps, e.entry.home = 0) ∧ (∀ l ∈ ownedLines ps, s.isOwned l = false) ∧
       condHolds 2 (BitVec.ofNat 64 (leNat ((placesOf ps).map s.store.mem.byte))) 0 = true ∧ (p.latched ++ [0]).length = p.table.length ∧
       frontPlaces s 0 .engineWrite p.res = .ok rs ∧ ∀ l ∈ ownedLines rs, s.isOwned l = false) ∧
      (let s := waitingOn (fun p => { p with table := [(0x9003, 0), (0x9002, 0)] })
       ∃ p ps, (s.queue 0).packets.find? Packet.waits = some p ∧ frontPlaces s 0 .engineRead ((0x9003 : DWord) &&& ~~~7#64) = .ok ps ∧
         condHolds 3 (BitVec.ofNat 64 (leNat ((placesOf ps).map s.store.mem.byte))) 0 = false ∧ (p.latched ++ [1]).length ≠ p.table.length) ∧
      (let s : State := waitingOn (fun p => { p with kind := .waitAny, latched := [0], res := 0 })
       ∃ p, (s.queue 0).packets.find? Packet.waits = some p ∧ p.kind = .waitAny ∧ p.latched ≠ [] ∧ p.table[0]?.isSome) ∧
      (let s : State := { waitingOn (fun p => { p with res := BitVec.ofNat 64 (2 ^ 39) }) with now := 1024 }
       ∃ p a f x, (s.queue 0).packets.find? Packet.waits = some p ∧ p.tmo ≠ 0 ∧ p.begun + p.tmo ≤ s.now ∧ p.latched.length ≠ p.table.length ∧
         frontPlaces s 0 .engineWrite p.res = .error (.fault a f x) ∧ p.tfail = false ∧ ∀ k ∈ p.latched, k < 63) ∧
      (let s : State := { waitingOn (fun p => { p with tfail := true, res := 0 }) with now := 1024 }
       ∃ p, (s.queue 0).packets.find? Packet.waits = some p ∧ p.res = 0 ∧ p.tfail = true ∧ (s.queue 0).live = true) := by
  refine ⟨⟨_, _, _, rfl, noStash_of _ _ rfl (by decide) (by decide), by decide, rfl, by decide, by decide, rfl, by decide, fun l _ => unowned _ rfl l, by decide, by decide, rfl,
      fun l _ => unowned _ rfl l⟩,
    ⟨_, _, rfl, rfl, by decide, by decide⟩, ⟨_, rfl, rfl, by decide, rfl⟩, ⟨_, _, _, _, rfl, by decide, by decide, by decide, rfl, rfl, by decide⟩, ⟨_, rfl, rfl, rfl, rfl⟩⟩

/-- A queue with one started packet, which holds the line of 0x3000; the page of 2 ^ 39 is not replayable where `hard` holds. -/
def begunPacket (p : Packet) (hard : Bool := false) : State :=
  let m := queued [] (if hard then [(0x104010, leBytes 8 0x800)] else []) { theQueue with rdx := 1, packets := [p] }
  { m with store := { m.store with owners := [{ line := 0x3000, unit := copyUnit 0, cmd := 0, seq := 0 }] } }
def copyPacket (src : DWord) : Packet := { kind := .copy, src := src, dst := 0x3000, len := 4 }

theorem test_packets_complete_hypotheses :
    (let q := theQueue
     ((16 : DWord) - q.widx).toNat < 2 ^ 63 ∧ ((16 : DWord) - q.rdx).toNat ≤ 2 ^ q.log2n ∧ ¬((17 : DWord) - q.rdx).toNat ≤ 2 ^ q.log2n) ∧
      (let s : State := { queued [] [] { theQueue with since := some 0 } with now := 1600000 }
       (s.queue 0).live = true ∧ (s.queue 0).aged = false ∧ (s.queue 0).since = some 0 ∧ 0 + 1600000 ≤ s.now) ∧
      (let s := begunPacket { finished := true }
       ∃ p, packetOf s 0 0 = some p ∧ p.finished = true ∧ p.evt = false ∧ p.sig = 0) ∧
      (let s := begunPacket { finished := true, evt := true, kind := .launch, sig := 0x9000 }
       ∃ p ps, packetOf s 0 0 = some p ∧ NoStash s ∧ p.finished = true ∧ p.evt = true ∧ p.kind = .launch ∧ p.sig ≠ 0 ∧ frontPlaces s 0 .atomic p.sig = .ok ps ∧
         ∀ l ∈ ownedLines ps, s.isOwned l = false) ∧
      (let s := begunPacket { finished := true, sig := BitVec.ofNat 64 (2 ^ 39) }
       ∃ p a f k, packetOf s 0 0 = some p ∧ p.sig ≠ 0 ∧ frontPlaces s 0 .atomic p.sig = .error (.fault a f k) ∧ (s.queue 0).live = true) ∧
      (let s := begunPacket { paused := true, kind := .copy }
       ∃ p, packetOf s 0 0 = some p ∧ p.finished = false ∧ p.paused = true) := by
  exact ⟨by decide, by decide, ⟨_, rfl, rfl, rfl, rfl⟩, ⟨_, _, rfl, noStash_of _ _ rfl (by decide) (by decide), rfl, rfl, rfl, by decide, rfl, by decide⟩,
    ⟨_, _, _, _, rfl, by decide, rfl, rfl⟩, _, rfl, rfl, rfl⟩

theorem test_copies_complete_hypotheses :
    (let p := copyPacket 0x2000
     let s := begunPacket p
     let src := reachPrefix s 0 1 .engineRead (runPieces p.src p.len)
     let dst := reachPrefix s 0 1 .engineWrite (runPieces p.dst p.len)
     packetOf s 0 0 = some p ∧ Quiet s ∧ (∀ x ∈ (s.queue 0).packets, x.index = 0 → x = p) ∧ destLines s 0 p = [] ∧
       (∀ x ∈ placesOf src.1 ++ placesOf dst.1, s.heldBefore (lineOf x) p.order = false) ∧
       (∀ x ∈ placesOf src.1, x ∉ placesOf dst.1) ∧ src.2 = none ∧ dst.2 = none ∧ placesOf src.1 = [0x2000, 0x2001, 0x2002, 0x2003]) ∧
      (let p := copyPacket (BitVec.ofNat 64 (2 ^ 39))
       (∃ a f k, (reachPrefix (begunPacket p) 0 1 .engineRead (runPieces p.src p.len)).2 = some (.fault a f k) ∧ f.rpl = true) ∧
         ∃ a f k, (reachPrefix (begunPacket p true) 0 1 .engineRead (runPieces p.src p.len)).2 = some (.fault a f k) ∧ f.rpl = false ∧
           ((begunPacket p true).queue 0).live = true) := by
  refine ⟨⟨rfl, quiet_of _ _ rfl (by decide) (by decide), by decide, by decide, by decide, by decide, by decide, by decide, by decide⟩, ⟨_, _, _, rfl, by decide⟩, _, _, _, rfl, by decide, rfl⟩

/-! ### The mailbox, answers, the platform, the machine -/

/-- The package with context 1 and an event queue of the physical function. -/
def hosted (q : Queue := {}) : State := { mapped base with host := { queues := [(0, q)], nextQueue := 1, evqs := [(0, { live := true })], nextEvq := 1 } }
def queueReq : QueueReq := { ring := 0x4000, ridx := 0x9000, cid := 1, log2n := 20, prio := 7, die := 0, evq := 0, reserved := 0 }

/-- A function whose mailbox is not busy, with Ibien on die 0, takes a request. -/
theorem mailFree (s : State) (fn : Nat) (h : fn ≤ 16) (b : (s.mailbox fn).busy = false) (r : (s.die 0).boot = .running) : MailFree s fn := ⟨h, b, 0, by decide, r⟩

theorem test_queue_requests_hypotheses :
    (MailFree hosted 16 ∧ ¬MailFree hosted 17 ∧ ¬MailFree { hosted with host := { mail := [(3, { busy := true })] } } 3 ∧ ¬MailFree State.reset 0) ∧
      (let s := hosted
       let r := queueReq
       r.ring.toNat % 64 = 0 ∧ r.ridx.toNat % 8 = 0 ∧ 4 ≤ r.log2n ∧ r.log2n ≤ 20 ∧ r.prio ≤ 7 ∧ r.die ≤ 3 ∧ (s.context 1).w0.getLsbD 0 = true ∧ (s.evq 0).live = true ∧ (s.evq 0).fn = 0 ∧
         partOnDie (s.partOf 1) 0 = true ∧ partOnDie (s.partOf 1) 1 = false ∧ (s.host.queues.filter (fun p => p.2.live && p.2.cid == 1)).length < 1024) ∧
      (let s := hosted { theQueue with phase := .error, ridx := 0x9000 }
       let q := s.queue 0
       MailFree s 1 ∧ q.live = true ∧ 1 = (s.context q.cid).part + 1 ∧ q.packets = [] ∧ q.phase = .error ∧ q.ridx ≠ 0 ∧ NoStash s ∧ (s.mailbox 1).wait ≠ some (.ridx 0 16) ∧
         ∃ ps, frontPlaces s 0 .engineWrite q.ridx = .ok ps ∧ ∀ l ∈ ownedLines ps, s.isOwned l = false) ∧
      (let s := hosted { theQueue with phase := .error, ridx := BitVec.ofNat 64 (2 ^ 39) }
       NoStash s ∧ ∃ a f k, frontPlaces s 0 .engineWrite (s.queue 0).ridx = .error (.fault a f k)) ∧
      (let s : State := { hosted { theQueue with phase := .error, ridx := 0x9000 } with store := { (mapped base).store with owners := [{ line := 0x9000, unit := 0, cmd := 0, seq := 0 }] } }
       NoStash s ∧ ∃ ps, frontPlaces s 0 .engineWrite (s.queue 0).ridx = .ok ps ∧ 0x9000 ∈ ownedLines ps ∧ s.isOwned 0x9000 = true) ∧
      (let s : State := { hosted { theQueue with phase := .error, ridx := 0x9000 } with host := { mail := [(1, { busy := true, wait := some (.ridx 0 16) })] } }
       ((s.mailbox 1).wait != some (.ridx 0 16)) = false) ∧
      ((hosted { theQueue with phase := .blocked }).queue 0).phase = .blocked ∧ ((hosted { theQueue with packets := [{}] }).queue 0).packets ≠ [] ∧
      (let r : EventQueueReq := { base := 4096, log2n := 16, index := 0, vector := 2047 }
       r.base % 4096 = 0 ∧ 4 ≤ r.log2n ∧ r.log2n ≤ 16 ∧ r.vector < 2048) := by
  refine ⟨⟨mailFree _ _ (by decide) rfl rfl, fun h => absurd h.1 (by decide), fun h => absurd h.2.1 (by decide), fun ⟨_, _, d, h, e⟩ => ?_⟩, by decide,
    ⟨mailFree _ _ (by decide) rfl rfl, rfl, by decide, rfl, rfl, by decide, noStash_of _ _ rfl (by decide) (by decide), by decide, _, rfl, fun l _ => unowned _ rfl l⟩,
    ⟨noStash_of _ _ rfl (by decide) (by decide), _, _, _, rfl⟩, ⟨noStash_of _ _ rfl (by decide) (by decide), _, rfl, by decide, by decide⟩, by decide, rfl, by decide, by decide⟩
  obtain rfl | rfl | rfl | rfl : d = 0 ∨ d = 1 ∨ d = 2 ∨ d = 3 := by omega
  all_goals cases e

/-- A shootdown of context 1 that every structure has acknowledged. -/
def shot1 (src : ShootSource) : Shoot :=
  { id := 0, scope := .context 1, source := src,
    acks := (List.range 640).map .core ++ (List.range 80).map .cluster ++ (List.range 4).map .die ++ (List.range 64).map .glen }
def shooting (src : ShootSource) (m : Mailbox := {}) (s : State := base) : State := { s with host := { shoots := [shot1 src], mail := [(0, m)] } }
def tlbiWaits (sync : Bool) : State := baseAgent.onGroup agent (fun g => { g with slices := g.slices.map (fun y => { y with run := .waiting (.tlbi sync) [] }) })
/-- A table of one partition, of the first 20 clusters and their memory. -/
def entry0 : PartEntry := { clusters := 0xFFFFF, stackMask := 1, ranges := [0xFC00], reserved := 0 }
def noEntry : PartEntry := { clusters := 0, stackMask := 0, ranges := [], reserved := 0 }
def table0 : List PartEntry := entry0 :: List.replicate 15 noEntry

theorem test_context_requests_hypotheses :
    (let s := { mapped base with cores := [] }
     let old := s.context 1
     MailFree s 1 ∧ old.w0.getLsbD 0 = true ∧ 1 = old.part + 1 ∧ ¬((∃ p ∈ s.cores, contextOnCore s p.2 1 = true) ∨ ∃ p ∈ s.host.queues, p.2.live = true ∧ p.2.cid = 1 ∧ p.2.packets ≠ []) ∧
       (s.context 2).w0.getLsbD 0 = false ∧ ({ w0 := 0x11, w1 := 0 } : Context).part = 1) ∧
      (∃ p ∈ (mapped base).cores, contextOnCore (mapped base) p.2 1 = true) ∧
      (let r : BfqReq := { stab := 0x2000, nslot := 65536, rl := 4096, cid := 1, cap := 4096, drops := 0, reserved := 0 }
       r.stab.toNat % 16 = 0 ∧ r.nslot ≤ 65536 ∧ r.rl % 4 = 0 ∧ r.rl ≤ 4096 ∧ r.cap ≤ 4096 ∧ ((mapped base).bfq 3 63).on = false) ∧
      ((List.range 16).find? (fun k => (Sparse.look {} k (mapped base).partitions).clusters.getLsbD (20 * (0 / 160) + 0 % 160 / 8)) = some 0 ∧ (1 : DWord).getLsbD 0 = true ∧
        (Sparse.look 0 0 ((mapped base).core 0).agent.ibp).getLsbD 0 = false) := by
  refine ⟨⟨mailFree _ _ (by decide) rfl rfl, by decide, by decide, ?_, by decide, by decide⟩, ⟨_, List.mem_singleton.2 rfl, by decide⟩, by decide, by decide⟩
  rintro (⟨p, h, _⟩ | ⟨p, h, _⟩)
  · exact List.not_mem_nil (show p ∈ ([] : List _) from h)
  · exact List.not_mem_nil (show p ∈ ([] : List _) from h)

theorem test_shootdown_requests_hypotheses :
    (let s := shooting (.mailbox 0) { busy := true, wait := some (.shoot 0) }
     (s.mailbox 0).wait = some (.shoot 0) ∧ ∃ x, s.host.shoots.find? (fun y => y.id == 0) = some x ∧ (∀ k < 640, AckUnit.core k ∈ x.acks) ∧ (∀ k < 80, AckUnit.cluster k ∈ x.acks) ∧
       (∀ d < 4, AckUnit.die d ∈ x.acks) ∧ ∀ g < 64, AckUnit.glen g ∈ x.acks) ∧
      ((shooting (.mailbox 0) { busy := true, wait := some (.clearV 0 1 0 0) }).mailbox 0).wait = some (.clearV 0 1 0 0) ∧
      ((shooting (.mailbox 0) { busy := true, wait := some (.shoots [0] table0) }).mailbox 0).wait = some (.shoots [0] table0) ∧
      ((shooting (.mailbox 0) { busy := true, wait := some (.shoots [0, 1] table0) }).mailbox 0).wait = some (.shoots [0, 1] table0) ∧
      (∀ sync, let t := shooting (.agent 0) {} (tlbiWaits sync)
       ((t.groupAt 0 0 15).slice 0).run = .waiting (.tlbi sync) [] ∧
         ((t.host.shoots.filter (fun y => y.id != 0)).filter (fun y => y.source == ShootSource.agent 0)).length = 0) := by
  refine ⟨⟨rfl, _, rfl, ?_, ?_, ?_, ?_⟩, rfl, rfl, rfl, fun sync => ?_⟩
  · intro k h
    simp [shot1, h]
  · intro k h
    simp [shot1, h]
  · intro k h
    simp [shot1, h]
  · intro k h
    simp [shot1, h]
  · cases sync <;> exact ⟨rfl, by decide⟩

/-- A drain of context 1, and the package in which it goes on. -/
def drain1 : Drain := { cid := 1, fn := 0, area := 0x40000, size := 0x1000, limit := 1600, begun := 0 }
def draining (d : Drain) (c : Core) : State := { gridded { grid1 with phase := .draining } c with now := 1600, host := { drains := [d] } }
def drainReq : DrainReq := { cid := 1, area := 0x40000, size := 0, limit := 1600000000 }

theorem test_drains_begin_hypotheses :
    (let s := gridded grid1 {}
     MailFree s 1 ∧ drainReq.area.toNat % 4096 = 0 ∧ drainReq.limit ≤ 1600000000 ∧ 1 = (s.context 1).part + 1 ∧ s.drainOf 1 = none ∧
       ∀ p ∈ s.cores, ∀ q, p.2.crew.claim = some q → (s.grid q.die q.grid).launch.cid ≠ 1) ∧
      (let c : Core := { crew := { bankCid := [(0, 2), (1, 2)] } }
       let s := claiming .waiting c
       ∃ q, (s.core 0).crew.claim = some q ∧ (∀ p ∈ s.cores, p.1 ≠ 0 → p.2.crew.claim = none) ∧ (s.grid q.die q.grid).launch.cid = 1 ∧ (s.grid q.die q.grid).live = true ∧
         findPlace (s.core 0) (occOf s 0) 1 (s.grid q.die q.grid).launch.kernel.need = none) ∧
      (let s := draining { drain1 with complete := true } {}
       s.drainOf 1 = some { drain1 with complete := true }) ∧
      (let valid := table0.filter (fun e => e.clusters != 0)
       tableOk table0 = true ∧ valid = [entry0] ∧ (base.contexts.filter (fun p => p.2.w0.getLsbD 0 && (changedParts base table0).contains p.2.part)).map Prod.fst = []) ∧
      (let s := mapped base
       (s.contexts.filter (fun p => p.2.w0.getLsbD 0 && (changedParts s table0).contains p.2.part)).map Prod.fst = [1] ∧ (∀ p ∈ s.cores, p.2.crew.claim = none) ∧ s.drainOf 1 = none) ∧
      tableOk (List.replicate 16 entry0) = false ∧ MailFree base 0 := by
  refine ⟨⟨mailFree _ _ (by decide) rfl rfl, by decide, by decide, by decide, rfl, fun p h q hq => ?_⟩, ⟨_, rfl, by decide, by decide, by decide, by decide⟩, rfl, by decide, by decide, by decide,
    mailFree _ _ (by decide) rfl rfl⟩
  obtain rfl := List.mem_singleton.1 (show p ∈ [(0, ({} : Core))] from h)
  cases hq

/-- The drain with the mailbox of function 0 waiting for it. -/
def drainingFor (cs : List Nat) : State :=
  let s := draining drain1 {}
  { s with host := { s.host with mail := [(0, { busy := true, wait := some (.drains cs table0) })] } }

theorem test_drains_go_on_hypotheses :
    (let s := draining drain1 {}
     s.drainOf 1 = some drain1 ∧ drain1.complete = false ∧ (∀ p ∈ s.cores, contextOnCore s p.2 1 = false) ∧ drain1.begun + drain1.limit ≤ s.now ∧ s.host.queues = [] ∧ s.host.mail = []) ∧
      (let s := drainingFor [1]
       s.host.mail = [] ++ (0, { busy := true, wait := some (.drains [1] table0) }) :: []) ∧
      (let s := draining drain1 { crew := { teams := [(0, parkedTeam)], bankCid := [(0, 1)] } }
       let size := (teamSizes (s.core 0) 0).2
       teamsOf s 1 = [(0, 0)] ∧ (s.core 0).caches.stores = [] ∧ (s.core 0).caches.wc = [] ∧ drain1.cursor + size ≤ drain1.size ∧ saveReady s 0 0 = true ∧ NoStash s ∧ s.store.cut = [] ∧
         ((s.core 0).team 0).stash = [] ∧ (∀ p ∈ s.cores, ∀ f ∈ p.2.flags, f.2.held = []) ∧
         ∃ ps, agentReach s 0 1 .write (runPieces (drain1.area + BitVec.ofNat 64 drain1.cursor) (imageBytes (s.core 0) 0 []).length) = .ok ps ∧
           (∀ x ∈ ownedLines ps, s.isOwned x = false) ∧ (placesOf ps).Nodup) ∧
      (∀ d ∈ [{ drain1 with size := 0, told := [0] }, { drain1 with size := 0 }],
        let s := draining d { crew := { teams := [(0, parkedTeam)], bankCid := [(0, 1)] } }
        d.size < d.cursor + (teamSizes (s.core 0) 0).2 ∧ NoStash s) ∧
      (let d : Drain := { drain1 with size := 0x100000 }
       let s := draining d { crew := { teams := [(0, parkedTeam)], bankCid := [(0, 1)] }, groups := [(0, { gid := { live := true }, inflight := [{ due := 1700 }] })] }
       d.cursor + (teamSizes (s.core 0) 0).2 ≤ d.size ∧ saveReady s 0 0 = false) := by
  refine ⟨⟨rfl, rfl, by decide, by decide, rfl, rfl⟩, rfl,
    ⟨by decide, rfl, rfl, by decide, by decide, noStash_of _ _ rfl (by decide) (by decide), rfl, rfl, by decide, _, rfl, fun x _ => unowned _ rfl x, places_nodup _ (by decide)⟩, ?_, by decide⟩
  intro d h
  simp only [List.mem_cons, List.not_mem_nil, or_false] at h
  rcases h with rfl | rfl
  · exact ⟨by decide, noStash_of _ _ rfl (by decide) (by decide)⟩
  · exact ⟨by decide, noStash_of _ _ rfl (by decide) (by decide)⟩

def record0 : RecordName := { die := 0, unit := 0, seq := 0 }
def out0 (about : RecordOf) (code : Nat) : Outstanding := { name := record0, about := about, code := code, rpl := true, cid := 1 }
def told (o : Outstanding) (s : State := mapped base) : State := { s with host := { outs := [o] } }

theorem test_answers_hypotheses :
    (MailFree (told (out0 (.gang user [0]) 1)) 1 ∧ 1 = ((told (out0 (.gang user [0]) 1)).context 1).part + 1) ∧
      (∀ about ∈ [RecordOf.gang user [0], .cmd 0 7, .glenCmd 0 7, .packet 0 0, .saved 1 0 0 [0] { code := 1 } false, .gang glen0 [0]],
        (told (out0 about 1)).host.outs.find? (fun x => x.name == record0 && x.answer.isNone) = some (out0 about 1)) ∧
      (∀ code ∈ [0x10, 0x12, 0x14], (told (out0 (.gang user [0]) code)).host.outs.find? (fun x => x.name == record0 && x.answer.isNone) = some (out0 (.gang user [0]) code)) ∧
      ((told (out0 (.gang user [0]) 4)).host.outs.find? (fun x => x.name == record0 && x.answer.isNone) = some (out0 (.gang user [0]) 4)) ∧
      (let s := told (out0 (.gang user [0]) 1)
       ((s.core 0).team (8 * 0 + (s.groupAt 0 0 0).gid.team)).live = true ∧ (∀ d ∈ (s.core 0).cmds, d.paused = none)) ∧
      (∀ x ∈ ({ told (out0 (.gang user [0]) 1) with host := { outs := [] } } : State).host.outs, x.code = 0x01 → ∀ b js, x.about = .gang (.gang b) js → ¬(b.core = 0 ∧ b.bank = 0)) ∧
      (let d := commanded (.cpy cpyOp) .started []
       ((told (out0 (.cmd 0 7) 1) (holding d)).core 0).cmd 7 = some d ∧ isBfq d.op = false) := by
  refine ⟨⟨mailFree _ _ (by decide) rfl rfl, by decide⟩, by decide, by decide, by decide, ⟨by decide, fun d h => absurd (show d ∈ ([] : List Cmd) from h) List.not_mem_nil⟩,
    fun x h => absurd (show x ∈ [] from h) List.not_mem_nil, by decide, by decide⟩

theorem test_boot_and_attestation_hypotheses : MailFree base 16 ∧ (List.replicate 32 (0 : Byte)).length = 32 ∧ 3 < 4 ∧ (∀ p ∈ base.plat.keys, p.1 ≠ 3) ∧ base.plat.quote ≤ 1048575 :=
  ⟨mailFree _ _ (by decide) rfl rfl, by decide, by decide, fun p h => absurd (show p ∈ [] from h) List.not_mem_nil, by decide⟩

/-- Island 5 of partition 0, at rest or not, and its tolerance. -/
def resting (x : Island) (tol : Nat) : State :=
  { mapped base with now := 80000, plat := { power := true, islands := [(2, x)], tolerance := [(0, tol)] } }

theorem test_islands_hypotheses :
    (islandPart (resting {} 40) 2 = some 0 ∧ islandWorks (resting {} 40) 2 = false ∧ islandWorks (resting {} 40) 0 = true ∧ mayGate (resting {} 80000) 2 = true ∧
        mayGate { resting {} 80000 with store := { l2 := [(128, true)] } } 80 = false) ∧
      (let x : Island := { phase := .run, since := 0 }
       ((resting x 40).island 2).phase = .run ∧ ((resting x 40).island 2).since + 1024 ≤ (resting x 40).now ∧ Sparse.look 40 0 (resting x 3199).plat.tolerance = 3199) ∧
      (let s : State := { base with plat := { base.plat with islands := [(0, { phase := .gated, wakes := 80000 })] }, now := 80000 }
       islandWorks s 0 = true ∧ (s.island 0).phase ≠ .run ∧ (s.island 0).withdrawn = false ∧ (s.island 0).wakes ≠ 0 ∧ (s.island 0).wakes ≤ s.now) ∧ MailFree base 1 :=
  ⟨by decide, by decide, by decide, mailFree _ _ (by decide) rfl rfl⟩

def lostMost : State :=
  let d := { commanded (.coll (collOp1 0)) .started [1] with who := user }
  { holding d with plat := { base.plat with links := (List.range 17).map (fun k => (k, true)) } }

theorem test_errors_and_links_hypotheses :
    base.anyEvq = none ∧
      (let s := lostMost
       let u : State := { s with plat := { s.plat with links := Sparse.put false 17 true s.plat.links } }
       ∃ x, allCmds s = [(0, x)] ∧ (isColl x.op && x.phase == .started && x.aux.any (noPathTo u)) = true ∧ s.store.cut = [] ∧ (flagField x.op).isSome = true) :=
  ⟨by decide, _, rfl, by decide, rfl, by decide⟩

theorem test_decode_of_encode_hypotheses :
    ∃ i e, wf i = true ∧ encOf i = some e ∧ i = .add { at' := site 1, ty := .i32, d := .s 31, a := .s 1, b := .s 30, c := .v 0, fa := false, fb := false, fc := false, mod := 0 } :=
  ⟨.add { at' := site 1, ty := .i32, d := .s 31, a := .s 1, b := .s 30, c := .v 0, fa := false, fb := false, fc := false, mod := 0 }, _, by decide, rfl, rfl⟩

theorem same_of_unchanged (r : Host.Outcome State Fault Refusal) (s : State) (h : changes r s = false) : r = .next s := by
  unfold changes at h
  split at h
  · simpa using h
  · cases h

/-- What a step does with the bundle at an issuer's program counter: nothing of it where a breakpoint or a fault of its checks stops it. -/
def outcomeOf (s : State) (w : Who) : Option Status :=
  match fetchBundle s w (s.pcOf w) with
  | .error _ => none
  | .ok r =>
    let c : Issue := { s.beginIssue w r.len with marked := r.head.getLsbD 27 }
    match breakpointAt s c, checkBundle (s.decoderOf w) c r with
    | none, .ok is =>
      let s0 := s.fenceFlush c is
      some (firstStatus (issueStatus s0 c is :: (if engineTaken s0 c is then .wait .poll else .ok) :: is.map (fun i => Issue.faresWith (exec i { s0 with issue := some c }))))
    | _, _ => none

theorem test_step_runs_decoded_hypotheses :
    (base.agenda = [] ∧ base.plat.power = true ∧ bootWaits base = false ∧ (∀ f ∈ events base, f base = .next base) ∧
        (∀ w ∈ readyAll base, fetched base w = false → exec (.instructionFetch w) base = .next base) ∧ nextIssuer base = some user) ∧
      outcomeOf base user = some .ok ∧
      (∃ st, outcomeOf (State.reset.withFetchWord 64 0x0500000000000000) user = some st ∧ st ≠ .ok) ∧
      State.reset.agenda = [] ∧ bootWaits State.reset = true ∧ ({ base with plat := { base.plat with power := false } } : State).plat.power = false := by
  have e : (events base).all (fun f => !changes (f base) base) = true := by decide
  simp only [List.all_eq_true, Bool.not_eq_true'] at e
  refine ⟨⟨rfl, rfl, by decide, fun f h => same_of_unchanged _ _ (e f h), fun w h f => ?_, by decide⟩, by decide, ⟨_, rfl, by decide⟩, rfl, by decide, rfl⟩
  have g : (readyAll base).all (fetched base) = true := by decide
  simp only [List.all_eq_true] at g
  rw [g w h] at f
  cases f

theorem test_every_step_keeps_form_hypotheses : ∃ t, step base = .next t ∧ base.MemoryForm ∧ base.PlatformForm := by
  have h : (match step base with | .next _ => true | _ => false) = true := by decide
  split at h
  · rename_i t e
    refine ⟨t, e, ⟨by decide, by decide, by decide⟩, by decide, by decide⟩
  · cases h


/-! ## Words and results that the spec gives in its examples -/

/-- Words of the examples after R229, R283 and R290, in the slots of their classes; and those of FMA and of a load in the example of the assembler. -/
theorem test_decode_example_words :
    decodeOp (.simt 0) 0x01100E00FFFFFFC0 0 = .ok (.bra { at' := site 0, form := 1, c := .v 7, fc := false, mod := 0, off := 0xFFFFFFC0 }) ∧
      decodeOp (.simt 0) 0x0300000300000400 0 = .ok (.call { at' := site 0, form := 0, c := .v 0, fc := false, mod := 3, off := 0x400 }) ∧
      decodeOp (.simt 3) 0x2002020406000004 0 =
        .ok (.add { at' := site 3, ty := .i32, d := .v 1, a := .v 2, b := .v 3, c := .v 0, fa := false, fb := false, fc := false, mod := 4 }) ∧
      decodeOp (.simt 1) 0x40028A8A007D0000 0 = .ok (.addImm { at' := site 1, ty := .i32, d := .s 5, a := .s 5, imm := 1000, fa := false, mod := 0 }) ∧
      decodeOp (.simt 6) 0xA125131044000010 0 =
        .ok (.ldGAcq { at' := site 6, sz := 4, scp := .pkg, d := .v 9, base := .x 2, idx := .v 4, pol := 4, tag := 0, off := 16 }) ∧
      decodeOp (.simt 6) 0xAB20074F04000008 0 =
        .ok (.stL { at' := site 6, sz := 4, scp := .slice, d := .v 3, base := .sp, idx := .zero, pol := 4, tag := 0, off := 8 }) ∧
      decodeOp (.simt 6) 0xB102A08200108300 0 =
        .ok (.atomG { at' := site 6, aop := 0, ord := .rel, scp := .pkg, d := .v 2, a := .v 4, b := .v 0, ta := .i32, base := .x 1, idx := .v 3, tag := 0 }) ∧
      decodeOp (.simt 3) 0x5306060204060000 0 = .ok (.fma { fmaTerm with b := .v 2, c := .v 3 }) ∧
      decodeOp (.simt 6) 0xA020131044000010 0 =
        .ok (.ldG { at' := site 6, sz := 4, scp := .slice, d := .v 9, base := .x 2, idx := .v 4, pol := 4, tag := 0, off := 16 }) ∧
      decodeOp (.simt 7) 0xC3080000000000E8 0x0000000801040442 = .ok (.mma { mmaTerm with mod := 0xE8, ext := 0x801040442 }) := by decide

/-- The gang with values in lane 0 of some registers. -/
def withLanes (rs : List (Nat × Word)) : State := base.onGroup user (fun g => { g with lanes := { g.lanes with v := rs.map (fun p => (32 * p.1, p.2)) } })
/-- What an operation writes to a register of lane 0. -/
def writes (i : Instr) (s : State) (n : Nat) : Option Word :=
  match exec i (begun s user) with
  | .next t => ((t.groupOf user).inflight.flatMap InFlight.lanes).findSome? (fun (x : Nat × Word × Bool) => if x.1 = 32 * n then some x.2.1 else none)
  | _ => none
def laneOp (k : BitVec 3) (ty : Ty) (d a b c : BitVec 6) (mod : BitVec 14) : ROp :=
  { at' := site k, ty := ty, d := .v d, a := .v a, b := .v b, c := .v c, fa := false, fb := false, fc := false, mod := mod }

/-- The examples of PACK (R264) and DOTF (R272), with the plain and the other form of each. -/
theorem test_pack_example :
    let s := withLanes [(0, 0x43FA0000), (1, 0xC3E60000), (3, 0x3C400000)]
    writes (.pack (laneOp 5 .e4m3x4 2 0 1 3 0)) s 2 = some 0x3C40FE7F ∧ writes (.pack (laneOp 5 .e4m3x4 2 0 1 3 4)) s 2 = some 0x3C40FE7E := by decide

theorem test_dotf_example :
    let s := withLanes [(4, 0x35803F80), (5, 0x3F803F80)]
    writes (.dotf (laneOp 3 .bf16x2 8 4 5 6 0x28)) s 8 = some 0x3F800008 := by decide

/-- The home slice of the example of R71, the levels of the walk of R13, a ring's slot at the end of its modulus (R47). -/
theorem test_address_examples : homeSlice 0x3F272F10 = 6 ∧ (List.range 4).map (levelIndex 0x000A48C53BC12F10) = [5, 0x123, 0x0A7, 0x3C1] ∧
    ({ idle3 with count := 3 } : Ring).modulus = 65535 ∧ 65534 % 3 = 2 := by decide

/-- The walk of the example of R13, from its four entries. -/
theorem test_walk_example :
    let m := [(0x400028, 0x410001), (0x410918, 0x424001), (0x424538, 0x438001), (0x439E08, 0x3F27000F)].foldl (fun (m : Memory) (p : Nat × Nat) => m.write p.1 (leBytes 8 p.2)) []
    let s : State := { mapped base with contexts := [(1, { w0 := 0x400001 })], store := { base.store with mem := m } }
    ∃ e, walk s 1 0x000A48C53BC12F10 = .ok e ∧ e.pbase = 0x3F270000 ∧ e.size = 65536 ∧ e.place 0x000A48C53BC12F10 = 0x3F272F10 := ⟨_, rfl, by decide, by decide, by decide⟩

/-! ## Whole steps from the state that holds one word -/

def stepped (w : Nat) : Option State := match step (State.reset.withFetchWord 64 w) with | .next t => some t | _ => none

/-- A NOP goes on by the header and its word; BRA on the constant 1 goes to its target; TRAP stops its gang with cause 0x10. -/
theorem test_step_nop : (stepped 0).map (fun t => ((t.groupOf user).slice 0).pc) = some 12 := by decide
theorem test_step_bra : (stepped 0x0100E400000000C0).map (fun t => ((t.groupOf user).slice 7).pc) = some 0xC0 := by decide
theorem test_step_trap : (stepped 0x1300000000000000).map (fun t => match ((t.groupOf user).slice 0).run with | .stopped x _ => some x.code | _ => none) = some (some 0x10) := by decide

end Sys2Proof.Tests
end

section
/-! Reset (R379): what each place of the state reads as right after it, and from that the values that the spec states. -/

namespace Sys2Proof.Machine

/-! ## The places of the state after reset: nothing is listed, so each reads as its default -/

@[simp] theorem State.reset_byte (a : Nat) : State.reset.store.mem.byte a = 0 := Sparse.look_nil 0#8 a
@[simp] theorem State.reset_poison (g : Nat) : Sparse.look false g State.reset.store.poison = false := Sparse.look_nil false g
@[simp] theorem State.reset_core (k : Nat) : State.reset.core k = {} := Sparse.look_nil _ k
@[simp] theorem State.reset_context (k : Nat) : State.reset.context k = {} := Sparse.look_nil _ k
@[simp] theorem State.reset_partition (p : Nat) : Sparse.look {} p State.reset.partitions = {} := Sparse.look_nil _ p
@[simp] theorem State.reset_tolerance (p : Nat) : Sparse.look 40 p State.reset.plat.tolerance = 40 := Sparse.look_nil 40 p
@[simp] theorem State.reset_island (k : Nat) : State.reset.island k = {} := Sparse.look_nil _ k
@[simp] theorem State.reset_queue (n : Nat) : State.reset.queue n = {} := Sparse.look_nil _ n

@[simp] theorem State.reset_ring (k r : Nat) : State.reset.ring k r = {} := by
  rw [State.ring, State.reset_core]
  exact Sparse.look_nil _ r

/-! ## What the defaults say -/

/-- R250, R364: the agent takes no events and estat holds no cause; HOLD alone is set of the debug registers. -/
theorem Agent.reset_registers :
    let a : Agent := {}
    a.cause = 0 ∧ a.een = false ∧ a.dctlHold = true ∧ a.dctlAll = false ∧ a.dctlCid = 0 ∧ a.trctl = 0 ∧
      (∀ n, Sparse.look 0 n a.ibp = 0) ∧ ∀ n, Sparse.look 0 n a.wpc = 0 :=
  ⟨rfl, rfl, rfl, rfl, rfl, rfl, Sparse.look_nil 0, Sparse.look_nil 0⟩

/-- R11: V, bit 0 of word 0, resets to 0. -/
theorem Context.reset_not_ok : ({} : Context).ok = false := by decide

/-! ## The obligation -/

/-- Settles O58, place by place: each reads as its default, which has the value that the spec states. -/
theorem resetValues : Obligations.ResetValues := by
  unfold Obligations.ResetValues
  refine ⟨rfl, State.reset_byte, State.reset_poison, ?ring, ?agent, ?context, ?partition, State.reset_tolerance, ?island, ?queue⟩
  case ring => intro k r; rw [State.reset_ring]
  case agent => intro k; rw [State.reset_core]; exact Agent.reset_registers
  case context => intro k; rw [State.reset_context]; exact Context.reset_not_ok
  case partition => intro p; rw [State.reset_partition]; exact ⟨rfl, rfl⟩
  case island => intro k; rw [State.reset_island]
  case queue => intro n; rw [State.reset_queue]

end Sys2Proof.Machine
end

section
/-! What a change of one core, of one ring and of the issue record does to the rest of the machine. -/

namespace Sys2Proof.Machine
open Sys2Proof

/-! ## Frames -/

/-- States that agree on every memory keep every byte. -/
theorem MemoryKept.of_stores {s t : State} (hm : t.store.mem = s.store.mem) (hc : ∀ k, (t.core k).store.spad = (s.core k).store.spad)
    (hg : t.glens = s.glens) : MemoryKept s t :=
  ⟨fun a => by rw [hm], fun k a => by rw [hc], fun n a => by rw [State.glen, State.glen, hg]⟩

/-- States whose cores have the same groups and whose glen cores are the same give every issuer the same registers. -/
theorem State.groupOf_of_groups {s t : State} (hc : ∀ k, (t.core k).groups = (s.core k).groups) (hg : t.glens = s.glens) (v : Who) :
    t.groupOf v = s.groupOf v := by
  cases v with
  | gang a => simp only [State.groupOf, State.groupAt, hc]
  | glen n => simp only [State.groupOf, State.glen, hg]

/-- A change of a core that keeps a part of it keeps that part of every core. -/
theorem State.core_onCore_of {α : Type} (p : Core → α) (s : State) (k : Nat) (f : Core → Core) (h : p (f (s.core k)) = p (s.core k)) (j : Nat) :
    p ((s.onCore k f).core j) = p (s.core j) := by
  rw [State.core_onCore]
  split
  · next e => rw [e, h]
  · rfl

/-! ## Stops and waits of an operation -/

/-- The issue record alone changed. -/
theorem OnlyIssue.onIssue (s : State) (f : Issue → Issue) : OnlyIssue s (s.onIssue f) :=
  ⟨⟨fun _ => rfl, fun _ _ => rfl, fun _ _ => rfl⟩, fun v => State.groupOf_onIssue s v f, rfl⟩

theorem State.stopAt_issue {s : State} {c : Issue} (h : Runs s c) (x : Stop) : (s.stopAt x).issue = some { c with status := .stop x } := by
  simp [State.stopAt, State.onIssue, h.1, h.2]

theorem State.waitFor_issue {s : State} {c : Issue} (h : Runs s c) (w : Wait) : (s.waitFor w).issue = some { c with status := .wait w } := by
  simp [State.waitFor, State.onIssue, h.1, h.2]

theorem State.stopAfter_issue {s : State} {c : Issue} (h : s.issue = some c) (x : Stop) :
    (s.stopAfter x).issue = some { c with after := c.after ++ [x] } := by
  simp [State.stopAfter, State.onIssue, h]

/-- An operation whose outcome is a trap at its slot. -/
theorem TrapsWith.of_trapAt {code : Nat} {i : Instr} {site : Site} {s : State} {c : Issue} (h : Runs s c)
    (he : exec i s = .next (s.trapAt site code)) : TrapsWith code i site s c :=
  ⟨_, he, OnlyIssue.onIssue _ _, State.stopAt_issue h _⟩

/-- An operation whose outcome is an illegal-operand trap. -/
theorem TrapsWith.of_illegalOperand {i : Instr} {site : Site} {s : State} {c : Issue} (h : Runs s c)
    (he : exec i s = .next (s.illegalOperand site)) : TrapsWith 0x07 i site s c := TrapsWith.of_trapAt h he

/-- An operation whose outcome is a change of the issue record alone. -/
theorem EndsWith.of_issue {i : Instr} {s t : State} {c : Issue} {f : Issue → Issue} (he : exec i s = .next t) (ho : OnlyIssue s t)
    (hi : t.issue = some (f c)) : EndsWith i s c [] f :=
  ⟨t, s, he, ⟨OnlyRegisters.refl _ _, rfl⟩, ho, hi⟩

theorem EndsWith.of_stopAt {i : Instr} {s : State} {c : Issue} {x : Stop} (h : Runs s c) (he : exec i s = .next (s.stopAt x)) :
    EndsWith i s c [] (stopping x) :=
  EndsWith.of_issue he (OnlyIssue.onIssue _ _) (State.stopAt_issue h x)

theorem EndsWith.of_waitFor {i : Instr} {s : State} {c : Issue} {w : Wait} (h : Runs s c) (he : exec i s = .next (s.waitFor w)) :
    EndsWith i s c [] (waiting w) :=
  EndsWith.of_issue he (OnlyIssue.onIssue _ _) (State.waitFor_issue h w)

/-- A lane operation without stream sources that takes effect. -/
theorem State.laneOp_plain {s : State} {c : Issue} {site : Site} (h : LanesRun s c site []) (f : Issue → Group → List Nat → State → State) :
    s.laneOp site [] f = f c (s.cur c) (c.opLanes site) s := by
  rw [State.laneOp_runs h]; rfl

/-! ## Rings -/

theorem State.ring_onRing (s : State) (k r : Nat) (f : Ring → Ring) (j q : Nat) :
    (s.onRing k r f).ring j q = if j = k ∧ q = r then f (s.ring k r) else s.ring j q := by
  simp only [State.ring, State.onRing, State.core_onCore]
  by_cases hj : j = k
  · subst hj
    simp only [if_true, true_and]
    exact Sparse.look_upd _ _ _ _ _
  · simp [hj]

@[simp] theorem State.ring_onRing_same (s : State) (k r : Nat) (f : Ring → Ring) : (s.onRing k r f).ring k r = f (s.ring k r) := by
  simp [State.ring_onRing]

theorem RingBecomes.refl (s : State) (k r : Nat) : RingBecomes s s k r (s.ring k r) :=
  ⟨fun j q => by split <;> simp_all, MemoryKept.refl s, fun _ => rfl, fun _ => rfl, rfl⟩

/-- A ring changed. -/
theorem RingBecomes.onRing (s : State) (k r : Nat) (f : Ring → Ring) : RingBecomes s (s.onRing k r f) k r (f (s.ring k r)) :=
  ⟨State.ring_onRing s k r f,
    .of_stores rfl (State.core_onCore_of (fun c => c.store.spad) s k _ rfl) rfl,
    State.groupOf_of_groups (State.core_onCore_of Core.groups s k _ rfl) rfl,
    State.core_onCore_of (fun c => { c with rings := [] }) s k _ rfl, rfl⟩

end Sys2Proof.Machine
end

section
/-! The ring operations of a thread (R46 to R51, R312). -/

namespace Sys2Proof.Machine
open Sys2Proof

/-! ## Slots marked done -/

/-- Entries that are none of the group's outstanding ones of the kind stay as they are. -/
theorem markDone_skip (x : Ring) (take : Bool) (grp n : Nat) (pre es : List RingOwn)
    (h : ∀ f ∈ pre, ¬(f.take = take ∧ f.grp = grp ∧ f.done = false)) :
    markDone x take grp n (pre ++ es) = pre ++ markDone x take grp n es := by
  induction pre with
  | nil => rfl
  | cons f pre ih =>
    have hf := h f List.mem_cons_self
    have hc : (n == 0 || f.take != take || f.grp != grp || f.done) = true := by
      by_contra hne
      simp at hne
      exact hf ⟨hne.1.1.2, hne.1.2, hne.2⟩
    rw [List.cons_append, markDone, if_pos hc, ih (fun g hg => h g (List.mem_cons_of_mem _ hg))]
    rfl

/-- With no slot left to mark, every entry stays. -/
theorem markDone_zero (x : Ring) (take : Bool) (grp : Nat) : ∀ es, markDone x take grp 0 es = es
  | [] => rfl
  | e :: es => by rw [markDone, if_pos (by simp), markDone_zero x take grp es]

/-- What is left behind an entry of which `n` slots are marked done: its other slots, if any, then the later entries. -/
def leftBehind (x : Ring) (e : RingOwn) (n : Nat) (post : List RingOwn) : List RingOwn :=
  if n = e.n then post else { e with n := e.n - n, first := (e.first + n) % x.modulus } :: post

/-- Slots of the group's first outstanding entry of the kind are marked done, the entry split where they end inside it (R51). -/
theorem markDone_first (x : Ring) (e : RingOwn) (n : Nat) (pre post : List RingOwn) (he : e.done = false) (h1 : 1 ≤ n) (hn : n ≤ e.n)
    (h : ∀ f ∈ pre, ¬(f.take = e.take ∧ f.grp = e.grp ∧ f.done = false)) :
    markDone x e.take e.grp n (pre ++ e :: post) = pre ++ { e with done := true, n := n } :: leftBehind x e n post := by
  rw [markDone_skip x _ _ n pre _ h, markDone, if_neg (by simp [he]; omega), leftBehind]
  by_cases hen : n = e.n
  · subst hen
    simp [markDone_zero]
  · rw [if_neg (by omega), if_neg hen]
    rfl

theorem foldl_slots (es : List RingOwn) (n : Nat) : es.foldl (fun n e => n + e.n) n = n + (es.map RingOwn.n).sum := by
  induction es generalizing n with
  | nil => simp
  | cons e es ih => simp [ih, Nat.add_assoc]

/-- A group that has an outstanding entry owns at least its slots. -/
theorem le_ownedSlots (e : RingOwn) (es : List RingOwn) (he : e ∈ es) (hd : e.done = false) : e.n ≤ ownedSlots e.take e.grp es := by
  rw [ownedSlots, foldl_slots, Nat.zero_add]
  exact List.single_le_sum (by simp) _ (List.mem_map_of_mem (List.mem_filter.mpr ⟨he, by simp [hd]⟩))

/-! ## Settling -/

/-- Nothing popped stands at HEAD: settling changes nothing. -/
theorem Ring.settleHead_none (x : Ring) (hc : ∀ h ∈ x.consumers, h.done = false)
    (ho : ∀ e ∈ x.own, ¬(e.take = true ∧ e.done = true ∧ e.first = x.head ∧ x.passed e.first e.n = true)) : ∀ fuel, x.settleHead fuel = x
  | 0 => rfl
  | fuel + 1 => by
    rw [Ring.settleHead]
    have h1 : x.consumers.find? (fun h => h.granted && h.done && h.first == x.head && x.passed h.first h.n) = none :=
      List.find?_eq_none.mpr (fun h hh => by simp [hc h hh])
    have h2 : x.own.find? (fun e => e.take && e.done && e.first == x.head && x.passed e.first e.n) = none :=
      List.find?_eq_none.mpr (fun e he hne => ho e he (by simpa [and_assoc] using hne))
    simp only [h1, h2]

/-- The one popped entry at HEAD that TAIL has passed: HEAD moves past it (R47, R50). -/
theorem Ring.popAll_entry (x : Ring) (pre : List RingOwn) (e : RingOwn) (post : List RingOwn) (ho : x.own = pre ++ e :: post)
    (ht : e.take = true) (hd : e.done = true) (hf : e.first = x.head) (hp : x.passed e.first e.n = true)
    (hpre : ∀ f ∈ pre ++ post, f.take = true → f.done = false) (hc : ∀ h ∈ x.consumers, h.done = false) :
    x.popAll = { x with head := x.adv x.head e.n, own := pre ++ post } := by
  have hout : ∀ f ∈ pre ++ post, ¬(f.take = true ∧ f.done = true) := fun f hf' h => by simp [hpre f hf' h.1] at h
  have h1 : x.consumers.find? (fun h => h.granted && h.done && h.first == x.head && x.passed h.first h.n) = none :=
    List.find?_eq_none.mpr (fun h hh => by simp [hc h hh])
  have h2 : x.own.find? (fun f => f.take && f.done && f.first == x.head && x.passed f.first f.n) = some e := by
    rw [ho, List.find?_append, List.find?_eq_none.mpr (fun f hf' hne => hout f (List.mem_append_left _ hf') (by simp at hne; exact ⟨hne.1.1.1, hne.1.1.2⟩))]
    have he : (e.take && e.done && e.first == x.head && x.passed e.first e.n) = true := by
      rw [ht, hd, hp, hf]; simp
    simp [he]
  have h3 : x.own.erase e = pre ++ post := by
    rw [ho, List.erase_append_right _ (fun hm => hout e (List.mem_append_left _ hm) ⟨ht, hd⟩)]
    simp
  have hfuel : x.fuel = x.producers.length + x.consumers.length + (pre.length + post.length) + 1 := by
    rw [Ring.fuel, ho]; simp; omega
  rw [Ring.popAll, hfuel, Ring.settleHead]
  simp only [h1, h2, h3]
  exact Ring.settleHead_none { x with head := x.adv x.head e.n, own := pre ++ post } hc (fun f hf' h => hout f hf' ⟨h.1, h.2.1⟩) _

/-! ## The operations -/

theorem firstWaiting_isNone (hs : List RingHold) : (firstWaiting hs).isNone = true ↔ ∀ h ∈ hs, h.granted = true := by
  induction hs with
  | nil => simp [firstWaiting]
  | cons h hs ih =>
    rw [firstWaiting]
    by_cases hg : h.granted = true
    · simp [hg, ih]
    · simp [hg]

/-- An operation on a ring outside the team's allocation is an illegal operand (R301). -/
theorem State.ringOp_none {s : State} {c : Issue} {o : EOp} (h : LanesRun s c o.at' []) (live : Bool) (f : Issue → Nat → Ring → State → State)
    (hn : (s.teamOf c).res.rings[(o.ext.extractLsb' 0 4).toNat]? = none) : s.ringOp o live f = s.illegalOperand o.at' := by
  simp only [State.ringOp, State.laneOp_plain h, ringNumber, hn]

/-- An operation on a ring of the team's allocation: on one that it needs configured and that is not, an illegal operand (R312). -/
theorem State.ringOp_some {s : State} {c : Issue} {o : EOp} {r : Nat} (h : LanesRun s c o.at' []) (live : Bool)
    (f : Issue → Nat → Ring → State → State) (hn : (s.teamOf c).res.rings[(o.ext.extractLsb' 0 4).toNat]? = some r) :
    s.ringOp o live f =
      if live && !(s.ring (coreOf c.who) r).valid then s.illegalOperand o.at' else f c r (s.ring (coreOf c.who) r) s := by
  simp only [State.ringOp, State.laneOp_plain h, ringNumber, hn]

theorem ringCount_none {c : Issue} {o : EOp} {x : Ring} (h : (c.sval o.a).toNat % 2 ^ 32 = 0 ∨ x.count < (c.sval o.a).toNat % 2 ^ 32) :
    ringCount c o x = none := by
  simp only [ringCount]
  rw [if_pos (by simpa using h)]

theorem ringCount_some {c : Issue} {o : EOp} {x : Ring} (h1 : 1 ≤ (c.sval o.a).toNat % 2 ^ 32) (h2 : (c.sval o.a).toNat % 2 ^ 32 ≤ x.count) :
    ringCount c o x = some ((c.sval o.a).toNat % 2 ^ 32) := by
  simp only [ringCount]
  rw [if_neg (by simp only [Bool.or_eq_true, beq_iff_eq, decide_eq_true_eq]; omega)]

theorem State.drainStores_nil {s : State} {k : Nat} (h : (s.core k).caches.stores = []) (want : PendingStore → Bool) : s.drainStores k want = s := by
  simp [State.drainStores, h]

theorem State.writeOutWhere_nil {s : State} {k : Nat} (h : (s.core k).caches.wc = []) (f : WcEntry → Bool) : s.writeOutWhere k f = s := by
  simp [State.writeOutWhere, h]

/-- With no store on its way and no write-combining entry a release has nothing to wait for (R120). -/
theorem State.release_noStores {s : State} {w : Who} (h : NoStores s w) (x : Scope) : s.release w x = (s, true) := by
  rw [State.release]
  cases hg : isGlen w
  · obtain h | ⟨hs, hw⟩ := h
    · simp [hg] at h
    · simp [State.releaseNow, State.writeOutWhere_nil hw, State.drainStores_nil hs, hs]
  · rfl

/-- A ring changed and a result put on its way. -/
theorem RingBecomes.hand {i : Instr} {s : State} {c : Issue} {r : Nat} {f : Ring → Ring} {d : Spec} {v : DWord}
    (he : exec i s = .next ((s.onRing (coreOf c.who) r f).postScalar c d v 2)) :
    ∃ u t, exec i s = .next t ∧ RingBecomes s u (coreOf c.who) r (f (s.ring (coreOf c.who) r)) ∧ ScalarResult u t c d 2 false v :=
  ⟨_, _, he, RingBecomes.onRing s _ r f, ScalarResult.post _ c d v 2 false⟩

/-! ## What each operation is on a ring of the team -/

section
variable {s : State} {c : Issue} {o : EOp} {r : Nat} (h : LanesRun s c o.at' [])
  (hr : (s.teamOf c).res.rings[(o.ext.extractLsb' 0 4).toNat]? = some r)
include h

/-- Every operation on a ring outside the allocation traps (R301). -/
theorem ringOps_trap_outside (hn : (s.teamOf c).res.rings[(o.ext.extractLsb' 0 4).toNat]? = none) (i : Instr)
    (hi : i ∈ [.ringcfg o, .ringcfgRsv o, .ringcfgCmt o, .ringcfgTake o, .ringcfgPop o, .ringcfgHnd o]) : TrapsWith 0x07 i o.at' s c := by
  refine TrapsWith.of_illegalOperand h.1 ?_
  simp only [List.mem_cons, List.not_mem_nil, or_false] at hi
  rcases hi with rfl | rfl | rfl | rfl | rfl | rfl <;> exact congrArg Host.Outcome.next (State.ringOp_none h _ _ hn)

include hr

/-- Every operation but RINGCFG on a ring with V = 0 traps (R312). -/
theorem ringOps_trap_invalid (hv : (s.ring (coreOf c.who) r).valid = false) (i : Instr)
    (hi : i ∈ [.ringcfgRsv o, .ringcfgCmt o, .ringcfgTake o, .ringcfgPop o, .ringcfgHnd o]) : TrapsWith 0x07 i o.at' s c := by
  have ht (f : Issue → Nat → Ring → State → State) : s.ringOp o true f = s.illegalOperand o.at' := by
    rw [State.ringOp_some h true f hr, hv]; rfl
  refine TrapsWith.of_illegalOperand h.1 ?_
  simp only [List.mem_cons, List.not_mem_nil, or_false] at hi
  rcases hi with rfl | rfl | rfl | rfl | rfl <;> exact congrArg Host.Outcome.next (ht _)

/-- On a configured ring the operation takes effect. -/
theorem State.ringOp_live (hv : (s.ring (coreOf c.who) r).valid = true) (f : Issue → Nat → Ring → State → State) :
    s.ringOp o true f = f c r (s.ring (coreOf c.who) r) s := by
  rw [State.ringOp_some h true f hr, hv]; rfl

/-- A count of 0 or above COUNT traps (R312). -/
theorem ringOps_trap_count (hv : (s.ring (coreOf c.who) r).valid = true)
    (hn : (c.sval o.a).toNat % 2 ^ 32 = 0 ∨ (s.ring (coreOf c.who) r).count < (c.sval o.a).toNat % 2 ^ 32) (i : Instr)
    (hi : i ∈ [.ringcfgRsv o, .ringcfgCmt o, .ringcfgTake o, .ringcfgPop o]) : TrapsWith 0x07 i o.at' s c := by
  refine TrapsWith.of_illegalOperand h.1 ?_
  simp only [List.mem_cons, List.not_mem_nil, or_false] at hi
  rcases hi with rfl | rfl | rfl | rfl <;>
    exact congrArg Host.Outcome.next ((State.ringOp_live h hr hv _).trans (by simp only [ringCount_none hn]))

variable {n : Nat} (hv : (s.ring (coreOf c.who) r).valid = true) (hn : n = (c.sval o.a).toNat % 2 ^ 32) (h1 : 1 ≤ n)
  (h2 : n ≤ (s.ring (coreOf c.who) r).count)
include hv hn h1 h2

theorem exec_ringcfgRsv_live : exec (.ringcfgRsv o) s = .next (
    match myHold c (s.ring (coreOf c.who) r).producers with
    | some h =>
      if h.granted then
        (s.onRing (coreOf c.who) r (fun y => { y with producers := y.producers.erase h })).handSlots c o (s.ring (coreOf c.who) r) h.first
      else s.waitFor (.ring r false n)
    | none =>
      if (firstWaiting (s.ring (coreOf c.who) r).producers).isNone && (s.ring (coreOf c.who) r).reserveFits (newHold c n) then
        (s.onRing (coreOf c.who) r (fun y => { y with rsv := y.adv y.rsv n, own := y.ownWith (newHold c n) false y.rsv })).handSlots c o
          (s.ring (coreOf c.who) r) (s.ring (coreOf c.who) r).rsv
      else s.waitFor (.ring r false n)) := by
  subst hn
  refine congrArg Host.Outcome.next ((State.ringOp_live h hr hv _).trans ?_)
  simp only [ringCount_some h1 h2] <;> rfl

theorem exec_ringcfgTake_live : exec (.ringcfgTake o) s = .next (
    match myHold c (s.ring (coreOf c.who) r).consumers with
    | some h =>
      if h.granted && (s.ring (coreOf c.who) r).passed h.first n then
        (s.onRing (coreOf c.who) r (fun y => { y with consumers := y.consumers.erase h })).handSlots c o (s.ring (coreOf c.who) r) h.first
      else s.waitFor (.ring r true n)
    | none =>
      if (firstWaiting (s.ring (coreOf c.who) r).consumers).isNone && (s.ring (coreOf c.who) r).claimFits n &&
          (s.ring (coreOf c.who) r).tableRoom true && (s.ring (coreOf c.who) r).passed (s.ring (coreOf c.who) r).clm n then
        (s.onRing (coreOf c.who) r (fun y => { y with clm := y.adv y.clm n, own := y.ownWith (newHold c n) true y.clm })).handSlots c o
          (s.ring (coreOf c.who) r) (s.ring (coreOf c.who) r).clm
      else s.waitFor (.ring r true n)) := by
  subst hn
  refine congrArg Host.Outcome.next ((State.ringOp_live h hr hv _).trans ?_)
  simp only [ringCount_some h1 h2] <;> rfl

theorem exec_ringcfgCmt_live (hs : NoStores s c.who) : exec (.ringcfgCmt o) s = .next (
    if ownedSlots false c.snap.number (s.ring (coreOf c.who) r).own < n then s.illegalOperand o.at'
    else s.onRing (coreOf c.who) r (fun y => { y with own := markDone y false c.snap.number n y.own })) := by
  subst hn
  refine congrArg Host.Outcome.next ((State.ringOp_live h hr hv _).trans ?_)
  simp only [ringCount_some h1 h2, State.release_noStores hs] <;> rfl

theorem exec_ringcfgCmt_few (hf : ownedSlots false c.snap.number (s.ring (coreOf c.who) r).own < n) :
    exec (.ringcfgCmt o) s = .next (s.illegalOperand o.at') := by
  subst hn
  refine congrArg Host.Outcome.next ((State.ringOp_live h hr hv _).trans ?_)
  simp only [ringCount_some h1 h2]
  exact if_pos hf

theorem exec_ringcfgPop_live : exec (.ringcfgPop o) s = .next (
    if ownedSlots true c.snap.number (s.ring (coreOf c.who) r).own < n then s.illegalOperand o.at'
    else s.onRing (coreOf c.who) r (fun y => ({ y with own := markDone y true c.snap.number n y.own } : Ring).popAll)) := by
  subst hn
  refine congrArg Host.Outcome.next ((State.ringOp_live h hr hv _).trans ?_)
  simp only [ringCount_some h1 h2]

omit h1 h2 hv hn in
theorem exec_ringcfg (a : DWord) (ha : a = c.sval o.a) : exec (.ringcfg o) s = .next (
    if !ringImageOk s c r a then s.illegalOperand o.at'
    else if (s.ring (coreOf c.who) r).valid && !(s.ring (coreOf c.who) r).idle then s.waitFor (.ringcfg r)
    else
      let y : Ring := if a.getLsbD 63 then
          { valid := true, base := bitsOf a 18 0, slotsz := bitsOf a 39 28, count := bitsOf a 52 44, gen := (s.ring (coreOf c.who) r).gen + 1 }
        else { gen := (s.ring (coreOf c.who) r).gen + 1 }
      (s.onRing (coreOf c.who) r (fun _ => y)).postScalar c o.d
        (if a.getLsbD 63 then BitVec.ofNat 64 (ringHandle (s.onRing (coreOf c.who) r (fun _ => y)) (coreOf c.who) r) else 0) 2) := by
  subst ha
  exact congrArg Host.Outcome.next (State.ringOp_some h false _ hr)

end

/-- Bits of a word as a field. -/
theorem bitsOf_eq_extract (x : DWord) (lo n : Nat) (h : 0 < n := by decide) : bitsOf x (lo + n - 1) lo = (x.extractLsb' lo n).toNat := by
  rw [bitsOf, BitVec.extractLsb'_toNat, Nat.shiftRight_eq_div_pow, show lo + n - 1 + 1 - lo = n by omega]

/-- A reservation is granted at once where none waits, the slots fit and the table has room (R49, R51). -/
theorem Ring.reserves_iff (x : Ring) (c : Issue) (n : Nat) : ((firstWaiting x.producers).isNone && x.reserveFits (newHold c n)) = true ↔
    (∀ h ∈ x.producers, h.granted = true) ∧ x.diff x.rsv x.head + n ≤ x.count ∧ x.own.length < 32 := by
  rw [Bool.and_eq_true, firstWaiting_isNone]
  refine and_congr_right fun _ => ?_
  rw [Ring.reserveFits, Bool.and_eq_true, Ring.roomFor, Ring.tableRoom, decide_eq_true_iff]
  exact and_congr_right' (by simp [newHold])

/-- A claim is granted at once where moreover TAIL has passed its slots (R50, R51). -/
theorem Ring.claims_iff (x : Ring) (n : Nat) :
    ((firstWaiting x.consumers).isNone && x.claimFits n && x.tableRoom true && x.passed x.clm n) = true ↔
      (∀ h ∈ x.consumers, h.granted = true) ∧ x.diff x.clm x.head + n ≤ x.count ∧ x.own.length < 32 ∧
        x.diff x.clm x.head + n ≤ x.diff x.tail x.head := by
  rw [Bool.and_eq_true, Bool.and_eq_true, Bool.and_eq_true, firstWaiting_isNone]
  simp [Ring.claimFits, Ring.passed, Ring.tableRoom, and_assoc]

/-- The image is well formed as R46 and R312 say. -/
theorem ringImageOk_iff (s : State) (c : Issue) (r : Nat) (a : DWord) :
    ringImageOk s c r a = true ↔ (a.extractLsb' 53 10 = 0 ∧ a.extractLsb' 40 4 = 0 ∧ a.extractLsb' 19 9 = 0) ∧ (a.getLsbD 63 = true →
      1 ≤ (a.extractLsb' 44 9).toNat ∧ (a.extractLsb' 44 9).toNat ≤ 256 ∧ 1 ≤ (a.extractLsb' 28 12).toNat ∧ (a.extractLsb' 0 19).toNat % 128 = 0 ∧
        (a.extractLsb' 0 19).toNat + (a.extractLsb' 44 9).toNat * (a.extractLsb' 28 12).toNat * 128 ≤ (s.teamOf c).res.spsize ∧
        regionBusy (s.core (coreOf c.who))
          { s.teamOf c with res := { (s.teamOf c).res with rings := (s.teamOf c).res.rings.filter (fun q => q != r) } } (a.extractLsb' 0 19).toNat
          ((a.extractLsb' 0 19).toNat + (a.extractLsb' 44 9).toNat * (a.extractLsb' 28 12).toNat * 128) = false) := by
  have z (n : Nat) (x : BitVec n) : x.toNat = 0 ↔ x = 0 := by rw [← BitVec.toNat_inj]; simp
  simp only [ringImageOk, show bitsOf a 62 53 = _ from bitsOf_eq_extract a 53 10, show bitsOf a 43 40 = _ from bitsOf_eq_extract a 40 4,
    show bitsOf a 27 19 = _ from bitsOf_eq_extract a 19 9, show bitsOf a 52 44 = _ from bitsOf_eq_extract a 44 9,
    show bitsOf a 39 28 = _ from bitsOf_eq_extract a 28 12, show bitsOf a 18 0 = _ from bitsOf_eq_extract a 0 19,
    Bool.and_eq_true, Bool.or_eq_true, Bool.not_eq_true', beq_iff_eq, decide_eq_true_eq, z, and_assoc]
  cases a.getLsbD 63 <;> simp

/-- Of an entry only part of which is marked done, the rest is not done. -/
theorem mem_leftBehind {x : Ring} {e : RingOwn} {n : Nat} {post : List RingOwn} (hd : e.done = false) {f : RingOwn} (hf : f ∈ leftBehind x e n post) :
    f ∈ post ∨ f.done = false := by
  rw [leftBehind] at hf
  split at hf
  · exact .inl hf
  · obtain rfl | hf := List.mem_cons.mp hf
    · exact .inr hd
    · exact .inl hf

/-- The handle of a ring is made of its place and of its generation (R83). -/
theorem ringHandle_onRing (s : State) (k r : Nat) (y : Ring) :
    ringHandle (s.onRing k r (fun _ => y)) k r = k / 160 * 2 ^ 30 + k % 160 * 2 ^ 22 + r * 2 ^ 15 + y.gen.toNat := by
  rw [ringHandle, State.ring_onRing_same]
  rfl

/-- A well-formed image on a ring that no operation names: configured anew, its handle returned (R46, R312). -/
theorem exec_ringcfg_on {s : State} {c : Issue} {o : EOp} {r : Nat} (h : LanesRun s c o.at' [])
    (hr : (s.teamOf c).res.rings[(o.ext.extractLsb' 0 4).toNat]? = some r) (hok : ringImageOk s c r (c.sval o.a) = true)
    (hb : ((s.ring (coreOf c.who) r).valid && !(s.ring (coreOf c.who) r).idle) = false) (hv : (c.sval o.a).getLsbD 63 = true) (y : Ring)
    (hy : y = { valid := true, base := ((c.sval o.a).extractLsb' 0 19).toNat, slotsz := ((c.sval o.a).extractLsb' 28 12).toNat,
                count := ((c.sval o.a).extractLsb' 44 9).toNat, gen := (s.ring (coreOf c.who) r).gen + 1 }) :
    exec (.ringcfg o) s = .next ((s.onRing (coreOf c.who) r (fun _ => y)).postScalar c o.d (BitVec.ofNat 64
      (coreOf c.who / 160 * 2 ^ 30 + coreOf c.who % 160 * 2 ^ 22 + r * 2 ^ 15 + y.gen.toNat)) 2) := by
  rw [exec_ringcfg h hr _ rfl, hok, hb, hv, ← ringHandle_onRing s, hy, ← bitsOf_eq_extract _ 0 19, ← bitsOf_eq_extract _ 28 12, ← bitsOf_eq_extract _ 44 9]
  rfl

/-- An image with V = 0: the configuration is taken away and 0 returned (R312). -/
theorem exec_ringcfg_off {s : State} {c : Issue} {o : EOp} {r : Nat} (h : LanesRun s c o.at' [])
    (hr : (s.teamOf c).res.rings[(o.ext.extractLsb' 0 4).toNat]? = some r) (hok : ringImageOk s c r (c.sval o.a) = true)
    (hb : ((s.ring (coreOf c.who) r).valid && !(s.ring (coreOf c.who) r).idle) = false) (hv : (c.sval o.a).getLsbD 63 = false) :
    exec (.ringcfg o) s = .next ((s.onRing (coreOf c.who) r (fun _ => { gen := (s.ring (coreOf c.who) r).gen + 1 })).postScalar c o.d 0 2) := by
  rw [exec_ringcfg h hr _ rfl, hok, hb, hv]
  rfl

theorem Ring.idle_iff (x : Ring) : x.idle = true ↔ x.producers = [] ∧ x.consumers = [] := by
  simp [Ring.idle]

/-- A pop of slots that stand at HEAD and that TAIL has passed advances HEAD; one of other slots leaves them marked (R47, R50, R51). -/
theorem Ring.popAll_marked (x : Ring) (pre : List RingOwn) (e : RingOwn) (n : Nat) (post : List RingOwn) (ht : e.take = true) (hd : e.done = false)
    (hout : ∀ f ∈ pre ++ e :: post, f.take = true → f.done = false) (hc : ∀ h ∈ x.consumers, h.done = false) :
    ({ x with own := pre ++ { e with done := true, n := n } :: leftBehind x e n post } : Ring).popAll =
      if e.first = x.head ∧ x.diff e.first x.head + n ≤ x.diff x.tail x.head then
        { x with head := (x.head + n) % x.modulus, own := pre ++ leftBehind x e n post }
      else { x with own := pre ++ { e with done := true, n := n } :: leftBehind x e n post } := by
  have hrest : ∀ f ∈ pre ++ leftBehind x e n post, f.take = true → f.done = false := by
    intro f hf hft
    obtain hf | hf := List.mem_append.mp hf
    · exact hout f (List.mem_append_left _ hf) hft
    · exact (mem_leftBehind hd hf).elim (fun hf => hout f (by simp [hf]) hft) id
  split
  · next heads =>
    exact Ring.popAll_entry { x with own := pre ++ { e with done := true, n := n } :: leftBehind x e n post } pre { e with done := true, n := n }
      (leftBehind x e n post) rfl ht rfl heads.1 (decide_eq_true heads.2) hrest hc
  · next heads =>
    refine Ring.settleHead_none { x with own := pre ++ { e with done := true, n := n } :: leftBehind x e n post } hc ?_ _
    intro f hf ⟨hft, hfd, hh, hp⟩
    obtain rfl | hf := List.mem_cons.mp (List.perm_middle.mem_iff.mp hf)
    · exact heads ⟨hh, of_decide_eq_true hp⟩
    · simp [hrest f hf hft] at hfd

/-- Settles O25, operation by operation. -/
theorem ringOperations : Obligations.RingOperations := by
  unfold Obligations.RingOperations
  intro o s c h hg
  have waits {i : Instr} {w : Wait} (he : exec i s = .next (s.waitFor w)) :
      ∃ t, exec i s = .next t ∧ OnlyIssue s t ∧ t.issue = some { c with status := .wait w } :=
    ⟨_, he, OnlyIssue.onIssue _ _, State.waitFor_issue h.1 _⟩
  refine ⟨fun hn => ?outside, fun r hr => ⟨?config, fun hv => ?invalid, fun hv hn => ?count, fun hv => ?handle, fun hv h1 h2 => ?slots⟩⟩
  case outside =>
    have ht := ringOps_trap_outside h hn
    exact ⟨ht _ (by simp), ht _ (by simp), ht _ (by simp), ht _ (by simp), ht _ (by simp), ht _ (by simp)⟩
  case config =>
    have cfg := exec_ringcfg h hr _ rfl
    have hok := ringImageOk_iff s c r (c.sval o.a)
    refine ⟨fun hb => ?_, fun hgood hb => ?_, fun hgood hb hon => ?_, fun hgood hb hoff => ?_⟩
    · rw [Bool.eq_false_iff.mpr (fun k => hb (hok.mp k))] at cfg
      exact TrapsWith.of_illegalOperand h.1 cfg
    · have hi := mt (Ring.idle_iff _).mp hb.2
      rw [hok.mpr hgood, hb.1, Bool.eq_false_iff.mpr hi] at cfg
      exact ⟨_, cfg, OnlyIssue.onIssue _ _, State.waitFor_issue h.1 _⟩
    all_goals
      have hi : ((s.ring (coreOf c.who) r).valid && !(s.ring (coreOf c.who) r).idle) = false :=
        Bool.eq_false_iff.mpr (fun k => hb (by simpa [← Ring.idle_iff] using k))
    · exact RingBecomes.hand (f := fun _ => _) (exec_ringcfg_on h hr (hok.mpr hgood) hi hon _ rfl)
    · exact RingBecomes.hand (f := fun _ => _) (exec_ringcfg_off h hr (hok.mpr hgood) hi hoff)
  case invalid =>
    have ht := ringOps_trap_invalid h hr hv
    exact ⟨ht _ (by simp), ht _ (by simp), ht _ (by simp), ht _ (by simp), ht _ (by simp)⟩
  case count =>
    have ht := ringOps_trap_count h hr hv hn
    exact ⟨ht _ (by simp), ht _ (by simp), ht _ (by simp), ht _ (by simp)⟩
  case handle =>
    exact ⟨s, _, congrArg Host.Outcome.next (State.ringOp_live h hr hv _), RingBecomes.refl _ _ _, ScalarResult.post s c o.d _ 2 false⟩
  case slots =>
    have rsv := exec_ringcfgRsv_live h hr hv rfl h1 h2
    have take := exec_ringcfgTake_live h hr hv rfl h1 h2
    have pop := exec_ringcfgPop_live h hr hv rfl h1 h2
    have cmt := exec_ringcfgCmt_live h hr hv rfl h1 h2
    refine ⟨⟨fun hm hf => ?_, fun hm hf => ?_, fun y hm => ⟨fun hgr => ?_, fun hgr => ?_⟩⟩,
      ⟨fun hm hf => ?_, fun hm hf => ?_, fun y hm => ⟨fun hgr hp => ?_, fun hgr => ?_⟩⟩, fun hf => ?_, fun hf => ?_, fun hf hs => ?_, fun hf => ?_, ?_⟩
    · rw [show myHold c _ = none from hm] at rsv
      exact RingBecomes.hand (rsv.trans (congrArg Host.Outcome.next (if_pos ((Ring.reserves_iff _ c _).mpr hf))))
    · rw [show myHold c _ = none from hm] at rsv
      exact waits (rsv.trans (congrArg Host.Outcome.next (if_neg (mt (Ring.reserves_iff _ c _).mp hf))))
    · rw [show myHold c _ = some y from hm] at rsv
      exact RingBecomes.hand (rsv.trans (congrArg Host.Outcome.next (if_pos hgr)))
    · rw [show myHold c _ = some y from hm] at rsv
      exact waits (rsv.trans (congrArg Host.Outcome.next (if_neg (by simp [hgr]))))
    · rw [show myHold c _ = none from hm] at take
      exact RingBecomes.hand (take.trans (congrArg Host.Outcome.next (if_pos ((Ring.claims_iff _ _).mpr hf))))
    · rw [show myHold c _ = none from hm] at take
      exact waits (take.trans (congrArg Host.Outcome.next (if_neg (mt (Ring.claims_iff _ _).mp hf))))
    · rw [show myHold c _ = some y from hm] at take
      exact RingBecomes.hand (take.trans (congrArg Host.Outcome.next (if_pos (by simpa [hgr, Ring.passed] using hp))))
    · rw [show myHold c _ = some y from hm] at take
      exact waits (take.trans (congrArg Host.Outcome.next (if_neg (by simpa [Ring.passed] using hgr))))
    · exact TrapsWith.of_illegalOperand h.1 (exec_ringcfgCmt_few h hr hv rfl h1 h2 hf)
    · exact TrapsWith.of_illegalOperand h.1 (pop.trans (congrArg Host.Outcome.next (if_pos hf)))
    · exact ⟨_, (cmt hs).trans (congrArg Host.Outcome.next (if_neg (by omega))), RingBecomes.onRing _ _ _ _⟩
    · exact ⟨_, pop.trans (congrArg Host.Outcome.next (if_neg (by omega))), RingBecomes.onRing _ _ _ _⟩
    · intro pre e post ho hd hgrp hn hpre
      have hmark (take : Bool) (ht : e.take = take) : markDone (s.ring (coreOf c.who) r) take c.snap.number ((c.sval o.a).toNat % 2 ^ 32)
          (s.ring (coreOf c.who) r).own = pre ++ { e with done := true, n := (c.sval o.a).toNat % 2 ^ 32 } ::
            leftBehind (s.ring (coreOf c.who) r) e ((c.sval o.a).toNat % 2 ^ 32) post := by
        rw [← ht, ← hgrp, ho]
        exact markDone_first _ e _ pre post hd h1 hn (by simpa only [hgrp] using hpre)
      have hfew (take : Bool) (ht : e.take = take) :
          ¬ownedSlots take c.snap.number (s.ring (coreOf c.who) r).own < (c.sval o.a).toNat % 2 ^ 32 := by
        rw [← ht, ← hgrp]
        exact Nat.not_lt.mpr (hn.trans (le_ownedSlots e _ (by simp [ho]) hd))
      refine ⟨fun ht hs => ?_, fun ht hout hc => ?_⟩
      · have hb := RingBecomes.onRing s (coreOf c.who) r (fun y => { y with own := markDone y false c.snap.number ((c.sval o.a).toNat % 2 ^ 32) y.own })
        rw [hmark false ht] at hb
        exact ⟨_, (cmt hs).trans (congrArg Host.Outcome.next (if_neg (hfew false ht))), hb⟩
      · have hb := RingBecomes.onRing s (coreOf c.who) r
          (fun y => ({ y with own := markDone y true c.snap.number ((c.sval o.a).toNat % 2 ^ 32) y.own } : Ring).popAll)
        have hp := Ring.popAll_marked (s.ring (coreOf c.who) r) pre e ((c.sval o.a).toNat % 2 ^ 32) post ht hd (by rwa [← ho]) hc
        rw [hmark true ht, hp] at hb
        exact ⟨_, pop.trans (congrArg Host.Outcome.next (if_neg (hfew true ht))), fun heads => by rwa [if_pos heads] at hb,
          fun heads => by rwa [if_neg heads] at hb⟩

end Sys2Proof.Machine
end

section
/-! The events of a ring: grants, commits and delayed configurations (R46, R49 to R51). -/

namespace Sys2Proof.Machine
open Sys2Proof

/-! ## Groups of one core -/

/-- A group of a core after one of them changed. -/
theorem Core.groupK_onGroupK (c : Core) (k : Nat) (f : Group → Group) (q : Nat) :
    (c.onGroupK k f).groupK q = if q = k then f (c.groupK k) else c.groupK q := by
  by_cases h : q = k
  · subst h
    rw [if_pos rfl]
    exact Sparse.look_put_same _ _ _ _
  · rw [if_neg h]
    exact Sparse.look_put_other _ _ _ _ _ h _

/-- The groups of one core became what `F` says, key by key, and nothing else of the machine changed. -/
def GroupsBecome (s t : State) (core : Nat) (F : Nat → Group → Group) : Prop :=
  (∀ k q, (t.core k).groupK q = if k = core then F q ((s.core k).groupK q) else (s.core k).groupK q) ∧ MemoryKept s t ∧
    (∀ k, { t.core k with groups := [] } = { s.core k with groups := [] }) ∧ t = { s with cores := t.cores }

theorem GroupsBecome.refl (s : State) (core : Nat) : GroupsBecome s s core (fun _ g => g) :=
  ⟨fun k q => by simp, MemoryKept.refl s, fun _ => rfl, rfl⟩

theorem GroupsBecome.trans {s t u : State} {core : Nat} {F G : Nat → Group → Group} (h : GroupsBecome s t core F) (h' : GroupsBecome t u core G) :
    GroupsBecome s u core (fun q g => G q (F q g)) := by
  obtain ⟨hk, hm, hc, ht⟩ := h
  obtain ⟨hk', hm', hc', hu⟩ := h'
  refine ⟨fun k q => ?_, hm.trans hm', fun k => (hc' k).trans (hc k), by rw [hu, ht]⟩
  rw [hk', hk]
  split <;> rfl

/-- One group of a core changed. -/
theorem GroupsBecome.onGroupK (s : State) (core key : Nat) (f : Group → Group) :
    GroupsBecome s (s.onCore core (fun c => c.onGroupK key f)) core (fun q g => if q = key then f g else g) := by
  refine ⟨fun k q => ?_, .of_stores rfl (State.core_onCore_of (fun c => c.store.spad) s core _ rfl) rfl,
    State.core_onCore_of (fun c => { c with groups := [] }) s core _ rfl, rfl⟩
  rw [State.core_onCore]
  by_cases hk : k = core
  · subst hk
    rw [if_pos rfl, if_pos rfl, Core.groupK_onGroupK]
    by_cases hq : q = key
    · subst hq; simp
    · simp [hq]
  · simp [hk]

theorem GroupsBecome.key {s t : State} {core key : Nat} {f : Group → Group}
    (h : GroupsBecome s t core (fun q g => if q = key then f g else g)) : KeyBecomes s t core key f := by
  obtain ⟨hk, hrest⟩ := h
  refine ⟨fun k q => ?_, hrest⟩
  rw [hk]
  by_cases h1 : k = core <;> by_cases h2 : q = key <;> simp [h1, h2]

theorem GroupsBecome.congr {s t : State} {core : Nat} {F G : Nat → Group → Group} (h : GroupsBecome s t core F)
    (he : ∀ q, F q ((s.core core).groupK q) = G q ((s.core core).groupK q)) : GroupsBecome s t core G := by
  obtain ⟨hk, hrest⟩ := h
  refine ⟨fun k q => ?_, hrest⟩
  rw [hk]
  split
  · next e => subst e; exact he q
  · rfl

theorem GroupsBecome.now_eq {s t : State} {core : Nat} {F : Nat → Group → Group} (h : GroupsBecome s t core F) : t.now = s.now := by
  rw [h.2.2.2]

/-! ## Who waits for a ring -/

/-- Does a wait name this ring's slots? -/
def waitsFor (r : Nat) (q : Wait) : Bool := match q with | .ring m _ _ => m == r | _ => false

/-- What a grant does to the group of the thread that holds it. -/
def wakenBy (r now : Nat) (h : RingHold) (g : Group) : Group := wakes (waitsFor r) (g.gangOf (h.cmd % 8)) now g

theorem State.wakeHold_becomes (s : State) (core r : Nat) (h : RingHold) :
    GroupsBecome s (s.wakeHold core r h) core (fun q g => if q = h.group then wakenBy r s.now h g else g) := by
  have hf : s.wakeHold core r h = s.onCore core (fun c => c.onGroupK h.group (wakenBy r s.now h)) := by
    rw [State.wakeHold]
    refine congrArg (s.onCore core) (funext fun c => congrArg (c.onGroupK h.group) (funext fun g => ?_))
    refine congrArg (g.onSlices (g.gangOf (h.cmd % 8))) (funext fun y => ?_)
    cases hr : y.run with
    | waiting w had => cases w <;> simp [waitsFor, Slice.wakeUp, hr]
    | _ => rfl
  rw [hf]
  exact GroupsBecome.onGroupK s core h.group _

/-- Several grants: the group of each is woken in turn. -/
theorem State.wakeHolds_becomes (core r now : Nat) (hs : List RingHold) (s : State) (hn : s.now = now) :
    GroupsBecome s (hs.foldl (fun s h => s.wakeHold core r h) s) core
      (fun q g => (hs.filter (fun h => h.group == q)).foldl (fun g h => wakenBy r now h g) g) := by
  induction hs generalizing s with
  | nil => exact GroupsBecome.refl s core
  | cons h hs ih =>
    have h1 := State.wakeHold_becomes s core r h
    rw [hn] at h1
    refine (h1.trans (ih _ (h1.now_eq.trans hn))).congr fun q => ?_
    by_cases hq : h.group = q
    · simp [hq]
    · simp [hq, Ne.symm hq]

/-! ## Grants -/

theorem firstWaiting_middle (pre post : List RingHold) (h : RingHold) (hp : ∀ f ∈ pre, f.granted = true) (hg : h.granted = false) :
    firstWaiting (pre ++ h :: post) = some h := by
  induction pre with
  | nil => simp [firstWaiting, hg]
  | cons f pre ih => simp [firstWaiting, hp f List.mem_cons_self, ih (fun g hg => hp g (List.mem_cons_of_mem _ hg))]

theorem grantHold_middle (first : Nat) (pre post : List RingHold) (h : RingHold) (hp : ∀ f ∈ pre, f.granted = true) (hg : h.granted = false) :
    grantHold first (pre ++ h :: post) = pre ++ { h with granted := true, first := first } :: post := by
  induction pre with
  | nil => simp [grantHold, hg]
  | cons f pre ih => simp [grantHold, hp f List.mem_cons_self, ih (fun g hg => hp g (List.mem_cons_of_mem _ hg))]

theorem firstWaiting_eq_none {hs : List RingHold} (h : ∀ f ∈ hs, f.granted = true) : firstWaiting hs = none :=
  Option.isNone_iff_eq_none.mp ((firstWaiting_isNone hs).mpr h)

/-- Room in the ownership table is asked of a thread's hold only (R51). -/
theorem Ring.tableRoom_iff (x : Ring) (thread : Bool) : x.tableRoom thread = true ↔ (thread = true → x.own.length < 32) := by
  cases thread <;> simp [Ring.tableRoom]

theorem Ring.reserveFits_iff (x : Ring) (h : RingHold) :
    x.reserveFits h = true ↔ x.diff x.rsv x.head + h.n ≤ x.count ∧ (h.thread = true → x.own.length < 32) := by
  rw [Ring.reserveFits, Bool.and_eq_true, Ring.tableRoom_iff, Ring.roomFor, decide_eq_true_iff]

theorem Ring.takeFits_iff (x : Ring) (h : RingHold) : (x.claimFits h.n && x.tableRoom h.thread) = true ↔
    x.diff x.clm x.head + h.n ≤ x.count ∧ (h.thread = true → x.own.length < 32) := by
  rw [Bool.and_eq_true, Ring.tableRoom_iff, Ring.claimFits, decide_eq_true_iff]

/-! ## Settling -/

/-- Nothing completed stands at TAIL: settling changes nothing. -/
theorem Ring.settleTail_none (x : Ring) (hp : ∀ h ∈ x.producers, h.done = false) (ho : ∀ e ∈ x.own, e.take = false → e.done = false) :
    ∀ fuel, x.settleTail fuel = x
  | 0 => rfl
  | fuel + 1 => by
    have h1 : x.producers.find? (fun h => h.granted && h.done && h.first == x.tail) = none :=
      List.find?_eq_none.mpr (fun h hh => by simp [hp h hh])
    have h2 : x.own.find? (fun e => !e.take && e.done && e.first == x.tail) = none :=
      List.find?_eq_none.mpr (fun e he hne => by
        simp only [Bool.and_eq_true, Bool.not_eq_true'] at hne
        simp [ho e he hne.1.1] at hne)
    rw [Ring.settleTail]
    simp only [h1, h2]

/-- The element that alone meets a test is the one found, and erasing it leaves the others. -/
theorem find_erase_middle {α : Type} [BEq α] [LawfulBEq α] (p : α → Bool) (pre post : List α) (e : α) (he : p e = true)
    (hpre : ∀ f ∈ pre, p f = false) : (pre ++ e :: post).find? p = some e ∧ (pre ++ e :: post).erase e = pre ++ post := by
  constructor
  · rw [List.find?_append, List.find?_eq_none.mpr (fun f hf => by simp [hpre f hf])]
    simp [he]
  · rw [List.erase_append_right _ (fun hm => by simp [hpre e hm] at he)]
    simp

/-- The one completed entry at TAIL: TAIL moves past it (R49, R51). -/
theorem Ring.commitAll_entry (x : Ring) (pre : List RingOwn) (e : RingOwn) (post : List RingOwn) (ho : x.own = pre ++ e :: post)
    (ht : e.take = false) (hd : e.done = true) (hf : e.first = x.tail) (hout : ∀ f ∈ pre ++ post, f.done = false)
    (hp : ∀ h ∈ x.producers, h.done = false) : x.commitAll = { x with tail := (x.tail + e.n) % x.modulus, own := pre ++ post } := by
  have h1 : x.producers.find? (fun h => h.granted && h.done && h.first == x.tail) = none :=
    List.find?_eq_none.mpr (fun h hh => by simp [hp h hh])
  obtain ⟨h2, h3⟩ := find_erase_middle (fun e : RingOwn => !e.take && e.done && e.first == x.tail) pre post e (by simp [ht, hd, hf])
    (fun f hf => by simp [hout f (List.mem_append_left _ hf)])
  have hfuel : x.fuel = x.producers.length + x.consumers.length + (pre.length + post.length) + 1 := by
    rw [Ring.fuel, ho]; simp; omega
  rw [Ring.commitAll, hfuel, Ring.settleTail]
  simp only [h1, ho, h2, h3]
  exact Ring.settleTail_none { x with tail := x.adv x.tail e.n, own := pre ++ post } hp (fun f hf' _ => hout f hf') _

/-- The one completed reservation of a command at TAIL: TAIL moves past it (R49). -/
theorem Ring.commitAll_hold (x : Ring) (pre : List RingHold) (h : RingHold) (post : List RingHold) (ho : x.producers = pre ++ h :: post)
    (hg : h.granted = true) (hd : h.done = true) (hf : h.first = x.tail) (hout : ∀ f ∈ pre ++ post, f.done = false)
    (hp : ∀ e ∈ x.own, e.take = false → e.done = false) :
    x.commitAll = { x with tail := (x.tail + h.n) % x.modulus, producers := pre ++ post } := by
  obtain ⟨h2, h3⟩ := find_erase_middle (fun h : RingHold => h.granted && h.done && h.first == x.tail) pre post h (by simp [hg, hd, hf])
    (fun f hf => by simp [hout f (List.mem_append_left _ hf)])
  have hfuel : x.fuel = (pre.length + post.length) + x.consumers.length + x.own.length + 1 := by
    rw [Ring.fuel, ho]; simp; omega
  rw [Ring.commitAll, hfuel, Ring.settleTail]
  simp only [ho, h2, h3]
  exact Ring.settleTail_none { x with tail := x.adv x.tail h.n, producers := pre ++ post } hout hp _

/-- Nothing popped: pops change nothing. -/
theorem Ring.popAll_none (x : Ring) (hc : ∀ h ∈ x.consumers, h.done = false) (ho : ∀ e ∈ x.own, e.take = true → e.done = false) : x.popAll = x :=
  Ring.settleHead_none x hc (fun e he ht => by simp [ho e he ht.1] at ht) _

/-! ## The events -/

theorem exec_ringCommit {s : State} {core r : Nat} (hv : (s.ring core r).valid = true) :
    exec (.ringCommit core r) s = .next (s.onRing core r (fun x => x.commitAll.popAll)) :=
  congrArg Host.Outcome.next (if_pos hv)

theorem ringCommit_becomes {s : State} {core r : Nat} (hv : (s.ring core r).valid = true) {y : Ring} (hy : (s.ring core r).commitAll.popAll = y) :
    ∃ t, exec (.ringCommit core r) s = .next t ∧ RingBecomes s t core r y :=
  ⟨_, exec_ringCommit hv, hy ▸ RingBecomes.onRing s core r _⟩

theorem exec_ringReserveGrant_none {s : State} {core r : Nat} (h : firstWaiting (s.ring core r).producers = none) :
    exec (.ringReserveGrant core r) s = .next s := by
  refine congrArg Host.Outcome.next ?_
  simp only [h]

theorem exec_ringReserveGrant {s : State} {core r : Nat} {h : RingHold} (hw : firstWaiting (s.ring core r).producers = some h) :
    exec (.ringReserveGrant core r) s = .next (
      if (s.ring core r).valid && (s.ring core r).reserveFits h then
        if h.thread then (s.onRing core r Ring.grantReserve).wakeHold core r h else s.onRing core r Ring.grantReserve
      else s) := by
  refine congrArg Host.Outcome.next ?_
  simp only [hw]

theorem Ring.grantReserve_fits {x : Ring} {h : RingHold} (hw : firstWaiting x.producers = some h) (hf : x.reserveFits h = true) :
    x.grantReserve = { x with producers := grantHold x.rsv x.producers, rsv := x.adv x.rsv h.n, own := x.ownWith h false x.rsv } := by
  simp [Ring.grantReserve, hw, hf]

theorem Ring.grantClaim_eq {x : Ring} {h : RingHold} (hw : firstWaiting x.consumers = some h) :
    x.grantClaim = if x.claimFits h.n && x.tableRoom h.thread then
      { x with consumers := grantHold x.clm x.consumers, clm := x.adv x.clm h.n, own := x.ownWith h true x.clm } else x := by
  simp only [Ring.grantClaim, hw]

/-- The threads that hold granted claims that TAIL has passed go on, in their order. -/
def goesOn (core r : Nat) (s : State) (y : Ring) (t : State) : Prop :=
  ∃ u, RingBecomes s u core r y ∧ MemoryKept u t ∧ (∀ k, { t.core k with groups := [] } = { u.core k with groups := [] }) ∧
    t = { u with cores := t.cores } ∧ ∀ k q, (t.core k).groupK q =
      if k = core then
        (y.consumers.filter (fun h => h.thread && h.granted && h.group == q && decide (y.diff h.first y.head + h.n ≤ y.diff y.tail y.head))).foldl
          (fun g h => wakenBy r s.now h g) ((s.core k).groupK q)
      else (s.core k).groupK q

theorem ringClaimGrant_goesOn {s : State} {core r : Nat} (hv : (s.ring core r).valid = true) {y : Ring} (hy : (s.ring core r).grantClaim = y) :
    ∃ t, exec (.ringClaimGrant core r) s = .next t ∧ goesOn core r s y t := by
  have hu := RingBecomes.onRing s core r Ring.grantClaim
  have hring : (s.onRing core r Ring.grantClaim).ring core r = y := (State.ring_onRing_same s core r _).trans hy
  have hgroup (k q : Nat) : ((s.onRing core r Ring.grantClaim).core k).groupK q = (s.core k).groupK q :=
    State.core_onCore_of (fun c => c.groupK q) s core _ rfl k
  obtain ⟨hk, hm, hc, ht⟩ := State.wakeHolds_becomes core r s.now (y.consumers.filter (fun h => h.thread && h.granted && y.passed h.first h.n))
    (s.onRing core r Ring.grantClaim) rfl
  refine ⟨_, congrArg Host.Outcome.next ((if_neg (by simp [hv])).trans ?_), _, hy ▸ hu, hm, hc, ht, fun k q => ?_⟩
  · dsimp only
    rw [hring]
  · rw [hk, hgroup]
    dsimp only
    rw [List.filter_filter]
    refine if_congr Iff.rfl (congrArg (fun hs => List.foldl _ _ hs) (List.filter_congr fun h _ => ?_)) rfl
    simp only [Ring.passed]
    cases h.thread <;> cases h.granted <;> cases (h.group == q) <;> simp

/-- A slice that waits to configure the ring goes on. -/
def Slice.reconfigured (r now : Nat) (y : Slice) : Slice :=
  match y.run with
  | .waiting (.ringcfg m) had => if m == r then { y with run := .woken (.ringcfg m :: had), ready := now, wake := 0 } else y
  | _ => y

theorem Slice.reconfigured_idem (r now : Nat) (y : Slice) : (y.reconfigured r now).reconfigured r now = y.reconfigured r now := by
  cases hr : y.run with
  | waiting w had =>
    cases w with
    | ringcfg m => by_cases hm : (m == r) = true <;> simp [Slice.reconfigured, hr, hm]
    | _ => simp [Slice.reconfigured, hr]
  | _ => simp [Slice.reconfigured, hr]

/-- The model's wake of a delayed configuration. -/
theorem Slice.reconfigured_eq (r now : Nat) (y : Slice) : (match y.run with
    | .waiting (.ringcfg n) _ => if n == r then y.wakeUp now 0 else y
    | _ => y) = y.reconfigured r now := by
  cases hr : y.run with
  | waiting w had => cases w <;> simp [Slice.reconfigured, Slice.wakeUp, hr]
  | _ => simp [Slice.reconfigured, hr]

/-- What a free ring does to the slices of a group. -/
def Group.reconfigured (r now : Nat) (g : Group) : Group := { g with slices := g.slices.map (Slice.reconfigured r now) }

theorem Group.reconfigured_idem (r now : Nat) (g : Group) : (g.reconfigured r now).reconfigured r now = g.reconfigured r now := by
  simp [Group.reconfigured, Slice.reconfigured_idem]

/-- A group that a core does not hold has no slice that waits. -/
theorem Group.reconfigured_zero (r now q : Nat) : (groupZero q).reconfigured r now = groupZero q := by
  rw [groupZero]
  split <;> rfl

theorem reconfigured_becomes (core r now : Nat) (ps : List (Nat × Group)) (s : State) (hn : s.now = now) :
    GroupsBecome s (ps.foldl (fun s p => s.onCore core (fun c => c.onGroupK p.1 (Group.reconfigured r s.now))) s) core
      (fun q g => if q ∈ ps.map Prod.fst then g.reconfigured r now else g) := by
  induction ps generalizing s with
  | nil => exact (GroupsBecome.refl s core).congr (fun q => by simp)
  | cons p ps ih =>
    refine ((GroupsBecome.onGroupK s core p.1 _).trans (ih _ hn)).congr fun q => ?_
    rw [hn]
    simp only [List.map_cons, List.mem_cons]
    by_cases h1 : q = p.1
    · simp only [h1, true_or, if_true, Group.reconfigured_idem, ite_self]
    · simp only [h1, false_or, if_false]

theorem Sparse.look_of_not_mem {α : Type} (d : α) (k : Nat) : ∀ (m : Sparse α), k ∉ m.map Prod.fst → Sparse.look d k m = d
  | [], _ => rfl
  | (j, v) :: m, h => by
    simp only [List.map_cons, List.mem_cons, not_or] at h
    rw [Sparse.look, if_neg (by simpa using Ne.symm h.1), Sparse.look_of_not_mem d k m h.2]

theorem ringReconfigure_becomes {s : State} {core r : Nat} (h : (s.ring core r).idle = true) :
    ∃ t, exec (.ringReconfigure core r) s = .next t ∧ GroupsBecome s t core (fun _ g => g.reconfigured r s.now) := by
  have hb := reconfigured_becomes core r s.now (s.core core).groups s rfl
  refine ⟨_, congrArg Host.Outcome.next ((if_pos h).trans ?_), hb.congr fun q => ?_⟩
  · refine List.foldl_ext _ _ _ (fun t p _ => congrArg (t.onCore core) (funext fun c => congrArg (c.onGroupK p.1) (funext fun g => ?_)))
    exact congrArg (fun ys => { g with slices := ys }) (List.map_congr_left fun y _ => Slice.reconfigured_eq r t.now y)
  · split
    · rfl
    · next hq =>
      rw [Core.groupK, Sparse.look_of_not_mem _ _ _ hq, Group.reconfigured_zero]

end Sys2Proof.Machine

namespace Sys2Proof
open Machine

/-- Settles O26, event by event. -/
theorem ringEvents : Obligations.RingEvents := by
  unfold Obligations.RingEvents
  intro core r s
  refine ⟨fun hv => ?_, fun hv => ⟨fun hg => ?_, fun pre h post hp hg hh => ⟨fun hf => ?_, fun hf => ?_⟩, fun hg => ?_,
    fun pre h post hp hg hh => ?_, fun ho hc => ⟨fun pre e post hown ht hd hf hout hp => ?_, fun pre h post hown hg hd hf hout hp => ?_⟩,
    fun pre e post hown ht hd hf hpass hout hp hc => ?_⟩, fun hb => ?_, fun h1 h2 => ?_⟩
  · refine ⟨?_, congrArg Host.Outcome.next (if_pos (by simp [hv])), congrArg Host.Outcome.next (if_neg (by simp [hv]))⟩
    cases hw : firstWaiting (s.ring core r).producers with
    | none => exact exec_ringReserveGrant_none hw
    | some h => rw [exec_ringReserveGrant hw, hv]; rfl
  · exact exec_ringReserveGrant_none (firstWaiting_eq_none hg)
  · rw [exec_ringReserveGrant (hp ▸ firstWaiting_middle pre post h hg hh), if_neg]
    rw [Bool.and_eq_true, Ring.reserveFits_iff]
    exact fun k => hf k.2
  · have hw := hp ▸ firstWaiting_middle pre post h hg hh
    have hfit := (Ring.reserveFits_iff _ h).mpr hf
    have hb := RingBecomes.onRing s core r Ring.grantReserve
    rw [Ring.grantReserve_fits hw hfit, hp, grantHold_middle _ pre post h hg hh] at hb
    rw [exec_ringReserveGrant hw, if_pos (by rw [hv, hfit]; rfl)]
    refine ⟨_, _, rfl, hb, ?_⟩
    cases h.thread
    · exact ((GroupsBecome.refl _ core).congr (fun q => by simp)).key
    · exact (State.wakeHold_becomes _ core r h).key
  · exact ringClaimGrant_goesOn hv (by rw [Ring.grantClaim, firstWaiting_eq_none hg])
  · have hw := hp ▸ firstWaiting_middle pre post h hg hh
    obtain ⟨t, he, hgo⟩ := ringClaimGrant_goesOn hv (Ring.grantClaim_eq hw)
    refine ⟨t, he, fun hf => ?_, fun hf => ?_⟩
    · rwa [if_neg (mt (Ring.takeFits_iff _ h).mp hf)] at hgo
    · rwa [if_pos ((Ring.takeFits_iff _ h).mpr hf), hp, grantHold_middle _ pre post h hg hh] at hgo
  · refine ringCommit_becomes hv ?_
    rw [Ring.commitAll_entry _ pre e post hown ht hd hf hout hp]
    exact Ring.popAll_none _ hc (fun f hf _ => hout f hf)
  · refine ringCommit_becomes hv ?_
    rw [Ring.commitAll_hold _ pre h post hown hg hd hf hout (fun e he _ => hp e he)]
    exact Ring.popAll_none _ hc ho
  · refine ringCommit_becomes hv ?_
    rw [Ring.commitAll, Ring.settleTail_none _ hp]
    · exact Ring.popAll_entry _ pre e post hown ht hd hf (decide_eq_true hpass) (fun f hf _ => hout f hf) hc
    · intro f hf' hft
      rw [hown] at hf'
      obtain rfl | hf' := List.mem_cons.mp (List.perm_middle.mem_iff.mp hf')
      · simp [ht] at hft
      · exact hout f hf'
  · exact congrArg Host.Outcome.next (if_neg (mt (Ring.idle_iff _).mp hb))
  · obtain ⟨t, he, hk, hm, hc, ht⟩ := ringReconfigure_becomes ((Ring.idle_iff _).mpr ⟨h1, h2⟩)
    exact ⟨t, he, hm, hc, ht, hk⟩

end Sys2Proof
end

section
/-! What a coherent write, a posted record and an event of a core's agent do to the machine (R64, R67, R73, R116, R354, R376). -/

namespace Sys2Proof.Machine
open Sys2Proof

/-! ## Folds and lists -/

/-- A fold whose steps all leave the state as it is. -/
theorem foldl_keeps {α β : Type} (f : α → β → α) (a : α) (l : List β) (h : ∀ b ∈ l, f a b = a) : l.foldl f a = a := by
  induction l with
  | nil => rfl
  | cons b l ih => rw [List.foldl_cons, h b List.mem_cons_self, ih (fun c hc => h c (List.mem_cons_of_mem _ hc))]

/-- What is read at a key is a listed entry, or the default. -/
theorem Sparse.look_mem {α : Type} (d : α) (k : Nat) : ∀ (m : Sparse α), Sparse.look d k m = d ∨ (k, Sparse.look d k m) ∈ m
  | [] => .inl rfl
  | (j, x) :: m => by
    rw [Sparse.look]
    split
    · next h => subst h; exact .inr List.mem_cons_self
    · exact (Sparse.look_mem d k m).imp_right (List.mem_cons_of_mem _)

/-- A core that is not the default one is listed. -/
theorem State.core_mem (s : State) (k : Nat) : s.core k = {} ∨ (k, s.core k) ∈ s.cores := Sparse.look_mem _ k s.cores

/-- What every core of a changed list is: the changed core or one of before. -/
theorem State.mem_cores_onCore {s : State} {k : Nat} {f : Core → Core} {p : Nat × Core} (h : p ∈ (s.onCore k f).cores) :
    p = (k, f (s.core k)) ∨ p ∈ s.cores := Sparse.of_mem_put _ _ _ _ _ h

/-! ## Stash windows that hold nothing -/

/-- No stash window of a listed core holds a line. -/
def StashEmpty (s : State) : Prop := ∀ p ∈ s.cores, ∀ l, coreStash p.2 l = []

theorem StashEmpty.core {s : State} (h : StashEmpty s) (k l : Nat) : coreStash (s.core k) l = [] := by
  obtain hd | hm := State.core_mem s k
  · rw [hd]; rfl
  · exact h _ hm l

/-- A change of a core that leaves its teams leaves its windows. -/
theorem StashEmpty.onCore {s : State} (h : StashEmpty s) (k : Nat) (f : Core → Core) (hf : (f (s.core k)).crew.teams = (s.core k).crew.teams) :
    StashEmpty (s.onCore k f) := by
  intro p hp l
  obtain rfl | hp := State.mem_cores_onCore hp
  · rw [coreStash, hf]; exact h.core k l
  · exact h p hp l

theorem NoStash.onCore {s : State} (h : NoStash s) (k : Nat) (f : Core → Core) (hf : (f (s.core k)).crew.teams = (s.core k).crew.teams) :
    NoStash (s.onCore k f) := ⟨StashEmpty.onCore h.1 k f hf, h.2⟩

/-- Without a stash line there is nothing to recall (R58). -/
theorem State.recall_none {s : State} (h : StashEmpty s) (l : Nat) (write : Bool) (e : Option (Nat × Nat × Nat × Nat)) : s.recall l write e = s :=
  foldl_keeps _ s s.cores (fun p hp => by rw [h p hp l]; rfl)

/-! ## A line given up -/

/-- The copies of some lines in the L1s of cores other than one, and their replicas, are given up; beside them only the use of islands changes. -/
structure GaveUp (core : Nat) (on : Nat → Bool) (s t : State) : Prop where
  frame : t = { s with cores := t.cores, store := t.store, plat := t.plat }
  store : t.store = { s.store with replicas := s.store.replicas.filter (fun r => !on r.1) }
  cores : ∀ k, { t.core k with caches := {} } = { s.core k with caches := {} }
  caches : ∀ k, { (t.core k).caches with l1 := [], l1own := [] } = { (s.core k).caches with l1 := [], l1own := [] }
  l1 : ∀ k l, k ≠ core → Sparse.look false l (t.core k).caches.l1 = (!on l && Sparse.look false l (s.core k).caches.l1) ∧
    Sparse.look false l (t.core k).caches.l1own = (!on l && Sparse.look false l (s.core k).caches.l1own)
  own : t.core core = s.core core
  plat : { t.plat with islands := [] } = { s.plat with islands := [] }
  islands : ∀ j, { (Sparse.look {} j t.plat.islands : Island) with since := 0, wakes := 0 } =
    { (Sparse.look {} j s.plat.islands : Island) with since := 0, wakes := 0 }
  stash : StashEmpty s → StashEmpty t

theorem GaveUp.refl (core : Nat) (s : State) : GaveUp core (fun _ => false) s s where
  frame := rfl
  store := by simp
  cores _ := rfl
  caches _ := rfl
  l1 _ _ _ := by simp
  own := rfl
  plat := rfl
  islands _ := rfl
  stash := id

theorem GaveUp.trans {core : Nat} {p q : Nat → Bool} {s t u : State} (h : GaveUp core p s t) (h' : GaveUp core q t u) :
    GaveUp core (fun l => p l || q l) s u where
  frame := by rw [h'.frame, h.frame]
  store := by
    rw [h'.store, h.store]
    simp only [List.filter_filter, Bool.not_or, Bool.and_comm]
  cores k := (h'.cores k).trans (h.cores k)
  caches k := (h'.caches k).trans (h.caches k)
  l1 k l hk := by
    rw [(h'.l1 k l hk).1, (h.l1 k l hk).1, (h'.l1 k l hk).2, (h.l1 k l hk).2]
    cases p l <;> cases q l <;> simp
  own := h'.own.trans h.own
  plat := h'.plat.trans h.plat
  islands j := (h'.islands j).trans (h.islands j)
  stash := h'.stash ∘ h.stash

theorem GaveUp.congr {core : Nat} {p q : Nat → Bool} {s t : State} (h : GaveUp core p s t) (hq : p = q) : GaveUp core q s t := hq ▸ h

/-- A line dropped twice is a line dropped. -/
theorem Core.dropLine_idem (c : Core) (l : Nat) : (c.dropLine l).dropLine l = c.dropLine l := by
  simp [Core.dropLine, Sparse.put, List.filter_filter]

theorem Core.dropLine_l1 (c : Core) (l j : Nat) : Sparse.look false j (c.dropLine l).caches.l1 = (!decide (j = l) && Sparse.look false j c.caches.l1) ∧
    Sparse.look false j (c.dropLine l).caches.l1own = (!decide (j = l) && Sparse.look false j c.caches.l1own) := by
  simp only [Core.dropLine, Sparse.look_put]
  by_cases h : j = l <;> simp [h]

/-- Does a core hold a copy of a line? -/
def Core.holds (c : Core) (l : Nat) : Bool := Sparse.look false l c.caches.l1 || Sparse.look false l c.caches.l1own

/-- The step of `State.dropL1` at a listed core. -/
def dropAt (core line : Nat) (s : State) (p : Nat × Core) : State :=
  if p.1 == core || !(Sparse.look false line p.2.caches.l1 || Sparse.look false line p.2.caches.l1own) then s
  else s.onCore p.1 (fun c => c.dropLine line)

/-- What the steps over some listed cores do: each core is as before or has dropped the line, and has if it is listed there with a copy. -/
theorem dropAt_foldl (core line : Nat) (ps : List (Nat × Core)) (s : State) :
    let t := ps.foldl (dropAt core line) s
    t = { s with cores := t.cores } ∧ t.core core = s.core core ∧
      (∀ k, t.core k = s.core k ∨ t.core k = (s.core k).dropLine line) ∧
      (∀ k c, k ≠ core → (k, c) ∈ ps → c.holds line = true → t.core k = (s.core k).dropLine line) ∧ (StashEmpty s → StashEmpty t) := by
  induction ps generalizing s with
  | nil => exact ⟨rfl, rfl, fun _ => .inl rfl, fun _ _ _ h => absurd h List.not_mem_nil, id⟩
  | cons p ps ih =>
    obtain ⟨hf, ho, hk, hd, hs⟩ := ih (dropAt core line s p)
    rw [List.foldl_cons]
    by_cases hp : (p.1 == core || !(p.2.holds line)) = true
    · rw [show dropAt core line s p = s from if_pos hp] at hf ho hk hd hs ⊢
      refine ⟨hf, ho, hk, fun k c hne hm hh => ?_, hs⟩
      obtain rfl | hm := List.mem_cons.mp hm
      · simp [hne, hh] at hp
      · exact hd k c hne hm hh
    · rw [show dropAt core line s p = s.onCore p.1 (fun c => c.dropLine line) from if_neg hp] at hf ho hk hd hs ⊢
      simp only [Bool.or_eq_true, beq_iff_eq, not_or] at hp
      have hcore (k : Nat) : (s.onCore p.1 (fun c => c.dropLine line)).core k = if k = p.1 then (s.core k).dropLine line else s.core k := by
        rw [State.core_onCore]
        split
        · next h => rw [h]
        · rfl
      refine ⟨hf.trans rfl, ho.trans ((hcore core).trans (if_neg (Ne.symm hp.1))), fun k => ?_, fun k c hne hm hh => ?_,
        fun h => hs (h.onCore _ _ rfl)⟩
      · have := hk k
        rw [hcore] at this
        split at this
        · rw [Core.dropLine_idem, or_self] at this; exact .inr this
        · exact this
      · obtain rfl | hm := List.mem_cons.mp hm
        · have := hk k
          rw [hcore, if_pos rfl, Core.dropLine_idem, or_self] at this
          exact this
        · rw [hd k c hne hm hh, hcore]
          split
          · exact Core.dropLine_idem _ _
          · rfl

/-- The replicas of a line given up. -/
def State.giveUpReplicas (s : State) (line : Nat) : State := s.onStore (fun t => { t with replicas := t.replicas.filter (fun r => r.1 != line) })

theorem State.dropL1_eq (s : State) (core line : Nat) : s.dropL1 core line = s.cores.foldl (dropAt core line) (s.giveUpReplicas line) := by
  have h : (if s.store.replicas.isEmpty then s else s.giveUpReplicas line) = s.giveUpReplicas line := by
    split
    · next h =>
      rw [List.isEmpty_iff] at h
      rw [State.giveUpReplicas, State.onStore, h, List.filter_nil, ← h]
    · rfl
  exact (congrArg (fun u : State => u.cores.foldl (dropAt core line) u) h).trans rfl

/-- Every other core's copy of a line and its replicas go (R64, R67). -/
theorem State.dropL1_gaveUp (s : State) (core line : Nat) : GaveUp core (fun l => decide (l = line)) s (s.dropL1 core line) := by
  rw [State.dropL1_eq]
  obtain ⟨hf, ho, hk, hd, hs⟩ := dropAt_foldl core line s.cores (s.giveUpReplicas line)
  have hc (k : Nat) : (s.giveUpReplicas line).core k = s.core k := rfl
  simp only [hc] at ho hk hd
  refine ⟨hf.trans ?_, ?_, fun k => ?_, fun k => ?_, fun k l hne => ?_, ho, by rw [hf]; rfl, fun j => by rw [hf]; rfl, fun h => hs h⟩
  · rw [hf]; rfl
  · rw [hf]
    simp only [State.giveUpReplicas, State.onStore, bne, beq_eq_decide]
  · exact (hk k).elim (fun h => by rw [h]) (fun h => by rw [h]; rfl)
  · exact (hk k).elim (fun h => by rw [h]) (fun h => by rw [h]; rfl)
  · have hdrop := Core.dropLine_l1 (s.core k) line l
    obtain h | h := hk k
    · rw [h]
      by_cases hl : l = line
      · subst hl
        by_cases hh : (s.core k).holds l = true
        · obtain hz | hm := State.core_mem s k
          · rw [hz] at hh; exact absurd hh (by simp [Core.holds, Sparse.look])
          · rwa [← h.symm.trans (hd k _ hne hm hh)] at hdrop
        · simp only [Core.holds, Bool.or_eq_true, not_or, Bool.not_eq_true] at hh
          simp [hh.1, hh.2]
      · simp [hl]
    · rw [h]; exact hdrop

/-- The use of a slice's island. -/
theorem State.useSlice_gaveUp (s : State) (core p : Nat) : GaveUp core (fun _ => false) s (s.useSlice p) := by
  rw [State.useSlice]
  split
  · refine { GaveUp.refl core s with plat := rfl, frame := rfl, islands := fun j => ?_ }
    simp only [Sparse.look_upd]
    split
    · next h =>
      subst h
      rw [Island.use]
      split <;> [rfl; split <;> rfl]
    · rfl
  · exact GaveUp.refl core s

/-- The lines of a coherent write recalled, dropped and used, one after another (R58, R64, R67). -/
theorem State.giveUpLines_gaveUp (core : Nat) (e : Option (Nat × Nat × Nat × Nat)) (ls : List Nat) (s : State) (h : StashEmpty s) :
    GaveUp core (fun l => ls.contains l) s (ls.foldl (fun s l => ((s.recall l true e).dropL1 core l).useSlice l) s) := by
  induction ls generalizing s with
  | nil => exact (GaveUp.refl core s).congr (by funext l; simp)
  | cons l ls ih =>
    have h1 := (State.dropL1_gaveUp s core l).trans (State.useSlice_gaveUp (s.dropL1 core l) core l)
    rw [List.foldl_cons, State.recall_none h]
    refine (h1.trans (ih _ (h1.stash h))).congr ?_
    funext j
    simp

/-! ## Bytes performed -/

/-- Bytes stored one after another: each place holds the last byte stored there. -/
theorem Memory.byte_puts (p : Nat) : ∀ (bs : List (Nat × Byte)) (m : Memory),
    Memory.byte (bs.foldl (fun m b => Sparse.put 0#8 b.1 b.2 m) m) p = ((bs.reverse.find? (fun b => b.1 == p)).map Prod.snd).getD (m.byte p)
  | [], m => rfl
  | b :: bs, m => by
    rw [List.foldl_cons, Memory.byte_puts p bs, List.reverse_cons, List.find?_append]
    cases h : bs.reverse.find? (fun b => b.1 == p) with
    | some c => rfl
    | none =>
      simp only [Option.map_none, Option.getD_none, Option.none_or, List.find?_cons, List.find?_nil, Memory.byte, Sparse.look_put]
      by_cases hb : b.1 = p
      · simp [hb]
      · simp [hb, Ne.symm hb, beq_eq_decide]

/-- A granule is clean after a write of clean bytes exactly where they cover it whole, or it was clean (R73). -/
theorem poisonAfter_clean (m : Sparse Bool) (ps qs : List Nat) (g : Nat) :
    Sparse.look false g (ps.foldl (fun m p => if (List.range 32).all (fun i => qs.contains (32 * (p / 32) + i)) then Sparse.put false (p / 32) false m else m) m) =
      (Sparse.look false g m && !(ps.any (fun p => p / 32 == g) && (List.range 32).all (fun i => qs.contains (32 * g + i)))) := by
  induction ps generalizing m with
  | nil => simp
  | cons p ps ih =>
    rw [List.foldl_cons, ih, List.any_cons]
    by_cases hg : p / 32 = g
    · subst hg
      split
      · next h => rw [h]; simp
      · next h => rw [Bool.eq_false_iff.mpr h]; simp
    · rw [beq_eq_false_iff_ne.mpr hg, Bool.false_or]
      split
      · rw [Sparse.look_put, if_neg (Ne.symm hg)]
      · rfl

theorem look_poisonAfter (m : Sparse Bool) (bs : List (Nat × Byte)) (g : Nat) :
    Sparse.look false g (poisonAfter m (bs.map Prod.fst) false) =
      (Sparse.look false g m && !(List.range 32).all (fun i => bs.any (fun b => b.1 == 32 * g + i))) := by
  have hc (a : Nat) : (bs.map Prod.fst).contains a = bs.any (fun b => b.1 == a) := by
    induction bs with
    | nil => rfl
    | cons b bs ih => rw [List.map_cons, List.contains_cons, ih, List.any_cons, beq_eq_decide, beq_eq_decide, decide_eq_decide.mpr eq_comm]
  have hm : poisonAfter m (bs.map Prod.fst) false = (bs.map Prod.fst).foldl (fun m p =>
      if (List.range 32).all (fun i => (bs.map Prod.fst).contains (32 * (p / 32) + i)) then Sparse.put false (p / 32) false m else m) m := rfl
  rw [hm, poisonAfter_clean]
  simp only [hc]
  by_cases h : ((List.range 32).all fun i => bs.any fun b => b.1 == 32 * g + i) = true
  · have h0 : bs.any (fun b => b.1 == 32 * g + 0) = true := List.all_eq_true.mp h 0 (by decide)
    obtain ⟨b, hb, hbg⟩ := List.any_eq_true.mp h0
    have hp : (bs.map Prod.fst).any (fun p => p / 32 == g) = true :=
      List.any_eq_true.mpr ⟨b.1, List.mem_map_of_mem hb, by rw [beq_iff_eq] at hbg ⊢; omega⟩
    rw [h, hp, Bool.and_self]
  · rw [Bool.eq_false_iff.mpr h, Bool.and_false]

/-- With no link lost every package is reached (R377). -/
theorem cutOff_none {s : State} (h : lostLinks s = []) (p : Nat) : cutOff s p = none := by
  simp [cutOff, noPathTo, h]

/-- With no link lost every byte is written. -/
theorem State.perform_eq {s : State} (h : lostLinks s = []) (bs : List (Nat × Byte)) (poisoned : Bool) :
    s.perform bs poisoned = s.onStore (fun t => { t with
      mem := bs.foldl (fun m b => Sparse.put 0#8 b.1 b.2 m) t.mem
      poison := if t.poison.isEmpty && !poisoned then t.poison else poisonAfter t.poison (bs.map Prod.fst) poisoned }) := by
  have hl : (bs.filterMap (fun b => cutOff s b.1)) = [] := by simp [cutOff_none h]
  simp only [State.perform, hl, List.dedup_nil, List.isEmpty_nil, if_true, List.append_nil]

theorem lostLinks_eq {s t : State} (h : { t.plat with islands := [] } = { s.plat with islands := [] }) : lostLinks t = lostLinks s := by
  have : ({ t.plat with islands := [] } : Platform).links = ({ s.plat with islands := [] } : Platform).links := by rw [h]
  rw [lostLinks, lostLinks, this]

/-- A clean coherent write: the bytes stand in memory, every other copy of their lines is given up, and granules written whole are clean. -/
theorem State.coherentWrite_clean {s : State} (h : NoStash s) (core : Nat) (bs : List (Nat × Byte)) (e : Option (Nat × Nat × Nat × Nat)) :
    ∃ u, GaveUp core (fun l => bs.any (fun b => lineOf b.1 == l)) s u ∧ s.coherentWrite core bs false e = u.onStore (fun t => { t with
      mem := bs.foldl (fun m b => Sparse.put 0#8 b.1 b.2 m) t.mem
      poison := if t.poison.isEmpty && !false then t.poison else poisonAfter t.poison (bs.map Prod.fst) false }) := by
  have hg := State.giveUpLines_gaveUp core e ((bs.map (fun b => lineOf b.1)).dedup) s h.1
  refine ⟨_, hg.congr ?_, State.perform_eq ((lostLinks_eq hg.plat).trans h.2) bs false⟩
  funext l
  rw [Bool.eq_iff_iff]
  simp

theorem State.coherentWrite_wrote {s : State} (h : NoStash s) (bs : List (Nat × Byte)) (e : Option (Nat × Nat × Nat × Nat)) :
    Wrote s (s.coherentWrite noCore bs false e) bs ∧ NoStash (s.coherentWrite noCore bs false e) := by
  obtain ⟨u, hu, he⟩ := State.coherentWrite_clean h noCore bs e
  rw [he]
  have hp : u.store.poison = s.store.poison := by rw [hu.store]
  refine ⟨⟨?_, fun p => ?_, fun g => ?_, ?_, hu.cores, hu.caches, hu.l1, hu.plat, hu.islands⟩, hu.stash h.1, (lostLinks_eq hu.plat).trans h.2⟩
  · rw [hu.frame]; rfl
  · rw [← show u.store.mem = s.store.mem by rw [hu.store]]
    exact Memory.byte_puts p bs _
  · rw [← hp]
    by_cases hz : u.store.poison = []
    · simp [State.onStore, hz, Sparse.look_nil]
    · refine (congrArg (Sparse.look false g) (if_neg ?_)).trans (look_poisonAfter _ bs g)
      simp [hz]
  · simp only [State.onStore, hu.store]

/-! ## Records posted -/

/-- What a write from outside did is the same beside another host. -/
theorem Wrote.withHost {s t : State} {bs : List (Nat × Byte)} (h : Wrote s t bs) (x : HostSide) : Wrote { s with host := x } { t with host := x } bs := by
  obtain ⟨hf, hrest⟩ := h
  exact ⟨by rw [hf], hrest⟩

/-- The bytes of a host write at their places. -/
theorem hostBytes_eq (a : Nat) (bs : List Byte) : ((List.range bs.length).zip bs).map (fun p => (2 ^ 60 + a + p.1, p.2)) =
    (List.range bs.length).zipWith (fun i b => (2 ^ 60 + a + i, b)) bs := by
  rw [List.zip, List.map_zipWith]

theorem State.hostWrite_wrote {s : State} (h : NoStash s) (a : Nat) (bs : List Byte) :
    Wrote s (s.hostWrite a bs) ((List.range bs.length).zipWith (fun i b => (2 ^ 60 + a + i, b)) bs) ∧ NoStash (s.hostWrite a bs) := by
  rw [State.hostWrite, hostBytes_eq]
  exact State.coherentWrite_wrote h _ none

theorem State.evq_onEvq (s : State) (n : Nat) (f : EventQueue → EventQueue) (m : Nat) :
    (s.onEvq n f).evq m = if m = n then f (s.evq n) else s.evq m := Sparse.look_upd _ _ _ _ _

/-- The ring of an event queue has room, after a reading of the host's read index if it seemed full (R376). -/
def State.evSeen (s : State) (n : Nat) : Nat :=
  if 2 ^ (s.evq n).log2n ≤ (s.evq n).widx - (s.evq n).seen then s.hostRead ((s.evq n).index + 16) 8 else (s.evq n).seen

/-- The event queue with the read index as just read. -/
def State.evRead (s : State) (n : Nat) : State :=
  if 2 ^ (s.evq n).log2n ≤ (s.evq n).widx - (s.evq n).seen then s.onEvq n (fun e => { e with seen := s.hostRead (e.index + 16) 8 }) else s

theorem State.evRead_evq (s : State) (n m : Nat) : (s.evRead n).evq m = if m = n then { s.evq n with seen := s.evSeen n } else s.evq m := by
  rw [State.evRead, State.evSeen]
  split
  · rw [State.evq_onEvq]
  · split
    · next h => rw [h]
    · rfl

theorem State.evRead_frame (s : State) (n : Nat) : ∃ es, s.evRead n = { s with host := { s.host with evqs := es } } := by
  rw [State.evRead]
  split <;> exact ⟨_, rfl⟩

theorem State.postEvent_live {s : State} {n : Nat} (h : (s.evq n).live = true) (bs : List Byte) : s.postEvent n bs =
    if 2 ^ (s.evq n).log2n ≤ (s.evq n).widx - s.evSeen n then
      (s.evRead n).hostWrite ((s.evq n).index + 8) (leBytes 8 (s.hostRead ((s.evq n).index + 8) 8 + 1))
    else
      (((s.evRead n).hostWrite ((s.evq n).base + 64 * ((s.evq n).widx % 2 ^ (s.evq n).log2n)) bs).hostWrite (s.evq n).index
        (leBytes 8 ((s.evq n).widx + 1))).onEvq n (fun e => { e with widx := e.widx + 1, msgs := e.msgs + 1 }) := by
  have he : (s.evRead n).evq n = { s.evq n with seen := s.evSeen n } := by rw [State.evRead_evq, if_pos rfl]
  have hr : (s.evRead n).hostRead ((s.evq n).index + 8) 8 = s.hostRead ((s.evq n).index + 8) 8 := by
    obtain ⟨es, hes⟩ := State.evRead_frame s n
    rw [hes]; rfl
  have hp : s.postEvent n bs = if 2 ^ (s.evq n).log2n ≤ ((s.evRead n).evq n).widx - ((s.evRead n).evq n).seen then
      (s.evRead n).hostWrite (((s.evRead n).evq n).index + 8) (leBytes 8 ((s.evRead n).hostRead (((s.evRead n).evq n).index + 8) 8 + 1))
    else
      (((s.evRead n).hostWrite (((s.evRead n).evq n).base + 64 * (((s.evRead n).evq n).widx % 2 ^ (s.evq n).log2n)) bs).hostWrite
        ((s.evRead n).evq n).index (leBytes 8 (((s.evRead n).evq n).widx + 1))).onEvq n (fun e => { e with widx := e.widx + 1, msgs := e.msgs + 1 }) := by
    rw [State.postEvent, if_neg (by simp [h])]
    rfl
  rw [hp, he, hr]

/-- A record posted to an event queue of the host (R376). -/
theorem State.postEvent_posted {s : State} (h : NoStash s) (n : Nat) (bs : List Byte) : Posted s (s.postEvent n bs) n bs := by
  obtain ⟨es, hes⟩ := State.evRead_frame s n
  have hseen : ∀ m, (s.evRead n).evq m = if m = n then { s.evq n with seen := s.evSeen n } else s.evq m := State.evRead_evq s n
  have hns : NoStash (s.evRead n) := by rw [hes]; exact h
  refine ⟨fun hl => ?_, fun hl hroom => ?_, fun hl hfull => ?_⟩
  · rw [State.postEvent]
    exact if_pos (by simp [hl])
  · have hpost := State.postEvent_live hl bs
    rw [if_neg (by rw [Nat.not_le]; exact hroom)] at hpost
    obtain ⟨w1, n1⟩ := State.hostWrite_wrote hns ((s.evq n).base + 64 * ((s.evq n).widx % 2 ^ (s.evq n).log2n)) bs
    obtain ⟨w2, n2⟩ := State.hostWrite_wrote n1 (s.evq n).index (leBytes 8 ((s.evq n).widx + 1))
    generalize he1 : (s.evRead n).hostWrite ((s.evq n).base + 64 * ((s.evq n).widx % 2 ^ (s.evq n).log2n)) bs = v1 at *
    generalize he2 : v1.hostWrite (s.evq n).index (leBytes 8 ((s.evq n).widx + 1)) = v2 at *
    have hh1 : v1.host = (s.evRead n).host := by rw [w1.1]
    have hh2 : v2.host = (s.evRead n).host := by rw [w2.1]; exact hh1
    have hev (m : Nat) : v2.evq m = (s.evRead n).evq m := by rw [State.evq, hh2]; rfl
    refine ⟨⟨?_, fun m => ?_⟩, { v1 with host := (s.postEvent n bs).host }, ?_, ?_⟩
    · rw [hpost]
      simp only [State.onEvq, State.onHost, hh2, hes]
    · rw [hpost, State.evq_onEvq, hev, hseen, if_pos rfl, hev, hseen]
      by_cases hm : m = n <;> simp [hm, State.evSeen]
    · have hw := Wrote.withHost w1 (s.postEvent n bs).host
      rw [hes] at hw
      exact hw
    · have hw := Wrote.withHost w2 (s.postEvent n bs).host
      rwa [show ({ v2 with host := (s.postEvent n bs).host } : State) = s.postEvent n bs by rw [hpost]; rfl] at hw
  · have hpost := State.postEvent_live hl bs
    rw [if_pos (show 2 ^ (s.evq n).log2n ≤ (s.evq n).widx - s.evSeen n from hfull)] at hpost
    obtain ⟨w, -⟩ := State.hostWrite_wrote hns ((s.evq n).index + 8) (leBytes 8 (s.hostRead ((s.evq n).index + 8) 8 + 1))
    rw [← hpost] at w
    have hh : (s.postEvent n bs).host = (s.evRead n).host := by rw [w.1]
    have hev (m : Nat) : (s.postEvent n bs).evq m = (s.evRead n).evq m := by rw [State.evq, hh]; rfl
    refine ⟨⟨?_, fun m => ?_⟩, ?_⟩
    · rw [hh, hes]
    · rw [hev, hseen]
      by_cases hm : m = n <;> simp [hm, State.evSeen]
    · have hw := Wrote.withHost w (s.postEvent n bs).host
      rw [hes] at hw
      exact hw

/-! ## Events of an agent -/

/-- The state with an agent's event counted and made pending, before its record is posted. -/
def State.agentPends (s : State) (core code : Nat) : State :=
  (s.onCore core (fun c => { c with recSeq := (c.recSeq + 1) % 2 ^ 32 })).pend core (classOf code false)

theorem State.agentPends_core (s : State) (core code k : Nat) : (s.agentPends core code).core k = if k = core then
    { s.core k with recSeq := ((s.core k).recSeq + 1) % 2 ^ 32
                    agent := { (s.core k).agent with events := (s.core k).agent.events ++ [classOf code false], halted := false } } else s.core k := by
  rw [State.agentPends, State.pend, State.core_onCore]
  split
  · next h => subst h; rw [State.core_onCore, if_pos rfl]
  · next h => rw [State.core_onCore, if_neg h]

/-- The lowest live event queue. -/
theorem State.anyEvq_none {s : State} (h : ∀ p ∈ s.host.evqs, p.2.live = false) : s.anyEvq = none := by
  rw [State.anyEvq, List.find?_eq_none.mpr (fun p hp => by simp [h p hp])]
  rfl

theorem State.anyEvq_some {s : State} {pre post : Sparse EventQueue} {n : Nat} {e : EventQueue} (h : s.host.evqs = pre ++ (n, e) :: post)
    (hl : e.live = true) (hp : ∀ p ∈ pre, p.2.live = false) : s.anyEvq = some n := by
  rw [State.anyEvq, h, List.find?_append, List.find?_eq_none.mpr (fun p h => by simp [hp p h])]
  simp [hl]

/-- The bytes of a record of a core's agent about a structure (R355). -/
theorem Rec.bytes_agent (core code : Nat) (aux : DWord) (seq now : Nat) (hc : classOf code false = 5) (hi : hasInfo code = false) :
    ({ stop := { code := code, aux := aux }, aid := coreAid core 8, cid := 0, seq := seq, pc := 0 : Rec }.bytes now) =
      leBytes 8 ((coreAid core 8).toNat * 2 ^ 32 + 5) ++ leBytes 8 0 ++ leBytes 8 (seq % 2 ^ 32 * 2 ^ 32) ++
        leBytes 8 (code * 2 ^ 56) ++ leBytes 16 0 ++ leBytes 8 now ++ leBytes 8 aux.toNat := by
  have hb : ({ stop := { code := code, aux := aux }, aid := coreAid core 8, cid := 0, seq := seq, pc := 0 : Rec }.bytes now) =
      leBytes 8 ((coreAid core 8).toNat * 2 ^ 32 + 0 % 2 ^ 16 * 2 ^ 16 + 0 + 0 + 0 % 256 * 16 + classOf code false) ++ leBytes 8 (0 : DWord).toNat ++
        leBytes 8 (seq % 2 ^ 32 * 2 ^ 32 + 0 % 256) ++
        leBytes 8 ((if hasInfo code then (0 : Word).toNat else code * 2 ^ 24) * 2 ^ 32 + (0 : BitVec 32).toNat) ++ leBytes 16 (0 : BitVec 128).toNat ++
        leBytes 8 now ++ leBytes 8 (if hasInfo code then code * 2 ^ 56 + aux.toNat % 2 ^ 56 else aux.toNat) := by
    simp only [Rec.bytes, Bool.false_eq_true, if_false]
  have h0 (a : Nat) : a * 2 ^ 32 + 0 % 2 ^ 16 * 2 ^ 16 + 0 + 0 + 0 % 256 * 16 + 5 = a * 2 ^ 32 + 5 := by omega
  have h2 : seq % 2 ^ 32 * 2 ^ 32 + 0 % 256 = seq % 2 ^ 32 * 2 ^ 32 := by rw [Nat.zero_mod, Nat.add_zero]
  have h3 : code * 2 ^ 24 * 2 ^ 32 + 0 = code * 2 ^ 56 := by norm_num [Nat.mul_assoc]
  rw [hb, hc, hi, h0, h2, if_neg Bool.false_ne_true, if_neg Bool.false_ne_true, show (0 : DWord).toNat = 0 from rfl,
    show (0 : BitVec 32).toNat = 0 from rfl, show (0 : BitVec 128).toNat = 0 from rfl, h3]

/-- An event of class 5 of a core's agent goes out (R74, R354, R355). -/
theorem State.agentEvent_told {s : State} (h : NoStash s) (core code : Nat) (aux : DWord) (hc : classOf code false = 5) (hi : hasInfo code = false) :
    AgentTold s (s.agentEvent core code aux 0) core code aux := by
  have he : s.agentEvent core code aux 0 = match (s.agentPends core code).anyEvq with
      | none => s.agentPends core code
      | some e => (s.agentPends core code).postEvent e
        ({ stop := { code := code, aux := aux }, aid := coreAid core 8, cid := 0, seq := (s.core core).recSeq, pc := 0 : Rec }.bytes s.now) := rfl
  refine ⟨s.agentPends core code, rfl, fun k => hc ▸ State.agentPends_core s core code k, fun hd => ?_, fun pre n e post hev hl hp => ?_⟩
  · rw [he, State.anyEvq_none (s := s.agentPends core code) hd]
  · rw [he, State.anyEvq_some (s := s.agentPends core code) hev hl hp]
    have hns : NoStash (s.agentPends core code) := NoStash.onCore (NoStash.onCore h _ _ rfl) _ _ rfl
    have hpost := State.postEvent_posted hns n
      ({ stop := { code := code, aux := aux }, aid := coreAid core 8, cid := 0, seq := (s.core core).recSeq, pc := 0 : Rec }.bytes s.now)
    have hb := Rec.bytes_agent core code aux (s.core core).recSeq s.now hc hi
    exact (congrArg (Posted _ _ n) hb).mp hpost

end Sys2Proof.Machine
end

section
/-! What the end of a command does: its lines, its claims on rings and its flag (R51, R133, R303). -/

namespace Sys2Proof.Machine
open Sys2Proof

/-- What does not read the fields that two values are compared without is the same of both. -/
theorem eq_of_without {α β : Type} (g : α → α) (p : α → β) (hp : ∀ a, p (g a) = p a) {a b : α} (h : g a = g b) : p a = p b := by
  rw [← hp a, h, hp b]

/-! ## Claims on rings -/

/-- The holds of a ring. -/
def Ring.holds (x : Ring) : List RingHold := x.producers ++ x.consumers

/-- Is a hold that of a command with one of the keys? -/
def RingHold.keyed (keys : List Nat) (h : RingHold) : Bool := !h.thread && keys.contains h.cmd

/-- Settling takes holds away and adds none. -/
theorem Ring.settleTail_sub (fuel : Nat) (x : Ring) : (∀ h ∈ (x.settleTail fuel).producers, h ∈ x.producers) ∧ (x.settleTail fuel).consumers = x.consumers := by
  induction fuel generalizing x with
  | zero => exact ⟨fun _ h => h, rfl⟩
  | succ fuel ih =>
    rw [Ring.settleTail]
    split
    · exact ⟨fun h hh => List.mem_of_mem_erase ((ih _).1 h hh), (ih _).2⟩
    · split
      · exact ih _
      · exact ⟨fun _ h => h, rfl⟩

theorem Ring.settleHead_sub (fuel : Nat) (x : Ring) : (∀ h ∈ (x.settleHead fuel).consumers, h ∈ x.consumers) ∧ (x.settleHead fuel).producers = x.producers := by
  induction fuel generalizing x with
  | zero => exact ⟨fun _ h => h, rfl⟩
  | succ fuel ih =>
    rw [Ring.settleHead]
    split
    · exact ⟨fun h hh => List.mem_of_mem_erase ((ih _).1 h hh), (ih _).2⟩
    · split
      · exact ih _
      · exact ⟨fun _ h => h, rfl⟩

/-- The holds of a settled ring are holds of before. -/
theorem Ring.settled_sub (x : Ring) : ∀ h ∈ x.commitAll.popAll.holds, h ∈ x.holds := by
  have hp : x.commitAll.popAll.producers = x.commitAll.producers := (Ring.settleHead_sub _ x.commitAll).2
  have hc : x.commitAll.consumers = x.consumers := (Ring.settleTail_sub _ x).2
  intro h hh
  rw [Ring.holds, hp] at hh
  rw [Ring.holds, List.mem_append]
  refine (List.mem_append.mp hh).imp (fun hm => (Ring.settleTail_sub _ x).1 h hm) (fun hm => ?_)
  rw [← hc]
  exact (Ring.settleHead_sub _ x.commitAll).1 h hm

/-- What the holds of a command on a ring may become: without one the ring stays; else it stays or they are all done. -/
def HoldsEnd (keys : List Nat) (x y : Ring) : Prop :=
  (x.holds.any (RingHold.keyed keys) = false → y = x) ∧ (y = x ∨ ∀ h ∈ y.holds, h.keyed keys = true → h.done = true)

theorem HoldsEnd.refl (keys : List Nat) (x : Ring) : HoldsEnd keys x x := ⟨fun _ => rfl, .inl rfl⟩

theorem HoldsEnd.trans {keys : List Nat} {x y z : Ring} (h : HoldsEnd keys x y) (h' : HoldsEnd keys y z) : HoldsEnd keys x z := by
  refine ⟨fun hn => ?_, ?_⟩
  · have hy := h.1 hn
    subst hy
    exact h'.1 hn
  · obtain rfl | hz := h'.2
    · exact h.2
    · exact .inr hz

theorem Ring.dropHolds_done (x : Ring) (keys : List Nat) : ∀ h ∈ (x.dropHolds keys).holds, h.keyed keys = true → h.done = true := by
  have hk (h : RingHold) : (!h.thread && keys.contains h.cmd) = h.keyed keys := rfl
  simp only [Ring.dropHolds, hk]
  split
  · intro h hh hm
    have hh := Ring.settled_sub _ h hh
    rw [Ring.holds, ← List.map_append, List.mem_map] at hh
    obtain ⟨g, -, rfl⟩ := hh
    split
    · rfl
    · next hg => rw [if_neg hg] at hm; exact absurd hm hg
  · next hn =>
    intro h hh hm
    exact absurd (List.any_eq_true.mpr ⟨h, hh, hm⟩) hn

theorem Ring.dropHolds_none (x : Ring) (keys : List Nat) (h : x.holds.any (RingHold.keyed keys) = false) : x.dropHolds keys = x :=
  if_neg (by simpa [Ring.holds, RingHold.keyed] using h)

theorem Ring.dropHolds_ends (x : Ring) (keys : List Nat) : HoldsEnd keys x (x.dropHolds keys) :=
  ⟨x.dropHolds_none keys, .inr (x.dropHolds_done keys)⟩

/-- Of the machine only rings changed, as the end of a command with these keys changes them. -/
structure RingsEnd (keys : List Nat) (s t : State) : Prop where
  frame : t = { s with cores := t.cores }
  cores : ∀ k, { t.core k with rings := [] } = { s.core k with rings := [] }
  rings : ∀ k r, HoldsEnd keys (s.ring k r) (t.ring k r)

theorem RingsEnd.refl (keys : List Nat) (s : State) : RingsEnd keys s s := ⟨rfl, fun _ => rfl, fun _ _ => .refl _ _⟩

theorem RingsEnd.trans {keys : List Nat} {s t u : State} (h : RingsEnd keys s t) (h' : RingsEnd keys t u) : RingsEnd keys s u :=
  ⟨by rw [h'.frame, h.frame], fun k => (h'.cores k).trans (h.cores k), fun k r => (h.rings k r).trans (h'.rings k r)⟩

theorem RingsEnd.onRing (keys : List Nat) (s : State) (k r : Nat) : RingsEnd keys s (s.onRing k r (fun x => x.dropHolds keys)) where
  frame := rfl
  cores := State.core_onCore_of (fun c => { c with rings := [] }) s k _ rfl
  rings j q := by
    rw [State.ring_onRing]
    split
    · next h => rw [h.1, h.2]; exact Ring.dropHolds_ends _ keys
    · exact .refl _ _

/-- The rings whose listed entry has a hold of the command, ended one after another. -/
def endRings (keys : List Nat) (k : Nat) (s : State) (r : Nat × Ring) : State :=
  if r.2.holds.any (RingHold.keyed keys) then s.onRing k r.1 (fun x => x.dropHolds keys) else s

theorem endRings_foldl (keys : List Nat) (k : Nat) (rs : List (Nat × Ring)) (s : State) :
    RingsEnd keys s (rs.foldl (endRings keys k) s) ∧ ∀ r ∈ rs, r.2.holds.any (RingHold.keyed keys) = true →
      ∀ h ∈ ((rs.foldl (endRings keys k) s).ring k r.1).holds, h.keyed keys = true → h.done = true := by
  induction rs generalizing s with
  | nil => exact ⟨.refl _ _, fun _ h => absurd h List.not_mem_nil⟩
  | cons r rs ih =>
    have h1 : RingsEnd keys s (endRings keys k s r) := by
      rw [endRings]
      split
      · exact .onRing keys s k r.1
      · exact .refl _ _
    obtain ⟨hr, hl⟩ := ih (endRings keys k s r)
    refine ⟨h1.trans hr, fun q hq ha => ?_⟩
    obtain rfl | hq := List.mem_cons.mp hq
    · obtain he | hd := (hr.rings k q.1).2
      · rw [List.foldl_cons, he, endRings, if_pos ha, State.ring_onRing_same]
        exact Ring.dropHolds_done _ keys
      · exact hd
    · exact hl q hq ha

theorem endRings_cores (keys : List Nat) (ps : List (Nat × Core)) (s : State) :
    RingsEnd keys s (ps.foldl (fun s p => p.2.rings.foldl (endRings keys p.1) s) s) ∧ ∀ p ∈ ps, ∀ r ∈ p.2.rings,
      r.2.holds.any (RingHold.keyed keys) = true →
      ∀ h ∈ ((ps.foldl (fun s p => p.2.rings.foldl (endRings keys p.1) s) s).ring p.1 r.1).holds, h.keyed keys = true → h.done = true := by
  induction ps generalizing s with
  | nil => exact ⟨.refl _ _, fun _ h => absurd h List.not_mem_nil⟩
  | cons p ps ih =>
    obtain ⟨h1, l1⟩ := endRings_foldl keys p.1 p.2.rings s
    obtain ⟨h2, l2⟩ := ih (p.2.rings.foldl (endRings keys p.1) s)
    refine ⟨h1.trans h2, fun q hq r hr ha => ?_⟩
    obtain rfl | hq := List.mem_cons.mp hq
    · obtain he | hd := (h2.rings q.1 r.1).2
      · rw [List.foldl_cons, he]
        exact l1 r hr ha
      · exact hd
    · exact l2 q hq r hr ha

/-- The holds of a command dropped (R51): rings without one stay, and on every ring those that stay are done. -/
theorem State.dropHolds_ends (s : State) (keys : List Nat) : RingsEnd keys s (s.dropHolds keys) ∧
    ∀ k r, ∀ h ∈ ((s.dropHolds keys).ring k r).holds, h.keyed keys = true → h.done = true := by
  obtain ⟨he, hl⟩ := endRings_cores keys s.cores s
  refine ⟨he, fun k r => ?_⟩
  obtain hsame | hd := (he.rings k r).2
  · by_cases ha : (s.ring k r).holds.any (RingHold.keyed keys) = true
    · have hne : s.ring k r ≠ {} := fun hz => by rw [hz] at ha; exact absurd ha (by simp [Ring.holds])
      have hm : (r, s.ring k r) ∈ (s.core k).rings := (Sparse.look_mem ({} : Ring) r (s.core k).rings).resolve_left hne
      have hc : (k, s.core k) ∈ s.cores := (State.core_mem s k).resolve_left (fun hz => by rw [hz] at hm; exact List.not_mem_nil hm)
      exact hl _ hc _ hm ha
    · have hs : (s.dropHolds keys).ring k r = s.ring k r := hsame
      rw [hs]
      exact fun h hh hk => absurd (List.any_eq_true.mpr ⟨h, hh, hk⟩) ha
  · exact hd

/-! ## A command that leaves -/

/-- The keys of a command's holds. -/
def Cmd.keys (core : Nat) (d : Cmd) : List Nat := if unitOf d.op = 1 then [holdKey core d.id] else [claimKey core d.id 0, claimKey core d.id 1]

theorem State.tellCut_nil {s : State} (h : s.store.cut = []) : s.tellCut = s := by
  rw [State.tellCut, h]
  rfl

theorem State.dropCmd_eq {s : State} (hc : s.store.cut = []) (core : Nat) (d : Cmd) : s.dropCmd core d =
    ((s.onCore core (fun c => { c with cmds := c.cmds.filter (fun x => x.id != d.id) })).disown core d.id).dropHolds (d.keys core) := by
  have hk : (if (unitOf d.op == 1) = true then [holdKey core d.id] else [claimKey core d.id 0, claimKey core d.id 1]) = d.keys core :=
    if_congr beq_iff_eq rfl rfl
  have he := (State.dropHolds_ends ((s.onCore core (fun c => { c with cmds := c.cmds.filter (fun x => x.id != d.id) })).disown core d.id) (d.keys core)).1
  rw [State.dropCmd]
  simp only [hk]
  exact State.tellCut_nil (by rw [he.frame]; exact hc)

/-- A command that leaves its core gives up its lines and its holds, and no core's storage and no flag changes (R133, R303). -/
theorem State.dropCmd_leaves {s : State} (hc : s.store.cut = []) (core : Nat) (d : Cmd) :
    CmdLeaves s (s.dropCmd core d) core d ∧ ∀ k, ((s.dropCmd core d).core k).store = (s.core k).store ∧
      ((s.dropCmd core d).core k).flags = (s.core k).flags := by
  rw [State.dropCmd_eq hc]
  generalize hu : (s.onCore core (fun c => { c with cmds := c.cmds.filter (fun x => x.id != d.id) })).disown core d.id = u
  obtain ⟨he, hd⟩ := State.dropHolds_ends u (d.keys core)
  have huc (k : Nat) : u.core k = if k = core then { s.core k with cmds := (s.core k).cmds.filter (fun x => x.id != d.id) } else s.core k := by
    rw [← hu]
    refine (State.core_onCore s core k (fun c => { c with cmds := c.cmds.filter (fun x => x.id != d.id) })).trans ?_
    split
    · next h => rw [h]
    · rfl
  have hring (k r : Nat) : u.ring k r = s.ring k r := by
    rw [State.ring, huc]
    split <;> rfl
  have hut : u = { s with cores := u.cores, store := u.store } := by rw [← hu]; rfl
  have hstore : u.store = { s.store with owners := s.store.owners.filter (fun o => !(o.unit == core && o.cmd == d.id)) } := by rw [← hu]; rfl
  have hgroups (k : Nat) : (u.core k).groups = (s.core k).groups := by rw [huc]; split <;> rfl
  have hpart {α : Type} (p : Core → α) (hp : ∀ c : Core, p { c with rings := [] } = p c) (k : Nat) :
      p ((u.dropHolds (d.keys core)).core k) = p (u.core k) := by
    rw [← hp, he.cores k, hp]
  refine ⟨⟨fun v => ?_, ?_, ?_, fun k => ?_, fun k hk => ⟨?_, ?_, ?_⟩, ?_, fun k r => ⟨fun hn => ?_, fun h hh ht hm => ?_⟩⟩, fun k => ⟨?_, ?_⟩⟩
  · refine State.groupOf_of_groups (fun k => ?_) (by rw [he.frame, hut]) v
    exact (hpart Core.groups (fun _ => rfl) k).trans (hgroups k)
  · rw [he.frame, hut]
  · rw [he.frame]; exact hstore
  · refine (hpart (fun c => { c with store := {}, cmds := [], rings := [], flags := [] }) (fun _ => rfl) k).trans ?_
    rw [huc]; split <;> rfl
  · exact (hpart Core.store (fun _ => rfl) k).trans (by rw [huc, if_neg hk])
  · exact (hpart Core.cmds (fun _ => rfl) k).trans (by rw [huc, if_neg hk])
  · exact (hpart Core.flags (fun _ => rfl) k).trans (by rw [huc, if_neg hk])
  · exact (hpart Core.cmds (fun _ => rfl) core).trans (by rw [huc, if_pos rfl])
  · rw [(he.rings k r).1, hring]
    rw [hring, List.any_eq_false]
    intro h hh
    have hh := hn h hh
    simp only [RingHold.keyed, Bool.and_eq_true, Bool.not_eq_true', List.contains_iff_mem, not_and]
    exact fun ht => hh.resolve_left (by rw [ht]; exact Bool.false_ne_true)
  · exact hd k r h hh (by simpa [RingHold.keyed, ht, Cmd.keys] using hm)
  · exact (hpart Core.store (fun _ => rfl) k).trans (by rw [huc]; split <;> rfl)
  · exact (hpart Core.flags (fun _ => rfl) k).trans (by rw [huc]; split <;> rfl)

/-! ## Its flag -/

theorem State.flagOf_onFlag (s : State) (k n : Nat) (f : Flag → Flag) (j x : Nat) :
    (s.onFlag k n f).flagOf j x = if j = k ∧ x = n then f (s.flagOf k n) else s.flagOf j x := by
  simp only [State.flagOf, State.onFlag, State.core_onCore]
  by_cases hj : j = k
  · subst hj
    simp only [if_true, true_and]
    exact Sparse.look_upd _ _ _ _ _
  · simp [hj]

/-- A change of one flag of the command's core keeps what its leaving says. -/
theorem CmdLeaves.onFlag {s t : State} {core : Nat} {d : Cmd} (h : CmdLeaves s t core d) (n : Nat) (f : Flag → Flag) :
    CmdLeaves s (t.onFlag core n f) core d := by
  obtain ⟨hg, hf, hs, hc, ho, hm, hr⟩ := h
  have hpart {α : Type} (p : Core → α) (hp : ∀ c : Core, ∀ x, p { c with flags := x } = p c) (k : Nat) : p ((t.onFlag core n f).core k) = p (t.core k) :=
    State.core_onCore_of p t core _ (hp _ _) k
  refine ⟨fun v => ?_, ?_, hs, fun k => ?_, fun k hk => ⟨?_, ?_, ?_⟩, ?_, fun k r => ?_⟩
  · exact (State.groupOf_of_groups (hpart Core.groups (fun _ _ => rfl)) rfl v).trans (hg v)
  · rw [State.onFlag, State.onCore, hf]
  · exact (hpart (fun c => { c with store := {}, cmds := [], rings := [], flags := [] }) (fun _ _ => rfl) k).trans (hc k)
  · exact (hpart Core.store (fun _ _ => rfl) k).trans (ho k hk).1
  · exact (hpart Core.cmds (fun _ _ => rfl) k).trans (ho k hk).2.1
  · rw [State.onFlag, State.core_onCore, if_neg hk]
    exact (ho k hk).2.2
  · exact (hpart Core.cmds (fun _ _ => rfl) core).trans hm
  · rw [show (t.onFlag core n f).ring k r = t.ring k r from hpart (fun c => Sparse.look ({} : Ring) r c.rings) (fun _ _ => rfl) k]
    exact hr k r

/-- Signalling a flag changes that flag of the core and nothing else. -/
theorem State.signal_eq (s : State) (core n group : Nat) (err : Bool) (aid : Word) : ∃ f, s.signal core n group err aid = s.onFlag core n f ∧
    ((groupStopped ((s.core core).groupK group) = false ∨ (s.core core).agent.dctlHold = false) → f = Flag.change (fun v => v + 1) err aid) := by
  rw [State.signal]
  split
  · next h =>
    refine ⟨_, rfl, fun hn => ?_⟩
    simp only [Bool.and_eq_true] at h
    exact absurd hn (by rw [Core.groupK, h.1, h.2]; simp)
  · exact ⟨_, rfl, fun _ => rfl⟩

/-- A command ends whose flag, or whose want of an error, makes its end a flag's change at most (R303). -/
theorem State.finishCmd_ends {s : State} (hc : s.store.cut = []) (core : Nat) (d : Cmd) (err : Bool)
    (hf : (flagField d.op).isSome = true ∨ (d.err || err) = false) :
    CmdLeaves s (s.finishCmd core d err) core d ∧ FlagDone s (s.finishCmd core d err) core d (d.err || err) ∧
      ∀ k, ((s.finishCmd core d err).core k).store = (s.core k).store := by
  obtain ⟨hl, hk⟩ := State.dropCmd_leaves hc core d
  have hflag (k x : Nat) : (s.dropCmd core d).flagOf k x = s.flagOf k x := by rw [State.flagOf, (hk k).2, State.flagOf]
  cases hn : flagField d.op with
  | none =>
    have he : (d.err || err) = false := hf.resolve_left (by simp [hn])
    have hfin : s.finishCmd core d err = s.dropCmd core d := by
      rw [State.finishCmd, State.endCmd]
      simp only [hn, he, Bool.false_and, Bool.false_eq_true, if_false]
    rw [hfin]
    exact ⟨hl, ⟨fun _ => hflag core, fun n h => absurd (hn.symm.trans h) (by simp)⟩, fun k => (hk k).1⟩
  | some n =>
    obtain ⟨f, hs, hch⟩ := State.signal_eq (s.dropCmd core d) core (((s.core core).team d.team).res.fbase + n) d.groupKey (d.err || err) (cmdAid core d.op)
    have hfin : s.finishCmd core d err = (s.dropCmd core d).onFlag core (((s.core core).team d.team).res.fbase + n) f := by
      rw [State.finishCmd, State.endCmd, ← hs]
      simp only [hn]
    obtain ⟨hg, -, -, hcore, -⟩ := id hl
    have hgroups : ((s.dropCmd core d).core core).groupK d.groupKey = (s.core core).groupK d.groupKey :=
      eq_of_without (fun c : Core => { c with store := {}, cmds := [], rings := [], flags := [] }) (fun c => c.groupK d.groupKey) (fun _ => rfl) (hcore core)
    have hagent : ((s.dropCmd core d).core core).agent = (s.core core).agent :=
      eq_of_without (fun c : Core => { c with store := {}, cmds := [], rings := [], flags := [] }) Core.agent (fun _ => rfl) (hcore core)
    rw [hfin]
    refine ⟨CmdLeaves.onFlag hl _ f, ⟨fun h => absurd (hn.symm.trans h) (by simp), fun m hm hst x => ?_⟩, fun k => ?_⟩
    · obtain rfl : n = m := Option.some.inj (hn.symm.trans hm)
      rw [hgroups, hagent] at hch
      rw [State.flagOf_onFlag, hch hst, hflag, hflag]
      by_cases hx : x = ((s.core core).team d.team).res.fbase + n
      · simp [hx, Flag.change]
      · simp [hx]
    · exact (State.core_onCore_of Core.store (s.dropCmd core d) core _ rfl k).trans (hk k).1

/-- A command that leaves with its core's storage as it was ends, having written nothing. -/
theorem CmdLeaves.ends {s t : State} {core : Nat} {d : Cmd} (h : CmdLeaves s t core d) (hst : ∀ k, (t.core k).store = (s.core k).store) :
    CommandEnds s t core d := by
  obtain ⟨hg, hf, hs, hc, ho, hm, -⟩ := h
  have part {α : Type} (p : Core → α) (hp : ∀ c : Core, p { c with store := {}, cmds := [], rings := [], flags := [] } = p c) (k : Nat) :
      p (t.core k) = p (s.core k) := eq_of_without _ p hp (hc k)
  refine ⟨?_, fun v => by rw [hg v], by rw [hf], fun k => ?_, fun k => ?_, fun k => ?_, fun k x => ⟨fun _ => ?_, ?_⟩, fun k => by rw [hst k], ?_,
    fun k hk => (ho k hk).2, hm⟩
  · rw [hf]
  · exact part (fun c => { c with groups := [], caches := {}, crew := {}, store := {}, cmds := [], rings := [], flags := [] }) (fun _ => rfl) k
  · exact part (fun c => { c.caches with l1 := [], l1own := [] }) (fun _ => rfl) k
  · exact part (fun c => { c.crew with teams := [] }) (fun _ => rfl) k
  · exact part (fun c => c.team x) (fun _ => rfl) k
  · exact part (fun c => { c.team x with counters := [], saturated := false }) (fun _ => rfl) k
  · rw [hs]

end Sys2Proof.Machine
end

section
/-! Soft errors, scrubs, lost links and modules (R72 to R74, R374, R377). -/

namespace Sys2Proof.Machine
open Sys2Proof

/-- A cell put to true: every other cell is as before. -/
theorem Sparse.look_put_true (k j : Nat) (m : Sparse Bool) : Sparse.look false j (Sparse.put false k true m) = (decide (j = k) || Sparse.look false j m) := by
  rw [Sparse.look_put]
  by_cases h : j = k <;> simp [h]

/-- A lane's register poisoned. -/
def poisonLane (k : Nat) (g : Group) : Group := { g with lanes := { g.lanes with poison := Sparse.put false k true g.lanes.poison } }

/-- A scalar register poisoned. -/
def poisonScalar (k : Nat) (g : Group) : Group := { g with sca := { g.sca with poison := Sparse.put false k true g.sca.poison } }

/-- A word of the scratchpad poisoned. -/
def poisonWord (k : Nat) (c : Core) : Core := { c with store := { c.store with spadPoison := Sparse.put false k true c.store.spadPoison } }

/-- An element of a tile poisoned. -/
def poisonElement (k : Nat) (c : Core) : Core := { c with store := { c.store with tilePoison := Sparse.put false k true c.store.tilePoison } }

/-- A changed core, and no other (R72). -/
theorem State.onCore_only (s : State) (k : Nat) (f : Core → Core) :
    s.onCore k f = { s with cores := (s.onCore k f).cores } ∧ (∀ j ≠ k, (s.onCore k f).core j = s.core j) ∧ (s.onCore k f).core k = f (s.core k) :=
  ⟨rfl, fun j hj => by rw [State.core_onCore, if_neg hj], State.core_onCore_same s k f⟩

/-- An error that is counted and told changes nothing else (R74). -/
def Corrected (p : EccPlace) (s t : State) : Prop :=
  ∃ u, u = { s with plat := { s.plat with errors := u.plat.errors } } ∧
    (∀ k, Sparse.look 0 k u.plat.errors = Sparse.look 0 k s.plat.errors + (if k = eccKey p then 1 else 0)) ∧
    AgentTold u t (eccCore p) 0x21 (Config.eccLocation p)

/-- The state with a corrected error counted. -/
def State.counted (s : State) (p : EccPlace) : State := { s with plat := { s.plat with errors := Sparse.upd 0 (eccKey p) (fun n => n + 1) s.plat.errors } }

theorem State.corrected_told {s : State} (h : NoStash s) (p : EccPlace) : Corrected p s (s.corrected p) := by
  have he : s.corrected p = (s.counted p).agentEvent (eccCore p) 0x21 (Config.eccLocation p) 0 := rfl
  refine ⟨s.counted p, rfl, fun k => ?_, he ▸ State.agentEvent_told (s := s.counted p) h _ _ _ rfl rfl⟩
  refine (Sparse.look_upd 0 (eccKey p) k (fun n => n + 1) s.plat.errors).trans ?_
  by_cases hk : k = eccKey p <;> simp [hk]

/-- A correctable error of anything but a line of the L1 or the instruction cache. -/
theorem exec_eccError_corrected {p : EccPlace} {s : State} (h : ∀ k l, p ≠ .l1 k l ∧ p ≠ .icache k l) :
    exec (.eccError p true) s = .next (s.corrected p) := by
  cases p with
  | l1 k l => exact absurd rfl (h k l).1
  | icache k l => exact absurd rfl (h k l).2
  | _ => rfl

/-- An uncorrectable error of a lane's register poisons it, and is told where the lane is not active (R72). -/
theorem exec_eccError_lane (a : GroupAt) (r l : Nat) (s : State) :
    let u := s.onGroup (.gang { core := a.core, bank := a.bank, slot := a.slot, slice := 0 }) (poisonLane (32 * r + l))
    exec (.eccError (.laneReg a r l) false) s = .next (if laneActive (s.groupAt a.core a.bank a.slot) l = true then u
      else u.agentEvent a.core 0x20 (Config.eccLocation (.laneReg a r l)) 0) := by
  refine congrArg Host.Outcome.next ?_
  cases h : laneActive (s.groupAt a.core a.bank a.slot) l <;> simp only [h] <;> rfl

/-- A link lost: the collectives that it cuts off end (R377). -/
theorem exec_linkLoss {l : Nat} (hl : l < 18) {s u : State} (hu : u = { s with plat := { s.plat with links := Sparse.put false l true s.plat.links } }) :
    exec (.linkLoss l) s = .next (((allCmds s).filter (fun p => isColl p.2.op && p.2.phase == .started && p.2.aux.any (noPathTo u))).foldl
      (fun s p => s.finishCmd p.1 p.2 true) u) := by
  subst hu
  exact congrArg Host.Outcome.next (if_neg (by omega))

end Sys2Proof.Machine

namespace Sys2Proof
open Machine

/-- Settles O54, place by place. -/
theorem errorsAndLinks : Obligations.ErrorsAndLinks := by
  unfold Obligations.ErrorsAndLinks
  refine ⟨fun p s hs => ⟨fun hp => ?correctable, fun c k l hp => ?l1, fun c k l hp => ?icache, fun a r l hp => ?lane, fun a n hp => ?scalar,
    fun k w hp => ?scratch, fun k e hp => ?tile, fun g hp => ?granule⟩, fun _ _ => rfl, fun l s => ⟨fun hl => ?noLink, fun hl => ⟨fun j => ?links, fun hn => ?quiet, fun k x hx hit hc hf => ?cut⟩⟩,
    fun m s => ⟨fun hm => ?noModule, fun hm => ?module⟩⟩
  case correctable => exact ⟨_, exec_eccError_corrected hp, State.corrected_told hs p⟩
  case l1 =>
    subst hp
    obtain ⟨hf, ho, hk⟩ := State.onCore_only s k (fun c => c.dropLine (lineOf l))
    refine ⟨_, _, rfl, State.corrected_told (NoStash.onCore hs _ _ rfl) _, hf, ho, ?_, fun j => ?_⟩
    · rw [hk]; rfl
    · rw [hk]; exact Core.dropLine_l1 _ _ _
  case icache =>
    subst hp
    obtain ⟨hf, ho, hk⟩ := State.onCore_only s k
      (fun c => { c with caches := { c.caches with icache := c.caches.icache.filter (fun p => p.1 != lineOf l) } })
    exact ⟨_, _, rfl, State.corrected_told (NoStash.onCore hs _ _ rfl) _, hf, ho, hk⟩
  case lane =>
    subst hp
    have hg := State.groupOf_onGroup_same s (.gang { core := a.core, bank := a.bank, slot := a.slot, slice := 0 }) (poisonLane (32 * r + l))
    have hns : NoStash (s.onGroup (.gang { core := a.core, bank := a.bank, slot := a.slot, slice := 0 }) (poisonLane (32 * r + l))) :=
      NoStash.onCore hs _ _ rfl
    refine ⟨s.onGroup (.gang { core := a.core, bank := a.bank, slot := a.slot, slice := 0 }) (poisonLane (32 * r + l)), _,
      exec_eccError_lane a r l s, ⟨OnlyRegisters.onGroup _ s _, ?_⟩, fun j => ?_, ?_⟩
    · rw [hg]; rfl
    · rw [hg]; exact Sparse.look_put_true _ _ _
    · split
      · next ha => exact if_pos ha
      · next ha =>
        rw [if_neg (show ¬laneActive (s.groupAt a.core a.bank a.slot) l = true from ha)]
        exact State.agentEvent_told hns _ _ _ rfl rfl
  case scalar =>
    subst hp
    have hg := State.groupOf_onGroup_same s (.gang { core := a.core, bank := a.bank, slot := a.slot, slice := 0 }) (poisonScalar n)
    refine ⟨s.onGroup (.gang { core := a.core, bank := a.bank, slot := a.slot, slice := 0 }) (poisonScalar n), rfl,
      ⟨OnlyRegisters.onGroup _ s _, ?_⟩, fun j => ?_⟩
    · rw [hg]; rfl
    · rw [hg]; exact Sparse.look_put_true _ _ _
  case scratch =>
    subst hp
    obtain ⟨hf, ho, hk⟩ := State.onCore_only s k (poisonWord w)
    exact ⟨s.onCore k (poisonWord w), rfl, hf, ho, by rw [hk]; rfl, fun j => by rw [hk]; exact Sparse.look_put_true _ _ _⟩
  case tile =>
    subst hp
    obtain ⟨hf, ho, hk⟩ := State.onCore_only s k (poisonElement e)
    exact ⟨s.onCore k (poisonElement e), rfl, hf, ho, by rw [hk]; rfl, fun j => by rw [hk]; exact Sparse.look_put_true _ _ _⟩
  case granule =>
    have hg : ∃ t, (Host.Outcome.next (s.onStore (fun m => { m with poison := Sparse.put false g true m.poison })) : Host.Outcome State Fault Refusal) = .next t ∧
        t = { s with store := { s.store with poison := t.store.poison } } ∧
        ∀ j, Sparse.look false j t.store.poison = (decide (j = g) || Sparse.look false j s.store.poison) :=
      ⟨_, rfl, rfl, fun j => Sparse.look_put_true g j s.store.poison⟩
    obtain rfl | rfl := hp <;> exact hg
  case noLink => exact congrArg Host.Outcome.next (if_pos hl)
  case links => exact Sparse.look_put_true _ _ _
  case quiet =>
    rw [exec_linkLoss hl rfl, List.filter_eq_nil_iff.mpr (fun p hp => by simp [hn p hp])]
    rfl
  case cut =>
    have hcut := exec_linkLoss hl (s := s) rfl
    rw [hx, List.filter_cons_of_pos (by exact hit), List.filter_nil] at hcut
    obtain ⟨hle, hfl, hst⟩ := State.finishCmd_ends (s := { s with plat := { s.plat with links := Sparse.put false l true s.plat.links } }) hc k x true (.inl hf)
    rw [Bool.or_true] at hfl
    exact ⟨_, hcut, CmdLeaves.ends hle hst, hfl⟩
  case noModule => exact congrArg Host.Outcome.next (if_pos hm)
  case module =>
    exact ⟨{ s with plat := { s.plat with modules := Sparse.put false m true s.plat.modules } }, congrArg Host.Outcome.next (if_neg (by omega)), rfl,
      fun j => Sparse.look_put_true _ _ _⟩

end Sys2Proof
end

section
/-! Stash windows and stream bindings (R52, R54 to R59, R73, R297, R298, R300). -/

namespace Sys2Proof.Machine
open Sys2Proof

/-! ## Bytes copied from one memory to another -/

@[simp] theorem Memory.length_read (m : Memory) (a n : Nat) : (m.read a n).length = n := by
  induction n generalizing a with
  | zero => rfl
  | succ n ih => simp [Memory.read, ih]

theorem Memory.getD_read (m : Memory) (a n k : Nat) (h : k < n) : (m.read a n).getD k 0 = m.byte (a + k) := by
  induction n generalizing a k with
  | zero => omega
  | succ n ih =>
    cases k with
    | zero => rfl
    | succ k => exact (ih (a + 1) k (by omega)).trans (congrArg m.byte (by omega))

/-- A run of bytes copied: inside it the source's bytes, outside as before. -/
theorem Memory.byte_copy (m spad : Memory) (a b n x : Nat) :
    (m.write a (spad.read b n)).byte x = if a ≤ x ∧ x < a + n then spad.byte (b + (x - a)) else m.byte x := by
  split
  · next h =>
    have := Memory.byte_write (spad.read b n) m a (x - a) (by rw [Memory.length_read]; omega)
    rw [show a + (x - a) = x by omega] at this
    rw [this, Memory.getD_read _ _ _ _ (by omega)]
  · next h => exact Memory.byte_write_other _ _ _ _ (by rw [Memory.length_read]; omega)

/-! ## One team's windows -/

/-- Of the machine only the stash windows of one team, memory and its poison changed. -/
structure OnlyStash (core key : Nat) (s t : State) : Prop where
  groups : ∀ v, t.groupOf v = s.groupOf v
  frame : t = { s with cores := t.cores, store := t.store }
  store : t.store = { s.store with mem := t.store.mem, poison := t.store.poison }
  others : ∀ j ≠ core, t.core j = s.core j
  own : t.core core = { s.core core with crew := { (s.core core).crew with teams := (t.core core).crew.teams } }
  teams : ∀ x ≠ key, (t.core core).team x = (s.core core).team x
  team : (t.core core).team key = { (s.core core).team key with stash := ((t.core core).team key).stash }

theorem OnlyStash.trans {core key : Nat} {s t u : State} (h : OnlyStash core key s t) (h' : OnlyStash core key t u) : OnlyStash core key s u where
  groups v := (h'.groups v).trans (h.groups v)
  frame := by rw [h'.frame, h.frame]
  store := by rw [h'.store, h.store]
  others j hj := (h'.others j hj).trans (h.others j hj)
  own := by rw [h'.own, h.own]
  teams x hx := (h'.teams x hx).trans (h.teams x hx)
  team := by rw [h'.team, h.team]

theorem OnlyStash.refl (core key : Nat) (s : State) : OnlyStash core key s s := ⟨fun _ => rfl, rfl, rfl, fun _ _ => rfl, rfl, fun _ _ => rfl, rfl⟩

theorem OnlyStash.spad {core key : Nat} {s t : State} (h : OnlyStash core key s t) : (t.core core).store = (s.core core).store := by rw [h.own]

theorem OnlyStash.res {core key : Nat} {s t : State} (h : OnlyStash core key s t) : ((t.core core).team key).res = ((s.core core).team key).res := by
  rw [h.team]

theorem Core.team_onTeam (c : Core) (k : Nat) (f : Team → Team) (x : Nat) : (c.onTeam k f).team x = if x = k then f (c.team k) else c.team x :=
  Sparse.look_upd _ _ _ _ _

/-- The windows of one team changed. -/
theorem OnlyStash.onTeam (s : State) (core key : Nat) (f : Sparse StashWin → Sparse StashWin) :
    OnlyStash core key s (s.onCore core (fun c => c.onTeam key (fun t => { t with stash := f t.stash }))) ∧
      (((s.onCore core (fun c => c.onTeam key (fun t => { t with stash := f t.stash }))).core core).team key).stash = f ((s.core core).team key).stash := by
  have hk := State.core_onCore_same s core (fun c => c.onTeam key (fun t => { t with stash := f t.stash }))
  refine ⟨⟨?_, rfl, rfl, fun j hj => by rw [State.core_onCore, if_neg hj], ?_, fun x hx => ?_, ?_⟩, ?_⟩
  · exact State.groupOf_of_groups (State.core_onCore_of Core.groups s core _ rfl) rfl
  · rw [hk]; rfl
  · rw [hk, Core.team_onTeam, if_neg hx]
  · rw [hk, Core.team_onTeam, if_pos rfl]
  · rw [hk, Core.team_onTeam, if_pos rfl]

/-- Memory and its poison changed. -/
theorem OnlyStash.onMem (s : State) (core key : Nat) (f : Memory → Memory) (g : Sparse Bool → Sparse Bool) :
    OnlyStash core key s (s.onStore (fun m => { m with mem := f m.mem, poison := g m.poison })) :=
  ⟨fun v => State.groupOf_onStore s v _, rfl, rfl, fun _ _ => rfl, rfl, fun _ _ => rfl, rfl⟩

/-! ## The lines of a window, written back one after another (R58, R59, R298) -/

/-- Where a window line's bytes stand in the scratchpad. -/
def lineAt (t : Team) (w : StashWin) (k : Nat) : Nat := t.res.spbase + w.w + 128 * k

/-- Memory after the modified lines of a list have been written back. -/
def linesBack (t : Team) (spad : Memory) (w : StashWin) (ls : List (Nat × StashLine)) (m : Memory) : Memory :=
  ls.foldl (fun m l => if l.2.owned then writeBackLine t spad w l.1 l.2 m else m) m

/-- The poison of memory after them. -/
def poisonBack (t : Team) (sp : Sparse Bool) (w : StashWin) (ls : List (Nat × StashLine)) (m : Sparse Bool) : Sparse Bool :=
  ls.foldl (fun m l => if l.2.owned then writeBackPoison t sp w l.1 l.2 m else m) m

/-- A line that is no longer modified. -/
def demote (l : Nat × StashLine) : Nat × StashLine := (l.1, { l.2 with owned := false })

/-- A window's first line taken out, or put last as no longer modified. -/
theorem setStashLine_cons (w : StashWin) (l : Nat × StashLine) (rest : List (Nat × StashLine)) (hl : w.lines = l :: rest)
    (hn : l.1 ∉ rest.map Prod.fst) (drop : Bool) : setStashLine w l.1 (if drop then none else some { l.2 with owned := false }) =
      { w with lines := if drop then rest else rest ++ [demote l] } := by
  have hf : w.lines.filter (fun p => p.1 != l.1) = rest := by
    rw [hl, List.filter_cons_of_neg (by simp)]
    exact List.filter_eq_self.mpr (fun p hp => bne_iff_ne.mpr (fun h => hn (h ▸ List.mem_map_of_mem hp)))
  cases drop <;> simp only [setStashLine, hf] <;> rfl

/-- The recall of a window's first line. -/
theorem State.recallLine_first (s : State) (core key win : Nat) (l : Nat × StashLine) (rest : List (Nat × StashLine))
    (hl : (Sparse.look {} win ((s.core core).team key).stash).lines = l :: rest) (hn : l.1 ∉ rest.map Prod.fst) (drop : Bool) :
    let w := Sparse.look {} win ((s.core core).team key).stash
    let t := s.recallLine core key win l.1 drop
    OnlyStash core key s t ∧
      Sparse.look {} win ((t.core core).team key).stash = { w with lines := if drop then rest else rest ++ [demote l] } ∧
      t.store.mem = linesBack ((s.core core).team key) (s.core core).store.spad w [l] s.store.mem ∧
      t.store.poison = poisonBack ((s.core core).team key) (s.core core).store.spadPoison w [l] s.store.poison := by
  intro w t
  have hfind : w.lines.find? (fun p => p.1 == l.1) = some l := by rw [hl]; simp
  let u : State := if l.2.owned then s.onStore (fun m => { m with
    mem := writeBackLine ((s.core core).team key) (s.core core).store.spad w l.1 l.2 m.mem
    poison := writeBackPoison ((s.core core).team key) (s.core core).store.spadPoison w l.1 l.2 m.poison }) else s
  have ht : t = u.onCore core (fun c => c.onTeam key (fun t =>
      { t with stash := Sparse.upd {} win (fun w => setStashLine w l.1 (if drop then none else some { l.2 with owned := false })) t.stash })) := by
    show s.recallLine core key win l.1 drop = _
    have hfind : (Sparse.look {} win (Sparse.look {} key (s.core core).crew.teams : Team).stash).lines.find? (fun p => p.1 == l.1) = some (l.1, l.2) := hfind
    simp only [State.recallLine, hfind]
    rfl
  have hu : OnlyStash core key s u := by
    by_cases ho : l.2.owned = true
    · rw [show u = _ from if_pos ho]; exact .onMem s core key _ _
    · rw [show u = s from if_neg ho]; exact .refl _ _ _
  have hcore : u.core core = s.core core := by
    by_cases ho : l.2.owned = true
    · rw [show u = _ from if_pos ho]; rfl
    · rw [show u = s from if_neg ho]
  obtain ⟨hr, hs⟩ := OnlyStash.onTeam u core key
    (fun st => Sparse.upd {} win (fun w => setStashLine w l.1 (if drop then none else some { l.2 with owned := false })) st)
  rw [ht]
  refine ⟨hu.trans hr, ?_, ?_, ?_⟩
  · rw [hs, Sparse.look_upd, if_pos rfl, hcore]
    exact setStashLine_cons w l rest hl hn drop
  · show u.store.mem = _
    by_cases ho : l.2.owned = true
    · rw [show u = _ from if_pos ho, linesBack, List.foldl_cons, if_pos ho]; rfl
    · rw [show u = s from if_neg ho, linesBack, List.foldl_cons, if_neg ho]; rfl
  · show u.store.poison = _
    by_cases ho : l.2.owned = true
    · rw [show u = _ from if_pos ho, poisonBack, List.foldl_cons, if_pos ho]; rfl
    · rw [show u = s from if_neg ho, poisonBack, List.foldl_cons, if_neg ho]; rfl

/-- The recall of a window's lines from the first on; those recalled before stand behind. -/
theorem State.recallLines (core key win : Nat) (drop : Bool) (ls behind : List (Nat × StashLine)) (s : State)
    (hl : (Sparse.look {} win ((s.core core).team key).stash).lines = ls ++ behind) (hn : ((ls ++ behind).map Prod.fst).Nodup) :
    let w := Sparse.look {} win ((s.core core).team key).stash
    let t := ls.foldl (fun s l => s.recallLine core key win l.1 drop) s
    OnlyStash core key s t ∧
      Sparse.look {} win ((t.core core).team key).stash = { w with lines := behind ++ if drop then [] else ls.map demote } ∧
      t.store.mem = linesBack ((s.core core).team key) (s.core core).store.spad w ls s.store.mem ∧
      t.store.poison = poisonBack ((s.core core).team key) (s.core core).store.spadPoison w ls s.store.poison := by
  induction ls generalizing s behind with
  | nil =>
    refine ⟨.refl _ _ _, ?_, rfl, rfl⟩
    rw [List.nil_append] at hl
    simp [← hl]
  | cons l ls ih =>
    intro w t
    rw [List.cons_append] at hl hn
    rw [List.map_cons, List.nodup_cons] at hn
    obtain ⟨h1, hw1, hm1, hp1⟩ := s.recallLine_first core key win l (ls ++ behind) hl hn.1 drop
    have hl2 : (Sparse.look {} win (((s.recallLine core key win l.1 drop).core core).team key).stash).lines =
        ls ++ (behind ++ if drop then [] else [demote l]) := by
      rw [hw1]; cases drop <;> simp
    have hn2 : ((ls ++ (behind ++ if drop then [] else [demote l])).map Prod.fst).Nodup := by
      cases drop
      · have := (List.nodup_cons.mpr hn : (l.1 :: (ls ++ behind).map Prod.fst).Nodup)
        simpa [List.nodup_append_comm, demote, ← List.append_assoc] using (List.perm_append_singleton l.1 ((ls ++ behind).map Prod.fst)).symm.nodup this
      · simpa using hn.2
    obtain ⟨h2, hw2, hm2, hp2⟩ := ih (behind ++ if drop then [] else [demote l]) (s.recallLine core key win l.1 drop) hl2 hn2
    refine ⟨h1.trans h2, hw2.trans ?_, hm2.trans ?_, hp2.trans ?_⟩
    · rw [hw1]; cases drop <;> simp [w]
    · rw [hm1, h1.spad, hw1]
      simp only [linesBack, writeBackLine, h1.res, List.foldl_cons, List.foldl_nil]
      rfl
    · rw [hp1, h1.spad, hw1]
      simp only [poisonBack, writeBackPoison, h1.res, List.foldl_cons, List.foldl_nil]
      rfl

/-! ## What memory then holds -/

/-- Does a line's place hold the byte? -/
abbrev StashLine.covers (l : StashLine) (a : Nat) : Prop := l.place ≤ a ∧ a < l.place + 128

/-- Of lines with different, aligned places a byte is in one at most. -/
theorem covers_unique {l m : StashLine} {a : Nat} (hl : l.place % 128 = 0) (hm : m.place % 128 = 0) (h : l.covers a) (h' : m.covers a) :
    l.place = m.place := by
  simp only [StashLine.covers] at h h'
  omega

/-- The first line of the list that is modified and holds the byte. -/
def ownedOf (ls : List (Nat × StashLine)) (a : Nat) : Option (Nat × StashLine) :=
  ls.find? (fun l => l.2.owned && decide (l.2.place ≤ a) && decide (a < l.2.place + 128))

theorem ownedOf_cons (l : Nat × StashLine) (ls : List (Nat × StashLine)) (a : Nat) :
    ownedOf (l :: ls) a = if l.2.owned = true ∧ l.2.covers a then some l else ownedOf ls a := by
  rw [ownedOf, List.find?_cons]
  by_cases h : l.2.owned = true ∧ l.2.covers a
  · rw [if_pos h]
    simp only [StashLine.covers] at h
    simp [h]
  · rw [if_neg h]
    simp only [StashLine.covers] at h
    have : (l.2.owned && decide (l.2.place ≤ a) && decide (a < l.2.place + 128)) = false := by
      rw [Bool.eq_false_iff]
      simpa [and_assoc] using h
    rw [this]
    rfl

theorem ownedOf_eq_none {ls : List (Nat × StashLine)} {a : Nat} (h : ∀ l ∈ ls, ¬l.2.covers a) : ownedOf ls a = none :=
  List.find?_eq_none.mpr (fun l hl hc => h l hl (by
    simp only [Bool.and_eq_true, decide_eq_true_eq] at hc
    exact ⟨hc.1.2, hc.2⟩))

section
variable {ls : List (Nat × StashLine)} (hp : (ls.map (fun l => l.2.place)).Nodup) (ha : ∀ l ∈ ls, l.2.place % 128 = 0)
include hp ha

/-- A byte of memory after the lines have been written back. -/
theorem byte_linesBack (t : Team) (spad : Memory) (w : StashWin) (m : Memory) (a : Nat) :
    (linesBack t spad w ls m).byte a = match ownedOf ls a with
      | some l => spad.byte (lineAt t w l.1 + (a - l.2.place))
      | none => m.byte a := by
  induction ls generalizing m with
  | nil => rfl
  | cons l ls ih =>
    rw [List.map_cons, List.nodup_cons] at hp
    rw [linesBack, List.foldl_cons]
    refine (ih hp.2 (fun q hq => ha q (List.mem_cons_of_mem _ hq)) _).trans ?_
    rw [ownedOf_cons]
    by_cases hc : l.2.owned = true ∧ l.2.covers a
    · have hrest : ownedOf ls a = none := ownedOf_eq_none (fun q hq hqa => hp.1
        (covers_unique (ha l List.mem_cons_self) (ha q (List.mem_cons_of_mem _ hq)) hc.2 hqa ▸ List.mem_map_of_mem (f := fun l => l.2.place) hq))
      rw [if_pos hc, hrest, if_pos hc.1]
      exact (Memory.byte_copy _ _ _ _ _ _).trans (if_pos hc.2)
    · rw [if_neg hc]
      have hm : (if l.2.owned = true then writeBackLine t spad w l.1 l.2 m else m).byte a = m.byte a := by
        split
        · next ho => exact (Memory.byte_copy _ _ _ _ _ _).trans (if_neg (fun h => hc ⟨ho, h⟩))
        · rfl
      rw [hm]

end

/-- A granule after a line has been written back (R73). -/
theorem look_writeBackPoison (t : Team) (sp : Sparse Bool) (w : StashWin) (k : Nat) (l : StashLine) (m : Sparse Bool) (x : Nat) (ha : l.place % 128 = 0) :
    Sparse.look false x (writeBackPoison t sp w k l m) = if l.covers (32 * x) then
      (List.range 8).any (fun i => Sparse.look false (lineAt t w k / 4 + 8 * (x - l.place / 32) + i) sp) else Sparse.look false x m := by
  simp only [writeBackPoison, List.any_map, StashLine.covers, show List.range 4 = [0, 1, 2, 3] from rfl, List.foldl_cons, List.foldl_nil,
    Sparse.look_put]
  obtain ⟨q, hq⟩ : ∃ q, l.place = 128 * q := ⟨l.place / 128, by omega⟩
  rw [show l.place / 32 = 4 * q by omega]
  by_cases hc : l.place ≤ 32 * x ∧ 32 * x < l.place + 128
  · rw [if_pos hc]
    obtain h | h | h | h : x = 4 * q ∨ x = 4 * q + 1 ∨ x = 4 * q + 2 ∨ x = 4 * q + 3 := by omega
    all_goals subst h; simp [lineAt, Function.comp_def]
  · rw [if_neg hc, if_neg (by omega), if_neg (by omega), if_neg (by omega), if_neg (by omega)]

section
variable {ls : List (Nat × StashLine)} (hp : (ls.map (fun l => l.2.place)).Nodup) (ha : ∀ l ∈ ls, l.2.place % 128 = 0)
include hp ha

/-- A granule's poison after the lines have been written back (R73). -/
theorem look_poisonBack (t : Team) (sp : Sparse Bool) (w : StashWin) (m : Sparse Bool) (x : Nat) :
    Sparse.look false x (poisonBack t sp w ls m) = match ownedOf ls (32 * x) with
      | some l => (List.range 8).any (fun i => Sparse.look false (lineAt t w l.1 / 4 + 8 * (x - l.2.place / 32) + i) sp)
      | none => Sparse.look false x m := by
  induction ls generalizing m with
  | nil => rfl
  | cons l ls ih =>
    rw [List.map_cons, List.nodup_cons] at hp
    have hal := ha l List.mem_cons_self
    rw [poisonBack, List.foldl_cons]
    refine (ih hp.2 (fun q hq => ha q (List.mem_cons_of_mem _ hq)) _).trans ?_
    rw [ownedOf_cons]
    by_cases hc : l.2.owned = true ∧ l.2.covers (32 * x)
    · have hrest : ownedOf ls (32 * x) = none := ownedOf_eq_none (fun q hq hqa => hp.1
        (covers_unique hal (ha q (List.mem_cons_of_mem _ hq)) hc.2 hqa ▸ List.mem_map_of_mem (f := fun l => l.2.place) hq))
      rw [if_pos hc, hrest, if_pos hc.1]
      exact (look_writeBackPoison _ _ _ _ _ _ _ hal).trans (if_pos hc.2)
    · rw [if_neg hc]
      have hm : Sparse.look false x (if l.2.owned = true then writeBackPoison t sp w l.1 l.2 m else m) = Sparse.look false x m := by
        split
        · next ho => exact (look_writeBackPoison _ _ _ _ _ _ _ hal).trans (if_neg (fun h => hc ⟨ho, h⟩))
        · rfl
      rw [hm]

end


/-- What flushing a window of distinct, aligned lines does (R59, R298). -/
theorem State.flushWindow_does (s : State) (core key win : Nat) (drop : Bool)
    (hn : ((Sparse.look {} win ((s.core core).team key).stash).lines.map Prod.fst).Nodup)
    (hp : ((Sparse.look {} win ((s.core core).team key).stash).lines.map (fun l => l.2.place)).Nodup)
    (ha : ∀ l ∈ (Sparse.look {} win ((s.core core).team key).stash).lines, l.2.place % 128 = 0) :
    let w := Sparse.look {} win ((s.core core).team key).stash
    let t := s.flushWindow core key win drop
    OnlyStash core key s t ∧
      Sparse.look {} win ((t.core core).team key).stash = { w with lines := if drop then [] else w.lines.map demote } ∧
      (∀ a, t.store.mem.byte a = match ownedAt w a with
        | some l => (s.core core).store.spad.byte (lineAt ((s.core core).team key) w l.1 + (a - l.2.place))
        | none => s.store.mem.byte a) ∧
      ∀ x, Sparse.look false x t.store.poison = match ownedAt w (32 * x) with
        | some l => (List.range 8).any (fun i =>
            Sparse.look false (lineAt ((s.core core).team key) w l.1 / 4 + 8 * (x - l.2.place / 32) + i) (s.core core).store.spadPoison)
        | none => Sparse.look false x s.store.poison := by
  intro w t
  have hl : (Sparse.look {} win ((s.core core).team key).stash).lines = w.lines ++ [] := (List.append_nil _).symm
  obtain ⟨h, hw, hm, hpo⟩ := State.recallLines core key win drop w.lines [] s hl (by rwa [List.append_nil])
  exact ⟨h, hw.trans (by rw [List.nil_append]),
    fun a => (congrArg (fun m => Memory.byte m a) hm).trans (byte_linesBack hp ha _ _ _ _ a),
    fun x => (congrArg (Sparse.look false x) hpo).trans (look_poisonBack hp ha _ _ _ _ x)⟩

/-! ## The operations -/

section
variable {s : State} {c : Issue} {o : ROp} (h : LanesRun s c o.at' [])
include h

theorem exec_stmap : exec (.stmap o) s = .next (
    let k := s.core (coreOf c.who)
    let t := k.team (teamKey c.who c.snap)
    let g := c.sval o.a
    let w := (c.sval o.b).toNat
    let n := (c.sval o.c).toNat
    if g.toNat % 128 != 0 || bitsOf g 63 60 != 0 || 2 ^ 60 < g.toNat + 128 * n || w % 128 != 0 || n == 0 || 4096 < n ||
        t.res.spsize < w + 128 * n || regionBusy k t w (w + 128 * n) then s.illegalOperand o.at'
    else
      match (List.range 8).find? (fun i => !(Sparse.look {} i t.stash).valid) with
      | none => s.illegalOperand o.at'
      | some i =>
        if tstWithin k c.who w (w + 128 * n) then s.waitFor .poll
        else
          s.onCore (coreOf c.who) (fun k => k.onTeam (teamKey c.who c.snap) (fun t =>
            { t with stash := Sparse.put {} i { valid := true, g := g, w := w, n := n, lines := [] } t.stash }))) :=
  congrArg Host.Outcome.next (State.laneOp_plain h _)

theorem exec_stflush : exec (.stflush o) s = .next (
    match windowAt ((s.core (coreOf c.who)).team (teamKey c.who c.snap)) (c.sval o.a) with
    | none => s.illegalOperand o.at'
    | some i => if windowPending s (coreOf c.who) (teamKey c.who c.snap) c.who i then s.waitFor .poll
      else s.flushWindow (coreOf c.who) (teamKey c.who c.snap) i false) :=
  congrArg Host.Outcome.next (State.laneOp_plain h _)

theorem exec_stunmap : exec (.stunmap o) s = .next (
    match windowAt ((s.core (coreOf c.who)).team (teamKey c.who c.snap)) (c.sval o.a) with
    | none => s.illegalOperand o.at'
    | some i => if windowPending s (coreOf c.who) (teamKey c.who c.snap) c.who i then s.waitFor .poll
      else s.unmapWindow (coreOf c.who) (teamKey c.who c.snap) i) :=
  congrArg Host.Outcome.next (State.laneOp_plain h _)

theorem exec_qbind {q : BitVec 3} (hq : o.d = .q q) : exec (.qbind o) s = .next (
    let k := s.core (coreOf c.who)
    let t := k.team (teamKey c.who c.snap)
    let a := (c.sval o.a).toNat
    let n := (c.sval o.b).toNat
    if ((s.cur c).stream q.toNat).size != 0 || !([512, 1024, 2048, 4096, 8192, 16384, 32768].contains n) || a % 128 != 0 ||
        t.res.spsize < a + n || regionBusy k t a (a + n) then s.illegalOperand o.at'
    else s.onGroup c.who (fun g => { g with q := Sparse.put {} q.toNat { buf := a, size := n } g.q })) := by
  refine congrArg Host.Outcome.next ((State.laneOp_plain h _).trans ?_)
  simp only [hq]

theorem exec_qfree {q : BitVec 3} (hq : o.d = .q q) : exec (.qfree o) s = .next (
    if ((s.cur c).stream q.toNat).size == 0 then s.illegalOperand o.at'
    else if ((s.cur c).stream q.toNat).named != 0 then s.waitFor .poll
    else s.onGroup c.who (fun g => { g with q := Sparse.put {} q.toNat {} g.q })) := by
  refine congrArg Host.Outcome.next ((State.laneOp_plain h _).trans ?_)
  simp only [hq]

end


/-- Is the operand of STMAP outside the rules (R297), whatever windows are mapped? -/
theorem stmapOk_iff (g : DWord) (w n size : Nat) (busy : Bool) :
    (g.toNat % 128 != 0 || bitsOf g 63 60 != 0 || decide (2 ^ 60 < g.toNat + 128 * n) || w % 128 != 0 || n == 0 || decide (4096 < n) ||
        decide (size < w + 128 * n) || busy) = false ↔
      g.toNat % 128 = 0 ∧ g.toNat < 2 ^ 60 ∧ g.toNat + 128 * n ≤ 2 ^ 60 ∧ w % 128 = 0 ∧ 0 < n ∧ n ≤ 4096 ∧ w + 128 * n ≤ size ∧ busy = false := by
  have hb : bitsOf g 63 60 = 0 ↔ g.toNat < 2 ^ 60 := by
    have := g.isLt
    simp only [bitsOf]
    omega
  simp only [Bool.or_eq_false_iff, bne_eq_false_iff_eq, beq_eq_false_iff_ne, decide_eq_false_iff_not, Nat.not_lt, hb, and_assoc, ne_eq,
    Nat.pos_iff_ne_zero]

/-- Is the operand of QBIND inside the rules (R300)? -/
theorem qbindOk_iff (x : Stream) (a n size : Nat) (busy : Bool) :
    (x.size != 0 || !([512, 1024, 2048, 4096, 8192, 16384, 32768].contains n) || a % 128 != 0 || decide (size < a + n) || busy) = false ↔
      x.size = 0 ∧ n ∈ [512, 1024, 2048, 4096, 8192, 16384, 32768] ∧ a % 128 = 0 ∧ a + n ≤ size ∧ busy = false := by
  simp only [Bool.or_eq_false_iff, bne_eq_false_iff_eq, decide_eq_false_iff_not, Nat.not_lt, Bool.not_eq_false', List.contains_iff_mem, and_assoc]

/-- The lines of a flushed window pair the same lines with the same places, none of them modified. -/
theorem demote_pairs (ls : List (Nat × StashLine)) : (∀ l ∈ ls.map demote, l.2.owned = false) ∧
    ∀ k p, (∃ l ∈ ls.map demote, l.1 = k ∧ l.2.place = p) ↔ ∃ l ∈ ls, l.1 = k ∧ l.2.place = p := by
  constructor
  · intro l hl
    obtain ⟨m, -, rfl⟩ := List.mem_map.mp hl
    rfl
  · intro k p
    simp only [List.mem_map, demote, exists_exists_and_eq_and]

end Sys2Proof.Machine

namespace Sys2Proof
open Machine

/-- Settles O23, operation by operation. -/
theorem stashAndStreams : Obligations.StashAndStreams := by
  unfold Obligations.StashAndStreams
  intro o s c h hg
  refine ⟨⟨fun hok => ?badMap, fun hok hb => ?waitMap, fun i hok hb hf => ?map⟩, ⟨fun hw => ?noWindow, fun i hw => ⟨fun hb => ?waitWindow, fun hb hn hp ha => ?window⟩⟩,
    fun q hq => ⟨fun hok => ?badBind, fun hok => ?bind, fun hx => ?badFree, fun hx hn => ?waitFree, fun hx hn => ?free⟩⟩
  case badMap =>
    refine TrapsWith.of_illegalOperand h.1 ((exec_stmap h).trans (congrArg Host.Outcome.next ?_))
    dsimp only
    split
    · rfl
    · next hc =>
      rw [Bool.not_eq_true, stmapOk_iff] at hc
      split
      · rfl
      · next i hf =>
        obtain ⟨h1, h2, h3, h4, h5, h6, h7, h8⟩ := hc
        exact absurd ⟨h1, h2, h3, h4, h5, h6, h7, h8, fun hn => by rw [hn] at hf; cases hf⟩ hok
  case waitMap =>
    obtain ⟨h1, h2, h3, h4, h5, h6, h7, h8, h9⟩ := hok
    obtain ⟨i, hf⟩ := Option.ne_none_iff_exists'.mp h9
    refine EndsWith.of_waitFor h.1 ((exec_stmap h).trans (congrArg Host.Outcome.next ?_))
    dsimp only
    rw [(stmapOk_iff _ _ _ _ _).mpr ⟨h1, h2, h3, h4, h5, h6, h7, h8⟩, hf, hb]
    rfl
  case map =>
    obtain ⟨h1, h2, h3, h4, h5, h6, h7, h8, h9⟩ := hok
    have he := exec_stmap h
    dsimp only at he
    rw [(stmapOk_iff _ _ _ _ _).mpr ⟨h1, h2, h3, h4, h5, h6, h7, h8⟩, hf, hb] at he
    obtain ⟨hr, hs⟩ := OnlyStash.onTeam s (coreOf c.who) (teamKey c.who c.snap)
      (Sparse.put {} i { valid := true, g := c.sval o.a, w := (c.sval o.b).toNat, n := (c.sval o.c).toNat, lines := [] })
    exact ⟨_, he, ⟨hr.groups, hr.frame, hr.store, hr.others, hr.own, hr.teams, hr.team⟩, rfl, hs⟩
  case noWindow =>
    have h1 := exec_stflush h
    have h2 := exec_stunmap h
    rw [show windowAt _ _ = none from hw] at h1 h2
    exact ⟨TrapsWith.of_illegalOperand h.1 h1, TrapsWith.of_illegalOperand h.1 h2⟩
  case waitWindow =>
    have h1 := exec_stflush h
    have h2 := exec_stunmap h
    rw [show windowAt _ _ = some i from hw] at h1 h2
    exact ⟨EndsWith.of_waitFor h.1 (h1.trans (congrArg Host.Outcome.next (if_pos hb))),
      EndsWith.of_waitFor h.1 (h2.trans (congrArg Host.Outcome.next (if_pos hb)))⟩
  case window =>
    have h1 := exec_stflush h
    have h2 := exec_stunmap h
    rw [show windowAt _ _ = some i from hw] at h1 h2
    have hb : ¬windowPending s (coreOf c.who) (teamKey c.who c.snap) c.who i = true := Bool.eq_false_iff.mp hb
    constructor
    · obtain ⟨hr, hl, hm, hpo⟩ := State.flushWindow_does s (coreOf c.who) (teamKey c.who c.snap) i false hn hp ha
      obtain ⟨hd, hpair⟩ := demote_pairs (Sparse.look {} i ((s.core (coreOf c.who)).team (teamKey c.who c.snap)).stash).lines
      rw [if_neg Bool.false_ne_true] at hl
      refine ⟨_, h1.trans (congrArg Host.Outcome.next (if_neg hb)), ⟨hr.groups, hr.frame, hr.store, hr.others, hr.own, hr.teams, hr.team⟩, ⟨hm, hpo⟩, ?_⟩
      rw [hl]
      exact ⟨rfl, hd, hpair⟩
    · obtain ⟨hr, -, hm, hpo⟩ := State.flushWindow_does s (coreOf c.who) (teamKey c.who c.snap) i true hn hp ha
      obtain ⟨hr', hs⟩ := OnlyStash.onTeam (s.flushWindow (coreOf c.who) (teamKey c.who c.snap) i true) (coreOf c.who) (teamKey c.who c.snap)
        (Sparse.put {} i {})
      have hr := hr.trans hr'
      refine ⟨_, h2.trans (congrArg Host.Outcome.next (if_neg hb)), ⟨hr.groups, hr.frame, hr.store, hr.others, hr.own, hr.teams, hr.team⟩, ⟨hm, hpo⟩, ?_⟩
      exact (congrArg (Sparse.look {} i) hs).trans (Sparse.look_put_same _ _ _ _)
  case badBind =>
    refine TrapsWith.of_illegalOperand h.1 ((exec_qbind h hq).trans (congrArg Host.Outcome.next (if_pos ?_)))
    exact Bool.of_not_eq_false (fun hc => hok ((qbindOk_iff _ _ _ _ _).mp hc))
  case bind =>
    refine ⟨_, (exec_qbind h hq).trans (congrArg Host.Outcome.next (if_neg ?_)), RegistersBecome.onGroup c s _⟩
    exact Bool.eq_false_iff.mp ((qbindOk_iff _ _ _ _ _).mpr hok)
  case badFree => exact TrapsWith.of_illegalOperand h.1 ((exec_qfree h hq).trans (congrArg Host.Outcome.next (if_pos (beq_iff_eq.mpr hx))))
  case waitFree =>
    refine EndsWith.of_waitFor h.1 ((exec_qfree h hq).trans (congrArg Host.Outcome.next ((if_neg ?_).trans (if_pos (bne_iff_ne.mpr hn)))))
    exact mt beq_iff_eq.mp hx
  case free =>
    refine ⟨_, (exec_qfree h hq).trans (congrArg Host.Outcome.next ((if_neg ?_).trans (if_neg ?_))), RegistersBecome.onGroup c s _⟩
    · exact mt beq_iff_eq.mp hx
    · exact fun k => bne_iff_ne.mp k hn

end Sys2Proof
end

section
/-! A queued ACCFLG that writes no register (R302, R317): where a core lists a group that equals the empty slot, the write of its group drops the
entry, so that the core's list of groups is not as before. -/

namespace Sys2Proof.Machine
open Sys2Proof

/-- An ACCFLG of tiles 0 and 1 to the zero register. -/
def accflgToZero : ROp :=
  { at' := { slot := .simt 7#3, stg := 0#2 }, ty := .b32, d := .zero, a := .zero, b := .zero, c := .zero, fa := false, fb := false, fc := false, mod := 0#14 }

/-- The gang of slice 0 of the group in slot 1 of core 0 issues it with lane 0 active. -/
def accflgIssue : Issue := { who := .gang { core := 0, bank := 0, slot := 1, slice := 0 }, mask := 1#32 }

/-- A core that lists its slot 1 although it is empty, with a team of two tiles. -/
def accflgState : State :=
  { cores := [(0, { groups := [(1, {})], crew := { teams := [(0, { res := { nacc := 2 } })] } })], issue := some accflgIssue }

/-- The ACCFLG leaves the core without the entry. -/
theorem accflgState_groups {t : State} (h : exec (.accflg accflgToZero) accflgState = .next t) : (t.core 0).groups = [] := by
  have ht : t = (match exec (.accflg accflgToZero) accflgState with | .next t => t | _ => accflgState) := by rw [h]
  rw [ht]
  rfl

end Sys2Proof.Machine

namespace Sys2Proof
open Machine

/-- Refutes O27: where a core lists a group that equals the empty slot, an ACCFLG to the zero register drops that entry when it is queued, though of
the core only its commands are to change. -/
theorem not_tileCommands : ¬ Obligations.TileCommands := by
  unfold Obligations.TileCommands
  intro h
  have hrun : LanesRun accflgState accflgIssue accflgToZero.at' [] := ⟨⟨rfl, rfl⟩, by decide, rfl⟩
  obtain ⟨-, -, -, hreg⟩ := (h accflgState accflgIssue).2 accflgToZero hrun rfl
  obtain ⟨-, -, hq⟩ := (hreg (by decide) (by decide)).2.1 rfl
  obtain ⟨t, he, -, -, hc⟩ := hq ⟨rfl, rfl, rfl, by decide, .inl rfl, fun n hn => by cases hn⟩
  have hg : (t.core 0).groups = [(1, {})] := congrArg Core.groups hc
  rw [accflgState_groups he] at hg
  cases hg

end Sys2Proof
end

section
/-! Commands accepted by their queues (R131, R301, R302). -/

namespace Sys2Proof.Machine
open Sys2Proof

/-- With no store on its way and no write-combining entry nothing has to settle before a command's issue (R131). -/
theorem State.settleIssue_nil {s : State} {k : Nat} (h : (s.core k).caches.stores = []) (hw : (s.core k).caches.wc = []) (key : Nat) (out : Bool) :
    s.settleIssue k key out = (s, true) := by
  rw [State.settleIssue, State.writeOutWhere_nil hw, State.drainStores_nil h]
  simp [h]

/-- The flag that a thread's command names lies in its team's allocation (R301). -/
theorem flagMissing_iff {s : State} {c : Issue} (hg : isGlen c.who = false) (i : Instr) :
    flagMissing s c i = true ↔ ¬∀ n, flagField i = some n → n < (s.teamOf c).res.nflags := by
  obtain ⟨a, ha⟩ : ∃ a, c.who = .gang a := by
    cases hw : c.who with
    | gang a => exact ⟨a, rfl⟩
    | glen n => rw [hw] at hg; cases hg
  cases hf : flagField i with
  | none => simp [flagMissing, hf]
  | some n => by_cases hn : n < (s.teamOf c).res.nflags <;> simp [flagMissing, hf, flagNumber, ha, hn]

/-- The state with a command queued. -/
def State.queued (s : State) (c : Issue) (d : Cmd) : State :=
  (s.onStore (fun m => { m with nextOwner := m.nextOwner + 1 })).onCore (coreOf c.who)
    (fun k => { k with cmds := k.cmds ++ [d], nextCmd := k.nextCmd + 1 })

theorem State.queued_commanded (s : State) (c : Issue) (site : Site) (i : Instr) (f : Cmd → Cmd) :
    Commanded s (s.queued c (f (newCmd s c site i))) c site i f :=
  ⟨rfl, fun j hj => by rw [State.queued, State.core_onCore, if_neg hj]; rfl, State.core_onCore_same _ _ _⟩

/-- Whether an accepted command goes outside its core. -/
def goesOut (i : Instr) : Bool := unitOf i == 4 || (match i with | .attn _ => true | _ => false)

theorem State.accept_eq (s : State) (c : Issue) (site : Site) (i : Instr) (f : Cmd → Cmd) (g : Cmd → State → State) :
    s.accept c site i f g =
      if flagMissing s c i then s.illegalOperand site
      else if queueFull (s.core (coreOf c.who)) (unitOf i) || (unitOf i != 3 && tstOutstanding (s.core (coreOf c.who)) c.who) then s.waitFor .poll
      else if !(s.settleIssue (coreOf c.who) (threadKey c.who) (goesOut i)).2 then s.waitFor .poll
      else g (f (newCmd (s.settleIssue (coreOf c.who) (threadKey c.who) (goesOut i)).1 c site i))
        ((s.settleIssue (coreOf c.who) (threadKey c.who) (goesOut i)).1.queued c (f (newCmd (s.settleIssue (coreOf c.who) (threadKey c.who) (goesOut i)).1 c site i))) :=
  rfl

/-- A command whose queue accepts it (R301, R302). -/
theorem State.accept_queues {s : State} {c : Issue} {site : Site} {i : Instr} {f : Cmd → Cmd} {g : Cmd → State → State} {unit depth : Nat}
    {act : State → Prop} (h : Runs s c) (hg : isGlen c.who = false) (he : exec i s = .next (s.accept c site i f g)) (hu : unitOf i = unit)
    (hd : queueDepth unit = depth) (hact : act (g (f (newCmd s c site i)) (s.queued c (f (newCmd s c site i))))) :
    Queues s c site i unit depth act := by
  subst hu hd
  rw [State.accept_eq] at he
  refine ⟨fun hf => ?_, fun hin hfull => ?_, fun hq => ⟨_, he.trans (congrArg Host.Outcome.next ?_), hact⟩⟩
  · rw [if_pos ((flagMissing_iff hg i).mpr hf)] at he
    exact TrapsWith.of_illegalOperand h he
  · rw [if_neg (mt (flagMissing_iff hg i).mp (not_not.mpr hin)), if_pos] at he
    · exact EndsWith.of_waitFor h he
    · simpa [queueFull] using hfull
  · obtain ⟨-, hs, hw, hlen, htst, hin⟩ := hq
    rw [if_neg (mt (flagMissing_iff hg i).mp (not_not.mpr hin)), if_neg, State.settleIssue_nil hs hw]
    · rfl
    · simpa [queueFull, hlen, Classical.or_iff_not_imp_left] using htst

end Sys2Proof.Machine
end

section
/-! A command that writes its core's storage and ends, and tile elements written (R62, R303, R316, R318). -/

namespace Sys2Proof.Machine
open Sys2Proof

/-! ## The end of a command that wrote its core's storage -/

/-- A change of a core's storage keeps what does not read it. -/
theorem State.onTiles_part {α : Type} (p : Core → α) (hp : ∀ c x, p { c with store := x } = p c) (s : State) (core : Nat) (f : CoreStore → CoreStore) (k : Nat) :
    p ((s.onTiles core f).core k) = p (s.core k) := State.core_onCore_of p s core _ (hp _ _) k

theorem CmdLeaves.of_onTiles {s t : State} {core : Nat} {d : Cmd} {f : CoreStore → CoreStore} (h : CmdLeaves (s.onTiles core f) t core d) :
    CmdLeaves s t core d := by
  obtain ⟨hg, hf, hs, hc, ho, hm, hr⟩ := h
  have part {α : Type} (p : Core → α) (hp : ∀ c x, p { c with store := x } = p c) (k : Nat) := State.onTiles_part p hp s core f k
  refine ⟨fun v => (hg v).trans ?_, hf, hs, fun k => (hc k).trans ?_, fun k hk => ?_, hm.trans ?_, fun k r => ?_⟩
  · exact State.groupOf_of_groups (part Core.groups (fun _ _ => rfl)) rfl v
  · exact part (fun c => { c with store := {}, cmds := [], rings := [], flags := [] }) (fun _ _ => rfl) k
  · have hk' : (s.onTiles core f).core k = s.core k := by rw [State.onTiles, State.core_onCore, if_neg hk]
    rw [← hk']
    exact ho k hk
  · rw [part Core.cmds (fun _ _ => rfl) core]
  · rw [← show (s.onTiles core f).ring k r = s.ring k r from part (fun c => Sparse.look ({} : Ring) r c.rings) (fun _ _ => rfl) k]
    exact hr k r

theorem FlagDone.of_onTiles {s t : State} {core : Nat} {d : Cmd} {f : CoreStore → CoreStore} {err : Bool} (h : FlagDone (s.onTiles core f) t core d err) :
    FlagDone s t core d err := by
  have part {α : Type} (p : Core → α) (hp : ∀ c x, p { c with store := x } = p c) := State.onTiles_part p hp s core f core
  have hflag (x : Nat) : (s.onTiles core f).flagOf core x = s.flagOf core x := part (fun c => Sparse.look ({} : Flag) x c.flags) (fun _ _ => rfl)
  obtain ⟨h0, h1⟩ := h
  refine ⟨fun hn x => (h0 hn x).trans (hflag x), fun n hn hst x => ?_⟩
  have := h1 n hn (by rwa [part (fun c => c.groupK d.groupKey) (fun _ _ => rfl), part Core.agent (fun _ _ => rfl)]) x
  rwa [part (fun c => c.team d.team) (fun _ _ => rfl), hflag] at this

/-- A command that writes its core's storage and ends (R303). -/
theorem State.writeThenFinish {s : State} (hc : s.store.cut = []) (core : Nat) (d : Cmd) (f : CoreStore → CoreStore) (err : Bool)
    (hf : (flagField d.op).isSome = true ∨ (d.err || err) = false) :
    let t := (s.onTiles core f).finishCmd core d err
    CmdLeaves s t core d ∧ FlagDone s t core d (d.err || err) ∧ (t.core core).store = f (s.core core).store := by
  obtain ⟨hl, hfl, hst⟩ := State.finishCmd_ends (s := s.onTiles core f) hc core d err hf
  refine ⟨CmdLeaves.of_onTiles hl, FlagDone.of_onTiles hfl, (hst core).trans ?_⟩
  rw [State.onTiles, State.core_onCore_same]

/-! ## Cells written one after another -/

/-- A cell that no write names is as before. -/
theorem Sparse.look_puts_other {α β : Type} [DecidableEq α] (d : α) (k : Nat) (key : β → Nat) (val : β → α) : ∀ (es : List β) (m : Sparse α),
    (∀ e ∈ es, key e ≠ k) → Sparse.look d k (es.foldl (fun m e => Sparse.put d (key e) (val e) m) m) = Sparse.look d k m
  | [], _, _ => rfl
  | e :: es, m, h => by
    rw [List.foldl_cons, Sparse.look_puts_other d k key val es _ (fun f hf => h f (List.mem_cons_of_mem _ hf)), Sparse.look_put,
      if_neg (Ne.symm (h e List.mem_cons_self))]

/-- A cell that every write that names it gives one value holds it. -/
theorem Sparse.look_puts {α β : Type} [DecidableEq α] (d : α) (k : Nat) (key : β → Nat) (val : β → α) (v : α) : ∀ (es : List β) (m : Sparse α),
    (∀ e ∈ es, key e = k → val e = v) → (∃ e ∈ es, key e = k) → Sparse.look d k (es.foldl (fun m e => Sparse.put d (key e) (val e) m) m) = v
  | [], _, _, h => by obtain ⟨e, he, -⟩ := h; cases he
  | e :: es, m, h, hex => by
    rw [List.foldl_cons]
    by_cases hrest : ∃ f ∈ es, key f = k
    · exact Sparse.look_puts d k key val v es _ (fun f hf => h f (List.mem_cons_of_mem _ hf)) hrest
    · rw [Sparse.look_puts_other d k key val es _ (fun f hf hk => hrest ⟨f, hf, hk⟩), Sparse.look_put]
      obtain ⟨f, hf, hk⟩ := hex
      obtain rfl | hf := List.mem_cons.mp hf
      · rw [if_pos hk.symm, h f List.mem_cons_self hk]
      · exact absurd ⟨f, hf, hk⟩ hrest

/-! ## Tile elements -/

theorem tileKey_inj {n m i j p q : Nat} (hi : i < 16) (hj : j < 64) (hp : p < 16) (hq : q < 64) (h : tileKey n i j = tileKey m p q) :
    n = m ∧ i = p ∧ j = q := by
  simp only [tileKey] at h
  omega

/-- An element as written: value, lost-significance flag and poison. -/
theorem CoreStore.setElems_at (k : CoreStore) (es : List (Nat × Word × Bool × Bool)) (key : Nat) (x : Word × Bool × Bool)
    (h : ∀ e ∈ es, e.1 = key → e.2 = x) (hex : ∃ e ∈ es, e.1 = key) :
    (k.setElems es).elem key = x.1 ∧ (k.setElems es).lostAt key = x.2.1 ∧ Sparse.look false key (k.setElems es).tilePoison = x.2.2 :=
  ⟨Sparse.look_puts 0 key Prod.fst (fun e : Nat × Word × Bool × Bool => e.2.1) x.1 es k.tiles (fun e he hk => by rw [h e he hk]) hex,
    Sparse.look_puts false key Prod.fst (fun e : Nat × Word × Bool × Bool => e.2.2.1) x.2.1 es k.lost (fun e he hk => by rw [h e he hk]) hex,
    Sparse.look_puts false key Prod.fst (fun e : Nat × Word × Bool × Bool => e.2.2.2) x.2.2 es k.tilePoison (fun e he hk => by rw [h e he hk]) hex⟩

/-- An element that is not among those written. -/
theorem CoreStore.setElems_other (k : CoreStore) (es : List (Nat × Word × Bool × Bool)) (key : Nat) (h : ∀ e ∈ es, e.1 ≠ key) :
    (k.setElems es).elem key = k.elem key ∧ (k.setElems es).lostAt key = k.lostAt key ∧
      Sparse.look false key (k.setElems es).tilePoison = Sparse.look false key k.tilePoison :=
  ⟨Sparse.look_puts_other 0 key Prod.fst (fun e : Nat × Word × Bool × Bool => e.2.1) es k.tiles h, Sparse.look_puts_other false key Prod.fst (fun e : Nat × Word × Bool × Bool => e.2.2.1) es k.lost h,
    Sparse.look_puts_other false key Prod.fst (fun e : Nat × Word × Bool × Bool => e.2.2.2) es k.tilePoison h⟩

end Sys2Proof.Machine
end

section
/-! Tile-unit commands: their start and what they leave in the tiles (R62, R183, R302, R317 to R319). -/

namespace Sys2Proof.Machine
open Sys2Proof

/-! ## Start -/

/-- The conditions of R302 and R318 on the start of a tile-unit command. -/
theorem tileCanStart_iff {s : State} {core : Nat} {d : Cmd} (hp : d.phase = .registered) (hu : unitOf d.op = 3) :
    let k := s.core core
    let uses := tileUses (k.team d.team) d.op
    tileCanStart s core d = true ↔
      (∀ x ∈ k.cmds, x.id < d.id → unitOf x.op = 3 → x.begun = true ∨ x.paused ≠ none) ∧
      (∀ x ∈ k.cmds, x.id < d.id → ∀ y ∈ matTargets (k.team x.team) x.op, y ∉ uses.2 ∧ (y ∈ uses.1 → peeks d.op = true)) ∧
      ∀ x ∈ k.cmds, x.id < d.id → unitOf x.op = 3 →
        (∀ y ∈ (tileUses (k.team x.team) x.op).2, y ∉ uses.1 ∧ y ∉ uses.2) ∧ ∀ y ∈ (tileUses (k.team x.team) x.op).1, y ∉ uses.2 := by
  intro k uses
  have h1 : earlierStarted k d = true ↔ ∀ x ∈ k.cmds, x.id < d.id → unitOf x.op = 3 → x.begun = true ∨ x.paused ≠ none := by
    simp only [earlierStarted, hu, List.all_eq_true, List.mem_filter, Bool.and_eq_true, decide_eq_true_eq, beq_iff_eq, Bool.or_eq_true,
      Option.isSome_iff_ne_none, and_imp]
  have h2 : tilesPending k d.id (uses.2 ++ (if peeks d.op then [] else uses.1)) = false ↔
      ∀ x ∈ k.cmds, x.id < d.id → ∀ y ∈ matTargets (k.team x.team) x.op, y ∉ uses.2 ∧ (y ∈ uses.1 → peeks d.op = true) := by
    cases hpk : peeks d.op <;> simp [tilesPending, not_or]
  have h3 : tilesBusy k d.id uses.1 false = false ↔
      ∀ x ∈ k.cmds, x.id < d.id → unitOf x.op = 3 → ∀ y ∈ (tileUses (k.team x.team) x.op).2, y ∉ uses.1 := by simp [tilesBusy]
  have h4 : tilesBusy k d.id uses.2 true = false ↔ ∀ x ∈ k.cmds, x.id < d.id → unitOf x.op = 3 →
      (∀ y ∈ (tileUses (k.team x.team) x.op).2, y ∉ uses.2) ∧ ∀ y ∈ (tileUses (k.team x.team) x.op).1, y ∉ uses.2 := by
    simp only [tilesBusy, if_true, List.any_eq_false, Bool.and_eq_true, decide_eq_true_eq, beq_iff_eq, List.any_append, Bool.or_eq_true,
      List.any_eq_true, List.contains_iff_mem, not_and, not_or, not_exists, and_imp]
  have hstart : tileCanStart s core d = (d.phase == .registered && earlierStarted k d && !tilesPending k d.id (uses.2 ++ (if peeks d.op then [] else uses.1)) &&
      !tilesBusy k d.id uses.1 false && !tilesBusy k d.id uses.2 true) := rfl
  rw [hstart, hp]
  simp only [beq_self_eq_true, Bool.true_and, Bool.and_eq_true, Bool.not_eq_true', h1, h2, h3, h4]
  constructor
  · rintro ⟨⟨⟨a, b⟩, c⟩, e⟩
    exact ⟨a, b, fun x hx hid hun => ⟨fun y hy => ⟨c x hx hid hun y hy, (e x hx hid hun).1 y hy⟩, (e x hx hid hun).2⟩⟩
  · rintro ⟨a, b, c⟩
    exact ⟨⟨⟨a, b⟩, fun x hx hid hun y hy => ((c x hx hid hun).1 y hy).1⟩, fun x hx hid hun =>
      ⟨fun y hy => ((c x hx hid hun).1 y hy).2, (c x hx hid hun).2⟩⟩

theorem exec_tileStart {s : State} {core : Nat} {d : Cmd} (h : (s.core core).cmd d.id = some d) (hu : unitOf d.op = 3) :
    exec (.engineCommandStart core d.id) s = .next (if tileCanStart s core d then
      (match d.op with
       | .accflg o => s.readFlags core d o
       | op => s.beginCmd core d (tileLatency op)) else s) := by
  refine congrArg Host.Outcome.next ?_
  simp only [h, hu] <;> rfl

/-- A command begun (R302). -/
theorem State.beginCmd_becomes (s : State) (core : Nat) (d : Cmd) {m n : Nat} (h : m = n) :
    CmdBecomes s (s.beginCmd core d m) core d.id (fun x => { x with phase := .started, due := s.now + n }) := by
  subst h
  exact ⟨rfl, fun j hj => by rw [State.beginCmd, State.onCmd, State.core_onCore, if_neg hj], State.core_onCore_same _ _ _⟩

/-! ## ACCFLG at its turn -/

/-- Bits chosen one by one. -/
theorem maskOf_getLsbD (f : Nat → Bool) (n : Nat) (hn : n ≤ 32) (j : Nat) : (maskOf n f).getLsbD j = (decide (j < n) && f j) := by
  induction n with
  | zero => simp [maskOf]
  | succ n ih =>
    rw [maskOf, List.range_succ, List.foldl_append, List.foldl_cons, List.foldl_nil]
    rw [maskOf] at ih
    by_cases hj : j = n
    · subst hj
      cases hf : f j <;> simp [ih (by omega), hf]
      omega
    · by_cases hf : f n = true
      · rw [if_pos hf, BitVec.getLsbD_or, ih (by omega)]
        have : (1#32 <<< n).getLsbD j = false := by
          rw [BitVec.getLsbD_shiftLeft, BitVec.getLsbD_one]
          by_cases hlt : j < n
          · simp [hlt]
          · simp only [hlt, decide_false, Bool.not_false, Bool.and_true]
            rw [show decide (j - n = 0) = false by simp; omega]
            simp
        rw [this, Bool.or_false]
        congr 1
        simp; omega
      · rw [if_neg hf, ih (by omega)]
        congr 1
        simp; omega

theorem arriveLanes_skip (keys : List Nat) (vals : List Word) (due : Nat) (pre rs : List InFlight)
    (h : ∀ x ∈ pre, ¬(x.held = true ∧ x.empties = false ∧ x.lanes.map Prod.fst = keys)) :
    arriveLanes keys vals due (pre ++ rs) = pre ++ arriveLanes keys vals due rs := by
  induction pre with
  | nil => rfl
  | cons x pre ih =>
    rw [List.cons_append, arriveLanes, if_neg, ih (fun y hy => h y (List.mem_cons_of_mem _ hy))]
    · rfl
    · have := h x List.mem_cons_self
      simpa [and_assoc] using this

theorem arriveLanes_hit (keys : List Nat) (vals : List Word) (due : Nat) (r : InFlight) (rs : List InFlight)
    (h : r.held = true ∧ r.empties = false ∧ r.lanes.map Prod.fst = keys) :
    arriveLanes keys vals due (r :: rs) = { r with lanes := (keys.zip vals).map (fun p => (p.1, p.2, false)), held := false, due := due } :: rs := by
  rw [arriveLanes, if_pos]
  simp [h]

/-- A command that leaves after its issuer's registers changed, seen as the command's leaving and then the change of the registers. -/
theorem State.onGroup_dropCmd {s : State} (hc : s.store.cut = []) (core : Nat) (d : Cmd) (a : GangAt) (F : Group → Group) :
    ∃ u, CmdLeaves s u core d ∧ (∀ n, (u.core n).store = (s.core n).store) ∧ (u.core core).flags = (s.core core).flags ∧
      ∀ G : Group → Group, F (s.groupOf (.gang a)) = G (s.groupOf (.gang a)) →
        GroupBecomes u ((s.onGroup (.gang a) F).dropCmd core d) (.gang a) G := by
  obtain ⟨hl, hk⟩ := State.dropCmd_leaves (s := s.onGroup (.gang a) F) hc core d
  obtain ⟨hm, hother, hcores, -, -⟩ := OnlyRegisters.onGroup (.gang a) s F
  generalize ht : (s.onGroup (.gang a) F).dropCmd core d = t at *
  obtain ⟨hg, hf, hs, hc', ho, hcmds, hr⟩ := hl
  let u : State := t.onCore a.core (fun c => { c with groups := (s.core a.core).groups })
  have hu (k : Nat) : u.core k = if k = a.core then { t.core k with groups := (s.core k).groups } else t.core k := by
    show (t.onCore a.core _).core k = _
    rw [State.core_onCore]
    split
    · next h => rw [h]
    · rfl
  have part {α : Type} (p : Core → α) (hp : ∀ c x, p { c with groups := x } = p c) (k : Nat) : p (u.core k) = p (t.core k) := by
    rw [hu]; split <;> simp only [hp]
  have spart {α : Type} (p : Core → α) (hp : ∀ c x, p { c with groups := x } = p c) (k : Nat) : p ((s.onGroup (.gang a) F).core k) = p (s.core k) := by
    rw [← hp _ [], hcores k, hp]
  have hgroups (k : Nat) : (u.core k).groups = (s.core k).groups := by
    rw [hu]
    split
    · rfl
    · next h =>
      refine (eq_of_without (fun c : Core => { c with store := {}, cmds := [], rings := [], flags := [] }) Core.groups (fun _ => rfl) (hc' k)).trans ?_
      show ((s.onCore a.core _).core k).groups = _
      rw [State.core_onCore, if_neg h]
  have hug (v : Who) : u.groupOf v = s.groupOf v := State.groupOf_of_groups hgroups (by rw [show u.glens = t.glens from rfl, hf]; rfl) v
  refine ⟨u, ⟨hug, ?_, hs.trans rfl, fun k => ?_, fun k hk' => ⟨?_, ?_, ?_⟩, ?_, fun k r => ?_⟩, fun n => ?_, ?_, fun G hG => ⟨⟨?_, fun v hv => ?_, fun k => ?_,
    fun n => rfl, ?_⟩, ?_⟩⟩
  · show ({ t with cores := _ } : State) = _
    rw [hf]; rfl
  · have h1 : { u.core k with store := {}, cmds := [], rings := [], flags := [] } =
        ({ t.core k with groups := (s.core k).groups, store := {}, cmds := [], rings := [], flags := [] } : Core) := by
      rw [hu]
      split
      · rfl
      · next h =>
        have := hgroups k
        rw [hu, if_neg h] at this
        rw [← this]
    rw [h1]
    have h2 := congrArg (fun c : Core => { c with groups := (s.core k).groups }) (hc' k)
    refine h2.trans ?_
    exact spart (fun c => { c with groups := (s.core k).groups, store := {}, cmds := [], rings := [], flags := [] }) (fun _ _ => rfl) k
  · exact (part Core.store (fun _ _ => rfl) k).trans ((ho k hk').1.trans (spart Core.store (fun _ _ => rfl) k))
  · exact (part Core.cmds (fun _ _ => rfl) k).trans ((ho k hk').2.1.trans (spart Core.cmds (fun _ _ => rfl) k))
  · exact (part Core.flags (fun _ _ => rfl) k).trans ((ho k hk').2.2.trans (spart Core.flags (fun _ _ => rfl) k))
  · exact (part Core.cmds (fun _ _ => rfl) core).trans (hcmds.trans (by rw [spart Core.cmds (fun _ _ => rfl) core]))
  · have h1 : u.ring k r = t.ring k r := part (fun c => Sparse.look ({} : Ring) r c.rings) (fun _ _ => rfl) k
    have h2 : (s.onGroup (.gang a) F).ring k r = s.ring k r := spart (fun c => Sparse.look ({} : Ring) r c.rings) (fun _ _ => rfl) k
    rw [h1, ← h2]
    exact hr k r
  · exact (part Core.store (fun _ _ => rfl) n).trans ((hk n).1.trans (spart Core.store (fun _ _ => rfl) n))
  · exact (part Core.flags (fun _ _ => rfl) core).trans ((hk core).2.trans (spart Core.flags (fun _ _ => rfl) core))
  · exact .of_stores rfl (fun k => by rw [part Core.store (fun _ _ => rfl) k]) rfl
  · rw [hg v, hug v]; exact hother v hv
  · exact (part (fun c => { c with groups := [] }) (fun _ _ => rfl) k).symm
  · rfl
  · rw [hg, hug, State.groupOf_onGroup_same, hG]


/-- ACCFLG at its turn: its two registers, which await their results, are given the flags of the active rows (R317). -/
theorem State.readFlags_eq (s : State) (core : Nat) (d : Cmd) (o : ROp) (r0 r1 : Nat) (ha : d.aux = [r0, r1]) (pre post : List InFlight) (x0 x1 : InFlight)
    (hi : (s.groupOf d.who).inflight = pre ++ x0 :: x1 :: post)
    (hpre : ∀ x ∈ pre, ¬(x.held = true ∧ x.empties = false ∧ x.lanes.map Prod.fst = flagKeys (s.groupOf d.who) d r0) ∧
      ¬(x.held = true ∧ x.empties = false ∧ x.lanes.map Prod.fst = flagKeys (s.groupOf d.who) d r1))
    (h0 : x0.held = true ∧ x0.empties = false ∧ x0.lanes.map Prod.fst = flagKeys (s.groupOf d.who) d r0)
    (h1 : x1.held = true ∧ x1.empties = false ∧ x1.lanes.map Prod.fst = flagKeys (s.groupOf d.who) d r1) :
    let row (l lo : Nat) : Word := flagColumns (s.core core).store (((s.core core).team d.team).res.abase + (o.mod.extractLsb' 8 6).toNat) l lo
    let arrived (x : InFlight) (r lo : Nat) : InFlight :=
      { x with lanes := (maskLanes d.amask).map (fun l => (32 * ((s.groupOf d.who).gid.rbase + r) + l, row l lo, false)), held := false, due := s.now + 6 }
    ∃ F : Group → Group, s.readFlags core d o = (s.onGroup d.who F).dropCmd core d ∧
      F (s.groupOf d.who) = { s.groupOf d.who with inflight := pre ++ arrived x0 r0 0 :: arrived x1 r1 32 :: post } := by
  intro row arrived
  refine ⟨_, rfl, ?_⟩
  have hzip (r lo : Nat) : ((flagKeys (s.groupOf d.who) d r).zip ((maskLanes d.amask).map (fun l => row l lo))).map (fun p => (p.1, p.2, false)) =
      (maskLanes d.amask).map (fun l => (32 * ((s.groupOf d.who).gid.rbase + r) + l, row l lo, false)) := by
    rw [flagKeys, List.zip_map', List.map_map]
    rfl
  have hskip : ¬((arrived x0 r0 0).held = true ∧ (arrived x0 r0 0).empties = false ∧ (arrived x0 r0 0).lanes.map Prod.fst = flagKeys (s.groupOf d.who) d r1) :=
    fun h => Bool.false_ne_true h.1
  have hlist : (d.aux.zip [0, 32]).foldl (fun rs p => arriveLanes (flagKeys (s.groupOf d.who) d p.1) ((maskLanes d.amask).map (fun l => row l p.2)) (s.now + 6) rs)
      (s.groupOf d.who).inflight = pre ++ arrived x0 r0 0 :: arrived x1 r1 32 :: post := by
    rw [ha, hi]
    simp only [List.zip_cons_cons, List.zip_nil_left, List.foldl_cons, List.foldl_nil]
    rw [arriveLanes_skip _ _ _ pre _ (fun x hx => (hpre x hx).1), arriveLanes_hit _ _ _ x0 _ h0, hzip,
      arriveLanes_skip _ _ _ pre _ (fun x hx => (hpre x hx).2)]
    have hx0 := arriveLanes_skip (flagKeys (s.groupOf d.who) d r1) ((maskLanes d.amask).map (fun l => row l 32)) (s.now + 6) [arrived x0 r0 0] (x1 :: post)
      (fun x hx => by rw [List.mem_singleton.mp hx]; exact hskip)
    rw [arriveLanes_hit _ _ _ x1 _ h1, hzip] at hx0
    exact congrArg (pre ++ ·) hx0
  exact congrArg (fun rs => { s.groupOf d.who with inflight := rs }) hlist

/-! ## Elements of a tile's result -/

/-- What TREDR and TREDC combine two elements by (R318). -/
def reduceBy (sel x y : Nat) : Nat :=
  match sel with
  | 0 => (addElem f32 0 false x y).1
  | 1 => (minMaxElem f32 true x y).1
  | _ => (minMaxElem f32 false x y).1

/-- A fold of a row or column: from the first element (R318). -/
theorem tileFold_range (sel n : Nat) (f : Nat → Nat × Bool) : tileFold sel ((List.range (n + 1)).map f) =
    (List.range n).foldl (fun r j => (canonical (reduceBy sel r.1 (f (j + 1)).1), r.2 || (f (j + 1)).2)) (f 0) := by
  rw [List.range_succ_eq_map, List.map_cons, tileFold, List.map_map, List.foldl_map]
  rfl

/-- The folded row of TREDR (R318). -/
theorem tileElem_tredr (o : EOp) (a b c : Nat → Nat → Nat × Bool) (i j : Nat) : tileElem (.tredr o) a b c i j =
    (List.range 63).foldl (fun r q => (canonical (reduceBy (o.ext.extractLsb' 40 3).toNat r.1 (a i (q + 1)).1), r.2 || (a i (q + 1)).2)) (a i 0) :=
  tileFold_range (o.ext.extractLsb' 40 3).toNat 63 (fun q => a i q)

/-- The folded column of TREDC (R318). -/
theorem tileElem_tredc (o : EOp) (a b c : Nat → Nat → Nat × Bool) (i j : Nat) : tileElem (.tredc o) a b c i j =
    (List.range 15).foldl (fun r q => (canonical (reduceBy (o.ext.extractLsb' 40 3).toNat r.1 (a (q + 1) j).1), r.2 || (a (q + 1) j).2)) (a 0 j) :=
  tileFold_range (o.ext.extractLsb' 40 3).toNat 15 (fun q => a q j)

/-- Elements that are those of one tile, written: they hold what is written, every other what it held. -/
theorem setElems_tile (k : CoreStore) (es : List (Nat × Word × Bool × Bool)) (dest : Nat) (w : Nat → Nat → Word × Bool × Bool)
    (hes : ∀ e, e ∈ es ↔ ∃ i < 16, ∃ j < 64, e = (tileKey dest i j, w i j)) (n i j : Nat) (hi : i < 16) (hj : j < 64) :
    (k.setElems es).elem (tileKey n i j) = (if n = dest then (w i j).1 else k.elem (tileKey n i j)) ∧
    (k.setElems es).lostAt (tileKey n i j) = (if n = dest then (w i j).2.1 else k.lostAt (tileKey n i j)) ∧
    Sparse.look false (tileKey n i j) (k.setElems es).tilePoison = (if n = dest then (w i j).2.2 else Sparse.look false (tileKey n i j) k.tilePoison) := by
  by_cases hn : n = dest
  · subst hn
    simp only [if_true]
    refine k.setElems_at es _ (w i j) (fun e he hk => ?_) ⟨_, (hes _).mpr ⟨i, hi, j, hj, rfl⟩, rfl⟩
    obtain ⟨p, hp, q, hq, rfl⟩ := (hes e).mp he
    obtain ⟨-, rfl, rfl⟩ := tileKey_inj hp hq hi hj hk
    rfl
  · simp only [if_neg hn]
    refine k.setElems_other es _ (fun e he hk => ?_)
    obtain ⟨p, hp, q, hq, rfl⟩ := (hes e).mp he
    exact hn (tileKey_inj hp hq hi hj hk).1.symm

/-- The elements that an operation with one destination writes. -/
theorem mem_tileResult (k : CoreStore) (t : Team) (op : Instr) (srcs : List Nat) (dest : Nat) (hu : tileUses t op = (srcs, [dest])) (c : Core)
    (hc : c.store = k) (e : Nat × Word × Bool × Bool) : e ∈ tileResult k t op ↔ ∃ i < 16, ∃ j < 64, e = (tileKey dest i j,
      (BitVec.ofNat 32 (tileElem op (tileAt c (srcs.getD 0 0)) (tileAt c (srcs.getD 1 0)) (tileAt c (srcs.getD 2 0)) i j).1,
        (tileElem op (tileAt c (srcs.getD 0 0)) (tileAt c (srcs.getD 1 0)) (tileAt c (srcs.getD 2 0)) i j).2, false)) := by
  subst hc
  simp only [tileResult, hu, List.flatMap_cons, List.flatMap_nil, List.append_nil, List.mem_flatMap, List.mem_map, List.mem_range]
  constructor
  · rintro ⟨i, hi, j, hj, rfl⟩
    exact ⟨i, hi, j, hj, rfl⟩
  · rintro ⟨i, hi, j, hj, rfl⟩
    exact ⟨i, hi, j, hj, rfl⟩

/-! ## Completion -/

/-- No element of some tiles is poisoned exactly where each of them is clean. -/
theorem tilesBad_tileKeys (k : Core) (tiles : List Nat) : tilesBad k.store (tileKeys tiles) = true ↔ ¬∀ x ∈ tiles, TileClean k x := by
  have hkeys : (tileKeys tiles).any (fun x => Sparse.look false x k.store.tilePoison) = true ↔ ¬∀ x ∈ tiles, TileClean k x := by
    simp [tileKeys, TileClean]
  rw [tilesBad, Bool.and_eq_true, hkeys]
  refine ⟨fun h => h.2, fun h => ⟨?_, h⟩⟩
  by_contra he
  have hnil : k.store.tilePoison = [] := by simpa using he
  exact h (fun x _ q _ => by rw [hnil]; rfl)

section
variable {s : State} {core : Nat} {d : Cmd} (h : Holds s core d .started) (hdue : d.due ≤ s.now)
include h hdue

theorem exec_tileEnd (hu : unitOf d.op = 3) : exec (.tileOpComplete core d.id) s = .next (s.completeTile core d) := by
  obtain ⟨hc, hp, -⟩ := h
  refine congrArg Host.Outcome.next ?_
  simp only [hc, hu, hp, hdue] <;> rfl

/-- A tile-unit command without a flag that writes its core's storage and ends. -/
theorem tileEnds {f : CoreStore → CoreStore} (herr : d.err = false) (hcut : s.store.cut = []) (hu : unitOf d.op = 3)
    (hf : s.completeTile core d = (s.onTiles core f).finishCmd core d false) :
    ∃ t, exec (.tileOpComplete core d.id) s = .next t ∧ CmdLeaves s t core d ∧ FlagUp s t core d ∧ (t.core core).store = f (s.core core).store := by
  obtain ⟨h1, h2, h3⟩ := State.writeThenFinish hcut core d f false (.inr (by rw [herr]; rfl))
  rw [herr] at h2
  exact ⟨_, (exec_tileEnd h hdue hu).trans (congrArg Host.Outcome.next hf), h1, h2, h3⟩

/-- An operation that writes one whole tile (R318). -/
theorem tileEnds_tile {es : List (Nat × Word × Bool × Bool)} {dest : Nat} {w : Nat → Nat → Word × Bool × Bool} (herr : d.err = false)
    (hcut : s.store.cut = []) (hu : unitOf d.op = 3) (hes : ∀ e, e ∈ es ↔ ∃ i < 16, ∃ j < 64, e = (tileKey dest i j, w i j))
    (hf : s.completeTile core d = (s.onTiles core (fun k => k.setElems es)).finishCmd core d false) :
    ∃ t, (exec (.tileOpComplete core d.id) s = .next t ∧ TilesOnly s t core d) ∧ ∀ n, ∀ i < 16, ∀ j < 64,
      tileAt (t.core core) n i j = (if n = dest then ((w i j).1.toNat, (w i j).2.1) else tileAt (s.core core) n i j) ∧
      Sparse.look false (tileKey n i j) (t.core core).store.tilePoison =
        (if n = dest then (w i j).2.2 else Sparse.look false (tileKey n i j) (s.core core).store.tilePoison) := by
  obtain ⟨t, he, hl, -, hst⟩ := tileEnds h hdue herr hcut hu hf
  refine ⟨t, ⟨he, hl, by rw [hst]; rfl⟩, fun n i hi j hj => ?_⟩
  obtain ⟨h1, h2, h3⟩ := setElems_tile (s.core core).store es dest w hes n i j hi hj
  rw [tileAt, hst, h1, h2]
  refine ⟨?_, h3⟩
  split <;> rfl

end


/-! ## TLD and TST -/

/-- The elements of one tile numbered row by row. -/
theorem exists_tile_position (q : Nat) : q < 1024 ↔ ∃ i < 16, ∃ j < 64, q = 64 * i + j := by
  constructor
  · intro h
    exact ⟨q / 64, by omega, q % 64, by omega, by omega⟩
  · rintro ⟨i, hi, j, hj, rfl⟩
    omega

/-- What TLD writes of element `n`: widened, its flag clear, poisoned where one of its bytes was (R319). -/
def tldElem (d : Cmd) (o : EOp) (n : Nat) : Word × Bool × Bool :=
  let x := elemOf (fun i => (d.desc.getD i 0, d.aux.contains i)) o.ty.elemBits n
  (BitVec.ofNat 32 (match fmtOfTy o.ty with
    | some g => if o.ty.elemBits == 32 then x.1 else (floatToFloat g f32 0 false x.1).1
    | none => x.1), false, x.2)

theorem mem_tldElems (t : Team) (d : Cmd) (o : EOp) (e : Nat × Word × Bool × Bool) : e ∈ tldElems t d o ↔
    ∃ i < 16, ∃ j < 64, e = (tileKey (t.res.abase + (o.ext.extractLsb' 0 6).toNat) i j, tldElem d o (64 * i + j)) := by
  have hm : tldElems t d o = (List.range 1024).map (fun n => (1024 * (t.res.abase + (o.ext.extractLsb' 0 6).toNat) + n, tldElem d o n)) := rfl
  have hk (i j : Nat) : 1024 * (t.res.abase + (o.ext.extractLsb' 0 6).toNat) + (64 * i + j) = tileKey (t.res.abase + (o.ext.extractLsb' 0 6).toNat) i j := by
    simp only [tileKey]; omega
  simp only [hm, List.mem_map, List.mem_range, exists_tile_position]
  constructor
  · rintro ⟨_, ⟨i, hi, j, hj, rfl⟩, rfl⟩
    exact ⟨i, hi, j, hj, by rw [hk]⟩
  · rintro ⟨i, hi, j, hj, rfl⟩
    exact ⟨_, ⟨i, hi, j, hj, rfl⟩, by rw [hk]⟩

/-- An element of 8, 16 or 32 bits is the little-endian number of its bytes, poisoned where one of them is. -/
theorem elemOf_bytes (f : Nat → Byte × Bool) (bits n : Nat) (h : bits ∈ [8, 16, 32]) :
    elemOf f bits n = (leNat ((List.range (bits / 8)).map (fun x => (f (bits / 8 * n + x)).1)),
      (List.range (bits / 8)).any (fun w => (f (bits / 8 * n + w)).2)) := by
  simp only [List.mem_cons, List.not_mem_nil, or_false] at h
  obtain rfl | rfl | rfl := h
  · simp [elemOf, leNat]
  · simp [elemOf, leNat, List.range_succ]
  · rfl

/-- Among bytes written, those to the scratchpad. -/
def herePart (bs : List (SpadByte × Byte)) : List (Nat × Byte) := bs.filterMap (fun p => match p.1 with | .here a => some (a, p.2) | .there _ => none)

/-- Among bytes written, those to memory. -/
def therePart (bs : List (SpadByte × Byte)) : List (Nat × Byte) := bs.filterMap (fun p => match p.1 with | .here _ => none | .there q => some (q, p.2))

/-- The places among which a word of the scratchpad is written whole. -/
def wholeWords (ps : List Nat) : List Nat := ps.filter (fun a => (List.range 4).all (fun i => ps.contains (a / 4 * 4 + i)))

/-- A core's storage with bytes of its scratchpad written (R73). -/
def CoreStore.putSpad (k : CoreStore) (bs : List (Nat × Byte)) : CoreStore :=
  { k with spad := bs.foldl (fun m b => Sparse.put 0#8 b.1 b.2 m) k.spad
           spadPoison := (wholeWords (bs.map Prod.fst)).foldl (fun m a => Sparse.put false (a / 4) false m) k.spadPoison }

theorem State.spadWrite_eq (s : State) (core : Nat) (bs : List (SpadByte × Byte)) : s.spadWrite core bs =
    if (therePart bs).isEmpty then s.onTiles core (fun k => k.putSpad (herePart bs))
    else (s.onTiles core (fun k => k.putSpad (herePart bs))).coherentWrite core (therePart bs) false none := rfl

/-- Bytes of the scratchpad alone. -/
theorem State.spadWrite_here (s : State) (core : Nat) (ps : List Nat) (data : List Byte) :
    s.spadWrite core ((ps.map SpadByte.here).zip data) = s.onTiles core (fun k => k.putSpad (ps.zip data)) := by
  have hh : herePart ((ps.map SpadByte.here).zip data) = ps.zip data := by
    rw [herePart, List.zip_map_left, List.filterMap_map]
    exact List.filterMap_some
  have ht : therePart ((ps.map SpadByte.here).zip data) = [] := by
    rw [therePart, List.zip_map_left, List.filterMap_map]
    exact List.filterMap_eq_nil_iff.mpr (fun _ _ => rfl)
  rw [State.spadWrite_eq, hh, ht]
  rfl

/-- The poison of the scratchpad after writes: a word written whole is clean (R73). -/
theorem look_cleanWords (ps : List Nat) (m : Sparse Bool) (w : Nat) :
    Sparse.look false w ((wholeWords ps).foldl (fun m a => Sparse.put false (a / 4) false m) m) =
      if (List.range 4).all (fun j => ps.contains (4 * w + j)) then false else Sparse.look false w m := by
  split
  · next h =>
    refine Sparse.look_puts false w (· / 4) (fun _ => false) false _ m (fun _ _ _ => rfl) ⟨4 * w, List.mem_filter.mpr ⟨?_, ?_⟩, by omega⟩
    · have := List.all_eq_true.mp h 0 (by simp)
      simpa using this
    · rwa [show 4 * w / 4 * 4 = 4 * w by omega]
  · next h =>
    refine Sparse.look_puts_other false w (· / 4) (fun _ => false) _ m (fun a ha hk => h ?_)
    have := (List.mem_filter.mp ha).2
    rwa [show a / 4 * 4 = 4 * w by omega] at this

/-- The parts of a list of parts of one length. -/
theorem getElem?_flatMap_const {α β : Type} (f : α → List β) (len : Nat) (hf : ∀ x, (f x).length = len) (l : List α) (n w : Nat) (hw : w < len) :
    (l.flatMap f)[len * n + w]? = l[n]?.bind (fun x => (f x)[w]?) := by
  induction l generalizing n with
  | nil => simp
  | cons x l ih =>
    rw [List.flatMap_cons]
    cases n with
    | zero => rw [List.getElem?_append_left (by rw [hf]; omega)]; simp
    | succ n =>
      rw [List.getElem?_append_right (by rw [hf, Nat.mul_succ]; omega), hf, show len * (n + 1) + w - len = len * n + w by rw [Nat.mul_succ]; omega, ih]
      simp

@[simp] theorem length_leBytes (n x : Nat) : (leBytes n x).length = n := by
  induction n generalizing x with
  | zero => rfl
  | succ n ih => simp [leBytes, ih]

theorem getElem?_leBytes (n x w : Nat) (h : w < n) : (leBytes n x)[w]? = some (BitVec.ofNat 8 (x / 256 ^ w)) := by
  induction n generalizing x w with
  | zero => omega
  | succ n ih =>
    cases w with
    | zero => simp [leBytes]
    | succ w =>
      rw [leBytes, List.getElem?_cons_succ, ih _ _ (by omega), Nat.div_div_eq_div_mul, Nat.pow_succ']

/-- A byte written among distinct places is the one at its place. -/
theorem byte_puts_at (ps : List Nat) (data : List Byte) (m : Memory) (hn : ps.Nodup) (q p : Nat) (b : Byte) (hp : ps[q]? = some p) (hb : data[q]? = some b) :
    Memory.byte ((ps.zip data).foldl (fun m b => Sparse.put 0#8 b.1 b.2 m) m) p = b := by
  have hz : (ps.zip data)[q]? = some (p, b) := by rw [List.getElem?_zip_eq_some]; exact ⟨hp, hb⟩
  refine Sparse.look_puts 0#8 p Prod.fst Prod.snd b (ps.zip data) m (fun e he hk => ?_) ⟨_, List.mem_of_getElem? hz, rfl⟩
  obtain ⟨r, hr⟩ := List.mem_iff_getElem?.mp he
  obtain ⟨h1, h2⟩ := List.getElem?_zip_eq_some.mp hr
  rw [hk] at h1
  have hq : q < ps.length := (List.getElem?_eq_some_iff.mp hp).1
  have : q = r := (List.getElem?_inj hq hn).mp (hp.trans h1.symm)
  subst this
  exact Option.some.inj (h2.symm.trans hb)


/-- The number that TST stores of an element: rounded, and with .sat an infinity of f32 as the largest finite value (R183, R319). -/
def tstValue (o : EOp) (x : Nat) : Nat :=
  match fmtOfTy o.ty with
  | some g => if o.ty.elemBits == 32 then saturate f32 (tileSat o) x else (floatToFloat f32 g (tileRm o) (tileSat o) x).1
  | none => x

theorem saturate_f32 (sat : Bool) (x : Nat) : saturate f32 sat x = if sat = true ∧ (x = 0x7F800000 ∨ x = 0xFF800000) then x - 1 else x := by
  have hi : f32.infinity false = 0x7F800000 ∧ f32.infinity true = 0xFF800000 := by decide
  rw [saturate, hi.1, hi.2]
  by_cases h : sat = true ∧ (x = 0x7F800000 ∨ x = 0xFF800000)
  · rw [if_pos h, if_pos (by simpa using h)]
    obtain ⟨-, rfl | rfl⟩ := h <;> decide
  · rw [if_neg h, if_neg (by simpa using h)]

/-- The sixteen rows of a TLD or TST are as long as the tile. -/
theorem length_tileBytes (o : EOp) (base : Nat) : (tileBytes o base).length = o.ty.elemBits / 8 * 1024 := by
  simp only [tileBytes, tileRowBytes, spadBytes, List.length_flatMap, List.length_map, List.length_range, List.map_const', List.sum_replicate,
    smul_eq_mul]
  omega

theorem length_tstData (k : CoreStore) (t : Team) (o : EOp) : (tstData k t o).length = 1024 * (o.ty.elemBits / 8) := by
  simp only [tstData, List.length_flatMap, length_leBytes, List.map_const', List.length_range, List.sum_replicate, smul_eq_mul]

/-- The byte that TST stores at a position of its data. -/
theorem getElem?_tstData (k : CoreStore) (t : Team) (o : EOp) (i j w : Nat) (hi : i < 16) (hj : j < 64) (hw : w < o.ty.elemBits / 8) :
    (tstData k t o)[o.ty.elemBits / 8 * (64 * i + j) + w]? = some (BitVec.ofNat 8
      (tstValue o (k.elem (tileKey (t.res.abase + (o.ext.extractLsb' 0 6).toNat) i j)).toNat / 256 ^ w)) := by
  have hd : tstData k t o = (List.range 1024).flatMap (fun n => leBytes (o.ty.elemBits / 8)
      (tstValue o (k.elem (1024 * (t.res.abase + (o.ext.extractLsb' 0 6).toNat) + n)).toNat)) := rfl
  rw [hd, getElem?_flatMap_const _ _ (fun n => length_leBytes _ _) _ _ _ hw, List.getElem?_range (by omega), Option.bind_some, getElem?_leBytes _ _ _ hw,
    show 1024 * (t.res.abase + (o.ext.extractLsb' 0 6).toNat) + (64 * i + j) = tileKey (t.res.abase + (o.ext.extractLsb' 0 6).toNat) i j by
      simp only [tileKey]; omega]

/-- TST at its end (R319). -/
theorem tstEnds {s : State} {core : Nat} {d : Cmd} {o : EOp} (h : Holds s core d .started) (hdue : d.due ≤ s.now) (herr : d.err = false)
    (hcut : s.store.cut = []) (hop : d.op = .tst o)
    (hc : TileClean (s.core core) (((s.core core).team d.team).res.abase + (o.ext.extractLsb' 0 6).toNat)) :
    ∃ t, exec (.tileOpComplete core d.id) s = .next t ∧ CmdLeaves s t core d ∧ FlagUp s t core d ∧
      (t.core core).store = (s.core core).store.putSpad (((tileBytes o d.a.toNat).map (fun p => ((s.core core).team d.team).res.spbase + p)).zip
        (tstData (s.core core).store ((s.core core).team d.team) o)) := by
  have hbad : tilesBad (s.core core).store (tileKeys (tileUses ((s.core core).team d.team) d.op).1) = false := by
    rw [← Bool.not_eq_true, tilesBad_tileKeys, not_not, hop]
    intro x hx
    rw [List.mem_singleton.mp hx]
    exact hc
  have hmap : (tileBytes o d.a.toNat).map (fun p => SpadByte.here (((s.core core).team d.team).res.spbase + p)) =
      ((tileBytes o d.a.toNat).map (fun p => ((s.core core).team d.team).res.spbase + p)).map SpadByte.here := by rw [List.map_map]; rfl
  have hf : s.completeTile core d = (s.onTiles core (fun k => k.putSpad (((tileBytes o d.a.toNat).map (fun p =>
      ((s.core core).team d.team).res.spbase + p)).zip (tstData (s.core core).store ((s.core core).team d.team) o)))).finishCmd core d false := by
    rw [State.completeTile]
    simp only [hbad, Bool.false_eq_true, if_false]
    simp only [hop, hmap, State.spadWrite_here]
  exact tileEnds h hdue herr hcut (by rw [hop]; rfl) hf


/-! ## The end of each operation -/

/-- Does the operation's end write every element of its destination by `tileResult`: it is none of ACCCLR, TLD and TST? -/
def writesWholeTile : Instr → Bool
  | .accclr _ | .tld _ | .tst _ => false
  | _ => true

/-- The end of a command whose source tiles are clean, by its operation (R317 to R319). -/
theorem State.completeTile_clean {s : State} {core : Nat} {d : Cmd}
    (hc : ∀ x ∈ (tileUses ((s.core core).team d.team) d.op).1, TileClean (s.core core) x) :
    (∀ o, d.op = .accclr o → s.completeTile core d = (s.onTiles core (fun k => { k with
      lost := (regionKeys ((s.core core).team d.team) (o.mod.extractLsb' 8 6).toNat d.amask).foldl (fun m x => Sparse.put false x false m) k.lost })).finishCmd core d false) ∧
    (∀ o, d.op = .tld o → s.completeTile core d = (s.onTiles core (fun k => k.setElems (tldElems ((s.core core).team d.team) d o))).finishCmd core d false) ∧
    (writesWholeTile d.op = true → s.completeTile core d =
      (s.onTiles core (fun k => k.setElems (tileResult (s.core core).store ((s.core core).team d.team) d.op))).finishCmd core d false) := by
  have hbad : tilesBad (s.core core).store (tileKeys (tileUses ((s.core core).team d.team) d.op).1) = false := by
    rw [← Bool.not_eq_true, tilesBad_tileKeys, not_not]
    exact hc
  rw [State.completeTile]
  simp only [hbad, Bool.false_eq_true, if_false]
  refine ⟨fun o ho => by simp only [ho], fun o ho => by simp only [ho], fun hw => ?_⟩
  split
  · next o ho => rw [ho] at hw; cases hw
  · next o ho => rw [ho] at hw; cases hw
  · next o ho => rw [ho] at hw; cases hw
  · rfl

section
variable {s : State} {core : Nat} {d : Cmd} (h : Holds s core d .started) (hdue : d.due ≤ s.now) (herr : d.err = false) (hcut : s.store.cut = [])
include h hdue herr hcut

/-- A tile operation with one destination (R318). -/
theorem tileOpEnds {op : Instr} {srcs : List Nat} {dest : Nat} {val : Nat → Nat → Nat × Bool} (hop : d.op = op) (hu : unitOf op = 3)
    (huses : tileUses ((s.core core).team d.team) op = (srcs, [dest])) (hwhole : writesWholeTile op = true) (hc : ∀ x ∈ srcs, TileClean (s.core core) x)
    (hval : ∀ i j, tileElem op (tileAt (s.core core) (srcs.getD 0 0)) (tileAt (s.core core) (srcs.getD 1 0)) (tileAt (s.core core) (srcs.getD 2 0)) i j = val i j) :
    ∃ t, (exec (.tileOpComplete core d.id) s = .next t ∧ TilesOnly s t core d) ∧ ∀ n, ∀ i < 16, ∀ j < 64,
      tileAt (t.core core) n i j = (if n = dest then ((BitVec.ofNat 32 (val i j).1).toNat, (val i j).2) else tileAt (s.core core) n i j) ∧
      Sparse.look false (tileKey n i j) (t.core core).store.tilePoison =
        (if n = dest then false else Sparse.look false (tileKey n i j) (s.core core).store.tilePoison) := by
  subst hop
  refine tileEnds_tile h hdue herr hcut hu (w := fun i j => (BitVec.ofNat 32 (val i j).1, (val i j).2, false)) (fun e => ?_)
    ((State.completeTile_clean (by rw [huses]; exact hc)).2.2 hwhole)
  rw [mem_tileResult _ _ _ srcs dest huses (s.core core) rfl]
  simp only [hval]

end

/-- The elements of the active rows of ACCCLR's region: rows 16 and up are those of the second tile (R313). -/
theorem mem_regionKeys {t : Team} {tile m i j : Nat} {mask : BitVec 32} (hi : i < 16) (hj : j < 64) :
    tileKey m i j ∈ regionKeys t tile mask ↔
      (m = t.res.abase + tile ∧ mask.getLsbD i = true) ∨ (m = t.res.abase + tile + 1 ∧ mask.getLsbD (16 + i) = true) := by
  simp only [regionKeys, List.mem_flatMap, List.mem_filter, List.mem_range, List.mem_map]
  constructor
  · rintro ⟨l, ⟨hl, hm⟩, q, hq, hk⟩
    simp only [tileKey] at hk
    by_cases h : l < 16
    · obtain rfl : l = i := by omega
      exact .inl ⟨by omega, hm⟩
    · obtain rfl : l = 16 + i := by omega
      exact .inr ⟨by omega, hm⟩
  · rintro (⟨rfl, hm⟩ | ⟨rfl, hm⟩)
    · exact ⟨i, ⟨by omega, hm⟩, j, hj, rfl⟩
    · exact ⟨16 + i, ⟨by omega, hm⟩, j, hj, by simp only [tileKey]; omega⟩

end Sys2Proof.Machine

namespace Sys2Proof
open Machine

/-- Settles O28: the start of each command, then the end of each operation. -/
theorem tileResults : Obligations.TileResults := by
  unfold Obligations.TileResults
  refine ⟨fun core d s hh hu => ?start, fun core d s hh hdue herr hcut => ⟨fun o i srcs val hop hmem hc => ?ops, fun o hop hbits => ?tld,
    fun o hop hbits hc hn => ?tst, fun o hop => ?tzero, fun o hop => ?accclr⟩⟩
  case start =>
    have hiff := tileCanStart_iff (s := s) (core := core) hh.2.1 hu
    have he := exec_tileStart hh.1 hu
    refine ⟨fun hf => ?_, fun hf hop => ?_, fun o r0 r1 pre x0 x1 post hf hop ha hcut hg hi hpre h0 h1 => ?_⟩
    · exact he.trans (congrArg Host.Outcome.next (if_neg (mt hiff.mp hf)))
    · refine ⟨s.beginCmd core d (tileLatency d.op), he.trans (congrArg Host.Outcome.next ((if_pos (hiff.mpr hf)).trans ?_)), ?_⟩
      · split
        · next o ho => exact absurd ho (hop o)
        · rfl
      · exact State.beginCmd_becomes s core d (by simp only [tileLatency, beq_iff_eq] <;> rfl)
    · obtain ⟨a, hw⟩ : ∃ a, d.who = .gang a := by
        cases hwho : d.who with
        | gang a => exact ⟨a, rfl⟩
        | glen n => rw [hwho] at hg; cases hg
      obtain ⟨F, hr, hF⟩ := State.readFlags_eq s core d o r0 r1 ha pre post x0 x1 hi hpre h0 h1
      rw [hw] at hr hF
      obtain ⟨u, hl, hst, hfl, hb⟩ := State.onGroup_dropCmd hcut core d a F
      have hstart : exec (.engineCommandStart core d.id) s = .next (s.readFlags core d o) := by
        refine he.trans (congrArg Host.Outcome.next ((if_pos (hiff.mpr hf)).trans ?_))
        simp only [hop]
      refine ⟨s.readFlags core d o, u, fun l lo => flagColumns (s.core core).store (((s.core core).team d.team).res.abase + (o.mod.extractLsb' 8 6).toNat) l lo,
        hstart, fun l lo j hj => ?_, hl, hst, hfl, ?_⟩
      · exact (maskOf_getLsbD _ 32 (by omega) j).trans (by rw [decide_eq_true hj, Bool.true_and])
      · rw [hw, hr]
        exact hb _ hF
  case ops =>
    simp only [List.mem_cons, List.not_mem_nil, or_false, Prod.mk.injEq] at hmem
    rcases hmem with ⟨rfl, rfl, rfl⟩ | ⟨rfl, rfl, rfl⟩ | ⟨rfl, rfl, rfl⟩ | ⟨rfl, rfl, rfl⟩ | ⟨rfl, rfl, rfl⟩ | ⟨rfl, rfl, rfl⟩ | ⟨rfl, rfl, rfl⟩ |
      ⟨rfl, rfl, rfl⟩ | ⟨rfl, rfl, rfl⟩ | ⟨rfl, rfl, rfl⟩ | ⟨rfl, rfl, rfl⟩ | ⟨rfl, rfl, rfl⟩ | ⟨rfl, rfl, rfl⟩ | ⟨rfl, rfl, rfl⟩ | ⟨rfl, rfl, rfl⟩ | ⟨rfl, rfl, rfl⟩
    all_goals refine tileOpEnds hh hdue herr hcut hop rfl rfl rfl hc (fun i j => ?_)
    · rfl
    · rfl
    · rfl
    · rfl
    · rfl
    · exact Prod.ext rfl (Bool.or_assoc _ _ _)
    · rfl
    · rfl
    · rfl
    · rw [tileElem_tredr] <;> rfl
    · rw [tileElem_tredc] <;> rfl
    · rfl
    · rfl
    · rfl
    · rfl
    · rfl
  case tld =>
    obtain ⟨t, ht, hv⟩ := tileEnds_tile hh hdue herr hcut (by rw [hop]; rfl) (mem_tldElems ((s.core core).team d.team) d o)
      ((State.completeTile_clean (by rw [hop]; intro x hx; cases hx)).2.1 o hop)
    refine ⟨t, ht, fun n i hi j hj => ⟨(hv n i hi j hj).1.trans ?_, (hv n i hi j hj).2.trans ?_⟩⟩
    all_goals
      refine if_congr Iff.rfl ?_ rfl
      rw [tldElem, elemOf_bytes _ _ _ hbits]
    simp only [beq_iff_eq] <;> rfl
  case tst =>
    obtain ⟨t, he, hl, hfl, hst⟩ := tstEnds hh hdue herr hcut hop hc
    have hlen : (tileBytes o d.a.toNat).length = (tstData (s.core core).store ((s.core core).team d.team) o).length := by
      rw [length_tileBytes, length_tstData, Nat.mul_comm]
    refine ⟨t, he, hl, hfl, by rw [hst]; rfl, fun w => ?_, fun i hi j hj w hw b hb => ?_, fun x hx => ?_⟩
    · rw [hst]
      refine (look_cleanWords _ _ _).trans ?_
      rw [List.map_fst_zip (by rw [List.length_map, hlen])] <;> rfl
    · rw [hst]
      refine (byte_puts_at _ _ _ (List.Nodup.map (fun _ _ => Nat.add_left_cancel) hn) _ _ _ (by rw [List.getElem?_map]; exact congrArg (Option.map _) hb)
        (getElem?_tstData _ _ _ _ _ _ hi hj hw)).trans (congrArg (fun x => BitVec.ofNat 8 (x / 256 ^ w)) ?_)
      simp only [tstValue, beq_iff_eq, saturate_f32] <;> rfl
    · rw [hst]
      refine Memory.byte_puts_other _ _ _ (fun e he hk => ?_)
      obtain ⟨b, hb, hbe⟩ := List.mem_map.mp (List.of_mem_zip he).1
      exact hx b hb (hk ▸ hbe.symm)
  case tzero =>
    obtain ⟨t, ht, hv⟩ := tileOpEnds hh hdue herr hcut (srcs := []) (val := fun _ _ => (0, false)) hop rfl rfl rfl
      (fun x hx => absurd hx List.not_mem_nil) (fun i j => rfl)
    exact ⟨t, ht, fun n i hi j hj => (hv n i hi j hj).1⟩
  case accclr =>
    obtain ⟨t, he, hl, -, hst⟩ := tileEnds hh hdue herr hcut (by rw [hop]; rfl) ((State.completeTile_clean (by rw [hop]; intro x hx; cases hx)).1 o hop)
    refine ⟨t, ⟨he, hl, by rw [hst]⟩, by rw [hst], fun m i hi j hj => ?_⟩
    rw [tileAt, hst]
    simp only [CoreStore.lostAt]
    split
    · next h => exact Sparse.look_puts false _ id (fun _ => false) false _ _ (fun _ _ _ => rfl) ⟨_, (mem_regionKeys hi hj).mpr h, rfl⟩
    · next h => exact Sparse.look_puts_other false _ id (fun _ => false) _ _ (fun e he hk => h ((mem_regionKeys hi hj).mp (hk ▸ he)))

end Sys2Proof
end

section
/-! Matrix commands: their claims on the rings, their start and what they leave in the tiles (R50, R191, R302, R313 to R316). -/

namespace Sys2Proof.Machine
open Sys2Proof

/-- MMA or MMAS. -/
def matInstr (o : EOp) (scaled : Bool) : Instr := if scaled then .mmas o else .mma o

theorem unitOf_matInstr (o : EOp) (scaled : Bool) : unitOf (matInstr o scaled) = 2 := by cases scaled <;> rfl

theorem matTargets_matInstr (t : Team) (o : EOp) (scaled : Bool) :
    matTargets t (matInstr o scaled) = [t.res.abase + (matOp o scaled).tile, t.res.abase + (matOp o scaled).tile + 1] := by cases scaled <;> rfl

/-! ## Issue -/

theorem exec_matInstr (o : EOp) (scaled : Bool) (s : State) : exec (matInstr o scaled) s = .next (s.matIssue o (matInstr o scaled) scaled) := by
  cases scaled <;> rfl

theorem State.matIssue_noRing {s : State} {c : Issue} {o : EOp} {i : Instr} {scaled : Bool} (h : LanesRun s c o.at' [])
    (hr : (s.teamOf c).res.rings[(matOp o scaled).ra]? = none ∨ (s.teamOf c).res.rings[(matOp o scaled).rb]? = none) :
    s.matIssue o i scaled = s.illegalOperand o.at' := by
  rw [State.matIssue, State.laneOp_plain h]
  dsimp only
  split
  · next ra rb ha hb => obtain hr | hr := hr <;> simp_all [ringNumber]
  · rfl

/-- The two claims of a matrix command, A's first (R50). -/
def State.claimPair (s : State) (core : Nat) (d : Cmd) (ra na rb nb : Nat) : State :=
  (s.claimFor core ra (claimKey core d.id 0) d.groupKey na).claimFor core rb (claimKey core d.id 1) d.groupKey nb

theorem State.matIssue_eq {s : State} {c : Issue} {o : EOp} {i : Instr} {scaled : Bool} (h : LanesRun s c o.at' []) {ra rb : Nat}
    (ha : (s.teamOf c).res.rings[(matOp o scaled).ra]? = some ra) (hb : (s.teamOf c).res.rings[(matOp o scaled).rb]? = some rb) :
    s.matIssue o i scaled =
      (let m := matOp o scaled
       let off := (c.sval o.a).toNat % 2 ^ 32
       let xa := s.ring (coreOf c.who) ra
       let xb := s.ring (coreOf c.who) rb
       if m.ks == 0 || !regionOk (s.teamOf c) m.tile || !xa.valid || !xb.valid || xa.count < xa.slotsFor m.bytesA || xb.count < xb.slotsFor m.bytesB ||
          (scaled && (m.ks % (128 / m.t) != 0 || off % 16 != 0 || (s.teamOf c).res.spsize < off + 144 * (m.k / 128))) then s.illegalOperand o.at'
       else if !m.st && tilesBad (s.core (coreOf c.who)).store (regionKeys (s.teamOf c) m.tile (c.opMask o.at')) then
         s.stopAt (tilePoisonStop (slotNumber o.at'.slot) s)
       else
         s.accept c o.at' i (fun d => { d with a := BitVec.ofNat 64 off, aux := [ra, rb], phase := .registered })
           (fun d s => s.claimPair (coreOf c.who) d ra (xa.slotsFor m.bytesA) rb (xb.slotsFor m.bytesB))) := by
  rw [State.matIssue, State.laneOp_plain h]
  dsimp only
  split
  · next a b ha' hb' =>
    obtain rfl : ra = a := Option.some.inj (ha.symm.trans ha')
    obtain rfl : rb = b := Option.some.inj (hb.symm.trans hb')
    rfl
  · next hn => exact absurd hb (hn _ _ ha)

/-- The limits of a matrix command's operands (R301, R313 to R315). -/
theorem matLimits_iff (scaled : Bool) (tm : Team) (m : MatOp) (xa xb : Ring) (off : Nat) :
    (m.ks == 0 || !regionOk tm m.tile || !xa.valid || !xb.valid || xa.count < xa.slotsFor m.bytesA || xb.count < xb.slotsFor m.bytesB ||
      (scaled && (m.ks % (128 / m.t) != 0 || off % 16 != 0 || tm.res.spsize < off + 144 * (m.k / 128)))) = true ↔
    ¬(m.ks ≠ 0 ∧ m.tile % 2 = 0 ∧ m.tile + 1 < tm.res.nacc ∧ (xa.valid = true ∧ xa.slotsFor m.bytesA ≤ xa.count) ∧
      (xb.valid = true ∧ xb.slotsFor m.bytesB ≤ xb.count) ∧
      (scaled = true → m.ks % (128 / m.t) = 0 ∧ off % 16 = 0 ∧ off + 144 * (m.k / 128) ≤ tm.res.spsize)) := by
  rw [← Bool.not_eq_false, not_iff_not]
  simp only [Bool.or_eq_false_iff, Bool.not_eq_false', beq_eq_false_iff_ne, decide_eq_false_iff_not, not_lt, regionOk, Bool.and_eq_true, beq_iff_eq,
    decide_eq_true_eq, Bool.and_eq_false_imp, bne_eq_false_iff_eq, and_assoc]
  tauto

/-- Some element of the rows that a mask selects of a region is poisoned. -/
theorem tilesBad_regionKeys (k : CoreStore) (t : Team) (tile : Nat) (mask : BitVec 32) : tilesBad k (regionKeys t tile mask) = false ↔
    ∀ l < 32, mask.getLsbD l = true → ∀ j < 64, Sparse.look false (tileKey (t.res.abase + tile) l j) k.tilePoison = false := by
  have hkeys : (regionKeys t tile mask).any (fun x => Sparse.look false x k.tilePoison) = false ↔
      ∀ l < 32, mask.getLsbD l = true → ∀ j < 64, Sparse.look false (tileKey (t.res.abase + tile) l j) k.tilePoison = false := by
    simp [regionKeys]
  rw [tilesBad, Bool.and_eq_false_iff, hkeys]
  refine ⟨fun h => h.elim (fun he => ?_) id, .inr⟩
  have hnil : k.tilePoison = [] := by simpa using he
  exact fun _ _ _ _ _ => by rw [hnil]; rfl

theorem State.ring_claimFor (s : State) (core ring key group n j r : Nat) : (s.claimFor core ring key group n).ring j r =
    if j = core then { s.ring j r with consumers := (s.ring j r).consumers ++ (if r = ring then [{ cmd := key, group := group, n := n }] else []) }
    else s.ring j r := by
  rw [State.claimFor, State.ring_onRing]
  by_cases hj : j = core
  · subst hj
    by_cases hr : r = ring
    · subst hr; simp
    · simp [hr]
  · simp [hj]

/-- A poisoned element to accumulate on (R72). -/
theorem matPoisoned_iff (k : CoreStore) (t : Team) (m : MatOp) (mask : BitVec 32) : (!m.st && tilesBad k (regionKeys t m.tile mask)) = true ↔
    ¬(m.st = true ∨ ∀ l < 32, mask.getLsbD l = true → ∀ j < 64, Sparse.look false (tileKey (t.res.abase + m.tile) l j) k.tilePoison = false) := by
  rw [← tilesBad_regionKeys, not_or, Bool.and_eq_true, Bool.not_eq_true', Bool.not_eq_true, Bool.not_eq_false]

theorem State.ring_queued (s : State) (c : Issue) (d : Cmd) (j r : Nat) : (s.queued c d).ring j r = s.ring j r :=
  State.core_onCore_of (fun k => Sparse.look ({} : Ring) r k.rings) (s.onStore _) (coreOf c.who) _ rfl j

/-- The rings after the claims of a matrix command. -/
theorem State.claimPair_does (s : State) (core : Nat) (d : Cmd) (ra na rb nb : Nat) :
    let t := s.claimPair core d ra na rb nb
    t = { s with cores := t.cores } ∧ (∀ j, { t.core j with rings := [] } = { s.core j with rings := [] }) ∧
      ∀ j r, t.ring j r = if j = core then { s.ring j r with consumers := (s.ring j r).consumers ++
        (if r = ra then [{ cmd := claimKey core d.id 0, group := d.groupKey, n := na }] else []) ++
        (if r = rb then [{ cmd := claimKey core d.id 1, group := d.groupKey, n := nb }] else []) } else s.ring j r := by
  intro t
  have kept (u : State) (r key group n j : Nat) : { (u.claimFor core r key group n).core j with rings := [] } = { u.core j with rings := [] } :=
    State.core_onCore_of (fun c => { c with rings := [] }) u core _ rfl j
  refine ⟨rfl, fun j => (kept _ _ _ _ _ j).trans (kept s _ _ _ _ j), fun j r => ?_⟩
  simp only [t, State.claimPair, State.ring_claimFor]
  by_cases hj : j = core
  · simp only [hj, if_true]
  · simp only [hj, if_false]

/-! ## Start and completion -/

theorem earlierGone_iff (k : Core) (d : Cmd) : earlierGone k d = true ↔ ∀ x ∈ k.cmds, x.id < d.id → unitOf x.op ≠ unitOf d.op := by
  simp [earlierGone, List.filter_eq_nil_iff]

section
variable {s : State} {core : Nat} {d : Cmd} {o : EOp} {scaled : Bool} (hop : d.op = matInstr o scaled)
include hop

theorem exec_matStart (hc : (s.core core).cmd d.id = some d) : exec (.engineCommandStart core d.id) s =
    .next (if matCanStart s core d then s.beginCmd core d (matCycles (matOp o scaled) d.amask) else s) := by
  refine congrArg Host.Outcome.next ?_
  simp only [hc, hop, unitOf_matInstr]
  cases scaled <;> rfl

theorem matCanStart_iff (hp : d.phase = .registered) : matCanStart s core d = true ↔
    (∀ x ∈ (s.core core).cmds, x.id < d.id → unitOf x.op ≠ 2) ∧ claimArrived s core (d.aux.headD 0) (claimKey core d.id 0) = true ∧
      claimArrived s core (d.aux.getD 1 0) (claimKey core d.id 1) = true ∧
      tilesBusy (s.core core) d.id [((s.core core).team d.team).res.abase + (matOp o scaled).tile, ((s.core core).team d.team).res.abase + (matOp o scaled).tile + 1]
        true = false := by
  simp only [matCanStart, hp, hop, matTargets_matInstr, Bool.and_eq_true, Bool.not_eq_true', earlierGone_iff, unitOf_matInstr, beq_self_eq_true, true_and,
    and_assoc]

theorem exec_matEnd (hh : Holds s core d .started) : exec (.matrixOpComplete core d.id) s =
    .next (if s.now < d.due then s else s.completeMat core d (matOp o scaled)) := by
  obtain ⟨hc, hp, hn⟩ := hh
  refine congrArg Host.Outcome.next ?_
  simp only [hc, hp, hn, hop]
  by_cases hd : s.now < d.due
  · simp [hd]
  · simp only [hd]
    cases scaled <;> rfl

end

/-- What an MMA writes of an element: row `l`, column `j` of its region (R191). -/
def matResult (s : State) (core : Nat) (d : Cmd) (m : MatOp) (l j : Nat) : Accum :=
  let tm := (s.core core).team d.team
  let el (n bits : Nat) := elemOf (claimByte s core (d.aux.getD n 0) (claimKey core d.id n) tm.res.spbase) bits
  matElem m d (el 0 (matBits m.ta)) (el 1 (matBits m.tb)) (matScales s core tm m d l) l j
    (if m.st then 0 else ((s.core core).store.elem (tileKey (tm.res.abase + m.tile) l j)).toNat)
    (if m.st then false else (s.core core).store.lostAt (tileKey (tm.res.abase + m.tile) l j))

/-- The elements that an MMA without poisoned operands writes: those of its active rows. -/
theorem mem_matRows {s : State} {core : Nat} {d : Cmd} {m : MatOp} (hclean : (s.core core).store.spadPoison = []) (e : Nat × Word × Bool × Bool) :
    e ∈ matRows s core d m ↔ ∃ l < 32, d.amask.getLsbD l = true ∧ ∃ j < 64, e = (tileKey (((s.core core).team d.team).res.abase + m.tile) l j,
      BitVec.ofNat 32 (matResult s core d m l j).acc, (matResult s core d m l j).lost, false) := by
  have hhead : d.aux.headD 0 = d.aux.getD 0 0 := by cases d.aux <;> rfl
  simp only [matRows, matResult, hclean, hhead, List.isEmpty_nil, Bool.not_true, Bool.false_and, Bool.or_false, List.mem_flatMap, List.mem_filter,
    List.mem_range, List.mem_map, and_assoc, eq_comm (a := e)]

/-- The elements of a region after an MMA without poisoned operands (R191, R316). -/
theorem setElems_matRows {s : State} {core : Nat} {d : Cmd} {m : MatOp} (hclean : (s.core core).store.spadPoison = []) (n a j : Nat) (ha : a < 16)
    (hj : j < 64) :
    let k := (s.core core).store
    let base := ((s.core core).team d.team).res.abase + m.tile
    (((k.setElems (matRows s core d m)).elem (tileKey n a j)).toNat, (k.setElems (matRows s core d m)).lostAt (tileKey n a j)) =
      if n ∈ [base, base + 1] ∧ d.amask.getLsbD (16 * (n - base) + a) = true then
        ((BitVec.ofNat 32 (matResult s core d m (16 * (n - base) + a) j).acc).toNat, (matResult s core d m (16 * (n - base) + a) j).lost)
      else ((k.elem (tileKey n a j)).toNat, k.lostAt (tileKey n a j)) := by
  intro k base
  have hkey (l q : Nat) (hl : l < 32) (hq : q < 64) : tileKey base l q = tileKey n a j → n ∈ [base, base + 1] ∧ l = 16 * (n - base) + a ∧ q = j := by
    simp only [tileKey, List.mem_cons, List.not_mem_nil, or_false]
    omega
  split
  · next h =>
    have hn : n = base ∨ n = base + 1 := by simpa using h.1
    have hk : tileKey base (16 * (n - base) + a) j = tileKey n a j := by simp only [tileKey]; omega
    have hall : ∀ e ∈ matRows s core d m, e.1 = tileKey n a j → e.2 = (BitVec.ofNat 32 (matResult s core d m (16 * (n - base) + a) j).acc,
        (matResult s core d m (16 * (n - base) + a) j).lost, false) := by
      intro e he hek
      obtain ⟨l, hl, -, q, hq, rfl⟩ := (mem_matRows hclean e).mp he
      obtain ⟨-, rfl, rfl⟩ := hkey l q hl hq hek
      rfl
    obtain ⟨h1, h2, -⟩ := k.setElems_at _ _ _ hall ⟨_, (mem_matRows hclean _).mpr ⟨16 * (n - base) + a, by omega, h.2, j, hj, rfl⟩, hk⟩
    rw [h1, h2]
  · next h =>
    have hall : ∀ e ∈ matRows s core d m, e.1 ≠ tileKey n a j := by
      intro e he hek
      obtain ⟨l, hl, hm, q, hq, rfl⟩ := (mem_matRows hclean e).mp he
      obtain ⟨hn, rfl, rfl⟩ := hkey l q hl hq hek
      exact h ⟨hn, hm⟩
    obtain ⟨h1, h2, -⟩ := k.setElems_other _ _ hall
    rw [h1, h2]

/-- The end of an MMA without poison: its elements, then its flag (R316). -/
theorem State.completeMat_clean {s : State} {core : Nat} {d : Cmd} {m : MatOp} (hspad : (s.core core).store.spadPoison = [])
    (htile : (s.core core).store.tilePoison = []) :
    s.completeMat core d m = (s.onTiles core (fun k => k.setElems (matRows s core d m))).finishCmd core d false := by
  have hany : (matRows s core d m).any (fun e => e.2.2.2) = false := by
    rw [List.any_eq_false]
    intro e he
    obtain ⟨l, -, -, j, -, rfl⟩ := (mem_matRows hspad e).mp he
    exact Bool.false_ne_true
  simp only [State.completeMat, tilesBad, htile, hany, List.isEmpty_nil, Bool.not_true, Bool.false_and, Bool.and_false, Bool.false_eq_true, if_false]

end Sys2Proof.Machine

namespace Sys2Proof
open Machine

/-- Settles O29: issue by the limits of the operands, then start and end. -/
theorem matrixCommands : Obligations.MatrixCommands := by
  unfold Obligations.MatrixCommands
  intro o scaled i m
  have hu : unitOf i = 2 := unitOf_matInstr o scaled
  refine ⟨fun s c h hg => ⟨fun hr => ?noRing, fun ra rb ha hb => ?rings⟩, fun core d s hop => ⟨fun hh => ?start, fun hh hd => ?early, fun hh hd herr hcut hsp htp => ?done⟩⟩
  case noRing =>
    exact TrapsWith.of_illegalOperand h.1 ((exec_matInstr o scaled s).trans (congrArg _ (State.matIssue_noRing h hr)))
  case rings =>
    have he := (exec_matInstr o scaled s).trans (congrArg Host.Outcome.next (State.matIssue_eq (i := matInstr o scaled) h ha hb))
    have hlim : _ = true ↔ ¬_ := matLimits_iff scaled (s.teamOf c) m (s.ring (coreOf c.who) ra) (s.ring (coreOf c.who) rb) ((c.sval o.a).toNat % 2 ^ 32)
    have hbad : _ = true ↔ ¬_ := matPoisoned_iff (s.core (coreOf c.who)).store (s.teamOf c) m (c.opMask o.at')
    refine ⟨fun hok => ?_, fun hok hc => ?_, fun hok hc => ?_⟩
    · exact TrapsWith.of_illegalOperand h.1 (he.trans (congrArg _ (if_pos (hlim.mpr hok))))
    · refine EndsWith.of_stopAt h.1 (he.trans (congrArg _ ((if_neg (mt hlim.mp (not_not.mpr hok))).trans (if_pos ?_))))
      exact hbad.mpr hc
    · refine State.accept_queues h.1 hg (he.trans (congrArg _ ((if_neg (mt hlim.mp (not_not.mpr hok))).trans (if_neg ?_)))) hu rfl ?_
      · exact mt hbad.mp (not_not.mpr hc)
      · obtain ⟨h1, h2, h3⟩ := State.claimPair_does _ (coreOf c.who) _ ra _ rb _
        refine ⟨_, State.queued_commanded s c o.at' i (fun d => { d with phase := .registered, a := BitVec.ofNat 64 ((c.sval o.a).toNat % 2 ^ 32), aux := [ra, rb] }),
          h1, h2, fun j r => (h3 j r).trans ?_⟩
        rw [State.ring_queued]
        rfl
  case start =>
    have hs := exec_matStart hop hh.1
    have hc := matCanStart_iff (s := s) (core := core) hop hh.2.1
    refine ⟨fun hf => hs.trans (congrArg _ (if_neg (mt hc.mp hf))), fun hf => ⟨_, hs.trans (congrArg _ (if_pos (hc.mpr hf))), ?_⟩⟩
    exact State.beginCmd_becomes s core d (by simp only [matCycles, activeHalves, beq_iff_eq] <;> rfl)
  case early => exact (exec_matEnd hop hh).trans (congrArg _ (if_pos hd))
  case done =>
    have he := (exec_matEnd hop hh).trans (congrArg _ ((if_neg (Nat.not_lt.mpr hd)).trans (State.completeMat_clean hsp htp)))
    obtain ⟨hl, hfl, hst⟩ := State.writeThenFinish hcut core d (fun k => k.setElems (matRows s core d m)) false (.inr (by rw [herr]; rfl))
    rw [herr] at hfl
    refine ⟨_, he, ⟨hl, by rw [hst]; rfl⟩, fun n a ha j hj => ?_, hfl⟩
    rw [tileAt, hst]
    exact setElems_matRows hsp n a j ha hj

end Sys2Proof
end

section
/-! Fetch, empty bundles, line fills, prefetches and results written back (R68, R91, R156, R157, R198, R199, R214, R237). -/

namespace Sys2Proof.Machine
open Sys2Proof

/-! ## Empty bundles -/

/-- What an empty bundle of so many bytes does to its issuer's registers (R198). -/
def State.passEmpty (s : State) (w : Who) (len : Nat) (g : Group) : Group :=
  let h := g.onSlices (s.gangOf w) (fun y =>
    { y with pc := s.pcOf w + BitVec.ofNat 64 len, run := if y.run matches .stopped .. then y.run else .running,
             ready := max y.ready (s.now + 1), aged := false, since := s.now, wake := 0 })
  if isGlen w then h.landAll else if h.vliw then h.advancePasses else h

/-- An empty bundle completes (R91, R198). -/
theorem State.complete_empty {s : State} (hi : s.issue = none) (hcut : s.store.cut = []) (w : Who) (len : Nat) (mark : Bool) :
    s.complete { s.beginIssue w len with marked := mark } =
      match w with
      | .glen n => if mark then (s.onGroup w (s.passEmpty w len)).markSegment n (s.pcOf w) else s.onGroup w (s.passEmpty w len)
      | .gang _ => s.onGroup w (s.passEmpty w len) := by
  have hs : ({ s with issue := none } : State) = s := by rw [← hi]
  have ht : (s.onGroup w (s.passEmpty w len)).tellCut = s.onGroup w (s.passEmpty w len) := State.tellCut_nil (by cases w <;> exact hcut)
  rw [← ht, State.complete, hs]
  cases w <;> rfl

theorem exec_emptyBundle {s : State} {w : Who} {r : RawBundle} (hi : s.issue = none) (hf : fetchBundle s w (s.pcOf w) = .ok r) (ho : r.ops = [])
    (hh : headOk (s.decoderOf w) r.head r.lmask = true) :
    exec (.emptyBundle w) s = .next (s.complete { s.beginIssue w r.len with marked := r.head.getLsbD 27 }) := by
  refine congrArg Host.Outcome.next ?_
  rw [if_neg (by simp [hi]), hf]
  simp [ho, hh]

/-- The segment to preload of a marked bundle in segment `seg` (R91). -/
def Glen.nextSegment (g : Glen) (seg : Nat) : Nat := ((g.segs[seg]?).getD {}).next

/-- A segment can be copied: there is one, its frame has not got it and is not the bundle's own, and no copy is under way (R91). -/
def Glen.canPreload (g : Glen) (seg : Nat) : Prop :=
  g.nextSegment seg ≠ 0xFFFF ∧ ¬((Sparse.look {} (g.nextSegment seg % 4) g.frames).valid = true ∧ (Sparse.look {} (g.nextSegment seg % 4) g.frames).seg = g.nextSegment seg) ∧
    g.nextSegment seg % 4 ≠ seg % 4 ∧ ∀ p ∈ g.frames, p.2.filling = false

/-- The frame that a background copy fills (R91). -/
def preloadFrame (next now : Nat) : Frame := { valid := true, seg := next, filling := true, since := now, due := now + 380 }

theorem State.markSegment_does (s : State) (n : Nat) (pc : DWord) :
    ((s.glen n).canPreload (pc.toNat / 8192) → s.markSegment n pc = s.onGlen n (fun g => { g with
      frames := Sparse.put {} ((s.glen n).nextSegment (pc.toNat / 8192) % 4) (preloadFrame ((s.glen n).nextSegment (pc.toNat / 8192)) s.now) g.frames })) ∧
    (¬(s.glen n).canPreload (pc.toNat / 8192) → s.markSegment n pc = s) := by
  have hm : s.markSegment n pc = if (s.glen n).nextSegment (pc.toNat / 8192) == 0xFFFF ||
      ((Sparse.look {} ((s.glen n).nextSegment (pc.toNat / 8192) % 4) (s.glen n).frames).valid &&
        (Sparse.look {} ((s.glen n).nextSegment (pc.toNat / 8192) % 4) (s.glen n).frames).seg == (s.glen n).nextSegment (pc.toNat / 8192)) ||
      (s.glen n).nextSegment (pc.toNat / 8192) % 4 == pc.toNat / 8192 % 4 || (s.glen n).frames.any (fun p => p.2.filling) then s
    else s.onGlen n (fun g => { g with
      frames := Sparse.put {} ((s.glen n).nextSegment (pc.toNat / 8192) % 4) (preloadFrame ((s.glen n).nextSegment (pc.toNat / 8192)) s.now) g.frames }) := rfl
  rw [hm]
  refine ⟨fun h => if_neg ?_, fun h => if_pos ?_⟩
  · obtain ⟨h1, h2, h3, h4⟩ := h
    simpa [h1, h3] using ⟨fun hv he => h2 ⟨hv, he⟩, fun k f hf => h4 (k, f) hf⟩
  · by_contra hn
    refine h ?_
    simpa [Glen.canPreload, not_or, and_assoc] using hn

/-- The end of an empty bundle of a glen core with a segment mark (R91, R198). -/
theorem State.markSegment_passes (s : State) (n : Nat) (f : Group → Group) (pc : DWord) :
    let g := s.glen n
    let next := g.nextSegment (pc.toNat / 8192)
    let t := (s.onGroup (.glen n) f).markSegment n pc
    t = { s with glens := t.glens } ∧ (∀ j ≠ n, t.glen j = s.glen j) ∧ t.glen n = { g with ctx := f g.ctx, frames := (t.glen n).frames } ∧
      (g.canPreload (pc.toNat / 8192) → ∀ j, Sparse.look {} j (t.glen n).frames =
        if j = next % 4 then preloadFrame next s.now else Sparse.look {} j g.frames) ∧
      (¬g.canPreload (pc.toNat / 8192) → (t.glen n).frames = g.frames) := by
  intro g next t
  let u := s.onGroup (.glen n) f
  have hu : u.glen n = { g with ctx := f g.ctx } := State.glen_onGlen_same _ _ _
  have hother (j : Nat) (hj : j ≠ n) : u.glen j = s.glen j := by
    rw [show u.glen j = if j = n then _ else s.glen j from State.glen_onGlen _ _ _ _, if_neg hj]
  have hcan : (u.glen n).canPreload (pc.toNat / 8192) ↔ g.canPreload (pc.toNat / 8192) := by rw [hu]; rfl
  obtain ⟨h1, h2⟩ := State.markSegment_does u n pc
  rw [hcan] at h1 h2
  by_cases hc : g.canPreload (pc.toNat / 8192)
  · have ht := h1 hc
    have htn : t.glen n = { g with ctx := f g.ctx, frames := Sparse.put {} (next % 4) (preloadFrame next s.now) g.frames } := by
      rw [show t = _ from ht, State.glen_onGlen_same, hu]; rfl
    refine ⟨by rw [show t = _ from ht]; rfl, fun j hj => ?_, by rw [htn], fun _ j => ?_, fun h => absurd hc h⟩
    · rw [show t = _ from ht, State.glen_onGlen, if_neg hj]; exact hother j hj
    · rw [htn]
      exact Sparse.look_put ({} : Frame) (next % 4) j (preloadFrame next s.now) g.frames
  · have ht : t = u := h2 hc
    exact ⟨by rw [ht]; rfl, fun j hj => by rw [ht]; exact hother j hj, by rw [ht, hu], fun h => absurd h hc, fun _ => by rw [ht, hu]⟩

/-! ## What a write to host memory leaves of cores -/

/-- The glen cores, and of every core its groups, its record number, its commands and which teams live, are as before. -/
structure Steady (s t : State) : Prop where
  glens : t.glens = s.glens
  groups : ∀ k, (t.core k).groups = (s.core k).groups
  recSeq : ∀ k, (t.core k).recSeq = (s.core k).recSeq
  cmds : ∀ k, (t.core k).cmds = (s.core k).cmds
  live : ∀ k n, ((t.core k).team n).live = ((s.core k).team n).live

theorem Steady.refl (s : State) : Steady s s := ⟨rfl, fun _ => rfl, fun _ => rfl, fun _ => rfl, fun _ _ => rfl⟩

theorem Steady.trans {s t u : State} (h : Steady s t) (h' : Steady t u) : Steady s u :=
  ⟨h'.glens.trans h.glens, fun k => (h'.groups k).trans (h.groups k), fun k => (h'.recSeq k).trans (h.recSeq k), fun k => (h'.cmds k).trans (h.cmds k),
    fun k n => (h'.live k n).trans (h.live k n)⟩

theorem Steady.of_cores {s t : State} (hg : t.glens = s.glens) (hc : t.cores = s.cores) : Steady s t := by
  have h (k : Nat) : t.core k = s.core k := congrArg (Sparse.look ({} : Core) k) hc
  exact ⟨hg, fun k => by rw [h], fun k => by rw [h], fun k => by rw [h], fun k n => by rw [h]⟩

theorem Steady.foldl {β : Type} (f : State → β → State) (hf : ∀ s b, Steady s (f s b)) (l : List β) (s : State) : Steady s (l.foldl f s) := by
  induction l generalizing s with
  | nil => exact .refl s
  | cons b l ih => exact (hf s b).trans (ih _)

theorem Steady.onCore (s : State) (core : Nat) (f : Core → Core) (h0 : (f (s.core core)).groups = (s.core core).groups)
    (h1 : (f (s.core core)).recSeq = (s.core core).recSeq) (h2 : (f (s.core core)).cmds = (s.core core).cmds)
    (h3 : ∀ n, ((f (s.core core)).team n).live = ((s.core core).team n).live) : Steady s (s.onCore core f) :=
  ⟨rfl, State.core_onCore_of Core.groups s core f h0, State.core_onCore_of Core.recSeq s core f h1, State.core_onCore_of Core.cmds s core f h2,
    fun k n => State.core_onCore_of (fun c => (c.team n).live) s core f (h3 n) k⟩

theorem Core.team_onStashLine_live (c : Core) (team win k : Nat) (l : Option StashLine) (n : Nat) :
    ((c.onStashLine team win k l).team n).live = (c.team n).live := by
  rw [Core.onStashLine, Core.team_onTeam]
  split
  · next h => rw [h]
  · rfl

theorem State.recallLine_steady (s : State) (core team win k : Nat) (write : Bool) : Steady s (s.recallLine core team win k write) := by
  rw [State.recallLine]
  dsimp only
  split
  · exact .refl s
  · refine Steady.trans ?_ (Steady.onCore _ core _ rfl rfl rfl (Core.team_onStashLine_live _ _ _ _ _))
    split
    · exact .of_cores rfl rfl
    · exact .refl s

theorem State.recall_steady (s : State) (line : Nat) (write : Bool) (e : Option (Nat × Nat × Nat × Nat)) : Steady s (s.recall line write e) :=
  Steady.foldl _ (fun s p => Steady.foldl _ (fun s q => by
    split
    · exact .refl s
    · split
      · exact State.recallLine_steady s _ _ _ _ _
      · exact .refl s) _ s) _ s

theorem State.dropL1_steady (s : State) (core line : Nat) : Steady s (s.dropL1 core line) := by
  rw [State.dropL1_eq]
  refine Steady.trans (t := s.giveUpReplicas line) (.of_cores rfl rfl) (Steady.foldl _ (fun s p => ?_) _ _)
  rw [dropAt]
  split
  · exact .refl s
  · exact Steady.onCore s p.1 _ rfl rfl rfl (fun _ => rfl)

theorem State.coherentWrite_steady (s : State) (core : Nat) (bs : List (Nat × Byte)) (p : Bool) (e : Option (Nat × Nat × Nat × Nat)) :
    Steady s (s.coherentWrite core bs p e) := by
  refine Steady.trans (Steady.foldl _ (fun s l => ?_) _ s) (.of_cores rfl rfl)
  refine ((State.recall_steady s l true e).trans (State.dropL1_steady _ core l)).trans ?_
  rw [State.useSlice]
  split
  · exact .of_cores rfl rfl
  · exact .refl _

theorem State.postEvent_steady (s : State) (n : Nat) (bs : List Byte) : Steady s (s.postEvent n bs) := by
  have hev (s : State) (f : EventQueue → EventQueue) : Steady s (s.onEvq n f) := .of_cores rfl rfl
  have hw (s : State) (a : Nat) (bs : List Byte) : Steady s (s.hostWrite a bs) := State.coherentWrite_steady s _ _ _ _
  by_cases hl : (s.evq n).live = true
  · have hr : Steady s (s.evRead n) := by
      obtain ⟨es, he⟩ := State.evRead_frame s n
      rw [he]
      exact .of_cores rfl rfl
    rw [State.postEvent_live hl]
    split
    · exact hr.trans (hw _ _ _)
    · exact ((hr.trans (hw _ _ _)).trans (hw _ _ _)).trans (hev _ _)
  · rw [State.postEvent]
    rw [if_pos (by simpa using hl)]
    exact .refl s

/-- A record of a core's agent: its core's record number has advanced. -/
theorem State.coreRecord_steady (s : State) (core queue : Nat) (r : Rec) (about : Option RecordOf) :
    let t := s.coreRecord core queue r about
    Steady { s with cores := (s.onCore core (fun c => { c with recSeq := (c.recSeq + 1) % 2 ^ 32 })).cores } t := by
  intro t
  have hp (s : State) (cls : Nat) : Steady s (s.pend core cls) := Steady.onCore s core _ rfl rfl rfl (fun _ => rfl)
  have hb : Steady (s.onCore core (fun c => { c with recSeq := (c.recSeq + 1) % 2 ^ 32 }))
      (((s.onCore core (fun c => { c with recSeq := (c.recSeq + 1) % 2 ^ 32 })).postEvent
        ((s.onCore core (fun c => { c with recSeq := (c.recSeq + 1) % 2 ^ 32 })).queue queue).evq
        ({ r with seq := (s.core core).recSeq }.bytes s.now)).pend core (classOf r.stop.code r.stop.rpl)) :=
    (State.postEvent_steady _ _ _).trans (hp _ _)
  refine Steady.trans hb ?_
  simp only [t, State.coreRecord]
  split
  · exact .refl _
  · split
    · exact .of_cores rfl rfl
    · exact .refl _

/-! ## A stop at fetch -/

theorem State.forgetRefused_only (s : State) (cid : Nat) (xl : BitVec 128) : ∃ a, s.forgetRefused cid xl = { s with ats := a } := by
  rw [State.forgetRefused]
  dsimp only
  split <;> exact ⟨_, rfl⟩

/-- A glen program stops (R78, R353). -/
theorem State.takeStop_glen {s : State} {n : Nat} {c : Issue} {x : Stop} (hw : c.who = .glen n) (hs : c.slices = [0]) (hr : x.rpl = false)
    (hl : 0 < (s.groupOf (.glen n)).slices.length) :
    let t := s.takeStop c x false
    ((t.groupOf (.glen n)).slice 0).run = .stopped x false ∧ ((t.groupOf (.glen n)).slice 0).pc = ((s.groupOf (.glen n)).slice 0).pc ∧
      (t.glen n).prog.ended = true ∧ (t.glen n).prog.failed = true := by
  intro t
  let v := s.coreRecord (s.glen n).prog.agent (s.glen n).prog.queue { stop := x, aid := aidOfWho (.glen n), cid := (s.glen n).cid, seq := 0, pc := c.pc }
    (some (.gang (.glen n) [0]))
  have hv : v.glen n = s.glen n := congrArg (Sparse.look ({} : Glen) n) (State.coreRecord_steady s _ _ _ _).glens
  obtain ⟨a, ha⟩ := State.forgetRefused_only (v.onGroup (.glen n) (fun h => h.onSlices [0] (fun y => { y with run := .stopped x false }))) (s.glen n).cid x.xlat
  have ht : t.glen n = { s.glen n with
      ctx := (s.glen n).ctx.onSlices [0] (fun y => { y with run := .stopped x false })
      prog := { (s.glen n).prog with ended := true, failed := (s.glen n).prog.failed || true } } := by
    simp only [t, State.takeStop, hw, hs, hr, Bool.false_eq_true, if_false]
    refine (congrArg (fun u : State => (u.endGlen n true).glen n) ha).trans ?_
    have hu : (v.onGroup (.glen n) (fun h => h.onSlices [0] (fun y => { y with run := .stopped x false }))).glen n =
        { s.glen n with ctx := (s.glen n).ctx.onSlices [0] (fun y => { y with run := .stopped x false }) } := by
      rw [State.onGroup, State.glen_onGlen_same, hv]
    rw [State.endGlen, State.glen_onGlen_same]
    exact congrArg (fun g : Glen => { g with prog := { g.prog with ended := true, failed := g.prog.failed || true } }) hu
  have hslice : ((t.groupOf (.glen n)).slice 0) = { (s.groupOf (.glen n)).slice 0 with run := .stopped x false } := by
    rw [State.groupOf, ht]
    cases hc : (s.glen n).ctx.slices with
    | nil => rw [State.groupOf, hc] at hl; exact absurd hl (Nat.lt_irrefl 0)
    | cons y ys => simp [Group.slice, Group.onSlices, Group.onSlice, listUpd, hc, State.groupOf]
  exact ⟨by rw [hslice], by rw [hslice], by rw [ht], by rw [ht]; exact Bool.or_true _⟩

/-- The groups of a team exited one after another: only groups and rings of its core change (R358). -/
theorem State.exitGroups_keeps (core : Nat) (ks : List Nat) (s : State) {α : Type} (p : Core → α) (hp : ∀ c g r, p { c with groups := g, rings := r } = p c) (k : Nat) :
    p ((ks.foldl (fun s k => (s.onCore core (fun c => c.onGroupK k (fun g => g.exitSlices (List.range 8)))).onCore core (fun c => c.groupEnds k)) s).core k) =
      p (s.core k) := by
  induction ks generalizing s with
  | nil => rfl
  | cons q qs ih =>
    rw [List.foldl_cons, ih]
    exact (State.core_onCore_of p _ core _ (hp _ _ _) k).trans (State.core_onCore_of p s core _ (hp (s.core core) _ (s.core core).rings) k)

/-- A team ends (R358); a core without commands has none to complete. -/
theorem State.endTeam_ends {s : State} {core team : Nat} (x : Stop) (hc : (s.core core).cmds = []) (hl : ((s.core core).team team).live = true) :
    let t := s.endTeam core team x
    ((t.core core).team team).ending = some x ∧ (t.core core).recSeq = (s.core core).recSeq := by
  intro t
  let u := (teamGroups (s.core core) team).foldl (fun s k =>
    (s.onCore core (fun c => c.onGroupK k (fun g => g.exitSlices (List.range 8)))).onCore core (fun c => c.groupEnds k)) s
  have hu {α : Type} (p : Core → α) (hp : ∀ c g r, p { c with groups := g, rings := r } = p c) : p (u.core core) = p (s.core core) :=
    State.exitGroups_keeps core _ s p hp core
  let f (c : Core) : Core := ({ c with crew := { c.crew with tasks := c.crew.tasks.filter (fun q => q.team != team) } } : Core).onTeam team (fun t => { t with ending := some x })
  let v := u.onCore core f
  have hv : v.core core = f (u.core core) := State.core_onCore_same _ _ _
  have hcm : (v.core core).cmds = [] := by rw [hv]; exact (hu Core.cmds (fun _ _ _ => rfl)).trans hc
  have hth (w : State) (hw : State.core w core = v.core core) : (((w.thaw core (team / 8)).core core).team team).ending = some x ∧
      ((w.thaw core (team / 8)).core core).recSeq = (s.core core).recSeq := by
    have h (w : State) (hw : (w.core core).crew.teams = (v.core core).crew.teams ∧ (w.core core).recSeq = (v.core core).recSeq) :
        ((w.core core).team team).ending = some x ∧ (w.core core).recSeq = (s.core core).recSeq := by
      refine ⟨?_, hw.2.trans (by rw [hv]; exact hu Core.recSeq (fun _ _ _ => rfl))⟩
      have := Core.team_onTeam { u.core core with crew := { (u.core core).crew with tasks := (u.core core).crew.tasks.filter (fun q => q.team != team) } } team
        (fun t => { t with ending := some x }) team
      rw [if_pos rfl] at this
      rw [Core.team, hw.1, hv]
      exact congrArg Team.ending this
    rw [State.thaw]
    split
    · exact h w ⟨by rw [hw], by rw [hw]⟩
    · refine h _ ?_
      rw [State.freeze, State.core_onCore_same, hw]
      exact ⟨rfl, rfl⟩
  have ht : ∃ F, t = ((((v.onHost F).core core).cmds.filter (fun d => d.team == team && d.paused.isSome)).foldl (fun s d => s.finishCmd core d true)
      (v.onHost F)).thaw core (team / 8) := ⟨_, if_neg (by rw [hl]; exact Bool.false_ne_true)⟩
  obtain ⟨F, ht⟩ := ht
  rw [State.core_onHost, hcm] at ht
  rw [ht]
  exact hth _ (State.core_onHost _ _ _)

/-- A gang that stops for a cause that ends its team (R353, R358). -/
theorem State.takeStop_ends {s : State} {a : GangAt} {c : Issue} {x : Stop} (hw : c.who = .gang a) (hag : isAgent c.who = false) (hr : x.rpl = false)
    (hcode : x.code ≠ causeSysc ∧ isDebugStop x.code = false ∧ stopsGang x = false) (htr : ∀ bit, s.traces a.core bit = false)
    (hcm : (s.core a.core).cmds = []) (hl : ((s.core a.core).team (teamKey c.who c.snap)).live = true) :
    let t := s.takeStop c x false
    ((t.core a.core).team (teamKey c.who c.snap)).ending = some x ∧ (t.core a.core).recSeq = ((s.core a.core).recSeq + 1) % 2 ^ 32 := by
  intro t
  obtain ⟨h1, h2, h3⟩ := hcode
  let tm := (s.core a.core).team (teamKey c.who c.snap)
  let v := s.coreRecord a.core tm.queue { stop := x, aid := aidOfWho c.who, cid := tm.cid, seq := 0, pc := c.pc, smask := sliceMask c.snap c.slices, amask := c.mask }
    (some (.gang c.who c.slices))
  let f (h : Group) : Group := h.onSlices c.slices (fun y =>
    { y with run := .stopped x false, pend := (match y.run with | .waiting w _ => if false then some w else none | _ => none),
             debugStopped := y.debugStopped || false })
  have ht : t = ((v.onGroup c.who f).forgetRefused tm.cid x.xlat).endTeam a.core (teamKey c.who c.snap) x := by
    have htrace : s.traceGang 3 4 c.who c.snap c.slices c.pc c.mask (BitVec.ofNat 32 x.code) (BitVec.ofNat 64 (s.core a.core).recSeq) = s := by
      rw [State.traceGang, hw]
      exact if_pos (by simp [coreOf, htr])
    have h1' : (x.code == causeSysc) = false := by simpa using h1
    simp only [t, State.takeStop]
    split
    · next n hn => rw [hw] at hn; cases hn
    · next b hb =>
      obtain rfl : a = b := Who.gang.inj (hw.symm.trans hb)
      simp only [htrace, hag, hr, h1', h2, h3, Bool.false_eq_true, if_false]
      cases x.tag <;> rfl
  obtain ⟨r, hf⟩ := State.forgetRefused_only (v.onGroup c.who f) tm.cid x.xlat
  have hsteady : Steady _ v := State.coreRecord_steady s a.core tm.queue _ _
  have hpart {α : Type} (p : Core → α) (hp : ∀ (k : Core) (g : Sparse Group), p { k with groups := g } = p k) : p (((v.onGroup c.who f).forgetRefused tm.cid x.xlat).core a.core) = p (v.core a.core) := by
    rw [hf, hw]
    exact State.core_onCore_of p v a.core (fun k => { k with groups := Sparse.upd (groupZero (slotKey a.bank a.slot)) (slotKey a.bank a.slot) f k.groups })
      (hp _ _) a.core
  have hseq (k : Nat) {α : Type} (p : Core → α) (hp : ∀ (c : Core) (n : Nat), p { c with recSeq := n } = p c) :
      p ((s.onCore a.core (fun c => { c with recSeq := (c.recSeq + 1) % 2 ^ 32 })).core k) = p (s.core k) := State.core_onCore_of p s a.core _ (hp _ _) k
  obtain ⟨he, hn⟩ := State.endTeam_ends (s := (v.onGroup c.who f).forgetRefused tm.cid x.xlat) (core := a.core) (team := teamKey c.who c.snap) x
    ((hpart Core.cmds (fun _ _ => rfl)).trans ((hsteady.cmds a.core).trans ((hseq a.core Core.cmds (fun _ _ => rfl)).trans hcm)))
    ((hpart (fun k => (k.team (teamKey c.who c.snap)).live) (fun _ _ => rfl)).trans ((hsteady.live a.core _).trans
      ((hseq a.core (fun k => (k.team (teamKey c.who c.snap)).live) (fun _ _ => rfl)).trans hl)))
  rw [ht]
  refine ⟨he, hn.trans ((hpart Core.recSeq (fun _ _ => rfl)).trans ((hsteady.recSeq a.core).trans ?_))⟩
  exact congrArg Core.recSeq (State.core_onCore_same s a.core (fun c => { c with recSeq := (c.recSeq + 1) % 2 ^ 32 }))

/-- The causes of a failed check of a fetched bundle (R214): they end its team. -/
theorem checkBundle_error {dec : Decoder} {c : Issue} {r : RawBundle} {x : Stop} (h : checkBundle dec c r = .error x) :
    x.code ≠ causeSysc ∧ isDebugStop x.code = false ∧ stopsGang x = false := by
  have hcode : ∃ b, x.code = badCause b := by
    rw [checkBundle] at h
    split at h
    · exact ⟨.illegalBundle, by cases h; rfl⟩
    · split at h
      · next sl e he => exact ⟨e, by cases h; rfl⟩
      · split at h
        · exact ⟨.illegalOperand, by cases h; rfl⟩
        · cases h
  obtain ⟨b, hb⟩ := hcode
  rw [stopsGang, hb]
  cases b <;> decide

theorem exec_fetch_ok {s : State} {w : Who} {r : RawBundle} (hi : s.issue = none) (hf : fetchBundle s w (s.pcOf w) = .ok r) :
    (∀ is, checkBundle (s.decoderOf w) (s.beginIssue w r.len) r = .ok is → exec (.instructionFetch w) s = .next s) ∧
      ∀ x, checkBundle (s.decoderOf w) (s.beginIssue w r.len) r = .error x → exec (.instructionFetch w) s = .next (s.takeStop (s.beginIssue w 0) x false) := by
  have he : exec (.instructionFetch w) s = .next (match checkBundle (s.decoderOf w) (s.beginIssue w r.len) r with
      | .error x => s.fetchStop w (.stop x)
      | .ok _ => s) := by
    refine congrArg Host.Outcome.next ?_
    rw [if_neg (by simp [hi]), hf] <;> rfl
  exact ⟨fun is h => by rw [he, h], fun x h => by rw [he, h]; rfl⟩

/-! ## Lines of code asked for -/

theorem lineHeld_iff (k : CoreCaches) (line : Nat) : lineHeld k line = true ↔ (∃ p ∈ k.icache, p.1 = line) ∨ ∃ p ∈ k.fills, p.1 = line := by
  simp only [lineHeld, Bool.or_eq_true, List.any_eq_true, beq_iff_eq]

/-- A line asked for (R68, R237). -/
def State.askLine (s : State) (core : Nat) (e : TlbEntry) (line : Nat) : State :=
  if lineHeld (s.core core).caches line || 8 ≤ (s.core core).caches.fills.length then s else (s.fillTlb core [e]).requestLine core line

theorem hasLine_iff (s : State) (core line : Nat) :
    (lineHeld (s.core core).caches line || decide (8 ≤ (s.core core).caches.fills.length)) = true ↔ HasLine s core line := by
  rw [Bool.or_eq_true, lineHeld_iff, decide_eq_true_eq, or_assoc]
  rfl

theorem State.askLine_asks {s : State} {core line : Nat} {e : TlbEntry} :
    (HasLine s core line → s.askLine core e line = s) ∧ (¬HasLine s core line → AsksLine s (s.askLine core e line) core line e) := by
  refine ⟨fun h => if_pos ((hasLine_iff s core line).mpr h), fun h => ?_⟩
  have hs : s.askLine core e line = (s.fillTlb core [e]).requestLine core line := if_neg (mt (hasLine_iff s core line).mp h)
  have hne : core / 8 ≠ bankOf (core / 160) e := by rw [bankOf]; omega
  have hlat : (if inL2 (s.fillTlb core [e]) line then 110 else 380) = codeLatency s line := by
    rw [codeLatency]
    refine if_congr ?_ rfl rfl
    rw [inL2, Bool.or_eq_true, List.contains_iff_mem]
    exact Iff.rfl
  have hcore (j : Nat) : (s.askLine core e line).core j = if j = core then { s.core j with caches := { (s.core j).caches with
      tlb := tlbAdd 128 (s.core j).caches.tlb e, fills := (s.core j).caches.fills ++ [(line, s.now + codeLatency s line)] } } else s.core j := by
    rw [hs, State.requestLine]
    dsimp only
    rw [hlat, State.core_onCore]
    have hfill (k : Nat) : (s.fillTlb core [e]).core k = if k = core then { s.core core with caches := { (s.core core).caches with
        tlb := tlbAdd 128 (s.core core).caches.tlb e } } else s.core k  :=
      State.core_onCore s core k (fun c => { c with caches := { c.caches with tlb := [e].foldl (tlbAdd 128) c.caches.tlb } })
    rw [hfill, hfill, if_pos rfl]
    split
    · next h => subst h; rfl
    · rfl
  refine ⟨by rw [hs]; rfl, fun j hj => by rw [hcore, if_neg hj], fun u => ?_, by rw [hcore, if_pos rfl]⟩
  have htlbs : (s.askLine core e line).tlbs = Sparse.upd [] (bankOf (core / 160) e) (fun t => tlbAdd 4096 t e)
      (Sparse.upd [] (core / 8) (fun t => tlbAdd 4096 t e) s.tlbs) := by rw [hs]; rfl
  rw [htlbs, Sparse.look_upd, Sparse.look_upd, Sparse.look_upd, if_neg hne.symm]
  simp only [List.mem_cons, List.not_mem_nil, or_false]
  by_cases h1 : u = core / 8
  · rw [if_neg (by rw [h1]; exact hne), if_pos h1, if_pos (.inl h1), h1]
  · by_cases h2 : u = bankOf (core / 160) e
    · rw [if_pos h2, if_pos (.inr h2), h2]
    · rw [if_neg h2, if_neg h1, if_neg (not_or.mpr ⟨h1, h2⟩)]

theorem exec_fetch_miss {s : State} {w : Who} {line : Nat} {e : TlbEntry} (hi : s.issue = none)
    (hf : fetchBundle s w (s.pcOf w) = .error (.miss line e)) : exec (.instructionFetch w) s = .next (s.askLine (coreOf w) e line) := by
  refine congrArg Host.Outcome.next ?_
  rw [if_neg (by simp [hi]), hf] <;> rfl

/-! ## PRFI -/

/-- The address of the first line that PRFI asks for (R237). -/
def prfiStart (c : Issue) (o : BOp) : DWord := BitVec.ofNat 64 ((c.pc + o.off.signExtend 64).toNat / 128 * 128)

/-- One line of a PRFI: asked for, kept until its page is granted, or dropped (R237). -/
def State.prefetchAt (s : State) (c : Issue) (va : DWord) : State :=
  match translate s (s.tlbOf c.who) (s.cidOf c.who) (isAgent c.who) va .fetch with
  | .ok e => s.askLine (coreOf c.who) e (lineOf (e.place va))
  | .ats cid _ =>
    s.onCore (coreOf c.who) (fun k =>
      if k.caches.prefetch.contains (cid, va) then k
      else { k with caches := { k.caches with prefetch := k.caches.prefetch ++ [(cid, va)] } })
  | .fault _ => s

theorem Core.keepPrefetch (c : Core) (x : Nat × DWord) :
    (if c.caches.prefetch.contains x then c else { c with caches := { c.caches with prefetch := c.caches.prefetch ++ [x] } }) =
      { c with caches := { c.caches with prefetch := if x ∈ c.caches.prefetch then c.caches.prefetch else c.caches.prefetch ++ [x] } } := by
  simp only [List.contains_iff_mem]
  split <;> rfl

/-- The lines of a PRFI one after another. -/
def State.prefetchAll (s : State) (c : Issue) (start : DWord) (n : Nat) : State :=
  (List.range n).foldl (fun s i => s.prefetchAt c (start + BitVec.ofNat 64 (128 * i))) s

theorem exec_prfi {s : State} {c : Issue} (h : Runs s c) (o : BOp) :
    exec (.prfi o) s = .next (s.prefetchAll c (prfiStart c o) ((o.mod.extractLsb' 0 3).toNat + 1)) := by
  refine congrArg Host.Outcome.next ?_
  rw [State.during, h.1]
  exact if_pos (by rw [h.2]; rfl)

theorem State.prefetchAll_one (s : State) (c : Issue) (start : DWord) : s.prefetchAll c start 1 = s.prefetchAt c start := by
  show s.prefetchAt c (start + BitVec.ofNat 64 (128 * 0)) = _
  rw [Nat.mul_zero, BitVec.add_zero]

theorem State.prefetchAll_succ (s : State) (c : Issue) (start : DWord) (n : Nat) : s.prefetchAll c start (n + 1) =
    (s.prefetchAll c start n).prefetchAll c (start + BitVec.ofNat 64 (128 * n)) 1 := by
  rw [State.prefetchAll_one, State.prefetchAll, List.range_succ, List.foldl_append]
  rfl

theorem State.prefetchAt_issue (s : State) (c : Issue) (va : DWord) : (s.prefetchAt c va).issue = s.issue := by
  have hask (e : TlbEntry) (l : Nat) : (s.askLine (coreOf c.who) e l).issue = s.issue := by
    rw [State.askLine]; split <;> rfl
  rw [State.prefetchAt]
  split
  · exact hask _ _
  · rfl
  · rfl

theorem State.prefetchAll_runs {s : State} {c : Issue} (h : Runs s c) (start : DWord) (n : Nat) : Runs (s.prefetchAll c start n) c := by
  refine ⟨?_, h.2⟩
  rw [← h.1, State.prefetchAll]
  generalize List.range n = l
  induction l generalizing s with
  | nil => rfl
  | cons i l ih =>
    rw [List.foldl_cons, ih ⟨(State.prefetchAt_issue _ _ _).trans h.1, h.2⟩]
    exact State.prefetchAt_issue _ _ _

/-- A PRFI of one line. -/
theorem exec_prfi_one {s : State} {c : Issue} (h : Runs s c) {o : BOp} (hn : (o.mod.extractLsb' 0 3).toNat + 1 = 1) :
    exec (.prfi o) s = .next (s.prefetchAt c (prfiStart c o)) := by
  rw [exec_prfi h o, hn, State.prefetchAll_one]

/-- A PRFI of several lines is one of all but the last and then one of the last (R237). -/
theorem exec_prfi_split {s : State} {c : Issue} (h : Runs s c) (o first last : BOp)
    (hn : (o.mod.extractLsb' 0 3).toNat + 1 = (first.mod.extractLsb' 0 3).toNat + 1 + 1) (ho : first.off = o.off)
    (h1 : (last.mod.extractLsb' 0 3).toNat + 1 = 1)
    (hs : prfiStart c last = prfiStart c o + BitVec.ofNat 64 (128 * ((first.mod.extractLsb' 0 3).toNat + 1))) :
    ∃ t u, exec (.prfi first) s = .next t ∧ exec (.prfi last) t = .next u ∧ exec (.prfi o) s = .next u := by
  have hf : prfiStart c first = prfiStart c o := by rw [prfiStart, ho]; rfl
  refine ⟨_, _, exec_prfi h first, exec_prfi (State.prefetchAll_runs h _ _) last, ?_⟩
  rw [exec_prfi h o, hn, State.prefetchAll_succ, h1, hs, hf]

/-! ## Line fills -/

/-- A line allocated in its home slice is there, whichever line makes room for it (R65). -/
theorem State.keepL2_only (s : State) (line : Nat) (first : Bool) : (∃ l2 ev, s.keepL2 line first = { s with store := { s.store with l2 := l2, evict := ev } }) ∧
    inL2 (s.keepL2 line first) line = true := by
  have hvictim (t : Store) (l : Nat) (h : l2Victim t (homeSlice line) line = some l) : l ≠ line := by
    have hmem : l ∈ (t.l2.map Prod.fst).filter (fun l => homeSlice l == homeSlice line && l != line) := by
      rw [l2Victim] at h
      split at h
      · next l' h' =>
        cases h
        exact List.mem_of_find?_eq_some h'
      · exact List.mem_of_head? h
    have := (List.mem_filter.mp hmem).2
    simp only [Bool.and_eq_true, bne_iff_ne] at this
    exact this.2
  rw [State.keepL2]
  dsimp only
  split
  · next h => exact ⟨⟨s.store.l2, s.store.evict, rfl⟩, by rw [inL2, h, Bool.or_true]⟩
  · split
    · split
      · next l hv =>
        refine ⟨⟨_, _, rfl⟩, ?_⟩
        rw [inL2, Sparse.look_put, if_neg (hvictim _ l hv).symm, Sparse.look_put_same, Bool.true_or]
      · exact ⟨⟨_, _, rfl⟩, by rw [inL2, Sparse.look_put_same, Bool.true_or]⟩
    · exact ⟨⟨_, _, rfl⟩, by rw [inL2, Sparse.look_put_same, Bool.true_or]⟩

/-- The line that a full instruction cache gives up for another. -/
def codeVictim (line : Nat) (bs : List Byte) (m : Sparse (List Byte)) : Option Nat :=
  if 512 < (Sparse.ins line bs m).length then ((Sparse.ins line bs m).map Prod.fst).find? (fun l => l != line) else none

/-- The instruction cache with a line put into it. -/
def codeAfter (line : Nat) (bs : List Byte) (m : Sparse (List Byte)) : Sparse (List Byte) :=
  match codeVictim line bs m with
  | some l => Sparse.put [] l [] (Sparse.ins line bs m)
  | none => Sparse.ins line bs m

/-- A line put into the instruction cache (R68). -/
theorem Core.keepCode_does (c : Core) (line : Nat) {bs : List Byte} (hb : bs ≠ []) :
    c.keepCode line bs = { c with caches := { c.caches with icache := (c.keepCode line bs).caches.icache } } ∧
      ∀ l, Sparse.look [] l (c.keepCode line bs).caches.icache =
        if l = line then bs else if codeVictim line bs c.caches.icache = some l then [] else Sparse.look [] l c.caches.icache := by
  have hput : Sparse.put [] line bs c.caches.icache = Sparse.ins line bs c.caches.icache := if_neg hb
  have hlook (l : Nat) : Sparse.look [] l (Sparse.ins line bs c.caches.icache) = if l = line then bs else Sparse.look [] l c.caches.icache := by
    rw [← hput, Sparse.look_put]
  have hk : c.keepCode line bs = { c with caches := { c.caches with icache := codeAfter line bs c.caches.icache } } := by
    rw [Core.keepCode, hput]; rfl
  refine ⟨by rw [hk], fun l => ?_⟩
  rw [hk]
  show Sparse.look [] l (codeAfter line bs c.caches.icache) = _
  rw [codeAfter]
  split
  · next v hv =>
    have hne : v ≠ line := by
      rw [codeVictim] at hv
      split at hv
      · simpa using List.find?_some hv
      · cases hv
    rw [Sparse.look_put, hlook]
    by_cases h1 : l = v
    · subst h1; rw [if_pos rfl, if_neg hne, if_pos hv]
    · rw [if_neg h1]
      refine if_congr Iff.rfl rfl ?_
      rw [if_neg (fun h => h1 (Option.some.inj (hv.symm.trans h)).symm)]
  · next hv => rw [hlook, if_neg (c := codeVictim line bs c.caches.icache = some l) (by rw [hv]; exact fun h => nomatch h)]

theorem exec_icacheLineFill (core line : Nat) (s : State) : exec (.icacheLineFill core line) s =
    .next (if (s.core core).caches.fills.any (fun p => p.1 == line && p.2 ≤ s.now) && !s.isOwned line then
      (let u := (s.recall line false none).onCore core (fun c =>
        ({ c with caches := { c.caches with fills := c.caches.fills.filter (fun p => p.1 != line) } } : Core).keepCode line
          ((s.recall line false none).store.mem.read line 128))
       if isLocal line then u.keepL2 line false else u)
    else s) := rfl

/-- The line filled, and allocated in its home slice where it is local (R65, R68). -/
def State.fillLine (s : State) (core line : Nat) : State :=
  let u := s.onCore core (fun c =>
    ({ c with caches := { c.caches with fills := c.caches.fills.filter (fun p => p.1 != line) } } : Core).keepCode line (s.store.mem.read line 128))
  if isLocal line then u.keepL2 line false else u

theorem State.fillLine_does (s : State) (core line : Nat) :
    let t := s.fillLine core line
    let bs := s.store.mem.read line 128
    let out := codeVictim line bs (s.core core).caches.icache
    MemoryKept s t ∧ t = { s with cores := t.cores, store := { s.store with l2 := t.store.l2, evict := t.store.evict } } ∧
      (∀ j ≠ core, t.core j = s.core j) ∧
      t.core core = { s.core core with caches := { (s.core core).caches with
        icache := (t.core core).caches.icache, fills := (s.core core).caches.fills.filter (fun p => p.1 != line) } } ∧
      (∀ l, Sparse.look [] l (t.core core).caches.icache = if l = line then bs else if out = some l then [] else Sparse.look [] l (s.core core).caches.icache) ∧
      (isLocal line = true → inL2 t line = true) := by
  intro t bs out
  let f (c : Core) : Core := ({ c with caches := { c.caches with fills := c.caches.fills.filter (fun p => p.1 != line) } } : Core).keepCode line bs
  obtain ⟨l2, ev, ht⟩ : ∃ l2 ev, t = { s.onCore core f with store := { s.store with l2 := l2, evict := ev } } := by
    by_cases hl : isLocal line = true
    · obtain ⟨⟨l2, ev, h⟩, -⟩ := State.keepL2_only (s.onCore core f) line false
      exact ⟨l2, ev, (if_pos hl).trans h⟩
    · exact ⟨s.store.l2, s.store.evict, if_neg hl⟩
  have hin : isLocal line = true → inL2 t line = true := fun hl => by
    rw [show t = (s.onCore core f).keepL2 line false from if_pos hl]
    exact (State.keepL2_only (s.onCore core f) line false).2
  have hcore (k : Nat) : t.core k = if k = core then f (s.core core) else s.core k := by
    rw [ht]
    exact State.core_onCore s core k f
  have hbs : bs ≠ [] := List.ne_nil_of_length_pos (by rw [Memory.length_read]; decide)
  obtain ⟨hk, hlook⟩ := Core.keepCode_does { s.core core with caches := { (s.core core).caches with
    fills := (s.core core).caches.fills.filter (fun p => p.1 != line) } } line hbs
  have hsame : t.core core = f (s.core core) := by rw [hcore, if_pos rfl]
  refine ⟨.of_stores (by rw [ht]) (fun k => ?_) (by rw [ht]; rfl), by rw [ht]; rfl, fun j hj => by rw [hcore, if_neg hj], ?_, fun l => ?_, hin⟩
  · rw [hcore]
    split
    · next h => rw [h, show f (s.core core) = _ from hk]
    · rfl
  · rw [hsame]; exact hk
  · rw [hsame]; exact hlook l

/-! ## Results written back -/

/-- A result in flight written to its registers (R156). -/
theorem Group.land_does (g : Group) (k : Nat) {r : InFlight} (hr : g.inflight[k]? = some r) (hn : (r.lanes.map Prod.fst).Nodup) :
    (g.land k).inflight = g.inflight.eraseIdx k ∧
    g.land k = { g with inflight := (g.land k).inflight, lanes := { g.lanes with v := (g.land k).lanes.v, poison := (g.land k).lanes.poison },
                        sca := { g.sca with s := (g.land k).sca.s, poison := (g.land k).sca.poison } } ∧
    (∀ key, Sparse.look 0 key (g.land k).lanes.v = (match r.lanes.find? (fun x => x.1 == key) with | some x => x.2.1 | none => Sparse.look 0 key g.lanes.v) ∧
      Sparse.look false key (g.land k).lanes.poison =
        (match r.lanes.find? (fun x => x.1 == key) with | some x => x.2.2 | none => Sparse.look false key g.lanes.poison)) ∧
    ∀ n, (g.land k).sreg n = (match r.sca with | some (m, x, _) => if n = m then x else g.sreg n | none => g.sreg n) ∧
      Sparse.look false n (g.land k).sca.poison =
        (match r.sca with | some (m, _, b) => if n = m then b else Sparse.look false n g.sca.poison | none => Sparse.look false n g.sca.poison) := by
  have hl : g.land k = { g.take r with inflight := g.inflight.eraseIdx k } := by rw [Group.land, hr]
  have puts {α : Type} [DecidableEq α] (d : α) (val : Nat × Word × Bool → α) (m : Sparse α) (key : Nat) :
      Sparse.look d key (r.lanes.foldl (fun m p => Sparse.put d p.1 (val p) m) m) =
        (match r.lanes.find? (fun x => x.1 == key) with | some x => val x | none => Sparse.look d key m) := by
    cases hf : r.lanes.find? (fun x => x.1 == key) with
    | none => exact Sparse.look_puts_other d key Prod.fst val _ _ (fun e he hk => by simpa [hk] using List.find?_eq_none.mp hf e he)
    | some x =>
      have hx := List.mem_of_find?_eq_some hf
      have hk : x.1 = key := by simpa using List.find?_some hf
      refine Sparse.look_puts d key Prod.fst val (val x) _ _ (fun e he hek => ?_) ⟨x, hx, hk⟩
      rw [List.inj_on_of_nodup_map hn he hx (hek.trans hk.symm)]
  refine ⟨by rw [hl], ?_, fun key => ?_, fun n => ?_⟩
  · rw [hl, Group.take]
    cases r.sca <;> rfl
  · rw [hl]
    exact ⟨puts 0 (fun p => p.2.1) g.lanes.v key, puts false (fun p => p.2.2) g.lanes.poison key⟩
  · rw [hl, Group.sreg, Group.take]
    cases r.sca with
    | none => exact ⟨rfl, rfl⟩
    | some q => exact ⟨Sparse.look_put _ _ _ _ _, Sparse.look_put _ _ _ _ _⟩

/-- The write-backs (R156, R157). -/
theorem exec_writeBack {s : State} {a : GroupAt} {k : Nat} {r : InFlight}
    (hr : (s.groupOf (.gang { core := a.core, bank := a.bank, slot := a.slot, slice := 0 })).inflight[k]? = some r) {p : Instr × Bool}
    (hp : p ∈ [(Instr.writeBack a k, true), (.fixedLatencyWriteBack a k, false)]) :
    exec p.1 s = .next (if r.due ≤ s.now ∧ r.held = false ∧ r.empties = p.2 then
      s.onGroup (.gang { core := a.core, bank := a.bank, slot := a.slot, slice := 0 }) (fun g => g.land k) else s) := by
  have he : exec p.1 s = .next (s.writeBack a k p.2) := by
    simp only [List.mem_cons, List.not_mem_nil, or_false] at hp
    obtain rfl | rfl := hp <;> rfl
  rw [he, State.writeBack, show (s.groupAt a.core a.bank a.slot).inflight[k]? = some r from hr]
  simp only [Bool.and_eq_true, decide_eq_true_eq, Bool.not_eq_true', beq_iff_eq, and_assoc] <;> rfl

end Sys2Proof.Machine

namespace Sys2Proof
open Machine

/-- Settles O38: NOP, bundles as they are fetched, missing lines, PRFI, line fills, and results written back. -/
theorem fetchAndWriteBack : Obligations.FetchAndWriteBack := by
  unfold Obligations.FetchAndWriteBack
  refine ⟨fun _ _ => rfl, fun w s r hi hcut hf => ⟨fun hops hhead => ⟨fun hm => ?empty, fun n hw hm => ?marked⟩, fun is hc => ?fetched, fun x hc hr => ⟨fun n hw hl => ?glenStop,
    fun a hw hag htr hcm hl => ?gangStop⟩⟩, fun w s line e hi hf => ⟨fun h => ?held, fun h => ?missing⟩, fun o s c h => ⟨fun hn => ⟨fun f hx => ?fault, fun e hx hl => ?there,
    fun e hx hl => ?asked, fun cid p hx => ?kept⟩, fun first last hn ho h1 hs => ?lines⟩, fun core line s => ⟨fun hd => ?notDue, fun hd hns => ?fill⟩, fun a k s r hr p hp => ⟨fun hd => ?early, fun hd hh he' hn => ?lands⟩⟩
  case empty =>
    have he := exec_emptyBundle hi hf hops hhead
    rw [State.complete_empty hi hcut] at he
    refine ⟨s.onGroup w (s.passEmpty w r.len), he.trans (congrArg _ ?_), OnlyRegisters.onGroup w s _, State.groupOf_onGroup_same s w _⟩
    cases w with
    | gang a => rfl
    | glen n => exact if_neg (by rw [hm.resolve_left (by simp [isGlen])]; exact Bool.false_ne_true)
  case marked =>
    subst hw
    have he := exec_emptyBundle hi hf hops hhead
    rw [State.complete_empty hi hcut, hm] at he
    exact ⟨_, he, State.markSegment_passes s n (s.passEmpty (.glen n) r.len) (s.pcOf (.glen n))⟩
  case fetched => exact (exec_fetch_ok hi hf).1 is hc
  case glenStop =>
    subst hw
    exact ⟨_, (exec_fetch_ok hi hf).2 x hc, State.takeStop_glen rfl rfl hr hl⟩
  case gangStop =>
    subst hw
    exact ⟨_, (exec_fetch_ok hi hf).2 x hc, State.takeStop_ends rfl hag hr (checkBundle_error hc) htr hcm hl⟩
  case held => exact (exec_fetch_miss hi hf).trans (congrArg _ (State.askLine_asks.1 h))
  case missing => exact ⟨_, exec_fetch_miss hi hf, State.askLine_asks.2 h⟩
  case fault =>
    rw [exec_prfi_one h hn, State.prefetchAt, show translate _ _ _ _ (prfiStart c o) _ = _ from hx]
  case there =>
    rw [exec_prfi_one h hn, State.prefetchAt, show translate _ _ _ _ (prfiStart c o) _ = _ from hx]
    exact congrArg _ (State.askLine_asks.1 hl)
  case asked =>
    refine ⟨_, (exec_prfi_one h hn).trans ?_, State.askLine_asks.2 hl⟩
    rw [State.prefetchAt, show translate _ _ _ _ (prfiStart c o) _ = _ from hx]
    rfl
  case kept =>
    have he := exec_prfi_one h hn
    rw [State.prefetchAt, show translate _ _ _ _ (prfiStart c o) _ = _ from hx] at he
    refine ⟨_, he, rfl, fun j hj => State.core_onCore_other s hj _, ?_⟩
    exact (State.core_onCore_same s _ _).trans (Core.keepPrefetch _ _)
  case lines => exact exec_prfi_split h o first last hn ho h1 hs
  case notDue =>
    refine (exec_icacheLineFill core line s).trans (congrArg _ (if_neg (fun hc => hd ?_)))
    simpa only [Bool.and_eq_true, List.any_eq_true, beq_iff_eq, decide_eq_true_eq, Bool.not_eq_true', and_assoc] using hc
  case fill =>
    have he := exec_icacheLineFill core line s
    rw [if_pos (by simpa only [Bool.and_eq_true, List.any_eq_true, beq_iff_eq, decide_eq_true_eq, Bool.not_eq_true', and_assoc] using hd),
      State.recall_none hns.1] at he
    obtain ⟨h1, h2, h3, h4, h5, h6⟩ := State.fillLine_does s core line
    refine ⟨s.fillLine core line, _, he, h1, h2, h3, h4, h5, fun hlen => ?_, h6⟩
    exact if_neg (Nat.not_lt.mpr hlen)
  all_goals
    have he := exec_writeBack hr hp
  case early => exact he.trans (congrArg _ (if_neg hd))
  case lands =>
    obtain ⟨h0, h1, h2, h3⟩ := Group.land_does _ k hr hn
    have hg := State.groupOf_onGroup_same s (.gang { core := a.core, bank := a.bank, slot := a.slot, slice := 0 }) (fun g => g.land k)
    refine ⟨_, he.trans (congrArg _ (if_pos ⟨hd, hh, he'⟩)), OnlyRegisters.onGroup _ s _, ?_, ?_, ?_, ?_⟩
    all_goals rw [hg]
    · exact h0
    · exact h2
    · exact h3
    · exact h1

end Sys2Proof
end

section
/-! Teams claimed, placed, handed on and reserving (R41, R48, R69, R141, R167 to R169, R307, R344 to R346). -/

namespace Sys2Proof.Machine
open Sys2Proof

/-! ## The grid that goes first (R344) -/

/-- One grid record goes before or with another: by PRIO, then start sequence, then die. -/
def goesFirst (x y : Nat × Nat × Grid) : Prop :=
  y.2.2.prio < x.2.2.prio ∨ (y.2.2.prio = x.2.2.prio ∧ (x.2.2.seq < y.2.2.seq ∨ (x.2.2.seq = y.2.2.seq ∧ x.1 ≤ y.1)))

theorem goesFirst_iff (x y : Nat × Nat × Grid) :
    (decide (y.2.2.prio < x.2.2.prio) || (y.2.2.prio == x.2.2.prio && (decide (x.2.2.seq < y.2.2.seq) || (x.2.2.seq == y.2.2.seq && decide (x.1 ≤ y.1))))) = true ↔
      goesFirst x y := by
  simp only [goesFirst, Bool.or_eq_true, Bool.and_eq_true, decide_eq_true_eq, beq_iff_eq]

theorem firstGrid_spec (l : List (Nat × Nat × Grid)) : (∀ z, firstGrid l = some z → z ∈ l ∧ ∀ y ∈ l, goesFirst z y) ∧ (firstGrid l = none → l = []) := by
  induction l with
  | nil => exact ⟨fun z h => (Option.some_ne_none z h.symm).elim, fun _ => rfl⟩
  | cons x xs ih =>
    rw [firstGrid]
    cases hf : firstGrid xs with
    | none =>
      obtain rfl := ih.2 hf
      refine ⟨fun z h => ?_, fun h => (Option.some_ne_none _ h).elim⟩
      obtain rfl := Option.some.inj h
      refine ⟨List.mem_cons_self, fun y hy => ?_⟩
      rw [List.mem_singleton.mp hy]
      exact .inr ⟨rfl, .inr ⟨rfl, Nat.le_refl _⟩⟩
    | some w =>
      obtain ⟨hw, hall⟩ := ih.1 w hf
      dsimp only
      refine ⟨fun z h => ?_, fun h => by split at h <;> cases h⟩
      split at h
      · next hc =>
        obtain rfl := Option.some.inj h
        have hxw : goesFirst x w := (goesFirst_iff x w).mp hc
        refine ⟨List.mem_cons_self, fun y hy => ?_⟩
        obtain rfl | hy := List.mem_cons.mp hy
        · exact .inr ⟨rfl, .inr ⟨rfl, Nat.le_refl _⟩⟩
        · have := hall y hy
          simp only [goesFirst] at this hxw ⊢
          omega
      · next hc =>
        obtain rfl := Option.some.inj h
        have hwx : ¬goesFirst x w := mt (goesFirst_iff x w).mpr hc
        refine ⟨List.mem_cons_of_mem _ hw, fun y hy => ?_⟩
        obtain rfl | hy := List.mem_cons.mp hy
        · simp only [goesFirst] at hwx ⊢
          omega
        · exact hall y hy

/-- The record that goes strictly before every other is the first. -/
theorem firstGrid_eq {l : List (Nat × Nat × Grid)} {z : Nat × Nat × Grid} (hz : z ∈ l)
    (h : ∀ y ∈ l, y = z ∨ y.2.2.prio < z.2.2.prio ∨ (y.2.2.prio = z.2.2.prio ∧ (z.2.2.seq < y.2.2.seq ∨ (z.2.2.seq = y.2.2.seq ∧ z.1 < y.1)))) :
    firstGrid l = some z := by
  cases hf : firstGrid l with
  | none => rw [(firstGrid_spec l).2 hf] at hz; cases hz
  | some w =>
    obtain ⟨hw, hall⟩ := (firstGrid_spec l).1 w hf
    obtain rfl | hb := h w hw
    · rfl
    · have := hall z hz
      simp only [goesFirst] at this
      omega

/-! ## Claims -/

theorem State.grid_onGrid (s : State) (d n : Nat) (f : Grid → Grid) (d' n' : Nat) :
    (s.onGrid d n f).grid d' n' = if d' = d ∧ n' = n then f (s.grid d n) else s.grid d' n' := by
  rw [State.grid, State.onGrid, State.die_onDie]
  by_cases hd : d' = d
  · subst hd
    simp only [if_true, true_and]
    exact Sparse.look_upd ({} : Grid) n n' f (s.die d').grids
  · rw [if_neg hd, if_neg (fun h => hd h.1)]; rfl

theorem State.die_onGrid (s : State) (d n : Nat) (f : Grid → Grid) (d' : Nat) :
    { (s.onGrid d n f).die d' with grids := [] } = { s.die d' with grids := [] } := by
  rw [State.onGrid, State.die_onDie]
  split
  · next h => rw [h]
  · rfl

theorem State.setClaim_becomes (s : State) (k : Nat) (q : Option Claim) : ClaimBecomes s (s.setClaim k q) k q :=
  ⟨rfl, fun _ hj => State.core_onCore_other s hj _, State.core_onCore_same s k _⟩

/-! ## What is found free -/

theorem lowestFree_sublist {n : Nat} {all used l : List Nat} (h : lowestFree n all used = some l) : l.Sublist all := by
  rw [lowestFree] at h
  split at h
  · obtain rfl := Option.some.inj h
    exact (List.take_sublist _ _).trans List.filter_sublist
  · cases h

/-- The group slots and the rings of a place that was found are distinct, the slots below 16. -/
theorem findSpot_distinct {c : Core} {busy : Occ} {cid : Nat} {n : Need} {bank : Nat} {p : Spot} (h : findSpot c busy cid n bank = some p) :
    p.slots.Nodup ∧ (∀ x ∈ p.slots, x < 16) ∧ p.rings.Nodup := by
  rw [findSpot] at h
  simp only [Option.bind_eq_bind] at h
  split at h
  · cases h
  · simp only [Option.bind_eq_some_iff, Option.some.injEq] at h
    obtain ⟨team, -, slots, hslots, regs, -, page, -, tile, -, flag, -, rings, hrings, rfl⟩ := h
    have hsub : (slots.map (fun k => k % 16)).Sublist (List.range 16) := by
      have := (lowestFree_sublist hslots).map (fun k => k % 16)
      rw [List.map_map] at this
      have hid : (List.range 16).map ((fun k => k % 16) ∘ fun k => 16 * bank + k) = List.range 16 :=
        (List.map_congr_left (fun k hk => by have := List.mem_range.mp hk; simp only [Function.comp_apply, id]; omega)).trans (List.map_id _)
      rwa [hid] at this
    exact ⟨hsub.nodup List.nodup_range, fun x hx => List.mem_range.mp (hsub.subset hx), (lowestFree_sublist hrings).nodup List.nodup_range⟩

theorem findPlace_distinct {c : Core} {busy : Occ} {cid : Nat} {n : Need} {p : Spot} (h : findPlace c busy cid n = some p) :
    p.slots.Nodup ∧ (∀ x ∈ p.slots, x < 16) ∧ p.rings.Nodup := by
  rw [findPlace] at h
  split at h
  · next q hq =>
    obtain rfl := Option.some.inj h
    exact findSpot_distinct hq
  · exact findSpot_distinct h

/-! ## Storage cleared -/

theorem Sparse.look_clear {α : Type} (d : α) (lo hi k : Nat) (m : Sparse α) :
    Sparse.look d k (Sparse.clear lo hi m) = if lo ≤ k ∧ k < hi then d else Sparse.look d k m := by
  induction m with
  | nil => rw [Sparse.clear, List.filter_nil, Sparse.look_nil, ite_self]
  | cons p m ih =>
    obtain ⟨j, x⟩ := p
    rw [Sparse.clear] at ih ⊢
    by_cases hj : j < lo ∨ hi ≤ j
    · rw [List.filter_cons_of_pos (by simpa using hj), Sparse.look, Sparse.look, ih]
      by_cases hk : j = k
      · rw [if_pos hk, if_pos hk, if_neg (by omega)]
      · rw [if_neg hk, if_neg hk]
    · rw [List.filter_cons_of_neg (by simpa using hj), ih, Sparse.look]
      by_cases hk : j = k
      · rw [if_pos (by omega), if_pos (by omega)]
      · rw [if_neg hk]

/-- Distinct cells changed one after another: each is changed once. -/
theorem Sparse.look_upds {α : Type} [DecidableEq α] (d : α) (f : α → α) (k : Nat) : ∀ (ks : List Nat) (m : Sparse α), ks.Nodup →
    Sparse.look d k (ks.foldl (fun m x => Sparse.upd d x f m) m) = if k ∈ ks then f (Sparse.look d k m) else Sparse.look d k m
  | [], _, _ => rfl
  | x :: ks, m, hn => by
    obtain ⟨hx, hn⟩ := List.nodup_cons.mp hn
    rw [List.foldl_cons, Sparse.look_upds d f k ks _ hn, Sparse.look_upd]
    by_cases hk : k = x
    · subst hk; rw [if_neg hx, if_pos rfl, if_pos List.mem_cons_self]
    · simp only [hk, if_false, List.mem_cons, false_or]

/-! ## Groups put into their slots -/

/-- Groups put into slots leave the rest of the core. -/
theorem Core.setGroups_part {α : Type} (p : Core → α) (hp : ∀ (c : Core) (g : Sparse Group), p { c with groups := g } = p c) (qs : List (Nat × Group)) (c : Core) :
    p (qs.foldl (fun c q => c.setGroup q.1 q.2) c) = p c := by
  induction qs generalizing c with
  | nil => rfl
  | cons q qs ih => rw [List.foldl_cons, ih]; exact hp c _

theorem Core.groupK_setGroup (c : Core) (key : Nat) (g : Group) (j : Nat) : (c.setGroup key g).groupK j = if j = key then g else c.groupK j := by
  by_cases h : j = key
  · subst h
    rw [if_pos rfl]
    exact Sparse.look_put_same (groupZero j) j g c.groups
  · rw [if_neg h]
    exact Sparse.look_put_other (groupZero key) (groupZero j) key j g h c.groups

theorem Core.groupK_setGroups_other {key : Nat} (qs : List (Nat × Group)) (c : Core) (h : ∀ q ∈ qs, q.1 ≠ key) :
    (qs.foldl (fun c q => c.setGroup q.1 q.2) c).groupK key = c.groupK key := by
  induction qs generalizing c with
  | nil => rfl
  | cons q qs ih =>
    rw [List.foldl_cons, ih _ (fun x hx => h x (List.mem_cons_of_mem _ hx)), Core.groupK_setGroup, if_neg (h q List.mem_cons_self).symm]

theorem Core.groupK_setGroups {key : Nat} {g : Group} (qs : List (Nat × Group)) (c : Core) (h : ∀ q ∈ qs, q.1 = key → q.2 = g) (hm : ∃ q ∈ qs, q.1 = key) :
    (qs.foldl (fun c q => c.setGroup q.1 q.2) c).groupK key = g := by
  induction qs generalizing c with
  | nil => obtain ⟨q, hq, -⟩ := hm; cases hq
  | cons q qs ih =>
    rw [List.foldl_cons]
    by_cases hrest : ∃ x ∈ qs, x.1 = key
    · exact ih _ (fun x hx => h x (List.mem_cons_of_mem _ hx)) hrest
    · rw [Core.groupK_setGroups_other qs _ (fun x hx hk => hrest ⟨x, hx, hk⟩), Core.groupK_setGroup]
      obtain ⟨x, hx, hk⟩ := hm
      obtain rfl | hx := List.mem_cons.mp hx
      · rw [if_pos hk.symm, h x List.mem_cons_self hk]
      · exact absurd ⟨x, hx, hk⟩ hrest

/-- The scalar registers of a group at its start (R169). -/
theorem startGroup_sreg (now : Nat) (l : GridLaunch) (gid : GroupId) (entry lbase : DWord) (ws : Nat) (ss : List DWord) (n : Nat) :
    (startGroup now l gid entry lbase ws ss).sreg n = ss.getD n 0 := by
  show Sparse.look 0 n (((List.range ss.length).zip ss).foldl (fun m (p : Nat × DWord) => Sparse.put 0 p.1 p.2 m) []) = _
  have hmem (e : Nat × DWord) : e ∈ (List.range ss.length).zip ss → e.2 = ss.getD e.1 0 := by
    intro he
    obtain ⟨i, hi⟩ := List.mem_iff_getElem?.mp he
    obtain ⟨h1, h2⟩ := List.getElem?_zip_eq_some.mp hi
    obtain ⟨hlt, hi'⟩ := List.getElem?_eq_some_iff.mp h1
    rw [List.getElem_range] at hi'
    rw [← hi', List.getD_eq_getElem?_getD, h2]
    rfl
  by_cases hn : n < ss.length
  · refine Sparse.look_puts 0 n Prod.fst Prod.snd (ss.getD n 0) _ _ (fun e he hk => by rw [hmem e he, hk]) ⟨(n, ss[n]), ?_, rfl⟩
    exact List.mem_of_getElem? (List.getElem?_zip_eq_some.mpr ⟨by rw [List.getElem?_range hn], List.getElem?_eq_getElem hn⟩)
  · rw [Sparse.look_puts_other 0 n Prod.fst Prod.snd _ _ (fun e he hk => hn (by have := List.mem_range.mp (List.of_mem_zip he).1; omega)),
      Sparse.look_nil, List.getD_eq_default _ _ (by omega)]

/-- The group of position `i` of a fresh team (R169). -/
def groupOfRole (now : Nat) (l : GridLaunch) (t : Team) (p : Spot) (slots : List Nat) (i : Nat) (q : Nat × Role × Nat) : Group :=
  startGroup now l
    { live := true, team := p.team, role := q.1, prio := q.2.1.prio, num := i, half := q.2.1.half, hnum := (p.regs.getD i (0, 0)).1, rsb := q.2.1.rsb,
      rbase := 512 * p.bank + 64 * (p.regs.getD i (0, 0)).2 }
    (l.code + BitVec.ofNat 64 (l.entry + q.2.1.entry)) (slotBase l (slots.getD i 0)) q.2.1.win
    [l.args, t.x.setWidth 64, t.y.setWidth 64, t.z.setWidth 64, BitVec.ofNat 64 q.2.2, BitVec.ofNat 64 q.1]

theorem mem_startGroups {now : Nat} {l : GridLaunch} {t : Team} {p : Spot} {slots : List Nat} {e : Nat × Group} :
    e ∈ startGroups now l t p slots ↔ ∃ i sl q, p.slots[i]? = some sl ∧ (rolesOf l.kernel)[i]? = some q ∧
      e = (slotKey p.bank sl, groupOfRole now l t p slots i q) := by
  rw [startGroups, List.mem_map]
  constructor
  · rintro ⟨⟨i, q⟩, hm, rfl⟩
    obtain ⟨j, hj⟩ := List.mem_iff_getElem?.mp hm
    obtain ⟨h1, h2⟩ := List.getElem?_zip_eq_some.mp hj
    obtain ⟨hlt, hi⟩ := List.getElem?_eq_some_iff.mp h1
    rw [List.getElem_range] at hi
    subst hi
    rw [List.length_range] at hlt
    exact ⟨j, p.slots.getD j 0, q, by rw [List.getElem?_eq_getElem hlt, List.getD_eq_getElem _ _ hlt], h2, rfl⟩
  · rintro ⟨i, sl, q, hs, hq, rfl⟩
    have hlt : i < p.slots.length := (List.getElem?_eq_some_iff.mp hs).1
    refine ⟨(i, q), List.mem_of_getElem? (List.getElem?_zip_eq_some.mpr ⟨List.getElem?_range hlt, hq⟩), ?_⟩
    have hsl : p.slots.getD i 0 = sl := by rw [List.getD_eq_getElem?_getD, hs]; rfl
    rw [← hsl]
    rfl

/-! ## A team made resident -/

theorem State.firstVisit_does (s : State) (k die grid : Nat) :
    let g := s.grid die grid
    let t := s.firstVisit k die grid
    t = { s with cores := t.cores, dies := t.dies } ∧ (∀ j ≠ k, t.core j = s.core j) ∧
      t.core k = { s.core k with caches := if k ∈ g.visited then (s.core k).caches else { (s.core k).caches with icache := [] } } ∧
      (∀ d n, t.grid d n = if d = die ∧ n = grid then { g with visited := if k ∈ g.visited then g.visited else g.visited ++ [k] } else s.grid d n) ∧
      ∀ d, { t.die d with grids := [] } = { s.die d with grids := [] } := by
  intro g t
  by_cases hv : k ∈ g.visited
  · have ht : t = s := if_pos (List.contains_iff_mem.mpr hv)
    refine ⟨by rw [ht], fun j _ => by rw [ht], by rw [ht, if_pos hv], fun d n => ?_, fun d => by rw [ht]⟩
    rw [ht, if_pos hv]
    split
    · next h => rw [h.1, h.2]
    · rfl
  · have ht : t = (s.onCore k (fun c => { c with caches := { c.caches with icache := [] } })).onGrid die grid (fun g => { g with visited := g.visited ++ [k] }) :=
      if_neg (mt List.contains_iff_mem.mp hv)
    refine ⟨by rw [ht]; rfl, fun j hj => ?_, ?_, fun d n => ?_, fun d => ?_⟩
    · rw [ht, State.onGrid, State.core_onDie, State.core_onCore_other s hj]
    · rw [ht, if_neg hv, State.onGrid, State.core_onDie, State.core_onCore_same]
    · rw [ht, State.grid_onGrid, if_neg hv]; rfl
    · rw [ht, State.die_onGrid]; rfl

/-- A core with a fresh team: its resources cleared, the team seated, its groups started (R41, R169). -/
def Core.withTeam (c : Core) (now : Nat) (l : GridLaunch) (tm : Team) (p : Spot) (slots : List Nat) : Core :=
  (startGroups now l tm p slots).foldl (fun c q => c.setGroup q.1 q.2) ((c.clearFor l.kernel.need p).seat (8 * p.bank + p.team) p.bank tm)

theorem State.placeClaim_none {s : State} {k : Nat} {q : Claim} (hq : (s.core k).crew.claim = some q)
    (h : findPlace (s.core k) (occOf s k) (s.grid q.die q.grid).launch.cid (s.grid q.die q.grid).launch.kernel.need = none ∨
      localSlots (s.grid q.die q.grid) ((s.grid q.die q.grid).launch.kernel.need.groups.length +
        (if (s.grid q.die q.grid).launch.kernel.trsb = 0 then 0 else 1)) = none) : s.placeClaim k = none := by
  rw [State.placeClaim, hq]
  dsimp only
  split
  · next p slots hp hs =>
    obtain h | h := h
    · rw [hp] at h; cases h
    · simp only [beq_iff_eq] at hs
      exact absurd (hs.symm.trans h) (Option.some_ne_none _)
  · rfl

/-- What a fresh team takes of its core (R41). -/
def freshRes (l : GridLaunch) (p : Spot) (slots : List Nat) : TeamRes :=
  { spbase := p.spbase, spsize := l.kernel.spsize, abase := p.abase, nacc := l.kernel.nacc, fbase := p.fbase, nflags := l.kernel.nflags, rings := p.rings,
    slots := slots, taskBase := p.taskBase, localSlot := slots.getLastD 0 }

/-- TEAM_PLACE where every resource fits (R41, R168). -/
theorem State.placeClaim_does {s : State} {k : Nat} {q : Claim} {p : Spot} {slots : List Nat} (hq : (s.core k).crew.claim = some q)
    (hp : findPlace (s.core k) (occOf s k) (s.grid q.die q.grid).launch.cid (s.grid q.die q.grid).launch.kernel.need = some p)
    (hs : localSlots (s.grid q.die q.grid) ((s.grid q.die q.grid).launch.kernel.need.groups.length +
      (if (s.grid q.die q.grid).launch.kernel.trsb = 0 then 0 else 1)) = some slots) :
    let g := s.grid q.die q.grid
    let l := g.launch
    ∃ t, exec (.teamPlace k) s = .next t ∧ t = { s with cores := t.cores, dies := t.dies } ∧ (∀ j ≠ k, t.core j = s.core j) ∧
      (t.core k = (fun c : Core => { c with crew := { c.crew with claim := none } })
        (Core.withTeam { s.core k with caches := if k ∈ g.visited then (s.core k).caches else { (s.core k).caches with icache := [] } } s.now l
          (newTeam q.die q.grid q.t g (freshRes l p slots)) p slots)) ∧
      (∀ d n, t.grid d n = if d = q.die ∧ n = q.grid then { g with visited := if k ∈ g.visited then g.visited else g.visited ++ [k]
                                                                   slots := slots.foldl (fun m k => Sparse.put false k true m) g.slots } else s.grid d n) ∧
      ∀ d, { t.die d with grids := [] } = { s.die d with grids := [] } := by
  intro g l
  let tm := newTeam q.die q.grid q.t g (freshRes l p slots)
  let u := s.firstVisit k q.die q.grid
  obtain ⟨hu, huo, huc, hug, hud⟩ := State.firstVisit_does s k q.die q.grid
  have hgu : u.grid q.die q.grid = { g with visited := if k ∈ g.visited then g.visited else g.visited ++ [k] } := by
    rw [show u.grid q.die q.grid = _ from hug _ _, if_pos ⟨rfl, rfl⟩]
  let v := u.onGrid q.die q.grid (fun g => { g with slots := slots.foldl (fun m k => Sparse.put false k true m) g.slots })
  let w := v.onCore k (fun c => c.withTeam s.now l tm p slots)
  have hseat : s.seatTeam k q.die q.grid q.t p slots = w := by
    have hl : (u.grid q.die q.grid).launch = l := by rw [hgu]
    have hnow : u.now = s.now := by rw [show u = _ from hu]
    have : s.seatTeam k q.die q.grid q.t p slots = v.onCore k (fun c => c.withTeam u.now (u.grid q.die q.grid).launch
      (newTeam q.die q.grid q.t (u.grid q.die q.grid) (freshRes (u.grid q.die q.grid).launch p slots)) p slots) := rfl
    rw [this, hl, hnow, hgu]
    rfl
  have hplace : s.placeClaim k = some (w.setClaim k none) := by
    have hs' : localSlots g (l.kernel.need.groups.length + (if l.kernel.need.trsb == 0 then 0 else 1)) = some slots := by
      rw [← hs]
      simp only [beq_iff_eq]
      rfl
    rw [State.placeClaim, hq]
    dsimp only
    rw [hp, hs']
    exact congrArg (fun x : State => some (x.setClaim k none)) hseat
  have hw (j : Nat) : w.core j = if j = k then Core.withTeam (u.core k) s.now l tm p slots else u.core j := State.core_onCore v k j _
  refine ⟨w.setClaim k none, ?_, ?_, fun j hj => ?_, ?_, fun d n => ?_, fun d => ?_⟩
  · refine congrArg Host.Outcome.next ?_
    rw [hplace]
  · have : w.setClaim k none = { u with cores := (w.setClaim k none).cores, dies := (w.setClaim k none).dies } := rfl
    rw [this, show u = _ from hu]
  · rw [State.setClaim, State.core_onCore_other _ hj, hw, if_neg hj]
    exact huo j hj
  · rw [State.setClaim, State.core_onCore_same, hw, if_pos rfl, show u.core k = _ from huc]
  · refine (State.grid_onGrid u q.die q.grid _ d n).trans ?_
    rw [hgu, show u.grid d n = _ from hug d n]
    split <;> rfl
  · exact (State.die_onGrid u q.die q.grid _ d).trans (hud d)

/-- The parts of a core with a fresh team (R41, R48, R169, R307). -/
theorem Core.withTeam_part {α : Type} (f : Core → α) (hf : ∀ (c : Core) (g : Sparse Group), f { c with groups := g } = f c) (c : Core) (now : Nat)
    (l : GridLaunch) (tm : Team) (p : Spot) (slots : List Nat) :
    f (c.withTeam now l tm p slots) = f ((c.clearFor l.kernel.need p).seat (8 * p.bank + p.team) p.bank tm) :=
  Core.setGroups_part f hf _ _

/-- The groups of a core with a fresh team: its own at their start, every other as before. -/
theorem Core.withTeam_groups (c : Core) (now : Nat) (l : GridLaunch) (tm : Team) (p : Spot) (slots : List Nat) (hn : p.slots.Nodup) :
    (∀ key, (∀ sl ∈ p.slots, slotKey p.bank sl ≠ key) → (c.withTeam now l tm p slots).groupK key = c.groupK key) ∧
    ∀ i sl q, p.slots[i]? = some sl → (rolesOf l.kernel)[i]? = some q →
      (c.withTeam now l tm p slots).groupK (slotKey p.bank sl) = groupOfRole now l tm p slots i q := by
  refine ⟨fun key h => ?_, fun i sl q hs hq => ?_⟩
  · refine Core.groupK_setGroups_other _ _ (fun e he hk => ?_)
    obtain ⟨i, sl, q, hs, -, rfl⟩ := mem_startGroups.mp he
    exact h sl (List.mem_of_getElem? hs) hk
  · refine Core.groupK_setGroups _ _ (fun e he hk => ?_) ⟨_, mem_startGroups.mpr ⟨i, sl, q, hs, hq, rfl⟩, rfl⟩
    obtain ⟨j, sl', q', hs', hq', rfl⟩ := mem_startGroups.mp he
    obtain rfl : sl' = sl := by simp only [slotKey] at hk; omega
    obtain rfl : i = j := (List.getElem?_inj (List.getElem?_eq_some_iff.mp hs).1 hn).mp (hs.trans hs'.symm)
    rw [Option.some.inj (hq.symm.trans hq')]

/-- The store, the flags and the rings of a core cleared for a team (R41, R48, R307). -/
theorem Core.clearFor_does (c : Core) (n : Need) (p : Spot) (hr : p.rings.Nodup) :
    (∀ a, (c.clearFor n p).store.spad.byte a = if p.spbase ≤ a ∧ a < p.spbase + n.spsize then 0 else c.store.spad.byte a) ∧
    (∀ w, Sparse.look false w (c.clearFor n p).store.spadPoison =
      if p.spbase / 4 ≤ w ∧ w < (p.spbase + n.spsize) / 4 then false else Sparse.look false w c.store.spadPoison) ∧
    (∀ e, (1024 * p.abase ≤ e ∧ e < 1024 * (p.abase + n.nacc) → Sparse.look 0 e (c.clearFor n p).store.tiles = 0 ∧
        Sparse.look false e (c.clearFor n p).store.lost = false ∧ Sparse.look false e (c.clearFor n p).store.tilePoison = false) ∧
      (¬(1024 * p.abase ≤ e ∧ e < 1024 * (p.abase + n.nacc)) → Sparse.look 0 e (c.clearFor n p).store.tiles = Sparse.look 0 e c.store.tiles ∧
        Sparse.look false e (c.clearFor n p).store.lost = Sparse.look false e c.store.lost ∧
        Sparse.look false e (c.clearFor n p).store.tilePoison = Sparse.look false e c.store.tilePoison)) ∧
    (∀ x, Sparse.look ({} : Flag) x (c.clearFor n p).flags = if p.fbase ≤ x ∧ x < p.fbase + n.nflags then
      { gen := (Sparse.look ({} : Flag) x c.flags).gen + 1, last := (Sparse.look ({} : Flag) x c.flags).last } else Sparse.look {} x c.flags) ∧
    ∀ r, Sparse.look ({} : Ring) r (c.clearFor n p).rings = if r ∈ p.rings then { gen := (Sparse.look ({} : Ring) r c.rings).gen + 1 } else Sparse.look {} r c.rings := by
  refine ⟨fun a => Sparse.look_clear _ _ _ _ _, fun w => Sparse.look_clear _ _ _ _ _, fun e => ⟨fun h => ⟨?_, ?_, ?_⟩, fun h => ⟨?_, ?_, ?_⟩⟩, fun x => ?_, fun r => ?_⟩
  · exact (Sparse.look_clear _ _ _ _ _).trans (if_pos h)
  · exact (Sparse.look_clear _ _ _ _ _).trans (if_pos h)
  · exact (Sparse.look_clear _ _ _ _ _).trans (if_pos h)
  · exact (Sparse.look_clear _ _ _ _ _).trans (if_neg h)
  · exact (Sparse.look_clear _ _ _ _ _).trans (if_neg h)
  · exact (Sparse.look_clear _ _ _ _ _).trans (if_neg h)
  · have hf : (c.clearFor n p).flags = ((List.range n.nflags).map (p.fbase + ·)).foldl (fun m x =>
        Sparse.upd {} x (fun (x : Flag) => { gen := x.gen + 1, last := x.last }) m) c.flags := by rw [List.foldl_map]; rfl
    rw [hf, Sparse.look_upds _ _ _ _ _ (List.nodup_range.map (fun _ _ => Nat.add_left_cancel))]
    refine if_congr ?_ rfl rfl
    simp only [List.mem_map, List.mem_range]
    constructor
    · rintro ⟨i, hi, rfl⟩; omega
    · exact fun h => ⟨x - p.fbase, by omega, by omega⟩
  · exact Sparse.look_upds ({} : Ring) (fun x => { gen := x.gen + 1 }) r p.rings c.rings hr

theorem Core.team_seat (c : Core) (key bank : Nat) (t : Team) (j : Nat) : (c.seat key bank t).team j = if j = key then t else c.team j :=
  Sparse.look_put ({} : Team) _ _ _ _

/-- Marks put at some numbers. -/
theorem Sparse.look_marks (ks : List Nat) (m : Sparse Bool) (n : Nat) :
    Sparse.look false n (ks.foldl (fun m k => Sparse.put false k true m) m) = (Sparse.look false n m || ks.contains n) := by
  by_cases h : n ∈ ks
  · refine (Sparse.look_puts false n id (fun _ => true) true ks m (fun _ _ _ => rfl) ⟨n, h, rfl⟩).trans ?_
    rw [List.contains_iff_mem.mpr h, Bool.or_true]
  · refine (Sparse.look_puts_other false n id (fun _ => true) ks m (fun e he hk => h (hk ▸ he))).trans ?_
    rw [Bool.eq_false_iff.mpr (mt List.contains_iff_mem.mp h), Bool.or_false]

end Sys2Proof.Machine

namespace Sys2Proof
open Machine

/-- Settles O41: claiming, placing, handing on and reserving. -/
theorem teamPlacement : Obligations.TeamPlacement := by
  unfold Obligations.TeamPlacement
  refine fun k s => ⟨fun h => ?noClaim, fun d n g hc hm hg hfirst => ?claims, fun hc => ⟨?_, fun j => ?_, ?_⟩, fun q hq => ⟨fun h => ⟨fun hp => ?waits, fun hp => ?stays⟩,
    fun p slots hp hs => ?placed, fun j => ⟨fun hok => ?kept, fun hok => ?handed⟩, fun h => ?early, fun h => ?reserves⟩⟩
  case noClaim =>
    refine congrArg Host.Outcome.next ?_
    by_cases hc : (s.core k).crew.claim = none
    · rw [if_neg (by simp [hc]), h.resolve_left (fun hn => hn hc)]
      rfl
    · rw [if_pos (Option.isSome_iff_ne_none.mpr hc)]
  case claims =>
    have he : exec (.teamClaim k) s = .next ((s.onGrid d n (fun g => match g.saves with
        | _ :: rest => { g with saves := rest }
        | [] => { g with ticket := g.ticket + 1 })).setClaim k
          (some { die := d, grid := n, t := match g.saves with | .unstarted t :: _ => t | _ => g.ticket, since := s.now })) := by
      refine congrArg Host.Outcome.next ?_
      rw [if_neg (by simp [hc]), firstGrid_eq hm hfirst]
      rfl
    refine ⟨_, he, ⟨rfl, fun j hj => State.core_onCore_other _ hj _, State.core_onCore_same _ k _⟩, State.die_onGrid s d n _, fun d' n' => ?_⟩
    refine (State.grid_onGrid s d n _ d' n').trans ?_
    rw [hg] <;> rfl
  case refine_1 =>
    refine congrArg Host.Outcome.next ?_
    rw [State.placeClaim, hc]
  case refine_2 =>
    refine congrArg Host.Outcome.next ?_
    rw [hc]
  case refine_3 =>
    refine congrArg Host.Outcome.next ?_
    rw [hc]
  case waits =>
    refine ⟨_, congrArg Host.Outcome.next ?_, State.setClaim_becomes s k _⟩
    rw [State.placeClaim_none hq h]
    dsimp only
    rw [hq]
    exact if_pos (by rw [hp]; rfl)
  case stays =>
    refine congrArg Host.Outcome.next ?_
    rw [State.placeClaim_none hq h]
    dsimp only
    rw [hq]
    exact if_neg (by simpa using hp)
  case kept =>
    refine congrArg Host.Outcome.next ?_
    rw [hq]
    refine if_neg (fun hc => hok ?_)
    simpa only [Bool.and_eq_true, beq_iff_eq, bne_iff_ne, Option.isNone_iff_eq_none, and_assoc] using hc
  case handed =>
    have he : exec (.teamHandoff k j) s = .next ((s.setClaim k none).setClaim j (some { q with phase := .claimed, since := s.now })) := by
      refine congrArg Host.Outcome.next ?_
      rw [hq]
      refine if_pos ?_
      simpa only [Bool.and_eq_true, beq_iff_eq, bne_iff_ne, Option.isNone_iff_eq_none, and_assoc] using hok
    obtain ⟨-, hkj, -⟩ := hok
    refine ⟨_, he, rfl, fun i hi hj => ?_, ?_, ?_⟩
    · rw [State.setClaim, State.core_onCore_other _ hj, State.setClaim, State.core_onCore_other _ hi]
    · rw [State.setClaim, State.core_onCore_other _ hkj, State.setClaim, State.core_onCore_same]
    · rw [State.setClaim, State.core_onCore_same, State.setClaim, State.core_onCore_other _ hkj.symm]
  case early =>
    refine congrArg Host.Outcome.next ?_
    rw [hq]
    exact if_neg (fun hc => h (by simpa only [Bool.and_eq_true, beq_iff_eq, decide_eq_true_eq] using hc))
  case reserves =>
    refine ⟨_, congrArg Host.Outcome.next ?_, State.setClaim_becomes s k _⟩
    rw [hq]
    exact if_pos (by simpa only [Bool.and_eq_true, beq_iff_eq, decide_eq_true_eq] using h)
  case placed =>
    obtain ⟨hsl, hsl16, hrings⟩ := findPlace_distinct hp
    obtain ⟨t, he, ht, hother, hk, hgrid, hdie⟩ := State.placeClaim_does hq hp hs
    have hpart {α : Type} (f : Core → α) (hf : ∀ (c : Core) (g : Sparse Group), f { c with groups := g } = f c)
        (hc : ∀ c : Core, f { c with crew := { c.crew with claim := none } } = f c) :=
      (congrArg f hk).trans ((hc _).trans (Core.withTeam_part f hf _ _ _ _ _ _))
    obtain ⟨hspad, hpois, htiles, hflags, hrs⟩ := Core.clearFor_does { s.core k with caches := if k ∈ (s.grid q.die q.grid).visited then (s.core k).caches else
      { (s.core k).caches with icache := [] } } (s.grid q.die q.grid).launch.kernel.need p hrings
    obtain ⟨hgo, hgs⟩ := Core.withTeam_groups { s.core k with caches := if k ∈ (s.grid q.die q.grid).visited then (s.core k).caches else
      { (s.core k).caches with icache := [] } } s.now (s.grid q.die q.grid).launch
        (newTeam q.die q.grid q.t (s.grid q.die q.grid) (freshRes (s.grid q.die q.grid).launch p slots)) p slots hsl
    refine ⟨t, he, ht, hother, ?_, ?_, ?_, fun b => ?_, fun j => ?_, fun a => ?_, fun w => ?_, fun e => ⟨fun h => ⟨?_, ?_, ?_⟩, fun h => ⟨?_, ?_, ?_⟩⟩, fun n => ?_,
      fun r => ?_, fun d n hdn => ?_, ?_, fun n => ?_, hdie, fun b n hbn hn => ?_, fun i sl role r num h b hsi hri hpi => ?_⟩
    · exact hpart (fun c => { c with groups := [], crew := {}, store := {}, flags := [], rings := [], caches := {} }) (fun _ _ => rfl) (fun _ => rfl)
    · exact hpart Core.caches (fun _ _ => rfl) (fun _ => rfl)
    · have hrest := hpart (fun c => { c.crew with claim := none, teams := [], bankCid := [] }) (fun _ _ => rfl) (fun _ => rfl)
      have hclaim : (t.core k).crew = { (t.core k).crew with claim := none } := by rw [hk]
      exact hclaim.trans (congrArg (fun x : CoreTeams => { x with teams := (t.core k).crew.teams, bankCid := (t.core k).crew.bankCid }) hrest)
    · exact (hpart (fun c => Sparse.look 0 b c.crew.bankCid) (fun _ _ => rfl) (fun _ => rfl)).trans (Sparse.look_put _ _ _ _ _)
    · exact (hpart (fun c => c.team j) (fun _ _ => rfl) (fun _ => rfl)).trans (Core.team_seat _ _ _ _ j)
    · exact (hpart (fun c => c.store.spad.byte a) (fun _ _ => rfl) (fun _ => rfl)).trans (hspad a)
    · exact (hpart (fun c => Sparse.look false w c.store.spadPoison) (fun _ _ => rfl) (fun _ => rfl)).trans (hpois w)
    · exact (hpart (fun c => Sparse.look 0 e c.store.tiles) (fun _ _ => rfl) (fun _ => rfl)).trans ((htiles e).1 h).1
    · exact (hpart (fun c => Sparse.look false e c.store.lost) (fun _ _ => rfl) (fun _ => rfl)).trans ((htiles e).1 h).2.1
    · exact (hpart (fun c => Sparse.look false e c.store.tilePoison) (fun _ _ => rfl) (fun _ => rfl)).trans ((htiles e).1 h).2.2
    · exact (hpart (fun c => Sparse.look 0 e c.store.tiles) (fun _ _ => rfl) (fun _ => rfl)).trans ((htiles e).2 h).1
    · exact (hpart (fun c => Sparse.look false e c.store.lost) (fun _ _ => rfl) (fun _ => rfl)).trans ((htiles e).2 h).2.1
    · exact (hpart (fun c => Sparse.look false e c.store.tilePoison) (fun _ _ => rfl) (fun _ => rfl)).trans ((htiles e).2 h).2.2
    · exact (hpart (fun c => Sparse.look ({} : Flag) n c.flags) (fun _ _ => rfl) (fun _ => rfl)).trans (hflags n)
    · exact (hpart (fun c => Sparse.look ({} : Ring) r c.rings) (fun _ _ => rfl) (fun _ => rfl)).trans (hrs r)
    · rw [hgrid, if_neg (fun h => hdn.elim (fun hd => hd h.1) (fun hn => hn h.2))]
    · rw [hgrid, if_pos ⟨rfl, rfl⟩]
    · rw [hgrid, if_pos ⟨rfl, rfl⟩]
      exact Sparse.look_marks slots _ n
    · refine (congrArg (fun c : Core => c.groupK (slotKey b n)) hk).trans (hgo (slotKey b n) (fun sl hm hkey => ?_))
      have := hsl16 sl hm
      simp only [slotKey] at hkey
      obtain rfl : n = sl := by omega
      obtain rfl : b = p.bank := by omega
      exact hbn.elim (fun h => h rfl) (fun h => h hm)
    · have hw : t.groupAt k p.bank sl = groupOfRole s.now (s.grid q.die q.grid).launch
          (newTeam q.die q.grid q.t (s.grid q.die q.grid) (freshRes (s.grid q.die q.grid).launch p slots)) p slots i (role, r, num) :=
        (congrArg (fun c : Core => c.groupK (slotKey p.bank sl)) hk).trans (hgs i sl _ hsi hri)
      have hreg : p.regs.getD i (0, 0) = (h, b) := by rw [List.getD_eq_getElem?_getD, hpi]; rfl
      rw [hw, groupOfRole, hreg]
      refine ⟨rfl, ?_⟩
      simp only [startGroup_sreg]
      refine ⟨rfl, rfl, rfl, rfl, rfl, rfl, fun n hn => List.getD_eq_default _ _ ?_⟩
      simpa using hn

end Sys2Proof
end

section
/-! Queued stores that perform, write-combining entries written out, stash lines filled and recalled, and snoops (R56, R58, R59, R64, R66, R116, R120, R129). -/

namespace Sys2Proof.Machine
open Sys2Proof

/-! ## Which store may perform (R117, R120, R128, R133) -/

theorem remote_iff (u : PendingStore) : u.remote = true ↔ ∃ b ∈ u.bytes, 2 ^ 61 ≤ b.1 := by
  simp only [PendingStore.remote, List.any_eq_true, decide_eq_true_eq]

theorem mustPrecede_iff (x : Scope) (e u : PendingStore) : mustPrecede x e.remote u = true ↔
    u.nt = false ∧ (x ∉ [Scope.slice, .grp, .core] ∨ u.stage2 = false) ∧
      (x = .dom ∨ x = .sys ∨ ¬((∃ b ∈ e.bytes, 2 ^ 61 ≤ b.1) ∨ ∃ b ∈ u.bytes, 2 ^ 61 ≤ b.1)) := by
  have hcore : beyondCore x = true ↔ x ∉ [Scope.slice, .grp, .core] := by cases x <;> simp [beyondCore]
  have hpkg : beyondPackage x = true ↔ x = .dom ∨ x = .sys := by cases x <;> simp [beyondPackage]
  simp only [mustPrecede, Bool.and_eq_true, Bool.or_eq_true, Bool.not_eq_true', hcore, hpkg, and_assoc, or_assoc]
  rw [← Bool.not_eq_true (e.remote || u.remote), Bool.or_eq_true, remote_iff, remote_iff]

theorem overlaps_iff (e u : PendingStore) : e.overlaps u = false ↔ ∀ b ∈ e.bytes, u.byteAt b.1 = none := by
  simp [PendingStore.overlaps]

/-- No order keeps a store behind an earlier one of the core: it is no release, or none that the earlier one must precede. -/
def mayPass (e u : PendingStore) : Bool := match e.release with | some x => !mustPrecede x e.remote u | none => true

theorem storeReady_eq {s : State} {q : List PendingStore} {k : Nat} {e : PendingStore} (hk : q[k]? = some e) :
    storeReady s q k = (e.bytes.all (fun b => !s.isOwned (lineOf b.1)) && (q.take k).all (fun u => !e.overlaps u && mayPass e u)) := by
  rw [storeReady, hk] <;> rfl

theorem storeReady_iff {s : State} {q : List PendingStore} {k : Nat} {e : PendingStore} (hk : q[k]? = some e) : storeReady s q k = true ↔
    (∀ b ∈ e.bytes, s.isOwned (lineOf b.1) = false) ∧ ∀ u ∈ q.take k, (∀ b ∈ e.bytes, u.byteAt b.1 = none) ∧
      ∀ x, e.release = some x → ¬(u.nt = false ∧ (x ∉ [Scope.slice, .grp, .core] ∨ u.stage2 = false) ∧
        (x = .dom ∨ x = .sys ∨ ¬((∃ b ∈ e.bytes, 2 ^ 61 ≤ b.1) ∨ ∃ b ∈ u.bytes, 2 ^ 61 ≤ b.1))) := by
  have hpass (u : PendingStore) : mayPass e u = true ↔ ∀ x, e.release = some x → ¬mustPrecede x e.remote u = true := by
    rw [mayPass]
    cases e.release with
    | none => simp
    | some y => simp
  simp only [storeReady_eq hk, Bool.and_eq_true, List.all_eq_true, Bool.not_eq_true', overlaps_iff, hpass, mustPrecede_iff]

/-! ## A store that performs -/

/-- The cores' stores with one of a core's taken off. -/
def State.takeStore (s : State) (core k : Nat) : State :=
  s.onCore core (fun c => { c with caches := { c.caches with stores := c.caches.stores.eraseIdx k } })

theorem exec_storePerform {s : State} {core k : Nat} {e : PendingStore} (hk : (s.core core).caches.stores[k]? = some e) :
    exec (.storePerform core k) s = .next (if storeReady s (s.core core).caches.stores k then (s.performStore core k).tellCut else s) := by
  have hlt : ¬(s.core core).caches.stores.length ≤ k := Nat.not_le.mpr (List.getElem?_eq_some_iff.mp hk).1
  refine congrArg Host.Outcome.next ?_
  dsimp only
  split
  · rw [if_neg hlt]
  · rfl

theorem State.performStore_kick {s : State} {core k : Nat} {e : PendingStore} {x : Option (Nat × DWord × Bool)}
    (hk : (s.core core).caches.stores[k]? = some e) (hx : kickOf s e = some x) :
    s.performStore core k = { s.takeStore core k with host := { s.host with kicks := s.host.kicks ++ x.toList } } := by
  have hx' : kickOf (s.takeStore core k) e = some x := hx
  rw [State.performStore]
  dsimp only
  rw [hk]
  dsimp only
  rw [show kickOf (s.onCore core _) e = some x from hx'] <;> rfl

/-- Lines allocated one after another in their home slices: the L2's lines alone change, and the last is there. -/
theorem State.keepL2s_only (ls : List Nat) (s : State) :
    ∃ l2 ev, ls.foldl (fun s l => s.keepL2 l false) s = { s with store := { s.store with l2 := l2, evict := ev } } := by
  induction ls generalizing s with
  | nil => exact ⟨_, _, rfl⟩
  | cons l ls ih =>
    obtain ⟨⟨a, b, h⟩, -⟩ := State.keepL2_only s l false
    obtain ⟨c, d, h'⟩ := ih (s.keepL2 l false)
    exact ⟨c, d, by rw [List.foldl_cons, h', h]⟩

/-- The local lines of some bytes, each once. -/
def homeLines (bs : List (Nat × Byte)) : List Nat := ((bs.map (fun b => lineOf b.1)).dedup).filter isLocal

theorem homeLines_one {bs : List (Nat × Byte)} {line : Nat} (hn : bs ≠ []) (hl : isLocal line = true) (h : ∀ b ∈ bs, lineOf b.1 = line) :
    homeLines bs = [line] := by
  have hmap : bs.map (fun b => lineOf b.1) = List.replicate bs.length line := List.eq_replicate_iff.mpr ⟨List.length_map _, fun x hx => by
    obtain ⟨b, hb, rfl⟩ := List.mem_map.mp hx
    exact h b hb⟩
  rw [homeLines, hmap, List.replicate_dedup (by simpa using hn)]
  simp [hl]

theorem State.performStore_eq {s : State} {core k : Nat} {e : PendingStore} (hk : (s.core core).caches.stores[k]? = some e) (hx : kickOf s e = none) :
    s.performStore core k = (let u := (s.takeStore core k).coherentWrite core e.bytes e.poison none
      if e.alloc then (homeLines e.bytes).foldl (fun s l => s.keepL2 l false) u else u) := by
  have hx' : kickOf (s.takeStore core k) e = none := hx
  rw [State.performStore]
  dsimp only
  rw [hk]
  dsimp only
  rw [show kickOf (s.onCore core _) e = none from hx'] <;> rfl

/-- A store that performs at its home (R64, R66, R116): in another's copies and replicas its lines are gone. -/
theorem State.performStore_does {s : State} {core k : Nat} {e : PendingStore} (hk : (s.core core).caches.stores[k]? = some e) (hx : kickOf s e = none)
    (hns : NoStash s) (hcut : s.store.cut = []) (hn : (e.bytes.map Prod.fst).Nodup) :
    let t := s.performStore core k
    t.store.cut = [] ∧ (∀ b ∈ e.bytes, t.store.mem.byte b.1 = b.2) ∧ (∀ p, (∀ b ∈ e.bytes, b.1 ≠ p) → t.store.mem.byte p = s.store.mem.byte p) ∧
      (t.core core).caches.stores = (s.core core).caches.stores.eraseIdx k ∧ (∀ v, t.groupOf v = s.groupOf v) ∧ (∀ j, (t.core j).store = (s.core j).store) ∧
      (∀ j ≠ core, (t.core j).caches.stores = (s.core j).caches.stores ∧ ∀ b ∈ e.bytes, Sparse.look false (lineOf b.1) (t.core j).caches.l1 = false) ∧
      (∀ b ∈ e.bytes, ∀ x ∈ t.store.replicas, x.1 ≠ lineOf b.1) ∧
      (∀ line, e.alloc = true → e.bytes ≠ [] → isLocal line = true → (∀ b ∈ e.bytes, lineOf b.1 = line) → inL2 t line = true) ∧ t.host = s.host := by
  intro t
  let v := s.takeStore core k
  have hv : NoStash v := NoStash.onCore hns core _ rfl
  have hg := State.giveUpLines_gaveUp core none ((e.bytes.map (fun b => lineOf b.1)).dedup) v hv.1
  let u := ((e.bytes.map (fun b => lineOf b.1)).dedup).foldl (fun s l => ((s.recall l true none).dropL1 core l).useSlice l) v
  have hon (b : Nat × Byte) (hb : b ∈ e.bytes) : ((e.bytes.map (fun b => lineOf b.1)).dedup).contains (lineOf b.1) = true := by
    rw [List.contains_iff_mem, List.mem_dedup]
    exact List.mem_map_of_mem hb
  obtain ⟨w, hw⟩ : ∃ w, w = v.coherentWrite core e.bytes e.poison none := ⟨_, rfl⟩
  have hperf : w = u.onStore (fun t => { t with
      mem := e.bytes.foldl (fun m b => Sparse.put 0#8 b.1 b.2 m) t.mem
      poison := if t.poison.isEmpty && !e.poison then t.poison else poisonAfter t.poison (e.bytes.map Prod.fst) e.poison }) :=
    hw.trans (State.perform_eq ((lostLinks_eq hg.plat).trans hv.2) e.bytes e.poison)
  obtain ⟨l2, ev, ht⟩ : ∃ l2 ev, t = { w with store := { w.store with l2 := l2, evict := ev } } := by
    have := State.performStore_eq hk hx
    rw [show t = _ from this, ← hw]
    dsimp only
    split
    · exact State.keepL2s_only _ _
    · exact ⟨_, _, rfl⟩
  have hcore (j : Nat) : t.core j = u.core j := by rw [ht, hperf]; rfl
  have hvcore (j : Nat) : v.core j = if j = core then { s.core core with caches := { (s.core core).caches with stores := (s.core core).caches.stores.eraseIdx k } }
      else s.core j := State.core_onCore s core j _
  have hmem : t.store.mem = e.bytes.foldl (fun m b => Sparse.put 0#8 b.1 b.2 m) s.store.mem := by
    rw [ht, hperf]
    show e.bytes.foldl _ u.store.mem = _
    rw [show u.store.mem = s.store.mem by rw [show u.store = _ from hg.store]; rfl]
  have hpart {α : Type} (p : Core → α) (hp : ∀ (c : Core) (x : CoreCaches), p { c with caches := x } = p c) (j : Nat) : p (t.core j) = p (s.core j) := by
    rw [hcore, ← hp (u.core j) {}, show ({ u.core j with caches := {} } : Core) = _ from hg.cores j, hp]
    exact State.core_onCore_of p s core _ (hp _ _) j
  refine ⟨?_, fun b hb => ?_, fun p hp => ?_, ?_, State.groupOf_of_groups (hpart Core.groups (fun _ _ => rfl)) ?_, hpart Core.store (fun _ _ => rfl), fun j hj => ⟨?_, fun b hb => ?_⟩,
    fun b hb x hx' => ?_, fun line ha hne hl hall => ?_, ?_⟩
  · rw [ht, hperf]
    show u.store.cut = []
    rw [show u.store = _ from hg.store]
    exact hcut
  · rw [hmem]
    refine Sparse.look_puts 0#8 b.1 Prod.fst Prod.snd b.2 e.bytes s.store.mem (fun c hc hcb => ?_) ⟨b, hb, rfl⟩
    rw [List.inj_on_of_nodup_map hn hc hb hcb]
  · rw [hmem]
    exact Memory.byte_puts_other p _ _ hp
  · rw [hcore, show u.core core = v.core core from hg.own, hvcore, if_pos rfl]
  · rw [ht, hperf]
    show u.glens = _
    rw [show u = _ from hg.frame]
    rfl
  · have hstores := congrArg CoreCaches.stores (hg.caches j)
    rw [hcore]
    refine Eq.trans hstores ?_
    show (v.core j).caches.stores = _
    rw [hvcore, if_neg hj]
  · rw [hcore, (hg.l1 j (lineOf b.1) hj).1, hon b hb]
    rfl
  · have hrep : t.store.replicas = v.store.replicas.filter (fun r => !((e.bytes.map (fun b => lineOf b.1)).dedup).contains r.1) := by
      rw [ht, hperf]
      show u.store.replicas = _
      rw [show u.store = _ from hg.store]
    rw [hrep] at hx'
    intro hxb
    have := (List.mem_filter.mp hx').2
    rw [hxb, hon b hb] at this
    exact Bool.false_ne_true this
  · have := State.performStore_eq hk hx
    rw [show t = _ from this]
    dsimp only
    rw [if_pos ha, homeLines_one hne hl hall]
    exact (State.keepL2_only _ line false).2
  · rw [ht, hperf]
    show u.host = _
    rw [show u = _ from hg.frame]
    rfl

/-! ## A write-combining entry written out (R66) -/

theorem exec_storePerform_wc {s : State} {core k : Nat} {e : WcEntry} (hk : (s.core core).caches.wc[k]? = some e) :
    exec (.storePerform core ((s.core core).caches.stores.length + k)) s = .next (s.writeOut core e.line) := by
  refine congrArg Host.Outcome.next ?_
  dsimp only
  rw [Nat.add_sub_cancel_left, hk]
  exact if_pos (Nat.le_add_right _ _)

theorem State.writeOut_does {s : State} {core : Nat} {e : WcEntry} (hf : (s.core core).caches.wc.find? (fun x => x.line == e.line) = some e) :
    let c := (s.core core).caches
    let t := s.writeOut core e.line
    t = { s with cores := t.cores } ∧ (∀ j ≠ core, t.core j = s.core j) ∧ t.core core = { s.core core with caches := { c with
      wc := c.wc.filter (fun x => x.line != e.line), nextStore := c.nextStore + 1
      stores := c.stores ++ [{ id := c.nextStore, op := c.nextStore, group := (e.threads.headD (0, 0)).1, lane := (e.threads.headD (0, 0)).2, bytes := e.bytes,
                               stage2 := false, wc := true }] } } := by
  intro c t
  let u := s.onCore core (fun c => { c with caches := { c.caches with wc := c.caches.wc.filter (fun x => x.line != e.line) } })
  have hu : u.core core = { s.core core with caches := { c with wc := c.wc.filter (fun x => x.line != e.line) } } := State.core_onCore_same s core _
  have ht : t = u.pushStore core { id := 0, op := (u.core core).caches.nextStore, group := (e.threads.headD (0, 0)).1, lane := (e.threads.headD (0, 0)).2,
                                   bytes := e.bytes, stage2 := false, wc := true } := by
    show s.writeOut core e.line = _
    rw [State.writeOut, hf]
  refine ⟨by rw [ht]; rfl, fun j hj => ?_, ?_⟩
  · rw [ht, State.pushStore, State.core_onCore_other _ hj, State.core_onCore_other _ hj]
  · rw [ht, State.pushStore, State.core_onCore_same, hu]

/-! ## Snoops (R129) -/

theorem State.hostSnoop_does (core line : Nat) (inv : Bool) (s : State) (h : ∀ e ∈ (s.core core).caches.stores, ∀ b ∈ e.bytes, lineOf b.1 ≠ lineOf line) :
    ∃ t, exec (.hostSnoop core line inv) s = .next t ∧ t = { s with cores := t.cores } ∧ (∀ j ≠ core, t.core j = s.core j) ∧
      t.core core = { s.core core with caches := { (s.core core).caches with l1 := (t.core core).caches.l1, l1own := (t.core core).caches.l1own } } ∧
      (∀ l, Sparse.look false l (t.core core).caches.l1own = if l = lineOf line then false else Sparse.look false l (s.core core).caches.l1own) ∧
      ∀ l, Sparse.look false l (t.core core).caches.l1 = if l = lineOf line ∧ inv = true then false else Sparse.look false l (s.core core).caches.l1 := by
  have hdrain : s.drainStores core (fun t => t.bytes.any (fun b => lineOf b.1 == lineOf line)) = s := by
    rw [State.drainStores]
    refine if_neg ?_
    simpa using h
  let f (c : Core) : Core := { c with caches := { c.caches with
    l1 := if inv then Sparse.put false (lineOf line) false c.caches.l1 else c.caches.l1, l1own := Sparse.put false (lineOf line) false c.caches.l1own } }
  have he : exec (.hostSnoop core line inv) s = .next (s.onCore core f) := by
    refine congrArg Host.Outcome.next ?_
    dsimp only
    rw [hdrain]
  have hc : (s.onCore core f).core core = f (s.core core) := State.core_onCore_same s core f
  refine ⟨_, he, rfl, fun j hj => State.core_onCore_other s hj f, by rw [hc], fun l => ?_, fun l => ?_⟩
  · rw [hc]
    exact Sparse.look_put false (lineOf line) l false (s.core core).caches.l1own
  · rw [hc]
    cases inv with
    | false => simp [f]
    | true => simpa [f] using Sparse.look_put false (lineOf line) l false (s.core core).caches.l1

/-! ## Stash lines (R56, R58) -/

/-- A window's line after it is set. -/
theorem find?_setStashLine (w : StashWin) (k : Nat) (l : Option StashLine) :
    ((setStashLine w k l).lines.find? (fun p => p.1 == k)).map Prod.snd = l := by
  have hrest : (w.lines.filter (fun p => p.1 != k)).find? (fun p => p.1 == k) = none := by
    rw [List.find?_eq_none]
    intro p hp
    simpa using (List.mem_filter.mp hp).2
  cases l with
  | none => rw [setStashLine, hrest]; rfl
  | some x => rw [setStashLine, List.find?_append, hrest]; simp

theorem stashLine_onStashLine (c : Core) (team win k : Nat) (l : Option StashLine) : stashLine ((c.onStashLine team win k l).team team) win k = l := by
  rw [Core.onStashLine, Core.team_onTeam, if_pos rfl, stashLine]
  dsimp only
  rw [Sparse.look_upd, if_pos rfl]
  exact find?_setStashLine _ k l

theorem stashLine_mem {t : Team} {win k : Nat} {l : StashLine} (h : stashLine t win k = some l) : (k, l) ∈ (Sparse.look {} win t.stash).lines := by
  rw [stashLine, Option.map_eq_some_iff] at h
  obtain ⟨p, hp, rfl⟩ := h
  have hk : p.1 = k := by simpa using List.find?_some hp
  rw [← hk]
  exact List.mem_of_find?_eq_some hp

/-- In a machine without stash lines a line of a mapped window is not there. -/
theorem stashLine_none {s : State} (h : StashEmpty s) (core team win k : Nat) : stashLine ((s.core core).team team) win k = none := by
  by_contra hn
  obtain ⟨l, hl⟩ := Option.ne_none_iff_exists'.mp hn
  have hmem := stashLine_mem hl
  obtain hw | hw := Sparse.look_mem ({} : StashWin) win ((s.core core).team team).stash
  · rw [hw] at hmem; cases hmem
  · obtain ht | ht := Sparse.look_mem ({} : Team) team (s.core core).crew.teams
    · rw [Core.team, ht] at hw; cases hw
    · have hc := StashEmpty.core h core l.place
      have : (team, win, k, l) ∈ coreStash (s.core core) l.place := by
        rw [coreStash, List.mem_flatMap]
        refine ⟨_, ht, List.mem_flatMap.mpr ⟨_, hw, List.mem_map.mpr ⟨_, List.mem_filter.mpr ⟨hmem, beq_self_eq_true _⟩, rfl⟩⟩⟩
      rw [hc] at this
      cases this

/-- A stash line recalled (R58, R59). -/
theorem State.recallLine_does {s : State} {core team win k : Nat} {l : StashLine} (h : stashLine ((s.core core).team team) win k = some l) (write : Bool) :
    let t0 := (s.core core).team team
    let w := Sparse.look {} win t0.stash
    let t := s.recallLine core team win k write
    (∀ v, t.groupOf v = s.groupOf v) ∧ (∀ j, (t.core j).store = (s.core j).store) ∧
      (t.store.mem = if l.owned then s.store.mem.write l.place ((s.core core).store.spad.read (t0.res.spbase + w.w + 128 * k) 128) else s.store.mem) ∧
      stashLine ((t.core core).team team) win k = if write then none else some { l with owned := false } := by
  intro t0 w t
  obtain ⟨q, hq⟩ : ∃ q, w.lines.find? (fun p => p.1 == k) = some (q, l) := by
    rw [stashLine, Option.map_eq_some_iff] at h
    obtain ⟨p, hp, rfl⟩ := h
    exact ⟨p.1, hp⟩
  let v : State := if l.owned then s.onStore (fun m => { m with
    mem := writeBackLine t0 (s.core core).store.spad w k l m.mem, poison := writeBackPoison t0 (s.core core).store.spadPoison w k l m.poison }) else s
  have ht : t = v.onCore core (fun c => c.onStashLine team win k (if write then none else some { l with owned := false })) := by
    have hq' : (Sparse.look {} win (Sparse.look {} team (s.core core).crew.teams).stash : StashWin).lines.find? (fun p => p.1 == k) = some (q, l) := hq
    show s.recallLine core team win k write = _
    rw [State.recallLine]
    dsimp only
    rw [hq']
    rfl
  have hv (j : Nat) : v.core j = s.core j := by
    show State.core (if l.owned then _ else s) j = _
    split <;> rfl
  have hpart {α : Type} (p : Core → α) (hp : ∀ (c : Core) (x : CoreTeams), p { c with crew := x } = p c) (j : Nat) : p (t.core j) = p (s.core j) := by
    rw [ht, ← hv j]
    exact State.core_onCore_of p v core _ (hp _ _) j
  refine ⟨State.groupOf_of_groups (hpart Core.groups (fun _ _ => rfl)) ?_, hpart Core.store (fun _ _ => rfl), ?_, ?_⟩
  · rw [ht]
    show State.glens (if l.owned then _ else s) = _
    split <;> rfl
  · rw [ht]
    show (State.store (if l.owned then _ else s)).mem = _
    split <;> rfl
  · rw [ht, State.core_onCore_same, stashLine_onStashLine]

/-- A line of a window filled (R56, R73). -/
theorem CoreStore.fillLine_does (m : CoreStore) (a : Nat) (bs : List Byte) (bad : Nat → Bool) (hb : bs.length = 128) :
    (∀ i < 128, (m.fillLine a bs ((List.range 4).map bad)).spad.byte (a + i) = bs.getD i 0) ∧
    (∀ p, (p < a ∨ a + 128 ≤ p) → (m.fillLine a bs ((List.range 4).map bad)).spad.byte p = m.spad.byte p) ∧
    ∀ i < 32, Sparse.look false (a / 4 + i) (m.fillLine a bs ((List.range 4).map bad)).spadPoison = bad (i / 8) := by
  refine ⟨fun i hi => Memory.byte_write bs m.spad a i (by omega), fun p hp => Memory.byte_write_other bs m.spad a p (by omega), fun i hi => ?_⟩
  have hbad (j : Nat) (hj : j < 4) : ((List.range 4).map bad).getD j false = bad j := by simp [List.getD_eq_getElem?_getD, hj]
  refine Sparse.look_puts false (a / 4 + i) (a / 4 + ·) (fun i => ((List.range 4).map bad).getD (i / 8) false) (bad (i / 8)) (List.range 32) m.spadPoison
    (fun j hj hk => ?_) ⟨i, List.mem_range.mpr hi, rfl⟩
  obtain rfl : j = i := Nat.add_left_cancel hk
  exact hbad _ (by omega)

/-- A stash line filled, where no other line of the machine is held in a window (R56, R73). -/
theorem State.stashFill_does {s : State} (h : NoStash s) (core team win k place : Nat) (own : Bool) :
    let t0 := (s.core core).team team
    let base := t0.res.spbase + (Sparse.look {} win t0.stash : StashWin).w + 128 * k
    let t := s.stashFill core team win k place own
    (∀ v, t.groupOf v = s.groupOf v) ∧ t.store.mem = s.store.mem ∧ (∀ i < 128, (t.core core).store.spad.byte (base + i) = s.store.mem.byte (place + i)) ∧
      (∀ i < 32, Sparse.look false (base / 4 + i) (t.core core).store.spadPoison = s.isPoisoned (place + 32 * (i / 8))) ∧
      (∀ p, (p < base ∨ base + 128 ≤ p) → (t.core core).store.spad.byte p = (s.core core).store.spad.byte p) ∧
      stashLine ((t.core core).team team) win k = some { place := place, owned := own } := by
  intro t0 base t
  let u := if own then s.dropL1 core place else s
  obtain ⟨on, hg⟩ : ∃ on, GaveUp core on s u := by
    show ∃ on, GaveUp core on s (if own then s.dropL1 core place else s)
    split
    · exact ⟨_, State.dropL1_gaveUp s core place⟩
    · exact ⟨_, GaveUp.refl core s⟩
  have hmem : u.store.mem = s.store.mem := by rw [hg.store]
  have hbad (p : Nat) : u.isPoisoned p = s.isPoisoned p := by
    rw [State.isPoisoned, State.isPoisoned, cutOff_none h.2, cutOff_none ((lostLinks_eq hg.plat).trans h.2), show u.store.poison = s.store.poison by rw [hg.store]]
  let f (c : Core) : Core := ({ c with store := c.store.fillLine base (s.store.mem.read place 128) ((List.range 4).map (fun j => s.isPoisoned (place + 32 * j))) } : Core).onStashLine
    team win k (some { place := place, owned := own })
  have ht : t = u.onCore core f := by
    have hnone := stashLine_none h.1 core team win k
    let filled (c : Core) : CoreStore := c.store.fillLine (((u.core core).team team).res.spbase +
      (Sparse.look {} win ((u.core core).team team).stash : StashWin).w + 128 * k) (u.store.mem.read place 128)
      ((List.range 4).map (fun j => u.isPoisoned (place + 32 * j)))
    have : t = u.onCore core (fun c => (if (stashLine ((u.core core).team team) win k).isNone then { c with store := filled c } else c).onStashLine team win k
        (some { place := place, owned := own || ((stashLine ((u.core core).team team) win k).map StashLine.owned).getD false })) := by
      show s.stashFill core team win k place own = _
      rw [State.stashFill, State.recall_none h.1]
    rw [this]
    simp only [filled, hg.own, hnone, hmem, hbad, Option.isNone_none, if_true, Option.map_none, Option.getD_none, Bool.or_false]
    rfl
  have hcore : t.core core = f (s.core core) := by rw [ht, State.core_onCore_same, hg.own]
  obtain ⟨h1, h2, h3⟩ := CoreStore.fillLine_does (s.core core).store base (s.store.mem.read place 128) (fun j => s.isPoisoned (place + 32 * j)) (Memory.length_read _ _ _)
  refine ⟨State.groupOf_of_groups (fun j => ?_) ?_, ?_, fun i hi => ?_, fun i hi => ?_, fun p hp => ?_, ?_⟩
  · rw [ht]
    have hj := congrArg Core.groups (hg.cores j)
    exact (State.core_onCore_of Core.groups u core f rfl j).trans hj
  · rw [ht]
    show u.glens = _
    rw [hg.frame]
  · rw [ht]; exact hmem
  · rw [hcore]
    exact (h1 i hi).trans (Memory.getD_read _ _ _ _ hi)
  · rw [hcore]; exact h3 i hi
  · rw [hcore]; exact h2 p hp
  · rw [hcore, stashLine_onStashLine]

theorem exec_stashFill {s : State} {core team win line : Nat} {own : Bool} {e : TlbEntry} (hl : ((s.core core).team team).live = true)
    (hw : (Sparse.look {} win ((s.core core).team team).stash : StashWin).valid = true)
    (hn : line < (Sparse.look {} win ((s.core core).team team).stash : StashWin).n) (hns : NoStash s) (hst : (s.core core).caches.stores = [])
    (hwc : (s.core core).caches.wc = []) (hf : findEntry s ((s.core core).caches.tlb ++ s.engineTlb core) ((s.core core).team team).cid false
      ((Sparse.look {} win ((s.core core).team team).stash : StashWin).g + BitVec.ofNat 64 (128 * line)) = .ok e)
    (hp : e.priv = false) (hr : e.rd = true) (hwr : own = true → e.wr = true) (hm : e.mt = 0) (hh : e.home ≠ 2)
    (ho : s.isOwned (lineOf (e.place ((Sparse.look {} win ((s.core core).team team).stash : StashWin).g + BitVec.ofNat 64 (128 * line)))) = false) :
    exec (.stashFill core team win line own) s = .next (s.stashFill core team win line
      (lineOf (e.place ((Sparse.look {} win ((s.core core).team team).stash : StashWin).g + BitVec.ofNat 64 (128 * line)))) own) := by
  have hfills : e.fills = true := by
    rw [TlbEntry.fills, Bool.and_eq_true, beq_iff_eq, bne_iff_ne]
    exact ⟨hm, hh⟩
  have hread : permit e .read false = none := by
    cases e
    simp only at hp hr
    subst hp hr
    rfl
  have hwrite (h : e.wr = true) : permit e .write false = none := by
    cases e
    simp only at hp h
    subst hp h
    rfl
  have hperm : stashPermit (.ok e) true (if own then .write else .read) false = .ok (.ok e) := by
    cases own with
    | false => simp [stashPermit, hfills, hread]
    | true => simp [stashPermit, hfills, hread, hwrite (hwr rfl)]
  have hsettle (ls : List Nat) : s.settleLines core ls = (s, true) := by rw [State.settleLines, hst, hwc]; rfl
  refine congrArg Host.Outcome.next ?_
  dsimp only
  rw [if_neg (by rw [hl, hw, decide_eq_true hn]; exact Bool.false_ne_true), hf, stashLine_none hns.1, show stashPermit (.ok e) (none : Option StashLine).isNone _ false = _ from hperm]
  dsimp only
  rw [hsettle, if_neg (by rw [hfills, ho]; exact Bool.false_ne_true)]

end Sys2Proof.Machine

namespace Sys2Proof
open Machine

/-- Settles O39: stores that perform, entries written out, stash lines and snoops. -/
theorem storesAndCopies : Obligations.StoresAndCopies := by
  unfold Obligations.StoresAndCopies
  refine ⟨fun core k s e hk => ⟨fun hr => ?notReady, fun hr hx hns hcut hn => ?performs, fun x hr hx hcut => ?kick⟩, fun core k s e hk hf => ?wc,
    fun core team win line s => ⟨fun own h => ?unmapped, fun own e hl hw hn hns hst hwc hfind hp hrd hwr hm hh ho => ?fill, fun write h => ?nothing, fun write l h => ?recalled⟩,
    fun core line inv s h => State.hostSnoop_does core line inv s h⟩
  case notReady => exact (exec_storePerform hk).trans (congrArg _ (if_neg (mt (storeReady_iff hk).mp hr)))
  case performs =>
    have he := (exec_storePerform hk).trans (congrArg _ (if_pos ((storeReady_iff hk).mpr hr)))
    obtain ⟨hc, hrest⟩ := State.performStore_does hk hx hns hcut hn
    rw [State.tellCut_nil hc] at he
    exact ⟨_, he, hrest⟩
  case kick =>
    have he := (exec_storePerform hk).trans (congrArg _ (if_pos ((storeReady_iff hk).mpr hr)))
    rw [State.performStore_kick hk hx] at he
    exact ⟨_, he.trans (congrArg Host.Outcome.next (State.tellCut_nil hcut)), rfl,
      fun j hj => (State.core_onCore_other s hj _ : (s.takeStore core k).core j = s.core j),
      (State.core_onCore_same s core _ : (s.takeStore core k).core core = _)⟩
  case wc => exact ⟨_, exec_storePerform_wc hk, State.writeOut_does hf⟩
  case unmapped =>
    refine congrArg Host.Outcome.next (if_pos ?_)
    rw [Bool.not_eq_true', ← Bool.not_eq_true, Bool.and_eq_true, Bool.and_eq_true, decide_eq_true_eq, and_assoc]
    exact h
  case fill => exact ⟨_, exec_stashFill hl hw hn hns hst hwc hfind hp hrd hwr hm hh ho, State.stashFill_does hns core team win line _ own⟩
  case nothing =>
    refine congrArg Host.Outcome.next ?_
    have hq : (Sparse.look {} win (Sparse.look {} team (s.core core).crew.teams).stash : StashWin).lines.find? (fun p => p.1 == line) = none :=
      Option.map_eq_none_iff.mp h
    show s.recallLine core team win line write = s
    rw [State.recallLine]
    dsimp only
    rw [hq]
  case recalled =>
    obtain ⟨hg, hs, hmem, hline⟩ := State.recallLine_does h write
    refine ⟨_, rfl, hg, hs, fun i hi => ?_, fun p hp => ?_, hline⟩
    · rw [hmem]
      split
      · exact (Memory.byte_copy _ _ _ _ _ _).trans ((if_pos ⟨Nat.le_add_right _ _, by omega⟩).trans (by rw [Nat.add_sub_cancel_left]))
      · rfl
    · rw [hmem]
      split
      · exact (Memory.byte_copy _ _ _ _ _ _).trans (if_neg (by omega))
      · rfl

end Sys2Proof
end

section
/-! A store fed by a stream register whose translation faults (R53, R284): the issuer's streams advance before the walk reads its tables. Where
the list of cores is out of order, that write puts the issuer's core ahead of another that holds the table's line too, and the walk reads its copy:
the stop that the bundle takes is not the one of the state before. -/

namespace Sys2Proof.Machine
open Sys2Proof

/-- A store of 4 bytes at address 0, of the next element of stream register 0. -/
def storeOfStream : MOp :=
  { at' := { slot := .simt 0#3, stg := 0#2 }, sz := 4#3, scp := .core, d := .q 0, base := .s 0, idx := .zero, pol := 0#4, tag := 0#8, off := 0#16 }

/-- A stash window whose line 0 holds the first line of memory, modified. -/
def firstLineWindow : StashWin := { lines := [(0, { place := 0, owned := true })] }

/-- A core that holds the first line of memory in its scratchpad, with these bytes. -/
def firstLineCore (groups : Sparse Group) (spad : Memory) : Core :=
  { groups := groups, crew := { teams := [(0, { stash := [(0, firstLineWindow)] })] }, store := { spad := spad } }

/-- The gang of slice 0 in slot 0 of core 0 issues the store with lane 0 active. -/
def streamIssue : Issue := { who := .gang { core := 0, bank := 0, slot := 0, slice := 0 }, mask := 1#32 }

/-- Core 1 is listed before the issuer's core 0; both hold the root table's line: core 1 with an entry of zeros, core 0 with one of NR. -/
def streamState : State :=
  { cores := [(1, firstLineCore [] []), (0, firstLineCore [(0, { q := [(0, { size := 256, arrived := 64 })] })] [(1, 8#8)])]
    contexts := [(0, { w0 := 1 })], partitions := [(0, { ranges := [(0, 2 ^ 14)] })], issue := some streamIssue }

/-- The fault that the walk finds in the state before: an invalid entry, replayable. -/
def replayableFault : XFault := { tfs := 3, level := 0, rpl := true }

/-- Is the stop of the bundle a replayable one? -/
def stopsReplayable (s : State) : Bool := s.issue.any (fun c => match c.status with | .stop x => x.rpl | _ => false)

/-- The store stops its bundle, and the stop is not replayable. -/
theorem storeOfStream_stop {t : State} (h : exec (.stG storeOfStream) streamState = .next t) : stopsReplayable t = false := by
  have ht : t = (match exec (.stG storeOfStream) streamState with | .next t => t | _ => streamState) := by rw [h]
  rw [ht]
  rfl

end Sys2Proof.Machine

namespace Sys2Proof
open Machine

/-- Refutes O19: the store's streams are consumed before its addresses are translated, and where the list of cores is out of order that write
changes which core's copy of a table the walk reads. -/
theorem not_stores : ¬ Obligations.Stores := by
  unfold Obligations.Stores
  intro h
  have hrun : LanesRun streamState streamIssue storeOfStream.at' [(storeOfStream.d, false)] := ⟨⟨rfl, rfl⟩, by decide, rfl⟩
  obtain ⟨-, -, hreach⟩ := h.1 storeOfStream streamState streamIssue hrun rfl (.stG storeOfStream, .global, false, none) (.head _)
  obtain ⟨⟨-, hfault, -⟩, -⟩ := hreach rfl (fun h => by cases h)
  obtain ⟨t, u, he, -, -, hi⟩ := hfault rfl 0 replayableFault rfl
  have hstop := storeOfStream_stop he
  rw [stopsReplayable, hi] at hstop
  cases hstop

end Sys2Proof
end

section
/-! What an access does before it moves a byte: its lanes are translated, refill a translation register and the TLBs, and meet watchpoints
(R27, R37, R364); what reading leaves in the caches and counters (R64, R65, R85). -/

namespace Sys2Proof.Machine
open Sys2Proof

/-! ## Caches and counters -/

/-- Of the machine only TLBs, the lines that one core's L1, the home slices and replicas hold, gather counters, pinned lines and the use of
islands changed. -/
structure Caching (core : Nat) (s t : State) : Prop where
  frame : t = { s with cores := t.cores, slices := t.slices, store := t.store, tlbs := t.tlbs, plat := t.plat }
  others : ∀ j ≠ core, t.core j = s.core j
  mine : t.core core = { s.core core with caches := { (s.core core).caches with
    tlb := (t.core core).caches.tlb, l1 := (t.core core).caches.l1, l1own := (t.core core).caches.l1own } }
  store : t.store = { s.store with l2 := t.store.l2, evict := t.store.evict, replicas := t.store.replicas }
  slices : ∀ n, (Sparse.look {} n t.slices : MemSlice) = { (Sparse.look {} n s.slices : MemSlice) with
    counters := (Sparse.look {} n t.slices : MemSlice).counters, requests := (Sparse.look {} n t.slices : MemSlice).requests
    pinned := (Sparse.look {} n t.slices : MemSlice).pinned }
  plat : t.plat = { s.plat with islands := t.plat.islands }
  islands : ∀ n, (Sparse.look {} n t.plat.islands : Island) = { (Sparse.look {} n s.plat.islands : Island) with
    since := (Sparse.look {} n t.plat.islands : Island).since, wakes := (Sparse.look {} n t.plat.islands : Island).wakes }

theorem Caching.refl (core : Nat) (s : State) : Caching core s s :=
  ⟨rfl, fun _ _ => rfl, rfl, rfl, fun _ => rfl, rfl, fun _ => rfl⟩

theorem Caching.trans {core : Nat} {s t u : State} (h : Caching core s t) (h' : Caching core t u) : Caching core s u where
  frame := by rw [h'.frame, h.frame]
  others j hj := (h'.others j hj).trans (h.others j hj)
  mine := by rw [h'.mine, h.mine]
  store := by rw [h'.store, h.store]
  slices n := by rw [h'.slices n, h.slices n]
  plat := by rw [h'.plat, h.plat]
  islands n := by rw [h'.islands n, h.islands n]

theorem Caching.foldl {α : Type} {core : Nat} {f : State → α → State} (h : ∀ s x, Caching core s (f s x)) (xs : List α) (s : State) :
    Caching core s (xs.foldl f s) := by
  induction xs generalizing s with
  | nil => exact Caching.refl core s
  | cons x xs ih => exact (h s x).trans (ih _)

theorem State.useSlice_caching (core : Nat) (s : State) (p : Nat) : Caching core s (s.useSlice p) := by
  rw [State.useSlice]
  split
  · refine { Caching.refl core s with frame := rfl, plat := rfl, islands := fun n => ?_ }
    simp only [Sparse.look_upd]
    split
    · next h =>
      subst h
      rw [Island.use]
      split <;> [rfl; split <;> rfl]
    · rfl
  · exact Caching.refl core s

theorem State.keepL2_caching (core : Nat) (s : State) (line : Nat) (first : Bool) : Caching core s (s.keepL2 line first) := by
  obtain ⟨⟨l2, ev, h⟩, -⟩ := State.keepL2_only s line first
  rw [h]
  exact { Caching.refl core s with frame := rfl, store := rfl }

/-- A gather request changes a slice's counters, requests and pinned lines. -/
theorem MemSlice.request_only (m : MemSlice) (p cls : Nat) :
    ∃ cs r ps, m.request p cls = { m with counters := cs, requests := r, pinned := ps } := by
  have hpin (x : MemSlice) (line cnt : Nat) : ∃ ps, x.pin line cnt = { x with pinned := ps } := by
    rw [MemSlice.pin]
    split
    · exact ⟨x.pinned, rfl⟩
    · split
      · exact ⟨_, rfl⟩
      · split
        · split
          · exact ⟨_, rfl⟩
          · exact ⟨x.pinned, rfl⟩
        · exact ⟨x.pinned, rfl⟩
  obtain ⟨cs, r, hm⟩ : ∃ cs r, (if 2 ^ 20 ≤ m.requests then m.halve else m) = { m with counters := cs, requests := r } := by
    split
    · exact ⟨_, _, rfl⟩
    · exact ⟨m.counters, m.requests, rfl⟩
  rw [MemSlice.request]
  dsimp only
  rw [hm]
  split
  · split
    · obtain ⟨ps, hps⟩ := hpin { m with
        counters := Sparse.put 0 (gatherKey p) (Nat.min (Sparse.look 0 (gatherKey p) cs + 1) 65535) cs, requests := r + 1 } (lineOf p)
        (Nat.min (Sparse.look 0 (gatherKey p) cs + 1) 65535)
      exact ⟨_, _, ps, hps⟩
    · exact ⟨_, _, m.pinned, rfl⟩
  · exact ⟨cs, _, m.pinned, rfl⟩

theorem State.gather_caching (core : Nat) (s : State) (p cls : Nat) (first : Bool) : Caching core s (s.gather p cls first) := by
  have hcount : Caching core s { s with slices := Sparse.upd {} (homeSlice p) (fun m => m.request p cls) s.slices } := by
    refine { Caching.refl core s with frame := rfl, slices := fun n => ?_ }
    simp only [Sparse.look_upd]
    split
    · next h =>
      obtain ⟨cs, r, ps, hr⟩ := MemSlice.request_only (Sparse.look {} (homeSlice p) s.slices) p cls
      subst h
      rw [hr]
    · rfl
  have huse := hcount.trans (State.useSlice_caching core _ p)
  rw [State.gather]
  split
  · split
    · exact huse
    · exact huse.trans (State.keepL2_caching core _ _ _)
  · exact Caching.refl core s

theorem State.onCore_caching (s : State) (core : Nat) (f : Core → Core) (hf : f (s.core core) = { s.core core with caches := { (s.core core).caches with
    tlb := (f (s.core core)).caches.tlb, l1 := (f (s.core core)).caches.l1, l1own := (f (s.core core)).caches.l1own } }) :
    Caching core s (s.onCore core f) :=
  { Caching.refl core s with
    frame := rfl
    others := fun _ hj => State.core_onCore_other s hj f
    mine := by rw [State.core_onCore_same]; exact hf }

theorem State.replicate_caching (s : State) (core line grid : Nat) : Caching core s (s.replicate core line grid) := by
  rw [State.replicate]
  split
  · exact Caching.refl core s
  · exact { Caching.refl core s with frame := rfl, store := rfl }

theorem State.keepL1_caching (s : State) (core line : Nat) : Caching core s (s.onCore core (fun c => c.keepL1 line)) := by
  refine State.onCore_caching s core _ ?_
  rw [Core.keepL1]
  dsimp only
  split <;> rfl

/-- A load's effect on the caches and counters (R65, R85). -/
theorem State.touch_caching (s : State) (core : Nat) (grid : Option Nat) (far : Bool) (l : GLane) (pol : Nat) :
    Caching core s (s.touch core grid far l pol) := by
  rw [State.touch]
  dsimp only
  split
  · exact Caching.refl core s
  · refine Caching.foldl (fun s line => ?_) _ s
    split
    · exact Caching.refl core s
    · have hg := State.gather_caching core s line (pol / 4) (pol % 4 == 3)
      have hr : Caching core s (match grid with
          | some g => if pol % 4 == 1 && isLocal line then (s.gather line (pol / 4) (pol % 4 == 3)).replicate core line g else s.gather line (pol / 4) (pol % 4 == 3)
          | none => s.gather line (pol / 4) (pol % 4 == 3)) := by
        split
        · split
          · exact hg.trans (State.replicate_caching _ core line _)
          · exact hg
        · exact hg
      split
      · exact hr
      · exact hr.trans (State.keepL1_caching _ core line)

theorem State.fillTlb_caching (s : State) (core : Nat) (es : List TlbEntry) : Caching core s (s.fillTlb core es) := by
  refine (State.onCore_caching s core _ rfl).trans (Caching.foldl (fun s e => ?_) es _)
  exact { Caching.refl core s with frame := rfl }

/-! ## An access's frame -/

/-- An access that writes nothing has so far changed nothing but what `AccessOnly` lets it, whatever the issue record has become. -/
structure AccessKept (c : Issue) (s t : State) (cnt : Team → Team) : Prop where
  frame : t = { s with cores := t.cores, slices := t.slices, store := t.store, tlbs := t.tlbs, plat := t.plat, issue := t.issue }
  groups : ∀ v, sameRegisters v c.who = false → t.groupOf v = s.groupOf v
  others : ∀ j ≠ coreOf c.who, { t.core j with groups := [] } = { s.core j with groups := [] }
  mine : { t.core (coreOf c.who) with groups := [] } = { s.core (coreOf c.who) with
    groups := []
    crew := { (s.core (coreOf c.who)).crew with teams := (t.core (coreOf c.who)).crew.teams }
    caches := { (s.core (coreOf c.who)).caches with
      tlb := (t.core (coreOf c.who)).caches.tlb, l1 := (t.core (coreOf c.who)).caches.l1, l1own := (t.core (coreOf c.who)).caches.l1own } }
  team : ∀ x, (t.core (coreOf c.who)).team x =
    if x = teamKey c.who c.snap ∧ isAgent c.who = false then cnt ((s.core (coreOf c.who)).team x) else (s.core (coreOf c.who)).team x
  store : t.store = { s.store with l2 := t.store.l2, evict := t.store.evict, replicas := t.store.replicas }
  slices : ∀ n, (Sparse.look {} n t.slices : MemSlice) = { (Sparse.look {} n s.slices : MemSlice) with
    counters := (Sparse.look {} n t.slices : MemSlice).counters, requests := (Sparse.look {} n t.slices : MemSlice).requests
    pinned := (Sparse.look {} n t.slices : MemSlice).pinned }
  plat : t.plat = { s.plat with islands := t.plat.islands }
  islands : ∀ n, (Sparse.look {} n t.plat.islands : Island) = { (Sparse.look {} n s.plat.islands : Island) with
    since := (Sparse.look {} n t.plat.islands : Island).since, wakes := (Sparse.look {} n t.plat.islands : Island).wakes }

theorem AccessKept.refl (c : Issue) (s : State) : AccessKept c s s id :=
  ⟨rfl, fun _ _ => rfl, fun _ _ => rfl, rfl, fun x => by rw [id, ite_self], rfl, fun _ => rfl, rfl, fun _ => rfl⟩

/-- Caches and counters changed. -/
theorem AccessKept.caching {c : Issue} {s t u : State} {cnt : Team → Team} (h : AccessKept c s t cnt) (h' : Caching (coreOf c.who) t u) :
    AccessKept c s u cnt where
  frame := by rw [h'.frame, h.frame]
  groups v hv := by
    refine (State.groupOf_of_groups (fun j => ?_) (by rw [h'.frame]) v).trans (h.groups v hv)
    by_cases hj : j = coreOf c.who
    · subst hj; rw [h'.mine]
    · rw [h'.others j hj]
  others j hj := by rw [h'.others j hj]; exact h.others j hj
  mine := by
    have := congrArg (fun x : Core => { x with caches := { x.caches with
      tlb := (u.core (coreOf c.who)).caches.tlb, l1 := (u.core (coreOf c.who)).caches.l1, l1own := (u.core (coreOf c.who)).caches.l1own } }) h.mine
    rw [h'.mine]
    exact this
  team x := by rw [Core.team, h'.mine]; exact h.team x
  store := by rw [h'.store, h.store]
  slices n := by rw [h'.slices n, h.slices n]
  plat := by rw [h'.plat, h.plat]
  islands n := by rw [h'.islands n, h.islands n]

/-- The issuer's registers changed. -/
theorem AccessKept.onGroup {c : Issue} {s t : State} {cnt : Team → Team} (h : AccessKept c s t cnt) (hg : isGlen c.who = false) (f : Group → Group) :
    AccessKept c s (t.onGroup c.who f) cnt := by
  obtain ⟨hm, hgr, hco, -, -⟩ := OnlyRegisters.onGroup c.who t f
  have hpart {α : Type} (p : Core → α) (hp : ∀ x : Core, p x = p { x with groups := [] }) (j : Nat) : p ((t.onGroup c.who f).core j) = p (t.core j) := by
    rw [hp, hco j, ← hp]
  have hglens : (t.onGroup c.who f).glens = t.glens := by
    cases hw : c.who with
    | gang a => rfl
    | glen n => rw [hw] at hg; cases hg
  refine ⟨?_, fun v hv => (hgr v hv).trans (h.groups v hv), fun j hj => (hco j).trans (h.others j hj), (hco _).trans ?_, fun x => ?_, ?_, fun n => ?_, ?_,
    fun n => ?_⟩
  · have hf : t.onGroup c.who f = { t with cores := (t.onGroup c.who f).cores } := by
      cases hw : c.who with
      | gang a => rfl
      | glen n => rw [hw] at hg; cases hg
    rw [hf, h.frame]
  · rw [hpart (fun x => x.crew.teams) (fun _ => rfl), hpart Core.caches (fun _ => rfl)]
    exact h.mine
  · rw [hpart (fun y => y.team x) (fun _ => rfl)]
    exact h.team x
  · rw [State.onGroup_store]; exact h.store
  · rw [State.onGroup_slices]; exact h.slices n
  · rw [State.onGroup_plat]; exact h.plat
  · rw [State.onGroup_plat]; exact h.islands n

/-- The issue record changed. -/
theorem AccessKept.withIssue {c : Issue} {s t : State} {cnt : Team → Team} (h : AccessKept c s t cnt) (i : Option Issue) :
    AccessKept c s { t with issue := i } cnt :=
  { h with
    frame := by
      have := h.frame
      rw [this] }

/-- The issuing team's buffer counter advanced (R38). -/
theorem AccessKept.count {c : Issue} {s t : State} (h : AccessKept c s t id) (hg : isGlen c.who = false) (tag kind : Nat) {n : Nat} (hn : n ≠ 0) :
    AccessKept c s (t.countTag c tag kind n) (fun x => x.count tag kind n) := by
  rw [State.countTag]
  cases ha : isAgent c.who with
  | true => exact { h with team := fun x => by have := h.team x; simpa [ha] using this }
  | false =>
    rw [if_neg (by simp [hg, hn])]
    refine ⟨?_, fun v hv => (State.groupOf_of_groups (State.core_onCore_of Core.groups t _ _ rfl) rfl v).trans (h.groups v hv), fun j hj => ?_, ?_, fun x => ?_,
      h.store, h.slices, h.plat, h.islands⟩
    · have := h.frame
      rw [State.onCore, this]
    · rw [State.core_onCore_other t hj]; exact h.others j hj
    · rw [State.core_onCore_same]
      let ts : Sparse Team := Sparse.upd {} (teamKey c.who c.snap) (fun y => y.count tag kind n) (t.core (coreOf c.who)).crew.teams
      exact congrArg (fun x : Core => { x with crew := { x.crew with teams := ts } }) h.mine
    · rw [State.core_onCore_same, Core.team_onTeam, h.team x, h.team]
      by_cases hx : x = teamKey c.who c.snap
      · subst hx; simp [ha]
      · simp [hx]

/-- What an access that writes nothing leaves, with what has become of the issue record. -/
theorem AccessKept.accessOnly {c : Issue} {s t : State} {cnt : Team → Team} {f : Issue → Issue} (h : AccessKept c s t cnt)
    (hi : ∃ x, t.issue = some (f { c with after := c.after ++ x }) ∧ (∀ y ∈ x, y.code = 0x14) ∧ ((s.core (coreOf c.who)).agent.wpc = [] → x = [])) :
    AccessOnly c s t false false cnt f := by
  have hpart {α : Type} (p : Core → α) (hg : ∀ x : Core, p x = p { x with groups := [] })
      (hp : ∀ (x : Core) ts tl l lo, p { x with crew := { x.crew with teams := ts }, caches := { x.caches with tlb := tl, l1 := l, l1own := lo } } = p x) (j : Nat) :
      p (t.core j) = p (s.core j) := by
    by_cases hj : j = coreOf c.who
    · subst hj
      rw [hg, h.mine]
      exact (hp { s.core (coreOf c.who) with groups := [] } _ _ _ _).trans (hg _).symm
    · rw [hg, h.others j hj, ← hg]
  have hother {α : Type} (p : Core → α) (hg : ∀ x : Core, p x = p { x with groups := [] }) (j : Nat) (hj : j ≠ coreOf c.who) : p (t.core j) = p (s.core j) := by
    rw [hg, h.others j hj, ← hg]
  refine ⟨h.frame, h.groups, fun k => hpart (fun x => { x with groups := [], caches := {}, crew := {}, store := {} }) (fun _ => rfl) (fun _ _ _ _ _ => rfl) k,
    fun _ => ⟨by rw [h.store], by rw [h.store], fun k => hpart Core.store (fun _ => rfl) (fun _ _ _ _ _ => rfl) k⟩, by rw [h.store],
    fun k => hpart (fun x => { x.caches with tlb := [], l1 := [], l1own := [], stores := [], wc := [], nextStore := 0 }) (fun _ => rfl) (fun _ _ _ _ _ => rfl) k,
    fun k _ => ⟨hpart (fun x => x.caches.stores) (fun _ => rfl) (fun _ _ _ _ _ => rfl) k, hpart (fun x => x.caches.wc) (fun _ => rfl) (fun _ _ _ _ _ => rfl) k,
      hpart (fun x => x.caches.nextStore) (fun _ => rfl) (fun _ _ _ _ _ => rfl) k⟩,
    fun k hk => ⟨hother (fun x => x.caches.tlb) (fun _ => rfl) k hk, fun _ => hother Core.caches (fun _ => rfl) k hk⟩,
    fun k => hpart (fun x => { x.crew with teams := [] }) (fun _ => rfl) (fun _ _ _ _ _ => rfl) k, fun k x => ?_, fun n => by rw [h.slices n],
    by rw [h.plat], fun n => by rw [h.islands n], hi⟩
  by_cases hk : k = coreOf c.who
  · subst hk
    rw [h.team x]
    simp
  · rw [if_neg (fun e => hk e.1)]
    exact hother (fun y => y.team x) (fun _ => rfl) k hk

end Sys2Proof.Machine
end

section
/-! An access held back, or reaching its lanes (R22, R37, R133), and where classes 1 and 2 of R285 stop it. -/

namespace Sys2Proof.Machine
open Sys2Proof

/-! ## The least of a list -/

/-- The first element of least key, as the model looks for it. -/
theorem foldl_least {α : Type} (key : α → Nat) (p : α) (ps : List α) :
    ps.foldl (fun b q => if key q < key b then q else b) p ∈ p :: ps ∧
      ∀ y ∈ p :: ps, key (ps.foldl (fun b q => if key q < key b then q else b) p) ≤ key y := by
  induction ps generalizing p with
  | nil => exact ⟨List.mem_singleton_self p, fun y hy => by rw [List.mem_singleton.mp hy]; rfl⟩
  | cons q ps ih =>
    obtain ⟨hm, hl⟩ := ih (if key q < key p then q else p)
    have hif : (if key q < key p then q else p) ∈ p :: q :: ps ∧ key (if key q < key p then q else p) ≤ key p ∧
        key (if key q < key p then q else p) ≤ key q := by
      split
      · next h => exact ⟨.tail _ (.head _), Nat.le_of_lt h, Nat.le_refl _⟩
      · next h => exact ⟨.head _, Nat.le_refl _, Nat.le_of_not_lt h⟩
    have hfirst := hl _ (.head _)
    rw [List.foldl_cons]
    refine ⟨?_, fun y hy => ?_⟩
    · obtain h | h := List.mem_cons.mp hm
      · rw [h]; exact hif.1
      · exact .tail _ (.tail _ h)
    · obtain rfl | hy := List.mem_cons.mp hy
      · exact hfirst.trans hif.2.1
      · obtain rfl | hy := List.mem_cons.mp hy
        · exact hfirst.trans hif.2.2
        · exact hl y (.tail _ hy)

/-! ## Reaching memory -/

/-- The accesses so far of an operation whose lanes are translated: the issuer's translation registers, the TLBs of its core and the watchpoint
stops that it takes after the bundle have changed, and nothing else. -/
structure Translated (c : Issue) (s t : State) : Prop where
  kept : AccessKept c s t id
  store : t.store = s.store
  slices : t.slices = s.slices
  plat : t.plat = s.plat
  caches : (t.core (coreOf c.who)).caches = { (s.core (coreOf c.who)).caches with tlb := (t.core (coreOf c.who)).caches.tlb }
  agent : (t.core (coreOf c.who)).agent = (s.core (coreOf c.who)).agent
  stash : NoStash s → NoStash t

theorem Translated.refl (c : Issue) (s : State) : Translated c s s := ⟨AccessKept.refl c s, rfl, rfl, rfl, rfl, rfl, id⟩

theorem Translated.onGroup {c : Issue} {s t : State} (h : Translated c s t) (hg : isGlen c.who = false) (f : Group → Group) :
    Translated c s (t.onGroup c.who f) := by
  obtain ⟨-, -, hco, -, -⟩ := OnlyRegisters.onGroup c.who t f
  have hcaches := congrArg Core.caches (hco (coreOf c.who))
  have hagent := congrArg Core.agent (hco (coreOf c.who))
  refine ⟨h.kept.onGroup hg f, ?_, ?_, ?_, ?_, ?_, fun hn => ?_⟩
  · rw [State.onGroup_store, h.store]
  · rw [State.onGroup_slices, h.slices]
  · rw [State.onGroup_plat, h.plat]
  · exact (hcaches.trans h.caches).trans (by rw [show ((t.onGroup c.who f).core (coreOf c.who)).caches.tlb = _ from congrArg CoreCaches.tlb hcaches])
  · exact hagent.trans h.agent
  · cases hw : c.who with
    | gang a => exact NoStash.onCore (h.stash hn) _ _ rfl
    | glen n => rw [hw] at hg; cases hg

/-- The translation register that an address names. -/
def xregOf : GAddr → Option Nat
  | .va _ => none
  | .xr k _ => some k

/-- One translation register refilled from the walk of its base, where it holds no translation (R27). -/
def refillStep (c : Issue) (s : State) (k : Nat) : State :=
  if (c.snap.xreg k).valid then s else
    if (trxValue (c.snap.xreg k).vbase (findFor s c.who (c.snap.xreg k).vbase)).valid then
      s.onGroup c.who (fun g => g.setXreg k (trxValue (c.snap.xreg k).vbase (findFor s c.who (c.snap.xreg k).vbase))) else s

theorem State.refillX_eq (s : State) (c : Issue) (ps : List (Nat × List (GAddr × Nat))) :
    s.refillX c ps = (ps.flatMap (fun p => p.2.filterMap (fun a => xregOf a.1))).dedup.foldl (refillStep c) s := by
  have hx : (fun a : GAddr × Nat => match a.1 with | .xr k _ => some k | _ => none) = fun a => xregOf a.1 := by
    funext a
    cases a.1 <;> rfl
  exact congrArg (fun f => (ps.flatMap (fun p => p.2.filterMap f)).dedup.foldl (refillStep c) s) hx

theorem State.refillX_translated {c : Issue} {s : State} (hg : isGlen c.who = false) (ps : List (Nat × List (GAddr × Nat))) :
    Translated c s (s.refillX c ps) ∧ (s.refillX c ps).issue = s.issue := by
  have hstep (t : State) (k : Nat) (h : Translated c s t ∧ t.issue = s.issue) : Translated c s (refillStep c t k) ∧ (refillStep c t k).issue = s.issue := by
    rw [refillStep]
    split
    · exact h
    · split
      · exact ⟨h.1.onGroup hg _, by rw [State.onGroup_issue]; exact h.2⟩
      · exact h
  rw [State.refillX_eq]
  exact List.foldlRecOn (motive := fun t => Translated c s t ∧ t.issue = s.issue) _ _ ⟨Translated.refl c s, rfl⟩ (fun t h k _ => hstep t k h)

theorem State.keepTlbEntries_frame (core : Nat) (es : List TlbEntry) (s : State) :
    ∃ tlbs, es.foldl (fun s e => (s.keepTlbEntry (core / 8) e).keepTlbEntry (bankOf (core / 160) e) e) s = { s with tlbs := tlbs } := by
  induction es generalizing s with
  | nil => exact ⟨s.tlbs, rfl⟩
  | cons e es ih =>
    obtain ⟨tlbs, h⟩ := ih ((s.keepTlbEntry (core / 8) e).keepTlbEntry (bankOf (core / 160) e) e)
    exact ⟨tlbs, h⟩

/-- The TLBs filled: of the machine only one core's TLB and the shared ones change. -/
theorem State.fillTlb_only (s : State) (core : Nat) (es : List TlbEntry) :
    ∃ tlb tlbs, s.fillTlb core es = { s.onCore core (fun c => { c with caches := { c.caches with tlb := tlb } }) with tlbs := tlbs } := by
  obtain ⟨tlbs, h⟩ := State.keepTlbEntries_frame core es (s.onCore core (fun c => { c with caches := { c.caches with tlb := es.foldl (tlbAdd 128) c.caches.tlb } }))
  exact ⟨es.foldl (tlbAdd 128) (s.core core).caches.tlb, tlbs, h⟩

theorem Translated.fillTlb {c : Issue} {s t : State} (h : Translated c s t) (es : List TlbEntry) : Translated c s (t.fillTlb (coreOf c.who) es) := by
  have hkept := h.kept.caching (State.fillTlb_caching t (coreOf c.who) es)
  obtain ⟨tlb, tlbs, he⟩ := State.fillTlb_only t (coreOf c.who) es
  have hcore : (t.fillTlb (coreOf c.who) es).core (coreOf c.who) =
      { t.core (coreOf c.who) with caches := { (t.core (coreOf c.who)).caches with tlb := tlb } } := by
    rw [he]
    exact State.core_onCore_same t (coreOf c.who) (fun c => { c with caches := { c.caches with tlb := tlb } })
  refine ⟨hkept, ?_, ?_, ?_, ?_, ?_, fun hn => ?_⟩
  · rw [he]; exact h.store
  · rw [he]; exact h.slices
  · rw [he]; exact h.plat
  · rw [hcore]
    exact congrArg (fun x : CoreCaches => { x with tlb := tlb }) h.caches
  · rw [hcore]; exact h.agent
  · rw [he]
    exact NoStash.onCore (h.stash hn) (coreOf c.who) (fun c => { c with caches := { c.caches with tlb := tlb } }) rfl

theorem Translated.withIssue {c : Issue} {s t : State} (h : Translated c s t) (i : Option Issue) : Translated c s { t with issue := i } :=
  ⟨h.kept.withIssue i, h.store, h.slices, h.plat, h.caches, h.agent, h.stash⟩

/-- The issue record after the watchpoints: stops of cause 0x14 taken after the bundle, none where no watchpoint is set (R364). -/
def Watched (c : Issue) (s t : State) : Prop :=
  ∃ x, t.issue = some { c with after := c.after ++ x } ∧ (∀ y ∈ x, y.code = 0x14) ∧ ((s.core (coreOf c.who)).agent.wpc = [] → x = [])

theorem State.watch_watched {c : Issue} {t : State} (h : t.issue = some c) (site : Site) (k : AccessKind) (ls : List GLane) :
    (∃ i, t.watch c site k ls = { t with issue := i }) ∧ Watched c t (t.watch c site k ls) := by
  have hsame : Watched c t t := ⟨[], by rw [List.append_nil]; exact h, fun _ hy => absurd hy List.not_mem_nil, fun _ => rfl⟩
  rw [State.watch]
  split
  · exact ⟨⟨t.issue, rfl⟩, hsame⟩
  · next hw =>
    split
    · exact ⟨⟨_, rfl⟩, [_], State.stopAfter_issue h _, fun y hy => by rw [List.mem_singleton.mp hy]; rfl, fun he => absurd (by rw [he]; rfl) hw⟩
    · exact ⟨⟨t.issue, rfl⟩, hsame⟩

/-- What stands before an access binds: the state in which its lanes are resolved, refilled registers and TLBs and watchpoints included. -/
def State.atLanes (s : State) (c : Issue) (site : Site) (k : AccessKind) (ps : List (Nat × List (GAddr × Nat))) : State :=
  ((s.refillX c ps).fillTlb (coreOf c.who) (reachLanes s c.who c.snap k ps).entries.reverse).watch c site k (reachLanes s c.who c.snap k ps).lanes

/-- Is a line that an access reads held by an engine command (R133)? -/
theorem anyOwned_iff {s : State} {ls : List GLane} :
    ls.any (fun l => l.places.any (fun p => s.isOwned (lineOf p))) = true ↔ ∃ l ∈ ls, ∃ p ∈ l.places, s.isOwned (lineOf p) = true := by
  simp only [List.any_eq_true]

/-- An access that nothing holds back runs on its lanes. -/
theorem State.reach_reached {s : State} {c : Issue} {k : AccessKind} {ps : List (Nat × List (GAddr × Nat))} (h : Reached s c k ps) (site : Site) (tag : Nat)
    (f : List GLane → State → State) :
    s.reach c site tag k ps f = f (reachLanes s c.who c.snap k ps).lanes (s.atLanes c site k ps) := by
  obtain ⟨hf, ha, ho⟩ := h
  have hno : ¬(k != .write && (reachLanes s c.who c.snap k ps).lanes.any (fun l => l.places.any (fun p => s.isOwned (lineOf p)))) = true := by
    rw [Bool.and_eq_true, bne_iff_ne, anyOwned_iff]
    rintro ⟨hk, l, hl, p, hp, hown⟩
    rw [ho hk l hl p hp] at hown
    cases hown
  rw [State.reach, ha, hf]
  exact if_neg hno

theorem State.atLanes_translated {s : State} {c : Issue} (h : s.issue = some c) (hg : isGlen c.who = false) (site : Site) (k : AccessKind)
    (ps : List (Nat × List (GAddr × Nat))) :
    Translated c s (s.atLanes c site k ps) ∧ Watched c s (s.atLanes c site k ps) ∧ (s.atLanes c site k ps).cur c = (s.refillX c ps).cur c := by
  obtain ⟨hr, hi⟩ := State.refillX_translated (s := s) hg ps
  have hf := hr.fillTlb (reachLanes s c.who c.snap k ps).entries.reverse
  obtain ⟨tlb, tlbs, he⟩ := State.fillTlb_only (s.refillX c ps) (coreOf c.who) (reachLanes s c.who c.snap k ps).entries.reverse
  have hissue : ((s.refillX c ps).fillTlb (coreOf c.who) (reachLanes s c.who c.snap k ps).entries.reverse).issue = some c := by
    rw [he]; exact hi.trans h
  obtain ⟨⟨i, hw⟩, x, hx, hcode, hnone⟩ := State.watch_watched hissue site k (reachLanes s c.who c.snap k ps).lanes
  refine ⟨?_, ⟨x, hx, hcode, fun hwpc => hnone (by rw [hf.agent]; exact hwpc)⟩, ?_⟩
  · rw [State.atLanes, hw]; exact hf.withIssue i
  · rw [State.atLanes, hw, he]
    exact State.groupOf_of_groups (State.core_onCore_of Core.groups (s.refillX c ps) (coreOf c.who)
      (fun c => { c with caches := { c.caches with tlb := tlb } }) rfl) rfl c.who

/-- An access waits for the page, stops at the fault, or waits for the command that holds its line. -/
theorem HeldBack.of_reach {i : Instr} {s : State} {c : Issue} {site : Site} {tag : Nat} {k : AccessKind} {ps : List (Nat × List (GAddr × Nat))}
    {f : List GLane → State → State} (h : Runs s c) (he : exec i s = .next (s.reach c site tag k ps f)) : HeldBack i s c site tag [] k ps := by
  refine ⟨fun cid p ha => EndsWith.of_waitFor h (he.trans ?_), fun ha v x hx => EndsWith.of_stopAt h (he.trans ?_),
    fun ha hf hk ho => EndsWith.of_waitFor h (he.trans ?_)⟩
  · rw [State.reach, ha]
  · rw [State.reach, ha, hx]
    rfl
  · rw [State.reach, ha, hf]
    refine congrArg Host.Outcome.next (if_pos ?_)
    rw [Bool.and_eq_true, bne_iff_ne, anyOwned_iff]
    exact ⟨hk, ho⟩

/-! ## The translation register of an access -/

/-- An access through plain virtual addresses refills no translation register. -/
theorem State.refillX_va {s : State} {c : Issue} {ps : List (Nat × List (GAddr × Nat))} (h : ∀ p ∈ ps, ∀ a ∈ p.2, ∃ v, a.1 = .va v) : s.refillX c ps = s := by
  have hks : ps.flatMap (fun p => p.2.filterMap (fun a => xregOf a.1)) = [] := by
    refine List.flatMap_eq_nil_iff.mpr (fun p hp => List.filterMap_eq_nil_iff.mpr (fun a ha => ?_))
    obtain ⟨v, hv⟩ := h p hp a ha
    rw [hv, xregOf]
  rw [State.refillX_eq, hks]
  rfl

/-- An access through one translation register refills it where it holds no translation (R27). -/
theorem State.refillX_xr {s : State} {c : Issue} {ps : List (Nat × List (GAddr × Nat))} {n : Nat} (h : ∀ p ∈ ps, ∀ a ∈ p.2, ∃ o, a.1 = .xr n o)
    (hne : ∃ p ∈ ps, p.2 ≠ []) : s.refillX c ps = refillStep c s n := by
  have hall : ∀ x ∈ ps.flatMap (fun p => p.2.filterMap (fun a => xregOf a.1)), x = n := by
    intro x hx
    obtain ⟨p, hp, hx⟩ := List.mem_flatMap.mp hx
    obtain ⟨a, ha, hx⟩ := List.mem_filterMap.mp hx
    obtain ⟨o, ho⟩ := h p hp a ha
    rw [ho] at hx
    exact (Option.some.inj hx).symm
  have hlen : (ps.flatMap (fun p => p.2.filterMap (fun a => xregOf a.1))).length ≠ 0 := by
    obtain ⟨p, hp, hne⟩ := hne
    obtain ⟨a, ha⟩ := List.exists_mem_of_ne_nil _ hne
    obtain ⟨o, ho⟩ := h p hp a ha
    exact List.length_eq_zero_iff.not.mpr (List.ne_nil_of_mem (List.mem_flatMap.mpr ⟨p, hp, List.mem_filterMap.mpr ⟨a, ha, by rw [ho, xregOf]⟩⟩))
  rw [State.refillX_eq, List.eq_replicate_iff.mpr ⟨rfl, hall⟩, List.replicate_dedup hlen]
  rfl

theorem globalAddr_xr (c : Issue) (g : Group) (m : BitVec 3) (idx : Spec) (off : BitVec 16) (l : Nat) :
    globalAddr c g (.x m) idx off l = .xr m.toNat ((idxVal c g idx l).toInt + off.toInt) := rfl

/-- A base that is no translation register gives a virtual address. -/
theorem globalAddr_va (c : Issue) (g : Group) {b : Base} (hb : ∀ m, b ≠ .x m) (idx : Spec) (off : BitVec 16) (l : Nat) :
    ∃ v, globalAddr c g b idx off l = .va v := by
  cases b with
  | x m => exact absurd rfl (hb m)
  | pair => cases idx <;> exact ⟨_, rfl⟩
  | _ => exact ⟨_, rfl⟩

/-- The pieces of a local access are virtual addresses. -/
theorem localPieces_va {g : Group} {a : Word} {n l : Nat} {ps : List (Nat × Nat)} : ∀ x ∈ localPieces g a n l ps, ∃ v, x.1 = .va v := by
  intro x hx
  rw [localPieces] at hx
  split at hx
  · cases hx
  · obtain ⟨q, -, rfl⟩ := List.mem_map.mp hx
    exact ⟨_, rfl⟩

/-- The issuer's registers once an access has refilled its translation register. -/
theorem State.cur_refillX {s : State} {c : Issue} {g : Group} {sp : Space} {o : MOp} {n : Nat} {pieces : List (Nat × Nat)} {lanes : List Nat}
    (hl : lanes ≠ []) (hp : pieces ≠ []) :
    (s.refillX c (lanes.map (fun l => (l, memPieces c g sp o n pieces l)))).cur c = refilled s c sp o.base (s.cur c) := by
  by_cases hx : sp = .global ∧ ∃ m, o.base = .x m
  · obtain ⟨rfl, m, hm⟩ := hx
    rw [State.refillX_xr (n := m.toNat), hm]
    · show (refillStep c s m.toNat).groupOf c.who = if (c.snap.xreg m.toNat).valid = false ∧ (trxValue (c.snap.xreg m.toNat).vbase
        (findFor s c.who (c.snap.xreg m.toNat).vbase)).valid = true then (s.groupOf c.who).setXreg m.toNat (trxValue (c.snap.xreg m.toNat).vbase
        (findFor s c.who (c.snap.xreg m.toNat).vbase)) else s.groupOf c.who
      rw [refillStep]
      cases hv : (c.snap.xreg m.toNat).valid with
      | true => simp
      | false =>
        cases hy : (trxValue (c.snap.xreg m.toNat).vbase (findFor s c.who (c.snap.xreg m.toNat).vbase)).valid <;> simp
    · intro p hp a ha
      obtain ⟨l, -, rfl⟩ := List.mem_map.mp hp
      obtain ⟨q, -, rfl⟩ := List.mem_map.mp ha
      rw [hm, globalAddr_xr]
      exact ⟨_, rfl⟩
    · obtain ⟨l, hl⟩ := List.exists_mem_of_ne_nil _ hl
      exact ⟨_, List.mem_map.mpr ⟨l, hl, rfl⟩, fun he => hp (List.map_eq_nil_iff.mp he)⟩
  · have hr : refilled s c sp o.base (s.cur c) = s.cur c := by
      rw [refilled]
      exact fun m hs hb => hx ⟨hs, m, hb⟩
    rw [State.refillX_va, hr]
    intro p hp a ha
    obtain ⟨l, -, rfl⟩ := List.mem_map.mp hp
    cases sp with
    | global =>
      obtain ⟨q, -, rfl⟩ := List.mem_map.mp ha
      obtain ⟨v, hv⟩ := globalAddr_va c g (fun m hm => hx ⟨rfl, m, hm⟩) o.idx o.off l
      rw [hv]
      exact ⟨_, rfl⟩
    | scratch => exact localPieces_va a ha
    | local' => exact localPieces_va a ha

end Sys2Proof.Machine
end

section
/-! Loads (R42 to R44, R116, R117, R280 to R285): where classes 1 and 2 stop them, the bytes that a thread sees, and what is delivered. -/

namespace Sys2Proof.Machine
open Sys2Proof

/-! ## Classes 1 and 2 of R285 -/

theorem aligned_iff (a n : Nat) : (!aligned a n) = decide (a % min n 4 ≠ 0) := by
  rw [aligned]
  split
  · next h => rw [Nat.min_eq_left h]; by_cases h0 : a % n = 0 <;> simp [h0]
  · next h => rw [Nat.min_eq_right (by omega)]; by_cases h0 : a % 4 = 0 <;> simp [h0]

theorem filter_misaligned (lanes : List Nat) (addr : Nat → Nat) (n : Nat) :
    (lanes.map addr).filter (fun a => !aligned a n) = (lanes.filter (fun l => addr l % min n 4 ≠ 0)).map addr := by
  rw [List.filter_map]
  exact congrArg _ (List.filter_congr (fun l _ => aligned_iff (addr l) n))

theorem isEmpty_map_of_ne_nil {α β : Type} {l : List α} (f : α → β) (h : l ≠ []) : (l.map f).isEmpty = false := by
  cases l with
  | nil => exact absurd rfl h
  | cons a l => rfl

/-- A misaligned lane stops the access first. -/
theorem class12_misaligned {lanes : List Nat} {addr : Nat → Nat} {n : Nat} (h : lanes.filter (fun l => addr l % min n 4 ≠ 0) ≠ []) (s : State) (c : Issue)
    (sp : Space) (write : Bool) (slot : Nat) : class12 s c sp write n slot true (lanes.map addr) =
      some (addrStop causeMisaligned slot ((lanes.filter (fun l => addr l % min n 4 ≠ 0)).map addr)) := by
  rw [class12.eq_def]
  dsimp only
  rw [if_pos rfl, filter_misaligned]
  exact if_pos (by rw [isEmpty_map_of_ne_nil _ h]; rfl)

/-- With every lane aligned the bounds of the space decide. -/
theorem class12_aligned {lanes : List Nat} {addr : Nat → Nat} {n : Nat} (h : lanes.filter (fun l => addr l % min n 4 ≠ 0) = []) (s : State) (c : Issue)
    (sp : Space) (write : Bool) (slot : Nat) : class12 s c sp write n slot true (lanes.map addr) =
      class12 s c sp write n slot false (lanes.map addr) := by
  rw [class12.eq_def]
  dsimp only
  rw [if_pos rfl, filter_misaligned, h]
  rfl

theorem class12_local (s : State) (c : Issue) (n slot : Nat) (lanes : List Nat) (addr : Nat → Nat) :
    class12 s c .local' false n slot false (lanes.map addr) =
      if lanes.filter (fun l => c.snap.win.lsize.toNat ≤ addr l + n - 1) = [] then none
      else some (addrStop causeStackLimit slot ((lanes.filter (fun l => c.snap.win.lsize.toNat ≤ addr l + n - 1)).map addr)) := by
  have hf : stackFails c.snap false n (lanes.map addr) = (lanes.filter (fun l => c.snap.win.lsize.toNat ≤ addr l + n - 1)).map addr := by
    rw [stackFails, List.filter_map]
    exact congrArg _ (List.filter_congr (fun l _ => by simp))
  show (if (stackFails c.snap false n (lanes.map addr)).isEmpty then none else some (addrStop causeStackLimit slot (stackFails c.snap false n (lanes.map addr)))) = _
  rw [hf]
  split
  · next he => rw [if_pos (List.map_eq_nil_iff.mp (List.isEmpty_iff.mp he))]
  · next he => rw [if_neg (fun e => he (by rw [e]; rfl))]

theorem class12_scratch (s : State) (c : Issue) (write : Bool) (n slot : Nat) (lanes : List Nat) (addr : Nat → Nat) :
    class12 s c .scratch write n slot false (lanes.map addr) =
      if lanes.filter (fun l => ((s.core (coreOf c.who)).team (teamKey c.who c.snap)).res.spsize ≤ addr l + n - 1) = [] then none
      else some (addrStop causeScratchRange slot
        ((lanes.filter (fun l => ((s.core (coreOf c.who)).team (teamKey c.who c.snap)).res.spsize ≤ addr l + n - 1)).map addr)) := by
  have hf : (lanes.map addr).filter (fun a => ((s.core (coreOf c.who)).team (teamKey c.who c.snap)).res.spsize ≤ a + n - 1) =
      (lanes.filter (fun l => ((s.core (coreOf c.who)).team (teamKey c.who c.snap)).res.spsize ≤ addr l + n - 1)).map addr := List.filter_map
  show (if ((lanes.map addr).filter (fun a => ((s.core (coreOf c.who)).team (teamKey c.who c.snap)).res.spsize ≤ a + n - 1)).isEmpty then none
    else some (addrStop causeScratchRange slot ((lanes.map addr).filter (fun a => ((s.core (coreOf c.who)).team (teamKey c.who c.snap)).res.spsize ≤ a + n - 1)))) = _
  rw [hf]
  split
  · next he => rw [if_pos (List.map_eq_nil_iff.mp (List.isEmpty_iff.mp he))]
  · next he => rw [if_neg (fun e => he (by rw [e]; rfl))]

/-- An operation with an active lane accesses something. -/
theorem accessLanes_ne_nil {c : Issue} {site : Site} (h : c.opLanes site ≠ []) (isLane : Bool) : accessLanes c site isLane ≠ [] := by
  rw [accessLanes]
  split
  · exact h
  · have hm : ¬(c.opMask site == 0#32) = true := by
      intro he
      refine h ?_
      rw [Issue.opLanes, beq_iff_eq.mp he]
      decide
    rw [if_neg hm]
    exact List.cons_ne_nil _ _

theorem loadBytes_pos (sz : Nat) : 0 < loadBytes sz := by
  unfold loadBytes
  split <;> decide

theorem piecesOf_ne_nil (n : Nat) : piecesOf n ≠ [] := by
  rw [piecesOf]
  split
  · exact List.cons_ne_nil _ _
  · next hn => exact fun he => by simp [show ¬(n / 4 = 0) by omega] at he

/-! ## The bytes that a load binds -/

/-- The latest byte among some stores, as the model looks for it. -/
theorem pendingByte_eq (q : List PendingStore) (group lane p : Nat) :
    pendingByte q group lane p = (q.filter (fun e => e.stage2 || e.ownOf group lane)).reverse.findSome? (fun e => e.byteAt p) := by
  induction q using List.reverseRecOn with
  | nil => rfl
  | append_singleton q e ih =>
    have hstep : pendingByte (q ++ [e]) group lane p =
        if e.stage2 || e.ownOf group lane then (e.byteAt p).or (pendingByte q group lane p) else pendingByte q group lane p := by
      rw [pendingByte, List.foldl_append]
      show (if e.stage2 || e.ownOf group lane then _ else _) = _
      split
      · cases e.byteAt p <;> rfl
      · rfl
    rw [hstep, List.filter_append, List.reverse_append, List.findSome?_append, ← ih, List.filter_singleton]
    cases e.stage2 || e.ownOf group lane <;> simp

theorem kicksPend_false {s : State} {core : Nat} {l : GLane} (h : ∀ p ∈ l.places, kickPageOf s p = none) : kicksPend s core l = false := by
  have : l.places.any (fun p => (kickPageOf s p).isSome) = false := List.any_eq_false.mpr (fun p hp => by rw [h p hp]; decide)
  rw [kicksPend, this, Bool.false_and]

/-- A load that no store has to precede binds at once. -/
theorem State.settleLoad_settled {s : State} {c : Issue} {scope : Option Scope} {ls : List GLane} (hn : NoStash s) (h : Settled s c scope ls) :
    s.settleLoad c scope ls = (s, true) := by
  obtain ⟨hwc, hl⟩ := h
  have hfold : ls.foldl (fun (r : State × Bool) l =>
      let thread := threadLane c l.lane
      let want := loadNeeds (threadKey c.who) thread (wideLoad c.snap scope thread) l.places
      let s := r.1.writeOutWhere (coreOf c.who) (fun e => e.ownOf (threadKey c.who) thread && l.places.any (fun p => lineOf p == e.line))
      let s := s.drainStores (coreOf c.who) want
      (s, r.2 && !(s.core (coreOf c.who)).caches.stores.any want && !kicksPend s (coreOf c.who) l)) (s, true) = (s, true) := by
    refine foldl_keeps _ _ ls (fun l hm => ?_)
    obtain ⟨hkick, hstore⟩ := hl l hm
    have hany : (s.core (coreOf c.who)).caches.stores.any
        (loadNeeds (threadKey c.who) (threadLane c l.lane) (wideLoad c.snap scope (threadLane c l.lane)) l.places) = false :=
      List.any_eq_false.mpr (fun e he => by rw [hstore e he]; decide)
    have hdrain : s.drainStores (coreOf c.who) (loadNeeds (threadKey c.who) (threadLane c l.lane) (wideLoad c.snap scope (threadLane c l.lane)) l.places) = s := by
      rw [State.drainStores]
      exact if_neg (by rw [hany]; exact Bool.false_ne_true)
    dsimp only
    rw [State.writeOutWhere_nil hwc, hdrain, hany, kicksPend_false hkick]
    rfl
  have hrecall : ls.foldl (fun s l => (l.places.map lineOf).dedup.foldl (fun s p => s.recall p false none) s) s = s :=
    foldl_keeps _ _ ls (fun l _ => foldl_keeps _ _ _ (fun p _ => State.recall_none hn.1 p false none))
  rw [State.settleLoad]
  dsimp only
  rw [hfold, hrecall]

/-! ## What is delivered -/

/-- The loaded bytes delivered: the results that the statement names are in flight, but for the tag. -/
theorem State.deliver_eq {c : Issue} {o : MOp} {vals : List (Nat × List Byte)} (hd : LoadDest o.d) (hv : vals ≠ []) (hg : isGlen c.who = false) (t : State)
    (site : Site) (lat : Nat) :
    t.deliver c site o.d o.sz.toNat vals lat none = if o.d = .zero then t else t.onGroup c.who (withResults (loadResult o c none vals (t.now + lat))) := by
  obtain ⟨v, vs, rfl⟩ := List.exists_cons_of_ne_nil hv
  obtain ⟨n, hn⟩ | ⟨n, hn⟩ | hn := hd
  · rw [hn, if_neg (by intro h; cases h), loadResult, hn]
    simp only [State.deliver, State.postWords, List.flatMap_map]
    rfl
  · rw [hn, if_neg (by intro h; cases h), loadResult, hn]
    simp only [State.deliver, State.postScalar, hg, Bool.false_eq_true, if_false]
    rfl
  · rw [hn]
    rfl

theorem loadResult_tagged (o : MOp) (c : Issue) (tag : Nat) (vals : List (Nat × List Byte)) (due : Nat) :
    loadResult o c (some tag) vals due = (loadResult o c none vals due).map (fun r => { r with tag := some tag }) := by
  rw [loadResult, loadResult]
  split <;> rfl

theorem loadResult_single {o : MOp} (h : LoadDest o.d) (hz : o.d ≠ .zero) (c : Issue) (tag : Option Nat) (vals : List (Nat × List Byte)) (due : Nat) :
    ∃ r, loadResult o c tag vals due = [r] := by
  obtain ⟨n, hn⟩ | ⟨n, hn⟩ | hn := h
  · rw [loadResult, hn]; exact ⟨_, rfl⟩
  · rw [loadResult, hn]; exact ⟨_, rfl⟩
  · exact absurd hn hz

theorem modify_last {α : Type} (l : List α) (x : α) (f : α → α) : (l ++ [x]).modify ((l ++ [x]).length - 1) f = l ++ [f x] := by
  induction l with
  | nil => rfl
  | cons y l ih => simpa [List.modify] using ih

/-- The bytes of a load of memory delivered, with its buffer's tag (R38). -/
theorem State.deliver_tagged {c : Issue} {o : MOp} {vals : List (Nat × List Byte)} (hd : LoadDest o.d) (hv : vals ≠ []) (hg : isGlen c.who = false)
    {s t : State} {cnt : Team → Team} (h : AccessKept c s t cnt) (lat tag : Nat) :
    let u := t.deliver c o.at' o.d o.sz.toNat vals lat none
    let v := if o.d == .zero then u else u.tagLast c tag
    AccessKept c s v cnt ∧ v.issue = t.issue ∧ v.cur c = withResults (loadResult o c (some tag) vals (t.now + lat)) (t.cur c) := by
  intro u v
  have hu : u = if o.d = .zero then t else t.onGroup c.who (withResults (loadResult o c none vals (t.now + lat))) := State.deliver_eq hd hv hg t o.at' lat
  by_cases hz : o.d = .zero
  · rw [if_pos hz] at hu
    have hv : v = t := by
      show (if o.d == .zero then u else u.tagLast c tag) = t
      rw [if_pos (beq_iff_eq.mpr hz), hu]
    have hr : loadResult o c (some tag) vals (t.now + lat) = [] := by rw [loadResult, hz]
    rw [hv, hr, withResults, List.append_nil]
    exact ⟨h, rfl, rfl⟩
  · rw [if_neg hz] at hu
    have hv : v = u.tagLast c tag := if_neg (fun e => hz (beq_iff_eq.mp e))
    obtain ⟨r, hr⟩ := loadResult_single hd hz c none vals (t.now + lat)
    rw [hv, hu, hr, loadResult_tagged, hr]
    refine ⟨(h.onGroup hg _).onGroup hg _, ?_, ?_⟩
    · rw [State.tagLast, State.onGroup_issue, State.onGroup_issue]
    · rw [State.cur, State.tagLast, State.groupOf_onGroup_same, State.groupOf_onGroup_same]
      exact congrArg (fun x => { t.cur c with inflight := x }) (modify_last (t.cur c).inflight r (fun r => { r with tag := some tag }))

/-! ## Loads of memory -/

/-- Where and when what a translated access reads is found is as before. -/
theorem Translated.loadLatency {c : Issue} {s t : State} (h : Translated c s t) (p : Nat) : loadLatency t (coreOf c.who) p = loadLatency s (coreOf c.who) p := by
  have hnow : t.now = s.now := by rw [h.kept.frame]
  have hl1 : (t.core (coreOf c.who)).caches.l1 = (s.core (coreOf c.who)).caches.l1 := by rw [h.caches]
  rw [Machine.loadLatency, Machine.loadLatency, hl1, hasReplica, hasReplica, inL2, inL2, sliceWait, sliceWait, h.store, h.slices, h.plat, hnow]

theorem Translated.isPoisoned {c : Issue} {s t : State} (h : Translated c s t) (p : Nat) : t.isPoisoned p = s.isPoisoned p := by
  have hl : lostLinks t = lostLinks s := by rw [lostLinks, lostLinks, h.plat]
  rw [State.isPoisoned, State.isPoisoned, h.store, cutOff, cutOff, noPathTo, noPathTo, hl]

theorem Translated.kickPageOf {c : Issue} {s t : State} (h : Translated c s t) (p : Nat) : Machine.kickPageOf t p = Machine.kickPageOf s p := by
  have hh : t.host = s.host := by rw [h.kept.frame]
  rw [Machine.kickPageOf, Machine.kickPageOf, hh]

theorem Translated.settled {c : Issue} {s t : State} (h : Translated c s t) {scope : Option Scope} {ls : List GLane} (hs : Settled s c scope ls) :
    Settled t c scope ls := by
  obtain ⟨hwc, hl⟩ := hs
  refine ⟨by rw [h.caches]; exact hwc, fun l hm => ⟨fun p hp => (h.kickPageOf p).trans ((hl l hm).1 p hp), ?_⟩⟩
  rw [h.caches]
  exact (hl l hm).2

/-- The bytes that a lane binds are those that its thread sees (R116, R117). -/
theorem Translated.boundBytes {c : Issue} {s t : State} (h : Translated c s t) {l : GLane} (hk : ∀ p ∈ l.places, Machine.kickPageOf s p = none) :
    Machine.boundBytes t c l = l.places.map (seenAt s c (threadLane c l.lane)) := by
  refine List.map_congr_left (fun p hp => ?_)
  rw [h.kickPageOf p, hk p hp]
  show t.seenByte (coreOf c.who) (threadKey c.who) (threadLane c l.lane) p = _
  rw [State.seenByte, pendingByte_eq, h.caches, h.store]
  rfl

/-- The lane that a poisoned value reaches, and the failing address (R285 class 4). -/
def badLanes (s : State) (ls : List GLane) : List (Nat × Nat) :=
  ls.flatMap (fun l => (l.vas.zip l.places).filterMap (fun p => if s.isPoisoned p.2 then some (p.1.toNat, l.lane) else none))

theorem Translated.badLanes {c : Issue} {s t : State} (h : Translated c s t) (ls : List GLane) : Machine.badLanes t ls = Machine.badLanes s ls := by
  rw [Machine.badLanes, Machine.badLanes, show t.isPoisoned = s.isPoisoned from funext h.isPoisoned]

theorem poisonedLane_none {s : State} {ls : List GLane} (h : badLanes s ls = []) : poisonedLane s ls = none := by
  rw [badLanes] at h
  rw [poisonedLane, h]

theorem poisonedLane_least {s : State} {ls : List GLane} (h : badLanes s ls ≠ []) :
    ∃ x ∈ badLanes s ls, (∀ y ∈ badLanes s ls, x.1 ≤ y.1) ∧ poisonedLane s ls = some x.2 := by
  obtain ⟨p, ps, hp⟩ := List.exists_cons_of_ne_nil h
  obtain ⟨hm, hl⟩ := foldl_least Prod.fst p ps
  rw [hp]
  refine ⟨_, hm, hl, ?_⟩
  rw [badLanes] at hp
  rw [poisonedLane, hp]

theorem State.countTag_zero (s : State) (c : Issue) (tag kind : Nat) : s.countTag c tag kind 0 = s :=
  if_pos (by rw [beq_self_eq_true, Bool.or_true])

/-- What a load does once its lanes are resolved. -/
def loadLanes (o : MOp) (c : Issue) (scope : Option Scope) (ls : List GLane) (s : State) : State :=
  let core := coreOf c.who
  let n := loadBytes o.sz.toNat
  let r := s.settleLoad c scope ls
  if !r.2 then s.waitFor .poll
  else
    let s := r.1
    let vals := ls.map (fun l => (l.lane, boundBytes s c l))
    let bad := poisonedLane s ls
    let lat := ls.foldl (fun m l => l.places.foldl (fun m p => Nat.max m (loadLatency s core p)) m) 30
    let s := ls.foldl (fun s l => s.touch core (gridKey s c) false l o.pol.toNat) s
    let s := s.countTag c o.tag.toNat 0 (if bad.isSome then 0 else n * ls.length)
    let s := s.deliver c o.at' o.d o.sz.toNat vals lat bad
    if bad.isSome || o.d == .zero then s else s.tagLast c o.tag.toNat

/-- A load whose class 1 and 2 checks pass reaches its lanes. -/
theorem State.loadMem_reach {s : State} {c : Issue} {o : MOp} {sp : Space} (h : LanesRun s c o.at' [])
    (hc : class12 s c sp false (loadBytes o.sz.toNat) (slotNumber o.at'.slot) true ((accessLanes c o.at' o.isLane).map (alignAddr c (s.cur c) sp o)) = none)
    (scope : Option Scope) :
    s.loadMem o sp scope = s.reach c o.at' o.tag.toNat .read ((accessLanes c o.at' o.isLane).map
      (fun l => (l, memPieces c (s.cur c) sp o (loadBytes o.sz.toNat) (piecesOf (loadBytes o.sz.toNat)) l))) (loadLanes o c scope) := by
  rw [State.loadMem, State.laneOp_plain h]
  dsimp only
  rw [hc]
  rfl

theorem State.loadMem_stop {s : State} {c : Issue} {o : MOp} {sp : Space} {x : Stop} (h : LanesRun s c o.at' [])
    (hc : class12 s c sp false (loadBytes o.sz.toNat) (slotNumber o.at'.slot) true ((accessLanes c o.at' o.isLane).map (alignAddr c (s.cur c) sp o)) = some x)
    (scope : Option Scope) : s.loadMem o sp scope = s.stopAt x := by
  rw [State.loadMem, State.laneOp_plain h]
  dsimp only
  rw [hc]

/-- Every lane of an access is among those resolved. -/
theorem length_reachLanes (s : State) (w : Who) (g : Group) (k : AccessKind) (ps : List (Nat × List (GAddr × Nat))) :
    (reachLanes s w g k ps).lanes.length = ps.length := by
  have hpiece (a : GAddr) (n : Nat) (r : Reach × GLane) : (reachPiece s w g k a n r).1.lanes = r.1.lanes := by
    rw [reachPiece]
    dsimp only
    split <;> rfl
  have hpieces (as : List (GAddr × Nat)) (r : Reach × GLane) : (as.foldl (fun q a => reachPiece s w g k a.1 a.2 q) r).1.lanes = r.1.lanes := by
    induction as generalizing r with
    | nil => rfl
    | cons a as ih => rw [List.foldl_cons, ih, hpiece]
  suffices hs : ∀ (ps : List (Nat × List (GAddr × Nat))) (r : Reach), (ps.foldl (fun r p =>
      let q := p.2.foldl (fun q a => reachPiece s w g k a.1 a.2 q) (r, { lane := p.1, vas := [], places := [], mt := 0, home := 0 })
      { q.1 with lanes := q.1.lanes ++ [q.2] }) r).lanes.length = r.lanes.length + ps.length from (hs ps {}).trans (Nat.zero_add _)
  intro ps
  induction ps with
  | nil => exact fun r => rfl
  | cons p ps ih =>
    intro r
    rw [List.foldl_cons, ih]
    simp only [List.length_append, hpieces, List.length_cons, List.length_nil]
    omega

theorem loadLanes_does {s t : State} {c : Issue} {o : MOp} {scope : Option Scope} {ls : List GLane} (hd : LoadDest o.d) (hg : isGlen c.who = false)
    (hne : ls ≠ []) (ht : Translated c s t) (hw : Watched c s t) (hn : NoStash s) (hs : Settled s c scope ls) :
    let lat := ls.foldl (fun m l => l.places.foldl (fun m p => max m (loadLatency s (coreOf c.who) p)) m) 30
    (badLanes s ls = [] → AccessOnly c s (loadLanes o c scope ls t) false false (fun x => x.count o.tag.toNat 0 (loadBytes o.sz.toNat * ls.length)) id ∧
      (loadLanes o c scope ls t).cur c = withResults (loadResult o c (some o.tag.toNat)
        (ls.map (fun l => (l.lane, l.places.map (seenAt s c (threadLane c l.lane))))) (s.now + lat)) (t.cur c)) ∧
    (badLanes s ls ≠ [] → ∃ x ∈ badLanes s ls, (∀ y ∈ badLanes s ls, x.1 ≤ y.1) ∧
      AccessOnly c s (loadLanes o c scope ls t) false false id
        (stoppingAfter { code := 0x0B, slot := slotNumber o.at'.slot, aux := BitVec.ofNat 64 (o.d.code.toNat + 256 * x.2) }) ∧
      (loadLanes o c scope ls t).cur c = t.cur c) := by
  intro lat
  have hlat : ls.foldl (fun m l => l.places.foldl (fun m p => Nat.max m (loadLatency t (coreOf c.who) p)) m) 30 = lat := by
    rw [show loadLatency t (coreOf c.who) = loadLatency s (coreOf c.who) from funext ht.loadLatency]
  have hvals : ls.map (fun l => (l.lane, boundBytes t c l)) = ls.map (fun l => (l.lane, l.places.map (seenAt s c (threadLane c l.lane)))) :=
    List.map_congr_left (fun l hl => by rw [ht.boundBytes (hs.2 l hl).1])
  let u := ls.foldl (fun s l => s.touch (coreOf c.who) (gridKey s c) false l o.pol.toNat) t
  have hu : Caching (coreOf c.who) t u := Caching.foldl (fun s l => State.touch_caching s _ _ _ l _) ls t
  have hku := ht.kept.caching hu
  have hnow : u.now = s.now := by rw [hku.frame]
  have hissue : u.issue = t.issue := by rw [hu.frame]
  have hcur : u.cur c = t.cur c := State.groupOf_of_groups (fun j => by
    by_cases hj : j = coreOf c.who
    · subst hj; rw [hu.mine]
    · rw [hu.others j hj]) (by rw [hu.frame]) c.who
  have hbound : loadLanes o c scope ls t =
      (let bad := poisonedLane t ls
       let v := (u.countTag c o.tag.toNat 0 (if bad.isSome then 0 else loadBytes o.sz.toNat * ls.length)).deliver c o.at' o.d o.sz.toNat
         (ls.map (fun l => (l.lane, l.places.map (seenAt s c (threadLane c l.lane))))) lat bad
       if bad.isSome || o.d == .zero then v else v.tagLast c o.tag.toNat) := by
    rw [loadLanes, State.settleLoad_settled (ht.stash hn) (ht.settled hs)]
    dsimp only
    rw [if_neg (by decide), hlat, hvals]
  obtain ⟨x, hx, hcode, hwpc⟩ := hw
  refine ⟨fun hb => ?_, fun hb => ?_⟩
  · have hnone := poisonedLane_none ((ht.badLanes ls).trans hb)
    rw [hnone] at hbound
    have hcount := hku.count hg o.tag.toNat 0 (n := loadBytes o.sz.toNat * ls.length)
      (Nat.mul_ne_zero (loadBytes_pos _).ne' (fun e => hne (List.length_eq_zero_iff.mp e)))
    have hcn : (u.countTag c o.tag.toNat 0 (loadBytes o.sz.toNat * ls.length)).now = s.now := by rw [hcount.frame]
    have hci : (u.countTag c o.tag.toNat 0 (loadBytes o.sz.toNat * ls.length)).issue = t.issue := by
      rw [State.countTag]
      split
      · exact hissue
      · exact hissue
    have hcc : (u.countTag c o.tag.toNat 0 (loadBytes o.sz.toNat * ls.length)).cur c = t.cur c := by
      rw [State.countTag]
      split
      · exact hcur
      · exact (State.groupOf_of_groups (State.core_onCore_of Core.groups u _ _ rfl) rfl c.who).trans hcur
    obtain ⟨hk, hi, hc⟩ := State.deliver_tagged (vals := ls.map (fun l => (l.lane, l.places.map (seenAt s c (threadLane c l.lane))))) hd
      (fun e => hne (List.map_eq_nil_iff.mp e)) hg hcount lat o.tag.toNat
    rw [hcn, hcc] at hc
    rw [hbound]
    exact ⟨hk.accessOnly ⟨x, (hi.trans hci).trans hx, hcode, hwpc⟩, hc⟩
  · rw [← ht.badLanes ls] at hb
    obtain ⟨y, hy, hleast, hsome⟩ := poisonedLane_least hb
    rw [ht.badLanes ls] at hy hleast
    rw [hsome] at hbound
    have hv : loadLanes o c scope ls t = u.poisonStop o.at' o.d y.2 := by
      rw [hbound]
      exact congrArg (State.poisonStop · o.at' o.d y.2) (State.countTag_zero u c o.tag.toNat 0)
    refine ⟨y, hy, hleast, ?_, ?_⟩
    · rw [hv]
      refine (hku.withIssue _).accessOnly ⟨x, ?_, hcode, hwpc⟩
      exact State.stopAfter_issue (hissue.trans hx) _
    · rw [hv]; exact hcur

/-! ## Loads of the scratchpad -/

/-- Whatever a stash window is touched at was among the bytes' places. -/
theorem stashTouched_mem {t : Team} {ps : List Nat} {n : Nat × Nat × DWord} (h : n ∈ stashTouched t ps) : ∃ b ∈ ps, stashOf t b = some n := by
  suffices hs : ∀ (qs acc : List (Nat × Nat × DWord)), n ∈ qs.foldl (fun ns q =>
      if ns.any (fun n => n.1 == q.1 && n.2.1 == q.2.1) then
        ns.map (fun n => if n.1 == q.1 && n.2.1 == q.2.1 && q.2.2.toNat < n.2.2.toNat then q else n)
      else ns ++ [q]) acc → n ∈ acc ∨ n ∈ qs by
    obtain h | h := hs _ _ h
    · cases h
    · exact List.mem_filterMap.mp h
  intro qs
  induction qs with
  | nil => exact fun acc h => .inl h
  | cons q qs ih =>
    intro acc h
    obtain h | h := ih _ h
    · dsimp only at h
      split at h
      · obtain ⟨m, hm, he⟩ := List.mem_map.mp h
        split at he
        · exact .inr (he ▸ .head _)
        · exact .inl (he ▸ hm)
      · obtain h | h := List.mem_append.mp h
        · exact .inl h
        · exact .inr (List.mem_singleton.mp h ▸ .head _)
    · exact .inr (.tail _ h)

/-- States that differ in nothing that can be read. -/
structure Alike (s t : State) : Prop where
  cores : ∀ j, t.core j = s.core j
  frame : t = { s with cores := t.cores }

theorem Alike.refl (s : State) : Alike s s := ⟨fun _ => rfl, rfl⟩

theorem State.fillTlb_nil_alike (s : State) (core : Nat) : Alike s (s.fillTlb core []) :=
  ⟨fun j => State.core_onCore_of id s core _ rfl j, rfl⟩

/-- An access to scratchpad bytes that are filled, and owned where it writes, goes ahead (R56). -/
theorem State.spadReach_ready {s : State} {c : Issue} {k : AccessKind} {ps : List Nat} (hp : tstPending (s.core (coreOf c.who)) c.who ps = false)
    (h : StashReady s c (k != .read) ps) (site : Site) (f : State → State) : ∃ t, s.spadReach c site k ps f = f t ∧ Alike s t := by
  let t0 := (s.core (coreOf c.who)).team (teamKey c.who c.snap)
  have hnotst : ¬tstPending (s.core (coreOf c.who)) c.who ps = true := by rw [hp]; exact Bool.false_ne_true
  cases he : (stashTouched t0 ps).isEmpty with
  | true =>
    refine ⟨s, ?_, Alike.refl s⟩
    rw [State.spadReach]
    dsimp only
    rw [if_neg hnotst]
    exact if_pos he
  | false =>
    have hready : (s.core (coreOf c.who)).caches.stores = [] ∧ (s.core (coreOf c.who)).caches.wc = [] ∧ ∀ b ∈ ps, ∀ q, stashOf t0 b = some q →
        ∃ x, stashLine t0 q.1 q.2.1 = some x ∧ ((k != .read) = true → x.owned = true) := by
      obtain h | h := h
      · have hnil : stashTouched t0 ps = [] := List.eq_nil_iff_forall_not_mem.mpr (fun n hn => by
          obtain ⟨b, hb, hs⟩ := stashTouched_mem hn
          rw [h b hb] at hs
          cases hs)
        rw [hnil] at he
        cases he
      · exact h
    obtain ⟨hst, hwc, hfill⟩ := hready
    have hneeds : (stashTouched t0 ps).filter (stashNeeds t0 k) = [] := by
      refine List.filter_eq_nil_iff.mpr (fun n hn => ?_)
      obtain ⟨b, hb, hs⟩ := stashTouched_mem hn
      obtain ⟨x, hx, ho⟩ := hfill b hb n hs
      rw [stashNeeds, hx]
      cases hk : k != .read with
      | false => simp
      | true => simp [ho hk]
    have hsettle (ls : List Nat) : s.settleLines (coreOf c.who) ls = (s, true) := by rw [State.settleLines, hst, hwc]; rfl
    refine ⟨s.fillTlb (coreOf c.who) [], ?_, State.fillTlb_nil_alike s _⟩
    rw [State.spadReach]
    dsimp only
    rw [if_neg hnotst, if_neg (by rw [he]; exact Bool.false_ne_true), hsettle]
    dsimp only
    rw [if_neg (by decide), hneeds]
    rfl

/-- A byte of such an access is in the scratchpad. -/
theorem spadTarget_ready {s t : State} {c : Issue} {write : Bool} {ps : List Nat} (h : StashReady s c write ps) {b : Nat} (hb : b ∈ ps) :
    spadTarget t c.who ((s.core (coreOf c.who)).team (teamKey c.who c.snap)) b =
      .here (((s.core (coreOf c.who)).team (teamKey c.who c.snap)).res.spbase + b) := by
  rw [spadTarget]
  cases hs : stashOf ((s.core (coreOf c.who)).team (teamKey c.who c.snap)) b with
  | none => rfl
  | some q =>
    obtain h | ⟨-, -, h⟩ := h
    · rw [h b hb] at hs; cases hs
    · obtain ⟨x, hx, -⟩ := h b hb q hs
      dsimp only
      rw [if_pos (by rw [hx]; rfl)]

theorem Alike.onlyRegisters {s t : State} (h : Alike s t) (w : Who) : OnlyRegisters w s t := by
  have hg := State.groupOf_of_groups (fun j => congrArg Core.groups (h.cores j)) (by rw [h.frame])
  refine ⟨.of_stores (by rw [h.frame]) (fun j => by rw [h.cores]) (by rw [h.frame]), fun v _ => hg v, fun j => by rw [h.cores], fun n => ?_, ?_⟩
  · rw [State.glen, State.glen, h.frame]
  · rw [show t.glens = s.glens by rw [h.frame]]
    exact h.frame

/-- What a load of the scratchpad does once its lines are there. -/
def loadBytesHere (o : MOp) (c : Issue) (bs : List (Nat × List Nat)) (addrs : List Nat) (s : State) : State :=
  let ts := bs.map (fun p => (p.1, spadTargets s c p.2))
  let vals := ts.map (fun p => (p.1, p.2.map (s.spadByte (coreOf c.who))))
  let bad := spadPoisoned s (coreOf c.who) addrs ts
  s.deliver c o.at' o.d o.sz.toNat vals (spadLatency s (coreOf c.who) 5 (bs.flatMap Prod.snd) (ts.flatMap Prod.snd)) bad

theorem State.loadSpad_reach {s : State} {c : Issue} {o : MOp} (h : LanesRun s c o.at' [])
    (hc : class12 s c .scratch false (loadBytes o.sz.toNat) (slotNumber o.at'.slot) true ((accessLanes c o.at' o.isLane).map (alignAddr c (s.cur c) .scratch o)) = none) :
    let bs := (accessLanes c o.at' o.isLane).map (fun l => (l, laneBytes s c o (loadBytes o.sz.toNat) (o.pol.toNat % 8) l))
    s.loadSpad o = s.spadReach c o.at' .read (bs.flatMap Prod.snd) (loadBytesHere o c bs ((accessLanes c o.at' o.isLane).map (alignAddr c (s.cur c) .scratch o))) := by
  intro bs
  rw [State.loadSpad, State.laneOp_plain h]
  dsimp only
  rw [hc]
  rfl

theorem State.loadSpad_stop {s : State} {c : Issue} {o : MOp} {x : Stop} (h : LanesRun s c o.at' [])
    (hc : class12 s c .scratch false (loadBytes o.sz.toNat) (slotNumber o.at'.slot) true ((accessLanes c o.at' o.isLane).map (alignAddr c (s.cur c) .scratch o)) = some x) :
    s.loadSpad o = s.stopAt x := by
  rw [State.loadSpad, State.laneOp_plain h]
  dsimp only
  rw [hc]

/-- The lane of the lowest poisoned offset. -/
theorem spadPoisoned_map {s : State} {core : Nat} {lanes : List Nat} {addr : Nat → Nat} {ts : Nat → List SpadByte} :
    (lanes.filter (fun l => (ts l).any (s.spadBad core)) = [] → spadPoisoned s core (lanes.map addr) (lanes.map (fun l => (l, ts l))) = none) ∧
    (lanes.filter (fun l => (ts l).any (s.spadBad core)) ≠ [] → ∃ x ∈ lanes.filter (fun l => (ts l).any (s.spadBad core)),
      (∀ y ∈ lanes.filter (fun l => (ts l).any (s.spadBad core)), addr x ≤ addr y) ∧
      spadPoisoned s core (lanes.map addr) (lanes.map (fun l => (l, ts l))) = some x) := by
  have hz : ((lanes.map addr).zip (lanes.map (fun l => (l, ts l)))).filter (fun p => p.2.2.any (s.spadBad core)) =
      (lanes.filter (fun l => (ts l).any (s.spadBad core))).map (fun l => (addr l, l, ts l)) := by
    rw [List.zip_map', List.filter_map]
    rfl
  rw [spadPoisoned, hz]
  cases hf : lanes.filter (fun l => (ts l).any (s.spadBad core)) with
  | nil => exact ⟨fun _ => rfl, fun h => absurd rfl h⟩
  | cons p ps =>
    refine ⟨fun h => absurd h (List.cons_ne_nil _ _), fun _ => ?_⟩
    obtain ⟨hm, hl⟩ := foldl_least addr p ps
    refine ⟨_, hm, hl, ?_⟩
    have hfold : ∀ (ps : List Nat) (p : Nat), (ps.map (fun l => (addr l, l, ts l))).foldl (fun b q => if q.1 < b.1 then q else b) (addr p, p, ts p) =
        (addr (ps.foldl (fun b q => if addr q < addr b then q else b) p), ps.foldl (fun b q => if addr q < addr b then q else b) p,
          ts (ps.foldl (fun b q => if addr q < addr b then q else b) p)) := by
      intro ps
      induction ps with
      | nil => exact fun p => rfl
      | cons q ps ih =>
        intro p
        rw [List.map_cons, List.foldl_cons, List.foldl_cons, ← ih]
        by_cases hq : addr q < addr p <;> simp [hq]
    rw [List.map_cons]
    dsimp only
    rw [hfold]

theorem spadLatency_here {s : State} {core base : Nat} {ps : List Nat} {ts : List SpadByte} (h : ∀ b ∈ ts, ∃ a, b = .here a) :
    spadLatency s core base ps ts = base + rounds (ps.map (· / 4)) := by
  rw [spadLatency]
  refine foldl_keeps _ _ ts (fun b hb => ?_)
  obtain ⟨a, rfl⟩ := h b hb
  rfl

/-- A load of scratchpad bytes that are there (R42 to R44, R73). -/
theorem loadBytesHere_does {s t : State} {c : Issue} {o : MOp} {lanes : List Nat} {bytes : Nat → List Nat} {addr : Nat → Nat} (hd : LoadDest o.d)
    (hg : isGlen c.who = false) (hne : lanes ≠ []) (ht : Alike s t) (hr : s.issue = some c)
    (h : StashReady s c false (lanes.flatMap bytes)) :
    let k := s.core (coreOf c.who)
    let t0 := k.team (teamKey c.who c.snap)
    let bad := lanes.filter (fun l => (bytes l).any (fun b => Sparse.look false ((t0.res.spbase + b) / 4) k.store.spadPoison))
    let u := loadBytesHere o c (lanes.map (fun l => (l, bytes l))) (lanes.map addr) t
    (bad = [] → RegistersBecome s u c (withResults (loadResult o c none (lanes.map (fun l => (l, (bytes l).map (fun b => k.store.spad.byte (t0.res.spbase + b)))))
      (s.now + 5 + rounds (lanes.flatMap (fun l => (bytes l).map (· / 4))) + 0)))) ∧
    (bad ≠ [] → ∃ x ∈ bad, (∀ y ∈ bad, addr x ≤ addr y) ∧ OnlyRegisters c.who s t ∧ OnlyIssue t u ∧
      u.issue = some (stoppingAfter { code := 0x0B, slot := slotNumber o.at'.slot, aux := BitVec.ofNat 64 (o.d.code.toNat + 256 * x) } c)) := by
  intro k t0 bad u
  let here (l : Nat) : List SpadByte := (bytes l).map (fun b => .here (t0.res.spbase + b))
  have hts : (lanes.map (fun l => (l, bytes l))).map (fun p => (p.1, spadTargets t c p.2)) = lanes.map (fun l => (l, here l)) := by
    rw [List.map_map]
    refine List.map_congr_left (fun l hl => ?_)
    have hteam : (t.core (coreOf c.who)).team (teamKey c.who c.snap) = t0 := by rw [ht.cores]
    have : spadTargets t c (bytes l) = here l := by
      rw [spadTargets, hteam]
      exact List.map_congr_left (fun b hb => spadTarget_ready h (List.mem_flatMap.mpr ⟨l, hl, hb⟩))
    exact congrArg (Prod.mk l) this
  have hvals : (lanes.map (fun l => (l, here l))).map (fun p => (p.1, p.2.map (t.spadByte (coreOf c.who)))) =
      lanes.map (fun l => (l, (bytes l).map (fun b => k.store.spad.byte (t0.res.spbase + b)))) := by
    rw [List.map_map]
    refine List.map_congr_left (fun l _ => ?_)
    refine congrArg (Prod.mk l) ?_
    rw [List.map_map]
    refine List.map_congr_left (fun b _ => ?_)
    show (t.core (coreOf c.who)).store.spad.byte (t0.res.spbase + b) = _
    rw [ht.cores]
  have hbad : lanes.filter (fun l => (here l).any (t.spadBad (coreOf c.who))) = bad := by
    refine List.filter_congr (fun l _ => ?_)
    rw [List.any_map]
    refine congrArg (List.any (bytes l)) (funext (fun b => ?_))
    show Sparse.look false ((t0.res.spbase + b) / 4) (t.core (coreOf c.who)).store.spadPoison = _
    rw [ht.cores]
  have hlat : spadLatency t (coreOf c.who) 5 ((lanes.map (fun l => (l, bytes l))).flatMap Prod.snd) ((lanes.map (fun l => (l, here l))).flatMap Prod.snd) =
      5 + rounds (lanes.flatMap (fun l => (bytes l).map (· / 4))) := by
    rw [spadLatency_here, List.flatMap_map, List.map_flatMap]
    intro b hb
    obtain ⟨p, hp, hb⟩ := List.mem_flatMap.mp hb
    obtain ⟨l, -, rfl⟩ := List.mem_map.mp hp
    obtain ⟨a, -, rfl⟩ := List.mem_map.mp hb
    exact ⟨_, rfl⟩
  obtain ⟨hnone, hsome⟩ := spadPoisoned_map (s := t) (core := coreOf c.who) (lanes := lanes) (addr := addr) (ts := here)
  rw [hbad] at hnone hsome
  have hu : u = t.deliver c o.at' o.d o.sz.toNat (lanes.map (fun l => (l, (bytes l).map (fun b => k.store.spad.byte (t0.res.spbase + b)))))
      (5 + rounds (lanes.flatMap (fun l => (bytes l).map (· / 4)))) (spadPoisoned t (coreOf c.who) (lanes.map addr) (lanes.map (fun l => (l, here l)))) := by
    show loadBytesHere o c _ _ t = _
    rw [loadBytesHere, hts, hvals, hlat]
  have hregs : RegistersBecome s t c id := ⟨ht.onlyRegisters c.who, State.groupOf_of_groups (fun j => congrArg Core.groups (ht.cores j)) (by rw [ht.frame]) c.who⟩
  refine ⟨fun hb => ?_, fun hb => ?_⟩
  · rw [hnone hb, State.deliver_eq hd (fun e => hne (List.map_eq_nil_iff.mp e)) hg, show t.now = s.now by rw [ht.frame]] at hu
    rw [Nat.add_zero, Nat.add_assoc, hu]
    split
    · next hz =>
      rw [loadResult, hz]
      refine ⟨hregs.1, hregs.2.trans ?_⟩
      rw [withResults, List.append_nil]
      rfl
    · exact hregs.comp (RegistersBecome.onGroup c t _)
  · obtain ⟨x, hx, hl, hp⟩ := hsome hb
    rw [hp] at hu
    refine ⟨x, hx, hl, hregs.1, ?_, ?_⟩
    · rw [hu]; exact OnlyIssue.onIssue t _
    · rw [hu]
      exact State.stopAfter_issue (c := c) (by rw [ht.frame]; exact hr) _

/-- Results put on their way leave the translation registers as they are. -/
theorem refilled_withResults (s : State) (c : Issue) (sp : Space) (b : Base) (r : List InFlight) (g : Group) :
    withResults r (refilled s c sp b g) = refilled s c sp b (withResults r g) := by
  by_cases hx : sp = .global ∧ ∃ m, b = .x m
  · obtain ⟨rfl, m, rfl⟩ := hx
    rw [refilled, refilled]
    split <;> rfl
  · rw [refilled, refilled]
    · exact fun m hs hb => hx ⟨hs, m, hb⟩
    · exact fun m hs hb => hx ⟨hs, m, hb⟩

theorem readsScratchpad {s : State} {c : Issue} {o : MOp} {i : Instr} (h : LanesRun s c o.at' []) (hd : LoadDest o.d) (hg : isGlen c.who = false)
    (he : exec i s = .next (s.loadSpad o))
    (hc : class12 s c .scratch false (loadBytes o.sz.toNat) (slotNumber o.at'.slot) true ((accessLanes c o.at' o.isLane).map (alignAddr c (s.cur c) .scratch o)) = none) :
    ReadsScratchpad i o s c (loadBytes o.sz.toNat) 0 (loadResult o c none) := by
  have hreach := he.trans (congrArg Host.Outcome.next (State.loadSpad_reach h hc))
  rw [List.flatMap_map] at hreach
  refine ⟨fun hp => EndsWith.of_waitFor h.1 (hreach.trans ?_), fun hp hs => ?_⟩
  · rw [State.spadReach]
    exact congrArg Host.Outcome.next (if_pos hp)
  · obtain ⟨t, hr, ht⟩ := State.spadReach_ready (k := .read) hp hs o.at' (loadBytesHere o c ((accessLanes c o.at' o.isLane).map
      (fun l => (l, laneBytes s c o (loadBytes o.sz.toNat) (o.pol.toNat % 8) l))) ((accessLanes c o.at' o.isLane).map (alignAddr c (s.cur c) .scratch o)))
    obtain ⟨hok, hbad⟩ := loadBytesHere_does (addr := alignAddr c (s.cur c) .scratch o) hd hg (accessLanes_ne_nil h.2.1 o.isLane) ht h.1.1 hs
    have he := hreach.trans (congrArg Host.Outcome.next hr)
    refine ⟨fun hb => ⟨_, he, hok hb⟩, fun hb => ?_⟩
    obtain ⟨x, hx, hl, hreg, hi, hissue⟩ := hbad hb
    exact ⟨x, hx, hl, _, t, he, ⟨hreg, State.groupOf_of_groups (fun j => congrArg Core.groups (ht.cores j)) (by rw [ht.frame]) c.who⟩, hi, hissue⟩

theorem readsMemory {s : State} {c : Issue} {o : MOp} {sp : Space} {scope : Option Scope} {i : Instr} (h : LanesRun s c o.at' []) (hd : LoadDest o.d)
    (hg : isGlen c.who = false) (he : exec i s = .next (s.loadMem o sp scope))
    (hc : class12 s c sp false (loadBytes o.sz.toNat) (slotNumber o.at'.slot) true ((accessLanes c o.at' o.isLane).map (alignAddr c (s.cur c) sp o)) = none) :
    ReadsMemory i o sp scope s c (loadBytes o.sz.toNat) (piecesOf (loadBytes o.sz.toNat)) 0 (loadResult o c (some o.tag.toNat)) := by
  have hreach := he.trans (congrArg Host.Outcome.next (State.loadMem_reach h hc scope))
  refine ⟨HeldBack.of_reach h.1 hreach, fun hr hn hs => ?_⟩
  rw [State.reach_reached hr] at hreach
  obtain ⟨ht, hw, hcur⟩ := State.atLanes_translated h.1.1 hg o.at' .read ((accessLanes c o.at' o.isLane).map
    (fun l => (l, memPieces c (s.cur c) sp o (loadBytes o.sz.toNat) (piecesOf (loadBytes o.sz.toNat)) l)))
  have hlanes := accessLanes_ne_nil h.2.1 o.isLane
  rw [State.cur_refillX hlanes (piecesOf_ne_nil _)] at hcur
  have hne : (reachLanes s c.who c.snap .read ((accessLanes c o.at' o.isLane).map
      (fun l => (l, memPieces c (s.cur c) sp o (loadBytes o.sz.toNat) (piecesOf (loadBytes o.sz.toNat)) l)))).lanes ≠ [] := by
    intro e
    have := congrArg List.length e
    rw [length_reachLanes, List.length_map] at this
    exact hlanes (List.length_eq_zero_iff.mp this)
  obtain ⟨hok, hbad⟩ := loadLanes_does hd hg hne ht hw hn hs
  refine ⟨fun hb => ?_, fun hb => ?_⟩
  · obtain ⟨ha, hc⟩ := hok hb
    refine ⟨_, hreach, ha, hc.trans ?_⟩
    rw [hcur, Nat.add_zero]
    exact refilled_withResults s c sp o.base _ _
  · obtain ⟨x, hx, hl, ha, hc⟩ := hbad hb
    exact ⟨x, hx, hl, _, hreach, ha, hc.trans hcur⟩

end Sys2Proof.Machine

namespace Sys2Proof
open Machine

/-- Settles O18: a load's checks, the bytes that it binds, and what it delivers. -/
theorem loads : Obligations.Loads := by
  unfold Obligations.Loads
  refine ⟨fun o s c h hd hg p hp => ?memory, fun o s c h hd hg i hi => ?scratchpad⟩
  case memory =>
    intro n lanes addr bad out
    have hexec : exec p.1 s = .next (s.loadMem o p.2.1 p.2.2) ∧ (p.2.1 = .global ∨ p.2.1 = .local') := by
      simp only [List.mem_cons, List.not_mem_nil, or_false] at hp
      obtain rfl | rfl | rfl | rfl := hp
      · exact ⟨rfl, .inl rfl⟩
      · exact ⟨rfl, .inl rfl⟩
      · exact ⟨rfl, .inr rfl⟩
      · exact ⟨rfl, .inr rfl⟩
    obtain ⟨he, hsp⟩ := hexec
    refine ⟨fun hb => EndsWith.of_stopAt h.1 (he.trans ?_), fun hb hl ho => EndsWith.of_stopAt h.1 (he.trans ?_), fun hb ho => readsMemory h hd hg he ?_⟩
    · rw [State.loadMem_stop h (class12_misaligned hb s c _ _ _)]
      rfl
    · rw [State.loadMem_stop h ((class12_aligned hb s c _ _ _).trans (by rw [hl, class12_local, if_neg ho]))]
      rfl
    · rw [class12_aligned hb s c]
      obtain hsp | hsp := hsp
      · rw [hsp]; rfl
      · rw [hsp, class12_local, if_pos (ho hsp)]
  case scratchpad =>
    intro n lanes addr t0 bad out
    have he : exec i s = .next (s.loadSpad o) := by
      simp only [List.mem_cons, List.not_mem_nil, or_false] at hi
      obtain rfl | rfl := hi <;> rfl
    refine ⟨fun hb => EndsWith.of_stopAt h.1 (he.trans ?_), fun hb ho => EndsWith.of_stopAt h.1 (he.trans ?_), fun hb ho => readsScratchpad h hd hg he ?_⟩
    · rw [State.loadSpad_stop h (class12_misaligned hb s c _ _ _)]
      rfl
    · rw [State.loadSpad_stop h ((class12_aligned hb s c _ _ _).trans ((class12_scratch s c _ _ _ _ _).trans (if_neg ho)))]
      rfl
    · exact (class12_aligned hb s c _ _ _).trans ((class12_scratch s c _ _ _ _ _).trans (if_pos ho))

end Sys2Proof
end

section
/-! What an engine writes and reads where no stash window holds a line and no link is lost (R58, R64, R73, R131), and where its machine's
commands come from. -/

namespace Sys2Proof.Machine
open Sys2Proof

/-! ## The commands listed -/

/-- Every command that the machine lists is one that it listed before, of the same core. -/
def CmdsFrom (s t : State) : Prop := ∀ p ∈ t.cores, ∀ y ∈ p.2.cmds, ∃ c, (p.1, c) ∈ s.cores ∧ y ∈ c.cmds

theorem CmdsFrom.refl (s : State) : CmdsFrom s s := fun p hp _ hy => ⟨p.2, hp, hy⟩

theorem CmdsFrom.trans {s t u : State} (h : CmdsFrom s t) (h' : CmdsFrom t u) : CmdsFrom s u := by
  intro p hp y hy
  obtain ⟨c, hc, hy⟩ := h' p hp y hy
  exact h _ hc y hy

theorem CmdsFrom.of_cores {s t : State} (h : t.cores = s.cores) : CmdsFrom s t := fun p hp _ hy => ⟨p.2, h ▸ hp, hy⟩

/-- The commands of a core are listed. -/
theorem State.mem_cmds {s : State} {k : Nat} {y : Cmd} (hy : y ∈ (s.core k).cmds) : (k, s.core k) ∈ s.cores :=
  (State.core_mem s k).resolve_left (fun hz => by rw [hz] at hy; cases hy)

theorem CmdsFrom.onCore (s : State) (k : Nat) (f : Core → Core) (hf : ∀ y ∈ (f (s.core k)).cmds, y ∈ (s.core k).cmds) : CmdsFrom s (s.onCore k f) := by
  intro p hp y hy
  obtain rfl | hp := State.mem_cores_onCore hp
  · exact ⟨_, State.mem_cmds (hf y hy), hf y hy⟩
  · exact ⟨p.2, hp, hy⟩

theorem CmdsFrom.foldl {α : Type} {f : State → α → State} (h : ∀ s x, CmdsFrom s (f s x)) (xs : List α) (s : State) : CmdsFrom s (xs.foldl f s) := by
  induction xs generalizing s with
  | nil => exact CmdsFrom.refl s
  | cons x xs ih => exact (h s x).trans (ih _)

theorem State.dropL1_cmds (s : State) (core line : Nat) : CmdsFrom s (s.dropL1 core line) := by
  have hdrop (s : State) (p : Nat × Core) : CmdsFrom s (dropAt core line s p) := by
    rw [dropAt]
    split
    · exact CmdsFrom.refl s
    · exact CmdsFrom.onCore s p.1 _ (fun _ hy => hy)
  rw [State.dropL1_eq]
  exact (CmdsFrom.of_cores rfl).trans (CmdsFrom.foldl hdrop _ _)

theorem State.useSlice_cores (s : State) (p : Nat) : (s.useSlice p).cores = s.cores := by
  rw [State.useSlice]
  split <;> rfl

theorem State.coherentWrite_cmds {s : State} (h : NoStash s) (core : Nat) (bs : List (Nat × Byte)) (e : Option (Nat × Nat × Nat × Nat)) :
    CmdsFrom s (s.coherentWrite core bs false e) := by
  have hlines (ls : List Nat) : ∀ s : State, StashEmpty s → CmdsFrom s (ls.foldl (fun s l => ((s.recall l true e).dropL1 core l).useSlice l) s) := by
    induction ls with
    | nil => exact fun s _ => CmdsFrom.refl s
    | cons l ls ih =>
      intro s h
      have h1 := (State.dropL1_gaveUp s core l).trans (State.useSlice_gaveUp (s.dropL1 core l) core l)
      rw [List.foldl_cons, State.recall_none h]
      exact ((State.dropL1_cmds s core l).trans (CmdsFrom.of_cores (State.useSlice_cores _ l))).trans (ih _ (h1.stash h))
  exact (hlines _ s h.1).trans (CmdsFrom.of_cores rfl)

theorem State.dropHolds_cmds (s : State) (keys : List Nat) : CmdsFrom s (s.dropHolds keys) := by
  refine CmdsFrom.foldl (fun s p => CmdsFrom.foldl (fun s r => ?_) _ s) _ s
  split
  · exact CmdsFrom.onCore s p.1 _ (fun _ hy => hy)
  · exact CmdsFrom.refl s

theorem State.dropCmd_cmds {s : State} (hc : s.store.cut = []) (core : Nat) (d : Cmd) : CmdsFrom s (s.dropCmd core d) := by
  rw [State.dropCmd_eq hc]
  have hout : CmdsFrom s ((s.onCore core (fun c => { c with cmds := c.cmds.filter (fun x => x.id != d.id) })).disown core d.id) :=
    CmdsFrom.onCore s core (fun c => { c with cmds := c.cmds.filter (fun x => x.id != d.id) }) (fun _ hy => (List.mem_filter.mp hy).1)
  exact hout.trans (State.dropHolds_cmds _ _)

theorem State.onFlag_cmds (s : State) (core n : Nat) (f : Flag → Flag) : CmdsFrom s (s.onFlag core n f) := CmdsFrom.onCore s core _ (fun _ hy => hy)

theorem State.finishCmd_cmds {s : State} (hc : s.store.cut = []) (core : Nat) (d : Cmd) (err : Bool)
    (hf : (flagField d.op).isSome = true ∨ (d.err || err) = false) : CmdsFrom s (s.finishCmd core d err) := by
  cases hn : flagField d.op with
  | none =>
    have he : (d.err || err) = false := hf.resolve_left (by simp [hn])
    have hfin : s.finishCmd core d err = s.dropCmd core d := by
      rw [State.finishCmd, State.endCmd]
      simp only [hn, he, Bool.false_and, Bool.false_eq_true, if_false]
    rw [hfin]
    exact State.dropCmd_cmds hc core d
  | some n =>
    obtain ⟨f, hs, -⟩ := State.signal_eq (s.dropCmd core d) core (((s.core core).team d.team).res.fbase + n) d.groupKey (d.err || err) (cmdAid core d.op)
    have hfin : s.finishCmd core d err = (s.dropCmd core d).onFlag core (((s.core core).team d.team).res.fbase + n) f := by
      rw [State.finishCmd, State.endCmd, ← hs]
      simp only [hn]
    rw [hfin]
    exact (State.dropCmd_cmds hc core d).trans (State.onFlag_cmds _ _ _ _)

/-! ## Bytes that an engine writes -/

/-- Among bytes to be written by an engine, those to its core's scratchpad, and those to memory. -/
def spadPart (bs : List (SpadByte × Byte × Bool)) : List (Nat × Byte) := herePart (bs.map (fun b => (b.1, b.2.1)))
def memPart (bs : List (SpadByte × Byte × Bool)) : List (Nat × Byte) := therePart (bs.map (fun b => (b.1, b.2.1)))

/-- The last byte of some written to a place. -/
def lastTo (bs : List (Nat × Byte)) (p : Nat) : Option Byte := (bs.reverse.find? (fun b => b.1 == p)).map Prod.snd

theorem State.engineWrite_eq {bs : List (SpadByte × Byte × Bool)} (h : ∀ b ∈ bs, b.2.2 = false) (s : State) (core : Nat) :
    s.engineWrite core bs = if (memPart bs).isEmpty then s.onTiles core (fun k => k.putSpad (spadPart bs))
      else (s.onTiles core (fun k => k.putSpad (spadPart bs))).coherentWrite noCore (memPart bs) false none := by
  let here := bs.filter (fun b => match b.1 with | .here _ => true | .there _ => false)
  have hhere : herePart (here.map (fun b => (b.1, b.2.1))) = spadPart bs := by
    show herePart ((bs.filter _).map _) = herePart (bs.map _)
    clear h here
    induction bs with
    | nil => rfl
    | cons b bs ih =>
      obtain ⟨x, y, z⟩ := b
      cases x with
      | here a => exact congrArg ((a, y) :: ·) ih
      | there p => exact ih
  have hthere : therePart (here.map (fun b => (b.1, b.2.1))) = [] := by
    show therePart ((bs.filter _).map _) = []
    clear h here hhere
    induction bs with
    | nil => rfl
    | cons b bs ih =>
      obtain ⟨x, y, z⟩ := b
      cases x with
      | here a => exact ih
      | there p => exact ih
  have hbad : here.filterMap (fun b => match b.1 with | .here a => if b.2.2 then some (a / 4) else none | .there _ => none) = [] := by
    refine List.filterMap_eq_nil_iff.mpr (fun b hb => ?_)
    rw [h b (List.mem_filter.mp hb).1]
    cases b.1 <;> rfl
  have hpart (p : Bool) : bs.filterMap (fun b => match b.1 with | .here _ => none | .there q => if b.2.2 == p then some (q, b.2.1) else none) =
      if p then [] else memPart bs := by
    clear here hhere hthere hbad
    induction bs with
    | nil => cases p <;> rfl
    | cons b bs ih =>
      have hb := h b (.head _)
      have ih := ih (fun b hb => h b (.tail _ hb))
      obtain ⟨x, y, z⟩ := b
      obtain rfl : z = false := hb
      cases x with
      | here a => exact ih.trans (by cases p <;> rfl)
      | there q =>
        cases p with
        | false => exact congrArg ((q, y) :: ·) ih
        | true => exact ih
  have hspad : s.spadWrite core (here.map (fun b => (b.1, b.2.1))) = s.onTiles core (fun k => k.putSpad (spadPart bs)) := by
    rw [State.spadWrite_eq, hhere, hthere]
    rfl
  have he : s.engineWrite core bs =
      (let u := s.spadWrite core (here.map (fun b => (b.1, b.2.1)))
       let v := if (here.filterMap (fun b => match b.1 with | .here a => if b.2.2 then some (a / 4) else none | .there _ => none)).isEmpty then u
         else u.onCore core (fun c => { c with store := { c.store with
           spadPoison := (here.filterMap (fun b => match b.1 with | .here a => if b.2.2 then some (a / 4) else none | .there _ => none)).foldl
             (fun m w => Sparse.put false w true m) c.store.spadPoison } })
       let there (p : Bool) : List (Nat × Byte) :=
         bs.filterMap (fun b => match b.1 with | .here _ => none | .there q => if b.2.2 == p then some (q, b.2.1) else none)
       let w := if (there false).isEmpty then v else v.coherentWrite noCore (there false) false none
       if (there true).isEmpty then w else w.coherentWrite noCore (there true) true none) := rfl
  rw [he]
  simp only [hbad, hpart, hspad]
  rfl

/-- What an engine's write leaves: the bytes at their places, no other byte changed, copies of the lines written given up. -/
structure EngineWrote (core : Nat) (s t : State) (bs : List (SpadByte × Byte × Bool)) : Prop where
  frame : t = { s with cores := t.cores, store := t.store, plat := t.plat }
  store : { t.store with mem := [], poison := [], replicas := [] } = { s.store with mem := [], poison := [], replicas := [] }
  mem : ∀ p, t.store.mem.byte p = (lastTo (memPart bs) p).getD (s.store.mem.byte p)
  cores : ∀ k, { t.core k with caches := {}, store := {} } = { s.core k with caches := {}, store := {} }
  caches : ∀ k, { (t.core k).caches with l1 := [], l1own := [] } = { (s.core k).caches with l1 := [], l1own := [] }
  others : ∀ k ≠ core, (t.core k).store = (s.core k).store
  spad : ∀ a, (t.core core).store.spad.byte a = (lastTo (spadPart bs) a).getD ((s.core core).store.spad.byte a)
  tiles : { (t.core core).store with spad := [], spadPoison := [] } = { (s.core core).store with spad := [], spadPoison := [] }
  plat : { t.plat with islands := [] } = { s.plat with islands := [] }
  stash : NoStash t
  cmds : CmdsFrom s t

theorem State.onTiles_putSpad_wrote {s : State} (h : NoStash s) (core : Nat) (bs : List (Nat × Byte)) :
    let t := s.onTiles core (fun k => k.putSpad bs)
    (∀ k, { t.core k with store := {} } = { s.core k with store := {} }) ∧ (∀ k ≠ core, t.core k = s.core k) ∧
      (∀ a, (t.core core).store.spad.byte a = (lastTo bs a).getD ((s.core core).store.spad.byte a)) ∧
      { (t.core core).store with spad := [], spadPoison := [] } = { (s.core core).store with spad := [], spadPoison := [] } ∧ NoStash t ∧ CmdsFrom s t := by
  intro t
  have hsame : (t.core core).store = (s.core core).store.putSpad bs := congrArg Core.store (State.core_onCore_same s core _)
  refine ⟨State.onTiles_part (fun c => { c with store := {} }) (fun _ _ => rfl) s core _, fun k hk => State.core_onCore_other s hk _, fun a => ?_, by rw [hsame]; rfl,
    NoStash.onCore h core _ rfl, CmdsFrom.onCore s core _ (fun _ hy => hy)⟩
  rw [hsame]
  exact Memory.byte_puts a bs _

theorem State.engineWrite_wrote {s : State} (h : NoStash s) (core : Nat) {bs : List (SpadByte × Byte × Bool)} (hb : ∀ b ∈ bs, b.2.2 = false) :
    EngineWrote core s (s.engineWrite core bs) bs := by
  obtain ⟨hc, ho, hsp, hti, hns, hcm⟩ := State.onTiles_putSpad_wrote h core (spadPart bs)
  rw [State.engineWrite_eq hb]
  split
  · next he =>
    refine ⟨rfl, rfl, fun p => ?_, fun k => congrArg (fun c : Core => { c with caches := {} }) (hc k),
      fun k => congrArg (fun c : Core => { c.caches with l1 := [], l1own := [] }) (hc k), fun k hk => by rw [ho k hk], hsp, hti, rfl, hns, hcm⟩
    rw [List.isEmpty_iff.mp he]
    rfl
  · obtain ⟨hw, hns'⟩ := State.coherentWrite_wrote hns (memPart bs) none
    obtain ⟨hf, hm, -, hst, hco, hca, -, hpl, -⟩ := hw
    have hstore (k : Nat) := congrArg Core.store (hco k)
    refine ⟨hf, ?_, hm, fun k => ?_, fun k => (hca k).trans ?_, fun k hk => ?_, fun a => ?_, ?_, hpl, hns', hcm.trans (State.coherentWrite_cmds hns noCore _ none)⟩
    · rw [hst]; rfl
    · exact (congrArg (fun c : Core => { c with store := {} }) (hco k)).trans (congrArg (fun c : Core => { c with caches := {} }) (hc k))
    · exact congrArg (fun c : Core => { c.caches with l1 := [], l1own := [] }) (hc k)
    · exact (hstore k).trans (by rw [ho k hk])
    · rw [hstore core]; exact hsp a
    · rw [hstore core]; exact hti

/-- What an engine writes to memory alone leaves every core's storage. -/
theorem State.engineWrite_stores {s : State} (h : NoStash s) (core : Nat) {bs : List (SpadByte × Byte × Bool)} (hb : ∀ b ∈ bs, b.2.2 = false)
    (hsp : spadPart bs = []) (k : Nat) : ((s.engineWrite core bs).core k).store = (s.core k).store := by
  have hidle : ((s.onTiles core (fun k => k.putSpad [])).core k).store = (s.core k).store := State.core_onCore_of Core.store s core _ rfl k
  rw [State.engineWrite_eq hb, hsp]
  split
  · exact hidle
  · have hns := NoStash.onCore h core (fun c => { c with store := c.store.putSpad [] }) rfl
    obtain ⟨⟨-, -, -, -, hco, -⟩, -⟩ := State.coherentWrite_wrote hns (memPart bs) none
    exact (congrArg Core.store (hco k)).trans hidle

theorem lastTo_nodup {bs : List (Nat × Byte)} (hn : (bs.map Prod.fst).Nodup) {b : Nat × Byte} (hb : b ∈ bs) : lastTo bs b.1 = some b.2 := by
  rw [lastTo, Option.map_eq_some_iff]
  have hex : (bs.reverse.find? (fun x => x.1 == b.1)).isSome := List.find?_isSome.mpr ⟨b, List.mem_reverse.mpr hb, beq_self_eq_true _⟩
  obtain ⟨x, hx⟩ := Option.isSome_iff_exists.mp hex
  have hk : x.1 = b.1 := by simpa using List.find?_some hx
  have hm : x ∈ bs := List.mem_reverse.mp (List.mem_of_find?_eq_some hx)
  exact ⟨x, hx, by rw [List.inj_on_of_nodup_map hn hm hb hk]⟩

theorem lastTo_none {bs : List (Nat × Byte)} {p : Nat} (h : ∀ b ∈ bs, b.1 ≠ p) : lastTo bs p = none := by
  rw [lastTo, Option.map_eq_none_iff, List.find?_eq_none]
  intro b hb
  simpa using h b (List.mem_reverse.mp hb)

/-- Bytes written at places of memory by a unit outside the cores. -/
theorem State.dieWrite_wrote {s : State} (h : NoStash s) {ws : List (Nat × Byte × Bool)} (hb : ∀ w ∈ ws, w.2.2 = false) (hn : (ws.map Prod.fst).Nodup) :
    let t := s.dieWrite ws
    WritesOnly s t ws ∧ t = { s with cores := t.cores, store := t.store, plat := t.plat } ∧
      { t.store with mem := [], poison := [], replicas := [] } = { s.store with mem := [], poison := [], replicas := [] } ∧
      (∀ k, { t.core k with caches := {} } = { s.core k with caches := {} }) ∧
      (∀ k, { (t.core k).caches with l1 := [], l1own := [] } = { (s.core k).caches with l1 := [], l1own := [] }) ∧
      { t.plat with islands := [] } = { s.plat with islands := [] } ∧ NoStash t ∧ CmdsFrom s t := by
  intro t
  have hmem : memPart (ws.map (fun b => (SpadByte.there b.1, b.2.1, b.2.2))) = ws.map (fun w => (w.1, w.2.1)) := by
    clear hb hn t
    induction ws with
    | nil => rfl
    | cons w ws ih => exact congrArg ((w.1, w.2.1) :: ·) ih
  have hspad : spadPart (ws.map (fun b => (SpadByte.there b.1, b.2.1, b.2.2))) = [] := by
    clear hb hn t hmem
    induction ws with
    | nil => rfl
    | cons w ws ih => exact ih
  have hw : EngineWrote 0 s t (ws.map (fun b => (SpadByte.there b.1, b.2.1, b.2.2))) := State.engineWrite_wrote h 0 (fun b hm => by
    obtain ⟨w, hw, rfl⟩ := List.mem_map.mp hm
    exact hb w hw)
  have hstore (k : Nat) : (t.core k).store = (s.core k).store := State.engineWrite_stores h 0 (fun b hm => by
    obtain ⟨w, hw, rfl⟩ := List.mem_map.mp hm
    exact hb w hw) hspad k
  have hn' : ((ws.map (fun w => (w.1, w.2.1))).map Prod.fst).Nodup := by
    rw [List.map_map]
    exact hn
  refine ⟨⟨fun x hx => ?_, fun p hp => ?_⟩, hw.frame, hw.store, fun k => ?_, hw.caches, hw.plat, hw.stash, hw.cmds⟩
  · rw [hw.mem, hmem, lastTo_nodup (b := (x.1, x.2.1)) hn' (List.mem_map.mpr ⟨x, hx, rfl⟩)]
    rfl
  · rw [hw.mem, hmem, lastTo_none (fun b hm => ?_)]
    · rfl
    · obtain ⟨w, hw, rfl⟩ := List.mem_map.mp hm
      exact hp w hw
  · have h1 := congrArg (fun c : Core => { c with store := (s.core k).store }) (hw.cores k)
    have h2 : { t.core k with caches := {} } = ({ t.core k with caches := {}, store := (s.core k).store } : Core) := by rw [← hstore k]
    exact h2.trans h1

/-! ## Stash windows that hold nothing -/

/-- With no line in a stash window there is nothing to flush. -/
theorem State.flushStashes_none {s : State} (h : StashEmpty s) : s.flushStashes = s := by
  refine foldl_keeps _ s s.cores (fun p _ => foldl_keeps _ s _ (fun t _ => foldl_keeps _ s _ (fun w _ => ?_)))
  have hl : (Sparse.look {} w.1 ((s.core p.1).team t.1).stash : StashWin).lines = [] := by
    refine List.eq_nil_iff_forall_not_mem.mpr (fun l hl => ?_)
    have : stashLine ((s.core p.1).team t.1) w.1 l.1 ≠ none := by
      rw [stashLine, ne_eq, Option.map_eq_none_iff, List.find?_eq_none]
      exact fun hn => hn l hl (beq_self_eq_true _)
    exact this (stashLine_none h _ _ _ _)
  rw [State.flushWindow, hl]
  rfl

/-- What a coherent read finds where no stash window holds a line is what memory holds. -/
theorem State.coherentByte_mem {s : State} (h : StashEmpty s) : s.coherentByte = s.store.mem.byte := by
  funext p
  have hnone : s.cores.findSome? (fun c => c.2.crew.teams.findSome? (fun t => t.2.stash.findSome? (fun w =>
      (w.2.lines.find? (fun l => l.2.owned && l.2.place == p / 128 * 128)).map (fun l =>
        Memory.byte c.2.store.spad (t.2.res.spbase + w.2.w + 128 * l.1 + p % 128))))) = none := by
    refine List.findSome?_eq_none_iff.mpr (fun c hc => List.findSome?_eq_none_iff.mpr (fun t ht => List.findSome?_eq_none_iff.mpr (fun w hw => ?_)))
    rw [Option.map_eq_none_iff, List.find?_eq_none]
    intro l hl hk
    have hlist := h c hc (p / 128 * 128)
    rw [coreStash, List.flatMap_eq_nil_iff] at hlist
    have := List.flatMap_eq_nil_iff.mp (hlist t ht) w hw
    rw [List.map_eq_nil_iff, List.filter_eq_nil_iff] at this
    exact this l hl (by simp only [Bool.and_eq_true] at hk; exact hk.2)
  rw [State.coherentByte, hnone]
  rfl

end Sys2Proof.Machine
end

section
/-! Commands that register their lines, and commands that pause (R132, R136, R353). -/

namespace Sys2Proof.Machine
open Sys2Proof

/-! ## A command changed -/

theorem State.onCmd_core (s : State) (core id : Nat) (f : Cmd → Cmd) (k : Nat) : (s.onCmd core id f).core k =
    if k = core then { s.core k with cmds := (s.core k).cmds.map (fun d => if d.id == id then f d else d) } else s.core k := by
  rw [State.onCmd, State.core_onCore]
  split
  · next h => rw [h]
  · rfl

/-- A command that a core finds, changed. -/
theorem State.onCmd_cmd {s : State} {core id : Nat} {d : Cmd} (h : (s.core core).cmd id = some d) {f : Cmd → Cmd} (hf : ∀ x, x.id = id → (f x).id = id) :
    ((s.onCmd core id f).core core).cmd id = some (f d) := by
  rw [State.onCmd_core, if_pos rfl]
  show List.find? _ (List.map _ _) = _
  have hid (x : Cmd) : ((if x.id == id then f x else x).id == id) = (x.id == id) := by
    split
    · next hx => rw [hf x (beq_iff_eq.mp hx), hx, beq_self_eq_true]
    · rfl
  rw [List.find?_map]
  have hpred : ((fun d : Cmd => d.id == id) ∘ fun d => if d.id == id then f d else d) = fun d => d.id == id := funext hid
  have hd : (d.id == id) = true := List.find?_some (p := fun d : Cmd => d.id == id) h
  simp only [hpred]
  rw [show List.find? (fun d : Cmd => d.id == id) (s.core core).cmds = some d from h, Option.map_some, if_pos hd]

/-! ## A pause -/

/-- A replayable fault that a command meets pauses it (R136, R353). -/
theorem State.cmdFail_pauses {s : State} {core : Nat} {d : Cmd} (h : (s.core core).cmd d.id = some d) (va : DWord) {f : XFault} (k : AccessKind)
    (hr : f.rpl = true) (tag : Option Nat) : Pauses s (s.cmdFail core d (.fault va f k) tag) core d va f k := by
  let x : Stop := { code := 0x01, rpl := true, xlat := xlatDetail s d.cid f k va }
  let u := s.onCmd core d.id (fun y => { y with paused := some x })
  let v := match tag with
    | some t => u.onCore core (fun c => c.onTeam d.team (fun y => y.count t 3 1))
    | none => u
  have hu : (u.core core).cmd d.id = some { d with paused := some x } := State.onCmd_cmd h (fun _ hx => hx)
  have hug (j : Nat) : (u.core j).groups = (s.core j).groups := by
    rw [State.onCmd_core]
    split <;> rfl
  have hv : v.glens = u.glens ∧ (∀ j, (v.core j).groups = (u.core j).groups) ∧ ∀ j, (v.core j).cmds = (u.core j).cmds := by
    cases tag with
    | none => exact ⟨rfl, fun _ => rfl, fun _ => rfl⟩
    | some t => exact ⟨rfl, State.core_onCore_of Core.groups u core _ rfl, State.core_onCore_of Core.cmds u core _ rfl⟩
  have he : s.cmdFail core d (.fault va f k) tag = v.cmdRecord core d x true (some (.cmd core d.id)) := if_pos hr
  have hs := State.coreRecord_steady v core (((v.core core).team d.team).queue)
    { stop := { x with slot := d.slot }, aid := cmdAid core d.op, cid := d.cid, asy := true, seq := 0, pc := d.pc,
      smask := d.slices.foldl (fun m k => m + 2 ^ k) 0, amask := d.amask } (some (.cmd core d.id))
  have hrec (j : Nat) : ((v.onCore core (fun c => { c with recSeq := (c.recSeq + 1) % 2 ^ 32 })).core j).groups = (v.core j).groups :=
    State.core_onCore_of Core.groups v core _ rfl j
  have hrec' (j : Nat) : ((v.onCore core (fun c => { c with recSeq := (c.recSeq + 1) % 2 ^ 32 })).core j).cmds = (v.core j).cmds :=
    State.core_onCore_of Core.cmds v core _ rfl j
  rw [he]
  refine ⟨fun w => State.groupOf_of_groups (fun j => ?_) (show _ = s.glens from hs.glens.trans hv.1) w, ?_⟩
  · exact ((hs.groups j).trans (hrec j)).trans ((hv.2.1 j).trans (hug j))
  · have hc := ((hs.cmds core).trans (hrec' core)).trans (hv.2.2 core)
    rw [← hu]
    exact congrArg (List.find? (fun d' : Cmd => d'.id == d.id)) hc

/-! ## Order in a queue -/

theorem earlierStarted_iff {c : Core} {d : Cmd} : earlierStarted c d = true ↔
    ¬∃ x ∈ c.cmds, x.id < d.id ∧ unitOf x.op = unitOf d.op ∧ x.begun = false ∧ x.paused = none := by
  simp only [earlierStarted, List.all_eq_true, List.mem_filter, Bool.and_eq_true, decide_eq_true_eq, beq_iff_eq, Bool.or_eq_true, not_exists, not_and,
    and_imp]
  refine forall_congr' fun x => forall_congr' fun hx => forall_congr' fun hi => forall_congr' fun hu => ?_
  rw [← ne_eq, ← Option.isSome_iff_ne_none]
  cases x.begun <;> simp

/-! ## Lines held -/

theorem State.dropL1_frame (s : State) (core line : Nat) : s.dropL1 core line = { s with cores := (s.dropL1 core line).cores, store := (s.dropL1 core line).store } := by
  rw [State.dropL1_eq, (dropAt_foldl core line s.cores (s.giveUpReplicas line)).1]
  rfl

/-- Lines recalled and their copies dropped, one after another (R132). -/
theorem State.dropLines_gaveUp (ls : List Nat) (s : State) (h : StashEmpty s) :
    let t := ls.foldl (fun s l => (s.recall l true none).dropL1 noCore l) s
    GaveUp noCore (fun l => ls.contains l) s t ∧ t = { s with cores := t.cores, store := t.store } := by
  induction ls generalizing s with
  | nil => exact ⟨(GaveUp.refl noCore s).congr (by funext l; simp), rfl⟩
  | cons l ls ih =>
    have h1 := State.dropL1_gaveUp s noCore l
    obtain ⟨hg, hf⟩ := ih _ (h1.stash h)
    rw [List.foldl_cons, State.recall_none h]
    refine ⟨(h1.trans hg).congr ?_, hf.trans ?_⟩
    · funext j
      simp
    · rw [State.dropL1_frame s noCore l]

/-- Where no stash window holds a line, the lines of a command are held and their copies given up (R132). -/
theorem State.own_held {s : State} (h : StashEmpty s) (core id order : Nat) (lines : List Nat) (f : Cmd → Cmd) :
    LinesHeld s ((s.own core id order lines).onCmd core id f) core id order lines f := by
  obtain ⟨hg, hf⟩ := State.dropLines_gaveUp lines s h
  generalize hu : lines.foldl (fun s l => (s.recall l true none).dropL1 noCore l) s = u at hg hf
  let v := u.onStore (fun m => { m with owners := m.owners ++ lines.map (fun l => { line := l, unit := core, cmd := id, seq := order }) })
  have hv : s.own core id order lines = v := by rw [State.own, hu]
  rw [hv]
  have hcore (k : Nat) : (v.onCmd core id f).core k =
      if k = core then { u.core k with cmds := (u.core k).cmds.map (fun d => if d.id == id then f d else d) } else u.core k := State.onCmd_core v core id f k
  have hcmds (k : Nat) : (u.core k).cmds = (s.core k).cmds := eq_of_without (fun c : Core => { c with caches := {} }) Core.cmds (fun _ => rfl) (hg.cores k)
  refine ⟨?_, ?_, fun k => ?_, fun k => ?_, fun k hk l => ?_, ?_, fun k hk => ?_⟩
  · show ({ v with cores := _ } : State) = _
    rw [show v = { u with store := v.store } from rfl, hf]
    rfl
  · show ({ u.store with owners := u.store.owners ++ lines.map (fun l => { line := l, unit := core, cmd := id, seq := order }) } : Store) = _
    rw [hg.store]
  · rw [hcore]
    split
    · exact congrArg (fun c : Core => { c with cmds := [] }) (hg.cores k)
    · exact congrArg (fun c : Core => { c with cmds := [] }) (hg.cores k)
  · rw [hcore]
    split <;> exact hg.caches k
  · rw [hcore]
    split <;> exact hg.l1 k l hk
  · rw [hcore, if_pos rfl, hcmds]
  · rw [hcore, if_neg hk, hcmds]

/-! ## Reads of engines -/

theorem pagePieces_sum : ∀ (fuel : Nat) (va : DWord) (n : Nat), n = 0 ∨ n + va.toNat % 4096 ≤ fuel * 4096 → ((pagePieces va n fuel).map Prod.snd).sum = n
  | 0, va, n, h => by
    obtain rfl : n = 0 := by omega
    rfl
  | fuel + 1, va, n, h => by
    rw [pagePieces]
    split
    · next hn => rw [beq_iff_eq.mp hn]; rfl
    · next hn =>
      have hk : Nat.min n (4096 - va.toNat % 4096) = n ∨ Nat.min n (4096 - va.toNat % 4096) = 4096 - va.toNat % 4096 := min_choice _ _
      have hle : Nat.min n (4096 - va.toNat % 4096) ≤ n := Nat.min_le_left _ _
      have hn0 : n ≠ 0 := fun hz => hn (beq_iff_eq.mpr hz)
      generalize Nat.min n (4096 - va.toNat % 4096) = k at *
      have hrest : n - k = 0 ∨ (n - k) + (va + BitVec.ofNat 64 k).toNat % 4096 ≤ fuel * 4096 := by
        rw [BitVec.toNat_add, BitVec.toNat_ofNat]
        omega
      show k + ((pagePieces (va + BitVec.ofNat 64 k) (n - k) fuel).map Prod.snd).sum = n
      rw [pagePieces_sum fuel _ _ hrest]
      omega

theorem runPieces_sum (va : DWord) (n : Nat) : ((runPieces va n).map Prod.snd).sum = n := pagePieces_sum _ va n (.inr (by omega))

theorem engineReachTlb_bytes {s : State} {tlb : List TlbEntry} {cid : Nat} {k : AccessKind} : ∀ {ps : List (DWord × Nat)} {l : List EPiece},
    engineReachTlb s tlb cid k ps = .ok l → l.map EPiece.bytes = ps.map Prod.snd
  | [], l, h => by
    obtain rfl : [] = l := Except.ok.inj h
    rfl
  | (va, n) :: ps, l, h => by
    rw [engineReachTlb] at h
    split at h
    · cases h
    · cases h
    · split at h
      · cases h
      · next l' h' =>
        obtain rfl := Except.ok.inj h
        rw [List.map_cons, engineReachTlb_bytes h', List.map_cons]

theorem length_placesOf (l : List EPiece) : (placesOf l).length = (l.map EPiece.bytes).sum := by
  simp [placesOf, List.length_flatMap]

theorem seqReach_ok {s : State} {d : Cmd} {k : AccessKind} {kv : Bool} {va : DWord} {n : Nat} {ps : List EPiece} (h : seqReach s d k kv va n = .ok ps) :
    engineReachTlb s (cmdTlb s d) d.cid k (runPieces va n) = .ok ps ∧ (ownedLines ps).any (s.heldFor d) = false := by
  simp only [seqReach, bind, Except.bind, pure, Except.pure, throw, throwThe, MonadExceptOf.throw] at h
  split at h
  · cases h
  · next v hv =>
    split at h
    · cases h
    · split at h
      · cases h
      · next hn =>
        obtain rfl := Except.ok.inj h
        exact ⟨hv, Bool.not_eq_true _ ▸ hn⟩

theorem length_seqReach {s : State} {d : Cmd} {k : AccessKind} {kv : Bool} {va : DWord} {n : Nat} {ps : List EPiece} (h : seqReach s d k kv va n = .ok ps) :
    (placesOf ps).length = n := by
  rw [length_placesOf, engineReachTlb_bytes (seqReach_ok h).1, runPieces_sum]

theorem seqRead_ok {s : State} {d : Cmd} {kv : Bool} {va : DWord} {n : Nat} {x : List Byte × Bool} (h : seqRead s d kv va n = .ok x) :
    ∃ ps, seqReach s d .engineRead kv va n = .ok ps ∧ x.1 = (placesOf ps).map s.store.mem.byte ∧ x.2 = (placesOf ps).any s.isPoisoned := by
  simp only [seqRead, seqBytes, bind, Except.bind, pure, Except.pure] at h
  split at h
  · cases h
  · next v hv =>
    split at hv
    · cases hv
    · next ps hps =>
      obtain rfl := Except.ok.inj hv
      obtain rfl := Except.ok.inj h
      refine ⟨ps, hps, List.map_map, ?_⟩
      rw [List.any_map]
      rfl

theorem length_seqRead {s : State} {d : Cmd} {kv : Bool} {va : DWord} {n : Nat} {bs : List Byte} {p : Bool} (h : seqRead s d kv va n = .ok (bs, p)) :
    bs.length = n := by
  obtain ⟨ps, hps, hb, -⟩ := seqRead_ok h
  rw [show bs = _ from hb, List.length_map, length_seqReach hps]

/-! ## Numbers in what is read -/

theorem descNum_append_left {a b : List Byte} {off n : Nat} (h : off + n ≤ a.length) : descNum (a ++ b) off n = descNum a off n := by
  rw [descNum, List.drop_append_of_le_length (by omega), List.take_append_of_le_length (by rw [List.length_drop]; omega), descNum]

theorem descNum_append_right {a b : List Byte} {off off' : Nat} (h : off = a.length + off') (n : Nat) : descNum (a ++ b) off n = descNum b off' n := by
  rw [descNum, h, List.drop_append, List.drop_eq_nil_of_le (by omega), List.nil_append, Nat.add_sub_cancel_left, descNum]

end Sys2Proof.Machine
end

section
/-! Collectives (R324, R325). -/

namespace Sys2Proof.Machine
open Sys2Proof

/-! ## Elements combined -/

/-- The tree of a collective does not depend on fuel that suffices for its ranks. -/
theorem collTree_fuel (op : Nat → Nat → Nat) (x : Nat → Nat) : ∀ f g lo n, n ≤ 2 ^ f → n ≤ 2 ^ g → collTree op x f lo n = collTree op x g lo n
  | 0, 0, _, _, _, _ => rfl
  | 0, g + 1, lo, n, h, _ => by rw [collTree, collTree, if_pos (by simpa using h)]
  | f + 1, 0, lo, n, _, h => by rw [collTree, collTree, if_pos (by simpa using h)]
  | f + 1, g + 1, lo, n, hf, hg => by
    by_cases hn : n ≤ 1
    · rw [collTree, collTree, if_pos hn, if_pos hn]
    · have hlog := Nat.log2_self_le (n := n - 1) (by omega)
      have hlog' := Nat.lt_log2_self (n := n - 1)
      have hpow (k : Nat) (hk : n ≤ 2 ^ (k + 1)) : 2 ^ Nat.log2 (n - 1) ≤ 2 ^ k := by
        refine Nat.pow_le_pow_right (by omega) (Nat.lt_succ_iff.mp ((Nat.log2_lt (by omega)).mpr ?_))
        omega
      rw [Nat.pow_succ] at hlog'
      have h1 := hpow f hf
      have h2 := hpow g hg
      rw [collTree, collTree, if_neg hn, if_neg hn]
      simp only [collTree_fuel op x f g lo _ h1 h2, collTree_fuel op x f g (lo + 2 ^ Nat.log2 (n - 1)) (n - 2 ^ Nat.log2 (n - 1)) (by omega) (by omega)]

theorem collTree_one (op : Nat → Nat → Nat) (x : Nat → Nat) (lo : Nat) : collTree op x 13 lo 1 = x lo := by
  rw [collTree, if_pos (Nat.le_refl 1)]

/-- The ranks are split at the largest power of two below their count (R325). -/
theorem collTree_split (op : Nat → Nat → Nat) (x : Nat → Nat) (lo : Nat) {n j : Nat} (h1 : 2 ^ j < n) (h2 : n ≤ 2 ^ (j + 1)) (hn : n ≤ 4096) :
    collTree op x 13 lo n = op (collTree op x 13 lo (2 ^ j)) (collTree op x 13 (lo + 2 ^ j) (n - 2 ^ j)) := by
  have hpos : 1 ≤ 2 ^ j := Nat.one_le_two_pow
  have hlog : Nat.log2 (n - 1) = j := (Nat.log2_eq_iff (by omega)).mpr ⟨by omega, by omega⟩
  rw [collTree, if_neg (by omega)]
  simp only [hlog]
  rw [collTree_fuel op x 12 13 lo (2 ^ j) (by omega) (by omega), collTree_fuel op x 12 13 (lo + 2 ^ j) (n - 2 ^ j) (by omega) (by omega)]

/-- A property of every rank's value that `op` keeps is one of the tree's value. -/
theorem collTree_has (P : Nat → Prop) (op : Nat → Nat → Nat) (x : Nat → Nat) (hx : ∀ k, P (x k)) (hop : ∀ u v, P u → P v → P (op u v)) :
    ∀ f lo n, P (collTree op x f lo n)
  | 0, lo, _ => hx lo
  | f + 1, lo, n => by
    rw [collTree]
    split
    · exact hx lo
    · exact hop _ _ (collTree_has P op x hx hop f _ _) (collTree_has P op x hx hop f _ _)

theorem leNat_lt (bs : List Byte) : leNat bs < 2 ^ (8 * bs.length) := by
  induction bs with
  | nil => decide
  | cons b bs ih =>
    have hb := b.isLt
    rw [leNat, List.length_cons, Nat.mul_add, Nat.pow_add]
    omega

theorem toSigned_of_lt {v : Nat} (h : v < 2 ^ 32) : toSigned 32 v = if v < 2 ^ 31 then (v : Int) else (v : Int) - 2 ^ 32 := by
  simp only [toSigned, Nat.mod_eq_of_lt h]
  refine if_congr ⟨fun _ => by omega, fun _ => by omega⟩ rfl rfl

/-- The value of element `i` at rank `k` as the tree takes it: bf16 widened. -/
def collValue (x : CollDesc) (srcs : CollSrcs) (i k : Nat) : Nat :=
  let v := leNat (((srcs.getD k []).map Prod.fst).extract (i * x.size) (i * x.size + x.size))
  if x.ty = 1 then (floatToFloat bf16 f32 0 false v).1 else v

/-- The combined value of element `i` of some ranks. -/
def collTreeOf (x : CollDesc) (srcs : CollSrcs) (i lo n : Nat) : Nat := collTree (collOp x.ty x.rop) (collValue x srcs i) 13 lo n

theorem clean_getD {srcs : CollSrcs} (h : ∀ b ∈ srcs.flatten, b.2 = false) (k : Nat) : ∀ b ∈ srcs.getD k [], b.2 = false := by
  intro b hb
  by_cases hk : k < srcs.length
  · rw [List.getD_eq_getElem _ _ hk] at hb
    exact h b (List.mem_flatten.mpr ⟨_, List.getElem_mem hk, hb⟩)
  · rw [List.getD_eq_default _ _ (Nat.le_of_not_lt hk)] at hb
    cases hb

theorem collElem_eq (x : CollDesc) {srcs : CollSrcs} (h : ∀ b ∈ srcs.flatten, b.2 = false) (i : Nat) : collElem x srcs i =
    (leBytes x.size (if x.ty = 1 then (floatToFloat f32 bf16 0 false (collTreeOf x srcs i 0 x.nr)).1 else collTreeOf x srcs i 0 x.nr)).map
      (fun b => (b, false)) := by
  have hbad : (List.range x.nr).any (fun k => (((srcs.getD k []).drop (i * x.size)).take x.size).any Prod.snd) = false := by
    refine List.any_eq_false.mpr (fun k _ => ?_)
    rw [Bool.not_eq_true, List.any_eq_false]
    intro b hb
    rw [clean_getD h k b (List.mem_of_mem_drop (List.mem_of_mem_take hb))]
    exact Bool.false_ne_true
  have hval : collValue x srcs i = fun k =>
      if x.ty = 1 then (floatToFloat bf16 f32 0 false (leNat ((((srcs.getD k []).drop (i * x.size)).take x.size).map Prod.fst))).1
      else leNat ((((srcs.getD k []).drop (i * x.size)).take x.size).map Prod.fst) := by
    funext k
    rw [collValue, List.extract_eq_drop_take', List.map_take, List.map_drop]
    simp only [Nat.add_sub_cancel_left, List.drop_take]
  rw [collElem, collTreeOf, hval]
  simp only [hbad, beq_iff_eq]

/-- A 32-bit pattern read as signed. -/
def signedOf (v : Nat) : Int := if v < 2 ^ 31 then (v : Int) else (v : Int) - 2 ^ 32

/-- R325's operation on two elements. -/
def combined (ty rop u v : Nat) : Nat :=
  let most := if ty < 2 then (minMaxElem f32 true u v).1 else if ty = 2 then (if signedOf u < signedOf v then v else u) else max u v
  let least := if ty < 2 then (minMaxElem f32 false u v).1 else if ty = 2 then (if signedOf u < signedOf v then u else v) else min u v
  if rop = 0 then (if ty < 2 then (addElem f32 0 false u v).1 else (u + v) % 2 ^ 32) else if rop = 1 then most else least

theorem collOp_combined {ty rop : Nat} (ht : ty < 4) (hr : rop < 3) {u v : Nat} (h : ty = 2 → u < 2 ^ 32 ∧ v < 2 ^ 32) :
    collOp ty rop u v = combined ty rop u v := by
  by_cases h2 : ty = 2
  · obtain ⟨hu, hv⟩ := h h2
    subst h2
    have hsu : toSigned 32 u = signedOf u := toSigned_of_lt hu
    have hsv : toSigned 32 v = signedOf v := toSigned_of_lt hv
    interval_cases rop <;> simp [collOp, combined, hsu, hsv]
  · interval_cases ty
    · interval_cases rop <;> rfl
    · interval_cases rop <;> rfl
    · exact absurd rfl h2
    · interval_cases rop <;> rfl

/-- Signed elements and what is combined of them are 32-bit patterns. -/
theorem collTreeOf_lt {x : CollDesc} (ht : x.ty = 2) (srcs : CollSrcs) (i lo n : Nat) : collTreeOf x srcs i lo n < 2 ^ 32 := by
  refine collTree_has (· < 2 ^ 32) _ _ (fun k => ?_) (fun u v hu hv => ?_) 13 lo n
  · have hl := leNat_lt (((srcs.getD k []).map Prod.fst).extract (i * x.size) (i * x.size + x.size))
    have hs : x.size = 4 := by rw [CollDesc.size, ht]; rfl
    have hlen : (((srcs.getD k []).map Prod.fst).extract (i * x.size) (i * x.size + x.size)).length ≤ 4 := by
      rw [List.extract_eq_drop_take', List.length_drop, List.length_take]
      omega
    rw [collValue]
    simp only [ht, OfNat.ofNat_ne_one, if_false]
    exact hl.trans_le (Nat.pow_le_pow_right (by omega) (by omega))
  · rw [ht]
    generalize x.rop = r
    match r with
    | 0 => exact Nat.mod_lt _ (by omega)
    | 1 =>
      show (if toSigned 32 u < toSigned 32 v then v else u) < 2 ^ 32
      split <;> assumption
    | r + 2 =>
      show (if toSigned 32 u < toSigned 32 v then u else v) < 2 ^ 32
      split <;> assumption

theorem collTreeOf_split {x : CollDesc} (ht : x.ty < 4) (hr : x.rop < 3) (srcs : CollSrcs) (i lo : Nat) {n j : Nat} (h1 : 2 ^ j < n) (h2 : n ≤ 2 ^ (j + 1))
    (hn : n ≤ 4096) :
    collTreeOf x srcs i lo n = combined x.ty x.rop (collTreeOf x srcs i lo (2 ^ j)) (collTreeOf x srcs i (lo + 2 ^ j) (n - 2 ^ j)) :=
  (collTree_split _ _ lo h1 h2 hn).trans (collOp_combined ht hr (fun h => ⟨collTreeOf_lt h _ _ _ _, collTreeOf_lt h _ _ _ _⟩))

theorem collResult_gather {x : CollDesc} (h : x.op = 2) (srcs : CollSrcs) (rank : Nat) : collResult x srcs rank = srcs.flatten := by
  rw [collResult, h]
  exact List.flatMap_id

theorem collResult_broadcast {x : CollDesc} (h : x.op = 3) (srcs : CollSrcs) (rank : Nat) : collResult x srcs rank = srcs.getD x.root [] := by
  rw [collResult, h]
  rfl

theorem collResult_reduce {x : CollDesc} (h : x.op < 2) (srcs : CollSrcs) (rank : Nat) : collResult x srcs rank =
    if x.op = 0 then (List.range x.count).flatMap (collElem x srcs)
    else (List.range (x.count / x.nr)).flatMap (fun i => collElem x srcs (rank * (x.count / x.nr) + i)) := by
  have : x.op = 0 ∨ x.op = 1 := by omega
  rw [collResult]
  obtain h | h := this <;> simp only [h] <;> rfl

/-- What is combined of clean sources is clean (R73). -/
theorem collResult_clean {x : CollDesc} {srcs : CollSrcs} (h : ∀ b ∈ srcs.flatten, b.2 = false) (rank : Nat) :
    ∀ b ∈ collResult x srcs rank, b.2 = false := by
  have helem (i : Nat) : ∀ b ∈ collElem x srcs i, b.2 = false := by
    rw [collElem_eq x h]
    intro b hb
    obtain ⟨y, -, rfl⟩ := List.mem_map.mp hb
    rfl
  unfold collResult
  split
  · intro b hb
    obtain ⟨i, -, hi⟩ := List.mem_flatMap.mp hb
    exact helem _ b hi
  · intro b hb
    obtain ⟨i, -, hi⟩ := List.mem_flatMap.mp hb
    exact helem _ b hi
  · rw [List.flatMap_id]
    exact h
  · exact clean_getD h _

/-! ## The end of the ranks -/

abbrev Rank := Nat × Cmd × CollDesc

/-- The ranks among some of a core whose flag is the core's flag `n`. -/
def ranksAt (s : State) (xs : List Rank) (k n : Nat) : List Rank :=
  xs.filter (fun x => x.1 == k && (flagField x.2.1.op).map (fun f => ((s.core k).team x.2.1.team).res.fbase + f) == some n)

/-- Flag `n` of core `k` after the end of some ranks (R303). -/
def raised (s : State) (xs : List Rank) (err : Bool) (k n : Nat) : Flag :=
  { s.flagOf k n with
    value := (s.flagOf k n).value + BitVec.ofNat 32 (ranksAt s xs k n).length
    err := (s.flagOf k n).err || (err && !(ranksAt s xs k n).isEmpty)
    last := if (ranksAt s xs k n).isEmpty then (s.flagOf k n).last else dieAid (dieOfCore k) 5 0 }

/-- Some ranks have ended: their commands are gone with their lines, their flags went up, and only rings may have changed beside. -/
structure RanksEnd (s t : State) (xs : List Rank) (err : Bool) : Prop where
  frame : t = { s with cores := t.cores, store := t.store }
  store : t.store = { s.store with owners := s.store.owners.filter (fun o => !xs.any (fun x => x.1 == o.unit && x.2.1.id == o.cmd)) }
  cmds : ∀ k, (t.core k).cmds = (s.core k).cmds.filter (fun y => !xs.any (fun x => x.1 == k && x.2.1.id == y.id))
  kept : ∀ k, { t.core k with cmds := [], rings := [], flags := [] } = { s.core k with cmds := [], rings := [], flags := [] }
  flags : ∀ k n, t.flagOf k n = raised s xs err k n

theorem RanksEnd.part {s t : State} {xs : List Rank} {err : Bool} (h : RanksEnd s t xs err) {α : Type} (p : Core → α)
    (hp : ∀ c : Core, p { c with cmds := [], rings := [], flags := [] } = p c) (k : Nat) : p (t.core k) = p (s.core k) := eq_of_without _ p hp (h.kept k)

theorem RanksEnd.nil (s : State) (err : Bool) : RanksEnd s s [] err where
  frame := rfl
  store := by simp
  cmds _ := by simp
  kept _ := rfl
  flags k n := by simp [raised, ranksAt]

theorem RanksEnd.append {s t u : State} {xs ys : List Rank} {err : Bool} (h : RanksEnd s t xs err) (h' : RanksEnd t u ys err) :
    RanksEnd s u (xs ++ ys) err where
  frame := by rw [h'.frame, h.frame]
  store := by
    rw [h'.store, h.store]
    simp only [List.filter_filter, List.any_append, Bool.not_or, Bool.and_comm]
  cmds k := by
    rw [h'.cmds, h.cmds]
    simp only [List.filter_filter, List.any_append, Bool.not_or, Bool.and_comm]
  kept k := (h'.kept k).trans (h.kept k)
  flags k n := by
    have hat : ranksAt t ys k n = ranksAt s ys k n := by
      have hteam (x : Nat) : (t.core k).team x = (s.core k).team x := h.part (fun c => c.team x) (fun _ => rfl) k
      simp only [ranksAt, hteam]
    have happ : ranksAt s (xs ++ ys) k n = ranksAt s xs k n ++ ranksAt s ys k n := List.filter_append ..
    rw [h'.flags, raised, hat, h.flags, raised, raised, happ]
    simp only [Flag.mk.injEq, List.length_append, BitVec.ofNat_add, BitVec.add_assoc, true_and, and_true]
    cases ranksAt s xs k n <;> cases ranksAt s ys k n <;> simp

/-- A rank of a collective whose flag goes up when it completes (R303). -/
def Rank.Signals (s : State) (x : Rank) : Prop :=
  isColl x.2.1.op = true ∧ x.2.1.err = false ∧ (flagField x.2.1.op).isSome = true ∧ groupStopped ((s.core x.1).groupK x.2.1.groupKey) = false

theorem Rank.Signals.after {s t : State} {xs : List Rank} {err : Bool} (h : RanksEnd s t xs err) {x : Rank} (hx : x.Signals s) : x.Signals t := by
  obtain ⟨h1, h2, h3, h4⟩ := hx
  exact ⟨h1, h2, h3, by rw [← h4]; exact congrArg groupStopped (h.part (fun c => c.groupK x.2.1.groupKey) (fun _ => rfl) x.1)⟩

theorem isColl_op {i : Instr} (h : isColl i = true) : ∃ o, i = .coll o := by
  unfold isColl at h
  split at h
  · exact ⟨_, rfl⟩
  · cases h

theorem State.finishCmd_rank {s : State} (hc : s.store.cut = []) {x : Rank} (hx : x.Signals s) (err : Bool) :
    RanksEnd s (s.finishCmd x.1 x.2.1 err) [x] err := by
  obtain ⟨k, d, c⟩ := x
  obtain ⟨ho, he, hf, hg⟩ := hx
  obtain ⟨o, ho⟩ := isColl_op ho
  dsimp only at ho he hf hg
  obtain ⟨hl, ⟨-, hfl⟩, hst⟩ := State.finishCmd_ends hc k d err (.inl hf)
  generalize s.finishCmd k d err = t at *
  obtain ⟨-, hframe, hstore, hcore, hother, hcmds, -⟩ := hl
  obtain ⟨n, hn⟩ := Option.isSome_iff_exists.mp hf
  have hfl := hfl n hn (.inl hg)
  have haid : cmdAid k d.op = dieAid (dieOfCore k) 5 0 := by rw [ho]; rfl
  refine ⟨hframe, ?_, fun j => ?_, fun j => ?_, fun j m => ?_⟩
  · rw [hstore]
    simp only [List.any_cons, List.any_nil, Bool.or_false]
    congr 2
    funext o
    rw [BEq.comm (a := k), BEq.comm (a := d.id)]
  · by_cases hj : j = k
    · subst hj
      rw [hcmds]
      simp only [List.any_cons, List.any_nil, Bool.or_false, beq_self_eq_true, Bool.true_and, bne]
      congr 1
      funext y
      rw [BEq.comm (a := d.id)]
    · rw [(hother j hj).2.1]
      simp [beq_false_of_ne (Ne.symm hj)]
  · have h1 := congrArg (fun c : Core => { c with store := (s.core j).store }) (hcore j)
    have h2 : ({ t.core j with cmds := [], rings := [], flags := [] } : Core) =
        { t.core j with store := (s.core j).store, cmds := [], rings := [], flags := [] } := by rw [← hst j]
    exact h2.trans h1
  · by_cases hj : j = k
    · subst hj
      rw [hfl, he, haid]
      by_cases hm : m = ((s.core j).team d.team).res.fbase + n
      · have hat : ranksAt s [(j, d, c)] j m = [(j, d, c)] := by simp [ranksAt, hn, hm]
        rw [if_pos hm, raised, hat]
        simp
      · have hat : ranksAt s [(j, d, c)] j m = [] := by simp [ranksAt, hn, Ne.symm hm]
        rw [if_neg hm, raised, hat]
        simp
    · have hat : ranksAt s [(k, d, c)] j m = [] := by simp [ranksAt, Ne.symm hj]
      rw [raised, hat, State.flagOf, (hother j hj).2.2]
      simp [State.flagOf]

/-- Every rank of a collective completes (R325). -/
theorem State.collEnd_ends {xs : List Rank} {s : State} (hc : s.store.cut = []) (hx : ∀ x ∈ xs, Rank.Signals s x) {err : CollDesc → Bool} {e : Bool}
    (he : ∀ x ∈ xs, err x.2.2 = e) : RanksEnd s (s.collEnd xs err) xs e := by
  induction xs generalizing s with
  | nil => exact .nil s e
  | cons x xs ih =>
    have h1 := State.finishCmd_rank hc (hx x (.head _)) e
    have h2 := ih (s := s.finishCmd x.1 x.2.1 e) (by rw [h1.store]; exact hc) (fun y hy => (hx y (.tail _ hy)).after h1) (fun y hy => he y (.tail _ hy))
    have h3 : s.collEnd (x :: xs) err = (s.finishCmd x.1 x.2.1 e).collEnd xs err := by
      rw [State.collEnd, List.foldl_cons, he x (.head _)]
      rfl
    rw [h3]
    exact h1.append h2

/-! ## The completion of a collective -/

theorem rankCountOk_iff {n : Nat} : rankCountOk n = true ↔ 2 ≤ n ∧ n ≤ 4096 := by simp [rankCountOk]

theorem collArrived_iff {xs : List Rank} : collArrived xs = true ↔ RanksArrived xs := by
  simp only [collArrived, RanksArrived, Bool.and_eq_true, Bool.or_eq_true, Bool.not_eq_true', List.isEmpty_eq_false_iff, List.isEmpty_iff,
    List.filter_eq_nil_iff, List.any_eq_true, List.mem_filter, List.mem_map, decide_eq_true_eq, rankCountOk_iff]
  refine and_congr Iff.rfl ⟨fun h => ?_, fun h => ?_⟩
  · obtain h | ⟨n, ⟨⟨y, hy, rfl⟩, hn⟩, hl⟩ := h
    · exact .inr (fun y hy => h _ ⟨y, hy, rfl⟩)
    · exact .inl ⟨y, hy, hn, hl⟩
  · obtain ⟨y, hy, hn, hl⟩ | h := h
    · exact .inr ⟨_, ⟨⟨y, hy, rfl⟩, hn⟩, hl⟩
    · exact .inl (by rintro n ⟨y, hy, rfl⟩; exact h y hy)

theorem collFull_iff {xs : List Rank} : collFull xs = true ↔ RanksArrived xs ∧ ∀ y ∈ xs, y.2.1.paused = none := by
  simp [collFull, collArrived_iff]

theorem collRanks_coll {s : State} {comm seq : Nat} : ∀ x ∈ collRanks s comm seq, isColl x.2.1.op = true := by
  intro x hx
  obtain ⟨p, hp, hx⟩ := List.mem_filterMap.mp hx
  have hop := (List.mem_filter.mp hp).2
  dsimp only at hx
  split at hx
  · obtain rfl := Option.some.inj hx
    exact (Bool.and_eq_true_iff.mp hop).1
  · cases hx

theorem CollDesc.agrees_iff {x y : CollDesc} : x.agrees y = true ↔
    x.op = y.op ∧ x.rop = y.rop ∧ x.ty = y.ty ∧ x.count = y.count ∧ x.nr = y.nr ∧ x.root = y.root := by
  simp only [CollDesc.agrees, Bool.and_eq_true, beq_iff_eq, and_assoc]

/-- The sources of clean memory are clean (R73). -/
theorem collSrcs_clean {ps : List CollPart} {nr : Nat} {f : Nat → Byte × Bool} (h : ∀ p, (f p).2 = false) : ∀ b ∈ (collSrcs ps nr f).flatten, b.2 = false := by
  intro b hb
  obtain ⟨l, hl, hb⟩ := List.mem_flatten.mp hb
  obtain ⟨k, -, rfl⟩ := List.mem_map.mp hl
  split at hb
  · obtain ⟨p, -, rfl⟩ := List.mem_map.mp hb
    exact h p
  · cases hb

theorem collSrcs_eq (ps : List CollPart) (nr : Nat) (f : Nat → Byte × Bool) : collSrcs ps nr f =
    (List.range nr).map (fun k => ((ps.find? (fun p => p.desc.rank == k)).elim [] CollPart.src).map f) := by
  refine List.map_congr_left (fun k _ => ?_)
  cases ps.find? (fun p => p.desc.rank == k) <;> rfl

theorem collBad_clean {ps : List CollPart} {srcs : CollSrcs} (h : ∀ b ∈ srcs.flatten, b.2 = false) (c : CollDesc) : collBad ps srcs c = false := by
  rw [collBad, Bool.or_eq_false_iff]
  refine ⟨List.any_eq_false.mpr (fun b hb => by simp [clean_getD h _ b hb]), List.any_eq_false.mpr (fun p _ => ?_)⟩
  rw [List.any_eq_false.mpr (fun b hb => by simp [collResult_clean h _ b hb])]
  simp

theorem collWrites_clean {ps : List CollPart} {srcs : CollSrcs} (h : ∀ b ∈ srcs.flatten, b.2 = false) : ∀ w ∈ collWrites ps srcs, w.2.2 = false := by
  intro w hw
  obtain ⟨p, -, hp⟩ := List.mem_flatMap.mp hw
  exact collResult_clean h _ _ (List.of_mem_zip hp).2

theorem map_fst_zip_sublist {α β : Type} : ∀ (l : List α) (m : List β), ((l.zip m).map Prod.fst).Sublist l
  | [], _ => .slnil
  | _ :: _, [] => List.nil_sublist _
  | _ :: l, _ :: m => .cons_cons _ (map_fst_zip_sublist l m)

/-- The places that the ranks write are among those of their destinations, in order. -/
theorem collWrites_places (ps : List CollPart) (srcs : CollSrcs) : ((collWrites ps srcs).map Prod.fst).Sublist (ps.flatMap CollPart.dst) := by
  induction ps with
  | nil => exact .slnil
  | cons p ps ih =>
    rw [collWrites, List.flatMap_cons, List.map_append, List.flatMap_cons]
    refine List.Sublist.append ?_ ih
    exact map_fst_zip_sublist _ _

theorem collChain_zero {ps : List CollPart} (h : ∀ p ∈ ps, ∀ q ∈ ps, ∀ b ∈ p.src, b ∉ q.dst) : collChain ps = 0 := by
  refine if_neg ?_
  simp only [List.any_eq_true, List.contains_iff_mem, List.mem_flatMap, not_exists, not_and]
  exact fun p hp b hb q hq hbq => h p hp q hq b hb hbq

theorem State.isPoisoned_clean {s : State} (hp : s.store.poison = []) (hl : lostLinks s = []) (p : Nat) : s.isPoisoned p = false := by
  rw [State.isPoisoned, hp, cutOff_none hl]
  rfl

theorem rankAt_isSome_iff {xs : List Rank} {k : Nat} : (rankAt xs k).isSome = true ↔ ∃ y ∈ xs, y.2.2.rank = k := by
  simp [rankAt, List.find?_isSome]

/-- Do the ranks of a collective agree, each known once and none with a broken descriptor (R325)? -/
def RanksSound (a : Rank) (xs : List Rank) : Prop :=
  xs.length = a.2.2.nr ∧ (∀ k < a.2.2.nr, ∃ y ∈ xs, y.2.2.rank = k) ∧ ∀ y ∈ xs, y.2.2.bad = false ∧ (a.2.2.op = y.2.2.op ∧ a.2.2.rop = y.2.2.rop ∧
    a.2.2.ty = y.2.2.ty ∧ a.2.2.count = y.2.2.count ∧ a.2.2.nr = y.2.2.nr ∧ a.2.2.root = y.2.2.root)

theorem ranksSound_iff {a : Rank} {xs : List Rank} : (xs.length == a.2.2.nr && (List.range a.2.2.nr).all (fun k => (rankAt xs k).isSome) &&
    xs.all (fun y => !y.2.2.bad && a.2.2.agrees y.2.2)) = true ↔ RanksSound a xs := by
  simp only [Bool.and_eq_true, beq_iff_eq, List.all_eq_true, List.mem_range, rankAt_isSome_iff, Bool.not_eq_true', CollDesc.agrees_iff, RanksSound, and_assoc]

theorem State.collComplete_unsound {s : State} {a : Rank} {rest : List Rank} (h : ¬RanksSound a (a :: rest)) :
    s.collComplete (a :: rest) = s.collEnd (a :: rest) (fun _ => true) := by
  rw [State.collComplete]
  exact if_pos (by rw [Bool.not_eq_true']; exact Bool.not_eq_true _ ▸ mt ranksSound_iff.mp h)

/-- What the ranks read where nothing is poisoned. -/
def cleanSrcs (s : State) (ps : List CollPart) (nr : Nat) : CollSrcs := collSrcs ps nr (fun b => (s.store.mem.byte b, false))

theorem State.collComplete_sound {s : State} {a : Rank} {rest : List Rank} (h : RanksSound a (a :: rest)) (hs : NoStash s) (hp : s.store.poison = [])
    {ps : List CollPart} (hps : collParts s ((a :: rest).map (fun y => (y.1, y.2.1.id))) (a :: rest) = .ok ps)
    (hd : ∀ p ∈ ps, ∀ q ∈ ps, ∀ b ∈ p.src, b ∉ q.dst) :
    s.collComplete (a :: rest) = (s.dieWrite (collWrites ps (cleanSrcs s ps a.2.2.nr))).collEnd (a :: rest) (collBad ps (cleanSrcs s ps a.2.2.nr)) := by
  have hsrc : collRead' s ps a.2.2.nr (collChain ps) = cleanSrcs s ps a.2.2.nr := by
    rw [collChain_zero hd, collRead', cleanSrcs]
    simp only [State.isPoisoned_clean hp hs.2]
  rw [State.collComplete]
  refine (if_neg (by rw [ranksSound_iff.mpr h]; exact Bool.false_ne_true)).trans ?_
  simp only [State.flushStashes_none hs.1, hps, hsrc]
  rw [collChain_zero hd]
  rfl

/-- The ranks' ends as the statement tells them. -/
theorem RanksEnd.memoryKept {s t : State} {xs : List Rank} {err : Bool} (h : RanksEnd s t xs err) : MemoryKept s t :=
  MemoryKept.of_stores (by rw [h.store]) (h.part (fun c => c.store.spad) (fun _ => rfl)) (by rw [h.frame])

/-- The end of a collective as R325 tells it: of its ranks' commands, lines and flags, and of what stays. -/
def RanksDone (s t : State) (xs : List Rank) (err : Bool) : Prop :=
  (∀ k, (t.core k).cmds = (s.core k).cmds.filter (fun y => !xs.any (fun x => x.1 == k && x.2.1.id == y.id))) ∧
    (∀ v, t.groupOf v = s.groupOf v) ∧ (∀ k, (t.core k).store = (s.core k).store) ∧ t.host = s.host ∧ t.glens = s.glens ∧ t.dies = s.dies ∧
    t.store.owners = s.store.owners.filter (fun o => !xs.any (fun x => x.1 == o.unit && x.2.1.id == o.cmd)) ∧ ∀ k n, t.flagOf k n = raised s xs err k n

section
variable {s u : State} (hu : u = { s with cores := u.cores, store := u.store, plat := u.plat })
  (hc : ∀ k, { u.core k with caches := {} } = { s.core k with caches := {} })
include hc

theorem part_of_caches {α : Type} (p : Core → α) (hp : ∀ c : Core, p { c with caches := {} } = p c) (k : Nat) : p (u.core k) = p (s.core k) :=
  eq_of_without _ p hp (hc k)

theorem Rank.Signals.of_caches {x : Rank} (h : x.Signals s) : x.Signals u := by
  obtain ⟨h1, h2, h3, h4⟩ := h
  exact ⟨h1, h2, h3, by rw [← h4]; exact congrArg groupStopped (part_of_caches hc (fun c => c.groupK x.2.1.groupKey) (fun _ => rfl) x.1)⟩

include hu in
/-- The ranks' ends after a write that changes no core but its caches. -/
theorem RanksEnd.done {t : State} {xs : List Rank} {err : Bool} (h : RanksEnd u t xs err) (ho : u.store.owners = s.store.owners) : RanksDone s t xs err := by
  have hflag (k n : Nat) : u.flagOf k n = s.flagOf k n := part_of_caches hc (fun c => Sparse.look ({} : Flag) n c.flags) (fun _ => rfl) k
  have hteam (k x : Nat) : (u.core k).team x = (s.core k).team x := part_of_caches hc (fun c => c.team x) (fun _ => rfl) k
  refine ⟨fun k => ?_, fun v => State.groupOf_of_groups (fun k => ?_) ?_ v, fun k => ?_, ?_, ?_, ?_, ?_, fun k n => ?_⟩
  · rw [h.cmds, part_of_caches hc Core.cmds (fun _ => rfl)]
  · exact (h.part Core.groups (fun _ => rfl) k).trans (part_of_caches hc Core.groups (fun _ => rfl) k)
  · rw [h.frame, hu]
  · exact (h.part Core.store (fun _ => rfl) k).trans (part_of_caches hc Core.store (fun _ => rfl) k)
  · rw [h.frame, hu]
  · rw [h.frame, hu]
  · rw [h.frame, hu]
  · rw [h.store, ho]
  · have hat : ranksAt u xs k n = ranksAt s xs k n := by simp only [ranksAt, hteam]
    rw [h.flags, raised, raised, hflag, hat]

end

/-! ## A collective's command -/

section
variable {s : State} {core : Nat} {d : Cmd} {o : EOp} (hop : d.op = .coll o)
include hop

theorem exec_register_coll (hc : (s.core core).cmd d.id = some d) : exec (.ownershipRegistration core d.id) s = .next (s.collArrive core d) := by
  have h : exec (.ownershipRegistration core d.id) s = .next (if d.phase != .queued || d.paused.isSome then s else s.collArrive core d) := by
    refine (congrArg Host.Outcome.next ?_ : execOwnershipRegistration core d.id s = _)
    rw [hc]
    simp only [hop]
    rfl
  rw [h]
  split
  · next hq =>
    rw [State.collArrive, if_pos (by rw [hq]; rfl)]
  · rfl

theorem State.collArrive_before (hb : ∃ x ∈ (s.core core).cmds, x.id < d.id ∧ unitOf x.op = 4 ∧ x.begun = false ∧ x.paused = none) :
    s.collArrive core d = s := by
  have he : earlierStarted (s.core core) d = false := by
    rw [← Bool.not_eq_true, earlierStarted_iff, not_not, hop]
    exact hb
  rw [State.collArrive, he]
  simp

theorem collCan_arrive (hq : Holds s core d .queued)
    (hb : ¬∃ x ∈ (s.core core).cmds, x.id < d.id ∧ unitOf x.op = 4 ∧ x.begun = false ∧ x.paused = none) :
    (d.phase != .queued || d.paused.isSome || !earlierStarted (s.core core) d) = false := by
  have he : earlierStarted (s.core core) d = true := by
    rw [earlierStarted_iff, hop]
    exact hb
  obtain ⟨-, hph, hpa⟩ := hq
  rw [hph, hpa, he]
  rfl

theorem exec_collTimeout (hc : (s.core core).cmd d.id = some d) (hph : d.phase = .started) : exec (.collectiveTimeout core d.id) s =
    .next (if (collDesc d.desc).tmo ≠ 0 ∧ d.due ≤ s.now ∧ 
      collArrived (collRanks s (collDesc d.desc).id (collDesc d.desc).seq) = false then s.finishCmd core d true else s) := by
  refine (congrArg Host.Outcome.next ?_ : execCollectiveTimeout core d.id s = _)
  rw [hc]
  simp only [hop, hph]
  exact if_congr (by simp [isColl, and_assoc]) rfl rfl

end

/-! ## What a rank reads (R324) -/

/-- Entry `k` of a communicator table. -/
def tableEntry (es : List Byte) (k : Nat) : Nat := descNum es (8 * k) 8

/-- Do the address of a descriptor, its table or the rank's entry break R324? -/
def TableBroken (a : DWord) (die : Nat) (b0 b1 es : List Byte) : Prop :=
  a.toNat % 64 ≠ 0 ∨ descNum b1 4 4 < 2 ∨ 4096 < descNum b1 4 4 ∨ descNum b1 8 8 ≠ 0 ∨ (∃ k < descNum b1 4 4, 2 ^ 12 ≤ tableEntry es k) ∨
    tableEntry es (descNum b0 0x20 4) % 1024 ≠ 0 ∨ tableEntry es (descNum b0 0x20 4) / 1024 ≠ die

/-- The entries of a table as the model cuts them. -/
def tableCut (es : List Byte) : List (List Byte) := (List.range (es.length / 8)).map (fun k => (es.drop (8 * k)).take 8)

theorem descNum_cut (es : List Byte) (k : Nat) : descNum ((es.drop (8 * k)).take 8) 0 8 = tableEntry es k := by
  rw [descNum, List.drop_zero, List.take_take, Nat.min_self, tableEntry, descNum]

theorem descNum_tableCut {es : List Byte} {n : Nat} (h : es.length = 8 * n) (k : Nat) : descNum ((tableCut es).getD k []) 0 8 = tableEntry es k := by
  have hl : es.length / 8 = n := by omega
  rw [tableCut, hl]
  by_cases hk : k < n
  · rw [List.getD_eq_getElem _ _ (by simpa using hk), List.getElem_map, List.getElem_range, descNum_cut]
  · rw [List.getD_eq_default _ _ (by simpa using Nat.le_of_not_lt hk), tableEntry, descNum, descNum, List.drop_eq_nil_of_le (as := es) (by omega)]
    rfl

/-- The model's byte of a broken table. -/
def tableBad (a : DWord) (die : Nat) (b0 b1 es : List Byte) : Bool :=
  let e := descNum ((tableCut es).getD (descNum b0 0x20 4) []) 0 8
  a.toNat % 64 != 0 || !rankCountOk (descNum b1 4 4) || descNum b1 8 8 != 0 || !(tableCut es).all commEntryOk || e % 1024 != 0 || e / 1024 % 4 != die

theorem tableBad_iff {a : DWord} {die : Nat} {b0 b1 es : List Byte} (he : rankCountOk (descNum b1 4 4) = true → es.length = 8 * descNum b1 4 4) :
    tableBad a die b0 b1 es = true ↔ TableBroken a die b0 b1 es := by
  by_cases hr : rankCountOk (descNum b1 4 4) = true
  · have hl := he hr
    obtain ⟨h2, h3⟩ := rankCountOk_iff.mp hr
    have hall : (tableCut es).all commEntryOk = true ↔ ∀ k < descNum b1 4 4, tableEntry es k < 2 ^ 12 := by
      have hl' : es.length / 8 = descNum b1 4 4 := by omega
      rw [tableCut, hl', List.all_eq_true]
      simp only [List.mem_map, List.mem_range, forall_exists_index, and_imp, forall_apply_eq_imp_iff₂, commEntryOk, descNum_cut, decide_eq_true_eq]
    have hdie (hk : ∀ k < descNum b1 4 4, tableEntry es k < 2 ^ 12) :
        tableEntry es (descNum b0 0x20 4) / 1024 % 4 = tableEntry es (descNum b0 0x20 4) / 1024 := by
      by_cases hlt : descNum b0 0x20 4 < descNum b1 4 4
      · have := hk _ hlt
        omega
      · rw [tableEntry, descNum, List.drop_eq_nil_of_le (by omega)]
        rfl
    simp only [tableBad, descNum_tableCut hl, hr, TableBroken, Bool.or_eq_true, bne_iff_ne, Bool.not_eq_true', ← Bool.not_eq_true, hall, not_true_eq_false,
      or_false, not_forall, not_lt, exists_prop]
    by_cases hk : ∀ k < descNum b1 4 4, tableEntry es k < 2 ^ 12
    · rw [hdie hk]
      have h2' : ¬descNum b1 4 4 < 2 := by omega
      have h3' : ¬4096 < descNum b1 4 4 := by omega
      simp only [h2', h3', false_or, or_assoc]
    · have hex : ∃ k < descNum b1 4 4, 2 ^ 12 ≤ tableEntry es k := by simpa using hk
      simp only [hex, true_or, or_true]
  · have hn : descNum b1 4 4 < 2 ∨ 4096 < descNum b1 4 4 := by
      rw [rankCountOk_iff] at hr
      omega
    simp only [tableBad, Bool.not_eq_true _ ▸ hr, TableBroken, Bool.not_false, Bool.or_true, Bool.true_or, true_iff]
    exact .inr (hn.elim .inl (fun h => .inr (.inl h)))

section
variable {s : State} {d : Cmd} {die : Nat} {b0 b1 es : List Byte} {p0 p1 p2 : Bool}
  (h0 : seqRead s d false d.a 64 = .ok (b0, p0))
  (h1 : seqRead s d false (BitVec.ofNat 64 (descNum b0 0x10 8)) 16 = .ok (b1, p1))
  (h2 : if 2 ≤ descNum b1 4 4 ∧ descNum b1 4 4 ≤ 4096 then seqRead s d false (BitVec.ofNat 64 (descNum b0 0x10 8) + 16) (8 * descNum b1 4 4) = .ok (es, p2)
    else es = [])
include h0 h1 h2

omit h0 h1 in
theorem table_length (hr : rankCountOk (descNum b1 4 4) = true) : es.length = 8 * descNum b1 4 4 := by
  rw [if_pos (rankCountOk_iff.mp hr)] at h2
  exact length_seqRead h2

theorem collRead_eq : collRead s d die = .ok (b0 ++ b1 ++ [if tableBad d.a die b0 b1 es then 1#8 else 0#8],
    (List.range (es.length / 8)).map (fun k => tableEntry es k % 1024)) := by
  have hpk : (tableCut es).map (fun b => descNum b 0 8 % 1024) = (List.range (es.length / 8)).map (fun k => tableEntry es k % 1024) := by
    rw [tableCut, List.map_map]
    exact List.map_congr_left (fun k _ => by rw [Function.comp, descNum_cut])
  rw [← hpk]
  simp only [collRead, bind, Except.bind, pure, Except.pure, h0, h1]
  by_cases hr : rankCountOk (descNum b1 4 4) = true
  · rw [if_pos (rankCountOk_iff.mp hr)] at h2
    simp only [hr, if_true, h2, tableBad, tableCut]
  · rw [if_neg (mt rankCountOk_iff.mpr hr)] at h2
    simp only [Bool.not_eq_true _ ▸ hr, Bool.false_eq_true, if_false, h2, tableBad, tableCut]

end

theorem CollDesc.dstBytes_eq (c : CollDesc) : c.dstBytes =
    (if c.op = 1 then c.count / c.nr else if c.op = 2 then c.nr * c.count else c.count) * (if c.ty = 1 then 2 else 4) := by
  have hs : c.size = if c.ty = 1 then 2 else 4 := if_congr beq_iff_eq rfl rfl
  rw [← hs, CollDesc.dstBytes]
  by_cases h1 : c.op = 1
  · simp only [h1, if_true]
  · by_cases h2 : c.op = 2
    · simp [h2]
    · rw [if_neg h1, if_neg h2]
      split
      · next h => exact absurd h h1
      · next h => exact absurd h h2
      · rfl

/-- What the engine sees in a descriptor and its table. -/
theorem collDesc_read {b0 b1 : List Byte} (h0 : b0.length = 64) (h1 : b1.length = 16) (z : Byte) :
    let c := collDesc (b0 ++ b1 ++ [z])
    let num (off : Nat) : Nat := descNum b0 off 4
    c.dst = BitVec.ofNat 64 (descNum b0 8 8) ∧ c.tmo = num 0x28 ∧
      c.dstBytes = (if num 0x1C % 8 = 1 then num 0x18 / descNum b1 4 4 else if num 0x1C % 8 = 2 then descNum b1 4 4 * num 0x18 else num 0x18) *
        (if num 0x1C / 64 % 16 = 1 then 2 else 4) ∧
      (c.bad = true ↔ z ≠ 0#8 ∨ num 0x18 = 0 ∨ 2 ^ 28 < num 0x18 ∨ 3 < num 0x1C % 8 ∨ 2 < num 0x1C / 8 % 8 ∨ 3 < num 0x1C / 64 % 16 ∨ 2 ^ 10 ≤ num 0x1C ∨
        descNum b1 4 4 ≤ num 0x20 ∨ descNum b0 0x30 16 ≠ 0 ∨ (num 0x1C % 8 = 3 ∧ descNum b1 4 4 ≤ num 0x2C) ∨
        (num 0x1C % 8 = 1 ∧ num 0x18 % descNum b1 4 4 ≠ 0)) := by
  intro c num
  have hb (off n : Nat) (h : off + n ≤ 64) : descNum (b0 ++ b1 ++ [z]) off n = descNum b0 off n := by
    rw [descNum_append_left (by rw [List.length_append]; omega), descNum_append_left (by omega)]
  have hnr : descNum (b0 ++ b1 ++ [z]) 0x44 4 = descNum b1 4 4 := by
    rw [descNum_append_left (by rw [List.length_append]; omega), descNum_append_right (off' := 4) (by omega)]
  have hz : descNum (b0 ++ b1 ++ [z]) 0x50 1 = z.toNat := by
    rw [descNum_append_right (off' := 0) (by rw [List.length_append]; omega)]
    show z.toNat + 256 * 0 = _
    omega
  have hz0 : z ≠ 0#8 ↔ z.toNat ≠ 0 := not_congr ⟨fun h => by rw [h]; rfl, fun h => BitVec.eq_of_toNat_eq (by rw [h]; rfl)⟩
  refine ⟨?_, ?_, ?_, ?_⟩
  · simp only [c, collDesc, hb 8 8 (by omega)]
  · simp only [c, collDesc, hb 0x28 4 (by omega)]; rfl
  · have hop : c.op = num 0x1C % 8 := by simp only [c, collDesc, hb 0x1C 4 (by omega)]; rfl
    have hty : c.ty = num 0x1C / 64 % 16 := by simp only [c, collDesc, hb 0x1C 4 (by omega)]; rfl
    have hcount : c.count = num 0x18 := by simp only [c, collDesc, hb 0x18 4 (by omega)]; rfl
    have hranks : c.nr = descNum b1 4 4 := hnr
    rw [CollDesc.dstBytes_eq, hop, hty, hcount, hranks]
  · simp only [c, collDesc, hb 0x18 4 (by omega), hb 0x1C 4 (by omega), hb 0x20 4 (by omega), hb 0x2C 4 (by omega), hb 0x30 16 (by omega), hnr, hz, hz0]
    simp only [Bool.or_eq_true, Bool.and_eq_true, beq_iff_eq, bne_iff_ne, decide_eq_true_eq, or_assoc]
    tauto

/-! ## Arrival -/

theorem noPathTo_none {s : State} (h : lostLinks s = []) (p : Nat) : noPathTo s p = false := by
  rw [noPathTo, h]
  simp

/-- The lines that an arriving rank holds. -/
def collLines (s : State) (core : Nat) (d : Cmd) (c : CollDesc) : Except EFail (List Nat) :=
  if c.bad then .ok []
  else
    match engineReach s core d.cid .engineWrite (runPieces c.dst c.dstBytes) with
    | .ok ps => .ok (ownedLines ps)
    | .error e => .error e

/-- A rank that has read its descriptor holds its lines, or cannot. -/
def State.rankArrives (s : State) (core : Nat) (d : Cmd) (bs : List Byte) (pkgs : List Nat) (lines : Except EFail (List Nat)) : State :=
  match lines with
  | .error e => s.cmdFail core d e none
  | .ok ls =>
    let r := s.settleLines core ls
    if !r.2 then s
    else
      (r.1.own core d.id d.order ls).onCmd core d.id (fun y =>
        { y with phase := .started, desc := bs, aux := pkgs, due := s.now + 1024 * (collDesc bs).tmo })

section
variable {s : State} {core : Nat} {d : Cmd} (hq : (d.phase != .queued || d.paused.isSome || !earlierStarted (s.core core) d) = false)
include hq

theorem State.collArrive_noPath {bs : List Byte} {pkgs : List Nat} (hr : collRead s.flushStashes d (dieOfCore core) = .ok (bs, pkgs))
    (hp : ∃ p ∈ pkgs, noPathTo s p = true) : s.collArrive core d = s.finishCmd core d true := by
  rw [State.collArrive]
  refine (if_neg (by rw [hq]; exact Bool.false_ne_true)).trans ?_
  rw [hr]
  exact if_pos (List.any_eq_true.mpr hp)

variable (hs : NoStash s)
include hs

theorem State.collArrive_unread {e : EFail} (hr : collRead s d (dieOfCore core) = .error e) : s.collArrive core d = s.cmdFail core d e none := by
  rw [State.collArrive]
  refine (if_neg (by rw [hq]; exact Bool.false_ne_true)).trans ?_
  rw [State.flushStashes_none hs.1, hr]

variable {bs : List Byte} {pkgs : List Nat} (hr : collRead s d (dieOfCore core) = .ok (bs, pkgs))
include hr

theorem State.collArrive_read : s.collArrive core d = s.rankArrives core d bs pkgs (collLines s core d (collDesc bs)) := by
  rw [State.collArrive]
  refine (if_neg (by rw [hq]; exact Bool.false_ne_true)).trans ?_
  rw [State.flushStashes_none hs.1, hr]
  refine (if_neg ?_).trans rfl
  rw [List.any_eq_true]
  rintro ⟨p, -, hp⟩
  rw [noPathTo_none hs.2] at hp
  cases hp

theorem State.collArrive_unreached {e : EFail} (hl : collLines s core d (collDesc bs) = .error e) : s.collArrive core d = s.cmdFail core d e none := by
  rw [State.collArrive_read hq hs hr, hl]
  rfl

theorem State.collArrive_held (hst : (s.core core).caches.stores = []) (hwc : (s.core core).caches.wc = []) {ls : List Nat}
    (hl : collLines s core d (collDesc bs) = .ok ls) :
    s.collArrive core d = (s.own core d.id d.order ls).onCmd core d.id
      (fun y => { y with phase := .started, desc := bs, aux := pkgs, due := s.now + 1024 * (collDesc bs).tmo }) := by
  have hset : s.settleLines core ls = (s, true) := by
    rw [State.settleLines, hst, hwc]
    rfl
  rw [State.collArrive_read hq hs hr, hl, State.rankArrives]
  simp only [hset]
  rfl

end

/-- A command ends with ERR, having written nothing (R303). -/
theorem State.finishCmd_errs {s : State} {core : Nat} {d : Cmd} (hcut : s.store.cut = []) (hf : (flagField d.op).isSome = true) :
    MemoryKept s (s.finishCmd core d true) ∧ CommandEnds s (s.finishCmd core d true) core d ∧ FlagDone s (s.finishCmd core d true) core d true := by
  obtain ⟨hl, hfl, hsto⟩ := State.finishCmd_ends hcut core d true (.inl hf)
  rw [Bool.or_true] at hfl
  have hends := CmdLeaves.ends hl hsto
  obtain ⟨-, hframe, hstore, -⟩ := hl
  exact ⟨MemoryKept.of_stores (by rw [hstore]) (fun k => by rw [hsto]) (by rw [hframe]), hends, hfl⟩

/-- A command that its queue has just accepted is found by its number. -/
theorem Commanded.holds {s u : State} {c : Issue} {site : Site} {i : Instr} {f : Cmd → Cmd} (h : Commanded s u c site i f)
    (hfresh : ∀ y ∈ (s.core (coreOf c.who)).cmds, y.id ≠ (s.core (coreOf c.who)).nextCmd)
    (hid : (f (newCmd s c site i)).id = (s.core (coreOf c.who)).nextCmd) :
    (u.core (coreOf c.who)).cmd (s.core (coreOf c.who)).nextCmd = some (f (newCmd s c site i)) := by
  rw [h.2.2]
  show List.find? _ (_ ++ [f (newCmd s c site i)]) = _
  rw [List.find?_append, List.find?_eq_none.mpr (fun y hy => by simpa using hfresh y hy)]
  simp [hid]

end Sys2Proof.Machine

namespace Sys2Proof
open Machine

/-- Settles O34, with the ranks' ends one after another and the tree of R325 by its splits. -/
theorem collectives : Obligations.Collectives := by
  unfold Obligations.Collectives
  refine ⟨fun o s c h hg hfresh => ?_, fun core d o s hh hop => ?_, fun comm seq s => ?_, fun x srcs rank => ⟨fun h => collResult_gather h _ _,
    fun h => collResult_broadcast h _ _, fun h h1 h2 hr ht hcl => ?_⟩, fun core d o s hh hop => ?_⟩
  · have hcom := State.queued_commanded s c o.at' (.coll o) (fun d => { d with a := c.sval o.a })
    have hcmd := hcom.holds hfresh rfl
    refine State.accept_queues h.1 hg (congrArg Host.Outcome.next (State.laneOp_plain h _)) rfl rfl ⟨_, hcom, ?_⟩
    exact exec_register_coll (d := { newCmd s c o.at' (.coll o) with a := c.sval o.a }) rfl hcmd
  · intro before
    obtain ⟨hc, hph, hpa⟩ := id hh
    have hex := exec_register_coll hop hc
    refine ⟨fun hb => by rw [hex, State.collArrive_before hop hb], fun hb bs pkgs hr hp hcut hf => ?_, fun hb hs hst hwc => ⟨fun va f k hr hrpl => ?_, ?_⟩⟩
    · refine ⟨_, hex, ?_⟩
      rw [State.collArrive_noPath (collCan_arrive hop hh hb) hr hp]
      exact State.finishCmd_errs hcut hf
    · refine ⟨_, hex, ?_⟩
      rw [State.collArrive_unread (collCan_arrive hop hh hb) hs hr]
      exact State.cmdFail_pauses hc va k hrpl none
    · intro b0 b1 es p0 p1 p2 h0 comm h1 nr h2 num op ty entry dst table broken size
      have hbad : tableBad d.a (dieOfCore core) b0 b1 es = true ↔ table := tableBad_iff (table_length h2)
      have hread := collRead_eq (die := dieOfCore core) h0 h1 h2
      generalize hz : (if tableBad d.a (dieOfCore core) b0 b1 es = true then 1#8 else 0#8) = z at hread
      have hz1 : table ↔ z = 1#8 := by
        rw [← hz, ← hbad]
        split
        · next h => simp [h]
        · next h => simp [Bool.not_eq_true _ ▸ h]
      have hz0 : ¬table ↔ z = 0#8 := by
        rw [← hz, ← hbad]
        split
        · next h => simp [h]
        · next h => simp [Bool.not_eq_true _ ▸ h]
      obtain ⟨hdst, htmo, hbytes, hb'⟩ := collDesc_read (length_seqRead h0) (length_seqRead h1) z
      have hbroken : (collDesc (b0 ++ b1 ++ [z])).bad = true ↔ broken := by
        rw [hb', ne_eq, ← hz0, not_not]
      refine ⟨z, hz1, hz0, fun ps hps => ?_, fun va f k hnb hreach hrpl => ?_⟩
      · have hlines : collLines s core d (collDesc (b0 ++ b1 ++ [z])) = .ok (ownedLines ps) := by
          rw [collLines, hdst, hbytes]
          obtain ⟨hbr, rfl⟩ | ⟨hnb, hps⟩ := hps
          · rw [if_pos (hbroken.mpr hbr)]
            rfl
          · rw [if_neg (mt hbroken.mp hnb), hps]
        refine ⟨_, hex, ?_⟩
        rw [State.collArrive_held (collCan_arrive hop hh hb) hs hread hst hwc hlines, htmo]
        exact State.own_held hs.1 core d.id d.order (ownedLines ps) _
      · have hlines : collLines s core d (collDesc (b0 ++ b1 ++ [z])) = .error (.fault va f k) := by
          rw [collLines, hdst, hbytes, if_neg (mt hbroken.mp hnb), hreach]
        refine ⟨_, hex, ?_⟩
        rw [State.collArrive_unreached (collCan_arrive hop hh hb) hs hread hlines]
        exact State.cmdFail_pauses hc va k hrpl none
  · intro xs full mine ends
    have hex : exec (.collectiveComplete comm seq) s = .next (if collFull xs then s.collComplete xs else s) := rfl
    have hcoll := collRanks_coll (s := s) (comm := comm) (seq := seq)
    refine ⟨fun hn => by rw [hex, if_neg (mt collFull_iff.mp hn)], fun hf hs hq hx a rest hxs => ?_⟩
    obtain ⟨hpo, hcut, -⟩ := hq
    rw [if_pos (collFull_iff.mpr hf)] at hex
    have hsig (x : Rank) (hm : x ∈ a :: rest) : x.Signals s := by
      rw [← hxs] at hm
      obtain ⟨h1, h2, h3⟩ := hx x hm
      exact ⟨hcoll x hm, h1, h2, h3⟩
    intro nr agree sound
    refine ⟨fun hn => ⟨_, hex, ?_⟩, fun hsd ps hps hdis hnd => ?_⟩
    · have hn' : ¬RanksSound a (a :: rest) := by rw [← hxs]; exact hn
      have h := State.collEnd_ends hcut hsig (err := fun _ => true) (e := true) (fun _ _ => rfl)
      rw [hxs, State.collComplete_unsound hn']
      rw [← hxs] at h ⊢
      exact ⟨h.memoryKept, h.done rfl (fun _ => rfl) rfl⟩
    · intro srcs
      have hsd' : RanksSound a (a :: rest) := by rw [← hxs]; exact hsd
      have hsrcs : cleanSrcs s ps nr = srcs := collSrcs_eq ps nr _
      have hcl : ∀ b ∈ srcs.flatten, b.2 = false := by
        rw [← hsrcs]
        exact collSrcs_clean (fun _ => rfl)
      have hnd' : ((collWrites ps srcs).map Prod.fst).Nodup := (collWrites_places ps srcs).nodup hnd
      obtain ⟨hwr, huf, hust, huc, -, -, -, -⟩ := State.dieWrite_wrote hs (collWrites_clean hcl) hnd'
      rw [hxs] at hps
      have hcomp := State.collComplete_sound hsd' hs hpo hps hdis
      rw [show cleanSrcs s ps a.2.2.nr = srcs from hsrcs, ← hxs] at hcomp
      rw [hcomp] at hex
      generalize s.dieWrite (collWrites ps srcs) = u at *
      refine ⟨_, hex, ?_⟩
      have hucut : u.store.cut = [] := 
        (eq_of_without (fun m : Store => { m with mem := [], poison := [], replicas := [] }) Store.cut (fun _ => rfl) hust).trans hcut
      have husig (x : Rank) (hm : x ∈ xs) : x.Signals u := (hsig x (hxs ▸ hm)).of_caches huc
      have h := State.collEnd_ends hucut husig (err := collBad ps srcs) (e := false) (fun x _ => collBad_clean hcl x.2.2)
      have huown : u.store.owners = s.store.owners :=
        eq_of_without (fun m : Store => { m with mem := [], poison := [], replicas := [] }) Store.owners (fun _ => rfl) hust
      refine ⟨h.done huf huc huown, fun x hx => ?_, fun p hp => ?_⟩
      · rw [h.store]; exact hwr.1 x hx
      · rw [h.store]; exact hwr.2 p hp
  · refine ⟨collTreeOf x srcs, fun i lo => ?_, fun i lo n j hj hj' hn => collTreeOf_split ht hr srcs i lo hj hj' hn, ?_⟩
    · rw [collTreeOf, collTree_one]
      rfl
    · rw [collResult_reduce h]
      have helem : collElem x srcs = _ := funext (collElem_eq x hcl)
      rw [helem]
  · intro x late
    obtain ⟨hc, hph, -⟩ := id hh
    have hex := exec_collTimeout hop hc hph
    have hlate : (x.tmo ≠ 0 ∧ d.due ≤ s.now ∧ collArrived (collRanks s x.id x.seq) = false) ↔ late := by
      rw [← Bool.not_eq_true, collArrived_iff]
    refine ⟨fun hn => by rw [hex, if_neg (mt hlate.mp hn)], fun hl hcut hf => ⟨_, hex, ?_⟩⟩
    rw [if_pos (hlate.mpr hl)]
    exact State.finishCmd_errs hcut hf

end Sys2Proof
end

section
/-! Reads of engines that do not depend on what cores hold, and commands at a batch-forming queue (R131, R326, R327). -/

namespace Sys2Proof.Machine
open Sys2Proof

/-! ## What translation reads -/

/-- Two machines that differ in their cores only, with no stash line in either: an engine reads the same in both. -/
structure ReadsAlike (s t : State) : Prop where
  frame : t = { s with cores := t.cores }
  left : StashEmpty s
  right : StashEmpty t

namespace ReadsAlike
variable {s t : State} (h : ReadsAlike s t)
include h

theorem tableEntry : t.tableEntry = s.tableEntry := by
  funext a
  rw [State.tableEntry, State.coherentByte_mem h.right, State.tableEntry, State.coherentByte_mem h.left, show t.store = s.store by rw [h.frame]]

theorem walkFrom_eq (cid part va : Nat) (ls : List Nat) (table : Nat) : walkFrom t cid part va ls table = walkFrom s cid part va ls table := by
  have hr : t.rangesOf = s.rangesOf := by rw [h.frame]; rfl
  have hl : leafBad t = leafBad s := by rw [h.frame]; rfl
  induction ls generalizing table with
  | nil => rfl
  | cons l ls ih => simp only [walkFrom, h.tableEntry, hr, hl, ih]

theorem translate_eq (tlb : List TlbEntry) (cid : Nat) (agent : Bool) (va : DWord) (k : AccessKind) :
    translate t tlb cid agent va k = translate s tlb cid agent va k := by
  have hwalk (cid va : Nat) : walk t cid va = walk s cid va := by
    have hc : t.context = s.context := by rw [h.frame]; rfl
    simp only [walk, hc, h.walkFrom_eq]
  have hlook (cid va : Nat) : lookupOrWalk t tlb cid va = lookupOrWalk s tlb cid va := by simp only [lookupOrWalk, hwalk]
  have hats : throughAts t = throughAts s := by rw [h.frame]; rfl
  simp only [translate, findEntry, hlook, hats]

theorem engineReachTlb_eq (tlb : List TlbEntry) (cid : Nat) (k : AccessKind) (ps : List (DWord × Nat)) :
    engineReachTlb t tlb cid k ps = engineReachTlb s tlb cid k ps := by
  induction ps with
  | nil => rfl
  | cons p ps ih =>
    obtain ⟨va, n⟩ := p
    simp only [engineReachTlb, h.translate_eq, ih]

variable {d : Cmd} (hd : isSeqOp d.op = false)
include hd

theorem heldFor_eq : t.heldFor d = s.heldFor d := by
  funext l
  have hno (u : State) (unit cmd : Nat) : ((u.core unit).cmds.any (fun x => x.id == cmd && sharesClaim x d)) = false := by
    simp [sharesClaim, hd]
  simp only [State.heldFor, hno, show t.store = s.store by rw [h.frame]]

theorem seqReach_eq (k : AccessKind) (kv : Bool) (va : DWord) (n : Nat) : seqReach t d k kv va n = seqReach s d k kv va n := by
  have htlb : cmdTlb t d = cmdTlb s d := by rw [h.frame]; rfl
  simp only [seqReach, h.engineReachTlb_eq, h.heldFor_eq hd, htlb]

theorem seqBytes_eq (kv : Bool) (va : DWord) (n : Nat) : seqBytes t d kv va n = seqBytes s d kv va n := by
  have hp : t.isPoisoned = s.isPoisoned := by rw [h.frame]; rfl
  simp only [seqBytes, h.seqReach_eq hd, hp, show t.store = s.store by rw [h.frame]]

theorem seqRead_eq (kv : Bool) (va : DWord) (n : Nat) : seqRead t d kv va n = seqRead s d kv va n := by
  simp only [seqRead, h.seqBytes_eq hd]

theorem seqWrites_eq (ws : List SeqWrite) : seqWrites t d ws = seqWrites s d ws := by
  induction ws with
  | nil => rfl
  | cons w ws ih =>
    obtain ⟨va, bs, kv⟩ := w
    simp only [seqWrites, h.seqReach_eq hd, ih]

end ReadsAlike

/-! ## The commands that a queue serves -/

/-- The only command that waits at a queue of a die, wherever one is listed, is that of a core with a number. -/
def Serves (core id die q : Nat) (s : State) : Prop :=
  ∀ p ∈ s.cores, ∀ y ∈ p.2.cmds, isBfq y.op = true → bfqField y.op = q → dieOfCore p.1 = die → y.phase = .started → y.paused = none → p.1 = core ∧ y.id = id

theorem Serves.from {core id die q : Nat} {s t : State} (h : Serves core id die q s) (hc : CmdsFrom s t) : Serves core id die q t := by
  intro p hp y hy
  obtain ⟨c, hc, hy⟩ := hc p hp y hy
  exact h _ hc y hy

theorem mem_bfqInsert {x : Nat × Cmd} (p : Nat × Cmd) : ∀ {l : List (Nat × Cmd)}, p ∈ bfqCmds.insert x l ↔ p = x ∨ p ∈ l
  | [] => by rw [bfqCmds.insert, List.mem_singleton]; simp
  | y :: ys => by
    rw [bfqCmds.insert]
    split
    · exact List.mem_cons
    · rw [List.mem_cons, mem_bfqInsert p, List.mem_cons]
      exact or_left_comm

theorem mem_bfqCmds {s : State} {die q : Nat} {p : Nat × Cmd} : p ∈ bfqCmds s die q ↔
    (∃ c, (p.1, c) ∈ s.cores ∧ p.2 ∈ c.cmds) ∧ isBfq p.2.op = true ∧ p.2.phase = .started ∧ p.2.paused = none ∧ dieOfCore p.1 = die ∧ bfqField p.2.op = q := by
  have hsort (xs : List (Nat × Cmd)) : p ∈ xs.foldr bfqCmds.insert [] ↔ p ∈ xs := by
    induction xs with
    | nil => rfl
    | cons x xs ih => rw [List.foldr_cons, mem_bfqInsert, ih, List.mem_cons]
  have hall : p ∈ allCmds s ↔ ∃ c, (p.1, c) ∈ s.cores ∧ p.2 ∈ c.cmds := by
    simp only [allCmds, List.mem_flatMap, List.mem_map]
    constructor
    · rintro ⟨⟨k, c⟩, hc, y, hy, rfl⟩
      exact ⟨c, hc, hy⟩
    · rintro ⟨c, hc, hy⟩
      exact ⟨(p.1, c), hc, p.2, hy, rfl⟩
  rw [bfqCmds, hsort, List.mem_filter, hall]
  simp only [Bool.and_eq_true, beq_iff_eq, Option.isNone_iff_eq_none, and_assoc]

/-- The command of a core with a number tried at a queue. -/
def State.tryCmd (s : State) (core id die q : Nat) : State :=
  match (s.core core).cmd id with
  | some d => s.bfqStep core die q d
  | none => s

theorem State.tryCmd_some {s : State} {core id : Nat} {d : Cmd} (h : (s.core core).cmd id = some d) (die q : Nat) :
    s.tryCmd core id die q = s.bfqStep core die q d := by rw [State.tryCmd, h]

theorem State.tryCmd_none {s : State} {core id : Nat} (h : (s.core core).cmd id = none) (die q : Nat) : s.tryCmd core id die q = s := by
  rw [State.tryCmd, h]

theorem bfqServe_succ (s : State) (die q n : Nat) : s.bfqServe die q (n + 1) =
    ((bfqCmds s die q).foldl (fun s p => s.tryCmd p.1 p.2.id die q) s).bfqServe die q n := rfl

section
variable {core id die q : Nat}

theorem State.tryAll_once {xs : List (Nat × Cmd)} (hx : ∀ p ∈ xs, p.1 = core ∧ p.2.id = id) {s : State} (hne : xs ≠ [])
    (hfix : (s.tryCmd core id die q).tryCmd core id die q = s.tryCmd core id die q) :
    xs.foldl (fun s p => s.tryCmd p.1 p.2.id die q) s = s.tryCmd core id die q := by
  cases xs with
  | nil => exact absurd rfl hne
  | cons x xs =>
    obtain ⟨h1, h2⟩ := hx x (.head _)
    rw [List.foldl_cons, h1, h2]
    refine foldl_keeps _ _ _ (fun p hp => ?_)
    obtain ⟨h1, h2⟩ := hx p (.tail _ hp)
    rw [h1, h2]
    exact hfix

theorem Serves.listed {s : State} (h : Serves core id die q s) : ∀ p ∈ bfqCmds s die q, p.1 = core ∧ p.2.id = id := by
  intro p hp
  obtain ⟨⟨c, hc, hy⟩, h1, h2, h3, h4, h5⟩ := mem_bfqCmds.mp hp
  exact h _ hc _ hy h1 h5 h4 h2 h3

theorem State.bfqServe_idle {s : State} (h : Serves core id die q s) (hfix : s.tryCmd core id die q = s) (n : Nat) : s.bfqServe die q n = s := by
  induction n with
  | zero => rfl
  | succ n ih =>
    rw [bfqServe_succ, foldl_keeps _ s _ (fun p hp => ?_), ih]
    obtain ⟨h1, h2⟩ := h.listed p hp
    rw [h1, h2, hfix]

/-- A queue at which one command waits serves it; another try finds nothing more to do. -/
theorem State.bfqServe_once {s : State} (h : Serves core id die q s) {d : Cmd} (hc : (s.core core).cmd id = some d) (hop : isBfq d.op = true)
    (hph : d.phase = .started) (hpa : d.paused = none) (hdie : dieOfCore core = die) (hq : bfqField d.op = q)
    (ht : Serves core id die q (s.bfqStep core die q d)) (hfix : (s.bfqStep core die q d).tryCmd core id die q = s.bfqStep core die q d) (n : Nat) :
    s.bfqServe die q (n + 1) = s.bfqStep core die q d := by
  have hm : d ∈ (s.core core).cmds := List.mem_of_find?_eq_some hc
  have hne : bfqCmds s die q ≠ [] := List.ne_nil_of_mem (a := (core, d)) (mem_bfqCmds.mpr ⟨⟨_, State.mem_cmds hm, hm⟩, hop, hph, hpa, hdie, hq⟩)
  have htry := State.tryCmd_some hc die q
  rw [bfqServe_succ, State.tryAll_once h.listed hne (by rw [htry, hfix]), htry, State.bfqServe_idle ht hfix]

end

/-! ## What a command at its queue leaves unchanged -/

/-- Besides memory, copies of lines in L1s and replicas, the wakes of islands, flags and the dies, only the commands of a core with one number have changed. -/
structure AtQueue (core id : Nat) (s u : State) : Prop where
  frame : u = { s with cores := u.cores, store := u.store, plat := u.plat, dies := u.dies }
  plat : { u.plat with islands := [] } = { s.plat with islands := [] }
  store : { u.store with mem := [], poison := [], replicas := [] } = { s.store with mem := [], poison := [], replicas := [] }
  cores : ∀ k, { u.core k with caches := {}, cmds := [], flags := [] } = { s.core k with caches := {}, cmds := [], flags := [] }
  caches : ∀ k, { (u.core k).caches with l1 := [], l1own := [] } = { (s.core k).caches with l1 := [], l1own := [] }
  rest : (u.core core).cmds.filter (fun y => y.id != id) = (s.core core).cmds.filter (fun y => y.id != id)
  others : ∀ k ≠ core, (u.core k).cmds = (s.core k).cmds

namespace AtQueue
variable {core id : Nat} {s u : State}

theorem refl (core id : Nat) (s : State) : AtQueue core id s s := ⟨rfl, rfl, rfl, fun _ => rfl, fun _ => rfl, rfl, fun _ _ => rfl⟩

theorem trans {t : State} (h : AtQueue core id s u) (h' : AtQueue core id u t) : AtQueue core id s t where
  frame := by rw [h'.frame, h.frame]
  plat := h'.plat.trans h.plat
  store := h'.store.trans h.store
  cores k := (h'.cores k).trans (h.cores k)
  caches k := (h'.caches k).trans (h.caches k)
  rest := h'.rest.trans h.rest
  others k hk := (h'.others k hk).trans (h.others k hk)

theorem onCmd (core id : Nat) (s : State) {f : Cmd → Cmd} (hf : ∀ x ∈ (s.core core).cmds, (f x).id = id ∨ (f x).id = x.id) :
    AtQueue core id s (s.onCmd core id f) := by
  refine ⟨rfl, rfl, rfl, fun k => ?_, fun k => ?_, ?_, fun k hk => ?_⟩
  · rw [State.onCmd_core]
    split <;> rfl
  · rw [State.onCmd_core]
    split <;> rfl
  · rw [State.onCmd_core, if_pos rfl]
    show ((s.core core).cmds.map _).filter _ = _
    generalize (s.core core).cmds = l at hf
    induction l with
    | nil => rfl
    | cons x l ih =>
      have ih := ih (fun y hy => hf y (.tail _ hy))
      rw [List.map_cons, List.filter_cons, List.filter_cons, ih]
      by_cases hx : x.id = id
      · have hfx : (f x).id = id := (hf x (.head _)).elim (fun h => h) (fun h => h.trans hx)
        simp [hx, hfx]
      · simp [hx]
  · rw [State.onCmd_core, if_neg hk]

theorem onBfq (core id : Nat) (s : State) (die q : Nat) (f : Bfq → Bfq) : AtQueue core id s (s.onBfq die q f) :=
  ⟨rfl, rfl, rfl, fun _ => rfl, fun _ => rfl, rfl, fun _ _ => rfl⟩

theorem onFlag (core id : Nat) (s : State) (k n : Nat) (f : Flag → Flag) : AtQueue core id s (s.onFlag k n f) := by
  have hpart {α : Type} (p : Core → α) (hp : ∀ c : Core, ∀ x, p { c with flags := x } = p c) (j : Nat) : p ((s.onFlag k n f).core j) = p (s.core j) :=
    State.core_onCore_of p s k _ (hp _ _) j
  refine ⟨rfl, rfl, rfl, hpart (fun c => { c with caches := {}, cmds := [], flags := [] }) (fun _ _ => rfl),
    hpart (fun c => { c.caches with l1 := [], l1own := [] }) (fun _ _ => rfl), ?_, fun j _ => hpart Core.cmds (fun _ _ => rfl) j⟩
  rw [hpart Core.cmds (fun _ _ => rfl)]

theorem dieWrite (core id : Nat) {s : State} (h : NoStash s) {ws : List (Nat × Byte × Bool)} (hb : ∀ w ∈ ws, w.2.2 = false) (hn : (ws.map Prod.fst).Nodup) :
    AtQueue core id s (s.dieWrite ws) := by
  obtain ⟨-, hf, hst, hc, hca, hp, -, -⟩ := State.dieWrite_wrote h hb hn
  have hcmds (k : Nat) : ((s.dieWrite ws).core k).cmds = (s.core k).cmds := part_of_caches hc Core.cmds (fun _ => rfl) k
  exact ⟨by rw [hf], hp, hst, fun k => congrArg (fun c : Core => { c with cmds := [], flags := [] }) (hc k), hca, by rw [hcmds], fun k _ => hcmds k⟩

theorem part (h : AtQueue core id s u) {α : Type} (p : Core → α) (hp : ∀ c : Core, p { c with caches := {}, cmds := [], flags := [] } = p c) (k : Nat) :
    p (u.core k) = p (s.core k) := eq_of_without _ p hp (h.cores k)

theorem groupOf (h : AtQueue core id s u) (v : Who) : u.groupOf v = s.groupOf v :=
  State.groupOf_of_groups (h.part Core.groups (fun _ => rfl)) (by rw [h.frame]) v

theorem cut (h : AtQueue core id s u) : u.store.cut = s.store.cut :=
  eq_of_without (fun m : Store => { m with mem := [], poison := [], replicas := [] }) Store.cut (fun _ => rfl) h.store

theorem ends {t : State} (h : AtQueue core id s u) {d e : Cmd} (hd : d.id = id) (he : e.id = id) (h' : QueueCommandEnds u t core e) :
    QueueCommandEnds s t core d := by
  obtain ⟨hf, hp, hst, hc, hca, hcm, ho⟩ := h'
  refine ⟨by rw [hf, h.frame], hp.trans h.plat, ?_, fun k => (hc k).trans ?_, fun k => (hca k).trans (h.caches k), ?_, fun k hk => (ho k hk).trans (h.others k hk)⟩
  · have how : u.store.owners = s.store.owners :=
      eq_of_without (fun m : Store => { m with mem := [], poison := [], replicas := [] }) Store.owners (fun _ => rfl) h.store
    rw [he, how] at hst
    rw [hd]
    exact hst.trans (congrArg (fun m : Store => { m with owners := s.store.owners.filter (fun o => !(o.unit == core && o.cmd == id)) }) h.store)
  · exact congrArg (fun c : Core => { c with groups := [], store := {}, rings := [] }) (h.cores k)
  · rw [hcm, he, hd]
    exact h.rest

end AtQueue

/-- A command that leaves its core ends at its queue. -/
theorem CmdLeaves.queueEnds {u t : State} {core : Nat} {e : Cmd} (h : CmdLeaves u t core e) : QueueCommandEnds u t core e := by
  obtain ⟨-, hf, hst, hc, ho, hcm, -⟩ := h
  have part {α : Type} (p : Core → α) (hp : ∀ c : Core, p { c with store := {}, cmds := [], rings := [], flags := [] } = p c) (k : Nat) :
      p (t.core k) = p (u.core k) := eq_of_without _ p hp (hc k)
  refine ⟨by rw [hf], by rw [hf], by rw [hst], fun k => ?_, fun k => ?_, hcm, fun k hk => (ho k hk).2.1⟩
  · exact part (fun c => { c with groups := [], caches := {}, store := {}, cmds := [], rings := [], flags := [] }) (fun _ => rfl) k
  · exact part (fun c => { c.caches with l1 := [], l1own := [] }) (fun _ => rfl) k

/-! ## Queues of a die -/

theorem State.bfq_onBfq (s : State) (die q : Nat) (f : Bfq → Bfq) : QueueBecomes s (s.onBfq die q f) die q (f (s.bfq die q)) := by
  refine ⟨?_, fun n hn => ?_, ?_, fun n hn => ?_⟩
  · rw [State.bfq, State.onBfq, State.die_onDie_same, Sparse.look_upd, if_pos rfl, State.bfq]
  · rw [State.bfq, State.onBfq, State.die_onDie_same, Sparse.look_upd, if_neg hn, State.bfq]
  · rw [State.onBfq, State.die_onDie_same]
  · rw [State.onBfq, State.die_onDie, if_neg hn]

theorem QueueBecomes.of_dies {s u t : State} {die q : Nat} {x : Bfq} (h : QueueBecomes s u die q x) (hd : t.dies = u.dies) : QueueBecomes s t die q x := by
  have hdie (n : Nat) : t.die n = u.die n := congrArg (Sparse.look ({} : Die) n) hd
  have hbfq (n : Nat) : t.bfq die n = u.bfq die n := by rw [State.bfq, State.bfq, hdie]
  obtain ⟨h1, h2, h3, h4⟩ := h
  exact ⟨(hbfq q).trans h1, fun n hn => (hbfq n).trans (h2 n hn), by rw [hdie]; exact h3, fun n hn => (hdie n).trans (h4 n hn)⟩

theorem QueueBecomes.left {s u t : State} {die q : Nat} {x : Bfq} (h : QueueBecomes u t die q x) (hd : u.dies = s.dies) : QueueBecomes s t die q x := by
  have hdie (n : Nat) : u.die n = s.die n := congrArg (Sparse.look ({} : Die) n) hd
  have hbfq (n : Nat) : u.bfq die n = s.bfq die n := by rw [State.bfq, State.bfq, hdie]
  obtain ⟨h1, h2, h3, h4⟩ := h
  exact ⟨h1, fun n hn => (h2 n hn).trans (hbfq n), by rw [← hdie]; exact h3, fun n hn => (h4 n hn).trans (hdie n)⟩

theorem QueueBecomes.refl (s : State) (die q : Nat) : QueueBecomes s s die q (s.bfq die q) := ⟨rfl, fun _ _ => rfl, rfl, fun _ _ => rfl⟩

theorem Sparse.ins_ins {α : Type} (k : Nat) (v : α) : ∀ m : Sparse α, Sparse.ins k v (Sparse.ins k v m) = Sparse.ins k v m
  | [] => by simp [Sparse.ins]
  | (j, x) :: m => by
    rw [Sparse.ins]
    split
    · simp [Sparse.ins]
    · next h1 =>
      split
      · simp [Sparse.ins]
      · next h2 => rw [Sparse.ins, if_neg h1, if_neg h2, Sparse.ins_ins k v m]

/-- What has been stored is stored again without a change. -/
theorem Sparse.put_put {α : Type} [DecidableEq α] (d : α) (k : Nat) (v : α) (m : Sparse α) : Sparse.put d k v (Sparse.put d k v m) = Sparse.put d k v m := by
  unfold Sparse.put
  split
  · rw [List.filter_filter]
    simp
  · exact Sparse.ins_ins k v m

/-- A change that does nothing more the second time is not stored twice. -/
theorem Sparse.upd_upd {α : Type} [DecidableEq α] (d : α) (k : Nat) {f : α → α} (hf : ∀ x, f (f x) = f x) (m : Sparse α) :
    Sparse.upd d k f (Sparse.upd d k f m) = Sparse.upd d k f m := by
  rw [Sparse.upd, Sparse.upd, Sparse.look_put, if_pos rfl, hf, Sparse.put_put]

theorem State.onBfq_onBfq (s : State) (die q : Nat) {f : Bfq → Bfq} (hf : ∀ x, f (f x) = f x) : (s.onBfq die q f).onBfq die q f = s.onBfq die q f := by
  have hd : Sparse.upd ({} : Die) die (fun d => { d with bfqs := Sparse.upd {} q f d.bfqs })
      (Sparse.upd ({} : Die) die (fun d => { d with bfqs := Sparse.upd {} q f d.bfqs }) s.dies) =
      Sparse.upd ({} : Die) die (fun d => { d with bfqs := Sparse.upd {} q f d.bfqs }) s.dies :=
    Sparse.upd_upd _ die (fun x => by rw [Sparse.upd_upd _ q hf]) s.dies
  exact congrArg (fun ds => ({ s with dies := ds } : State)) hd

theorem State.onCmd_onCmd (s : State) (core id : Nat) {f : Cmd → Cmd} (hid : ∀ x, x.id = id → (f x).id = id) (hf : ∀ x, f (f x) = f x) :
    (s.onCmd core id f).onCmd core id f = s.onCmd core id f := by
  have hl (x : Cmd) : (if (if x.id == id then f x else x).id == id then f (if x.id == id then f x else x) else if x.id == id then f x else x) =
      if x.id == id then f x else x := by
    by_cases hx : x.id = id
    · simp [hx, hid x hx, hf]
    · simp [hx]
  have hc := Sparse.upd_upd ({} : Core) core (f := fun c => { c with cmds := c.cmds.map (fun d => if d.id == id then f d else d) })
    (fun x => by rw [List.map_map]; exact congrArg (fun l => ({ x with cmds := l } : Core)) (List.map_congr_left (fun y _ => hl y))) s.cores
  exact congrArg (fun cs => ({ s with cores := cs } : State)) hc

end Sys2Proof.Machine
end

section
/-! Batch-forming queues (R326, R327). -/

namespace Sys2Proof.Machine
open Sys2Proof

/-! ## Issue -/

theorem isBfq_op {i : Instr} (h : isBfq i = true) : (∃ o, i = .bfqpost o) ∨ (∃ o, i = .bfqtake o) ∨ ∃ o, i = .bfqdone o := by
  unfold isBfq at h
  split at h
  · exact .inl ⟨_, rfl⟩
  · exact .inr (.inl ⟨_, rfl⟩)
  · exact .inr (.inr ⟨_, rfl⟩)
  · cases h

theorem isBfq_unit {i : Instr} (h : isBfq i = true) : unitOf i = 4 ∧ isSeqOp i = false := by
  obtain ⟨o, rfl⟩ | ⟨o, rfl⟩ | ⟨o, rfl⟩ := isBfq_op h <;> exact ⟨rfl, rfl⟩

theorem exec_bfqStart {s : State} {core id : Nat} {d : Cmd} (hc : (s.core core).cmd id = some d) (hop : isBfq d.op = true) :
    exec (.engineCommandStart core id) s = .next (s.bfqStart core d) := by
  refine (congrArg Host.Outcome.next ?_ : execEngineCommandStart core id s = _)
  rw [hc]
  simp only [(isBfq_unit hop).1, hop, if_true]

theorem bfqOpen_iff {s : State} {c : Issue} {i : Instr} : bfqOpen s c i = true ↔
    (s.bfq (dieOfCore (coreOf c.who)) (bfqField i)).on = true ∧ (s.bfq (dieOfCore (coreOf c.who)) (bfqField i)).cid = s.cidOf c.who := by
  rw [bfqOpen, Bool.and_eq_true, beq_iff_eq]

/-- A queue's operation issued: its command starts once the issuer's registers await its results (R326, R327). -/
theorem bfq_issue {i : Instr} {site : Site} {f : Cmd → Cmd} {res : List InFlight} {s : State} {c : Issue} {ok : Bool} {g : Cmd → State → State}
    (h : LanesRun s c site []) (hg : isGlen c.who = false) (hfresh : ∀ y ∈ (s.core (coreOf c.who)).cmds, y.id ≠ (s.core (coreOf c.who)).nextCmd)
    (hop : isBfq i = true) (hf : (f (newCmd s c site i)).id = (s.core (coreOf c.who)).nextCmd) (hfo : (f (newCmd s c site i)).op = i)
    (he : exec i s = .next (if !ok then s.illegalOperand site else s.accept c site i f g))
    (hres : ∀ d, ∃ v, g d (s.queued c d) = v.bfqStart (coreOf c.who) d ∧ RegistersBecome (s.queued c d) v c (withResults res)) :
    (ok = false → TrapsWith 0x07 i site s c) ∧
      (ok = true → Queues s c site i 4 16 (fun t => ∃ u v, Commanded s u c site i f ∧ RegistersBecome u v c (withResults res) ∧
        exec (.engineCommandStart (coreOf c.who) (s.core (coreOf c.who)).nextCmd) v = .next t)) := by
  refine ⟨fun hn => TrapsWith.of_illegalOperand h.1 (by rw [he, hn]; rfl), fun hk => ?_⟩
  rw [hk] at he
  have hcom := State.queued_commanded s c site i f
  obtain ⟨v, hv, hrb⟩ := hres (f (newCmd s c site i))
  refine State.accept_queues h.1 hg he (isBfq_unit hop).1 rfl ⟨_, v, hcom, hrb, ?_⟩
  have hcmds : (v.core (coreOf c.who)).cmds = ((s.queued c (f (newCmd s c site i))).core (coreOf c.who)).cmds :=
    eq_of_without (fun c : Core => { c with groups := [] }) Core.cmds (fun _ => rfl) (hrb.1.2.2.1 (coreOf c.who))
  have hcmd : (v.core (coreOf c.who)).cmd (s.core (coreOf c.who)).nextCmd = some (f (newCmd s c site i)) := by
    rw [Core.cmd, hcmds]
    exact Commanded.holds hcom hfresh hf
  rw [hv]
  exact exec_bfqStart hcmd (by rw [hfo]; exact hop)

theorem RegistersBecome.refl (s : State) (c : Issue) : RegistersBecome s s c (withResults []) :=
  ⟨OnlyRegisters.refl _ _, by rw [withResults, List.append_nil]⟩

/-- What BFQTAKE waits for: its count. -/
def takeAwaits (s : State) (o : EOp) : List InFlight :=
  match o.d with
  | .s n => [{ sca := some (n.toNat, 0, false), due := s.now, empties := true, held := true }]
  | _ => []

/-- The issuer's registers wait for a BFQTAKE. -/
def State.awaitTake (s : State) (c : Issue) (o : EOp) : State :=
  match o.d with
  | .s n => s.onGroup c.who (fun g => g.post { sca := some (n.toNat, 0, false), due := s.now, empties := true, held := true })
  | _ => s

theorem State.awaitTake_becomes (s : State) (c : Issue) (o : EOp) : RegistersBecome s (s.awaitTake c o) c (withResults (takeAwaits s o)) := by
  unfold State.awaitTake takeAwaits
  split
  · exact RegistersBecome.onGroup c s _
  · exact RegistersBecome.refl s c

/-- The operand limits of BFQTAKE (R327). -/
def takeOk (s : State) (c : Issue) (o : EOp) : Bool :=
  !(!bfqOpen s c (.bfqtake o) || takeMax (c.sval o.b) == 0 || 128 < takeMax (c.sval o.b) || (c.sval o.a).toNat % 16 != 0 ||
    (s.teamOf c).res.spsize < (c.sval o.a).toNat + 16 * takeMax (c.sval o.b))

theorem takeMax_eq (b : DWord) : takeMax b = (b.extractLsb' 0 8).toNat := bitsOf_eq_extract b 0 8

theorem takeOk_iff {s : State} {c : Issue} {o : EOp} : takeOk s c o = true ↔ bfqOpen s c (.bfqtake o) = true ∧
    1 ≤ ((c.sval o.b).extractLsb' 0 8).toNat ∧ ((c.sval o.b).extractLsb' 0 8).toNat ≤ 128 ∧ (c.sval o.a).toNat % 16 = 0 ∧
    (c.sval o.a).toNat + 16 * ((c.sval o.b).extractLsb' 0 8).toNat ≤ (s.teamOf c).res.spsize := by
  rw [takeOk, ← takeMax_eq]
  simp only [Bool.not_eq_true', Bool.or_eq_false_iff, Bool.not_eq_false', beq_eq_false_iff_ne, decide_eq_false_iff_not, bne_eq_false_iff_eq, not_lt,
    and_assoc, Nat.one_le_iff_ne_zero]

section
variable {s : State} {c : Issue} (hg : isGlen c.who = false)
  (hfresh : ∀ y ∈ (s.core (coreOf c.who)).cmds, y.id ≠ (s.core (coreOf c.who)).nextCmd)
include hg hfresh

theorem bfqpost_issue {o : EOp} (h : LanesRun s c o.at' []) :
    (bfqOpen s c (.bfqpost o) = false → TrapsWith 0x07 (.bfqpost o) o.at' s c) ∧
      (bfqOpen s c (.bfqpost o) = true → Queues s c o.at' (.bfqpost o) 4 16 (fun t => ∃ u v,
        Commanded s u c o.at' (.bfqpost o) (fun d => { d with a := c.sval o.a, b := c.sval o.b }) ∧ RegistersBecome u v c (withResults []) ∧
        exec (.engineCommandStart (coreOf c.who) (s.core (coreOf c.who)).nextCmd) v = .next t)) :=
  bfq_issue h hg hfresh rfl rfl rfl (congrArg Host.Outcome.next (State.laneOp_plain h _)) (fun d => ⟨s.queued c d, rfl, RegistersBecome.refl _ c⟩)

theorem bfqdone_issue {o : ROp} (h : LanesRun s c o.at' []) :
    (bfqOpen s c (.bfqdone o) = false → TrapsWith 0x07 (.bfqdone o) o.at' s c) ∧
      (bfqOpen s c (.bfqdone o) = true → Queues s c o.at' (.bfqdone o) 4 16 (fun t => ∃ u v,
        Commanded s u c o.at' (.bfqdone o) (fun d => { d with a := c.sval o.a, b := c.sval o.b }) ∧ RegistersBecome u v c (withResults []) ∧
        exec (.engineCommandStart (coreOf c.who) (s.core (coreOf c.who)).nextCmd) v = .next t)) :=
  bfq_issue h hg hfresh rfl rfl rfl (congrArg Host.Outcome.next (State.laneOp_plain h _)) (fun d => ⟨s.queued c d, rfl, RegistersBecome.refl _ c⟩)

theorem bfqtake_issue {o : EOp} (h : LanesRun s c o.at' []) :
    (takeOk s c o = false → TrapsWith 0x07 (.bfqtake o) o.at' s c) ∧
      (takeOk s c o = true → Queues s c o.at' (.bfqtake o) 4 16 (fun t => ∃ u v,
        Commanded s u c o.at' (.bfqtake o)
          (fun d => { d with a := c.sval o.a, b := c.sval o.b, due := s.now + 16 * ((c.sval o.b).extractLsb' 16 16).toNat }) ∧
        RegistersBecome u v c (withResults (takeAwaits s o)) ∧
        exec (.engineCommandStart (coreOf c.who) (s.core (coreOf c.who)).nextCmd) v = .next t)) := by
  have hdue : bitsOf (c.sval o.b) 31 16 = ((c.sval o.b).extractLsb' 16 16).toNat := bitsOf_eq_extract (c.sval o.b) 16 16
  have he : exec (.bfqtake o) s = .next (if !takeOk s c o then s.illegalOperand o.at'
      else s.accept c o.at' (.bfqtake o) (fun d => { d with a := c.sval o.a, b := c.sval o.b, due := s.now + 16 * bitsOf (c.sval o.b) 31 16 })
        (fun d u => (u.awaitTake c o).bfqStart (coreOf c.who) d)) := by
    rw [takeOk, Bool.not_not]
    exact congrArg Host.Outcome.next (State.laneOp_plain h _)
  rw [← hdue]
  exact bfq_issue h hg hfresh rfl rfl rfl he (fun d => ⟨_, rfl, State.awaitTake_becomes (s.queued c d) c o⟩)

end

/-! ## A command at its queue -/

/-- Writes without poison put clean bytes at their places. -/
theorem seqWrites_clean {s : State} {d : Cmd} : ∀ {W : List SeqWrite} {ws : List (Nat × Byte × Bool)}, seqWrites s d W = .ok ws →
    (∀ w ∈ W, ∀ b ∈ w.2.1, b.2 = false) → ∀ x ∈ ws, x.2.2 = false
  | [], ws, h, _ => by
    obtain rfl : [] = ws := Except.ok.inj h
    exact fun _ hx => absurd hx List.not_mem_nil
  | (va, bs, kv) :: W, ws, h, hw => by
    simp only [seqWrites, bind, Except.bind, pure, Except.pure] at h
    split at h
    · cases h
    · split at h
      · cases h
      · next l hl =>
        obtain rfl := Except.ok.inj h
        intro x hx
        obtain hx | hx := List.mem_append.mp hx
        · exact hw _ (.head _) _ (List.of_mem_zip hx).2
        · exact seqWrites_clean hl (fun w hm => hw w (.tail _ hm)) x hx

theorem cleanWrite_clean (va : DWord) (bs : List Byte) : ∀ b ∈ (cleanWrite va bs).2.1, b.2 = false := by
  intro b hb
  obtain ⟨y, -, rfl⟩ := List.mem_map.mp hb
  rfl

theorem bitsOf_eq (x : DWord) (hi lo : Nat) : bitsOf x hi lo = (x.extractLsb' lo (hi + 1 - lo)).toNat := by
  rw [bitsOf, BitVec.extractLsb'_toNat, Nat.shiftRight_eq_div_pow]

/-- A command that has left its core is not found there. -/
theorem cmd_none_of_filter {t s : State} {core id : Nat} (h : (t.core core).cmds = (s.core core).cmds.filter (fun y => y.id != id)) :
    (t.core core).cmd id = none := by
  rw [Core.cmd, h, List.find?_eq_none]
  intro y hy
  simpa using (List.mem_filter.mp hy).2

/-- A command that has reached its queue. -/
def Cmd.onward (d : Cmd) : Cmd := { d with phase := .started }

/-- The state in which a command has reached its queue. -/
def State.startCmd (s : State) (core : Nat) (d : Cmd) : State := s.onCmd core d.id Cmd.onward

/-- A command that goes to its queue and finds no other waiting there. -/
structure AtHead (s : State) (core : Nat) (d : Cmd) : Prop where
  op : isBfq d.op = true
  here : (s.core core).cmd d.id = some d
  runs : d.paused = none
  stash : NoStash s
  quiet : Quiet s
  ready : d.phase = .started ∨ (d.phase = .queued ∧ ∀ y ∈ (s.core core).cmds, y.id < d.id → unitOf y.op = 4 → y.begun = true ∨ y.paused ≠ none)
  alone : ∀ p ∈ s.cores, ∀ y ∈ p.2.cmds, isBfq y.op = true → bfqField y.op = bfqField d.op → dieOfCore p.1 = dieOfCore core → y.phase = .started →
    y.paused ≠ none ∨ (p.1 = core ∧ y = d)
  nodup : ((s.core core).cmds.map Cmd.id).Nodup

namespace AtHead
variable {s : State} {core : Nat} {d : Cmd} (h : AtHead s core d)
include h

theorem bfqStart_eq : s.bfqStart core d = (s.startCmd core d).bfqServe (dieOfCore core) (bfqField d.op)
    ((bfqCmds (s.startCmd core d) (dieOfCore core) (bfqField d.op)).length + 1) := by
  have hr : (d.phase == .started || earlierStarted (s.core core) d) = true := by
    obtain hp | ⟨-, hb⟩ := h.ready
    · rw [hp]; rfl
    · have he : earlierStarted (s.core core) d = true := by
        rw [earlierStarted_iff, (isBfq_unit h.op).1]
        rintro ⟨y, hy, hlt, hu, hn, hp⟩
        obtain hb | hb := hb y hy hlt hu
        · rw [hn] at hb; cases hb
        · exact hb hp
      rw [he, Bool.or_true]
  rw [State.bfqStart, if_neg (by rw [h.runs, hr]; exact Bool.false_ne_true)]
  rfl

theorem started : ((s.startCmd core d).core core).cmd d.id = some d.onward := State.onCmd_cmd h.here (fun _ hx => hx)

omit h in
theorem queued : AtQueue core d.id s (s.startCmd core d) := AtQueue.onCmd core d.id s (fun _ _ => .inr rfl)

omit h in
theorem startCmd_flagOf (k n : Nat) : (s.startCmd core d).flagOf k n = s.flagOf k n :=
  State.core_onCore_of (fun c => Sparse.look ({} : Flag) n c.flags) s core _ rfl k

theorem noStash : NoStash (s.startCmd core d) := NoStash.onCore h.stash core _ rfl

theorem reads : ReadsAlike s (s.startCmd core d) := ⟨rfl, h.stash.1, h.noStash.1⟩

theorem serves : Serves core d.id (dieOfCore core) (bfqField d.op) (s.startCmd core d) := by
  intro p hp y hy hop hq hdie hph hpa
  have hold {c : Core} (hc : (p.1, c) ∈ s.cores) (hy : y ∈ c.cmds) : p.1 = core ∧ y.id = d.id := by
    obtain hn | ⟨hk, rfl⟩ := h.alone _ hc y hy hop hq hdie hph
    · exact absurd hpa hn
    · exact ⟨hk, rfl⟩
  obtain rfl | hm := State.mem_cores_onCore hp
  · obtain ⟨z, hz, hzy⟩ := List.mem_map.mp hy
    by_cases hid : z.id = d.id
    · rw [if_pos (beq_iff_eq.mpr hid)] at hzy
      exact ⟨rfl, by rw [← hzy]; exact hid⟩
    · rw [if_neg (by simpa using hid)] at hzy
      subst hzy
      exact hold (State.mem_cmds hz) hz
  · exact hold hm hy

/-- The queue's one try of the command is all that its start does. -/
theorem start_once {t : State} (ht : (s.startCmd core d).bfqStep core (dieOfCore core) (bfqField d.op) d.onward = t)
    (hc : Serves core d.id (dieOfCore core) (bfqField d.op) t) (hfix : t.tryCmd core d.id (dieOfCore core) (bfqField d.op) = t) :
    exec (.engineCommandStart core d.id) s = .next t := by
  subst ht
  rw [exec_bfqStart h.here h.op, h.bfqStart_eq]
  exact congrArg Host.Outcome.next (State.bfqServe_once h.serves h.started h.op rfl h.runs rfl rfl hc hfix _)

/-- A try after which the command has left its core. -/
theorem start_gone {t : State} (ht : (s.startCmd core d).bfqStep core (dieOfCore core) (bfqField d.op) d.onward = t)
    (hc : CmdsFrom (s.startCmd core d) t) (hn : (t.core core).cmd d.id = none) : exec (.engineCommandStart core d.id) s = .next t :=
  h.start_once ht (h.serves.from hc) (State.tryCmd_none hn _ _)

theorem cut : (s.startCmd core d).store.cut = [] := h.quiet.2.1

/-- A try that ends with the command's leave. -/
theorem start_drop {u : State} (hu : AtQueue core d.id (s.startCmd core d) u) (hc : CmdsFrom (s.startCmd core d) u)
    (ht : (s.startCmd core d).bfqStep core (dieOfCore core) (bfqField d.op) d.onward = u.dropCmd core d.onward) :
    ∃ t, exec (.engineCommandStart core d.id) s = .next t ∧ QueueCommandEnds s t core d ∧ (∀ v, t.groupOf v = s.groupOf v) ∧
      (∀ k, (t.core k).store = (s.core k).store) ∧ (∀ k n, t.flagOf k n = u.flagOf k n) ∧ t.dies = u.dies ∧ t.store.mem = u.store.mem ∧ t.glens = s.glens := by
  have hcut : u.store.cut = [] := hu.cut.trans h.cut
  have hsu := queued.trans hu
  obtain ⟨hl, hk⟩ := State.dropCmd_leaves hcut core d.onward
  have hends := CmdLeaves.queueEnds hl
  have hfrom := State.dropCmd_cmds hcut core d.onward
  generalize u.dropCmd core d.onward = t at *
  obtain ⟨hg, hf, hst, -, -, hcm, -⟩ := hl
  refine ⟨t, h.start_gone ht (hc.trans hfrom) (cmd_none_of_filter hcm), hsu.ends rfl rfl hends, fun v => (hg v).trans (hsu.groupOf v), fun k => ?_, fun k n => ?_, ?_, ?_, ?_⟩
  · exact (hk k).1.trans (hsu.part Core.store (fun _ => rfl) k)
  · rw [State.flagOf, (hk k).2, State.flagOf]
  · rw [hf]
  · rw [hst]
  · rw [hf, hsu.frame]

end AtHead

theorem AtQueue.flagDone {s u t : State} {core id : Nat} (h : AtQueue core id s u) (hflag : ∀ n, u.flagOf core n = s.flagOf core n) (d : Cmd)
    {err : Bool} (hf : FlagDone u t core d.onward err) :
    FlagDone s t core d err := by
  have hgroup : (u.core core).groupK d.groupKey = (s.core core).groupK d.groupKey := h.part (fun c => c.groupK d.groupKey) (fun _ => rfl) core
  have hteam : (u.core core).team d.team = (s.core core).team d.team := h.part (fun c => c.team d.team) (fun _ => rfl) core
  have hag : (u.core core).agent = (s.core core).agent := h.part Core.agent (fun _ => rfl) core
  obtain ⟨h0, h1⟩ := hf
  refine ⟨fun hn x => (h0 hn x).trans (hflag x), fun n hn hst x => ?_⟩
  have := h1 n hn (by rw [show d.onward.groupKey = d.groupKey from rfl, hgroup, hag]; exact hst) x
  rw [show d.onward.team = d.team from rfl, hteam, hflag] at this
  exact this

/-! ## BFQPOST (R327) -/

/-- The flag handle that a post leaves in its entry. -/
def postHandle (s : State) (core : Nat) (d : Cmd) : Nat :=
  match flagField d.op with
  | some n => flagHandle s core (((s.core core).team d.team).res.fbase + n)
  | none => 0

/-- The record that a post appends. -/
def postRec (d : Cmd) : BfqRec := { row := d.a, gen := bfqGen d.b, slot := bfqSlot d.b, opid := bfqOp d.b }

/-- What a post writes to the entry of its slot. -/
def postWrites (s : State) (core : Nat) (d : Cmd) (x : Bfq) : List SeqWrite :=
  [cleanWrite (x.entry (bfqSlot d.b) + 8) (leBytes 8 (postHandle s core d * 2 ^ 32 + 2 ^ 16 + bfqGen d.b))]

/-- A post whose writes are translated, or not. -/
def State.postDone (s : State) (core die q : Nat) (d : Cmd) (r : Except EFail (List (Nat × Byte × Bool))) : State :=
  match r with
  | .error e => s.cmdFail core d e none
  | .ok ws => ((s.dieWrite ws).onBfq die q (fun y => { y with recs := y.recs ++ [postRec d] })).dropCmd core d

section
variable {s : State} {core die q : Nat} {d : Cmd}

theorem State.bfqPost_beyond (h : (s.bfq die q).nslot ≤ bfqSlot d.b) : s.bfqPost core die q d = s.finishCmd core d true := by
  rw [State.bfqPost, if_pos h]

theorem State.bfqPost_full (h : bfqSlot d.b < (s.bfq die q).nslot) (hf : (s.bfq die q).cap ≤ (s.bfq die q).recs.length) : s.bfqPost core die q d = s := by
  rw [State.bfqPost]
  exact (if_neg (Nat.not_le.mpr h)).trans (if_pos hf)

theorem State.bfqPost_posts (h : bfqSlot d.b < (s.bfq die q).nslot) (hf : (s.bfq die q).recs.length < (s.bfq die q).cap) {ws : List (Nat × Byte × Bool)}
    (hw : seqWrites s d (postWrites s core d (s.bfq die q)) = .ok ws) :
    s.bfqPost core die q d = ((s.dieWrite ws).onBfq die q (fun y => { y with recs := y.recs ++ [postRec d] })).dropCmd core d := by
  have he : s.bfqPost core die q d = s.postDone core die q d (seqWrites s d (postWrites s core d (s.bfq die q))) := by
    rw [State.bfqPost]
    exact (if_neg (Nat.not_le.mpr h)).trans ((if_neg (Nat.not_le.mpr hf)).trans rfl)
  rw [he, hw]
  rfl

end

namespace AtHead
variable {s : State} {core : Nat} {d : Cmd} (h : AtHead s core d)
include h

omit h in
theorem tryPost {o : EOp} (hop : d.op = .bfqpost o) : (s.startCmd core d).bfqStep core (dieOfCore core) (bfqField d.op) d.onward =
    (s.startCmd core d).bfqPost core (dieOfCore core) (bfqField d.op) d.onward := by
  have hop' : d.onward.op = .bfqpost o := hop
  simp only [State.bfqStep, hop']

omit h in
theorem postHandle_start : postHandle (s.startCmd core d) core d.onward = postHandle s core d := by
  have hteam (x : Nat) : ((s.startCmd core d).core core).team x = (s.core core).team x := queued.part (fun c => c.team x) (fun _ => rfl) core
  simp only [postHandle, hteam, flagHandle, startCmd_flagOf]
  rfl

theorem posts {o : EOp} (hop : d.op = .bfqpost o) (hs : bitsOf d.b 31 16 < (s.bfq (dieOfCore core) (bfqField d.op)).nslot)
    (hf : (s.bfq (dieOfCore core) (bfqField d.op)).recs.length < (s.bfq (dieOfCore core) (bfqField d.op)).cap) {ws : List (Nat × Byte × Bool)}
    (hw : seqWrites s d.onward (postWrites s core d (s.bfq (dieOfCore core) (bfqField d.op))) = .ok ws) (hnd : (ws.map Prod.fst).Nodup) :
    ∃ t, exec (.engineCommandStart core d.id) s = .next t ∧ WritesOnly s t ws ∧ QueueCommandEnds s t core d ∧
      ((∀ v, t.groupOf v = s.groupOf v) ∧ ∀ k, (t.core k).store = (s.core k).store) ∧ (∀ k n, t.flagOf k n = s.flagOf k n) ∧
      QueueBecomes s t (dieOfCore core) (bfqField d.op) { s.bfq (dieOfCore core) (bfqField d.op) with
        recs := (s.bfq (dieOfCore core) (bfqField d.op)).recs ++ [postRec d] } := by
  have hcl : ∀ w ∈ ws, w.2.2 = false := seqWrites_clean hw (fun w hm b hb => by
    obtain rfl := List.mem_singleton.mp hm
    exact cleanWrite_clean _ _ b hb)
  obtain ⟨hwr, huf, -, hcores, -, -, -, hcm⟩ := State.dieWrite_wrote h.noStash hcl hnd
  have hq := AtQueue.dieWrite core d.id h.noStash hcl hnd
  have hw' : seqWrites (s.startCmd core d) d.onward
      (postWrites (s.startCmd core d) core d.onward (s.bfq (dieOfCore core) (bfqField d.op))) = .ok ws := by
    rw [h.reads.seqWrites_eq (d := d.onward) (isBfq_unit h.op).2, postWrites, postHandle_start]
    exact hw
  have htry := (tryPost hop).trans (State.bfqPost_posts (s := s.startCmd core d) (d := d.onward) hs hf hw')
  generalize (s.startCmd core d).dieWrite ws = u at *
  obtain ⟨t, ht, hends, hg, hst, hfl, hdies, hmem, -⟩ :=
    h.start_drop (hq.trans (AtQueue.onBfq core d.id u (dieOfCore core) (bfqField d.op) _)) (hcm.trans (.of_cores rfl)) htry
  have hud : u.dies = s.dies := by rw [huf]; rfl
  have hbfq : u.bfq (dieOfCore core) (bfqField d.op) = s.bfq (dieOfCore core) (bfqField d.op) := by
    rw [State.bfq, State.bfq, State.die, State.die, hud]
  refine ⟨t, ht, ⟨fun x hx => ?_, fun p hp => ?_⟩, hends, ⟨hg, hst⟩, fun k n => ?_, ?_⟩
  · rw [hmem]; exact hwr.1 x hx
  · rw [hmem]; exact hwr.2 p hp
  · exact ((hfl k n).trans (part_of_caches hcores (fun c => Sparse.look ({} : Flag) n c.flags) (fun _ => rfl) k)).trans (startCmd_flagOf k n)
  · have hb := QueueBecomes.left (State.bfq_onBfq u (dieOfCore core) (bfqField d.op) (fun y => { y with recs := y.recs ++ [postRec d] })) hud
    rw [hbfq] at hb
    exact QueueBecomes.of_dies hb hdies

theorem postFull {o : EOp} (hop : d.op = .bfqpost o) (hs : bitsOf d.b 31 16 < (s.bfq (dieOfCore core) (bfqField d.op)).nslot)
    (hf : (s.bfq (dieOfCore core) (bfqField d.op)).cap ≤ (s.bfq (dieOfCore core) (bfqField d.op)).recs.length) :
    exec (.engineCommandStart core d.id) s = .next (s.startCmd core d) := by
  have htry := (tryPost hop).trans (State.bfqPost_full (s := s.startCmd core d) (d := d.onward) hs hf)
  exact h.start_once htry h.serves ((State.tryCmd_some h.started _ _).trans htry)

theorem postBeyond {o : EOp} (hop : d.op = .bfqpost o) (hs : (s.bfq (dieOfCore core) (bfqField d.op)).nslot ≤ bitsOf d.b 31 16)
    (hf : (flagField d.op).isSome = true) :
    ∃ t, exec (.engineCommandStart core d.id) s = .next t ∧ MemoryKept s t ∧ QueueCommandEnds s t core d ∧
      ((∀ v, t.groupOf v = s.groupOf v) ∧ ∀ k, (t.core k).store = (s.core k).store) ∧
      QueueBecomes s t (dieOfCore core) (bfqField d.op) (s.bfq (dieOfCore core) (bfqField d.op)) ∧ FlagDone s t core d true ∧
      ∀ k ≠ core, ∀ n, t.flagOf k n = s.flagOf k n := by
  have htry := (tryPost hop).trans (State.bfqPost_beyond (s := s.startCmd core d) (d := d.onward) hs)
  obtain ⟨hl, hfl, hst⟩ := State.finishCmd_ends h.cut core d.onward true (.inl hf)
  have hfrom := State.finishCmd_cmds h.cut core d.onward true (.inl hf)
  have hends := CmdLeaves.queueEnds hl
  generalize (s.startCmd core d).finishCmd core d.onward true = t at *
  obtain ⟨hg, hframe, hstore, -, ho, hcm, -⟩ := hl
  rw [Bool.or_true] at hfl
  have hsq : AtQueue core d.id s (s.startCmd core d) := queued
  have hstores (k : Nat) : (t.core k).store = (s.core k).store := (hst k).trans (hsq.part Core.store (fun _ => rfl) k)
  refine ⟨t, h.start_gone htry hfrom (cmd_none_of_filter hcm), .of_stores (by rw [hstore]; rfl) (fun k => by rw [hstores]) (by rw [hframe]; rfl),
    hsq.ends rfl rfl hends, ⟨fun v => (hg v).trans (hsq.groupOf v), hstores⟩, QueueBecomes.of_dies (QueueBecomes.refl s _ _) (by rw [hframe]; rfl), ?_, fun k hk n => ?_⟩
  · exact AtQueue.flagDone hsq (startCmd_flagOf core) d hfl
  · refine Eq.trans ?_ (startCmd_flagOf (core := core) (d := d) k n)
    rw [State.flagOf, (ho k hk).2.2, State.flagOf]

end AtHead

/-! ## BFQDONE (R327) -/

/-- A done whose result is dropped. -/
def State.dropResult (s : State) (core die q : Nat) (d : Cmd) : State := (s.onBfq die q (fun y => { y with drops := y.drops + 1 })).dropCmd core d

/-- What a done reads and will write: nothing where its slot's entry does not pend with its generation. -/
def doneRead (s : State) (d : Cmd) (x : Bfq) : Except EFail (Option (Nat × Bool × List (Nat × Byte × Bool))) := do
  let (bs, _) ← seqRead s d false (x.entry (bfqSlot d.b)) 16
  let w := descNum bs 8 8
  if w / 2 ^ 16 % 2 == 1 && w % 2 ^ 16 == bfqGen d.b then do
    let src ← seqBytes s d false d.a x.rl
    let ws ← seqWrites s d [(BitVec.ofNat 64 (descNum bs 0 8), src, false), cleanWrite (x.entry (bfqSlot d.b) + 8) (leBytes 8 (w - 2 ^ 16))]
    return some (w / 2 ^ 32, src.any Prod.snd, ws)
  else return none

/-- A done that has read its entry. -/
def State.doneWith (s : State) (core die q : Nat) (d : Cmd) (r : Except EFail (Option (Nat × Bool × List (Nat × Byte × Bool)))) : State :=
  match r with
  | .error e => s.cmdFail core d e none
  | .ok none => s.dropResult core die q d
  | .ok (some (h, bad, ws)) => (if h == 0 then s.dieWrite ws else (s.dieWrite ws).signalHandle core d h bad).dropCmd core d

theorem State.bfqDone_eq {s : State} (h : NoStash s) (core die q : Nat) (d : Cmd) : s.bfqDone core die q d =
    if (s.bfq die q).nslot ≤ bfqSlot d.b then s.dropResult core die q d else s.doneWith core die q d (doneRead s d (s.bfq die q)) := by
  rw [State.bfqDone, State.flushStashes_none h.1]
  rfl

/-- Does the entry's second word pend with a generation? -/
def Pends (w gen : Nat) : Prop := w / 2 ^ 16 % 2 = 1 ∧ w % 2 ^ 16 = gen

theorem doneRead_none {s : State} {d : Cmd} {x : Bfq} {bs : List Byte} {bad : Bool} (h : seqRead s d false (x.entry (bfqSlot d.b)) 16 = .ok (bs, bad))
    (hp : ¬Pends (descNum bs 8 8) (bfqGen d.b)) : doneRead s d x = .ok none := by
  have hp' : (descNum bs 8 8 / 2 ^ 16 % 2 == 1 && descNum bs 8 8 % 2 ^ 16 == bfqGen d.b) = false := by
    rw [← Bool.not_eq_true, Bool.and_eq_true, beq_iff_eq, beq_iff_eq]
    exact hp
  simp only [doneRead, bind, Except.bind, pure, Except.pure, h, hp', Bool.false_eq_true, if_false]

theorem doneRead_some {s : State} {d : Cmd} {x : Bfq} {bs : List Byte} {bad : Bool} (h : seqRead s d false (x.entry (bfqSlot d.b)) 16 = .ok (bs, bad))
    (hp : Pends (descNum bs 8 8) (bfqGen d.b)) {src : List Byte} (hs : seqRead s d false d.a x.rl = .ok (src, false)) {ws : List (Nat × Byte × Bool)}
    (hw : seqWrites s d [cleanWrite (BitVec.ofNat 64 (descNum bs 0 8)) src, cleanWrite (x.entry (bfqSlot d.b) + 8) (leBytes 8 (descNum bs 8 8 - 2 ^ 16))] =
      .ok ws) : doneRead s d x = .ok (some (descNum bs 8 8 / 2 ^ 32, false, ws)) := by
  have hp' : (descNum bs 8 8 / 2 ^ 16 % 2 == 1 && descNum bs 8 8 % 2 ^ 16 == bfqGen d.b) = true := by
    rw [Bool.and_eq_true, beq_iff_eq, beq_iff_eq]
    exact hp
  have hb : seqBytes s d false d.a x.rl = .ok (src.map (fun b => (b, false))) := by
    simp only [seqRead, bind, Except.bind, pure, Except.pure] at hs
    split at hs
    · cases hs
    · next v hv =>
      obtain ⟨hsrc, hany⟩ := Prod.mk.inj (Except.ok.inj hs)
      rw [hv, ← hsrc, List.map_map]
      refine congrArg Except.ok ((List.map_id v).symm.trans (List.map_congr_left (fun b hb => Prod.ext rfl ?_)))
      have := List.any_eq_false.mp hany b hb
      exact Bool.not_eq_true _ ▸ this
  have hany : (src.map (fun b => (b, false))).any Prod.snd = false := by
    rw [List.any_map]
    exact List.any_eq_false.mpr (fun _ _ => Bool.false_ne_true)
  unfold cleanWrite at hw
  simp only [doneRead, bind, Except.bind, pure, Except.pure, h, hp', if_true, hb, hany]
  unfold cleanWrite
  rw [hw]

theorem AtQueue.flagPlace_eq {s u : State} {core id : Nat} (h : AtQueue core id s u) (hflag : ∀ k n, u.flagOf k n = s.flagOf k n) :
    flagPlace u = flagPlace s := by
  funext hnd cid
  have hcrew (k : Nat) : (u.core k).crew = (s.core k).crew := h.part Core.crew (fun _ => rfl) k
  have hglen (n : Nat) : u.glen n = s.glen n := by rw [h.frame]; rfl
  simp only [flagPlace, flagTeam, hcrew, hglen, hflag]

theorem State.signalHandle_core {s : State} {core h : Nat} {d : Cmd} {k n : Nat} (hp : flagPlace s h d.cid = .core k n)
    (hst : groupStopped ((s.core core).groupK d.groupKey) = false) (err : Bool) :
    s.signalHandle core d h err = s.onFlag k n (Flag.change (fun v => v + 1) err (cmdAid core d.op)) := by
  rw [State.signalHandle]
  simp only [hp, hst, Bool.false_and, Bool.false_eq_true, if_false]

/-- The flag that a done signals. -/
def Signalled (s : State) (h cid : Nat) (tgt : Option (Nat × Nat)) : Prop :=
  (h = 0 ∧ tgt = none) ∨ (h ≠ 0 ∧ ∃ k n, tgt = some (k, n) ∧ flagPlace s h cid = .core k n)

namespace AtHead
variable {s : State} {core : Nat} {d : Cmd} (h : AtHead s core d)
include h

theorem tryDone {o : ROp} (hop : d.op = .bfqdone o) : (s.startCmd core d).bfqStep core (dieOfCore core) (bfqField d.op) d.onward =
    if (s.bfq (dieOfCore core) (bfqField d.op)).nslot ≤ bfqSlot d.b then (s.startCmd core d).dropResult core (dieOfCore core) (bfqField d.op) d.onward
    else (s.startCmd core d).doneWith core (dieOfCore core) (bfqField d.op) d.onward
      (doneRead s d.onward (s.bfq (dieOfCore core) (bfqField d.op))) := by
  have hop' : d.onward.op = .bfqdone o := hop
  have hread : doneRead (s.startCmd core d) d.onward = doneRead s d.onward := by
    funext x
    have hseq : isSeqOp d.onward.op = false := (isBfq_unit h.op).2
    simp only [doneRead, h.reads.seqRead_eq hseq, h.reads.seqBytes_eq hseq, h.reads.seqWrites_eq hseq]
  rw [← hread]
  simp only [State.bfqStep, hop']
  exact State.bfqDone_eq h.noStash _ _ _ _

/-- A done's result is dropped, and counted (R327). -/
def Dropped (s t : State) (core : Nat) (d : Cmd) : Prop :=
  MemoryKept s t ∧ QueueCommandEnds s t core d ∧ ((∀ v, t.groupOf v = s.groupOf v) ∧ ∀ k, (t.core k).store = (s.core k).store) ∧
    (∀ k n, t.flagOf k n = s.flagOf k n) ∧ QueueBecomes s t (dieOfCore core) (bfqField d.op)
      { s.bfq (dieOfCore core) (bfqField d.op) with drops := (s.bfq (dieOfCore core) (bfqField d.op)).drops + 1 }

theorem drops (ht : (s.startCmd core d).bfqStep core (dieOfCore core) (bfqField d.op) d.onward =
    (s.startCmd core d).dropResult core (dieOfCore core) (bfqField d.op) d.onward) :
    ∃ t, exec (.engineCommandStart core d.id) s = .next t ∧ Dropped s t core d := by
  obtain ⟨t, ht, hends, hg, hst, hfl, hdies, hmem, hgl⟩ :=
    h.start_drop (AtQueue.onBfq core d.id (s.startCmd core d) (dieOfCore core) (bfqField d.op) _) (.of_cores rfl) ht
  exact ⟨t, ht, .of_stores hmem (fun k => by rw [hst]) hgl, hends, ⟨hg, hst⟩, fun k n => (hfl k n).trans (startCmd_flagOf (core := core) (d := d) k n),
    QueueBecomes.of_dies (QueueBecomes.left (State.bfq_onBfq (s.startCmd core d) (dieOfCore core) (bfqField d.op) _) rfl) hdies⟩

theorem doneBeyond {o : ROp} (hop : d.op = .bfqdone o) (hs : (s.bfq (dieOfCore core) (bfqField d.op)).nslot ≤ bfqSlot d.b) :
    ∃ t, exec (.engineCommandStart core d.id) s = .next t ∧ Dropped s t core d :=
  h.drops ((h.tryDone hop).trans (if_pos hs))

section
variable {o : ROp} (hop : d.op = .bfqdone o) (hs : bfqSlot d.b < (s.bfq (dieOfCore core) (bfqField d.op)).nslot) {bs : List Byte} {bad : Bool}
  (hr : seqRead s d.onward false ((s.bfq (dieOfCore core) (bfqField d.op)).entry (bfqSlot d.b)) 16 = .ok (bs, bad))
include hop hs hr

theorem doneStale (hp : ¬Pends (descNum bs 8 8) (bfqGen d.b)) : ∃ t, exec (.engineCommandStart core d.id) s = .next t ∧ Dropped s t core d := by
  refine h.drops ((h.tryDone hop).trans ((if_neg (Nat.not_le.mpr hs)).trans ?_))
  rw [doneRead_none (d := d.onward) hr hp]
  rfl

theorem doneCopies (hp : Pends (descNum bs 8 8) (bfqGen d.b)) {tgt : Option (Nat × Nat)} (ht : Signalled s (descNum bs 8 8 / 2 ^ 32) d.cid tgt)
    (hst : groupStopped ((s.core core).groupK d.groupKey) = false) {src : List Byte} {ws : List (Nat × Byte × Bool)}
    (hsrc : seqRead s d.onward false d.a (s.bfq (dieOfCore core) (bfqField d.op)).rl = .ok (src, false))
    (hw : seqWrites s d.onward [cleanWrite (BitVec.ofNat 64 (descNum bs 0 8)) src,
      cleanWrite ((s.bfq (dieOfCore core) (bfqField d.op)).entry (bfqSlot d.b) + 8) (leBytes 8 (descNum bs 8 8 - 2 ^ 16))] = .ok ws)
    (hnd : (ws.map Prod.fst).Nodup) :
    ∃ t, exec (.engineCommandStart core d.id) s = .next t ∧ WritesOnly s t ws ∧ QueueCommandEnds s t core d ∧
      ((∀ v, t.groupOf v = s.groupOf v) ∧ ∀ k, (t.core k).store = (s.core k).store) ∧
      QueueBecomes s t (dieOfCore core) (bfqField d.op) (s.bfq (dieOfCore core) (bfqField d.op)) ∧
      ∀ k n, t.flagOf k n =
        if tgt = some (k, n) then { s.flagOf k n with value := (s.flagOf k n).value + 1, last := cmdAid core d.op } else s.flagOf k n := by
  have hcl : ∀ w ∈ ws, w.2.2 = false := seqWrites_clean hw (fun w hm b hb => by
    obtain rfl | hm := List.mem_cons.mp hm
    · exact cleanWrite_clean _ _ b hb
    · obtain rfl := List.mem_singleton.mp hm
      exact cleanWrite_clean _ _ b hb)
  obtain ⟨hwr, huf, -, hcores, -, -, -, hcm⟩ := State.dieWrite_wrote h.noStash hcl hnd
  have hq := AtQueue.dieWrite core d.id h.noStash hcl hnd
  have htry := (h.tryDone hop).trans (if_neg (Nat.not_le.mpr hs))
  rw [doneRead_some (d := d.onward) hr hp hsrc hw] at htry
  have hdone : (s.startCmd core d).doneWith core (dieOfCore core) (bfqField d.op) d.onward (.ok (some (descNum bs 8 8 / 2 ^ 32, false, ws))) =
      (if (descNum bs 8 8 / 2 ^ 32 == 0) = true then (s.startCmd core d).dieWrite ws
        else ((s.startCmd core d).dieWrite ws).signalHandle core d.onward (descNum bs 8 8 / 2 ^ 32) false).dropCmd core d.onward := rfl
  rw [hdone] at htry
  generalize (s.startCmd core d).dieWrite ws = u at *
  have hsu : AtQueue core d.id s u := queued.trans hq
  have huflag (k n : Nat) : u.flagOf k n = s.flagOf k n :=
    (part_of_caches hcores (fun c => Sparse.look ({} : Flag) n c.flags) (fun _ => rfl) k).trans (startCmd_flagOf (core := core) (d := d) k n)
  have hsig : ∃ v, AtQueue core d.id (s.startCmd core d) v ∧ CmdsFrom (s.startCmd core d) v ∧ v.store = u.store ∧ v.dies = u.dies ∧
      (s.startCmd core d).bfqStep core (dieOfCore core) (bfqField d.op) d.onward = v.dropCmd core d.onward ∧ ∀ k n, v.flagOf k n =
        if tgt = some (k, n) then { s.flagOf k n with value := (s.flagOf k n).value + 1, last := cmdAid core d.op } else s.flagOf k n := by
    obtain ⟨hz, rfl⟩ | ⟨hz, k0, n0, rfl, hpl⟩ := ht
    · rw [if_pos (beq_iff_eq.mpr hz)] at htry
      exact ⟨u, hq, hcm, rfl, rfl, htry, fun k n => by rw [if_neg (by simp)]; exact huflag k n⟩
    · have hug : groupStopped ((u.core core).groupK d.onward.groupKey) = false := by
        rw [← hst]
        exact congrArg groupStopped (hsu.part (fun c => c.groupK d.groupKey) (fun _ => rfl) core)
      have hpl' : flagPlace u (descNum bs 8 8 / 2 ^ 32) d.onward.cid = .core k0 n0 := by
        rw [hsu.flagPlace_eq huflag]
        exact hpl
      rw [if_neg (by simpa using hz), State.signalHandle_core hpl' hug] at htry
      refine ⟨_, hq.trans (AtQueue.onFlag core d.id u k0 n0 _), hcm.trans (State.onFlag_cmds u k0 n0 _), rfl, rfl, htry, fun k n => ?_⟩
      rw [State.flagOf_onFlag, huflag, huflag]
      by_cases hk : k = k0 ∧ n = n0
      · obtain ⟨rfl, rfl⟩ := hk
        simp [Flag.change, Cmd.onward]
      · rw [if_neg hk, if_neg (fun he => hk (by obtain ⟨h1, h2⟩ := Prod.mk.inj (Option.some.inj he); exact ⟨h1.symm, h2.symm⟩))]
  obtain ⟨v, hqv, hcv, hsv, hdv, htv, hfv⟩ := hsig
  obtain ⟨t, ht, hends, hg, hstt, hfl, hdies, hmem, -⟩ := h.start_drop hqv hcv htv
  have hdt : t.dies = s.dies := hdies.trans (hdv.trans (by rw [huf]; rfl))
  refine ⟨t, ht, ⟨fun x hx => ?_, fun p hp => ?_⟩, hends, ⟨hg, hstt⟩, QueueBecomes.of_dies (QueueBecomes.refl s _ _) hdt, fun k n => (hfl k n).trans (hfv k n)⟩
  · rw [hmem, hsv]; exact hwr.1 x hx
  · rw [hmem, hsv]; exact hwr.2 p hp

end

end AtHead

end Sys2Proof.Machine
end

section
/-! BFQTAKE (R327). -/

namespace Sys2Proof.Machine
open Sys2Proof

/-! ## The records that a take adds -/

/-- What a take with room for some records gets of a queue: the first of those that are its own, and no others; `x` is what it has then and what is left. -/
structure Took (mine : BfqRec → Bool) (room : Nat) (has : List Byte) (recs : List BfqRec) (x : List Byte × List BfqRec) : Prop where
  bytes : x.1 = has ++ ((recs.filter mine).take room).flatMap BfqRec.bytes
  sublist : x.2.Sublist recs
  length : x.2.length + ((recs.filter mine).take room).length = recs.length
  others : x.2.filter (fun r => !mine r) = recs.filter (fun r => !mine r)
  rest : x.2.filter mine = (recs.filter mine).drop room

theorem Took.skip {mine : BfqRec → Bool} {room : Nat} {has : List Byte} {r : BfqRec} {recs : List BfqRec} {x : List Byte × List BfqRec}
    (h : Took mine room has recs x) (hr : mine r = false ∨ room = 0) : Took mine room has (r :: recs) (x.1, r :: x.2) := by
  obtain ⟨hb, hs, hl, ho, hre⟩ := h
  obtain hr | rfl := hr
  · refine ⟨by simp only [List.filter_cons, hr, Bool.false_eq_true, if_false]; exact hb, .cons_cons r hs, ?_, ?_, ?_⟩
    · simp only [List.filter_cons, hr, Bool.false_eq_true, if_false, List.length_cons]
      omega
    · simp only [List.filter_cons, hr, Bool.not_false, if_true, ho]
    · simp only [List.filter_cons, hr, Bool.false_eq_true, if_false, hre]
  · simp only [List.take_zero, List.flatMap_nil, List.append_nil, List.length_nil, Nat.add_zero, List.drop_zero] at hb hl hre
    refine ⟨by simpa using hb, .cons_cons r hs, by simpa using hl, ?_, ?_⟩
    · simp only [List.filter_cons, ho]
    · rw [List.drop_zero, List.filter_cons, List.filter_cons, hre]

theorem Took.take {mine : BfqRec → Bool} {room : Nat} {has : List Byte} {r : BfqRec} {recs : List BfqRec} {x : List Byte × List BfqRec}
    (h : Took mine room (has ++ r.bytes) recs x) (hr : mine r = true) : Took mine (room + 1) has (r :: recs) x := by
  obtain ⟨hb, hs, hl, ho, hre⟩ := h
  refine ⟨?_, .cons r hs, ?_, ?_, ?_⟩
  · rw [hb, List.filter_cons, if_pos hr, List.take_succ_cons, List.flatMap_cons, List.append_assoc]
  · rw [List.filter_cons, if_pos hr, List.take_succ_cons, List.length_cons, List.length_cons]
    omega
  · rw [ho, List.filter_cons, hr]
    rfl
  · rw [hre, List.filter_cons, if_pos hr, List.drop_succ_cons]

theorem length_recBytes (r : BfqRec) : r.bytes.length = 16 := by simp [BfqRec.bytes]

/-- A record's bytes 12 and 13 are its operation number (R327). -/
theorem descNum_recBytes {r : BfqRec} (h : r.opid < 2 ^ 16 ∧ r.slot < 2 ^ 16 ∧ r.gen < 2 ^ 16) : descNum r.bytes 12 2 = r.opid := by
  obtain ⟨h1, h2, h3⟩ := h
  rw [BfqRec.bytes, descNum_append_right (off' := 4) (by simp)]
  simp only [leBytes, descNum, List.drop_succ_cons, List.drop_zero, List.take_succ_cons, List.take_zero, leNat, BitVec.toNat_ofNat]
  omega

/-- A take that has records gets those of the same operation (R327). -/
theorem takeRecs_more {max id : Nat} : ∀ (recs : List BfqRec) {has : List Byte} {room : Nat}, has.length + 16 * room = 16 * max → has ≠ [] →
    14 ≤ has.length → descNum has 12 2 = id → Took (fun r => id == r.opid) room has recs (takeRecs max has recs)
  | [], has, room, _, _, _, _ => ⟨by simp [takeRecs], .slnil, by simp [takeRecs], rfl, by simp [takeRecs]⟩
  | r :: rs, has, room, hroom, hne, h14, hid => by
    have hemp : has.isEmpty = false := by simpa using hne
    rw [takeRecs]
    by_cases hc : (decide (has.length < 16 * max) && (has.isEmpty || descNum has 12 2 == r.opid)) = true
    · rw [if_pos hc]
      rw [hemp, Bool.false_or, Bool.and_eq_true, decide_eq_true_eq, hid] at hc
      obtain ⟨hlt, hr⟩ := hc
      obtain ⟨n, rfl⟩ : ∃ n, room = n + 1 := ⟨room - 1, by omega⟩
      refine Took.take (takeRecs_more rs ?_ ?_ ?_ ?_) hr
      · rw [List.length_append, length_recBytes]
        omega
      · exact List.append_ne_nil_of_left_ne_nil hne _
      · rw [List.length_append]
        omega
      · rw [descNum_append_left (by omega), hid]
    · rw [if_neg hc]
      refine Took.skip (takeRecs_more rs hroom hne h14 hid) ?_
      rw [hemp, Bool.false_or, Bool.and_eq_true, decide_eq_true_eq, hid, not_and] at hc
      by_cases hlt : has.length < 16 * max
      · exact .inl (Bool.not_eq_true _ ▸ hc hlt)
      · exact .inr (by omega)

/-- The operation number of a take's records: of those it has, or of the oldest of the queue. -/
def takeFirst (has : List Byte) (recs : List BfqRec) : Option Nat := if has = [] then recs.head?.map BfqRec.opid else some (descNum has 12 2)

theorem takeRecs_first {max : Nat} (hm : 0 < max) (r : BfqRec) (rs : List BfqRec) : takeRecs max [] (r :: rs) = takeRecs max r.bytes rs := by
  rw [takeRecs, if_pos (by simpa using hm), List.nil_append]

theorem takeRecs_took {max : Nat} {has : List Byte} {recs : List BfqRec} (hl : has.length % 16 = 0) (hm : has.length < 16 * max)
    (hb : ∀ r ∈ recs, r.opid < 2 ^ 16 ∧ r.slot < 2 ^ 16 ∧ r.gen < 2 ^ 16) :
    Took (fun r => takeFirst has recs == some r.opid) (max - has.length / 16) has recs (takeRecs max has recs) := by
  by_cases hn : has = []
  · subst hn
    cases recs with
    | nil => exact ⟨by simp [takeRecs], .slnil, by simp [takeRecs], rfl, by simp [takeRecs]⟩
    | cons r rs =>
      have hlen := length_recBytes r
      have hm' : 0 < max := by simpa using hm
      have h := takeRecs_more (max := max) (id := r.opid) rs (has := r.bytes) (room := max - 1) (by omega) (List.ne_nil_of_length_pos (by omega)) (by omega)
        (descNum_recBytes (hb r (.head _)))
      rw [← takeRecs_first hm', ← List.nil_append r.bytes] at h
      have h' := Took.take (has := []) h (beq_self_eq_true r.opid)
      rw [show max - 1 + 1 = max by omega] at h'
      rw [List.length_nil, Nat.zero_div, Nat.sub_zero]
      simp only [takeFirst, if_true, List.head?_cons, Option.map_some, Option.some_beq_some]
      exact h'
  · have hpos : 0 < has.length := List.length_pos_iff.mpr hn
    simp only [takeFirst, if_neg hn, Option.some_beq_some]
    exact takeRecs_more recs (by omega) hn (by omega) rfl

theorem length_flatMap_bytes (rs : List BfqRec) : (rs.flatMap BfqRec.bytes).length = 16 * rs.length := by
  induction rs with
  | nil => rfl
  | cons r rs ih =>
    rw [List.flatMap_cons, List.length_append, length_recBytes, ih, List.length_cons]
    omega

/-- A take that has records and could get no more gets no more. -/
theorem takeRecs_again_more {max room : Nat} {has : List Byte} {recs : List BfqRec} (hroom : has.length + 16 * room = 16 * max) (hne : has ≠ [])
    (h14 : 14 ≤ has.length) (hlt : ((recs.filter (fun r => descNum has 12 2 == r.opid)).take room).length < room) :
    takeRecs max (takeRecs max has recs).1 (takeRecs max has recs).2 = takeRecs max has recs := by
  obtain ⟨hb, -, -, -, hre⟩ := takeRecs_more recs hroom hne h14 rfl
  generalize takeRecs max has recs = x at *
  have hx : 14 ≤ x.1.length := by
    rw [hb, List.length_append]
    omega
  have hnum : descNum x.1 12 2 = descNum has 12 2 := by rw [hb, descNum_append_left (by omega)]
  have hxl := congrArg List.length hb
  rw [List.length_append, length_flatMap_bytes] at hxl
  obtain ⟨hb', hs', hl', -, -⟩ := takeRecs_more x.2 (max := max) (has := x.1)
    (room := room - ((recs.filter (fun r => descNum has 12 2 == r.opid)).take room).length) (by omega) (List.ne_nil_of_length_pos (by omega)) hx hnum
  rw [List.length_take] at hlt
  rw [hre, List.drop_eq_nil_of_le (by omega)] at hb' hl'
  simp only [List.take_nil, List.flatMap_nil, List.append_nil, List.length_nil, Nat.add_zero] at hb' hl'
  exact Prod.ext hb' (hs'.eq_of_length hl')

theorem takeRecs_again {max : Nat} {has : List Byte} {recs : List BfqRec} (hl : has.length % 16 = 0) (hm : has.length < 16 * max)
    (hb : ∀ r ∈ recs, r.opid < 2 ^ 16 ∧ r.slot < 2 ^ 16 ∧ r.gen < 2 ^ 16)
    (hlt : ((recs.filter (fun r => takeFirst has recs == some r.opid)).take (max - has.length / 16)).length < max - has.length / 16) :
    takeRecs max (takeRecs max has recs).1 (takeRecs max has recs).2 = takeRecs max has recs := by
  by_cases hn : has = []
  · subst hn
    cases recs with
    | nil => rfl
    | cons r rs =>
      have hlen := length_recBytes r
      have hm' : 0 < max := by simpa using hm
      rw [takeRecs_first hm']
      refine takeRecs_again_more (room := max - 1) (by omega) (List.ne_nil_of_length_pos (by omega)) (by omega) ?_
      rw [descNum_recBytes (hb r (.head _))]
      simp only [takeFirst, if_true, List.head?_cons, Option.map_some, Option.some_beq_some] at hlt
      rw [List.length_nil, Nat.zero_div, Nat.sub_zero, show max = max - 1 + 1 by omega, List.filter_cons, if_pos (beq_self_eq_true _),
        List.take_succ_cons, List.length_cons] at hlt
      exact Nat.lt_of_succ_lt_succ hlt
  · have hpos : 0 < has.length := List.length_pos_iff.mpr hn
    simp only [takeFirst, if_neg hn, Option.some_beq_some] at hlt
    exact takeRecs_again_more (by omega) hn (by omega) hlt

/-! ## A take that returns -/

/-- The places of a take's records in its core's scratchpad. -/
def takePlaces (s : State) (core : Nat) (d : Cmd) : List Nat :=
  (List.range d.desc.length).map (((s.core core).team d.team).res.spbase + d.a.toNat + ·)

/-- The count of a take arrives at its register. -/
def State.countArrives (s : State) (d : Cmd) (o : EOp) : State :=
  match o.d with
  | .s n => s.onGroup d.who (fun g => g.arrive n.toNat (BitVec.ofNat 64 (d.desc.length / 16)) s.now)
  | _ => s

theorem State.takeReturn_eq (s : State) (core : Nat) (d : Cmd) (o : EOp) : s.takeReturn core d o =
    ((s.onTiles core (fun k => k.putSpad ((takePlaces s core d).zip d.desc))).countArrives d o).dropCmd core d := by
  have hbs : ((List.range d.desc.length).zip d.desc).map (fun (p : Nat × Byte) =>
      (SpadByte.here (((s.core core).team d.team).res.spbase + d.a.toNat + p.1), p.2)) = ((takePlaces s core d).map SpadByte.here).zip d.desc := by
    rw [takePlaces, List.map_map, List.zip_map_left]
    rfl
  rw [State.takeReturn]
  simp only [hbs, State.spadWrite_here]
  rfl

/-- The count as the statement tells it. -/
def countLanded (g : Group) (o : EOp) (n now : Nat) : Group :=
  match o.d with
  | .s m => { g with inflight := g.inflight.map (fun r =>
      if r.held = true ∧ r.sca.map Prod.fst = some m.toNat then
        { r with sca := r.sca.map (fun y => (y.1, BitVec.ofNat 64 n, y.2.2)), held := false, due := now }
      else r) }
  | _ => g

theorem Group.arrive_eq (g : Group) (n : Nat) (x : DWord) (due : Nat) : g.arrive n x due =
    { g with inflight := g.inflight.map (fun r =>
      if r.held = true ∧ r.sca.map Prod.fst = some n then { r with sca := r.sca.map (fun y => (y.1, x, y.2.2)), held := false, due := due } else r) } := by
  rw [Group.arrive]
  congr 1
  refine List.map_congr_left (fun r _ => ?_)
  cases hs : r.sca with
  | none => simp
  | some y =>
    obtain ⟨m, v, p⟩ := y
    by_cases hc : r.held = true ∧ m = n
    · simp [hc]
    · have : (r.held && m == n) = false := by
        rw [← Bool.not_eq_true, Bool.and_eq_true, beq_iff_eq]
        exact hc
      simp [this, hc]

section
variable {s : State} {core : Nat} {d : Cmd} (hg : isGlen d.who = false)
include hg

theorem State.countArrives_becomes (o : EOp) : OnlyRegisters d.who s (s.countArrives d o) ∧
    (s.countArrives d o).groupOf d.who = countLanded (s.groupOf d.who) o (d.desc.length / 16) s.now ∧ CmdsFrom s (s.countArrives d o) ∧
    (s.countArrives d o).glens = s.glens := by
  obtain ⟨a, ha⟩ : ∃ a, d.who = .gang a := by
    cases hd : d.who with
    | gang a => exact ⟨a, rfl⟩
    | glen n => rw [hd] at hg; cases hg
  unfold State.countArrives countLanded
  split
  · refine ⟨OnlyRegisters.onGroup _ _ _, ?_, ?_, ?_⟩
    · rw [State.groupOf_onGroup_same, Group.arrive_eq]
    · rw [ha]
      exact CmdsFrom.onCore s a.core _ (fun _ hy => hy)
    · rw [ha]
      rfl
  · exact ⟨OnlyRegisters.refl _ _, rfl, CmdsFrom.refl s, rfl⟩

/-- The records of a take lie at its place, its count is in its register, and its command has left (R327). -/
theorem State.takeReturn_returns (hcut : s.store.cut = []) (o : EOp) : TakeReturns s (s.takeReturn core d o) core d o d.desc ∧
    CmdsFrom s (s.takeReturn core d o) ∧ (s.takeReturn core d o).dies = s.dies := by
  rw [State.takeReturn_eq]
  generalize hu1 : s.onTiles core (fun k => k.putSpad ((takePlaces s core d).zip d.desc)) = u1
  have h1same : (u1.core core).store = (s.core core).store.putSpad ((takePlaces s core d).zip d.desc) := by
    rw [← hu1]
    exact congrArg Core.store (State.core_onCore_same s core _)
  have h1other (k : Nat) (hk : k ≠ core) : u1.core k = s.core k := by rw [← hu1]; exact State.core_onCore_other s hk _
  have h1part (k : Nat) : { u1.core k with store := {} } = { s.core k with store := {} } := by
    rw [← hu1]
    exact State.onTiles_part (fun c => { c with store := {} }) (fun _ _ => rfl) s core _ k
  have h1frame : u1 = { s with cores := u1.cores } := by rw [← hu1]; rfl
  have h1from : CmdsFrom s u1 := by rw [← hu1]; exact CmdsFrom.onCore s core _ (fun _ hy => hy)
  have h1group (v : Who) : u1.groupOf v = s.groupOf v :=
    State.groupOf_of_groups (fun k => eq_of_without (fun c : Core => { c with store := {} }) Core.groups (fun _ => rfl) (h1part k)) (by rw [h1frame]) v
  obtain ⟨⟨-, h2o, h2c, -, h2f⟩, h2g, h2from, h2gl⟩ := State.countArrives_becomes (s := u1) hg o
  generalize u1.countArrives d o = u2 at *
  have h2part {α : Type} (p : Core → α) (hp : ∀ c : Core, p { c with groups := [], store := {} } = p c) (k : Nat) : p (u2.core k) = p (s.core k) := by
    have h2 := congrArg (fun c : Core => { c with store := {} }) (h2c k)
    have h1 := congrArg (fun c : Core => { c with groups := [] }) (h1part k)
    exact eq_of_without _ p hp (h2.trans h1)
  have h2store (k : Nat) : (u2.core k).store = (u1.core k).store := eq_of_without (fun c : Core => { c with groups := [] }) Core.store (fun _ => rfl) (h2c k)
  have h2frame : u2 = { s with cores := u2.cores } := by rw [h2f, h2gl, h1frame]
  have h2cut : u2.store.cut = [] := by rw [h2frame]; exact hcut
  obtain ⟨hl, hk⟩ := State.dropCmd_leaves h2cut core d
  have hfrom := State.dropCmd_cmds h2cut core d
  generalize u2.dropCmd core d = t at *
  obtain ⟨htg, htf, hts, htc, hto, htm, -⟩ := hl
  have htpart {α : Type} (p : Core → α) (hp : ∀ c : Core, p { c with groups := [], store := {}, cmds := [], rings := [], flags := [] } = p c) (k : Nat) :
      p (t.core k) = p (s.core k) := by
    refine Eq.trans ?_ (h2part (fun c => p { c with cmds := [], rings := [], flags := [] }) (fun c => ?_) k |>.trans ?_)
    · rw [← hp (t.core k), ← hp { u2.core k with cmds := [], rings := [], flags := [] }]
      exact congrArg p (congrArg (fun c : Core => { c with groups := [] }) (htc k))
    · rw [← hp, ← hp { c with cmds := [], rings := [], flags := [] }]
    · rw [← hp, ← hp (s.core k)]
  have htstore (k : Nat) : (t.core k).store = (u1.core k).store := (hk k).1.trans (h2store k)
  have hplaces : (takePlaces s core d).Nodup := by
    rw [takePlaces]
    exact (List.nodup_range).map (fun a b h => Nat.add_left_cancel h)
  refine ⟨⟨⟨?_, ?_, ?_, ?_, ?_, ?_, fun k hk' => ?_⟩, ?_, ?_, fun k n => ?_, fun j y hj => ?_, fun p hp => ?_, ?_, fun k hk' => ?_, fun v hv => ?_, ?_⟩,
    (h1from.trans h2from).trans hfrom, by rw [htf, h2frame]⟩
  · rw [htf, h2frame]
  · rw [htf, h2frame]
  · rw [hts, h2frame]
  · exact htpart (fun c => { c with groups := [], caches := {}, store := {}, cmds := [], rings := [], flags := [] }) (fun _ => rfl)
  · exact htpart (fun c => { c.caches with l1 := [], l1own := [] }) (fun _ => rfl)
  · rw [htm, h2part Core.cmds (fun _ => rfl)]
  · rw [(hto k hk').2.1, h2part Core.cmds (fun _ => rfl)]
  · rw [hts, h2frame]
  · rw [hts, h2frame]
  · rw [State.flagOf, (hk k).2, h2part Core.flags (fun _ => rfl), State.flagOf]
  · have hlt : j < d.desc.length := (List.getElem?_eq_some_iff.mp hj).1
    have hpl : (takePlaces s core d)[j]? = some (((s.core core).team d.team).res.spbase + d.a.toNat + j) := by
      rw [takePlaces, List.getElem?_map, List.getElem?_range hlt]
      rfl
    rw [htstore, h1same]
    exact byte_puts_at _ d.desc _ hplaces j _ y hpl hj
  · rw [htstore, h1same]
    refine Sparse.look_puts_other 0#8 p Prod.fst Prod.snd _ _ (fun e he hpe => ?_)
    obtain ⟨j, hj, hje⟩ := List.mem_map.mp (List.of_mem_zip he).1
    have hj := List.mem_range.mp hj
    omega
  · rw [htstore, h1same]
    rfl
  · rw [htstore, h1other k hk']
  · rw [htg, h2o v hv, h1group]
  · rw [htg, h2g, h1group, show u1.now = s.now by rw [h1frame]]
    rfl

end

theorem AtQueue.takeReturns {s u t : State} {core : Nat} {d e : Cmd} {o : EOp} {bs : List Byte} (h : AtQueue core d.id s u)
    (hflag : ∀ k n, u.flagOf k n = s.flagOf k n) (hmem : u.store = s.store) (he : e = { d with phase := e.phase, desc := e.desc })
    (ht : TakeReturns u t core e o bs) : TakeReturns s t core d o bs := by
  have hid : e.id = d.id := by rw [he]
  have hwho : e.who = d.who := by rw [he]
  have ha : e.a = d.a := by rw [he]
  have hteam : (u.core core).team e.team = (s.core core).team d.team := by
    rw [he]
    exact h.part (fun c => c.team d.team) (fun _ => rfl) core
  have hst (k : Nat) : (u.core k).store = (s.core k).store := h.part Core.store (fun _ => rfl) k
  have hnow : u.now = s.now := by rw [h.frame]
  obtain ⟨hends, hm, hp, hf, hin, hout, hrest, hoth, hgo, hg⟩ := ht
  simp only [hteam, ha, hwho, hst, hmem, hflag, h.groupOf, hnow] at *
  exact ⟨h.ends rfl hid hends, hm, hp, hf, hin, hout, hrest, hoth, hgo, hg⟩

/-! ## BFQTAKE at its queue -/

/-- The state in which a take has what its queue gave it. -/
def State.taken (s : State) (core die q : Nat) (e : Cmd) (recs : List BfqRec) : State :=
  (s.onBfq die q (fun y => { y with recs := recs })).onCmd core e.id (fun _ => e)

theorem State.bfqTake_eq (s : State) (core die q : Nat) (d : Cmd) (o : EOp) : s.bfqTake core die q d o =
    let r := takeRecs (takeMax d.b) d.desc (s.bfq die q).recs
    if r.1.length = 16 * takeMax d.b then (s.taken core die q { d with desc := r.1 } r.2).takeReturn core { d with desc := r.1 } o
    else s.taken core die q { d with desc := r.1 } r.2 := by
  rw [State.bfqTake]
  exact if_congr beq_iff_eq rfl rfl

theorem State.taken_taken (s : State) (core die q : Nat) (e : Cmd) (recs : List BfqRec) :
    (s.taken core die q e recs).taken core die q e recs = s.taken core die q e recs := by
  have h1 := State.onBfq_onBfq s die q (f := fun y => { y with recs := recs }) (fun _ => rfl)
  have h2 := State.onCmd_onCmd (s.onBfq die q (fun y => { y with recs := recs })) core e.id (f := fun _ => e) (fun _ _ => rfl) (fun _ => rfl)
  have h3 : (s.taken core die q e recs).taken core die q e recs =
      ((((s.onBfq die q (fun y => { y with recs := recs })).onBfq die q (fun y => { y with recs := recs })).onCmd core e.id (fun _ => e)).onCmd core e.id
        (fun _ => e)) := rfl
  rw [h3, h1, h2]
  rfl

/-- A command that waits at its queue as another. -/
def WaitsAs (s t : State) (core : Nat) (d y : Cmd) : Prop :=
  t = { s with cores := t.cores, dies := t.dies } ∧ (∀ k ≠ core, t.core k = s.core k) ∧
    t.core core = { s.core core with cmds := (s.core core).cmds.map (fun z => if z.id == d.id then y else z) }

namespace AtHead
variable {s : State} {core : Nat} {d : Cmd} (h : AtHead s core d)
include h

/-- No command but this one has its number. -/
theorem only {z : Cmd} (hz : z ∈ (s.core core).cmds) (hid : z.id = d.id) : z = d :=
  List.inj_on_of_nodup_map h.nodup hz (List.mem_of_find?_eq_some h.here) hid

theorem startCmd_waits : WaitsAs s (s.startCmd core d) core d d.onward := by
  refine ⟨rfl, fun k hk => by rw [State.startCmd, State.onCmd_core, if_neg hk], ?_⟩
  rw [State.startCmd, State.onCmd_core, if_pos rfl]
  refine congrArg (fun l => ({ s.core core with cmds := l } : Core)) (List.map_congr_left (fun z hz => ?_))
  by_cases hid : z.id = d.id
  · rw [h.only hz hid]
  · simp [hid]

omit h in
theorem taken_waits {die q : Nat} {e : Cmd} (he : e.id = d.id) (recs : List BfqRec) : WaitsAs s ((s.startCmd core d).taken core die q e recs) core d e := by
  refine ⟨rfl, fun k hk => ?_, ?_⟩
  · rw [State.taken, State.onCmd_core, if_neg hk]
    exact (State.onCmd_core s core d.id Cmd.onward k).trans (if_neg hk)
  · rw [State.taken, State.onCmd_core, if_pos rfl]
    have h1 : ((s.startCmd core d).onBfq die q (fun y => { y with recs := recs })).core core = _ := (State.onCmd_core s core d.id Cmd.onward core).trans (if_pos rfl)
    rw [h1, List.map_map]
    refine congrArg (fun l => ({ s.core core with cmds := l } : Core)) (List.map_congr_left (fun z _ => ?_))
    by_cases hid : z.id = d.id
    · simp [hid, he, Cmd.onward]
    · simp [hid, he]

omit h in
theorem tryTake {o : EOp} (hop : d.op = .bfqtake o) : (s.startCmd core d).bfqStep core (dieOfCore core) (bfqField d.op) d.onward =
    (s.startCmd core d).bfqTake core (dieOfCore core) (bfqField d.op) d.onward o := by
  have hop' : d.onward.op = .bfqtake o := hop
  simp only [State.bfqStep, hop']

theorem takes {o : EOp} (hop : d.op = .bfqtake o) (hl : d.desc.length % 16 = 0) (hm : d.desc.length < 16 * takeMax d.b)
    (hb : ∀ r ∈ (s.bfq (dieOfCore core) (bfqField d.op)).recs, r.opid < 2 ^ 16 ∧ r.slot < 2 ^ 16 ∧ r.gen < 2 ^ 16)
    (hg : isGlen d.who = false) :
    let x := s.bfq (dieOfCore core) (bfqField d.op)
    let mine (r : BfqRec) : Bool := takeFirst d.desc x.recs == some r.opid
    let room := takeMax d.b - d.desc.length / 16
    let got := (x.recs.filter mine).take room
    let bytes := d.desc ++ got.flatMap BfqRec.bytes
    ∃ t rest, exec (.engineCommandStart core d.id) s = .next t ∧ QueueBecomes s t (dieOfCore core) (bfqField d.op) { x with recs := rest } ∧
      rest.Sublist x.recs ∧ rest.length + got.length = x.recs.length ∧ rest.filter (fun r => !mine r) = x.recs.filter (fun r => !mine r) ∧
      rest.filter mine = (x.recs.filter mine).drop room ∧ (got.length < room → WaitsAs s t core d { d.onward with desc := bytes }) ∧
      (got.length = room → TakeReturns s t core d o bytes) := by
  intro x mine room got bytes
  obtain ⟨hbytes, hsub, hlen, hoth, hrest⟩ := takeRecs_took hl hm hb
  have hagain := takeRecs_again hl hm hb
  have htry := (tryTake (s := s) (core := core) hop).trans (State.bfqTake_eq _ _ _ _ _ _)
  have hrecs : takeRecs (takeMax d.onward.b) d.onward.desc ((s.startCmd core d).bfq (dieOfCore core) (bfqField d.op)).recs =
      takeRecs (takeMax d.b) d.desc x.recs := rfl
  simp only [hrecs] at htry
  generalize hr : takeRecs (takeMax d.b) d.desc x.recs = r at *
  have hbytes : r.1 = bytes := hbytes
  have hglen : got.length ≤ room := List.length_take_le _ _
  have hrl : r.1.length = d.desc.length + 16 * got.length := by rw [hbytes, List.length_append, length_flatMap_bytes]
  have hroom : d.desc.length + 16 * room = 16 * takeMax d.b := by omega
  rw [show takeMax d.onward.b = takeMax d.b from rfl, hbytes] at htry
  let e : Cmd := { d.onward with desc := bytes }
  have hwaits : WaitsAs s ((s.startCmd core d).taken core (dieOfCore core) (bfqField d.op) e r.2) core d e := taken_waits (d := d) (e := e) rfl r.2
  have hq : AtQueue core d.id s ((s.startCmd core d).taken core (dieOfCore core) (bfqField d.op) e r.2) :=
    (queued.trans (AtQueue.onBfq core d.id _ _ _ _)).trans (AtQueue.onCmd core d.id _ (fun _ _ => .inl rfl))
  have hbfq : QueueBecomes s ((s.startCmd core d).taken core (dieOfCore core) (bfqField d.op) e r.2) (dieOfCore core) (bfqField d.op) { x with recs := r.2 } :=
    QueueBecomes.of_dies (QueueBecomes.left (State.bfq_onBfq (s.startCmd core d) (dieOfCore core) (bfqField d.op) (fun y => { y with recs := r.2 })) rfl) rfl
  have hserves : Serves core d.id (dieOfCore core) (bfqField d.op) ((s.startCmd core d).taken core (dieOfCore core) (bfqField d.op) e r.2) := by
    intro p hp y hy hop' hq' hdie hph hpa
    obtain rfl | hm' := State.mem_cores_onCore hp
    · obtain ⟨z, hz, hzy⟩ := List.mem_map.mp hy
      by_cases hid : z.id = e.id
      · rw [if_pos (beq_iff_eq.mpr hid)] at hzy
        exact ⟨rfl, by rw [← hzy]; rfl⟩
      · rw [if_neg (by simpa using hid)] at hzy
        subst hzy
        exact h.serves _ (State.mem_cmds hz) z hz hop' hq' hdie hph hpa
    · exact h.serves p hm' y hy hop' hq' hdie hph hpa
  by_cases hfull : got.length = room
  · rw [if_pos (by rw [← hbytes]; omega)] at htry
    have hflag (k n : Nat) : ((s.startCmd core d).taken core (dieOfCore core) (bfqField d.op) e r.2).flagOf k n = s.flagOf k n :=
      (State.core_onCore_of (fun c => Sparse.look ({} : Flag) n c.flags) ((s.startCmd core d).onBfq (dieOfCore core) (bfqField d.op) _) core _ rfl k).trans
        (startCmd_flagOf (core := core) (d := d) k n)
    obtain ⟨hret, hfrom, hdies⟩ := State.takeReturn_returns (s := (s.startCmd core d).taken core (dieOfCore core) (bfqField d.op) e r.2) (d := e) hg h.cut o
    obtain ⟨⟨-, -, -, -, -, hcm, -⟩, -⟩ := id hret
    have hgone := cmd_none_of_filter hcm
    refine ⟨_, r.2, h.start_once htry (hserves.from hfrom) (State.tryCmd_none hgone _ _), QueueBecomes.of_dies hbfq hdies, hsub, hlen, hoth, hrest,
      fun hlt => absurd hfull (by omega), fun _ => AtQueue.takeReturns hq hflag rfl rfl hret⟩
  · have hlt : got.length < room := by omega
    rw [if_neg (by rw [← hbytes]; omega)] at htry
    have hcmd : (((s.startCmd core d).taken core (dieOfCore core) (bfqField d.op) e r.2).core core).cmd d.id = some e :=
      State.onCmd_cmd (s := (s.startCmd core d).onBfq (dieOfCore core) (bfqField d.op) _) h.started (f := fun _ => e) (fun _ _ => rfl)
    refine ⟨_, r.2, h.start_once htry hserves ?_, hbfq, hsub, hlen, hoth, hrest, fun _ => hwaits, fun hf => absurd hf hfull⟩
    rw [State.tryCmd_some hcmd]
    have hstep : ((s.startCmd core d).taken core (dieOfCore core) (bfqField d.op) e r.2).bfqStep core (dieOfCore core) (bfqField d.op) e =
        ((s.startCmd core d).taken core (dieOfCore core) (bfqField d.op) e r.2).bfqTake core (dieOfCore core) (bfqField d.op) e o := by
      have hop' : e.op = .bfqtake o := hop
      simp only [State.bfqStep, hop']
    have hx := congrArg Bfq.recs hbfq.1
    have hag := hagain hlt
    rw [hbytes] at hag
    have hag' : takeRecs (takeMax e.b) e.desc r.2 = r := hag
    have he : { e with desc := r.1 } = e := by rw [hbytes]
    rw [hstep, State.bfqTake_eq, hx]
    simp only [hag', he]
    rw [if_neg (by rw [show takeMax e.b = takeMax d.b from rfl]; omega)]
    exact State.taken_taken _ _ _ _ e r.2

end AtHead

theorem bfqStart_behind {s : State} {core : Nat} {d : Cmd} (hop : isBfq d.op = true) (h : Holds s core d .queued)
    (hb : ∃ y ∈ (s.core core).cmds, y.id < d.id ∧ unitOf y.op = 4 ∧ y.begun = false ∧ y.paused = none) : s.bfqStart core d = s := by
  have he : earlierStarted (s.core core) d = false := by
    rw [← Bool.not_eq_true, earlierStarted_iff, not_not, (isBfq_unit hop).1]
    exact hb
  obtain ⟨-, hph, -⟩ := h
  rw [State.bfqStart, if_pos]
  rw [he, hph]
  cases d.paused <;> rfl

theorem exec_takeTimeout {s : State} {core : Nat} {d : Cmd} {o : EOp} (h : Holds s core d .started) (hop : d.op = .bfqtake o) :
    exec (.bfqtakeTimeout core d.id) s = .next (if d.due ≤ s.now then s.takeReturn core d o else s) := by
  obtain ⟨hc, hph, -⟩ := h
  refine (congrArg Host.Outcome.next ?_ : execBfqtakeTimeout core d.id s = _)
  rw [hc]
  simp only [hop, hph]
  exact if_congr (by simp) rfl rfl

end Sys2Proof.Machine

namespace Sys2Proof
open Machine

/-- Settles O35: at a queue where one command waits, one try of it is all that the service does. -/
theorem batchQueues : Obligations.BatchQueues := by
  unfold Obligations.BatchQueues
  refine ⟨⟨?_, fun core d s hop hh hb => ?_, ?_⟩,
    fun core d o s hh hop => ?_⟩
  · intro i site q f res s c h hg hfresh core a max hi x open' fits
    obtain ⟨o, rfl, rfl, rfl, rfl, rfl⟩ | ⟨o, rfl, rfl, rfl, rfl, rfl⟩ | ⟨o, rfl, rfl, rfl, rfl, rfl⟩ := hi
    · have hopen : bfqOpen s c (.bfqpost o) = true ↔ open' := bfqOpen_iff
      have hfits : fits := fun o' he => Instr.noConfusion he
      obtain ⟨hno, hyes⟩ := bfqpost_issue hg hfresh h
      exact ⟨fun hn => hno (Bool.not_eq_true _ ▸ fun ho => hn ⟨hopen.mp ho, hfits⟩), fun ho _ => hyes (hopen.mpr ho)⟩
    · have hopen : bfqOpen s c (.bfqdone o) = true ↔ open' := bfqOpen_iff
      have hfits : fits := fun o' he => Instr.noConfusion he
      obtain ⟨hno, hyes⟩ := bfqdone_issue hg hfresh h
      exact ⟨fun hn => hno (Bool.not_eq_true _ ▸ fun ho => hn ⟨hopen.mp ho, hfits⟩), fun ho _ => hyes (hopen.mpr ho)⟩
    · have hok : takeOk s c o = true ↔ open' ∧ fits := by
        rw [takeOk_iff, bfqOpen_iff]
        refine and_congr Iff.rfl ⟨fun hf o' he => ?_, fun hf => hf o rfl⟩
        obtain rfl : o = o' := by injection he
        exact hf
      obtain ⟨hno, hyes⟩ := bfqtake_issue hg hfresh h
      exact ⟨fun hn => hno (Bool.not_eq_true _ ▸ mt hok.mp hn), fun ho hf => hyes (hok.mpr ⟨ho, hf⟩)⟩
  · rw [exec_bfqStart hh.1 hop, bfqStart_behind hop hh hb]
  · intro core d s hop hc hpa hns hqu die q x tm b entry e stays starts hready halone hnodup herr
    have h : AtHead s core d := ⟨hop, hc, hpa, hns, hqu, hready, halone, hnodup⟩
    have hb (hi lo : Nat) : bitsOf d.b hi lo = b hi lo := bitsOf_eq d.b hi lo
    have hgen : bfqGen d.b = b 15 0 := hb 15 0
    have hslot : bfqSlot d.b = b 31 16 := hb 31 16
    have hopid : bfqOp d.b = b 47 32 := hb 47 32
    refine ⟨?_, fun o hop hs hf => ?_, fun o hop hs hfl => ?_, ?_, fun o hop => ?_⟩
    · intro o hop hs hf hnd ws hw hn
      rw [← hslot] at hs
      have hwrites : postWrites s core d x = [cleanWrite (entry + 8) (leBytes 8 (hnd * 2 ^ 32 + 2 ^ 16 + b 15 0))] := by
        rw [postWrites, hgen, Bfq.entry, hslot]
        rfl
      have hrec : postRec d = { row := d.a, gen := b 15 0, slot := b 31 16, opid := b 47 32 } := by
        rw [postRec, hgen, hslot, hopid]
      rw [← hwrites] at hw
      rw [← hrec]
      exact h.posts hop hs hf hw hn
    · rw [← hslot] at hs
      exact ⟨_, h.postFull hop hs hf, h.startCmd_waits, QueueBecomes.refl s die q⟩
    · rw [← hslot] at hs
      exact h.postBeyond hop hs hfl
    · intro o hop hl hm hbd hw hg
      have hmax : takeMax d.b = b 7 0 := hb 7 0
      have ht := h.takes hop hl (by rw [hmax]; exact hm) hbd hg
      rw [hmax] at ht
      exact ht
    · intro dropped
      have hentry : x.entry (bfqSlot d.b) = entry := by rw [Bfq.entry, hslot]
      refine ⟨fun hs => ?_, fun hs bs bad hr => ?_⟩
      · rw [← hslot] at hs
        exact h.doneBeyond hop hs
      · intro w pends
        rw [← hslot] at hs
        rw [← hentry] at hr
        have hpends : Pends w (bfqGen d.b) ↔ pends := by rw [hgen]; exact Iff.rfl
        refine ⟨fun hp => h.doneStale hop hs hr (mt hpends.mp hp), fun hp tgt ht hst src ws hsrc hws hnd => ?_⟩
        rw [← hentry] at hws
        exact h.doneCopies hop hs hr (hpends.mpr hp) ht hst hsrc hws hnd
  · refine ⟨fun hlt => by rw [exec_takeTimeout hh hop, if_neg (Nat.not_le.mpr hlt)], fun hle hcut _ hg => ⟨_, exec_takeTimeout hh hop, ?_⟩⟩
    rw [if_pos hle]
    obtain ⟨hret, -, hdies⟩ := State.takeReturn_returns hg hcut o
    exact ⟨hret, hdies⟩

end Sys2Proof
end

section
/-! What engine commands of a core leave unchanged while they run and when they end (R133, R303, R310). -/

namespace Sys2Proof.Machine
open Sys2Proof

/-! ## What may change while a command runs -/

/-- Besides memory and scratchpads, their poison, what the caches hold, rings, stream registers, gather counters, the wakes of islands and one team's buffer
counters nothing has changed, and no group's stop for the debugger. -/
structure Ran (core team : Nat) (s u : State) : Prop where
  frame : u = { s with cores := u.cores, slices := u.slices, store := u.store, plat := u.plat, free := u.free }
  groups : ∀ v, { u.groupOf v with q := [] } = { s.groupOf v with q := [] }
  stops : ∀ k key, groupStopped ((u.core k).groupK key) = groupStopped ((s.core k).groupK key)
  plat : { u.plat with islands := [] } = { s.plat with islands := [] }
  cores : ∀ k, { u.core k with groups := [], caches := {}, crew := {}, store := {}, rings := [] } =
    { s.core k with groups := [], caches := {}, crew := {}, store := {}, rings := [] }
  caches : ∀ k, { (u.core k).caches with l1 := [], l1own := [] } = { (s.core k).caches with l1 := [], l1own := [] }
  crew : ∀ k, { (u.core k).crew with teams := [] } = { (s.core k).crew with teams := [] }
  teams : ∀ k x, (k ≠ core ∨ x ≠ team → (u.core k).team x = (s.core k).team x) ∧
    { (u.core k).team x with counters := [], saturated := false } = { (s.core k).team x with counters := [], saturated := false }
  stores : ∀ k, { (u.core k).store with spad := [], spadPoison := [], tiles := [], lost := [], tilePoison := [] } =
    { (s.core k).store with spad := [], spadPoison := [], tiles := [], lost := [], tilePoison := [] }
  store : { u.store with mem := [], poison := [], l2 := [], evict := [], replicas := [] } =
    { s.store with mem := [], poison := [], l2 := [], evict := [], replicas := [] }

namespace Ran
variable {core team : Nat} {s u : State}

theorem refl (core team : Nat) (s : State) : Ran core team s s :=
  ⟨rfl, fun _ => rfl, fun _ _ => rfl, rfl, fun _ => rfl, fun _ => rfl, fun _ => rfl, fun _ _ => ⟨fun _ => rfl, rfl⟩, fun _ => rfl, rfl⟩

theorem trans {t : State} (h : Ran core team s u) (h' : Ran core team u t) : Ran core team s t where
  frame := by rw [h'.frame, h.frame]
  groups v := (h'.groups v).trans (h.groups v)
  stops k key := (h'.stops k key).trans (h.stops k key)
  plat := h'.plat.trans h.plat
  cores k := (h'.cores k).trans (h.cores k)
  caches k := (h'.caches k).trans (h.caches k)
  crew k := (h'.crew k).trans (h.crew k)
  teams k x := ⟨fun hx => ((h'.teams k x).1 hx).trans ((h.teams k x).1 hx), (h'.teams k x).2.trans (h.teams k x).2⟩
  stores k := (h'.stores k).trans (h.stores k)
  store := h'.store.trans h.store

theorem foldl {α : Type} {f : State → α → State} (h : ∀ s x, Ran core team s (f s x)) (xs : List α) (s : State) : Ran core team s (xs.foldl f s) := by
  induction xs generalizing s with
  | nil => exact refl core team s
  | cons x xs ih => exact (h s x).trans (ih _)

theorem part (h : Ran core team s u) {α : Type} (p : Core → α)
    (hp : ∀ c : Core, p { c with groups := [], caches := {}, crew := {}, store := {}, rings := [] } = p c) (k : Nat) : p (u.core k) = p (s.core k) :=
  eq_of_without _ p hp (h.cores k)

theorem cmds (h : Ran core team s u) (k : Nat) : (u.core k).cmds = (s.core k).cmds := h.part Core.cmds (fun _ => rfl) k

theorem flagOf (h : Ran core team s u) (k n : Nat) : u.flagOf k n = s.flagOf k n := h.part (fun c => Sparse.look ({} : Flag) n c.flags) (fun _ => rfl) k

theorem cut (h : Ran core team s u) : u.store.cut = s.store.cut :=
  eq_of_without (fun m : Store => { m with mem := [], poison := [], l2 := [], evict := [], replicas := [] }) Store.cut (fun _ => rfl) h.store

theorem owners (h : Ran core team s u) : u.store.owners = s.store.owners :=
  eq_of_without (fun m : Store => { m with mem := [], poison := [], l2 := [], evict := [], replicas := [] }) Store.owners (fun _ => rfl) h.store

/-- A change of one core that changes only its rings and its teams' buffer counters, those of one team. -/
theorem onCore (s : State) (k : Nat) (f : Core → Core)
    (hf : { f (s.core k) with rings := [], crew := { (f (s.core k)).crew with teams := [] } } =
      { s.core k with rings := [], crew := { (s.core k).crew with teams := [] } })
    (ht : ∀ x, (k ≠ core ∨ x ≠ team → (f (s.core k)).team x = (s.core k).team x) ∧
      { (f (s.core k)).team x with counters := [], saturated := false } = { (s.core k).team x with counters := [], saturated := false }) :
    Ran core team s (s.onCore k f) := by
  have part {α : Type} (p : Core → α) (hp : ∀ c : Core, p { c with rings := [], crew := { c.crew with teams := [] } } = p c) (j : Nat) :
      p ((s.onCore k f).core j) = p (s.core j) := State.core_onCore_of p s k f (eq_of_without _ p hp hf) j
  refine ⟨rfl, fun v => ?_, fun j key => ?_, rfl, fun j => ?_, fun j => ?_, fun j => ?_, fun j x => ?_, fun j => ?_, rfl⟩
  · rw [State.groupOf_of_groups (part Core.groups (fun _ => rfl)) rfl v]
  · exact part (fun c => groupStopped (c.groupK key)) (fun _ => rfl) j
  · exact part (fun c => { c with groups := [], caches := {}, crew := {}, store := {}, rings := [] }) (fun _ => rfl) j
  · exact part (fun c => { c.caches with l1 := [], l1own := [] }) (fun _ => rfl) j
  · exact part (fun c => { c.crew with teams := [] }) (fun _ => rfl) j
  · by_cases hj : j = k
    · subst hj
      rw [State.core_onCore_same]
      exact ht x
    · rw [State.core_onCore_other s hj]
      exact ⟨fun _ => rfl, rfl⟩
  · exact part (fun c => { c.store with spad := [], spadPoison := [], tiles := [], lost := [], tilePoison := [] }) (fun _ => rfl) j

theorem onRing (core team : Nat) (s : State) (k r : Nat) (f : Ring → Ring) : Ran core team s (s.onRing k r f) :=
  onCore s k _ rfl (fun _ => ⟨fun _ => rfl, rfl⟩)

/-- The buffer counters of a copy. -/
theorem countCopy (s : State) (core : Nat) (d : Cmd) (x : CopyDesc) : Ran core d.team s (s.countCopy core d x) := by
  refine onCore s core _ rfl (fun y => ?_)
  rw [Core.team_onTeam]
  refine ⟨fun hy => if_neg (hy.resolve_left (fun h => h rfl)), ?_⟩
  split
  · next h =>
    subst h
    dsimp only
    split <;> split <;> rfl
  · rfl

/-- The stream registers of a group. -/
theorem onStream (core team : Nat) (s : State) {w : Who} (hw : isGlen w = false) (f : Sparse Stream → Sparse Stream) :
    Ran core team s (s.onGroup w (fun g => { g with q := f g.q })) := by
  cases w with
  | glen n => cases hw
  | gang g =>
    have part {α : Type} (p : Core → α) (hp : ∀ c : Core, p { c with groups := [] } = p c) (j : Nat) :
        p ((s.onGroup (.gang g) (fun g => { g with q := f g.q })).core j) = p (s.core j) :=
      State.core_onCore_of p s g.core _ (eq_of_without (fun c : Core => { c with groups := [] }) p hp rfl) j
    have hg (j key : Nat) : { ((s.onGroup (.gang g) (fun g => { g with q := f g.q })).core j).groupK key with q := [] } = { (s.core j).groupK key with q := [] } := by
      refine State.core_onCore_of (fun c : Core => { c.groupK key with q := [] }) s g.core _ ?_ j
      show { ((s.core g.core).onGroupK (slotKey g.bank g.slot) (fun g => { g with q := f g.q })).groupK key with q := [] } = _
      rw [Core.groupK_onGroupK]
      split
      · next h => rw [h]
      · rfl
    refine ⟨rfl, fun v => ?_, fun j key => ?_, rfl, fun j => ?_, fun j => ?_, fun j => ?_, fun j x => ⟨fun _ => ?_, ?_⟩, fun j => ?_, rfl⟩
    · cases v with
      | glen n => rfl
      | gang h => exact hg h.core _
    · exact eq_of_without (fun g : Group => { g with q := [] }) groupStopped (fun _ => rfl) (hg j key)
    · exact part (fun c => { c with groups := [], caches := {}, crew := {}, store := {}, rings := [] }) (fun _ => rfl) j
    · exact part (fun c => { c.caches with l1 := [], l1own := [] }) (fun _ => rfl) j
    · exact part (fun c => { c.crew with teams := [] }) (fun _ => rfl) j
    · exact part (fun c => c.team x) (fun _ => rfl) j
    · exact part (fun c => { c.team x with counters := [], saturated := false }) (fun _ => rfl) j
    · exact part (fun c => { c.store with spad := [], spadPoison := [], tiles := [], lost := [], tilePoison := [] }) (fun _ => rfl) j

/-- The command's end after what it did: it leaves its core, and its flag goes up. -/
theorem finish {d : Cmd} (h : Ran core d.team s u) (hc : s.store.cut = []) (he : d.err = false) :
    CommandEnds s (u.finishCmd core d false) core d ∧ FlagUp s (u.finishCmd core d false) core d := by
  obtain ⟨hl, ⟨hf0, hf1⟩, hst⟩ := State.finishCmd_ends (h.cut.trans hc) core d false (.inr (by rw [he]; rfl))
  obtain ⟨gf, gg, gp, gc, gca, gcr, gt, gst, gs, go, gm⟩ := CmdLeaves.ends hl hst
  have part {α : Type} (p : Core → α) (hp : ∀ c : Core, p { c with groups := [], caches := {}, crew := {}, store := {}, rings := [] } = p c) (k : Nat) :
      p (u.core k) = p (s.core k) := h.part p hp k
  refine ⟨⟨by rw [gf, h.frame], fun v => (gg v).trans (h.groups v), gp.trans h.plat, fun k => (gc k).trans ?_, fun k => (gca k).trans (h.caches k),
    fun k => (gcr k).trans (h.crew k), fun k x => ⟨fun hx => ((gt k x).1 hx).trans ((h.teams k x).1 hx), (gt k x).2.trans (h.teams k x).2⟩,
    fun k => (gst k).trans (h.stores k), gs.trans ?_, fun k hk => ⟨(go k hk).1.trans (h.cmds k), (go k hk).2.trans ?_⟩, gm.trans (by rw [h.cmds])⟩,
    fun hn x => (hf0 hn x).trans (h.flagOf core x), fun n hn hs x => ?_⟩
  · exact part (fun c => { c with groups := [], caches := {}, crew := {}, store := {}, cmds := [], rings := [], flags := [] }) (fun _ => rfl) k
  · rw [h.owners]
    exact congrArg (fun m : Store => { m with owners := s.store.owners.filter (fun o => !(o.unit == core && o.cmd == d.id)) }) h.store
  · exact part Core.flags (fun _ => rfl) k
  · have hbase : ((u.core core).team d.team).res.fbase = ((s.core core).team d.team).res.fbase :=
      eq_of_without (fun t : Team => { t with counters := [], saturated := false }) (fun t : Team => t.res.fbase) (fun _ => rfl) (h.teams core d.team).2
    have hup := hf1 n hn (by rw [h.stops, part Core.agent (fun _ => rfl)]; exact hs) x
    rw [hup, hbase, h.flagOf, he]
    rfl

/-- A state whose cores are as before. -/
theorem of_cores (hc : u.cores = s.cores) (hf : u = { s with cores := u.cores, slices := u.slices, store := u.store, plat := u.plat, free := u.free })
    (hp : { u.plat with islands := [] } = { s.plat with islands := [] })
    (hs : { u.store with mem := [], poison := [], l2 := [], evict := [], replicas := [] } =
      { s.store with mem := [], poison := [], l2 := [], evict := [], replicas := [] }) : Ran core team s u := by
  have hk (k : Nat) : u.core k = s.core k := congrArg (Sparse.look ({} : Core) k) hc
  have hg (v : Who) : u.groupOf v = s.groupOf v := State.groupOf_of_groups (fun k => by rw [hk]) (by rw [hf]) v
  exact ⟨hf, fun v => by rw [hg], fun k key => by rw [hk], hp, fun k => by rw [hk], fun k => by rw [hk], fun k => by rw [hk],
    fun k x => ⟨fun _ => by rw [hk], by rw [hk]⟩, fun k => by rw [hk], hs⟩

end Ran

/-! ## Bytes of scratchpads and memory -/

/-- A byte of the scratchpad of a core, or of the memory outside the cores: what the statements on copies call `byteOf`, a name that the bytes of a word
have here. -/
def State.byteAt (s : State) (core : Nat) : SpadByte → Byte
  | .here a => (s.core core).store.spad.byte a
  | .there p => s.store.mem.byte p

/-! ## Lines requested for reading -/

/-- Lines were requested of their home slices: only these, what the L2 holds and the use of islands changed (R64, R85). -/
structure Gathered (s u : State) : Prop where
  cores : u.cores = s.cores
  frame : u = { s with slices := u.slices, store := u.store, plat := u.plat }
  plat : { u.plat with islands := [] } = { s.plat with islands := [] }
  store : { u.store with l2 := [], evict := [] } = { s.store with l2 := [], evict := [] }

namespace Gathered
variable {s u : State}

theorem refl (s : State) : Gathered s s := ⟨rfl, rfl, rfl, rfl⟩

theorem trans {t : State} (h : Gathered s u) (h' : Gathered u t) : Gathered s t :=
  ⟨h'.cores.trans h.cores, by rw [h'.frame, h.frame], h'.plat.trans h.plat, h'.store.trans h.store⟩

theorem foldl {α : Type} {f : State → α → State} (h : ∀ s x, Gathered s (f s x)) (xs : List α) (s : State) : Gathered s (xs.foldl f s) := by
  induction xs generalizing s with
  | nil => exact refl s
  | cons x xs ih => exact (h s x).trans (ih _)

theorem useSlice (s : State) (p : Nat) : Gathered s (s.useSlice p) := by
  rw [State.useSlice]
  split
  · exact ⟨rfl, rfl, rfl, rfl⟩
  · exact refl s

theorem keepL2 (s : State) (l : Nat) (first : Bool) : Gathered s (s.keepL2 l first) := by
  obtain ⟨⟨l2, ev, h⟩, -⟩ := State.keepL2_only s l first
  rw [h]
  exact ⟨rfl, rfl, rfl, rfl⟩

theorem gather (s : State) (p cls : Nat) (first : Bool) : Gathered s (s.gather p cls first) := by
  rw [State.gather]
  split
  · have hreq : Gathered s ({ s with slices := Sparse.upd {} (homeSlice p) (fun m => m.request p cls) s.slices } : State) := ⟨rfl, rfl, rfl, rfl⟩
    split
    · exact hreq.trans (useSlice _ p)
    · exact (hreq.trans (useSlice _ p)).trans (keepL2 _ _ first)
  · exact refl s

theorem core (h : Gathered s u) (k : Nat) : u.core k = s.core k := congrArg (Sparse.look ({} : Core) k) h.cores

theorem part (h : Gathered s u) {α : Type} (p : Store → α) (hp : ∀ m : Store, p { m with l2 := [], evict := [] } = p m) : p u.store = p s.store :=
  eq_of_without (fun m : Store => { m with l2 := [], evict := [] }) p hp h.store

theorem ran (h : Gathered s u) (core team : Nat) : Ran core team s u :=
  Ran.of_cores h.cores (by rw [h.frame]) h.plat (congrArg (fun m : Store => { m with mem := [], poison := [], replicas := [] }) h.store)

theorem noStash (h : Gathered s u) (hs : NoStash s) : NoStash u :=
  ⟨h.cores ▸ hs.1, (eq_of_without (fun m : Platform => { m with islands := [] }) (fun m : Platform => (m.links.filter Prod.snd).map Prod.fst) (fun _ => rfl) h.plat).trans hs.2⟩

theorem quiet (h : Gathered s u) (hq : Quiet s) : Quiet u := by
  obtain ⟨hp, hc, hk⟩ := hq
  exact ⟨(h.part Store.poison (fun _ => rfl)).trans hp, (h.part Store.cut (fun _ => rfl)).trans hc, fun k => by rw [h.core]; exact hk k⟩

theorem byteAt_eq (h : Gathered s u) (c : Nat) (b : SpadByte) : u.byteAt c b = s.byteAt c b := by
  cases b with
  | here a => exact congrArg (fun c : Core => c.store.spad.byte a) (h.core c)
  | there p => exact congrArg (fun m : Memory => m.byte p) (h.part Store.mem (fun _ => rfl))

end Gathered

/-! ## What an engine writes -/

namespace EngineWrote
variable {c : Nat} {s u : State} {bs : List (SpadByte × Byte × Bool)}

theorem ran (h : EngineWrote c s u bs) (core team : Nat) : Ran core team s u := by
  have part {α : Type} (p : Core → α) (hp : ∀ c : Core, p { c with caches := {}, store := {} } = p c) (k : Nat) : p (u.core k) = p (s.core k) :=
    eq_of_without _ p hp (h.cores k)
  refine ⟨by rw [h.frame], fun v => ?_, fun k key => ?_, h.plat, fun k => ?_, h.caches, fun k => ?_, fun k x => ⟨fun _ => ?_, ?_⟩, fun k => ?_, ?_⟩
  · rw [State.groupOf_of_groups (part Core.groups (fun _ => rfl)) (by rw [h.frame]) v]
  · exact part (fun c => groupStopped (c.groupK key)) (fun _ => rfl) k
  · exact part (fun c => { c with groups := [], caches := {}, crew := {}, store := {}, rings := [] }) (fun _ => rfl) k
  · exact part (fun c => { c.crew with teams := [] }) (fun _ => rfl) k
  · exact part (fun c => c.team x) (fun _ => rfl) k
  · exact part (fun c => { c.team x with counters := [], saturated := false }) (fun _ => rfl) k
  · by_cases hk : k = c
    · subst hk
      exact congrArg (fun m : CoreStore => { m with tiles := [], lost := [], tilePoison := [] }) h.tiles
    · rw [h.others k hk]
  · exact congrArg (fun m : Store => { m with l2 := [], evict := [] }) h.store

theorem mem_spadPart {a : Nat} {v : Byte} : (a, v) ∈ spadPart bs ↔ ∃ y ∈ bs, y.1 = .here a ∧ y.2.1 = v := by
  rw [spadPart, herePart, List.mem_filterMap]
  constructor
  · rintro ⟨x, hx, he⟩
    obtain ⟨y, hy, rfl⟩ := List.mem_map.mp hx
    obtain ⟨b, w, p⟩ := y
    cases b with
    | here a' => cases he; exact ⟨_, hy, rfl, rfl⟩
    | there q => cases he
  · rintro ⟨⟨b, w, p⟩, hy, rfl, rfl⟩
    exact ⟨_, List.mem_map.mpr ⟨_, hy, rfl⟩, rfl⟩

theorem mem_memPart {q : Nat} {v : Byte} : (q, v) ∈ memPart bs ↔ ∃ y ∈ bs, y.1 = .there q ∧ y.2.1 = v := by
  rw [memPart, therePart, List.mem_filterMap]
  constructor
  · rintro ⟨x, hx, he⟩
    obtain ⟨y, hy, rfl⟩ := List.mem_map.mp hx
    obtain ⟨b, w, p⟩ := y
    cases b with
    | here a' => cases he
    | there q => cases he; exact ⟨_, hy, rfl, rfl⟩
  · rintro ⟨⟨b, w, p⟩, hy, rfl, rfl⟩
    exact ⟨_, List.mem_map.mpr ⟨_, hy, rfl⟩, rfl⟩

theorem lastTo_eq {ws : List (Nat × Byte)} {p : Nat} {v : Byte} (hv : ∀ x ∈ ws, x.1 = p → x.2 = v) (hex : ∃ x ∈ ws, x.1 = p) : lastTo ws p = some v := by
  obtain ⟨x, hx, hp⟩ := hex
  obtain ⟨y, hy⟩ := Option.isSome_iff_exists.mp (List.find?_isSome (p := fun x : Nat × Byte => x.1 == p).mpr ⟨x, List.mem_reverse.mpr hx, by simpa using hp⟩)
  rw [lastTo, hy, Option.map_some, hv y (List.mem_reverse.mp (List.mem_of_find?_eq_some hy)) (by simpa using List.find?_some hy)]

/-- A place to which only one value is written. -/
theorem byteAt_written (h : EngineWrote c s u bs) {b : SpadByte} {v : Byte} (hv : ∀ y ∈ bs, y.1 = b → y.2.1 = v) (hex : ∃ y ∈ bs, y.1 = b) :
    u.byteAt c b = v := by
  obtain ⟨y, hy, hb⟩ := hex
  cases b with
  | here a =>
    have hl : lastTo (spadPart bs) a = some v := lastTo_eq
      (fun x hx hp => by
        obtain ⟨z, hz, hza, hzv⟩ := mem_spadPart.mp hx
        rw [← hzv]
        exact hv z hz (hza.trans (by rw [hp])))
      ⟨(a, y.2.1), mem_spadPart.mpr ⟨y, hy, hb, rfl⟩, rfl⟩
    exact (h.spad a).trans (by rw [hl]; rfl)
  | there q =>
    have hl : lastTo (memPart bs) q = some v := lastTo_eq
      (fun x hx hp => by
        obtain ⟨z, hz, hza, hzv⟩ := mem_memPart.mp hx
        rw [← hzv]
        exact hv z hz (hza.trans (by rw [hp])))
      ⟨(q, y.2.1), mem_memPart.mpr ⟨y, hy, hb, rfl⟩, rfl⟩
    exact (h.mem q).trans (by rw [hl]; rfl)

/-- A place to which nothing is written, of any core. -/
theorem byteAt_kept (h : EngineWrote c s u bs) {k : Nat} {b : SpadByte} (hb : ∀ y ∈ bs, y.1 = b → k ≠ c ∧ ∃ a, b = .here a) : u.byteAt k b = s.byteAt k b := by
  cases b with
  | here a =>
    by_cases hk : k = c
    · subst hk
      have hl : lastTo (spadPart bs) a = none := lastTo_none (fun x hx hp => by
        obtain ⟨z, hz, hza, -⟩ := mem_spadPart.mp hx
        exact (hb z hz (hza.trans (by rw [hp]))).1 rfl)
      exact (h.spad a).trans (by rw [hl]; rfl)
    · exact congrArg (fun m : CoreStore => m.spad.byte a) (h.others k hk)
  | there q =>
    have hl : lastTo (memPart bs) q = none := lastTo_none (fun x hx hp => by
      obtain ⟨z, hz, hza, -⟩ := mem_memPart.mp hx
      obtain ⟨-, a, ha⟩ := hb z hz (hza.trans (by rw [hp]))
      cases ha)
    exact (h.mem q).trans (by rw [hl]; rfl)

end EngineWrote

/-- What the end of an engine command leaves besides the command, its lines and its flag: every group's registers, every byte, and rings on which it has
nothing. -/
theorem State.finishCmd_others {u : State} (hc : u.store.cut = []) {d : Cmd} (hu : unitOf d.op = 1) (he : d.err = false) (core : Nat) :
    let t := u.finishCmd core d false
    (∀ v, t.groupOf v = u.groupOf v) ∧ (∀ c b, t.byteAt c b = u.byteAt c b) ∧ (∀ k, (t.core k).store = (u.core k).store) ∧
      ∀ k r, (∀ h ∈ (u.ring k r).producers ++ (u.ring k r).consumers, h.thread = true ∨ h.cmd ≠ holdKey core d.id) → t.ring k r = u.ring k r := by
  obtain ⟨⟨hg, -, hs, -, -, -, hr⟩, -, hst⟩ := State.finishCmd_ends hc core d false (.inr (by rw [he]; rfl))
  rw [if_pos hu] at hr
  refine ⟨hg, fun c b => ?_, hst, fun k r hk => (hr k r).1 (fun h hh => (hk h hh).imp id (fun hn => by simpa using hn))⟩
  cases b with
  | here a => exact congrArg (fun m : CoreStore => m.spad.byte a) (hst c)
  | there p =>
    show (u.finishCmd core d false).store.mem.byte p = u.store.mem.byte p
    rw [hs]

/-! ## Bytes moved from place to place -/

/-- Bytes moved between pairs of places whose second ones differ: each place takes its pair's byte, and no other changes. -/
theorem EngineWrote.moved {c : Nat} {s u : State} {f : SpadByte → Byte} {ps : List (SpadByte × SpadByte)}
    (h : EngineWrote c s u (ps.map (fun p => (p.2, f p.1, false)))) (hn : (ps.map Prod.snd).Nodup) :
    (∀ p ∈ ps, u.byteAt c p.2 = f p.1) ∧ ∀ k b, (∀ p ∈ ps, p.2 = b → k ≠ c ∧ ∃ a, b = .here a) → u.byteAt k b = s.byteAt k b := by
  refine ⟨fun p hp => h.byteAt_written (fun y hy hb => ?_) ⟨_, List.mem_map.mpr ⟨p, hp, rfl⟩, rfl⟩, fun k b hb => h.byteAt_kept (fun y hy he => ?_)⟩
  · obtain ⟨q, hq, rfl⟩ := List.mem_map.mp hy
    exact congrArg (fun p => f p.1) (List.inj_on_of_nodup_map hn hq hp hb)
  · obtain ⟨q, hq, rfl⟩ := List.mem_map.mp hy
    exact hb q hq he

theorem zip_map_swap {α β γ : Type} (xs : List α) (ys : List β) (f : α → γ) : ys.zip (xs.map f) = (xs.zip ys).map (fun p => (p.2, f p.1)) := by
  induction xs generalizing ys with
  | nil => simp
  | cons x xs ih =>
    cases ys with
    | nil => rfl
    | cons y ys => exact congrArg ((y, f x) :: ·) (ih ys)

theorem map_snd_zip_sublist {α β : Type} (xs : List α) (ys : List β) : ((xs.zip ys).map Prod.snd).Sublist ys := by
  induction xs generalizing ys with
  | nil => simp
  | cons x xs ih =>
    cases ys with
    | nil => exact .slnil
    | cons y ys => exact (ih ys).cons_cons y

theorem mem_zip_of_getElem {α β : Type} {xs : List α} {ys : List β} {j : Nat} {x : α} {y : β} (hx : xs[j]? = some x) (hy : ys[j]? = some y) :
    (x, y) ∈ xs.zip ys := List.mem_of_getElem? (List.getElem?_zip_eq_some.mpr ⟨hx, hy⟩)

section
variable {s : State} (hns : NoStash s) (hq : Quiet s)
include hns hq

theorem engineBad_quiet (core : Nat) (b : SpadByte) : s.engineBad core b = false := by
  cases b with
  | here a =>
    show Sparse.look false (a / 4) (s.core core).store.spadPoison = false
    rw [(hq.2.2 core).1]
    rfl
  | there p => exact State.isPoisoned_clean hq.1 hns.2 p

omit hns in
theorem engineByte_quiet (core : Nat) (b : SpadByte) : s.engineByte core b = s.byteAt core b := by
  cases b with
  | here a => rfl
  | there p =>
    show s.seenByte core engineThread 33 p = s.store.mem.byte p
    rw [State.seenByte, (hq.2.2 core).2.1]
    rfl

/-- What a command reads where it writes none of it. -/
theorem readSources_quiet (core : Nat) (src : List SpadByte) : readSources s core [] src = src.map (fun a => (s.byteAt core a, false)) :=
  List.map_congr_left (fun a _ => Prod.ext (engineByte_quiet hq core a) (engineBad_quiet hns hq core a))

omit hns hq in
theorem overlapPairs_none {src : List SpadByte} {ps : List (SpadByte × SpadByte)} (h : ∀ p ∈ ps, p.2 ∉ src) : overlapPairs src ps = [] := by
  refine if_neg (fun ha => ?_)
  obtain ⟨b, hb, hp⟩ := List.any_eq_true.mp ha
  obtain ⟨p, hp, he⟩ := List.any_eq_true.mp hp
  exact h p hp (beq_iff_eq.mp he ▸ hb)

theorem moveBytes_pairs (core : Nat) {ps : List (SpadByte × SpadByte)} (h : ∀ p ∈ ps, p.2 ∉ ps.map Prod.fst) :
    s.moveBytes core (ps.map Prod.fst) (ps.map Prod.snd) = s.engineWrite core (ps.map (fun p => (p.2, s.byteAt core p.1, false))) := by
  have hzip : (ps.map Prod.fst).zip (ps.map Prod.snd) = ps := by rw [List.zip_map']; exact List.map_id ps
  rw [State.moveBytes, hzip, overlapPairs_none h, readSources_quiet hns hq, zip_map_swap, hzip]
  rfl

/-- The bytes of a command moved, none of which it reads. -/
theorem moveBytes_wrote (core : Nat) {ps : List (SpadByte × SpadByte)} (h : ∀ p ∈ ps, p.2 ∉ ps.map Prod.fst) :
    EngineWrote core s (s.moveBytes core (ps.map Prod.fst) (ps.map Prod.snd)) (ps.map (fun p => (p.2, s.byteAt core p.1, false))) := by
  rw [moveBytes_pairs hns hq core h]
  exact State.engineWrite_wrote hns core (fun b hb => by
    obtain ⟨p, -, rfl⟩ := List.mem_map.mp hb
    rfl)

end

end Sys2Proof.Machine
end

section
/-! The course of a copy: its start, its wait for what precedes it, its bytes (R49, R52, R132, R133, R309 to R311). -/

namespace Sys2Proof.Machine
open Sys2Proof

section
variable {s : State} {core : Nat} {d : Cmd} (hu : unitOf d.op = 1)
include hu

/-! ## Start -/

theorem exec_copyStart (h : (s.core core).cmd d.id = some d) :
    exec (.engineCommandStart core d.id) s = .next (if copyCanStart s core d then s.beginCmd core d (((copyDesc d.desc).total + 127) / 128) else s) := by
  refine congrArg Host.Outcome.next ?_
  simp only [h, hu]

/-- A copy may start where the earlier ones of its queue have left it or wait, its slots are granted and no earlier copy fills its stream (R302, R310). -/
theorem copyCanStart_iff (hp : d.phase = .registered) (hpa : d.paused = none) :
    let earlier (y : Cmd) : Prop := y ∈ (s.core core).cmds ∧ y.id < d.id ∧ unitOf y.op = 1
    copyCanStart s core d = true ↔ (∀ y, earlier y → y.phase = .started ∨ y.phase = .finished ∨ y.paused ≠ none) ∧
      (∀ p ∈ copyRings s core d, ∀ h ∈ (s.ring p.1 p.2).producers, h.thread = false → h.cmd = holdKey core d.id → h.granted = true) ∧
      ((copyDesc d.desc).dk = 3 → ∀ y, earlier y → ¬((copyDesc y.desc).dk = 3 ∧ (copyDesc y.desc).dn = (copyDesc d.desc).dn ∧ y.groupKey = d.groupKey)) := by
  intro earlier
  have h1 : earlierStarted (s.core core) d = true ↔ ∀ y, earlier y → y.phase = .started ∨ y.phase = .finished ∨ y.paused ≠ none := by
    simp only [earlierStarted, hu, List.all_eq_true, List.mem_filter, Bool.and_eq_true, decide_eq_true_eq, beq_iff_eq, Bool.or_eq_true, Cmd.begun, or_assoc,
      Option.isSome_iff_ne_none, earlier]
  have h2 : (!holdsWait s core d.id (copyRings s core d)) = true ↔
      ∀ p ∈ copyRings s core d, ∀ h ∈ (s.ring p.1 p.2).producers, h.thread = false → h.cmd = holdKey core d.id → h.granted = true := by
    simp [holdsWait]
  have h3 : ((copyDesc d.desc).dk != 3 || ((s.core core).cmds.filter (fun x => x.id < d.id && unitOf x.op == 1)).all (fun x =>
      !((copyDesc x.desc).dk == 3 && (copyDesc x.desc).dn == (copyDesc d.desc).dn && x.groupKey == d.groupKey))) = true ↔
      ((copyDesc d.desc).dk = 3 → ∀ y, earlier y → ¬((copyDesc y.desc).dk = 3 ∧ (copyDesc y.desc).dn = (copyDesc d.desc).dn ∧ y.groupKey = d.groupKey)) := by
    simp only [Bool.or_eq_true, bne_iff_ne, List.all_eq_true, List.mem_filter, Bool.and_eq_true, decide_eq_true_eq, beq_iff_eq, Bool.not_eq_true',
      ← Bool.not_eq_true, and_assoc, ← imp_iff_not_or, ne_eq, earlier]
  rw [← h1, ← h2, ← h3]
  simp only [copyCanStart, hp, hpa, Bool.and_eq_true, beq_self_eq_true, Option.isNone_none, true_and, and_assoc]

/-! ## The last step's turn -/

theorem exec_copyComplete (h : Holds s core d .started) :
    exec (.copyComplete core d.id) s = .next (if decide (d.due ≤ s.now) && commitsReady s core d then s.completeCopy core d else s) := by
  obtain ⟨hc, hp, hpa⟩ := h
  refine congrArg Host.Outcome.next ?_
  simp only [hc, hu, hp, hpa, beq_self_eq_true, Option.isNone_none, Bool.true_and]

omit hu in
theorem commitsReady_iff : commitsReady s core d = true ↔
    ∀ p ∈ copyRings s core d, ∀ h, grantedHold (s.ring p.1 p.2).producers (holdKey core d.id) = some h → h.first = (s.ring p.1 p.2).commitAll.tail := by
  simp only [commitsReady, List.all_eq_true]
  refine forall_congr' fun p => forall_congr' fun _ => ?_
  cases grantedHold (s.ring p.1 p.2).producers (holdKey core d.id) <;> simp

end

/-! ## A commit -/

/-- The command's reservation, which begins at TAIL, marked done: it is dropped and TAIL moves past it (R49). -/
theorem Ring.commit_marked {x : Ring} {key : Nat} {h : RingHold} (hg : grantedHold x.producers key = some h) (hf : h.first = x.tail)
    (hn : x.producers.Nodup) (hall : ∀ f ∈ x.producers, (f.thread = false → f.cmd = key → f = h) ∧ f.done = false)
    (hown : ∀ e ∈ x.own, e.take = false → e.done = false) :
    ({ x with producers := markHold key x.producers } : Ring).commitAll =
      { x with producers := x.producers.erase h, tail := (x.tail + h.n) % x.modulus } := by
  have hk : h.thread = false ∧ h.cmd = key ∧ h.granted = true ∧ h.done = false := by
    simpa [and_assoc] using List.find?_some hg
  obtain ⟨ht, hc, hgr, hd⟩ := hk
  obtain ⟨pre, post, hp⟩ := List.append_of_mem (List.mem_of_find?_eq_some hg)
  rw [hp] at hn hall
  have hnot : h ∉ pre := fun hm => (List.disjoint_of_nodup_append hn) hm List.mem_cons_self
  have hmark : markHold key x.producers = pre ++ { h with done := true } :: post := by
    rw [hp]
    have hpre : ∀ f ∈ pre, ¬(f.cmd = key ∧ f.thread = false) := fun f hm hh =>
      hnot ((hall f (List.mem_append_left _ hm)).1 hh.2 hh.1 ▸ hm)
    clear hall hn hp hnot
    induction pre with
    | nil => simp [markHold, ht, hc, hd]
    | cons f pre ih =>
      have hf' := hpre f List.mem_cons_self
      rw [List.cons_append, markHold, if_neg (by simpa using fun h1 h2 => absurd ⟨h1, h2⟩ hf'), ih (fun g hg => hpre g (List.mem_cons_of_mem _ hg))]
      rfl
  rw [Ring.commitAll_hold { x with producers := markHold key x.producers } pre { h with done := true } post hmark hgr rfl hf
    (fun f hm => (hall f ((List.mem_append.mp hm).elim (List.mem_append_left _) (fun hm => List.mem_append_right _ (List.mem_cons_of_mem _ hm)))).2) hown,
    hp, List.erase_append_right _ hnot, List.erase_cons_head]
  rfl

/-- A command's reservation comes next on a ring: it begins at TAIL, it is the command's only one, and nothing on the ring is done (R49). -/
structure CommitsNext (x : Ring) (key : Nat) (h : RingHold) : Prop where
  granted : grantedHold x.producers key = some h
  first : h.first = x.tail
  nodup : x.producers.Nodup
  only : ∀ f ∈ x.producers, (f.thread = false → f.cmd = key → f = h) ∧ f.done = false
  consumers : ∀ f ∈ x.consumers, f.thread = true ∨ f.cmd ≠ key
  own : ∀ e ∈ x.own, e.take = false → e.done = false

/-- A ring after a reservation's commit. -/
def Ring.committed (x : Ring) (h : RingHold) : Ring := { x with producers := x.producers.erase h, tail := (x.tail + h.n) % x.modulus }

theorem CommitsNext.committed_free {x : Ring} {key : Nat} {h : RingHold} (hx : CommitsNext x key h) :
    ∀ f ∈ (x.committed h).producers ++ (x.committed h).consumers, f.thread = true ∨ f.cmd ≠ key := by
  intro f hf
  obtain hf | hf := List.mem_append.mp hf
  · obtain ⟨hne, hm⟩ := hx.nodup.mem_erase_iff.mp hf
    by_cases ht : f.thread = false
    · exact .inr (fun hc => hne ((hx.only f hm).1 ht hc))
    · exact .inl (by simpa using ht)
  · exact hx.consumers f hf

/-! ## Rings served -/

theorem ringTargets_here {s : State} {k r n : Nat} {x : CopyDesc} {b : SpadByte} (h : b ∈ ringTargets s k r x n) : ∃ a, b = .here a := by
  obtain ⟨o, -, h⟩ := List.mem_flatMap.mp h
  obtain ⟨i, -, rfl⟩ := List.mem_map.mp h
  exact ⟨_, rfl⟩

theorem ringTargets_congr {s u : State} {k r : Nat} (hr : u.ring k r = s.ring k r) (hc : (u.core k).crew = (s.core k).crew) (x : CopyDesc) (n : Nat) :
    ringTargets u k r x n = ringTargets s k r x n := by
  rw [ringTargets, ringTargets, hr, ringTeam, ringTeam, hc]

/-- Some rings are served by a copy: their slots have taken its bytes and are committed, and beside that only what a command may change did. -/
structure RingsServed (core team : Nat) (src : List SpadByte) (f : SpadByte → Byte) (dst : Nat × Nat → List SpadByte) (ring : Nat × Nat → Ring)
    (ps : List (Nat × Nat)) (s u : State) : Prop where
  ran : Ran core team s u
  stash : NoStash u
  crew : ∀ k, (u.core k).crew = (s.core k).crew
  groups : ∀ v, u.groupOf v = s.groupOf v
  moved : ∀ p ∈ ps, ∀ e ∈ src.zip (dst p), u.byteAt p.1 e.2 = f e.1
  kept : ∀ c b, (∀ p ∈ ps, p.1 = c → b ∉ dst p) → u.byteAt c b = s.byteAt c b
  rings : ∀ p : Nat × Nat, u.ring p.1 p.2 = if p ∈ ps then ring p else s.ring p.1 p.2

theorem EngineWrote.part {c : Nat} {s u : State} {bs : List (SpadByte × Byte × Bool)} (h : EngineWrote c s u bs) {α : Type} (p : Core → α)
    (hp : ∀ c : Core, p { c with caches := {}, store := {} } = p c) (k : Nat) : p (u.core k) = p (s.core k) := eq_of_without _ p hp (h.cores k)

theorem EngineWrote.groupOf {c : Nat} {s u : State} {bs : List (SpadByte × Byte × Bool)} (h : EngineWrote c s u bs) (v : Who) : u.groupOf v = s.groupOf v :=
  State.groupOf_of_groups (h.part Core.groups (fun _ => rfl)) (by rw [h.frame]) v

section
variable {s : State} {core : Nat} {d : Cmd} {src : List SpadByte} {f : SpadByte → Byte}

/-- One ring served (R49, R311). -/
theorem copyToRing_served {p : Nat × Nat} {h : RingHold} {dst : List SpadByte} {y : Ring} (hs : NoStash s)
    (hx : CommitsNext (s.ring p.1 p.2) (holdKey core d.id) h) (hd : ringTargets s p.1 p.2 (copyDesc d.desc) h.first = dst)
    (hy : (s.ring p.1 p.2).committed h = y) (hn : dst.Nodup) (team : Nat) :
    ∃ u, s.copyToRing core d (src.map (fun a => (f a, false))) p = (u, false) ∧ RingsServed core team src f (fun _ => dst) (fun _ => y) [p] s u := by
  let w := s.engineWrite p.1 (dst.zip (src.map (fun a => (f a, false))))
  have hw : EngineWrote p.1 s w ((src.zip dst).map (fun e => (e.2, f e.1, false))) := by
    show EngineWrote p.1 s (s.engineWrite p.1 (dst.zip (src.map (fun a => (f a, false))))) _
    rw [zip_map_swap]
    exact State.engineWrite_wrote hs p.1 (fun b hb => by
      obtain ⟨e, -, rfl⟩ := List.mem_map.mp hb
      rfl)
  obtain ⟨hmoved, hkept⟩ := hw.moved (hn.sublist (map_snd_zip_sublist src dst))
  let u := w.onRing p.1 p.2 (fun x => ({ x with producers := markHold (holdKey core d.id) x.producers } : Ring).commitAll)
  have hpart {α : Type} (q : Core → α) (hq : ∀ (c : Core) rs, q { c with rings := rs } = q c) (k : Nat) : q (u.core k) = q (w.core k) :=
    State.core_onCore_of q w p.1 _ (hq _ _) k
  have hbyte (c : Nat) (b : SpadByte) : u.byteAt c b = w.byteAt c b := by
    cases b with
    | here a => exact hpart (fun c => c.store.spad.byte a) (fun _ _ => rfl) c
    | there q => rfl
  have hring (j q : Nat) : w.ring j q = s.ring j q := hw.part (fun c => Sparse.look ({} : Ring) q c.rings) (fun _ => rfl) j
  refine ⟨u, ?_, (hw.ran core team).trans (Ran.onRing core team w p.1 p.2 _), NoStash.onCore hw.stash p.1 _ rfl, fun k => ?_, fun v => ?_,
    fun q hq e he => ?_, fun c b hb => ?_, fun q => ?_⟩
  · rw [State.copyToRing]
    simp only [hx.granted, hd]
    rfl
  · exact (hpart Core.crew (fun _ _ => rfl) k).trans (hw.part Core.crew (fun _ => rfl) k)
  · exact (State.groupOf_of_groups (hpart Core.groups (fun _ _ => rfl)) rfl v).trans (hw.groupOf v)
  · obtain rfl := List.mem_singleton.mp hq
    exact (hbyte q.1 e.2).trans (hmoved e he)
  · refine (hbyte c b).trans (hkept c b (fun e he hb' => ?_))
    have hmem : b ∈ dst := hb' ▸ (List.of_mem_zip he).2
    exact ⟨fun hc => hb p (List.mem_singleton.mpr rfl) hc.symm hmem, ringTargets_here (hd ▸ hmem)⟩
  · rw [show u.ring q.1 q.2 = _ from State.ring_onRing w p.1 p.2 _ q.1 q.2, hring, hring, Ring.commit_marked hx.granted hx.first hx.nodup hx.only hx.own]
    have hpq : (q.1 = p.1 ∧ q.2 = p.2) ↔ q ∈ [p] := by rw [List.mem_singleton, Prod.ext_iff]
    simp only [hpq]
    split
    · exact hy
    · rfl

/-- The rings of a copy served one after another (R311). -/
theorem copyToRings_fold {hold : Nat × Nat → RingHold} {dst : Nat × Nat → List SpadByte} {ring : Nat × Nat → Ring} (team : Nat) :
    ∀ (ps : List (Nat × Nat)) (s : State), NoStash s → ps.Nodup →
      (∀ p ∈ ps, CommitsNext (s.ring p.1 p.2) (holdKey core d.id) (hold p) ∧ ringTargets s p.1 p.2 (copyDesc d.desc) (hold p).first = dst p ∧
        (s.ring p.1 p.2).committed (hold p) = ring p ∧ (dst p).Nodup ∧ ∀ q ∈ ps, q ≠ p → q.1 = p.1 → ∀ b ∈ dst p, b ∉ dst q) →
      ∃ u, ps.foldl (fun r p => let q := r.1.copyToRing core d (src.map (fun a => (f a, false))) p; (q.1, r.2 || q.2)) (s, false) = (u, false) ∧
        RingsServed core team src f dst ring ps s u
  | [], s, hs, _, _ => ⟨s, rfl, Ran.refl core team s, hs, fun _ => rfl, fun _ => rfl, fun p hp => (List.not_mem_nil hp).elim, fun _ _ _ => rfl, fun _ => rfl⟩
  | p :: ps, s, hs, hn, hall => by
    obtain ⟨hx, hd, hy, hnd, hdis⟩ := hall p List.mem_cons_self
    obtain ⟨hp, hn⟩ := List.nodup_cons.mp hn
    obtain ⟨w, hw, h1⟩ := copyToRing_served (src := src) (f := f) hs hx hd hy hnd team
    have hrest (q : Nat × Nat) (hq : q ∈ ps) : w.ring q.1 q.2 = s.ring q.1 q.2 := by
      rw [h1.rings, if_neg (fun he : q ∈ [p] => hp (by rwa [← List.mem_singleton.mp he]))]
    obtain ⟨u, hu, h2⟩ := copyToRings_fold team ps w h1.stash hn (fun q hq => by
      obtain ⟨hx, hd, hy, hnd, hdis⟩ := hall q (List.mem_cons_of_mem _ hq)
      rw [hrest q hq, ringTargets_congr (hrest q hq) (h1.crew q.1)]
      exact ⟨hx, hd, hy, hnd, fun r hr => hdis r (List.mem_cons_of_mem _ hr)⟩)
    refine ⟨u, ?_, h1.ran.trans h2.ran, h2.stash, fun k => (h2.crew k).trans (h1.crew k), fun v => (h2.groups v).trans (h1.groups v), fun q hq e he => ?_,
      fun c b hb => ?_, fun q => ?_⟩
    · rw [List.foldl_cons]
      simp only [hw, Bool.or_self]
      exact hu
    · obtain rfl | hq := List.mem_cons.mp hq
      · rw [h2.kept q.1 e.2 (fun r hr hrq hb => hdis r (List.mem_cons_of_mem _ hr) (fun he => hp (he ▸ hr)) hrq e.2 (List.of_mem_zip he).2 hb)]
        exact h1.moved q (List.mem_singleton.mpr rfl) e he
      · exact h2.moved q hq e he
    · rw [h2.kept c b (fun r hr => hb r (List.mem_cons_of_mem _ hr))]
      exact h1.kept c b (fun r hr => by
        obtain rfl := List.mem_singleton.mp hr
        exact hb r List.mem_cons_self)
    · rw [h2.rings, h1.rings]
      by_cases hq : q = p
      · subst hq
        rw [if_neg hp, if_pos (List.mem_singleton.mpr rfl), if_pos List.mem_cons_self]
      · simp [hq]

end

/-! ## The last step -/

/-- Some byte lies in a line held by a command that registered before `order`. -/
def Ahead (s : State) (order : Nat) (bs : List SpadByte) : Prop := ∃ p, SpadByte.there p ∈ bs ∧ s.heldBefore (lineOf p) order = true

theorem mem_memPlaces {bs : List SpadByte} {p : Nat} : p ∈ memPlaces bs ↔ SpadByte.there p ∈ bs := by
  rw [memPlaces, List.mem_filterMap]
  constructor
  · rintro ⟨b, hb, he⟩
    cases b with
    | here a => cases he
    | there q => cases he; exact hb
  · exact fun h => ⟨_, h, rfl⟩

theorem memPlaces_append (as bs : List SpadByte) : memPlaces (as ++ bs) = memPlaces as ++ memPlaces bs := List.filterMap_append

theorem heldBefore_iff {s : State} {order : Nat} {bs : List SpadByte} : (memPlaces bs).any (fun p => s.heldBefore (lineOf p) order) = true ↔ Ahead s order bs := by
  simp only [List.any_eq_true, mem_memPlaces, Ahead]

/-- Without a stash line there is nothing to recall before an engine reads (R58). -/
theorem State.recallAll_none {s : State} (h : StashEmpty s) (ps : List Nat) : s.recallAll ps = s := foldl_keeps _ s _ (fun l _ => State.recall_none h l false none)

/-- Is a destination byte still to be written, its line not having been released (R133)? -/
def stillOwned (d : Cmd) (p : SpadByte × SpadByte) : Bool := match p.2 with | .there q => !d.owned.contains (lineOf q) | .here _ => true

theorem stillOwned_iff {d : Cmd} {p : SpadByte × SpadByte} : stillOwned d p = true ↔ ∀ q, p.2 = .there q → lineOf q ∉ d.owned := by
  obtain ⟨a, b⟩ := p
  cases b <;> simp [stillOwned]

/-- A copy's last step once its lines have been requested. -/
def State.copyRest (s : State) (core : Nat) (d : Cmd) (src dst : List SpadByte) : State :=
  let x := copyDesc d.desc
  if x.dk == 3 then s.copyToStream core d src false
  else
    let kept := (src.zip dst).filter (stillOwned d)
    let r := if x.dk == 2 then s.copyToRings core d src else (s.moveBytes core (kept.map Prod.fst) (kept.map Prod.snd), false)
    (r.1.countCopy core d x).finishCmd core d r.2

section
variable {s : State} {core : Nat} {d : Cmd} {src dst : List SpadByte} (hsrc : copySource s core d = .ok src) (hdst : copyTargets s core d = .ok dst)
include hsrc hdst

theorem completeCopy_held (h : Ahead s d.order (src ++ dst)) : s.completeCopy core d = s := by
  rw [State.completeCopy]
  simp only [hsrc, hdst]
  rw [← memPlaces_append, if_pos (heldBefore_iff.mpr h)]

theorem completeCopy_turn (hns : NoStash s) (hq : Quiet s) (h : ¬Ahead s d.order (src ++ dst)) :
    ∃ u, Gathered s u ∧ s.completeCopy core d = u.copyRest core d src dst := by
  refine ⟨_, Gathered.foldl (f := fun s p => if p % 128 == 0 then s.gather p ((copyDesc d.desc).pol / 4) else s) (fun s p => ?_) (memPlaces src) s, ?_⟩
  · split
    · exact Gathered.gather s p _ false
    · exact Gathered.refl s
  · have hbad : src.any (s.engineBad core) = false := List.any_eq_false.mpr (fun b _ => by simp [engineBad_quiet hns hq])
    rw [State.completeCopy]
    simp only [hsrc, hdst]
    rw [← memPlaces_append, if_neg (fun hh => h (heldBefore_iff.mp hh)), State.recallAll_none hns.1, hbad]
    simp only [Bool.false_or]
    rfl

end

/-! ## What follows the bytes -/

theorem State.countCopy_core {α : Type} (p : Core → α) (hp : ∀ (c : Core) w, p { c with crew := w } = p c) (s : State) (core : Nat) (d : Cmd) (x : CopyDesc) (k : Nat) :
    p ((s.countCopy core d x).core k) = p (s.core k) := State.core_onCore_of p s core _ (hp _ _) k

theorem State.byteAt_onCore {s : State} {k : Nat} {f : Core → Core} (hf : (f (s.core k)).store = (s.core k).store) (c : Nat) (b : SpadByte) :
    (s.onCore k f).byteAt c b = s.byteAt c b := by
  cases b with
  | here a => exact State.core_onCore_of (fun c => c.store.spad.byte a) s k f (congrArg (fun m : CoreStore => m.spad.byte a) hf) c
  | there p => rfl

theorem State.groupOf_onCmd (s : State) (core id : Nat) (f : Cmd → Cmd) (v : Who) : (s.onCmd core id f).groupOf v = s.groupOf v :=
  State.groupOf_of_groups (State.core_onCore_of Core.groups s core _ rfl) rfl v

theorem State.byteAt_onGroup (s : State) (w : Who) (f : Group → Group) (c : Nat) (b : SpadByte) : (s.onGroup w f).byteAt c b = s.byteAt c b := by
  cases w with
  | gang g => exact State.byteAt_onCore rfl c b
  | glen n => cases b <;> rfl

theorem State.byteAt_countCopy (s : State) (core : Nat) (d : Cmd) (x : CopyDesc) (c : Nat) (b : SpadByte) : (s.countCopy core d x).byteAt c b = s.byteAt c b := State.byteAt_onCore rfl c b

theorem State.groupOf_countCopy (s : State) (core : Nat) (d : Cmd) (x : CopyDesc) (v : Who) : (s.countCopy core d x).groupOf v = s.groupOf v :=
  State.groupOf_of_groups (State.countCopy_core Core.groups (fun _ _ => rfl) s core d x) rfl v

section
variable {s : State} {core : Nat} {d : Cmd} (hu : unitOf d.op = 1) (hcut : s.store.cut = []) (he : d.err = false)
include hu hcut he

/-- A copy counted and ended after what it wrote. -/
theorem copy_finishes {u t : State} (h : Ran core d.team s u) (ht : (u.countCopy core d (copyDesc d.desc)).finishCmd core d false = t) :
    CommandEnds s t core d ∧ FlagUp s t core d ∧ (∀ v, t.groupOf v = u.groupOf v) ∧ (∀ c b, t.byteAt c b = u.byteAt c b) ∧
      (∀ k, (t.core k).store = (u.core k).store) ∧
      ∀ k r, (∀ h ∈ (u.ring k r).producers ++ (u.ring k r).consumers, h.thread = true ∨ h.cmd ≠ holdKey core d.id) → t.ring k r = u.ring k r := by
  subst ht
  have hran := h.trans (Ran.countCopy u core d (copyDesc d.desc))
  obtain ⟨hends, hflag⟩ := hran.finish hcut he
  obtain ⟨hg, hb, hst, hr⟩ := State.finishCmd_others (hran.cut.trans hcut) hu he core
  have hring (k r : Nat) : (u.countCopy core d (copyDesc d.desc)).ring k r = u.ring k r :=
    State.countCopy_core (fun c => Sparse.look ({} : Ring) r c.rings) (fun _ _ => rfl) u core d _ k
  exact ⟨hends, hflag, fun v => (hg v).trans (State.groupOf_countCopy u core d _ v), fun c b => (hb c b).trans (State.byteAt_countCopy u core d _ c b),
    fun k => (hst k).trans (State.countCopy_core Core.store (fun _ _ => rfl) u core d _ k), fun k r hk => (hr k r (by rw [hring]; exact hk)).trans (hring k r)⟩

/-- A copy to memory or to the scratchpad (R310). -/
theorem copy_plain {u : State} {src dst : List SpadByte} (hns : NoStash s) (hq : Quiet s) (hg : Gathered s u) (hdk : (copyDesc d.desc).dk < 2)
    (hn : dst.Nodup) (hd : ∀ b ∈ dst, b ∉ src) :
    let t := u.copyRest core d src dst
    let left (b : SpadByte) : Prop := ∀ p, b = .there p → lineOf p ∉ d.owned
    CommandEnds s t core d ∧ FlagUp s t core d ∧
      (∀ j : Nat, ∀ a b, src[j]? = some a → dst[j]? = some b → left b → t.byteAt core b = s.byteAt core a) ∧
      (∀ b, (b ∉ dst ∨ ¬left b) → t.byteAt core b = s.byteAt core b) ∧ (∀ c ≠ core, (t.core c).store = (s.core c).store) ∧
      ∀ v, t.groupOf v = s.groupOf v := by
  intro t left
  let kept := (src.zip dst).filter (stillOwned d)
  have hmem {p : SpadByte × SpadByte} (hp : p ∈ kept) : p ∈ src.zip dst := (List.mem_filter.mp hp).1
  have hw := moveBytes_wrote (hg.noStash hns) (hg.quiet hq) core (ps := kept) (fun p hp hm => by
    obtain ⟨q, hqm, hqe⟩ := List.mem_map.mp hm
    exact hd p.2 (List.of_mem_zip (hmem hp)).2 (hqe ▸ (List.of_mem_zip (hmem hqm)).1))
  obtain ⟨hmoved, hkept⟩ := hw.moved (hn.sublist (((List.filter_sublist).map Prod.snd).trans (map_snd_zip_sublist src dst)))
  have ht : ((u.moveBytes core (kept.map Prod.fst) (kept.map Prod.snd)).countCopy core d (copyDesc d.desc)).finishCmd core d false = t := by
    have h2 : ((copyDesc d.desc).dk == 2) = false := by simp; omega
    have h3 : ((copyDesc d.desc).dk == 3) = false := by simp; omega
    show _ = u.copyRest core d src dst
    rw [State.copyRest]
    simp only [h2, h3]
    rfl
  obtain ⟨hends, hflag, hgr, hby, hst, -⟩ := copy_finishes hu hcut he ((hg.ran core d.team).trans (hw.ran core d.team)) ht
  refine ⟨hends, hflag, fun j a b ha hb hl => ?_, fun b hb => ?_, fun c hc => ?_, fun v => ?_⟩
  · have hm : (a, b) ∈ kept := List.mem_filter.mpr ⟨mem_zip_of_getElem ha hb, stillOwned_iff.mpr hl⟩
    exact (hby core b).trans ((hmoved _ hm).trans (hg.byteAt_eq core a))
  · refine (hby core b).trans ((hkept core b (fun p hp hpb => ?_)).trans (hg.byteAt_eq core b))
    subst hpb
    exact (hb.elim (fun h => h (List.of_mem_zip (hmem hp)).2) (fun h => h (stillOwned_iff.mp (List.mem_filter.mp hp).2))).elim
  · exact (hst c).trans ((hw.others c hc).trans (by rw [hg.core]))
  · exact (hgr v).trans ((hw.groupOf v).trans (State.groupOf_of_groups (fun k => by rw [hg.core]) (by rw [hg.frame]) v))

/-- A copy to rings (R49, R311). -/
theorem copy_rings {u : State} {src dst : List SpadByte} {hold : Nat × Nat → RingHold} (hns : NoStash s) (hq : Quiet s) (hg : Gathered s u)
    (hdk : (copyDesc d.desc).dk = 2) (hn : (copyRings s core d).Nodup)
    (hx : ∀ p ∈ copyRings s core d, CommitsNext (s.ring p.1 p.2) (holdKey core d.id) (hold p)) :
    let slots (p : Nat × Nat) := ringTargets s p.1 p.2 (copyDesc d.desc) (hold p).first
    let t := u.copyRest core d src dst
    (∀ p ∈ copyRings s core d, (slots p).Nodup ∧ (p.1 = core → ∀ b ∈ slots p, b ∉ src) ∧
      ∀ q ∈ copyRings s core d, q ≠ p → q.1 = p.1 → ∀ b ∈ slots p, b ∉ slots q) →
    CommandEnds s t core d ∧ FlagUp s t core d ∧
      (∀ p ∈ copyRings s core d, (∀ e ∈ src.zip (slots p), t.byteAt p.1 e.2 = s.byteAt core e.1) ∧ t.ring p.1 p.2 = (s.ring p.1 p.2).committed (hold p)) ∧
      (∀ c b, (∀ p ∈ copyRings s core d, p.1 = c → b ∉ slots p) → t.byteAt c b = s.byteAt c b) ∧ ∀ v, t.groupOf v = s.groupOf v := by
  intro slots t hs
  have hring (p : Nat × Nat) : u.ring p.1 p.2 = s.ring p.1 p.2 := congrArg (fun c : Core => Sparse.look ({} : Ring) p.2 c.rings) (hg.core p.1)
  have hslots (p : Nat × Nat) : ringTargets u p.1 p.2 (copyDesc d.desc) (hold p).first = slots p :=
    ringTargets_congr (hring p) (congrArg Core.crew (hg.core p.1)) _ _
  have hrings : copyRings u core d = copyRings s core d := by simp only [copyRings, hg.core]
  have hpairs : overlapPairs src (ringPairs u core d src) = [] := by
    refine overlapPairs_none (fun e hep => ?_)
    obtain ⟨p, hp, hep⟩ := List.mem_flatMap.mp hep
    obtain ⟨hp, hpc⟩ := List.mem_filter.mp hp
    rw [hrings] at hp
    rw [hring] at hep
    simp only [(hx p hp).granted] at hep
    rw [hslots] at hep
    exact (hs p hp).2.1 (beq_iff_eq.mp hpc) e.2 (List.of_mem_zip hep).2
  obtain ⟨w, hw, hserved⟩ := copyToRings_fold (core := core) (d := d) (src := src) (f := u.byteAt core) (hold := hold) (dst := slots)
    (ring := fun p => (s.ring p.1 p.2).committed (hold p)) d.team (copyRings s core d) u (hg.noStash hns) hn
    (fun p hp => ⟨(hring p).symm ▸ hx p hp, hslots p, by rw [hring], (hs p hp).1, (hs p hp).2.2⟩)
  have hto : u.copyToRings core d src = (w, false) := by
    rw [State.copyToRings]
    simp only [hpairs, List.isEmpty_nil, if_true]
    rw [readSources_quiet (hg.noStash hns) (hg.quiet hq), hrings]
    exact hw
  have ht : (w.countCopy core d (copyDesc d.desc)).finishCmd core d false = t := by
    show _ = u.copyRest core d src dst
    rw [State.copyRest]
    simp only [hdk, hto]
    rfl
  obtain ⟨hends, hflag, hgr, hby, -, hri⟩ := copy_finishes hu hcut he ((hg.ran core d.team).trans hserved.ran) ht
  refine ⟨hends, hflag, fun p hp => ⟨fun e hm => ?_, ?_⟩, fun c b hb => ?_, fun v => ?_⟩
  · exact (hby p.1 e.2).trans ((hserved.moved p hp e hm).trans (hg.byteAt_eq core e.1))
  · have hwp : w.ring p.1 p.2 = (s.ring p.1 p.2).committed (hold p) := by rw [hserved.rings, if_pos hp]
    rw [hri p.1 p.2 (by rw [hwp]; exact (hx p hp).committed_free), hwp]
  · exact (hby c b).trans ((hserved.kept c b hb).trans (hg.byteAt_eq c b))
  · exact (hgr v).trans ((hserved.groups v).trans (State.groupOf_of_groups (fun k => by rw [hg.core]) (by rw [hg.frame]) v))

/-- The places of a stream register's buffer that take the next elements of a copy (R52). -/
def streamPlaces (base : Nat) (q : Stream) (n : Nat) : List SpadByte :=
  (List.range (4 * n)).map (fun j => SpadByte.here (base + q.buf + (4 * q.arrived + j) % q.size))

omit hu hcut he in
theorem streamPlaces_nodup {base n : Nat} {q : Stream} (h : 4 * n ≤ q.size) : (streamPlaces base q n).Nodup := by
  refine List.nodup_range.map_on (fun i hi j hj hij => ?_)
  have hm : (4 * q.arrived + i) % q.size = (4 * q.arrived + j) % q.size := Nat.add_left_cancel (SpadByte.here.inj hij)
  have hm : i % q.size = j % q.size := Nat.ModEq.add_left_cancel' (4 * q.arrived) hm
  rwa [Nat.mod_eq_of_lt (by have := List.mem_range.mp hi; omega), Nat.mod_eq_of_lt (by have := List.mem_range.mp hj; omega)] at hm

/-- A stream register that has taken `n` more elements, of a copy that ends with them or not (R52, R54). -/
def Stream.took (q : Stream) (n : Nat) (last : Bool) : Stream :=
  { q with arrived := q.arrived + n, named := if last then q.named - 1 else q.named, done := last && (if last then q.named - 1 else q.named) == 0 }

/-- The stream register of a command's group, as it becomes. -/
def State.putStream (s : State) (d : Cmd) (q : Stream) : State := s.onGroup d.who (fun g => { g with q := Sparse.put {} (copyDesc d.desc).dn q g.q })

/-- A copy to a stream register after its bytes: it ends, or goes on from what it has moved. -/
def State.streamEnd (s : State) (core : Nat) (d : Cmd) (moved : Nat) (last : Bool) : State :=
  if last then (s.countCopy core d (copyDesc d.desc)).finishCmd core d false
  else s.onCmd core d.id (fun y => { y with aux := [moved], err := y.err || false })

omit hu hcut he in
theorem copyToStream_eq {u : State} {src : List SpadByte} {q : Stream} {n gone : Nat} (hq : copyStream u d = q) (hm : d.aux.headD 0 = gone)
    (hn : min (q.size / 4 - (q.arrived - min q.pos q.arrived)) ((copyDesc d.desc).total / 4 - gone) = n) :
    u.copyToStream core d src false =
      ((u.moveBytes core ((src.drop (4 * gone)).take (4 * n)) (streamPlaces ((u.core core).team d.team).res.spbase q n)).putStream d
        (q.took n (gone + n == (copyDesc d.desc).total / 4))).streamEnd core d (gone + n) (gone + n == (copyDesc d.desc).total / 4) := by
  subst hn hm hq
  rfl

/-- A copy to a stream register (R52, R54). -/
theorem copy_stream {u : State} {src dst : List SpadByte} (hns : NoStash s) (hq : Quiet s) (hg : Gathered s u) (hdk : (copyDesc d.desc).dk = 3)
    (hw : isGlen d.who = false) (hlen : src.length = (copyDesc d.desc).total) :
    let x := copyDesc d.desc
    let q := (s.groupOf d.who).stream x.dn
    let gone := d.aux.headD 0
    let n := min (q.size / 4 - (q.arrived - min q.pos q.arrived)) (x.total / 4 - gone)
    let from' := (src.drop (4 * gone)).take (4 * n)
    let places := streamPlaces ((s.core core).team d.team).res.spbase q n
    let t := u.copyRest core d src dst
    (∀ b ∈ places, b ∉ from') →
      (∀ e ∈ from'.zip places, t.byteAt core e.2 = s.byteAt core e.1) ∧ (∀ b, b ∉ places → t.byteAt core b = s.byteAt core b) ∧
        (gone + n = x.total / 4 → CommandEnds s t core d ∧ FlagUp s t core d ∧
          (t.groupOf d.who).stream x.dn = { q with arrived := q.arrived + n, named := q.named - 1, done := q.named - 1 == 0 }) ∧
        (gone + n ≠ x.total / 4 → (t.core core).cmds = (s.core core).cmds.map (fun y => if y.id == d.id then { y with aux := [gone + n] } else y) ∧
          (t.groupOf d.who).stream x.dn = { q with arrived := q.arrived + n, done := false }) := by
  intro x q gone n from' places t hd
  have hlen' : from'.length = places.length := by
    simp only [from', places, streamPlaces, List.length_take, List.length_drop, List.length_map, List.length_range, hlen]
    show min (4 * n) (x.total - 4 * gone) = 4 * n
    have : n ≤ x.total / 4 - gone := Nat.min_le_right _ _
    omega
  have hfst : (from'.zip places).map Prod.fst = from' := List.map_fst_zip (le_of_eq hlen')
  have hsnd : (from'.zip places).map Prod.snd = places := List.map_snd_zip (le_of_eq hlen'.symm)
  have hmove := moveBytes_wrote (hg.noStash hns) (hg.quiet hq) core (ps := from'.zip places) (fun p hp => by
    rw [hfst]
    exact hd p.2 (List.of_mem_zip hp).2)
  have hsize : 4 * n ≤ q.size := by
    have : n ≤ q.size / 4 - (q.arrived - min q.pos q.arrived) := Nat.min_le_left _ _
    omega
  obtain ⟨hmoved, hkept⟩ := hmove.moved (by rw [hsnd]; exact streamPlaces_nodup hsize)
  rw [hfst, hsnd] at hmove hmoved hkept
  let m := u.moveBytes core from' places
  let last := gone + n == x.total / 4
  let v := m.putStream d (q.took n last)
  have hgroup : u.groupOf d.who = s.groupOf d.who := State.groupOf_of_groups (fun k => by rw [hg.core]) (by rw [hg.frame]) d.who
  have ht : t = v.streamEnd core d (gone + n) last := by
    have hto := copyToStream_eq (core := core) (src := src) (congrArg (fun g : Group => g.stream x.dn) hgroup) rfl rfl
    rw [hg.core] at hto
    show u.copyRest core d src dst = _
    rw [State.copyRest]
    simp only [hdk]
    exact hto
  have hv (c : Nat) (b : SpadByte) : v.byteAt c b = m.byteAt c b := State.byteAt_onGroup m d.who _ c b
  have hvs : (v.groupOf d.who).stream x.dn = q.took n last := by
    show ((m.putStream d (q.took n last)).groupOf d.who).stream x.dn = _
    rw [State.putStream, State.groupOf_onGroup_same]
    exact Sparse.look_put_same ..
  have hran : Ran core d.team s v :=
    ((hg.ran core d.team).trans (hmove.ran core d.team)).trans (Ran.onStream core d.team m hw (fun l => Sparse.put {} x.dn (q.took n last) l))
  have hbytes (hby : ∀ c b, t.byteAt c b = v.byteAt c b) : (∀ e ∈ from'.zip places, t.byteAt core e.2 = s.byteAt core e.1) ∧
      ∀ b, b ∉ places → t.byteAt core b = s.byteAt core b := by
    refine ⟨fun e hm => ?_, fun b hb => ?_⟩
    · rw [hby, hv, hmoved e hm, hg.byteAt_eq]
    · rw [hby, hv, hkept core b (fun p hp hpb => (hb (hpb ▸ (List.of_mem_zip hp).2)).elim), hg.byteAt_eq]
  clear_value t v
  by_cases hl : gone + n = x.total / 4
  · have hlast : last = true := beq_iff_eq.mpr hl
    rw [hlast] at ht hvs
    obtain ⟨hends, hflag, hgr, hby, -, -⟩ := copy_finishes hu hcut he hran ht.symm
    obtain ⟨h1, h2⟩ := hbytes hby
    exact ⟨h1, h2, fun _ => ⟨hends, hflag, by rw [hgr, hvs]; rfl⟩, fun hne => absurd hl hne⟩
  · have hlast : last = false := beq_eq_false_iff_ne.mpr hl
    rw [hlast] at ht hvs
    have ht : t = v.onCmd core d.id (fun y => { y with aux := [gone + n], err := y.err || false }) := ht
    obtain ⟨h1, h2⟩ := hbytes (fun c b => by rw [ht]; exact State.byteAt_onCore rfl c b)
    refine ⟨h1, h2, fun h => absurd h hl, fun _ => ⟨?_, ?_⟩⟩
    · rw [ht, State.onCmd_core, if_pos rfl, hran.cmds]
      simp only [Bool.or_false]
    · rw [ht, State.groupOf_onCmd, hvs]
      rfl

end

/-! ## One line of a copy (R133) -/

/-- The pairs of places of a copy whose second one lies in a line of memory. -/
def toLine (line : Nat) (p : SpadByte × SpadByte) : Bool := match p.2 with | .there q => lineOf q == line | .here _ => false

theorem toLine_iff {line : Nat} {p : SpadByte × SpadByte} : toLine line p = true ↔ ∃ q, p.2 = .there q ∧ lineOf q = line := by
  obtain ⟨a, b⟩ := p
  cases b <;> simp [toLine]

/-- A command's hold of a line given up. -/
def State.freeLine (s : State) (core id line : Nat) : State :=
  s.onStore (fun x => { x with owners := x.owners.filter (fun o => !(o.line == line && o.unit == core && o.cmd == id)) })

theorem exec_lineRelease {s : State} {core line : Nat} {d : Cmd} {src dst : List SpadByte} (hu : unitOf d.op = 1) (h : Holds s core d .started) (hns : NoStash s)
    (hq : Quiet s) (hown : ∃ o ∈ s.store.owners, o.line = line ∧ o.unit = core ∧ o.cmd = d.id) (hsrc : copySource s core d = .ok src)
    (hdst : copyTargets s core d = .ok dst) (hah : ¬Ahead s d.order (src ++ dst)) (hne : (src.zip dst).filter (toLine line) ≠ []) :
    let ps := (src.zip dst).filter (toLine line)
    exec (.lineRelease core d.id line) s = .next (((s.moveBytes core (ps.map Prod.fst) (ps.map Prod.snd)).freeLine core d.id line).onCmd core d.id
      (fun y => { y with err := y.err || false, owned := y.owned ++ [line] })) := by
  intro ps
  obtain ⟨hc, hp, hpa⟩ := h
  have hmoves : copyLineMoves s core d line = ps := by
    rw [copyLineMoves]
    simp only [hsrc, hdst]
    rfl
  have hany : s.store.owners.any (fun o => o.line == line && o.unit == core && o.cmd == d.id) = true := by
    obtain ⟨o, ho, h1, h2, h3⟩ := hown
    exact List.any_eq_true.mpr ⟨o, ho, by simp [h1, h2, h3]⟩
  have hheld : (memPlaces (ps.map Prod.fst ++ ps.map Prod.snd)).any (fun p => s.heldBefore (lineOf p) d.order) = false := by
    refine Bool.not_eq_true _ |>.mp (fun hh => hah ?_)
    obtain ⟨p, hpm, hb⟩ := heldBefore_iff.mp hh
    refine ⟨p, ?_, hb⟩
    obtain hpm | hpm := List.mem_append.mp hpm <;> obtain ⟨e, he, hep⟩ := List.mem_map.mp hpm <;> have he := List.of_mem_zip (List.mem_filter.mp he).1
    · exact List.mem_append_left _ (hep ▸ he.1)
    · exact List.mem_append_right _ (hep ▸ he.2)
  have hbad : ps.any (fun p => s.engineBad core p.1) = false := List.any_eq_false.mpr (fun p _ => by simp [engineBad_quiet hns hq])
  have hnil : ps.isEmpty = false := Bool.not_eq_true _ |>.mp (fun hh => hne (List.isEmpty_iff.mp hh))
  refine congrArg Host.Outcome.next ?_
  simp only [hc, hmoves, hu, hp, hpa, hany, hheld, hbad, hnil, beq_self_eq_true, Option.isNone_none, Bool.not_false, Bool.and_self, if_true,
    State.recallAll_none hns.1]
  rfl

theorem lineRelease_moves {s : State} {core line : Nat} {d : Cmd} {src dst : List SpadByte} (hns : NoStash s) (hq : Quiet s) (hn : dst.Nodup)
    (hd : ∀ b ∈ dst, b ∉ src) :
    let ps := (src.zip dst).filter (toLine line)
    let t := ((s.moveBytes core (ps.map Prod.fst) (ps.map Prod.snd)).freeLine core d.id line).onCmd core d.id
      (fun y => { y with err := y.err || false, owned := y.owned ++ [line] })
    t.host = s.host ∧ (∀ v, t.groupOf v = s.groupOf v) ∧
      t.store.owners = s.store.owners.filter (fun o => !(o.line == line && o.unit == core && o.cmd == d.id)) ∧
      (t.core core).cmds = (s.core core).cmds.map (fun y => if y.id == d.id then { y with owned := y.owned ++ [line] } else y) ∧
      (∀ c, (t.core c).store = (s.core c).store) ∧
      (∀ j : Nat, ∀ a p, src[j]? = some a → dst[j]? = some (.there p) → lineOf p = line → t.store.mem.byte p = s.byteAt core a) ∧
      ∀ p, lineOf p ≠ line → t.store.mem.byte p = s.store.mem.byte p := by
  intro ps t
  have hmem {p : SpadByte × SpadByte} (hp : p ∈ ps) : p ∈ src.zip dst := (List.mem_filter.mp hp).1
  have hdis : ∀ p ∈ ps, p.2 ∉ ps.map Prod.fst := fun p hp hm => by
    obtain ⟨q, hqm, hqe⟩ := List.mem_map.mp hm
    exact hd p.2 (List.of_mem_zip (hmem hp)).2 (hqe ▸ (List.of_mem_zip (hmem hqm)).1)
  have hw := moveBytes_wrote hns hq core hdis
  obtain ⟨hmoved, hkept⟩ := hw.moved (hn.sublist (((List.filter_sublist).map Prod.snd).trans (map_snd_zip_sublist src dst)))
  let m := s.moveBytes core (ps.map Prod.fst) (ps.map Prod.snd)
  have hstores (c : Nat) : (m.core c).store = (s.core c).store := by
    show ((s.moveBytes core (ps.map Prod.fst) (ps.map Prod.snd)).core c).store = _
    rw [moveBytes_pairs hns hq core hdis]
    refine State.engineWrite_stores hns core (fun b hb => ?_) (List.eq_nil_iff_forall_not_mem.mpr (fun x hx => ?_)) c
    · obtain ⟨p, -, rfl⟩ := List.mem_map.mp hb
      rfl
    · obtain ⟨y, hy, hya, -⟩ := EngineWrote.mem_spadPart (a := x.1) (v := x.2) |>.mp hx
      obtain ⟨p, hp, rfl⟩ := List.mem_map.mp hy
      obtain ⟨q, hpq, -⟩ := toLine_iff.mp (List.mem_filter.mp hp).2
      cases hpq.symm.trans hya
  have hhost : m.host = s.host := by
    have hf : m = { s with cores := m.cores, store := m.store, plat := m.plat } := hw.frame
    rw [hf]
  have howners : m.store.owners = s.store.owners :=
    eq_of_without (fun m : Store => { m with mem := [], poison := [], replicas := [] }) Store.owners (fun _ => rfl) hw.store
  refine ⟨hhost, fun v => ?_, ?_, ?_, fun c => ?_, fun j a p ha hb hl => ?_, fun p hl => ?_⟩
  · exact (State.groupOf_onCmd _ core d.id _ v).trans ((State.groupOf_onStore m v _).trans (hw.groupOf v))
  · exact congrArg (List.filter (fun o => !(o.line == line && o.unit == core && o.cmd == d.id))) howners
  · rw [State.onCmd_core, if_pos rfl]
    simp only [Bool.or_false]
    exact congrArg (List.map (fun y : Cmd => if y.id == d.id then { y with owned := y.owned ++ [line] } else y)) (hw.part Core.cmds (fun _ => rfl) core)
  · exact (State.core_onCore_of Core.store (m.freeLine core d.id line) core _ rfl c).trans (hstores c)
  · exact hmoved (a, .there p) (List.mem_filter.mpr ⟨mem_zip_of_getElem ha hb, toLine_iff.mpr ⟨p, rfl, hl⟩⟩)
  · refine hkept core (.there p) (fun e he heb => ?_)
    obtain ⟨q, hpq, hq⟩ := toLine_iff.mp (List.mem_filter.mp he).2
    exact absurd (SpadByte.there.inj (hpq.symm.trans heb) ▸ hq) hl

end Sys2Proof.Machine

namespace Sys2Proof
open Machine

/-- Settles O31, destination by destination. -/
theorem copyResults : Obligations.CopyResults := by
  unfold Obligations.CopyResults
  intro core d s hu x k tm rings key
  refine ⟨fun hh => ?_, fun hh hdue => ?_, fun hh hdue hready va f kind hsrc hr => ?_, fun hh hdue he hns hq src hsrc => ?_,
    fun line hh hdk hns hq hown src dst hsrc hdst hn hd hheld hex => ?_⟩
  · obtain ⟨hc, hp, hpa⟩ := hh
    intro earlier free
    have hiff := copyCanStart_iff hu (s := s) (core := core) hp hpa
    refine ⟨fun hf => ?_, fun hf => ⟨_, ?_, State.beginCmd_becomes s core d rfl⟩⟩
    · rw [exec_copyStart hu hc, if_neg (mt hiff.mp hf)]
    · rw [exec_copyStart hu hc, if_pos (hiff.mpr hf)]
  · rw [exec_copyComplete hu hh, decide_eq_false (by omega)]
    rfl
  · refine ⟨_, ?_, State.cmdFail_pauses hh.1 va kind hr (some x.tag)⟩
    rw [exec_copyComplete hu hh, decide_eq_true hdue, commitsReady_iff.mpr hready]
    refine congrArg Host.Outcome.next ?_
    simp only [Bool.and_self, if_true, State.completeCopy, hsrc]
    rfl
  · intro ahead left moved
    have hgo (hready : commitsReady s core d = true) : exec (.copyComplete core d.id) s = .next (s.completeCopy core d) := by
      rw [exec_copyComplete hu hh, decide_eq_true hdue, hready]
      rfl
    have hnone (hr : rings = []) : commitsReady s core d = true := commitsReady_iff.mpr (fun p hp => by
      rw [show copyRings s core d = [] from hr] at hp
      cases hp)
    have hno (hdk : 2 ≤ x.dk) : copyTargets s core d = .ok [] := by
      have h0 : ((copyDesc d.desc).dk == 0) = false := by simpa using show x.dk ≠ 0 by omega
      have h1 : ((copyDesc d.desc).dk == 1) = false := by simpa using show x.dk ≠ 1 by omega
      simp only [copyTargets, h0, h1]
      rfl
    refine ⟨fun dst hr hdk hdst hah => ?_, fun dst hr hdk hdst hn hd hah => ?_, fun hdk hex => ?_, ?_, ?_⟩
    · rw [hgo (hnone hr), completeCopy_held hsrc hdst hah]
    · obtain ⟨u, hg, ht⟩ := completeCopy_turn hsrc hdst hns hq hah
      exact ⟨_, (hgo (hnone hr)).trans (congrArg Host.Outcome.next ht), copy_plain hu hq.2.1 he hns hq hg hdk hn hd⟩
    · have hwait : commitsReady s core d = false := Bool.not_eq_true _ |>.mp (fun hc => by
        obtain ⟨p, hp, h, hgr, hne⟩ := hex
        exact hne (commitsReady_iff.mp hc p hp h hgr))
      rw [exec_copyComplete hu hh, hwait, Bool.and_false]
      rfl
    · intro hold hdk hn hah hx slots hs
      have hnext (p : Nat × Nat) (hp : p ∈ rings) : CommitsNext (s.ring p.1 p.2) key (hold p) :=
        have ⟨h1, h2, h3, h4, h5, h6⟩ := hx p hp
        ⟨h1, h2, h3, h4, h5, h6⟩
      have hready : commitsReady s core d = true := commitsReady_iff.mpr (fun p hp h hgr => by
        obtain rfl := Option.some.inj ((hnext p hp).granted.symm.trans hgr)
        rw [Ring.commitAll, Ring.settleTail_none _ (fun f hf => ((hnext p hp).only f hf).2) (hnext p hp).own]
        exact (hnext p hp).first)
      obtain ⟨u, hg, ht⟩ := completeCopy_turn hsrc (hno (by omega)) hns hq (by rwa [List.append_nil])
      obtain ⟨hends, hflag, hrings, hkept, hgroups⟩ := copy_rings hu hq.2.1 he (dst := []) hns hq hg hdk hn hnext hs
      exact ⟨_, (hgo hready).trans (congrArg Host.Outcome.next ht), hends, hflag,
        fun p hp => ⟨fun j a b ha hb _ => (hrings p hp).1 (a, b) (mem_zip_of_getElem ha hb), (hrings p hp).2⟩, hkept, hgroups⟩
    · intro hdk hr hah q gone n last from' dst hcore hw htot hsize hlen hd
      obtain ⟨u, hg, ht⟩ := completeCopy_turn hsrc (hno (by omega)) hns hq (by rwa [List.append_nil])
      obtain ⟨hmoved, hkept, hlast, hmore⟩ := copy_stream hu hq.2.1 he (dst := []) hns hq hg hdk hw hlen hd
      exact ⟨_, (hgo (hnone hr)).trans (congrArg Host.Outcome.next ht), fun j a b ha hb => hmoved (a, b) (mem_zip_of_getElem ha hb), hkept, hlast, hmore⟩
  · have hah : ¬Ahead s d.order (src ++ dst) := fun ⟨p, hp, hb⟩ => by simp [hheld p hp] at hb
    have hne : (src.zip dst).filter (toLine line) ≠ [] := by
      obtain ⟨j, p, hj, hp, hl⟩ := hex
      exact List.ne_nil_of_mem (List.mem_filter.mpr ⟨mem_zip_of_getElem (List.getElem?_eq_getElem hj) hp, toLine_iff.mpr ⟨p, rfl, hl⟩⟩)
    exact ⟨_, exec_lineRelease hu hh hns hq hown hsrc hdst hah hne, lineRelease_moves hns hq hn hd⟩

end Sys2Proof
end
